-- ==== Sys2Proof/Word.lean ====
section
/-! DEFINITION. The word types of the GY2 module (spec/00_scope.md R3, R4): every register, field and encoding is a
bit vector whose bit 0 is the least significant bit. -/
namespace Sys2Proof

/-- A set-up register, a descriptor word or a t register: 32 bits (R4, R128). -/
abbrev Word := BitVec 32

/-- A 64-bit value: a spool counter, a handle, a local count, an instruction word (R128, R132, R159). -/
abbrev DWord := BitVec 64

/-- One byte of memory. -/
abbrev Byte := BitVec 8

end Sys2Proof
end

