-- ==== Sys2Proof/Syntax.lean ====
section
/-! DEFINITION. The commands of the GY2 block: one constructor per row of spec/opcode_table.json, with the operands that
reach the module from outside or that name the unit concerned. Thread rows carry the fields of their instruction
word as R132 lays them out; the opcode field is the constructor. -/
namespace Sys2Proof

/-- Which sub-group issues (R116): the core, the block's residence number, the group in the block, and any lane of the
sub-group. `partner` names the group and a lane of a second sub-group of the same block re-packed into the same issue
slot (R119). -/
structure SgRef where
  core : Nat
  blk : Nat
  grp : Nat
  lane : Nat
  partner : Option (Nat × Nat) := none
  deriving DecidableEq, Repr

/-- Format R (R132). -/
structure FormR where
  mod : BitVec 6
  g : BitVec 4
  d : BitVec 9
  a : BitVec 9
  b : BitVec 9
  c : BitVec 9
  ctl : BitVec 10
  deriving DecidableEq, Repr

/-- Format I (R132). -/
structure FormI where
  mod : BitVec 6
  g : BitVec 4
  d : BitVec 9
  a : BitVec 9
  imm : BitVec 28
  deriving DecidableEq, Repr

/-- Format L (R132); `rsv` is the reserved field [36:32]. -/
structure FormL where
  mod : BitVec 6
  g : BitVec 4
  d : BitVec 9
  rsv : BitVec 5
  imm : Word
  deriving DecidableEq, Repr

/-- Format M (R132). -/
structure FormM where
  mod : BitVec 6
  g : BitVec 4
  d : BitVec 9
  a : BitVec 9
  ord : BitVec 4
  off : BitVec 24
  deriving DecidableEq, Repr

/-- Format B (R132). -/
structure FormB where
  mod : BitVec 6
  g : BitVec 4
  a : BitVec 9
  tgt : BitVec 21
  join : BitVec 15
  jv : BitVec 1
  deriving DecidableEq, Repr

/-- Core cycles of an array since its last event, as R71 counts them: busy cycles, frozen cycles, and the frozen cycles of
each cause (R52). How many there are is timing, which arrives with the command. -/
structure ArrCycles where
  busy : Nat
  frozen : Nat
  feed : Nat
  drain : Nat
  wbq : Nat
  deriving DecidableEq, Repr

/-- Who reads the latched local counter (R422): a service core, the host, or a thread of context 0. -/
inductive Requester where
  | sc (n : Nat)
  | host
  | core (n : Nat)
  deriving DecidableEq, Repr

/-- The four kinds of invalidation (R419, R420). -/
inductive InvKind where
  | wt | famap | nt | ut
  deriving DecidableEq, Repr

/-- Answer of the adapter to a host read (R297, R299). -/
inductive HostStatus where
  | ok | refused | poison | unsupported
  deriving DecidableEq, Repr

/-- A fabric packet (R278, R279): header fields, extension words and data bytes. The packet type is the row's. -/
structure Packet where
  ptype : BitVec 4
  rsp : Bool
  status : BitVec 3
  dst : BitVec 24
  cls : Bool
  len : BitVec 7
  src : BitVec 24
  job : BitVec 16
  tag : BitVec 16
  epoch : BitVec 8
  ttl : BitVec 24
  ext : List Word
  data : List Byte
  deriving DecidableEq, Repr

/-- Where a reduction segment comes from (R230): a port, or this module's own queue of local segments. -/
inductive PairSource where
  | port (n : Nat) (p : Packet)
  | ownModule
  deriving DecidableEq, Repr

/-- One module's combined shard numerics record of a step (R82, R84). -/
structure NumRecord where
  step : Word
  dmax : BitVec 8
  zcnt : Word
  momFloor : Word
  deriving DecidableEq, Repr

/-- A service request (R318): the ring whose descriptor at HEAD is the request; the request's own argument words where
the spec lays them out (R337, R363, R378), read from ARG + 32. -/
structure SvcReq where
  ring : Nat
  arg : List Word
  deriving DecidableEq, Repr

/-- CREATE (R329). -/
structure CreateArg where
  ctx : Nat
  deriving DecidableEq, Repr

/-- Per-port settings of PLACE (R331). -/
structure PortPlace where
  lo : BitVec 24
  hi : BitVec 24
  peer : BitVec 24
  dateline : Bool
  jobport : Bool
  deriving DecidableEq, Repr

/-- PLACE (R331): the job tag, rank list, own rank, GRAN, per-port settings, the map registers, the fabric-map entries to
write, and the job's contexts. -/
structure PlaceArg where
  job : BitVec 16
  ranks : List (BitVec 24)
  rank : Nat
  gran : Bool
  ports : List PortPlace
  famapBase : BitVec 16
  exportBase : BitVec 23
  deviceId : BitVec 24
  entries : List (Nat × DWord)
  contexts : List Nat
  deriving DecidableEq, Repr

/-- A tree request (R332): all n trees of a sharded set, or the single tree of index `tree`; the data of the entries that
the request fixes (R232). -/
structure BuildArg where
  sharded : Bool
  tree : Nat
  ctx : Nat
  fmt : BitVec 2
  castf : Bool
  segs : BitVec 26
  leafBuf : DWord
  pairBuf : DWord
  dest : DWord
  spoolId : BitVec 14
  trigId : BitVec 14
  trigTarget : DWord
  trigInc : Word
  step : BitVec 16
  deriving DecidableEq, Repr

/-- CONFIGURE (R333). -/
structure CheckpointArg where
  ranges : List (Nat × Nat)
  groups : List Nat
  buddy : Option (BitVec 24)
  slotLpn : BitVec 14
  slotOff : Nat
  slotSize : Nat
  trigId : Nat
  trigTarget : Nat
  trigInc : Nat
  cpDone : Nat
  deriving DecidableEq, Repr

/-- What the recovery coordinators agree on and bring (R336): which module takes each lost module's rank, the new epoch, per
rank the STEPs of the slots that are VALID and not TORN (this module reads its own), the values that spool counters are re-armed
to, and the trigger targets of node-table and update-table entries. -/
structure RecoveryData where
  takers : List (BitVec 24 × BitVec 24)
  epoch : BitVec 8
  slots : List (List Word)
  spool : List (Nat × DWord)
  nodes : List (Nat × DWord)
  updates : List (Nat × DWord)
  deriving DecidableEq, Repr

/-- OPEN (R338): the buffer, the counters, and per data node its device id and credit word. -/
structure StreamArg where
  base : Nat
  slots : Nat
  slotSize : Nat
  staging : Nat
  consumer : Nat
  release : Nat
  nodes : List (BitVec 24 × BitVec 14 × BitVec 25)
  deriving DecidableEq, Repr

/-- What the power controller's estimators give it at an evaluation (R341, R349): the estimate of module power over the
last 1,000 counts, the estimated power of each partition, and the predicted module power after raising each partition
one step, all in watts. -/
structure PowerReading where
  est : Nat
  part : List Nat
  ifRaised : List Nat
  deriving DecidableEq, Repr

/-- An engine with a progress monitor (R395, codes 0x01 to 0x06). -/
inductive EngineUnit where
  | array (core arr : Nat)
  | stream (core : Nat)
  | atomic (core : Nat)
  | thread (core : Nat)
  | adder (mc : Nat)
  | updateUnit (mc : Nat)
  | factor (p : Nat)
  | link
  deriving DecidableEq, Repr

/-- What a wait monitor watches (R395, code 0x08). -/
inductive WaitUnit where
  | sub (core blk grp lane : Nat)
  | ring (r : Nat)
  deriving DecidableEq, Repr

/-- Causes of a chip reset (R404). -/
inductive ResetReason where
  | escalation | watchdog | thermalTrip | startFallback | trayReset | mooredCommand | selfTest | resetCtrl
  | contextZero | powerOn | standbyExit
  deriving DecidableEq, Repr

/-- Where the gondola firmware places, at S8, what the spec lets it place (R114, R390, R419): the launch map, the error ring
when it has to move, and the tables; BASE fields as the registers hold them. -/
structure Places where
  lmap : Nat
  errBase : BitVec 28
  wt : BitVec 28
  nt : BitVec 28
  ntSize : BitVec 21
  gt : BitVec 28
  gtSize : BitVec 13
  ut : BitVec 28
  utSize : BitVec 17
  drogue : BitVec 28
  deriving DecidableEq, Repr

/-- How a self-test step's work ended (R366, R367): passed, with the array map that S3 found (cores and value words) and
what S8 places, or failed with a cause and a unit; for a core's arrays, `arr` (0 F, 1 D, 2 W) and the physical column. -/
inductive StepResult where
  | pass (arrayMap : List (Nat × Word)) (places : Places)
  | fail (detail : BitVec 8) (unit : BitVec 16) (arr : BitVec 2 := 0) (col : BitVec 4 := 0)
  deriving DecidableEq, Repr

/-- The two SPDM transports (R383). -/
inductive Transport where
  | sideband | smbus
  deriving DecidableEq, Repr

/-- The two paths of a management command (R437). -/
inductive MgmtPath where
  | smbus | sideband
  deriving DecidableEq, Repr

/-- The commands: the rows of spec/opcode_table.json in the table's order. -/
inductive Instr where
  /-- ADD (R137): Integer add of two operands modulo 2^32, or 2^64 when W is set. -/
  | add (sg : SgRef) (f : FormR)
  /-- SUB (R137): Integer subtract, modulo as ADD. -/
  | sub (sg : SgRef) (f : FormR)
  /-- MULLO (R137): Low 32 bits of an integer product. -/
  | mullo (sg : SgRef) (f : FormR)
  /-- MULHI (R137): High 32 bits of a 64-bit integer product, signed when S is set. -/
  | mulhi (sg : SgRef) (f : FormR)
  /-- MULADD (R137): Integer a times b plus c modulo 2^32. -/
  | muladd (sg : SgRef) (f : FormR)
  /-- MINMAX (R137): Integer minimum or maximum, signed or unsigned. -/
  | minmax (sg : SgRef) (f : FormR)
  /-- LOGIC (R137): Bitwise and, or, xor, and-not or not. -/
  | logic (sg : SgRef) (f : FormR)
  /-- SHIFT (R137): Left, logical right or arithmetic right shift. -/
  | shift (sg : SgRef) (f : FormR)
  /-- FIELD (R137): Bit-field extract or insert. -/
  | field (sg : SgRef) (f : FormR)
  /-- BITOP (R137): Population count, leading zeros or bit reverse. -/
  | bitop (sg : SgRef) (f : FormR)
  /-- CMP (R137): Integer compare that writes a predicate. -/
  | cmp (sg : SgRef) (f : FormR)
  /-- PICK (R137): Selects one of two operands by a predicate. -/
  | pick (sg : SgRef) (f : FormR)
  /-- MOV (R137): Register move. -/
  | mov (sg : SgRef) (f : FormR)
  /-- SETK (R137): Loads a 32-bit immediate. -/
  | setk (sg : SgRef) (f : FormL)
  /-- ADDK (R137): Adds a sign-extended 28-bit immediate. -/
  | addk (sg : SgRef) (f : FormI)
  /-- ADD_F (R138): FP32 add, rounded once to nearest-even. -/
  | addF (sg : SgRef) (f : FormR)
  /-- MUL_F (R138): FP32 multiply. -/
  | mulF (sg : SgRef) (f : FormR)
  /-- FMA_F (R138): FP32 fused multiply-add, rounded once. -/
  | fmaF (sg : SgRef) (f : FormR)
  /-- MIN_F (R138): FP32 minimumNumber with -0 below +0. -/
  | minF (sg : SgRef) (f : FormR)
  /-- MAX_F (R138): FP32 maximumNumber with -0 below +0. -/
  | maxF (sg : SgRef) (f : FormR)
  /-- CMP_F (R138): FP32 compare that writes a predicate. -/
  | cmpF (sg : SgRef) (f : FormR)
  /-- ADDERR_F (R77): Returns the exact rounding error of an FP32 sum. -/
  | adderrF (sg : SgRef) (f : FormR)
  /-- MULERR_F (R77): Returns the rounding error of an FP32 product. -/
  | mulerrF (sg : SgRef) (f : FormR)
  /-- TOINT_F (R138): Converts FP32 to an integer with saturation. -/
  | tointF (sg : SgRef) (f : FormR)
  /-- TOFLT (R138): Converts an integer to FP32 under nearest-even. -/
  | toflt (sg : SgRef) (f : FormR)
  /-- POW2_F (R139): Special-function exp2 over 4 issue cycles. -/
  | pow2F (sg : SgRef) (f : FormR)
  /-- LOG2_F (R139): Special-function log2. -/
  | log2F (sg : SgRef) (f : FormR)
  /-- RECIP_F (R139): Special-function reciprocal. -/
  | recipF (sg : SgRef) (f : FormR)
  /-- RSQRT_F (R139): Special-function reciprocal square root. -/
  | rsqrtF (sg : SgRef) (f : FormR)
  /-- WIDEN (R141): Widens a packed element to FP32 with scale and per-tensor exponent. -/
  | widen (sg : SgRef) (f : FormR)
  /-- NARROW (R141): Narrows an FP32 value to an unscaled or per-tensor-scaled code. -/
  | narrow (sg : SgRef) (f : FormR)
  /-- NARROWB (R142): Block-scaled narrowing across lanes with a shared scale per block. -/
  | narrowb (sg : SgRef) (f : FormR)
  /-- LD (R144): Loads from local store, cluster-local, virtual address or wide buffer. -/
  | ld (sg : SgRef) (f : FormM)
  /-- ST (R144): Stores to local store, cluster-local, virtual address or wide buffer. -/
  | st (sg : SgRef) (f : FormM)
  /-- ST_N (R144): Counted store performed at the holding memory, increasing a spool counter there. -/
  | stN (sg : SgRef) (f : FormR)
  /-- ACC_N (R144): Adds one FP32 word at its memory controller and counts 4 bytes. -/
  | accN (sg : SgRef) (f : FormR)
  /-- CINV (R146): Writes back and invalidates cache-part lines overlapping a range. -/
  | cinv (sg : SgRef) (f : FormR)
  /-- CWB (R146): Writes back modified cache-part lines overlapping a range. -/
  | cwb (sg : SgRef) (f : FormR)
  /-- AOP (R148): Atomic operation combined over the sub-group's lanes by a fixed tree. -/
  | aop (sg : SgRef) (f : FormR)
  /-- JMP (R149): Guarded branch that may split the sub-group with an optional join. -/
  | jmp (sg : SgRef) (f : FormB)
  /-- JMPR (R149): Indirect branch per thread, splitting by target. -/
  | jmpr (sg : SgRef) (f : FormB)
  /-- CALL (R149): Saves the return address and branches. -/
  | call (sg : SgRef) (f : FormB)
  /-- END (R149): The thread exits. -/
  | endThread (sg : SgRef) (f : FormR)
  /-- CEDE (R149): Scheduling hint with no effect on results. -/
  | cede (sg : SgRef) (f : FormR)
  /-- NOP (R149): No operation. -/
  | nop (sg : SgRef) (f : FormR)
  /-- PRED (R149): Logical operation on predicates. -/
  | pred (sg : SgRef) (f : FormR)
  /-- TALLY (R150): Votes ANY, ALL or MASK over participating lanes. -/
  | tally (sg : SgRef) (f : FormR)
  /-- LXCH (R150): Exchanges a value from a source lane. -/
  | lxch (sg : SgRef) (f : FormR)
  /-- RDL (R150): Reads one lane's t register into a u register. -/
  | rdl (sg : SgRef) (f : FormR)
  /-- PACK (R151): Packs narrow codes of lanes into a byte stream. -/
  | pack (sg : SgRef) (f : FormR)
  /-- RALLY (R152): Participating threads arrive at a block or block-train barrier. -/
  | rally (sg : SgRef) (f : FormR)
  /-- BARRIER_COMPLETE (R120): A barrier completes once every thread has arrived or exited, and waiters resume. -/
  | barrierComplete (core blk : Nat) (train : Bool) (id : Nat)
  /-- ARR_ISSUE (R155): Reads, checks and queues an array-operation descriptor named by a handle. -/
  | arrIssue (sg : SgRef) (f : FormR)
  /-- HSET (R154): Sets a handle to state ADDRESS with a descriptor address. -/
  | hset (sg : SgRef) (f : FormR)
  /-- HGET (R154): Reads a handle's 64-bit value. -/
  | hget (sg : SgRef) (f : FormR)
  /-- SB_WAIT (R154): Makes the sub-group not ready while a handle is PENDING. -/
  | sbWait (sg : SgRef) (f : FormR)
  /-- SB_WAIT_READY (R154): A sub-group waiting on a handle becomes ready in the cycle after DONE. -/
  | sbWaitReady (sg : SgRef)
  /-- SB_TEST (R154): Sets a predicate unless a handle is PENDING. -/
  | sbTest (sg : SgRef) (f : FormR)
  /-- HCLR (R154): Sets a handle INVALID. -/
  | hclr (sg : SgRef) (f : FormR)
  /-- STR_ISSUE (R157): Reads, checks and queues a stream-engine copy descriptor. -/
  | strIssue (sg : SgRef) (f : FormR)
  /-- SPL_RD (R159): Reads a spool counter including POISON. -/
  | splRd (sg : SgRef) (f : FormR)
  /-- SPL_WAIT (R159): Waits until a spool counter reaches a target or is poisoned. -/
  | splWait (sg : SgRef) (f : FormR)
  /-- SPL_WAIT_SATISFIED (R222): A waiting SPL.WAIT becomes ready at the satisfying counter change and acts as a device-scope acquire. -/
  | splWaitSatisfied (sg : SgRef)
  /-- SPL_ADD (R159): Adds to a spool counter, saturating, ignored when poisoned. -/
  | splAdd (sg : SgRef) (f : FormR)
  /-- SPL_SET (R159): Sets a spool counter's count and clears POISON. -/
  | splSet (sg : SgRef) (f : FormR)
  /-- SRD (R161): Reads an identity or system value by selector, clearing LSTAT when it is read. -/
  | srd (sg : SgRef) (f : FormR)
  /-- FENCE (R162): Release or acquire fence at a scope. -/
  | fence (sg : SgRef) (f : FormR)
  /-- ARRAY_OP_START (R50): A queued array operation begins its cycle 0 when the queue order and drain allow. -/
  | arrayOpStart (core arr : Nat) (held : Nat)
  /-- ARRAY_RECONFIGURE (R60): An array changes shape over 8 cycles after the running operation has drained. -/
  | arrayReconfigure (core arr : Nat)
  /-- TILE_CONVERT_DONE (R67): The last row of a tile is converted and the tile is written, staged or discarded for replay. -/
  | tileConvertDone (core arr : Nat) (cyc : ArrCycles)
  /-- TILE_REFEED (R67): A discarded tile is fed again once the feed window allows. -/
  | tileRefeed (core arr : Nat)
  /-- REPLAY_STAGE_COPY (R67): A replay stage is copied to its destination once its granules are free, then released. -/
  | replayStageCopy (core arr : Nat)
  /-- SPARSE_BADLIST (R65): An invalid sparse list entry reaching the feeder ends the operation with BADLIST. -/
  | sparseBadlist (core : Nat)
  /-- ARRAY_OP_COMPLETE (R70): An array operation writes its completion record, marks its handle DONE and increases its spool counter. -/
  | arrayOpComplete (core arr : Nat) (cyc : ArrCycles)
  /-- DROGUE_RECOMPUTE (R88): A captured tile is recomputed in FP32 on an idle array of the core. -/
  | drogueRecompute (core slot arr : Nat)
  /-- DROGUE_COMPARE (R89): A completed recomputation is compared element by element into the histogram. -/
  | drogueCompare (core slot : Nat)
  /-- COPY_START (R209): A captured stream descriptor starts running in issue order when a run slot is free. -/
  | copyStart (core : Nat) (id : Nat)
  /-- COPY_SPOOL_STEP (R213): A copy increases its spool counter by bytes once they are visible at the holder. -/
  | copySpoolStep (core : Nat) (id : Nat) (bytes : Nat)
  /-- SCATTER_BADLIST (R203): A list entry that leaves the destination or breaks scale rules ends the copy with BADLIST. -/
  | scatterBadlist (core : Nat) (id : Nat)
  /-- COPY_COMPLETE (R212): A copy writes its completion record and its handle becomes DONE. -/
  | copyComplete (core : Nat) (id : Nat)
  /-- ALLOCATION_RELEASE (R158): An exited block's allocation and wide-buffer ownership are released once its pending operations complete. -/
  | allocationRelease (core blk : Nat)
  /-- BLOCK_PLACE (R113): A block or block train is placed on a core or cluster once capacity allows. -/
  | blockPlace (launch : Nat) (cores : List Nat)
  /-- SPLIT_CHANGE (R111): A core with no resident blocks writes back and invalidates its cache part and applies a new split. -/
  | splitChange (core : Nat) (split : Nat)
  /-- CORE_IDLE (R407): A core idle for 1,024 cycles stops its clock. -/
  | coreIdle (core : Nat)
  /-- PARTITION_SLEEP (R407): An idle partition is put to sleep after SLEEP_CTRL.IDLE counts. -/
  | partitionSleep (p : Nat)
  /-- PARTITION_WAKE (R407): A sleeping partition wakes for a placement within 200 microseconds. -/
  | partitionWake (p : Nat)
  /-- SCRUB_READ (R174): A controller's background scrub reads a block with check and retry. -/
  | scrubRead (mc : Nat)
  /-- LPDDR6_RETRAIN (R170): Periodic data-clock retraining stops a channel for at most 1 microsecond. -/
  | lpddr6Retrain (die ch : Nat)
  /-- SPOOL_FILE_WRITE (R164): An 8-byte write to the spool file acts as SPL.SET; a shorter one is discarded and recorded. -/
  | spoolFileWrite (addr : Nat) (data : List Byte)
  /-- SETUP_REGISTER_WRITE (R5): A write to a set-up register without behaviour of its own stores, ignores or locks per its access code. -/
  | setupRegisterWrite (off : Nat) (v : Word)
  /-- RWC_VALUE_WRITE (R6): A write to an RWC value word is held pending. -/
  | rwcValueWrite (off : Nat) (v : Word)
  /-- RWC_COMPLEMENT_WRITE (R6): A complement-word write commits the pending value if it matches, else drops it and raises an integrity event. -/
  | rwcComplementWrite (off : Nat) (v : Word)
  /-- BROADCAST_WRITE (R413): A broadcast-all aperture write is applied to every present cluster block in ascending order. -/
  | broadcastWrite (x : Nat) (v : Word)
  /-- GROUP_APERTURE_WRITE (R414): A group aperture write is applied to the clusters selected by GROUP_MASK. -/
  | groupApertureWrite (x : Nat) (v : Word)
  /-- LCOUNT_LO_READ (R422): Reading LCOUNT_LO latches the high counter word for that requester. -/
  | lcountLoRead (rq : Requester)
  /-- WT_INV (R419): Invalidates one context's cached windows on every core. -/
  | wtInv (v : Word)
  /-- FAMAP_INV (R419): Invalidates one or every fabric-map cache entry on both dies. -/
  | famapInv (v : Word)
  /-- NT_INV (R419): Invalidates one or every cached node-table entry. -/
  | ntInv (v : Word)
  /-- UT_INV (R419): Invalidates one or every cached update-table entry. -/
  | utInv (v : Word)
  /-- INVALIDATION_COMPLETE (R420): An invalidation completes, its BUSY bit clears and any held invalidation write is applied. -/
  | invalidationComplete (kind : InvKind)
  /-- PART_CTRL_RESET (R415): Writing RESET starts a partition reset. -/
  | partCtrlReset (p : Nat)
  /-- RESET_CTRL_CHIP (R404): Writing CHIP starts a chip reset. -/
  | resetCtrlChip
  /-- ERR_BASE_WRITE (R390): Writing ERR_BASE re-arms the error ring and zeroes its source table. -/
  | errBaseWrite (v : Word)
  /-- ERR_RD_WRITE (R390): Writing ERR_RD consumes general records, discarding values beyond the written count. -/
  | errRdWrite (v : Word)
  /-- ERR_FATAL_CLEAR (R390): Writing CLR sets the fatal area's USED count to 0. -/
  | errFatalClear
  /-- CVT_COUNT_CLEAR_SAT (R41): Sets CVT_SAT_COUNT to 0. -/
  | cvtCountClearSat (core : Nat)
  /-- CVT_COUNT_CLEAR_INF (R41): Sets CVT_INF_COUNT to 0. -/
  | cvtCountClearInf (core : Nat)
  /-- CVT_COUNT_CLEAR_NAN (R41): Sets CVT_NAN_COUNT to 0. -/
  | cvtCountClearNan (core : Nat)
  /-- ARR_COUNT_CLEAR_F (R71): Sets every F-array counter to 0. -/
  | arrCountClearF (core : Nat)
  /-- ARR_COUNT_CLEAR_D (R71): Sets every D-array counter to 0. -/
  | arrCountClearD (core : Nat)
  /-- ARR_COUNT_CLEAR_W (R71): Sets every W-array counter to 0. -/
  | arrCountClearW (core : Nat)
  /-- CORE_COUNT_CLEAR_REPACK (R412): Sets REPACK to 0. -/
  | coreCountClearRepack (core : Nat)
  /-- FU_COUNT_CLEAR_DONE (R415): Sets FU_DONE to 0. -/
  | fuCountClearDone (p : Nat)
  /-- MC_COUNT_CLEAR_RETRY (R175): Sets MC_CRC_RETRY to 0. -/
  | mcCountClearRetry (mc : Nat)
  /-- MC_COUNT_CLEAR_POIS (R175): Sets MC_POISONED to 0. -/
  | mcCountClearPois (mc : Nat)
  /-- MC_COUNT_CLEAR_PREAD (R175): Sets MC_POISON_READ to 0. -/
  | mcCountClearPread (mc : Nat)
  /-- MC_COUNT_CLEAR_SCRUB (R175): Sets MC_SCRUB_PASS to 0. -/
  | mcCountClearScrub (mc : Nat)
  /-- RA_COUNT_CLEAR_ACC (R251): Sets RA_ACC to 0. -/
  | raCountClearAcc (mc : Nat)
  /-- RA_COUNT_CLEAR_PAIRS (R251): Sets RA_PAIRS to 0. -/
  | raCountClearPairs (mc : Nat)
  /-- RA_COUNT_CLEAR_SPILL (R251): Sets RA_SPILL to 0. -/
  | raCountClearSpill (mc : Nat)
  /-- RA_COUNT_CLEAR_SAT (R251): Sets RA_SAT to 0. -/
  | raCountClearSat (mc : Nat)
  /-- RA_COUNT_CLEAR_STALE (R251): Sets RA_STALE to 0. -/
  | raCountClearStale (mc : Nat)
  /-- RA_COUNT_CLEAR_EXTRA (R251): Sets RA_EXTRA to 0. -/
  | raCountClearExtra (mc : Nat)
  /-- RA_COUNT_CLEAR_DROPPED (R251): Sets RA_DROPPED to 0. -/
  | raCountClearDropped (mc : Nat)
  /-- UU_COUNT_CLEAR_PARAMS (R269): Sets UU_PARAMS to 0. -/
  | uuCountClearParams (mc : Nat)
  /-- UU_COUNT_CLEAR_FROZEN (R269): Sets UU_FROZEN to 0. -/
  | uuCountClearFrozen (mc : Nat)
  /-- UU_COUNT_CLEAR_PBLOCKS (R269): Sets UU_PBLOCKS to 0. -/
  | uuCountClearPblocks (mc : Nat)
  /-- UU_COUNT_CLEAR_MCLAMP (R269): Sets UU_MCLAMP to 0. -/
  | uuCountClearMclamp (mc : Nat)
  /-- UU_COUNT_CLEAR_SHARDS (R269): Sets UU_SHARDS to 0. -/
  | uuCountClearShards (mc : Nat)
  /-- UU_COUNT_CLEAR_SKEW (R269): Sets UU_SKEW to 0. -/
  | uuCountClearSkew (mc : Nat)
  /-- UU_COUNT_CLEAR_BUSY (R269): Sets UU_BUSY to 0. -/
  | uuCountClearBusy (mc : Nat)
  /-- FAB_COUNT_CLEAR_CRC_ERR (R293): Sets FAB_CRC_ERR to 0. -/
  | fabCountClearCrcErr (port : Nat)
  /-- FAB_COUNT_CLEAR_RESEND (R293): Sets FAB_RESEND to 0. -/
  | fabCountClearResend (port : Nat)
  /-- FAB_COUNT_CLEAR_NARROW (R293): Sets FAB_NARROW to 0. -/
  | fabCountClearNarrow (port : Nat)
  /-- FAB_COUNT_CLEAR_LOSS (R293): Sets FAB_LOSS to 0. -/
  | fabCountClearLoss (port : Nat)
  /-- FAB_COUNT_CLEAR_DROP (R293): Sets FAB_DROP to 0. -/
  | fabCountClearDrop (port : Nat)
  /-- SN_COUNT_CLEAR_CRC_ERR (R322): Sets SN_CRC_ERR to 0. -/
  | snCountClearCrcErr
  /-- SN_COUNT_CLEAR_RESEND (R322): Sets SN_RESEND to 0. -/
  | snCountClearResend
  /-- SN_COUNT_CLEAR_NARROW (R322): Sets SN_NARROW to 0. -/
  | snCountClearNarrow
  /-- SN_COUNT_CLEAR_LOSS (R322): Sets SN_LOSS to 0. -/
  | snCountClearLoss
  /-- SN_COUNT_CLEAR_DB (R322): Sets SN_DB to 0. -/
  | snCountClearDb
  /-- SN_COUNT_CLEAR_DB_POLL (R322): Sets SN_DB_POLL to 0. -/
  | snCountClearDbPoll
  /-- PWR_COUNT_CLEAR_PARTITION (R365): Sets every per-partition power counter to 0. -/
  | pwrCountClearPartition
  /-- PWR_COUNT_CLEAR_MODULE (R365): Sets every module power counter to 0. -/
  | pwrCountClearModule
  /-- PORT_RETRAIN (R293): Writing RETRAIN takes a port to DETECT. -/
  | portRetrain (port : Nat)
  /-- RING_START (R322): Starts a stopped ring with its indices zeroed. -/
  | ringStart (ring : Nat)
  /-- RING_STOP (R322): Starts no further descriptors; the ring is STOPPED once started ones complete. -/
  | ringStop (ring : Nat)
  /-- RING_RESUME (R308): Restarts dispatch of a halted ring at HEAD. -/
  | ringResume (ring : Nat)
  /-- RING_TAIL_WRITE (R304): A RING_TAIL write supplies a tail value to a device ring. -/
  | ringTailWrite (ring : Nat) (v : Word)
  /-- DOORBELL (R304): A doorbell value is checked as stale, overrun or accepted as the ring's TAIL. -/
  | doorbell (ring : Nat) (v : Word)
  /-- DOORBELL_POLL (R303): Every DB_POLL counts the module reads each running host ring's doorbell word. -/
  | doorbellPoll (ring : Nat)
  /-- HREAD_RESPONSE (R299): The adapter's answer to a host read arrives with data or a status. -/
  | hreadResponse (tag : Nat) (status : HostStatus) (data : List Byte)
  /-- MREAD (R300): A host read of a set-up window offset, returning 0 with a record for a hole. -/
  | mread (tag : Nat) (off : Nat)
  /-- MWRITE (R300): A host write accepted only for listed host-link registers, else discarded and recorded. -/
  | mwrite (off : Nat) (v : Word)
  /-- DESCRIPTOR_FETCH (R306): The module fetches and checks descriptors below TAIL. -/
  | descriptorFetch (ring : Nat) (n : Nat)
  /-- DESCRIPTOR_REFETCH (R306): A descriptor failing CRC or SEQ is read again after 100 counts, up to 8 times. -/
  | descriptorRefetch (ring : Nat)
  /-- LAUNCH (R309): Starts a kernel in the ring's context or refuses it with a launch status. -/
  | launch (ring : Nat)
  /-- LAUNCH_COMPLETE (R309): A launch completes when every block has exited and its operations have completed. -/
  | launchComplete (launch : Nat)
  /-- INTR_HOLD_EXPIRY (R321): At the end of a vector's hold, interrupts that fell due are sent as one. -/
  | intrHoldExpiry (vec : Nat)
  /-- COPY (R310): The link engine moves LEN bytes between host and device or device addresses. -/
  | copy (ring : Nat)
  /-- FILL (R311): The link engine writes an 8-byte pattern over a device range. -/
  | fill (ring : Nat)
  /-- LINK_COPY_COMPLETE (R310): A COPY or FILL finishes and its completion entry is written. -/
  | linkCopyComplete (ring : Nat) (seq : Word)
  /-- HINT (R346): A ballast hint pre-steps the cap and raises the partition rail guard. -/
  | hint (ring : Nat)
  /-- BALLAST_GUARD_END (R346): A hint's guard is removed HOLD counts after the load begins. -/
  | ballastGuardEnd (p : Nat)
  /-- PHASE (R313): Selects a phase-table entry and marks step boundaries or collective entry and exit. -/
  | phase (ring : Nat)
  /-- SPOOL_WAIT (R314): Holds a ring until a spool counter reaches its target or is poisoned. -/
  | spoolWait (ring : Nat)
  /-- SPOOL_WAIT_SATISFIED (R314): A waiting SPOOL_WAIT completes OK or with DPOISON and releases its ring. -/
  | spoolWaitSatisfied (ring : Nat)
  /-- SPOOL_SIGNAL (R315): After earlier descriptors complete, adds to or sets a spool counter as a device-scope release. -/
  | spoolSignal (ring : Nat)
  /-- RING_FENCE (R316): A FENCE descriptor completes when earlier descriptors have completed at its scope. -/
  | ringFence (ring : Nat)
  /-- UPDATE_GROUP_RATE (R267): Sets a group's pending rate pair on each named owner. -/
  | updateGroupRate (ring : Nat) (remote : List (Nat × Byte))
  /-- UPDATE_GROUP_SET (R267): Replaces a group's rule and decays on each named owner. -/
  | updateGroupSet (ring : Nat) (remote : List (Nat × Byte))
  /-- UPDATE_GROUP_ARM (R267): Writes a whole group record on each named owner. -/
  | updateGroupArm (ring : Nat) (remote : List (Nat × Byte))
  /-- SORNAL_LINK_LOSS (R301): Loss of the Sornal link halts host rings with DLINK and discards unacknowledged traffic. -/
  | sornalLinkLoss
  /-- FLIT_RECEIVE (R272): A received flit is CRC-checked, accepted in sequence, and its ACK, NAK and credits applied. -/
  | flitReceive (lk : Nat) (flit : List Byte)
  /-- RESEND_TIMEOUT (R273): After 80 counts without ACK progress the sender re-sends from ACK + 1. -/
  | resendTimeout (lk : Nat)
  /-- LANE_BAD (R275): A lane loses signal or exceeds its check-word failures and becomes bad. -/
  | laneBad (lk : Nat) (lane : Nat)
  /-- LINK_LOSS (R276): A port in UP loses its link after 200 counts without a good flit and enters LOST. -/
  | linkLoss (lk : Nat)
  /-- PORT_SIGNAL_DETECT (R277): A port in DETECT finds signal on a half and moves to EQUALISE. -/
  | portSignalDetect (lk : Nat) (lanes : BitVec 8)
  /-- DETECT_TIMEOUT (R277): A port without signal for 10 ms goes DOWN. -/
  | detectTimeout (lk : Nat)
  /-- EQUALISE_DONE (R277): Equalisation ends within 2 ms and the port moves to WIDTH. -/
  | equaliseDone (lk : Nat) (lanes : BitVec 8)
  /-- WIDTH_AGREED (R277): The two sides agree a width and exchange identities, or the port goes DOWN. -/
  | widthAgreed (lk : Nat) (lanes : BitVec 8) (port : BitVec 4) (serial : BitVec 128)
  /-- INIT_READY (R277): Both sides are ready and the port enters UP. -/
  | initReady (lk : Nat)
  /-- LOST_RETRY (R277): A LOST port returns to DETECT after 1 ms. -/
  | lostRetry (lk : Nat)
  /-- DOWN_RETRY (R277): A DOWN port returns to DETECT after 100 ms. -/
  | downRetry (lk : Nat)
  /-- WRITE (R279): A fabric WRITE is checked, routed or performed and answered. -/
  | write (port : Nat) (p : Packet)
  /-- READ (R279): A fabric READ is checked, routed or performed and answered with data. -/
  | read (port : Nat) (p : Packet)
  /-- ACCUMULATE (R229): A fabric ACCUMULATE adds FP32 words at the controller and counts them. -/
  | accumulate (port : Nat) (p : Packet)
  /-- PAIR_ACCUMULATE (R233): A reduction segment arrives at a node-table entry and is staged, summed, forwarded or dropped. -/
  | pairAccumulate (src : PairSource)
  /-- ATOMIC (R279): A fabric ATOMIC is performed at the holder and answered with the returned value. -/
  | atomic (port : Nat) (p : Packet)
  /-- SPOOL_NOTIFY (R280): A SPOOL-NOTIFY increases its counter after earlier writes from its source are performed. -/
  | spoolNotify (port : Nat) (p : Packet)
  /-- FABRIC_RESPONSE (R282): A response arrives and completes or faults the outstanding request. -/
  | fabricResponse (port : Nat) (p : Packet)
  /-- LINE_CUT (R289): A received line-cut notice is checked, applied and flooded on. -/
  | lineCut (port : Nat) (p : Packet)
  /-- FABRIC_REQUEST_TIMEOUT (R395): A fabric request without a response for HANG_REQ completes as NOROUTE. -/
  | fabricRequestTimeout (tag : Nat)
  /-- LEAF_FIRE (R237): A LEAF entry fires on its trigger counter and sends its segments up the tree. -/
  | leafFire (idx : Nat)
  /-- CAST_FIRE (R238): A CAST entry fires and sends its segments down from the local root. -/
  | castFire (idx : Nat)
  /-- FACTOR_FIRE (R245): A FACTOR entry fires and is queued on its partition's factor unit. -/
  | factorFire (idx : Nat)
  /-- GRAM (R246): The factor unit computes the symmetric Gram matrix of P. -/
  | gram (p : Nat)
  /-- ORTHO (R247): The factor unit runs Cholesky with column dropping and orthonormalises P. -/
  | ortho (p : Nat)
  /-- FACTOR_COMPLETE (R245): The factor unit writes OUT and the record and increases or poisons SPOOL_ID. -/
  | factorComplete (p : Nat)
  /-- SHARD_FIRE (R262): A SHARD entry fires and is handled as bad group, poisoned, skewed or updated. -/
  | shardFire (idx : Nat)
  /-- SHARD_UPDATE_COMPLETE (R266): A shard update writes its records and increases or poisons DONE_ID. -/
  | shardUpdateComplete (idx : Nat)
  /-- CHECKPOINT_FIRE (R333): The checkpoint trigger fires and the ranges are copied to the buddy's slot. -/
  | checkpointFire (ck : Nat)
  /-- RECOVERY_START (R336): On FAB_PEER_LOST the recovery coordinator sets RECOVERING and stops and agrees. -/
  | recoveryStart
  /-- RECOVERY_RANK_TAKEN (R336): A module takes the lost rank and recovery writes the epoch, restores and re-arms. -/
  | recoveryRankTaken (d : RecoveryData)
  /-- NUMERICS_SERVICE_STEP (R84): The numerics service combines shard records and may move a group's update exponent. -/
  | numericsServiceStep (group : Nat) (remote : List NumRecord)
  /-- INPUT_BATCH_ARRIVAL (R338): The input relay checks a batch header and counts or poisons the consumer counter. -/
  | inputBatchArrival (stream : Nat)
  /-- INPUT_SLOT_FREED (R338): A freed slot returns a credit to its data node. -/
  | inputSlotFreed (stream : Nat)
  /-- CREATE (R329): Context service request creating a context. -/
  | create (rq : SvcReq) (a : CreateArg)
  /-- DESTROY (R330): Context service request destroying a context. -/
  | destroy (rq : SvcReq) (ctx : Nat)
  /-- BIND_RING (R329): Context service request binding a ring to a context. -/
  | bindRing (rq : SvcReq) (ring ctx : Nat)
  /-- UNBIND_RING (R329): Context service request unbinding a ring. -/
  | unbindRing (rq : SvcReq) (ring : Nat)
  /-- SET_WINDOW (R329): Context service request writing a window entry. -/
  | setWindow (rq : SvcReq) (ctx idx : Nat) (words : List Word)
  /-- GRANT_SPOOL (R329): Context service request granting a spool range. -/
  | grantSpool (rq : SvcReq) (ctx first last : Nat)
  /-- PLACE (R331): Job placement applies fabric job, ports, map registers and GLOBAL and sets PLACED. -/
  | place (rq : SvcReq) (a : PlaceArg)
  /-- JOB_RELEASE (R331): Job placement RELEASE clears GLOBAL, JOBPORT and PLACED. -/
  | jobRelease (rq : SvcReq)
  /-- BUILD (R332): The collective coordinator builds a tree set and allocates node entries. -/
  | build (rq : SvcReq) (a : BuildArg)
  /-- COLLECTIVE_ARM (R332): Writes a tree set's entries with every segment EMPTY and invalidates them. -/
  | collectiveArm (rq : SvcReq) (set : Nat)
  /-- DISARM (R332): Sets a tree set's entries to KIND 0. -/
  | disarm (rq : SvcReq) (set : Nat)
  /-- CONFIGURE (R333): Configures buddy checkpoints. -/
  | configure (rq : SvcReq) (a : CheckpointArg)
  /-- CHECKPOINT_STOP (R329): Checkpoint service request stopping checkpoints. -/
  | checkpointStop (rq : SvcReq) (ck : Nat)
  /-- QUERY (R329): Checkpoint service request returning checkpoint state. -/
  | query (rq : SvcReq) (ck : Nat)
  /-- RECOVERY_STATUS (R329): Recovery service request returning recovery state. -/
  | recoveryStatus (rq : SvcReq)
  /-- RECOVERY_WAIT (R336): Recovery WAIT names a spare and completes when recovery ends. -/
  | recoveryWait (rq : SvcReq) (spare : Nat)
  /-- ABANDON (R336): Ends recovery and completes WAIT with SLOST. -/
  | abandon (rq : SvcReq)
  /-- NUMERICS_ENABLE (R337): Places a group under the numerics service. -/
  | numericsEnable (rq : SvcReq) (group : Nat) (recs : List Nat)
  /-- NUMERICS_DISABLE (R337): Returns a group to software. -/
  | numericsDisable (rq : SvcReq) (group : Nat)
  /-- DROGUE (R337): Writes a drogue entry's configuration for an owned tag. -/
  | drogue (rq : SvcReq) (tag : Nat) (cfg : Word)
  /-- TAGS (R337): Grants a context a range of drogue tags. -/
  | tags (rq : SvcReq)
  /-- SET_CAP (R363): Commits the software power cap. -/
  | setCap (rq : SvcReq)
  /-- CAP_DEFERRAL_EXPIRY (R351): A pending cap takes effect 2 ms after it was first committed. -/
  | capDeferralExpiry
  /-- SET_MODE (R363): Sets tethered or free-flight mode. -/
  | setMode (rq : SvcReq)
  /-- SET_PHASES (R363): Writes phase-table entries. -/
  | setPhases (rq : SvcReq)
  /-- READ_POWER (R363): Returns caps, window and partition status. -/
  | readPower (rq : SvcReq)
  /-- OPEN (R338): Opens an input relay stream. -/
  | openStream (rq : SvcReq) (a : StreamArg)
  /-- CLOSE (R338): Stops an input relay stream after its last accepted batch. -/
  | closeStream (rq : SvcReq) (stream : Nat)
  /-- ENTER (R330): Waits until only context 0 has work and sets DIAG. -/
  | enter (rq : SvcReq)
  /-- EXIT (R329): Leaves the diagnostic state. -/
  | exit (rq : SvcReq)
  /-- SELFTEST (R378): Writes the result and starts a chip reset running self-test with its flags. -/
  | selftest (rq : SvcReq)
  /-- POWER_EVALUATION (R341): Every 1,000 counts the controller chooses each partition's point from its ceilings. -/
  | powerEvaluation (m : PowerReading)
  /-- DIVIDER_CHANGE (R343): A partition's divider changes at a core-cycle boundary after the decision. -/
  | dividerChange (p : Nat)
  /-- RAIL_SETTLED (R343): A partition rail reaches its new voltage after a ramp. -/
  | railSettled (p : Nat)
  /-- TELEMETRY_WINDOW (R353): Each 100,000-count window compares estimated and measured power. -/
  | telemetryWindow (e : Nat) (m : Option Nat)
  /-- DROOP_WARNING (R355): A rail below the warning level starts stretching within 2 core cycles. -/
  | droopWarning (p : Nat) (mv : Nat)
  /-- DROOP_HOLD_EXPIRY (R355): After 10 microseconds above the warning level stretching ends and is counted. -/
  | droopHoldExpiry (p : Nat)
  /-- DROOP_RESET (R356): A rail below its reset level resets its partition. -/
  | droopReset (p : Nat) (mv : Nat)
  /-- SENSOR_SAMPLE (R357): Every 100 counts partition temperatures are sampled and thermal ceilings updated. -/
  | sensorSample (temps : List (List (Option Nat))) (others : List Nat)
  /-- ENGINE_HANG (R398): An engine progress monitor expires and starts the escalation ladder. -/
  | engineHang (unit : EngineUnit) (waited : DWord)
  /-- ESCALATION_TIMEOUT (R398): A reset that does not complete within its level's limit escalates. -/
  | escalationTimeout (unit : EngineUnit)
  /-- WAIT_MONITOR_EXPIRY (R396): A wait monitor writes a HANG record at its limit and at each doubling. -/
  | waitMonitorExpiry (w : WaitUnit) (waited : DWord)
  /-- CONTEXT_RESET (R400): Stops, drains and releases one context's work and state. -/
  | contextReset (ctx : Nat)
  /-- ENGINE_RESET (R402): Resets a hung engine after resetting its contexts. -/
  | engineReset (unit : EngineUnit)
  /-- PARTITION_RESET (R403): Resets a partition's contexts, powers it down and up and re-applies gondola settings. -/
  | partitionReset (p : Nat)
  /-- CHIP_RESET (R405): Sends a SELF cut, enters self-refresh if kept, resets and runs a reset start. -/
  | chipReset (reason : ResetReason) (straps : BitVec 5)
  /-- POWER_CYCLE_REQUEST (R406): Level 5 sets PCYC_REQ, records PCYCLE, asserts ALERT and moors. -/
  | powerCycleRequest
  /-- WATCHDOG_EXPIRY (R326): A service core not checking in for 100 ms is recorded fatal and a chip reset begins. -/
  | watchdogExpiry (sc : Nat)
  /-- ERROR_RECORD_WRITE (R391): The recorder writes one latched report to the ring every 8 cycles. -/
  | errorRecordWrite (src : Nat)
  /-- COLD_START (R368): The input rising into range powers the keeper and begins a start. -/
  | coldStart (straps : BitVec 5)
  /-- STEP_TIME_LIMIT (R366): A self-test step exceeding its limit fails with DETAIL 0xF0. -/
  | stepTimeLimit
  /-- RESTART (R381): Moored command starting a chip reset. -/
  | restart
  /-- LOAD_IMAGE (R381): Moored command loading and checking a host image and continuing at S8. -/
  | loadImage
  /-- PERSIST_IMAGE (R381): Moored command writing a checked image to flash and restarting. -/
  | persistImage
  /-- LOAD_RECORD (R381): Moored command writing a checked device record and restarting. -/
  | loadRecord
  /-- CLEAR_FALLBACKS (R381): Moored command clearing every fallback level and restarting. -/
  | clearFallbacks
  /-- HOLD (R381): Makes the next start stop after S6. -/
  | hold
  /-- RELEASE (R381): Cancels HOLD. -/
  | release
  /-- GET_VERSION (R383): SPDM request answered with version 1.2, resetting its transport's connection. -/
  | getVersion (tr : Transport) (req : List Byte)
  /-- GET_CAPABILITIES (R383): SPDM capabilities request. -/
  | getCapabilities (tr : Transport) (req : List Byte)
  /-- NEGOTIATE_ALGORITHMS (R383): SPDM algorithm negotiation. -/
  | negotiateAlgorithms (tr : Transport) (req : List Byte)
  /-- GET_DIGESTS (R383): SPDM digest request for slot 0. -/
  | getDigests (tr : Transport) (req : List Byte)
  /-- GET_CERTIFICATE (R383): SPDM certificate chain request in pieces. -/
  | getCertificate (tr : Transport) (req : List Byte)
  /-- CHALLENGE (R383): SPDM challenge signed with the identity key. -/
  | challenge (tr : Transport) (req : List Byte)
  /-- GET_MEASUREMENTS (R384): SPDM measurement request. -/
  | getMeasurements (tr : Transport) (req : List Byte)
  /-- UNSUPPORTED_REQUEST (R383): Any other SPDM request is answered with ERROR UnsupportedRequest. -/
  | unsupportedRequest (tr : Transport) (req : List Byte)
  /-- PROGRESS (R434): Management read of START_PROGRESS. -/
  | progress (path : MgmtPath)
  /-- MOD_STATUS (R435): Management read of MOD_STATUS. -/
  | modStatus (path : MgmtPath)
  /-- LAST_RESULT (R434): Management read of the last write's result. -/
  | lastResult (path : MgmtPath)
  /-- TRAY_CAP (R348): Management write committing the tray cap at once. -/
  | trayCap (path : MgmtPath) (data : List Byte) (pecOk : Bool)
  /-- CAP_READ (R434): Management read of the three caps. -/
  | capRead (path : MgmtPath)
  /-- POWER_READ (R434): Management read of input voltage, current, power and temperature. -/
  | powerRead (path : MgmtPath) (vin iin : BitVec 16)
  /-- SENSE_MAP (R434): Management read of open sense pairs. -/
  | senseMap (path : MgmtPath)
  /-- STANDBY (R407): Requests module standby with DRAMs in self-refresh. -/
  | standby (path : MgmtPath) (data : List Byte) (pecOk : Bool)
  /-- ALERT_CLEAR (R435): Clears the named W1C bits of MOD_STATUS. -/
  | alertClear (path : MgmtPath) (data : List Byte) (pecOk : Bool)
  /-- SERIAL (R434): Management read of the module serial number. -/
  | serial (path : MgmtPath)
  /-- MGMT_BUS_STUCK (R437): A bus line low for 35 ms moves management to the Sornal sideband. -/
  | mgmtBusStuck
  /-- MGMT_BUS_RESTORED (R437): Both lines high for 100 ms return management to SMBus. -/
  | mgmtBusRestored
  /-- SMBCLK_TIMEOUT (R436): The module releases the bus after SMBCLK is held low 25 ms in a transaction. -/
  | smbclkTimeout
  /-- RESET_PIN (R436): RESET# low for 10 microseconds starts a chip reset, or exits standby. -/
  | resetPin
  /-- INPUT_TURN_OFF (R429): An input below turn-off for over 20 microseconds, over-voltage or removal ends power. -/
  | inputTurnOff
  /-- SENSE_OPEN (R431): An open sense pair falls back to local sense and raises ALERT. -/
  | senseOpen (pair : Nat)
  /-- SENSE_RESTORED (R431): A sense pair reading correctly for 1,000 samples returns to remote sense. -/
  | senseRestored (pair : Nat)
  /-- REFCLK_LOSS (R438): Loss of root PLL lock stops the clocks, sets REFLOSS and requests a power cycle. -/
  | refclkLoss
  /-- RESET_PIN_RELEASE (R436): RESET# returning high after being held low lets the held chip reset proceed into its reset start. -/
  | resetPinRelease
  /-- SELF_TEST_STEP_END (R366): A self-test step's work finishes, passing or failing, and the next step begins or the fallback or moored path is taken. -/
  | selfTestStepEnd (r : StepResult)
  /-- UNDEFINED_INSTRUCTION (R163): An instruction with an undefined opcode or function issues and raises an ILLEGAL fault. -/
  | undefinedInstruction (sg : SgRef) (w : DWord)
  /-- VENDOR_DEFINED_MESSAGE_SUPPORT (R437): An MCTP vendor-defined message support request is answered with Kyfort's IANA enterprise number. -/
  | vendorDefinedMessageSupport (tr : Transport)
  deriving DecidableEq, Repr

end Sys2Proof
end

