-- ==== Sys2Proof/Decode.lean ====
section
/-! DEFINITION. The table gives no row any bits (every row's field list is empty), so no table word spells a command. A thread
instruction's word is read by its formats and opcode (spec/07, R132, R163). -/
namespace Sys2Proof

/-- The command that a word of the table's bits spells: none, since no row of spec/opcode_table.json has bits. -/
def decodeTableWord (_nbits _w : Nat) : Option Instr := none

/-! ## Thread instruction words (R132) -/

/-- Format R. -/
def formR (w : DWord) : FormR :=
  { mod := w.extractLsb' 50 6, g := w.extractLsb' 46 4, d := w.extractLsb' 37 9, a := w.extractLsb' 28 9
    b := w.extractLsb' 19 9, c := w.extractLsb' 10 9, ctl := w.extractLsb' 0 10 }

/-- Format I. -/
def formI (w : DWord) : FormI :=
  { mod := w.extractLsb' 50 6, g := w.extractLsb' 46 4, d := w.extractLsb' 37 9, a := w.extractLsb' 28 9
    imm := w.extractLsb' 0 28 }

/-- Format L. -/
def formL (w : DWord) : FormL :=
  { mod := w.extractLsb' 50 6, g := w.extractLsb' 46 4, d := w.extractLsb' 37 9, rsv := w.extractLsb' 32 5
    imm := w.extractLsb' 0 32 }

/-- Format M. -/
def formM (w : DWord) : FormM :=
  { mod := w.extractLsb' 50 6, g := w.extractLsb' 46 4, d := w.extractLsb' 37 9, a := w.extractLsb' 28 9
    ord := w.extractLsb' 24 4, off := w.extractLsb' 0 24 }

/-- Format B. -/
def formB (w : DWord) : FormB :=
  { mod := w.extractLsb' 50 6, g := w.extractLsb' 46 4, a := w.extractLsb' 37 9, tgt := w.extractLsb' 16 21
    join := w.extractLsb' 1 15, jv := w.extractLsb' 0 1 }

/-- OP (R132). -/
def opcodeOf (w : DWord) : Nat := (w.extractLsb' 56 8).toNat

/-- The instruction that a word spells for the sub-group that issues it: none for an opcode that no table lists (R163), which is
UNDEFINED_INSTRUCTION of that word. -/
def decodeThread (sg : SgRef) (w : DWord) : Option Instr :=
  let r := formR w
  match opcodeOf w with
  | 0x00 => some (.add sg r)
  | 0x01 => some (.sub sg r)
  | 0x02 => some (.mullo sg r)
  | 0x03 => some (.mulhi sg r)
  | 0x04 => some (.muladd sg r)
  | 0x05 => some (.minmax sg r)
  | 0x06 => some (.logic sg r)
  | 0x07 => some (.shift sg r)
  | 0x08 => some (.field sg r)
  | 0x09 => some (.bitop sg r)
  | 0x0A => some (.cmp sg r)
  | 0x0B => some (.pick sg r)
  | 0x0C => some (.mov sg r)
  | 0x0D => some (.setk sg (formL w))
  | 0x0E => some (.addk sg (formI w))
  | 0x10 => some (.addF sg r)
  | 0x11 => some (.mulF sg r)
  | 0x12 => some (.fmaF sg r)
  | 0x13 => some (.minF sg r)
  | 0x14 => some (.maxF sg r)
  | 0x15 => some (.cmpF sg r)
  | 0x16 => some (.adderrF sg r)
  | 0x17 => some (.mulerrF sg r)
  | 0x18 => some (.tointF sg r)
  | 0x19 => some (.toflt sg r)
  | 0x20 => some (.widen sg r)
  | 0x21 => some (.narrow sg r)
  | 0x22 => some (.narrowb sg r)
  | 0x30 => some (.pow2F sg r)
  | 0x31 => some (.log2F sg r)
  | 0x32 => some (.recipF sg r)
  | 0x33 => some (.rsqrtF sg r)
  | 0x40 => some (.ld sg (formM w))
  | 0x41 => some (.st sg (formM w))
  | 0x42 => some (.stN sg r)
  | 0x43 => some (.accN sg r)
  | 0x44 => some (.cinv sg r)
  | 0x45 => some (.cwb sg r)
  | 0x50 => some (.aop sg r)
  | 0x60 => some (.jmp sg (formB w))
  | 0x61 => some (.jmpr sg (formB w))
  | 0x62 => some (.call sg (formB w))
  | 0x63 => some (.endThread sg r)
  | 0x64 => some (.cede sg r)
  | 0x65 => some (.nop sg r)
  | 0x66 => some (.pred sg r)
  | 0x67 => some (.tally sg r)
  | 0x68 => some (.lxch sg r)
  | 0x69 => some (.rdl sg r)
  | 0x6A => some (.pack sg r)
  | 0x70 => some (.rally sg r)
  | 0x80 => some (.arrIssue sg r)
  | 0x81 => some (.hset sg r)
  | 0x82 => some (.hget sg r)
  | 0x83 => some (.sbWait sg r)
  | 0x84 => some (.sbTest sg r)
  | 0x85 => some (.hclr sg r)
  | 0x90 => some (.strIssue sg r)
  | 0xA0 => some (.splRd sg r)
  | 0xA1 => some (.splWait sg r)
  | 0xA2 => some (.splAdd sg r)
  | 0xA3 => some (.splSet sg r)
  | 0xB0 => some (.srd sg r)
  | 0xB1 => some (.fence sg r)
  | _ => none

end Sys2Proof
end

