-- ==== Sys2Proof/Config.lean ====
section
/-! DEFINITION. What an implementation fixes and the spec leaves open: the free values of the model. Each is an opaque
constant, so nothing can be proved about the value it has (notes/assumptions/2.md and the entries it names). -/
namespace Sys2Proof.Config

/-- A special-function result off its exact cases (R76: within 2 units in the last place, the same on every core):
`fn` 0 exp2, 1 log2, 2 rcp, 3 rsqrt. The model uses it only where it lies inside R76's bound. -/
opaque sfuResult (fn : Nat) (x : Word) : Word

/-- Which line of a full cache part is evicted (spec/07, R146, R225: the spec gives no replacement rule), by draw number. -/
opaque evictChoice : Nat → Nat

/-- A partition's replica of the local counter is one count behind the gondola's at a count (R19 bounds the difference). -/
opaque replicaLate : Nat → DWord → Bool

/-- Which free place of a cache part a line takes (R108: placement is the module's choice), by draw number. -/
opaque linePlace : Nat → Nat

/-- A byte that the spec leaves open: a value lost in a reset (R408 code L), the result of an unordered race (R52,
R205, R207), by draw number. -/
opaque freeByte : Nat → Byte

/-- The contents of the boot ROM (R325), which the spec does not give. -/
opaque romByte : Nat → Byte

/-- A 32-bit word that the spec leaves open, by draw number. -/
opaque freeWord : Nat → Word

/-- A list of words that the spec leaves open, its length too, by draw number: a service result without a layout (R329). -/
opaque freeWords : Nat → List Word

/-- The bytes of an SPDM value that the spec names and does not spell (nonces, signatures, size limits, value types: R383,
R384), by item, then index. -/
opaque spdmByte : Nat → Nat → Byte

/-- SHA-384 of a byte string, byte `i` of the digest: FIPS 180-4 as R370 to R374 name it; the spec does not spell the
function out, so the model holds it uninterpreted. -/
opaque sha384 : List Byte → Nat → Byte

/-- ECDSA verification (R371, R374): public key bytes, message bytes, signature r and s bytes, true when it verifies.
The spec names the standard and does not spell the curve arithmetic, so the model holds it uninterpreted. -/
opaque ecdsaVerify : List Byte → List Byte → List Byte → List Byte → Bool

/-- The 97-byte uncompressed identity public key Q that the security block derives from the PUF with copy 0 (A) or 1 (B) of the
helper data (R366, R370), byte `i`. -/
opaque identityKey : Nat → Nat → Byte

/-- The fused hash of firmware key `k`, byte `i`, and of record key `k + 4` (R371, R374). -/
opaque fusedKeyHash : Nat → Nat → Byte

/-- The revocation fuse of key `k` (0 to 3 firmware, 4 to 7 record keys). -/
opaque fusedKeyRevoked : Nat → Bool

/-- The security version of the factory image (R373), which the spec names and gives no value. -/
opaque factorySvn : Word

/-- The device record that a module leaves manufacture with (R371), byte `i`, until LOAD_RECORD replaces it: its SERIAL, ID_HASH
and certificates are the module's own. -/
opaque factoryRecord : Nat → Byte

/-- The header and body of the image that a module leaves manufacture with (R373), until PERSIST_IMAGE replaces it. -/
opaque factoryImage : List Byte

/-- Measurement 4 (R384): SHA-384 of the levels, the lists in service, CLUSTER_PRESENT and the array map, whose byte layout
under the hash the spec does not give; byte `i`. -/
opaque bootDigest : List Nat → List Nat → Nat → List Word → Nat → Byte

/-- Kyfort's IANA enterprise number (R437): the spec names it and gives no value. -/
opaque ianaNumber : Word

end Sys2Proof.Config
end

