-- ==== Sys2Proof/Machine/Bits.lean ====
section
/-! DEFINITION. Bit fields, byte order and CRC-32C, as R3, R24 and R171 name them. Every multi-byte value of the module
is little-endian (R24, R132, R386). -/
namespace Sys2Proof.Machine

/-- Bits [lo + len - 1 : lo] of a number (R3). -/
def bitsOf (v lo len : Nat) : Nat := (v >>> lo) % 2 ^ len

/-- Field [lo + len - 1 : lo] of a word, as a number. -/
def fld {n : Nat} (w : BitVec n) (lo len : Nat) : Nat := bitsOf w.toNat lo len

/-- Bit `i` of a word. -/
def bitAt {n : Nat} (w : BitVec n) (i : Nat) : Bool := fld w i 1 == 1

/-- `w` with field [lo + len - 1 : lo] replaced by `v` modulo 2^len. -/
def setFld {n : Nat} (w : BitVec n) (lo len v : Nat) : BitVec n :=
  BitVec.ofNat n (w.toNat - (fld w lo len) * 2 ^ lo + (v % 2 ^ len) * 2 ^ lo)

/-- 1 for true. -/
def b2n (b : Bool) : Nat := if b then 1 else 0

/-- A two's-complement field of `n` bits as an integer. -/
def signedOf (n v : Nat) : Int :=
  if v % 2 ^ n < 2 ^ (n - 1) then (v % 2 ^ n : Nat) else (v % 2 ^ n : Nat) - (2 ^ n : Nat)

/-- An integer as an `n`-bit two's-complement number. -/
def toTwos (n : Nat) (x : Int) : Nat := (x % (2 ^ n : Nat)).toNat

/-- The `n` little-endian bytes of a number. -/
def bytesLE : Nat → Nat → List Byte
  | 0, _ => []
  | n + 1, v => BitVec.ofNat 8 v :: bytesLE n (v >>> 8)

/-- The number whose little-endian bytes are given. -/
def natLE : List Byte → Nat
  | [] => 0
  | b :: bs => b.toNat + (natLE bs) * 256

/-- Little-endian words of a byte list (a short last group is filled with zeros). -/
def wordsLE : Nat → List Byte → List Word
  | 0, _ => []
  | n + 1, bs => BitVec.ofNat 32 (natLE (bs.take 4)) :: wordsLE n (bs.drop 4)

/-- The bytes of a word list, little-endian. -/
def bytesOfWords (ws : List Word) : List Byte := ws.flatMap fun w => bytesLE 4 w.toNat

/-- Word `i` of a list of words, 0 past its end. -/
def wordAt (ws : List Word) (i : Nat) : Word := ws.getD i 0

/-- The 64-bit value in words `i` (low) and `i + 1` (high). -/
def dwordAt (ws : List Word) (i : Nat) : Nat := (wordAt ws i).toNat + 2 ^ 32 * (wordAt ws (i + 1)).toNat

/-- Words `i + n` are the bitwise complements of words `i`, for `i` below `n` (R68, R187). -/
def complementsOk (n : Nat) (ws : List Word) : Bool :=
  (List.range n).all fun i => wordAt ws (n + i) == ~~~ (wordAt ws i)

/-- `ws` followed by its complements, word by word. -/
def withComplements (ws : List Word) : List Word := ws ++ ws.map fun w => ~~~ w

/-- `ws` with word `i` replaced. -/
def setWord (ws : List Word) (i : Nat) (v : Word) : List Word := ws.set i v

/-- One bit step of CRC-32C, reflected (R171: polynomial 0x1EDC_6F41). -/
def crcBit (c : Nat) : Nat := if c % 2 = 1 then (c >>> 1) ^^^ 0x82F63B78 else c >>> 1

/-- One byte step of CRC-32C. -/
def crcByte (c : Nat) (b : Byte) : Nat :=
  crcBit (crcBit (crcBit (crcBit (crcBit (crcBit (crcBit (crcBit (c ^^^ b.toNat))))))))

/-- CRC-32C of a byte string (R171, R305). -/
def crc32c (bs : List Byte) : Word :=
  BitVec.ofNat 32 ((bs.foldl crcByte 0xFFFFFFFF) ^^^ 0xFFFFFFFF)

/-- ceil(a / b). -/
def ceilDiv (a b : Nat) : Nat := (a + b - 1) / b

/-- Add to a counter that stops at 0xFFFF_FFFF (R41, R71, R175). -/
def satAdd32 (w : Word) (n : Nat) : Word := BitVec.ofNat 32 (min (w.toNat + n) 0xFFFFFFFF)

/-- Whether two half-open ranges share a number. -/
def overlaps (a n b m : Nat) : Bool := a < b + m && b < a + n && n != 0 && m != 0

/-- `x` lies in the cyclic or plain interval [lo, hi] (R283). -/
def inInterval (lo hi x : Nat) : Bool :=
  if lo ≤ hi then lo ≤ x && x ≤ hi else lo ≤ x || x ≤ hi

end Sys2Proof.Machine
end

