-- ==== Sys2Proof/Machine/Fp.lean ====
section
/-! DEFINITION. FP32 arithmetic (R75): values are exact until one rounding, to nearest with ties to even. -/
namespace Sys2Proof.Machine

/-- A number as the arithmetic sees it: not a number, a signed infinity, or the exact value (-1)^neg * m * 2^e, where
m may be 0 with either sign. -/
inductive FVal where
  | nan
  | inf (neg : Bool)
  | fin (neg : Bool) (m : Nat) (e : Int)
  deriving DecidableEq, Repr

/-- The canonical NaN (R75). -/
def nan32 : Word := 0x7FC00000

/-- +0 and -0 as exact values. -/
def FVal.zero (neg : Bool) : FVal := .fin neg 0 0

/-- Decode an FP32 word (R22). -/
def fdec (w : Word) : FVal :=
  let s := bitAt w 31
  let e := fld w 23 8
  let m := fld w 0 23
  if e = 255 then (if m = 0 then .inf s else .nan)
  else if e = 0 then .fin s m (-149)
  else .fin s (m + 2 ^ 23) ((e : Int) - 150)

/-- m * 2^(x - e) for x at least e: the significand aligned to exponent e. -/
def alignTo (m : Nat) (x e : Int) : Nat := m * 2 ^ (x - e).toNat

/-- Split a significand at a bit position: what is kept above it, and the rest. -/
def splitAt (m : Nat) (sh : Int) : Nat × Nat :=
  if sh ≤ 0 then (m * 2 ^ (-sh).toNat, 0) else (m / 2 ^ sh.toNat, m % 2 ^ sh.toNat)

/-- Round half to even: keep, the rest below it, the shift, and whether a part below the rest is non-zero. -/
def roundEven (keep rest : Nat) (sh : Int) (sticky : Bool) : Nat :=
  if sh ≤ 0 then keep
  else
    let half := 2 ^ (sh.toNat - 1)
    if half < rest || (rest == half && (sticky || keep % 2 == 1)) then keep + 1 else keep

/-- (-1)^neg * (m + a part below it when `sticky`) * 2^e, rounded once to FP32 under nearest-even, with subnormals kept and
overflow to infinity (R29, R75). -/
def round32 (neg : Bool) (m : Nat) (e : Int) (sticky : Bool := false) : Word :=
  let sgn := (b2n neg) * 2 ^ 31
  if m = 0 then BitVec.ofNat 32 sgn
  else
    let q := max ((Nat.log2 m : Int) + e - 23) (-149)
    let (keep, rest) := splitAt m (q - e)
    let k := roundEven keep rest (q - e) sticky
    let code := (q + 149).toNat * 2 ^ 23 + k
    BitVec.ofNat 32 (sgn + (if 0x7F800000 ≤ code then 0x7F800000 else code))

/-- Round an exact value to FP32. -/
def fround (x : FVal) : Word :=
  match x with
  | .nan => nan32
  | .inf s => if s then 0xFF800000 else 0x7F800000
  | .fin s m e => round32 s m e

/-- Negate. -/
def FVal.neg : FVal → FVal
  | .nan => .nan
  | .inf s => .inf (!s)
  | .fin s m e => .fin (!s) m e

/-- Exact sum. An exact zero sum is +0 unless both terms are -0 or negative zeros in sign (IEEE 754 under nearest-even). -/
def FVal.add (a b : FVal) : FVal :=
  match a, b with
  | .nan, _ => .nan
  | _, .nan => .nan
  | .inf s, .inf t => if s = t then .inf s else .nan
  | .inf s, .fin _ _ _ => .inf s
  | .fin _ _ _, .inf t => .inf t
  | .fin s m x, .fin t n y =>
    let e := min x y
    let i : Int := (if s then -(alignTo m x e : Int) else alignTo m x e) +
      (if t then -(alignTo n y e : Int) else alignTo n y e)
    if i = 0 then .fin (s && t) 0 0
    else .fin (decide (i < 0)) i.natAbs e

/-- Exact product. -/
def FVal.mul (a b : FVal) : FVal :=
  match a, b with
  | .nan, _ => .nan
  | _, .nan => .nan
  | .inf s, .inf t => .inf (s != t)
  | .inf s, .fin t n _ => if n = 0 then .nan else .inf (s != t)
  | .fin s m _, .inf t => if m = 0 then .nan else .inf (s != t)
  | .fin s m x, .fin t n y => .fin (s != t) (m * n) (x + y)

/-- Exact scaling by 2^k. -/
def FVal.scale (a : FVal) (k : Int) : FVal :=
  match a with
  | .fin s m e => .fin s m (e + k)
  | x => x

/-- Absolute value. -/
def FVal.abs : FVal → FVal
  | .nan => .nan
  | .inf _ => .inf false
  | .fin _ m e => .fin false m e

/-- The value is a NaN. -/
def FVal.isNan : FVal → Bool
  | .nan => true
  | _ => false

/-- The value is neither a NaN nor an infinity. -/
def FVal.isFinite : FVal → Bool
  | .fin _ _ _ => true
  | _ => false

/-- The value is a zero of either sign. -/
def FVal.isZero : FVal → Bool
  | .fin _ m _ => m == 0
  | _ => false

/-- Exact order of two numbers, -1, 0 or 1; none when either is a NaN. -0 equals +0. -/
def FVal.cmp (a b : FVal) : Option Int :=
  match a, b with
  | .nan, _ => none
  | _, .nan => none
  | .inf s, .inf t => some (if s = t then 0 else if s then -1 else 1)
  | .inf s, .fin _ _ _ => some (if s then -1 else 1)
  | .fin _ _ _, .inf t => some (if t then 1 else -1)
  | .fin s m x, .fin t n y =>
    let e := min x y
    let i : Int := (if s then -(alignTo m x e : Int) else alignTo m x e)
    let j : Int := (if t then -(alignTo n y e : Int) else alignTo n y e)
    some (if i < j then -1 else if i = j then 0 else 1)

/-- a < b, false with a NaN. -/
def FVal.lt (a b : FVal) : Bool := FVal.cmp a b == some (-1)

/-- a ≤ b, false with a NaN. -/
def FVal.le (a b : FVal) : Bool := FVal.cmp a b == some (-1) || FVal.cmp a b == some 0

/-- floor(log2 |a|) of a non-zero finite value. -/
def FVal.log2 : FVal → Int
  | .fin _ m e => (Nat.log2 m : Int) + e
  | _ => 0

/-- FP32 add, subtract, multiply and fused multiply-add, each rounded once (R75). -/
def fadd (a b : Word) : Word := fround (FVal.add (fdec a) (fdec b))
def fsub (a b : Word) : Word := fround (FVal.add (fdec a) (FVal.neg (fdec b)))
def fmul (a b : Word) : Word := fround (FVal.mul (fdec a) (fdec b))
def ffma (a b c : Word) : Word := fround (FVal.add (FVal.mul (fdec a) (fdec b)) (fdec c))

/-- Negate and absolute value act on the sign bit (R138). -/
def fnegBits (a : Word) : Word := a ^^^ 0x80000000
def fabsBits (a : Word) : Word := a &&& 0x7FFFFFFF

/-- Quotient of two exact values, correctly rounded (R247, R257). -/
def fdivV (a b : FVal) : Word :=
  match a, b with
  | .nan, _ => nan32
  | _, .nan => nan32
  | .inf _, .inf _ => nan32
  | .inf s, .fin t _ _ => fround (.inf (s != t))
  | .fin s _ _, .inf t => fround (FVal.zero (s != t))
  | .fin s m x, .fin t n y =>
    if n = 0 then (if m = 0 then nan32 else fround (.inf (s != t)))
    else if m = 0 then fround (FVal.zero (s != t))
    else
      let k := Nat.log2 n + 30 - Nat.log2 m
      round32 (s != t) (m * 2 ^ k / n) (x - y - k) (decide (m * 2 ^ k % n ≠ 0))

/-- FP32 division, correctly rounded. -/
def fdiv (a b : Word) : Word := fdivV (fdec a) (fdec b)

/-- Integer square root by bits: the largest r below 2^k with r^2 ≤ n, built from the high bit down. -/
def isqrtFrom (n : Nat) : Nat → Nat → Nat
  | 0, r => r
  | k + 1, r => if (r + 2 ^ k) * (r + 2 ^ k) ≤ n then isqrtFrom n k (r + 2 ^ k) else isqrtFrom n k r

/-- Integer square root. -/
def isqrt (n : Nat) : Nat := isqrtFrom n (Nat.log2 n / 2 + 1) 0

/-- FP32 square root, correctly rounded (R247). -/
def fsqrt (a : Word) : Word :=
  match fdec a with
  | .nan => nan32
  | .inf s => if s then nan32 else 0x7F800000
  | .fin s m e =>
    if m = 0 then a
    else if s then nan32
    else
      let k : Nat := 60 + (if (e - 60) % 2 = 0 then 0 else 1)
      let n := m * 2 ^ k
      round32 false (isqrt n) ((e - (k : Int)) / 2) (decide (isqrt n * isqrt n ≠ n))

/-- minimumNumber and maximumNumber with -0 below +0; two NaNs give the canonical NaN (R124, R138). -/
def fminW (a b : Word) : Word :=
  match fdec a, fdec b with
  | .nan, .nan => nan32
  | .nan, _ => b
  | _, .nan => a
  | x, y => match FVal.cmp x y with
    | some (-1) => a
    | some 0 => if bitAt a 31 then a else b
    | _ => b

def fmaxW (a b : Word) : Word :=
  match fdec a, fdec b with
  | .nan, .nan => nan32
  | .nan, _ => b
  | _, .nan => a
  | x, y => match FVal.cmp x y with
    | some 1 => a
    | some 0 => if bitAt a 31 then b else a
    | _ => b

/-- FP32 to a 32-bit integer with saturation; toward zero, or nearest-even when `rn` (R138: TOINT.F). -/
def ftoint (signed rn : Bool) (a : Word) : Word :=
  let lo : Int := if signed then -(2 ^ 31) else 0
  let hi : Int := if signed then 2 ^ 31 - 1 else 2 ^ 32 - 1
  match fdec a with
  | .nan => 0
  | .inf s => BitVec.ofInt 32 (if s then lo else hi)
  | .fin s m e =>
    let (keep, rest) := splitAt m (-e)
    let k := if rn then roundEven keep rest (-e) false else keep
    let i : Int := if s then -(k : Int) else k
    BitVec.ofInt 32 (if i < lo then lo else if hi < i then hi else i)

/-- A 32-bit integer to FP32 under nearest-even (R138: TOFLT). -/
def ftoflt (signed : Bool) (a : Word) : Word :=
  let i : Int := if signed then a.toInt else (a.toNat : Int)
  round32 (decide (i < 0)) i.natAbs 0

/-- 2^n as FP32 bits where it is representable (R76). -/
def pow2Word (neg : Bool) (n : Int) : Word := round32 neg 1 n

end Sys2Proof.Machine
end

