-- ==== Sys2Proof/Machine/Formats.lean ====
section
/-! DEFINITION. Element formats, widening and narrowing (spec/02: R22 to R44), and the special functions (R76). -/
namespace Sys2Proof.Machine

/-- The element formats (R22), FP32 among them. -/
inductive Fmt where
  | bf16 | fp16 | e4m3 | e5m2 | e2m3 | e3m2 | e2m1 | fp32
  deriving DecidableEq, Repr

/-- Format codes of R68: 0 to 6; 7 names FP32 where an output allows it. -/
def Fmt.ofCode (c : Nat) : Fmt :=
  match c with
  | 0 => .bf16 | 1 => .fp16 | 2 => .e4m3 | 3 => .e5m2 | 4 => .e2m3 | 5 => .e3m2 | 6 => .e2m1 | _ => .fp32

/-- Width in bits (R22). -/
def Fmt.width : Fmt → Nat
  | .bf16 => 16 | .fp16 => 16 | .e4m3 => 8 | .e5m2 => 8 | .e2m3 => 6 | .e3m2 => 6 | .e2m1 => 4 | .fp32 => 32

/-- Exponent bits (R22). -/
def Fmt.ebits : Fmt → Nat
  | .bf16 => 8 | .fp16 => 5 | .e4m3 => 4 | .e5m2 => 5 | .e2m3 => 2 | .e3m2 => 3 | .e2m1 => 2 | .fp32 => 8

/-- Significand bits (R22). -/
def Fmt.mbits : Fmt → Nat
  | .bf16 => 7 | .fp16 => 10 | .e4m3 => 3 | .e5m2 => 2 | .e2m3 => 3 | .e3m2 => 2 | .e2m1 => 1 | .fp32 => 23

/-- Exponent bias (R22). -/
def Fmt.bias : Fmt → Nat
  | .bf16 => 127 | .fp16 => 15 | .e4m3 => 7 | .e5m2 => 15 | .e2m3 => 1 | .e3m2 => 3 | .e2m1 => 1 | .fp32 => 127

/-- The format has infinity codes (R22). -/
def Fmt.hasInf : Fmt → Bool
  | .bf16 => true | .fp16 => true | .e5m2 => true | .fp32 => true | _ => false

/-- Largest finite code without its sign (R23). -/
def Fmt.maxCode : Fmt → Nat
  | .bf16 => 0x7F7F | .fp16 => 0x7BFF | .e4m3 => 0x7E | .e5m2 => 0x7B | .e2m3 => 0x1F | .e3m2 => 0x1F | .e2m1 => 7
  | .fp32 => 0x7F7FFFFF

/-- Exponent of the largest finite value (R39, R78). -/
def Fmt.emax : Fmt → Int
  | .bf16 => 127 | .fp16 => 15 | .e4m3 => 8 | .e5m2 => 15 | .e2m3 => 2 | .e3m2 => 4 | .e2m1 => 2 | .fp32 => 127

/-- A block scale is optional or mandatory for the 8-bit and narrower formats, and not allowed for the others (R22). -/
def Fmt.scaleAllowed (f : Fmt) : Bool := f.width ≤ 8
def Fmt.scaleMandatory (f : Fmt) : Bool := f.width < 8

/-- Canonical NaN code (R40); the 6- and 4-bit formats have none. -/
def Fmt.nanCode : Fmt → Nat
  | .bf16 => 0x7FC0 | .fp16 => 0x7E00 | .e4m3 => 0x7F | .e5m2 => 0x7F | .fp32 => 0x7FC00000 | _ => 0

/-- Infinity code without sign (R40). -/
def Fmt.infCode : Fmt → Nat
  | .bf16 => 0x7F80 | .fp16 => 0x7C00 | .e5m2 => 0x7C | .fp32 => 0x7F800000 | _ => 0

/-- The value of an element code (R23). -/
def Fmt.decode (f : Fmt) (code : Nat) : FVal :=
  let s := bitsOf code (f.width - 1) 1 == 1
  let m := bitsOf code 0 f.mbits
  let e := bitsOf code f.mbits f.ebits
  let top := 2 ^ f.ebits - 1
  if f.hasInf && e == top then (if m = 0 then .inf s else .nan)
  else if f == .e4m3 && bitsOf code 0 7 == 0x7F then .nan
  else if e = 0 then .fin s m (1 - (f.bias : Int) - f.mbits)
  else .fin s (m + 2 ^ f.mbits) ((e : Int) - f.bias - f.mbits)

/-- The value 2^(c - 127) of an E8M0 code, or NaN for 0xFF, applied to an element's value (R25, R29). -/
def applyScale (x : FVal) (scale : Nat) : FVal :=
  if scale = 0xFF then .nan else FVal.scale x ((scale : Int) - 127)

/-- The result of a widening: the FP32 bits, and the infinities it counts (R31). -/
structure Widened where
  bits : Word
  infs : Nat
  deriving DecidableEq, Repr

/-- Widen an exact value to FP32 (R31): a finite value that leaves the range is counted; an infinite element is not. -/
def widenVal (x : FVal) : Widened :=
  let w := fround x
  { bits := w
    infs := match x, fdec w with
      | .fin _ _ _, .inf _ => 1
      | _, _ => 0 }

/-- The stochastic generator (R36), modulo 2^64. -/
def srBits (seed e : Nat) : Nat :=
  let md := 2 ^ 64
  let z := (seed + (e + 1) * 0x9E3779B97F4A7C15) % md
  let z := ((z ^^^ (z >>> 30)) * 0xBF58476D1CE4E5B9) % md
  let z := ((z ^^^ (z >>> 27)) * 0x94D049BB133111EB) % md
  let z := z ^^^ (z >>> 31)
  z >>> 40

/-- Rounding mode of a narrowing: nearest-even, or stochastic with its 24 bits (R34, R35). -/
inductive Rounding where
  | nearest
  | stochastic (r : Nat)
  deriving DecidableEq, Repr

/-- Round the magnitude m * 2^e to the grid of `f`: the code without its sign, not limited at the top (R34, R35). -/
def narrowMag (f : Fmt) (rnd : Rounding) (m : Nat) (e : Int) : Nat :=
  if m = 0 then 0
  else
    let lo : Int := 1 - (f.bias : Int) - f.mbits
    let q := max ((Nat.log2 m : Int) + e - f.mbits) lo
    let (keep, rest) := splitAt m (q - e)
    let k := match rnd with
      | .nearest => roundEven keep rest (q - e) false
      | .stochastic r =>
        let ff := if q - e ≤ 0 then 0 else rest * 2 ^ 24 / 2 ^ (q - e).toNat
        if 2 ^ 24 ≤ ff + r then keep + 1 else keep
    (q - lo).toNat * 2 ^ f.mbits + k

/-- Largest finite value as an exact number. -/
def Fmt.maxVal (f : Fmt) : FVal := f.decode f.maxCode

/-- The overflow threshold (R37): the largest finite value plus half its unit in the last place. -/
def Fmt.threshold (f : Fmt) : FVal :=
  match f.maxVal with
  | .fin s m e => .fin s (2 * m + 1) (e - 1)
  | x => x

/-- Overflow policies (R38). -/
inductive OvfPolicy where
  | sat | replay | inf
  deriving DecidableEq, Repr

/-- What one narrowing gives: the code; what it counts; whether the value overflowed; whether it wrote a NaN code. -/
structure Narrowed where
  code : Nat
  sat : Nat
  infs : Nat
  nans : Nat
  overflow : Bool
  deriving DecidableEq, Repr

/-- Code with its sign bit. -/
def signedCode (f : Fmt) (neg : Bool) (mag : Nat) : Nat := mag + (b2n neg) * 2 ^ (f.width - 1)

/-- Convert a value, already multiplied by 2^S, to an unscaled or per-tensor-scaled format (R33 to R38, R40). A value at or
above the threshold is clamped, except under INF; `overflow` says so to the replay logic. -/
def narrowVal (f : Fmt) (rnd : Rounding) (pol : OvfPolicy) (x : FVal) : Narrowed :=
  match x with
  | .nan => { code := f.nanCode, sat := 0, infs := 0, nans := 1, overflow := false }
  | .inf s =>
    if f.hasInf then { code := signedCode f s f.infCode, sat := 0, infs := 1, nans := 0, overflow := false }
    else { code := f.nanCode, sat := 0, infs := 0, nans := 1, overflow := false }
  | .fin s m e =>
    let a : FVal := .fin false m e
    if FVal.le f.threshold a then
      match pol with
      | .inf => { code := signedCode f s f.infCode, sat := 0, infs := 1, nans := 0, overflow := true }
      | _ => { code := signedCode f s f.maxCode, sat := 1, infs := 0, nans := 0, overflow := true }
    else if FVal.lt f.maxVal a then
      { code := signedCode f s f.maxCode, sat := 0, infs := 0, nans := 0, overflow := false }
    else { code := signedCode f s (narrowMag f rnd m e), sat := 0, infs := 0, nans := 0, overflow := false }

/-- The largest magnitude among finite values, none when there is none (R39). -/
def maxFinite (xs : List FVal) : FVal :=
  xs.foldl (fun acc x => match x with
    | .fin _ m e => if FVal.lt acc (.fin false m e) then .fin false m e else acc
    | _ => acc) (FVal.zero false)

/-- The scale exponent X of a block (R39). -/
def blockScaleExp (f : Fmt) (xs : List FVal) : Int :=
  let m := maxFinite xs
  if m.isZero then -127
  else
    let x := FVal.log2 m - f.emax
    let x := if FVal.le f.threshold (FVal.scale m (-x)) then x + 1 else x
    if x < -127 then -127 else x

/-- Convert one finite element of a block-scaled output (R39): no overflow is counted. -/
def narrowScaled (f : Fmt) (rnd : Rounding) (x : FVal) : Narrowed :=
  match x with
  | .fin s m e =>
    if FVal.lt f.maxVal (.fin false m e) then
      { code := signedCode f s f.maxCode, sat := 0, infs := 0, nans := 0, overflow := false }
    else { code := signedCode f s (narrowMag f rnd m e), sat := 0, infs := 0, nans := 0, overflow := false }
  | _ => narrowVal f rnd .sat x

/-- What narrowing one block gives: the scale code, the codes of its elements, and the counts (R39, R40). -/
structure BlockNarrowed where
  scale : Nat
  codes : List Nat
  infs : Nat
  nans : Nat
  deriving DecidableEq, Repr

/-- Narrow the enabled elements of one block under a shared scale (R39, R40): `xs` pairs each value with its rounding. The
6- and 4-bit formats have no NaN code, so a non-finite value marks the whole block and counts once. -/
def narrowBlock (f : Fmt) (xs : List (FVal × Rounding)) : BlockNarrowed :=
  if f.scaleMandatory && xs.any (fun p => !p.1.isFinite) then
    { scale := 0xFF, codes := xs.map fun _ => 0, infs := 0, nans := 1 }
  else
    let x := blockScaleExp f (xs.map Prod.fst)
    let rs := xs.map fun p => narrowScaled f p.2 (FVal.scale p.1 (-x))
    { scale := (x + 127).toNat
      codes := rs.map Narrowed.code
      infs := (rs.map Narrowed.infs).sum
      nans := (rs.map Narrowed.nans).sum }

/-- Convert under a scale that is kept (R261): a value at or above the threshold is clamped, and counted by `sat`. -/
def narrowKept (f : Fmt) (rnd : Rounding) (scale : Nat) (x : FVal) : Narrowed :=
  narrowVal f rnd .sat (FVal.scale x (127 - (scale : Int)))

/-- BF16 of an FP32 value under nearest-even with SAT (R235, R260). -/
def toBf16 (w : Word) : Narrowed := narrowVal .bf16 .nearest .sat (fdec w)

/-- A BF16 code widened exactly to FP32 bits (R228). -/
def ofBf16 (code : Nat) : Word := fround (Fmt.decode .bf16 code)

/-! The special functions (R76). Off the exact cases the result is a free value within 2 units in the last place of the
exact result; a reference in 80-bit fixed point decides whether a candidate lies inside that bound. -/

/-- Unit in the last place, as an exponent of two, of a magnitude on the FP32 grid, subnormals included. -/
def ulpExp (x : FVal) : Int := if x.isZero then -149 else max (FVal.log2 x - 23) (-149)

/-- `cand` when it is a number within 2 units of `ref` (the exact result, cut below 2^-60 of it), else `ref` rounded. The unit is
that of the exact result, not of its rounding; 2^-20 of a unit is left as a margin for the cut. -/
def within2ulp (ref : FVal) (cand : Word) : Word :=
  let r := fround ref
  let u := ulpExp ref
  let diff := FVal.abs (FVal.add (fdec cand) (FVal.neg ref))
  if FVal.le diff (.fin false (2 ^ 21 - 1) (u - 20)) then cand else r

/-- 2^(f / 2^n) in fixed point with 80 fraction bits, f below 2^n: the product of the square roots that the bits of `f`
select, from the lowest bit up. -/
def exp2Frac : Nat → Nat → Nat → Nat
  | 0, _, acc => acc
  | n + 1, f, acc => exp2Frac n (f / 2) (isqrt (2 ^ 80 * (if f % 2 = 1 then 2 * acc else acc)))

/-- exp2 (R76). -/
def sfuExp2 (x : Word) : Word :=
  match fdec x with
  | .nan => nan32
  | .inf s => if s then 0 else 0x7F800000
  | .fin s m e =>
    if FVal.le (.fin false 128 0) (.fin s m e) then 0x7F800000
    else if FVal.le (.fin s m e) (.fin true 150 0) then 0
    else
      let i : Int := (if s then -(m : Int) else m)
      if 0 ≤ e then pow2Word false (i * 2 ^ e.toNat)
      else if i % (2 ^ (-e).toNat : Nat) = 0 then pow2Word false (i / (2 ^ (-e).toNat : Nat))
      else
        let fl := i / (2 ^ (-e).toNat : Nat)
        let fr := (i % (2 ^ (-e).toNat : Nat)).toNat
        let n := (-e).toNat
        let fx := if n ≤ 80 then exp2Frac n fr (2 ^ 80) else exp2Frac 80 (fr / 2 ^ (n - 80)) (2 ^ 80)
        within2ulp (.fin false fx (fl - 80)) (Config.sfuResult 0 x)

/-- Fraction bits of log2 of a number in [1, 2), in fixed point with 80 fraction bits: repeated squaring. -/
def log2Frac : Nat → Nat → Nat → Nat
  | 0, _, acc => acc
  | n + 1, y, acc =>
    let z := y * y / 2 ^ 80
    if 2 ^ 81 ≤ z then log2Frac n (z / 2) (2 * acc + 1) else log2Frac n z (2 * acc)

/-- log2 (R76). -/
def sfuLog2 (x : Word) : Word :=
  match fdec x with
  | .nan => nan32
  | .inf s => if s then nan32 else 0x7F800000
  | .fin s m e =>
    if m = 0 then 0xFF800000
    else if s then nan32
    else
      let k := Nat.log2 m
      if m = 2 ^ k then
        let i : Int := (k : Int) + e
        round32 (decide (i < 0)) i.natAbs 0
      else
        let fr := log2Frac 76 (m * 2 ^ 80 / 2 ^ k) 0
        let i : Int := ((k : Int) + e) * (2 ^ 76 : Nat) + fr
        within2ulp (.fin (decide (i < 0)) i.natAbs (-76)) (Config.sfuResult 1 x)

/-- The result of rcp at ±2^-128, whose exact result 2^128 is no FP32 number: a number within 2 units of it, the largest finite
number where the free value is none. -/
def rcpEdge (neg : Bool) (cand : Word) : Word :=
  let diff := FVal.abs (FVal.add (fdec cand) (FVal.neg (.fin neg 1 128)))
  if FVal.le diff (.fin false 1 106) then cand else if neg then 0xFF7FFFFF else 0x7F7FFFFF

/-- rcp (R76). -/
def sfuRcp (x : Word) : Word :=
  match fdec x with
  | .nan => nan32
  | .inf s => fround (FVal.zero s)
  | .fin s m e =>
    if m = 0 then fround (.inf s)
    else if FVal.lt (.fin false m e) (.fin false 1 (-128)) then fround (.inf s)
    else
      let k := Nat.log2 m
      if m = 2 ^ k ∧ (k : Int) + e = -128 then rcpEdge s (Config.sfuResult 2 x)
      else if m = 2 ^ k then pow2Word s (-((k : Int) + e))
      else within2ulp (.fin s (2 ^ (k + 100) / m) (-e - (k + 100 : Nat))) (Config.sfuResult 2 x)

/-- rsqrt (R76). -/
def sfuRsqrt (x : Word) : Word :=
  match fdec x with
  | .nan => nan32
  | .inf s => if s then nan32 else 0
  | .fin s m e =>
    if m = 0 then fround (.inf s)
    else if s then nan32
    else
      let k := Nat.log2 m
      if m = 2 ^ k && ((k : Int) + e) % 2 == 0 then pow2Word false (-(((k : Int) + e) / 2))
      else
        let m2 := if e % 2 = 0 then m else 2 * m
        let e2 := if e % 2 = 0 then e else e - 1
        within2ulp (.fin false (isqrt (2 ^ 200 / m2)) (-100 - e2 / 2)) (Config.sfuResult 3 x)

/-- ADDERR.F: (a + b) - s, exact (R77). -/
def faddErr (a b s : Word) : Word :=
  match fdec s with
  | .nan => nan32
  | .inf _ => 0
  | sv => fround (FVal.add (FVal.add (fdec a) (fdec b)) (FVal.neg sv))

/-- MULERR.F: (a * b) - s, rounded once (R77). -/
def fmulErr (a b s : Word) : Word :=
  match fdec s with
  | .nan => nan32
  | .inf _ => 0
  | sv => fround (FVal.add (FVal.mul (fdec a) (fdec b)) (FVal.neg sv))

end Sys2Proof.Machine
end

