-- ==== Sys2Proof/Machine/Sparse.lean ====
section
/-! DEFINITION. Sparse maps from addresses and indices: a list of (key, value) pairs in one canonical form, keys strictly
rising and no pair holding what an unlisted key reads as. Memory, the register files and every indexed table use it. -/
namespace Sys2Proof.Machine

/-- A finite map with a default: see `Sparse.get`. -/
abbrev Sparse (α : Type) := List (Nat × α)

/-- The value at key `k`; an unlisted key reads as `d k`. -/
def Sparse.get {α : Type} (d : Nat → α) : Sparse α → Nat → α
  | [], k => d k
  | (j, v) :: m, k => if k = j then v else Sparse.get d m k

/-- `m` with the pair `(k, v)` at its place. -/
def Sparse.insert {α : Type} : Sparse α → Nat → α → Sparse α
  | [], k, v => [(k, v)]
  | (j, w) :: m, k, v =>
    if k < j then (k, v) :: (j, w) :: m
    else if k = j then (k, v) :: m
    else (j, w) :: Sparse.insert m k v

/-- Every key for which `p` holds returns to the default. -/
def Sparse.forget {α : Type} (p : Nat → Bool) (m : Sparse α) : Sparse α :=
  m.filter fun kv => !(p kv.1)

/-- `m` with `v` at key `k`; writing the default removes the pair, so equal maps are equal lists. -/
def Sparse.set {α : Type} [DecidableEq α] (d : Nat → α) (m : Sparse α) (k : Nat) (v : α) : Sparse α :=
  if v = d k then Sparse.forget (fun j => j == k) m else Sparse.insert m k v

/-- The canonical form: keys rise strictly above `lo`, and no pair holds the default. -/
def Sparse.wfFrom {α : Type} [DecidableEq α] (d : Nat → α) : Nat → Sparse α → Bool
  | _, [] => true
  | lo, (k, v) :: m => lo ≤ k && v != d k && Sparse.wfFrom d (k + 1) m

/-- The canonical form of a whole map. -/
def Sparse.wf {α : Type} [DecidableEq α] (d : Nat → α) (m : Sparse α) : Bool :=
  Sparse.wfFrom d 0 m

/-- Apply `f` to the value at `k`. -/
def Sparse.modify {α : Type} [DecidableEq α] (d : Nat → α) (m : Sparse α) (k : Nat) (f : α → α) : Sparse α :=
  Sparse.set d m k (f (Sparse.get d m k))

end Sys2Proof.Machine
end

