-- ==== Sys2Proof/Machine/State.lean ====
section
/-! DEFINITION. The state of the GY2 block: plain data, one home for every piece of state that spec/ names. Register words
lie in `setup` (the set-up window, R410) and `keeper` (R425), each keyed by offset and reading as its reset value
where nothing else was written; memory bytes lie in `mem` by physical address (R164). -/
namespace Sys2Proof.Machine

/-- Why the machine could stop. No row of the table stops this model: every row has an effect or leaves the state as it is
(log 4), so the type has no constructor that is raised by a meaning. -/
inductive Fault where
  /-- Raised by no meaning; kept so that the type is inhabited. Safe. -/
  | unreachable
  deriving DecidableEq, Repr

/-- Why a command has no meaning. -/
inductive Refusal where
  /-- Raised by an arm of `exec` whose row has no meaning yet; the string is the row's mnemonic. Safe. -/
  | notModelled (mnemonic : String)
  deriving DecidableEq, Repr

/-! ## Error recorder (spec/18, R386 to R394) -/

/-- A report as it is latched: what the record of R386 holds but for SEQ and CRC. -/
structure Report where
  cls : Nat
  cause : Nat
  sev : Nat
  startSeq : Word
  lcount : DWord
  ctx : Option Nat
  unit : Nat
  lost : Nat
  detail : List Word
  deriving DecidableEq, Repr

/-- One source's latches (R391), with the REPORTS and LOST counts that the source table does not hold yet because the
ring is not in use (R393). -/
structure Latch where
  first : Option Report
  latest : Option Report
  repPend : Nat
  lostPend : Nat
  deriving DecidableEq, Repr

/-- The recorder: latches by SOURCE, the source served last, whether the ring is in use (R393: from the check at S8),
and the early slots in use. -/
structure ErrSt where
  latches : Sparse Latch
  lastSrc : Nat
  ringReady : Bool
  earlyUsed : Nat
  deriving DecidableEq, Repr

/-! ## Cores (spec/06, spec/07) -/

/-- Why a sub-group is not ready (R117, R118, R120, R154, R159). -/
inductive Wait where
  | none
  | join
  | barrier (train : Bool) (id : Nat)
  | handle (h : Nat)
  | spool (pd : Nat) (mask : BitVec 32)
  deriving DecidableEq, Repr

/-- A sub-group (R116): its lanes, its instruction pointer, the split records it is under (innermost first), its wait with the
count at which it began (R395), and the tags of writes to other modules that its acquires have made visible to it (R221). -/
structure Sub where
  mask : BitVec 32
  pc : DWord
  stack : List Nat
  wait : Wait
  since : DWord
  seen : List Nat
  deriving DecidableEq, Repr

/-- A group (R106, R128): registers t (key lane + 32 * number), u, p (key as t), h (the 64-bit handle value of R153), LSTAT
(R161), its sub-groups, its split records (R117: number, join address), and the t registers in error (key as t; 1 a single-bit
error, 2 a double-bit one: R176). -/
structure Group where
  t : Sparse Word
  u : Sparse Word
  p : Sparse Bool
  h : Sparse DWord
  lstat : Word
  subs : List Sub
  splits : List (Nat × DWord)
  nextSplit : Nat
  bad : Sparse Nat
  deriving DecidableEq, Repr

/-- A resident block (R106 to R113): its launch and that one's ring, place in the grid and train, its allocation, its groups. -/
structure Block where
  launch : Nat
  ring : Nat
  ctx : Nat
  bid : Nat × Nat × Nat
  trank : Nat
  train : Nat
  base : Nat
  ls : Nat
  wb : Bool
  regs : Nat
  split : Nat
  threads : Nat
  groups : Sparse Group
  deriving DecidableEq, Repr

/-- The instruction of a thread access: its group, lane mask and address, as a fault record names them (R126), and the ring that
launched its block (R316). -/
structure Origin where
  ring : Option Nat
  grp : Nat
  mask : BitVec 32
  pc : DWord
  deriving DecidableEq, Repr

/-- No instruction: an engine's access. -/
def Origin.none : Origin := { ring := Option.none, grp := 0, mask := 0, pc := 0 }

/-- A line of a core's cache part (R146, R180): its bytes, which of them are modified, the context that allocated it, for a
line of another module's memory that module, page and offset, its place in the cache part (R164), and the store that last
modified it. -/
structure Line where
  bytes : List Byte
  dirty : BitVec 64
  ctx : Nat
  remote : Option (Nat × Nat × Nat)
  slot : Nat
  org : Origin
  deriving DecidableEq, Repr

/-- A footprint range, rounded out to granules; local and wide-buffer ranges by physical address, VA ranges by
context and virtual address above 2^70, since aliases count as different bytes (R206, R216). -/
structure Range where
  base : Nat
  len : Nat
  deriving DecidableEq, Repr

/-- A staged or pending write of some bits of a byte: address, bit mask, value. -/
structure BitWrite where
  addr : Nat
  mask : Byte
  val : Byte
  deriving DecidableEq, Repr

/-- Counts that conversions contribute (R41, R70). -/
structure CvtCounts where
  sat : Nat
  infs : Nat
  nans : Nat
  deriving DecidableEq, Repr

/-- A replay stage (R67): its tile, the writes it holds, its counts. -/
structure Stage where
  tile : Nat
  writes : List BitWrite
  deriving DecidableEq, Repr

/-- An array operation, queued or running (R50, R68): the captured descriptor words and layout words, who issued it, the
shadow descriptor's words when it is sampled (R86), and how far it has come. A chained operation stands in all three
queues under one `seq`. `tile` is the next tile (or sparse pass) to feed, `fed` the tiles fed and not converted, `refeed` those
discarded and not fed again, `refed` the exponent (plus 256) of tiles fed again, `clampS` that of the last tile clamped; `refused` is
the status of an operation refused at issue, which only waits to report it (R155). -/
structure ArrOp where
  seq : Nat
  desc : List Word
  la : List Word
  lb : List Word
  lo : List Word
  shadow : List Word
  owner : Nat × Nat × Nat
  ctx : Nat
  base : Nat
  ls : Nat
  width : Nat
  reads : List Range
  writes : List Range
  tile : Nat
  entry : Nat
  rowBits : Sparse Nat
  fed : List Nat
  refeed : List Nat
  refed : Sparse Nat
  stages : List Stage
  done : Sparse Bool
  cvt : CvtCounts
  replays : Nat
  clamped : Nat
  clampS : Nat
  freeze : Nat
  segments : Nat
  bad : Option Nat
  nanSeen : Bool
  killed : Bool
  refused : Option Nat
  deriving DecidableEq, Repr

/-- One array (R45, R50, R60): its shape, the operations queued, the ones running (at most two: one feeding, one whose
stages or completion remain). -/
structure ArraySt where
  shape : Nat
  queue : List ArrOp
  running : List ArrOp
  deriving DecidableEq, Repr

/-- Progress of a copy: refused at issue, which only waits to report its status (R157), held, reading a remote source, ended by a
list entry that is not reported yet (R203), moved. -/
inductive CopyPhase where
  | refused
  | held
  | reading
  | badList
  | moved
  deriving DecidableEq, Repr

/-- A stream-engine copy (R197, R209): its captured descriptor and layouts, the resolved bases of its sides (physical for
local store, cluster-local and wide buffer; virtual for VA), footprints, source blocks of 64 bytes that came from other modules,
requests without an answer, and what it has written: `share` counts bytes by device id, `counted` those already
counted (R213). -/
structure CopyOp where
  seq : Nat
  id : Nat
  desc : List Word
  ls : List Word
  ld : List Word
  owner : Nat × Nat × Nat
  ctx : Nat
  base : Nat
  sBase : Nat
  dBase : Nat
  reads : List Range
  writes : List Range
  phase : CopyPhase
  fetched : Sparse (List Byte)
  waits : Nat
  status : Nat
  index : Nat
  bytes : Nat
  share : Sparse Nat
  counted : Sparse Nat
  clampCnt : Nat
  used : Nat
  texp : Nat
  deriving DecidableEq, Repr

/-- The header of a region on another module that a LOAD about to be captured has asked for (R208): who issues it, the region's
address, and its bytes once they have come (none of them where it cannot be read). -/
structure LoadHead where
  blk : Nat
  grp : Nat
  ctx : Nat
  va : Nat
  data : Option (List Byte)
  deriving DecidableEq, Repr

/-- States of a drogue capture slot (R88). -/
inductive SlotPhase where
  | captured
  | computed
  deriving DecidableEq, Repr

/-- A drogue capture slot (R88): the operation and tile captured, the captured values (row, column, FP32 bits), the
recomputed values, the array that recomputes, and the abandonments so far. -/
structure Capture where
  op : ArrOp
  tile : Nat
  vals : List (Nat × Nat × FVal)
  wide : List (Nat × Nat × Word)
  phase : SlotPhase
  abandoned : Nat
  arr : Nat
  deriving DecidableEq, Repr

/-- One core (R45, R106, R111, R146, R209): resident blocks by residence number, split and the split it is changing to,
cache part, its copy of the array map (R58), arrays F D W, copies held (issue order), headers asked for, capture slots, place in
the core order (R215), whether its clock is stopped (R407), and where its issue scheduler goes on in the round (R118). -/
structure Core where
  blocks : Sparse (Option Block)
  nextBlk : Nat
  split : Nat
  newSplit : Option Nat
  cache : Sparse (Option Line)
  mapCopy : Option (Word × Word)
  arrays : List ArraySt
  copies : List CopyOp
  heads : List LoadHead
  captures : List (Option Capture)
  nextSeq : Nat
  stopped : Bool
  turn : Nat
  deriving DecidableEq, Repr

/-- A launch in progress (R109, R110): its parameters, the ring and index of its descriptor, the next block train to
place, and the blocks that have left. -/
structure Launch where
  ring : Nat
  index : Nat
  ctx : Nat
  entry : DWord
  args : DWord
  gx : Nat
  gy : Nat
  gz : Nat
  threads : Nat
  train : Nat
  split : Nat
  lsKiB : Nat
  regs : Nat
  wb : Bool
  resident : Bool
  placed : Nat
  released : Nat
  deriving DecidableEq, Repr

/-! ## Requests in flight -/

/-- Who waits for a fabric response (R282): a load of one lane (`fill`: a whole line for the cache part), an atomic with the
lanes it serves and the value combined below each (R124; none: the value itself), a store, a line written back, a LOAD that is
to be captured, a copy, the link engine, a buddy checkpoint's slot (R333, R336), a service core (R324), or nobody any more: a
unit whose context has been reset (R400), of which the SOURCE is left (R388). -/
inductive Owner where
  | thread (core blk grp lane : Nat) (d : BitVec 9) (wid : Nat) (fill : Bool)
  | atomic (core blk grp : Nat) (d : BitVec 9) (op ty : Nat) (lanes : List (Nat × Option Nat))
  | store (core blk grp : Nat)
  | line (core : Nat)
  | copyHead (core blk grp : Nat)
  | copyRead (core id off : Nat)
  | copyWrite (core id : Nat)
  | linkRead (ring index off : Nat)
  | linkWrite (ring index : Nat)
  | ckWrite (ck : Nat)
  | ckRead (ck pos : Nat)
  | gondola (sc : Nat)
  | gone (src : Nat)
  deriving DecidableEq, Repr

/-- A fabric request without its response (R281, R282): its type, destination, issuing context, access address, when it
was issued, the instruction that made it, whether it is an acquire (R220), whether a later issue has written its u register
(R131), and whether the core has since written bytes of the line that its data would fill (R215). -/
structure Req where
  ptype : BitVec 4
  dst : Nat
  ctx : Nat
  owner : Owner
  addr : DWord
  since : DWord
  org : Origin
  acq : Bool
  stale : Bool
  noFill : Bool
  deriving DecidableEq, Repr

/-- What a host read is for (R299). -/
inductive HostRead where
  | descriptor (ring : Nat) (index n : Nat)
  | doorbell (ring : Nat)
  | copy (ring index off : Nat)
  | moored
  deriving DecidableEq, Repr

/-- Messages to the host adapter (R298). -/
inductive HostMsg where
  | hwrite (addr : DWord) (data : List Byte)
  | hread (tag : Nat) (addr : DWord) (len : Nat)
  | mresp (tag : Nat) (v : Word)
  | intr (vec : Nat)
  | sideband (data : List Byte)
  | mgmt (path : MgmtPath) (data : List Byte)
  | spdm (tr : Transport) (data : List Byte)
  deriving DecidableEq, Repr

/-- A sub-group at SPL.WAIT or a ring at SPOOL_WAIT (R159, R222, R314): the counter, the target, and the outcome once a
change has satisfied it (true: reached, false: poisoned). -/
structure Waiter where
  who : WaitUnit
  id : Nat
  target : Nat
  result : Option Bool
  deriving DecidableEq, Repr

/-! ## Reduction, factors, updates (spec/11, spec/12) -/

/-- A reduction segment (R230): header fields and its 32 FP32 values. -/
structure Segment where
  down : Bool
  poison : Bool
  node : Nat
  seg : Nat
  step : Nat
  vals : List Word
  deriving DecidableEq, Repr

/-- What a table entry remembers between firings (R237): the counter change of its last firing, or of its arming. -/
structure Firing where
  change : Nat
  again : Bool
  deriving DecidableEq, Repr

/-- The work of a factor unit (R245): fired entries waiting, and the one running with its results. -/
structure FactorJob where
  entry : List Word
  poisoned : Bool
  computed : Bool
  out : List Word
  record : List Word
  deriving DecidableEq, Repr

/-- A shard update between its firing and its completion (R262, R265, R266): the entry as it stood before the firing, the
group's STEP and rate exponent then, the status, the largest binade of a scaled step (none: every one zero), whether one
was not finite, and the counts of the records. -/
structure ShardJob where
  entry : List Word
  status : Nat
  gstep : Word
  uexp : Nat
  dmax : Option Int
  stepBad : Bool
  zcnt : Nat
  momFloor : Nat
  frozen : Nat
  sat : Nat
  mclamp : Nat
  pblocks : Nat
  nonfinite : Nat
  deriving DecidableEq, Repr

/-- The reduction, factor and update units: staged values in pair lines (key node * 2^26 + segment), the lines in use, oldest
first, with their controller and staging address; this module's own segments in flight; firing memory of node and update entries, with the counter changes at
the last NT_INV or UT_INV of every entry; factor units; shard jobs by update-table index; entries as they are cached
(R231, R253). -/
structure Tables where
  staged : Sparse (List Word)
  lines : List (Nat × Nat × Nat)
  segQ : List Segment
  nodeFire : Sparse Firing
  updFire : Sparse Firing
  armNode : Sparse Nat
  armUpd : Sparse Nat
  factor : Sparse (List FactorJob)
  shards : Sparse (Option ShardJob)
  nodeCache : Sparse (List Word)
  updCache : Sparse (List Word)
  deriving DecidableEq, Repr

/-! ## Rings and the link engine (spec/14) -/

/-- A started, or refused, descriptor: its words, and its completion status and detail once it has them, with the local count of
its completion (R319). -/
structure Started where
  words : List Word
  refused : Bool
  result : Option (Nat × Nat)
  doneAt : DWord
  deriving DecidableEq, Repr

/-- A COPY or FILL that the link engine runs (R310): source bytes read and not written yet, bytes written, whether a
read is outstanding, whether it has moved everything, the status that ends it, and its share by device (R213). -/
structure LinkJob where
  data : List Byte
  done : Nat
  waits : Nat
  moved : Bool
  status : Nat
  share : Sparse Nat
  deriving DecidableEq, Repr

/-- A ring beside its registers (R302 to R308): bound by the gondola, fetched descriptors by index (raw words and the status
of their read), started descriptors by index, re-reads of the descriptor at HEAD and when a descriptor last
arrived, stop request, inside a collective (R351), the Sornal link lost since it ran (R301), SPOOL_WAIT in force with the count
at which it began (R395), link
jobs by index, and when its doorbell word was last polled. -/
structure Ring where
  bound : Bool
  fetched : Sparse (List Word × Nat)
  started : Sparse (Option Started)
  retries : Nat
  lastTry : DWord
  stopping : Bool
  coll : Bool
  linkLost : Bool
  waiting : Option Nat
  waitSince : DWord
  jobs : Sparse (Option LinkJob)
  lastPoll : DWord
  deriving DecidableEq, Repr

/-- An interrupt vector (R321): when its last INTR was sent, the hold in force, whether one fell due within it. -/
structure Vector where
  since : DWord
  hold : Nat
  holding : Bool
  due : Bool
  deriving DecidableEq, Repr

/-! ## Links (spec/13) -/

/-- A flit as a link sends it (R271): its fields and the 244 bytes of its payload. -/
structure Flit where
  ftype : Nat
  seq : Nat
  ack : Nat
  nak : Bool
  q : Nat
  cqa : Nat
  ca : Nat
  cqb : Nat
  cb : Nat
  payload : List Byte
  deriving DecidableEq, Repr

/-- A packet that waits on a link: its queue, the ring whose descriptor it is a host write of (R320), its bytes still to be sent. -/
structure TxPacket where
  q : Nat
  ring : Option Nat
  bytes : List Byte
  deriving DecidableEq, Repr

/-- A Bihel port (0 to 15) or the Sornal link (16) at the flit layer (R271 to R277): the next SEQ to send, the SEQ last
received in order, the replay buffer (SEQ, queue, payload), packets waiting, credits held, credits and NAK that the next flit
sent carries, the ACK last sent, whether NAK has been sent since the last flit in order, the part of a packet received by queue,
when the last good flit came, ACK last moved and the training state began, the lanes that pass, whose turn REQ and RED have, the port
number and the serial number that the other side gave in WIDTH, and the flits sent, the first first. -/
structure Link where
  txSeq : Nat
  rxAck : Nat
  unacked : List (Nat × Nat × List Byte)
  txWait : List TxPacket
  credits : Sparse Nat
  giveBack : Sparse Nat
  rx : Sparse (List Byte)
  nak : Bool
  ackSent : Nat
  nakSent : Bool
  lastGood : DWord
  lastAck : DWord
  since : DWord
  lanes : BitVec 8
  turn : Bool
  peer : Option (BitVec 4 × BitVec 128)
  sent : List Flit
  deriving DecidableEq, Repr

/-! ## Services (spec/15) -/

/-- A collective tree set built by the coordinator (R332): owning context, the request, the indices allocated on this module,
whether every peer's index is known, and then the entries with their words as BUILD formed them. -/
structure TreeSet where
  ctx : Nat
  arg : BuildArg
  ids : List Nat
  ready : Bool
  entries : List (Nat × List Word)
  deriving DecidableEq, Repr

/-- A checkpoint copy under way (R333, R334): the slot's STEP, the bytes and their CRC-32C, the STEP of each named group when
they were read, whether a poisoned block was met, and, once the slot's header is sent, whether it said TORN. -/
structure CkCopy where
  step : Word
  len : Nat
  crc : Word
  steps : List Word
  bad : Bool
  torn : Option Bool
  deriving DecidableEq, Repr

/-- A buddy checkpoint (R333): its trigger's target and last firing (R237), and the copy under way. -/
structure Checkpoint where
  ctx : Nat
  arg : CheckpointArg
  firing : Firing
  target : Nat
  copying : Option CkCopy
  deriving DecidableEq, Repr

/-- An input relay stream (R338): batches judged, bytes of the staging counter accounted for, the release counter at OPEN,
slots whose credit has gone back, slots whose batch header has come and has not been judged. -/
structure Stream where
  ctx : Nat
  arg : StreamArg
  seqNo : Nat
  staged : Nat
  released : Nat
  freed : Nat
  headers : List Nat
  deriving DecidableEq, Repr

/-- A group under the numerics service (R84, R337): the addresses of its shard numerics records, and what it has combined
last: the step, the largest DMAX, the sums of ZCNT and MOM_FLOOR. -/
structure NumGroup where
  ctx : Nat
  recs : List Nat
  last : Option (Word × Int × Nat × Nat)
  deriving DecidableEq, Repr

/-- A request that a service has taken and not answered (R330): its ring and index, service and operation, and whether it has
begun. -/
structure SvcWait where
  ring : Nat
  index : Word
  svc : Nat
  op : Nat
  begun : Bool
  deriving DecidableEq, Repr

/-- Stage 5 of a recovery (R336, R409): what the coordinators agreed on, the restored step once it is chosen, whether a slot has
not been read, and what has been read of the slots: checkpoint, position, bytes. -/
structure Restore where
  data : RecoveryData
  step : Option Word
  failed : Bool
  got : List (Nat × Nat × List Byte)
  deriving DecidableEq, Repr

/-- What the gondola's services hold beside registers: ranges not to be granted again yet (R401: first, last, since when,
epoch), tree sets, checkpoints, streams, numerics groups, WAIT requests of recovery (ring, index, spare), the
recovery stage (R336) with the cuts it began with and its stage 5, the job's rank list with this module's rank (R331), requests not
answered yet (R330), service messages heard, the last first, with their senders (R335), and when each service core last checked in
with the keeper (R326), and what was written to CL_CTRL of each cluster (R403). -/
structure Services where
  retired : List (Nat × Nat × DWord × Nat)
  trees : Sparse (Option TreeSet)
  ckpts : Sparse (Option Checkpoint)
  streams : Sparse (Option Stream)
  groups : Sparse (Option NumGroup)
  waits : List (Nat × Nat × Nat)
  stage : Nat
  ranks : List (BitVec 24)
  rank : Nat
  lostSet : List Nat
  restore : Option Restore
  queue : List SvcWait
  inbox : List (Nat × List Word)
  checkin : Sparse DWord
  clCtrl : Sparse Word
  deriving DecidableEq, Repr

/-! ## Power (spec/16) -/

/-- A partition's power state (R341 to R360) beside PART_STATUS: divider code running and the one decided, rail in
millivolts and whether it ramps, the guard that a hint asked for and the guard in force in millivolts with when its load begins and
how long it lasts, droop stretch, whether the rail is still below the warning level and when it came back to it, last droop record,
episodes of the thermal and neighbour ceilings (since when, steps taken), no valid sensor with the thermal ceiling of before, held
below its preferred point in this telemetry window, retention (asleep), when it became idle. -/
structure Partition where
  code : Nat
  toCode : Option Nat
  rail : Nat
  ramping : Bool
  fullGuard : Nat
  guard : Nat
  guardLoad : DWord
  guardHold : Nat
  stretching : Bool
  below : Bool
  aboveSince : DWord
  lastDroop : Option DWord
  hot : Option (DWord × Nat)
  cool : Option (DWord × Nat)
  nbHot : Option (DWord × Nat)
  nbCool : Option (DWord × Nat)
  invalid : Bool
  savedTh : Nat
  throttled : Bool
  asleep : Bool
  idleSince : DWord
  deriving DecidableEq, Repr

/-- The power controller (R341 to R353): partitions, free-flight mode as the last evaluation took it (R363), the software cap in force (PWR_CAP_SW may hold a pending one), the pending
cap's deadline, duty eighths, last cap step, mismatch windows, whether max(E, M) stands for P, the last
evaluation, window and sample, and the estimators' last reading. -/
structure Power where
  parts : Sparse Partition
  free : Bool
  swForce : Nat
  deadline : DWord
  duty : Nat
  lastStep : Option DWord
  disagree : Nat
  agree : Nat
  useMax : Bool
  lastEval : Option DWord
  lastWindow : Option DWord
  lastSample : Option DWord
  reading : PowerReading
  deriving DecidableEq, Repr

/-! ## Start, resets, management (spec/17, spec/18, spec/20) -/

/-- A start-journal entry (R375): START_SEQ, kind (0 cold, 1 reset, 2 SELFTEST), the START_PROGRESS word of each step (0 before
it begins), the level of each step, PORT_STATUS of the Bihel ports at the end of S6, which shows those that are DOWN with their
causes (R367), and where S3 failed in its core: array (0 F, 1 D, 2 W) and physical column. -/
structure Journal where
  seq : Word
  kind : Nat
  words : List Word
  levels : List Nat
  ports : List Word
  site : Nat × Nat
  deriving DecidableEq, Repr

/-- What the boot flow holds outside registers. In flash: whether it holds a written image or record in place of the
factory ones (R371, R373) and their bytes, the monotonic counters, the journal (newest first), units that fallbacks took
out of service, columns that they bypass (core, array, column), the lists in service of the last start (R169). In the keeper: HOLD and the temperature wait (R368, R381).
Of the start in progress: levels, kind, form, when its step began, whether it keeps memory, which DRAMs are in
self-refresh, whether HOLD stops it, which steps passed, the measurements taken (R384: index, raw, value), the image running, bytes of a host image read so far and the moored command
that reads them, the launch map's GEN and address, and whether the error ring was kept (R405). -/
structure Start where
  imageWritten : Bool
  recordWritten : Bool
  flash : Sparse Byte
  counter0 : Word
  counter1 : Word
  journal : List Journal
  offline : List Nat
  outBmc : List Nat
  outLmc : List Nat
  narrow : List (Nat × Nat × Nat)
  prevLists : List Nat
  hold : Bool
  tripWait : Bool
  levels : List Nat
  kind : Nat
  full : Bool
  running : Bool
  since : DWord
  keepMem : Bool
  selfB : Bool
  selfL : Bool
  holdNow : Bool
  s1Passed : Bool
  s6Passed : Bool
  measured : List (Nat × Bool × List Byte)
  moored : Bool
  svn : Word
  hostImage : Bool
  hostBytes : List Byte
  moorJob : Nat
  mapGen : Word
  lmap : Nat
  ringKept : Bool
  deriving DecidableEq, Repr

/-- An SPDM connection (R383, R385): how far negotiation has come. -/
structure Spdm where
  versioned : Bool
  capable : Bool
  negotiated : Bool
  deriving DecidableEq, Repr

/-- A rung of the escalation ladder for one engine (R398): the level reached, when, and the contexts that level 1 resets. -/
structure Rung where
  unit : EngineUnit
  level : Nat
  since : DWord
  ctxs : List Nat
  deriving DecidableEq, Repr

/-- Resets asked for and not performed yet (R399), a power cycle due (R406), a start held by
the reset line (R436), the ladder (R398), and the flags of a SELFTEST (R378). -/
structure Resets where
  contexts : List Nat
  engines : List EngineUnit
  parts : List Nat
  chip : Option ResetReason
  cycle : Bool
  held : Bool
  rungs : List Rung
  flags : Word
  deriving DecidableEq, Repr

/-- The management port (R431 to R438): MID as read from the straps, LAST_RESULT, MOD_STATUS as the keeper stores it (UP, MOORED,
PCYC_REQ and STANDBY are formed when it is read), open sense pairs, RESET# low, PWRGD, the root PLL's lock lost, the hottest
valid sensor. -/
structure Mgmt where
  mid : BitVec 5
  lastResult : Nat
  modStatus : Word
  sense : BitVec 16
  resetLow : Bool
  pwrgd : Bool
  stopped : Bool
  hottest : Nat
  deriving DecidableEq, Repr

/-! ## The whole block -/

/-- The state of the GY2 module as this model holds it. -/
structure State where
  pending : List Instr
  /-- The model's own draw number for free values (log 2); no statement rests on it. -/
  freeCtr : Nat
  powered : Bool
  lcount : DWord
  /-- LCOUNT_HI as latched for each requester (R422): service cores 0 to 7, the host 8, core n 16 + n. -/
  lcLatch : Sparse Word
  /-- Partitions whose replica of the local counter is one count behind (R19). -/
  late : List Nat
  /-- When an engine last made progress (R395), by its key. -/
  progress : Sparse DWord
  mem : Sparse Byte
  /-- Ranges of SRAM that a reset or a sleep lost (R408 code L) and nothing has rewritten: base, length, first free-value draw. -/
  lost : List (Nat × Nat × Nat)
  poison : Sparse Bool
  defects : Sparse Nat
  /-- The CRC field of a block's metadata word, as its difference from the CRC of the block's data and address (R171). -/
  crcOff : Sparse Word
  sramBad : Sparse Nat
  eccFixed : Sparse Nat
  /-- Block scales, by address, that will not match their complement at the feeder the next so many times (R25, R187). -/
  scaleBad : Sparse Nat
  /-- Map-cache and window-cache entries in error, keyed as the caches are (R176). -/
  fcacheBad : Sparse Nat
  wcacheBad : Sparse Nat
  scrub : Sparse Nat
  /-- When a channel (64 * die + channel) was last retrained (R170), plus 1. -/
  retrained : Sparse Nat
  spool : Sparse DWord
  /-- The values that changes have given a counter, the last first (R160): a trigger is judged at each change (R237). -/
  spoolChg : Sparse (List DWord)
  waiters : List Waiter
  setup : Sparse Word
  keeper : Sparse Word
  /-- The pending RWC value of a block, by the block's offset: the value word's offset and the value (R6). -/
  rwcPend : Sparse (Option (Nat × Word))
  /-- Invalidations by kind (0 WT, 1 FAMAP, 2 NT, 3 UT): the one in progress, then those held (R420). -/
  invQueue : Sparse (List Word)
  wcache : Sparse (Option (List (List Word)))
  fcache : Sparse (Option DWord)
  err : ErrSt
  cores : Sparse Core
  launches : Sparse (Option Launch)
  nextLaunch : Nat
  reqs : Sparse (Option Req)
  hreads : Sparse (Option HostRead)
  hostOut : List HostMsg
  fabOut : List (Nat × Packet)
  cut : List Nat
  cutAll : Bool
  tables : Tables
  rings : Sparse Ring
  vectors : Sparse Vector
  links : Sparse Link
  svc : Services
  power : Power
  start : Start
  spdm : Sparse Spdm
  resets : Resets
  mgmt : Mgmt
  standby : Bool
  deriving DecidableEq, Repr

/-! ## Defaults and reset -/

/-- A latch pair with nothing latched. -/
def Latch.empty : Latch := { first := none, latest := none, repPend := 0, lostPend := 0 }

/-- A group at its block's start (R112), at count `now`: everything zero, every handle INVALID. -/
def Group.start (mask : BitVec 32) (entry : DWord) (now : DWord := 0) : Group :=
  { t := [], u := [], p := [], h := [], lstat := 0, splits := [], nextSplit := 0
    bad := [], subs := [{ mask := mask, pc := entry, stack := [], wait := .none, since := now, seen := [] }] }

/-- An empty group, what a group number that does not exist reads as. -/
def Group.none : Group := { t := [], u := [], p := [], h := [], lstat := 0, subs := [], splits := [], nextSplit := 0, bad := [] }

/-- An idle array in the 16 x 16 shape (R60). -/
def ArraySt.idle : ArraySt := { shape := 0, queue := [], running := [] }

/-- A core with nothing on it. -/
def Core.idle : Core :=
  { blocks := [], nextBlk := 0, split := 0, newSplit := none, cache := [], mapCopy := none
    arrays := [.idle, .idle, .idle], copies := [], heads := [], captures := [none, none], nextSeq := 0, stopped := false
    turn := 0 }

/-- A ring that is not bound (R322). -/
def Ring.empty : Ring :=
  { bound := false, fetched := [], started := [], retries := 0, lastTry := 0, stopping := false, coll := false
    linkLost := false, waiting := none, waitSince := 0, jobs := [], lastPoll := 0 }

/-- A vector with no hold in force. -/
def Vector.idle : Vector := { since := 0, hold := 0, holding := false, due := false }

/-- A link before training. -/
def Link.off : Link :=
  { txSeq := 1, rxAck := 0, unacked := [], txWait := [], credits := [], giveBack := [], rx := [], nak := false
    ackSent := 0, nakSent := false, lastGood := 0, lastAck := 0, since := 0, lanes := 0, turn := false, peer := Option.none
    sent := [] }

/-- No firing yet. -/
def Firing.none : Firing := { change := 0, again := false }

/-- A partition as S0 brings it up: divide by 16 and 0.60 V (R368, R403). -/
def Partition.atReset : Partition :=
  { code := 6, toCode := none, rail := 600, ramping := false, fullGuard := 0, guard := 0, guardLoad := 0, guardHold := 0
    stretching := false, below := false, aboveSince := 0, lastDroop := none, hot := none, cool := none, nbHot := none, nbCool := none, invalid := false
    savedTh := 0xF, throttled := false, asleep := false, idleSince := 0 }

/-- Power controller after a power cycle; the software cap is 1,350 W (R348). -/
def Power.atReset : Power :=
  { parts := [], free := false, swForce := 1350, deadline := 0, duty := 8, lastStep := none, disagree := 0, agree := 0, useMax := false
    lastEval := none, lastWindow := none, lastSample := none, reading := { est := 0, part := [], ifRaised := [] } }

/-- Reduction, factor and update units with nothing in them. -/
def Tables.empty : Tables :=
  { staged := [], lines := [], segQ := [], nodeFire := [], updFire := [], armNode := [], armUpd := [], factor := []
    shards := [], nodeCache := [], updCache := [] }

/-- The services with nothing in force. -/
def Services.empty : Services :=
  { retired := [], trees := [], ckpts := [], streams := [], groups := [], waits := [], stage := 0, ranks := [], rank := 0
    lostSet := [], restore := Option.none, queue := [], inbox := [], checkin := [], clCtrl := [] }

/-- An SPDM transport without a connection. -/
def Spdm.none : Spdm := { versioned := false, capable := false, negotiated := false }

/-- No reset asked for. -/
def Resets.none : Resets :=
  { contexts := [], engines := [], parts := [], chip := Option.none, cycle := false, held := false, rungs := []
    flags := 0 }

/-- The boot flow of a module that is powered for the first time (R368, R375): the first start has START_SEQ 0 (log 42). -/
def Start.first : Start :=
  { imageWritten := false, recordWritten := false, flash := [], counter0 := 0, counter1 := 0
    journal := [{ seq := 0, kind := 0, words := List.replicate 9 0, levels := List.replicate 9 0, ports := [], site := (0, 0) }]
    offline := [], outBmc := [], outLmc := [], narrow := [], prevLists := [], hold := false, tripWait := false
    levels := List.replicate 9 0, kind := 0, full := true, running := true, since := 0, keepMem := false, selfB := false
    selfL := false, holdNow := false, s1Passed := false, s6Passed := false, measured := [], moored := false, svn := 0, hostImage := false
    hostBytes := [], moorJob := 0, mapGen := 0, lmap := 0, ringKept := false }

/-- Error recorder at power-on (R393). -/
def ErrSt.atReset : ErrSt := { latches := [], lastSrc := 0xFFF, ringReady := false, earlyUsed := 0 }

/-- Management port at power-on (R434, R435): MOD_STATUS.KEEPER reads 1. -/
def Mgmt.atReset : Mgmt :=
  { mid := 0, lastResult := 0, modStatus := 1, sense := 0, resetLow := false, pwrgd := false, stopped := false
    hottest := 0 }

/-- The module right after power-on: the keeper is powered, every register holds its Reset value (log 1 for those
whose Reset entry is X), and step S0 runs (R368, R369). Nothing waits. -/
def State.reset : State :=
  { pending := [], freeCtr := 0, powered := true, lcount := 0, lcLatch := [], late := [], progress := [], mem := [], lost := [], poison := [], defects := []
    crcOff := [], sramBad := [], eccFixed := [], scaleBad := [], fcacheBad := [], wcacheBad := [], scrub := [], retrained := [], spool := [], spoolChg := [], waiters := [], setup := [], keeper := [], rwcPend := []
    invQueue := [], wcache := [], fcache := [], err := .atReset, cores := [], launches := [], nextLaunch := 0, reqs := []
    hreads := [], hostOut := [], fabOut := [], cut := [], cutAll := false, tables := .empty, rings := [], vectors := []
    links := [], svc := .empty, power := .atReset, start := .first, spdm := [], resets := .none, mgmt := .atReset
    standby := false }

end Sys2Proof.Machine
end

