-- ==== Sys2Proof/Machine/Regs.lean ====
section
/-! DEFINITION. The registers of the set-up window (spec/19, R410 to R425, and the register tables of the other chapters)
and of the keeper: where each lies, its reset value, which bits a plain write stores, how it is locked or committed. -/
namespace Sys2Proof.Machine

/-! ## Offsets -/

/-- Cluster block of cluster `c`, and the sub-block of core `n` (R412). -/
def offCluster (c : Nat) : Nat := 0x20000 * c
def offCore (n : Nat) : Nat := offCluster (n / 16) + 0x1000 * (n % 16 + 1)
/-- Conversion counter `i` of core `n`: 0 SAT, 1 INF, 2 NAN (R41). -/
def offCvt (n i : Nat) : Nat := offCore n + 4 * i
/-- Array counter `i` of array `a` (0 F, 1 D, 2 W) of core `n` (R71). -/
def offArr (n a i : Nat) : Nat := offCore n + 0x100 + 0x20 * a + 4 * i
def offRepack (n : Nat) : Nat := offCore n + 0x200
/-- Partition block (R415). -/
def offPart (p : Nat) : Nat := 0x1000000 + 0x10000 * p
def offFuDone (p : Nat) : Nat := offPart p + 4
/-- Controller blocks (R416): 0 to 31 the LMCs, 32 to 47 the BMCs. -/
def offMc (mc : Nat) : Nat := if mc < 32 then 0x1200000 + 0x1000 * mc else 0x1220000 + 0x1000 * (mc - 32)
def offRa (mc i : Nat) : Nat := offMc mc + 0x100 + 4 * i
def offUu (mc i : Nat) : Nat := offMc mc + 0x200 + 4 * i
/-- Port block (R293); `offPortStatus 16` is SORNAL_STATUS (R322). -/
def offPort (n : Nat) : Nat := 0x1300000 + 0x100 * n
def offFabJob : Nat := 0x1301000
def offMem : Nat := 0x1310000
def offTbl : Nat := 0x1320000
def offCtx (c : Nat) : Nat := 0x1330000 + 0x10 * c
def offArrayMap (n : Nat) : Nat := 0x1340000 + 8 * n
def offHost : Nat := 0x1400000
def offRing (r : Nat) : Nat := offHost + 0x1000 + 0x40 * r
def offMoor : Nat := 0x1400800
def offErrMirror : Nat := 0x1400880
def offPwr : Nat := 0x1500000
def offGond : Nat := 0x1600000
def offAper : Nat := 0x1700000
def offPartStatus (p : Nat) : Nat := offPwr + 0x80 + 4 * p
def offPp (p i : Nat) : Nat := offPwr + 0x100 + 0x10 * p + 4 * i
def offPhaseTable (n : Nat) : Nat := offPwr + 0x40 + 4 * n
/-- PORT_STATUS of a Bihel port, SORNAL_STATUS for link 16. -/
def offLinkStatus (k : Nat) : Nat := if k < 16 then offPort k + 0x20 else offHost
/-- Counter `i` of a link: 0 CRC_ERR, 1 RESEND, 2 NARROW, 3 LOSS (R293, R322). -/
def offLinkCnt (k i : Nat) : Nat := if k < 16 then offPort k + 0x24 + 4 * i else offHost + 0x10 + 4 * i
def offFabDrop (k : Nat) : Nat := offPort k + 0x34

/-! ## Descriptions -/

/-- What a write does beyond storing plain bits. -/
inductive RegKind where
  /-- stores the bits of the mask -/
  | rw (mask : Nat)
  /-- stores the bits of the mask until the block's lock is set -/
  | rwl (mask : Nat)
  /-- the value word, then the complement word, of a complement-checked register -/
  | rwcValue (mask : Nat)
  | rwcComplement
  /-- a write that acts: the central write dispatch names what it does -/
  | acts
  deriving DecidableEq, Repr

/-- A register: reset value and kind. -/
structure RegDesc where
  reset : Word
  kind : RegKind
  deriving DecidableEq, Repr

def RegDesc.ro (reset : Word := 0) : RegDesc := { reset := reset, kind := .rw 0 }
def RegDesc.plain (mask : Nat) (reset : Word := 0) : RegDesc := { reset := reset, kind := .rw mask }
def RegDesc.locked (mask : Nat) : RegDesc := { reset := 0, kind := .rwl mask }
def RegDesc.act : RegDesc := { reset := 0, kind := .acts }
def RegDesc.rwcV (mask : Nat) (reset : Word := 0) : RegDesc := { reset := reset, kind := .rwcValue mask }
def RegDesc.rwcC : RegDesc := { reset := 0xFFFFFFFF, kind := .rwcComplement }

/-- Offset `x` of a cluster block (R412). -/
def clusterReg (x : Nat) : RegDesc :=
  if x = 0 then .plain 1 1
  else if x < 0x1000 ∨ 0x11000 ≤ x then .ro
  else
    let y := x % 0x1000
    if y = 0xC ∨ y = 0x160 ∨ y = 0x204 then .act else .ro

/-- Offset `x` of a controller block (R175, R251, R269); HOURS resets to 24 in an LMC and to 8 in a BMC. -/
def mcReg (lmc : Bool) (x : Nat) : RegDesc :=
  if x = 0x10 then .plain 0x1FFFF (if lmc then 0x10018 else 0x10008)
  else if x = 0x14 ∨ x = 0x11C ∨ x = 0x21C then .act
  else .ro

/-- Offset `x` of a port block (R293). PORT_CTRL acts through its RETRAIN and EN bits. -/
def portReg (x : Nat) : RegDesc :=
  if x = 0 then { reset := 1, kind := .acts }
  else if x = 8 ∨ x = 0x10 ∨ x = 0x18 then .rwcV 0xFFFFFF
  else if x = 0xC ∨ x = 0x14 ∨ x = 0x1C then .rwcC
  else if x = 0x38 then .act else .ro

/-- Offset `x` of the memory block (R186, R417, R418). -/
def memReg (x : Nat) : RegDesc :=
  if x = 0 ∨ x = 0x10 then .locked 1
  else if x = 4 then .locked 0xFFFF
  else if x = 8 then .locked 0x7FFFFF
  else if x = 0xC then .locked 0xFFFFFF else .ro

/-- Offset `x` of the table block (R419). -/
def tblReg (x : Nat) : RegDesc :=
  if x = 0 ∨ x = 4 ∨ x = 0xC ∨ x = 0x14 ∨ x = 0x1C then .locked 0xFFFFFFF
  else if x = 8 then .locked 0x1FFFFF
  else if x = 0x10 then .locked 0x1FFF
  else if x = 0x18 then .locked 0x1FFFF
  else if x = 0x20 ∨ x = 0x24 ∨ x = 0x28 ∨ x = 0x2C then .act
  else if x = 0x3C then .locked 1 else .ro

/-- Offset `x` of a context's registers (R421). -/
def ctxReg (x : Nat) : RegDesc :=
  if x = 0 then .plain 0x80000100
  else if x = 4 then .rwcV 0xBFFF3FFF
  else if x = 8 then .rwcC
  else .plain 0x8FFF0FFF

/-- Offset `x` of the registers of a ring (R322). RING_BASE, CQ_BASE and RING_CFG act, because only a STOPPED ring takes a
write; RING_CFG.SIZE_LOG2 resets to 6. -/
def ringReg (x : Nat) : RegDesc :=
  if x ≤ 0xC then .act
  else if x = 0x10 then { reset := 6, kind := .acts }
  else if x = 0x14 ∨ x = 0x1C then .act
  else if x = 0x2C then .plain 0xFFFF01FF else .ro

/-- Offset `x` of the moored block (R380). -/
def moorReg (x : Nat) : RegDesc :=
  if x = 0x10 then .rwcV 0xF
  else if x = 0x14 then .rwcC
  else if x = 0x18 ∨ x = 0x1C ∨ x = 0x20 then .plain 0xFFFFFFFF else .ro

/-- Offset `x` of the power block (R364, R365). -/
def pwrReg (x : Nat) : RegDesc :=
  if x = 0 then .rwcV 0x7FF 0x546
  else if x = 4 then .rwcC
  else if x = 8 then .ro 0x5DC
  else if x = 0xC then .ro 0x546
  else if x = 0x10 then .plain 1
  else if 0x40 ≤ x ∧ x < 0x80 then { reset := 0x11111111, kind := .acts }
  else if 0x80 ≤ x ∧ x < 0xA0 then .ro 0x11FFFF00
  else if x = 0x190 then .act else .ro

/-- Offset `x` of the gondola block (R327, R397, R422). -/
def gondReg (x : Nat) : RegDesc :=
  if x = 0x20 then .plain 0xFFFFFFFF 0x05F5E100
  else if x = 0x24 then .plain 0xFFFFFFFF 0x186A0
  else if x = 0x28 then .plain 0xFFFFFFFF 0xF4240
  else if x = 0x2C then .plain 0x107 0x104
  else if x = 0x30 then .plain 0xFFFFFFFF 0xF4240 else .ro

/-- The register at an offset of the set-up window; none at a hole (R410). An offset inside a listed block that no table
names reads 0 and ignores writes (log 20). Bits [11:0] of DB_PAGE's low word, which R322 has 0, are stored as 0 (log 21). -/
def regDesc (off : Nat) : Option RegDesc :=
  if off < 0xC00000 then some (clusterReg (off % 0x20000))
  else if 0x1000000 ≤ off ∧ off < 0x1080000 then
    some (if off % 0x10000 = 0 ∨ off % 0x10000 = 8 then .act else .ro)
  else if 0x1200000 ≤ off ∧ off < 0x1220000 then some (mcReg true (off % 0x1000))
  else if 0x1220000 ≤ off ∧ off < 0x1230000 then some (mcReg false (off % 0x1000))
  else if 0x1300000 ≤ off ∧ off < 0x1301000 then some (portReg (off % 0x100))
  else if offFabJob ≤ off ∧ off < offFabJob + 0x100 then
    some (if off = offFabJob then .rwcV 0xFFFFFF00 else if off = offFabJob + 4 then .rwcC else .ro)
  else if offMem ≤ off ∧ off < offMem + 0x100 then some (memReg (off - offMem))
  else if offTbl ≤ off ∧ off < offTbl + 0x100 then some (tblReg (off - offTbl))
  else if offCtx 0 ≤ off ∧ off < offCtx 64 then some (ctxReg (off % 0x10))
  else if offArrayMap 0 ≤ off ∧ off < offArrayMap 1536 then
    some (if off % 8 = 0 then .rwcV 0xCFCFCF else .rwcC)
  else if offHost ≤ off ∧ off < offHost + 0x10000 then
    let x := off - offHost
    if x = 4 ∨ x = 0xC then some (.plain 0xFFFFFFFF (if x = 4 then 0x186A0 else 0))
    else if x = 8 then some (.plain 0xFFFFF000)
    else if x = 0x28 then some .act
    else if 0x800 ≤ x ∧ x < 0x880 then some (moorReg (x - 0x800))
    else if 0x880 ≤ x ∧ x < 0x89C then some .act
    else if 0x1000 ≤ x ∧ x < 0x3000 then some (ringReg (x % 0x40))
    else some .ro
  else if offPwr ≤ off ∧ off < offPwr + 0x1000 then some (pwrReg (off - offPwr))
  else if offGond ≤ off ∧ off < offGond + 0x1000 then some (gondReg (off - offGond))
  else if offAper ≤ off ∧ off < offAper + 0x100 then
    some (if off < offAper + 12 then .plain 0xFFFFFFFF else .ro)
  else none

/-- Reset value of a set-up register (R410 and the tables it names). -/
def regReset (off : Nat) : Word :=
  match regDesc off with
  | some d => d.reset
  | none => 0

/-- Reset value of a keeper word (R369, R390, R404, R423, R425). -/
def keeperReset (off : Nat) : Word :=
  if off = 4 then 1 else if off = 0xC then 0x0A else 0

/-! ## Access -/

/-- The stored value of a set-up register. -/
def State.reg (s : State) (off : Nat) : Word := Sparse.get regReset s.setup off

/-- Store a value in a set-up register, whatever its access code: the module's own update. -/
def State.setReg (s : State) (off : Nat) (v : Word) : State := { s with setup := Sparse.set regReset s.setup off v }

/-- The stored value of a keeper word. -/
def State.kreg (s : State) (off : Nat) : Word := Sparse.get keeperReset s.keeper off

def State.setKreg (s : State) (off : Nat) (v : Word) : State :=
  { s with keeper := Sparse.set keeperReset s.keeper off v }

/-- Replace one field of a set-up register. -/
def State.setRegFld (s : State) (off lo len v : Nat) : State := s.setReg off (setFld (s.reg off) lo len v)

/-- Raise a counter that stops at 0xFFFF_FFFF. -/
def State.count (s : State) (off n : Nat) : State := s.setReg off (satAdd32 (s.reg off) n)

/-- Set `n` consecutive registers from `off` to 0. -/
def State.clearRegs (s : State) (off : Nat) : Nat → State
  | 0 => s
  | n + 1 => (State.clearRegs s off n).setReg (off + 4 * n) 0

/-! ## Named registers -/

def State.startSeq (s : State) : Word := s.reg (offGond + 0x10)
def State.svcState (s : State) : Word := s.reg offGond
def State.up (s : State) : Bool := bitAt s.svcState 0
def State.placed (s : State) : Bool := bitAt s.svcState 1
def State.recovering (s : State) : Bool := bitAt s.svcState 2
def State.diag (s : State) : Bool := bitAt s.svcState 3
def State.setSvc (s : State) (bit : Nat) (v : Bool) : State := s.setRegFld offGond bit 1 (b2n v)
def State.deviceId (s : State) : Nat := fld (s.reg (offMem + 0xC)) 0 24
def State.gran (s : State) : Bool := bitAt (s.reg offMem) 0
def State.famapBase (s : State) : Nat := 2 ^ 28 * fld (s.reg (offMem + 4)) 0 16
def State.exportBase (s : State) : Nat := 2 ^ 21 * fld (s.reg (offMem + 8)) 0 23
def State.tblBase (s : State) (x : Nat) : Nat := 2 ^ 16 * fld (s.reg (offTbl + x)) 0 28
def State.wtBase (s : State) : Nat := s.tblBase 0
def State.ntBase (s : State) : Nat := s.tblBase 4
def State.ntSize (s : State) : Nat := (s.reg (offTbl + 8)).toNat
def State.gtBase (s : State) : Nat := s.tblBase 0xC
def State.gtSize (s : State) : Nat := (s.reg (offTbl + 0x10)).toNat
def State.utBase (s : State) : Nat := s.tblBase 0x14
def State.utSize (s : State) : Nat := (s.reg (offTbl + 0x18)).toNat
def State.drogueBase (s : State) : Nat := s.tblBase 0x1C
def State.ctxExists (s : State) (c : Nat) : Bool := bitAt (s.reg (offCtx c)) 31
def State.ctxGlobal (s : State) (c : Nat) : Bool := bitAt (s.reg (offCtx c)) 8
/-- `id` lies in the spool range of context `c` (R421). -/
def State.inSpool (s : State) (c id : Nat) : Bool :=
  let w := s.reg (offCtx c + 4)
  bitAt w 31 && decide (fld w 0 14 ≤ id) && decide (id ≤ fld w 16 14)
/-- `tag` lies in the drogue range of context `c` (R421, R337); context 0 owns every tag. -/
def State.ownsTag (s : State) (c tag : Nat) : Bool :=
  let w := s.reg (offCtx c + 0xC)
  c == 0 || (bitAt w 31 && decide (fld w 0 12 ≤ tag) && decide (tag ≤ fld w 16 12))
/-- Partition `p` is marked absent (R415). -/
def State.partAbsent (s : State) (p : Nat) : Bool := bitAt (s.reg (offPart p)) 31
def State.clusterPresent (s : State) (c : Nat) : Bool := decide (c < 96) && !s.partAbsent (c / 12)
def State.corePresent (s : State) (n : Nat) : Bool := decide (n < 1536) && !s.partAbsent (n / 192)
/-- FAB_JOB fields (R294). -/
def State.job (s : State) : Nat := fld (s.reg offFabJob) 16 16
def State.epoch (s : State) : Nat := fld (s.reg offFabJob) 8 8
def State.keepMem (s : State) : Bool := bitAt (s.kreg 4) 0
def State.ringCtx (s : State) (r : Nat) : Nat := fld (s.reg (offRing r + 0x10)) 16 6
def State.ringDev (s : State) (r : Nat) : Bool := bitAt (s.reg (offRing r + 0x10)) 8
/-- SIZE_LOG2, with 0 to 5 treated as 6 (R322). -/
def State.ringLog (s : State) (r : Nat) : Nat := max 6 (fld (s.reg (offRing r + 0x10)) 0 5)
def State.ringSize (s : State) (r : Nat) : Nat := 2 ^ s.ringLog r
def State.ringState (s : State) (r : Nat) : Nat := fld (s.reg (offRing r + 0x18)) 30 2
def State.tail (s : State) (r : Nat) : Word := s.reg (offRing r + 0x1C)
def State.head (s : State) (r : Nat) : Word := s.reg (offRing r + 0x20)
def State.retired (s : State) (r : Nat) : Word := s.reg (offRing r + 0x24)
def State.setRing (s : State) (r : Nat) (f : Ring → Ring) : State :=
  { s with rings := Sparse.modify (fun _ => Ring.empty) s.rings r f }
def State.ring (s : State) (r : Nat) : Ring := Sparse.get (fun _ => Ring.empty) s.rings r
def State.core (s : State) (n : Nat) : Core := Sparse.get (fun _ => Core.idle) s.cores n
def State.setCore (s : State) (n : Nat) (c : Core) : State :=
  { s with cores := Sparse.set (fun _ => Core.idle) s.cores n c }
def State.modCore (s : State) (n : Nat) (f : Core → Core) : State := s.setCore n (f (s.core n))
def State.link (s : State) (k : Nat) : Link := Sparse.get (fun _ => Link.off) s.links k
def State.setLink (s : State) (k : Nat) (f : Link → Link) : State :=
  { s with links := Sparse.modify (fun _ => Link.off) s.links k f }
def State.part (s : State) (p : Nat) : Partition := Sparse.get (fun _ => Partition.atReset) s.power.parts p
def State.setPart (s : State) (p : Nat) (f : Partition → Partition) : State :=
  { s with power := { s.power with parts := Sparse.modify (fun _ => Partition.atReset) s.power.parts p f } }
/-- Training state of a link (R277): 5 is UP. -/
def State.linkState (s : State) (k : Nat) : Nat := fld (s.reg (offLinkStatus k)) 28 4
def State.linkUp (s : State) (k : Nat) : Bool := s.linkState k == 5
def State.jobPort (s : State) (k : Nat) : Bool := decide (k < 16) && bitAt (s.reg (offPort k)) 2
/-- The next free-value draw. -/
def State.draw (s : State) : Nat × State := (s.freeCtr, { s with freeCtr := s.freeCtr + 1 })

/-- Flash bytes; a byte never written reads 0 (log 42). -/
def State.flashBytes (s : State) (a n : Nat) : List Byte :=
  (List.range n).map fun i => Sparse.get (fun _ => 0) s.start.flash (a + i)

/-- Bytes of the device record in force (R371). -/
def State.recordBytes (s : State) (o n : Nat) : List Byte :=
  if s.start.recordWritten then s.flashBytes o n else (List.range n).map fun i => Config.factoryRecord (o + i)

/-! ## The start in progress -/

def State.modStart (s : State) (f : Start → Start) : State := { s with start := f s.start }

/-! ## Progress (R369, R375) -/

/-- START_PROGRESS, MOOR_STATUS and the journal entry show a step's state. -/
def State.setProgress (s : State) (n st level detail unit : Nat) : State :=
  let w : Word := BitVec.ofNat 32 (n * 2 ^ 28 + st * 2 ^ 26 + level * 2 ^ 24 + detail * 2 ^ 16 + unit)
  let s := (s.setKreg 0 w).setReg offMoor w
  s.modStart fun x => { x with
    journal := match x.journal with
      | e :: es => { e with words := e.words.set n w } :: es
      | [] => [] }

/-- The step that START_PROGRESS shows. -/
def State.startStep (s : State) : Nat := fld (s.kreg 0) 28 4
def State.startState (s : State) : Nat := fld (s.kreg 0) 26 2
def State.startDetail (s : State) : Nat := fld (s.kreg 0) 16 8
def Start.level (x : Start) (n : Nat) : Nat := x.levels.getD n 0

end Sys2Proof.Machine
end

