-- ==== Sys2Proof/Machine/Flits.lean ====
section
/-! DEFINITION. The sending side of a link (spec/13, R271 to R274, R278; spec/14, R296 to R298): packets as bytes, flits, queues,
credits; messages to the Sornal adapter. -/
namespace Sys2Proof.Machine

/-- Header words of a packet (R278). -/
def packetHead (p : Packet) : List Word :=
  [BitVec.ofNat 32 (p.ptype.toNat * 2 ^ 28 + b2n p.rsp * 2 ^ 27 + p.status.toNat * 2 ^ 24 + p.dst.toNat),
   BitVec.ofNat 32 (b2n p.cls * 2 ^ 31 + p.len.toNat * 2 ^ 24 + p.src.toNat),
   BitVec.ofNat 32 (p.job.toNat * 2 ^ 16 + p.tag.toNat),
   BitVec.ofNat 32 (p.epoch.toNat * 2 ^ 24 + p.ttl.toNat)]

/-- Bytes of a packet, padded with zeros to a multiple of 8 (R278). -/
def packetBytes (p : Packet) : List Byte :=
  let bs := bytesOfWords (packetHead p ++ p.ext) ++ p.data
  bs ++ List.replicate ((8 - bs.length % 8) % 8) 0

/-- Queue kind of a packet (R274, R279): 0 REQ, 1 RSP, 2 RED, 3 CUT. -/
def packetKind (p : Packet) : Nat :=
  if p.rsp then 1 else if p.ptype.toNat = 4 then 2 else if p.ptype.toNat = 7 then 3 else 0

def packetQueue (p : Packet) : Nat := 2 * packetKind p + b2n p.cls

/-- Up to `room` bytes of queue `q`'s packet stream, whose packets follow one another with no gaps, and what is left (R272). -/
def fillFlit (q : Nat) : Nat → List TxPacket → List Byte × List TxPacket
  | _, [] => ([], [])
  | room, x :: xs =>
    if x.q ≠ q then let r := fillFlit q room xs; (r.1, x :: r.2)
    else if x.bytes.length ≤ room then let r := fillFlit q (room - x.bytes.length) xs; (x.bytes ++ r.1, r.2)
    else (x.bytes.take room, { x with bytes := x.bytes.drop room } :: xs)

/-- The bytes of a flit (R271). -/
def flitBytes (f : Flit) : List Byte :=
  let w0 : Word := BitVec.ofNat 32 (f.ftype * 2 ^ 28 + f.seq * 2 ^ 16 + f.ack * 2 ^ 4 + b2n f.nak * 2 ^ 3 + f.q)
  let w1 : Word := BitVec.ofNat 32 (f.cqa * 2 ^ 29 + f.ca * 2 ^ 20 + f.cqb * 2 ^ 13 + f.cb * 2 ^ 4)
  let body := bytesOfWords [w0, w1] ++ f.payload
  body ++ bytesLE 4 (crc32c body).toNat

/-- Order in which a sender looks at its queues (R274): CUT, RSP, then REQ and RED in turns; class 1 before class 0. -/
def queueOrder (turn : Bool) : List Nat :=
  [7, 6, 3, 2] ++ (if turn then [5, 4, 1, 0] else [1, 0, 5, 4])

/-- Credits held for queue `q`: 64 are exchanged at INIT (R274, R277). -/
def Link.credit (l : Link) (q : Nat) : Nat := Sparse.get (fun _ => 64) l.credits q

/-- Send a flit: it carries the ACK, the NAK that is due, and the credits of up to two queues (R271 to R274). -/
def Link.put (l : Link) (ftype seq q : Nat) (payload : List Byte) : Link :=
  let c (i : Nat) : Nat × Nat := l.giveBack.getD i (0, 0)
  { l with
    nak := false, ackSent := l.rxAck, giveBack := l.giveBack.drop 2
    sent := l.sent ++ [{ ftype := ftype, seq := seq, ack := l.rxAck, nak := l.nak, q := q, cqa := (c 0).1, ca := (c 0).2
                         cqb := (c 1).1, cb := (c 1).2, payload := payload ++ List.replicate (244 - payload.length) 0 }] }

/-- Send one DATA flit if the window and the credits allow (R273, R274). Where the queue's stream ends within it, an empty header
marks the rest of it empty. -/
def Link.sendOne (l : Link) (now : DWord) : Option Link :=
  if 1024 ≤ l.unacked.length then none
  else
    ((queueOrder l.turn).find? fun q => decide (0 < l.credit q) && l.txWait.any fun x => x.q == q).map fun q =>
      let r := fillFlit q 244 l.txWait
      let p := r.1 ++ List.replicate (244 - r.1.length) 0
      ({ l with
        txWait := r.2
        credits := Sparse.set (fun _ => 64) l.credits q (l.credit q - 1)
        unacked := l.unacked ++ [(l.txSeq, q, p)]
        txSeq := (l.txSeq + 1) % 4096
        lastAck := if l.unacked.isEmpty then now else l.lastAck
        turn := if q < 2 then true else if q = 4 ∨ q = 5 then false else l.turn } : Link).put 1 l.txSeq q p

/-- Send DATA flits while one is ready, and then, where an ACK, a NAK or a credit is still to be told, an IDLE flit (R272; IDLE flits
that tell nothing new are left out, log 36). -/
def Link.sendMany : Nat → DWord → Link → Link
  | 0, _, l => l
  | n + 1, now, l =>
    match l.sendOne now with
    | some l => Link.sendMany n now l
    | none => if l.nak || l.ackSent != l.rxAck || !l.giveBack.isEmpty then Link.sendMany n now (l.put 0 0 0 []) else l

/-- Flits that may be sent now, at most. -/
def Link.room (l : Link) : Nat := ((l.txWait.map fun x => x.bytes.length / 244 + 1).sum) + l.giveBack.length + 1

/-- Send what the link may send. -/
def State.pump (s : State) (lk : Nat) : State := s.setLink lk fun l => l.sendMany l.room s.lcount

/-! ## The Sornal link (R296 to R298) -/

/-- Header words of a Sornal packet (R297). -/
def sornalHead (ptype tag len : Nat) (rsp : Bool) (addr : Nat) : List Word :=
  [BitVec.ofNat 32 (ptype * 2 ^ 28 + b2n rsp * 2 ^ 27 + tag % 2 ^ 16), BitVec.ofNat 32 (len % 2 ^ 7),
   BitVec.ofNat 32 addr, BitVec.ofNat 32 (addr / 2 ^ 32)]

/-- The MCTP packets of a message, 4 to 64 bytes each (R298): a header of 4 bytes, whose first two flags mark the first and the last
packet, and up to 60 bytes of the message (PRESUMED: DMTF DSP0236; log 97). -/
def mctpPackets (d : List Byte) : List (List Byte) :=
  let n := max 1 (ceilDiv d.length 60)
  (List.range n).map fun i =>
    [1, 0, 0, BitVec.ofNat 8 (b2n (i == 0) * 128 + b2n (i + 1 == n) * 64 + i % 4 * 16)] ++ (d.drop (60 * i)).take 60

/-- SIDEBAND packets of an MCTP message. -/
def sidebandPackets (d : List Byte) : List (Nat × List Byte) :=
  (mctpPackets d).map fun p => (4, bytesOfWords (sornalHead 7 0 (ceilDiv p.length 4) false 0) ++ p)

/-- Queue and bytes of the packets of a message that travels on the Sornal link (R298); management answers over SMBus do not. The first byte of
an MCTP message is its type: control, vendor-defined with Kyfort's enterprise number (R437), SPDM (PRESUMED: log 97). -/
def sornalPackets : HostMsg → List (Nat × List Byte)
  | .hwrite a d => [(0, bytesOfWords (sornalHead 1 0 (ceilDiv d.length 4) false a.toNat) ++ d)]
  | .hread tag a len => [(0, bytesOfWords (sornalHead 2 tag (ceilDiv len 4) false a.toNat))]
  | .mresp tag v => [(2, bytesOfWords (sornalHead 4 tag 1 true 0 ++ [v]))]
  | .intr v => [(0, bytesOfWords (sornalHead 6 0 0 false v))]
  | .sideband d => sidebandPackets (0 :: d)
  | .mgmt .sideband d => sidebandPackets (0x7F :: bytesLE 4 Config.ianaNumber.toNat ++ d)
  | .spdm .sideband d => sidebandPackets (5 :: d)
  | .mgmt .smbus _ | .spdm .smbus _ => []

/-- Send a message to the host adapter, the tray controller or the management channel. Sornal packets join the link's queues
while it is UP; while it is not they are discarded (R301). `ring` is the ring whose descriptor it is a host write of. -/
def State.toHost (s : State) (m : HostMsg) (ring : Option Nat := none) : State :=
  match sornalPackets m with
  | [] => { s with hostOut := s.hostOut ++ [m] }
  | ps =>
    if !s.linkUp 16 then s
    else
      let s := { s with hostOut := s.hostOut ++ [m] }
      let s := s.setLink 16 fun l => { l with txWait := l.txWait ++ ps.map fun p =>
        { q := p.1, ring := ring, bytes := p.2 ++ List.replicate ((8 - p.2.length % 8) % 8) 0 } }
      s.pump 16

/-- HWRITEs of up to 256 bytes (R298). A Sornal packet carries whole words: the bytes that the last one has beyond `bs` are free values
(DESIGN CHOICE, log 35). -/
def State.hostWrite (s : State) (a : Nat) (bs : List Byte) (ring : Option Nat := none) : State :=
  let k := (4 - bs.length % 4) % 4
  let r : State × List Byte := if k = 0 then (s, bs)
    else let d := s.draw; (d.2, bs ++ (bytesLE 4 (Config.freeWord d.1).toNat).take k)
  (List.range (ceilDiv r.2.length 256)).foldl (fun s i =>
    s.toHost (.hwrite (BitVec.ofNat 64 (a + 256 * i)) ((r.2.drop (256 * i)).take 256)) ring) r.1

end Sys2Proof.Machine
end

