-- ==== Sys2Proof/Machine/Ops.lean ====
section
/-! DEFINITION. Physical memory (spec/08, R164 to R175): the map, the interleave, raw byte access. Checked access is in
Machine/Memory.lean, since it reports errors. -/
namespace Sys2Proof.Machine

/-- What a memory byte that nothing has written reads as (S4 and S5 zero-fill both DRAMs, R366; SRAM: log 3). -/
def memDefault (_ : Nat) : Byte := 0

/-- The boot ROM, read-only (R325). -/
def isRom (a : Nat) : Bool := 0xF0000800000 ≤ a && a < 0xF0000840000

/-- A byte of memory: of the ROM what it was made with, of a lost range a free value (R408), else what was written last. -/
def State.byte (s : State) (a : Nat) : Byte :=
  if isRom a then Config.romByte a else
  match s.lost.find? fun r => decide (r.1 ≤ a) && decide (a < r.1 + r.2.1) with
  | some r => Config.freeByte (r.2.2 + (a - r.1))
  | none => Sparse.get memDefault s.mem a

/-- What is left of a lost range once `[a, a + n)` has been written. -/
def cutLost (a n : Nat) (r : Nat × Nat × Nat) : List (Nat × Nat × Nat) :=
  if n ≠ 0 ∧ a < r.1 + r.2.1 ∧ r.1 < a + n then
    (if r.1 < a then [(r.1, a - r.1, r.2.2)] else [])
      ++ (if a + n < r.1 + r.2.1 then [(a + n, r.1 + r.2.1 - (a + n), r.2.2 + (a + n - r.1))] else [])
  else [r]

/-- The canonical form of the memory map. -/
def memWf (m : Sparse Byte) : Bool := Sparse.wf memDefault m

/-- Write bytes from address `a` upwards. -/
def putBytes : Sparse Byte → Nat → List Byte → Sparse Byte
  | m, _, [] => m
  | m, a, b :: bs => putBytes (Sparse.set memDefault m a b) (a + 1) bs

/-- `n` bytes from address `a`. -/
def State.bytes (s : State) (a : Nat) : Nat → List Byte
  | 0 => []
  | n + 1 => s.byte a :: State.bytes s (a + 1) n

/-- Put bytes at an address; what they cover of a lost range is no longer lost. -/
def State.putMem (s : State) (a : Nat) (bs : List Byte) : State :=
  { s with mem := putBytes s.mem a bs, lost := s.lost.flatMap (cutLost a bs.length) }

/-- `n` bytes from `a` read as zero from now on. -/
def State.zeroMem (s : State) (a n : Nat) : State :=
  { s with mem := Sparse.forget (fun k => decide (a ≤ k) && decide (k < a + n)) s.mem, lost := s.lost.flatMap (cutLost a n) }

/-- `n` bytes from `a` are lost: each is a free value until it is written (R408). -/
def State.loseMem (s : State) (a n : Nat) : State :=
  let z := s.zeroMem a n
  { z with lost := z.lost ++ [(a, n, s.freeCtr)], freeCtr := s.freeCtr + n }

/-- `n` little-endian words from address `a`. -/
def State.words (s : State) (a n : Nat) : List Word := wordsLE n (s.bytes a (4 * n))

def State.word (s : State) (a : Nat) : Word := BitVec.ofNat 32 (natLE (s.bytes a 4))

def State.putWord (s : State) (a : Nat) (w : Word) : State := s.putMem a (bytesLE 4 w.toNat)

/-! ## Regions (R164, R165) -/

def isLp (a : Nat) : Bool := a < 0x10000000000
def isBonded (a : Nat) : Bool := 0x10000000000 ≤ a && a < 0x10800000000
def isDram (a : Nat) : Bool := a < 0x10800000000
def isSram (a : Nat) : Bool := 0x20000000000 ≤ a && a < 0x20030000000
def isWb (a : Nat) : Bool := 0x20040000000 ≤ a && a < 0x20046000000
def isSpool (a : Nat) : Bool := 0x30000000000 ≤ a && a < 0x30000020000
def isSetup (a : Nat) : Bool := 0xE0000000000 ≤ a && a < 0xE0004000000
def isGondola (a : Nat) : Bool := 0xF0000000000 ≤ a && a < 0xF0001000000
def sramBase (core : Nat) : Nat := 0x20000000000 + 0x80000 * core
def wbBase (core : Nat) : Nat := 0x20040000000 + 0x10000 * core
def spoolBase : Nat := 0x30000000000
def setupBase : Nat := 0xE0000000000
def gondolaBase : Nat := 0xF0000000000
def keeperBase : Nat := 0xF0000C00000
def mailboxBase : Nat := 0xF0000D00000

/-- Address of the launch map, the LMAP identity value (R114, R115), as the gondola placed it at S8; 0 before. -/
def State.lmapAddr (s : State) : Nat := s.start.lmap

/-- Positions of the set bits of a mask, ascending. -/
def bitList (n m : Nat) : List Nat := (List.range n).filter fun i => bitsOf m i 1 == 1

/-- Die-local LPDDR6 channels in service (R167, R418). -/
def State.lpList (s : State) (die : Nat) : List Nat :=
  let o := offMem + 0x30 + 8 * die
  bitList 64 ((s.reg o).toNat + 2 ^ 32 * (s.reg (o + 4)).toNat)

/-- BMCs of a die in service. -/
def State.bmcList (s : State) (die : Nat) : List Nat :=
  (bitList 16 (s.reg (offMem + 0x40)).toNat).filter fun n => n / 8 == die

/-- The controller that serves a DRAM address (R167): 0 to 31 LMCs, 32 to 47 BMCs; none for a hole. -/
def State.mcOf (s : State) (a : Nat) : Option Nat :=
  if isLp a then
    let die := a / 2 ^ 39
    let off := a % 2 ^ 39
    let l := s.lpList die
    if 2 ^ 33 * l.length ≤ off then none
    else
      let ch := l.getD ((off / 256) % l.length) 0
      some (die * 16 + 2 * ((ch / 4) / 2) + (ch % 4) / 2)
  else if isBonded a then
    let die := (a - 0x10000000000) / 2 ^ 34
    let off := (a - 0x10000000000) % 2 ^ 34
    let l := s.bmcList die
    if 2 ^ 31 * l.length ≤ off then none
    else some (32 + l.getD ((off / 256) % l.length) 0)
  else none

/-- SOURCE of a controller (R388). -/
def mcSource (mc : Nat) : Nat := 0x600 + mc

/-- A byte of DRAM in service. -/
def State.inDram (s : State) (a : Nat) : Bool := (s.mcOf a).isSome

/-- Every byte of `[a, a + n)` is DRAM in service: the granules at both ends and between them. -/
def State.dramRange (s : State) (a n : Nat) : Bool :=
  n == 0 || (List.range ((a + n - 1) / 256 - a / 256 + 1)).all fun i => s.inDram ((a / 256 + i) * 256)

/-- The physical address is populated (R164, R165). -/
def State.populated (s : State) (a : Nat) : Bool :=
  if isDram a then s.inDram a
  else if isSram a then
    let o := a - 0x20000000000
    decide (o % 0x80000 < 0x60000) && s.corePresent (o / 0x80000)
  else if isWb a then s.corePresent ((a - 0x20040000000) / 0x10000)
  else if isSpool a then !s.partAbsent ((a - spoolBase) / 8 / 2048)
  else if isSetup a then
    let o := a - setupBase
    if o < 0xC00000 then s.clusterPresent (o / 0x20000)
    else if o < 0xC20000 then true
    else if 0xE00000 ≤ o && o < 0xE20000 then true
    else (regDesc o).isSome
  else if isGondola a then
    let o := a - gondolaBase
    if o < 0x800000 then true
    else if o < 0x840000 then true
    else if 0xC00000 ≤ o && o < 0xC01000 then
      let k := o - 0xC00000
      decide (k < 0x2C) || (decide (0x30 ≤ k) && decide (k < 0x34)) || (decide (0x40 ≤ k) && decide (k < 0x80))
        || decide (0x400 ≤ k)
    else 0xD00000 ≤ o && o < 0xD10000
  else false

/-- Blocks of 64 bytes that `[a, a + n)` touches. -/
def blocksOf (a n : Nat) : List Nat :=
  if n = 0 then [] else (List.range ((a + n - 1) / 64 - a / 64 + 1)).map fun i => (a / 64 + i) * 64

def State.poisoned (s : State) (b : Nat) : Bool := Sparse.get (fun _ => false) s.poison b

def State.setPoison (s : State) (b : Nat) (v : Bool) : State :=
  { s with poison := Sparse.set (fun _ => false) s.poison b v }

/-- Some block of `[a, a + n)` is poisoned. -/
def State.anyPoison (s : State) (a n : Nat) : Bool := (blocksOf a n).any s.poisoned

/-- Apply `f` over a list, threading the state. -/
def forEach {α σ : Type} (f : σ → α → σ) (s : σ) (xs : List α) : σ := xs.foldl f s

/-- The metadata word of a DRAM block (R171): the CRC field with the difference that damage has made, POISON, and zeros. -/
def State.metaWord (s : State) (b : Nat) : DWord :=
  BitVec.ofNat 64 ((crc32c (s.bytes b 64 ++ bytesLE 8 b) ^^^ Sparse.get (fun _ => 0) s.crcOff b).toNat
    + b2n (s.poisoned b) * 2 ^ 32)

/-- Blocks of DRAM that a write of `[a, a + n)` covers whole get a fresh CRC and lose POISON (R171, R173); words of SRAM that it covers
whole get fresh check bits (R176). -/
def State.freshen (s : State) (a n : Nat) : State :=
  let whole (b : Nat) : Bool := decide (a ≤ b) && decide (b + 64 ≤ a + n)
  { s with poison := Sparse.forget whole s.poison, defects := Sparse.forget whole s.defects
           crcOff := Sparse.forget whole s.crcOff
           sramBad := Sparse.forget (fun w => decide (a ≤ 8 * w) && decide (8 * w + 8 ≤ a + n)) s.sramBad }

/-- Write whole blocks (R171, R173). -/
def State.putBlocks (s : State) (a : Nat) (bs : List Byte) : State := (s.freshen a bs.length).putMem a bs

/-- Zero-fill whole blocks. -/
def State.zeroBlocks (s : State) (a n : Nat) : State := (s.freshen a n).zeroMem a n

/-! ## The local counter (R18, R19) -/

/-- One local count passes (R18): what a step does when no command waits (log 6). Without power, in standby (R407) and with the
root PLL's lock lost (R438) the counter stands still. Each partition's replica follows at once or one count later (R19; log 87). -/
def State.tick (s : State) : State :=
  if s.powered && !s.standby && !s.mgmt.stopped then
    { s with lcount := s.lcount + 1, late := (List.range 8).filter fun p => Config.replicaLate p (s.lcount + 1) }
  else s

/-- A partition's replica of the local counter (R19): the gondola's, or one count behind it. -/
def State.replica (s : State) (p : Nat) : DWord :=
  if s.late.contains p ∧ s.lcount ≠ 0 then s.lcount - 1 else s.lcount

/-! ## Progress of engines (R395) -/

/-- Key of an engine in `progress`. -/
def unitKey : EngineUnit → Nat
  | .array c a => 8 * c + a | .stream c => 8 * c + 3 | .atomic c => 8 * c + 4 | .thread c => 8 * c + 5
  | .adder mc => 0x10000 + mc | .updateUnit mc => 0x20000 + mc | .factor p => 0x30000 + p | .link => 0x40000

/-- The engine makes progress, or its work begins, now. -/
def State.progressed (s : State) (u : EngineUnit) : State :=
  { s with progress := Sparse.set (fun _ => 0) s.progress (unitKey u) s.lcount }

/-- Local counts since the engine last made progress. -/
def State.stalled (s : State) (u : EngineUnit) : Nat := (s.lcount - Sparse.get (fun _ => 0) s.progress (unitKey u)).toNat

end Sys2Proof.Machine
end

