-- ==== Sys2Proof/Machine/Errors.lean ====
section
/-! DEFINITION. The error recorder (spec/18, R386 to R394): latching a report, writing records to the ring, the fatal
area and the early buffer. -/
namespace Sys2Proof.Machine

/-- SEV of a class (R387); class 0x0B is 1, or 2 where a context was reset. -/
def sevOf (cls : Nat) : Nat :=
  if cls = 0x01 then 2 else if cls = 0x07 then 0 else if cls = 0x10 then 3 else 1

def State.latch (s : State) (src : Nat) : Latch := Sparse.get (fun _ => Latch.empty) s.err.latches src

def State.setLatch (s : State) (src : Nat) (l : Latch) : State :=
  { s with err := { s.err with latches := Sparse.set (fun _ => Latch.empty) s.err.latches src l } }

/-- ERR_BASE, ERR_WR and ERR_RD (R390). -/
def State.errBase (s : State) : Nat := 2 ^ 16 * fld (s.kreg 0x10) 0 28
def State.errWr (s : State) : Word := s.kreg 0x14
def State.errRd (s : State) : Word := s.kreg 0x18
def State.errUsed (s : State) : Nat := fld (s.kreg 0x1C) 0 7

/-- Word `i` of the source-table entry of SOURCE `src` (R389). -/
def State.srcWord (s : State) (src i : Nat) : Nat := 0x40000 + s.errBase + 16 * src + 4 * i

/-- Add REPORTS and LOST to a source-table entry; OVF is set at the first loss (R389). -/
def State.srcPut (s : State) (src reports lost : Nat) : State :=
  let s := s.putWord (s.srcWord src 0) (satAdd32 (s.word (s.srcWord src 0)) reports)
  if lost = 0 then s
  else
    let s := s.putWord (s.srcWord src 1) (satAdd32 (s.word (s.srcWord src 1)) lost)
    s.putWord (s.srcWord src 2) (s.word (s.srcWord src 2) ||| 0x80000000)

/-- Count a report, and `lost` lost ones, of a source: in the source table through `add`, or beside it until the ring is in
use. -/
def State.countBy (add : State → Nat → Nat → Nat → State) (s : State) (src reports lost : Nat) : State :=
  let s := if lost = 0 then s else s.setKreg 0x20 (satAdd32 (s.kreg 0x20) lost)
  if s.err.ringReady then add s src reports lost
  else
    let l := s.latch src
    s.setLatch src { l with repPend := l.repPend + reports, lostPend := l.lostPend + lost }

/-- Latch a report (R391): FIRST, else LATEST, else it replaces LATEST and the replaced report is lost. -/
def State.latchBy (add : State → Nat → Nat → Nat → State) (s : State) (src : Nat) (r : Report) : State :=
  let l := s.latch src
  match l.first, l.latest with
  | none, _ => State.countBy add (s.setLatch src { l with first := some r }) src 1 0
  | some _, none => State.countBy add (s.setLatch src { l with latest := some r }) src 1 0
  | some _, some old =>
    State.countBy add (s.setLatch src { l with latest := some { r with lost := min (old.lost + 1) 0xFFFFFFFF } }) src 1 1

/-- The report that a class and cause make: START_SEQ and LCOUNT are those of the moment (R386). -/
def State.made (s : State) (cls cause : Nat) (ctx : Option Nat) (unit : Nat) (detail : List Word) : Report :=
  { cls := cls, cause := cause, sev := sevOf cls, startSeq := s.startSeq, lcount := s.lcount, ctx := ctx, unit := unit
    lost := 0, detail := detail }

/-- An address as two detail words. -/
def addrWords (a : Nat) : List Word := [BitVec.ofNat 32 a, BitVec.ofNat 32 (a / 2 ^ 32)]

/-- Raise counter `i` of the integrity block of the controller of `a` (R175). -/
def State.mcCount (s : State) (a i : Nat) : State :=
  match s.mcOf a with
  | some mc => s.count (offMc mc + 4 * i) 1
  | none => s

/-- The controller's check of one block when it reads it (R172): re-read up to three times; a block that no re-read
matches is poisoned and reported through `add`. -/
def State.crcCheckBy (add : State → Nat → Nat → Nat → State) (s : State) (b : Nat) : State :=
  let d := Sparse.get (fun _ => 0) s.defects b
  let off := Sparse.get (fun _ => 0) s.crcOff b
  if d = 0 ∧ off = 0 then s
  else
    let s := { s with defects := Sparse.set (fun _ => 0) s.defects b 0, crcOff := Sparse.set (fun _ => 0) s.crcOff b 0 }
    if d ≤ 3 ∧ off = 0 then s.mcCount b 0
    else
      let s := (s.setPoison b true).mcCount b 1
      match s.mcOf b with
      | some mc => State.latchBy add s (mcSource mc) (s.made 4 1 none mc (addrWords b))
      | none => s

/-- Add REPORTS and LOST to a source-table entry: a partial write of its block, which the controller checks first (R171, R172,
R389). -/
def State.srcAdd (s : State) (src reports lost : Nat) : State :=
  (State.crcCheckBy State.srcPut s (s.srcWord src 0 / 64 * 64)).srcPut src reports lost

def State.countReports (s : State) (src reports lost : Nat) : State := State.countBy State.srcAdd s src reports lost

def State.latchReport (s : State) (src : Nat) (r : Report) : State := State.latchBy State.srcAdd s src r

/-- The core, controller, port or partition that a SOURCE is (R386, R388); 0xFFFF for another. -/
def sourceUnit (src : Nat) : Nat :=
  if src < 0x600 then src
  else if src < 0x630 then src - 0x600
  else if src < 0x640 then src - 0x630
  else if 0x648 ≤ src ∧ src < 0x650 then src - 0x648 else 0xFFFF

/-- Raise a report of a class and cause from a source. -/
def State.report (s : State) (src cls cause : Nat) (ctx : Option Nat) (unit : Nat) (detail : List Word) : State :=
  s.latchReport src (s.made cls cause ctx unit detail)

def State.crcCheck (s : State) (b : Nat) : State := State.crcCheckBy State.srcAdd s b

/-- The sixteen words of a record (R386). -/
def recordWords (src : Nat) (seq : Word) (r : Report) : List Word :=
  let w0 := r.cls * 2 ^ 24 + r.cause * 2 ^ 16 + r.sev * 2 ^ 14 + (if r.lost = 0 then 0 else 2 ^ 13) + src % 2 ^ 12
  let w4 := match r.ctx with
    | some c => 2 ^ 31 + c * 2 ^ 16 + r.unit % 2 ^ 16
    | none => r.unit % 2 ^ 16
  let head : List Word := [BitVec.ofNat 32 w0, r.startSeq, BitVec.ofNat 32 r.lcount.toNat,
    BitVec.ofNat 32 (r.lcount.toNat / 2 ^ 32), BitVec.ofNat 32 w4, BitVec.ofNat 32 r.lost, seq]
  let body := head ++ (List.range 8).map fun i => wordAt r.detail i
  body ++ [crc32c (bytesOfWords body)]

/-- Write words to consecutive keeper offsets. -/
def State.putKeeper (s : State) (off : Nat) (ws : List Word) : State :=
  (ws.zip (List.range ws.length)).foldl (fun s p => s.setKreg (off + 4 * p.2) p.1) s

/-- Set a bit of MOD_STATUS (R435). -/
def State.modBit (s : State) (i : Nat) (v : Bool) : State :=
  { s with mgmt := { s.mgmt with modStatus := setFld s.mgmt.modStatus i 1 (b2n v) } }

/-- The general area has room (R391). -/
def State.ringRoom (s : State) : Bool := decide ((s.errWr - s.errRd).toNat < 4032)

/-- The record can be written now: a fatal slot is free, or the general area has room (R391, R392). -/
def State.canWrite (s : State) (sev : Nat) : Bool := (sev == 3 && decide (s.errUsed < 64)) || s.ringRoom

/-- Write a record into the ring (R389, R391, R392, R394): the fatal area for SEV 3 while a slot is free, else the general
area, with its copy in the host mirror. -/
def State.ringWrite (s : State) (src : Nat) (r : Report) : State :=
  if r.sev = 3 ∧ s.errUsed < 64 then
    let i := s.errUsed
    let seq : Word := BitVec.ofNat 32 (0x80000000 + i)
    let s := s.putBlocks (s.errBase + 64 * (4032 + i)) (bytesOfWords (recordWords src seq r))
    let s := (s.crcCheck (s.srcWord src 3 / 64 * 64)).putWord (s.srcWord src 3) seq
    s.setKreg 0x1C (BitVec.ofNat 32 (i + 1))
  else
    let seq := s.errWr
    let slot := seq.toNat % 4032
    let bytes := bytesOfWords (recordWords src seq r)
    let s := s.putBlocks (s.errBase + 64 * slot) bytes
    let s := (s.crcCheck (s.srcWord src 3 / 64 * 64)).putWord (s.srcWord src 3) seq
    let s := s.setKreg 0x14 (seq + 1)
    if bitAt (s.kreg 0x24) 0 && s.linkUp 16 then
      let base := 2 ^ 12 * ((s.kreg 0x24).toNat / 2 ^ 12) + 2 ^ 32 * (s.kreg 0x28).toNat
      s.toHost (.hwrite (BitVec.ofNat 64 (base + 64 * slot)) bytes)
    else s

/-- Copy a fatal record to LAST_FATAL and set MOD_STATUS.FATAL (R392, R435). -/
def State.noteFatal (s : State) (src : Nat) (seq : Word) (r : Report) : State :=
  if r.sev = 3 then (s.putKeeper 0x40 (recordWords src seq r)).modBit 9 true else s

/-- The SEQ that a record would take now. -/
def State.nextSeq (s : State) (r : Report) : Word :=
  if !s.err.ringReady then 0
  else if r.sev = 3 ∧ s.errUsed < 64 then BitVec.ofNat 32 (0x80000000 + s.errUsed) else s.errWr

/-- Write a report as a record: to the ring, or to the next early slot (R393). -/
def State.writeRecord (s : State) (src : Nat) (r : Report) : State :=
  let s := s.noteFatal src (s.nextSeq r) r
  if s.err.ringReady then s.ringWrite src r
  else
    let s := s.putKeeper (0x400 + 64 * s.err.earlyUsed) (recordWords src 0 r)
    { s with err := { s.err with earlyUsed := s.err.earlyUsed + 1 } }

/-- A fatal report (SEV 3): latched like any other, and in LAST_FATAL at once, since a chip reset follows (R392). -/
def State.reportFatalAt (s : State) (src cause unit : Nat) (detail : List Word) : State :=
  let r : Report := { cls := 0x10, cause := cause, sev := 3, startSeq := s.startSeq, lcount := s.lcount, ctx := none
                      unit := unit, lost := 0, detail := detail }
  (s.noteFatal src (s.nextSeq r) r).latchReport src r

def State.reportFatal (s : State) (src cause : Nat) (detail : List Word) : State := s.reportFatalAt src cause 0xFFFF detail

/-- A RESET report (R387): SEV 2 when contexts were reset with it; `n` is the kind of reset, `mask` the contexts. -/
def State.reportReset (s : State) (src n : Nat) (ctx : Option Nat) (unit : Nat) (reason : Word) (mask : Nat) (seq : Word)
    (lost : Word) : State :=
  s.latchReport src
    { cls := 0x0B, cause := n, sev := if mask = 0 then 1 else 2, startSeq := s.startSeq, lcount := s.lcount, ctx := ctx
      unit := unit, lost := 0
      detail := [reason, BitVec.ofNat 32 mask, BitVec.ofNat 32 (mask / 2 ^ 32), seq, lost] }

/-- Sources with a latched report, ascending. -/
def State.waitingSources (s : State) : List Nat :=
  (s.err.latches.filter fun p => p.2.first.isSome || p.2.latest.isSome).map Prod.fst

/-- The source that the round-robin order serves next (R391). -/
def State.nextSource (s : State) : Option Nat :=
  match s.waitingSources.find? (fun k => s.err.lastSrc < k) with
  | some k => some k
  | none => s.waitingSources.head?

/-- Records of the early buffer, in the order they were made, as (SOURCE, report) read back from its words. -/
def reportOfWords (ws : List Word) : Nat × Report :=
  let w0 := wordAt ws 0
  let w4 := wordAt ws 4
  (fld w0 0 12,
   { cls := fld w0 24 8, cause := fld w0 16 8, sev := fld w0 14 2, startSeq := wordAt ws 1
     lcount := BitVec.ofNat 64 (dwordAt ws 2), ctx := if bitAt w4 31 then some (fld w4 16 6) else none
     unit := fld w4 0 16, lost := (wordAt ws 5).toNat, detail := (ws.drop 7).take 8 })

def State.keeperWords (s : State) (off n : Nat) : List Word := (List.range n).map fun i => s.kreg (off + 4 * i)

/-- Move the oldest early record into the ring when it fits, and close up the buffer (R393). -/
def State.drainOne (s : State) : State :=
  if s.err.earlyUsed = 0 then s
  else
    let p := reportOfWords (s.keeperWords 0x400 16)
    if s.canWrite p.2.sev then
      let s := s.ringWrite p.1 p.2
      let rest := s.keeperWords 0x440 752
      let s := s.putKeeper 0x400 (rest ++ List.replicate 16 0)
      { s with err := { s.err with earlyUsed := s.err.earlyUsed - 1 } }
    else s

def State.drainMany : Nat → State → State
  | 0, s => s
  | n + 1, s => State.drainMany n s.drainOne

/-- Take the counts that waited beside the ring into the source table (R393). -/
def State.mergeCounts (s : State) : State :=
  s.err.latches.foldl (fun s p =>
    if p.2.repPend = 0 ∧ p.2.lostPend = 0 then s
    else
      let s := s.srcAdd p.1 p.2.repPend p.2.lostPend
      s.setLatch p.1 { s.latch p.1 with repPend := 0, lostPend := 0 }) s

/-- Re-arm the ring: ERR_WR, ERR_RD, ERR_FATAL and the source table to zero (R390). -/
def State.rearmRing (s : State) : State :=
  let s := ((s.setKreg 0x14 0).setKreg 0x18 0).setKreg 0x1C 0
  s.zeroBlocks (0x40000 + s.errBase) 0x10000

/-- ERROR_RECORD_WRITE (R391, R392, R393, R394): one latched report of the source whose turn it is, FIRST before LATEST. It
waits while its area, or the early buffer, is full. -/
def execErrorRecordWrite (src : Nat) (s : State) : Host.Outcome State Fault Refusal :=
  let l := s.latch src
  if s.err.ringReady && decide (s.err.earlyUsed ≠ 0) then .next s.drainOne
  else if s.nextSource ≠ some src then .next s
  else
    match (match l.first with | some r => some r | none => l.latest) with
    | none => .next s
    | some r =>
      if (s.err.ringReady && !s.canWrite r.sev) || (!s.err.ringReady && decide (48 ≤ s.err.earlyUsed)) then .next s
      else
        let l' := if l.first.isSome then { l with first := none } else { l with latest := none }
        let s := (s.setLatch src l').writeRecord src r
        .next { s with err := { s.err with lastSrc := src } }

/-! ## Reports that several units raise -/

/-- An integrity event (R387 class 0x03). -/
def State.integrity (s : State) (src cause : Nat) (ctx : Option Nat) (unit addr : Nat) (v c : Word) : State :=
  s.report src 3 cause ctx unit (addrWords addr ++ [v, c])

/-- A hole access (R165, R300): class MEMORY, cause 2. -/
def State.holeRecord (s : State) (src : Nat) (ctx : Option Nat) (addr : Nat) : State :=
  s.report src 4 2 ctx (sourceUnit src) (addrWords addr)

/-- A refusal (R387 class 0x07). -/
def State.refusal (s : State) (src cause : Nat) (ctx : Option Nat) (detail : List Word) : State :=
  s.report src 7 cause ctx (sourceUnit src) detail

/-! ## Writes of a register block (R6, R411) -/

/-- The block that an offset belongs to, by its offset (R6, R410). -/
def regBlock (off : Nat) : Nat :=
  if off < 0xC00000 then off / 0x20000 * 0x20000
  else if off < 0x1200000 then off / 0x10000 * 0x10000
  else if off < 0x1300000 then off / 0x1000 * 0x1000
  else if off < 0x1301000 then off / 0x100 * 0x100
  else if off < offMem then offFabJob
  else if off < offTbl then offMem
  else if off < offCtx 0 then offTbl
  else if off < offArrayMap 0 then offCtx 0
  else if off < offHost then offArrayMap 0
  else off / 0x100000 * 0x100000

/-- A failed commit (R6): an integrity event; for a cap also CAP_REFUSED and PWR_REFUSED (R348, R365, R435). -/
def State.rwcFailed (s : State) (src off : Nat) (v c : Word) : State :=
  if off = offPwr then
    ((s.integrity src 4 none 0xFFFF off v c).count (offPwr + 0x18C) 1).modBit 10 true
  else s.integrity src 7 none 0xFFFF off v c

def State.pendOf (s : State) (b : Nat) : Option (Nat × Word) := Sparse.get (fun _ => none) s.rwcPend b
def State.setPend (s : State) (b : Nat) (p : Option (Nat × Word)) : State :=
  { s with rwcPend := Sparse.set (fun _ => none) s.rwcPend b p }

/-- A write that follows in a block with a value pending drops it (R6). -/
def State.dropPend (s : State) (src b : Nat) : State :=
  match s.pendOf b with
  | none => s
  | some p => (s.setPend b none).rwcFailed src p.1 p.2 0

/-- A service core's write of a register: like any write, it drops a value pending in the block (R6, R411). -/
def State.svcReg (s : State) (off : Nat) (v : Word) : State := (s.dropPend 0x650 (regBlock off)).setReg off v

/-- A service core's write of one field of a register. -/
def State.svcFld (s : State) (off lo len v : Nat) : State := (s.dropPend 0x650 (regBlock off)).setRegFld off lo len v

/-- A service core's commit of a complement-checked register (R6, R411). -/
def State.svcRwc (s : State) (off : Nat) (v : Word) : State :=
  let s := s.dropPend 0x650 (regBlock off)
  (s.setReg off v).setReg (off + 4) (~~~ v)

end Sys2Proof.Machine
end

