-- ==== Sys2Proof/Machine/Memory.lean ====
section
/-! DEFINITION. Checked access to memory: block integrity (R171 to R175), SRAM protection (R176), poisoned blocks (R173,
R446); and the requests for a reset that faults raise (R126, R398, R399). -/
namespace Sys2Proof.Machine

/-! ## Asking for resets -/

/-- Ask for a chip reset; one asked for already absorbs a second (R399). -/
def State.askChip (s : State) (r : ResetReason) : State :=
  match s.resets.chip with
  | some _ => s
  | none => { s with resets := { s.resets with chip := some r } }

/-- Ask for the reset of a context; context 0 enters the ladder at level 4 (R401). -/
def State.askContext (s : State) (c : Nat) : State :=
  if c = 0 then s.askChip .contextZero
  else if s.resets.contexts.contains c then s
  else { s with resets := { s.resets with contexts := s.resets.contexts ++ [c] } }

/-- Context `c` may issue: no reset of it, or of everything, has been asked for (R126, R400). -/
def State.ctxRuns (s : State) (c : Nat) : Bool :=
  !s.resets.contexts.contains c && s.resets.chip.isNone && !s.resets.cycle

/-- Fault classes (R126, R387). -/
def fBounds : Nat := 1
def fUnmapped : Nat := 2
def fPermission : Nat := 3
def fMisaligned : Nat := 4
def fIllegal : Nat := 5
def fPoison : Nat := 6

/-- A fault of a thread (R126, R387): the record, and the context killed. -/
def State.threadFault (s : State) (core ctx cls grp : Nat) (mask : BitVec 32) (pc addr : Nat) : State :=
  (s.report core 1 cls (some ctx) core ([BitVec.ofNat 32 grp, mask] ++ addrWords pc ++ addrWords addr)).askContext ctx

/-- A fault of an engine (R126, R387): `d0` names the issuing group and handle or the ring, `d2` the descriptor. -/
def State.engineFault (s : State) (src ctx cls unit d0 d2 addr : Nat) : State :=
  (s.report src 1 cls (some ctx) unit ([BitVec.ofNat 32 (2 ^ 31 + d0), 0] ++ addrWords d2 ++ addrWords addr)).askContext
    ctx

/-! ## Integrity of DRAM blocks -/

/-- Check every DRAM block that `[a, a + n)` touches. -/
def State.crcRange (s : State) (a n : Nat) : State := forEach State.crcCheck s (blocksOf a n)

/-- SECDED of the SRAM words that `[a, a + n)` touches (R176): a single-bit error is corrected, written back and counted for
its structure; `true` when a word has a double-bit error. -/
def State.eccRange (s : State) (a n : Nat) : State × Bool :=
  (s.sramBad.filter fun p => decide (n ≠ 0) && decide (a / 8 ≤ p.1) && decide (p.1 ≤ (a + n - 1) / 8)).foldl
    (fun (p : State × Bool) w =>
      if w.2 = 1 then
        ({ p.1 with sramBad := Sparse.set (fun _ => 0) p.1.sramBad w.1 0
                    eccFixed := Sparse.modify (fun _ => 0) p.1.eccFixed (w.1 / 8192) (· + 1) }, p.2)
      else (p.1, true)) (s, false)

/-- A double-bit error of gondola SRAM (R176, R387, R398): fatal, and a chip reset. -/
def State.gsramDbe (s : State) : State := (s.reportFatal 0x650 1 []).askChip .escalation

/-- The core whose local SRAM or wide buffer holds an address. -/
def sramCore (a : Nat) : Nat := if isWb a then (a - wbBase 0) / 0x10000 else (a - sramBase 0) / 0x80000

/-- The record of a double-bit error outside the gondola (R387: MEMORY, cause 3). -/
def State.sramDbe (s : State) (a : Nat) : State := s.report (sramCore a) 4 3 none (sramCore a) (addrWords a)

/-- Read `n` bytes at a populated address other than the spool file, the set-up window and the keeper: none when a block
is poisoned or a word has a double-bit error (R173, R176). -/
def State.readMem (s : State) (a n : Nat) : State × Option (List Byte) :=
  if isDram a then
    let s := s.crcRange a n
    match (blocksOf a n).find? s.poisoned with
    | some b => (s.mcCount b 2, none)
    | none => (s, some (s.bytes a n))
  else
    let p := s.eccRange a n
    if p.2 then (if isGondola a then (p.1.gsramDbe, some (p.1.bytes a n)) else (p.1.sramDbe a, none))
    else (p.1, some (p.1.bytes a n))

/-- Write bytes. A block written whole gets a fresh CRC and loses POISON; another is read, changed and written by its
controller, and stays poisoned if it is (R171, R173). -/
def State.writeMem (s : State) (a : Nat) (bs : List Byte) : State :=
  let n := bs.length
  let s := if isDram a then
      forEach (fun s b =>
        if a ≤ b ∧ b + 64 ≤ a + n then
          { s.setPoison b false with defects := Sparse.set (fun _ => 0) s.defects b 0
                                     crcOff := Sparse.set (fun _ => 0) s.crcOff b 0 }
        else s.crcCheck b) s (blocksOf a n)
    else { s with sramBad := Sparse.forget (fun w => decide (a ≤ 8 * w) && decide (8 * w + 8 ≤ a + n)) s.sramBad }
  s.putMem a bs

/-- Change the bits of `mask` in one byte. -/
def State.writeBits (s : State) (w : BitWrite) : State :=
  s.putMem w.addr [(s.byte w.addr &&& ~~~ w.mask) ||| (w.val &&& w.mask)]

/-- Apply bit writes to DRAM or SRAM bytes: their blocks are checked as partial writes (R171); an SRAM word written whole is
encoded afresh (R176). -/
def State.writeBitsAll (s : State) (ws : List BitWrite) : State :=
  let s := forEach (fun s w => if isDram w.addr then s.crcCheck (w.addr / 64 * 64) else s) s ws
  let s := { s with sramBad := s.sramBad.filter fun e =>
    !((List.range 8).all fun i => ws.any fun w => w.addr == 8 * e.1 + i && w.mask == 0xFF) }
  forEach State.writeBits s ws

/-- The check of a table entry of `n` words that the module reads for its own use (R446): false when its block is poisoned,
which counts as a refused read and records nothing. -/
def State.entryOk (s : State) (a n : Nat) : State × Bool :=
  let s := s.crcRange a (4 * n)
  match (blocksOf a (4 * n)).find? s.poisoned with
  | some b => (s.mcCount b 2, false)
  | none => (s, true)

/-- The entry's words: none when it is not valid for poison. -/
def State.readEntry (s : State) (a n : Nat) : State × Option (List Word) :=
  let r := s.entryOk a n
  (r.1, if r.2 then some (r.1.words a n) else none)

/-- The first `w` words of each of `n` entries of a table, as the module reads them for its own use: one that is not valid reads as
zeros, which is KIND 0 (R446). -/
def State.readTable (s : State) (addr : Nat → Nat) (w n : Nat) : State × List (List Word) :=
  (List.range n).foldl (fun (q : State × List (List Word)) i =>
    let r := q.1.readEntry (addr i) w
    (r.1, q.2 ++ [r.2.getD (List.replicate w 0)])) (s, [])

/-- What an entry reads as for the module's own use: all zeros, which no valid entry is, where it is not valid for poison. -/
def State.entryWords0 (s : State) (a n : Nat) : List Word := (s.readEntry a n).2.getD (List.replicate n 0)

/-- Everything `readMem` leaves alone when nothing is defective: see Laws. -/
def State.sound (s : State) (a n : Nat) : Bool :=
  (blocksOf a n).all (fun b => !s.poisoned b && Sparse.get (fun _ => 0) s.defects b == 0
    && Sparse.get (fun _ => 0) s.crcOff b == 0)

end Sys2Proof.Machine
end

