-- ==== Sys2Proof/Machine/Spool.lean ====
section
/-! DEFINITION. The spool file (R159, R160, R222): counters, their changes, and the waits that a change satisfies. -/
namespace Sys2Proof.Machine

def State.spoolVal (s : State) (n : Nat) : DWord := Sparse.get (fun _ => 0) s.spool n

/-- Bits [62:0] and bit 63 of a counter (R159). -/
def spoolCount (v : DWord) : Nat := fld v 0 63
def spoolPoisoned (v : DWord) : Bool := bitAt v 63

/-- The outcome of a wait on a counter value (R159): none while it holds; false when poisoned; true when reached. -/
def waitOutcome (v : DWord) (target : Nat) : Option Bool :=
  if spoolPoisoned v then some false
  else if target % 2 ^ 63 ≤ spoolCount v then some true else none

/-- Put a value into a counter as one change (R160): waits on it are judged by that value (R222), and the change is
remembered, for the triggers of R237. -/
def State.spoolChange (s : State) (n : Nat) (v : DWord) : State :=
  { s with
    spool := Sparse.set (fun _ => 0) s.spool n v
    spoolChg := Sparse.modify (fun _ => []) s.spoolChg n (v :: ·)
    waiters := s.waiters.map fun w =>
      if w.id = n ∧ w.result = none then { w with result := waitOutcome v w.target } else w }

/-- Add bytes or units: stops at 2^63 - 1, ignored when poisoned (R159, R160). -/
def State.spoolAdd (s : State) (n k : Nat) : State :=
  let v := s.spoolVal n
  if spoolPoisoned v then s else s.spoolChange n (BitVec.ofNat 64 (min (spoolCount v + k) (2 ^ 63 - 1)))

/-- SPL.SET: the count, and POISON cleared. -/
def State.spoolSet (s : State) (n v : Nat) : State := s.spoolChange n (BitVec.ofNat 64 (v % 2 ^ 63))

/-- Poison a counter; one already poisoned stays so (R160, R290). -/
def State.spoolPoison (s : State) (n : Nat) : State :=
  let v := s.spoolVal n
  if spoolPoisoned v then s else s.spoolChange n (v ||| 0x8000000000000000)

/-- Set a counter to 0 without applying it as a change (R400, R403). -/
def State.spoolClear (s : State) (n : Nat) : State := { s with spool := Sparse.set (fun _ => 0) s.spool n 0 }

/-- A fixed-size write into the spool file (R164): 8 bytes set the counter, fewer are discarded and recorded. -/
def State.spoolWrite (s : State) (src : Nat) (ctx : Option Nat) (addr : Nat) (bs : List Byte) : State :=
  if bs.length = 8 ∧ addr % 8 = 0 then s.spoolSet ((addr - spoolBase) / 8) (natLE bs)
  else s.refusal src 6 ctx (addrWords addr)

/-- A spool-file read: the bytes named of the counter's value. -/
def State.spoolRead (s : State) (addr n : Nat) : List Byte :=
  (List.range n).map fun i =>
    BitVec.ofNat 8 ((s.spoolVal ((addr + i - spoolBase) / 8)).toNat >>> (8 * ((addr + i) % 8)))

/-- The values that the changes of a counter have given it, the last first, and how many changes there were. -/
def State.history (s : State) (n : Nat) : List DWord := Sparse.get (fun _ => []) s.spoolChg n
def State.changes (s : State) (n : Nat) : Nat := (s.history n).length

/-- A counter's value satisfies a trigger (R237): the count is at or above the target, or POISON is set. -/
def trigMet (target : Nat) (v : DWord) : Bool := spoolPoisoned v || decide (target ≤ spoolCount v)

/-- The change at which a trigger that last fired as `f` says fires next (R237), judged by the value that each change gave the
counter, and whether that value was poisoned: the first later change that satisfies it, or the same one again if the count
satisfies the new target already. -/
def State.fires (s : State) (f : Firing) (trig target : Nat) : Option (Nat × Bool) :=
  let vs := (s.history trig).reverse
  let old := vs.getD (f.change - 1) 0
  if f.again && decide (target ≤ spoolCount old) then some (f.change, spoolPoisoned old)
  else ((List.range vs.length).find? fun i => decide (f.change ≤ i) && trigMet target (vs.getD i 0)).map
    fun i => (i + 1, spoolPoisoned (vs.getD i 0))

/-- SPOOL_FILE_WRITE (R164): context 0 writes the spool file. The write of a counter of an absent partition is a write to a
hole: discarded with a record (R165). -/
def execSpoolFileWrite (addr : Nat) (data : List Byte) (s : State) : Host.Outcome State Fault Refusal :=
  if !isSpool addr || data.length = 0 || !(data.length ≤ 8) || !isSpool (addr + data.length - 1) then .next s
  else if !s.populated addr then .next (s.holeRecord 0x650 (some 0) addr)
  else .next (s.spoolWrite 0x650 (some 0) addr data)

end Sys2Proof.Machine
end

