-- ==== Sys2Proof/Machine/Translate.lean ====
section
/-! DEFINITION. Address translation: context windows (R177 to R180), global addresses and the fabric address map (R181 to
R185). -/
namespace Sys2Proof.Machine

/-- What an access needs (R179, R182). -/
inductive Need where
  | fetch
  | read
  | write
  | atomic
  | count
  deriving DecidableEq, Repr

/-- Flags of window word 6 that an access needs: R bit 1, W bit 2, X bit 3, A bit 4 (R179). -/
def Need.mask : Need → Nat
  | .fetch => 8 | .read => 2 | .write => 4 | .atomic => 22 | .count => 20

/-- The lowest PERM of a fabric-map entry that allows it (R182). -/
def Need.perm : Need → Nat
  | .fetch => 1 | .read => 1 | .write => 2 | .atomic => 3 | .count => 3

/-- Where an access goes: a physical address of this module, or an offset in a granule that another module exports. -/
inductive Where where
  | here (a : Nat)
  | remote (dev lpn off : Nat)
  deriving DecidableEq, Repr

/-- A window entry is well formed and valid (R177, R178). -/
def windowValid (w : List Word) : Bool :=
  bitAt (wordAt w 6) 0 && fld (wordAt w 0) 0 16 == 0 && !bitAt (wordAt w 1) 31 && fld (wordAt w 2) 0 16 == 0xFFFF
    && !bitAt (wordAt w 3) 31 && fld (wordAt w 4) 0 16 == 0 && fld (wordAt w 5) 12 20 == 0
    && fld (wordAt w 6) 6 26 == 0 && wordAt w 7 == 0 && decide (dwordAt w 0 < dwordAt w 2)

/-- Read a context's window table, its valid entries in order; an entry in a poisoned block is not valid (R178, R446). -/
def State.loadWindows (s : State) (ctx : Nat) : State × List (List Word) :=
  (List.range 256).foldl (fun (p : State × List (List Word)) i =>
    let a := p.1.wtBase + 0x2000 * ctx + 32 * i
    let r := p.1.entryOk a 8
    if r.2 && bitAt (r.1.word (a + 24)) 0 then
      let w := r.1.words a 8
      (r.1, if windowValid w then p.2 ++ [w] else p.2)
    else (r.1, p.2)) (s, [])

/-- A read of a cached entry meets its word's error, if any (R176): a single-bit error is corrected and counted under `unit`; `true`
says that a double-bit error discards the entry. -/
def State.cacheEcc (s : State) (bad : Sparse Nat) (key unit : Nat) (put : State → Sparse Nat → State) : State × Bool :=
  let e := Sparse.get (fun _ => 0) bad key
  if e = 0 then (s, false)
  else
    let s := put s (Sparse.set (fun _ => 0) bad key 0)
    if e = 1 then ({ s with eccFixed := Sparse.modify (fun _ => 0) s.eccFixed unit (· + 1) }, false) else (s, true)

/-- Keys under which corrected errors of the window and map caches and of the register files are counted (R176). -/
def eccWindow (unit : Nat) : Nat := 2 ^ 50 + unit
def eccMap (die : Nat) : Nat := 2 ^ 51 + die
def eccRegs (core : Nat) : Nat := 2 ^ 52 + core

/-- The windows that a unit (a core, or 1,536 for the link engine and the gondola) uses for a context: its cached copy,
read when it has none (R180). -/
def State.windows (s : State) (unit ctx : Nat) : State × List (List Word) :=
  let e := s.cacheEcc s.wcacheBad (unit * 64 + ctx) (eccWindow unit) fun s m => { s with wcacheBad := m }
  let s := e.1
  match (if e.2 then none else Sparse.get (fun _ => none) s.wcache (unit * 64 + ctx)) with
  | some ws => (s, ws)
  | none =>
    let r := s.loadWindows ctx
    ({ r.1 with wcache := Sparse.set (fun _ => none) r.1.wcache (unit * 64 + ctx) (some r.2) }, r.2)

/-- The lowest-numbered valid window that holds `va` (R178). -/
def findWindow (ws : List (List Word)) (va : Nat) : Option (List Word) :=
  ws.find? fun w => decide (dwordAt w 0 ≤ va) && decide (va ≤ dwordAt w 2)

/-- A local address (R165, R166, R178, R179): the fault class, or the physical address and the window's C bit. -/
def State.trLocal (s : State) (unit ctx va : Nat) (need : Need) : State × Except Nat (Nat × Bool) :=
  let r := s.windows unit ctx
  match findWindow r.2 va with
  | none =>
    -- every context can read the launch map at its own address (R114; log 5)
    if need = .read ∧ s.lmapAddr ≠ 0 ∧ s.lmapAddr ≤ va ∧ va < 0x4000 + s.lmapAddr then (r.1, .ok (va, false)) else (r.1, .error fUnmapped)
  | some w =>
    let flags := fld (wordAt w 6) 0 6
    let a := dwordAt w 4 + (va - dwordAt w 0)
    if flags &&& need.mask ≠ need.mask then (r.1, .error fPermission)
    else if ctx ≠ 0 ∧ !r.1.populated a then (r.1, .error fUnmapped)
    else if ctx ≠ 0 ∧ 0x10800000000 ≤ a then (r.1, .error fPermission)
    else (r.1, .ok (a, bitAt (wordAt w 6) 5))

/-- The die of a unit. -/
def dieOf (unit : Nat) : Nat := if unit < 768 then 0 else if unit < 1536 then 1 else 0

/-- A fabric-map entry's device id matches its complement (R182, R184). -/
def entryChecks (e : DWord) : Bool := fld e 40 24 == (2 ^ 24 - 1) - fld e 16 24

/-- Read a fabric-map entry from DRAM: none when its block is poisoned or no DRAM is there. -/
def State.readFamap (s : State) (i : Nat) : State × Option DWord :=
  let a := s.famapBase + 8 * i
  if !s.inDram a then (s, none)
  else
    let r := s.readEntry a 2
    (r.1, r.2.map fun ws => BitVec.ofNat 64 (dwordAt ws 0))

/-- The event of a fabric-map entry that does not check (R184), of the map cache of the unit's die. -/
def State.famapBad (s : State) (unit ctx i : Nat) (e : DWord) : State :=
  s.integrity (0x65A + dieOf unit) 3 (some ctx) unit (s.famapBase + 8 * i) (BitVec.ofNat 32 (fld e 16 24))
    (BitVec.ofNat 32 (fld e 40 24))

/-- Key of entry `i` in the map cache of a unit's die. -/
def famapKey (unit i : Nat) : Nat := 2 ^ 25 * dieOf unit + i

/-- Entries that a die's map cache holds. -/
def State.famapHeld (s : State) (die : Nat) : List Nat := (s.fcache.map Prod.fst).filter fun k => k / 2 ^ 25 == die

/-- Put an entry into a die's map cache of 16,384 entries (R184); when it is full an entry chosen freely leaves (log 16). -/
def State.famapPut (s : State) (unit i : Nat) (e : DWord) : State :=
  let held := s.famapHeld (dieOf unit)
  let s := if held.length < 16384 then s
    else
      let d := s.draw
      { d.2 with fcache := Sparse.set (fun _ => none) d.2.fcache (held.getD (Config.evictChoice d.1 % held.length) 0) none }
  { s with fcache := Sparse.set (fun _ => none) s.fcache (famapKey unit i) (some e) }

/-- Read an entry from DRAM and check it: a good one is cached. -/
def State.famapRead (s : State) (unit ctx i : Nat) : State × Option DWord :=
  match s.readFamap i with
  | (s, none) => (s, none)
  | (s, some e) => if entryChecks e then (s.famapPut unit i e, some e) else (s.famapBad unit ctx i e, none)

/-- The entry a die uses (R184, R185): the cached one when it checks; else the one in DRAM, checked in its turn. Each
mismatch is an integrity event of the die's map cache. -/
def State.famapEntry (s : State) (unit ctx i : Nat) : State × Option DWord :=
  let b := s.cacheEcc s.fcacheBad (famapKey unit i) (eccMap (dieOf unit)) fun s m => { s with fcacheBad := m }
  let s := b.1
  match (if b.2 then none else Sparse.get (fun _ => none) s.fcache (famapKey unit i)) with
  | some e =>
    if entryChecks e then (s, some e)
    else ({ s.famapBad unit ctx i e with fcache := Sparse.set (fun _ => none) s.fcache (famapKey unit i) none }).famapRead unit ctx i
  | none =>
    match s.readFamap i with
    | (s, none) => (s, none)
    | (s, some e) =>
      if entryChecks e then (s.famapPut unit i e, some e) else (s.famapBad unit ctx i e).famapRead unit ctx i

/-- Resolve a page of this module's export space (R183): none when it refuses. -/
def State.exportAddr (s : State) (gran : Bool) (lpn off : Nat) : Option Nat :=
  if gran ≠ s.gran then none
  else if !gran && decide (2 ^ 21 ≤ off) then none
  else if gran && decide (fld (s.reg (offMem + 8)) 0 4 ≠ 0) then none
  else
    let a := s.exportBase + lpn * (if gran then 2 ^ 25 else 2 ^ 21) + off
    if s.inDram a then some a else none

/-- A global address (R181 to R184). -/
def State.trGlobal (s : State) (unit ctx va : Nat) (need : Need) : State × Except Nat Where :=
  if !s.ctxGlobal ctx then (s, .error fPermission)
  else
    let g := s.gran
    let x := va % 2 ^ 63
    let gb := if g then 25 else 21
    if x / 2 ^ (gb + 25) ≠ 0 then (s, .error fUnmapped)
    else
      let i := x / 2 ^ gb % 2 ^ 25
      let off := x % 2 ^ gb
      let r := s.famapEntry unit ctx i
      match r.2 with
      | none => (r.1, .error fUnmapped)
      | some e =>
        let perm := fld e 14 2
        if perm = 0 then (r.1, .error fUnmapped)
        else if perm < need.perm then (r.1, .error fPermission)
        else
          let dev := fld e 16 24
          let lpn := fld e 0 14
          if dev = r.1.deviceId then
            match r.1.exportAddr g lpn off with
            | some a => (r.1, .ok (.here a))
            | none => (r.1, .error fUnmapped)
          else (r.1, .ok (.remote dev lpn off))

/-- Translate a virtual address for bytes that lie in one 64-byte block: the fault class, or where it goes and whether a
line may be allocated (R178, R185). -/
def State.translate (s : State) (unit ctx va : Nat) (need : Need) : State × Except Nat (Where × Bool) :=
  if 2 ^ 63 ≤ va then
    let r := s.trGlobal unit ctx va need
    (r.1, r.2.map fun w => (w, true))
  else
    let r := s.trLocal unit ctx va need
    (r.1, r.2.map fun p => (.here p.1, p.2))

/-- Pieces of `[va, va + n)` that stay within 64-byte blocks: (address, length). -/
def pieces (va n : Nat) : List (Nat × Nat) :=
  (blocksOf va n).map fun b => (max va b, min (va + n) (b + 64) - max va b)

/-- Translate a whole range piece by piece (R178: it faults if any byte fails): the first fault with its address, or where
every piece lies. -/
def State.translateRange (s : State) (unit ctx va n : Nat) (need : Need) :
    State × Except (Nat × Nat) (List (Where × Nat)) :=
  (pieces va n).foldl (fun (p : State × Except (Nat × Nat) (List (Where × Nat))) q =>
    match p.2 with
    | .error e => (p.1, .error e)
    | .ok l =>
      let r := p.1.translate unit ctx q.1 need
      match r.2 with
      | .error c => (r.1, .error (c, q.1))
      | .ok w => (r.1, .ok (l ++ [(w.1, q.2)]))) (s, .ok [])

end Sys2Proof.Machine
end

