-- ==== Sys2Proof/Machine/Route.lean ====
section
/-! DEFINITION. Sending on the fabric (spec/13): interval routing (R283), requests without a response (R281, R282). -/
namespace Sys2Proof.Machine

/-- Put a packet on a port: DATELINE sets CLS (R285); it joins the port's queue, which sends it as credits allow. -/
def State.sendOn (s : State) (port : Nat) (p : Packet) : State :=
  let p := { p with cls := p.cls || bitAt (s.reg (offPort port)) 1 }
  let bs := packetBytes p
  let s := { s with fabOut := s.fabOut ++ [(port, p)] }
  let s := s.setLink port fun l =>
    { l with txWait := l.txWait ++ [{ q := packetQueue p, ring := none, bytes := bs }] }
  s.pump port

/-- Ports that are UP with JOBPORT set (R283, R288). -/
def State.jobPorts (s : State) : List Nat := (List.range 16).filter fun k => s.linkUp k && s.jobPort k

/-- The port a packet for `dst` leaves by (R283). -/
def State.routePort (s : State) (src dst : Nat) : Option Nat :=
  let ms := s.jobPorts.filter fun k => inInterval (fld (s.reg (offPort k + 8)) 0 24) (fld (s.reg (offPort k + 0x10)) 0 24) dst
  if ms.isEmpty then none else ms[(src ^^^ dst) % ms.length]?

/-- A device id is cut (R290). -/
def State.isCut (s : State) (d : Nat) : Bool := s.cutAll || s.cut.contains d

/-- A request packet of this module (R278, R294). -/
def State.request (s : State) (ptype dst tag len : Nat) (ext : List Word) (data : List Byte) : Packet :=
  { ptype := BitVec.ofNat 4 ptype, rsp := false, status := 0, dst := BitVec.ofNat 24 dst, cls := false
    len := BitVec.ofNat 7 len, src := BitVec.ofNat 24 s.deviceId, job := BitVec.ofNat 16 s.job
    tag := BitVec.ofNat 16 tag, epoch := BitVec.ofNat 8 s.epoch, ttl := 0xFFFFFF, ext := ext, data := data }

/-- The lowest tag without a request. -/
def State.freshTag (s : State) : Nat :=
  match (List.range (s.reqs.length + 1)).find? fun k => (Sparse.get (fun _ => none) s.reqs k).isNone with
  | some k => k
  | none => 0

/-- Issue a request to another module: none when no port leads there (STATUS NOROUTE, R283). -/
def State.issueReq (s : State) (ptype dst ctx : Nat) (owner : Owner) (addr : Nat) (len : Nat) (ext : List Word)
    (data : List Byte) (org : Origin := .none) (acq : Bool := false) : Option State :=
  match s.routePort s.deviceId dst with
  | none => none
  | some k =>
    let tag := s.freshTag
    let rq : Req := { ptype := BitVec.ofNat 4 ptype, dst := dst, ctx := ctx, owner := owner
                      addr := BitVec.ofNat 64 addr, since := s.lcount, org := org, acq := acq, stale := false
                      noFill := false }
    let s := { s with reqs := Sparse.set (fun _ => none) s.reqs tag (some rq) }
    some (s.sendOn k (s.request ptype dst tag len ext data))

/-- A packet that nothing answers (SPOOL-NOTIFY, PAIR-ACCUMULATE): dropped with a record when no port leads there. -/
def State.post (s : State) (ptype dst len : Nat) (ext : List Word) (data : List Byte) : State :=
  if s.isCut dst then s
  else
    match s.routePort s.deviceId dst with
    | some k => s.sendOn k (s.request ptype dst 0 len ext data)
    | none => s.report 0x640 5 6 none 0xFFFF [0xFFFFFFFF, BitVec.ofNat 32 s.deviceId, BitVec.ofNat 32 dst]

/-- The ADDR extension (R279). -/
def extAddr (gran edge : Bool) (lpn off : Nat) : List Word :=
  [BitVec.ofNat 32 (off % 2 ^ 25), BitVec.ofNat 32 (b2n gran * 2 ^ 31 + b2n edge * 2 ^ 30 + lpn % 2 ^ 14)]

/-- The SPOOL extension: value word and complement (R279). -/
def extSpool (spv bf psn : Bool) (id : Nat) : List Word :=
  let w : Word := BitVec.ofNat 32 (b2n spv * 2 ^ 31 + b2n bf * 2 ^ 30 + b2n psn * 2 ^ 29 + id % 2 ^ 14)
  [w, ~~~ w]

/-- The COUNT extension. -/
def extCount (n : Nat) : List Word := [BitVec.ofNat 32 n, ~~~ (BitVec.ofNat 32 n : Word)]

/-- Increase a counter of another module (R213, R279): one SPOOL-NOTIFY, or as many as a COUNT of 32 bits needs, the PSN flag on
the last. -/
def State.notifyRemote (s : State) (dst id n : Nat) (psn : Bool) : State :=
  let m := 0xFFFFFFFF
  let k := max 1 (ceilDiv n m)
  forEach (fun s i => s.post 6 dst 0 (extSpool true false (psn && i + 1 == k) id ++ extCount (min m (n - i * m))) []) s (List.range k)

/-- Requests of a context that a fabric release waits for (R219, R282). -/
def State.reqsOf (s : State) (p : Req → Bool) : List (Nat × Req) :=
  s.reqs.filterMap fun q => match q.2 with
    | some r => if p r then some (q.1, r) else none
    | none => none

/-- Forget a request. -/
def State.endReq (s : State) (tag : Nat) : State := { s with reqs := Sparse.set (fun _ => none) s.reqs tag none }

/-- A write of the core goes to another module's bytes: a line that an earlier load has asked for would hold what they were
before, and is not allocated (R215). -/
def State.overtake (s : State) (core va n : Nat) : State :=
  let hit (r : Req) : Bool := match r.owner with
    | .thread c _ _ _ _ _ true => c == core && overlaps (r.addr.toNat / 64 * 64) 64 va n
    | _ => false
  if s.reqs.any fun q => q.2.any hit then
    { s with reqs := s.reqs.map fun q => (q.1, q.2.map fun r => if hit r then { r with noFill := true } else r) }
  else s

end Sys2Proof.Machine
end

