-- ==== Sys2Proof/Machine/Cache.lean ====
section
/-! DEFINITION. The cache part of a core's local SRAM (R111, R146, R180, R217, R218, R225), and writes of single bits to
another module (R204, R279). -/
namespace Sys2Proof.Machine

/-! ## Writes to another module -/

/-- A byte write at an offset of a granule: offset, mask, value. -/
structure OffWrite where
  off : Nat
  mask : Byte
  val : Byte
  deriving DecidableEq, Repr

/-- Split byte writes in ascending order into runs: bytes that follow one another, up to 256 of them, only the first and the last
of a run partly written (R279). -/
def runsOf : List OffWrite → List OffWrite → List (List OffWrite)
  | [], acc => if acc.isEmpty then [] else [acc.reverse]
  | w :: ws, acc =>
    match acc with
    | [] => runsOf ws [w]
    | l :: _ =>
      if l.off + 1 = w.off ∧ (l.mask = 0xFF ∨ acc.length = 1) ∧ w.off % 256 ≠ 0 then runsOf ws (w :: acc)
      else acc.reverse :: runsOf ws [w]

/-- The words, masks and offset of a WRITE that carries a run (R279): widened to whole words, with EDGE masks. -/
def runPacket (r : List OffWrite) : Nat × List Byte × Nat × Nat :=
  match r with
  | [] => (0, [], 0, 0)
  | w :: _ =>
    let lead := w.off % 4
    let n := r.length
    let pad := (4 - (lead + n) % 4) % 4
    let data := List.replicate lead 0 ++ r.map OffWrite.val ++ List.replicate pad 0
    let bits := List.replicate lead 0 ++ r.map OffWrite.mask ++ List.replicate pad 0
    let first := natLE (bits.take 4)
    let last := natLE (bits.drop (bits.length - 4))
    (w.off - lead, data, first, last)

/-- Issue one WRITE for a run; `spool` names a counter that the holder increases (R279). None when no port leads there. -/
def State.issueRun (s : State) (dev lpn ctx : Nat) (owner : Owner) (addr : Nat) (spool : Option Nat)
    (r : List OffWrite) (org : Origin := .none) : Option State :=
  let (off, data, first, last) := runPacket r
  let edge := decide (first ≠ 0xFFFFFFFF) || decide (last ≠ 0xFFFFFFFF)
  let ext := extAddr s.gran edge lpn off ++ extSpool spool.isSome false false (spool.getD 0)
    ++ (if edge then [BitVec.ofNat 32 first, BitVec.ofNat 32 last] else [])
  s.issueReq 1 dev ctx owner addr (data.length / 4) ext data org

/-- Issue WRITEs for byte writes of a page; `false` when one found no route (R282: an UNMAPPED fault of the issuer). -/
def State.issueWrites (s : State) (dev lpn ctx : Nat) (owner : Owner) (addr : Nat) (ws : List OffWrite)
    (org : Origin := .none) : State × Bool :=
  (runsOf ws []).foldl (fun (p : State × Bool) r =>
    match p.1.issueRun dev lpn ctx owner addr none r org with
    | some s => (s, p.2)
    | none => (p.1, false)) (s, true)

/-! ## Lines -/

/-- Lines that a split's cache part holds (R111). -/
def cacheLines (split : Nat) : Nat := split * 1024

/-- Key of a line: its physical address, or its global address above 2^64. -/
def lineKey (w : Where) (va : Nat) : Nat :=
  match w with
  | .here a => a / 64 * 64
  | .remote _ _ _ => 2 ^ 64 + va / 64 * 64

def Core.line (c : Core) (k : Nat) : Option Line := Sparse.get (fun _ => none) c.cache k

def State.setLine (s : State) (core k : Nat) (l : Option Line) : State :=
  s.modCore core fun c => { c with cache := Sparse.set (fun _ => none) c.cache k l }

/-- The modified bytes of a line: index and value. -/
def Line.modified (l : Line) : List (Nat × Byte) :=
  ((List.range 64).zip l.bytes).filter fun p => bitAt l.dirty p.1

/-- Write back a line's modified bytes to the address it was allocated from (R180); no fault is raised here for a local
line. A remote write-back that finds no route is an UNMAPPED fault of its context (R282), at the store that last modified
the line (R126), unless the holder is cut (R290: discarded). -/
def State.writeBack (s : State) (core k : Nat) : State :=
  match (s.core core).line k with
  | none => s
  | some l =>
    if l.dirty = 0 then s
    else
      let s := s.setLine core k (some { l with dirty := 0 })
      match l.remote with
      | none =>
        if l.dirty = BitVec.allOnes 64 then s.writeMem k l.bytes
        else s.writeBitsAll (l.modified.map fun p => { addr := k + p.1, mask := 0xFF, val := p.2 })
      | some (dev, lpn, off) =>
        if s.isCut dev then s
        else
          let r := s.issueWrites dev lpn l.ctx (.line core) (k - 2 ^ 64)
            (l.modified.map fun p => { off := off + p.1, mask := 0xFF, val := p.2 }) l.org
          if r.2 then r.1
          else r.1.threadFault core l.ctx fUnmapped l.org.grp l.org.mask l.org.pc.toNat (k - 2 ^ 64)

def State.dropLine (s : State) (core k : Nat) : State := s.setLine core k none

/-- Write back and drop. -/
def State.evict (s : State) (core k : Nat) : State := (s.writeBack core k).dropLine core k

/-- Keys of the lines a core holds. -/
def Core.keys (c : Core) : List Nat := c.cache.map Prod.fst

/-- Write back every modified line of a core's cache part (R162, R219, R400). -/
def State.writeBackAll (s : State) (core : Nat) : State :=
  forEach (fun s k => s.writeBack core k) s (s.core core).keys

/-- Write back and drop every line (R111, R400). -/
def State.evictAll (s : State) (core : Nat) : State :=
  forEach (fun s k => s.evict core k) s (s.core core).keys

/-- Places of the cache part that no line takes. -/
def Core.freePlaces (c : Core) : List Nat :=
  (List.range (cacheLines c.split)).filter fun i => !(c.cache.any fun p => p.2.any fun l => l.slot == i)

/-- A line at one of the free places, which one being the module's choice (R108; log 88). -/
def State.placeLine (s : State) (core k : Nat) (l : Line) : State :=
  let d := s.draw
  let f := (d.2.core core).freePlaces
  d.2.setLine core k (some { l with slot := f.getD (Config.linePlace d.1 % f.length) 0 })

/-- Put a line into the cache part; when it is full a line chosen freely leaves first (log 2: no replacement rule). -/
def State.allocate (s : State) (core k : Nat) (l : Line) : State :=
  let c := s.core core
  if c.split = 0 then s
  else if (c.line k).isSome ∨ c.cache.length < cacheLines c.split then s.placeLine core k l
  else
    let d := s.draw
    match c.keys[Config.evictChoice d.1 % c.keys.length]? with
    | some v => (d.2.evict core v).placeLine core k l
    | none => d.2

/-- Bytes of a line. -/
def Line.slice (l : Line) (o n : Nat) : List Byte := (l.bytes.drop o).take n

/-- Change bytes of a line and mark them modified by an instruction. -/
def Line.put (l : Line) (o : Nat) (bs : List Byte) (org : Origin) : Line :=
  { l with
    org := org
    bytes := l.bytes.take o ++ bs ++ l.bytes.drop (o + bs.length)
    dirty := l.dirty ||| BitVec.ofNat 64 ((2 ^ bs.length - 1) * 2 ^ o) }

/-- Lines of the cache part that overlap a virtual range, for local pages and pages of other modules alike (R146, R217):
the keys that its bytes translate to for the access `need`; bytes that do not translate name no line. -/
def State.linesOf (s : State) (core ctx va n : Nat) (need : Need) : State × List Nat :=
  (blocksOf va n).foldl (fun (p : State × List Nat) b =>
    let r := p.1.translate core ctx b need
    match r.2 with
    | .ok w => (r.1, p.2 ++ [lineKey w.1 b])
    | .error _ => (r.1, p.2)) (s, [])

/-! ## The local-SRAM slot (R164) -/

/-- KiB of the local-store part (R111), above the cache part (log 9). -/
def lsPart (split : Nat) : Nat := 384 - 64 * split

/-- The line of a core's cache part that lies at an offset of its local-SRAM slot (log 88). -/
def Core.lineAt (c : Core) (off : Nat) : Option (Nat × Line) :=
  if 65536 * c.split ≤ off then none
  else c.cache.findSome? fun p => match p.2 with
    | some l => if l.slot = off / 64 then some (p.1, l) else none
    | none => none

/-- Bytes of a range of local SRAM as the slot shows them: cache part and local-store part alike. -/
def State.slotBytes (s : State) (a : Nat) (bs : List Byte) : List Byte :=
  let c := s.core (sramCore a)
  let o := (a - 0x20000000000) % 0x80000
  if 65536 * c.split ≤ o then bs
  else (bs.zip (List.range bs.length)).map fun p =>
    match c.lineAt (o + p.2) with
    | some q => q.2.bytes.getD ((o + p.2) % 64) 0
    | none => p.1

/-- A write of a byte of the slot also changes the line that lies there; it marks nothing modified. -/
def State.slotWrite (s : State) (a : Nat) (bs : List Byte) : State :=
  let core := sramCore a
  let o := (a - 0x20000000000) % 0x80000
  if 65536 * (s.core core).split ≤ o then s
  else forEach (fun s p =>
    match (s.core core).lineAt (o + p.2) with
    | some q => s.setLine core q.1 (some { q.2 with bytes := q.2.bytes.set ((o + p.2) % 64) p.1 })
    | none => s) s (bs.zip (List.range bs.length))

end Sys2Proof.Machine
end

