-- ==== Sys2Proof/Machine/Operands.lean ====
section
/-! DEFINITION. Operands of thread instructions (R128 to R134): register files, pairs and quads, reading and writing the
registers of lanes. -/
namespace Sys2Proof.Machine

/-- What an operand field names (R133). -/
inductive RegFile where
  | t | u | h | p | zero | reserved
  deriving DecidableEq, Repr

/-- File and register number of an operand field (R133). -/
def fileOf (f : BitVec 9) : RegFile × Nat :=
  let n := f.toNat
  if n < 0xFF then (.t, n)
  else if n = 0xFF then (.reserved, 0)
  else if n < 0x140 then (.u, n - 0x100)
  else if n < 0x150 then (.h, n - 0x140)
  else if n < 0x158 then (.p, n - 0x150)
  else if n = 0x180 then (.zero, 0)
  else (.reserved, 0)

/-- How an instruction uses an operand field: the files allowed in that position, the registers it takes (1, 2 for a pair,
4 for a quad), and whether it is written. -/
structure Use where
  f : BitVec 9
  files : List RegFile
  n : Nat
  dst : Bool
  deriving DecidableEq, Repr

/-- A source that may be t, u or ZERO, of `n` registers. -/
def Use.src (f : BitVec 9) (n : Nat := 1) : Use := { f := f, files := [.t, .u, .zero], n := n, dst := false }
/-- A destination in t or u, or ZERO, which discards (R129). -/
def Use.dest (f : BitVec 9) (n : Nat := 1) : Use := { f := f, files := [.t, .u, .zero], n := n, dst := true }
/-- A source or destination in files of its own. -/
def Use.srcIn (f : BitVec 9) (files : List RegFile) (n : Nat := 1) : Use := { f := f, files := files, n := n, dst := false }
def Use.dstIn (f : BitVec 9) (files : List RegFile) (n : Nat := 1) : Use := { f := f, files := files, n := n, dst := true }
/-- A field that the opcode does not use: it must hold ZERO (R134). -/
def Use.unused (f : BitVec 9) : Use := { f := f, files := [.zero], n := 1, dst := false }

/-- t registers that a launch's threads may name (R126, R128): its allocation, and t255 has no encoding. -/
def tLimit (regs : Nat) : Nat := min 255 (8 * ceilDiv regs 8)

/-- An operand is encoded as its position allows; a pair or quad is aligned and does not pass the end of its file, and t
registers lie in the launch's allocation (R126, R130, R133, R134). -/
def Use.ok (regs : Nat) (u : Use) : Bool :=
  let (file, k) := fileOf u.f
  u.files.contains file &&
    match file with
    | .t => decide (k % u.n = 0) && decide (k + u.n ≤ tLimit regs)
    | .u => decide (k % u.n = 0) && decide (k + u.n ≤ 64)
    | .reserved => false
    | _ => true

/-- R131: a u or h destination needs sources that are all u, h or ZERO. -/
def uniformOk (us : List Use) : Bool :=
  !(us.any fun u => u.dst && ((fileOf u.f).1 == .u || (fileOf u.f).1 == .h)) ||
    us.all fun u => u.dst || (fileOf u.f).1 != .t

/-- The operand checks of R130, R131, R133 and R134; `uni` marks the instructions that R131 excepts. -/
def usesOk (regs : Nat) (uni : Bool) (us : List Use) : Bool :=
  us.all (Use.ok regs) && (uni || uniformOk us)

/-- Some operand names a u or h register (R119). -/
def readsUniform (us : List Use) : Bool := us.any fun u => !u.dst && ((fileOf u.f).1 == .u || (fileOf u.f).1 == .h)

/-- Two operands share a register. -/
def sharesReg (f : BitVec 9) (n : Nat) (f' : BitVec 9) (n' : Nat) : Bool :=
  (fileOf f).1 == (fileOf f').1 && ((fileOf f).1 == .t || (fileOf f).1 == .u)
    && overlaps (fileOf f).2 n (fileOf f').2 n'

/-! ## Registers of a group -/

def Group.treg (g : Group) (lane n : Nat) : Word := Sparse.get (fun _ => 0) g.t (lane + 32 * n)
def Group.ureg (g : Group) (n : Nat) : Word := Sparse.get (fun _ => 0) g.u n
/-- Predicates: p0 reads 1 (R129). -/
def Group.preg (g : Group) (lane n : Nat) : Bool := n == 0 || Sparse.get (fun _ => false) g.p (lane + 32 * n)
def Group.hreg (g : Group) (n : Nat) : DWord := Sparse.get (fun _ => 0) g.h n
/-- A register that is written is encoded afresh: an error of its word is gone (R176). -/
def Group.setT (g : Group) (lane n : Nat) (v : Word) : Group :=
  { g with t := Sparse.set (fun _ => 0) g.t (lane + 32 * n) v, bad := Sparse.set (fun _ => 0) g.bad (lane + 32 * n) 0 }
def Group.setU (g : Group) (n : Nat) (v : Word) : Group := { g with u := Sparse.set (fun _ => 0) g.u n v }
/-- A write to p0 is discarded (R129). -/
def Group.setP (g : Group) (lane n : Nat) (v : Bool) : Group :=
  if n = 0 then g else { g with p := Sparse.set (fun _ => false) g.p (lane + 32 * n) v }
def Group.setH (g : Group) (n : Nat) (v : DWord) : Group := { g with h := Sparse.set (fun _ => 0) g.h n v }

/-- Register `i` of an operand, for a lane; ZERO reads 0 (R129). -/
def Group.rd (g : Group) (f : BitVec 9) (lane i : Nat) : Word :=
  match fileOf f with
  | (.t, n) => g.treg lane (n + i)
  | (.u, n) => g.ureg (n + i)
  | _ => 0

/-- The value of an operand of `n` registers, lowest word first (R130). -/
def Group.val (g : Group) (f : BitVec 9) (lane : Nat) : Nat → Nat
  | 0 => 0
  | n + 1 => Group.val g f lane n + (g.rd f lane n).toNat * 2 ^ (32 * n)

/-- A predicate operand; ZERO reads 0. -/
def Group.prd (g : Group) (f : BitVec 9) (lane : Nat) : Bool :=
  match fileOf f with
  | (.p, n) => g.preg lane n
  | _ => false

/-- Write register `i` of an operand for a lane; ZERO discards. -/
def Group.wr (g : Group) (f : BitVec 9) (lane i : Nat) (v : Word) : Group :=
  match fileOf f with
  | (.t, n) => g.setT lane (n + i) v
  | (.u, n) => g.setU (n + i) v
  | _ => g

/-- Write an operand of `n` registers. -/
def Group.put (g : Group) (f : BitVec 9) (lane : Nat) (v : Nat) : Nat → Group
  | 0 => g
  | n + 1 => (Group.put g f lane v n).wr f lane n (BitVec.ofNat 32 (bitsOf v (32 * n) 32))

/-- Write a predicate operand for a lane. -/
def Group.pwr (g : Group) (f : BitVec 9) (lane : Nat) (v : Bool) : Group :=
  match fileOf f with
  | (.p, n) => g.setP lane n v
  | _ => g

/-- The lanes of a mask, ascending. -/
def lanesOf (m : BitVec 32) : List Nat := (List.range 32).filter fun i => bitAt m i

/-- Write values, lane by lane. -/
def Group.putLanes (g : Group) (f : BitVec 9) (n : Nat) (vals : List (Nat × Nat)) : Group :=
  vals.foldl (fun g p => g.put f p.1 p.2 n) g

/-- Write predicates, lane by lane. -/
def Group.putPreds (g : Group) (f : BitVec 9) (vals : List (Nat × Bool)) : Group :=
  vals.foldl (fun g p => g.pwr f p.1 p.2) g

/-- All lanes agree on one value. -/
def agree (vals : List (Nat × Nat)) : Bool :=
  match vals with
  | [] => true
  | v :: vs => vs.all fun x => x.2 == v.2

/-! ## Groups of resident blocks -/

/-- Blocks of a core that hold an allocation. -/
def Core.held (c : Core) : List (Nat × Block) :=
  c.blocks.filterMap fun p => match p.2 with
    | some b => some (p.1, b)
    | none => none

def State.block (s : State) (core blk : Nat) : Option Block := Sparse.get (fun _ => none) (s.core core).blocks blk
def State.setBlock (s : State) (core blk : Nat) (b : Option Block) : State :=
  s.modCore core fun c => { c with blocks := Sparse.set (fun _ => none) c.blocks blk b }
def Block.group (b : Block) (n : Nat) : Group := Sparse.get (fun _ => Group.none) b.groups n
def State.group (s : State) (core blk grp : Nat) : Group :=
  match s.block core blk with
  | some b => b.group grp
  | none => Group.none

/-- Change a group of a resident block. -/
def State.modGroup (s : State) (core blk grp : Nat) (f : Group → Group) : State :=
  match s.block core blk with
  | some b => s.setBlock core blk (some { b with groups := Sparse.set (fun _ => Group.none) b.groups grp (f (b.group grp)) })
  | none => s

end Sys2Proof.Machine
end

