-- ==== Sys2Proof/Machine/Flags.lean ====
section
/-! DEFINITION. Guards, conditions and predicate results of thread instructions (R132, R135, R137, R138, R149, R150), LSTAT
(R143, R161) and the conversion counters (R41). -/
namespace Sys2Proof.Machine

/-- The guard of a lane (R132): bit 3 of G negates the predicate that bits 2 to 0 name. -/
def Group.guard (g : Group) (gf : BitVec 4) (lane : Nat) : Bool := g.preg lane (fld gf 0 3) != bitAt gf 3

/-- A mask from a test of each lane. -/
def maskBy (f : Nat → Bool) : BitVec 32 :=
  BitVec.ofNat 32 ((List.range 32).foldl (fun a i => a + (if f i then 2 ^ i else 0)) 0)

/-- The participating lanes: active lanes whose guard is true (R135, R150). -/
def Group.guardMask (g : Group) (gf : BitVec 4) (m : BitVec 32) : BitVec 32 :=
  maskBy fun i => bitAt m i && g.guard gf i

/-- Order of two `n`-bit numbers as integers (R137). -/
def asInt (signed : Bool) (n v : Nat) : Int := if signed then signedOf n v else (v : Int)

/-- Integer conditions (R137: CMP): 0 eq, 1 ne, 2 lt, 3 le, 4 gt, 5 ge. -/
def condInt (code : Nat) (x y : Int) : Bool :=
  match code with
  | 0 => x == y
  | 1 => x != y
  | 2 => decide (x < y)
  | 3 => decide (x ≤ y)
  | 4 => decide (y < x)
  | _ => decide (y ≤ x)

/-- FP32 conditions (R138: CMP.F): 0 eq, 1 ne, 2 lt, 3 le, 4 gt, 5 ge, 6 unordered, 7 ordered. With a NaN only ne and
unordered are true. -/
def condFp (code : Nat) (x y : FVal) : Bool :=
  match FVal.cmp x y with
  | none => code == 1 || code == 6
  | some c =>
    match code with
    | 0 => c == 0
    | 1 => c != 0
    | 2 => c == -1
    | 3 => c != 1
    | 4 => c == 1
    | 5 => c != -1
    | 6 => false
    | _ => true

/-- PRED (R149): 0 and, 1 or, 2 xor, 3 a and not b. -/
def predOp (code : Nat) (a b : Bool) : Bool :=
  match code with
  | 0 => a && b
  | 1 => a || b
  | 2 => a != b
  | _ => a && !b

/-- Conversion counters of a core (R41): clamps, infinities, NaNs. -/
def State.countCvt (s : State) (core sat infs nans : Nat) : State :=
  ((s.count (offCvt core 0) sat).count (offCvt core 1) infs).count (offCvt core 2) nans

/-- NUM_NAN (R40, R91): the first NaN written by an operation or conversion; the detail names core, context and tile. -/
def State.numNan (s : State) (core ctx tile : Nat) : State :=
  s.report core 2 1 (some ctx) core [BitVec.ofNat 32 core, BitVec.ofNat 32 ctx, BitVec.ofNat 32 tile]

/-- A refused conversion sets LSTAT to BADFMT, 0x14 (R143). -/
def State.setLstat (s : State) (core blk grp : Nat) (v : Word) : State :=
  s.modGroup core blk grp fun g => { g with lstat := v }

end Sys2Proof.Machine
end

