-- ==== Sys2Proof/Machine/Issue.lean ====
section
/-! DEFINITION. Issuing a thread instruction (R116 to R119, R126, R132 to R136): the issuing sub-group, the checks that come
before an instruction's own effect, splits and joins, and re-packing. -/
namespace Sys2Proof.Machine

/-- An issuing sub-group: where it is, its block and group as they stand, and its participating lanes. -/
structure At where
  core : Nat
  blk : Nat
  grp : Nat
  b : Block
  g : Group
  sub : Sub
  m : BitVec 32
  deriving DecidableEq, Repr

/-- What an instruction's own effect answers: it cannot issue yet; it cannot, and meanwhile something has been performed for
it; it faults; it is done, and the sub-group goes on in sequence; or it has set the sub-groups of its group itself. -/
inductive Did where
  | wait
  | retry (s : State)
  | fault (s : State) (cls addr : Nat)
  | done (s : State)
  | flow (s : State)
  deriving DecidableEq, Repr

def At.lanes (a : At) : List Nat := lanesOf a.m
def At.firstLane (a : At) : Nat := a.lanes.headD 0
/-- The instruction that issues, as a fault record names it. -/
def At.org (a : At) : Origin := { ring := some a.b.ring, grp := a.grp, mask := a.sub.mask, pc := a.sub.pc }
/-- Change the issuing group. -/
def At.modGroup (a : At) (s : State) (f : Group → Group) : State := s.modGroup a.core a.blk a.grp f

/-- Write an operand in every participating lane. A u register takes the value the lanes agree on; where they do not, the
spec states no value (R128, R131), and it is a free value (log 2). -/
def State.putVals (s : State) (core blk grp : Nat) (f : BitVec 9) (n : Nat) (vals : List (Nat × Nat)) : State :=
  if (fileOf f).1 = .u ∧ agree vals = false then
    let d := s.draw
    d.2.modGroup core blk grp fun g =>
      g.put f 0 ((Config.freeWord d.1).toNat + 2 ^ 32 * (Config.freeWord (d.1 + 1)).toNat) n
  else s.modGroup core blk grp fun g => g.putLanes f n vals

def At.put (a : At) (s : State) (f : BitVec 9) (n : Nat) (vals : List (Nat × Nat)) : State :=
  s.putVals a.core a.blk a.grp f n vals

/-- Write a predicate in every participating lane. -/
def At.putPreds (a : At) (s : State) (f : BitVec 9) (vals : List (Nat × Bool)) : State :=
  a.modGroup s fun g => g.putPreds f vals

/-- One value per participating lane. -/
def At.each {α : Type} (a : At) (f : Nat → α) : List (Nat × α) := a.lanes.map fun i => (i, f i)

/-! ## Sub-groups: splits and joins (R116, R117) -/

/-- Sub-groups under split record `r`, however deep. -/
def Group.under (g : Group) (r : Nat) : List Sub := g.subs.filter fun x => x.stack.contains r

/-- Every sub-group under record `r` waits at its join (those that exited count as arrived). -/
def Group.joinReady (g : Group) (r : Nat) : Bool :=
  (g.under r).all fun x => x.wait == .join && x.stack.head? == some r

/-- Remove record `r` and merge the sub-groups that wait at its join, if any, into one (R117). -/
def Group.mergeAt (g : Group) (r : Nat) (join : DWord) : Group :=
  let ws := g.under r
  let rest := g.subs.filter fun x => !x.stack.contains r
  let g' := { g with splits := g.splits.filter fun p => p.1 != r }
  match ws with
  | [] => g'
  | w :: _ =>
    { g' with subs := rest ++ [{ mask := ws.foldl (fun m x => m ||| x.mask) 0, pc := join, stack := w.stack.tail
                                 wait := .none, since := w.since, seen := (ws.flatMap Sub.seen).eraseDups }] }

/-- A sub-group that stands at the join address of its innermost split record waits there (R117). Its wait has begun at the count
that `since` was last set to (`At.stamp`). -/
def Group.arrive (g : Group) (x : Sub) : Sub :=
  match x.wait, x.stack with
  | .none, r :: _ => if g.splits.any (fun p => p.1 == r && p.2 == x.pc) then { x with wait := .join } else x
  | _, _ => x

/-- Let arrivals and merges take place until none remains; each merge removes a record. -/
def Group.settle : Nat → Group → Group
  | 0, g => g
  | n + 1, g =>
    let g := { g with subs := g.subs.map g.arrive }
    match g.splits.find? fun p => g.joinReady p.1 with
    | some p => Group.settle n (g.mergeAt p.1 p.2)
    | Option.none => g

def Group.joined (g : Group) : Group := g.settle (g.splits.length + 1)

/-- Replace the sub-group that holds `lane` by others (those without threads vanish). -/
def Group.replace (g : Group) (lane : Nat) (xs : List Sub) : Group :=
  { g with subs := g.subs.flatMap fun x => if bitAt x.mask lane then xs.filter fun y => y.mask != 0 else [x] }

/-- Some lane of a sub-group, by which it is found. -/
def Sub.lane (x : Sub) : Nat := (lanesOf x.mask).headD 32

/-- The issuing sub-group as it stands at this count: a wait that its instruction begins begins now (R395). -/
def At.stamp (a : At) (s : State) : Sub := { a.sub with since := s.lcount }

/-- The issuing sub-group goes on at another address. -/
def At.goto (a : At) (s : State) (pc : DWord) : State :=
  a.modGroup s fun g => (g.replace a.sub.lane [{ a.stamp s with pc := pc }]).joined

/-- Address of the next instruction in sequence. -/
def At.next (a : At) : DWord := a.sub.pc + 8

def At.advance (a : At) (s : State) : State := a.goto s a.next

/-- The issuing sub-group goes on and waits there (R118, R120, R154, R159). -/
def At.holdAt (a : At) (s : State) (w : Wait) : State :=
  a.modGroup s fun g => g.replace a.sub.lane [{ a.stamp s with pc := a.next, wait := w }]

/-- Split the issuing sub-group into parts, each with its address (R116), under a new record when a join address is given
(R117). -/
def At.splitTo (a : At) (s : State) (join : Option DWord) (parts : List (BitVec 32 × DWord)) : State :=
  a.modGroup s fun g =>
    match join with
    | some j =>
      let r := g.nextSplit
      let g := { g with splits := g.splits ++ [(r, j)], nextSplit := r + 1 }
      (g.replace a.sub.lane (parts.map fun p =>
        { a.stamp s with mask := p.1, pc := p.2, stack := r :: a.sub.stack })).joined
    | none => (g.replace a.sub.lane (parts.map fun p => { a.stamp s with mask := p.1, pc := p.2 })).joined

/-! ## Issue -/

/-- A launch with RESIDENT set starts no block before every one is placed (R109). -/
def State.launchStarted (s : State) (n : Nat) : Bool :=
  match Sparse.get (fun _ => Option.none) s.launches n with
  | some l => !l.resident || l.placed * l.train == l.gx * l.gy * l.gz
  | Option.none => true

/-- The sub-group that holds a lane, when it is ready: its launch has started, its context runs (R126, R400), its core is
clocked, and it waits at nothing (R118). -/
def State.ready? (s : State) (core blk grp lane : Nat) (gf : BitVec 4) : Option At :=
  match s.block core blk with
  | none => none
  | some b =>
    match (b.group grp).subs.find? fun x => bitAt x.mask lane with
    | none => none
    | some x =>
      if x.wait = .none ∧ s.launchStarted b.launch = true ∧ s.ctxRuns b.ctx = true ∧ (s.core core).stopped = false then
        some { core := core, blk := blk, grp := grp, b := b, g := b.group grp, sub := x
               m := (b.group grp).guardMask gf x.mask }
      else none

/-- Place of a sub-group in the round of its core's scheduler. -/
def turnKey (blk grp lane : Nat) : Nat := (blk * 16 + grp) * 32 + lane
def At.key (a : At) : Nat := turnKey a.blk a.grp a.sub.lane

/-- Keys of the ready sub-groups of a core (R118). -/
def State.readyKeys (s : State) (core : Nat) : List Nat :=
  (s.core core).held.flatMap fun p =>
    if s.launchStarted p.2.launch && s.ctxRuns p.2.ctx then
      p.2.groups.flatMap fun g => (g.2.subs.filter fun x => x.wait == .none).map fun x => turnKey p.1 g.1 x.lane
    else []

/-- In a round that goes on at `t`, sub-group `j` comes before sub-group `k`. -/
def turnBefore (t j k : Nat) : Bool := if decide (t ≤ j) == decide (t ≤ k) then decide (j < k) else decide (t ≤ j)

/-- The ready sub-group whose turn it is (R118): none other that is ready comes before it in the round. -/
def State.at? (s : State) (core blk grp lane : Nat) (gf : BitVec 4) : Option At :=
  match s.ready? core blk grp lane gf with
  | some a => if (s.readyKeys core).any (fun j => turnBefore (s.core core).turn j a.key) then none else some a
  | none => none

/-- The scheduler has served a sub-group, or found that it cannot issue yet, and goes on behind it (R118, R121). -/
def At.served (a : At) (s : State) : State := s.modCore a.core fun c => { c with turn := a.key + 1 }

/-- It has issued an instruction, which is the thread engine's progress (R395). -/
def At.issued (a : At) (s : State) : State := (a.served s).progressed (.thread a.core)

/-- Registers of an access of width code WID (R144). -/
def widRegs (wid : Nat) : Nat := if wid = 6 then 4 else if wid = 5 then 2 else 1

/-- What a thread's request to another module will write: core, block, group, lanes, destination, its registers. -/
def Owner.dest : Owner → Option (Nat × Nat × Nat × List Nat × BitVec 9 × Nat)
  | .thread core blk grp lane d wid _ => some (core, blk, grp, [lane], d, widRegs wid)
  | .atomic core blk grp d _ ty lanes => some (core, blk, grp, lanes.map Prod.fst, d, if ty = 2 ∨ ty = 3 then 2 else 1)
  | _ => none

/-- The request writes registers of lanes in `m` of a group. A u register belongs to every lane of the sub-group that asked
(R128, R136). -/
def Req.serves (r : Req) (core blk grp : Nat) (m : BitVec 32) : Bool :=
  match r.owner.dest with
  | some (c, b, g, ls, d, _) => c == core && b == blk && g == grp
      && (if (fileOf d).1 == .u then r.org.mask &&& m != 0 else ls.any fun l => bitAt m l)
  | none => false

/-- An acquire of a participating thread has not completed: its later accesses wait (R220). -/
def State.acquiring (s : State) (a : At) : Bool :=
  s.reqs.any fun q => q.2.any fun r => r.acq && r.serves a.core a.blk a.grp a.m

/-- A write to another module that has not been answered. -/
def Req.isWrite (r : Req) : Bool := r.ptype == 1 || r.ptype == 3

/-- An acquire of the lanes `m` completes: the writes still under way that it may have made visible count as earlier accesses of
their later releases (R221). -/
def State.observe (s : State) (core blk grp : Nat) (m : BitVec 32) : State :=
  match s.reqs.filterMap fun q => if q.2.any Req.isWrite then some q.1 else none with
  | [] => s
  | ts => s.modGroup core blk grp fun g =>
      { g with subs := g.subs.map fun x => if x.mask &&& m != 0 then { x with seen := (x.seen ++ ts).eraseDups } else x }

/-- A later issue writes a u register: the value of an earlier load that is still to come is not wanted any more (R131). `old` is
the state before the issue, `us` its operands. -/
def At.supersede (a : At) (old s : State) (us : List Use) : State :=
  let hit (q : Nat × Option Req) : Bool := match q.2 with
    | some r => match r.owner.dest with
      | some (c, b, g, _, d, n) => c == a.core && b == a.blk && g == a.grp && (fileOf d).1 == .u
          && us.any (fun u => u.dst && sharesReg u.f u.n d n) && old.reqs.any fun p => p == q
      | none => false
    | none => false
  if s.reqs.any hit then
    { s with reqs := s.reqs.map fun q => if hit q then (q.1, q.2.map fun r => { r with stale := true }) else q }
  else s

/-- An operand waits for an access of the sub-group that another module has not answered yet (R136). -/
def State.interlocked (s : State) (a : At) (us : List Use) : Bool :=
  s.reqs.any fun q =>
    match q.2 with
    | some r => r.serves a.core a.blk a.grp a.sub.mask && match r.owner.dest with
      | some (_, _, _, _, d, n) => us.any fun u => sharesReg u.f u.n d n
      | none => false
    | none => false

/-- A fault of the issuing sub-group (R126). -/
def At.fault (a : At) (s : State) (cls addr : Nat) : State :=
  s.threadFault a.core a.b.ctx cls a.grp a.sub.mask a.sub.pc.toNat addr

/-- Reading t registers meets the errors of their words (R176): single-bit ones are corrected and counted; `true` when a
participating lane's source has a double-bit error. -/
def State.regEcc (s : State) (a : At) (us : List Use) : State × Bool :=
  let hit (k : Nat) : Bool := bitAt a.m (k % 32) && us.any fun u => !u.dst && (fileOf u.f).1 == .t
    && decide ((fileOf u.f).2 ≤ k / 32) && decide (k / 32 < (fileOf u.f).2 + u.n)
  match a.g.bad.filter fun e => hit e.1 with
  | [] => (s, false)
  | es =>
    let fixed := es.filter fun e => e.2 == 1
    let s := a.modGroup s fun g => { g with bad := g.bad.filter fun e => !(hit e.1 && e.2 == 1) }
    ({ s with eccFixed := Sparse.modify (fun _ => 0) s.eccFixed (eccRegs a.core) (· + fixed.length) },
     es.any fun e => e.2 != 1)

/-- A double-bit error of a register file: a poisoned read (R176, R387). -/
def At.regPoison (a : At) (s : State) : State :=
  a.fault (s.report a.core 4 3 (some a.b.ctx) a.core []) fPoison 0

/-- Issue for one sub-group: the fetch needs execute permission (R132); an ILLEGAL instruction writes nothing (R134);
operands in flight hold it (R136); with no participating lane it does nothing (R135). None when it cannot issue yet. -/
def State.issueAt (s : State) (a : At) (uni ok : Bool) (us : List Use) (body : At → State → Did) : Option State :=
  let r := s.translate a.core a.b.ctx a.sub.pc.toNat .fetch
  match r.2 with
  | .error c => some (a.fault r.1 c a.sub.pc.toNat)
  | .ok _ =>
    if (ok && usesOk a.b.regs uni us) = false then some (a.fault r.1 fIllegal a.sub.pc.toNat)
    else if r.1.interlocked a us then none
    else if a.m = 0 then some (a.advance r.1)
    else
      let e := r.1.regEcc a us
      if e.2 then some (a.regPoison e.1)
      else
        match body a e.1 with
        | .wait => none
        | .retry s => some s
        | .fault s c x => some (a.fault s c x)
        | .done t => some (a.advance (a.supersede s t us))
        | .flow t => some (a.supersede s t us)

/-- Two sub-groups may share an issue slot (R119). -/
def mayRepack (a b : At) (us : List Use) : Bool :=
  a.grp != b.grp && a.sub.pc == b.sub.pc && a.sub.mask &&& b.sub.mask == 0 && !readsUniform us

/-- Issue a thread instruction; `rep` marks the classes that R119 re-packs. Without a sub-group that can issue, nothing
happens (log 4). A re-packed slot is counted in REPACK. -/
def State.issue (s : State) (sg : SgRef) (gf : BitVec 4) (rep uni ok : Bool) (us : List Use)
    (body : At → State → Did) : State :=
  match s.at? sg.core sg.blk sg.grp sg.lane gf with
  | none => s
  | some a =>
    match sg.partner with
    | none =>
      match s.issueAt a uni ok us body with
      | some t => a.issued t
      | none => a.served s
    | some (grp, lane) =>
      match s.ready? sg.core sg.blk grp lane gf with
      | none => s
      | some b =>
        if (rep && mayRepack a b us && !s.interlocked b us) = false then s
        else
          match s.issueAt a uni ok us body with
          | none => s
          | some s1 =>
            match s1.ready? sg.core sg.blk grp lane gf with
            | none => a.issued s1
            | some b =>
              match s1.issueAt b uni ok us body with
              | none => s
              | some s2 => a.issued (s2.count (offRepack sg.core) 1)

end Sys2Proof.Machine
end

