-- ==== Sys2Proof/Machine/Integer.lean ====
section
/-! DEFINITION. The integer class (R137): ADD to ADDK. MOD bit [50] is W (64-bit pairs) and MOD bit [51] is S (signed). -/
namespace Sys2Proof.Machine

/-- Registers per operand under W. -/
def wRegs (f : FormR) : Nat := if bitAt f.mod 0 then 2 else 1
def sBit (f : FormR) : Bool := bitAt f.mod 1
/-- MOD bits [55:50 + k] are 0. -/
def modClear {n : Nat} (mod : BitVec n) (k : Nat) : Bool := mod.toNat >>> k == 0

/-- An instruction of format R that computes a value of `n` registers for D in each participating lane. -/
def State.aluR (s : State) (sg : SgRef) (f : FormR) (ok : Bool) (us : List Use) (n : Nat) (op : Group → Nat → Nat) : State :=
  s.issue sg f.g true false ok us fun a s => .done (a.put s f.d n (a.each fun i => op a.g i))

/-- Operands D, A and B of `n` registers, C unused. -/
def use2 (f : FormR) (n : Nat) : List Use := [.dest f.d n, .src f.a n, .src f.b n, .unused f.c]
/-- Operands D, A, B and C of one register. -/
def use3 (f : FormR) : List Use := [.dest f.d, .src f.a, .src f.b, .src f.c]
/-- Operands D and A of `n` registers. -/
def use1 (f : FormR) (n : Nat) : List Use := [.dest f.d n, .src f.a n, .unused f.b, .unused f.c]

/-- Difference modulo 2^bits. -/
def subMod (bits a b : Nat) : Nat := (a + 2 ^ bits - b) % 2 ^ bits

/-- ADD (R137). -/
def execAdd (sg : SgRef) (f : FormR) (s : State) : Host.Outcome State Fault Refusal :=
  let n := wRegs f
  .next (s.aluR sg f (modClear f.mod 2 && f.ctl == 0) (use2 f n) n fun g i => g.val f.a i n + g.val f.b i n)

/-- SUB (R137). -/
def execSub (sg : SgRef) (f : FormR) (s : State) : Host.Outcome State Fault Refusal :=
  let n := wRegs f
  .next (s.aluR sg f (modClear f.mod 2 && f.ctl == 0) (use2 f n) n fun g i =>
    subMod (32 * n) (g.val f.a i n) (g.val f.b i n))

/-- MOD of the forms that need W = 0: only S may be set. -/
def onlyS (f : FormR) : Bool := !bitAt f.mod 0 && modClear f.mod 2

/-- MULLO (R137). -/
def execMullo (sg : SgRef) (f : FormR) (s : State) : Host.Outcome State Fault Refusal :=
  .next (s.aluR sg f (onlyS f && f.ctl == 0) (use2 f 1) 1 fun g i => g.val f.a i 1 * g.val f.b i 1)

/-- High word of a product of two 32-bit numbers. -/
def mulHigh (signed : Bool) (a b : Nat) : Nat := toTwos 32 ((asInt signed 32 a * asInt signed 32 b) / 2 ^ 32)

/-- MULHI (R137). -/
def execMulhi (sg : SgRef) (f : FormR) (s : State) : Host.Outcome State Fault Refusal :=
  .next (s.aluR sg f (onlyS f && f.ctl == 0) (use2 f 1) 1 fun g i => mulHigh (sBit f) (g.val f.a i 1) (g.val f.b i 1))

/-- MULADD (R137). -/
def execMuladd (sg : SgRef) (f : FormR) (s : State) : Host.Outcome State Fault Refusal :=
  .next (s.aluR sg f (onlyS f && f.ctl == 0) (use3 f) 1 fun g i => g.val f.a i 1 * g.val f.b i 1 + g.val f.c i 1)

/-- Minimum or maximum in the order S selects. -/
def minMax (big signed : Bool) (bits a b : Nat) : Nat :=
  if decide (asInt signed bits a ≤ asInt signed bits b) == big then b else a

/-- MINMAX (R137): MOD[52] selects max. -/
def execMinmax (sg : SgRef) (f : FormR) (s : State) : Host.Outcome State Fault Refusal :=
  let n := wRegs f
  .next (s.aluR sg f (modClear f.mod 3 && f.ctl == 0) (use2 f n) n fun g i =>
    minMax (bitAt f.mod 2) (sBit f) (32 * n) (g.val f.a i n) (g.val f.b i n))

/-- LOGIC's operations (R137): 0 and, 1 or, 2 xor, 3 a and not b, 4 not a. -/
def logicOp (code bits a b : Nat) : Nat :=
  let ones := 2 ^ bits - 1
  match code with
  | 0 => a &&& b
  | 1 => a ||| b
  | 2 => a ^^^ b
  | 3 => a &&& (ones ^^^ b)
  | _ => ones ^^^ a

/-- LOGIC (R137): MOD[55:52] selects the operation; others are illegal. -/
def execLogic (sg : SgRef) (f : FormR) (s : State) : Host.Outcome State Fault Refusal :=
  let n := wRegs f
  .next (s.aluR sg f (decide (fld f.mod 2 4 ≤ 4) && f.ctl == 0) (use2 f n) n fun g i =>
    logicOp (fld f.mod 2 4) (32 * n) (g.val f.a i n) (g.val f.b i n))

/-- SHIFT's result (R137): a count of the width or more gives 0, or all sign bits. -/
def shiftOp (right signed : Bool) (bits a cnt : Nat) : Nat :=
  if right then
    if signed then toTwos bits (signedOf bits a / 2 ^ (min cnt bits)) else a / 2 ^ (min cnt bits)
  else if bits ≤ cnt then 0 else a * 2 ^ cnt % 2 ^ bits

/-- SHIFT (R137): MOD[52] selects right, arithmetic when S is set. -/
def execShift (sg : SgRef) (f : FormR) (s : State) : Host.Outcome State Fault Refusal :=
  let n := wRegs f
  .next (s.aluR sg f (modClear f.mod 3 && f.ctl == 0) (use2 f n) n fun g i =>
    shiftOp (bitAt f.mod 2) (sBit f) (32 * n) (g.val f.a i n) (g.val f.b i n))

/-- FIELD's extract (R137): bits beyond bit 31 read 0. -/
def fieldExtract (signed : Bool) (pos len a : Nat) : Nat :=
  let v := bitsOf a pos len
  if signed then toTwos 32 (signedOf len v) else v

/-- FIELD's insert (R137): bits beyond bit 31 are not written. -/
def fieldInsert (pos len a b : Nat) : Nat :=
  let n := min len (32 - pos)
  b - bitsOf b pos n * 2 ^ pos + bitsOf a 0 n * 2 ^ pos

/-- FIELD (R137): MOD[52] selects insert; POS is CTL[9:5], LEN - 1 is CTL[4:0]. -/
def execField (sg : SgRef) (f : FormR) (s : State) : Host.Outcome State Fault Refusal :=
  let pos := fld f.ctl 5 5
  let len := fld f.ctl 0 5 + 1
  let ins := bitAt f.mod 2
  .next (s.aluR sg f (!bitAt f.mod 0 && modClear f.mod 3) (use2 f 1) 1 fun g i =>
    if ins then fieldInsert pos len (g.val f.a i 1) (g.val f.b i 1) else fieldExtract (sBit f) pos len (g.val f.a i 1))

/-- Ones in the low `k` bits of `a`. -/
def popCount (a : Nat) : Nat → Nat
  | 0 => 0
  | k + 1 => popCount a k + bitsOf a k 1

/-- The low `k` bits of `a` reversed. -/
def bitRev (a : Nat) : Nat → Nat
  | 0 => 0
  | k + 1 => bitRev a k * 2 + bitsOf a k 1

/-- BITOP's operations (R137). -/
def bitOp (code a : Nat) : Nat :=
  match code with
  | 0 => popCount a 32
  | 1 => if a = 0 then 32 else 31 - Nat.log2 a
  | _ => bitRev a 32

/-- BITOP (R137): MOD[53:52] selects population count, leading zeros or bit reverse; 3 is illegal. -/
def execBitop (sg : SgRef) (f : FormR) (s : State) : Host.Outcome State Fault Refusal :=
  .next (s.aluR sg f (!bitAt f.mod 0 && modClear f.mod 4 && fld f.mod 2 2 != 3 && f.ctl == 0) (use1 f 1) 1 fun g i =>
    bitOp (fld f.mod 2 2) (g.val f.a i 1))

/-- CMP (R137): MOD[54:52] gives the condition; 6 and 7 are illegal. -/
def execCmp (sg : SgRef) (f : FormR) (s : State) : Host.Outcome State Fault Refusal :=
  let n := wRegs f
  .next (s.issue sg f.g true false (!bitAt f.mod 5 && decide (fld f.mod 2 3 ≤ 5) && f.ctl == 0)
    [.dstIn f.d [.p, .zero], .src f.a n, .src f.b n, .unused f.c] fun a s =>
      .done (a.putPreds s f.d (a.each fun i =>
        condInt (fld f.mod 2 3) (asInt (sBit f) (32 * n) (a.g.val f.a i n)) (asInt (sBit f) (32 * n) (a.g.val f.b i n)))))

/-- PICK (R137): CTL[2:0] names the predicate and CTL[3] negates it. -/
def execPick (sg : SgRef) (f : FormR) (s : State) : Host.Outcome State Fault Refusal :=
  let n := wRegs f
  .next (s.aluR sg f (modClear f.mod 2 && fld f.ctl 4 6 == 0) (use2 f n) n fun g i =>
    if g.preg i (fld f.ctl 0 3) != bitAt f.ctl 3 then g.val f.a i n else g.val f.b i n)

/-- MOV (R137). -/
def execMov (sg : SgRef) (f : FormR) (s : State) : Host.Outcome State Fault Refusal :=
  let n := wRegs f
  .next (s.aluR sg f (modClear f.mod 2 && f.ctl == 0) (use1 f n) n fun g i => g.val f.a i n)

/-- SETK (R137): format L; W must be 0. -/
def execSetk (sg : SgRef) (f : FormL) (s : State) : Host.Outcome State Fault Refusal :=
  .next (s.issue sg f.g true false (!bitAt f.mod 0 && modClear f.mod 2 && f.rsv == 0) [.dest f.d] fun a s =>
    .done (a.put s f.d 1 (a.each fun _ => f.imm.toNat)))

/-- ADDK (R137): format I; the immediate is sign-extended. -/
def execAddk (sg : SgRef) (f : FormI) (s : State) : Host.Outcome State Fault Refusal :=
  let n := if bitAt f.mod 0 then 2 else 1
  .next (s.issue sg f.g true false (modClear f.mod 2) [.dest f.d n, .src f.a n] fun a s =>
    .done (a.put s f.d n (a.each fun i => a.g.val f.a i n + toTwos (32 * n) (signedOf 28 f.imm.toNat))))

end Sys2Proof.Machine
end

