-- ==== Sys2Proof/Machine/Float.lean ====
section
/-! DEFINITION. The FP32 and special-function classes (R138, R139; arithmetic R75 to R77). -/
namespace Sys2Proof.Machine

/-- A source under its modifiers: absolute value, then negation (R138). -/
def modified (neg abs : Bool) (w : Word) : Word :=
  let w := if abs then fabsBits w else w
  if neg then fnegBits w else w

/-- Operand a under MOD[55] and MOD[53], operand b under MOD[54] and MOD[52]. -/
def Group.fa (g : Group) (f : FormR) (i : Nat) : Word := modified (bitAt f.mod 5) (bitAt f.mod 3) (g.rd f.a i 0)
def Group.fb (g : Group) (f : FormR) (i : Nat) : Word := modified (bitAt f.mod 4) (bitAt f.mod 2) (g.rd f.b i 0)

/-- MOD[51:50] are 0. -/
def lowModClear (f : FormR) : Bool := fld f.mod 0 2 == 0
/-- MOD[54] and MOD[52] are 0: the instruction reads no b. -/
def noB (f : FormR) : Bool := !bitAt f.mod 4 && !bitAt f.mod 2

/-- ADD.F (R138). -/
def execAddF (sg : SgRef) (f : FormR) (s : State) : Host.Outcome State Fault Refusal :=
  .next (s.aluR sg f (lowModClear f && f.ctl == 0) (use2 f 1) 1 fun g i => (fadd (g.fa f i) (g.fb f i)).toNat)

/-- MUL.F (R138). -/
def execMulF (sg : SgRef) (f : FormR) (s : State) : Host.Outcome State Fault Refusal :=
  .next (s.aluR sg f (lowModClear f && f.ctl == 0) (use2 f 1) 1 fun g i => (fmul (g.fa f i) (g.fb f i)).toNat)

/-- FMA.F (R138): rounded once; c has no modifiers. -/
def execFmaF (sg : SgRef) (f : FormR) (s : State) : Host.Outcome State Fault Refusal :=
  .next (s.aluR sg f (lowModClear f && f.ctl == 0) (use3 f) 1 fun g i =>
    (ffma (g.fa f i) (g.fb f i) (g.rd f.c i 0)).toNat)

/-- MIN.F (R138). -/
def execMinF (sg : SgRef) (f : FormR) (s : State) : Host.Outcome State Fault Refusal :=
  .next (s.aluR sg f (lowModClear f && f.ctl == 0) (use2 f 1) 1 fun g i => (fminW (g.fa f i) (g.fb f i)).toNat)

/-- MAX.F (R138). -/
def execMaxF (sg : SgRef) (f : FormR) (s : State) : Host.Outcome State Fault Refusal :=
  .next (s.aluR sg f (lowModClear f && f.ctl == 0) (use2 f 1) 1 fun g i => (fmaxW (g.fa f i) (g.fb f i)).toNat)

/-- CMP.F (R138): CTL[2:0] gives the condition. -/
def execCmpF (sg : SgRef) (f : FormR) (s : State) : Host.Outcome State Fault Refusal :=
  .next (s.issue sg f.g true false (lowModClear f && fld f.ctl 3 7 == 0)
    [.dstIn f.d [.p, .zero], .src f.a, .src f.b, .unused f.c] fun a s =>
      .done (a.putPreds s f.d (a.each fun i => condFp (fld f.ctl 0 3) (fdec (a.g.fa f i)) (fdec (a.g.fb f i)))))

/-- ADDERR.F (R77): c holds the sum. -/
def execAdderrF (sg : SgRef) (f : FormR) (s : State) : Host.Outcome State Fault Refusal :=
  .next (s.aluR sg f (lowModClear f && f.ctl == 0) (use3 f) 1 fun g i =>
    (faddErr (g.fa f i) (g.fb f i) (g.rd f.c i 0)).toNat)

/-- MULERR.F (R77): c holds the product. -/
def execMulerrF (sg : SgRef) (f : FormR) (s : State) : Host.Outcome State Fault Refusal :=
  .next (s.aluR sg f (lowModClear f && f.ctl == 0) (use3 f) 1 fun g i =>
    (fmulErr (g.fa f i) (g.fb f i) (g.rd f.c i 0)).toNat)

/-- TOINT.F (R138): MOD[51] signed, MOD[50] nearest-even. -/
def execTointF (sg : SgRef) (f : FormR) (s : State) : Host.Outcome State Fault Refusal :=
  .next (s.aluR sg f (noB f && f.ctl == 0) (use1 f 1) 1 fun g i =>
    (ftoint (bitAt f.mod 1) (bitAt f.mod 0) (g.fa f i)).toNat)

/-- TOFLT (R138): MOD[51] signed; MOD[53] and MOD[55] act on the result. -/
def execToflt (sg : SgRef) (f : FormR) (s : State) : Host.Outcome State Fault Refusal :=
  .next (s.aluR sg f (noB f && !bitAt f.mod 0 && f.ctl == 0) (use1 f 1) 1 fun g i =>
    (modified (bitAt f.mod 5) (bitAt f.mod 3) (ftoflt (bitAt f.mod 1) (g.rd f.a i 0))).toNat)

/-- POW2.F (R139, R76). -/
def execPow2F (sg : SgRef) (f : FormR) (s : State) : Host.Outcome State Fault Refusal :=
  .next (s.aluR sg f (f.mod == 0 && f.ctl == 0) (use1 f 1) 1 fun g i => (sfuExp2 (g.rd f.a i 0)).toNat)

/-- LOG2.F (R139, R76). -/
def execLog2F (sg : SgRef) (f : FormR) (s : State) : Host.Outcome State Fault Refusal :=
  .next (s.aluR sg f (f.mod == 0 && f.ctl == 0) (use1 f 1) 1 fun g i => (sfuLog2 (g.rd f.a i 0)).toNat)

/-- RECIP.F (R139, R76). -/
def execRecipF (sg : SgRef) (f : FormR) (s : State) : Host.Outcome State Fault Refusal :=
  .next (s.aluR sg f (f.mod == 0 && f.ctl == 0) (use1 f 1) 1 fun g i => (sfuRcp (g.rd f.a i 0)).toNat)

/-- RSQRT.F (R139, R76). -/
def execRsqrtF (sg : SgRef) (f : FormR) (s : State) : Host.Outcome State Fault Refusal :=
  .next (s.aluR sg f (f.mod == 0 && f.ctl == 0) (use1 f 1) 1 fun g i => (sfuRsqrt (g.rd f.a i 0)).toNat)

end Sys2Proof.Machine
end

