-- ==== Sys2Proof/Machine/Convert.lean ====
section
/-! DEFINITION. The conversion class (R140 to R143): WIDEN, NARROW and NARROWB. -/
namespace Sys2Proof.Machine

/-- A refused conversion (R143): no destination, no counter; LSTAT becomes BADFMT. -/
def At.refuse (a : At) (s : State) : State := s.setLstat a.core a.blk a.grp 0x14

/-- The two's-complement exponent of CTL[7:0] (R140). -/
def ctlExp (f : FormR) : Int := signedOf 8 (fld f.ctl 0 8)

/-- Elements of a format in one 32-bit word (R141). -/
def wordElems (fmt : Fmt) : Nat := if fmt.width = 6 then 4 else 32 / fmt.width

/-- WIDEN refuses (R143): no format of R68, an exponent of -128, a scale named for a 16-bit format, or a 6- or 4-bit format
without one. -/
def widenRefused (f : FormR) : Bool :=
  let fmt := Fmt.ofCode (fld f.mod 3 3)
  let sc := bitAt f.ctl 8
  fld f.mod 3 3 == 7 || fld f.ctl 0 8 == 0x80 || (sc && !fmt.scaleAllowed) || (!sc && fmt.scaleMandatory)

/-- WIDEN of one lane (R31, R141). -/
def widenLane (f : FormR) (g : Group) (i : Nat) : Widened :=
  let fmt := Fmt.ofCode (fld f.mod 3 3)
  let x := fmt.decode (bitsOf (g.rd f.a i 0).toNat (fmt.width * fld f.mod 0 3) fmt.width)
  let x := if bitAt f.ctl 8 then applyScale x (fld (g.rd f.b i 0) 0 8) else x
  widenVal (FVal.scale x (ctlExp f))

/-- WIDEN (R140, R141): the index lies in the format's count, and b is ZERO without SC. -/
def execWiden (sg : SgRef) (f : FormR) (s : State) : Host.Outcome State Fault Refusal :=
  let fmt := Fmt.ofCode (fld f.mod 3 3)
  let ok := !bitAt f.ctl 9 && (bitAt f.ctl 8 || f.b == 0x180) && (fld f.mod 3 3 == 7 || decide (fld f.mod 0 3 < wordElems fmt))
  .next (s.issue sg f.g true false ok (use2 f 1) fun a s =>
    if widenRefused f then .done (a.refuse s)
    else
      let rs := a.each fun i => widenLane f a.g i
      let s := s.countCvt a.core 0 (rs.map fun p => p.2.infs).sum 0
      .done (a.put s f.d 1 (rs.map fun p => (p.1, p.2.bits.toNat))))

/-- NARROW refuses (R143): REPLAY or code 3, INF outside E5M2, an exponent of -128, a named scale, or a format other than
BF16, FP16, E4M3 and E5M2. -/
def narrowRefused (f : FormR) : Bool :=
  let ovf := fld f.mod 0 2
  ovf == 1 || ovf == 3 || (ovf == 2 && fld f.mod 3 3 != 3) || fld f.ctl 0 8 == 0x80 || bitAt f.ctl 8
    || decide (4 ≤ fld f.mod 3 3)

/-- Rounding of an element: stochastic from the seed in b and the element index (R36, R141). -/
def ctlRounding (f : FormR) (g : Group) (i e : Nat) : Rounding :=
  if bitAt f.mod 2 then .stochastic (srBits (g.val f.b i 2) e) else .nearest

/-- NARROW of one lane (R33 to R38). -/
def narrowLane (f : FormR) (g : Group) (i : Nat) : Narrowed :=
  narrowVal (Fmt.ofCode (fld f.mod 3 3)) (ctlRounding f g i (fld (g.rd f.c i 0) 0 8))
    (if fld f.mod 0 2 = 2 then .inf else .sat) (FVal.scale (fdec (g.rd f.a i 0)) (ctlExp f))

/-- NARROW (R140, R141): without stochastic rounding b and c are ZERO. The record of a NaN carries tile index 0 (DESIGN CHOICE, log 89). -/
def execNarrow (sg : SgRef) (f : FormR) (s : State) : Host.Outcome State Fault Refusal :=
  let ok := !bitAt f.ctl 9 && (bitAt f.mod 2 || (f.b == 0x180 && f.c == 0x180))
  .next (s.issue sg f.g true false ok [.dest f.d, .src f.a, .srcIn f.b [.u, .zero] 2, .src f.c] fun a s =>
    if narrowRefused f then .done (a.refuse s)
    else
      let rs := a.each fun i => narrowLane f a.g i
      let nans := (rs.map fun p => p.2.nans).sum
      let s := s.countCvt a.core (rs.map fun p => p.2.sat).sum (rs.map fun p => p.2.infs).sum nans
      let s := if nans = 0 then s else s.numNan a.core a.b.ctx 0
      .done (a.put s f.d 1 (rs.map fun p => (p.1, p.2.code))))

/-- NARROWB's block size in elements, and its source registers (R142). -/
def blockSize (code : Nat) : Nat := 8 * 2 ^ code
def blockRegs (code : Nat) : Nat := if code = 4 then 4 else if code = 3 then 2 else 1

/-- NARROWB names the programmable block mode where R43 does not accept it. -/
def pbmRefused (s : State) (ctx : Nat) (f : FormR) : Bool := bitAt f.ctl 3 && !(ctx == 0 && s.diag)

/-- NARROWB refuses without a record (R142, R143): a size or PBM outside R142, or a format that takes no scale. -/
def narrowbRefused (f : FormR) : Bool :=
  let z := fld f.ctl 0 3
  decide (5 ≤ z) || ((z == 1 || z == 2) == bitAt f.ctl 3) || decide (fld f.mod 3 3 < 2) || fld f.mod 3 3 == 7

/-- The elements of one block: (lane, register) pairs of participating lanes (R142). -/
def blockElems (code j : Nat) (lanes : List Nat) : List (Nat × Nat) :=
  if code < 3 then (lanes.filter fun i => i / blockSize code == j).map fun i => (i, 0)
  else (List.range (blockRegs code)).flatMap fun r => lanes.map fun i => (i, r)

/-- Narrow block `j`: its elements with their codes, and the block's scale and counts. -/
def narrowLanes (f : FormR) (g : Group) (lanes : List Nat) (j : Nat) : List (Nat × Nat) × BlockNarrowed :=
  let es := blockElems (fld f.ctl 0 3) j lanes
  (es, narrowBlock (Fmt.ofCode (fld f.mod 3 3)) (es.map fun e =>
    (fdec (g.rd f.a e.1 e.2), ctlRounding f g e.1 (e.1 + 32 * e.2))))

/-- The code of register `r` of a lane among the narrowed blocks. -/
def codeOf (bs : List (List (Nat × Nat) × BlockNarrowed)) (i r : Nat) : Nat :=
  (bs.findSome? fun b => (b.1.zip b.2.codes).findSome? fun x => if x.1 = (i, r) then some x.2 else none).getD 0

/-- The scale code of a lane's block. -/
def scaleOf (bs : List (List (Nat × Nat) × BlockNarrowed)) (i : Nat) : Nat :=
  (bs.findSome? fun b => if b.1.any fun e => e.1 == i then some b.2.scale else none).getD 0

/-- NARROWB (R142): lanes convert under shared scales; it is never re-packed. -/
def execNarrowb (sg : SgRef) (f : FormR) (s : State) : Host.Outcome State Fault Refusal :=
  let z := fld f.ctl 0 3
  let n := blockRegs z
  let ok := fld f.mod 0 2 == 0 && fld f.ctl 4 6 == 0 && (bitAt f.mod 2 || f.b == 0x180)
  .next (s.issue sg f.g false false ok
    [.dest f.d n, .src f.a n, .srcIn f.b [.u, .zero] 2, .dstIn f.c [.t, .zero]] fun a s =>
    if pbmRefused s a.b.ctx f then .done ((a.refuse s).refusal a.core 2 (some a.b.ctx) [])
    else if narrowbRefused f then .done (a.refuse s)
    else
      let bs := ((List.range (if z < 3 then 32 / blockSize z else 1)).map (narrowLanes f a.g a.lanes)).filter
        fun b => !b.1.isEmpty
      let nans := (bs.map fun b => b.2.nans).sum
      let s := s.countCvt a.core 0 (bs.map fun b => b.2.infs).sum nans
      let s := if nans = 0 then s else s.numNan a.core a.b.ctx 0
      let s := a.put s f.d n (a.each fun i =>
        ((List.range n).map fun r => codeOf bs i r * 2 ^ (32 * r)).sum)
      .done (a.put s f.c 1 (a.each fun i => scaleOf bs i)))

end Sys2Proof.Machine
end

