-- ==== Sys2Proof/Machine/Control.lean ====
section
/-! DEFINITION. Control instructions and barriers (R116, R117, R120, R149, R152, R163). -/
namespace Sys2Proof.Machine

/-- An address `n` instructions away from the branch (R132). -/
def At.target (a : At) (n : Int) : DWord := BitVec.ofInt 64 ((a.sub.pc.toNat : Int) + 8 * n)

/-- The join address of a branch, when JV is 1. -/
def At.join (a : At) (f : FormB) : Option DWord :=
  if f.jv = 1 then some (a.target (signedOf 15 f.join.toNat)) else none

/-- Active lanes that do not take part. -/
def At.rest (a : At) : BitVec 32 := a.sub.mask &&& ~~~ a.m

/-- Participating threads go to one address, the others in sequence; the sub-group splits where they disagree (R116). -/
def At.branch (a : At) (s : State) (f : FormB) (target : DWord) : State :=
  if a.rest = 0 then a.goto s target else a.splitTo s (a.join f) [(a.m, target), (a.rest, a.next)]

/-- JMP (R149): A must be ZERO. -/
def execJmp (sg : SgRef) (f : FormB) (s : State) : Host.Outcome State Fault Refusal :=
  .next (s.issue sg f.g false false (f.mod == 0) [.unused f.a] fun a s =>
    .flow (a.branch s f (a.target (signedOf 21 f.tgt.toNat))))

/-- Lanes whose value is `v`. -/
def lanesWith (vals : List (Nat × Nat)) (v : Nat) : BitVec 32 := maskBy fun i => vals.any fun p => p.1 == i && p.2 == v

/-- JMPR (R149): each participating thread goes to the address in its pair, bits [2:0] ignored: one sub-group per distinct
target (R116), and one for the threads whose guard is false. -/
def execJmpr (sg : SgRef) (f : FormB) (s : State) : Host.Outcome State Fault Refusal :=
  .next (s.issue sg f.g false false (f.mod == 0 && f.tgt == 0) [.src f.a 2] fun a s =>
    let vals := a.each fun i => a.g.val f.a i 2 / 8 * 8
    let ts := (vals.map Prod.snd).eraseDups
    let parts := ts.map fun v => (lanesWith vals v, (BitVec.ofNat 64 v : DWord))
    if a.rest = 0 ∧ ts.length ≤ 1 then .flow (a.goto s (BitVec.ofNat 64 (ts.headD 0)))
    else .flow (a.splitTo s (a.join f) (if a.rest = 0 then parts else parts ++ [(a.rest, a.next)])))

/-- CALL (R149): the pair receives the return address; then as JMP. -/
def execCall (sg : SgRef) (f : FormB) (s : State) : Host.Outcome State Fault Refusal :=
  .next (s.issue sg f.g false false (f.mod == 0) [.dest f.a 2] fun a s =>
    let s := a.put s f.a 2 (a.each fun _ => a.next.toNat)
    .flow (a.branch s f (a.target (signedOf 21 f.tgt.toNat))))

/-- MOD and CTL are 0 and no operand is used. -/
def plainR (f : FormR) : Bool := f.mod == 0 && f.ctl == 0
def noOperands (f : FormR) : List Use := [.unused f.d, .unused f.a, .unused f.b, .unused f.c]

/-- END (R149): the participating threads exit; siblings that exit count as arrived at a join (R117). -/
def execEndThread (sg : SgRef) (f : FormR) (s : State) : Host.Outcome State Fault Refusal :=
  .next (s.issue sg f.g false false (plainR f) (noOperands f) fun a s =>
    .flow (a.modGroup s fun g => (g.replace a.sub.lane [{ a.stamp s with mask := a.rest, pc := a.next }]).joined))

/-- CEDE (R149): a scheduling hint without effect. -/
def execCede (sg : SgRef) (f : FormR) (s : State) : Host.Outcome State Fault Refusal :=
  .next (s.issue sg f.g false false (plainR f) (noOperands f) fun _ s => .done s)

/-- NOP (R149). -/
def execNop (sg : SgRef) (f : FormR) (s : State) : Host.Outcome State Fault Refusal :=
  .next (s.issue sg f.g false false (plainR f) (noOperands f) fun _ s => .done s)

/-- RALLY (R152): the participating threads wait at the barrier; the others go on as a sub-group of their own. The two parts
are siblings of no split record. -/
def execRally (sg : SgRef) (f : FormR) (s : State) : Host.Outcome State Fault Refusal :=
  .next (s.issue sg f.g false false (modClear f.mod 1 && fld f.ctl 4 6 == 0) (noOperands f) fun a s =>
    .flow (a.modGroup s fun g =>
      (g.replace a.sub.lane
        [{ a.stamp s with mask := a.m, pc := a.next, wait := .barrier (bitAt f.mod 0) (fld f.ctl 0 4) },
         { a.stamp s with mask := a.rest, pc := a.next }]).joined))

/-- The blocks that a barrier concerns, as (core, residence): the block itself, or every block of its block train. -/
def State.barrierBlocks (s : State) (core blk : Nat) (train : Bool) : List (Nat × Nat) :=
  match s.block core blk with
  | none => []
  | some b =>
    if !train then [(core, blk)]
    else (List.range 16).flatMap fun j =>
      let c := core / 16 * 16 + j
      (s.core c).blocks.filterMap fun p =>
        match p.2 with
        | some x => if x.launch = b.launch ∧ x.train = b.train then some (c, p.1) else none
        | none => none

/-- Every sub-group of a block waits at the barrier; threads that have exited belong to no sub-group (R120). -/
def Block.allAt (b : Block) (train : Bool) (id : Nat) : Bool :=
  b.groups.all fun p => p.2.subs.all fun x => x.wait == .barrier train id

/-- Some thread waits at the barrier. -/
def Block.someAt (b : Block) (train : Bool) (id : Nat) : Bool :=
  b.groups.any fun p => p.2.subs.any fun x => x.wait == .barrier train id

/-- Wake the sub-groups of a group that wait for `w`; a wait at a join that follows begins at this count. -/
def Group.wake (g : Group) (w : Wait) (now : DWord) : Group :=
  ({ g with subs := g.subs.map fun x => if x.wait = w then { x with wait := .none, since := now } else x } : Group).joined

/-- Wake the sub-groups of a block that wait for `w`. -/
def State.wakeBlock (s : State) (core blk : Nat) (w : Wait) : State :=
  match s.block core blk with
  | none => s
  | some b =>
    forEach (fun s k => s.modGroup core blk k fun g => g.wake w s.lcount) s (b.groups.map Prod.fst)

/-- Test the blocks that a barrier concerns. -/
def State.atBarrier (s : State) (bs : List (Nat × Nat)) (f : Block → Bool) : List Bool :=
  bs.map fun p => match s.block p.1 p.2 with
    | some b => f b
    | none => false

/-- BARRIER_COMPLETE (R120): once every thread of the block, or of the block train, has arrived or exited, the waiting
sub-groups resume. -/
def execBarrierComplete (core blk : Nat) (train : Bool) (id : Nat) (s : State) : Host.Outcome State Fault Refusal :=
  let bs := s.barrierBlocks core blk train
  if (s.atBarrier bs fun b => b.allAt train id).all (fun x => x) && (s.atBarrier bs fun b => b.someAt train id).any fun x => x then
    .next (forEach (fun s p => s.wakeBlock p.1 p.2 (.barrier train id)) s bs)
  else .next s

/-- The opcodes that the tables of spec/07 list (R163). -/
def definedOpcode (op : Nat) : Bool :=
  decide (op ≤ 0x0E) || (decide (0x10 ≤ op) && decide (op ≤ 0x19)) || (decide (0x20 ≤ op) && decide (op ≤ 0x22))
    || (decide (0x30 ≤ op) && decide (op ≤ 0x33)) || (decide (0x40 ≤ op) && decide (op ≤ 0x45)) || op == 0x50
    || (decide (0x60 ≤ op) && decide (op ≤ 0x6A)) || op == 0x70 || (decide (0x80 ≤ op) && decide (op ≤ 0x85)) || op == 0x90
    || (decide (0xA0 ≤ op) && decide (op ≤ 0xA3)) || op == 0xB0 || op == 0xB1

/-- UNDEFINED_INSTRUCTION (R163, R134): an opcode that no table lists raises ILLEGAL when it issues. -/
def execUndefinedInstruction (sg : SgRef) (w : DWord) (s : State) : Host.Outcome State Fault Refusal :=
  if definedOpcode (fld w 56 8) || sg.partner.isSome then .next s
  else .next (s.issue sg (BitVec.ofNat 4 (fld w 46 4)) false false false [] fun _ s => .done s)

end Sys2Proof.Machine
end

