-- ==== Sys2Proof/Machine/CrossLane.lean ====
section
/-! DEFINITION. Predicates and cross-lane instructions (R149 to R151). The participating lanes are the active lanes of the
issuing sub-group whose guard is true. -/
namespace Sys2Proof.Machine

/-- MOD of these instructions: only bits [53:52] are used. -/
def selOnly (f : FormR) : Bool := fld f.mod 0 2 == 0 && modClear f.mod 4 && f.ctl == 0
def sel (f : FormR) : Nat := fld f.mod 2 2

/-- PRED (R149). -/
def execPred (sg : SgRef) (f : FormR) (s : State) : Host.Outcome State Fault Refusal :=
  .next (s.issue sg f.g false false (selOnly f)
    [.dstIn f.d [.p, .zero], .srcIn f.a [.p], .srcIn f.b [.p], .unused f.c] fun a s =>
      .done (a.putPreds s f.d (a.each fun i => predOp (sel f) (a.g.prd f.a i) (a.g.prd f.b i))))

/-- The participating lanes whose predicate holds (R150). -/
def At.votes (a : At) (p : BitVec 9) : BitVec 32 := maskBy fun i => bitAt a.m i && a.g.prd p i

/-- TALLY (R150): ANY and ALL write a predicate, MASK a mask. -/
def execTally (sg : SgRef) (f : FormR) (s : State) : Host.Outcome State Fault Refusal :=
  let d : Use := if sel f = 2 then .dest f.d else .dstIn f.d [.p, .zero]
  .next (s.issue sg f.g false true (selOnly f && sel f != 3) [d, .srcIn f.a [.p], .unused f.b, .unused f.c] fun a s =>
    let v := a.votes f.a
    if sel f = 2 then .done (a.put s f.d 1 (a.each fun _ => v.toNat))
    else .done (a.putPreds s f.d (a.each fun _ => if sel f = 0 then v != 0 else v == a.m)))

/-- The source lane of LXCH (R149); none outside 0 to 31. -/
def lxchLane (code lane b : Nat) : Option Nat :=
  let k := match code with
    | 0 => some b
    | 1 => if b ≤ lane then some (lane - b) else none
    | 2 => some (lane + b)
    | _ => some (lane ^^^ b)
  k.filter fun i => decide (i < 32)

/-- LXCH (R149, R150): a lane whose source does not participate keeps its own value of a. -/
def execLxch (sg : SgRef) (f : FormR) (s : State) : Host.Outcome State Fault Refusal :=
  .next (s.issue sg f.g false false (selOnly f) (use2 f 1) fun a s =>
    .done (a.put s f.d 1 (a.each fun i =>
      match lxchLane (sel f) i (a.g.val f.b i 1) with
      | some k => if bitAt a.m k then a.g.val f.a k 1 else a.g.val f.a i 1
      | none => a.g.val f.a i 1)))

/-- RDL (R149, R150): 0 when the lane does not participate. -/
def execRdl (sg : SgRef) (f : FormR) (s : State) : Host.Outcome State Fault Refusal :=
  .next (s.issue sg f.g false true (f.mod == 0 && f.ctl == 0)
    [.dstIn f.d [.u, .zero], .srcIn f.a [.t], .srcIn f.b [.u, .zero], .unused f.c] fun a s =>
      let k := a.g.val f.b a.firstLane 1 % 32
      .done (a.put s f.d 1 (a.each fun _ => if bitAt a.m k then a.g.val f.a k 1 else 0)))

/-- Code width of PACK (R149). -/
def packWidth (code : Nat) : Nat :=
  match code with
  | 0 => 16
  | 1 => 8
  | 2 => 6
  | _ => 4

/-- The stream of the low `w` bits of register a in lanes 0 to 31; a lane that takes no part gives 0 (R151). -/
def At.stream (a : At) (f : BitVec 9) (w : Nat) : Nat :=
  (a.lanes.map fun i => bitsOf (a.g.val f i 1) 0 w * 2 ^ (w * i)).sum

/-- PACK (R151): lane k receives bytes 4k to 4k + 3 of the stream. -/
def execPack (sg : SgRef) (f : FormR) (s : State) : Host.Outcome State Fault Refusal :=
  .next (s.issue sg f.g false false (selOnly f) (use1 f 1) fun a s =>
    .done (a.put s f.d 1 (a.each fun k => bitsOf (a.stream f.a (packWidth (sel f))) (32 * k) 32)))

end Sys2Proof.Machine
end

