-- ==== Sys2Proof/Machine/Order.lean ====
section
/-! DEFINITION. Order and scope of accesses (R147, R214, R219, R220), and accesses that wait for operations of their core
(R215, R52, R66, R210). -/
namespace Sys2Proof.Machine

/-- ORD (R147): bit 3 release, bit 2 acquire, [1:0] scope. -/
def ordRelease (o : Nat) : Bool := bitsOf o 3 1 == 1
def ordAcquire (o : Nat) : Bool := bitsOf o 2 1 == 1
def ordScope (o : Nat) : Nat := bitsOf o 0 2

/-- Requests to other modules that a fabric release of a core's context waits for: the context's own, and lines written back,
whichever context allocated them (R107, R219). -/
def Req.ofCore (r : Req) (core ctx : Nat) : Bool :=
  match r.owner with
  | .thread c _ _ _ _ _ _ => r.ctx == ctx && c == core
  | .atomic c _ _ _ _ _ _ => r.ctx == ctx && c == core
  | .store c _ _ => r.ctx == ctx && c == core
  | .line c => c == core
  | _ => false

/-- A write that an earlier acquire of the sub-group made visible has not been acknowledged (R221). -/
def State.seenPending (s : State) (a : At) : Bool :=
  a.sub.seen.any fun t => (Sparse.get (fun _ => none) s.reqs t).isSome

/-- A load or atomic of a participating thread has not returned its value. -/
def State.readsPending (s : State) (a : At) : Bool :=
  s.reqs.any fun q => match q.2 with
    | some r => r.serves a.core a.blk a.grp a.m
    | none => false

/-- What a release does before it is performed (R219, R162): earlier reads have returned; at device and fabric scope every
modified line of the cache part is written back; at fabric scope the core's writes to other modules have been acknowledged, and
those that the sub-group's earlier acquires made visible (R221).
`false` when it must still wait. -/
def State.release (s : State) (a : At) (o : Nat) : State × Bool :=
  if !ordRelease o then (s, true)
  else if s.readsPending a then (s, false)
  else if ordScope o < 2 then (s, true)
  else
    let s := s.writeBackAll a.core
    if ordScope o = 3 ∧ ((s.reqsOf fun r => r.ofCore a.core a.b.ctx) ≠ [] ∨ s.seenPending a = true) then (s, false)
    else (s, true)

/-- An access waits while an acquire of its threads has not completed (R220); array and stream operations are accesses (R215). -/
def At.access (a : At) (s : State) (body : State → Did) : Did := if s.acquiring a then .wait else body s

/-- FENCE (R162): order 1 acquire, 2 release, 3 both. An acquire fence invalidates nothing, and accesses are made one
instruction at a time, so it only orders. -/
def execFence (sg : SgRef) (f : FormR) (s : State) : Host.Outcome State Fault Refusal :=
  let o := fld f.ctl 0 4
  .next (s.issue sg f.g false false (f.mod == 0 && fld f.ctl 4 6 == 0 && decide (4 ≤ o)) (noOperands f) fun a s =>
    let r := s.release a o
    if r.2 then .done r.1 else .retry r.1)

/-! ## Places in the core order -/

/-- Footprint key of a virtual range of a context (R206, R216). -/
def vaKey (ctx va : Nat) : Nat := 2 ^ 70 * (ctx + 1) + va

def Range.hits (r : Range) (base len : Nat) : Bool := overlaps r.base r.len base len

/-- Array operations of a core that have not completed. -/
def Core.arrayOps (c : Core) : List ArrOp := c.arrays.flatMap fun a => a.running ++ a.queue

/-- An operation of the core, issued earlier, still has to read or write bytes that an access touches: a write waits for
both, a read for writes (R215). -/
def Core.conflict (c : Core) (base len : Nat) (write : Bool) : Bool :=
  (c.arrayOps.any fun o => !o.killed && (o.writes.any (fun r => r.hits base len) || (write && o.reads.any fun r => r.hits base len)))
    || c.copies.any fun o => o.writes.any (fun r => r.hits base len) || (write && o.reads.any fun r => r.hits base len)

/-- The same for operations with an earlier place in the core order. -/
def Core.conflictBefore (c : Core) (seq : Nat) (r : Range) (write : Bool) : Bool :=
  (c.arrayOps.any fun o => decide (o.seq < seq) && !o.killed
      && (o.writes.any (fun q => q.hits r.base r.len) || (write && o.reads.any fun q => q.hits r.base r.len)))
    || c.copies.any fun o => decide (o.seq < seq)
      && (o.writes.any (fun q => q.hits r.base r.len) || (write && o.reads.any fun q => q.hits r.base r.len))

end Sys2Proof.Machine
end

