-- ==== Sys2Proof/Machine/SpoolIns.lean ====
section
/-! DEFINITION. The spool instructions (R159, R160, R222). Each acts once per sub-group (R135). -/
namespace Sys2Proof.Machine

/-- The counter that u register a names, when the context may use it (R159). -/
def At.counter (a : At) (s : State) (f : BitVec 9) : Option Nat :=
  let v := a.g.val f 0 1
  if v < 2 ^ 14 ∧ s.inSpool a.b.ctx v = true then some v else none

/-- SPL.RD (R159). -/
def execSplRd (sg : SgRef) (f : FormR) (s : State) : Host.Outcome State Fault Refusal :=
  .next (s.issue sg f.g false true (plainR f)
    [.dest f.d 2, .srcIn f.a [.u], .unused f.b, .unused f.c] fun a s => a.access s fun s =>
      match a.counter s f.a with
      | none => .fault s fPermission 0
      | some n => .done (a.put s f.d 2 (a.each fun _ => (s.spoolVal n).toNat)))

/-- Number of a predicate destination; ZERO, which discards, as p0. -/
def predNo (f : BitVec 9) : Nat :=
  match fileOf f with
  | (.p, n) => n
  | _ => 0

/-- SPL.WAIT (R159, R222): judged at issue; otherwise the sub-group waits for a change that satisfies it. -/
def execSplWait (sg : SgRef) (f : FormR) (s : State) : Host.Outcome State Fault Refusal :=
  .next (s.issue sg f.g false false (plainR f)
    [.dstIn f.d [.p, .zero], .srcIn f.a [.u], .srcIn f.b [.u] 2, .unused f.c] fun a s => a.access s fun s =>
      match a.counter s f.a with
      | none => .fault s fPermission 0
      | some n =>
        let t := a.g.val f.b 0 2
        match waitOutcome (s.spoolVal n) t with
        | some r => .done (a.putPreds (if r then s.observe a.core a.blk a.grp a.m else s) f.d (a.each fun _ => r))
        | none =>
          let w : Waiter := { who := .sub a.core a.blk a.grp a.sub.lane, id := n, target := t, result := none }
          .flow (a.holdAt { s with waiters := s.waiters ++ [w] } (.spool (predNo f.d) a.m)))

/-- SPL_WAIT_SATISFIED (R222): the waiting sub-group takes the outcome of the satisfying change and becomes ready. -/
def execSplWaitSatisfied (sg : SgRef) (s : State) : Host.Outcome State Fault Refusal :=
  match s.block sg.core sg.blk with
  | none => .next s
  | some b =>
    match (b.group sg.grp).subs.find? fun x => bitAt x.mask sg.lane with
    | none => .next s
    | some x =>
      match x.wait with
      | .spool pd mask =>
        let who : WaitUnit := .sub sg.core sg.blk sg.grp x.lane
        match s.waiters.find? fun w => w.who == who && w.result.isSome with
        | none => .next s
        | some w =>
          let s := { s with waiters := s.waiters.filter fun y => y.who != who }
          let s := if w.result = some true then s.observe sg.core sg.blk sg.grp mask else s
          let x := ((s.group sg.core sg.blk sg.grp).subs.find? fun y => bitAt y.mask sg.lane).getD x
          .next (s.modGroup sg.core sg.blk sg.grp fun g =>
            let g := (lanesOf mask).foldl (fun g i => g.setP i pd (w.result == some true)) g
            (g.replace x.lane [{ x with wait := .none, since := s.lcount }]).joined)
      | _ => .next s

/-- SPL.ADD (R159): plain or release. -/
def execSplAdd (sg : SgRef) (f : FormR) (s : State) : Host.Outcome State Fault Refusal :=
  let o := fld f.ctl 0 4
  .next (s.issue sg f.g false false (f.mod == 0 && fld f.ctl 4 6 == 0 && !ordAcquire o)
    [.unused f.d, .srcIn f.a [.u], .srcIn f.b [.u], .unused f.c] fun a s => a.access s fun s =>
      match a.counter s f.a with
      | none => .fault s fPermission 0
      | some n =>
        let r := s.release a o
        if r.2 then .done (r.1.spoolAdd n (a.g.val f.b 0 1)) else .retry r.1)

/-- SPL.SET (R159). -/
def execSplSet (sg : SgRef) (f : FormR) (s : State) : Host.Outcome State Fault Refusal :=
  .next (s.issue sg f.g false false (plainR f)
    [.unused f.d, .srcIn f.a [.u], .srcIn f.b [.u] 2, .unused f.c] fun a s => a.access s fun s =>
      match a.counter s f.a with
      | none => .fault s fPermission 0
      | some n => .done (s.spoolSet n (a.g.val f.b 0 2)))

end Sys2Proof.Machine
end

