-- ==== Sys2Proof/Machine/Handles.lean ====
section
/-! DEFINITION. Handles (R153, R154): their fields, HSET, HGET, SB.WAIT, SB.TEST and HCLR; and SRD (R161). -/
namespace Sys2Proof.Machine

/-- Fields of a handle value (R153): STATE 0 INVALID, 1 ADDRESS, 2 PENDING, 3 DONE. -/
def hState (v : DWord) : Nat := fld v 62 2
def hAddr (v : DWord) : Nat := fld v 0 19
def mkHandle (state status kind addr : Nat) : DWord :=
  BitVec.ofNat 64 (state * 2 ^ 62 + status * 2 ^ 40 + kind * 2 ^ 32 + addr % 2 ^ 19)

/-- Register number of a handle operand. -/
def hNo (f : BitVec 9) : Nat := (fileOf f).2
def Group.handle (g : Group) (f : BitVec 9) : DWord := g.hreg (hNo f)
def pending (v : DWord) : Bool := hState v == 2

/-- HSET (R154): waits while the handle is PENDING (R155). -/
def execHset (sg : SgRef) (f : FormR) (s : State) : Host.Outcome State Fault Refusal :=
  .next (s.issue sg f.g false false (plainR f)
    [.dstIn f.d [.h], .srcIn f.a [.u], .unused f.b, .unused f.c] fun a s =>
      if pending (a.g.handle f.d) then .wait
      else .done (a.modGroup s fun g => g.setH (hNo f.d) (mkHandle 1 0 0 (a.g.val f.a 0 1))))

/-- HGET (R154). -/
def execHget (sg : SgRef) (f : FormR) (s : State) : Host.Outcome State Fault Refusal :=
  .next (s.issue sg f.g false true (plainR f)
    [.dest f.d 2, .srcIn f.a [.h], .unused f.b, .unused f.c] fun a s =>
      .done (a.put s f.d 2 (a.each fun _ => (a.g.handle f.a).toNat)))

/-- SB.WAIT (R154): the sub-group is not ready while the handle is PENDING. -/
def execSbWait (sg : SgRef) (f : FormR) (s : State) : Host.Outcome State Fault Refusal :=
  .next (s.issue sg f.g false false (plainR f)
    [.unused f.d, .srcIn f.a [.h], .unused f.b, .unused f.c] fun a s =>
      if pending (a.g.handle f.a) then .flow (a.holdAt s (.handle (hNo f.a))) else .done s)

/-- SB_WAIT_READY (R154): once the handle is no longer PENDING the sub-group that waits on it is ready. -/
def execSbWaitReady (sg : SgRef) (s : State) : Host.Outcome State Fault Refusal :=
  match s.block sg.core sg.blk with
  | none => .next s
  | some b =>
    match (b.group sg.grp).subs.find? fun x => bitAt x.mask sg.lane with
    | none => .next s
    | some x =>
      match x.wait with
      | .handle h =>
        if pending ((b.group sg.grp).hreg h) then .next s
        else .next (s.modGroup sg.core sg.blk sg.grp fun g =>
          (g.replace x.lane [{ x with wait := .none, since := s.lcount }]).joined)
      | _ => .next s

/-- SB.TEST (R154): 1 unless the handle is PENDING, in every participating lane. -/
def execSbTest (sg : SgRef) (f : FormR) (s : State) : Host.Outcome State Fault Refusal :=
  .next (s.issue sg f.g false false (plainR f)
    [.dstIn f.d [.p, .zero], .srcIn f.a [.h], .unused f.b, .unused f.c] fun a s =>
      .done (a.putPreds s f.d (a.each fun _ => !pending (a.g.handle f.a))))

/-- HCLR (R154): waits while the handle is PENDING (R155). -/
def execHclr (sg : SgRef) (f : FormR) (s : State) : Host.Outcome State Fault Refusal :=
  .next (s.issue sg f.g false false (plainR f)
    [.dstIn f.d [.h], .unused f.a, .unused f.b, .unused f.c] fun a s =>
      if pending (a.g.handle f.d) then .wait else .done (a.modGroup s fun g => g.setH (hNo f.d) 0))

/-- Give an operation's handle its final state (R153, R155). The owner is block, group and handle number. -/
def State.finishHandle (s : State) (core : Nat) (owner : Nat × Nat × Nat) (status kind : Nat) : State :=
  s.modGroup core owner.1 owner.2.1 fun g =>
    g.setH owner.2.2 (mkHandle 3 status kind (hAddr (g.hreg owner.2.2)))

/-! ## SRD (R115, R161) -/

/-- A selector is listed, and the registers its value takes (R161). -/
def srdRegs (sel : Nat) : Option Nat :=
  if sel ≤ 0x0D then some 1
  else if sel = 0x0E ∨ sel = 0x0F then some 2
  else if sel = 0x10 then some 1
  else if sel = 0x20 then some 2
  else if 0x21 ≤ sel ∧ sel ≤ 0x24 then some 1 else none

/-- The launch of a resident block. -/
def State.launchOf (s : State) (n : Nat) : Option Launch := Sparse.get (fun _ => none) s.launches n

/-- The value of a selector for a lane (R115, R161). LCOUNT is the replica of the core's partition, at most one count behind the gondola's
(R19, log 87). -/
def srdValue (s : State) (a : At) (sel lane : Nat) : Nat :=
  let l := s.launchOf a.b.launch
  let get (f : Launch → Nat) : Nat := (l.map f).getD 0
  match sel with
  | 0x00 => 32 * a.grp + lane
  | 0x01 => lane
  | 0x02 => a.b.bid.1
  | 0x03 => a.b.bid.2.1
  | 0x04 => a.b.bid.2.2
  | 0x05 => get Launch.gx
  | 0x06 => get Launch.gy
  | 0x07 => get Launch.gz
  | 0x08 => a.b.trank
  | 0x09 => get Launch.train
  | 0x0A => a.core
  | 0x0B => a.core / 16
  | 0x0C => a.core / 192
  | 0x0D => a.b.ctx
  | 0x0E => get fun x => x.args.toNat
  | 0x0F => s.lmapAddr
  | 0x10 => a.b.ls
  | 0x20 => (s.replica (a.core / 192)).toNat
  | 0x21 => (s.reg (offArrayMap a.core)).toNat
  | 0x22 => (s.reg (offArrayMap a.core + 4)).toNat
  | 0x23 => a.b.split
  | _ => a.g.lstat.toNat

/-- SRD (R161): reading LSTAT sets it to 0. A selector not in the table is illegal. -/
def execSrd (sg : SgRef) (f : FormR) (s : State) : Host.Outcome State Fault Refusal :=
  let sel := fld f.ctl 0 8
  let n := (srdRegs sel).getD 1
  .next (s.issue sg f.g false false (f.mod == 0 && fld f.ctl 8 2 == 0 && (srdRegs sel).isSome)
    [.dest f.d n, .unused f.a, .unused f.b, .unused f.c] fun a s =>
      let s' := if sel = 0x24 then s.setLstat a.core a.blk a.grp 0 else s
      .done (a.put s' f.d n (a.each fun i => srdValue s a sel i)))

end Sys2Proof.Machine
end

