-- ==== Sys2Proof/Machine/Layout.lean ====
section
/-! DEFINITION. Tensor layouts (R24, R188 to R196): where an element and its scale lie, and when a layout descriptor is
invalid. -/
namespace Sys2Proof.Machine

/-- A layout descriptor (R191), read from its first eight words. -/
structure Layout where
  kind : Nat
  form : Nat
  fmtc : Nat
  super : Nat
  tord : Bool
  sord : Bool
  rax : Bool
  blk : Nat
  rows : Nat
  cols : Nat
  scaleOff : Nat
  deriving DecidableEq, Repr

def Layout.ofWords (ws : List Word) : Layout :=
  let w := wordAt ws 0
  { kind := fld w 24 8, form := fld w 22 2, fmtc := fld w 19 3, super := fld w 17 2, tord := bitAt w 16
    sord := bitAt w 15, rax := bitAt w 14, blk := fld w 12 2, rows := fld (wordAt ws 1) 0 24, cols := fld (wordAt ws 2) 0 24
    scaleOff := (wordAt ws 3).toNat }

def Layout.fmt (l : Layout) : Fmt := Fmt.ofCode l.fmtc
def Layout.skewed (l : Layout) : Bool := l.form == 1

/-- Bytes of a tile in the BLOCKED form (R188). -/
def tileBytes (f : Fmt) : Nat := 32 * f.width
/-- Bytes of a stored row and of a tile in the SKEWED form (R193). -/
def skRow (f : Fmt) : Nat := if f.width = 16 then 32 else if f.width = 4 then 8 else 16
def skTile (f : Fmt) : Nat := 16 * skRow f

/-- Tile index of tile (tr, tc) in the storage order of the BLOCKED form (R189). -/
def Layout.tileAt (l : Layout) (tr tc : Nat) : Nat :=
  let sd := 2 ^ l.super
  let nsr := ceilDiv (ceilDiv l.rows 16) sd
  let nsc := ceilDiv (ceilDiv l.cols 16) sd
  let sup := if l.sord then tc / sd * nsr + tr / sd else tr / sd * nsc + tc / sd
  let ins := if l.tord then tc % sd * sd + tr % sd else tr % sd * sd + tc % sd
  sup * sd * sd + ins

/-- Tiles that a BLOCKED tensor stores (R189). -/
def Layout.tiles (l : Layout) : Nat :=
  let sd := 2 ^ l.super
  ceilDiv (ceilDiv l.rows 16) sd * ceilDiv (ceilDiv l.cols 16) sd * sd * sd

/-- Tile pitch of the SKEWED form (R193). -/
def Layout.pitch (l : Layout) : Nat :=
  let nx := if l.rax then ceilDiv l.cols 16 else ceilDiv l.rows 16
  if nx % 2 = 0 then nx + 1 else nx

/-- Tile index of tile (a, b) in the SKEWED form. -/
def Layout.skTileAt (l : Layout) (a b : Nat) : Nat := if l.rax then a * l.pitch + b else b * l.pitch + a

/-- Bit position of element (r, c) from the tensor's base (R189, R193; R24). -/
def Layout.bitPos (l : Layout) (r c : Nat) : Nat :=
  if l.skewed then
    let q := (r % 16 + c % 16 + r / 16 + c / 16) % 16
    let slot := if l.rax then c % 16 else r % 16
    8 * (l.skTileAt (r / 16) (c / 16) * skTile l.fmt + q * skRow l.fmt) + slot * l.fmt.width
  else 8 * (l.tileAt (r / 16) (c / 16) * tileBytes l.fmt) + (r % 16 * 16 + c % 16) * l.fmt.width

/-- Bytes of the stored tiles. -/
def Layout.elemBytes (l : Layout) : Nat :=
  if l.skewed then ceilDiv (if l.rax then l.rows else l.cols) 16 * l.pitch * skTile l.fmt
  else l.tiles * tileBytes l.fmt

/-- Block size of a block code (R191): 16 or 32. -/
def blkSize (code : Nat) : Nat := if code = 1 then 16 else 32

/-- Offset in the scale plane of the scale for reduction index `k` and non-reduction index `x` (R190): `bs` is the block size
and `ext` the non-reduction extent. -/
def planePos (bs ext k x : Nat) : Nat := k / bs * (16 * ceilDiv ext 16) + x

/-- Where the scale of element (r, c) lies in the plane, by RAX. -/
def Layout.scalePos (l : Layout) (bs r c : Nat) : Nat :=
  if l.rax then planePos bs l.cols r c else planePos bs l.rows c r

/-- Bytes of the scale plane. -/
def Layout.planeBytes (l : Layout) : Nat :=
  if l.blk = 0 then 0
  else
    let bs := blkSize l.blk
    if l.rax then ceilDiv l.rows bs * (16 * ceilDiv l.cols 16) else ceilDiv l.cols bs * (16 * ceilDiv l.rows 16)

/-- Bytes from the base to the last byte of tiles and scale plane. -/
def Layout.span (l : Layout) : Nat :=
  if l.blk = 0 then l.elemBytes else max l.elemBytes (64 * l.scaleOff + l.planeBytes)

/-- FMT or BLK is invalid, or they do not go together (R192). -/
def Layout.fmtBad (l : Layout) : Bool :=
  l.blk == 3 || (l.blk != 0 && !l.fmt.scaleAllowed) || (l.blk == 0 && l.fmt.scaleMandatory)

/-- The other invalid cases of R192; `ls` says that the tensor lies in local store. -/
def Layout.shapeBad (l : Layout) (ls : Bool) : Bool :=
  l.kind != 0xB1 || decide (2 ≤ l.form) || l.rows == 0 || l.cols == 0
    || (l.skewed && (l.fmt == .fp32 || l.super != 0 || !ls))

def Layout.invalid (l : Layout) (ls : Bool) : Bool := l.fmtBad || l.shapeBad ls

/-! ## Reading and writing elements -/

/-- The bits [pos + w - 1 : pos] of a byte string given by address, with `pos` in bits from byte `base`. -/
def readBits (rd : Nat → Byte) (base pos w : Nat) : Nat :=
  let n := ceilDiv (pos % 8 + w) 8
  bitsOf (natLE ((List.range n).map fun i => rd (base + pos / 8 + i))) (pos % 8) w

/-- First byte and byte count of a bit field. -/
def bitSpan (base pos w : Nat) : Nat × Nat := (base + pos / 8, ceilDiv (pos % 8 + w) 8)

/-- The byte writes that put `w` bits of `v` at bit position `pos` from byte `base`. -/
def bitWrites (base pos w v : Nat) : List BitWrite :=
  let n := ceilDiv (pos % 8 + w) 8
  let m := (2 ^ w - 1) * 2 ^ (pos % 8)
  let x := v % 2 ^ w * 2 ^ (pos % 8)
  (List.range n).map fun i =>
    { addr := base + pos / 8 + i, mask := BitVec.ofNat 8 (m >>> (8 * i)), val := BitVec.ofNat 8 (x >>> (8 * i)) }

/-- The value of element (r, c) of a tensor in local memory under its scale, if any, and a per-tensor exponent (R23, R25,
R28, R31). -/
def elemValue (rd : Nat → Byte) (l : Layout) (base r c : Nat) (scale : Option Nat) (t : Int) : FVal :=
  let x := l.fmt.decode (readBits rd base (l.bitPos r c) l.fmt.width)
  let x := match scale with
    | some p => applyScale x (rd (base + 64 * l.scaleOff + p)).toNat
    | none => x
  FVal.scale x t

end Sys2Proof.Machine
end

