-- ==== Sys2Proof/Machine/ArrayOp.lean ====
section
/-! DEFINITION. Array operations (spec/03): the descriptor's fields (R68), the checks at issue (R69, R196, R42, R43, R57 to
R62, R66), tile geometry (R47, R49, R54, R57, R59), sums (R29, R72) and conversion (R32 to R40, R66, R78). -/
namespace Sys2Proof.Machine

/-! ## Fields (R68) -/

def dArray (d : List Word) : Nat := fld (wordAt d 0) 22 2
def dShape (d : List Word) : Nat := fld (wordAt d 0) 20 2
def dTransB (d : List Word) : Bool := bitAt (wordAt d 0) 19
def dSparse (d : List Word) : Bool := bitAt (wordAt d 0) 18
def dDest (d : List Word) : Nat := fld (wordAt d 0) 16 2
def dPbm (d : List Word) : Bool := bitAt (wordAt d 0) 14
def dRnd (d : List Word) : Nat := fld (wordAt d 0) 12 2
def dOvf (d : List Word) : Nat := fld (wordAt d 0) 10 2
def dM (d : List Word) : Nat := fld (wordAt d 1) 0 16
def dN (d : List Word) : Nat := fld (wordAt d 1) 16 16
def dK (d : List Word) : Nat := fld (wordAt d 2) 0 24
def dAFmt (d : List Word) : Nat := fld (wordAt d 3) 29 3
def dBFmt (d : List Word) : Nat := fld (wordAt d 3) 26 3
def dOFmt (d : List Word) : Nat := fld (wordAt d 3) 23 3
def dABlk (d : List Word) : Nat := fld (wordAt d 3) 21 2
def dBBlk (d : List Word) : Nat := fld (wordAt d 3) 19 2
def dOBlk (d : List Word) : Nat := fld (wordAt d 3) 17 2
/-- Programmable size code and direction of operand 0 A, 1 B, 2 O. -/
def dPbs (d : List Word) (o : Nat) : Nat := fld (wordAt d 3) (12 - 5 * o) 3
def dPbd (d : List Word) (o : Nat) : Nat := fld (wordAt d 3) (10 - 5 * o) 2
def dTA (d : List Word) : Int := signedOf 8 (fld (wordAt d 4) 24 8)
def dTB (d : List Word) : Int := signedOf 8 (fld (wordAt d 4) 16 8)
def dS (d : List Word) : Int := signedOf 8 (fld (wordAt d 4) 8 8)
def dABase (d : List Word) : Nat := fld (wordAt d 5) 0 19
def dALd (d : List Word) : Nat := 64 * fld (wordAt d 5) 19 13
def dBBase (d : List Word) : Nat := fld (wordAt d 6) 0 19
def dBLd (d : List Word) : Nat := 64 * fld (wordAt d 6) 19 13
def dOBase (d : List Word) : Nat := fld (wordAt d 7) 0 19
def dWbSlot (d : List Word) : Nat := fld (wordAt d 7) 0 6
def dOLd (d : List Word) : Nat := 64 * fld (wordAt d 7) 19 13
def dRowEnable (d : List Word) : Nat := fld (wordAt d 8) 0 16
def dSpoolId (d : List Word) : Nat := fld (wordAt d 8) 16 14
def dSpoolEn (d : List Word) : Bool := bitAt (wordAt d 8) 30
def dSeed (d : List Word) : Nat := dwordAt d 9
def dCompl (d : List Word) : Nat := fld (wordAt d 11) 0 19
def dListBase (d : List Word) : Nat := fld (wordAt d 12) 0 19
def dListLen (d : List Word) : Nat := fld (wordAt d 13) 0 16
def dRmaskEn (d : List Word) : Bool := bitAt (wordAt d 14) 31
def dRmaskBase (d : List Word) : Nat := fld (wordAt d 14) 0 19
def dWb (d : List Word) : Bool := dDest d == 1 || dDest d == 2
def dChained (d : List Word) : Bool := dArray d == 3

/-- The output is narrow and not block-scaled: the overflow policy applies (R38). -/
def dPolicy (d : List Word) : Bool := dOFmt d != 7 && dOBlk d == 0
/-- The operation runs under REPLAY (R38, R80). -/
def dReplay (d : List Word) : Bool := dPolicy d && dOvf d == 1

/-! ## Geometry -/

/-- Rows of a shape, chained counting as 3 (R59). -/
def shapeRows (sh : Nat) : Nat := if sh = 0 then 16 else if sh = 1 then 4 else 1
def opShape (d : List Word) : Nat := if dChained d then 3 else dShape d
/-- Columns of a shape for an array `w` columns wide; for a chained operation `w` is the sum of the three widths (R59). -/
def shapeCols (sh w : Nat) : Nat := if sh = 0 then w else if sh = 1 then 4 * w else 16 * w
/-- Width that fixes the tile element index (R49). -/
def shapeIdx (sh : Nat) : Nat := if sh = 0 then 16 else if sh = 1 then 64 else if sh = 2 then 256 else 768
/-- Drain cycles D (R47). -/
def shapeDrain (sh w : Nat) : Nat := ceilDiv (shapeRows sh * shapeCols sh w) 16
/-- O of R48, with the 16 cycles of REPLAY. -/
def shapeO (d : List Word) (w : Nat) : Nat :=
  let sh := opShape d
  (shapeRows sh - 1) + (shapeCols sh w - 1) + shapeDrain sh w + 4 + (if dReplay d then 16 else 0)
/-- Column blocks, and tiles, of a dense operation (R49). -/
def opNB (d : List Word) (w : Nat) : Nat := ceilDiv (dN d) (shapeCols (opShape d) w)
def opTiles (d : List Word) (w : Nat) : Nat := ceilDiv (dM d) (shapeRows (opShape d)) * opNB d w
/-- Tiles whose feed window has begun when a tile's last row converts: that tile and those after it (R48, R67). -/
def opDepth (d : List Word) (w : Nat) : Nat :=
  1 + (dK d + shapeO d w - (if dReplay d then 16 else 0) - 1) / max (dK d) (shapeDrain (opShape d) w)

/-- Width of an array by its map entry: 16, 15, or 0 when offline (R56 to R58). -/
def arrayWidth (map : Word) (arr : Nat) : Nat :=
  let st := fld map (8 * arr + 6) 2
  if st = 0 then 16 else if st = 1 then 15 else 0

/-- Width of the array, or sum of the widths, that an operation runs on. -/
def opWidth (map : Word) (d : List Word) : Nat :=
  if dChained d then arrayWidth map 0 + arrayWidth map 1 + arrayWidth map 2 else arrayWidth map (dArray d)

/-- Some array the operation needs is offline (R58). -/
def opOffline (map : Word) (d : List Word) : Bool :=
  if dChained d then arrayWidth map 0 == 0 || arrayWidth map 1 == 0 || arrayWidth map 2 == 0
  else arrayWidth map (dArray d) == 0

/-! ## Checks (R69, R196) -/

/-- BADARRAY (R46, R58, R61, R62, R66). -/
def badArray (map : Word) (wb : Bool) (d : List Word) : Bool :=
  opOffline map d || (dTransB d && dArray d != 1) || (dWb d && dArray d != 2) || (dSparse d && dArray d != 2)
    || (dChained d && (dShape d != 2 || dDest d != 0))
    || ((dWb d || dSparse d) && !wb)

/-- Layout faults that R196 reports as BADSHAPE: `la`, `lb` and `lo` are the layouts that R195 reads. -/
def badLayoutShape (d : List Word) (la lb lo : Layout) : Bool :=
  let a := !dSparse d && (la.shapeBad true || !la.skewed || la.rax || decide (la.rows < dM d) || decide (la.cols < dK d)
    || dABase d % 512 != 0)
  let b := lb.shapeBad true || !lb.skewed || !lb.rax || dBBase d % 512 != 0
    || (if dTransB d then decide (lb.rows < dN d) || decide (lb.cols < dK d)
        else decide (lb.rows < dK d) || decide (lb.cols < dN d))
  let o := dDest d == 0 && (lo.shapeBad true || decide (lo.rows < dM d) || decide (lo.cols < dN d)
    || (lo.skewed && dOBase d % 512 != 0))
  a || b || o

/-- BADSHAPE (R68, R69, R62, R66, R196). -/
def badShape (map : Word) (d : List Word) (la lb lo : Layout) : Bool :=
  let w := opWidth map d
  let r := shapeRows (opShape d)
  dShape d == 3 || dDest d == 3 || dM d == 0 || dN d == 0 || dK d == 0
    || dRowEnable d == 0 || decide (2 ^ r ≤ dRowEnable d)
    || (dRmaskEn d && dRmaskBase d % 8 != 0)
    || (dSparse d && (dShape d != 0 || dDest d != 2 || decide (w < dN d) || dListLen d == 0
          || decide (64 < dWbSlot d + ceilDiv (dM d) 16)))
    || (dWb d && !dSparse d && decide (64 < dWbSlot d + opTiles d w))
    || badLayoutShape d la lb lo

/-- A format and its block code do not go together, or the code is wrong for the mode (R22, R42, R69). -/
def badBlk (d : List Word) (fc blk : Nat) : Bool :=
  let f := Fmt.ofCode fc
  (blk != 0 && !f.scaleAllowed) || (blk == 0 && f.scaleMandatory) || (blk == 3 && !dPbm d)

/-- A programmable block names a size or direction outside R42: `bad` is the direction not allowed. -/
def badPb (d : List Word) (o blk bad : Nat) : Bool :=
  blk == 3 && (decide (4 < dPbs d o) || dPbd d o == 3 || dPbd d o == bad)

/-- A layout's format or block differs from the descriptor's, or is invalid (R195, R196). -/
def badLayFmt (l : Layout) (fc blk : Nat) : Bool :=
  l.fmtc != fc || (blk != 3 && (l.blk != blk || l.fmtBad))

/-- BADFMT (R28, R32, R33, R38, R42, R62, R66, R69, R196), apart from R43. -/
def badFmt (d : List Word) (la lb lo : Layout) : Bool :=
  fld (wordAt d 4) 24 8 == 0x80 || fld (wordAt d 4) 16 8 == 0x80 || fld (wordAt d 4) 8 8 == 0x80
    || decide (2 ≤ dRnd d) || dOvf d == 3 || (dPolicy d && dOvf d == 2 && dOFmt d != 3)
    || ((dOFmt d == 7 || dOBlk d != 0) && dS d != 0)
    || dAFmt d == 7 || dBFmt d == 7
    || badBlk d (dAFmt d) (dABlk d) || badBlk d (dBFmt d) (dBBlk d) || badBlk d (dOFmt d) (dOBlk d)
    || badPb d 0 (dABlk d) 2 || badPb d 1 (dBBlk d) 1 || badPb d 2 (dOBlk d) 0
    || (dWb d && dOFmt d != 7)
    || (dSparse d && decide (1 < dABlk d))
    || (!dSparse d && badLayFmt la (dAFmt d) (dABlk d)) || badLayFmt lb (dBFmt d) (dBBlk d)
    || (dDest d == 0 && badLayFmt lo (dOFmt d) (dOBlk d))

/-! ## Elements -/

/-- Position in the scale plane for an operand's element with reduction index `k` and other index `x`: normal blocks by the
layout, programmable ones by the named size and direction (R27, R42, R190). `o` is 0 for A, 1 for B; `kExt` and `xExt` are
the tensor's extents along K and across it, as its layout stores them. -/
def operandScale (d : List Word) (o blk : Nat) (l : Layout) (r c k x kExt xExt : Nat) : Option Nat :=
  if blk = 0 then none
  else if blk = 3 then
    let bs := 8 * 2 ^ dPbs d o
    if dPbd d o = 0 then some (planePos bs xExt k x) else some (planePos bs kExt x k)
  else some (l.scalePos (blkSize blk) r c)

/-- Value of A[i][k] with its scale and exponent. -/
def aValue (rd : Nat → Byte) (o : ArrOp) (i k : Nat) : FVal :=
  let d := o.desc
  let l := Layout.ofWords o.la
  elemValue rd l (o.base + dABase d) i k (operandScale d 0 (dABlk d) l i k k i l.cols l.rows) (dTA d)

/-- Extents of a stored B along K and along N: under TRANS_B the layout describes V (R92, R195). -/
def bExtents (d : List Word) (l : Layout) : Nat × Nat := if dTransB d then (l.cols, l.rows) else (l.rows, l.cols)

/-- Value of B[k][j]; under TRANS_B it is V[j][k] (R92). -/
def bValue (rd : Nat → Byte) (o : ArrOp) (k j : Nat) : FVal :=
  let d := o.desc
  let l := Layout.ofWords o.lb
  let p := if dTransB d then (j, k) else (k, j)
  let e := bExtents d l
  elemValue rd l (o.base + dBBase d) p.1 p.2 (operandScale d 1 (dBBlk d) l p.1 p.2 k j e.1 e.2) (dTB d)

/-- s + a * b rounded once (R29). -/
def mac (s : Word) (a b : FVal) : Word := fround (FVal.add (fdec s) (FVal.mul a b))

/-- A sum over `n` products from -0, in ascending k (R72). -/
def dotFrom (a b : Nat → FVal) : Nat → Word
  | 0 => 0x80000000
  | n + 1 => mac (dotFrom a b n) (a n) (b n)

/-- The FP32 sum of output element (r, c) of a dense operation. -/
def denseSum (rd : Nat → Byte) (o : ArrOp) (r c : Nat) : Word :=
  dotFrom (fun k => aValue rd o r k) (fun k => bValue rd o k c) (dK o.desc)

/-! ## Tiles of dense operations -/

/-- Row block, column block of tile `t`. -/
def tileBlocks (o : ArrOp) (t : Nat) : Nat × Nat := (t / opNB o.desc o.width, t % opNB o.desc o.width)

/-- Row bits of a row block: ROW_ENABLE, the edge mask and the row mask as the feeder reads it (R54). -/
def rowBitsOf (rd : Nat → Byte) (o : ArrOp) (rb : Nat) : Nat :=
  let d := o.desc
  let n := shapeRows (opShape d)
  ((List.range n).map fun i =>
    let r := rb * n + i
    let on := decide (r < dM d) && bitsOf (dRowEnable d) i 1 == 1
      && (!dRmaskEn d || bitAt (rd (o.base + dRmaskBase d + r / 8)) (r % 8))
    if on then 2 ^ i else 0).sum

/-- The row bits in force for a row block: those recorded when it was first converted, else as they read now. -/
def rowBitsAt (rd : Nat → Byte) (o : ArrOp) (rb : Nat) : Nat :=
  let v := Sparse.get (fun _ => 0) o.rowBits rb
  if v = 0 then rowBitsOf rd o rb else v - 2 ^ 16

/-- Enabled elements of a tile, in tile order: (i, j, row, column). -/
def tileElems (rd : Nat → Byte) (o : ArrOp) (t : Nat) : List (Nat × Nat × Nat × Nat) :=
  let (rb, cb) := tileBlocks o t
  let n := shapeRows (opShape o.desc)
  let w := shapeCols (opShape o.desc) o.width
  let bits := rowBitsAt rd o rb
  (List.range n).flatMap fun i =>
    if bitsOf bits i 1 = 1 then
      ((List.range w).filter fun j => decide (cb * w + j < dN o.desc)).map fun j => (i, j, rb * n + i, cb * w + j)
    else []

/-- Tile index and tile element index of output element (r, c) (R49). -/
def tileOf (o : ArrOp) (r c : Nat) : Nat × Nat :=
  let n := shapeRows (opShape o.desc)
  let w := shapeCols (opShape o.desc) o.width
  (r / n * opNB o.desc o.width + c / w, r % n * shapeIdx (opShape o.desc) + c % w)

/-- Output element (r, c) is enabled. -/
def outEnabled (rd : Nat → Byte) (o : ArrOp) (r c : Nat) : Bool :=
  let n := shapeRows (opShape o.desc)
  decide (c < dN o.desc) && bitsOf (rowBitsAt rd o (r / n)) (r % n) 1 == 1

/-- Rounding of an output element (R35, R36). -/
def outRounding (o : ArrOp) (r c : Nat) : Rounding :=
  if dRnd o.desc = 1 then
    let p := tileOf o r c
    .stochastic (srBits (dSeed o.desc + p.1 * 2 ^ 32) p.2)
  else .nearest

/-! ## Output -/

/-- The output exponent of a tile: S, or S' once it is fed again (R78, R80). -/
def tileS (o : ArrOp) (t : Nat) : Int :=
  let v := Sparse.get (fun _ => 0) o.refed t
  if v = 0 then dS o.desc else signedOf 8 (v - 256)

/-- Convert one element of an FP32 or unblocked output (R32 to R38, R40). -/
def convertOne (o : ArrOp) (s : Int) (r c : Nat) (x : Word) : Narrowed :=
  if dOFmt o.desc = 7 then
    { code := x.toNat, sat := 0, infs := 0, nans := b2n (fdec x).isNan, overflow := false }
  else
    let pol := if dOvf o.desc = 2 then OvfPolicy.inf else .sat
    narrowVal (Fmt.ofCode (dOFmt o.desc)) (outRounding o r c) pol (FVal.scale (fdec x) s)

/-- Block size and direction of a scaled output: true when blocks run along a row, over N (R26, R42, R191). -/
def outBlock (o : ArrOp) : Nat × Bool :=
  let d := o.desc
  if dOBlk d = 3 then (8 * 2 ^ dPbs d 2, dPbd d 2 == 1) else (blkSize (dOBlk d), !(Layout.ofWords o.lo).rax)

/-- Enabled elements of the output block that holds (r, c). -/
def blockOf (rd : Nat → Byte) (o : ArrOp) (r c : Nat) : List (Nat × Nat) :=
  let (bs, row) := outBlock o
  let all := if row then ((List.range bs).map fun i => (r, c / bs * bs + i)) else ((List.range bs).map fun i => (r / bs * bs + i, c))
  all.filter fun p => decide (p.1 < dM o.desc) && outEnabled rd o p.1 p.2

/-- The first element of the block that holds (r, c), by which the block is named. -/
def blockKey (o : ArrOp) (r c : Nat) : Nat × Nat :=
  let (bs, row) := outBlock o
  if row then (r, c / bs * bs) else (r / bs * bs, c)

/-- Position of a block's scale in the output's plane. -/
def outScalePos (o : ArrOp) (r c : Nat) : Nat :=
  let (bs, row) := outBlock o
  let l := Layout.ofWords o.lo
  if dOBlk o.desc = 3 then (if row then planePos bs l.rows c r else planePos bs l.cols r c)
  else l.scalePos bs r c

/-- Byte writes of the code of one output element in local store; a 6-bit SKEWED row also gets its zero bytes (R193). -/
def codeWrites (o : ArrOp) (r c code : Nat) : List BitWrite :=
  let l := Layout.ofWords o.lo
  let base := o.base + dOBase o.desc
  let ws := bitWrites base (l.bitPos r c) l.fmt.width code
  if l.skewed && l.fmt.width == 6 then
    ws ++ (List.range 4).map fun i => { addr := base + l.bitPos r c / 8 / 16 * 16 + 12 + i, mask := 0xFF, val := 0 }
  else ws

/-- A tile's or block's conversion: byte writes and counts; `over` gives the largest |x * 2^S| of an overflowing tile (R78). -/
structure Converted where
  writes : List BitWrite
  cvt : CvtCounts
  overflowed : Option FVal
  deriving DecidableEq, Repr

/-- Convert a tile of an FP32 or unblocked output with exponent `s`. -/
def convertTile (rd : Nat → Byte) (o : ArrOp) (t : Nat) (s : Int) : Converted :=
  let es := (tileElems rd o t).map fun e => (e.2.2.1, e.2.2.2, denseSum rd o e.2.2.1 e.2.2.2)
  let rs := es.map fun e => (e, convertOne o s e.1 e.2.1 e.2.2)
  { writes := rs.flatMap fun p => codeWrites o p.1.1 p.1.2.1 p.2.code
    cvt := { sat := (rs.map fun p => p.2.sat).sum, infs := (rs.map fun p => p.2.infs).sum
             nans := (rs.map fun p => p.2.nans).sum }
    overflowed := if rs.any fun p => p.2.overflow then some (maxFinite (es.map fun e => FVal.scale (fdec e.2.2) s)) else none }

/-- Convert one block of a scaled output (R39, R40). -/
def convertBlock (rd : Nat → Byte) (o : ArrOp) (r c : Nat) : Converted :=
  let es := blockOf rd o r c
  let b := narrowBlock (Fmt.ofCode (dOFmt o.desc)) (es.map fun p => (fdec (denseSum rd o p.1 p.2), outRounding o p.1 p.2))
  let l := Layout.ofWords o.lo
  { writes := ((es.zip b.codes).flatMap fun p => codeWrites o p.1.1 p.1.2 p.2)
      ++ [{ addr := o.base + dOBase o.desc + 64 * l.scaleOff + outScalePos o r c, mask := 0xFF, val := BitVec.ofNat 8 b.scale }]
    cvt := { sat := 0, infs := b.infs, nans := b.nans }
    overflowed := none }

/-- The blocks that are complete with tile `t`: those with an enabled element in it and none in a later tile. A block is
written when the last tile that holds an element of it converts (R39: its scale is chosen over the whole block). -/
def blocksDone (rd : Nat → Byte) (o : ArrOp) (t : Nat) : List (Nat × Nat) :=
  let keys := ((tileElems rd o t).map fun e => blockKey o e.2.2.1 e.2.2.2).eraseDups
  keys.filter fun k => (blockOf rd o k.1 k.2).all fun p => decide ((tileOf o p.1 p.2).1 ≤ t)

/-- Join conversions. -/
def joinConverted (cs : List Converted) : Converted :=
  { writes := cs.flatMap Converted.writes
    cvt := { sat := (cs.map fun c => c.cvt.sat).sum, infs := (cs.map fun c => c.cvt.infs).sum
             nans := (cs.map fun c => c.cvt.nans).sum }
    overflowed := none }

/-- What a tile writes to local store, and counts, with exponent `s`. -/
def tileOutput (rd : Nat → Byte) (o : ArrOp) (t : Nat) (s : Int) : Converted :=
  if dOBlk o.desc = 0 then convertTile rd o t s
  else joinConverted ((blocksDone rd o t).map fun k => convertBlock rd o k.1 k.2)

/-- Replace or accumulate wide-buffer entries (R64, R66): entry number and sum. -/
def wbWrites (rd : Nat → Byte) (core : Nat) (o : ArrOp) (xs : List (Nat × Word)) : Converted :=
  let rs := xs.map fun p =>
    let a := wbBase core + 4 * p.1
    let old : Word := BitVec.ofNat 32 (natLE ((List.range 4).map fun i => rd (a + i)))
    (a, if dDest o.desc = 2 then fadd old p.2 else p.2)
  { writes := rs.flatMap fun p => (List.range 4).map fun i =>
      { addr := p.1 + i, mask := 0xFF, val := BitVec.ofNat 8 (p.2.toNat >>> (8 * i)) }
    cvt := { sat := 0, infs := 0, nans := (rs.map fun p => b2n (fdec p.2).isNan).sum }
    overflowed := none }

/-- What a tile of a dense operation writes to the wide buffer (R66): slot WB_SLOT + t, entry e. -/
def wbTile (rd : Nat → Byte) (core : Nat) (o : ArrOp) (t : Nat) : Converted :=
  wbWrites rd core o ((tileElems rd o t).map fun e =>
    ((dWbSlot o.desc + t) * 256 + (e.1 * shapeIdx (opShape o.desc) + e.2.1), denseSum rd o e.2.2.1 e.2.2.2))

/-! ## Sparse passes (R62, R63, R65) -/

/-- List entry `n` of a sparse operation: KBLK, ROW, reserved bits. -/
def listEntry (rd : Nat → Byte) (o : ArrOp) (n : Nat) : Nat × Nat × Nat :=
  let w : Word := BitVec.ofNat 32 (natLE ((List.range 4).map fun i => rd (o.base + dListBase o.desc + 4 * n + i)))
  (fld w 10 20, fld w 0 10, fld w 30 2)

/-- An entry is invalid (R65). -/
def entryBad (o : ArrOp) (e : Nat × Nat × Nat) : Bool :=
  decide (ceilDiv (dK o.desc) 16 ≤ e.1) || decide (dM o.desc ≤ e.2.1) || e.2.2 != 0

/-- Entries from `n` on that form one pass: valid ones with one KBLK, at most `k` more. -/
def passEntries (rd : Nat → Byte) (o : ArrOp) (kblk : Option Nat) (n : Nat) : Nat → List (Nat × Nat × Nat)
  | 0 => []
  | k + 1 =>
    if dListLen o.desc ≤ n then []
    else
      let e := listEntry rd o n
      if entryBad o e then []
      else if kblk.isSome && kblk != some e.1 then []
      else (n, e.1, e.2.1) :: passEntries rd o (some e.1) (n + 1) k

/-- Bytes of one packed segment. -/
def segBytes (d : List Word) : Nat := 2 * (Fmt.ofCode (dAFmt d)).width

/-- Value of element `q` of segment `n` (R62). -/
def segValue (rd : Nat → Byte) (o : ArrOp) (n q : Nat) : FVal :=
  let d := o.desc
  let f := Fmt.ofCode (dAFmt d)
  let base := o.base + dABase d
  let x := f.decode (readBits rd (base + n * segBytes d) (q * f.width) f.width)
  let x := if dABlk d = 0 then x else applyScale x (rd (base + dListLen d * segBytes d + n)).toNat
  FVal.scale x (dTA d)

/-- The wide-buffer sums of one pass: entry number and sum, in list order. ROW_ENABLE applies to the pass row, the row mask
to the entry's ROW (R54). -/
def passSums (rd : Nat → Byte) (o : ArrOp) (es : List (Nat × Nat × Nat)) : List (Nat × Word) :=
  let d := o.desc
  ((List.range es.length).zip es).flatMap fun p =>
    let (n, kblk, row) := p.2
    let on := bitsOf (dRowEnable d) p.1 1 == 1
      && (!dRmaskEn d || bitAt (rd (o.base + dRmaskBase d + row / 8)) (row % 8))
    if on then
      let len := min 16 (dK d - 16 * kblk)
      (List.range (dN d)).map fun j =>
        ((dWbSlot d + row / 16) * 256 + row % 16 * 16 + j,
         dotFrom (fun q => segValue rd o n q) (fun q => bValue rd o (16 * kblk + q) j) len)
    else []

end Sys2Proof.Machine
end

