-- ==== Sys2Proof/Machine/Array.lean ====
section
/-! DEFINITION. Issuing and running array operations (spec/03, R86 to R88, R155): ARR.ISSUE and the array events. -/
namespace Sys2Proof.Machine

/-! ## Ranges -/

/-- A range rounded out to 256-byte granules (R52, R210). -/
def granules (base len : Nat) : Range := { base := base / 256 * 256, len := if len = 0 then 0 else (base + len + 255) / 256 * 256 - base / 256 * 256 }

/-- Bytes of the scale plane of an operand (0 A, 1 B, 2 O) under its block code. -/
def opPlane (d : List Word) (o blk : Nat) (l : Layout) : Nat :=
  if blk = 0 then 0
  else if blk = 3 then
    let bs := 8 * 2 ^ dPbs d o
    let (e, x) :=
      if o = 0 then (if dPbd d 0 = 0 then (l.cols, l.rows) else (l.rows, l.cols))
      else if o = 1 then (if dPbd d 1 = 0 then bExtents d l else (bExtents d l).swap)
      else (if dPbd d 2 = 1 then (l.cols, l.rows) else (l.rows, l.cols))
    ceilDiv e bs * (16 * ceilDiv x 16)
  else l.planeBytes

/-- Local-store ranges that an operation reads, as offsets (R68 step 4). -/
def opReads (d : List Word) (la lb : Layout) : List (Nat × Nat) :=
  (if dSparse d then [(dABase d, dListLen d * segBytes d + (if dABlk d = 0 then 0 else dListLen d)), (dListBase d, 4 * dListLen d)]
   else [(dABase d, la.elemBytes), (dABase d + 64 * la.scaleOff, opPlane d 0 (dABlk d) la)])
  ++ [(dBBase d, lb.elemBytes), (dBBase d + 64 * lb.scaleOff, opPlane d 1 (dBBlk d) lb)]
  ++ (if dRmaskEn d then [(dRmaskBase d, ceilDiv (dM d) 8)] else [])

/-- Local-store ranges that an operation writes: the output with its plane, the record, the tile exponent table (R70, R80). -/
def opWrites (d : List Word) (w : Nat) (lo : Layout) : List (Nat × Nat) :=
  (if dDest d = 0 then [(dOBase d, lo.elemBytes), (dOBase d + 64 * lo.scaleOff, opPlane d 2 (dOBlk d) lo)] else [])
  ++ [(dCompl d, 32 + (if dReplay d then opTiles d w else 0))]

/-- The wide-buffer range of an operation (R63, R66). -/
def opSlots (d : List Word) (w core : Nat) : List (Nat × Nat) :=
  if dWb d then
    [(wbBase core + 1024 * dWbSlot d, 1024 * (if dSparse d then ceilDiv (dM d) 16 else opTiles d w))]
  else []

/-- A range lies in a block's allocation; an empty one needs nothing. -/
def inAlloc (ls : Nat) (r : Nat × Nat) : Bool := r.2 == 0 || decide (r.1 + r.2 ≤ ls)

/-! ## Drogue samples -/

/-- The drogue table entry that an operation names, and a saturating device-scope add to one of its words (R85). -/
def drogueEntry (s : State) (o : ArrOp) : Nat := s.drogueBase + 128 * fld (wordAt o.shadow 0) 0 12
def State.drogueAdd (s : State) (o : ArrOp) (i n : Nat) : State :=
  let a := drogueEntry s o + 4 * i
  if s.poisoned (a / 64 * 64) then s else s.writeMem a (bytesLE 4 (satAdd32 (s.word a) n).toNat)

/-- Rows and columns of the output that a tile covers: first and count (R49). -/
def tileRows (o : ArrOp) (t : Nat) : Nat × Nat :=
  let n := shapeRows (opShape o.desc)
  let r := (tileBlocks o t).1 * n
  (r, min (dM o.desc) (r + n) - r)
def tileCols (o : ArrOp) (t : Nat) : Nat × Nat :=
  let w := shapeCols (opShape o.desc) o.width
  let c := (tileBlocks o t).2 * w
  (c, min (dN o.desc) (c + w) - c)

/-- Where a 16-bit form is (R86): words of its layout descriptor, and its base. Word 1 of the shadow descriptor is A's, word 2
B's. -/
def wideLayout (s : State) (o : ArrOp) (i : Nat) : List Word :=
  s.words (o.base + 64 * fld (wordAt o.shadow i) 19 13) 16
def wideBase (o : ArrOp) (i : Nat) : Nat := o.base + fld (wordAt o.shadow i) 0 19
/-- Operand 1 (A) or 2 (B) is recomputed from its 16-bit form. -/
def useWide (o : ArrOp) (i : Nat) : Bool := bitAt (wordAt o.shadow 0) (24 - i)

/-- A granule of one of the elements (x, k) of a captured tile's operand, `x` from `x0` on, is written by `[a, a + n)`; `pos`
gives the first byte and the length of each. -/
def anyTouched (x0 nx nk : Nat) (pos : Nat → Nat → List (Nat × Nat)) (a n : Nat) : Bool :=
  (List.range nx).any fun i => (List.range nk).any fun k => (pos (x0 + i) k).any fun r => (granules r.1 r.2).hits a n

/-- Bytes of element (r, c) of a tensor at `base`, with its scale's when that lies at a place of the plane. -/
def elemSpans (l : Layout) (base r c : Nat) (scale : Option Nat) : List (Nat × Nat) :=
  bitSpan base (l.bitPos r c) l.fmt.width :: (scale.map fun p => (base + 64 * l.scaleOff + p, 1)).toList

/-- A write of `[a, a + n)` touches a granule of a captured tile's operands or of its 16-bit forms (R88 step 3). -/
def captureTouched (s : State) (c : Capture) (a n : Nat) : Bool :=
  let o := c.op
  let d := o.desc
  let rs := tileRows o c.tile
  let cs := tileCols o c.tile
  let la := Layout.ofWords o.la
  let lb := Layout.ofWords o.lb
  let at_ (k j : Nat) : Nat × Nat := if dTransB d then (j, k) else (k, j)
  let e := bExtents d lb
  anyTouched rs.1 rs.2 (dK d)
      (fun i k => elemSpans la (o.base + dABase d) i k (operandScale d 0 (dABlk d) la i k k i la.cols la.rows)) a n
    || anyTouched cs.1 cs.2 (dK d)
      (fun j k => elemSpans lb (o.base + dBBase d) (at_ k j).1 (at_ k j).2
        (operandScale d 1 (dBBlk d) lb (at_ k j).1 (at_ k j).2 k j e.1 e.2)) a n
    || (useWide o 1 && anyTouched rs.1 rs.2 (dK d)
      (fun i k => elemSpans (Layout.ofWords (wideLayout s o 1)) (wideBase o 1) i k none) a n)
    || (useWide o 2 && anyTouched cs.1 cs.2 (dK d)
      (fun j k => elemSpans (Layout.ofWords (wideLayout s o 2)) (wideBase o 2) (at_ k j).1 (at_ k j).2 none) a n)

/-- Drop a capture slot, whose sample no count remembers. -/
def State.clearSlot (s : State) (core slot : Nat) : State :=
  s.modCore core fun x => { x with captures := x.captures.set slot none }

/-- Drop a capture slot and count the sample as dropped. -/
def State.dropSample (s : State) (core slot : Nat) : State :=
  match ((s.core core).captures.getD slot none) with
  | none => s
  | some c => (s.clearSlot core slot).drogueAdd c.op 2 1

/-- A write of the core to local store: pending samples whose granules it touches are discarded (R88 step 3). -/
def State.touch (s : State) (core base len : Nat) : State :=
  forEach (fun s slot =>
    match ((s.core core).captures.getD slot none) with
    | none => s
    | some c => if captureTouched s c base len then s.dropSample core slot else s) s [0, 1]

/-- A recomputation on array `arr` is abandoned because an operation was issued to it (R88 step 2). -/
def State.abandon (s : State) (core arr : Nat) : State :=
  forEach (fun s slot =>
    match ((s.core core).captures.getD slot none) with
    | none => s
    | some c =>
      if c.phase = .computed ∧ c.arr = arr then
        let s := s.drogueAdd c.op 3 1
        if 2 ≤ c.abandoned then s.dropSample core slot
        else s.modCore core fun x =>
          { x with captures := x.captures.set slot (some { c with phase := .captured, abandoned := c.abandoned + 1 }) }
      else s) s [0, 1]

/-! ## ARR.ISSUE (R155) -/

def Core.array (c : Core) (i : Nat) : ArraySt := c.arrays.getD i .idle
/-- Accepted operations that wait in an array's queue (R50, R155). -/
def ArraySt.waiting (x : ArraySt) : List ArrOp := x.queue.filter fun o => o.refused.isNone
def State.modArray (s : State) (core i : Nat) (f : ArraySt → ArraySt) : State :=
  s.modCore core fun c => { c with arrays := c.arrays.set i (f (c.array i)) }

/-- The arrays an operation occupies. -/
def opArrays (d : List Word) : List Nat := if dChained d then [0, 1, 2] else [dArray d]

/-- The core's copy of its array-map entry, fetched when it has none (R58). -/
def State.arrayMap (s : State) (core : Nat) : Word × Word :=
  ((s.core core).mapCopy).getD (s.reg (offArrayMap core), s.reg (offArrayMap core + 4))

/-- The first word that differs from its partner, with the partner, and its index. -/
def badWord (n : Nat) (ws : List Word) : Option (Nat × Word × Word) :=
  ((List.range n).find? fun i => wordAt ws (n + i) != ~~~ (wordAt ws i)).map fun i => (i, wordAt ws i, wordAt ws (n + i))

/-- An integrity event for a descriptor in local store (R187, R387): the address is physical. -/
def State.badDescriptor (s : State) (core ctx addr n : Nat) (ws : List Word) : State :=
  match badWord n ws with
  | some (i, v, c) => s.integrity core 1 (some ctx) core (addr + 4 * i) v c
  | none => s

/-- Finish the handle of an issue that is refused or has no address. -/
def At.refuseHandle (a : At) (s : State) (h : Nat) (status kind addr : Nat) : State :=
  a.modGroup s fun g => g.setH h (mkHandle 3 status kind addr)

/-- The shadow descriptor of an issue, when the operation is to be sampled (R86, R155): its words, or the state with an
integrity event. A handle that names bytes beyond the block's allocation leaves the operation unsampled, and nothing is recorded
(R86 does not say; DESIGN CHOICE, log 90). -/
def At.shadow (a : At) (s : State) (f : FormR) (d : List Word) : State × List Word :=
  if (fileOf f.b).1 ≠ .h then (s, [])
  else
    let h := a.g.handle f.b
    let off := hAddr h
    if (hState h ≠ 1 ∧ hState h ≠ 3) ∨ off % 64 ≠ 0 ∨ a.b.ls < off + 64 then (s, [])
    else
      let addr := a.b.base + off
      let ws := s.words addr 16
      if fld (wordAt ws 0) 24 8 ≠ 0xA2 ∨ complementsOk 8 ws = false then
        (match badWord 8 ws with
         | some _ => s.badDescriptor a.core a.b.ctx addr 8 ws
         | none => s.integrity a.core 1 (some a.b.ctx) a.core addr (wordAt ws 0) (wordAt ws 8), [])
      else
        let tag := fld (wordAt ws 0) 0 12
        if tag = 0 ∨ dSparse d = true ∨ s.ownsTag a.b.ctx tag = false ∨ 2 ≤ fld (wordAt ws 0) 20 2 ∨ 2 ≤ fld (wordAt ws 0) 18 2
        then (s, [])
        else (s, ws.take 8)

/-- The operation as it is queued: it takes its place in the core order (R215). -/
def At.newOp (a : At) (s : State) (h : Nat) (d : List Word) (w : Nat) (la lb lo shadow : List Word) : ArrOp :=
  let rs := (opReads d (Layout.ofWords la) (Layout.ofWords lb)).map fun r => granules (a.b.base + r.1) r.2
  let ws := (opWrites d w (Layout.ofWords lo)).map fun r => granules (a.b.base + r.1) r.2
  { seq := (s.core a.core).nextSeq, desc := d, la := la, lb := lb, lo := lo, shadow := shadow, owner := (a.blk, a.grp, h)
    ctx := a.b.ctx, base := a.b.base, ls := a.b.ls, width := w, reads := rs
    writes := ws ++ (opSlots d w a.core).map fun r => granules r.1 r.2
    tile := 0, entry := 0, rowBits := [], fed := [], refeed := [], refed := [], stages := [], done := []
    cvt := { sat := 0, infs := 0, nans := 0 }, replays := 0, clamped := 0, clampS := 0, freeze := 0, segments := 0
    bad := none, nanSeen := false, killed := false, refused := none }

/-- A refused operation keeps its place: its handle is PENDING until it would have begun (R155 step 7). -/
def At.refuseOp (a : At) (s : State) (h addr : Nat) (d : List Word) (status : Nat) : Did :=
  let o : ArrOp := { a.newOp s h d 16 [] [] [] [] with reads := [], writes := [], refused := some status }
  let s := s.modCore a.core fun c => { c with nextSeq := c.nextSeq + 1 }
  let s := forEach (fun s i => s.modArray a.core i fun x => { x with queue := x.queue ++ [o] }) s (opArrays d)
  .done (a.modGroup s fun g => g.setH h (mkHandle 2 0 1 addr))

/-- Steps 6 and 7 of R155 on the captured descriptor: the checks in the order of R68, R69, R187 and R196; then the operation
joins its queues and the handle becomes PENDING. The layout descriptors' own bounds come first of all (R68 step 2, R211). -/
def At.queueOp (a : At) (s : State) (f : FormR) (h addr : Nat) (ws : List Word) : Did :=
  let d := ws.take 16
  let refuse (s : State) (st : Nat) : Did := a.refuseOp s h addr d st
  let lds := (if dSparse d then [] else [dALd d]) ++ [dBLd d] ++ (if dDest d = 0 then [dOLd d] else [])
  match lds.find? fun x => decide (a.b.ls < x + 64) with
  | some x => .fault s fBounds x
  | none =>
    if complementsOk 16 ws = false then refuse (s.badDescriptor a.core a.b.ctx (a.b.base + addr) 16 ws) 0x10
    else
      let map := s.arrayMap a.core
      if map.2 ≠ ~~~ map.1 then
        refuse ((s.integrity a.core 2 (some a.b.ctx) a.core (offArrayMap a.core) map.1 map.2).modCore a.core
          fun c => { c with mapCopy := none }) 0x10
      else
        let s := s.modCore a.core fun c => { c with mapCopy := some map }
        match lds.find? fun x => !complementsOk 8 (s.words (a.b.base + x) 16) with
        | some x => refuse (s.badDescriptor a.core a.b.ctx (a.b.base + x) 8 (s.words (a.b.base + x) 16)) 0x10
        | none =>
          let la := s.words (a.b.base + dALd d) 8
          let lb := s.words (a.b.base + dBLd d) 8
          let lo := s.words (a.b.base + dOLd d) 8
          let (xa, xb, xo) := (Layout.ofWords la, Layout.ofWords lb, Layout.ofWords lo)
          let w := opWidth map.1 d
          if fld (wordAt d 0) 24 8 ≠ 0xA1 then refuse s 0x11
          else if badArray map.1 a.b.wb d then refuse s 0x12
          else if badShape map.1 d xa xb xo then refuse s 0x13
          else if dPbm d && !(a.b.ctx == 0 && s.diag) then refuse (s.refusal a.core 2 (some a.b.ctx) []) 0x14
          else if badFmt d xa xb xo then refuse s 0x14
          else
            match (opReads d xa xb ++ opWrites d w xo).find? fun r => !inAlloc a.b.ls r with
            | some r => .fault s fBounds r.1
            | none =>
              if dSpoolEn d && !s.inSpool a.b.ctx (dSpoolId d) then .fault s fPermission 0
              else
                let p := a.shadow s f d
                let o := a.newOp p.1 h d w la lb lo p.2
                let s := p.1.modCore a.core fun c => { c with nextSeq := c.nextSeq + 1 }
                let s := forEach (fun s i => s.modArray a.core i fun x => { x with queue := x.queue ++ [o] }) s (opArrays d)
                .done (a.modGroup s fun g => g.setH h (mkHandle 2 0 1 addr))

/-- ARR.ISSUE (R155). -/
def execArrIssue (sg : SgRef) (f : FormR) (s : State) : Host.Outcome State Fault Refusal :=
  .next (s.issue sg f.g false false (plainR f)
    [.unused f.d, .srcIn f.a [.h], .srcIn f.b [.h, .zero], .unused f.c] fun a s => a.access s fun s =>
      let v := a.g.handle f.a
      let addr := hAddr v
      if pending v then .wait
      else if hState v = 0 ∨ addr % 128 ≠ 0 then .done (a.refuseHandle s (hNo f.a) 0x11 1 addr)
      else if a.b.ls < addr + 128 then .fault s fBounds addr
      else if (s.core a.core).conflict (a.b.base + addr) 128 false then .wait
      else
        let r := s.readMem (a.b.base + addr) 128
        match r.2 with
        | none => .fault r.1 fPoison addr
        | some bs =>
          let ws := wordsLE 32 bs
          if (opArrays (ws.take 16)).any fun i => decide (4 ≤ ((s.core a.core).array i).waiting.length) then .wait
          else a.queueOp r.1 f (hNo f.a) addr ws)

/-! ## Running -/

/-- Everything an operation feeds has been fed and converted. -/
def ArrOp.fedOut (o : ArrOp) : Bool :=
  if dSparse o.desc then o.bad.isSome || decide (dListLen o.desc ≤ o.entry)
  else o.fed.isEmpty && o.refeed.isEmpty && decide (opTiles o.desc o.width ≤ o.tile)

/-- Add cycles to the counters of the arrays an operation occupies (R71). -/
def State.arrCycles (s : State) (core : Nat) (arrs : List Nat) (cyc : ArrCycles) : State :=
  forEach (fun s i =>
    let s := (((s.count (offArr core i 0) cyc.busy).count (offArr core i 1) cyc.frozen).count (offArr core i 2) cyc.feed).count
      (offArr core i 3) cyc.drain
    if i = 2 then s.count (offArr core i 4) cyc.wbq else s) s arrs

/-- Change the copy of an operation that is being run: in the first array it occupies. -/
def State.modOp (s : State) (core arr seq : Nat) (f : ArrOp → ArrOp) : State :=
  s.modArray core arr fun x => { x with running := x.running.map fun o => if o.seq = seq then f o else o }

/-- The running operation whose tiles convert next. -/
def ArraySt.current (x : ArraySt) : Option ArrOp := x.running.find? fun o => !o.fedOut

/-- The array has fed and converted what it runs, and no chained operation occupies it still (R50, R61). -/
def ArraySt.drained (x : ArraySt) : Bool := x.running.all fun o => o.fedOut && !dChained o.desc

/-- Replay stages of an array that are held (R67: two of them). -/
def ArraySt.stagesHeld (x : ArraySt) : Nat := (x.running.map fun o => o.stages.length).sum

/-- ARRAY_OP_START (R50, R61, R155, R347): the first operation of the queue begins once the one before it has been fed and
converted and the array has its shape; a chained one waits for all three arrays and reconfigures them. One refused at issue
reports its status instead. `held` array-cycles of pacing are counted. -/
def execArrayOpStart (core arr held : Nat) (s : State) : Host.Outcome State Fault Refusal :=
  let c := s.core core
  match (c.array arr).queue with
  | [] => .next s
  | o :: _ =>
    let arrs := opArrays o.desc
    let first := arrs.headD 0
    let heads := arrs.all fun i => ((c.array i).queue.head?.map ArrOp.seq) == some o.seq
    let free := if dChained o.desc then arrs.all fun i => (c.array i).running.isEmpty
      else decide ((c.array arr).running.length < 2) && (c.array arr).drained
        && (o.refused.isSome || (c.array arr).shape == dShape o.desc)
    if !heads || !free || arr ≠ first || c.stopped then .next s
    else if let some st := o.refused then
      .next ((forEach (fun s i => s.modArray core i fun x => { x with queue := x.queue.tail }) s arrs).finishHandle core o.owner st 1)
    else
      let n := opTiles o.desc o.width
      let k := min n (opDepth o.desc o.width)
      let o' : ArrOp := if dSparse o.desc then o else { o with fed := List.range k, tile := k }
      let s := forEach (fun s i => ((s.abandon core i).progressed (.array core i)).modArray core i fun x =>
        { x with queue := x.queue.tail, running := x.running ++ [o'], shape := opShape o.desc }) s arrs
      let s := if dChained o.desc then s.arrCycles core arrs { busy := 8, frozen := 0, feed := 0, drain := 0, wbq := 0 } else s
      .next (if (s.part (core / 192)).guard = 0 ∨ s.power.duty < 8 then s.count (offPp (core / 192) 1) held else s)

/-- ARRAY_RECONFIGURE (R60): the array takes the shape that the next operation names, in 8 busy cycles. -/
def execArrayReconfigure (core arr : Nat) (s : State) : Host.Outcome State Fault Refusal :=
  let x := (s.core core).array arr
  match x.queue with
  | [] => .next s
  | o :: _ =>
    if dChained o.desc || o.refused.isSome || x.shape == dShape o.desc || !x.drained then .next s
    else
      let s := s.modArray core arr fun x => { x with shape := dShape o.desc }
      .next (s.arrCycles core [arr] { busy := 8, frozen := 0, feed := 0, drain := 0, wbq := 0 })

/-- An older access of the same core to what the operation reads or writes is still to come (R52, R210). -/
def Core.opBlocked (c : Core) (o : ArrOp) : Bool :=
  (o.reads.any fun r => c.conflictBefore o.seq r false) || o.writes.any fun r => c.conflictBefore o.seq r true

/-- The next tile of a running operation cannot convert (R52, R67): an older access to its ranges is to come, or both replay stages
of the array are held. Under REPLAY the converter writes a stage, and only the copy of a stage waits for the destination. -/
def Core.tileBlocked (c : Core) (arr : Nat) (o : ArrOp) : Bool :=
  if dReplay o.desc then (o.reads.any fun r => c.conflictBefore o.seq r false) || decide (2 ≤ (c.array arr).stagesHeld)
  else c.opBlocked o

/-- The conversion counts of kept conversions: the core's counters, the operation's own, and NUM_NAN at its first NaN
(R40, R41). -/
def State.opCounts (s : State) (core arr t : Nat) (o : ArrOp) (c : CvtCounts) : State :=
  let s := s.countCvt core c.sat c.infs c.nans
  let s := if c.nans ≠ 0 ∧ o.nanSeen = false then s.numNan core o.ctx t else s
  s.modOp core arr o.seq fun o =>
    { o with cvt := { sat := o.cvt.sat + c.sat, infs := o.cvt.infs + c.infs, nans := o.cvt.nans + c.nans }
             nanSeen := o.nanSeen || c.nans != 0 }

/-- Write an operation's bytes, and remember them as written (R70); pending samples they touch are discarded. -/
def State.opWrite (s : State) (core arr : Nat) (o : ArrOp) (ws : List BitWrite) : State :=
  let s := s.writeBitsAll ws
  let s := if ((s.core core).captures.any Option.isSome) then forEach (fun s w => s.touch core w.addr 1) s ws else s
  s.modOp core arr o.seq fun o => { o with done := ws.foldl (fun m w => Sparse.set (fun _ => false) m w.addr true) o.done }

/-- The tile's captured values, decoded exactly (R88, R89): codes with their exponents and scales, or FP32 sums. -/
def captureValues (rd : Nat → Byte) (o : ArrOp) (t : Nat) (s : Int) : List (Nat × Nat × FVal) :=
  (tileElems rd o t).map fun e =>
    let (r, c) := (e.2.2.1, e.2.2.2)
    let x := denseSum rd o r c
    let v :=
      if dOFmt o.desc = 7 then fdec x
      else if dOBlk o.desc = 0 then
        FVal.scale ((Fmt.ofCode (dOFmt o.desc)).decode (convertOne o s r c x).code) (-s)
      else
        let es := blockOf rd o r c
        let b := narrowBlock (Fmt.ofCode (dOFmt o.desc)) (es.map fun p => (fdec (denseSum rd o p.1 p.2), outRounding o p.1 p.2))
        let code := ((es.zip b.codes).findSome? fun p => if p.1 = (r, c) then some p.2 else none).getD 0
        applyScale ((Fmt.ofCode (dOFmt o.desc)).decode code) b.scale
    (r, c, v)

/-- A selected tile of a sampled operation is captured, or counted dropped (R85, R87, R88). -/
def State.captureTile (s : State) (core arr : Nat) (o : ArrOp) (t : Nat) (sx : Int) (vals : List (Nat × Nat × FVal)) : State :=
  if o.shadow.isEmpty then s
  else
    let _ := sx
    let r := s.readEntry (drogueEntry s o) 1
    match r.2 with
    | none => r.1
    | some ws =>
      let w := wordAt ws 0
      let k := fld w 24 5
      if bitAt w 31 && decide (4 ≤ k) && decide (k ≤ 16) && srBits (dSeed o.desc + t * 2 ^ 32) 256 % 2 ^ k == 0 then
        match ((r.1.core core).captures.findIdx? Option.isNone) with
        | none => r.1.drogueAdd o 2 1
        | some slot =>
          let cap : Capture := { op := o, tile := t, vals := vals, wide := [], phase := .captured, abandoned := 0, arr := arr }
          r.1.modCore core fun c => { c with captures := c.captures.set slot (some cap) }
      else r.1

/-- A poisoned read of an operation: a POISON fault stops it (R126, R176). -/
def State.opFault (s : State) (core arr : Nat) (o : ArrOp) (a : Nat) : State :=
  let h := (s.group core o.owner.1 o.owner.2.1).hreg o.owner.2.2
  (s.modOp core arr o.seq fun o => { o with killed := true }).engineFault core o.ctx fPoison core
    (o.owner.2.1 + 16 * o.owner.2.2) (hAddr h) a

/-- A double-bit error in what the operation reads (R176). -/
def State.opPoison (s : State) (core arr : Nat) (o : ArrOp) (a : Nat) : State := (s.sramDbe a).opFault core arr o a

/-- The first double-bit error in a list of ranges, after single-bit ones are corrected. -/
def State.eccRanges (s : State) (rs : List Range) : State × Option Nat :=
  rs.foldl (fun (p : State × Option Nat) r =>
    let q := p.1.eccRange r.base r.len
    (q.1, if p.2.isNone && q.2 then some r.base else p.2)) (s, none)

/-- The next tile enters the array behind those already fed, unless a discarded tile waits to be fed again (R67). -/
def ArrOp.feedNext (o : ArrOp) : ArrOp :=
  if o.refeed.isEmpty && decide (o.tile < opTiles o.desc o.width) then { o with fed := o.fed ++ [o.tile], tile := o.tile + 1 } else o

/-- Addresses of the block scales that the next tile, or sparse pass, of an operation takes to the feeder (R25). -/
def opScales (rd : Nat → Byte) (o : ArrOp) : List Nat :=
  let d := o.desc
  let la := Layout.ofWords o.la
  let lb := Layout.ofWords o.lb
  let e := bExtents d lb
  let bScale (k j : Nat) : List Nat :=
    let p := if dTransB d then (j, k) else (k, j)
    ((operandScale d 1 (dBBlk d) lb p.1 p.2 k j e.1 e.2).map fun x => o.base + dBBase d + 64 * lb.scaleOff + x).toList
  if dSparse d then
    (passEntries rd o none o.entry 16).flatMap fun p =>
      (if dABlk d = 0 then [] else [o.base + dABase d + dListLen d * segBytes d + p.1])
        ++ (List.range (min 16 (dK d - 16 * p.2.1))).flatMap fun q => (List.range (dN d)).flatMap fun j => bScale (16 * p.2.1 + q) j
  else
    match o.fed with
    | [] => []
    | t :: _ =>
      (List.range (dK d)).flatMap fun k =>
        ((List.range (tileRows o t).2).flatMap fun i =>
          let r := (tileRows o t).1 + i
          ((operandScale d 0 (dABlk d) la r k k r la.cols la.rows).map fun x => o.base + dABase d + 64 * la.scaleOff + x).toList)
        ++ (List.range (tileCols o t).2).flatMap fun j => bScale k ((tileCols o t).1 + j)

/-- One mismatch of a block scale at the feeder (R187, R387 INTEGRITY cause 6): the value as it arrived and its complement
are free values (log 2). -/
def State.scaleEvent (s : State) (core : Nat) (o : ArrOp) (a : Nat) : State :=
  let d := s.draw
  d.2.integrity core 6 (some o.ctx) core a (Config.freeWord d.1) (Config.freeWord (d.1 + 1))

/-- The check of the block scales of the next tile at the feeder (R25, R187): a first mismatch re-fetches the scale in a frozen
cycle; a second is a poisoned read. The address of such a scale, if any, and the frozen cycles. -/
def State.checkScales (s : State) (core : Nat) (o : ArrOp) : State × Option Nat × Nat :=
  if s.scaleBad.isEmpty then (s, none, 0)
  else
    let need := opScales s.byte o
    (s.scaleBad.filter fun e => need.contains e.1).foldl (fun (p : State × Option Nat × Nat) e =>
      let s : State := { p.1 with scaleBad := Sparse.set (fun _ => 0) p.1.scaleBad e.1 (e.2 - 2) }
      if e.2 = 1 then (s.scaleEvent core o e.1, p.2.1, p.2.2 + 1)
      else ((s.scaleEvent core o e.1).scaleEvent core o e.1, p.2.1.or (some e.1), p.2.2 + 1)) (s, none, 0)

/-- One dense tile converts (R67, R78, R79): discarded for replay, staged, or written. Its operands are memory as it stands now;
the spec orders no write of another core against the feeding of a tile (R52; DESIGN CHOICE, log 89). -/
def State.convertDense (s : State) (core arr : Nat) (o : ArrOp) (t : Nat) : State :=
  let rb := (tileBlocks o t).1
  let o := { o with rowBits := Sparse.set (fun _ => 0) o.rowBits rb (2 ^ 16 + rowBitsAt s.byte o rb), fed := o.fed.tail }
  let again := Sparse.get (fun _ => 0) o.refed t ≠ 0
  let sx := tileS o t
  let out := if dWb o.desc then wbTile s.byte core o t else tileOutput s.byte o t sx
  match (if dReplay o.desc && !again then out.overflowed else none) with
  | some m =>
    let mu := min (FVal.log2 m - (Fmt.ofCode (dOFmt o.desc)).emax) 15
    let s' := max (sx - mu - 1) (-127)
    s.modOp core arr o.seq fun _ =>
      { o with refeed := o.refeed ++ [t], refed := Sparse.set (fun _ => 0) o.refed t (256 + toTwos 8 s') }
  | none =>
    let clamp := again && out.overflowed.isSome
    let o := o.feedNext
    let o := if clamp then { o with clamped := o.clamped + 1, clampS := toTwos 8 sx } else o
    let vals := captureValues s.byte o t sx
    let s := s.modOp core arr o.seq fun _ => if dReplay o.desc then { o with stages := o.stages ++ [{ tile := t, writes := out.writes }] } else o
    let s := if dReplay o.desc then s else s.opWrite core arr o out.writes
    (s.opCounts core arr t o out.cvt).captureTile core arr o t sx vals

/-- One pass of a sparse operation is added into the wide buffer, entry by entry in list order (R63). SEGMENTS counts every
entry of the pass, those of rows that ROW_ENABLE or the row mask leaves out among them (R70 does not say; DESIGN CHOICE,
log 89). -/
def State.convertPass (s : State) (core arr : Nat) (o : ArrOp) (es : List (Nat × Nat × Nat)) : State :=
  let xs := passSums s.byte o es
  let s := s.modOp core arr o.seq fun o =>
    { o with entry := o.entry + es.length, tile := o.tile + 1, segments := o.segments + es.length }
  let s := (s.count (offArr core 2 5) 1).count (offArr core 2 6) es.length
  forEach (fun s x =>
    let out := wbWrites s.byte core o [x]
    let cur := (((s.core core).array arr).running.find? fun q => q.seq == o.seq).getD o
    (s.opWrite core arr o out.writes).opCounts core arr o.tile cur out.cvt) s xs

/-- TILE_CONVERT_DONE (R67): the last row of the next tile, or sparse pass, of array `arr` converts. It waits while an older
access of the core to the operation's ranges is to come, or both replay stages are held (R52). Block scales are checked as they
reach the feeder (R25, R187). -/
def execTileConvertDone (core arr : Nat) (cyc : ArrCycles) (s : State) : Host.Outcome State Fault Refusal :=
  let c := s.core core
  match (c.array arr).current with
  | none => .next s
  | some o =>
    if o.killed || c.tileBlocked arr o || (opArrays o.desc).headD 0 ≠ arr then .next s
    else
      let e := s.eccRanges (o.reads ++ (if dDest o.desc = 2 then o.writes else []))
      match e.2 with
      | some a => .next (e.1.opPoison core arr o a)
      | none =>
        let q := e.1.checkScales core o
        match q.2.1 with
        | some a => .next (q.1.opFault core arr o a)
        | none =>
          let cyc := { cyc with frozen := cyc.frozen + q.2.2 }
          let s := ((q.1.progressed (.array core arr)).arrCycles core (opArrays o.desc) cyc).modOp core arr o.seq
            fun o => { o with freeze := o.freeze + cyc.frozen }
          let o := { o with freeze := o.freeze + cyc.frozen }
          if dSparse o.desc then
            match passEntries s.byte o none o.entry 16 with
            | [] => .next e.1
            | es => .next (s.convertPass core arr o es)
          else
            match o.fed with
            | [] => .next e.1
            | t :: _ => .next (s.convertDense core arr o t)

/-- TILE_REFEED (R67): a discarded tile is fed again behind the tiles already fed; it counts as a replay, a chained operation's
in the ARR_REPLAYS of all three arrays (R71 does not say; DESIGN CHOICE, log 89). -/
def execTileRefeed (core arr : Nat) (s : State) : Host.Outcome State Fault Refusal :=
  match ((s.core core).array arr).current with
  | none => .next s
  | some o =>
    match o.refeed with
    | [] => .next s
    | t :: rest =>
      if o.killed then .next s
      else
        let s := (s.progressed (.array core arr)).modOp core arr o.seq fun o =>
          { o with refeed := rest, fed := o.fed ++ [t], replays := o.replays + 1 }
        .next (forEach (fun s i => s.count (offArr core i 7) 1) s (opArrays o.desc))

/-- REPLAY_STAGE_COPY (R67): the oldest held stage is copied to its destination, then released. -/
def execReplayStageCopy (core arr : Nat) (s : State) : Host.Outcome State Fault Refusal :=
  let c := s.core core
  match (c.array arr).running.find? fun o => !o.stages.isEmpty with
  | none => .next s
  | some o =>
    match o.stages with
    | [] => .next s
    | st :: rest =>
      if o.killed || (o.writes.any fun r => c.conflictBefore o.seq r true) then .next s
      else
        let s := (s.progressed (.array core arr)).modOp core arr o.seq fun o => { o with stages := rest }
        .next (s.opWrite core arr o st.writes)

/-- SPARSE_BADLIST (R65): an invalid list entry reaches the feeder; the entries before it have been fed. -/
def execSparseBadlist (core : Nat) (s : State) : Host.Outcome State Fault Refusal :=
  match ((s.core core).array 2).current with
  | none => .next s
  | some o =>
    if dSparse o.desc && !o.killed && !(s.core core).opBlocked o && entryBad o (listEntry s.byte o o.entry) then
      .next (s.modOp core 2 o.seq fun o => { o with bad := some o.entry })
    else .next s

/-- The tile exponent table and the smallest exponent in it (R80). -/
def expTable (o : ArrOp) : List Int := (List.range (opTiles o.desc o.width)).map (tileS o)
def replayS (o : ArrOp) : Int := if dReplay o.desc then (expTable o).foldl min (dS o.desc) else dS o.desc

/-- The completion record (R70). -/
def opRecord (o : ArrOp) : List Word :=
  let status := if o.bad.isSome then 0x20 else 0
  [BitVec.ofNat 32 (toTwos 8 (replayS o) * 2 ^ 16 + min o.replays 255 * 2 ^ 8 + status), BitVec.ofNat 32 o.freeze
   , BitVec.ofNat 32 o.cvt.sat, BitVec.ofNat 32 o.cvt.infs, BitVec.ofNat 32 o.cvt.nans
   , BitVec.ofNat 32 (if dSparse o.desc then o.tile else 0), BitVec.ofNat 32 o.segments, BitVec.ofNat 32 (o.bad.getD 0)]

/-- ARRAY_OP_COMPLETE (R70, R80): the record and the tile exponent table are written, the handle becomes DONE, and the spool
counter rises by the distinct bytes written. No check asks that COMPL be a multiple of 32: the record stands where it says
(R68; DESIGN CHOICE, log 89). -/
def execArrayOpComplete (core arr : Nat) (cyc : ArrCycles) (s : State) : Host.Outcome State Fault Refusal :=
  let c := s.core core
  match (c.array arr).running with
  | [] => .next s
  | o :: _ =>
    if !o.fedOut || !o.stages.isEmpty || o.killed || c.opBlocked o || (opArrays o.desc).headD 0 ≠ arr then .next s
    else
      let s := (s.progressed (.array core arr)).arrCycles core (opArrays o.desc) cyc
      let o := { o with freeze := o.freeze + cyc.frozen }
      let table := if dReplay o.desc then (expTable o).map fun x => BitVec.ofNat 8 (toTwos 8 x) else []
      let bs := bytesOfWords (opRecord o) ++ table
      let s := (s.writeMem (o.base + dCompl o.desc) bs).touch core (o.base + dCompl o.desc) bs.length
      let s := if o.clamped = 0 then s else s.report core 2 2 (some o.ctx) core
        [BitVec.ofNat 32 core, BitVec.ofNat 32 o.ctx, BitVec.ofNat 32 o.clamped, BitVec.ofNat 32 o.clampS]
      let s := s.finishHandle core o.owner (if o.bad.isSome then 0x20 else 0) 1
      let s := if dSpoolEn o.desc then s.spoolAdd (dSpoolId o.desc) o.done.length else s
      .next (forEach (fun s i => s.modArray core i fun x => { x with running := x.running.filter fun q => q.seq != o.seq }) s
        (opArrays o.desc))

end Sys2Proof.Machine
end

