-- ==== Sys2Proof/Machine/AtomicOps.lean ====
section
/-! DEFINITION. Atomic operations on a value (spec/06, R123, R124; spec/07, R148), shared by AOP and by ATOMIC packets. -/
namespace Sys2Proof.Machine

/-- Bits of a type code (R148): 2 u64 and 3 i64 have 64. -/
def atomBits (ty : Nat) : Nat := if ty = 2 ∨ ty = 3 then 64 else 32

/-- An operation and type that R148 allows. -/
def atomOk (op ty : Nat) : Bool := ty ≤ 3 && op ≤ 7 || (ty == 4 && op ≤ 2)

/-- Operations 0 to 5 as functions of two values; 6 exchanges. -/
def atomApply (op ty a b : Nat) : Nat :=
  if ty = 4 then
    (if op = 0 then fadd (BitVec.ofNat 32 a) (BitVec.ofNat 32 b)
      else if op = 1 then fminW (BitVec.ofNat 32 a) (BitVec.ofNat 32 b)
      else fmaxW (BitVec.ofNat 32 a) (BitVec.ofNat 32 b)).toNat
  else
    match op with
    | 0 => (a + b) % 2 ^ atomBits ty
    | 1 => minMax false (ty % 2 == 1) (atomBits ty) a b
    | 2 => minMax true (ty % 2 == 1) (atomBits ty) a b
    | 3 => a &&& b
    | 4 => a ||| b
    | 5 => a ^^^ b
    | _ => b

/-- The value that memory holds afterwards: compare-and-swap (7) stores `b` where memory holds `c`. -/
def atomNew (op ty old b c : Nat) : Nat :=
  if op = 7 then (if old = c then b else old) else atomApply op ty old b

/-- Combine values over the fixed tree on lane index (R123): `2^k` lanes from `lo` on. -/
def atomTree (op ty : Nat) (v : Nat → Option Nat) : Nat → Nat → Option Nat
  | 0, lo => v lo
  | k + 1, lo =>
    match atomTree op ty v k lo, atomTree op ty v k (lo + 2 ^ k) with
    | some a, some b => some (atomApply op ty a b)
    | some a, none => some a
    | none, b => b

/-- The prefix of the lanes below `i`, lane by lane (R124): none when there are none, or for an FP32 add. -/
def atomPrefix (op ty : Nat) (v : Nat → Option Nat) (i : Nat) : Option Nat :=
  if ty = 4 ∧ op = 0 then none
  else (List.range i).foldl (fun a j =>
    match a, v j with
    | some x, some y => some (atomApply op ty x y)
    | none, y => y
    | x, none => x) none

/-- The value returned to a lane whose prefix is `p` (R124). -/
def atomReturn (op ty old : Nat) (p : Option Nat) : Nat :=
  match p with
  | some x => atomApply op ty old x
  | none => old

end Sys2Proof.Machine
end

