-- ==== Sys2Proof/Machine/SaveLoad.lean ====
section
/-! DEFINITION. Compressed save regions (spec/05, R97 to R101): the canonical encoding of a tile, decoding, and the layout of a
region. -/
namespace Sys2Proof.Machine

/-- Formats of the compressed save path (R97): BF16, FP16, E4M3, E5M2. -/
def saveFmt (l : Layout) : Bool := decide (l.fmtc < 4) && l.blk == 0

/-- Bytes of one code. -/
def codeSize (f : Fmt) : Nat := f.width / 8

/-- Runs of a tile's codes (R98, R99): maximal runs of zero and of other codes, in pieces of at most 128. -/
def encodeRuns (w : Nat) : Nat → List Nat → List Byte
  | 0, _ => []
  | _ + 1, [] => []
  | n + 1, c :: cs =>
    let zero := c == 0
    let run := ((c :: cs).takeWhile fun x => (x == 0) == zero).take 128
    let ctl := BitVec.ofNat 8 ((if zero then 0 else 0x80) + (run.length - 1))
    (ctl :: (if zero then [] else run.flatMap fun x => bytesLE w x)) ++ encodeRuns w n ((c :: cs).drop run.length)

/-- A tile's chunk (R99): KIND and bytes, padded with zeros to 32 bytes. -/
def tileChunk (w : Nat) (codes : List Nat) : Nat × List Byte :=
  let enc := encodeRuns w codes.length codes
  let raw := codes.flatMap fun x => bytesLE w x
  let r := if raw.length < enc.length then (1, raw) else (0, enc)
  (r.1, r.2 ++ List.replicate ((32 - r.2.length % 32) % 32) 0)

/-- Decode the runs that start at `p` of a chunk area of `used` bytes until `left` elements are covered (R98, R101): none
when a run crosses the tile's end or leaves the area. -/
def decodeRuns (rd : Nat → Byte) (w used : Nat) : Nat → Nat → Nat → Option (List Nat)
  | 0, _, left => if left = 0 then some [] else none
  | n + 1, p, left =>
    if left = 0 then some []
    else if used ≤ p then none
    else
      let ctl := (rd p).toNat
      let k := ctl % 128 + 1
      if left < k then none
      else if ctl < 128 then (decodeRuns rd w used n (p + 1) (left - k)).map fun r => List.replicate k 0 ++ r
      else if used < p + 1 + k * w then none
      else
        let lits := (List.range k).map fun i => natLE ((List.range w).map fun j => rd (p + 1 + i * w + j))
        (decodeRuns rd w used n (p + 1 + k * w) (left - k)).map fun r => lits ++ r

/-- Decode a tile from its directory entry; `rd` reads the chunk area from 0. -/
def decodeTile (rd : Nat → Byte) (w used : Nat) (entry : Word) : Option (List Nat) :=
  let kind := fld entry 28 4
  let p := 32 * fld entry 0 28
  if kind = 0 then decodeRuns rd w used 256 p 256
  else if kind = 1 then
    (if p + 256 * w ≤ used then some ((List.range 256).map fun i => natLE ((List.range w).map fun j => rd (p + i * w + j)))
     else none)
  else none

/-- Start of the chunk area from a region's base (R97). -/
def chunkArea (tiles : Nat) : Nat := (64 + 4 * tiles + 31) / 32 * 32

/-- The codes of stored tile `t` of a BLOCKED tensor, in element-index order. -/
def storedTile (rd : Nat → Byte) (l : Layout) (base t : Nat) : List Nat :=
  (List.range 256).map fun e => readBits rd (base + t * tileBytes l.fmt) (e * l.fmt.width) l.fmt.width

/-- What a save writes: bytes by offset from the region's base, chunk units used, and the tile that did not fit. -/
structure Saved where
  parts : List (Nat × List Byte)
  used : Nat
  full : Option Nat
  deriving DecidableEq, Repr

/-- Encode tiles from `t` on; `pos` is the chunk area used so far (R99, R100). -/
def saveTiles (rd : Nat → Byte) (l : Layout) (base tiles len : Nat) : Nat → Nat → Nat → Saved
  | 0, _, pos => { parts := [], used := pos / 32, full := none }
  | n + 1, t, pos =>
    let c := tileChunk (codeSize l.fmt) (storedTile rd l base t)
    let area := chunkArea tiles
    if len < area + pos + c.2.length then
      { parts := (List.range (n + 1)).map fun i => (64 + 4 * (t + i), bytesLE 4 0xF0000000)
        used := pos / 32, full := some t }
    else
      let r := saveTiles rd l base tiles len n (t + 1) (pos + c.2.length)
      { r with parts := (64 + 4 * t, bytesLE 4 (c.1 * 2 ^ 28 + pos / 32)) :: (area + pos, c.2) :: r.parts }

/-- The header (R97). -/
def saveHeader (tiles texp fmt used lenUnits : Nat) : List Byte :=
  bytesOfWords (withComplements [BitVec.ofNat 32 tiles, BitVec.ofNat 32 (texp * 2 ^ 16 + fmt), BitVec.ofNat 32 used,
    BitVec.ofNat 32 lenUnits]) ++ List.replicate 32 0

/-- A whole save (R97 to R100): the header is written last. -/
def saveRegion (rd : Nat → Byte) (l : Layout) (base texp lenUnits : Nat) : Saved :=
  let r := saveTiles rd l base l.tiles (32 * lenUnits) l.tiles 0 0
  { r with parts := r.parts ++ [(0, saveHeader l.tiles texp l.fmtc r.used lenUnits)] }

/-- Decode tiles from `t` on until one fails (R101): the tiles decoded, and the tile that failed. -/
def loadTiles (rd : Nat → Byte) (w tiles used : Nat) : Nat → Nat → List (Nat × List Nat) × Option Nat
  | 0, _ => ([], none)
  | n + 1, t =>
    let entry : Word := BitVec.ofNat 32 (natLE ((List.range 4).map fun i => rd (64 + 4 * t + i)))
    match (if t < tiles then decodeTile (fun i => rd (chunkArea tiles + i)) w used entry else none) with
    | none => ([], some t)
    | some codes =>
      let r := loadTiles rd w tiles used n (t + 1)
      ((t, codes) :: r.1, r.2)

/-- The header words of a region whose bytes `rd` reads from its base. -/
def regionHead (rd : Nat → Byte) : List Word := wordsLE 8 ((List.range 32).map rd)

/-- The header passes the checks of R101 for a load into layout `l`. -/
def headOk (ws : List Word) (l : Layout) : Bool := complementsOk 4 ws && fld (wordAt ws 1) 0 3 == l.fmtc

/-- A whole load (R101): tiles decoded, the tile that failed, TEXP. -/
def loadRegion (rd : Nat → Byte) (l : Layout) : List (Nat × List Nat) × Option Nat × Nat :=
  let ws := regionHead rd
  if headOk ws l then
    let r := loadTiles rd (codeSize l.fmt) (fld (wordAt ws 0) 0 25) (32 * (wordAt ws 2).toNat) l.tiles 0
    (r.1, r.2, fld (wordAt ws 1) 16 8)
  else ([], some 0, fld (wordAt ws 1) 16 8)

end Sys2Proof.Machine
end

