-- ==== Sys2Proof/Machine/Stream.lean ====
section
/-! DEFINITION. Issuing stream-engine copies (spec/09, R157, R197 to R211, R217): descriptor fields, the checks at issue, the
element moves of a copy. -/
namespace Sys2Proof.Machine

/-! ## Descriptor fields (R197) -/

def cMode (d : List Word) : Nat := fld (wordAt d 0) 21 3
def cPerm (d : List Word) : Nat := fld (wordAt d 0) 18 3
def cPad (d : List Word) : Bool := bitAt (wordAt d 0) 17
def cZsR (d : List Word) : Bool := bitAt (wordAt d 0) 16
def cZsC (d : List Word) : Bool := bitAt (wordAt d 0) 15
def cSSpace (d : List Word) : Nat := fld (wordAt d 0) 12 2
def cDSpace (d : List Word) : Nat := fld (wordAt d 0) 10 2
def cSpoolEn (d : List Word) : Bool := bitAt (wordAt d 0) 9
def cSLd (d : List Word) : Nat := 64 * fld (wordAt d 1) 19 13
def cDLd (d : List Word) : Nat := 64 * fld (wordAt d 1) 0 13
def cSAddr (d : List Word) : Nat := dwordAt d 2
def cDAddr (d : List Word) : Nat := dwordAt d 4
def cSR0 (d : List Word) : Int := signedOf 32 (wordAt d 6).toNat
def cSC0 (d : List Word) : Int := signedOf 32 (wordAt d 7).toNat
def cDR0 (d : List Word) : Nat := fld (wordAt d 8) 0 24
def cTexp (d : List Word) : Nat := fld (wordAt d 8) 0 8
def cDC0 (d : List Word) : Nat := fld (wordAt d 9) 0 24
def cBoxR (d : List Word) : Nat := fld (wordAt d 10) 16 16
def cBoxC (d : List Word) : Nat := fld (wordAt d 10) 0 16
def cPadv (d : List Word) : Nat := fld (wordAt d 11) 16 16
def cOuter (d : List Word) : Nat := fld (wordAt d 11) 0 16
def cSStride (d : List Word) : Nat := 64 * (wordAt d 12).toNat
def cDStride (d : List Word) : Nat := 64 * (wordAt d 13).toNat
def cLen (d : List Word) : Nat := (wordAt d 13).toNat
def cListLen (d : List Word) : Nat := fld (wordAt d 14) 19 13
def cListBase (d : List Word) : Nat := fld (wordAt d 14) 0 19
def cSpoolId (d : List Word) : Nat := fld (wordAt d 15) 14 14
def cCompl (d : List Word) : Nat := 32 * fld (wordAt d 15) 0 14
/-- GATHER or SCATTER (R202). -/
def cListed (d : List Word) : Bool := cMode d == 1 || cMode d == 2
def cSave (d : List Word) : Bool := cMode d == 3
def cLoad (d : List Word) : Bool := cMode d == 4

/-- The index (0 outer, 1 row, 2 column of the destination) that PERM sends to the source's outer, row and column (R198). -/
def permOf (p : Nat) : Nat × Nat × Nat :=
  match p with
  | 1 => (0, 2, 1) | 2 => (1, 0, 2) | 3 => (2, 0, 1) | 4 => (1, 2, 0) | 5 => (2, 1, 0) | _ => (0, 1, 2)

/-- The extent, or the value, of destination dimension `i`. -/
def dim3 (x : Nat × Nat × Nat) (i : Nat) : Nat := if i = 0 then x.1 else if i = 1 then x.2.1 else x.2.2

def cDims (d : List Word) : Nat × Nat × Nat := (cOuter d, cBoxR d, cBoxC d)

/-- Source slices that a copy names (R200). -/
def cSlices (d : List Word) : Nat := if cListed d || cSStride d == 0 then 1 else dim3 (cDims d) (permOf (cPerm d)).1

/-- Source row and column extents of a copy's box. -/
def cRowExt (d : List Word) : Nat := if cZsR d then 1 else dim3 (cDims d) (permOf (cPerm d)).2.1
def cColExt (d : List Word) : Nat := if cZsC d then 1 else dim3 (cDims d) (permOf (cPerm d)).2.2

/-- Some source index of a copy in COPY mode is clamped (R199). -/
def cClamped (d : List Word) (ls : Layout) : Bool :=
  decide (cSR0 d < 0) || decide (cSC0 d < 0) || decide ((ls.rows : Int) < cSR0 d + cRowExt d)
    || decide ((ls.cols : Int) < cSC0 d + cColExt d)

/-- The block conditions of R201 along the source's reduction axis for a box at (r0, c0) of `nr` x `nc`. -/
def blocksKept (d : List Word) (ls : Layout) (r0 c0 : Int) (nr nc : Nat) : Bool :=
  ls.blk == 0 ||
    let bs := blkSize ls.blk
    let (zero, o, n, lim) := if ls.rax then (cZsR d, r0, nr, ls.rows) else (cZsC d, c0, nc, ls.cols)
    !zero && decide (0 ≤ o) && o % bs == 0 && decide (o + n ≤ lim)

/-- PERM maps the source's reduction axis onto the destination's (R201). -/
def axesMatch (d : List Word) (ls ld : Layout) : Bool :=
  ls.blk == 0 || decide (6 ≤ cPerm d) ||
    (let p := permOf (cPerm d)
     (if ls.rax then p.2.1 else p.2.2) == (if ld.rax then 1 else 2))

/-! ## Checks at issue (R211) -/

/-- Form, base and high word of one side of a copy (R194, R197, R211): `reg` marks the region side of SAVE and LOAD. -/
def sideBad (reg : Bool) (l : Layout) (space addr : Nat) : Bool :=
  if reg then space != 2 || addr % 4096 != 0
  else
    l.invalid (decide (space ≤ 1)) || addr % (if l.skewed then 512 else 64) != 0
      || (space != 2 && decide (2 ^ 32 ≤ addr))

/-- BADLAYOUT (R97, R192, R197, R198, R201, R208, R211). -/
def copyBadLayout (d : List Word) (ls ld : Layout) : Bool :=
  sideBad (cLoad d) ls (cSSpace d) (cSAddr d) || sideBad (cSave d) ld (cDSpace d) (cDAddr d)
    || (if cSave d || cLoad d then
          let l := if cSave d then ls else ld
          l.skewed || (cSave d && decide (2 ^ 24 < l.tiles)) || cOuter d != 1 || cPerm d != 0 || cZsR d || cZsC d
        else
          ls.fmtc != ld.fmtc || ls.blk != ld.blk || !axesMatch d ls ld
            || (cMode d == 0 && decide (cPerm d < 6) && !blocksKept d ls (cSR0 d) (cSC0 d) (cRowExt d) (cColExt d)))

/-- BADFMT (R97, R208). The format and block of the tensor side of a save or load are read whatever else is wrong with
its layout; R211 reports BADLAYOUT first. -/
def copyBadFmt (d : List Word) (ls ld : Layout) : Bool :=
  (cSave d && (!saveFmt ls || cTexp d == 0x80)) || (cLoad d && !saveFmt ld)

/-- BADBOX (R198 to R200, R202). -/
def copyBadBox (d : List Word) (ld : Layout) : Bool :=
  !(cSave d || cLoad d) &&
    (decide (6 ≤ cPerm d) || cOuter d == 0 || cBoxR d == 0 || cBoxC d == 0
      || (cListed d && (cListLen d == 0 || decide (4096 < cListLen d) || cPerm d != 0 || cOuter d != 1 || cZsR d || cZsC d))
      || (cDStride d == 0 && decide (1 < cOuter d))
      || (cMode d != 2 && (decide (ld.rows < cDR0 d + cBoxR d * (if cMode d = 1 then cListLen d else 1))
            || decide (ld.cols < cDC0 d + cBoxC d))))

/-- The member of a block train with a given rank, while its allocation is held (R108). -/
def State.member (s : State) (core : Nat) (b : Block) (rank : Nat) : Option Block :=
  (List.range 16).findSome? fun i =>
    (s.core (core / 16 * 16 + i)).blocks.findSome? fun p =>
      match p.2 with
      | some x => if x.launch = b.launch ∧ x.train = b.train ∧ x.trank = rank then some x else none
      | none => none

/-- Where a side's base lies: physical for LS, CL and WB, virtual for VA; none for a rank without an allocation. -/
def State.sideBase (s : State) (core : Nat) (b : Block) (space addr : Nat) : Option Nat :=
  match space with
  | 0 => some (b.base + addr)
  | 1 => (s.member core b (addr / 2 ^ 19)).map fun x => x.base + addr % 2 ^ 19
  | 2 => some addr
  | _ => some (wbBase core + addr)

/-- `len` bytes at `addr` of an LS, CL or WB space lie where the block may reach (R108, R145, R211). -/
def State.inSpace (s : State) (core : Nat) (b : Block) (space addr len : Nat) : Bool :=
  match space with
  | 0 => decide (addr + len ≤ b.ls)
  | 1 => match s.member core b (addr / 2 ^ 19) with
    | some x => decide (addr % 2 ^ 19 + len ≤ x.ls)
    | none => false
  | 2 => true
  | _ => b.wb && decide (addr + len ≤ 65536)

/-- Bytes from the base to the last byte of a side (R206); `hdr` is the length of a region, in bytes. -/
def copySpan (d : List Word) (l : Layout) (dst : Bool) (hdr : Nat) : Nat :=
  if dst then
    (if cSave d then 32 * cLen d else if cLoad d || cListed d then l.span else (cOuter d - 1) * cDStride d + l.span)
  else if cLoad d then hdr else if cSave d then l.span else (cSlices d - 1) * cSStride d + l.span

/-- Ranges of a side that hold stored tiles or scale planes, slice by slice, as offsets from its base. -/
def copySlices (d : List Word) (l : Layout) (dst : Bool) (hdr : Nat) : List (Nat × Nat) :=
  let n := if dst then (if cSave d || cLoad d || cListed d then 1 else cOuter d)
    else (if cSave d || cLoad d then 1 else cSlices d)
  let st := if dst then cDStride d else cSStride d
  if dst && cSave d then [(0, 32 * cLen d)]
  else if !dst && cLoad d then [(0, hdr)]
  else (List.range n).flatMap fun i =>
    [(i * st, l.elemBytes)] ++ (if l.blk = 0 then [] else [(i * st + 64 * l.scaleOff, l.planeBytes)])

/-- A footprint range: granules of local store and wide buffer, 64-byte blocks of memory (R210). -/
def footprint (space ctx base len : Nat) : Range :=
  if space = 2 then { base := vaKey ctx (base / 64 * 64), len := if len = 0 then 0 else (base + len + 63) / 64 * 64 - base / 64 * 64 }
  else granules base len

/-- A pure move (R207). -/
def pureMove (d : List Word) (ls : Layout) : Bool :=
  cMode d == 0 && cPerm d == 0 && !cZsR d && !cZsC d && cSStride d != 0 && !cClamped d ls

/-- OVERLAP (R206, R207): same space, a common byte, and no pure move. -/
def copyOverlap (d : List Word) (ls : Layout) (sb db : Option Nat) (sn dn : Nat) : Bool :=
  !pureMove d ls && ((cSSpace d == 2) == (cDSpace d == 2)) &&
    match sb, db with
    | some x, some y => overlaps x sn y dn
    | _, _ => false

/-- LEN of the region that a LOAD names, in bytes, by its header's words (R97, R206); a header whose complements do not match is
not acted on (R101) and counts as 64 bytes. -/
def headLen (ws : List Word) : Nat := if complementsOk 4 ws then 32 * (wordAt ws 3).toNat else 64

/-- The first failing byte of a VA side (R178, R179, R211). -/
def State.vaFault (s : State) (core ctx base : Nat) (need : Need) (rs : List (Nat × Nat)) : State × Option (Nat × Nat) :=
  rs.foldl (fun (p : State × Option (Nat × Nat)) r =>
    match p.2 with
    | some _ => p
    | none =>
      let q := p.1.translateRange core ctx ((base + r.1) % 2 ^ 64) r.2 need
      match q.2 with
      | .error e => (q.1, some e)
      | .ok _ => (q.1, none)) (s, none)

/-- The faults of R211, checked after every status: class and address. -/
def State.copyFault (s : State) (a : At) (d : List Word) (ls ld : Layout) (sn dn hdr : Nat) : State × Option (Nat × Nat) :=
  let ranges : List (Nat × Nat) := [(cCompl d, 32)] ++ (if cListed d then [(cListBase d, 8 * cListLen d)] else [])
  match ranges.find? fun r => !inAlloc a.b.ls r with
  | some r => (s, some (fBounds, r.1))
  | none =>
    if s.inSpace a.core a.b (cSSpace d) (cSAddr d) sn = false then (s, some (fBounds, cSAddr d))
    else if s.inSpace a.core a.b (cDSpace d) (cDAddr d) dn = false then (s, some (fBounds, cDAddr d))
    else
      let p := if cSSpace d = 2 then s.vaFault a.core a.b.ctx (cSAddr d) .read (copySlices d ls false hdr) else (s, none)
      match p.2 with
      | some e => (p.1, some e)
      | none =>
        let q := if cDSpace d = 2 then p.1.vaFault a.core a.b.ctx (cDAddr d) .write (copySlices d ld true hdr) else (p.1, none)
        match q.2 with
        | some e => (q.1, some e)
        | none => if cSpoolEn d && !q.1.inSpool a.b.ctx (cSpoolId d) then (q.1, some (fPermission, 0)) else (q.1, none)

/-- Accesses of the core to another module that wait for their answer: writes (stores, atomics, lines written back) to a range,
or any access to it (R210). -/
def State.inFlight (s : State) (core : Nat) (writes : Bool) (rs : List Range) : Bool :=
  s.reqs.any fun q => match q.2 with
    | some r =>
      (match r.owner with
       | .store c _ _ => c == core
       | .atomic c _ _ _ _ _ _ => c == core
       | .line c => c == core
       | .thread c _ _ _ _ _ _ => c == core && !writes
       | _ => false)
        && rs.any fun x => x.hits (vaKey r.ctx (r.addr.toNat / 64 * 64)) 64
    | none => false

/-- A write of the core to a range on another module has not been answered. -/
def State.writesInFlight (s : State) (core : Nat) (rs : List Range) : Bool := s.inFlight core true rs

/-- What the cache part does when a copy is captured (R217): source lines are written back, destination lines written back and
dropped. -/
def State.captureLines (s : State) (core ctx va n : Nat) (drop : Bool) : State :=
  let r := s.linesOf core ctx va n (if drop then .write else .read)
  forEach (fun s k => if drop then s.evict core k else s.writeBack core k) r.1 r.2

/-- What reading a LOAD's header at its capture answers: it waits; it has asked another module; the region's length. -/
inductive Head where
  | wait
  | ask (s : State)
  | len (s : State) (n : Nat)

/-- The length of the region that a LOAD names (R206, R208): its header is read as it stands once the core's earlier writes of it
have been performed (R210, R217), from this module or from another; one that cannot be read counts as 64 bytes (log 91). -/
def At.loadHead (a : At) (s : State) (va : Nat) : Head :=
  let ctx := a.b.ctx
  if (s.core a.core).conflict (vaKey ctx va) 64 false || s.writesInFlight a.core [footprint 2 ctx va 64] then .wait
  else
    let s := s.captureLines a.core ctx va 64 false
    let r := s.translate a.core ctx va .read
    match r.2 with
    | .error _ => .len r.1 64
    | .ok (.here p, _) =>
      let s := if isDram p then r.1.crcRange p 64 else r.1
      .len s (if s.anyPoison p 64 then 64 else headLen (s.words p 8))
    | .ok (.remote dev lpn off, _) =>
      if s.writesInFlight a.core [footprint 2 ctx va 64] then .ask r.1
      else
        let mine (x : LoadHead) : Bool := x.blk == a.blk && x.grp == a.grp && x.ctx == ctx && x.va == va
        match (r.1.core a.core).heads.find? mine with
        | some { data := some bs, .. } =>
          .len (r.1.modCore a.core fun c => { c with heads := c.heads.filter fun x => !mine x })
            (if bs.length = 64 then headLen (wordsLE 8 bs) else 64)
        | some _ => .wait
        | none =>
          if r.1.isCut dev then .len r.1 64
          else
            match r.1.issueReq 2 dev ctx (.copyHead a.core a.blk a.grp) va 16 (extAddr r.1.gran false lpn off) [] with
            | none => .len r.1 64
            | some s => .ask (s.modCore a.core fun c =>
                { c with heads := c.heads ++ [{ blk := a.blk, grp := a.grp, ctx := ctx, va := va, data := none }] })

/-- The copy as it is held (R209, R210): its footprints and its place in the core order (R215). -/
def At.newCopy (a : At) (s : State) (h : Nat) (d ls ld : List Word) (sb db sn dn : Nat) : CopyOp :=
  let c := s.core a.core
  { seq := c.nextSeq, id := c.nextSeq, desc := d, ls := ls, ld := ld, owner := (a.blk, a.grp, h), ctx := a.b.ctx
    base := a.b.base, sBase := sb, dBase := db
    reads := [footprint (cSSpace d) a.b.ctx sb sn]
      ++ (if cListed d then [granules (a.b.base + cListBase d) (8 * cListLen d)] else [])
    writes := [footprint (cDSpace d) a.b.ctx db dn, granules (a.b.base + cCompl d) 32]
    phase := .held, fetched := [], waits := 0, status := 0, index := 0, bytes := 0, share := [], counted := []
    clampCnt := 0, used := 0, texp := 0 }

/-- The status that refuses a copy at issue, in the order of R211 after INTEGRITY and BADDESC and before OVERLAP. -/
def copyStatus (d : List Word) (ls ld : Layout) : Option Nat :=
  if copyBadLayout d ls ld then some 0x50
  else if copyBadFmt d ls ld then some 0x14
  else if copyBadBox d ld then some 0x51 else none

/-- Put a copy behind those that the engine holds; its handle becomes PENDING (R155 step 6). -/
def At.enqueueCopy (a : At) (s : State) (h addr : Nat) (op : CopyOp) : Did :=
  let s := s.modCore a.core fun c => { c with nextSeq := c.nextSeq + 1, copies := c.copies ++ [op] }
  .done (a.modGroup s fun g => g.setH h (mkHandle 2 0 2 addr))

/-- A refused copy keeps its place, without a footprint (R215): its handle is PENDING until it would have begun (R155 step 7,
R157). -/
def At.refuseCopy (a : At) (s : State) (h addr : Nat) (d : List Word) (status : Nat) : Did :=
  a.enqueueCopy s h addr { a.newCopy s h d [] [] 0 0 0 0 with reads := [], writes := [], phase := .refused, status := status }

/-- The last checks of a copy whose lengths are known, OVERLAP and the faults, and what its capture does (R207, R210, R211,
R217). -/
def At.captureCopy (a : At) (s : State) (h addr : Nat) (d lsw ldw : List Word) (hdr : Nat) : Did :=
  let (ls, ld) := (Layout.ofWords lsw, Layout.ofWords ldw)
  let sn := copySpan d ls false hdr
  let dn := copySpan d ld true hdr
  let sb := s.sideBase a.core a.b (cSSpace d) (cSAddr d)
  let db := s.sideBase a.core a.b (cDSpace d) (cDAddr d)
  if copyOverlap d ls sb db sn dn then a.refuseCopy s h addr d 0x52
  else
    let r := s.copyFault a d ls ld sn dn hdr
    match r.2 with
    | some (c, x) => .fault r.1 c x
    | none =>
      let op := a.newCopy r.1 h d lsw ldw (sb.getD 0) (db.getD 0) sn dn
      let s := if cSSpace d = 2 then r.1.captureLines a.core a.b.ctx (cSAddr d) sn false else r.1
      let s := if cDSpace d = 2 then s.captureLines a.core a.b.ctx (cDAddr d) dn true else s
      a.enqueueCopy s h addr op

/-- Steps 6 and 7 of R155 for a captured copy descriptor, in the order of R211: the layout descriptors' own bounds come before
any status. -/
def At.holdCopy (a : At) (s : State) (h addr : Nat) (ws : List Word) : Did :=
  let d := ws.take 16
  let refuse (s : State) (st : Nat) : Did := a.refuseCopy s h addr d st
  let lds := (if cLoad d || decide (4 < cMode d) then [] else [cSLd d])
    ++ (if cSave d || decide (4 < cMode d) then [] else [cDLd d])
  match lds.find? fun x => decide (a.b.ls < x + 64) with
  | some x => .fault s fBounds x
  | none =>
    if complementsOk 16 ws = false then refuse (s.badDescriptor a.core a.b.ctx (a.b.base + addr) 16 ws) 0x10
    else
      match lds.find? fun x => !complementsOk 8 (s.words (a.b.base + x) 16) with
      | some x => refuse (s.badDescriptor a.core a.b.ctx (a.b.base + x) 8 (s.words (a.b.base + x) 16)) 0x10
      | none =>
        if fld (wordAt d 0) 24 8 ≠ 0xC1 ∨ 4 < cMode d then refuse s 0x11
        else
          let lsw := s.words (a.b.base + cSLd d) 8
          let ldw := s.words (a.b.base + cDLd d) 8
          match copyStatus d (Layout.ofWords lsw) (Layout.ofWords ldw) with
          | some st => refuse s st
          | none =>
            if cLoad d then
              match a.loadHead s (cSAddr d) with
              | .wait => .wait
              | .ask s => .retry s
              | .len s n => a.captureCopy s h addr d lsw ldw n
            else a.captureCopy s h addr d lsw ldw 0

/-- Copies that the engine has accepted and not completed (R209). -/
def Core.accepted (c : Core) : List CopyOp := c.copies.filter fun x => x.phase != .refused

/-- STR.ISSUE (R155, R157, R209): it waits while the handle is PENDING or eight copies are held. -/
def execStrIssue (sg : SgRef) (f : FormR) (s : State) : Host.Outcome State Fault Refusal :=
  .next (s.issue sg f.g false false (plainR f)
    [.unused f.d, .srcIn f.a [.h], .unused f.b, .unused f.c] fun a s => a.access s fun s =>
      let v := a.g.handle f.a
      let addr := hAddr v
      if pending v then .wait
      else if hState v = 0 ∨ addr % 128 ≠ 0 then .done (a.refuseHandle s (hNo f.a) 0x11 2 addr)
      else if a.b.ls < addr + 128 then .fault s fBounds addr
      else if (s.core a.core).conflict (a.b.base + addr) 128 false then .wait
      else if 8 ≤ (s.core a.core).accepted.length then .wait
      else
        let r := s.readMem (a.b.base + addr) 128
        match r.2 with
        | none => .fault r.1 fPoison addr
        | some bs => a.holdCopy r.1 (hNo f.a) addr (wordsLE 32 bs))

end Sys2Proof.Machine
end

