-- ==== Sys2Proof/Machine/Copy.lean ====
section
/-! DEFINITION. Running stream-engine copies (spec/09, R198 to R213): element moves, padding, reading and writing the sides,
completion. -/
namespace Sys2Proof.Machine

/-! ## Moves (R198 to R204) -/

/-- One element: destination slice, row, column; source slice, row, column after clamping; whether it was clamped. -/
structure Move where
  o : Nat
  dr : Nat
  dc : Nat
  sl : Nat
  r : Nat
  c : Nat
  clamped : Bool
  deriving DecidableEq, Repr

/-- A source index clamped into [0, n - 1] (R199). -/
def clampIdx (x : Int) (n : Nat) : Nat := if x < 0 then 0 else min x.toNat (n - 1)

/-- The move of a destination element whose source coordinates, before clamping, are (r, c). -/
def mkMove (ls : Layout) (o dr dc sl : Nat) (r c : Int) : Move :=
  let r' := clampIdx r ls.rows
  let c' := clampIdx c ls.cols
  { o := o, dr := dr, dc := dc, sl := sl, r := r', c := c', clamped := decide ((r' : Int) ≠ r) || decide ((c' : Int) ≠ c) }

/-- The destination indices of an extent, outer first. -/
def indices3 (x : Nat × Nat × Nat) : List (Nat × Nat × Nat) :=
  (List.range x.1).flatMap fun o => (List.range x.2.1).flatMap fun i => (List.range x.2.2).map fun j => (o, i, j)

/-- The moves of a COPY (R198, R200). -/
def copyMoves (d : List Word) (ls : Layout) : List Move :=
  let p := permOf (cPerm d)
  (indices3 (cDims d)).map fun x =>
    mkMove ls x.1 (cDR0 d + x.2.1) (cDC0 d + x.2.2) (if cSStride d = 0 then 0 else dim3 x p.1)
      (cSR0 d + if cZsR d then 0 else (dim3 x p.2.1 : Int)) (cSC0 d + if cZsC d then 0 else (dim3 x p.2.2 : Int))

/-- Entry `n` of a list: ROW and COL (R202). -/
def copyEntry (rd : Nat → Byte) (c : CopyOp) (n : Nat) : Int × Int :=
  let a := c.base + cListBase c.desc + 8 * n
  (signedOf 32 (natLE ((List.range 4).map fun i => rd (a + i))), signedOf 32 (natLE ((List.range 4).map fun i => rd (a + 4 + i))))

/-- Source origin and destination origin of entry `n` (R202). -/
def entryBoxes (d : List Word) (n : Nat) (e : Int × Int) : (Int × Int) × (Int × Int) :=
  if cMode d = 1 then (e, ((cDR0 d + n * cBoxR d : Nat), (cDC0 d : Nat)))
  else ((cSR0 d + (n * cBoxR d : Nat), cSC0 d), e)

/-- The entry ends the copy (R203). -/
def entryEnds (d : List Word) (ls ld : Layout) (n : Nat) (e : Int × Int) : Bool :=
  let (s, t) := entryBoxes d n e
  decide (t.1 < 0) || decide (t.2 < 0) || decide ((ld.rows : Int) < t.1 + cBoxR d) || decide ((ld.cols : Int) < t.2 + cBoxC d)
    || !blocksKept d ls s.1 s.2 (cBoxR d) (cBoxC d)

/-- The moves of a list from entry `n` on, up to the first entry that ends the copy, and that entry. -/
def listMoves (rd : Nat → Byte) (c : CopyOp) (ls ld : Layout) : Nat → Nat → List Move × Option Nat
  | 0, _ => ([], none)
  | k + 1, n =>
    let d := c.desc
    let e := copyEntry rd c n
    if entryEnds d ls ld n e then ([], some n)
    else
      let (s, t) := entryBoxes d n e
      let ms := (indices3 (1, cBoxR d, cBoxC d)).map fun x =>
        mkMove ls 0 (t.1.toNat + x.2.1) (t.2.toNat + x.2.2) 0 (s.1 + x.2.1) (s.2 + x.2.2)
      let r := listMoves rd c ls ld k (n + 1)
      (ms ++ r.1, r.2)

/-- All moves of a copy, and the list entry that ends it. -/
def allMoves (rd : Nat → Byte) (c : CopyOp) (ls ld : Layout) : List Move × Option Nat :=
  if cListed c.desc then listMoves rd c ls ld (cListLen c.desc) 0 else (copyMoves c.desc ls, none)

/-- Source bytes that a move reads: its element and its block scale. -/
def moveReads (c : CopyOp) (ls : Layout) (m : Move) : List (Nat × Nat) :=
  let b := c.sBase + m.sl * cSStride c.desc
  bitSpan b (ls.bitPos m.r m.c) ls.fmt.width
    :: (if ls.blk = 0 then [] else [(b + 64 * ls.scaleOff + ls.scalePos (blkSize ls.blk) m.r m.c, 1)])

/-- Bits of element (r, c) of slice base `b`; the four spare bytes of a 6-bit SKEWED row are written 0 (R193). -/
def elemWrites (b : Nat) (l : Layout) (r c v : Nat) : List BitWrite :=
  let ws := bitWrites b (l.bitPos r c) l.fmt.width v
  if l.skewed && l.fmt.width == 6 then
    ws ++ (List.range 4).map fun i => { addr := b + l.bitPos r c / 8 / 16 * 16 + 12 + i, mask := 0xFF, val := 0 }
  else ws

/-- Address of the scale of element (r, c) of the destination slice at `b`. -/
def scaleAddr (b : Nat) (l : Layout) (r c : Nat) : Nat := b + 64 * l.scaleOff + l.scalePos (blkSize l.blk) r c

/-- The writes of one move (R198, R201). -/
def moveWrites (rd : Nat → Byte) (c : CopyOp) (ls ld : Layout) (m : Move) : List BitWrite :=
  let sb := c.sBase + m.sl * cSStride c.desc
  let db := c.dBase + m.o * cDStride c.desc
  elemWrites db ld m.dr m.dc (readBits rd sb (ls.bitPos m.r m.c) ls.fmt.width)
    ++ (if ld.blk = 0 then []
        else [{ addr := scaleAddr db ld m.dr m.dc, mask := 0xFF, val := rd (scaleAddr sb ls m.r m.c) }])

/-- Destination tiles that hold an element of the copy's boxes: slice, tile row, tile column. -/
def touchedTiles (ms : List Move) : List (Nat × Nat × Nat) := (ms.map fun m => (m.o, m.dr / 16, m.dc / 16)).eraseDups

/-- PAD_WRITE (R204): the padding elements of every touched tile, and the scales 1.0 of blocks that hold no element of a box
(R201). -/
def padWrites (c : CopyOp) (ld : Layout) (ms : List Move) : List BitWrite :=
  let own (o r k : Nat) := ms.any fun m => m.o == o && m.dr == r && m.dc == k
  let scaled (o a : Nat) := ms.any fun m => m.o == o && scaleAddr (c.dBase + o * cDStride c.desc) ld m.dr m.dc == a
  (touchedTiles ms).flatMap fun t =>
    let b := c.dBase + t.1 * cDStride c.desc
    (indices3 (1, 16, 16)).flatMap fun x =>
      let (r, k) := (16 * t.2.1 + x.2.1, 16 * t.2.2 + x.2.2)
      if own t.1 r k then []
      else elemWrites b ld r k (cPadv c.desc)
        ++ (if ld.blk = 0 ∨ scaled t.1 (scaleAddr b ld r k) then []
            else [{ addr := scaleAddr b ld r k, mask := 0xFF, val := 0x7F }])

/-! ## What a copy writes, as bytes with masks -/

/-- Bytes with the bits written in them, by address: later writes remain (R202). -/
def mergeWrites (ws : List BitWrite) : Sparse (Byte × Byte) :=
  ws.foldl (fun m w =>
    let o := Sparse.get (fun _ => ((0 : Byte), (0 : Byte))) m w.addr
    Sparse.set (fun _ => (0, 0)) m w.addr (o.1 ||| w.mask, (o.2 &&& ~~~ w.mask) ||| (w.val &&& w.mask))) []

/-- The outcome of a copy's moves: bytes written, clamps, USED and TEXP, the status and index that end it, and a list entry
that ends it. -/
structure Moved where
  bytes : Sparse (Byte × Byte)
  clamps : Nat
  used : Nat
  texp : Nat
  status : Nat
  index : Nat
  bad : Option Nat
  deriving DecidableEq, Repr

/-- Whole bytes at an address. -/
def byteWrites (a : Nat) (bs : List Byte) : List BitWrite :=
  (bs.zip (List.range bs.length)).map fun p => { addr := a + p.2, mask := 0xFF, val := p.1 }

/-- The bytes of a stored tile of a load. -/
def tileWrites (c : CopyOp) (ld : Layout) (t : Nat) (codes : List Nat) : List BitWrite :=
  byteWrites (c.dBase + t * tileBytes ld.fmt) (codes.flatMap fun x => bytesLE (codeSize ld.fmt) x)

/-- Everything a copy writes, computed from source bytes `rd` and local list bytes `lst`. -/
def copyResult (rd lst : Nat → Byte) (c : CopyOp) : Moved :=
  let d := c.desc
  let (ls, ld) := (Layout.ofWords c.ls, Layout.ofWords c.ld)
  if cSave d then
    let r := saveRegion rd ls c.sBase (cTexp d) (cLen d)
    { bytes := mergeWrites (r.parts.flatMap fun p => byteWrites (c.dBase + p.1) p.2), clamps := 0, used := r.used
      texp := cTexp d, status := if r.full.isSome then 0x30 else 0, index := r.full.getD 0, bad := none }
  else if cLoad d then
    let r := loadRegion (fun i => rd (c.sBase + i)) ld
    { bytes := mergeWrites (r.1.flatMap fun p => tileWrites c ld p.1 p.2), clamps := 0, used := 0, texp := r.2.2
      status := if r.2.1.isSome then 0x31 else 0, index := r.2.1.getD 0, bad := none }
  else
    let m := allMoves lst c ls ld
    { bytes := mergeWrites ((m.1.flatMap fun x => moveWrites rd c ls ld x) ++ (if cPad d then padWrites c ld m.1 else []))
      clamps := (m.1.filter Move.clamped).length, used := 0, texp := 0, status := 0, index := m.2.getD 0, bad := m.2 }

/-- Source ranges that a copy reads, as far as they are known: a load reads its header before the rest. -/
def copyReads (rd lst : Nat → Byte) (haveHead : Bool) (c : CopyOp) : List (Nat × Nat) :=
  let d := c.desc
  let (ls, ld) := (Layout.ofWords c.ls, Layout.ofWords c.ld)
  if cSave d then [(c.sBase, ls.elemBytes)]
  else if cLoad d then
    let ws := regionHead fun i => rd (c.sBase + i)
    if haveHead && headOk ws ld then
      [(c.sBase, chunkArea (fld (wordAt ws 0) 0 25) + 32 * (wordAt ws 2).toNat)]
    else [(c.sBase, 64)]
  else (allMoves lst c ls ld).1.flatMap fun m => moveReads c ls m

/-! ## Reading and writing the sides -/

/-- How a copy that cannot go on ends: a fault, or a holder that is cut. -/
inductive CopyStop where
  | fault (cls addr : Nat)
  | lost
  deriving DecidableEq, Repr

/-- The 64-byte blocks that ranges touch, each once, ascending. -/
def blockSet (rs : List (Nat × Nat)) : List Nat :=
  ((rs.flatMap fun r => blocksOf r.1 r.2).foldl (fun m b => Sparse.set (fun _ => false) m b true) []).map Prod.fst

/-- 64 bytes at a physical address as the stream engine reads them: memory, a core's SRAM slot, the spool file (R164), zeros and
a record elsewhere (R165, log 8). -/
def State.engineRead (s : State) (core ctx a : Nat) : State × Option (List Byte) :=
  if !s.populated a || isSetup a || (isGondola a && decide (keeperBase ≤ a)) then
    (s.holeRecord core (some ctx) a, some (List.replicate 64 0))
  else if isSpool a then (s, some (s.spoolRead a 64))
  else
    let r := s.readMem a 64
    if isSram a then (r.1, r.2.map (r.1.slotBytes a)) else r

/-- What reading a VA block yields. -/
inductive Fetched where
  | bytes (bs : List Byte)
  | ask (dev lpn off : Nat)
  | stop (x : CopyStop)
  deriving DecidableEq, Repr

/-- A block of a VA source: translated and read (R173, R178), from what another module has sent, or still to be asked for. -/
def State.vaBlock (s : State) (core : Nat) (c : CopyOp) (b : Nat) : State × Fetched :=
  match Sparse.get (fun _ => []) c.fetched b with
  | x :: xs => (s, .bytes (x :: xs))
  | [] =>
    let r := s.translate core c.ctx (b % 2 ^ 64) .read
    match r.2 with
    | .error e => (r.1, .stop (.fault e b))
    | .ok (.remote dev lpn off, _) => (r.1, if r.1.isCut dev then .stop .lost else .ask dev lpn off)
    | .ok (.here a, _) =>
      let q := r.1.engineRead core c.ctx a
      match q.2 with
      | none => (q.1, .stop (.fault fPoison b))
      | some bs => (q.1, .bytes bs)

/-- Blocks of a VA source gathered so far, those to ask for, and what stops the copy. -/
structure Gathered where
  have_ : Sparse (List Byte)
  ask : List (Nat × Nat × Nat × Nat)
  stop : Option CopyStop
  deriving DecidableEq, Repr

def State.gather (s : State) (core : Nat) (c : CopyOp) (bs : List Nat) : State × Gathered :=
  bs.foldl (fun (p : State × Gathered) b =>
    if p.2.stop.isSome then p
    else
      let r := p.1.vaBlock core c b
      match r.2 with
      | .bytes x => (r.1, { p.2 with have_ := Sparse.set (fun _ => []) p.2.have_ b x })
      | .ask dev lpn off => (r.1, { p.2 with ask := p.2.ask ++ [(b, dev, lpn, off)] })
      | .stop x => (r.1, { p.2 with stop := some x })) (s, { have_ := [], ask := [], stop := none })

/-- A byte of the gathered blocks. -/
def Gathered.byte (g : Gathered) (a : Nat) : Byte := (Sparse.get (fun _ => []) g.have_ (a / 64 * 64)).getD (a % 64) 0

/-- Change a copy that is held. -/
def State.modCopy (s : State) (core id : Nat) (f : CopyOp → CopyOp) : State :=
  s.modCore core fun c => { c with copies := c.copies.map fun x => if x.id = id then f x else x }

def Core.copy (c : Core) (id : Nat) : Option CopyOp := c.copies.find? fun x => x.id == id

/-- Take a copy off its engine. -/
def State.dropCopy (s : State) (core id : Nat) : State :=
  s.modCore core fun c => { c with copies := c.copies.filter fun x => x.id != id }

/-- A fault of a running copy (R126, R387): the engine record; the copy stops. -/
def State.copyFaults (s : State) (core : Nat) (c : CopyOp) (cls addr : Nat) : State :=
  let h := (s.group core c.owner.1 c.owner.2.1).hreg c.owner.2.2
  (s.engineFault core c.ctx cls core (c.owner.2.1 + 16 * c.owner.2.2) (hAddr h) addr).dropCopy core c.id

/-- The copy ends with PEER_LOST (R290): nothing more is moved, and its record names no entry (R212). -/
def State.copyLost (s : State) (core : Nat) (c : CopyOp) : State :=
  s.modCopy core c.id fun x => { x with phase := .moved, status := 0x53, index := 0, waits := 0 }

/-- Bytes of one 64-byte block of the destination, by offset in the block. -/
def blockBytes (m : Sparse (Byte × Byte)) (b : Nat) : List (Nat × Byte × Byte) :=
  m.filterMap fun p => if p.1 / 64 * 64 = b then some (p.1 % 64, p.2.1, p.2.2) else none

/-- Write bytes of one block at physical address `a` (R165, R171, R204): whole DRAM blocks get a fresh CRC; in a core's SRAM slot
the lines of the cache part that lie there change too (R164). -/
def State.engineWrite (s : State) (core ctx a : Nat) (bs : List (Nat × Byte × Byte)) : State :=
  if !s.populated a || isSetup a || (isGondola a && decide (keeperBase ≤ a)) then s.holeRecord core (some ctx) a
  else if isSpool a then
    forEach (fun s k =>
      let xs := bs.filter fun x => x.1 / 8 == k
      if xs.isEmpty then s
      else s.spoolWrite core (some ctx) (a + 8 * k) (if xs.all fun x => x.2.1 == 0xFF then xs.map fun x => x.2.2 else [])) s
      (List.range 8)
  else if isSram a then
    forEach (fun s x =>
      let old := (s.slotBytes (a + x.1) [s.byte (a + x.1)]).headD 0
      (s.writeBitsAll [{ addr := a + x.1, mask := x.2.1, val := x.2.2 }]).slotWrite (a + x.1)
        [(old &&& ~~~ x.2.1) ||| (x.2.2 &&& x.2.1)]) s bs
  else if bs.length = 64 ∧ (bs.all fun x => x.2.1 == 0xFF) = true then s.writeMem a (bs.map fun x => x.2.2)
  else s.writeBitsAll (bs.map fun x => { addr := a + x.1, mask := x.2.1, val := x.2.2 })

/-- Count bytes written to a device. -/
def CopyOp.wrote (c : CopyOp) (dev n : Nat) : CopyOp :=
  { c with bytes := c.bytes + n, share := Sparse.modify (fun _ => 0) c.share dev (· + n) }

/-- Write one block of a VA destination: what stops the copy, if anything does. -/
def State.vaWrite (s : State) (core : Nat) (c : CopyOp) (m : Sparse (Byte × Byte)) (b : Nat) : State × Option CopyStop :=
  let bs := blockBytes m b
  let r := s.translate core c.ctx (b % 2 ^ 64) .write
  match r.2 with
  | .error e => (r.1, some (.fault e b))
  | .ok (.here a, _) =>
    ((r.1.engineWrite core c.ctx a bs).modCopy core c.id fun x => x.wrote r.1.deviceId bs.length, none)
  | .ok (.remote dev lpn off, _) =>
    if r.1.isCut dev then (r.1, some .lost)
    else
      let runs := runsOf (bs.map fun x => { off := off + x.1, mask := x.2.1, val := x.2.2 }) []
      let q := (r.1.overtake core b 64).issueWrites dev lpn c.ctx (.copyWrite core c.id) b
        (bs.map fun x => { off := off + x.1, mask := x.2.1, val := x.2.2 })
      if q.2 then
        (q.1.modCopy core c.id fun x => { x.wrote dev bs.length with waits := x.waits + runs.length }, none)
      else (q.1, some (.fault fUnmapped b))

/-- The blocks of a VA destination in the order in which they are written: a SAVE writes its header last (R100). -/
def putOrder (c : CopyOp) (bs : List Nat) : List Nat :=
  if cSave c.desc then (bs.filter fun b => b != c.dBase) ++ bs.filter fun b => b == c.dBase else bs

/-- Write everything a copy writes. -/
def State.putCopy (s : State) (core : Nat) (c : CopyOp) (m : Sparse (Byte × Byte)) : State × Option CopyStop :=
  if cDSpace c.desc = 2 then
    (putOrder c (blockSet (m.map fun p => (p.1, 1)))).foldl (fun (p : State × Option CopyStop) b =>
      if p.2.isSome then p else p.1.vaWrite core c m b) (s, none)
  else
    let s := s.writeBitsAll (m.map fun p => { addr := p.1, mask := p.2.1, val := p.2.2 })
    let s := if (s.core core).captures.any Option.isSome then forEach (fun s p => s.touch core p.1 1) s m else s
    (s.modCopy core c.id fun x => x.wrote s.deviceId m.length, none)

/-- Finish the moves of a copy: its result is written and its phase says how it goes on. -/
def State.moveCopy (s : State) (core : Nat) (c : CopyOp) (rd : Nat → Byte) : State :=
  let r := copyResult rd s.byte c
  let s := (s.progressed (.stream core)).modCopy core c.id fun x =>
    { x with phase := if r.bad.isSome then .badList else .moved, status := r.status, index := r.index, clampCnt := r.clamps
             used := r.used, texp := r.texp }
  let p := s.putCopy core c r.bytes
  match p.2 with
  | none => p.1
  | some .lost => p.1.copyLost core c
  | some (.fault cls addr) => p.1.copyFaults core c cls addr

/-- Ask other modules for the source blocks that a copy lacks. -/
def State.askBlocks (s : State) (core : Nat) (c : CopyOp) (asks : List (Nat × Nat × Nat × Nat)) : State :=
  forEach (fun s q =>
    if ((s.core core).copy c.id).isNone then s
    else
      match s.issueReq 2 q.2.1 c.ctx (.copyRead core c.id q.1) q.1 16 (extAddr s.gran false q.2.2.1 q.2.2.2) [] with
      | some s => s.modCopy core c.id fun x => { x with phase := .reading, waits := x.waits + 1 }
      | none => s.copyFaults core c fUnmapped q.1) s asks

/-- Read what a copy needs and move it; when another module holds some of its source, ask for that and wait. The list and
local source words are checked as they are read (R176). -/
def State.runCopy (s : State) (core : Nat) (c : CopyOp) : State :=
  let lst := if cListed c.desc then [({ base := c.base + cListBase c.desc, len := 8 * cListLen c.desc } : Range)] else []
  if cSSpace c.desc ≠ 2 then
    let need := copyReads s.byte s.byte true c
    let e := s.eccRanges (lst ++ need.map fun r => { base := r.1, len := r.2 })
    match e.2 with
    | some a => (e.1.sramDbe a).copyFaults core c fPoison a
    | none => e.1.moveCopy core c e.1.byte
  else
    let e := s.eccRanges lst
    match e.2 with
    | some a => (e.1.sramDbe a).copyFaults core c fPoison a
    | none =>
      let h := e.1.gather core c (blockSet (copyReads (fun _ => 0) e.1.byte false c))
      let g := if h.2.ask.isEmpty && h.2.stop.isNone && cLoad c.desc then
          h.1.gather core c (blockSet (copyReads h.2.byte h.1.byte true c)) else h
      match g.2.stop with
      | some .lost => g.1.copyLost core c
      | some (.fault cls a) => g.1.copyFaults core c cls a
      | none => if g.2.ask.isEmpty then g.1.moveCopy core c g.2.byte else g.1.askBlocks core c g.2.ask

/-! ## Commands -/

/-- A copy runs: it has started and not completed. -/
def CopyOp.runs (c : CopyOp) : Bool := c.phase != .held && c.phase != .refused

/-- It is a copy's turn (R209): copies start in issue order, at most four run at once. -/
def State.copyTurn (s : State) (core : Nat) (c : CopyOp) : Bool :=
  let x := s.core core
  !x.stopped && s.ctxRuns c.ctx && (x.copies.filter fun y => decide (y.id < c.id)).all CopyOp.runs
    && decide ((x.copies.filter CopyOp.runs).length < 4)

/-- A held copy may start (R209, R210): it is its turn, and nothing older of the core is still to read or write what it touches,
in this module or another. -/
def State.mayStart (s : State) (core : Nat) (c : CopyOp) : Bool :=
  let x := s.core core
  c.phase == .held && s.copyTurn core c
    && !(c.reads.any fun r => x.conflictBefore c.seq r false) && !(c.writes.any fun r => x.conflictBefore c.seq r true)
    && !s.inFlight core true c.reads && !s.inFlight core false c.writes

/-- COPY_START (R198 to R210). A copy refused at issue reports its status when it would have begun (R155, R157). -/
def execCopyStart (core id : Nat) (s : State) : Host.Outcome State Fault Refusal :=
  match (s.core core).copy id with
  | none => .next s
  | some c =>
    .next (if c.phase = .refused then
        (if s.copyTurn core c then (s.finishHandle core c.owner c.status 2).dropCopy core id else s)
      else if s.mayStart core c then (s.progressed (.stream core)).runCopy core c else s)

/-- SCATTER_BADLIST (R203): the entry that ends the copy is reported. -/
def execScatterBadlist (core id : Nat) (s : State) : Host.Outcome State Fault Refusal :=
  match (s.core core).copy id with
  | none => .next s
  | some c => .next (if c.phase = .badList then s.modCopy core id fun x => { x with phase := .moved, status := 0x20 } else s)

/-- Apply `k` of a copy's counted bytes to the counter on device `dev` (R213), with the poison flag (R279). -/
def State.countOn (s : State) (dev sid k : Nat) (psn : Bool) : State :=
  if dev = s.deviceId then
    let s := if k = 0 then s else s.spoolAdd sid k
    if psn then s.spoolPoison sid else s
  else if k = 0 ∧ psn = false then s else s.notifyRemote dev sid k psn

/-- The devices a copy has written to, with the bytes not counted yet. -/
def CopyOp.uncounted (c : CopyOp) : List (Nat × Nat) := c.share.map fun p => (p.1, p.2 - Sparse.get (fun _ => 0) c.counted p.1)

/-- A copy counts its bytes in steps: all but SAVE (R213). -/
def CopyOp.steps (c : CopyOp) : Bool := cSpoolEn c.desc && !cSave c.desc

/-- COPY_SPOOL_STEP (R213): at most `bytes` more of each device's share are counted. -/
def execCopySpoolStep (core id bytes : Nat) (s : State) : Host.Outcome State Fault Refusal :=
  match (s.core core).copy id with
  | none => .next s
  | some c =>
    if !c.steps || c.status == 0x53 || !c.runs || c.phase == .reading then .next s
    else
      .next (forEach (fun s p =>
        let k := min bytes p.2
        (s.countOn p.1 (cSpoolId c.desc) k false).modCopy core id fun x =>
          { x with counted := Sparse.modify (fun _ => 0) x.counted p.1 (· + k) }) s c.uncounted)

/-- The completion record (R212). -/
def copyRecord (c : CopyOp) : List Word :=
  [BitVec.ofNat 32 c.status, BitVec.ofNat 32 c.index, BitVec.ofNat 32 c.bytes, BitVec.ofNat 32 (c.bytes / 2 ^ 32),
   BitVec.ofNat 32 (min c.clampCnt 0xFFFFFFFF), BitVec.ofNat 32 c.used, BitVec.ofNat 32 c.texp, 0]

/-- The device that holds a destination's base. -/
def State.destDevice (s : State) (core : Nat) (c : CopyOp) : Nat :=
  if cDSpace c.desc ≠ 2 then s.deviceId
  else
    match (s.translate core c.ctx c.dBase .write).2 with
    | .ok (.remote dev _ _, _) => dev
    | _ => s.deviceId

/-- What a completing copy adds to its spool counter on each device that holds destination bytes (R213). -/
def State.countCopy (s : State) (core : Nat) (c : CopyOp) : State :=
  if !cSpoolEn c.desc || c.status == 0x53 then s
  else if cSave c.desc then forEach (fun s p => s.countOn p.1 (cSpoolId c.desc) (32 * cLen c.desc) false) s c.share
  else
    let psn := c.status == 0x20 || c.status == 0x31
    if psn && c.share.isEmpty then s.countOn (s.destDevice core c) (cSpoolId c.desc) 0 true
    else forEach (fun s p => s.countOn p.1 (cSpoolId c.desc) p.2 psn) s c.uncounted

/-- COPY_COMPLETE (R209, R212, R213): completions are posted in issue order, once every write has been answered. -/
def execCopyComplete (core id : Nat) (s : State) : Host.Outcome State Fault Refusal :=
  match (s.core core).copies with
  | [] => .next s
  | c :: _ =>
    if c.id ≠ id ∨ c.phase ≠ .moved ∨ c.waits ≠ 0 then .next s
    else
      let bs := bytesOfWords (copyRecord c)
      let s := ((s.progressed (.stream core)).writeMem (c.base + cCompl c.desc) bs).touch core (c.base + cCompl c.desc) 32
      let s := (s.countCopy core c).finishHandle core c.owner c.status 2
      .next (s.dropCopy core id)

end Sys2Proof.Machine
end

