-- ==== Sys2Proof/Machine/Launch.lean ====
section
/-! DEFINITION. Placing blocks on cores and releasing them (spec/06, R107 to R113; spec/07, R158), the local SRAM split (R111),
core idle (R407). -/
namespace Sys2Proof.Machine


/-- Groups of a block of `n` threads (R113). -/
def groupsOf (n : Nat) : Nat := ceilDiv n 32

/-- Bytes of registers of a block (R113). -/
def regBytes (threads regs : Nat) : Nat := groupsOf threads * 128 * 8 * ceilDiv regs 8

/-- Blocks of one launch that a core can hold (R113). -/
def blocksPerCore (threads regs split ls : Nat) (wb : Bool) : Nat :=
  min (16 / groupsOf threads) (min (65536 / regBytes threads regs)
    (min (if ls = 0 then 16 else lsPart split / ls) (if wb then 1 else 16)))

/-- Some thread of the block has not exited. -/
def Block.live (b : Block) : Bool := b.groups.any fun p => !p.2.subs.isEmpty

/-- The lowest offset of a core's local SRAM at which `n` bytes of the local-store part are free: allocations start at
multiples of 512 bytes (R194), above the cache part; where is the module's choice (R108; log 9). -/
def Core.place (c : Core) (core split n : Nat) : Option Nat :=
  let lo := sramBase core + 65536 * split
  let hi := sramBase core + 0x60000
  let starts := lo :: (c.held.map fun p => (p.2.base + p.2.ls + 511) / 512 * 512)
  let free (a : Nat) : Bool := decide (a + n ≤ hi) && c.held.all fun p => !overlaps a n p.2.base p.2.ls
  starts.find? fun a => decide (lo ≤ a) && free a

/-- Some blocks of a launch are not placed yet. -/
def Launch.unplaced (l : Launch) : Bool := l.placed * l.train != l.gx * l.gy * l.gz

/-- A context may launch (R43, R327): while DIAG is set only context 0 may. -/
def State.mayLaunch (s : State) (ctx : Nat) : Bool := ctx == 0 || !s.diag

/-- Some launch that still has blocks to place needs a split (R111). -/
def State.splitWanted (s : State) (split : Nat) : Bool :=
  s.launches.any fun p => p.2.any fun l => l.split == split && l.unplaced && s.ctxRuns l.ctx

/-- A core can take one block of a launch now (R111, R113, R407, R412). A change of split that was asked for holds only as long
as a launch needs it. -/
def State.coreTakes (s : State) (core : Nat) (l : Launch) : Bool :=
  let c := s.core core
  let live := (c.held.map Prod.snd).filter Block.live
  s.corePresent core && bitAt (s.reg (offCluster (core / 16))) 0 && !(s.part (core / 192)).asleep
    && !(c.newSplit.any s.splitWanted) && c.split == l.split
    && decide ((live.map fun b => groupsOf b.threads).sum + groupsOf l.threads ≤ 16)
    && decide ((live.map fun b => regBytes b.threads b.regs).sum + regBytes l.threads l.regs ≤ 65536)
    && (!l.wb || !(c.held.any fun p => p.2.wb))
    && (c.place core l.split (1024 * l.lsKiB)).isSome

/-- Threads of group `g` in a block of `n` threads. -/
def groupMask (n g : Nat) : BitVec 32 := maskBy fun i => decide (32 * g + i < n)

/-- A block as it starts (R112) at count `now`: linear index `n` of the grid, X fastest. -/
def startBlock (l : Launch) (launch n rank base : Nat) (now : DWord) : Block :=
  { launch := launch, ring := l.ring, ctx := l.ctx, bid := (n % l.gx, n / l.gx % l.gy, n / l.gx / l.gy), trank := rank, train := n / l.train
    base := base, ls := 1024 * l.lsKiB, wb := l.wb, regs := l.regs, split := l.split, threads := l.threads
    groups := (List.range (groupsOf l.threads)).map fun g => (g, Group.start (groupMask l.threads g) l.entry now) }

/-- Place block `n` of a launch on a core: its local store reads as zero (R112), and the core's clock runs (R407). -/
def State.placeBlock (s : State) (launch : Nat) (l : Launch) (n rank core : Nat) : State :=
  let c := s.core core
  let base := (c.place core l.split (1024 * l.lsKiB)).getD (sramBase core)
  let s := (s.zeroBlocks base (1024 * l.lsKiB)).touch core base (1024 * l.lsKiB)
  let s := { s with sramBad := Sparse.forget (fun w => decide (base ≤ 8 * w) && decide (8 * w + 8 ≤ base + 1024 * l.lsKiB)) s.sramBad }
  s.modCore core fun c =>
    { c with blocks := Sparse.set (fun _ => none) c.blocks c.nextBlk (some (startBlock l launch n rank base s.lcount))
             nextBlk := c.nextBlk + 1, stopped := false, newSplit := none }

/-- Distinct cores of one hardware cluster (R107). -/
def oneCluster (cores : List Nat) : Bool :=
  match cores with
  | [] => false
  | c :: cs => (cs.all fun x => x / 16 == c / 16) && (c :: cs).eraseDups.length == (c :: cs).length

/-- An earlier launch of the same ring still has blocks to place (R307). -/
def State.earlierLaunch (s : State) (launch : Nat) (l : Launch) : Bool :=
  s.launches.any fun p => match p.2 with
    | some x => decide (p.1 < launch) && x.ring == l.ring && x.unplaced
    | none => false

/-- The next block train of a launch is placed whole on the given cores; none when it cannot be (R107, R113). -/
def State.placeTrain (s : State) (launch : Nat) (cores : List Nat) : Option State :=
  match s.launchOf launch with
  | none => none
  | some l =>
    if l.unplaced = false ∨ cores.length ≠ l.train ∨ oneCluster cores = false ∨ (cores.all fun c => s.coreTakes c l) = false then
      none
    else
      let s := forEach (fun s p => s.placeBlock launch l (l.placed * l.train + p.2) p.2 p.1) s
        (cores.zip (List.range cores.length))
      some { s with launches := Sparse.set (fun _ => none) s.launches launch (some { l with placed := l.placed + 1 }) }

/-- A list cut into trains of `n`, at most `k` of them. -/
def cutTrains (n : Nat) : Nat → List Nat → List (List Nat)
  | 0, _ => []
  | k + 1, xs => if xs.isEmpty then [] else xs.take n :: cutTrains n k (xs.drop n)

/-- Trains placed one after the other; none when one of them cannot be. -/
def State.placeTrains (launch : Nat) : List (List Nat) → State → Option State
  | [], s => some s
  | t :: ts, s =>
    match s.placeTrain launch t with
    | none => none
    | some s => State.placeTrains launch ts s

/-- BLOCK_PLACE (R107, R109, R112, R113): the next block train of a launch is placed whole on the given cores; a launch with
RESIDENT set waits until all its trains fit, and then they are placed together, `cores` naming them in order. -/
def execBlockPlace (launch : Nat) (cores : List Nat) (s : State) : Host.Outcome State Fault Refusal :=
  match s.launchOf launch with
  | none => .next s
  | some l =>
    if s.earlierLaunch launch l = true ∨ s.ctxRuns l.ctx = false ∨ s.mayLaunch l.ctx = false
        ∨ (l.resident = true ∧ cores.length ≠ l.gx * l.gy * l.gz) ∨ (l.resident = false ∧ cores.length ≠ l.train) then .next s
    else .next ((s.placeTrains launch (cutTrains l.train cores.length cores)).getD s)

/-- SPLIT_CHANGE (R111): a launch that still has blocks to place needs the split. While blocks are resident the core takes no
more of its current split; once none is, the cache part is written back and emptied and the split applies. -/
def execSplitChange (core split : Nat) (s : State) : Host.Outcome State Fault Refusal :=
  let c := s.core core
  if !s.splitWanted split || c.split == split || !s.corePresent core then .next s
  else if !c.held.isEmpty then .next (s.modCore core fun c => { c with newSplit := some split })
  else
    .next ((s.evictAll core).modCore core fun c => { c with split := split, newSplit := none, cache := [] })

/-- Operations that a block's groups issued and that have not completed (R158). -/
def State.blockBusy (s : State) (core blk : Nat) : Bool :=
  let c := s.core core
  (c.arrayOps.any fun o => o.owner.1 == blk) || (c.copies.any fun o => o.owner.1 == blk)
    || s.reqs.any fun q => match q.2 with
      | some r => match r.owner.dest with
        | some (k, b, _) => k == core && b == blk
        | none => false
      | none => false

/-- ALLOCATION_RELEASE (R158): a block whose threads have exited and whose operations have completed gives up its local store
and wide buffer. -/
def execAllocationRelease (core blk : Nat) (s : State) : Host.Outcome State Fault Refusal :=
  match s.block core blk with
  | none => .next s
  | some b =>
    if b.live || s.blockBusy core blk then .next s
    else
      let s := (s.setBlock core blk none).setPart (core / 192) fun p => { p with idleSince := s.lcount }
      .next { s with launches := Sparse.modify (fun _ => none) s.launches b.launch fun l =>
                l.map fun l => { l with released := l.released + 1 } }

/-- CORE_IDLE (R407): a core without blocks and with empty queues stops its clock. -/
def execCoreIdle (core : Nat) (s : State) : Host.Outcome State Fault Refusal :=
  let c := s.core core
  if c.held.isEmpty && c.arrayOps.isEmpty && c.copies.isEmpty && s.corePresent core then
    .next (s.modCore core fun c => { c with stopped := true })
  else .next s

end Sys2Proof.Machine
end

