-- ==== Sys2Proof/Machine/Power.lean ====
section
/-! DEFINITION. The power controller (spec/16, R340 to R365): how each partition's point is chosen, caps and their
deferral, ballast guards, estimate against measurement, droop, heat. -/
namespace Sys2Proof.Machine

/-! ## Points (R15) -/

/-- Rail voltage of a divider code in millivolts (R15). -/
def codeMv (c : Nat) : Nat := [800, 750, 710, 680, 650, 620].getD c 600

/-- Core-domain power at a divider code relative to divide by 8, in thousandths (spec/16, "Where the watts go"). -/
def codeRel (c : Nat) : Nat := [1000, 781, 630, 525, 440, 343].getD c 281

/-- The partitions that are not marked absent (R415). -/
def State.present (s : State) : List Nat := (List.range 8).filter fun p => !s.partAbsent p

/-- Fields of PART_STATUS (R364): 28 RUN, 24 PREF, 20 CAPC, 16 MMC, 12 THC, 8 NBC. -/
def State.term (s : State) (p lo : Nat) : Nat := fld (s.reg (offPartStatus p)) lo 4
def State.setTerm (s : State) (p lo v : Nat) : State := s.setRegFld (offPartStatus p) lo 4 v

/-- A ceiling as a code: none (0xF) holds nothing. -/
def ceilingCode (c : Nat) : Nat := if c = 0xF then 0 else min c 6

/-- A ceiling one step higher; one that would reach divide by 8 is gone. -/
def raiseCode (c : Nat) : Nat := if c = 0xF ∨ c ≤ 1 then 0xF else c - 1

/-- The point a partition is at, or is on its way to. -/
def State.decided (s : State) (p : Nat) : Nat := ((s.part p).toCode).getD (s.part p).code

/-- The slowest of the preferred point and the ceilings in force (R341). -/
def State.wantedCode (s : State) (p : Nat) : Nat :=
  [s.term p 24, ceilingCode (s.term p 20), ceilingCode (s.term p 16), ceilingCode (s.term p 12),
   ceilingCode (s.term p 8)].foldl max 0

/-- Neighbours (R344). -/
def areNeighbours (p q : Nat) : Bool := p / 4 == q / 4 && (p ^^^ q == 1 || p ^^^ q == 2)

def State.neighbours (s : State) (p : Nat) : List Nat := s.present.filter fun q => areNeighbours p q

/-- Setpoint of a partition's rail without its guard: the higher voltage while it changes point (R343). -/
def Partition.setMv (x : Partition) : Nat := codeMv (min x.code (x.toCode.getD x.code))

/-- The setpoint with the guard. -/
def Partition.target (x : Partition) : Nat := x.setMv + x.guard

/-- The guards that hints have asked for, as far as the 0.84 V of R346 allows. -/
def Partition.wantGuard (x : Partition) : Nat := min x.fullGuard (840 - x.setMv)

/-- Reduce a guard as far as R344's 200 mV need against the neighbouring rails as they stand, their guards included. -/
def State.fitGuard (s : State) (p : Nat) : State :=
  let x := s.part p
  if x.guard = 0 then s
  else
    let lo := (s.neighbours p).foldl (fun m q => min m (s.part q).target) x.target
    s.setPart p fun y => { y with guard := min y.guard (lo + 200 - x.setMv) }

/-- Rails whose setpoint has changed since `s` ramp (R343). -/
def State.ramps (s t : State) : State :=
  forEach (fun u p => if (s.part p).target = (u.part p).target then u else u.setPart p fun x => { x with ramping := true }) t t.present

/-- Fit every guard (R344, R346): from what was asked for, reduced until the rails of every pair of neighbours agree; a die has four
partitions, so four rounds reach the end. -/
def State.fitGuards (s : State) : State :=
  let t := forEach (fun s p => s.setPart p fun x => { x with guard := x.wantGuard }) s s.present
  s.ramps (forEach (fun t _ => forEach State.fitGuard t t.present) t (List.range 4))

/-- A step up would break R344: a neighbouring rail would lie more than 200 mV lower. -/
def State.stepBreaks (s : State) (p c : Nat) : Bool :=
  (s.neighbours p).any fun q => decide ((s.part q).setMv + 200 < codeMv c)

/-- Decide a step of one partition (R343): down at once, up only without a droop stretch and within R344; a step up that has started
goes on. -/
def State.choosePoint (s : State) (p : Nat) : State :=
  let x := s.part p
  let w := s.wantedCode p
  if x.asleep then s
  else if x.code < w then s.setPart p fun x => { x with toCode := some (x.code + 1) }
  else if w < x.code then
    if x.toCode = some (x.code - 1) ∨ x.stretching = true ∨ s.stepBreaks p (x.code - 1) = true then s
    else s.setPart p fun x => { x with toCode := some (x.code - 1) }
  else s.setPart p fun x => { x with toCode := none }

/-- The choice for every present partition (R341): made from the end of S8 on (R16). -/
def State.choosePoints (s : State) : State :=
  if !s.up then s else s.ramps (forEach State.choosePoint s s.present).fitGuards

/-! ## Preferred points (R342, R345) -/

/-- PWR_MODE.FREE, which takes effect at the next evaluation (R363). -/
def State.freeMode (s : State) : Bool := bitAt (s.reg (offPwr + 0x10)) 0
def State.selPhase (s : State) : Nat := fld (s.reg (offPwr + 0x14)) 0 4

/-- Preferred points from the mode and the selected entry: a field of 7 to 15 leaves a partition where it prefers to be. -/
def State.applyPreferred (s : State) : State :=
  forEach (fun s p =>
    if !s.power.free then s.setTerm p 24 1
    else
      let c := fld (s.reg (offPhaseTable s.selPhase)) (4 * p) 4
      if c ≤ 6 then s.setTerm p 24 c else s) s s.present

/-- Refusals of an entry's fields (R15, R345). -/
def State.refusedFields (s : State) (w : Word) (ps : List Nat) : State :=
  forEach (fun s p =>
    let c := fld w (4 * p) 4
    if c ≤ 6 then s
    else (s.refusal (0x648 + p) 1 none [BitVec.ofNat 32 p, BitVec.ofNat 32 c]).count (offPwr + 0x18C) 1) s ps

/-- Refusals of the selected entry's fields of present partitions. -/
def State.refusedCodes (s : State) : State := s.refusedFields (s.reg (offPhaseTable s.selPhase)) s.present

/-- Select an entry of the phase table (R345). -/
def State.selectPhase (s : State) (n : Nat) : State :=
  (s.setRegFld (offPwr + 0x14) 0 4 n).refusedCodes.applyPreferred.choosePoints

/-- A write to an entry of the phase table: the selected one takes effect at once (R345). -/
def State.writePhase (s : State) (n : Nat) (v : Word) : State :=
  let s := s.setReg (offPhaseTable n) v
  if n = s.selPhase then s.refusedCodes.applyPreferred.choosePoints else s

/-! ## Caps (R348, R351) -/

def State.swCap (s : State) : Nat := fld (s.reg offPwr) 0 11
def State.trayCap (s : State) : Nat := fld (s.reg (offPwr + 8)) 0 11
def State.effCap (s : State) : Nat := fld (s.reg (offPwr + 0xC)) 0 11
def State.capPending (s : State) : Bool := bitAt (s.reg (offPwr + 0xC)) 31
def capOk (w : Nat) : Bool := 500 ≤ w && w ≤ 1500

/-- PWR_CAP_EFF.WATTS: the lower of the two caps in force. -/
def State.effUpdate (s : State) : State :=
  s.setRegFld (offPwr + 0xC) 0 11 (min s.power.swForce s.trayCap)

/-- A software cap takes effect; nothing is pending then. -/
def State.forceSw (s : State) (w : Nat) : State :=
  let s := { s with power := { s.power with swForce := w } }
  (s.setReg (offPwr + 0xC) 0).effUpdate

/-- The pending cap takes effect. -/
def State.applyPending (s : State) : State :=
  if s.capPending then s.forceSw (fld (s.reg (offPwr + 0xC)) 16 11) else s

def State.insideColl (s : State) : Bool := s.rings.any fun r => r.2.coll

/-- INCOLL follows the rings; when the module stops being inside a collective a pending cap takes effect (R351). -/
def State.collChanged (s : State) : State :=
  let s := s.setRegFld (offPwr + 0x14) 8 1 (b2n s.insideColl)
  if s.insideColl then s else s.applyPending

/-- Commit a software cap (R348, R351). -/
def State.commitSwCap (s : State) (w : Nat) : State :=
  let s := s.setRegFld offPwr 0 11 w
  if s.insideColl ∧ w < s.effCap then
    let first := !s.capPending
    let s := s.setRegFld (offPwr + 0xC) 16 11 w
    let s := s.setRegFld (offPwr + 0xC) 31 1 1
    let s := if first then { s with power := { s.power with deadline := s.lcount + 200000 } } else s
    s.count (offPwr + 0x184) 1
  else s.forceSw w

/-- A tray cap takes effect at once (R351). -/
def State.commitTrayCap (s : State) (w : Nat) : State := (s.setReg (offPwr + 8) (BitVec.ofNat 32 w)).effUpdate

/-- A cap is not committed: the record, and PWR_REFUSED (R348, R365). -/
def State.refuseCap (s : State) (w : Nat) : State :=
  ((s.refusal 0x648 5 none [BitVec.ofNat 32 w]).count (offPwr + 0x18C) 1).modBit 10 true

/-- CAP_DEFERRAL_EXPIRY (R351): 2 ms after the first pending value was committed. -/
def execCapDeferralExpiry (s : State) : Host.Outcome State Fault Refusal :=
  .next (if s.capPending ∧ s.power.deadline.toNat ≤ s.lcount.toNat then s.applyPending else s)

/-! ## Evaluation (R341, R349, R350) -/

/-- The cap ceiling of a partition one step lower; without one in force it stands at divide by 8 (R349). -/
def State.lowerCap (s : State) (p : Nat) : State := s.setTerm p 20 (min 6 (ceilingCode (s.term p 20) + 1))

/-- The better of two partitions by a list of keys, the first difference deciding; the first one on a tie. -/
def better : List Nat → List Nat → Bool
  | x :: xs, y :: ys => if x = y then better xs ys else decide (x < y)
  | _, _ => false

/-- The partition with the smallest keys. -/
def pickBy (key : Nat → List Nat) : List Nat → Option Nat
  | [] => none
  | p :: ps =>
    match pickBy key ps with
    | none => some p
    | some q => if better (key q) (key p) then some q else some p

/-- The partition whose cap ceiling is lowered next (R349): the fastest, then the highest estimated power, then the highest
id. -/
def State.capVictim (s : State) (watts : List Nat) : Option Nat :=
  pickBy (fun p => [s.decided p, 2 ^ 40 - watts.getD p 0, 8 - p]) (s.present.filter fun p => s.term p 20 != 6)

/-- One step down: a cap ceiling, or a duty step once every one is at divide by 16 (R349, R350). -/
def State.capDown (s : State) (watts : List Nat) : State :=
  let s := { s with power := { s.power with lastStep := some s.lcount } }
  match s.capVictim watts with
  | some p => s.lowerCap p
  | none => { s with power := { s.power with duty := max 1 (s.power.duty - 1) } }

/-- One step up when the last step is 100,000 counts old (R349): duty first (R350), else the slowest partition that its cap
ceiling holds below its preferred point and that 0.97 of the cap would still carry. -/
def State.capUp (s : State) (m : PowerReading) (p : Nat) : State :=
  let old := match s.power.lastStep with
    | none => true
    | some t => decide (100000 ≤ (s.lcount - t).toNat)
  let fits (w : Nat) : Bool := decide (100 * w ≤ 97 * s.effCap)
  if !old then s
  else if s.power.duty < 8 then
    if fits p then { s with power := { s.power with duty := s.power.duty + 1, lastStep := some s.lcount } } else s
  else
    let held := s.present.filter fun q => s.term q 20 != 0xF && decide (s.term q 24 < s.term q 20)
    match pickBy (fun q => [8 - s.decided q, q]) held with
    | none => s
    | some q =>
      if fits (m.ifRaised.getD q 0) then
        let s := s.setTerm q 20 (raiseCode (s.term q 20))
        { s with power := { s.power with lastStep := some s.lcount } }
      else s

/-- POWER_EVALUATION (R341, R342, R349, R350): at local counts that are multiples of 1,000. -/
def execPowerEvaluation (m : PowerReading) (s : State) : Host.Outcome State Fault Refusal :=
  if !s.up || s.lcount.toNat % 1000 != 0 || s.power.lastEval == some s.lcount then .next s
  else
    let s : State := { s with power := { s.power with lastEval := some s.lcount, reading := m, free := s.freeMode } }
    let s := s.applyPreferred
    let w := s.reg (offPwr + 0x18)
    let p := if s.power.useMax then max (fld w 0 11) (fld w 16 11) else m.est
    let s := if s.effCap < p then s.capDown m.part else s.capUp m p
    .next s.choosePoints

/-- RUN of PART_STATUS follows the running divider. -/
def State.showRun (s : State) (p : Nat) : State := s.setTerm p 28 (s.part p).code

/-- DIVIDER_CHANGE (R343): a step down changes the divider first, and the rail ramps after it; a step up only when the rail has
settled. The neighbours' guards follow (R344). -/
def execDividerChange (p : Nat) (s : State) : Host.Outcome State Fault Refusal :=
  let x := s.part p
  match x.toCode with
  | none => .next s
  | some c =>
    if c < x.code ∧ (x.ramping = true ∨ x.rail < codeMv c) then .next s
    else
      let t := ((s.setPart p fun x => { x with code := c, toCode := none }).showRun p).count (offPp p 2) 1
      .next (s.ramps t.fitGuards)

/-- RAIL_SETTLED (R343, R346): the rail reaches its setpoint with its guard. -/
def execRailSettled (p : Nat) (s : State) : Host.Outcome State Fault Refusal :=
  if s.partAbsent p || decide (8 ≤ p) then .next s
  else .next (s.setPart p fun x => { x with rail := x.target, ramping := false })

/-! ## Ballast hints (R346) -/

/-- The pre-step: the predicted power of the partition with the module's other power, in milliwatts, and the steps of R349
until it fits (at most as many as there are ceilings to lower). The flat-out power at divide by 8 is 125 W. -/
def State.preStep (s : State) (p level : Nat) : Nat → State
  | 0 => s
  | n + 1 =>
    let m := s.power.reading
    let others := 1000 * (m.est - m.part.getD p 0)
    let saved := (s.present.filter fun q => q != p).foldl (fun a q =>
      a + 1000 * (m.part.getD q 0) * (codeRel (s.part q).code - codeRel (max (s.decided q) (ceilingCode (s.term q 20))))
        / codeRel (s.part q).code) 0
    let mine := 125 * codeRel (max (s.decided p) (ceilingCode (s.term p 20))) * level / 15
    if mine + others - saved ≤ 1000 * s.effCap ∨ (s.present.all fun q => s.term q 20 == 6) = true then s
    else State.preStep (s.capDown m.part) p level n

/-- What a HINT does to one partition (R346). -/
def State.hintPart (s : State) (level lead hold p : Nat) : State :=
  (s.preStep p level 56).setPart p fun x =>
    { x with fullGuard := if 8 ≤ level then 5 * (level - 7) else 0
             guardLoad := s.lcount + BitVec.ofNat 64 lead, guardHold := hold }

/-- Deliver a HINT (R312, R346). -/
def State.hint (s : State) (mask level lead hold : Nat) : State :=
  let s := forEach (fun s p => s.hintPart level lead hold p) s (s.present.filter fun p => bitsOf mask p 1 == 1)
  (s.count (offPwr + 0x188) 1).fitGuards.choosePoints

/-- BALLAST_GUARD_END (R346): HOLD counts after the load begins. -/
def execBallastGuardEnd (p : Nat) (s : State) : Host.Outcome State Fault Refusal :=
  let x := s.part p
  if x.fullGuard = 0 ∨ x.guardHold = 0 ∨ s.lcount.toNat < x.guardLoad.toNat + x.guardHold then .next s
  else .next (s.ramps (s.setPart p fun x => { x with fullGuard := 0, guardHold := 0 }).fitGuards)

/-! ## Estimate against measurement (R353) -/

/-- The mismatch ceilings one step lower: the first time from the running point. -/
def State.lowerMismatch (s : State) : State :=
  forEach (fun s p =>
    let c := s.term p 16
    s.setTerm p 16 (min 6 ((if c = 0xF then (s.part p).code else c) + 1))) s s.present

/-- TELEMETRY_WINDOW (R353, R358): estimate `e` and measurement `m` of the window that ends; none when the PMBus read failed. -/
def execTelemetryWindow (e : Nat) (m : Option Nat) (s : State) : Host.Outcome State Fault Refusal :=
  if !s.up || s.lcount.toNat % 100000 != 0 || s.power.lastWindow == some s.lcount then .next s
  else
    let mw := m.getD 1500
    let s := s.setReg (offPwr + 0x18) (BitVec.ofNat 32 (min mw 2047 * 2 ^ 16 + min e 2047))
    let s := forEach (fun s p =>
      let s := if (s.part p).throttled then s.count (offPp p 3) 1 else s
      s.setPart p fun x => { x with throttled := false }) s s.present
    let dis := decide (15 * max e mw < 100 * (max e mw - min e mw))
    let s : State := { s with power := { s.power with
      lastWindow := some s.lcount
      disagree := if dis then s.power.disagree + 1 else 0
      agree := if dis then 0 else s.power.agree + 1 } }
    if dis ∧ s.power.disagree % 8 = 0 then
      let s := { s.lowerMismatch with power := { s.power with useMax := true } }
      let s := s.report 0x648 8 1 none 0xFFFF [BitVec.ofNat 32 e, BitVec.ofNat 32 mw]
      .next (s.count (offPwr + 0x180) 1).choosePoints
    else if s.power.agree = 1000 then
      let s := { s with power := { s.power with useMax := false } }
      .next (forEach (fun s p => s.setTerm p 16 0xF) s s.present).choosePoints
    else .next s

/-! ## Droop (R354 to R356) -/

/-- The nominal voltage that a partition's droop levels follow (R354), in millivolts: that of its point, and while the rail ramps the
lower of the old and the new. A rail ramps up before the divider changes and down after it, so this is always that of the divider in
force. -/
def Partition.nominal (x : Partition) : Nat := codeMv x.code

/-- A rail at `mv` lies below its warning level, 94% of nominal, or its reset level, 85% (R354). -/
def Partition.warns (x : Partition) (mv : Nat) : Bool := decide (100 * mv < 94 * x.nominal)
def Partition.drops (x : Partition) (mv : Nat) : Bool := decide (100 * mv < 85 * x.nominal)

/-- DROOP_WARNING (R354, R355): the detectors read a rail at `mv` millivolts. Below the warning level stretching begins, or goes on;
a reading at or above it, after one below, begins the hold (log 99). -/
def execDroopWarning (p mv : Nat) (s : State) : Host.Outcome State Fault Refusal :=
  if s.partAbsent p || decide (8 ≤ p) then .next s
  else if (s.part p).warns mv then .next (s.setPart p fun x => { x with stretching := true, below := true })
  else if (s.part p).below then .next (s.setPart p fun x => { x with below := false, aboveSince := s.lcount })
  else .next s

/-- DROOP_HOLD_EXPIRY (R355): 1,000 counts at or above the warning level. The record is written at most once per 1,048,576
counts. -/
def execDroopHoldExpiry (p : Nat) (s : State) : Host.Outcome State Fault Refusal :=
  let x := s.part p
  if !x.stretching || x.below || decide (s.lcount.toNat < x.aboveSince.toNat + 1000) then .next s
  else
    let s := (s.setPart p fun x => { x with stretching := false }).count (offPp p 0) 1
    let due := match x.lastDroop with
      | none => true
      | some t => decide (1048576 ≤ (s.lcount - t).toNat)
    if due then
      .next ((s.report (0x648 + p) 8 2 none p [BitVec.ofNat 32 p, BitVec.ofNat 32 x.code]).setPart p fun x =>
        { x with lastDroop := some s.lcount })
    else .next s

/-- DROOP_RESET (R354, R356): a rail read at `mv` millivolts, below its reset level: the record, and the partition's reset (R398: it
enters the ladder at level 3). -/
def execDroopReset (p mv : Nat) (s : State) : Host.Outcome State Fault Refusal :=
  if s.partAbsent p || decide (8 ≤ p) || !(s.part p).drops mv then .next s
  else
    let s := s.report (0x648 + p) 8 3 none p [BitVec.ofNat 32 p, BitVec.ofNat 32 (s.part p).code]
    .next (if s.resets.parts.contains p then s
      else { s with resets := { s.resets with parts := s.resets.parts ++ [p] } })

/-! ## Heat (R357 to R360) -/

/-- How a heat ceiling changes at a sample (R358, R359): the new ceiling and episodes. While `hot`, one step below the running
point at first, then one more for each 100,000 counts; while `cool`, one step up for each 1,000,000 counts. -/
def heatStep (now : DWord) (run c : Nat) (hot cool : Bool) (h k : Option (DWord × Nat)) :
    Nat × Option (DWord × Nat) × Option (DWord × Nat) :=
  if hot then
    match h with
    | none => (min 6 (max run (ceilingCode c) + 1), some (now, 0), none)
    | some (t, n) =>
      let due := (now - t).toNat / 100000
      (min 6 (ceilingCode c + (due - n)), some (t, max n due), none)
  else if cool then
    match k with
    | none => (c, none, some (now, 0))
    | some (t, n) =>
      let due := (now - t).toNat / 1000000
      ((List.range (due - n)).foldl (fun c _ => raiseCode c) c, none, some (t, max n due))
  else (c, none, none)

/-- A partition's temperature (R357): the highest reading of its junction sensors, one without a valid reading ignored; none when
every one is invalid. -/
def hottest (sensors : List (Option Nat)) : Option Nat :=
  match sensors.filterMap id with
  | [] => none
  | t :: ts => some (ts.foldl max t)

/-- One partition's temperature (R357, R358). While no sensor is valid the ceiling is divide by 16; the one of before comes back with a
valid reading, and the episodes of R358 begin afresh (log 101). -/
def State.samplePart (s : State) (p : Nat) (t : Option Nat) : State :=
  let x := s.part p
  match t with
  | none =>
    let c := s.term p 12
    let s := s.setTerm p 12 6
    if x.invalid then s
    else (s.report (0x648 + p) 8 4 none p [BitVec.ofNat 32 p]).setPart p fun x => { x with invalid := true, savedTh := c }
  | some v =>
    let c := if x.invalid then x.savedTh else s.term p 12
    let old (e : Option (DWord × Nat)) : Option (DWord × Nat) := if x.invalid then none else e
    let (c, h, k) := heatStep s.lcount x.code c (decide (95 ≤ v)) (decide (v ≤ 90)) (old x.hot) (old x.cool)
    let s := (s.setRegFld (offPartStatus p) 0 8 (min v 255)).setTerm p 12 c
    s.setPart p fun x => { x with invalid := false, hot := h, cool := k }

/-- The neighbour ceiling of one partition (R359). -/
def State.sampleNb (s : State) (temps : List (Option Nat)) (p : Nat) : State :=
  match temps.getD p none with
  | none => s
  | some v =>
    let ts := (s.neighbours p).filterMap fun q => temps.getD q none
    let x := s.part p
    let (c, h, k) := heatStep s.lcount x.code (s.term p 8) (ts.any fun t => decide (t + 25 < v))
      (ts.all fun t => decide (v ≤ t + 20)) x.nbHot x.nbCool
    (s.setTerm p 8 c).setPart p fun x => { x with nbHot := h, nbCool := k }

/-- A heat ceiling holds the partition below its preferred point. -/
def State.noteThrottle (s : State) (p : Nat) : State :=
  if s.term p 24 < max (ceilingCode (s.term p 12)) (ceilingCode (s.term p 8)) then
    s.setPart p fun x => { x with throttled := true }
  else s

/-- Every valid sensor reads below 85 °C after a trip: S0 goes on, and its limit counts from now (R360, R368, log 104). -/
def State.endTripWait (s : State) : State :=
  let s := s.modStart fun x => { x with tripWait := false }
  if s.start.running && s.startStep == 0 then
    (s.setProgress 0 0 (s.start.level 0) 0 0xFFFF).modStart fun x => { x with since := s.lcount }
  else s

/-- SENSOR_SAMPLE (R357 to R360): every 100 counts; `sensors` by partition, one without a valid reading none; `others` the valid
sensors outside the partitions. At 110 degrees the module trips. -/
def execSensorSample (sensors : List (List (Option Nat))) (others : List Nat) (s : State) : Host.Outcome State Fault Refusal :=
  let temps := sensors.map hottest
  if !s.powered || s.lcount.toNat % 100 != 0 || s.power.lastSample == some s.lcount then .next s
  else
    let all := others ++ temps.filterMap id
    let s := { s with power := { s.power with lastSample := some s.lcount }
                      mgmt := { s.mgmt with hottest := all.foldl max 0 } }
    let s := if s.start.tripWait ∧ (all.all fun t => decide (t < 85)) = true then
        s.endTripWait else s
    let s := if s.up then
        let s := forEach (fun s p => s.samplePart p (temps.getD p none)) s s.present
        let s := forEach (fun s p => s.sampleNb temps p) s s.present
        (forEach State.noteThrottle s s.present).choosePoints
      else s
    if (all.any fun t => decide (110 ≤ t)) = true ∧ s.start.tripWait = false ∧ s.standby = false then
      let s := (s.reportFatal 0x648 3 []).modBit 4 true
      .next { s.askChip .thermalTrip with start := { s.start with tripWait := true } }
    else .next s

end Sys2Proof.Machine
end

