-- ==== Sys2Proof/Machine/Rings.lean ====
section
/-! DEFINITION. Descriptor rings (spec/14, R302 to R308, R319 to R323): tails and doorbells, fetching and checking, starting,
completing, halting, interrupts. -/
namespace Sys2Proof.Machine

/-! ## Interrupts (R321) -/

def State.vector (s : State) (v : Nat) : Vector := Sparse.get (fun _ => Vector.idle) s.vectors v
def State.setVector (s : State) (v : Nat) (x : Vector) : State :=
  { s with vectors := Sparse.set (fun _ => Vector.idle) s.vectors v x }

/-- IRQ_CFG fields (R322). -/
def State.irqVec (s : State) (r : Nat) : Nat := fld (s.reg (offRing r + 0x2C)) 0 8
def State.irqEn (s : State) (r : Nat) : Bool := bitAt (s.reg (offRing r + 0x2C)) 8
def State.irqHold (s : State) (r : Nat) : Nat := 100 * fld (s.reg (offRing r + 0x2C)) 16 16

/-- A vector is within its hold. -/
def State.held (s : State) (v : Nat) : Bool :=
  let x := s.vector v
  x.holding && decide ((s.lcount - x.since).toNat < x.hold)

/-- Send an INTR on a vector; the hold that follows is `hold` counts. -/
def State.sendIntr (s : State) (v hold : Nat) : State :=
  (s.toHost (.intr v)).setVector v { since := s.lcount, hold := hold, holding := decide (hold ≠ 0), due := false }

/-- An interrupt of a ring falls due: sent, or held with others until the hold ends. -/
def State.ringIntr (s : State) (r : Nat) : State :=
  if !s.irqEn r then s
  else if s.held (s.irqVec r) then s.setVector (s.irqVec r) { s.vector (s.irqVec r) with due := true }
  else s.sendIntr (s.irqVec r) (s.irqHold r)

/-- INTR_HOLD_EXPIRY (R321): what fell due within the hold is sent as one. -/
def execIntrHoldExpiry (vec : Nat) (s : State) : Host.Outcome State Fault Refusal :=
  let x := s.vector vec
  if !x.holding || s.held vec then .next s
  else if x.due then .next (s.sendIntr vec x.hold)
  else .next (s.setVector vec .idle)

/-! ## Indices (R303) -/

/-- The index after `w`. -/
def nextIdx (w : Word) : Word := w + 1

/-- Started descriptors of a ring that have not completed. -/
def Ring.inflight (x : Ring) : Nat :=
  (x.started.filter fun p => match p.2 with
    | some d => d.result.isNone
    | none => false).length

def dType (w : List Word) : Nat := fld (wordAt w 0) 24 8

/-- A FENCE has started and not completed. -/
def Ring.fenced (x : Ring) : Bool := x.started.any fun p => p.2.any fun d => d.result.isNone && dType d.words == 8

def Ring.at (x : Ring) (i : Nat) : Option Started := Sparse.get (fun _ => none) x.started i
def Ring.setStarted (x : Ring) (i : Nat) (d : Option Started) : Ring :=
  { x with started := Sparse.set (fun _ => none) x.started i d }
def Ring.fetchedAt (x : Ring) (i : Nat) : List Word × Nat := Sparse.get (fun _ => ([], 0)) x.fetched i

def State.setRingState (s : State) (r v : Nat) : State := s.setRegFld (offRing r + 0x18) 30 2 v
def State.showInflight (s : State) (r : Nat) : State :=
  s.setRegFld (offRing r + 0x18) 0 5 (s.ring r).inflight

/-- Address of a ring's slot and of its completion entry (R303). -/
def State.ringBase (s : State) (r : Nat) : Nat := dwordAt [s.reg (offRing r), s.reg (offRing r + 4)] 0 / 4096 * 4096
def State.cqBase (s : State) (r : Nat) : Nat := dwordAt [s.reg (offRing r + 8), s.reg (offRing r + 0xC)] 0 / 4096 * 4096
def State.slotAddr (s : State) (r : Nat) (i : Word) : Nat := s.ringBase r + 64 * (i.toNat % s.ringSize r)
def State.entryAddr (s : State) (r : Nat) (i : Word) : Nat := s.cqBase r + 32 * (i.toNat % s.ringSize r)

/-! ## Halting and completing (R308, R319, R320) -/

/-- Index `i` comes before index `j` (R303: modulo 2^32). -/
def earlierIdx (i j : Word) : Bool := i != j && decide ((j - i).toNat < 2 ^ 31)

/-- Halt a ring at index `i` (R308): a halted ring keeps the lowest index. -/
def State.haltRing (s : State) (r : Nat) (i : Word) (status : Nat) : State :=
  let put (s : State) : State :=
    (s.setRegFld (offRing r + 0x18) 16 8 status).setReg (offRing r + 0x28) i
  if s.ringState r = 0 then s
  else if s.ringState r = 3 then
    if earlierIdx i (s.reg (offRing r + 0x28)) then put s else s
  else ((put s).setRingState r 3).ringIntr r

/-- The completion entry (R319): LCOUNT is the count at which the descriptor completed, or was refused. -/
def State.entryWords (s : State) (r : Nat) (i : Word) (d : Started) (status detail : Nat) : List Word :=
  let ph := 1 - bitsOf i.toNat (s.ringLog r) 1
  let ws : List Word :=
    [BitVec.ofNat 32 (ph * 2 ^ 31 + status * 2 ^ 16 + fld (wordAt d.words 0) 0 16), i, BitVec.ofNat 32 d.doneAt.toNat,
     BitVec.ofNat 32 (d.doneAt.toNat / 2 ^ 32), BitVec.ofNat 32 (min detail 0xFFFFFFFF), s.startSeq, 0]
  ws ++ [crc32c (bytesOfWords ws)]

/-- Write an entry where the ring lies; one that the Sornal link cannot carry stays unwritten (R301). -/
def State.writeEntry (s : State) (r : Nat) (i : Word) (d : Started) (status detail : Nat) : State :=
  let bs := bytesOfWords (s.entryWords r i d status detail)
  let a := s.entryAddr r i
  if s.ringDev r then (if s.dramRange a 32 then s.writeMem a bs else s) else s.toHost (.hwrite (BitVec.ofNat 64 a) bs)

/-- Host writes of a ring's descriptors that the link has not sent yet. A ring in host memory need not wait for them: its entry is a
host write behind them (R299, R320). -/
def State.unsent (s : State) (r : Nat) : Bool := s.ringDev r && (s.link 16).txWait.any fun x => x.ring == some r

/-- Write the entry at RETIRED if its descriptor has its result, started or refused, and raise RETIRED (R319, R320). -/
def State.retireOne (s : State) (r : Nat) : State :=
  let i := s.retired r
  match (s.ring r).at i.toNat with
  | none => s
  | some d =>
    match d.result with
    | none => s
    | some (status, detail) =>
      if s.unsent r then s else
      let s := s.writeEntry r i d status detail
      let s := s.setRing r fun x => x.setStarted i.toNat none
      let s := s.setReg (offRing r + 0x24) (nextIdx i)
      if bitAt (wordAt d.words 0) 23 then s.ringIntr r else s

def State.retireMany (s : State) (r : Nat) : Nat → State
  | 0 => s
  | n + 1 => State.retireMany (s.retireOne r) r n

/-- Entries that can be written are written, in index order. -/
def State.retire (s : State) (r : Nat) : State := s.retireMany r ((s.ring r).started.length)

/-- A ring that is to stop, or whose link was lost, does so once nothing is in flight (R301, R322). -/
def State.quiet (s : State) (r : Nat) : State :=
  let x := s.ring r
  if x.inflight ≠ 0 then s
  else if x.stopping then
    ((s.setRing r fun x => { x with stopping := false, coll := false, waiting := none }).setRingState r 0).collChanged
  else if x.linkLost ∧ s.ringState r ≠ 3 ∧ s.ringState r ≠ 0 then s.haltRing r (s.head r) 0x89
  else s

/-- Complete a started descriptor with a status and detail (R319): a status other than OK halts the ring. -/
def State.completeDesc (s : State) (r : Nat) (i : Word) (status detail : Nat) : State :=
  match (s.ring r).at i.toNat with
  | none => s
  | some d =>
    let s := s.setRing r fun x => { x.setStarted i.toNat (some { d with result := some (status, detail), doneAt := s.lcount }) with
      jobs := Sparse.set (fun _ => none) x.jobs i.toNat none
      waiting := if x.waiting = some i.toNat then none else x.waiting }
    let s := if s.ringState r = 2 ∧ (s.ring r).waiting = none then s.setRingState r 1 else s
    let s := if status = 0 then s else s.haltRing r i status
    ((s.retire r).showInflight r).quiet r

/-! ## Checks (R305, R306) -/

/-- Words that carry complements, by type (R309 to R318): (value, complement) pairs. -/
def compPairs (ty : Nat) : List (Nat × Nat) :=
  if ty = 1 then [(3, 5), (4, 6), (7, 9), (8, 10)]
  else if ty = 2 ∨ ty = 3 then [(3, 5), (4, 6), (7, 9), (8, 10), (11, 12)]
  else if ty = 6 ∨ ty = 7 then [(3, 4), (5, 7), (6, 8)]
  else if ty = 9 ∨ ty = 10 then [(4, 6), (5, 7), (8, 9)] else []

/-- The first complement that does not match. -/
def badComp (w : List Word) : Option (Nat × Nat) :=
  (compPairs (dType w)).find? fun p => wordAt w p.2 != ~~~ (wordAt w p.1)

/-- Type-specific rules, but for the launch codes, which LAUNCH answers, and update-group codes (R306 check 7, R310 to R318). -/
def State.checkFields (s : State) (r : Nat) (w : List Word) : Nat :=
  let w13 := wordAt w 13
  let spv := bitAt w13 29
  let ty := dType w
  let badId (id : Nat) : Bool := !s.inSpool (s.ringCtx r) id
  if ty = 2 then
    if bitAt w13 31 && bitAt w13 30 then 0x84
    else if spv && (bitAt w13 30 || badId (fld w13 0 14)) then 0x86 else 0
  else if ty = 3 then
    if bitAt w13 30 || dwordAt w 7 % 8 != 0 || (wordAt w 11).toNat % 8 != 0 then 0x84
    else if bitAt w13 31 || (spv && badId (fld w13 0 14)) then 0x86 else 0
  else if ty = 5 then (if bitAt (wordAt w 3) 9 && bitAt (wordAt w 3) 10 then 0x86 else 0)
  else if ty = 6 ∨ ty = 7 then (if badId (fld (wordAt w 3) 0 14) then 0x86 else 0)
  else if ty = 8 then (if fld (wordAt w 3) 0 2 < 2 then 0x86 else 0)
  else if ty = 9 then
    if dwordAt w 4 % 64 != 0 then 0x84
    else if fld (wordAt w 3) 30 2 == 3 || fld (wordAt w 8) 0 17 == 0 || decide (65536 < fld (wordAt w 8) 0 17) then 0x86
    else 0
  else if ty = 10 then (if (wordAt w 8).toNat < 64 ∨ 65536 < (wordAt w 8).toNat then 0x84 else 0)
  else 0

/-- Checks 2 to 7 of a descriptor with index `i` (R306). -/
def State.checkDesc (s : State) (r : Nat) (i : Word) (w : List Word) : Nat :=
  if wordAt w 15 ≠ crc32c (bytesOfWords (w.take 15)) then 0x80
  else if wordAt w 2 ≠ i then 0x82
  else if wordAt w 1 ≠ ~~~ (wordAt w 0) then 0x81
  else if dType w = 0 ∨ 10 < dType w ∨ (r = 0 ∧ dType w ≠ 10) then 0x83
  else if (badComp w).isSome then 0x81
  else s.checkFields r w

/-- The record of a complement that does not match (R187): class INTEGRITY, cause 5 for a spool target, else 1. -/
def State.noteComp (s : State) (r : Nat) (i : Word) (w : List Word) : State :=
  let p := if wordAt w 1 ≠ ~~~ (wordAt w 0) then (0, 1) else (badComp w).getD (0, 1)
  let cause := if (dType w = 6 ∨ dType w = 7) ∧ p.1 ≠ 0 then 5 else 1
  s.integrity 0x641 cause (some (s.ringCtx r)) 0xFFFF (s.slotAddr r i + 4 * p.1) (wordAt w p.1) (wordAt w p.2)

/-- The descriptor at HEAD may start as far as its ring goes: the ring runs, its context issues, and fewer than 16 are in
flight (R307, R323). A FENCE that has started holds the descriptors behind it until it completes (R316; log 93). -/
def State.canStart (s : State) (r : Nat) : Bool :=
  let x := s.ring r
  s.ringState r == 1 && !x.stopping && !x.linkLost && decide (x.inflight < 16) && s.ctxRuns (s.ringCtx r)
    && s.head r != s.tail r && !x.fenced

/-- Refuse the descriptor at HEAD: its entry, and the halt (R306, R308, R319). -/
def State.refuseDesc (s : State) (r : Nat) (w : List Word) (status : Nat) : State :=
  let i := s.head r
  let s := s.setRing r fun x => { x.setStarted i.toNat (some { words := w, refused := true, result := some (status, 0), doneAt := s.lcount }) with
    fetched := Sparse.set (fun _ => ([], 0)) x.fetched i.toNat ([], 0) }
  (s.haltRing r i status).retire r

/-- The status of the descriptor at HEAD, when it has been fetched: that of its read, else of its checks. -/
def State.headStatus (s : State) (r : Nat) : Option (List Word × Nat) :=
  let i := s.head r
  match (s.ring r).fetchedAt i.toNat with
  | ([], 0) => none
  | (w, 0) => some (w, s.checkDesc r i w)
  | (w, st) => some (w, st)

/-- RING_HALT for a descriptor that fails its checks when it is next to start; a CRC or SEQ failure only after eight more
reads (R306). -/
def State.checkHead (s : State) (r : Nat) : State :=
  if !s.canStart r then s
  else
    match s.headStatus r with
    | none => s
    | some (w, st) =>
      if st = 0 ∨ ((st = 0x80 ∨ st = 0x82) ∧ (s.ring r).retries < 8) then s
      else
        let s := if st = 0x81 then s.noteComp r (s.head r) w else s
        s.refuseDesc r w st

/-- The checked descriptor of type `ty` at HEAD, when it may start now. FENCE and SPOOL_SIGNAL wait for every earlier descriptor
of the ring (R307). -/
def State.readyDesc (s : State) (r ty : Nat) : Option (List Word) :=
  if !s.canStart r then none
  else
    match s.headStatus r with
    | some (w, 0) =>
      if dType w = ty ∧ ((ty = 7 ∨ ty = 8) → (s.ring r).inflight = 0) then some w else none
    | _ => none

/-- Start the descriptor at HEAD: HEAD moves on (R307). -/
def State.startDesc (s : State) (r : Nat) (w : List Word) : State :=
  let i := s.head r
  let s := s.setRing r fun x => { x.setStarted i.toNat (some { words := w, refused := false, result := none, doneAt := 0 }) with
    fetched := Sparse.set (fun _ => ([], 0)) x.fetched i.toNat ([], 0), retries := 0 }
  (s.setReg (offRing r + 0x20) (nextIdx i)).showInflight r

/-- After a start or a completion: the next descriptor is checked. -/
def State.goOn (s : State) (r : Nat) : State := s.checkHead r

/-! ## Fetching (R303, R306) -/

def State.freshHread (s : State) : Nat :=
  match (List.range (s.hreads.length + 1)).find? fun k => (Sparse.get (fun _ => none) s.hreads k).isNone with
  | some k => k
  | none => 0

/-- Send a host read. -/
def State.hostRead (s : State) (a len : Nat) (what : HostRead) : State :=
  let tag := s.freshHread
  ({ s with hreads := Sparse.set (fun _ => none) s.hreads tag (some what) }).toHost (.hread tag (BitVec.ofNat 64 a) len)

/-- A descriptor index is being read. -/
def State.asked (s : State) (r i : Nat) : Bool :=
  s.hreads.any fun p => match p.2 with
    | some (.descriptor q j n) => q == r && (List.range n).any fun k => (j + k) % 2 ^ 32 == i
    | _ => false

/-- A read of device memory for a ring: its words, and DFETCH where it cannot be read. -/
def State.readSlot (s : State) (a : Nat) : State × (List Word × Nat) :=
  if !s.dramRange a 64 then (s, (List.replicate 16 0, 0x8A))
  else
    let p := s.readEntry a 16
    match p.2 with
    | some w => (p.1, (w, 0))
    | none => (p.1, (List.replicate 16 0, 0x8A))

/-- Keep a descriptor that has arrived. -/
def State.arrived (s : State) (r i : Nat) (d : List Word × Nat) : State :=
  s.setRing r fun x => { x with fetched := Sparse.set (fun _ => ([], 0)) x.fetched i d, lastTry := s.lcount }

/-- Read `n` descriptors from index `i` on, which lie in neighbouring slots. -/
def State.readDescs (s : State) (r : Nat) (i : Word) (n : Nat) : State :=
  if s.ringDev r then
    forEach (fun s k =>
      let j := i + BitVec.ofNat 32 k
      let p := s.readSlot (s.slotAddr r j)
      p.1.arrived r j.toNat p.2) s (List.range n)
  else s.hostRead (s.slotAddr r i) (64 * n) (.descriptor r i.toNat n)

/-- The first index from HEAD on that has been neither fetched nor asked for, within the 16 of R306 and below TAIL. -/
def State.nextFetch (s : State) (r : Nat) : Option Nat :=
  let h := s.head r
  (List.range (min 16 (s.tail r - h).toNat)).find? fun k =>
    let i := (h + BitVec.ofNat 32 k).toNat
    (s.ring r).fetchedAt i == ([], 0) && !s.asked r i

/-- The ring fetches: it runs, or waits on a SPOOL_WAIT, and its link is there (R301). -/
def State.fetches (s : State) (r : Nat) : Bool :=
  (s.ringState r == 1 || s.ringState r == 2) && !(s.ring r).stopping && !(s.ring r).linkLost
    && (s.ringDev r || s.linkUp 16) && decide (r < 128)

/-- DESCRIPTOR_FETCH (R306): one read of up to `n` descriptors, at most four (256 bytes), ahead of HEAD and below TAIL. A
device ring's read ends with the step; a host ring's answer arrives with HREAD_RESPONSE. -/
def execDescriptorFetch (ring n : Nat) (s : State) : Host.Outcome State Fault Refusal :=
  if !s.fetches ring then .next s
  else
    match s.nextFetch ring with
    | none => .next s
    | some k =>
      let i := s.head ring + BitVec.ofNat 32 k
      let m := min (min n 4) (min (min 16 (s.tail ring - s.head ring).toNat - k)
        (s.ringSize ring - i.toNat % s.ringSize ring))
      if m = 0 then .next s else .next ((s.readDescs ring i m).goOn ring)

/-- DESCRIPTOR_REFETCH (R306): the descriptor at HEAD failed the CRC or SEQ check 100 counts ago. -/
def execDescriptorRefetch (ring : Nat) (s : State) : Host.Outcome State Fault Refusal :=
  let x := s.ring ring
  match s.headStatus ring with
  | none => .next s
  | some (_, st) =>
    if !s.canStart ring || !s.fetches ring || !(st == 0x80 || st == 0x82) || decide (8 ≤ x.retries)
        || decide ((s.lcount - x.lastTry).toNat < 100) then .next s
    else
      let i := s.head ring
      let s := s.setRing ring fun x => { x with
        fetched := Sparse.set (fun _ => ([], 0)) x.fetched i.toNat ([], 0), retries := x.retries + 1 }
      .next ((s.readDescs ring i 1).goOn ring)

/-! ## Tails (R303, R304) -/

/-- A value received for TAIL, and whether it was accepted (R304). Rings that are stopped take none. -/
def State.supplyTail (s : State) (r : Nat) (v : Word) : State × Bool :=
  let d := (v - s.tail r).toNat
  if s.ringState r = 0 ∨ 128 ≤ r then (s, false)
  else if d = 0 ∨ 2 ^ 31 ≤ d then (s, false)
  else if s.ringSize r < (v - s.retired r).toNat then
    (s.haltRing r (s.retired r + BitVec.ofNat 32 (s.ringSize r)) 0x87, false)
  else (s.setReg (offRing r + 0x1C) v, true)

/-- DOORBELL (R298, R303, R304): host rings take TAIL from it; SN_DB counts it. -/
def execDoorbell (ring : Nat) (v : Word) (s : State) : Host.Outcome State Fault Refusal :=
  let s := s.count (offLinkCnt 16 4) 1
  if s.ringDev ring || decide (128 ≤ ring) then .next s else .next (s.supplyTail ring v).1

/-- RING_TAIL_WRITE (R303, R304, R322): for device rings. -/
def execRingTailWrite (ring : Nat) (v : Word) (s : State) : Host.Outcome State Fault Refusal :=
  if 128 ≤ ring then .next s
  else
    let s := s.dropPend 0x640 offHost
    if !s.ringDev ring then .next s else .next (s.supplyTail ring v).1

/-- DOORBELL_POLL (R303): every DB_POLL counts, for a running host ring. -/
def execDoorbellPoll (ring : Nat) (s : State) : Host.Outcome State Fault Refusal :=
  let n := (s.reg (offHost + 4)).toNat
  let page := dwordAt [s.reg (offHost + 8), s.reg (offHost + 0xC)] 0 / 4096 * 4096
  if n = 0 ∨ s.ringDev ring = true ∨ ¬ (s.ringState ring = 1 ∨ s.ringState ring = 2) ∨ s.linkUp 16 = false ∨ 128 ≤ ring
      ∨ (s.lcount - (s.ring ring).lastPoll).toNat < n then .next s
  else
    let s := s.setRing ring fun x => { x with lastPoll := s.lcount }
    .next (s.hostRead (page + 8 * ring) 8 (.doorbell ring))

/-! ## Ring control (R308, R322, R323) -/

/-- START: from STOPPED, with the indices at zero; a size code above 16 refuses it. -/
def State.ringStart (s : State) (r : Nat) : State :=
  let x := s.ring r
  if s.ringState r ≠ 0 ∨ (r ≠ 0 ∧ x.bound = false) ∨ 128 ≤ r then s
  else if 16 < fld (s.reg (offRing r + 0x10)) 0 5 then
    s.refusal 0x640 4 none (addrWords (offRing r + 0x14))
  else
    let s := s.setRing r fun x => { Ring.empty with bound := x.bound, lastPoll := s.lcount }
    let s := ((s.setReg (offRing r + 0x1C) 0).setReg (offRing r + 0x20) 0).setReg (offRing r + 0x24) 0
    (s.setRingState r 1).showInflight r

/-- STOP: no further descriptor starts; STOPPED once the started ones have completed. -/
def State.ringStop (s : State) (r : Nat) : State :=
  if s.ringState r = 0 then s else (s.setRing r fun x => { x with stopping := true }).quiet r

/-- A read of a ring's descriptors whose answer is no longer wanted. -/
def dropDescRead (r : Nat) (p : Nat × Option HostRead) : Nat × Option HostRead :=
  match p.2 with
  | some (.descriptor q _ _) => if q = r then (p.1, some (.descriptor q 0 0)) else p
  | _ => p

/-- RESUME: HALTED to RUNNING at HEAD; what was fetched is read and checked again. The entry of a descriptor that was refused at
HEAD is then still to be written, by the one that stands in its slot: RETIRED names it again (R303, R308; log 30). -/
def State.ringResume (s : State) (r : Nat) : State :=
  if s.ringState r ≠ 3 then s
  else
    let s : State := { s with hreads := s.hreads.map (dropDescRead r) }
    let s := s.setRing r fun x => { x with fetched := [], retries := 0, linkLost := false }
    let s := if s.retired r = nextIdx (s.head r) then s.setReg (offRing r + 0x24) (s.head r) else s
    s.setRingState r (if (s.ring r).waiting.isSome then 2 else 1)

/-- A write of RING_CTRL, or of TAIL, drops a value pending in the host-link block (R6, R411). -/
def State.ctrlWrite (s : State) (r : Nat) : State := if r < 128 then s.dropPend 0x640 offHost else s

/-- RING_START (R322). -/
def execRingStart (ring : Nat) (s : State) : Host.Outcome State Fault Refusal := .next ((s.ctrlWrite ring).ringStart ring)

/-- RING_STOP (R322, R351). -/
def execRingStop (ring : Nat) (s : State) : Host.Outcome State Fault Refusal := .next ((s.ctrlWrite ring).ringStop ring)

/-- RING_RESUME (R308). -/
def execRingResume (ring : Nat) (s : State) : Host.Outcome State Fault Refusal := .next ((s.ctrlWrite ring).ringResume ring)

/-- A host read that is not of ring `r`'s descriptors or copies. -/
def keepHread (r : Nat) (p : Nat × Option HostRead) : Bool :=
  match p.2 with
  | some (.descriptor q _ _) => q != r
  | some (.copy q _ _) => q != r
  | _ => true

/-- A ring stops at once, its started descriptors removed without entries, its indices as they stand (R323). -/
def State.ringKill (s : State) (r : Nat) : State :=
  let s := s.setRing r fun x => { Ring.empty with bound := x.bound }
  let s : State := { s with
    waiters := s.waiters.filter fun w => w.who != .ring r
    hreads := s.hreads.filter (keepHread r)
    launches := s.launches.filter fun p => p.2.elim false fun l => l.ring != r }
  ((s.setRingState r 0).showInflight r).collChanged

/-- Every ring bound to a context (R323). -/
def State.ringsOf (s : State) (ctx : Nat) : List Nat :=
  (List.range 128).filter fun r => r != 0 && (s.ring r).bound && s.ringCtx r == ctx

end Sys2Proof.Machine
end

