-- ==== Sys2Proof/Machine/LinkEngine.lean ====
section
/-! DEFINITION. The link engine (spec/14, R310, R311): COPY and FILL, what they read from the host and from other modules, their
completion. -/
namespace Sys2Proof.Machine

/-- Unit number of the link engine and the gondola among the holders of cached windows (R180). -/
def linkUnit : Nat := 1536

/-! ## Fields of COPY and FILL -/

def lFill (w : List Word) : Bool := dType w == 3
def lSHost (w : List Word) : Bool := !lFill w && bitAt (wordAt w 13) 31
def lDHost (w : List Word) : Bool := bitAt (wordAt w 13) 30
def lSpv (w : List Word) : Bool := bitAt (wordAt w 13) 29
def lSpoolId (w : List Word) : Nat := fld (wordAt w 13) 0 14
def lSrc (w : List Word) : Nat := dwordAt w 3
def lDst (w : List Word) : Nat := dwordAt w 7
def lLen (w : List Word) : Nat := (wordAt w 11).toNat
/-- A side is a global address (R181). -/
def lGlobal (w : List Word) : Bool :=
  (!lFill w && !lSHost w && decide (2 ^ 63 ≤ lSrc w)) || (!lDHost w && decide (2 ^ 63 ≤ lDst w))

def LinkJob.fresh : LinkJob := { data := [], done := 0, waits := 0, moved := false, status := 0, share := [] }

def State.job? (s : State) (r i : Nat) : Option LinkJob := Sparse.get (fun _ => none) (s.ring r).jobs i

def State.setJob (s : State) (r i : Nat) (j : Option LinkJob) : State :=
  s.setRing r fun x => { x with jobs := Sparse.set (fun _ => none) x.jobs i j }

def State.modJob (s : State) (r i : Nat) (f : LinkJob → LinkJob) : State :=
  s.setRing r fun x => { x with jobs := Sparse.modify (fun _ => none) x.jobs i (Option.map f) }

/-- The job ends with a status; nothing more is moved. -/
def State.endJob (s : State) (r i status : Nat) : State :=
  s.modJob r i fun j => { j with status := status, waits := 0, data := [] }

/-- A fault of the link engine (R126, R387): the record, and the job stops. -/
def State.linkFault (s : State) (r i cls addr : Nat) : State :=
  (s.engineFault 0x641 (s.ringCtx r) cls 0xFFFF r i addr).setJob r i none

/-! ## The cache parts (R217, R320) -/

/-- Keys of the lines that a virtual range of the ring's context covers, as the side of a copy that reads or writes it. -/
def State.linkKeys (s : State) (r va n : Nat) (need : Need) : State × List Nat := s.linesOf linkUnit (s.ringCtx r) va n need

/-- Every core writes back its lines of the source, and writes back and drops those of the destination (R217). -/
def State.linkCapture (s : State) (r : Nat) (w : List Word) : State :=
  let a := if lFill w || lSHost w then (s, []) else s.linkKeys r (lSrc w) (lLen w) .read
  let b := if lDHost w then (a.1, []) else a.1.linkKeys r (lDst w) (lLen w) .write
  forEach (fun s core =>
    let s := forEach (fun s k => s.writeBack core k) s a.2
    forEach (fun s k => s.evict core k) s b.2) b.1 (s.cores.map Prod.fst)

/-! ## Moving bytes -/

/-- Write bytes to the destination at offset `off` of a job: host writes of up to 256 bytes, or the device side block by
block. What stops the job is entered in it. -/
def State.linkPutVa (s : State) (r i va : Nat) (bs : List Byte) : State :=
  (pieces va bs.length).foldl (fun s q =>
    match s.job? r i with
    | none => s
    | some j =>
      if j.status ≠ 0 then s
      else
        let part := (bs.drop (q.1 - va)).take q.2
        let t := s.translate linkUnit (s.ringCtx r) (q.1 % 2 ^ 64) .write
        match t.2 with
        | .error c => t.1.linkFault r i c q.1
        | .ok (.here a, _) =>
          (t.1.engineWrite 0x641 (s.ringCtx r) (a / 64 * 64)
            ((part.zip (List.range part.length)).map fun p => (a % 64 + p.2, 0xFF, p.1))).modJob r i fun j =>
              { j with done := j.done + q.2, share := Sparse.modify (fun _ => 0) j.share t.1.deviceId (· + q.2) }
        | .ok (.remote dev lpn off, _) =>
          if t.1.isCut dev then t.1.endJob r i 0x53
          else
            let u := t.1.issueWrites dev lpn (s.ringCtx r) (.linkWrite r i) q.1
              ((part.zip (List.range part.length)).map fun p => { off := off + p.2, mask := 0xFF, val := p.1 })
            if u.2 then
              u.1.modJob r i fun j =>
                { j with done := j.done + q.2, share := Sparse.modify (fun _ => 0) j.share dev (· + q.2) }
            else u.1.linkFault r i fUnmapped q.1) s

/-- Write what a job has read. -/
def State.linkPut (s : State) (r i : Nat) (w : List Word) : State :=
  match s.job? r i with
  | none => s
  | some j =>
    let s := (s.modJob r i fun j => { j with data := [] }).progressed .link
    if lDHost w then
      if !s.linkUp 16 then s.endJob r i 0x89
      else
        let s := s.hostWrite (lDst w + j.done) j.data (some r)
        s.modJob r i fun x => { x with done := x.done + j.data.length }
    else s.linkPutVa r i (lDst w + j.done) j.data

/-- Read one piece of the source at offset `off`: appended to the job's data, or asked for. -/
def State.linkGet (s : State) (r i : Nat) (w : List Word) (off : Nat) : State :=
  if lFill w then
    let pat := bytesOfWords [wordAt w 3, wordAt w 4]
    s.modJob r i fun j => { j with data := j.data ++ (List.range (min 64 (lLen w - off))).map fun k => pat.getD ((off + k) % 8) 0 }
  else if lSHost w then
    if !s.linkUp 16 then s.endJob r i 0x89
    else (s.hostRead (lSrc w + off) (min 256 (lLen w - off)) (.copy r i off)).modJob r i fun j => { j with waits := 1 }
  else
    let va := (lSrc w + off) % 2 ^ 64
    let n := min (64 - va % 64) (lLen w - off)
    let t := s.translate linkUnit (s.ringCtx r) (va / 64 * 64) .read
    match t.2 with
    | .error c => t.1.linkFault r i c va
    | .ok (.here a, _) =>
      let q := t.1.engineRead 0x641 (s.ringCtx r) a
      match q.2 with
      | none => q.1.linkFault r i fPoison va
      | some bs => q.1.modJob r i fun j => { j with data := j.data ++ (bs.drop (va % 64)).take n }
    | .ok (.remote dev lpn o, _) =>
      if t.1.isCut dev then t.1.endJob r i 0x53
      else
        match t.1.issueReq 2 dev (s.ringCtx r) (.linkRead r i off) va 16 (extAddr s.gran false lpn o) [] with
        | some s => s.modJob r i fun j => { j with waits := 1 }
        | none => t.1.linkFault r i fUnmapped va

/-- Go on with a job as far as it goes without an answer. A copy between two device addresses reads everything first (R207,
R310); another writes each piece as it arrives. -/
def State.linkRun (s : State) (r i : Nat) (w : List Word) : Nat → State
  | 0 => s
  | n + 1 =>
    match s.job? r i with
    | none => s
    | some j =>
      let off := j.done + j.data.length
      if j.status ≠ 0 ∨ j.waits ≠ 0 ∨ j.moved = true then s
      else if off < lLen w ∧ (j.data.isEmpty ∨ (!lFill w && !lSHost w && !lDHost w) = true) then
        State.linkRun (s.linkGet r i w off) r i w n
      else if j.data.isEmpty then s.modJob r i fun j => { j with moved := true }
      else State.linkRun (s.linkPut r i w) r i w n

/-- Steps enough for a whole job: each reads or writes at least a byte. -/
def State.linkGo (s : State) (r i : Nat) (w : List Word) : State := s.linkRun r i w (2 * lLen w + 2)

/-- The words of a started descriptor. -/
def State.descWords (s : State) (r i : Nat) : List Word :=
  match (s.ring r).at i with
  | some d => d.words
  | none => []

/-- Start a COPY or FILL. -/
def State.startLink (s : State) (r ty : Nat) : State :=
  match s.readyDesc r ty with
  | none => s
  | some w =>
    let i := (s.head r).toNat
    let s := if s.rings.any fun p => !p.2.jobs.isEmpty then s else s.progressed .link
    let s := ((s.startDesc r w).setJob r i (some .fresh)).linkCapture r w
    (s.linkGo r i w).goOn r

/-- COPY (R310). -/
def execCopy (ring : Nat) (s : State) : Host.Outcome State Fault Refusal := .next (s.startLink ring 2)

/-- FILL (R311). -/
def execFill (ring : Nat) (s : State) : Host.Outcome State Fault Refusal := .next (s.startLink ring 3)

/-- Data of a read that a job waits for: `bs` from its outstanding offset on. -/
def State.linkData (s : State) (r i : Nat) (bs : List Byte) : State :=
  match s.job? r i with
  | none => s
  | some j =>
    if j.waits = 0 then s
    else (s.modJob r i fun j => { j with waits := 0, data := j.data ++ bs }).linkGo r i (s.descWords r i)

/-- LINK_COPY_COMPLETE (R310, R213, R319): its bytes are counted on the modules that hold them, and its entry is due. -/
def execLinkCopyComplete (ring : Nat) (seq : Word) (s : State) : Host.Outcome State Fault Refusal :=
  match s.job? ring seq.toNat with
  | none => .next s
  | some j =>
    if j.moved = false ∧ j.status = 0 then .next s
    else
      let w := s.descWords ring seq.toNat
      let s := if lSpv w && j.status != 0x53 then
          forEach (fun s p => s.countOn p.1 (lSpoolId w) p.2 false) s j.share else s
      .next ((s.completeDesc ring seq j.status j.done).goOn ring)

/-! ## The Sornal link lost (R301) -/

/-- What the loss of the Sornal link does to the rings: host rings stop fetching and halt once nothing is in flight; copies that
wait for a host read end with DLINK. -/
def State.ringsLinkLost (s : State) : State :=
  let s := forEach (fun s p => match p.2 with
    | some (.copy r i _) => s.endJob r i 0x89
    | _ => s) s s.hreads
  let s : State := { s with hreads := [] }
  forEach (fun s r =>
    if s.ringDev r then s
    else if s.ringState r = 1 ∨ s.ringState r = 2 then
      (s.setRing r fun x => { x with linkLost := true, fetched := [] }).quiet r
    else s) s (List.range 128)

end Sys2Proof.Machine
end

