-- ==== Sys2Proof/Machine/Descs.lean ====
section
/-! DEFINITION. The other descriptor types (spec/14, R309, R312 to R316): LAUNCH, HINT, PHASE, SPOOL_WAIT, SPOOL_SIGNAL, FENCE. -/
namespace Sys2Proof.Machine

/-! ## LAUNCH (R109, R110, R113, R309) -/

/-- The launch that a descriptor's words describe. -/
def launchOfWords (r i ctx : Nat) (w : List Word) : Launch :=
  let w13 := wordAt w 13
  { ring := r, index := i, ctx := ctx, entry := BitVec.ofNat 64 (dwordAt w 3), args := BitVec.ofNat 64 (dwordAt w 7)
    gx := fld (wordAt w 11) 0 31, gy := fld (wordAt w 12) 16 16, gz := fld (wordAt w 12) 0 16
    threads := fld (wordAt w 14) 0 10, train := fld w13 7 5, split := fld w13 12 3, lsKiB := fld w13 23 9
    regs := fld w13 15 8, wb := bitAt w13 6, resident := bitAt (wordAt w 11) 31, placed := 0, released := 0 }

/-- Block trains of a launch that one hardware cluster holds, B being the blocks a core holds (R113). -/
def trainsPerCluster (l : Launch) : Nat := 16 * blocksPerCore l.threads l.regs l.split l.lsKiB l.wb / l.train

/-- The status that refuses a launch, 0 for none (R110, R113). -/
def State.launchStatus (s : State) (l : Launch) : Nat :=
  if l.entry.toNat % 8 ≠ 0 ∨ l.args.toNat % 64 ≠ 0 ∨ l.gx = 0 ∨ l.gy = 0 ∨ l.gz = 0 ∨ l.threads = 0 ∨ 512 < l.threads
      ∨ l.train = 0 ∨ 16 < l.train ∨ l.gx % l.train ≠ 0 then 0x40
  else if 4 < l.split ∨ lsPart l.split < l.lsKiB then 0x41
  else if l.regs < 32 then 0x42
  else if blocksPerCore l.threads l.regs l.split l.lsKiB l.wb = 0 ∨ trainsPerCluster l = 0 then 0x43
  else if l.resident ∧ trainsPerCluster l * ((List.range 96).filter s.clusterPresent).length
      < l.gx * l.gy * l.gz / l.train then 0x44
  else 0

/-- LAUNCH (R309): the kernel starts, or the launch is refused and nothing of it runs. While DIAG is set a context other than 0
cannot launch: the descriptor stays at HEAD (R43, R327; no rule gives a status, DESIGN CHOICE, log 93). -/
def execLaunch (ring : Nat) (s : State) : Host.Outcome State Fault Refusal :=
  match s.readyDesc ring 1 with
  | none => .next s
  | some w =>
    let l := launchOfWords ring (s.head ring).toNat (s.ringCtx ring) w
    let st := s.launchStatus l
    if s.mayLaunch l.ctx = false then .next s
    else if st ≠ 0 then .next (s.refuseDesc ring w st)
    else
      let s := s.startDesc ring w
      let s := { s with launches := Sparse.set (fun _ => none) s.launches s.nextLaunch (some l)
                        nextLaunch := s.nextLaunch + 1 }
      .next (s.goOn ring)

/-- LAUNCH_COMPLETE (R309): every block has exited and what they issued has completed (R158). -/
def execLaunchComplete (launch : Nat) (s : State) : Host.Outcome State Fault Refusal :=
  match s.launchOf launch with
  | none => .next s
  | some l =>
    if l.released < l.gx * l.gy * l.gz then .next s
    else
      let s := { s with launches := Sparse.set (fun _ => none) s.launches launch none }
      .next ((s.completeDesc l.ring (BitVec.ofNat 32 l.index) 0 0).goOn l.ring)

/-! ## HINT and PHASE -/

/-- HINT (R312, R346): it completes as soon as it is delivered. -/
def execHint (ring : Nat) (s : State) : Host.Outcome State Fault Refusal :=
  match s.readyDesc ring 4 with
  | none => .next s
  | some w =>
    let i := s.head ring
    let s := (s.startDesc ring w).hint (fld (wordAt w 3) 0 8) (fld (wordAt w 3) 28 4) (fld (wordAt w 4) 0 24)
      (wordAt w 5).toNat
    .next ((s.completeDesc ring i 0 0).goOn ring)

/-- PHASE (R313, R345, R351). A step mark on a ring inside a collective lets a pending cap take effect. -/
def execPhase (ring : Nat) (s : State) : Host.Outcome State Fault Refusal :=
  match s.readyDesc ring 5 with
  | none => .next s
  | some w =>
    let i := s.head ring
    let w3 := wordAt w 3
    let s := (s.startDesc ring w).selectPhase (fld w3 0 4)
    let s := if bitAt w3 8 && (s.ring ring).coll then s.applyPending else s
    let s := if bitAt w3 9 then s.setRing ring fun x => { x with coll := true }
      else if bitAt w3 10 then s.setRing ring fun x => { x with coll := false } else s
    .next ((s.collChanged.completeDesc ring i 0 0).goOn ring)

/-! ## SPOOL_WAIT and SPOOL_SIGNAL -/

/-- SPOOL_WAIT (R314): the ring waits until the counter reaches TARGET or is poisoned. -/
def execSpoolWait (ring : Nat) (s : State) : Host.Outcome State Fault Refusal :=
  match s.readyDesc ring 6 with
  | none => .next s
  | some w =>
    let i := s.head ring
    let id := fld (wordAt w 3) 0 14
    let wt : Waiter := { who := .ring ring, id := id, target := dwordAt w 5
                         result := waitOutcome (s.spoolVal id) (dwordAt w 5) }
    let s := (s.startDesc ring w).setRing ring fun x => { x with waiting := some i.toNat, waitSince := s.lcount }
    .next (({ s with waiters := s.waiters ++ [wt] }).setRingState ring 2)

/-- SPOOL_WAIT_SATISFIED (R314, R222): OK at the target, DPOISON for a poisoned counter. -/
def execSpoolWaitSatisfied (ring : Nat) (s : State) : Host.Outcome State Fault Refusal :=
  match s.waiters.find? (fun w => w.who == WaitUnit.ring ring), (s.ring ring).waiting with
  | some w, some i =>
    match w.result with
    | none => .next s
    | some ok =>
      let s := { s with waiters := s.waiters.filter fun w => w.who != WaitUnit.ring ring }
      .next ((s.completeDesc ring (BitVec.ofNat 32 i) (if ok then 0 else 0x85) 0).goOn ring)
  | _, _ => .next s

/-- Modified lines of every core's cache part are written back (R219, device scope): any of them may hold a store of the ring's
context, whichever context allocated it (R107). -/
def State.writeBackCores (s : State) : State := forEach (fun s p => s.writeBackAll p.1) s s.cores

/-- SPOOL_SIGNAL (R315): a release at device scope, then SPL.ADD or SPL.SET on the counter. -/
def execSpoolSignal (ring : Nat) (s : State) : Host.Outcome State Fault Refusal :=
  match s.readyDesc ring 7 with
  | none => .next s
  | some w =>
    let i := s.head ring
    let id := fld (wordAt w 3) 0 14
    let s := (s.startDesc ring w).writeBackCores
    let s := if bitAt (wordAt w 3) 31 then s.spoolSet id (dwordAt w 5) else s.spoolAdd id (dwordAt w 5)
    .next ((s.completeDesc ring i 0 0).goOn ring)

/-! ## FENCE -/

/-- A write to another module that a ring's earlier descriptors have made and that has not been acknowledged (R316, R219): of its
own copies, of stores of blocks that it launched, or of a line that held such a store (a line does not say whose stores it
holds). Copies of its blocks have completed before the FENCE starts. -/
def State.writesUnacked (s : State) (ring : Nat) : Bool :=
  s.reqs.any fun q => match q.2 with
    | some r => match r.owner with
      | .linkWrite k _ => k == ring
      | .store _ _ _ => r.org.ring == some ring
      | .line _ => true
      | _ => false
    | none => false

/-- A started FENCE completes if what it waits for has come (R316). -/
def State.fenceEnd (s : State) (ring : Nat) : State :=
  match (s.ring ring).started.find? fun p => p.2.any fun d => d.result.isNone && dType d.words == 8 with
  | some (i, some d) =>
    if fld (wordAt d.words 3) 0 2 = 3 ∧ s.writesUnacked ring = true then s
    else (s.completeDesc ring (BitVec.ofNat 32 i) 0 0).goOn ring
  | _ => s

/-- RING_FENCE (R307, R316): it starts when every earlier descriptor has completed, and completes at once, or with SCOPE 3 when
their remote writes have been acknowledged, those still in cache parts among them. Offered again, it completes when they are. -/
def execRingFence (ring : Nat) (s : State) : Host.Outcome State Fault Refusal :=
  match s.readyDesc ring 8 with
  | none => .next (s.fenceEnd ring)
  | some w => .next (((s.startDesc ring w).writeBackCores).fenceEnd ring)

end Sys2Proof.Machine
end

