-- ==== Sys2Proof/Machine/Fabric.lean ====
section
/-! DEFINITION. Receiving packets (spec/13, R278 to R292): checks, routing, what the holder of an address does, responses,
line-cuts. -/
namespace Sys2Proof.Machine

/-! ## Fields -/

def pExt (p : Packet) (i : Nat) : Word := wordAt p.ext i
def pOffset (p : Packet) : Nat := fld (pExt p 0) 0 25
def pGran (p : Packet) : Bool := bitAt (pExt p 1) 31
def pEdge (p : Packet) : Bool := bitAt (pExt p 1) 30
def pLpn (p : Packet) : Nat := fld (pExt p 1) 0 14
/-- First word of the SPOOL extension: after ADDR, or first in a SPOOL-NOTIFY (R279). -/
def pSpoolAt (p : Packet) : Nat := if p.ptype = 6 then 0 else 2
def pSpool (p : Packet) : Word := pExt p (pSpoolAt p)
def pSpoolC (p : Packet) : Word := pExt p (pSpoolAt p + 1)
def pSpv (p : Packet) : Bool := bitAt (pSpool p) 31
def pFmt (p : Packet) : Bool := bitAt (pSpool p) 30
def pPsn (p : Packet) : Bool := bitAt (pSpool p) 29
def pId (p : Packet) : Nat := fld (pSpool p) 0 14
def pLen (p : Packet) : Nat := p.len.toNat

/-- The packet is not for a row of type `t` (R281): it is a response, or of another of the types that R279 names. One of no type that it
names is for any row of requests, which drops it. -/
def notFor (p : Packet) (t : Nat) : Bool :=
  p.rsp || (p.ptype.toNat != t && decide (1 ≤ p.ptype.toNat) && decide (p.ptype.toNat ≤ 7))

/-- R281 check 1: the packet type and the fields it needs are valid; a PAIR-ACCUMULATE carries one segment of its FMT (R230). -/
def packetOk (p : Packet) : Bool :=
  let n := pLen p
  if p.rsp then (decide (1 ≤ p.ptype.toNat) && decide (p.ptype.toNat ≤ 5) && p.ptype.toNat != 4 && decide (p.status.toNat ≤ 3))
  else
    match p.ptype.toNat with
    | 1 => decide (1 ≤ n) && decide (n ≤ 64) && p.data.length == 4 * n && p.ext.length == (if pEdge p then 6 else 4)
        && pOffset p % 4 == 0
    | 2 => decide (1 ≤ n) && decide (n ≤ 64) && p.ext.length == 2
    | 3 => decide (1 ≤ n) && decide (n ≤ 64) && p.data.length == 4 * n && p.ext.length == 4 && pSpv p && pOffset p % 4 == 0
    | 4 => p.ext.length == 4 && p.data.length == 4 * n
        && (if pExt p 3 = ~~~ (pExt p 0) then n == (if fld (pExt p 0) 28 2 = 1 then 16 else 32) else n == 16 || n == 32)
    | 5 => p.ext.length == 8 && atomOk (fld (pExt p 2) 8 3) (fld (pExt p 2) 4 3)
        && pOffset p % (atomBits (fld (pExt p 2) 4 3) / 8) == 0
    | 6 => p.ext.length == 4
    | 7 => p.ext.length == 4
    | _ => false

/-! ## Dropping and forwarding (R281, R283) -/

/-- Drop a packet that arrived on a port: counted there, with a record of the failing check. -/
def State.dropPacket (s : State) (port cause : Nat) (p : Packet) : State :=
  (s.count (offFabDrop port) 1).report (0x630 + port) 5 cause none port
    [BitVec.ofNat 32 port, BitVec.ofNat 32 p.src.toNat, BitVec.ofNat 32 p.dst.toNat]

/-- Answer a request (R278, R279): the response goes back to its source. -/
def State.respond (s : State) (p : Packet) (status : Nat) (data : List Byte) : State :=
  let r : Packet := { p with
    rsp := true, status := BitVec.ofNat 3 status, dst := p.src, cls := false, len := BitVec.ofNat 7 (data.length / 4)
    src := BitVec.ofNat 24 s.deviceId, ttl := 0xFFFFFF, ext := [], data := data }
  match s.routePort s.deviceId r.dst.toNat with
  | some k => s.sendOn k r
  | none => s.report 0x640 5 6 none 0xFFFF [0xFFFFFFFF, BitVec.ofNat 32 s.deviceId, BitVec.ofNat 32 r.dst.toNat]

/-- A packet that expects a response. -/
def isRequest (p : Packet) : Bool :=
  !p.rsp && (p.ptype = 1 || p.ptype = 2 || p.ptype = 3 || p.ptype = 5)

/-- Forward a packet for another module (R283): TTL falls by one; without a port a request is answered NOROUTE. -/
def State.forward (s : State) (port : Nat) (p : Packet) : State :=
  match s.routePort p.src.toNat p.dst.toNat with
  | none => if isRequest p then s.respond p 3 [] else s.dropPacket port 6 p
  | some k => if p.ttl.toNat ≤ 1 then s.dropPacket port 7 p else s.sendOn k { p with ttl := p.ttl - 1 }

/-! ## Checks 2 to 5 (R281) -/

/-- `id` lies in the spool range of a context with GLOBAL set. -/
def State.globalSpool (s : State) (id : Nat) : Bool := (List.range 64).any fun c => s.ctxGlobal c && s.inSpool c id

def hasSpool (p : Packet) : Bool := p.ptype = 1 || p.ptype = 3 || p.ptype = 6

/-- Ids that the SPOOL words of a packet yield (R281 check 4). -/
def yielded (p : Packet) : List Nat :=
  let ids (w : Word) : List Nat := if p.ptype = 6 ∨ bitAt w 31 = true then [fld w 0 14] else []
  ids (pSpool p) ++ ids (~~~ (pSpoolC p))

/-- Complements of the SPOOL and COUNT words hold. -/
def pairsOk (p : Packet) : Bool :=
  !hasSpool p || (pSpoolC p == ~~~ (pSpool p) && (p.ptype != 6 || pExt p 3 == ~~~ (pExt p 2)))

/-- A response that no outstanding request expects. -/
def State.strayResponse (s : State) (p : Packet) : Bool :=
  p.rsp && !((Sparse.get (fun _ => none) s.reqs p.tag.toNat).any fun r => r.ptype == p.ptype)

/-- The checks of a packet addressed to this module: none when it passes, else the state after its drop. -/
def State.screen (s : State) (port : Nat) (p : Packet) : Option State :=
  if !packetOk p || s.strayResponse p then some (s.dropPacket port 1 p)
  else if p.job.toNat ≠ s.job ∨ p.epoch.toNat ≠ s.epoch then some (s.dropPacket port 2 p)
  else if s.isCut p.src.toNat || s.isCut p.dst.toNat then some (s.dropPacket port 3 p)
  else if p.rsp then none
  else if !pairsOk p then
    let s := forEach (fun s id => if s.globalSpool id then s.spoolPoison id else s) s (yielded p)
    let bad := if pSpoolC p = ~~~ (pSpool p) then 2 else pSpoolAt p
    some ((s.integrity (0x630 + port) 5 none port (pId p) (pExt p bad) (pExt p (bad + 1))).dropPacket port 4 p)
  else if (hasSpool p && (pSpv p || p.ptype = 6) && !s.globalSpool (pId p)) = true then
    let s := s.dropPacket port 5 p
    some (if p.ptype = 6 then s else s.respond p 1 [])
  else none

/-- A packet that arrives on a port that is UP: forwarded, screened, or performed by `act`. -/
def State.receive (s : State) (port : Nat) (p : Packet) (act : State → State) : State :=
  if !s.linkUp port || decide (16 ≤ port) then s
  else if s.cutAll && p.job.toNat == s.job && p.epoch.toNat == s.epoch then s.dropPacket port 3 p
  else if p.dst.toNat ≠ s.deviceId then s.forward port p
  else
    match s.screen port p with
    | some s => s
    | none => act s

/-! ## At the holder -/

/-- The physical range that a packet names (R183): none when it is refused. -/
def State.holderAddr (s : State) (p : Packet) (n : Nat) : Option Nat :=
  match s.exportAddr (pGran p) (pLpn p) (pOffset p) with
  | some a => if s.dramRange a n then some a else none
  | none => none

/-- Bits of each byte of a WRITE that are written (R279). -/
def edgeMasks (p : Packet) : List Byte :=
  let n := p.data.length
  let f := bytesLE 4 (pExt p 4).toNat
  let l := bytesLE 4 (pExt p 5).toNat
  (List.range n).map fun i =>
    let a : Byte := if pEdge p && decide (i < 4) then f.getD i 0 else 0xFF
    let b : Byte := if pEdge p && decide (n ≤ i + 4) then l.getD (i + 4 - n) 0 else 0xFF
    a &&& b

/-- Perform a WRITE at an address: masked bytes, then the counter by the bytes written (R222, R279). -/
def State.performWrite (s : State) (p : Packet) (a : Nat) : State :=
  let ms := edgeMasks p
  let s := if ms.all (· == 0xFF) then s.writeMem a p.data
    else s.writeBitsAll (((p.data.zip ms).zip (List.range p.data.length)).filterMap fun x =>
      if x.1.2 = 0 then none else some { addr := a + x.2, mask := x.1.2, val := x.1.1 })
  if pSpv p then s.spoolAdd (pId p) (ms.filter (· != 0)).length else s

/-- A WRITE into the peer mailbox (R325, R335), and where it lies: the spec does not say how its ADDR names the mailbox, and bit
29 of ADDR word 1, which R279 leaves open, does here (DESIGN CHOICE, log 92). -/
def pMail (p : Packet) : Bool := bitAt (pExt p 1) 29
def mailAddr (p : Packet) (n : Nat) : Option Nat := if pOffset p + n ≤ 0x10000 then some (mailboxBase + pOffset p) else none

/-- Service core `sc` sends a service message to another module's peer mailbox, as a WRITE with the job's tag and epoch (R335); to a
cut module, or one that no port leads to, nothing goes. It lands in the 8 KiB of the mailbox that are `sc`'s (log 92). -/
def State.tell (s : State) (sc dev : Nat) (ws : List Word) : State :=
  if dev = s.deviceId ∨ s.isCut dev = true then s
  else
    (s.issueReq 1 dev 0 (.gondola sc) (mailboxBase + 0x2000 * sc) ws.length
      ([BitVec.ofNat 32 (0x2000 * sc), 0x20000000] ++ extSpool false false false 0) (bytesOfWords ws)).getD s

/-- READ (R279, R281): a poisoned block is answered POISON. -/
def execRead (port : Nat) (p : Packet) (s : State) : Host.Outcome State Fault Refusal :=
  if notFor p 2 then .next s
  else
    .next (s.receive port p fun s =>
      match s.holderAddr p (4 * pLen p) with
      | none => s.respond p 1 []
      | some a =>
        let r := s.readMem a (4 * pLen p)
        match r.2 with
        | none => r.1.respond p 2 []
        | some bs => r.1.respond p 0 bs)

/-- Add one FP32 value to the word at an address (R228, R229): false when its block is poisoned (R173). -/
def State.addWord (s : State) (a : Nat) (v : Word) : State × Bool :=
  let s := s.crcCheck (a / 64 * 64)
  if s.poisoned (a / 64 * 64) then (s, false)
  else
    let s := s.putWord a (fadd (s.word a) v)
    (match s.mcOf a with
      | some mc => s.count (offRa mc 0) 1
      | none => s, true)

/-- Add values to neighbouring words, then count 4 bytes for each one added; one poisoned block poisons the counter. -/
def State.accumulate (s : State) (a : Nat) (vs : List Word) (sid : Nat) : State × Bool :=
  let r := (vs.zip (List.range vs.length)).foldl (fun (q : State × Nat × Bool) x =>
    let t := q.1.addWord (a + 4 * x.2) x.1
    (t.1, q.2.1 + (if t.2 then 1 else 0), q.2.2 && t.2)) (s, 0, true)
  let s := if r.2.1 = 0 then r.1 else r.1.spoolAdd sid (4 * r.2.1)
  (if r.2.2 then s else s.spoolPoison sid, r.2.2)

/-- The FP32 values of an ACCUMULATE: its words, or its BF16 halves widened (R228, R279). -/
def accValues (p : Packet) : List Word :=
  if pFmt p then (List.range (p.data.length / 2)).map fun i => BitVec.ofNat 32 (natLE ((p.data.drop (2 * i)).take 2) * 2 ^ 16)
  else wordsLE (p.data.length / 4) p.data

/-- ACCUMULATE (R229, R279, R173). -/
def execAccumulate (port : Nat) (p : Packet) (s : State) : Host.Outcome State Fault Refusal :=
  if notFor p 3 then .next s
  else
    .next (s.receive port p fun s =>
      let vs := accValues p
      match s.holderAddr p (4 * vs.length) with
      | none => s.respond p 1 []
      | some a =>
        let r := s.accumulate a vs (pId p)
        r.1.respond p (if r.2 then 0 else 2) [])

/-- An atomic on DRAM (R148, R279): the value it saw; none when the block is poisoned. -/
def State.atomicAt (s : State) (a op ty b c : Nat) : State × Option Nat :=
  let n := atomBits ty / 8
  let r := s.readMem a n
  match r.2 with
  | none => (r.1, none)
  | some bs =>
    let old := natLE bs
    (r.1.writeMem a (bytesLE n (atomNew op ty old b c)), some old)

/-- ATOMIC (R279, R281): performed here, answered with the value it saw in 8 bytes. -/
def execAtomic (port : Nat) (p : Packet) (s : State) : Host.Outcome State Fault Refusal :=
  if notFor p 5 then .next s
  else
    .next (s.receive port p fun s =>
      let op := fld (pExt p 2) 8 3
      let ty := fld (pExt p 2) 4 3
      let m := 2 ^ atomBits ty
      match s.holderAddr p (atomBits ty / 8) with
      | none => s.respond p 1 []
      | some a =>
        let r := s.atomicAt a op ty (dwordAt p.ext 4 % m) (dwordAt p.ext 6 % m)
        match r.2 with
        | none => r.1.respond p 2 []
        | some v => r.1.respond p 0 (bytesLE 8 v))

/-- SPOOL_NOTIFY (R280, R213): the counter, and its poison once COUNT has been added. -/
def execSpoolNotify (port : Nat) (p : Packet) (s : State) : Host.Outcome State Fault Refusal :=
  if notFor p 6 then .next s
  else
    .next (s.receive port p fun s =>
      let n := (pExt p 2).toNat
      let s := if n = 0 then s else s.spoolAdd (pId p) n
      if pPsn p then s.spoolPoison (pId p) else s)

/-! ## Responses (R281, R282) -/

def fabRefused (st : Nat) : Bool := st == 1 || st == 3

/-- Registers that `n` register-wide value bytes go to, as a load extends them (R144). -/
def extendWid (wid v : Nat) : Nat :=
  match wid with
  | 0 => v % 2 ^ 8
  | 1 => toTwos 32 (signedOf 8 v)
  | 2 => v % 2 ^ 16
  | 3 => toTwos 32 (signedOf 16 v)
  | _ => v

def widBytes (wid : Nat) : Nat := if wid < 2 then 1 else if wid < 4 then 2 else if wid = 4 then 4 else if wid = 5 then 8 else 16

/-- An acquire that another module has answered completes once no other request of its instruction is outstanding (R220, R221). -/
def State.acqDone (s : State) (r : Req) (core blk grp : Nat) : State :=
  if !r.acq || s.reqs.any (fun q => q.2.any fun x => x.acq && x.serves core blk grp r.org.mask) then s
  else s.observe core blk grp r.org.mask

/-- A WRITE of a checkpoint's copy has not been performed (R333). -/
def State.ckBad (s : State) (ck : Nat) : State :=
  { s with svc := { s.svc with ckpts := Sparse.modify (fun _ => none) s.svc.ckpts ck fun c => c.map fun x =>
      { x with copying := x.copying.map fun y => { y with bad := true } } } }

/-- Bytes of a slot that stage 5 of a recovery reads (R336): none fails the stage. -/
def State.ckGot (s : State) (ck pos : Nat) (bs : Option (List Byte)) : State :=
  { s with svc := { s.svc with restore := s.svc.restore.map fun x =>
      { x with failed := x.failed || bs.isNone, got := x.got ++ (bs.toList.map fun b => (ck, pos, b)) } } }

/-- What a finished request does (R282); `st` its status, `bs` its data. -/
def State.finishReq (s : State) (r : Req) (st : Nat) (bs : List Byte) : State :=
  let va := r.addr.toNat
  match r.owner with
  | .thread core blk grp lane d wid fill =>
    if fabRefused st then s.threadFault core r.ctx fUnmapped grp r.org.mask r.org.pc.toNat va
    else if st = 2 then s.threadFault core r.ctx fPoison grp r.org.mask r.org.pc.toNat va
    else if r.stale then s.acqDone r core blk grp
    else
      let o := if fill then va % 64 else va % 4
      let v := natLE ((bs.drop o).take (widBytes wid))
      (s.modGroup core blk grp fun g => g.putLanes d (widRegs wid) [(lane, extendWid wid v)]).acqDone r core blk grp
  | .atomic core blk grp d op ty lanes =>
    let s := s.progressed (.atomic core)
    if fabRefused st then s.threadFault core r.ctx fUnmapped grp r.org.mask r.org.pc.toNat va
    else if st = 2 then s.threadFault core r.ctx fPoison grp r.org.mask r.org.pc.toNat va
    else if r.stale then s.acqDone r core blk grp
    else
      let v := natLE (bs.take 8) % 2 ^ atomBits ty
      (s.putVals core blk grp d (atomBits ty / 32) (lanes.map fun x => (x.1, atomReturn op ty v x.2))).acqDone r core blk grp
  | .store core _ grp => if fabRefused st then s.threadFault core r.ctx fUnmapped grp r.org.mask r.org.pc.toNat va else s
  | .line core => if fabRefused st then s.threadFault core r.ctx fUnmapped r.org.grp r.org.mask r.org.pc.toNat va else s
  | .copyHead core blk grp =>
    s.modCore core fun c => { c with heads := c.heads.map fun x =>
      if x.blk = blk ∧ x.grp = grp ∧ x.va = va then { x with data := some (if st = 0 then bs else []) } else x }
  | .copyRead core id off =>
    match (s.core core).copy id with
    | none => s
    | some c =>
      if fabRefused st then s.copyFaults core c fUnmapped va
      else if st = 2 then s.copyFaults core c fPoison va
      else
        let s := (s.progressed (.stream core)).modCopy core id fun x =>
          { x with fetched := Sparse.set (fun _ => []) x.fetched off bs, waits := x.waits - 1 }
        match (s.core core).copy id with
        | none => s
        | some c => if c.waits = 0 ∧ c.phase = .reading then s.runCopy core c else s
  | .copyWrite core id =>
    match (s.core core).copy id with
    | none => s
    | some c =>
      if fabRefused st then s.copyFaults core c fUnmapped va
      else s.modCopy core id fun x => { x with waits := x.waits - 1 }
  | .linkRead ring i off =>
    if fabRefused st then s.linkFault ring i fUnmapped va
    else if st = 2 then s.linkFault ring i fPoison va
    else
      let w := s.descWords ring i
      s.linkData ring i ((bs.drop (va % 64)).take (min (64 - va % 64) (lLen w - off)))
  | .linkWrite ring i => if fabRefused st then s.linkFault ring i fUnmapped va else s
  | .ckWrite ck => if st = 0 then s else s.ckBad ck
  | .ckRead ck pos => s.ckGot ck pos (if st = 0 then some bs else none)
  | .gondola _ => s
  | .gone _ => s

/-- The line that a cacheable load of another module's memory fills (R178, R185). -/
def State.fillLine (s : State) (r : Req) (bs : List Byte) : State :=
  match r.owner with
  | .thread core _ _ _ _ _ true =>
    match (s.translate core r.ctx (r.addr.toNat / 64 * 64) .read).2 with
    | .ok (.remote dev lpn off, true) =>
      let k := 2 ^ 64 + r.addr.toNat / 64 * 64
      if bs.length = 64 ∧ ((s.core core).line k).isNone ∧ r.noFill = false then
        s.allocate core k { bytes := bs, dirty := 0, ctx := r.ctx, remote := some (dev, lpn, off), slot := 0, org := .none }
      else s
    | _ => s
  | _ => s

/-- FABRIC_RESPONSE (R281, R282). A response that matches no outstanding request fails check 1. -/
def execFabricResponse (port : Nat) (p : Packet) (s : State) : Host.Outcome State Fault Refusal :=
  if p.rsp = false then .next s
  else
    .next (s.receive port p fun s =>
      match Sparse.get (fun _ => none) s.reqs p.tag.toNat with
      | none => s
      | some r =>
        let s := s.endReq p.tag.toNat
        let s := if p.status = 0 then s.fillLine r p.data else s
        s.finishReq r p.status.toNat p.data)

/-- The unit that issued a request (R388). -/
def Owner.source : Owner → Nat
  | .thread c _ _ _ _ _ _ => c
  | .atomic c _ _ _ _ _ _ => c
  | .store c _ _ => c
  | .line c => c
  | .copyHead c _ _ => c
  | .copyRead c _ _ => c
  | .copyWrite c _ => c
  | .linkRead _ _ _ => 0x641
  | .linkWrite _ _ => 0x641
  | .ckWrite _ => 0x653
  | .ckRead _ _ => 0x652
  | .gondola sc => 0x650 + sc
  | .gone src => src

/-- FABRIC_REQUEST_TIMEOUT (R395 code 7, R282): after HANG_REQ counts the request completes as NOROUTE. -/
def execFabricRequestTimeout (tag : Nat) (s : State) : Host.Outcome State Fault Refusal :=
  match Sparse.get (fun _ => none) s.reqs tag with
  | none => .next s
  | some r =>
    let waited := (s.lcount - r.since).toNat
    if waited < (s.reg (offGond + 0x28)).toNat then .next s
    else
      let s := s.report r.owner.source 0xA 7 (some r.ctx) 0xFFFF (addrWords waited)
      .next ((s.endReq tag).finishReq r 3 [])

/-! ## Line-cuts (R287 to R292) -/

/-- The contexts of the job (R287). -/
def State.affected (s : State) : List Nat := (List.range 64).filter s.ctxGlobal

/-- A stream-engine copy has a global side. -/
def CopyOp.global (c : CopyOp) : Bool :=
  (cSSpace c.desc == 2 && decide (2 ^ 63 ≤ c.sBase % 2 ^ 64)) || (cDSpace c.desc == 2 && decide (2 ^ 63 ≤ c.dBase % 2 ^ 64))

/-- Step 2: every counter in the range of every affected context is poisoned. -/
def State.poisonRanges (s : State) : State :=
  forEach (fun s c =>
    let w := s.reg (offCtx c + 4)
    if bitAt w 31 then
      forEach State.spoolPoison s ((List.range (fld w 16 14 + 1 - fld w 0 14)).map (· + fld w 0 14))
    else s) s s.affected

/-- Step 3: copies of affected contexts with a global side stop with PEER_LOST. -/
def State.stopCopies (s : State) : State :=
  let s := forEach (fun s p =>
    forEach (fun s c => if c.phase != .refused && c.global && s.ctxGlobal c.ctx then s.copyLost p.1 c else s) s p.2.copies) s s.cores
  forEach (fun s p =>
    forEach (fun s j =>
      if s.ctxGlobal (s.ringCtx p.1) && lGlobal (s.descWords p.1 j.1) then s.endJob p.1 j.1 0x53 else s) s p.2.jobs) s s.rings

/-- Step 4: loads and atomics outstanding to a cut module return 0; stores to it are discarded. -/
def State.endLostReqs (s : State) : State :=
  forEach (fun s q => match q.2 with
    | some r =>
      if !s.isCut r.dst then s
      else
        match r.owner with
        | .thread core blk grp lane d wid _ =>
          let t := s.endReq q.1
          (if r.stale then t else t.modGroup core blk grp fun g => g.putLanes d (widRegs wid) [(lane, 0)]).acqDone r core blk grp
        | .atomic core blk grp d _ ty lanes =>
          let t := s.endReq q.1
          (if r.stale then t
           else t.modGroup core blk grp fun g => g.putLanes d (atomBits ty / 32) (lanes.map fun x => (x.1, 0))).acqDone r core blk grp
        | .copyHead _ _ _ => (s.endReq q.1).finishReq r 3 []
        | .ckWrite _ => (s.endReq q.1).finishReq r 3 []
        | .ckRead _ _ => (s.endReq q.1).finishReq r 3 []
        | _ => s.endReq q.1
    | none => s) s s.reqs

/-- R290: one change, whether LOST is in the table already or not. The 65th distinct id cuts every module of the job. -/
def State.applyCut (s : State) (lost reason port src : Nat) : State :=
  let s := if s.cut.contains lost then s
    else if 64 ≤ s.cut.length then { s with cutAll := true } else { s with cut := s.cut ++ [lost] }
  let s := s.poisonRanges.stopCopies.endLostReqs
  s.report src 6 0 none 0xFFFF [BitVec.ofNat 32 lost, BitVec.ofNat 32 reason, BitVec.ofNat 32 port]

/-- The CUT extension (R279). -/
def extCut (lost reason port : Nat) : List Word :=
  let w : Word := BitVec.ofNat 32 (lost % 2 ^ 24)
  [w, ~~~ w, BitVec.ofNat 32 (reason * 2 ^ 28 + port % 16), 0]

/-- Send a notice on every job port that is UP, but for one. -/
def State.flood (s : State) (except : Option Nat) (p : Packet) : State :=
  forEach (fun s k => if except = some k then s else s.sendOn k p) s s.jobPorts

/-- The line-cut procedure of R288: applied here, and sent on. -/
def State.startCut (s : State) (lost reason port : Nat) (except : Option Nat) : State :=
  let src := match except with
    | some k => 0x630 + k
    | none => 0x650
  (s.applyCut lost reason port src).flood except (s.request 7 0xFFFFFF 0 0 (extCut lost reason port) [])

/-- LINE_CUT (R289): a notice whose LOST is in the cut table is dropped; another is applied, and forwarded as it came, one hop on, on
every other job port. -/
def execLineCut (port : Nat) (p : Packet) (s : State) : Host.Outcome State Fault Refusal :=
  let lost := fld (pExt p 0) 0 24
  if p.ptype ≠ 7 ∨ s.linkUp port = false ∨ 16 ≤ port then .next s
  else if packetOk p = false ∨ p.rsp = true then .next (s.dropPacket port 1 p)
  else if p.job.toNat ≠ s.job ∨ p.epoch.toNat ≠ s.epoch then .next (s.dropPacket port 2 p)
  else if pExt p 1 ≠ ~~~ (pExt p 0) then .next (s.dropPacket port 4 p)
  else if s.cut.contains lost then .next s
  else
    let t := s.applyCut lost (fld (pExt p 2) 28 4) (fld (pExt p 2) 0 4) (0x630 + port)
    .next (if p.ttl.toNat ≤ 1 then t else t.flood (some port) { p with ttl := p.ttl - 1 })

/-- A new epoch or job clears the cut table (R292). -/
def State.clearCuts (s : State) : State := { s with cut := [], cutAll := false }

end Sys2Proof.Machine
end

