-- ==== Sys2Proof/Machine/Reduction.lean ====
section
/-! DEFINITION. Reduction on the bridle tree (spec/11, R228 to R240): node-table entries, pair nodes, leaves, casting. -/
namespace Sys2Proof.Machine

/-! ## Node-table entries (R231, R232) -/

def nKind (e : List Word) : Nat := fld (wordAt e 0) 28 4
def nBf16 (e : List Word) : Bool := fld (wordAt e 0) 26 2 == 1
def nRoot (e : List Word) : Bool := bitAt (wordAt e 0) 25
def nCastf (e : List Word) : Bool := bitAt (wordAt e 0) 24
def nCtx (e : List Word) : Nat := fld (wordAt e 0) 16 6
def nStep (e : List Word) : Nat := fld (wordAt e 0) 0 16
def nSegs (e : List Word) : Nat := fld (wordAt e 1) 0 26
def nBuf (e : List Word) : Nat := dwordAt e 2
def nDest (e : List Word) : Nat := dwordAt e 4
def nParentDev (e : List Word) : Nat := fld (wordAt e 6) 0 24
def nParent (e : List Word) : Nat := fld (wordAt e 7) 0 20
def nChild (e : List Word) : Option (Nat × Nat) :=
  if bitAt (wordAt e 8) 31 then some (fld (wordAt e 8) 0 24, fld (wordAt e 9) 0 20) else none
def nLeft (e : List Word) : Option Nat := if bitAt (wordAt e 10) 31 then some (fld (wordAt e 10) 0 20) else none
def nSpool (e : List Word) : Nat := fld (wordAt e 11) 16 14
def nTrig (e : List Word) : Nat := fld (wordAt e 11) 0 14
def nTarget (e : List Word) : Nat := dwordAt e 12
def nInc (e : List Word) : Nat := (wordAt e 14).toNat

def State.nodeAddr (s : State) (i : Nat) : Nat := s.ntBase + 128 * i

/-- The address range lies in bonded DRAM in service. -/
def State.bondedRange (s : State) (a n : Nat) : Bool := isBonded a && isBonded (a + n - 1) && s.dramRange a n

/-- Bytes of a PAIR's staging space with its state array (R232). -/
def pairBytes (segs : Nat) : Nat := 128 * segs + ceilDiv (ceilDiv segs 4) 64 * 64

/-- A FACTOR entry keeps R245's rules. -/
def State.factorOk (s : State) (e : List Word) : Bool :=
  let r := fld (wordAt e 1) 20 6 + 1
  let rows := fld (wordAt e 1) 0 20
  let op := fld (wordAt e 0) 26 2
  decide (op ≤ 1) && decide (1 ≤ rows) && !s.partAbsent (fld (wordAt e 0) 22 3)
    && s.bondedRange (dwordAt e 2) (4 * rows * r)
    && s.bondedRange (dwordAt e 4) (4 * (if op = 0 then r * r else rows * r))
    && (op == 0 || s.bondedRange (dwordAt e 6) (4 * r * r)) && s.bondedRange (dwordAt e 8) 32
    && s.inSpool (nCtx e) (nSpool e) && s.inSpool (nCtx e) (nTrig e)

/-- A KIND 1 to 4 entry keeps the rules of R232 and R245. DEST and SPOOL_ID are judged where the entry's kind uses them: in a LEAF,
and in a root without CASTF. -/
def State.nodeOk (s : State) (e : List Word) : Bool :=
  let n := nSegs e
  let common := decide (1 ≤ n) && decide (fld (wordAt e 0) 26 2 ≤ 1)
  let out := s.dramRange (nDest e) (128 * n) && s.inSpool (nCtx e) (nSpool e)
  match nKind e with
  | 1 => common && s.dramRange (nBuf e) (128 * n) && s.inSpool (nCtx e) (nTrig e) && out
  | 2 => common && s.bondedRange (nBuf e) (pairBytes n) && (!nRoot e || nCastf e || out)
  | 3 => common && s.dramRange (nBuf e) (128 * n) && s.inSpool (nCtx e) (nTrig e)
  | 4 => s.factorOk e
  | _ => false

/-- Entry `i` as the adders see it (R231, R232, R446): the cached one, else the one in DRAM, which is cached when its complements
hold; none stands for KIND 0. -/
def State.node (s : State) (i : Nat) : State × Option (List Word) :=
  let keep (s : State) (e : List Word) : State × Option (List Word) := (s, if s.nodeOk e then some e else none)
  match Sparse.get (fun _ => []) s.tables.nodeCache i with
  | w :: ws => keep s (w :: ws)
  | [] =>
    if s.ntSize ≤ i ∨ s.dramRange (s.nodeAddr i) 128 = false then (s, none)
    else
      let r := s.readEntry (s.nodeAddr i) 32
      match r.2 with
      | none => (r.1, none)
      | some ws =>
        if complementsOk 16 ws then
          let e := ws.take 16
          keep { r.1 with tables := { r.1.tables with nodeCache := Sparse.set (fun _ => []) r.1.tables.nodeCache i e } } e
        else
          let k := ((List.range 16).find? fun j => wordAt ws (16 + j) != ~~~ (wordAt ws j)).getD 0
          (r.1.integrity (((r.1.mcOf (s.nodeAddr i)).map mcSource).getD 0x650) 9 none (sourceUnit (((r.1.mcOf (s.nodeAddr i)).map mcSource).getD 0x650)) (s.nodeAddr i + 4 * k)
            (wordAt ws k) (wordAt ws (16 + k)), none)

/-- The words of entry `i` that count now (R231): those cached, else those that its table holds. -/
def State.nodeNow (s : State) (i : Nat) : List Word :=
  match Sparse.get (fun _ => []) s.tables.nodeCache i with
  | [] => s.entryWords0 (s.nodeAddr i) 16
  | e => e

/-- Empty the segment states of a PAIR entry, and discard the first arrivals staged for it (R233, R400). -/
def State.emptySegs (s : State) (i : Nat) (e : List Word) : State :=
  let s := (s.tables.lines.filter fun l => l.2.1 / 2 ^ 26 == i).foldl (fun (s : State) l =>
    { s with tables := { s.tables with
        staged := Sparse.set (fun _ => []) s.tables.staged l.2.1 []
        lines := s.tables.lines.filter fun k => k.2.1 != l.2.1 } }) s
  s.writeMem (nBuf e + 128 * nSegs e) (List.replicate (ceilDiv (nSegs e) 4) 0)

/-- Take entry `i` as it stands in the table (R231): the whole of it, when its complements hold and its block is sound. -/
def State.loadNode (s : State) (i : Nat) : State :=
  let s : State := { s with tables := { s.tables with nodeCache := Sparse.set (fun _ => []) s.tables.nodeCache i [] } }
  if s.ntSize ≤ i ∨ s.dramRange (s.nodeAddr i) 128 = false then s
  else
    let r := s.readEntry (s.nodeAddr i) 32
    match r.2 with
    | some ws =>
      if complementsOk 16 ws then
        { r.1 with tables := { r.1.tables with nodeCache := Sparse.set (fun _ => []) r.1.tables.nodeCache i (ws.take 16) } }
      else r.1
    | none => r.1

/-- The words of a cached entry of `n` words that change go to the table at `a` too, with their complements, but for those that
context 0 has changed there meanwhile, whose change is still to take effect (R231). -/
def State.updateEntry (s : State) (a n : Nat) (old new : List Word) : State :=
  forEach (fun s j =>
    if wordAt old j = wordAt new j ∨ s.word (a + 4 * j) ≠ wordAt old j then s
    else (s.writeMem (a + 4 * j) (bytesLE 4 (wordAt new j).toNat)).writeMem (a + 4 * (n + j)) (bytesLE 4 (~~~ (wordAt new j)).toNat))
    s (List.range n)

/-- An entry in force changes its STEP or target (R233, R237). -/
def State.updateNode (s : State) (i : Nat) (old new : List Word) : State :=
  let s := s.updateEntry (s.nodeAddr i) 16 old new
  { s with tables := { s.tables with nodeCache := Sparse.set (fun _ => []) s.tables.nodeCache i new } }

/-- Write an entry whole, on die and in the table. -/
def State.putNode (s : State) (i : Nat) (e : List Word) : State :=
  let s := s.writeMem (s.nodeAddr i) (bytesOfWords (withComplements e))
  { s with tables := { s.tables with nodeCache := Sparse.set (fun _ => []) s.tables.nodeCache i e } }

/-- Raise STEP by one, modulo 2^16. -/
def stepNode (e : List Word) : List Word := setWord e 0 (setFld (wordAt e 0) 0 16 (nStep e + 1))

/-- Raise TRIG_TARGET by TRIG_INC. -/
def retarget (e : List Word) : List Word :=
  let t := nTarget e + nInc e
  setWord (setWord e 12 (BitVec.ofNat 32 t)) 13 (BitVec.ofNat 32 (t / 2 ^ 32))

/-! ## Counters and records -/

/-- Raise counter `i` of the adder of the controller that serves an address (R251). -/
def State.raCount (s : State) (a i : Nat) : State :=
  match s.mcOf a with
  | some mc => s.count (offRa mc i) 1
  | none => s

/-- The controller that counts and reports a segment for a KIND 0 entry or a bad header (R232): `die` is where the
segment entered. -/
def State.dropMc (s : State) (die node : Nat) : Nat :=
  let low := 32 + (s.bmcList die).headD (8 * die)
  if node < s.ntSize then (s.mcOf (s.nodeAddr node)).getD low else low

/-- A record of class STEP about a segment: node, step expected, step of the segment, segment. -/
def State.stepRecord (s : State) (src cause node want got seg : Nat) : State :=
  s.report src 9 cause none (sourceUnit src) [BitVec.ofNat 32 node, BitVec.ofNat 32 want, BitVec.ofNat 32 got, BitVec.ofNat 32 seg]

/-- Drop a segment whose entry is KIND 0 or cannot take it (R232, R239). -/
def State.dropSeg (s : State) (die : Nat) (g : Segment) : State :=
  let mc := s.dropMc die g.node
  (s.count (offRa mc 6) 1).stepRecord (mcSource mc) 1 g.node 0 g.step g.seg

/-! ## Sending (R230, R235) -/

/-- Reduction header of a segment (R230). -/
def segHead (g : Segment) (bf16 : Bool) : List Word :=
  let w : Word := BitVec.ofNat 32 (b2n g.down * 2 ^ 31 + b2n g.poison * 2 ^ 30 + b2n bf16 * 2 ^ 28 + g.node % 2 ^ 20)
  [w, BitVec.ofNat 32 g.seg, BitVec.ofNat 32 (g.step % 2 ^ 16), ~~~ w]

/-- Send a segment (R230): one for this module never leaves it. An up segment in BF16 is converted, and each clamp counted
at the controller of address `a` (R235, R237). -/
def State.sendSeg (s : State) (dev : Nat) (g : Segment) (bf16 : Bool) (a : Nat) : State :=
  let ns := g.vals.map toBf16
  let s := if bf16 && !g.poison then
      (match s.mcOf a with
        | some mc => s.count (offRa mc 3) (ns.map Narrowed.sat).sum
        | none => s) else s
  if dev = s.deviceId then
    let g := if bf16 then { g with vals := ns.map fun n => ofBf16 n.code } else g
    { s with tables := { s.tables with segQ := s.tables.segQ ++ [g] } }
  else
    let data := if bf16 then ns.flatMap fun n => bytesLE 2 n.code else bytesOfWords g.vals
    s.post 4 dev (data.length / 4) (segHead g bf16) data

/-! ## Down segments (R239, R240) -/

/-- A down segment at a valid entry. -/
def State.downSeg (s : State) (die : Nat) (e : List Word) (g : Segment) : State :=
  match nKind e with
  | 2 =>
    let s := match nChild e with
      | some (dev, n) => s.sendSeg dev { g with node := n } false 0
      | none => s
    match nLeft e with
    | some n => s.sendSeg s.deviceId { g with node := n } false 0
    | none => s
  | 1 =>
    if !s.dramRange (nDest e + 128 * g.seg) 128 || !s.inSpool (nCtx e) (nSpool e) then s.dropSeg die g
    else if g.poison then s.spoolPoison (nSpool e)
    else (s.writeMem (nDest e + 128 * g.seg) (bytesOfWords g.vals)).spoolAdd (nSpool e) 128
  | _ => s.dropSeg die g

/-! ## Pair nodes (R233 to R236) -/

/-- Address of the byte that holds a segment's state, and the state (R232, R233). -/
def stateByte (e : List Word) (seg : Nat) : Nat := nBuf e + 128 * nSegs e + seg / 4
def State.segState (s : State) (e : List Word) (seg : Nat) : Nat := bitsOf (s.byte (stateByte e seg)).toNat (2 * (seg % 4)) 2
def State.setSegState (s : State) (e : List Word) (seg v : Nat) : State :=
  s.writeBitsAll [{ addr := stateByte e seg, mask := BitVec.ofNat 8 (3 * 4 ^ (seg % 4)), val := BitVec.ofNat 8 (v * 4 ^ (seg % 4)) }]

def segKey (node seg : Nat) : Nat := 2 ^ 26 * node + seg

/-- Take a line out of use. -/
def State.dropPairLine (s : State) (key : Nat) : State :=
  { s with tables := { s.tables with
      staged := Sparse.set (fun _ => []) s.tables.staged key []
      lines := s.tables.lines.filter fun l => l.2.1 != key } }

/-- PAIR_LINE_SPILL (R234): the oldest staged value of a controller goes to its staging slot. -/
def State.spill (s : State) (mc : Nat) : State :=
  match s.tables.lines.find? fun l => l.1 == mc with
  | none => s
  | some (_, key, a) =>
    let vs := Sparse.get (fun _ => []) s.tables.staged key
    ((s.writeMem a (bytesOfWords vs)).count (offRa mc 2) 1).dropPairLine key

/-- Stage a first arrival in a pair line, of which each adder has 1,024 (R234). -/
def State.stage (s : State) (e : List Word) (g : Segment) : State :=
  let a := nBuf e + 128 * g.seg
  let mc := (s.mcOf a).getD 32
  let key := segKey g.node g.seg
  let s := s.dropPairLine key
  let s := if 1024 ≤ (s.tables.lines.filter fun l => l.1 == mc).length then s.spill mc else s
  let s := if s.tables.lines.any fun l => l.1 == mc then s else s.progressed (.adder mc)
  { s with tables := { s.tables with
      staged := Sparse.set (fun _ => []) s.tables.staged key g.vals
      lines := s.tables.lines ++ [(mc, key, a)] } }

/-- The staged value, from its line or its slot; none when the slot's block is poisoned (R173, R234). -/
def State.unstage (s : State) (e : List Word) (g : Segment) : State × Option (List Word) :=
  let key := segKey g.node g.seg
  match Sparse.get (fun _ => []) s.tables.staged key with
  | v :: vs => (s.dropPairLine key, some (v :: vs))
  | [] =>
    let r := s.readMem (nBuf e + 128 * g.seg) 128
    (r.1, r.2.map (wordsLE 32))

/-- SEGMENT_FORWARD (R235): the completed segment of a PAIR; none for a poisoned one. -/
def State.forwardSeg (s : State) (die : Nat) (e : List Word) (g : Segment) (sum : Option (List Word)) : State :=
  let out : Segment := { down := false, poison := sum.isNone, node := nParent e, seg := g.seg, step := nStep e
                         vals := sum.getD (List.replicate 32 0) }
  if !nRoot e then s.sendSeg (nParentDev e) out (nBf16 e) (nBuf e + 128 * g.seg)
  else if nCastf e then s.downSeg die e { out with down := true, node := g.node }
  else
    match sum with
    | none => s.spoolPoison (nSpool e)
    | some vs => (s.writeMem (nDest e + 128 * g.seg) (bytesOfWords vs)).spoolAdd (nSpool e) 128

/-- Every segment of an entry is DONE, as its state array reads (R172); one in a poisoned block is not. -/
def State.allDone (s : State) (e : List Word) : State × Bool :=
  let a := nBuf e + 128 * nSegs e
  let n := ceilDiv (nSegs e) 4
  let s := s.crcRange a n
  (s, !s.anyPoison a n && (List.range (nSegs e)).all fun i => s.segState e i == 2)

/-- A segment reaches DONE; the last one empties every state and raises STEP (R233). -/
def State.segDone (s : State) (die : Nat) (e : List Word) (g : Segment) (sum : Option (List Word)) : State :=
  let s := (s.setSegState e g.seg 2).raCount (nBuf e + 128 * g.seg) 1
  let s := (s.forwardSeg die e g sum).progressed (.adder ((s.mcOf (nBuf e + 128 * g.seg)).getD 32))
  let q := s.allDone e
  if q.2 then
    (q.1.writeMem (nBuf e + 128 * nSegs e) (List.replicate (ceilDiv (nSegs e) 4) 0)).updateNode g.node e (stepNode e)
  else q.1

/-- An up segment whose STEP matches, or that counts as poisoned (R233, R236). A poisoned block of the state array lets
nothing be added and poisons the entry's counter (R173). -/
def State.pairArrive (s : State) (die : Nat) (e : List Word) (g : Segment) : State :=
  let b := stateByte e g.seg / 64 * 64
  let s := s.crcCheck b
  let a := nBuf e + 128 * g.seg
  if s.poisoned b then (if s.inSpool (nCtx e) (nSpool e) then s.spoolPoison (nSpool e) else s)
  else
    match s.segState e g.seg with
    | 0 => if g.poison then s.setSegState e g.seg 3 else (s.stage e g).setSegState e g.seg 1
    | 1 =>
      let r := s.unstage e g
      match r.2 with
      | some vs => r.1.segDone die e g (if g.poison then none else some ((vs.zip g.vals).map fun p => fadd p.1 p.2))
      | none => r.1.segDone die e g none
    | 3 => s.segDone die e g none
    | _ => (s.raCount a 5).stepRecord (mcSource ((s.mcOf a).getD 32)) 1 g.node (nStep e) g.step g.seg

/-- An up segment at a PAIR entry: older ones are dropped, newer ones poison the step (R236). -/
def State.upSeg (s : State) (die : Nat) (e : List Word) (g : Segment) : State :=
  let age := (nStep e + 2 ^ 16 - g.step % 2 ^ 16) % 2 ^ 16
  let a := nBuf e + 128 * g.seg
  if age = 0 then s.pairArrive die e g
  else if age ≤ 32767 then s.raCount a 4
  else (s.stepRecord (mcSource ((s.mcOf a).getD 32)) 2 g.node (nStep e) g.step g.seg).pairArrive die e { g with poison := true }

/-- A segment with a good header arrives at its entry. One whose SEG lies beyond the entry, and an up segment at an entry that
is no PAIR, is dropped as for a KIND 0 entry (log 31). -/
def State.segment (s : State) (die : Nat) (g : Segment) : State :=
  let r := s.node g.node
  match r.2 with
  | none => r.1.dropSeg die g
  | some e =>
    if nKind e ≠ 4 ∧ nSegs e ≤ g.seg then r.1.dropSeg die g
    else if g.down then r.1.downSeg die e g
    else if nKind e = 2 then r.1.upSeg die e g
    else r.1.dropSeg die g

/-- A PAIR-ACCUMULATE's header (R230): good when its complement holds and its FMT is valid for its direction. -/
def segHeadOk (p : Packet) : Bool :=
  let w := pExt p 0
  let f := fld w 28 2
  pExt p 3 == ~~~ w && decide (f ≤ 1) && (!bitAt w 31 || f == 0)

/-- The segment of a packet (R230). -/
def segOfPacket (p : Packet) : Segment :=
  let w := pExt p 0
  let vals := if fld w 28 2 = 1 then (List.range 32).map fun i => BitVec.ofNat 32 (natLE ((p.data.drop (2 * i)).take 2) * 2 ^ 16)
    else wordsLE 32 p.data
  { down := bitAt w 31, poison := bitAt w 30, node := fld w 0 20, seg := (pExt p 1).toNat, step := fld (pExt p 2) 0 16
    vals := vals }

/-- A header that R230 drops: counted, and an integrity event. -/
def State.badHead (s : State) (port : Nat) (p : Packet) : State :=
  let mc := s.dropMc (port / 8) (fld (pExt p 0) 0 20)
  (s.count (offRa mc 6) 1).integrity (mcSource mc) 10 none mc 0 (pExt p 0) (pExt p 3)

/-- PAIR_ACCUMULATE (R230 to R240): a packet from a port, or the oldest segment of this module's own. -/
def execPairAccumulate (src : PairSource) (s : State) : Host.Outcome State Fault Refusal :=
  match src with
  | .ownModule =>
    match s.tables.segQ with
    | [] => .next s
    | g :: gs => .next (({ s with tables := { s.tables with segQ := gs } } : State).segment 0 g)
  | .port n p =>
    if notFor p 4 then .next s
    else .next (s.receive n p fun s => if segHeadOk p then s.segment (n / 8) (segOfPacket p) else s.badHead n p)

/-! ## Firing (R237, R238) -/

/-- When entry `i` last fired, or was armed. -/
def State.nodeFiring (s : State) (i trig : Nat) : Firing :=
  match Sparse.get (fun _ => none) (s.tables.nodeFire.map fun p => (p.1, some p.2)) i with
  | some f => f
  | none => { change := Sparse.get (fun _ => 0) s.tables.armNode trig, again := false }

/-- Note a firing at a change. -/
def State.noteFire (s : State) (i change : Nat) : State :=
  { s with tables := { s.tables with
      nodeFire := Sparse.set (fun _ => Firing.none) s.tables.nodeFire i { change := change, again := true } } }

/-- Read segment `k` of an entry's BUF: none when its block is poisoned. -/
def State.readSeg (s : State) (e : List Word) (k : Nat) : State × Option (List Word) :=
  let r := s.readMem (nBuf e + 128 * k) 128
  (r.1, r.2.map (wordsLE 32))

/-- What a LEAF or CAST does with segment `k` when it fires. -/
def State.fireSeg (s : State) (e : List Word) (poisoned : Bool) (k : Nat) : State :=
  let r := if poisoned then (s, none) else s.readSeg e k
  let g : Segment := { down := nKind e == 3, poison := r.2.isNone, node := nParent e, seg := k, step := nStep e
                       vals := r.2.getD (List.replicate 32 0) }
  if nKind e = 3 then r.1.sendSeg s.deviceId g false 0
  else if nRoot e then
    match r.2 with
    | none => r.1.spoolPoison (nSpool e)
    | some vs => (r.1.writeMem (nDest e + 128 * k) (bytesOfWords vs)).spoolAdd (nSpool e) 128
  else r.1.sendSeg (nParentDev e) g (nBf16 e) (nBuf e + 128 * k)

/-- A LEAF (kind 1) or CAST (kind 3) fires (R237, R238): its trigger was met at a change, by the value that the counter had then. -/
def State.fireNode (s : State) (idx kind : Nat) : State :=
  let r := s.node idx
  match r.2 with
  | none => r.1
  | some e =>
    if nKind e ≠ kind then r.1
    else
      match r.1.fires (r.1.nodeFiring idx (nTrig e)) (nTrig e) (nTarget e) with
      | none => r.1
      | some (change, poisoned) =>
        let s := r.1.noteFire idx change
        let s := forEach (fun s k => s.fireSeg e poisoned k) s (List.range (nSegs e))
        s.updateNode idx e (stepNode (retarget e))

/-- LEAF_FIRE (R237). -/
def execLeafFire (idx : Nat) (s : State) : Host.Outcome State Fault Refusal := .next (s.fireNode idx 1)

/-- CAST_FIRE (R238). -/
def execCastFire (idx : Nat) (s : State) : Host.Outcome State Fault Refusal := .next (s.fireNode idx 3)

end Sys2Proof.Machine
end

