-- ==== Sys2Proof/Machine/Factor.lean ====
section
/-! DEFINITION. The factor unit (spec/11, R245 to R248): GRAM, ORTHO, completion. -/
namespace Sys2Proof.Machine

def fOp (e : List Word) : Nat := fld (wordAt e 0) 26 2
def fPart (e : List Word) : Nat := fld (wordAt e 0) 22 3
def fRank (e : List Word) : Nat := fld (wordAt e 1) 20 6 + 1
def fRows (e : List Word) : Nat := fld (wordAt e 1) 0 20

/-- Entry (i, j) of a packed row-major matrix with `r` columns. -/
def matAt (m : List Word) (r i j : Nat) : Word := wordAt m (i * r + j)

/-- H[i][j] of R246: from −0, one rounded multiply-add per row. -/
def gramEntry (p : List Word) (r rows i j : Nat) : Word :=
  (List.range rows).foldl (fun h q => ffma (matAt p r q i) (matAt p r q j) h) 0x80000000

/-- GRAM (R246): the upper triangle, mirrored. -/
def gram (p : List Word) (r rows : Nat) : List Word :=
  (List.range r).flatMap fun i => (List.range r).map fun j => gramEntry p r rows (min i j) (max i j)

/-- Columns of L made so far: none for a dropped one. -/
abbrev Cols := List (Option (List Word))

/-- Subtract the products of kept columns: fma(−x[k], y[k], a) for ascending k. -/
def reduceBy (cols : Cols) (x y : Nat → Nat → Word) (a : Word) : Word :=
  ((List.range cols.length).foldl (fun a k => match cols.getD k none with
    | some _ => ffma (fnegBits (x k 0)) (y k 0) a
    | none => a) a)

/-- l[i][k] of the columns so far. -/
def lAt (cols : Cols) (i k : Nat) : Word := wordAt ((cols.getD k none).getD []) i

/-- Column j of R247. -/
def orthoCol (h : List Word) (r : Nat) (dropAll : Bool) (t : Word) (cols : Cols) (j : Nat) : Option (List Word) :=
  let d := reduceBy cols (fun k _ => lAt cols j k) (fun k _ => lAt cols j k) (matAt h r j j)
  if dropAll || !(FVal.le (FVal.scale (fdec t) (-20)) (fdec d)) then none
  else
    let ljj := fsqrt d
    some ((List.range r).map fun i =>
      if i < j then 0 else if i = j then ljj
      else fdiv (reduceBy cols (fun k _ => lAt cols i k) (fun k _ => lAt cols j k) (matAt h r i j)) ljj)

/-- The trace t of R247. -/
def orthoTrace (h : List Word) (r : Nat) : Word := (List.range r).foldl (fun t j => fadd t (matAt h r j j)) 0x80000000

/-- The factorisation of R247. -/
def orthoCols (h : List Word) (r : Nat) : Cols :=
  let t := orthoTrace h r
  let dropAll := !(FVal.lt (FVal.zero false) (fdec t) && (fdec t).isFinite)
  (List.range r).foldl (fun cols j => cols ++ [orthoCol h r dropAll t cols j]) []

/-- One row of P̂ := P L⁻ᵀ. -/
def orthoRow (cols : Cols) (p : List Word) (r q : Nat) : List Word :=
  (List.range r).foldl (fun y j =>
    y ++ [match cols.getD j none with
      | none => 0
      | some c => fdiv (reduceBy (cols.take j) (fun k _ => lAt cols j k) (fun k _ => wordAt y k) (matAt p r q j)) (wordAt c j)])
    []

/-- The completion record (R245). -/
def factorRecord (e : List Word) (status flags kept dropped mask : Nat) (t : Word) : List Word :=
  [BitVec.ofNat 32 (status + flags * 2 ^ 8 + kept * 2 ^ 16 + dropped * 2 ^ 24), BitVec.ofNat 32 mask,
   BitVec.ofNat 32 (mask / 2 ^ 32), t, BitVec.ofNat 32 (nStep e), 0, 0, 0]

/-- FACTOR_FIRE (R237, R245): the entry joins its partition's factor unit, in firing order. -/
def execFactorFire (idx : Nat) (s : State) : Host.Outcome State Fault Refusal :=
  let r := s.node idx
  match r.2 with
  | none => .next r.1
  | some e =>
    if nKind e ≠ 4 then .next r.1
    else
      match r.1.fires (r.1.nodeFiring idx (nTrig e)) (nTrig e) (nTarget e) with
      | none => .next r.1
      | some (change, poisoned) =>
        let job : FactorJob := { entry := e, poisoned := poisoned, computed := false, out := [], record := [] }
        let s := (r.1.noteFire idx change).updateNode idx e (stepNode (retarget e))
        let s := if (Sparse.get (fun _ => []) s.tables.factor (fPart e)).isEmpty then s.progressed (.factor (fPart e)) else s
        .next { s with tables := { s.tables with factor := Sparse.modify (fun _ => []) s.tables.factor (fPart e) (· ++ [job]) } }

def State.factorQueue (s : State) (p : Nat) : List FactorJob := Sparse.get (fun _ => []) s.tables.factor p

def State.setFactor (s : State) (p : Nat) (js : List FactorJob) : State :=
  { s with tables := { s.tables with factor := Sparse.set (fun _ => []) s.tables.factor p js } }

/-- The job is lost to a poisoned trigger or block (R245). -/
def FactorJob.lose (j : FactorJob) : FactorJob :=
  { j with poisoned := true, computed := true, out := [], record := factorRecord j.entry 0x60 0 0 0 0 0 }

/-- A GRAM result. -/
def FactorJob.gram (j : FactorJob) (p : List Word) : FactorJob :=
  { j with computed := true, out := Machine.gram p (fRank j.entry) (fRows j.entry)
           record := factorRecord j.entry 0 0 0 0 0 0 }

/-- An ORTHO result (R245, R247). -/
def FactorJob.ortho (j : FactorJob) (p h : List Word) : FactorJob :=
  let r := fRank j.entry
  let t := orthoTrace h r
  let cols := orthoCols h r
  let kept := (cols.filter Option.isSome).length
  let mask := (List.range r).foldl (fun m k => if (cols.getD k none).isNone then m + 2 ^ k else m) 0
  { j with computed := true, out := (List.range (fRows j.entry)).flatMap fun q => orthoRow cols p r q
           record := factorRecord j.entry 0 (b2n (kept == 0) + 2 * b2n (!(fdec t).isFinite)) kept (r - kept) mask t }

/-- The running entry of a factor unit, when it has operation `op` and has not been computed. -/
def State.factorHead (s : State) (p op : Nat) : Option (FactorJob × List FactorJob) :=
  match s.factorQueue p with
  | j :: js => if j.computed = false ∧ fOp j.entry = op ∧ s.ctxRuns (nCtx j.entry) = true then some (j, js) else none
  | [] => none

/-- GRAM (R246). -/
def execGram (p : Nat) (s : State) : Host.Outcome State Fault Refusal :=
  match s.factorHead p 0 with
  | none => .next s
  | some (j, js) =>
    if j.poisoned then .next (s.setFactor p (j.lose :: js))
    else
      let n := fRows j.entry * fRank j.entry
      let r := s.readMem (dwordAt j.entry 2) (4 * n)
      match r.2 with
      | none => .next (r.1.setFactor p (j.lose :: js))
      | some bs => .next (r.1.setFactor p (j.gram (wordsLE n bs) :: js))

/-- ORTHO (R247). -/
def execOrtho (p : Nat) (s : State) : Host.Outcome State Fault Refusal :=
  match s.factorHead p 1 with
  | none => .next s
  | some (j, js) =>
    if j.poisoned then .next (s.setFactor p (j.lose :: js))
    else
      let n := fRows j.entry * fRank j.entry
      let m := fRank j.entry * fRank j.entry
      let r := s.readMem (dwordAt j.entry 2) (4 * n)
      let q := r.1.readMem (dwordAt j.entry 6) (4 * m)
      match r.2, q.2 with
      | some bs, some hs => .next (q.1.setFactor p (j.ortho (wordsLE n bs) (wordsLE m hs) :: js))
      | _, _ => .next (q.1.setFactor p (j.lose :: js))

/-- FACTOR_COMPLETE (R245): OUT, the record, and SPOOL_ID by the bytes of both; only the record and the poison when the entry was
lost. -/
def execFactorComplete (p : Nat) (s : State) : Host.Outcome State Fault Refusal :=
  match s.factorQueue p with
  | [] => .next s
  | j :: js =>
    if !j.computed then .next s
    else
      let e := j.entry
      let s := ((s.progressed (.factor p)).setFactor p js).count (offFuDone p) 1
      let rec_ := bytesOfWords j.record
      if j.poisoned then .next ((s.writeMem (dwordAt e 8) rec_).spoolPoison (nSpool e))
      else
        let s := (s.writeMem (dwordAt e 4) (bytesOfWords j.out)).writeMem (dwordAt e 8) rec_
        .next (s.spoolAdd (nSpool e) (4 * j.out.length + 32))

end Sys2Proof.Machine
end

