-- ==== Sys2Proof/Machine/Link.lean ====
section
/-! DEFINITION. The receiving side and the training of a link (spec/13, R271 to R277, R288; spec/14, R296, R301): links 0 to
15 are the Bihel ports, link 16 is the Sornal link. Times are local counts of 10 ns (R18). -/
namespace Sys2Proof.Machine

/-! ## Training states (R277) -/

def lkOff : Nat := 0
def lkDetect : Nat := 1
def lkEqualise : Nat := 2
def lkWidth : Nat := 3
def lkInit : Nat := 4
def lkUp : Nat := 5
def lkLost : Nat := 6
def lkDown : Nat := 7

/-- PORT_CTRL.EN; the Sornal link has no such bit. -/
def State.linkEn (s : State) (k : Nat) : Bool := k == 16 || bitAt (s.reg (offPort k)) 0

/-- PORT_STATUS, or SORNAL_STATUS: state, width, good lanes (R293). -/
def State.setLinkStatus (s : State) (k st width : Nat) (lanes : BitVec 8) : State :=
  s.setReg (offLinkStatus k) (BitVec.ofNat 32 (st * 2 ^ 28 + width * 2 ^ 26 + lanes.toNat * 2 ^ 18))

def State.linkWidth (s : State) (k : Nat) : Nat := fld (s.reg (offLinkStatus k)) 26 2
def State.laneOk (s : State) (k : Nat) : BitVec 8 := BitVec.ofNat 8 (fld (s.reg (offLinkStatus k)) 18 8)

/-- Enter a training state; entering it empties the replay buffer and the queues, which outside UP hold nothing (R276). -/
def State.enterLink (s : State) (k st : Nat) (lanes : BitVec 8) : State :=
  (s.setLink k fun l =>
    { Link.off with since := s.lcount, lanes := lanes, peer := l.peer, sent := l.sent }).setLinkStatus k st 0 lanes

/-- Enter DOWN, LANE_OK showing the lanes that pass on both sides, the cause of too narrow a link (R367, log 102); with EN clear the
port goes on to OFF. -/
def State.linkToDown (s : State) (k : Nat) (lanes : BitVec 8 := 0) : State := s.enterLink k (if s.linkEn k then lkDown else lkOff) lanes

/-- Enter DETECT. -/
def State.linkToDetect (s : State) (k : Nat) : State := s.enterLink k lkDetect 0

/-- How long a link has been in its training state. -/
def State.linkAge (s : State) (k : Nat) : Nat := (s.lcount - (s.link k).since).toNat

/-- Lanes of the halves (R275). -/
def lowHalf : BitVec 8 := 0x0F
def highHalf : BitVec 8 := 0xF0
def hasHalf (lanes half : BitVec 8) : Bool := lanes &&& half == half

/-- The width for lanes that pass on both sides (R277): 3 X8, 1 lanes 0 to 3, 2 lanes 4 to 7, 0 none. -/
def widthOf (lanes : BitVec 8) : Nat :=
  if lanes = 0xFF then 3 else if hasHalf lanes lowHalf then 1 else if hasHalf lanes highHalf then 2 else 0

/-- The lanes of a width. -/
def activeLanes (width : Nat) : BitVec 8 :=
  if width = 3 then 0xFF else if width = 1 then lowHalf else if width = 2 then highHalf else 0

/-! ## Loss (R276, R288, R301) -/

/-- HREADs outstanding when the Sornal link is lost are failed (R301): a moored read ends with code 5 (R380). -/
def State.failMooredRead (s : State) : State :=
  if s.hreads.any fun p => p.2 == some .moored then s.setRegFld (offMoor + 0xC) 0 8 5 else s

/-- Completion entries of device rings that waited for their host writes are written when these have been sent, or are discarded
(R301, R320). -/
def State.retireDevice (s : State) : State :=
  forEach (fun s (p : Nat × Ring) => if s.ringDev p.1 then s.retire p.1 else s) s s.rings

/-- A link in UP is lost: LOST, counted; a job port starts the line-cut procedure; the Sornal link's rings halt. -/
def State.loseLink (s : State) (k : Nat) : State :=
  let job := s.jobPort k
  let s := (s.enterLink k lkLost 0).count (offLinkCnt k 3) 1
  if k = 16 then s.failMooredRead.ringsLinkLost.retireDevice
  else if job then s.startCut (fld (s.reg (offPort k + 0x18)) 0 24) 0 k (some k)
  else s

/-- LINK_LOSS (R276): 200 counts in UP without a flit that passes its CRC. -/
def execLinkLoss (lk : Nat) (s : State) : Host.Outcome State Fault Refusal :=
  if lk ≤ 16 ∧ s.linkUp lk = true ∧ 200 ≤ (s.lcount - (s.link lk).lastGood).toNat then .next (s.loseLink lk) else .next s

/-- SORNAL_LINK_LOSS (R276, R301): the Sornal link in UP is lost, for either cause of R276. -/
def execSornalLinkLoss (s : State) : Host.Outcome State Fault Refusal :=
  if s.linkUp 16 then .next (s.loseLink 16) else .next s

/-! ## Re-sending (R273) -/

/-- Re-send from ACK + 1: every flit of the replay buffer, with the ACK and the credits that are due now. -/
def State.resend (s : State) (k : Nat) : State :=
  let fs := (s.link k).unacked
  if fs.length = 0 then s
  else (s.count (offLinkCnt k 1) fs.length).setLink k fun l =>
    fs.foldl (fun (l : Link) f => l.put 1 f.1 f.2.1 f.2.2) { l with lastAck := s.lcount }

/-- RESEND_TIMEOUT (R273): 80 counts with flits unacknowledged and ACK unchanged. -/
def execResendTimeout (lk : Nat) (s : State) : Host.Outcome State Fault Refusal :=
  let l := s.link lk
  if lk ≤ 16 ∧ s.linkUp lk = true ∧ l.unacked ≠ [] ∧ 80 ≤ (s.lcount - l.lastAck).toNat then .next (s.resend lk)
  else .next s

/-! ## Lanes (R275) -/

/-- LANE_BAD (R275, R276): outside the active set it only shows; in it an X8 port narrows to the half whose lanes are good and
re-sends; with none the link is lost. -/
def execLaneBad (lk lane : Nat) (s : State) : Host.Outcome State Fault Refusal :=
  if ¬ (lk ≤ 16 ∧ lane < 8) then .next s
  else
    let ok := s.laneOk lk &&& ~~~ (1#8 <<< lane)
    let w := s.linkWidth lk
    let st := s.linkState lk
    if st = lkUp ∧ bitAt (activeLanes w) lane = true then
      let n := if w = 3 then widthOf ok else 0
      if n = 0 then .next (s.loseLink lk)
      else .next (((s.setLinkStatus lk st n ok).count (offLinkCnt lk 2) 1).resend lk)
    else .next ((s.setLinkStatus lk st w ok).setLink lk fun l => { l with lanes := l.lanes &&& ok })

/-! ## Receiving a flit (R271 to R274) -/

/-- Bytes of the packet at the front of a Bihel stream (R278, R279); 0 while they cannot be told. -/
def bihelLen (bs : List Byte) : Nat :=
  let ws := wordsLE 6 bs
  let n := 4 * fld (wordAt ws 1) 24 7
  let words := if bitAt (wordAt ws 0) 27 then 4 + n / 4
    else
      match fld (wordAt ws 0) 28 4 with
      | 1 => (if bitAt (wordAt ws 5) 30 then 10 else 8) + n / 4
      | 2 => 6
      | 3 => 8 + n / 4
      | 4 => 8 + n / 4
      | 5 => 12
      | 6 => 8
      | 7 => 8
      | _ => 4
  if bs.length < 24 ∧ words ≠ 4 then 0 else ceilDiv words 2 * 8

/-- Bytes of the packet at the front of a Sornal stream (R297, R298): LEN of a read request is what it asks for. -/
def sornalLen (bs : List Byte) : Nat :=
  let ws := wordsLE 2 bs
  let t := fld (wordAt ws 0) 28 4
  let n := fld (wordAt ws 1) 0 7
  let words := if (t = 2 ∨ t = 4) ∧ bitAt (wordAt ws 0) 27 = false then 4 else 4 + n
  if bs.length < 8 then 0 else ceilDiv words 2 * 8

/-- Take whole packets off a queue's stream; an empty header marks the rest of the flit empty (R272). The packets themselves
arrive as the rows that name them (log 40). -/
def takePackets (sornal : Bool) : Nat → List Byte → List Byte
  | 0, bs => bs
  | n + 1, bs =>
    if bs.length < 4 then bs
    else if natLE (bs.take 4) / 2 ^ 28 = 0 then []
    else
      let k := if sornal then sornalLen bs else bihelLen bs
      if k = 0 ∨ bs.length < k then bs else takePackets sornal n (bs.drop k)

/-- Flits of the replay buffer that ACK `a` does not cover (R273): it covers those up to SEQ `a` when `a` is one of them. -/
def afterAck (a : Nat) (l : List (Nat × Nat × List Byte)) : List (Nat × Nat × List Byte) :=
  if l.any fun x => x.1 == a then (l.dropWhile fun x => x.1 != a).drop 1 else l

/-- Credits that a flit returns for one of its two queues. -/
def Link.addCredit (l : Link) (q n : Nat) : Link :=
  { l with credits := Sparse.set (fun _ => 64) l.credits q (l.credit q + n) }

/-- ACK and credits of a good flit (R271, R273, R274). -/
def Link.takeAck (l : Link) (now : DWord) (w0 w1 : Word) : Link :=
  let rest := afterAck (fld w0 4 12) l.unacked
  let l := { l with unacked := rest, lastAck := if rest.length = l.unacked.length then l.lastAck else now, lastGood := now }
  (l.addCredit (fld w1 29 3) (fld w1 20 9)).addCredit (fld w1 13 3) (fld w1 4 9)

/-- NAK is due in the next flit, once until a flit comes in order (R273). -/
def Link.refuse (l : Link) : Link := if l.nakSent then l else { l with nak := true, nakSent := true }

/-- Flit buffers that the part of a packet at the end of a queue's stream holds (R274). -/
def heldFlits (bs : List Byte) : Nat := ceilDiv bs.length 244

/-- A DATA flit (R273, R274): in order it is accepted and its payload joins its queue's stream. It holds one of the queue's 64 buffers
while a packet that it brings a part of is not whole; a buffer that is freed returns a credit. -/
def Link.takeData (l : Link) (sornal : Bool) (seq q : Nat) (payload : List Byte) : Link :=
  if seq ≠ (l.rxAck + 1) % 4096 then l.refuse
  else
    let old := Sparse.get (fun _ => []) l.rx q
    let new := takePackets sornal (old.length + payload.length + 1) (old ++ payload)
    { l with
      rxAck := seq, nak := false, nakSent := false
      rx := Sparse.set (fun _ => []) l.rx q new
      giveBack := Sparse.modify (fun _ => 0) l.giveBack q (· + (heldFlits old + 1 - heldFlits new)) }

/-- What a flit has let the link send. -/
def State.sendOnLink (s : State) (k : Nat) : State :=
  let s := s.pump k
  if k = 16 then s.retireDevice else s

/-- FLIT_RECEIVE (R271 to R274), in state UP. -/
def execFlitReceive (lk : Nat) (flit : List Byte) (s : State) : Host.Outcome State Fault Refusal :=
  if ¬ (lk ≤ 16 ∧ s.linkUp lk = true ∧ flit.length = 256) then .next s
  else
    let w0 : Word := BitVec.ofNat 32 (natLE (flit.take 4))
    let w1 : Word := BitVec.ofNat 32 (natLE ((flit.drop 4).take 4))
    let t := fld w0 28 4
    let bad (s : State) : State := s.count (offLinkCnt lk 0) 1
    if (crc32c (flit.take 252)).toNat ≠ natLE (flit.drop 252) then
      .next ((bad (s.setLink lk Link.refuse)).pump lk)
    else if 3 ≤ t then .next (bad (s.setLink lk fun l => { l with lastGood := s.lcount }))
    else
      let s := s.setLink lk fun l =>
        let l := l.takeAck s.lcount w0 w1
        if t = 1 then l.takeData (lk == 16) (fld w0 16 12) (fld w0 0 3) ((flit.drop 8).take 244) else l
      let s := if bitAt w0 3 then s.resend lk else s
      .next (s.sendOnLink lk)

/-! ## Training rows (R277) -/

/-- PORT_SIGNAL_DETECT: signal on every lane of at least one half, within 10 ms. -/
def execPortSignalDetect (lk : Nat) (lanes : BitVec 8) (s : State) : Host.Outcome State Fault Refusal :=
  if lk ≤ 16 ∧ s.linkState lk = lkDetect ∧ widthOf lanes ≠ 0 ∧ s.linkAge lk ≤ 1000000 then
    .next (s.enterLink lk lkEqualise lanes)
  else .next s

/-- DETECT_TIMEOUT: no signal within 10 ms. -/
def execDetectTimeout (lk : Nat) (s : State) : Host.Outcome State Fault Refusal :=
  if lk ≤ 16 ∧ s.linkState lk = lkDetect ∧ 1000000 ≤ s.linkAge lk then .next (s.linkToDown lk) else .next s

/-- What a side tells the other in WIDTH (R277, R296): the module's serial number, and on a Bihel port the number of the port. Where
they stand in a TRAIN flit's payload is the model's choice (log 96). -/
def State.trainPayload (s : State) (lk : Nat) : List Byte := [BitVec.ofNat 8 (lk % 16)] ++ s.recordBytes 8 16

/-- EQUALISE_DONE: each lane with signal has passed or failed; `lanes` pass. After 2 ms it is too late for a lane to pass (log 96). -/
def execEqualiseDone (lk : Nat) (lanes : BitVec 8) (s : State) : Host.Outcome State Fault Refusal :=
  if lk ≤ 16 ∧ s.linkState lk = lkEqualise then
    let ok := if s.linkAge lk ≤ 200000 then lanes &&& (s.link lk).lanes else 0
    .next ((s.enterLink lk lkWidth ok).setLink lk fun l => l.put 2 0 0 (s.trainPayload lk))
  else .next s

/-- The lanes a link may use of those that pass on both sides: at fallback level 1 of S6 the Sornal link trains at X4 on the half
that trained (R366). -/
def State.lanesAllowed (s : State) (lk : Nat) (both : BitVec 8) : BitVec 8 :=
  if lk = 16 ∧ 1 ≤ s.start.levels.getD 6 0 then (if hasHalf both lowHalf then both &&& lowHalf else both &&& highHalf)
  else both

/-- WIDTH_AGREED: `lanes` pass on the other side; X8, then lanes 0 to 3, then lanes 4 to 7, else DOWN. The other side has told its port
number (on the Sornal link there is none) and its serial number. -/
def execWidthAgreed (lk : Nat) (lanes : BitVec 8) (port : BitVec 4) (serial : BitVec 128) (s : State) :
    Host.Outcome State Fault Refusal :=
  if ¬ (lk ≤ 16 ∧ s.linkState lk = lkWidth) then .next s
  else
    let s := s.setLink lk fun l => { l with peer := some (if lk = 16 then 0 else port, serial) }
    let both := s.lanesAllowed lk (lanes &&& (s.link lk).lanes)
    if widthOf both = 0 then .next (s.linkToDown lk both)
    else .next ((s.enterLink lk lkInit both).setLinkStatus lk lkInit (widthOf both) both)

/-- INIT_READY: both sides are ready; SEQ and ACK start at 0 and every queue has its credits. -/
def execInitReady (lk : Nat) (s : State) : Host.Outcome State Fault Refusal :=
  if lk ≤ 16 ∧ s.linkState lk = lkInit then
    let lanes := (s.link lk).lanes
    .next (((s.enterLink lk lkUp lanes).setLinkStatus lk lkUp (widthOf lanes) lanes).setLink lk fun l =>
      { l with lastGood := s.lcount, lastAck := s.lcount })
  else .next s

/-- LOST_RETRY: after 1 ms. -/
def execLostRetry (lk : Nat) (s : State) : Host.Outcome State Fault Refusal :=
  if lk ≤ 16 ∧ s.linkState lk = lkLost ∧ 100000 ≤ s.linkAge lk then .next (s.linkToDetect lk) else .next s

/-- DOWN_RETRY: after 100 ms. -/
def execDownRetry (lk : Nat) (s : State) : Host.Outcome State Fault Refusal :=
  if lk ≤ 16 ∧ s.linkState lk = lkDown ∧ 10000000 ≤ s.linkAge lk then .next (s.linkToDetect lk) else .next s

/-! ## PORT_CTRL (R293) -/

/-- RETRAIN takes the port to DETECT; on a job port in UP it counts as a loss. A port that is off, with EN clear, stays so
(log 41). -/
def State.retrainPort (s : State) (k : Nat) : State :=
  if s.linkState k = lkOff ∧ s.linkEn k = false then s
  else
    let s := if s.linkUp k && s.jobPort k then s.loseLink k else s
    s.linkToDetect k

/-- PORT_RETRAIN (R293, R276). -/
def execPortRetrain (port : Nat) (s : State) : Host.Outcome State Fault Refusal :=
  if port < 16 then .next ((s.dropPend 0x650 (offPort port)).retrainPort port) else .next s

/-- A write of PORT_CTRL: JOBPORT, DATELINE and EN are stored; EN takes a port out of OFF, or from DOWN to OFF (R277); RETRAIN
acts after that. -/
def State.writePortCtrl (s : State) (k : Nat) (v : Word) : State :=
  let s := s.setReg (offPort k) (v &&& 7)
  let s := if s.linkState k = lkOff ∧ bitAt v 0 = true then s.linkToDetect k
    else if s.linkState k = lkDown ∧ bitAt v 0 = false then s.enterLink k lkOff 0 else s
  if bitAt v 3 then s.retrainPort k else s

end Sys2Proof.Machine
end

