-- ==== Sys2Proof/Machine/Start.lean ====
section
/-! DEFINITION. Starts (spec/17, R366 to R379): the steps S0 to S8, the start journal and fallbacks, memory that is kept or
zero-filled, what S8 sets up, the moored state. -/
namespace Sys2Proof.Machine

/-- MOOR_LEVELS (R380). -/
def State.showLevels (s : State) : State :=
  s.setReg (offMoor + 8) (BitVec.ofNat 32 (((List.range 9).map fun n => (s.start.level n % 4) * 4 ^ n).sum))

/-! ## Limits and fallbacks (R366, R367, R376) -/

/-- Limit of a step in local counts of 10 ns. -/
def stepLimit (n : Nat) (full : Bool) : Nat :=
  100000 * (match n with
    | 0 => 100
    | 1 => 50
    | 2 => 200
    | 3 => 300
    | 4 => if full then 2000 else 60
    | 5 => if full then 1500 else 400
    | 6 => 20
    | 7 => 500
    | _ => 200)

/-- Add a unit to a list of units out of service. -/
def addUnit (u : Nat) (l : List Nat) : List Nat := if l.contains u then l else l ++ [u]

/-- Partitions offline from manufacture (R371): FIXED of a written record; the factory record names none (log 43). -/
def Start.fixed (x : Start) : List Nat :=
  if x.recordWritten then bitList 8 (Sparse.get (fun _ => (0 : Byte)) x.flash 0x48).toNat else []

/-- Partitions offline: those that fallbacks took out, and those of FIXED, which count towards the limit (R371). -/
def Start.outParts (x : Start) : List Nat := x.fixed.foldl (fun l u => addUnit u l) x.offline

/-- The next fallback of a step that failed at a unit, in S3 at an array and column of that core: none when no level is left, or when
the fallback would leave more than 2 partitions offline, 2 BMCs of one die or 4 LMCs of one die out of service, or has no unit
to take out. -/
def Start.fallback (x : Start) (n unit : Nat) (site : Nat × Nat := (0, 0)) : Option Start :=
  let up (l : Nat) : Start := { x with levels := x.levels.set n l }
  let off (l p : Nat) : Option Start :=
    let o := addUnit p x.outParts
    if p < 8 ∧ !x.outParts.contains p ∧ o.length ≤ 2 then some { up l with offline := addUnit p x.offline } else none
  match n, x.level n with
  | 1, 0 => some (up 1)
  | 2, 0 => off 1 unit
  | 3, 0 => some (if unit < 1536 then { up 1 with narrow := x.narrow ++ [(unit, site)] } else up 1)
  | 3, 1 => if unit < 1536 then off 2 (unit / 192) else none
  | 4, 0 =>
    let o := addUnit unit x.outBmc
    if unit < 16 ∧ (o.filter fun b => b / 8 == unit / 8).length ≤ 2 then some { up 1 with outBmc := o } else none
  | 5, 0 => some (up 1)
  | 5, 1 => some (up 2)
  | 5, 2 =>
    let o := addUnit unit x.outLmc
    if unit < 32 ∧ (o.filter fun b => b / 16 == unit / 16).length ≤ 4 then some { up 3 with outLmc := o } else none
  | 6, 0 => some (up 1)
  | _, _ => none

/-- A step is shown failed, or running, by an entry's word (R376). -/
def stepFailed (w : Word) : Bool := fld w 26 2 == 3
def stepRunning (n : Nat) (w : Word) : Bool := fld w 26 2 == 0 && fld w 28 4 == n

/-- Word of step `n` in the `k`-th newest entry. -/
def Start.word (x : Start) (k n : Nat) : Option Word := (x.journal[k]?).map fun e => wordAt e.words n

/-- The level of one step at S0, from the entry before this start's (R376): a failed step, or one interrupted twice, moves to
its next fallback. -/
def Start.nextLevel (x : Start) (n : Nat) : Start :=
  match x.word 0 n with
  | none => x
  | some w =>
    if stepFailed w then (x.fallback n (fld w 0 16) ((x.journal[0]?).elim (0, 0) fun e => e.site)).getD x
    else if stepRunning n w ∧ (x.word 1 n).any (stepRunning n) then (x.fallback n 0xFFFF).getD x
    else x

def Start.nextLevels (x : Start) : Start := (List.range 9).foldl Start.nextLevel x

/-- CLEAR_FALLBACKS, and SELFTEST with CLEAR (R378, R381): every level 0 and every unit back. What the last start's steps came
to stays in the journal, so R376 still applies to it. -/
def Start.clearLevels (x : Start) : Start :=
  { x with
    levels := List.replicate 9 0, offline := [], outBmc := [], outLmc := [], narrow := []
    journal := x.journal.map fun e => { e with levels := List.replicate 9 0 } }

/-! ## Beginning a start -/

/-- Self-test runs every present partition at the point of divider code `c` (R15, R16, R368). -/
def State.runAt (s : State) (c : Nat) : State :=
  forEach (fun s p => (s.setPart p fun x => { x with code := c, toCode := none, rail := codeMv c }).showRun p) s s.present

/-- Begin a step: it runs, DIAG is set at S2 (R368), links train at S6 (R366). -/
def State.beginStep (s : State) (n : Nat) : State :=
  let s := s.setProgress n 0 (s.start.level n) (if n = 0 ∧ s.start.tripWait then 3 else 0) 0xFFFF
  let s := s.modStart fun x => { x with since := s.lcount }
  if n = 2 then (s.setSvc 3 true).runAt 0
  else if n = 6 then
    forEach (fun s k => if s.linkEn k ∧ s.linkState k = lkOff then s.linkToDetect k else s) s (List.range 17)
  else s

/-- Partitions offline are marked absent (R11, R415). -/
def State.markAbsent (s : State) (off : List Nat) : State :=
  forEach (fun s p => s.setReg (offPart p) 0x80000000) s (off.filter (· < 8))

/-- A start begins (R366, R375, R376): `kind` 0 cold, 1 reset, 2 SELFTEST; full or short forms; memory kept or not. -/
def State.beginStart (s : State) (kind : Nat) (full keep : Bool) : State :=
  let s := s.modStart Start.nextLevels
  let seq : Word := match s.start.journal with
    | e :: _ => e.seq + 1
    | [] => 0
  let s := s.modStart fun x => { x with
    journal := ({ seq := seq, kind := kind, words := List.replicate 9 0, levels := x.levels, ports := [], site := (0, 0) } :: x.journal).take 4096
    kind := kind, full := full, keepMem := keep, running := true, moored := false, holdNow := x.hold, hold := false
    s1Passed := false, s6Passed := false, measured := [], hostImage := false, hostBytes := [], ringKept := false }
  let s := ((s.setReg (offGond + 0x10) seq).setReg (offMoor + 4) seq).showLevels.markAbsent s.start.offline
  s.beginStep 0

/-! ## DRAM in service, and in self-refresh (R168, R169, R405) -/

/-- Bonded DRAM, LPDDR6 in service: S4, S5 have passed since the last reset. -/
def State.bondedUp (s : State) : Bool := s.reg (offMem + 0x40) != 0
def State.lpUp (s : State) : Bool := (List.range 4).any fun i => s.reg (offMem + 0x30 + 4 * i) != 0

/-- Every DRAM in service enters self-refresh; one already there stays. -/
def State.selfRefresh (s : State) : State :=
  s.modStart fun x => { x with selfB := x.selfB || s.bondedUp, selfL := x.selfL || s.lpUp }

/-- Die-local channels of a die-local LMC (R167). -/
def channelsOf (l : Nat) : List Nat :=
  let b := 8 * (l / 2) + 2 * (l % 2)
  [b, b + 1, b + 4, b + 5]

/-- Sum of 2^n over a list of distinct positions. -/
def maskOf (l : List Nat) : Nat := (l.map fun n => 2 ^ n).sum

/-- Channels of a die that the journal leaves in service. -/
def Start.lpMask (x : Start) (die : Nat) : Nat :=
  2 ^ 64 - 1 - maskOf ((x.outLmc.filter fun l => l / 16 == die).flatMap fun l => channelsOf (l % 16))

/-- BMCs of a die that the journal leaves in service. -/
def Start.bmcMask (x : Start) (die : Nat) : Nat := maskOf ((List.range 16).filter fun n => n / 8 == die && !x.outBmc.contains n)

/-- List in service of region `k` (R418): 0, 1 LPDDR6 of die 0, 1; 2, 3 bonded DRAM of die 0, 1. -/
def Start.regionMask (x : Start) (k : Nat) : Nat := if k < 2 then x.lpMask k else x.bmcMask (k - 2)

/-- The list of region `k` differs from that of the start before (R169). -/
def Start.listChanged (x : Start) (k : Nat) : Bool :=
  match x.prevLists[k]? with
  | some m => m != x.regionMask k
  | none => false

/-- Region `k` keeps its contents through this start (R169, R405). -/
def Start.regionKept (x : Start) (k : Nat) : Bool :=
  x.keepMem && !x.full && (if k < 2 then x.selfL else x.selfB) && !x.listChanged k

def regionBase (k : Nat) : Nat := if k < 2 then 2 ^ 39 * k else 0x10000000000 + 2 ^ 34 * (k - 2)
def regionSize (k : Nat) : Nat := if k < 2 then 2 ^ 39 else 2 ^ 34

/-- Zero-fill a region: every byte 0, every block with a fresh CRC (R366, R169). -/
def State.zeroRegion (s : State) (k : Nat) : State :=
  s.zeroBlocks (regionBase k) (regionSize k)

/-- MEM_LAYOUT[k] (R418). -/
def State.showLayout (s : State) (k : Nat) : State :=
  let x := s.start
  let n := (bitList 64 (x.regionMask k)).length
  let rate := if k < 2 then (if x.level 5 = 1 then 1 else if x.level 5 = 2 then 2 else 0) else 0
  s.setReg (offMem + 0x20 + 4 * k)
    (BitVec.ofNat 32 (b2n (x.listChanged k) * 2 ^ 31 + n * 2 ^ 24 + rate * 2 ^ 22 + n * (if k < 2 then 8 else 2)))

/-- S4 or S5 puts a region in service. -/
def State.putRegion (s : State) (k : Nat) : State :=
  let s := if s.start.regionKept k then s else s.zeroRegion k
  let s := s.showLayout k
  let m := s.start.regionMask k
  let s := if k < 2 then
      (s.setReg (offMem + 0x30 + 8 * k) (BitVec.ofNat 32 m)).setReg (offMem + 0x34 + 8 * k) (BitVec.ofNat 32 (m / 2 ^ 32))
    else s.setReg (offMem + 0x40) (s.reg (offMem + 0x40) ||| BitVec.ofNat 32 m)
  s.modStart fun x => { x with prevLists := (x.prevLists ++ List.replicate (4 - x.prevLists.length) 0).set k m }

/-! ## The moored state (R377, R380) -/

/-- Enter the moored state: DRAM in service goes into self-refresh, the Bihel ports and partitions are off, and until S6 has
passed the Sornal link trains alone. ALERT# follows MOD_STATUS.MOORED (R435). -/
def State.moor (s : State) : State :=
  let s := s.selfRefresh
  let s := s.modStart fun x => { x with moored := true, running := false }
  let s := forEach (fun s k => s.enterLink k lkOff 0) s (List.range 16)
  let s : State := { s with power := { s.power with parts := [] } }
  if !s.start.s6Passed ∧ s.linkState 16 = lkOff then s.linkToDetect 16 else s

/-- A step fails (R366, R377, R398): with a fallback left a chip reset follows, which keeps memory if this start did; else the
module is moored; S0 of a reset start asks for a power cycle. -/
def State.failStep (s : State) (n detail unit : Nat) (site : Nat × Nat := (0, 0)) : State :=
  let s := (s.setProgress n 3 (s.start.level n) detail unit).modStart fun x => { x with
    journal := match x.journal with
      | e :: es => { e with site := site } :: es
      | [] => [] }
  if (s.start.fallback n unit).isSome then
    (s.selfRefresh.modStart fun x => { x with running := false }).askChip .startFallback
  else
    let s := s.moor
    if n = 0 ∧ s.start.kind ≠ 0 then { s with resets := { s.resets with cycle := true } } else s

/-- The limit of the step that runs has passed (R366). S0 after a trip runs without one (R368). -/
def State.stepLate (s : State) : Bool :=
  let n := s.startStep
  !(n == 0 && s.start.tripWait) && decide (stepLimit n s.start.full < (s.lcount - s.start.since).toNat)

/-- STEP_TIME_LIMIT (R366): the limit of the step that runs has passed. -/
def execStepTimeLimit (s : State) : Host.Outcome State Fault Refusal :=
  if s.start.running = false ∨ s.resets.held = true ∨ s.stepLate = false then .next s
  else .next (s.failStep s.startStep 0xF0 0xFFFF)

/-! ## The image and the record (R371, R373, R374) -/

/-- SHA-384 as 48 bytes. -/
def sha (bs : List Byte) : List Byte := (List.range 48).map (Config.sha384 bs)

def slice (bs : List Byte) (o n : Nat) : List Byte := (bs.drop o).take n
def num32 (bs : List Byte) (o : Nat) : Nat := natLE (slice bs o 4)

/-- Body length that a header names. -/
def imageBody (bs : List Byte) : Nat := num32 bs 0xC

/-- The checks of R374 in order: the DETAIL of the first that fails. -/
def imageCheck (bs : List Byte) (counter0 : Word) : Option Nat :=
  let n := imageBody bs
  let k := num32 bs 0x14
  if num32 bs 0 ≠ 0x44475246 ∨ num32 bs 4 ≠ 1 ∨ n = 0 ∨ 6291456 < n ∨ bs.length < 512 + n then some 0x70
  else if 4 ≤ k ∨ Config.fusedKeyRevoked k = true ∨ sha (slice bs 0x48 97) ≠ (List.range 48).map (Config.fusedKeyHash k) then
    some 0x71
  else if Config.ecdsaVerify (slice bs 0x48 97) (slice bs 0 0x1A0) (slice bs 0x1A0 48) (slice bs 0x1D0 48) = false then
    some 0x72
  else if sha (slice bs 512 n) ≠ slice bs 0x18 48 then some 0x73
  else if num32 bs 8 < counter0.toNat then some 0x74 else none

/-- The checks of R371, then of the version and the identity (R370, R374): the DETAIL of the first that fails. The key named by
KEY_IDX is known to the ROM by its hash; the identity is the one derived with a copy of the helper data. -/
def recordCheck (bs : List Byte) (counter1 : Word) (copy : Nat := 0) : Option Nat :=
  let k := num32 bs 0x48 / 2 ^ 16 % 4 + 4
  if bs.length ≠ 65536 ∨ num32 bs 0 ≠ 0x44475259 ∨ Config.fusedKeyRevoked k = true ∨ 65360 < num32 bs 0x4C
      ∨ Config.ecdsaVerify ((List.range 48).map (Config.fusedKeyHash k)) (slice bs 0 0xFFA0) (slice bs 0xFFA0 48)
        (slice bs 0xFFD0 48) = false then some 0x12
  else if num32 bs 4 < counter1.toNat then some 0x13
  else if sha ((List.range 97).map (Config.identityKey copy)) ≠ slice bs 0x18 48 then some 0x11 else none

/-- Bytes of the image slot that hold a written image: the header and its body. -/
def State.flashImage (s : State) : List Byte :=
  s.flashBytes 0x1000000 (512 + min 6291456 (natLE (s.flashBytes 0x100000C 4)))

/-- What a passing step still has to satisfy: a written record at S1, a written image at S7, which the model checks itself;
the factory ones are judged by the step's own result (log 43). -/
def State.stepCheck (s : State) (n : Nat) : Option Nat :=
  if n = 1 ∧ s.start.recordWritten = true then
    recordCheck (s.flashBytes 0 65536) s.start.counter1 (s.start.level 1)
  else if n = 7 ∧ s.start.imageWritten = true then imageCheck s.flashImage s.start.counter0
  else none

/-- S7 loads the image: its body into gondola SRAM from offset 0 (R374). -/
def State.loadBody (s : State) (bs : List Byte) : State := s.writeMem gondolaBase (slice bs 512 (imageBody bs))

/-! ## Measurements (R384) -/

/-- Take a measurement. -/
def Start.measure (x : Start) (i : Nat) (raw : Bool) (v : List Byte) : Start :=
  { x with measured := x.measured.filter (fun e => e.1 != i) ++ [(i, raw, v)] }

/-- At S1: the boot ROM and the device record. -/
def State.measureS1 (s : State) : State :=
  s.modStart fun x =>
    (x.measure 1 false (sha ((List.range 262144).map Config.romByte))).measure 3 false (sha (s.recordBytes 0 65536))

/-- The running image: its header and body (R373, R381). -/
def State.imageBytes (s : State) : List Byte :=
  if s.start.hostImage then s.start.hostBytes.take (512 + imageBody s.start.hostBytes)
  else if s.start.imageWritten then s.flashImage else Config.factoryImage

/-- At S7, or at a passing LOAD_IMAGE: the running image and its security version. -/
def State.measureImage (s : State) : State :=
  s.modStart fun x =>
    (x.measure 2 false (sha s.imageBytes)).measure 5 true
      (bytesLE 4 x.svn.toNat ++ [if x.hostImage then 1 else 0, 0, 0, 0])

/-- At S8: every step's level, the lists in service, CLUSTER_PRESENT and the array map. -/
def State.measureS8 (s : State) : State :=
  s.modStart fun x => x.measure 4 false ((List.range 48).map (Config.bootDigest x.levels x.prevLists
    (maskOf ((List.range 96).filter s.clusterPresent)) ((List.range 1536).map fun n => s.reg (offArrayMap n))))

/-! ## S3: the array map (R56) -/

/-- Write an RWC register's value word and complement word. -/
def State.setRwc (s : State) (off : Nat) (v : Word) : State := (s.setReg off v).setReg (off + 4) (~~~ v)

/-- An entry with a column of array `a` bypassed, or the array offline when another column of it is bypassed already (R58, R366). -/
def narrowEntry (v : Word) (a col : Nat) : Word :=
  let put (st : Nat) : Word := setFld (setFld v (8 * a + 6) 2 st) (8 * a) 4 col
  match fld v (8 * a + 6) 2 with
  | 0 => put 1
  | 1 => if fld v (8 * a) 4 = col then v else setFld v (8 * a + 6) 2 2
  | _ => v

/-- S3 writes the map that its BIST found, narrowed where fallbacks have bypassed a column. -/
def State.writeArrayMap (s : State) (m : List (Nat × Word)) : State :=
  let s := forEach (fun s e => if e.1 < 1536 then s.setRwc (offArrayMap e.1) (e.2 &&& 0xCFCFCF) else s) s m
  forEach (fun s e => s.setRwc (offArrayMap e.1) (narrowEntry (s.reg (offArrayMap e.1)) e.2.1 e.2.2)) s
    (s.start.narrow.filter fun e => decide (e.1 < 1536) && decide (e.2.1 < 3))

/-! ## S8 (R379) -/

/-- Rewrite the launch map (R114). -/
def State.writeLaunchMap (s : State) : State :=
  let s := s.modStart fun x => { x with mapGen := x.mapGen + 1 }
  let cs := (List.range 96).filter s.clusterPresent
  let m := maskOf cs
  let head : List Word := [0x00010000, s.startSeq, BitVec.ofNat 32 m, BitVec.ofNat 32 (m / 2 ^ 32), BitVec.ofNat 32 (m / 2 ^ 64),
    BitVec.ofNat 32 (16 * cs.length), s.start.mapGen, ~~~ s.start.mapGen]
  let map := (List.range 1536).flatMap fun n => let v := s.reg (offArrayMap n); [v, ~~~ v]
  let s := s.zeroBlocks s.lmapAddr 0x4000
  (s.putMem s.lmapAddr (bytesOfWords head)).putMem (0x1000 + s.lmapAddr) (bytesOfWords map)

/-- `n` bytes lie wholly in bonded DRAM in service. -/
def State.bondedFits (s : State) (a n : Nat) : Bool :=
  let e := a + n - 1
  let die (x : Nat) : Nat := (x - 0x10000000000) / 2 ^ 34
  n == 0 || isBonded a && isBonded e && s.inDram a && s.inDram e && (die a == die e || (s.bmcList 0).length == 8)

/-- Where S8 places the launch map and the tables is bonded DRAM in service (R114, R419). -/
def State.placesOk (s : State) (p : Places) : Bool :=
  let at_ (b : BitVec 28) (n : Nat) : Bool := s.bondedFits (2 ^ 16 * b.toNat) n
  p.lmap % 64 == 0 && s.bondedFits p.lmap 0x4000 && at_ p.wt 0x80000 && at_ p.nt (256 * min p.ntSize.toNat 1048576)
    && at_ p.gt (128 * min p.gtSize.toNat 4096) && at_ p.ut (256 * min p.utSize.toNat 65536) && at_ p.drogue 0x80000

/-- The table registers, and their lock (R419, R423). -/
def State.writeTables (s : State) (p : Places) : State :=
  let put (s : State) (x : Nat) (v : Nat) : State := s.setReg (offTbl + x) (BitVec.ofNat 32 v)
  let s := put (put (put s 0 p.wt.toNat) 4 p.nt.toNat) 8 (min p.ntSize.toNat 1048576)
  let s := put (put s 0xC p.gt.toNat) 0x10 (min p.gtSize.toNat 4096)
  let s := put (put s 0x14 p.ut.toNat) 0x18 (min p.utSize.toNat 65536)
  put (put s 0x1C p.drogue.toNat) 0x3C 1

/-- The error ring lies in bonded DRAM in service, in no region marked lost (R393). -/
def State.ringFits (s : State) (base : Nat) : Bool :=
  let ok (a : Nat) : Bool := !bitAt (s.reg (offMem + 0x28 + 4 * ((a - 0x10000000000) / 2 ^ 34))) 31
  s.bondedFits base 0x50000 && ok base && ok (base + 0x4FFFF)

/-- Move the ring (R393): a new base re-arms it; the lock is cleared and set again. -/
def State.moveRing (s : State) (base : BitVec 28) : State :=
  let old := s.errBase
  let s := ((s.setKreg 0x30 0).setKreg 0x10 (base.setWidth 32)).rearmRing
  (s.setKreg 0x30 1).report 0x658 4 4 none 0xFFFF (addrWords old ++ addrWords s.errBase)

/-- Put LAST_FATAL back into the fatal area, when it holds a record (R392). -/
def State.restoreFatal (s : State) : State :=
  let ws := s.keeperWords 0x40 16
  if wordAt ws 0 = 0 then s else let p := reportOfWords ws; s.ringWrite p.1 p.2

/-- The check of the error ring, and the drain of the early buffer (R392, R393). -/
def State.checkRing (s : State) (p : Places) : State :=
  let fits := s.ringFits s.errBase
  let s := if fits then s else s.moveRing p.errBase
  let s : State := { s with err := { s.err with ringReady := true } }
  let s := if fits ∧ s.start.ringKept then s else s.restoreFatal
  (s.drainMany 48).mergeCounts

/-- S8 passes: launch map, tables, caps, error ring, services up; the power controller takes the partitions. -/
def State.finishStart (s : State) (p : Places) : State :=
  let s := s.modStart fun x => { x with lmap := p.lmap, running := false }
  let s := (s.writeTables p).writeLaunchMap.effUpdate
  let s := s.checkRing p
  let s := s.modStart fun x => { x with
    counter0 := if !x.hostImage ∧ x.counter0.toNat < x.svn.toNat then x.svn else x.counter0 }
  let s := (s.measureS8.setSvc 3 false).setSvc 0 true
  s.applyPreferred.choosePoints

/-! ## Ends of steps -/

/-- Every enabled port is UP, or DOWN with its cause, and the Sornal link is UP (R277, R367). -/
def State.trained (s : State) : Bool :=
  s.linkUp 16 && (List.range 16).all fun k => !s.linkEn k || s.linkUp k || s.linkState k == lkDown

/-- What S1's pass leaves: the partitions that the record takes out of service as well (R371). -/
def State.passS1 (s : State) : State :=
  ((s.modStart fun x => { x with s1Passed := true }).measureS1.markAbsent s.start.outParts).beginStep 2

/-- The journal's newest entry keeps how the Bihel ports ended S6 (R367, R375). -/
def Start.endS6 (x : Start) (ports : List Word) : Start :=
  { x with
    s6Passed := true
    journal := match x.journal with
      | e :: es => { e with ports := ports } :: es
      | [] => [] }

/-- What S6's pass leaves; HOLD stops the start here (R381). -/
def State.passS6 (s : State) : State :=
  let s := s.modStart fun x => x.endS6 ((List.range 16).map fun k => s.reg (offLinkStatus k))
  if s.start.holdNow then (s.setProgress 7 3 0 0xF1 0xFFFF).moor else s.beginStep 7

/-- What S7's pass leaves: the image runs (R371, R373). -/
def State.passS7 (s : State) : State :=
  let img := s.flashImage
  let s := if s.start.imageWritten then
      (s.loadBody img).modStart fun x => { x with svn := BitVec.ofNat 32 (num32 img 8) }
    else s.modStart fun x => { x with svn := Config.factorySvn }
  s.measureImage.beginStep 8

/-- A step passes and the next begins (R366). -/
def State.passStep (s : State) (n : Nat) (map : List (Nat × Word)) (p : Places) : State :=
  let s := s.setProgress n (if s.start.level n = 0 then 1 else 2) (s.start.level n) 0 0xFFFF
  if n = 0 then (({ s with mgmt := { s.mgmt with pwrgd := true } } : State).runAt 6).beginStep 1
  else if n = 1 then s.passS1
  else if n = 3 then (s.writeArrayMap map).beginStep 4
  else if n = 4 then (((s.putRegion 2).putRegion 3).modStart fun x => { x with selfB := false }).beginStep 5
  else if n = 5 then (((s.putRegion 0).putRegion 1).modStart fun x => { x with selfL := false }).beginStep 6
  else if n = 6 then s.passS6
  else if n = 7 then s.passS7
  else if n = 8 then s.finishStart p
  else s.beginStep (n + 1)

/-- SELF_TEST_STEP_END (R366, R367, R377). A step that is past its limit has failed. A step cannot pass at S0 while the trip's
temperature wait lasts, at S6 before the links have trained, nor at S8 with a place outside bonded DRAM; S6 does not fail with
the Sornal link UP. -/
def execSelfTestStepEnd (r : StepResult) (s : State) : Host.Outcome State Fault Refusal :=
  let n := s.startStep
  if s.start.running = false ∨ s.resets.held = true then .next s
  else if s.stepLate then .next (s.failStep n 0xF0 0xFFFF)
  else
    match r with
    | .fail detail unit arr col =>
      if n = 6 ∧ s.linkUp 16 = true then .next s
      else .next (s.failStep n detail.toNat unit.toNat (arr.toNat, col.toNat))
    | .pass map p =>
      if (n = 0 ∧ s.start.tripWait = true) ∨ (n = 6 ∧ s.trained = false) ∨ (n = 8 ∧ s.placesOk p = false) then .next s
      else
        match s.stepCheck n with
        | some d => .next (s.failStep n d 0xFFFF)
        | none => .next (s.passStep n map p)

/-! ## Power (R368, R429) -/

/-- What the configuration flash keeps of the boot flow (R372, R408). -/
def Start.inFlash (x : Start) : Start :=
  { Start.first with
    imageWritten := x.imageWritten, recordWritten := x.recordWritten, flash := x.flash, counter0 := x.counter0
    counter1 := x.counter1, journal := x.journal, offline := x.offline, outBmc := x.outBmc, outLmc := x.outLmc
    narrow := x.narrow, levels := x.levels, prevLists := x.prevLists, running := false }

/-- Local SRAM, wide buffers and gondola SRAM are lost (R408). -/
def State.loseSram (s : State) : State :=
  ((s.loseMem (sramBase 0) 0x30000000).loseMem (wbBase 0) 0x6000000).loseMem gondolaBase 0x800000

/-- A moored command is under way: it reads host memory (R381). -/
def State.moorBusy (s : State) : Bool := s.hreads.any fun p => p.2 == some .moored

/-- A reset or power loss during PERSIST_IMAGE leaves the image invalid (R382): what stands in its slot is no header. -/
def State.spoilImage (s : State) : State :=
  if s.moorBusy && s.start.moorJob == 3 then
    { s with start := { s.start with
        imageWritten := true, flash := Sparse.forget (fun k => decide (0x1000000 ≤ k)) s.start.flash } }
  else s

/-- A module without power: flash alone keeps its contents. -/
def State.powerOff (s : State) : State :=
  let s := s.spoilImage
  { State.reset with
    pending := s.pending, freeCtr := s.freeCtr, powered := false, start := s.start.inFlash, hostOut := s.hostOut
    fabOut := s.fabOut, mgmt := { Mgmt.atReset with modStatus := 0, sense := 0 } }

/-- INPUT_TURN_OFF (R429): a dip of more than 20 microseconds, an over-voltage or removal ends the module's power. -/
def execInputTurnOff (s : State) : Host.Outcome State Fault Refusal :=
  if s.powered then .next s.powerOff else .next s

/-- COLD_START (R368): the input has risen into the operating range; the keeper is powered, reads its straps (R433), and a
start begins. -/
def execColdStart (straps : BitVec 5) (s : State) : Host.Outcome State Fault Refusal :=
  if s.powered then .next s
  else
    let s : State := { s with powered := true, lcount := 0, mgmt := { Mgmt.atReset with mid := straps } }
    .next (s.loseSram.beginStart 0 true false)

end Sys2Proof.Machine
end

