-- ==== Sys2Proof/Machine/Moor.lean ====
section
/-! DEFINITION. The commands of the moored block (spec/17, R380 to R382). MOOR_CMD acts when it is committed; the rows RESTART to
RELEASE are its commits with each command code. -/
namespace Sys2Proof.Machine

/-- MOOR_RESULT (R380): 0 idle, 1 busy, 2 done, 3 refused, 4 invalid, 5 host read failed. -/
def State.moorResult (s : State) (code detail : Nat) : State :=
  s.setReg (offMoor + 0xC) (BitVec.ofNat 32 (detail * 2 ^ 8 + code))

def State.moorAddr (s : State) : Nat := dwordAt [s.reg (offMoor + 0x18), s.reg (offMoor + 0x1C)] 0 / 4096 * 4096
def State.moorLen (s : State) : Nat := (s.reg (offMoor + 0x20)).toNat

/-- RESTART: a chip reset (R381). -/
def State.moorRestart (s : State) : State := (s.moorResult 2 0).askChip .mooredCommand

/-- Write bytes into flash. -/
def State.writeFlash (s : State) (a : Nat) (bs : List Byte) : State :=
  s.modStart fun x => { x with
    flash := (bs.zip (List.range bs.length)).foldl (fun m p => Sparse.set (fun _ => 0) m (a + p.2) p.1) x.flash }

/-- The moored state ends and S8 begins with a host image (R381): the DRAMs leave self-refresh and the ports train again. -/
def State.resumeAtS8 (s : State) (bs : List Byte) : State :=
  let s := s.loadBody bs
  let s := s.modStart fun x => { x with
    moored := false, running := true, hostImage := true, svn := BitVec.ofNat 32 (num32 bs 8), selfB := false, selfL := false }
  let s := forEach (fun s k => if s.linkEn k ∧ s.linkState k = lkOff then s.linkToDetect k else s) s (List.range 16)
  (s.measureImage.setProgress 7 1 0 0 0xFFFF).beginStep 8

/-- Every byte has been read: the command's checks and its effect (R381). -/
def State.moorFinish (s : State) : State :=
  let bs := s.start.hostBytes
  if s.start.moorJob = 4 then
    match recordCheck bs s.start.counter1 (s.start.level 1) with
    | some d => s.moorResult 4 d
    | none =>
      ((s.writeFlash 0 bs).modStart fun x => { x with
        recordWritten := true, counter1 := BitVec.ofNat 32 (num32 bs 4) }).moorRestart
  else
    match imageCheck bs s.start.counter0 with
    | some d => s.moorResult 4 d
    | none =>
      if s.start.moorJob = 3 then
        ((s.writeFlash 0x1000000 (bs.take (512 + imageBody bs))).modStart fun x => { x with imageWritten := true }).moorRestart
      else (s.moorResult 2 0).resumeAtS8 bs

/-- Read the next piece from host memory, or finish (R381, R382). -/
def State.moorGo (s : State) : State :=
  let got := s.start.hostBytes.length
  if s.moorLen ≤ got then s.moorFinish
  else if !s.linkUp 16 then s.moorResult 5 0
  else s.hostRead (s.moorAddr + got) (min 256 (ceilDiv (s.moorLen - got) 4 * 4)) .moored

/-- An answer to a moored read. -/
def State.moorData (s : State) (bs : List Byte) : State :=
  (s.modStart fun x => { x with hostBytes := x.hostBytes ++ bs.take (s.moorLen - x.hostBytes.length) }).moorGo

/-- Begin a command that reads host memory. -/
def State.moorRead (s : State) (cmd : Nat) : State :=
  ((s.moorResult 1 0).modStart fun x => { x with hostBytes := [], moorJob := cmd }).moorGo

/-- No identity was read in this start (R381: LOAD_RECORD). -/
def State.noIdentity (s : State) : Bool := s.startStep == 0 || (s.startStep == 1 && s.startDetail == 0x10)

/-- A committed command (R381): refused with code 3 while one is under way or where the table does not allow it. -/
def State.moorCommand (s : State) (cmd : Nat) : State :=
  let m := s.start.moored
  if s.moorBusy then s.setRegFld (offMoor + 0xC) 0 8 3
  else if cmd = 1 ∧ m = true then s.moorRestart
  else if cmd = 2 ∧ m = true ∧ s.startStep = 7 then s.moorRead 2
  else if cmd = 3 ∧ m = true then s.moorRead 3
  else if cmd = 4 ∧ m = true ∧ s.noIdentity = false then s.moorRead 4
  else if cmd = 5 ∧ m = true then (s.modStart Start.clearLevels).showLevels.moorRestart
  else if cmd = 6 then (s.moorResult 2 0).modStart fun x => { x with hold := true }
  else if cmd = 7 then (s.moorResult 2 0).modStart fun x => { x with hold := false }
  else s.moorResult 3 0

/-- Commit a command code. -/
def State.commitMoor (s : State) (cmd : Nat) : State := (s.setRwc (offMoor + 0x10) (BitVec.ofNat 32 cmd)).moorCommand cmd

/-- A command code written and committed by the host (R380, R381): its value word drops one that was pending in the block (R6). -/
def State.hostMoor (s : State) (cmd : Nat) : State := (s.dropPend 0x640 (regBlock offMoor)).commitMoor cmd

/-- RESTART (R381). -/
def execRestart (s : State) : Host.Outcome State Fault Refusal := .next (s.hostMoor 1)

/-- LOAD_IMAGE (R381, R374). -/
def execLoadImage (s : State) : Host.Outcome State Fault Refusal := .next (s.hostMoor 2)

/-- PERSIST_IMAGE (R381, R374). -/
def execPersistImage (s : State) : Host.Outcome State Fault Refusal := .next (s.hostMoor 3)

/-- LOAD_RECORD (R381, R371). -/
def execLoadRecord (s : State) : Host.Outcome State Fault Refusal := .next (s.hostMoor 4)

/-- CLEAR_FALLBACKS (R381). -/
def execClearFallbacks (s : State) : Host.Outcome State Fault Refusal := .next (s.hostMoor 5)

/-- HOLD (R381, R382). -/
def execHold (s : State) : Host.Outcome State Fault Refusal := .next (s.hostMoor 6)

/-- RELEASE (R381). -/
def execRelease (s : State) : Host.Outcome State Fault Refusal := .next (s.hostMoor 7)

end Sys2Proof.Machine
end

