-- ==== Sys2Proof/Machine/Update.lean ====
section
/-! DEFINITION. Parameter update at the memory controllers (spec/12, R253 to R269): update-table entries, group records, the
rules, records, and changes to groups. -/
namespace Sys2Proof.Machine

/-! ## Update-table entries (R253) -/

def uKind (e : List Word) : Nat := fld (wordAt e 0) 28 4
def uFm (e : List Word) : Bool := bitAt (wordAt e 0) 27
def uCtx (e : List Word) : Nat := fld (wordAt e 0) 16 6
def uGroup (e : List Word) : Nat := fld (wordAt e 0) 0 12
def uStep (e : List Word) : Word := wordAt e 1
def uW (e : List Word) : Nat := dwordAt e 2
def uG (e : List Word) : Nat := dwordAt e 4
def uM (e : List Word) : Nat := dwordAt e 6
def uAux (e : List Word) : Nat := dwordAt e 8
def uFmask (e : List Word) : Nat := dwordAt e 10
def uNrec (e : List Word) : Nat := dwordAt e 12
def uFirst (e : List Word) : Nat := (wordAt e 14).toNat
def uCount (e : List Word) : Nat := (wordAt e 15).toNat
def uDone (e : List Word) : Nat := fld (wordAt e 16) 16 14
def uTrig (e : List Word) : Nat := fld (wordAt e 16) 0 14
def uTarget (e : List Word) : Nat := dwordAt e 17
def uInc (e : List Word) : Nat := (wordAt e 19).toNat
/-- The scale plane of the moments. -/
def uScale (e : List Word) : Nat := uM e + 64 * ceilDiv (uCount e) 64

/-! ## Group records (R256) -/

def gRule (g : List Word) : Nat := fld (wordAt g 0) 29 2
def gBf16 (g : List Word) : Bool := bitAt (wordAt g 0) 28
def gComp (g : List Word) : Bool := bitAt (wordAt g 0) 27
def gWcopy (g : List Word) : Bool := bitAt (wordAt g 0) 26
def gMrnd (g : List Word) : Bool := bitAt (wordAt g 0) 25
def gShards (g : List Word) : Nat := fld (wordAt g 0) 0 12
def gStep (g : List Word) : Word := wordAt g 1
def gDone (g : List Word) : Nat := fld (wordAt g 2) 0 12
def gB1 (g : List Word) : Word := wordAt g 3
def gB2 (g : List Word) : Word := wordAt g 4
def gLambda (g : List Word) : Word := wordAt g 5
def gBpow (g : List Word) : Word := wordAt g 8
def gSeed (g : List Word) : Nat := dwordAt g 9
def gPv (g : List Word) : Bool := bitAt (wordAt g 12) 8
def gFrom (g : List Word) : Word := wordAt g 13

/-- A rate pair keeps R81: LR_SIG positive and normal, UEXP from -126 to +126. -/
def rateOk (lr : Word) (ux : Nat) : Bool :=
  !bitAt lr 31 && decide (1 ≤ fld lr 23 8) && decide (fld lr 23 8 ≤ 254)
    && decide (-126 ≤ signedOf 8 ux) && decide (signedOf 8 ux ≤ 126)

/-- A value in [0, 1]. -/
def inUnit (w : Word) : Bool := FVal.le (FVal.zero false) (fdec w) && FVal.le (fdec w) (fdec 0x3F800000)

/-- The fields of a record make it valid (R256). -/
def groupValid (g : List Word) : Bool :=
  bitAt (wordAt g 0) 31 && inUnit (gB1 g) && !(gRule g == 3 && FVal.cmp (fdec (gB1 g)) (fdec 0x3F800000) == some 0)
    && (gRule g != 2 || inUnit (gB2 g)) && (fdec (gLambda g)).isFinite && !FVal.lt (fdec (gLambda g)) (FVal.zero false)
    && rateOk (wordAt g 6) (fld (wordAt g 7) 0 8) && (!gComp g || gBf16 g) && (!gWcopy g || !gBf16 g)
    && decide (1 ≤ gShards g)

def State.groupAddr (s : State) (i : Nat) : Nat := s.gtBase + 128 * i

/-- A record's words, whatever they hold; none when it lies outside the table, its block is poisoned, or its complements do not hold
(R256, R446; an integrity event for the last). -/
def State.groupWords (s : State) (i : Nat) : State × Option (List Word) :=
  if s.gtSize ≤ i ∨ s.dramRange (s.groupAddr i) 128 = false then (s, none)
  else
    let r := s.readEntry (s.groupAddr i) 32
    match r.2 with
    | none => (r.1, none)
    | some ws =>
      if complementsOk 16 ws then (r.1, some (ws.take 16))
      else
        let k := ((List.range 16).find? fun j => wordAt ws (16 + j) != ~~~ (wordAt ws j)).getD 0
        (r.1.integrity (((r.1.mcOf (s.groupAddr i)).map mcSource).getD 0x650) 9 none (sourceUnit (((r.1.mcOf (s.groupAddr i)).map mcSource).getD 0x650)) (s.groupAddr i + 4 * k)
          (wordAt ws k) (wordAt ws (16 + k)), none)

/-- A valid record. -/
def State.groupRec (s : State) (i : Nat) : State × Option (List Word) :=
  let r := s.groupWords i
  (r.1, r.2.filter groupValid)

def State.putGroup (s : State) (i : Nat) (g : List Word) : State :=
  s.writeMem (s.groupAddr i) (bytesOfWords (withComplements g))

/-! ## Entries as the units see them -/

/-- The rules of R253 that do not depend on the group; weights take 2 bytes each at least. -/
def State.shardOk (s : State) (e : List Word) : Bool :=
  let n := uCount e
  s.dramRange (uW e) (2 * n) &&
  decide (uGroup e < s.gtSize) && decide (1 ≤ n) && decide (n ≤ 2 ^ 31) && uFirst e % 32 == 0
    && uW e % 128 == 0 && uG e % 128 == 0 && uM e % 64 == 0 && uNrec e % 64 == 0
    && (!uFm e || (uFmask e % 64 == 0 && s.dramRange (uFmask e) (ceilDiv n 8)))
    && s.dramRange (uG e) (4 * n) && s.dramRange (uM e) n && s.dramRange (uScale e) (ceilDiv n 32)
    && s.dramRange (uNrec e) 64 && s.inSpool (uCtx e) (uTrig e) && s.inSpool (uCtx e) (uDone e)

/-- Its weights and AUX words lie in DRAM as the group's formats size them. -/
def State.shardFits (s : State) (e g : List Word) : Bool :=
  s.dramRange (uW e) ((if gBf16 g then 2 else 4) * uCount e)
    && (!(gComp g || gWcopy g) || (uAux e % 128 == 0 && s.dramRange (uAux e) (2 * uCount e)))

def State.updAddr (s : State) (i : Nat) : Nat := s.utBase + 256 * i

/-- Entry `i` of the update table (R253): the cached one, or the one in DRAM when its complements hold. -/
def State.updEntry (s : State) (i : Nat) : State × Option (List Word) :=
  match Sparse.get (fun _ => []) s.tables.updCache i with
  | w :: ws => (s, some (w :: ws))
  | [] =>
    if s.utSize ≤ i ∨ s.dramRange (s.updAddr i) 256 = false then (s, none)
    else
      let r := s.readEntry (s.updAddr i) 64
      match r.2 with
      | none => (r.1, none)
      | some ws =>
        if complementsOk 32 ws then
          ({ r.1 with tables := { r.1.tables with updCache := Sparse.set (fun _ => []) r.1.tables.updCache i (ws.take 32) } },
            some (ws.take 32))
        else
          let k := ((List.range 32).find? fun j => wordAt ws (32 + j) != ~~~ (wordAt ws j)).getD 0
          (r.1.integrity (((r.1.mcOf (s.updAddr i)).map mcSource).getD 0x650) 9 none (sourceUnit (((r.1.mcOf (s.updAddr i)).map mcSource).getD 0x650)) (s.updAddr i + 4 * k)
            (wordAt ws k) (wordAt ws (32 + k)), none)

/-- The words of entry `i` that count now (R231, R253). -/
def State.updNow (s : State) (i : Nat) : List Word :=
  match Sparse.get (fun _ => []) s.tables.updCache i with
  | [] => s.entryWords0 (s.updAddr i) 32
  | e => e

/-- Take entry `i` as it stands in the table (R231, R253). -/
def State.loadUpd (s : State) (i : Nat) : State :=
  ({ s with tables := { s.tables with updCache := Sparse.set (fun _ => []) s.tables.updCache i [] } } : State) |> fun s =>
  if s.utSize ≤ i ∨ s.dramRange (s.updAddr i) 256 = false then s
  else
    let r := s.readEntry (s.updAddr i) 64
    match r.2 with
    | some ws =>
      if complementsOk 32 ws then
        { r.1 with tables := { r.1.tables with updCache := Sparse.set (fun _ => []) r.1.tables.updCache i (ws.take 32) } }
      else r.1
    | none => r.1

/-- An entry in force changes its STEP and target (R231, R254). -/
def State.updateUpd (s : State) (i : Nat) (old new : List Word) : State :=
  let s := s.updateEntry (s.updAddr i) 32 old new
  { s with tables := { s.tables with updCache := Sparse.set (fun _ => []) s.tables.updCache i new } }

/-- Write an entry whole, on die and in the table. -/
def State.putUpd (s : State) (i : Nat) (e : List Word) : State :=
  let s := s.writeMem (s.updAddr i) (bytesOfWords (withComplements e))
  { s with tables := { s.tables with updCache := Sparse.set (fun _ => []) s.tables.updCache i e } }

/-- STEP and TRIG_TARGET after a firing (R254). -/
def fireEntry (e : List Word) : List Word :=
  let t := uTarget e + uInc e
  setWord (setWord (setWord e 1 (uStep e + 1)) 17 (BitVec.ofNat 32 t)) 18 (BitVec.ofNat 32 (t / 2 ^ 32))

/-! ## The rules (R257, R258) -/

/-- New moment (FP32) and direction of one parameter: `m` exact, `g` the gradient's bits. -/
def updateRule (gr : List Word) (m : FVal) (g : Word) : Word × Word :=
  let fma (a : Word) (b : FVal) (c : Word) : Word := fround (FVal.add (FVal.mul (fdec a) b) (fdec c))
  let b1 := gB1 gr
  let ob1 := fsub 0x3F800000 b1
  match gRule gr with
  | 0 => let m' := fma b1 m g; (m', m')
  | 1 => let m' := fma b1 m g; (m', ffma b1 m' g)
  | 2 =>
    let m' := fma (gB2 gr) m (fmul (fsub 0x3F800000 (gB2 gr)) g)
    let d := fdec (fma b1 m (fmul ob1 g))
    (m', if d.isNan then nan32 else if d.isZero then 0 else if FVal.lt d (FVal.zero false) then 0xBF800000 else 0x3F800000)
  | _ =>
    let m' := fma b1 m (fmul ob1 g)
    (m', fdiv m' (fsub 0x3F800000 (fmul (gBpow gr) b1)))

/-- The scaled step (R258, R81). -/
def scaledStep (lr lam w u : Word) : Word := fmul lr (ffma lam w u)

/-- The exact new weight w − d̃ × 2^UEXP. -/
def newWeight (w d : Word) (ux : Nat) : FVal := FVal.add (fdec w) (FVal.neg (FVal.scale (fdec d) (signedOf 8 ux)))

/-! ## One block of 32 parameters -/

/-- One parameter as it is updated: index in the shard, new moment, scaled step, gradient, weight bytes, AUX bytes, clamps, and
whether the new weight is not finite. -/
structure NewParam where
  i : Nat
  m : Word
  d : Word
  g : Word
  w : List Byte
  aux : List Byte
  sat : Nat
  bad : Bool
  deriving DecidableEq, Repr

/-- Weight and AUX bytes of a new weight (R260). -/
def storeWeight (gr : List Word) (x : FVal) : List Byte × List Byte × Nat × Bool :=
  let f := fround x
  let notFin (w : Word) : Bool := !(fdec w).isFinite
  if !gBf16 gr then
    if gWcopy gr then
      let n := toBf16 f
      (bytesLE 4 f.toNat, bytesLE 2 n.code, n.sat, notFin f)
    else (bytesLE 4 f.toNat, [], 0, notFin f)
  else if gComp gr then
    let hi := toBf16 f
    let lo := narrowVal .bf16 .nearest .sat (FVal.add (fdec f) (FVal.neg (Fmt.decode .bf16 hi.code)))
    (bytesLE 2 hi.code, bytesLE 2 lo.code, hi.sat, notFin (ofBf16 hi.code))
  else
    let n := narrowVal .bf16 .nearest .sat x
    (bytesLE 2 n.code, [], n.sat, notFin (ofBf16 n.code))

/-- Parameter `i` of a shard under rate pair (lr, ux), read from memory. -/
def State.newParam (s : State) (e gr : List Word) (lr : Word) (ux i : Nat) : NewParam :=
  let g := s.word (uG e + 4 * i)
  let half (a : Nat) : Nat := natLE (s.bytes a 2)
  let w := if !gBf16 gr then s.word (uW e + 4 * i)
    else if gComp gr then fadd (ofBf16 (half (uW e + 2 * i))) (ofBf16 (half (uAux e + 2 * i)))
    else ofBf16 (half (uW e + 2 * i))
  let m := applyScale (Fmt.decode .e4m3 (s.byte (uM e + i)).toNat) (s.byte (uScale e + i / 32)).toNat
  let (m', u) := updateRule gr m g
  let d := scaledStep lr (gLambda gr) w u
  let (wb, ab, sat, bad) := storeWeight gr (newWeight w d ux)
  { i := i, m := m', d := d, g := g, w := wb, aux := ab, sat := sat, bad := bad }

/-- Parameter `i` is frozen (R261). -/
def State.frozen (s : State) (e : List Word) (i : Nat) : Bool := uFm e && bitAt (s.byte (uFmask e + i / 8)) (i % 8)

/-- Rounding of parameter `i`'s moment (R259). -/
def momRound (e gr : List Word) (i : Nat) : Rounding :=
  if !gMrnd gr then .nearest
  else
    let q := uFirst e + i
    let seed := (gSeed gr + (uStep e).toNat * 0x9E3779B97F4A7C15 + q / 256 * 2 ^ 32) % 2 ^ 64
    .stochastic (srBits seed (q % 256))

/-- Ranges of a block's bytes (R263). -/
def blockRanges (e gr : List Word) (lo n : Nat) : List (Nat × Nat) :=
  let wb := if gBf16 gr then 2 else 4
  [(uG e + 4 * lo, 4 * n), (uW e + wb * lo, wb * n), (uM e + lo, n), (uScale e + lo / 32, 1)]
    ++ (if gComp gr || gWcopy gr then [(uAux e + 2 * lo, 2 * n)] else [])
    ++ (if uFm e then [(uFmask e + lo / 8, ceilDiv n 8)] else [])

/-- Larger of two binades. -/
def maxBinade (a b : Option Int) : Option Int :=
  match a, b with
  | some x, some y => some (max x y)
  | some x, none => some x
  | none, y => y

/-- Raise counter `i` of the update unit of the controller that serves an address (R269). -/
def State.uuCount (s : State) (a i n : Nat) : State :=
  match s.mcOf a with
  | some mc => if n = 0 then s else s.count (offUu mc i) n
  | none => s

/-- Take one updated parameter's values into the job's records (R82, R265). -/
def ShardJob.note (j : ShardJob) (p : NewParam) : ShardJob :=
  let d := fdec p.d
  let tiny := d.isZero || decide (d.isFinite ∧ fld p.d 23 8 = 0)
  { j with
    dmax := if d.isFinite && !d.isZero then maxBinade j.dmax (some (FVal.log2 d)) else j.dmax
    stepBad := j.stepBad || !d.isFinite
    zcnt := j.zcnt + b2n (tiny && !(fdec p.g).isZero)
    sat := j.sat + p.sat
    nonfinite := j.nonfinite + b2n p.bad }

/-- Write a block's new moments (R259, R261): codes and scale, the clamps of a mixed block, and whether the scale code
written is 0x00. A mixed block keeps its scale and writes none, so it does not count in MOM_FLOOR even when that scale is 0x00
(R82 says only "written"; DESIGN CHOICE, log 90). -/
def State.writeMoments (s : State) (e gr : List Word) (lo : Nat) (ps : List NewParam) (mixed : Bool) : State × Nat × Nat :=
  if mixed then
    let sc := (s.byte (uScale e + lo / 32)).toNat
    let ns := ps.map fun p => (p.i, narrowKept .e4m3 (momRound e gr p.i) sc (fdec p.m))
    (forEach (fun s x => s.writeMem (uM e + x.1) (bytesLE 1 x.2.code)) s ns, (ns.map fun x => x.2.sat).sum, 0)
  else
    let b := narrowBlock .e4m3 (ps.map fun p => (fdec p.m, momRound e gr p.i))
    let s := s.writeMem (uM e + lo) (b.codes.map (BitVec.ofNat 8))
    (s.writeMem (uScale e + lo / 32) [BitVec.ofNat 8 b.scale], 0, b2n (b.scale == 0))

/-- Update the block of parameters from `lo` on (R257 to R263). -/
def State.updateBlock (s : State) (e gr : List Word) (lr : Word) (ux lo : Nat) (j : ShardJob) : State × ShardJob :=
  let n := min 32 (uCount e - lo)
  let wb := if gBf16 gr then 2 else 4
  let first := uW e + wb * lo
  let rs := blockRanges e gr lo n
  let s := (forEach (fun s r => s.crcRange r.1 r.2) s rs).uuCount first 6 2
  if rs.any fun r => s.anyPoison r.1 r.2 then
    (s.uuCount first 2 1, { j with pblocks := j.pblocks + 1, status := 0x72 })
  else
    let is := (List.range n).map (· + lo)
    let live := is.filter fun i => !s.frozen e i
    let ps := live.map (s.newParam e gr lr ux)
    let j := ps.foldl ShardJob.note { j with frozen := j.frozen + (n - live.length) }
    let s := (s.uuCount first 0 live.length).uuCount first 1 (n - live.length)
    if live.isEmpty then (s, j)
    else
      let m := s.writeMoments e gr lo ps (live.length != n)
      let s := forEach (fun s p =>
        let s := s.writeMem (uW e + wb * p.i) p.w
        if p.aux.isEmpty then s else s.writeMem (uAux e + 2 * p.i) p.aux) m.1 ps
      (s.uuCount first 3 m.2.1, { j with mclamp := j.mclamp + m.2.1, momFloor := j.momFloor + m.2.2 })

/-! ## Firing (R254, R262) -/

/-- When update entry `i` last fired, or was armed. -/
def State.updFiring (s : State) (i trig : Nat) : Firing :=
  match Sparse.get (fun _ => none) (s.tables.updFire.map fun p => (p.1, some p.2)) i with
  | some f => f
  | none => { change := Sparse.get (fun _ => 0) s.tables.armUpd trig, again := false }

def State.noteUpdFire (s : State) (i change : Nat) : State :=
  { s with tables := { s.tables with
      updFire := Sparse.set (fun _ => Firing.none) s.tables.updFire i { change := change, again := true } } }

def State.setShard (s : State) (i : Nat) (j : Option ShardJob) : State :=
  { s with tables := { s.tables with shards := Sparse.set (fun _ => none) s.tables.shards i j } }

/-- A firing of the group is between its start and its records: firings of one group are applied one at a time (R264). -/
def State.groupBusy (s : State) (g : Nat) : Bool :=
  s.tables.shards.any fun p => match p.2 with
    | some j => uGroup j.entry == g
    | none => false

/-- The rate pair that a firing with the entry's STEP uses (R83, R264). -/
def ratePair (e gr : List Word) : Word × Nat :=
  if gPv gr ∧ (gFrom gr).toNat ≤ (uStep e).toNat then (wordAt gr 11, fld (wordAt gr 12) 0 8)
  else (wordAt gr 6, fld (wordAt gr 7) 0 8)

/-- A job before its first block. -/
def ShardJob.start (e : List Word) (status : Nat) (gstep : Word) (ux : Nat) : ShardJob :=
  { entry := e, status := status, gstep := gstep, uexp := ux, dmax := none, stepBad := false, zcnt := 0, momFloor := 0
    frozen := 0, sat := 0, mclamp := 0, pblocks := 0, nonfinite := 0 }

/-- The unit that serves the shard's first weight byte. -/
def State.shardMc (s : State) (e : List Word) : Nat := (s.mcOf (uW e)).getD 32

/-- What a firing does to its shard (R262): the first case that applies. The records of a firing with an invalid group record
show that record's STEP and the UEXP of its pair; where it cannot be read the spec states neither, and both are free values
(DESIGN CHOICE, log 90). -/
def State.runShard (s : State) (idx : Nat) (e : List Word) (poisoned : Bool) : State :=
  let r := s.groupWords (uGroup e)
  let s := r.1
  match r.2 with
  | none =>
    let d := s.draw
    d.2.setShard idx (some (.start e 0x73 (Config.freeWord d.1) (Config.freeByte (d.1 + 1)).toNat))
  | some gr =>
    let (lr, ux) := ratePair e gr
    if groupValid gr = false then s.setShard idx (some (.start e 0x73 (gStep gr) ux)) else
    let j := ShardJob.start e 0 (gStep gr) ux
    let s := s.progressed (.updateUnit (s.shardMc e))
    if poisoned then s.setShard idx (some { j with status := 0x72 })
    else if uStep e ≠ gStep gr then
      let s := s.report (mcSource (s.shardMc e)) 9 3 (some (uCtx e)) (s.shardMc e)
        [BitVec.ofNat 32 (uGroup e), uStep e, gStep gr, BitVec.ofNat 32 idx, BitVec.ofNat 32 s.deviceId]
      s.setShard idx (some { j with status := 0x71 })
    else
      let q := (List.range (ceilDiv (uCount e) 32)).foldl (fun (q : State × ShardJob) b =>
        q.1.updateBlock e gr lr ux (32 * b) q.2) (s, j)
      q.1.setShard idx (some q.2)

/-- SHARD_FIRE (R254, R262, R263). An entry that breaks a rule of the chapter is idle, and records an integrity event (R253). -/
def execShardFire (idx : Nat) (s : State) : Host.Outcome State Fault Refusal :=
  let r := s.updEntry idx
  match r.2 with
  | none => .next r.1
  | some e =>
    if uKind e ≠ 1 ∨ r.1.groupBusy (uGroup e) = true ∨ r.1.ctxRuns (uCtx e) = false then .next r.1
    else
      match r.1.fires (r.1.updFiring idx (uTrig e)) (uTrig e) (uTarget e) with
      | none => .next r.1
      | some (change, poisoned) =>
        let s := r.1.noteUpdFire idx change
        let g := (s.groupRec (uGroup e)).2
        if !s.shardOk e || !(match g with
            | some g => s.shardFits e g
            | none => true) then
          .next (s.integrity (mcSource (s.shardMc e)) 9 (some (uCtx e)) (s.shardMc e) (s.updAddr idx) (wordAt e 0) (~~~ (wordAt e 0)))
        else .next ((s.runShard idx e poisoned).updateUpd idx e (fireEntry e))

/-! ## Completion (R264 to R266) -/

/-- DMAX as a byte (R82, R265): -128 when every scaled step is zero and for statuses other than OK; +127 when one is not
finite. A binade below -128 has no code: the spec states none for it, and the byte is a free value (log 2). -/
def ShardJob.dmaxByte (j : ShardJob) (draw : Nat) : Nat :=
  if j.status ≠ 0 then 0x80
  else if j.stepBad then 0x7F
  else
    match j.dmax with
    | none => 0x80
    | some x => if x < -128 then (Config.freeByte draw).toNat else toTwos 8 (min x 127)

/-- The 64 bytes of the NREC area (R82, R265, R266). -/
def ShardJob.records (j : ShardJob) (draw : Nat) : List Word :=
  let ok := j.status == 0
  [uStep j.entry, BitVec.ofNat 32 (j.dmaxByte draw * 2 ^ 24 + j.uexp % 256 * 2 ^ 16),
   BitVec.ofNat 32 (if ok then j.zcnt else 0), BitVec.ofNat 32 (if ok then j.momFloor else 0),
   BitVec.ofNat 32 j.status, j.gstep, BitVec.ofNat 32 j.frozen, BitVec.ofNat 32 j.sat, BitVec.ofNat 32 j.mclamp,
   BitVec.ofNat 32 j.pblocks, BitVec.ofNat 32 j.nonfinite, 0, 0, 0, 0, 0]

/-- The group advances (R264). -/
def advanceGroup (g : List Word) : List Word :=
  let st := gStep g + 1
  let g := setWord (setWord g 2 (setFld (wordAt g 2) 0 12 0)) 1 st
  let g := if gRule g = 3 then setWord g 8 (fmul (gBpow g) (gB1 g)) else g
  if gPv g ∧ (gFrom g).toNat ≤ st.toNat then
    let g := setWord g 7 (setFld (wordAt g 7) 0 8 (fld (wordAt g 12) 0 8))
    setWord (setWord g 6 (wordAt g 11)) 12 (setFld (wordAt g 12) 8 1 0)
  else g

/-- DONE_CNT rises by one; at SHARDS_LOCAL the group advances (R262, R264). -/
def State.countFiring (s : State) (i : Nat) : State :=
  let r := s.groupRec i
  match r.2 with
  | none => r.1
  | some g =>
    let n := gDone g + 1
    if n < gShards g then r.1.putGroup i (setWord g 2 (setFld (wordAt g 2) 0 12 n)) else r.1.putGroup i (advanceGroup g)

/-- SHARD_UPDATE_COMPLETE (R264 to R266): the records, the group's count, and DONE_ID. -/
def execShardUpdateComplete (idx : Nat) (s : State) : Host.Outcome State Fault Refusal :=
  match Sparse.get (fun _ => none) s.tables.shards idx with
  | none => .next s
  | some j =>
    let d := s.draw
    let e := j.entry
    let s := ((d.2.progressed (.updateUnit (d.2.shardMc e))).setShard idx none).writeMem (uNrec e) (bytesOfWords (j.records d.1))
    let s := if j.status = 0x73 then s else s.countFiring (uGroup e)
    let s := if j.status = 0 then s.uuCount (uW e) 4 1 else if j.status = 0x71 then s.uuCount (uW e) 5 1 else s
    .next (if j.status = 0 then s.spoolAdd (uDone e) 64 else s.spoolPoison (uDone e))

/-! ## Changing a group (R267, R317) -/

/-- A rate pair as it is delivered to an owner (R83): LR_SIG and UEXP as one 8-byte value with its complement, and FROM_STEP. -/
structure RatePair where
  lr : Word
  ux : Word
  lrC : Word
  uxC : Word
  from_ : Word
  deriving DecidableEq, Repr

/-- A pair as its sender forms it. -/
def RatePair.of (lr : Word) (ux : Nat) (fs : Word) : RatePair :=
  { lr := lr, ux := BitVec.ofNat 32 (ux % 256), lrC := ~~~ lr, uxC := ~~~ (BitVec.ofNat 32 (ux % 256)), from_ := fs }

def RatePair.ok (p : RatePair) : Bool := p.lrC == ~~~ p.lr && p.uxC == ~~~ p.ux

/-- RATE on this module's record: the new record or the refusal. -/
def rateGroup (g : List Word) (lr : Word) (ux : Nat) (fs : Word) : Except Nat (List Word) :=
  if gPv g then .error 0x75
  else if fs.toNat < (gStep g).toNat ∨ (fs = gStep g ∧ 0 < gDone g) then .error 0x76
  else if !rateOk lr ux then .error 0x73
  else
    let g := setWord g 12 (BitVec.ofNat 32 (2 ^ 8 + ux % 256))
    .ok (setWord (setWord g 11 lr) 13 fs)

/-- SET: RULE, WFMT, COMP, WCOPY, MRND, B1, B2, LAMBDA and SEED of the image; the rest is kept. -/
def setGroup (g img : List Word) : Except Nat (List Word) :=
  if 0 < gDone g then .error 0x74
  else
    let w0 := setFld (wordAt g 0) 25 6 (fld (wordAt img 0) 25 6)
    let n := [(0, w0), (3, wordAt img 3), (4, wordAt img 4), (5, wordAt img 5), (9, wordAt img 9), (10, wordAt img 10)].foldl
      (fun g (p : Nat × Word) => setWord g p.1 p.2) g
    if groupValid n then .ok n else .error 0x73

/-- Apply an operation to this module's record of a group (R267): the status. RATE and SET change the record as it reads, whether it
is valid or not; one that cannot be read is refused as a bad group (log 94). ARM writes it whole. A pair whose complement does
not match is rejected: the old pair stays, and an integrity event is recorded (R83); its status is that of a bad group (log 94). -/
def State.changeGroup (s : State) (i op : Nat) (p : RatePair) (img : List Word) : State × Nat :=
  if s.gtSize ≤ i then (s, 0x73)
  else
    let r := s.groupWords i
    if op = 2 then (if (r.2.map gDone).getD 0 ≠ 0 then (r.1, 0x74) else (r.1.putGroup i (img.take 16), 0))
    else if op = 0 ∧ p.ok = false then
      let k := if p.lrC = ~~~ p.lr then (p.ux, p.uxC) else (p.lr, p.lrC)
      (r.1.integrity 0x650 9 none 0xFFFF (s.groupAddr i + 44) k.1 k.2, 0x73)
    else
      match r.2 with
      | none => (r.1, 0x73)
      | some g =>
        match if op = 0 then rateGroup g p.lr (fld p.ux 0 8) p.from_ else setGroup g img with
        | .ok n => (r.1.putGroup i n, 0)
        | .error e => (r.1, e)

/-- The service message that asks another module's gondola for a change of its record of a group (R83, R267, R335; log 92). -/
def groupMessage (i op tag : Nat) (p : RatePair) (img : List Word) : List Word :=
  [1, BitVec.ofNat 32 (op * 2 ^ 30 + i % 2 ^ 12), p.lr, p.ux, p.lrC, p.uxC, p.from_, BitVec.ofNat 32 tag]
    ++ List.replicate 8 0 ++ (List.range 16).map fun k => wordAt img k

/-- Read bytes at a device virtual address of a ring's context (R317, R318): none where it cannot be read here. -/
def State.readVa (s : State) (ctx va n : Nat) : State × Option (List Byte) :=
  (pieces va n).foldl (fun (q : State × Option (List Byte)) p =>
    match q.2 with
    | none => q
    | some acc =>
      let t := q.1.translate linkUnit ctx p.1 .read
      match t.2 with
      | .ok (.here a, _) =>
        let r := t.1.readMem a p.2
        (r.1, r.2.map (acc ++ ·))
      | _ => (t.1, none)) (s, some [])

/-- Write bytes there: false where it cannot. -/
def State.writeVa (s : State) (ctx va : Nat) (bs : List Byte) : State × Bool :=
  (pieces va bs.length).foldl (fun (q : State × Bool) p =>
    let t := q.1.translate linkUnit ctx p.1 .write
    match t.2 with
    | .ok (.here a, _) => (t.1.writeMem a ((bs.drop (p.1 - va)).take p.2), q.2)
    | _ => (t.1, false)) (s, true)

/-- One owner of an UPDATE_GROUP (R267): this module's record is changed; another module is sent the change, and its status is the
one in `remote`; a module whose answer is not there has not answered, and counts as lost to it (log 94). -/
def State.changeOwner (s : State) (dev i op : Nat) (p : RatePair) (img : List Word) (answer : Option Byte) : State × Nat :=
  if dev = s.deviceId then s.changeGroup i op p img
  else (s.tell 0 dev (groupMessage i op 0 p img), (answer.map BitVec.toNat).getD 0x73)

/-- An UPDATE_GROUP with operation `op` at HEAD starts, is applied owner by owner, and completes (R267, R317). `remote` holds the
statuses that other modules answer, by owner index. A parameter block that cannot be read or written is refused with DBADADDR
(log 32). -/
def State.updateGroup (s : State) (ring op : Nat) (remote : List (Nat × Byte)) : State :=
  match s.readyDesc ring 9 with
  | none => s
  | some w =>
    if fld (wordAt w 3) 30 2 ≠ op then s
    else
      let i := s.head ring
      let ctx := s.ringCtx ring
      let s := s.startDesc ring w
      let n := fld (wordAt w 8) 0 17
      let pb := dwordAt w 4
      let r := s.readVa ctx pb (64 + 4 * n)
      match r.2 with
      | none => (r.1.completeDesc ring i 0x84 0).goOn ring
      | some bs =>
        let p := RatePair.of (wordAt w 10) (fld (wordAt w 11) 0 8) (wordAt w 12)
        let q := (List.range n).foldl (fun (q : State × List Nat) k =>
          let c := q.1.changeOwner (natLE ((bs.drop (64 + 4 * k)).take 4) % 2 ^ 24) (fld (wordAt w 3) 0 12) op p (wordsLE 16 bs)
            ((remote.find? fun x => x.1 == k).map Prod.snd)
          (c.1, q.2 ++ [c.2])) (r.1, [])
        let o := q.1.writeVa ctx (pb + 64 + 4 * n) (q.2.map (BitVec.ofNat 8))
        let bad := q.2.filter (· != 0)
        let st := if o.2 then bad.headD 0 else 0x84
        (o.1.completeDesc ring i st bad.length).goOn ring

/-- UPDATE_GROUP_RATE (R267, R83). -/
def execUpdateGroupRate (ring : Nat) (remote : List (Nat × Byte)) (s : State) : Host.Outcome State Fault Refusal :=
  .next (s.updateGroup ring 0 remote)

/-- UPDATE_GROUP_SET (R267). -/
def execUpdateGroupSet (ring : Nat) (remote : List (Nat × Byte)) (s : State) : Host.Outcome State Fault Refusal :=
  .next (s.updateGroup ring 1 remote)

/-- UPDATE_GROUP_ARM (R267). -/
def execUpdateGroupArm (ring : Nat) (remote : List (Nat × Byte)) (s : State) : Host.Outcome State Fault Refusal :=
  .next (s.updateGroup ring 2 remote)

end Sys2Proof.Machine
end

