-- ==== Sys2Proof/Machine/Setup.lean ====
section
/-! DEFINITION. Reading and writing set-up and keeper registers (spec/19, R410 to R425; spec/00, R4 to R6): one central read
and one central write, by access code. -/
namespace Sys2Proof.Machine

/-! ## Invalidations (R419, R420) -/

def invBit : InvKind → Nat
  | .wt => 0 | .famap => 1 | .nt => 2 | .ut => 3

def State.invWaiting (s : State) (k : InvKind) : List Word := Sparse.get (fun _ => []) s.invQueue (invBit k)

/-- Put the queue of a kind; its BUSY bit shows whether one is in progress. -/
def State.setInv (s : State) (k : InvKind) (l : List Word) : State :=
  ({ s with invQueue := Sparse.set (fun _ => []) s.invQueue (invBit k) l } : State).setRegFld (offTbl + 0x30) (invBit k) 1
    (b2n (!l.isEmpty))

/-- A write to an INV register: it starts an invalidation, or is held behind the one in progress. -/
def State.writeInv (s : State) (k : InvKind) (v : Word) : State := s.setInv k (s.invWaiting k ++ [v])

/-- Indices of the table entries of `k` bytes at `base`, `n` of them, that hold a byte other than zero. -/
def State.usedEntries (s : State) (base k n : Nat) : List Nat :=
  ((s.mem.filter fun p => decide (base ≤ p.1) && decide (p.1 < base + k * n)).map fun p => (p.1 - base) / k).eraseDups

/-- What an invalidation drops (R180, R185); a node or update entry takes effect as it stands in its table (R231, R253) and is
armed afresh (R237). -/
def State.invalidate (s : State) (k : InvKind) (v : Word) : State :=
  match k with
  | .wt => { s with wcache := Sparse.forget (fun x => x % 64 == fld v 0 6) s.wcache }
  | .famap =>
    { s with fcache := Sparse.forget (fun x => bitAt v 31 || x % 2 ^ 25 == fld v 0 25) s.fcache }
  | .nt =>
    if bitAt v 31 then
      let s : State := { s with tables := { s.tables with
        nodeCache := [], nodeFire := [], armNode := s.spoolChg.map fun p => (p.1, p.2.length) } }
      forEach State.loadNode s (s.usedEntries s.ntBase 128 s.ntSize)
    else
      let i := fld v 0 20
      let s := s.loadNode i
      let f : Firing := { change := s.changes (nTrig (Sparse.get (fun _ => []) s.tables.nodeCache i)), again := false }
      { s with tables := { s.tables with nodeFire := Sparse.set (fun _ => Firing.none) s.tables.nodeFire i f } }
  | .ut =>
    if bitAt v 31 then
      let s : State := { s with tables := { s.tables with
        updCache := [], updFire := [], armUpd := s.spoolChg.map fun p => (p.1, p.2.length) } }
      forEach State.loadUpd s (s.usedEntries s.utBase 256 s.utSize)
    else
      let i := fld v 0 16
      let s := s.loadUpd i
      let f : Firing := { change := s.changes (uTrig (Sparse.get (fun _ => []) s.tables.updCache i)), again := false }
      { s with tables := { s.tables with updFire := Sparse.set (fun _ => Firing.none) s.tables.updFire i f } }

/-- WT_INV (R419). -/
def execWtInv (v : Word) (s : State) : Host.Outcome State Fault Refusal := .next (s.writeInv .wt v)

/-- FAMAP_INV (R419). -/
def execFamapInv (v : Word) (s : State) : Host.Outcome State Fault Refusal := .next (s.writeInv .famap v)

/-- NT_INV (R419). -/
def execNtInv (v : Word) (s : State) : Host.Outcome State Fault Refusal := .next (s.writeInv .nt v)

/-- UT_INV (R419). -/
def execUtInv (v : Word) (s : State) : Host.Outcome State Fault Refusal := .next (s.writeInv .ut v)

/-! ## Idle partitions (R407) -/

/-- A spool counter of partition `p` is granted to some context (R415: 2,048 counters each). -/
def State.granted (s : State) (p : Nat) : Bool :=
  (List.range 64).any fun c =>
    let w := s.reg (offCtx c + 4)
    bitAt w 31 && decide (fld w 0 14 ≤ fld w 16 14) && decide (fld w 0 14 < 2048 * (p + 1)) && decide (2048 * p ≤ fld w 16 14)

/-- A FACTOR entry of partition `p` is armed (R245). -/
def State.factorArmed (s : State) (p : Nat) : Bool :=
  (List.range s.ntSize).any fun i =>
    let e := s.nodeNow i
    nKind e == 4 && fPart e == p

/-- Nothing keeps partition `p` awake: no resident block, no granted counter, no armed FACTOR entry. -/
def State.partIdle (s : State) (p : Nat) : Bool :=
  ((List.range 192).all fun i => (s.core (192 * p + i)).held.isEmpty) && !s.granted p && !s.factorArmed p

/-- Partitions that a change has made idle count from now on. -/
def State.reidle (s t : State) : State :=
  forEach (fun u p => if !s.partIdle p && t.partIdle p then u.setPart p fun x => { x with idleSince := u.lcount } else u) t
    (List.range 8)

/-- INVALIDATION_COMPLETE (R420): the one in progress has taken effect; a held one begins. -/
def execInvalidationComplete (kind : InvKind) (s : State) : Host.Outcome State Fault Refusal :=
  match s.invWaiting kind with
  | [] => .next s
  | v :: rest =>
    let t := (s.invalidate kind v).setInv kind rest
    .next (if kind = .nt then s.reidle t else t)

/-! ## Clearing counters (R41, R71, R175, R251, R269, R293, R322, R365, R412, R415) -/

/-- For each bit of a write that is 1, set the counter at the offset paired with it to 0. -/
def State.clearBits (s : State) (v : Word) (regs : List (Nat × Nat)) : State :=
  forEach (fun s r => if bitAt v r.1 then s.setReg r.2 0 else s) s regs

/-- Counters of a clear register: bit `i` clears the `i`-th word from `off`. -/
def countersFrom (off n : Nat) : List (Nat × Nat) := (List.range n).map fun i => (i, off + 4 * i)

/-- CVT_COUNT_CLEAR (R41). -/
def State.clearCvt (s : State) (core : Nat) (v : Word) : State := s.clearBits v (countersFrom (offCvt core 0) 3)

/-- ARR_COUNT_CLEAR (R71): bit 0 the F group, 1 the D group, 2 the W group, eight counters each. -/
def State.clearArr (s : State) (core : Nat) (v : Word) : State :=
  forEach (fun s a => if bitAt v a then s.clearRegs (offArr core a 0) 8 else s) s (List.range 3)

/-- CORE_COUNT_CLEAR (R412). -/
def State.clearCore (s : State) (core : Nat) (v : Word) : State := s.clearBits v [(0, offRepack core)]

/-- FU_COUNT_CLEAR (R415). -/
def State.clearFu (s : State) (p : Nat) (v : Word) : State := s.clearBits v [(0, offFuDone p)]

/-- MC_COUNT_CLEAR (R175). -/
def State.clearMc (s : State) (mc : Nat) (v : Word) : State := s.clearBits v (countersFrom (offMc mc) 4)

/-- RA_COUNT_CLEAR (R251). -/
def State.clearRa (s : State) (mc : Nat) (v : Word) : State := s.clearBits v (countersFrom (offRa mc 0) 7)

/-- UU_COUNT_CLEAR (R269). -/
def State.clearUu (s : State) (mc : Nat) (v : Word) : State := s.clearBits v (countersFrom (offUu mc 0) 7)

/-- FAB_COUNT_CLEAR (R293). -/
def State.clearFab (s : State) (k : Nat) (v : Word) : State := s.clearBits v (countersFrom (offPort k + 0x24) 5)

/-- SN_COUNT_CLEAR (R322). -/
def State.clearSn (s : State) (v : Word) : State := s.clearBits v (countersFrom (offHost + 0x10) 6)

/-- PWR_COUNT_CLEAR (R365): bit 0 every per-partition counter, bit 1 every module counter. -/
def State.clearPwr (s : State) (v : Word) : State :=
  let s := if bitAt v 0 then forEach (fun s p => s.clearRegs (offPp p 0) 4) s (List.range 8) else s
  if bitAt v 1 then s.clearRegs (offPwr + 0x180) 4 else s

/-! ## Requests for resets by register (R404, R415) -/

/-- PART_CTRL.RESET (R415): ignored while the partition is absent. -/
def State.askPart (s : State) (p : Nat) : State :=
  if s.partAbsent p || s.resets.parts.contains p then s
  else { s with resets := { s.resets with parts := s.resets.parts ++ [p] } }

/-- PART_CTRL_RESET (R415, R403). -/
def execPartCtrlReset (p : Nat) (s : State) : Host.Outcome State Fault Refusal := if p < 8 then .next (s.askPart p) else .next s

/-- RESET_CTRL_CHIP (R404). -/
def execResetCtrlChip (s : State) : Host.Outcome State Fault Refusal := .next (s.askChip .resetCtrl)

/-! ## Keeper registers (R390, R404, R423, R425) -/

/-- A write after lock (R5): discarded, with an integrity event. -/
def State.lockedWrite (s : State) (src off : Nat) (v : Word) : State := s.integrity src 8 none 0xFFFF off v 0

/-- ERR_BASE (R390, R423): re-arms the ring; locked by KEEPER_LOCK. -/
def State.writeErrBase (s : State) (src : Nat) (v : Word) : State :=
  if bitAt (s.kreg 0x30) 0 then s.lockedWrite src 0x10 v else (s.setKreg 0x10 (v &&& 0xFFFFFFF)).rearmRing

/-- ERR_RD (R390): a value that leaves more than 4,032 records unread is discarded. -/
def State.writeErrRd (s : State) (v : Word) : State := if 4032 < (s.errWr - v).toNat then s else s.setKreg 0x18 v

/-- ERR_FATAL (R390): CLR sets USED to 0. -/
def State.writeErrFatal (s : State) (v : Word) : State := if bitAt v 31 then s.setKreg 0x1C 0 else s

/-- ERR_BASE_WRITE (R390). -/
def execErrBaseWrite (v : Word) (s : State) : Host.Outcome State Fault Refusal := .next (s.writeErrBase 0x650 v)

/-- ERR_RD_WRITE (R390). -/
def execErrRdWrite (v : Word) (s : State) : Host.Outcome State Fault Refusal := .next (s.writeErrRd v)

/-- ERR_FATAL_CLEAR (R390). -/
def execErrFatalClear (s : State) : Host.Outcome State Fault Refusal := .next (s.writeErrFatal 0x80000000)

/-- A 32-bit write of a keeper register by context 0 (R425). -/
def State.keeperWrite (s : State) (src off : Nat) (v : Word) : State :=
  if off = 4 then s.setKreg 4 (v &&& 1)
  else if off = 8 then (if bitAt v 0 then s.askChip .resetCtrl else s)
  else if off = 0x10 then s.writeErrBase src v
  else if off = 0x18 then s.writeErrRd v
  else if off = 0x1C then s.writeErrFatal v
  else if off = 0x24 then s.setKreg 0x24 (v &&& 0xFFFFF001)
  else if off = 0x28 then s.setKreg 0x28 v
  else if off = 0x30 then (if bitAt (s.kreg 0x30) 0 then s.lockedWrite src 0x30 v else s.setKreg 0x30 (v &&& 1))
  else s

/-- A 32-bit read of a keeper register: CHIP and CLR read 0. -/
def State.keeperRead (s : State) (off : Nat) : Word := s.kreg off

/-! ## Reading (R5, R6, R413, R414, R422) -/

def requesterIndex : Requester → Nat
  | .sc n => n % 8
  | .host => 8
  | .core n => 16 + n

/-- Present clusters that the group aperture selects (R414). -/
def State.groupClusters (s : State) : List Nat :=
  (List.range 96).filter fun c => bitAt (s.reg (offAper + 4 * (c / 32))) (c % 32) && s.clusterPresent c

def State.allClusters (s : State) : List Nat := (List.range 96).filter s.clusterPresent

/-- A register outside the apertures: the value that the module maintains or stores. -/
def State.readReg (s : State) (off : Nat) : Word :=
  match regDesc off with
  | none => 0
  | some d =>
    match d.kind with
    | .rwcComplement => ~~~ (s.reg (off - 4))
    | _ => if offErrMirror ≤ off ∧ off < offErrMirror + 0x1C then s.keeperRead (off - offErrMirror + 0x10) else s.reg off

/-- An offset of the window that is a hole (R410): one no block covers, or a block of an absent cluster. -/
def State.setupHole (s : State) (off : Nat) : Bool := !s.populated (setupBase + off)

/-- A 32-bit read by a requester; `src` reports a hole (R165, R300). -/
def State.setupRead (s : State) (rq : Requester) (src off : Nat) : State × Word :=
  if 0xC00000 ≤ off ∧ off < 0xC20000 then
    (s, match s.allClusters with
      | c :: _ => s.readReg (offCluster c + (off - 0xC00000))
      | [] => 0)
  else if 0xE00000 ≤ off ∧ off < 0xE20000 then
    (s, match s.groupClusters with
      | c :: _ => s.readReg (offCluster c + (off - 0xE00000))
      | [] => 0)
  else if s.setupHole off then (s.holeRecord src (some 0) (setupBase + off), 0)
  else if off = offGond + 8 then
    ({ s with lcLatch := Sparse.set (fun _ => 0) s.lcLatch (requesterIndex rq) (BitVec.ofNat 32 (s.lcount.toNat / 2 ^ 32)) },
     BitVec.ofNat 32 s.lcount.toNat)
  else if off = offGond + 0xC then (s, Sparse.get (fun _ => 0) s.lcLatch (requesterIndex rq))
  else (s, s.readReg off)

/-- LCOUNT_LO_READ (R422). -/
def execLcountLoRead (rq : Requester) (s : State) : Host.Outcome State Fault Refusal :=
  .next (s.setupRead rq 0x650 (offGond + 8)).1

/-! ## Writing (R4 to R6, R411, R423, R424) -/

/-- The lock that covers an RWL register of a block is set (R423). -/
def State.locked (s : State) (off : Nat) : Bool :=
  if regBlock off = offMem then bitAt (s.reg (offMem + 0x10)) 0 else bitAt (s.reg (offTbl + 0x3C)) 0

/-- A SIZE written above its maximum stores the maximum (R419). -/
def clampSize (off : Nat) (v : Word) : Word :=
  let m := if off = offTbl + 8 then 1048576 else if off = offTbl + 0x10 then 4096
    else if off = offTbl + 0x18 then 65536 else 0xFFFFFFFF
  BitVec.ofNat 32 (min v.toNat m)

/-- RING_BASE, CQ_BASE and RING_CFG (R322): only a STOPPED ring takes a write. Bits [11:0] of the two bases, which R322 has 0, are stored
as 0 whatever is written (DESIGN CHOICE, log 21). -/
def State.writeRingReg (s : State) (src r x : Nat) (v : Word) : State :=
  if s.ringState r ≠ 0 then s.refusal src 4 none (addrWords (offRing r + x))
  else if x = 0x10 then s.setReg (offRing r + 0x10) (s.reg (offRing r + 0x10) &&& 0xFFFFFEE0 ||| v &&& 0x11F)
  else s.setReg (offRing r + x) (if x = 0 ∨ x = 8 then v &&& 0xFFFFF000 else v)

/-- RING_CTRL: START, STOP, RESUME, each bit that is set. -/
def State.writeRingCtrl (s : State) (r : Nat) (v : Word) : State :=
  let s := if bitAt v 0 then s.ringStart r else s
  let s := if bitAt v 1 then s.ringStop r else s
  if bitAt v 2 then s.ringResume r else s

/-- What a write does to a register that acts. -/
def State.act (s : State) (src off : Nat) (v : Word) : State :=
  if off < 0xC00000 then
    let x := off % 0x20000
    let core := off / 0x20000 * 16 + x / 0x1000 - 1
    let y := x % 0x1000
    if y = 0xC then s.clearCvt core v else if y = 0x160 then s.clearArr core v else s.clearCore core v
  else if off < 0x1080000 then
    let p := (off - 0x1000000) / 0x10000
    if off % 0x10000 = 0 then (if bitAt v 0 then s.askPart p else s) else s.clearFu p v
  else if off < 0x1230000 then
    let mc := if off < 0x1220000 then (off - 0x1200000) / 0x1000 else 32 + (off - 0x1220000) / 0x1000
    let y := off % 0x1000
    if y = 0x14 then s.clearMc mc v else if y = 0x11C then s.clearRa mc v else s.clearUu mc v
  else if off < 0x1301000 then
    let k := (off - 0x1300000) / 0x100
    if off % 0x100 = 0 then s.writePortCtrl k v else s.clearFab k v
  else if off < offCtx 0 then
    let x := off - offTbl
    if x = 0x20 then s.writeInv .wt v else if x = 0x24 then s.writeInv .famap v
    else if x = 0x28 then s.writeInv .nt v else s.writeInv .ut v
  else if off < offPwr then
    let x := off - offHost
    if x = 0x28 then s.clearSn v
    else if x < 0x1000 then s.keeperWrite src (x - 0x880 + 0x10) v
    else
      let r := (x - 0x1000) / 0x40
      let y := x % 0x40
      if y ≤ 0x10 then s.writeRingReg src r y v
      else if y = 0x14 then s.writeRingCtrl r v
      else if s.ringDev r then (s.supplyTail r v).1 else s
  else if off = offPwr + 0x190 then s.clearPwr v
  else s.writePhase ((off - offPwr - 0x40) / 4) v

/-- What the commit of an RWC value does beside storing it (R292, R348, R351, R381). -/
def State.commitRwc (s : State) (off mask : Nat) (v : Word) : State :=
  let v := v &&& BitVec.ofNat 32 mask
  if off = offPwr then
    if capOk (fld v 0 11) then s.commitSwCap (fld v 0 11) else s.refuseCap (fld v 0 11)
  else if off = offMoor + 0x10 then s.commitMoor v.toNat
  else
    let old := s.epoch
    let s := s.setRwc off v
    if off = offFabJob then (if s.epoch = old then s else s.clearCuts)
    else if offArrayMap 0 ≤ off ∧ off < offHost then s.modCore ((off - offArrayMap 0) / 8) fun c => { c with mapCopy := none }
    else s

/-- The complement word at `off` (R6): commits the value pending for its register, else one integrity event. -/
def State.writeComplement (s : State) (src off : Nat) (v : Word) : State :=
  let b := regBlock off
  match s.pendOf b with
  | none => s.rwcFailed src (off - 4) 0 v
  | some p =>
    let s := s.setPend b none
    if p.1 + 4 = off ∧ v = ~~~ p.2 then
      match regDesc p.1 with
      | some d => match d.kind with
        | .rwcValue mask => s.commitRwc p.1 mask p.2
        | _ => s
      | none => s
    else s.rwcFailed src p.1 p.2 v

/-- The gondola's set-up record keeps what its service cores wrote to CL_CTRL (R403, R412). -/
def State.noteCluster (s : State) (src off : Nat) (v : Word) : State :=
  if 0x650 ≤ src ∧ src < 0x658 ∧ off < 0xC00000 ∧ off % 0x20000 = 0 then
    { s with svc := { s.svc with clCtrl := Sparse.set (fun _ => 1) s.svc.clCtrl (off / 0x20000) v } }
  else s

/-- A 32-bit write outside the apertures; `src` reports. -/
def State.setupWrite (s : State) (src off : Nat) (v : Word) : State :=
  match regDesc off with
  | none => s.holeRecord src (some 0) (setupBase + off)
  | some d =>
    if s.setupHole off then s.holeRecord src (some 0) (setupBase + off)
    else
      match d.kind with
      | .rwcComplement => s.writeComplement src off v
      | k =>
        let s := s.dropPend src (regBlock off)
        match k with
        | .rw mask =>
          if mask = 0 then s else (s.setReg off (v &&& BitVec.ofNat 32 mask)).noteCluster src off (v &&& BitVec.ofNat 32 mask)
        | .rwl mask =>
          if s.locked off then s.lockedWrite src off v else s.setReg off (clampSize off (v &&& BitVec.ofNat 32 mask))
        | .rwcValue _ => s.setPend (regBlock off) (some (off, v))
        | .rwcComplement => s
        | .acts => s.act src off v

/-- A write anywhere in the window: an aperture write is a write to each of its clusters, in ascending order (R413, R414). -/
def State.windowWrite (s : State) (src off : Nat) (v : Word) : State :=
  if 0xC00000 ≤ off ∧ off < 0xC20000 then
    forEach (fun s c => s.setupWrite src (offCluster c + (off - 0xC00000)) v) s s.allClusters
  else if 0xE00000 ≤ off ∧ off < 0xE20000 then
    forEach (fun s c => s.setupWrite src (offCluster c + (off - 0xE00000)) v) s s.groupClusters
  else s.setupWrite src off v

/-- SETUP_REGISTER_WRITE (R4, R5, R411): a write by the gondola, by the register's access code. -/
def execSetupRegisterWrite (off : Nat) (v : Word) (s : State) : Host.Outcome State Fault Refusal :=
  if off % 4 = 0 ∧ off < 0x4000000 then .next (s.windowWrite 0x650 off v) else .next s

/-- The access kind of an offset. -/
def isRwcValue (off : Nat) : Bool :=
  match regDesc off with
  | some d => match d.kind with
    | .rwcValue _ => true
    | _ => false
  | none => false

def isRwcComplement (off : Nat) : Bool :=
  match regDesc off with
  | some d => d.kind == .rwcComplement
  | none => false

/-- RWC_VALUE_WRITE (R6): the value is held pending and changes nothing. -/
def execRwcValueWrite (off : Nat) (v : Word) (s : State) : Host.Outcome State Fault Refusal :=
  if isRwcValue off then .next (s.setupWrite 0x650 off v) else .next s

/-- RWC_COMPLEMENT_WRITE (R6). -/
def execRwcComplementWrite (off : Nat) (v : Word) (s : State) : Host.Outcome State Fault Refusal :=
  if isRwcComplement off then .next (s.setupWrite 0x650 off v) else .next s

/-- BROADCAST_WRITE (R413): at offset `x` of every present cluster's block. -/
def execBroadcastWrite (x : Nat) (v : Word) (s : State) : Host.Outcome State Fault Refusal :=
  if x % 4 = 0 ∧ x < 0x20000 then .next (s.windowWrite 0x650 (0xC00000 + x) v) else .next s

/-- GROUP_APERTURE_WRITE (R414): at offset `x` of the selected clusters' blocks. -/
def execGroupApertureWrite (x : Nat) (v : Word) (s : State) : Host.Outcome State Fault Refusal :=
  if x % 4 = 0 ∧ x < 0x20000 then .next (s.windowWrite 0x650 (0xE00000 + x) v) else .next s

end Sys2Proof.Machine
end

