-- ==== Sys2Proof/Machine/MemIns.lean ====
section
/-! DEFINITION. Loads, stores, counted writes and cache instructions (spec/07, R144 to R147; spec/10, R215 to R225). -/
namespace Sys2Proof.Machine

/-! ## Where an access goes -/

/-- Where one lane's access goes: a physical address, with whether a line may be allocated for it and its virtual address
when it has one; or another module. -/
inductive Place where
  | here (a : Nat) (va : Option Nat) (cacheable : Bool)
  | away (dev lpn off va : Nat)
  deriving DecidableEq, Repr

/-- The address that a lane forms (R145): modulo 2^64 in VA, the plain sum elsewhere (log 45). -/
def At.address (a : At) (space : Nat) (f : BitVec 9) (off : Int) (lane : Nat) : Int :=
  if space = 2 then ((a.g.val f lane 2 : Int) + off) % 2 ^ 64 else (a.g.val f lane 1 : Int) + off

/-- Check and place an access of `n` bytes (R108, R145, R178): the fault and its address, or where it goes. -/
def At.place (a : At) (s : State) (space : Nat) (x : Int) (n : Nat) (need : Need) : State × Except (Nat × Nat) Place :=
  let ad := (x % 2 ^ 64).toNat
  if x % n ≠ 0 then (s, .error (fMisaligned, ad))
  else if space = 2 then
    let r := s.translate a.core a.b.ctx ad need
    match r.2 with
    | .error c => (r.1, .error (c, ad))
    | .ok (.here p, c) => (r.1, .ok (.here p (some ad) c))
    | .ok (.remote dev lpn off, _) => (r.1, .ok (.away dev lpn off ad))
  else if x < 0 ∨ s.inSpace a.core a.b space ad n = false then (s, .error (fBounds, ad))
  else
    match s.sideBase a.core a.b space ad with
    | some p => (s, .ok (.here p none false))
    | none => (s, .error (fBounds, ad))

/-- Place the access of every lane: the first fault, or the places by lane. -/
def At.places (a : At) (s : State) (space n : Nat) (need : Need) (addrs : List (Nat × Int)) :
    State × Except (Nat × Nat) (List (Nat × Place)) :=
  addrs.foldl (fun (p : State × Except (Nat × Nat) (List (Nat × Place))) q =>
    match p.2 with
    | .error e => (p.1, .error e)
    | .ok l =>
      let r := a.place p.1 space q.2 n need
      match r.2 with
      | .error e => (r.1, .error e)
      | .ok w => (r.1, .ok (l ++ [(q.1, w)]))) (s, .ok [])

/-- Key of an access in the core order (R215, R216). -/
def Place.key (p : Place) (ctx : Nat) : Nat :=
  match p with
  | .here a none _ => a
  | .here _ (some va) _ => vaKey ctx va
  | .away _ _ _ va => vaKey ctx va

/-- The address that a fault of the access names. -/
def Place.addr (p : Place) : Nat :=
  match p with
  | .here a none _ => a
  | .here _ (some va) _ => va
  | .away _ _ _ va => va

/-- A write of `n` bytes at `x` covers an INV register whose BUSY bit is set: it is held until the earlier invalidation has completed
(R420). -/
def State.invHolds (s : State) (x n : Nat) : Bool :=
  (List.range 4).any fun i =>
    let r := setupBase + offTbl + 0x20 + 4 * i
    decide (x ≤ r) && decide (r < x + n) && bitAt (s.reg (offTbl + 0x30)) i

/-- An earlier operation of the core must come first (R215), or an invalidation (R420). -/
def At.blocked (a : At) (s : State) (ps : List (Nat × Place)) (n : Nat) (write : Bool) : Bool :=
  ps.any fun p => (s.core a.core).conflict (p.2.key a.b.ctx) n write || match p.2 with
    | .here x _ _ => write && s.invHolds x n
    | _ => false

/-! ## Physical accesses of a thread -/

/-- Set-up and keeper registers. -/
def isRegs (a : Nat) : Bool := isSetup a || (decide (keeperBase ≤ a) && decide (a < mailboxBase))

/-- Memory proper: DRAM, SRAM, wide buffers and the gondola's memory. -/
def State.isStore (s : State) (a : Nat) : Bool := s.populated a && !isSpool a && !isRegs a

/-- Read one register word (R411, R422, R425). -/
def State.regsRead (s : State) (core a : Nat) : State × List Byte :=
  if isSetup a then
    let r := s.setupRead (.core core) core (a - setupBase)
    (r.1, bytesLE 4 r.2.toNat)
  else if s.populated a then (s, bytesLE 4 (s.keeperRead (a - keeperBase)).toNat)
  else (s.holeRecord core (some 0) a, bytesLE 4 0)

/-- Read at a physical address: none for a poisoned read (R173, R176). Registers take words alone: a narrower access is
discarded, reads zeros and is recorded (R411); holes read zeros (R165). -/
def State.threadRead (s : State) (core ctx a n : Nat) : State × Option (List Byte) :=
  if isRegs a then
    if n < 4 then (s.holeRecord core (some ctx) a, some (List.replicate n 0))
    else
      let r := (List.range (n / 4)).foldl (fun (p : State × List Byte) i =>
        let q := p.1.regsRead core (a + 4 * i)
        (q.1, p.2 ++ q.2)) (s, [])
      (r.1, some r.2)
  else if !s.populated a then (s.holeRecord core (some ctx) a, some (List.replicate n 0))
  else if isSpool a then (s, some (s.spoolRead a n))
  else
    let r := s.readMem a n
    (r.1, if isSram a then r.2.map (r.1.slotBytes a) else r.2)

/-- Write one register word. -/
def State.regsWrite (s : State) (core a : Nat) (w : Word) : State :=
  if isSetup a then s.windowWrite core (a - setupBase) w
  else if s.populated a then s.keeperWrite core (a - keeperBase) w
  else s.holeRecord core (some 0) a

/-- Write at a physical address (R164, R165, R325, R411); a write to local SRAM discards the writing core's own pending samples of
it (R88). -/
def State.threadWrite (s : State) (core ctx a : Nat) (bs : List Byte) : State :=
  if isRegs a then
    if bs.length < 4 then s.holeRecord core (some ctx) a
    else forEach (fun s p => s.regsWrite core (a + 4 * p.2) p.1) s ((wordsLE (bs.length / 4) bs).zip (List.range (bs.length / 4)))
  else if !s.populated a then s.holeRecord core (some ctx) a
  else if isSpool a then
    if bs.length ≤ 8 then s.spoolWrite core (some ctx) a bs
    else (s.spoolWrite core (some ctx) a (bs.take 8)).spoolWrite core (some ctx) (a + 8) (bs.drop 8)
  else if isRom a then s
  else
    let s := s.writeMem a bs
    if isSram a then (s.slotWrite a bs).touch core a bs.length else s

/-! ## The cache part -/

/-- Put a whole line of this module's memory into the cache part; false when its block is poisoned. -/
def State.fillHere (s : State) (core ctx k : Nat) : State × Bool :=
  let r := s.readMem k 64
  match r.2 with
  | none => (r.1, false)
  | some bs => (r.1.allocate core k { bytes := bs, dirty := 0, ctx := ctx, remote := none, slot := 0, org := .none }, true)

/-- Read at a local place: through the cache part, or past it with the core's own stores written back first (R145, R146,
R180, R215, R225). -/
def State.readHere (s : State) (core ctx a n : Nat) (cached : Bool) : State × Option (List Byte) :=
  let k := a / 64 * 64
  if cached && s.isStore a && (s.core core).split != 0 then
    match (s.core core).line k with
    | some l => (s, some (l.slice (a % 64) n))
    | none =>
      let r := s.fillHere core ctx k
      if r.2 then
        match (r.1.core core).line k with
        | some l => (r.1, some (l.slice (a % 64) n))
        | none => (r.1, none)
      else (r.1, none)
  else (s.writeBack core k).threadRead core ctx a n

/-- Write at a local place: into a line, allocated when there is none (log 46), or at memory once the line has been written
back and dropped (R146, R218, R219). A line whose block is poisoned cannot be filled: the bytes go to memory, as a write of fewer than
64 bytes, which is not refused (R173). -/
def State.writeHere (s : State) (core ctx a : Nat) (bs : List Byte) (cached : Bool) (org : Origin) : State :=
  let k := a / 64 * 64
  if cached && s.isStore a && !isRom a && (s.core core).split != 0 then
    let s := if ((s.core core).line k).isSome then s
      else
        let t := if isDram k then s.crcCheck k else s
        if t.poisoned k then t else (t.fillHere core ctx k).1
    match (s.core core).line k with
    | some l => s.setLine core k (some (l.put (a % 64) bs org))
    | none => s.threadWrite core ctx a bs
  else (s.evict core k).threadWrite core ctx a bs

/-! ## Accesses and earlier acquires -/

/-- An acquire that nothing outside the module had to answer completes at once (R221). -/
def At.acquired (a : At) (s : State) (o : Nat) : State :=
  if ordAcquire o && !s.acquiring a then s.observe a.core a.blk a.grp a.m else s

/-! ## LD and ST -/

/-- Fields of MOD (R144). -/
def modWid (m : BitVec 6) : Nat := fld m 3 3
def modSpace (m : BitVec 6) : Nat := fld m 1 2
def modStrm (m : BitVec 6) : Bool := bitAt m 0

/-- ORD of a load: plain or acquire; of a store: plain or release (R147). -/
def loadOrd (o : Nat) : Bool := !ordRelease o
def storeOrd (o : Nat) : Bool := !ordAcquire o

/-- Registers of the address of a space. -/
def addrRegs (space : Nat) : Nat := if space = 2 then 2 else 1

/-- What one lane's load answers: its bytes, nothing yet (another module was asked), or a fault class. -/
inductive Loaded where
  | bytes (bs : List Byte)
  | asked
  | stop (cls : Nat)
  deriving DecidableEq, Repr

/-- One lane's load. `cached` says that it may use and allocate lines (R145, R185, R220); `acq` that it is an acquire. -/
def At.load (a : At) (s : State) (d : BitVec 9) (wid : Nat) (cached acq : Bool) (lane : Nat) (p : Place) : State × Loaded :=
  let n := widBytes wid
  match p with
  | .here x _ c =>
    let r := s.readHere a.core a.b.ctx x n (cached && c)
    match r.2 with
    | some bs => (r.1, .bytes bs)
    | none => (r.1, .stop fPoison)
  | .away dev lpn off va =>
    if s.isCut dev then (s, .bytes (List.replicate n 0))
    else
      let k := 2 ^ 64 + va / 64 * 64
      let use := cached && (s.core a.core).split != 0
      match (if use then (s.core a.core).line k else none) with
      | some l => (s, .bytes (l.slice (va % 64) n))
      | none =>
        let s := s.writeBack a.core k
        let off := if use then off / 64 * 64 else off / 4 * 4
        let words := if use then 16 else (va % 4 + n + 3) / 4
        match s.issueReq 2 dev a.b.ctx (.thread a.core a.blk a.grp lane d wid use) va words (extAddr s.gran false lpn off) [] a.org acq with
        | some s => (s, .asked)
        | none => (s, .stop fUnmapped)

/-- The loads of all lanes, in lane order: values to write, or the first fault. -/
def At.loads (a : At) (s : State) (d : BitVec 9) (wid : Nat) (cached acq : Bool) (ps : List (Nat × Place)) :
    State × Except (Nat × Nat) (List (Nat × Nat)) :=
  ps.foldl (fun (q : State × Except (Nat × Nat) (List (Nat × Nat))) p =>
    match q.2 with
    | .error e => (q.1, .error e)
    | .ok l =>
      let r := a.load q.1 d wid cached acq p.1 p.2
      match r.2 with
      | .bytes bs => (r.1, .ok (l ++ [(p.1, extendWid wid (natLE bs))]))
      | .asked => (r.1, .ok l)
      | .stop c => (r.1, .error (c, p.2.addr))) (s, .ok [])

/-- The lanes that perform a load: one for a u destination (R145). -/
def At.loadLanes (a : At) (d : BitVec 9) : List Nat := if (fileOf d).1 = .u then a.lanes.take 1 else a.lanes

/-- LD (R144, R145, R147, R215, R220). -/
def execLd (sg : SgRef) (f : FormM) (s : State) : Host.Outcome State Fault Refusal :=
  let wid := modWid f.mod
  let space := modSpace f.mod
  let o := f.ord.toNat
  let n := widBytes wid
  .next (s.issue sg f.g true false (wid != 7 && (!modStrm f.mod || space == 2) && loadOrd o)
    [.dest f.d (widRegs wid), .src f.a (addrRegs space)] fun a s => a.access s fun s =>
      let r := a.places s space n .read ((a.loadLanes f.d).map fun i => (i, a.address space f.a (signedOf 24 f.off.toNat) i))
      match r.2 with
      | .error e => .fault r.1 e.1 e.2
      | .ok ps =>
        if a.blocked r.1 ps n false then .wait
        else
          let q := a.loads r.1 f.d wid (!modStrm f.mod && !(ordAcquire o && decide (2 ≤ ordScope o))) (ordAcquire o) ps
          match q.2 with
          | .error e => .fault q.1 e.1 e.2
          | .ok vals => .done (a.acquired (a.put q.1 f.d (widRegs wid) vals) o))

/-- One lane's store; false when no port leads to its holder. -/
def At.store (a : At) (s : State) (cached : Bool) (p : Place) (bs : List Byte) : State × Bool :=
  match p with
  | .here x _ c => (s.writeHere a.core a.b.ctx x bs (cached && c) a.org, true)
  | .away dev lpn off va =>
    if s.isCut dev then (s, true)
    else
      let k := 2 ^ 64 + va / 64 * 64
      match (if cached && (s.core a.core).split != 0 then (s.core a.core).line k else none) with
      | some l => (s.setLine a.core k (some (l.put (va % 64) bs a.org)), true)
      | none =>
        ((s.evict a.core k).overtake a.core va bs.length).issueWrites dev lpn a.b.ctx (.store a.core a.blk a.grp) va
          ((bs.zip (List.range bs.length)).map fun b => { off := off + b.2, mask := 0xFF, val := b.1 }) a.org

/-- The stores of all lanes, in lane order: the fault address of the first that finds no route. -/
def At.stores (a : At) (s : State) (cached : Bool) (data : Nat → List Byte) (ps : List (Nat × Place)) :
    State × Option Nat :=
  ps.foldl (fun (q : State × Option Nat) p =>
    if q.2.isSome then q
    else
      let r := a.store q.1 cached p.2 (data p.1)
      (r.1, if r.2 then none else some p.2.addr)) (s, none)

/-- The bytes that a lane stores from an operand. -/
def At.storeBytes (a : At) (f : BitVec 9) (wid lane : Nat) : List Byte :=
  bytesLE (widBytes wid) (a.g.val f lane (widRegs wid))

/-- Loads and plain stores are re-packed (R119 lets the scheduler); a release store is issued by itself (log 49). -/
def storeRepacks (o : Nat) : Bool := !ordRelease o

/-- ST (R144, R145, R147, R215, R219). -/
def execSt (sg : SgRef) (f : FormM) (s : State) : Host.Outcome State Fault Refusal :=
  let wid := modWid f.mod
  let space := modSpace f.mod
  let o := f.ord.toNat
  let n := widBytes wid
  .next (s.issue sg f.g (storeRepacks o) false (wid != 7 && !modStrm f.mod && storeOrd o)
    [.src f.d (widRegs wid), .src f.a (addrRegs space)] fun a s => a.access s fun s =>
      let r := a.places s space n .write (a.each fun i => a.address space f.a (signedOf 24 f.off.toNat) i)
      match r.2 with
      | .error e => .fault r.1 e.1 e.2
      | .ok ps =>
        if a.blocked r.1 ps n true then .wait
        else
          let v := r.1.release a o
          if !v.2 then .retry v.1
          else
            let q := a.stores v.1 (!(ordRelease o && decide (2 ≤ ordScope o))) (a.storeBytes f.d wid) ps
            match q.2 with
            | some x => .fault q.1 fUnmapped x
            | none => .done q.1)

/-! ## ST.N and ACC.N -/

/-- The counter that a lane names, when it may (R146, R159): in range on this module, by 14 bits on another. -/
def At.countId (a : At) (s : State) (f : BitVec 9) (lane : Nat) (p : Place) : Option Nat :=
  let v := a.g.val f lane 1
  match p with
  | .here _ _ _ => if v < 2 ^ 14 ∧ s.inSpool a.b.ctx v = true then some v else none
  | .away _ _ _ _ => if v < 2 ^ 14 then some v else none

/-- One lane's counted write, at the memory that holds the address (R218, R222, R279). -/
def At.storeCounted (a : At) (s : State) (p : Place) (bs : List Byte) (id : Nat) : State × Bool :=
  match p with
  | .here x _ _ =>
    (((s.evict a.core (x / 64 * 64)).threadWrite a.core a.b.ctx x bs).spoolAdd id bs.length, true)
  | .away dev lpn off va =>
    if s.isCut dev then (s, true)
    else
      let s := (s.evict a.core (2 ^ 64 + va / 64 * 64)).overtake a.core va bs.length
      match s.issueRun dev lpn a.b.ctx (.store a.core a.blk a.grp) va (some id)
          ((bs.zip (List.range bs.length)).map fun b => { off := off + b.2, mask := 0xFF, val := b.1 }) a.org with
      | some s => (s, true)
      | none => (s, false)

/-- One lane's accumulate (R146, R173, R228, R279). -/
def At.accumulate (a : At) (s : State) (p : Place) (v : Word) (id : Nat) : State × Bool :=
  match p with
  | .here x _ _ =>
    let s := s.evict a.core (x / 64 * 64)
    if isDram x then ((s.accumulate x [v] id).1, true)
    else
      -- context 0 alone reaches other memory (R166): the same sum, without a reduction adder (log 47)
      let r := s.threadRead a.core a.b.ctx x 4
      match r.2 with
      | some bs => ((r.1.threadWrite a.core a.b.ctx x (bytesLE 4 (fadd (BitVec.ofNat 32 (natLE bs)) v).toNat)).spoolAdd id 4, true)
      | none => (r.1.spoolPoison id, true)
  | .away dev lpn off va =>
    if s.isCut dev then (s, true)
    else
      let s := (s.evict a.core (2 ^ 64 + va / 64 * 64)).overtake a.core va 4
      match s.issueReq 3 dev a.b.ctx (.store a.core a.blk a.grp) va 1
          (extAddr s.gran false lpn off ++ extSpool true false false id) (bytesLE 4 v.toNat) a.org with
      | some s => (s, true)
      | none => (s, false)

/-- The body that ST.N and ACC.N share: places, counters, release, then `act` lane by lane in ascending order (log 48). -/
def At.counted (a : At) (s : State) (fa fc : BitVec 9) (n o : Nat)
    (act : State → Nat → Place → Nat → State × Bool) : Did := a.access s fun s =>
  let r := a.places s 2 n .count (a.each fun i => a.address 2 fa 0 i)
  match r.2 with
  | .error e => .fault r.1 e.1 e.2
  | .ok ps =>
    match ps.find? fun p => (a.countId r.1 fc p.1 p.2).isNone with
    | some p => .fault r.1 fPermission p.2.addr
    | none =>
      if a.blocked r.1 ps n true then .wait
      else
        let v := r.1.release a o
        if !v.2 then .retry v.1
        else
          let q := ps.foldl (fun (q : State × Option Nat) p =>
            if q.2.isSome then q
            else
              let t := act q.1 p.1 p.2 ((a.countId r.1 fc p.1 p.2).getD 0)
              (t.1, if t.2 then none else some p.2.addr)) (v.1, none)
          match q.2 with
          | some x => .fault q.1 fUnmapped x
          | none => .done q.1

/-- CTL of a format R access: ORD in [3:0], the rest 0. -/
def ctlOrd (f : FormR) : Nat := fld f.ctl 0 4

/-- ST.N (R144, R146, R218, R222). -/
def execStN (sg : SgRef) (f : FormR) (s : State) : Host.Outcome State Fault Refusal :=
  let wid := modWid f.mod
  let o := ctlOrd f
  .next (s.issue sg f.g false false
    (decide (4 ≤ wid) && wid != 7 && modSpace f.mod == 2 && !modStrm f.mod && fld f.ctl 4 6 == 0 && storeOrd o)
    [.unused f.d, .src f.a 2, .src f.b (widRegs wid), .srcIn f.c [.u]] fun a s =>
      a.counted s f.a f.c (widBytes wid) o fun s i p id => a.storeCounted s p (a.storeBytes f.b wid i) id)

/-- ACC.N (R144, R146, R218, R229). -/
def execAccN (sg : SgRef) (f : FormR) (s : State) : Host.Outcome State Fault Refusal :=
  let o := ctlOrd f
  .next (s.issue sg f.g false false
    (modWid f.mod == 4 && modSpace f.mod == 2 && !modStrm f.mod && fld f.ctl 4 6 == 0 && storeOrd o)
    [.unused f.d, .src f.a 2, .src f.b, .srcIn f.c [.u]] fun a s =>
      a.counted s f.a f.c 4 o fun s i p id => a.accumulate s p (BitVec.ofNat 32 (a.g.val f.b i 1)) id)

/-! ## CINV and CWB -/

/-- Act on the lines of a lane's range (R144, R146): the range rounds out to whole lines; a length of 0 does nothing. Every
byte of the range needs R (R179). -/
def At.cacheOp (a : At) (s : State) (act : State → Nat → State) (va n : Nat) : State × Option (Nat × Nat) :=
  (blocksOf va n).foldl (fun (q : State × Option (Nat × Nat)) b =>
    if q.2.isSome then q
    else
      let x := b % 2 ^ 64
      let r := q.1.translate a.core a.b.ctx x .read
      match r.2 with
      | .error c => (r.1, some (c, x))
      | .ok w => (act r.1 (lineKey w.1 x), none)) (s, none)

/-- The body that CINV and CWB share. The range waits for earlier operations of the core (R215). -/
def At.cacheOps (a : At) (s : State) (f : FormR) (act : State → Nat → State) : Did := a.access s fun s =>
  let rs := a.each fun i => (a.g.val f.a i 2, a.g.val f.b i 1)
  if rs.any fun r => r.2.2 != 0 && (s.core a.core).conflict (vaKey a.b.ctx r.2.1) r.2.2 true then .wait
  else
    let q := rs.foldl (fun (q : State × Option (Nat × Nat)) r =>
      if q.2.isSome then q else a.cacheOp q.1 act r.2.1 r.2.2) (s, none)
    match q.2 with
    | some e => .fault q.1 e.1 e.2
    | none => .done q.1

/-- MOD and CTL of CINV and CWB: SPACE 2, STRM 0, ORD 0 (R146, R147). -/
def cacheOk (f : FormR) : Bool := modSpace f.mod == 2 && modWid f.mod != 7 && !modStrm f.mod && f.ctl == 0

/-- CINV (R144, R146). -/
def execCinv (sg : SgRef) (f : FormR) (s : State) : Host.Outcome State Fault Refusal :=
  .next (s.issue sg f.g false false (cacheOk f) [.unused f.d, .src f.a 2, .src f.b, .unused f.c] fun a s =>
    a.cacheOps s f fun s k => s.evict a.core k)

/-- CWB (R144, R146). -/
def execCwb (sg : SgRef) (f : FormR) (s : State) : Host.Outcome State Fault Refusal :=
  .next (s.issue sg f.g false false (cacheOk f) [.unused f.d, .src f.a 2, .src f.b, .unused f.c] fun a s =>
    a.cacheOps s f fun s k => s.writeBack a.core k)

end Sys2Proof.Machine
end

