-- ==== Sys2Proof/Machine/Atomic.lean ====
section
/-! DEFINITION. AOP, the atomic instruction (spec/07, R148; spec/06, R123 to R125; spec/10, R218). -/
namespace Sys2Proof.Machine

/-- Perform one memory operation at a local place: the value it saw; none for a poisoned read. -/
def At.atomicHere (a : At) (s : State) (x op ty b c : Nat) : State × Option Nat :=
  let n := atomBits ty / 8
  let r := (s.evict a.core (x / 64 * 64)).threadRead a.core a.b.ctx x n
  match r.2 with
  | none => (r.1, none)
  | some bs =>
    let old := natLE bs
    (r.1.threadWrite a.core a.b.ctx x (bytesLE n (atomNew op ty old b c)), some old)

/-- One memory operation, for the lanes that it serves with the prefix of each: values to return now, or a fault class. -/
def At.atomicOp (a : At) (s : State) (d : BitVec 9) (op ty : Nat) (acq : Bool) (p : Place) (b c : Nat) (lanes : List (Nat × Option Nat)) :
    State × Except Nat (List (Nat × Nat)) :=
  match p with
  | .here x _ _ =>
    let r := a.atomicHere s x op ty b c
    match r.2 with
    | none => (r.1, .error fPoison)
    | some v => (r.1, .ok (lanes.map fun l => (l.1, atomReturn op ty v l.2)))
  | .away dev lpn off va =>
    if s.isCut dev then (s, .ok (lanes.map fun l => (l.1, 0)))
    else
      let s := (s.evict a.core (2 ^ 64 + va / 64 * 64)).overtake a.core va (atomBits ty / 8)
      let w (v : Nat) : List Word := [BitVec.ofNat 32 v, BitVec.ofNat 32 (v / 2 ^ 32)]
      match s.issueReq 5 dev a.b.ctx (.atomic a.core a.blk a.grp d op ty lanes) va 0
          (extAddr s.gran false lpn off ++ [BitVec.ofNat 32 (op * 256 + ty * 16), 0] ++ w b ++ w c) [] a.org acq with
      | some s => (s.progressed (.atomic a.core), .ok [])
      | none => (s, .error fUnmapped)

/-- The memory operations of an atomic, in order: each with its place, its operand and compare value, and the lanes it serves
(R123, R124). Lanes of one address combine; exchange and compare-and-swap go lane by lane. -/
def atomicPlan (op ty : Nat) (ps : List (Nat × Place)) (b c : Nat → Nat) :
    List (Place × Nat × Nat × List (Nat × Option Nat)) :=
  if 6 ≤ op then ps.map fun p => (p.2, b p.1, c p.1, [(p.1, none)])
  else
    ((ps.map Prod.snd).eraseDups).map fun x =>
      let ls := (ps.filter fun p => p.2 == x).map Prod.fst
      let v (i : Nat) : Option Nat := if ls.contains i then some (b i) else none
      (x, (atomTree op ty v 5 0).getD 0, 0, ls.map fun i => (i, atomPrefix op ty v i))

/-- ORD and SPACE of AOP (R148). -/
def aopOk (f : FormR) : Bool :=
  atomOk (fld f.mod 3 3) (fld f.mod 0 3) && decide (fld f.ctl 8 2 < 3) && fld f.ctl 0 4 == 0

/-- AOP (R123, R124, R148, R215, R218). -/
def execAop (sg : SgRef) (f : FormR) (s : State) : Host.Outcome State Fault Refusal :=
  let op := fld f.mod 3 3
  let ty := fld f.mod 0 3
  let space := fld f.ctl 8 2
  let o := fld f.ctl 4 4
  let k := atomBits ty / 32
  .next (s.issue sg f.g false false (aopOk f)
    [.dest f.d k, .src f.a (addrRegs space), .src f.b k, if op = 7 then .src f.c k else .unused f.c] fun a s => a.access s fun s =>
      let r := a.places s space (4 * k) .atomic (a.each fun i => a.address space f.a 0 i)
      match r.2 with
      | .error e => .fault r.1 e.1 e.2
      | .ok ps =>
        if a.blocked r.1 ps (4 * k) true then .wait
        else
          let v := r.1.release a o
          if !v.2 then .retry v.1
          else
            let plan := atomicPlan op ty ps (fun i => a.g.val f.b i k) (fun i => a.g.val f.c i k)
            let q := plan.foldl (fun (q : State × Except (Nat × Nat) (List (Nat × Nat))) x =>
              match q.2 with
              | .error e => (q.1, .error e)
              | .ok l =>
                let t := a.atomicOp q.1 f.d op ty (ordAcquire o) x.1 x.2.1 x.2.2.1 x.2.2.2
                match t.2 with
                | .error c => (t.1, .error (c, x.1.addr))
                | .ok vs => (t.1, .ok (l ++ vs))) (v.1, .ok [])
            match q.2 with
            | .error e => .fault q.1 e.1 e.2
            | .ok vals => .done (a.acquired (a.put q.1 f.d k vals) o))

end Sys2Proof.Machine
end

