-- ==== Sys2Proof/Machine/Sleep.lean ====
section
/-! DEFINITION. Partition sleep (spec/18, R407, R408). -/
namespace Sys2Proof.Machine

/-- SLEEP_CTRL. -/
def State.sleepCtrl (s : State) : Word := s.reg (offGond + 0x30)

/-- What a sleeping partition loses: local SRAM, register files and wide buffers (R407, R408). Without a resident block the
register files hold nothing that software can read. -/
def State.loseCores (s : State) (p : Nat) : State :=
  forEach (fun s c =>
    let s := (s.loseMem (sramBase c) 0x60000).loseMem (wbBase c) 0x10000
    s.modCore c fun x => { x with cache := [], captures := [none, none] }) s ((List.range 192).map fun i => 192 * p + i)

/-- PARTITION_SLEEP (R407): a partition idle for SLEEP_CTRL.IDLE counts, while EN is set. -/
def execPartitionSleep (p : Nat) (s : State) : Host.Outcome State Fault Refusal :=
  if p < 8 ∧ s.partAbsent p = false ∧ (s.part p).asleep = false ∧ bitAt s.sleepCtrl 31 = true ∧ s.partIdle p = true
      ∧ fld s.sleepCtrl 0 31 ≤ (s.lcount - (s.part p).idleSince).toNat then
    .next ((s.loseCores p).setPart p fun x => { x with asleep := true })
  else .next s

/-- PARTITION_WAKE (R407): before a placement; the wake takes at most 200 µs. -/
def execPartitionWake (p : Nat) (s : State) : Host.Outcome State Fault Refusal :=
  if p < 8 ∧ (s.part p).asleep = true then
    .next (s.setPart p fun x => { x with asleep := false, idleSince := s.lcount })
  else .next s

end Sys2Proof.Machine
end

