-- ==== Sys2Proof/Machine/Resets.lean ====
section
/-! DEFINITION. Hangs, escalation and resets (spec/18, R395 to R408; spec/15, R326). A reset row performs a reset that has been
asked for (R398, R399) and changes nothing otherwise (log 4). -/
namespace Sys2Proof.Machine

/-! ## Work of a context (R330, R400, R407) -/

/-- Contexts with work on an engine (R398, R402). -/
def State.engineCtxs (s : State) (u : EngineUnit) : List Nat :=
  let tableCtx (i : Nat) : Nat := nCtx (s.nodeNow i)
  match u with
  | .array core a => (((s.core core).array a).running ++ ((s.core core).array a).queue).map ArrOp.ctx
  | .stream core => (s.core core).copies.map CopyOp.ctx
  | .atomic core => s.reqs.filterMap fun q => match q.2 with
    | some r => match r.owner with
      | .atomic c _ _ _ _ _ _ => if c = core then some r.ctx else none
      | _ => none
    | none => none
  | .thread core => ((s.core core).held.filter fun p => p.2.live).map fun p => p.2.ctx
  | .adder mc => (s.tables.lines.filter fun l => l.1 == mc).map fun l => tableCtx (l.2.1 / 2 ^ 26)
  | .updateUnit mc => s.tables.shards.filterMap fun p => match p.2 with
    | some j => if s.shardMc j.entry = mc then some (uCtx j.entry) else none
    | none => none
  | .factor p => (s.factorQueue p).map fun j => nCtx j.entry
  | .link => (s.rings.filter fun p => !p.2.jobs.isEmpty).map fun p => s.ringCtx p.1

/-- A context has work on the module: launches, blocks, engine work, requests, or started descriptors. -/
def State.ctxWork (s : State) (c : Nat) : Bool :=
  (s.launches.any fun p => p.2.any fun l => l.ctx == c)
    || (s.cores.any fun p => (p.2.held.any fun b => b.2.ctx == c) || (p.2.arrayOps.any fun o => o.ctx == c)
        || p.2.copies.any fun o => o.ctx == c)
    || (s.reqs.any fun q => q.2.any fun r => r.ctx == c)
    || (s.tables.factor.any fun p => p.2.any fun j => nCtx j.entry == c)
    || (s.rings.any fun p => s.ringCtx p.1 == c && decide (p.1 ≠ 0) && p.2.bound && !p.2.started.isEmpty)

/-! ## Context reset (R400, R401) -/

/-- Step 3 on one core: operations, copies and samples of the context go; nothing more is written or counted for them. -/
def Core.dropCtx (x : Core) (c : Nat) : Core :=
  { x with
    arrays := x.arrays.map fun a =>
      { a with queue := a.queue.filter fun o => o.ctx != c, running := a.running.filter fun o => o.ctx != c }
    copies := x.copies.filter fun o => o.ctx != c, heads := x.heads.filter fun h => h.ctx != c }

/-- Pending drogue samples of the context are discarded, and no count is kept of them (R88, R400). -/
def State.dropSamples (s : State) (core c : Nat) : State :=
  forEach (fun s slot => match (s.core core).captures.getD slot none with
    | some x => if x.op.ctx = c then s.clearSlot core slot else s
    | none => s) s [0, 1]

/-- Requests of the context keep their tags until their answers come, and the source of their unit (R388); nothing waits for them
any more (R127, R400). -/
def State.orphan (s : State) (c : Nat) : State :=
  { s with reqs := s.reqs.map fun q =>
      (q.1, q.2.map fun r => if r.ctx = c then { r with owner := .gone r.owner.source } else r) }

/-- Step 5: node-table, FACTOR and update-table entries of the context become KIND 0; staged first arrivals go. -/
def State.idleEntries (s : State) (c : Nat) : State :=
  let s := forEach (fun s i =>
    let e := s.nodeNow i
    if nKind e = 0 ∨ nCtx e ≠ c then s
    else
      let s := if nKind e = 2 then s.emptySegs i e else s
      s.putNode i (setWord e 0 (setFld (wordAt e 0) 28 4 0))) s (List.range s.ntSize)
  forEach (fun s i =>
    let e := s.updNow i
    if uKind e = 0 ∨ uCtx e ≠ c then s else s.putUpd i (setWord e 0 (setFld (wordAt e 0) 28 4 0))) s (List.range s.utSize)

/-- Queued and running work of the context on the factor units, and its shards, go. -/
def State.dropTableWork (s : State) (c : Nat) : State :=
  { s with tables := { s.tables with
      factor := (s.tables.factor.map fun p => (p.1, p.2.filter fun j => nCtx j.entry != c)).filter fun p => !p.2.isEmpty
      shards := s.tables.shards.filter fun p => !(p.2.any fun j => uCtx j.entry == c) } }

/-- Spool counters `lo` to `hi` are set to 0 with POISON clear, which no wait or trigger sees (R400). -/
def State.clearSpool (s : State) (lo n : Nat) : State := forEach State.spoolClear s ((List.range n).map (· + lo))

/-- The spool range of a context: first counter and how many. -/
def State.spoolRange (s : State) (c : Nat) : Nat × Nat :=
  let w := s.reg (offCtx c + 4)
  if bitAt w 31 then (fld w 0 14, fld w 16 14 + 1 - fld w 0 14) else (0, 0)

/-- A context's drogue range is cleared, and the entries of the range have ENABLE cleared (R337, R400). -/
def State.clearDrogue (s : State) (c : Nat) : State :=
  let w := s.reg (offCtx c + 0xC)
  let s := if bitAt w 31 then
      forEach (fun s t =>
        s.writeBitsAll [{ addr := s.drogueBase + 128 * t + 3, mask := 0x80, val := 0 }]) s ((List.range (fld w 16 12 + 1 - fld w 0 12)).map (· + fld w 0 12))
    else s
  s.setReg (offCtx c + 0xC) 0

/-- Step 6: blocks, wide-buffer slots, windows, counters, GLOBAL and the drogue range. -/
def State.releaseCtx (s : State) (c : Nat) : State :=
  let s := forEach (fun s p =>
    let mine := p.2.held.filter fun b => b.2.ctx == c
    let s := if mine.any fun b => b.2.wb then s.zeroBlocks (wbBase p.1) 0x10000 else s
    if mine.isEmpty then s
    else s.modCore p.1 fun x => { x with blocks := x.blocks.filter fun b => !(b.2.any fun k => k.ctx == c) }) s s.cores
  let s : State := { s with launches := s.launches.filter fun p => !(p.2.any fun l => l.ctx == c) }
  let s := (s.zeroBlocks (s.wtBase + 0x2000 * c) 0x2000).invalidate .wt (BitVec.ofNat 32 c)
  let r := s.spoolRange c
  let s := s.clearSpool r.1 r.2
  let s := s.setRegFld (offCtx c) 8 1 0
  s.clearDrogue c

/-- Reasons of RESET_CAUSE (R404). -/
def reasonCode : ResetReason → Nat
  | .escalation => 1 | .watchdog => 2 | .thermalTrip => 3 | .startFallback => 4 | .trayReset => 5 | .mooredCommand => 6
  | .selfTest => 7 | .resetCtrl => 8 | .contextZero => 9 | .powerOn => 0xA | .standbyExit => 0xB

/-- DETAIL0 of a RESET record below chip level: the code of escalation when the ladder asked for it; otherwise R404 names no
code for it, and the word is a free value (log 2). -/
def State.resetReason (s : State) (ladder : Bool) : State × Word :=
  if ladder then (s, 1) else let d := s.draw; (d.2, Config.freeWord d.1)

/-- The former range of a context may not be granted again yet (R401). -/
def State.retireRange (s : State) (c : Nat) : State :=
  let r := s.spoolRange c
  if r.2 = 0 then s
  else { s with svc := { s.svc with retired := s.svc.retired ++ [(r.1, r.1 + r.2 - 1, s.lcount, s.epoch)] } }

/-- A context reset (R400), and what follows it for a global context (R401). -/
def State.contextReset (s : State) (c : Nat) : State :=
  let wasGlobal := s.ctxGlobal c
  let ladder := s.resets.rungs.any fun g => g.level == 1 && g.ctxs.contains c
  let before := s
  let rs := s.ringsOf c
  let s := forEach State.ringKill s rs
  let s : State := { s with svc := { s.svc with queue := s.svc.queue.filter fun q => !rs.contains q.ring } }
  let cores := (s.cores.filter fun p => p.2.held.any fun b => b.2.ctx == c).map Prod.fst
  let s := forEach (fun s p => s.dropSamples p.1 c) s s.cores
  let s := forEach (fun s p => s.modCore p.1 fun x => x.dropCtx c) s s.cores
  let s := forEach State.evictAll (s.dropTableWork c) cores
  let s := (s.orphan c).idleEntries c
  let s := (s.retireRange c).releaseCtx c
  let s : State := { s with waiters := s.waiters.filter fun w => match w.who with
    | .sub core blk _ _ => (s.block core blk).isSome
    | .ring _ => true }
  let r := s.resetReason ladder
  let s := r.1.reportReset 0x650 1 (some c) 0xFFFF r.2 (2 ^ c) s.startSeq 0
  let s := forEach (fun s k => s.setRing k fun x => { x with bound := false }) s rs
  let s : State := { s with resets := { s.resets with contexts := s.resets.contexts.filter fun x => x != c } }
  let s := before.reidle s
  if wasGlobal ∧ bitAt (s.reg (offGond + 0x2C)) 8 = true then s.askChip .escalation else s

/-- CONTEXT_RESET (R400, R401). -/
def execContextReset (c : Nat) (s : State) : Host.Outcome State Fault Refusal :=
  if s.resets.contexts.contains c && s.resets.chip.isNone && !s.resets.cycle then .next (s.contextReset c) else .next s

/-- Reset contexts as part of a wider reset; context 0 cannot be reset alone (R401). -/
def State.resetCtxs (s : State) (cs : List Nat) : State :=
  forEach (fun s c => if c = 0 then s.askChip .contextZero else s.contextReset c) s cs.eraseDups

/-! ## Engine reset (R402) -/

/-- Empty an engine's queues, pair lines or latches; an array is in the 16 x 16 shape afterwards (R60). -/
def State.emptyEngine (s : State) (u : EngineUnit) : State :=
  match u with
  | .array core a => s.modArray core a fun _ => .idle
  | .stream core => s.modCore core fun x => { x with copies := [], heads := [] }
  | .atomic _ => s
  | .thread _ => s
  | .adder mc => forEach State.dropPairLine s ((s.tables.lines.filter fun l => l.1 == mc).map fun l => l.2.1)
  | .updateUnit mc =>
    { s with tables := { s.tables with
        shards := s.tables.shards.filter fun p => !(p.2.any fun j => s.shardMc j.entry == mc) } }
  | .factor p => s.setFactor p []
  | .link => forEach (fun s p => s.setRing p.1 fun x => { x with jobs := [] }) s s.rings

/-- Source and unit of an engine's records (R388). -/
def engineSource : EngineUnit → Nat
  | .array c _ => c | .stream c => c | .atomic c => c | .thread c => c
  | .adder mc => mcSource mc | .updateUnit mc => mcSource mc | .factor p => 0x648 + p | .link => 0x641

def engineNo : EngineUnit → Nat
  | .array c _ => c | .stream c => c | .atomic c => c | .thread c => c
  | .adder mc => mc | .updateUnit mc => mc | .factor p => p | .link => 0xFFFF

def maskOfCtxs (cs : List Nat) : Nat := (cs.eraseDups.map fun c => 2 ^ c).sum

/-- ENGINE_RESET (R402). -/
def execEngineReset (u : EngineUnit) (s : State) : Host.Outcome State Fault Refusal :=
  if !s.resets.engines.contains u || s.resets.chip.isSome || s.resets.cycle then .next s
  else
    let cs := s.engineCtxs u
    let s := (s.resetCtxs cs).emptyEngine u
    let s := s.reportReset 0x650 2 none (engineNo u) 1 (maskOfCtxs cs) s.startSeq 0
    .next { s with resets := { s.resets with engines := s.resets.engines.filter fun x => x != u } }

/-! ## Partition reset (R403) -/

/-- The partition that holds an engine; none outside partitions. -/
def enginePart : EngineUnit → Option Nat
  | .array c _ => some (c / 192) | .stream c => some (c / 192) | .atomic c => some (c / 192) | .thread c => some (c / 192)
  | .factor p => some p
  | _ => none

/-- Contexts with a block, an engine operation, a spool counter or a FACTOR entry on a partition. -/
def State.partCtxs (s : State) (p : Nat) : List Nat :=
  (List.range 64).filter fun c =>
    (s.cores.any fun k => k.1 / 192 == p && ((k.2.held.any fun b => b.2.ctx == c) || (k.2.arrayOps.any fun o => o.ctx == c)
        || k.2.copies.any fun o => o.ctx == c))
      || (let r := s.spoolRange c; decide (r.2 ≠ 0) && decide (r.1 < 2048 * (p + 1)) && decide (2048 * p < r.1 + r.2))
      || ((s.factorQueue p).any fun j => nCtx j.entry == c)
      || (List.range s.ntSize).any fun i =>
          let e := s.nodeNow i
          nKind e == 4 && fPart e == p && nCtx e == c

/-- Steps 2 to 4: what the partition's cores held is lost, its counters are 0, its set-up returns to its reset values, and it
comes up at ÷16 and 0.60 V under the power controller's hold, CL_CTRL as the gondola has set it (R412); its replica of the local counter is reloaded (R19). -/
def State.powerPart (s : State) (p : Nat) : State :=
  let s := s.loseCores p
  let s := forEach (fun s i => s.modCore (192 * p + i) fun _ => Core.idle) s (List.range 192)
  let s := s.clearSpool (2048 * p) 2048
  let mine (o : Nat) : Bool := (decide (offCluster (12 * p) ≤ o) && decide (o < offCluster (12 * p + 12)))
    || (decide (offPart p < o) && decide (o < offPart p + 0x10000))
  let s : State := { s with setup := Sparse.forget mine s.setup, rwcPend := Sparse.forget mine s.rwcPend
                            late := s.late.filter fun q => q != p }
  let s := forEach (fun s i => s.setReg (offCluster (12 * p + i)) (Sparse.get (fun _ => 1) s.svc.clCtrl (12 * p + i))) s (List.range 12)
  let s := s.setPart p fun x => { x with
    code := 6, toCode := none, rail := 600, ramping := false, fullGuard := 0, guard := 0, guardHold := 0, stretching := false
    below := false, asleep := false, idleSince := s.lcount }
  (s.showRun p).choosePoints

/-- PARTITION_RESET (R403). -/
def execPartitionReset (p : Nat) (s : State) : Host.Outcome State Fault Refusal :=
  if !s.resets.parts.contains p || s.resets.chip.isSome || s.resets.cycle || decide (8 ≤ p) then .next s
  else
    let cs := s.partCtxs p
    let ladder := s.resets.rungs.any fun g => g.level == 3 && enginePart g.unit == some p
    let s := (s.resetCtxs cs).powerPart p
    let s := if s.lmapAddr = 0 then s else s.writeLaunchMap
    let r := s.resetReason ladder
    let s := r.1.reportReset 0x650 3 none p r.2 (maskOfCtxs cs) s.startSeq 0
    .next { s with resets := { s.resets with parts := s.resets.parts.filter fun x => x != p } }

/-! ## The ladder (R395 to R398) -/

/-- The limit of an engine monitor, in counts. -/
def State.hangLimit (s : State) (u : EngineUnit) : Nat :=
  let n := max 1000 (s.reg (offGond + 0x24)).toNat
  match u with
  | .stream _ => 10 * n
  | .link => 10 * n
  | _ => n

/-- Monitor code (R395). -/
def monitorCode : EngineUnit → Nat
  | .array _ _ => 1 | .stream _ => 2 | .atomic _ => 3 | .thread _ => 4
  | .adder _ => 5 | .updateUnit _ => 5 | .factor _ => 5 | .link => 6

/-- The engine has work and could make progress (R395). -/
def State.engineWorks (s : State) (u : EngineUnit) : Bool :=
  match u with
  | .array core a => !((s.core core).array a).running.isEmpty
  | .stream core => (s.core core).copies.any CopyOp.runs
  | .thread core => (s.core core).held.any fun p => p.2.groups.any fun g => g.2.subs.any fun x => x.wait == .none
  | _ => !(s.engineCtxs u).isEmpty

/-- MAXLVL (R397): 5 to 7 are treated as 4. -/
def State.maxLevel (s : State) : Nat := min 4 (fld (s.reg (offGond + 0x2C)) 0 3)

/-- Counts within which a level must complete, and its window (R398: 10 ns each). -/
def levelLimit (n : Nat) : Nat :=
  match n with
  | 1 => 1000000 | 2 => 5000000 | 3 => 30000000 | _ => 300000000
def levelWindow (n : Nat) : Nat :=
  match n with
  | 1 => 100000000 | 2 => 100000000 | 3 => 1000000000 | _ => 60000000000

/-- The level after `n` for an engine: partition level is skipped outside partitions. -/
def nextLevelOf (u : EngineUnit) (n : Nat) : Nat := if n = 2 ∧ enginePart u = none then 4 else n + 1

def State.rung (s : State) (u : EngineUnit) : Option Rung := s.resets.rungs.find? fun g => g.unit == u

/-- Take a level: ask for its reset when MAXLVL allows; the record alone otherwise. -/
def State.takeLevel (s : State) (u : EngineUnit) (n : Nat) : State :=
  if s.maxLevel < n then s
  else
    let cs := (s.engineCtxs u).eraseDups
    let g : Rung := { unit := u, level := n, since := s.lcount, ctxs := if n = 1 then cs else [] }
    let s : State := { s with resets := { s.resets with rungs := (s.resets.rungs.filter fun x => x.unit != u) ++ [g] } }
    match n with
    | 1 => forEach State.askContext s cs
    | 2 => { s with resets := { s.resets with engines := s.resets.engines ++ [u] } }
    | 3 => match enginePart u with
      | some p => s.askPart p
      | none => s
    | _ => (s.reportFatal 0x658 4 []).askChip .escalation

/-- A HANG record (R387). -/
def State.hangRecord (s : State) (u : EngineUnit) (waited : DWord) : State :=
  s.report (engineSource u) 0xA (monitorCode u) none (engineNo u) (addrWords waited.toNat)

/-- The reset that a rung asked for has not ended. -/
def State.rungOpen (s : State) (g : Rung) : Bool :=
  match g.level with
  | 1 => g.ctxs.any fun c => s.resets.contexts.contains c
  | 2 => s.resets.engines.contains g.unit
  | 3 => (enginePart g.unit).any fun p => s.resets.parts.contains p
  | _ => s.resets.chip.isSome || s.start.running

/-- What an engine's monitor has counted (R395): the local counts for which it has had work and made no progress. A thread engine has
work while a sub-group is ready. -/
def State.monitor (s : State) (u : EngineUnit) : Nat :=
  match u with
  | .thread core =>
    let ready := (s.core core).held.flatMap fun p => p.2.groups.flatMap fun g =>
      (g.2.subs.filter fun x => x.wait == .none).map fun x => (s.lcount - x.since).toNat
    min (s.stalled u) (ready.foldl max 0)
  | _ => s.stalled u

/-- ENGINE_HANG (R395, R398): the monitor of an engine with work expires after `waited` counts without progress. Again within the
level's window, the next level is taken. -/
def execEngineHang (u : EngineUnit) (waited : DWord) (s : State) : Host.Outcome State Fault Refusal :=
  if s.engineWorks u = false ∨ waited.toNat ≠ s.monitor u ∨ waited.toNat < s.hangLimit u then .next s
  else
    let s := s.hangRecord u waited
    let n := match s.rung u with
      | some g => if (s.lcount - g.since).toNat < levelWindow g.level then nextLevelOf u g.level else 1
      | none => 1
    .next (s.takeLevel u n)

/-- ESCALATION_TIMEOUT (R398): a level's reset has not completed within its limit. -/
def execEscalationTimeout (u : EngineUnit) (s : State) : Host.Outcome State Fault Refusal :=
  match s.rung u with
  | none => .next s
  | some g =>
    let waited := s.lcount - g.since
    if s.rungOpen g = false ∨ waited.toNat < levelLimit g.level then .next s
    else .next ((s.hangRecord u waited).takeLevel u (nextLevelOf u g.level))

/-- When the unit's wait began (R395, code 0x08): none when it does not wait. -/
def State.waitBegan (s : State) (w : WaitUnit) : Option DWord :=
  match w with
  | .sub core blk grp lane => match s.block core blk with
    | some b => ((b.group grp).subs.find? fun x => bitAt x.mask lane && x.wait != .none).map Sub.since
    | none => none
  | .ring r => (s.ring r).waiting.map fun _ => (s.ring r).waitSince

/-- WAIT_MONITOR_EXPIRY (R396): a record when the wait has lasted the limit, and at each doubling, up to 64 times. -/
def execWaitMonitorExpiry (w : WaitUnit) (waited : DWord) (s : State) : Host.Outcome State Fault Refusal :=
  let n := (s.reg (offGond + 0x20)).toNat
  if n = 0 ∨ s.waitBegan w ≠ some (s.lcount - waited) ∨ ¬ ((List.range 7).any fun k => waited.toNat == n * 2 ^ k) = true then .next s
  else
    .next (match w with
      | .sub core blk _ _ => s.report core 0xA 8 ((s.block core blk).map Block.ctx) core (addrWords waited.toNat)
      | .ring r => s.report 0x641 0xA 8 (some (s.ringCtx r)) r (addrWords waited.toNat))

/-- When a service core last checked in with the keeper (R326); S8 starts the cores and the watchdog (R379). -/
def State.checkedIn (s : State) (sc : Nat) : Nat := max (Sparse.get (fun _ => 0) s.svc.checkin sc).toNat s.start.since.toNat

/-- The keeper's watchdog runs: S8 has begun, and the module is not moored (R379, R380). -/
def State.watched (s : State) : Bool := s.powered && s.startStep == 8 && !s.start.moored

/-- WATCHDOG_EXPIRY (R326): a service core has not checked in for 10,000,000 counts. -/
def execWatchdogExpiry (sc : Nat) (s : State) : Host.Outcome State Fault Refusal :=
  if s.watched = false ∨ 8 ≤ sc ∨ s.lcount.toNat < s.checkedIn sc + 10000000 then .next s
  else .next ((s.reportFatalAt 0x658 2 sc []).askChip .watchdog)

/-! ## Chip reset (R399, R405) -/

/-- Step 2: reports still latched are lost and counted. -/
def State.loseReports (s : State) : State :=
  forEach (fun s p =>
    let n := b2n p.2.first.isSome + b2n p.2.latest.isSome
    if n = 0 then s
    else
      let s := s.setKreg 0x20 (satAdd32 (s.kreg 0x20) n)
      let s := if s.err.ringReady && s.bondedUp then s.srcAdd p.1 0 n else s
      s.setLatch p.1 { s.latch p.1 with first := none, latest := none }) s s.err.latches

/-- Memory is kept through a chip reset (R360, R377, R378, R381, R399, R407). -/
def State.keepThrough (s : State) (r : ResetReason) : Bool :=
  match r with
  | .startFallback => s.start.keepMem
  | .mooredCommand => s.start.selfB || s.start.selfL
  | .standbyExit => true
  | .selfTest => bitAt s.resets.flags 2 && !bitAt s.resets.flags 0
  | _ => s.keepMem

/-- Step 2, its end: DRAM in service enters self-refresh when memory is kept, and at a trip (R360). -/
def State.restDrams (s : State) (r : ResetReason) : State :=
  if s.keepThrough r || r == .thermalTrip then (if r == .mooredCommand then s else s.selfRefresh)
  else s.modStart fun x => { x with selfB := false, selfL := false }

/-- Step 3: everything outside the keeper is reset. The keeper keeps its registers and the caps (R326, R408); flash and what
memory holds stay, and where scrubbing stopped (R174); SRAM is lost. -/
def State.afterReset (s : State) : State :=
  let sw := s.swCap
  let tray := s.reg (offPwr + 8)
  let t : State := { State.reset with
    pending := s.pending, freeCtr := s.freeCtr, powered := s.powered, mem := s.mem, lost := s.lost, poison := s.poison
    defects := s.defects, crcOff := s.crcOff, scrub := s.scrub, keeper := s.keeper, hostOut := s.hostOut, fabOut := s.fabOut, start := s.start
    err := { ErrSt.atReset with latches := s.err.latches, earlyUsed := s.err.earlyUsed }
    power := { Power.atReset with swForce := sw }
    resets := { Resets.none with
      held := s.mgmt.resetLow
      rungs := (s.resets.rungs.filter fun g => g.level == 4).map fun g => { g with since := 0 } }
    mgmt := { s.mgmt with pwrgd := false } }
  ((t.setRwc offPwr (BitVec.ofNat 32 sw)).setReg (offPwr + 8) tray).loseSram

/-- The region of bonded DRAM that holds the error ring (R418). -/
def State.ringRegion (s : State) : Nat := 2 + (s.errBase - 0x10000000000) / 2 ^ 34

/-- Steps 4 and 5: the ring goes on, or is lost: the unread records that were lost. -/
def State.ringThrough (s : State) : State × Word :=
  if isBonded s.errBase && s.start.regionKept s.ringRegion then (s.modStart fun x => { x with ringKept := true }, 0)
  else
    let n := s.errWr - s.errRd
    ((s.setKreg 0x18 s.errWr).setKreg 0x1C 0, n)

/-- The kind and form of the start that follows (R366, R375). -/
def State.startAgain (s : State) (r : ResetReason) (keep : Bool) : State :=
  s.beginStart (if r = .selfTest then 2 else 1) (r == .selfTest && bitAt s.resets.flags 0) keep

/-- A chip reset (R405); during PERSIST_IMAGE it leaves the image invalid (R382). -/
def State.chipReset (s : State) (r : ResetReason) : State :=
  let s := s.spoilImage
  let s := if s.up && !s.standby then s.startCut s.deviceId 1 0 none else s
  let flags := s.resets.flags
  let keep := s.keepThrough r
  let mask := maskOf ((List.range 64).filter s.ctxExists)
  let seq := s.startSeq
  let s := (s.loseReports.restDrams r).afterReset
  let s := s.setKreg 0xC (BitVec.ofNat 32 (reasonCode r))
  let s : State := { s with resets := { s.resets with flags := flags } }
  let s := s.startAgain r keep
  let q := s.ringThrough
  let s : State := { q.1 with resets := { q.1.resets with flags := 0 } }
  s.reportReset 0x658 4 none 0xFFFF (BitVec.ofNat 32 (reasonCode r)) mask seq q.2

/-- CHIP_RESET (R399, R405): the reset that has been asked for; it absorbs narrower ones. The keeper reads the straps (R433). -/
def execChipReset (r : ResetReason) (straps : BitVec 5) (s : State) : Host.Outcome State Fault Refusal :=
  if s.resets.chip = some r ∧ s.powered = true ∧ s.resets.cycle = false then
    let t := s.chipReset r
    .next { t with mgmt := { t.mgmt with mid := straps } }
  else .next s

/-! ## Power cycle (R406) -/

/-- POWER_CYCLE_REQUEST (R406): PCYC_REQ, a FATAL record, ALERT through MOD_STATUS, and the moored state until the tray
controller removes the input. -/
def execPowerCycleRequest (s : State) : Host.Outcome State Fault Refusal :=
  if s.resets.cycle = false ∨ s.powered = false ∨ bitAt (s.kreg 8) 1 = true then .next s
  else
    let s := s.setKreg 8 (setFld (s.kreg 8) 1 1 1)
    let s := (s.reportFatal 0x658 5 []).moor
    .next (if s.mgmt.stopped then s.enterLink 16 lkOff 0 else s)

end Sys2Proof.Machine
end

