-- ==== Sys2Proof/Machine/Spdm.lean ====
section
/-! DEFINITION. The SPDM responder (spec/17, R383 to R385). The module answers DMTF SPDM 1.2; the message layouts are those of
that standard (log 50). -/
namespace Sys2Proof.Machine

/-! ## Connections -/

def trKey : Transport → Nat
  | .sideband => 0 | .smbus => 1

def State.conn (s : State) (tr : Transport) : Spdm := Sparse.get (fun _ => Spdm.none) s.spdm (trKey tr)
def State.setConn (s : State) (tr : Transport) (c : Spdm) : State :=
  { s with spdm := Sparse.set (fun _ => Spdm.none) s.spdm (trKey tr) c }

/-- MGMT_SIDEBAND: the management bus is declared stuck (R437). -/
def State.busStuck (s : State) : Bool := bitAt s.mgmt.modStatus 7

/-- A transport carries messages to the module (R383, R437). -/
def State.hears (s : State) (tr : Transport) : Bool :=
  s.powered && !s.standby && !s.mgmt.stopped &&
    match tr with
    | .sideband => s.linkUp 16
    | .smbus => !s.busStuck

/-! ## What the responder reports -/

/-- Length of the DER object at the head of a byte string. -/
def derLen (bs : List Byte) : Nat :=
  let b (i : Nat) : Nat := (bs.getD i 0).toNat
  if b 1 < 128 then 2 + b 1 else if b 1 = 0x81 then 3 + b 2 else 4 + 256 * b 2 + b 3

/-- The SPDM certificate chain of slot 0: its length, the hash of the root certificate, and CERTS (R383). -/
def State.certChain (s : State) : List Byte :=
  let certs := s.recordBytes 0x50 (natLE (s.recordBytes 0x4C 4))
  bytesLE 2 (certs.length + 52) ++ [0, 0] ++ sha (certs.take (derLen certs)) ++ certs

/-- The value of a measurement, once it is taken (R384, R385): raw flag and bytes. -/
def State.measurement (s : State) (i : Nat) : Option (Bool × List Byte) := (s.start.measured.find? fun e => e.1 == i).map Prod.snd

/-- A DMTF measurement block (log 50): the value type's low bits are not given by the spec. -/
def measBlock (i : Nat) (v : Bool × List Byte) : List Byte :=
  let ty : Byte := (Config.spdmByte 0 i &&& 0x7F) ||| (if v.1 then 0x80 else 0)
  [BitVec.ofNat 8 i, 1] ++ bytesLE 2 (v.2.length + 3) ++ [ty] ++ bytesLE 2 v.2.length ++ v.2

/-- Blocks of the measurements among `is` that are taken. -/
def State.measBlocks (s : State) (is : List Nat) : List (List Byte) :=
  is.filterMap fun i => (s.measurement i).map (measBlock i)

/-- `n` fresh bytes that the spec does not spell: a nonce, a signature. -/
def State.freshBytes (s : State) (n : Nat) : State × List Byte :=
  let d := s.draw
  (d.2, (List.range n).map fun i => Config.spdmByte (d.1 + 16) i)

/-! ## Requests -/

def State.spdmSend (s : State) (tr : Transport) (bs : List Byte) : State := s.toHost (.spdm tr bs)

/-- ERROR (R383, R385). -/
def State.spdmError (s : State) (tr : Transport) (code : Byte) : State := s.spdmSend tr [0x12, 0x7F, code, 0]

/-- Answer a request of code `code` at least `n` bytes long: Unspecified before S1 has passed (R385), UnexpectedRequest out of
order, else what `act` does. A message of another code is no request of the row. -/
def State.spdmRequest (s : State) (tr : Transport) (req : List Byte) (code : Byte) (n : Nat) (ready : Spdm → Bool)
    (act : State → State) : State :=
  if s.hears tr = false ∨ req.getD 1 0 ≠ code then s
  else if s.start.s1Passed = false then s.spdmError tr 5
  else if req.length < n then s.spdmError tr 1
  else if ready (s.conn tr) = false then s.spdmError tr 4
  else act s

def reqByte (req : List Byte) (i : Nat) : Nat := (req.getD i 0).toNat

/-- GET_VERSION (R383): version 1.2 only; it resets the connection of its own transport. -/
def execGetVersion (tr : Transport) (req : List Byte) (s : State) : Host.Outcome State Fault Refusal :=
  .next (s.spdmRequest tr req 0x84 4 (fun _ => true) fun s =>
    (s.setConn tr { Spdm.none with versioned := true }).spdmSend tr [0x10, 0x04, 0, 0, 0, 1, 0, 0x12])

/-- GET_CAPABILITIES (R383): CERT_CAP, CHAL_CAP, MEAS_CAP 2, CTExponent 20; the size limits are not in the spec. -/
def execGetCapabilities (tr : Transport) (req : List Byte) (s : State) : Host.Outcome State Fault Refusal :=
  .next (s.spdmRequest tr req 0xE1 4 Spdm.versioned fun s =>
    (s.setConn tr { s.conn tr with capable := true }).spdmSend tr
      ([0x12, 0x61, 0, 0, 0, 20, 0, 0, 0x16, 0, 0, 0] ++ (List.range 8).map (Config.spdmByte 1)))

/-- NEGOTIATE_ALGORITHMS (R383). -/
def execNegotiateAlgorithms (tr : Transport) (req : List Byte) (s : State) : Host.Outcome State Fault Refusal :=
  .next (s.spdmRequest tr req 0xE3 4 Spdm.capable fun s =>
    (s.setConn tr { s.conn tr with negotiated := true }).spdmSend tr
      ([0x12, 0x63, 0, 0, 36, 0, 1, 0] ++ bytesLE 4 4 ++ bytesLE 4 0x80 ++ bytesLE 4 2 ++ List.replicate 16 0))

/-- GET_DIGESTS (R383): slot 0 only. -/
def execGetDigests (tr : Transport) (req : List Byte) (s : State) : Host.Outcome State Fault Refusal :=
  .next (s.spdmRequest tr req 0x81 4 Spdm.negotiated fun s => s.spdmSend tr ([0x12, 0x01, 0, 1] ++ sha s.certChain))

/-- GET_CERTIFICATE (R383): slot 0, in pieces of at most 1,024 bytes. -/
def execGetCertificate (tr : Transport) (req : List Byte) (s : State) : Host.Outcome State Fault Refusal :=
  .next (s.spdmRequest tr req 0x82 8 Spdm.negotiated fun s =>
    let chain := s.certChain
    let off := reqByte req 4 + 256 * reqByte req 5
    let n := min (min (reqByte req 6 + 256 * reqByte req 7) 1024) (chain.length - off)
    if reqByte req 2 % 16 ≠ 0 ∨ chain.length ≤ off then s.spdmError tr 1
    else s.spdmSend tr ([0x12, 0x02, 0, 0] ++ bytesLE 2 n ++ bytesLE 2 (chain.length - off - n) ++ slice chain off n))

/-- CHALLENGE (R383): measurement summary of type all (0xFF) or none (0), signed with d. -/
def execChallenge (tr : Transport) (req : List Byte) (s : State) : Host.Outcome State Fault Refusal :=
  .next (s.spdmRequest tr req 0x83 36 Spdm.negotiated fun s =>
    if reqByte req 2 ≠ 0 ∨ ¬ (reqByte req 3 = 0 ∨ reqByte req 3 = 0xFF) then s.spdmError tr 1
    else
      let nonce := s.freshBytes 32
      let sig := nonce.1.freshBytes 96
      let sum := if reqByte req 3 = 0 then [] else sha ((s.measBlocks [1, 2, 3, 4, 5]).flatMap id)
      sig.1.spdmSend tr ([0x12, 0x03, 0, 1] ++ sha s.certChain ++ nonce.2 ++ sum ++ [0, 0] ++ sig.2))

/-- A MEASUREMENTS response. -/
def State.sendMeasurements (s : State) (tr : Transport) (signed : Bool) (total : Byte) (blocks : List (List Byte)) : State :=
  let nonce := s.freshBytes 32
  let sig := if signed then nonce.1.freshBytes 96 else (nonce.1, [])
  let rec_ := blocks.flatMap id
  sig.1.spdmSend tr ([0x12, 0x60, total, 0, BitVec.ofNat 8 blocks.length] ++ bytesLE 3 rec_.length ++ rec_ ++ nonce.2 ++ [0, 0] ++ sig.2)

/-- GET_MEASUREMENTS (R384, R385): operation 0 counts, 0xFF asks for all that are taken, 1 to 5 for one; bit 0 of the
attributes asks for a signature. One not yet taken is Busy while a step runs, InvalidRequest in the moored state. -/
def execGetMeasurements (tr : Transport) (req : List Byte) (s : State) : Host.Outcome State Fault Refusal :=
  .next (s.spdmRequest tr req 0xE0 (if reqByte req 2 % 2 = 1 then 37 else 4) Spdm.negotiated fun s =>
    let op := reqByte req 3
    let signed := reqByte req 2 % 2 == 1
    if op = 0 then s.sendMeasurements tr signed 5 []
    else if op = 0xFF then s.sendMeasurements tr signed 0 (s.measBlocks [1, 2, 3, 4, 5])
    else if 5 < op then s.spdmError tr 1
    else
      match s.measurement op with
      | some v => s.sendMeasurements tr signed 0 [measBlock op v]
      | none => s.spdmError tr (if s.start.running then 3 else 1))

/-- The request codes that the responder supports. -/
def spdmCodes : List Byte := [0x84, 0xE1, 0xE3, 0x81, 0x82, 0x83, 0xE0]

/-- UNSUPPORTED_REQUEST (R383): ERROR UnsupportedRequest, or Unspecified while there is no identity (R385). -/
def execUnsupportedRequest (tr : Transport) (req : List Byte) (s : State) : Host.Outcome State Fault Refusal :=
  if s.hears tr = false ∨ spdmCodes.contains (req.getD 1 0) = true then .next s
  else .next (s.spdmError tr (if s.start.s1Passed then 7 else 5))

end Sys2Proof.Machine
end

