-- ==== Sys2Proof/Machine/Mgmt.lean ====
section
/-! DEFINITION. The management port and connector (spec/20, R431 to R438; spec/18, R407). Transactions are commands: their byte counts,
PEC bytes and MCTP framing are the bus's (log 51). -/
namespace Sys2Proof.Machine

/-! ## Paths -/

/-- Answer a command on a path: on the sideband the command code goes with the data (R437). -/
def State.mgmtSend (s : State) (path : MgmtPath) (code : Byte) (bs : List Byte) : State :=
  s.toHost (.mgmt path (match path with
    | .smbus => bs
    | .sideband => code :: bs))

/-- A management command (R434, R437): answered by the keeper on the path in force; on the sideband while the bus is in force
the answer is result 3. -/
def State.mgmtCommand (s : State) (path : MgmtPath) (code : Byte) (act : State → State) : State :=
  if s.powered = false then s
  else
    match path with
    | .smbus => if s.busStuck then s else act s
    | .sideband => if s.linkUp 16 = false then s else if s.busStuck then act s else s.mgmtSend .sideband code [3]

/-- LAST_RESULT after a write; on the sideband it is also the answer. -/
def State.mgmtResult (s : State) (path : MgmtPath) (code : Byte) (result : Nat) : State :=
  let s : State := { s with mgmt := { s.mgmt with lastResult := result } }
  match path with
  | .smbus => s
  | .sideband => s.mgmtSend .sideband code [BitVec.ofNat 8 result]

/-- A write whose PEC fails has no effect (R433); the sideband carries no PEC (R437). -/
def State.mgmtWrite (s : State) (path : MgmtPath) (code : Byte) (pecOk : Bool) (act : State → State) : State :=
  if path == .smbus && !pecOk then s else s.mgmtCommand path code act

/-! ## Reads (R434, R435) -/

/-- MOD_STATUS as it reads (R435). -/
def State.modStatusWord (s : State) : Word :=
  let w := setFld (setFld s.mgmt.modStatus 1 1 (b2n s.start.moored)) 2 1 (b2n s.up)
  setFld (setFld w 3 1 (fld (s.kreg 8) 1 1)) 8 1 (b2n s.standby)

/-- ALERT# is low (R435): a bit marked A is set. -/
def State.alert (s : State) : Bool := (s.modStatusWord &&& 0x67A) != 0

/-- PROGRESS (R369, R434). -/
def execProgress (path : MgmtPath) (s : State) : Host.Outcome State Fault Refusal :=
  .next (s.mgmtCommand path 1 fun s => s.mgmtSend path 1 (bytesLE 4 (s.kreg 0).toNat))

/-- MOD_STATUS (R435). -/
def execModStatus (path : MgmtPath) (s : State) : Host.Outcome State Fault Refusal :=
  .next (s.mgmtCommand path 2 fun s => s.mgmtSend path 2 (bytesLE 4 s.modStatusWord.toNat))

/-- LAST_RESULT (R434). -/
def execLastResult (path : MgmtPath) (s : State) : Host.Outcome State Fault Refusal :=
  .next (s.mgmtCommand path 3 fun s => s.mgmtSend path 3 [BitVec.ofNat 8 s.mgmt.lastResult])

/-- CAP_READ (R434). -/
def execCapRead (path : MgmtPath) (s : State) : Host.Outcome State Fault Refusal :=
  .next (s.mgmtCommand path 0x11 fun s =>
    s.mgmtSend path 0x11 (bytesLE 2 s.trayCap ++ bytesLE 2 s.swCap ++ bytesLE 2 s.effCap))

/-- POWER_READ (R353, R434). -/
def execPowerRead (path : MgmtPath) (vin iin : BitVec 16) (s : State) : Host.Outcome State Fault Refusal :=
  .next (s.mgmtCommand path 0x20 fun s =>
    s.mgmtSend path 0x20 (bytesLE 2 vin.toNat ++ bytesLE 2 iin.toNat ++ bytesLE 2 (fld (s.reg (offPwr + 0x18)) 16 11)
      ++ [BitVec.ofNat 8 s.mgmt.hottest, 0]))

/-- SENSE_MAP (R431, R434). -/
def execSenseMap (path : MgmtPath) (s : State) : Host.Outcome State Fault Refusal :=
  .next (s.mgmtCommand path 0x21 fun s => s.mgmtSend path 0x21 (bytesLE 2 s.mgmt.sense.toNat))

/-- SERIAL (R371, R434): zeros until S1 has passed. -/
def execSerial (path : MgmtPath) (s : State) : Host.Outcome State Fault Refusal :=
  .next (s.mgmtCommand path 0x40 fun s =>
    s.mgmtSend path 0x40 (if s.start.s1Passed then s.recordBytes 8 16 else List.replicate 16 0))

/-! ## Writes -/

/-- TRAY_CAP (R348, R434): watts and their complement; a cap that is not committed leaves a record (R348, R365, R435). -/
def execTrayCap (path : MgmtPath) (data : List Byte) (pecOk : Bool) (s : State) : Host.Outcome State Fault Refusal :=
  if data.length ≠ 4 then .next s
  else
    .next (s.mgmtWrite path 0x10 pecOk fun s =>
      let w := natLE (data.take 2)
      let c := natLE (data.drop 2)
      if c ≠ 65535 - w then
        ((((s.integrity 0x658 4 none 0xFFFF (offPwr + 8) (BitVec.ofNat 32 w) (BitVec.ofNat 32 c)).count (offPwr + 0x18C) 1).modBit 10
          true).mgmtResult path 0x10 1)
      else if capOk w = false then (s.refuseCap w).mgmtResult path 0x10 2
      else (s.commitTrayCap w).mgmtResult path 0x10 0)

/-- Everything outside the keeper loses its power or its clocks: DRAM in service is in self-refresh, nothing runs (R407, R438). -/
def State.quiesce (s : State) : State :=
  let s := s.selfRefresh.afterReset
  s.modStart fun x => { x with running := false, s1Passed := false }

/-- STANDBY (R407, R434). -/
def execStandby (path : MgmtPath) (data : List Byte) (pecOk : Bool) (s : State) : Host.Outcome State Fault Refusal :=
  if data.length ≠ 2 then .next s
  else
    .next (s.mgmtWrite path 0x30 pecOk fun s =>
      let a := data.getD 0 0
      if data.getD 1 0 ≠ ~~~ a then s.mgmtResult path 0x30 1
      else if a ≠ 0x5A then s.mgmtResult path 0x30 2
      else if s.start.moored || (List.range 63).any fun c => s.ctxWork (c + 1) then s.mgmtResult path 0x30 3
      else if s.standby then s.mgmtResult path 0x30 0
      else { (s.mgmtResult path 0x30 0).quiesce with standby := true })

/-- Bits of MOD_STATUS that ALERT_CLEAR clears (R435): SENSE_OPEN stays while a pair is open. -/
def State.clearable (s : State) : Word := if s.mgmt.sense = 0 then 0x630 else 0x610

/-- ALERT_CLEAR (R434, R435). -/
def execAlertClear (path : MgmtPath) (data : List Byte) (pecOk : Bool) (s : State) : Host.Outcome State Fault Refusal :=
  if data.length ≠ 4 then .next s
  else
    .next (s.mgmtWrite path 0x31 pecOk fun s =>
      let m : Word := BitVec.ofNat 32 (natLE data) &&& s.clearable
      ({ s with mgmt := { s.mgmt with modStatus := s.mgmt.modStatus &&& ~~~ m } } : State).mgmtResult path 0x31 0)

/-! ## The bus and the pins (R431, R436 to R438) -/

/-- MGMT_BUS_STUCK (R437): a line has stayed low for 35 ms. -/
def execMgmtBusStuck (s : State) : Host.Outcome State Fault Refusal :=
  if s.powered then .next (s.modBit 7 true) else .next s

/-- MGMT_BUS_RESTORED (R437): both lines have stayed high for 100 ms. -/
def execMgmtBusRestored (s : State) : Host.Outcome State Fault Refusal :=
  if s.powered then .next (s.modBit 7 false) else .next s

/-- SMBCLK_TIMEOUT (R436): the module releases the bus. A transaction that did not end has had no effect (log 51). -/
def execSmbclkTimeout (s : State) : Host.Outcome State Fault Refusal := .next s

/-- RESET_PIN (R404, R436): RESET# has been low for 10 µs: a chip reset, or in standby its exit. -/
def execResetPin (s : State) : Host.Outcome State Fault Refusal :=
  if s.powered = false then .next s
  else
    let s : State := { s with mgmt := { s.mgmt with resetLow := true } }
    .next (s.askChip (if s.standby then .standbyExit else .trayReset))

/-- RESET_PIN_RELEASE (R436): the keeper no longer holds the module in reset; the start's first step runs from now on. -/
def execResetPinRelease (s : State) : Host.Outcome State Fault Refusal :=
  let s : State := { s with mgmt := { s.mgmt with resetLow := false } }
  if s.resets.held then
    .next (({ s with resets := { s.resets with held := false } } : State).modStart fun x => { x with since := s.lcount })
  else .next s

/-- SENSE_OPEN (R431): pairs 0 the input, 1 to 8 partitions, 9 the fixed rails. The 15 mV that a rail then adds make up for the
carrier's drop, so the voltage at the load, which the model holds, stays what it was (log 52). -/
def execSenseOpen (pair : Nat) (s : State) : Host.Outcome State Fault Refusal :=
  if s.powered = false ∨ 10 ≤ pair then .next s
  else .next (({ s with mgmt := { s.mgmt with sense := s.mgmt.sense ||| BitVec.ofNat 16 (2 ^ pair) } } : State).modBit 5 true)

/-- SENSE_RESTORED (R431): the pair returns to remote sense; SENSE_OPEN stays until it is cleared. -/
def execSenseRestored (pair : Nat) (s : State) : Host.Outcome State Fault Refusal :=
  if s.powered = false ∨ 10 ≤ pair then .next s
  else .next { s with mgmt := { s.mgmt with sense := s.mgmt.sense &&& ~~~ BitVec.ofNat 16 (2 ^ pair) } }

/-- REFCLK_LOSS (R438): after S0 every clock but the keeper's stops, the local counter holding its value (log 103); REFLOSS is set and
a power cycle is due. -/
def execRefclkLoss (s : State) : Host.Outcome State Fault Refusal :=
  if s.powered = false ∨ s.standby = true ∨ s.mgmt.stopped = true ∨ s.mgmt.pwrgd = false then .next s
  else
    let t := ({ s.quiesce with lcount := s.lcount } : State).setReg (offGond + 0x10) s.startSeq
    .next (({ t with resets := { t.resets with cycle := true }, mgmt := { t.mgmt with stopped := true } } : State).modBit 6 true)

/-- VENDOR_DEFINED_MESSAGE_SUPPORT (R437): answered with Kyfort's enterprise number. -/
def execVendorDefinedMessageSupport (tr : Transport) (s : State) : Host.Outcome State Fault Refusal :=
  if s.hears tr then
    .next (s.toHost (match tr with
      | .sideband => .sideband (bytesLE 4 Config.ianaNumber.toNat)
      | .smbus => .mgmt .smbus (bytesLE 4 Config.ianaNumber.toNat)))
  else .next s

end Sys2Proof.Machine
end

