-- ==== Sys2Proof/Machine/Services.lean ====
section
/-! DEFINITION. The service interface (spec/15, R328 to R330) and the Context service (R329, R337, R398, R401). What a request's
argument holds beyond the layouts the spec gives comes with the command (log 60). -/
namespace Sys2Proof.Machine

/-! ## Requests (R318, R328, R329) -/

def svcNo (w : List Word) : Nat := fld (wordAt w 3) 8 8
def svcOp (w : List Word) : Nat := fld (wordAt w 3) 0 8
def svcArg (w : List Word) : Nat := dwordAt w 4
def svcLen (w : List Word) : Nat := (wordAt w 8).toNat

/-- ARG is a host address (R318). -/
def svcHost (ring : Nat) (w : List Word) : Bool := ring == 0 || bitAt (wordAt w 3) 31

/-- Operations of each service, from SVC 1 (R329). -/
def svcOps : List Nat := [6, 2, 3, 3, 3, 4, 4, 2, 3]

def svcKnown (w : List Word) : Bool :=
  decide (1 ≤ svcNo w) && decide (svcOp w < svcOps.getD (svcNo w - 1) 0)

/-- Services that only ring 0 may ask (R329). -/
def svcRing0 (svc : Nat) : Bool := [1, 2, 5, 7, 9].contains svc

/-- Service statuses (R328). -/
def svcBadOp : Nat := 0xC0
def svcPerm : Nat := 0xC1
def svcNoRes : Nat := 0xC2
def svcGone : Nat := 0xC3
def svcLost : Nat := 0xC4
def svcBadArg : Nat := 0xC5

/-- A service's answer: SSTATUS, DETAIL where a rule gives it, and the result words. -/
structure Answer where
  status : Nat
  detail : Option Nat
  result : List Word
  deriving DecidableEq, Repr

def answerOk (result : List Word) : Answer := { status := 0, detail := none, result := result }
def answerNo (status : Nat) (detail : Option Nat) : Answer := { status := status, detail := detail, result := [] }

/-- Write bytes of the ARG area: to the host, or in the ring's context. -/
def State.svcWrite (s : State) (ring : Nat) (w : List Word) (off : Nat) (bs : List Byte) : State :=
  if svcHost ring w then
    s.hostWrite (svcArg w + off) bs (some ring)
  else (s.writeVa (s.ringCtx ring) (svcArg w + off) bs).1

/-- The argument words: as the host's read brought them with the command, or as device memory holds them. -/
def State.svcWords (s : State) (rq : SvcReq) (w : List Word) : List Word :=
  if svcHost rq.ring w then rq.arg
  else
    match (s.readVa (s.ringCtx rq.ring) (svcArg w + 32) (svcLen w - 32)).2 with
    | some bs => wordsLE ((svcLen w - 32) / 4) bs
    | none => rq.arg

/-- The result header (R328). -/
def State.resultHeader (s : State) (a : Answer) (detail : Word) : List Word :=
  [BitVec.ofNat 32 a.status, detail, BitVec.ofNat 32 (4 * a.result.length), s.startSeq,
   BitVec.ofNat 32 s.lcount.toNat, BitVec.ofNat 32 (s.lcount.toNat / 2 ^ 32), 0, 0]

/-- The service core that a service is pinned to (R324). The input relay's requests are served by the first of its two. -/
def svcCore (svc : Nat) : Nat := [0, 0, 1, 3, 2, 4, 5, 6, 0].getD (svc - 1) 0

/-- A service core that answers a request has checked in with the keeper (R326; log 95). -/
def State.checkIn (s : State) (sc : Nat) : State :=
  { s with svc := { s.svc with checkin := Sparse.set (fun _ => 0) s.svc.checkin sc s.lcount } }

/-- The result first, then the header, then the completion entry (R328). A DETAIL that no rule gives is a free value (log 2). -/
def State.answer (s : State) (ring : Nat) (i : Word) (w : List Word) (a : Answer) : State :=
  let q : State × Word := match a.detail with
    | some d => (s, BitVec.ofNat 32 d)
    | none => let d := s.draw; (d.2, Config.freeWord d.1)
  let s := q.1.svcWrite ring w 32 (bytesOfWords a.result)
  let s := s.svcWrite ring w 0 (bytesOfWords (s.resultHeader a q.2))
  ((s.checkIn (svcCore (svcNo w))).completeDesc ring i (if a.status = 0 then 0 else 0x88) 0).goOn ring

/-- A cut is in force, or recovery is under way (R330). -/
def State.jobLost (s : State) : Bool := s.recovering || s.cutAll || !s.cut.isEmpty

/-- The status that refuses a request before its service sees it, 0 for none (R328, R329, R330; the order is log 61). -/
def State.svcRefusal (s : State) (ring need : Nat) (w : List Word) : Nat :=
  let ctx := s.ringCtx ring
  if !svcKnown w || decide (svcLen w < 32 + need) then svcBadOp
  else if ring ≠ 0 ∧ svcRing0 (svcNo w) = true then svcPerm
  else if s.diag ∧ svcNo w ≠ 9 ∧ ¬ (svcNo w = 5 ∧ svcOp w = 0) then svcPerm
  else if ring ≠ 0 ∧ s.ctxExists ctx = false then svcGone
  else if s.jobLost ∧ (svcNo w = 2 ∨ ((svcNo w = 3 ∨ svcNo w = 4) ∧ s.ctxGlobal ctx = true)) then svcLost
  else 0

/-- The ARG area can be written (log 32). -/
def State.svcReach (s : State) (ring : Nat) (w : List Word) : Bool :=
  svcHost ring w || (s.writeVa (s.ringCtx ring) (svcArg w) (List.replicate (svcLen w) 0)).2

/-- The SERVICE at HEAD is this request, or one that no service knows, which any request row answers (log 61). -/
def State.svcReady (s : State) (rq : SvcReq) (svc op : Nat) : Option (List Word) :=
  if !s.up then none
  else (s.readyDesc rq.ring 10).filter fun w => !svcKnown w || (svcNo w == svc && svcOp w == op)

/-- An admitted request: the state with it started, its index, its descriptor and its argument words. -/
structure Admitted where
  state : State
  index : Word
  desc : List Word
  arg : List Word
  deriving DecidableEq, Repr

/-- A request starts and is judged; one that is turned away, or that is not at HEAD, answers the state it leaves. `need` is
the length of its argument. -/
def State.admitRequest (s : State) (rq : SvcReq) (svc op : Nat) (need : List Word → Nat) : Except State Admitted :=
  match s.svcReady rq svc op with
  | none => .error s
  | some w =>
    let i := s.head rq.ring
    let arg := s.svcWords rq w
    let st := s.svcRefusal rq.ring (need arg) w
    let reach := s.svcReach rq.ring w
    let s := s.startDesc rq.ring w
    if !reach then .error ((s.completeDesc rq.ring i 0x84 0).goOn rq.ring)
    else if st ≠ 0 then .error (s.answer rq.ring i w (answerNo st none))
    else .ok { state := s, index := i, desc := w, arg := arg }

/-- The requests that a service has taken and not answered, in the order they reached the gondola (R330). -/
def State.enqueue (s : State) (q : SvcWait) : State := { s with svc := { s.svc with queue := s.svc.queue ++ [q] } }
def State.unqueue (s : State) (q : SvcWait) : State :=
  { s with svc := { s.svc with queue := s.svc.queue.filter fun x => !(x.ring == q.ring && x.index == q.index) } }
def State.begin_ (s : State) (q : SvcWait) : State :=
  { s with svc := { s.svc with queue := s.svc.queue.map fun x =>
      if x.ring = q.ring ∧ x.index = q.index then { x with begun := true } else x } }

/-- The service has a request that it has not answered. -/
def State.svcBusy (s : State) (svc : Nat) : Bool := s.svc.queue.any fun x => x.svc == svc

/-- Go on with a request taken earlier, when it is the first of its service (R330). -/
def State.resumeRequest (s : State) (rq : SvcReq) (q : SvcWait) (need : List Word → Nat)
    (body : State → SvcWait → List Word → State × Option Answer) : State :=
  match (s.ring q.ring).at q.index.toNat with
  | none => s.unqueue q
  | some d =>
    let arg := s.svcWords rq d.words
    let st := s.svcRefusal q.ring (need arg) d.words
    if st ≠ 0 then (s.unqueue q).answer q.ring q.index d.words (answerNo st none)
    else
      let r := body s q arg
      match r.2 with
      | some a => (r.1.unqueue q).answer q.ring q.index d.words a
      | none => r.1.begin_ q

/-- A request (R330): taken from HEAD, or gone on with when it was taken before. `body` sees the request and its argument words,
and answers none while the request waits; a request that meets its service busy is taken and has not begun. -/
def State.serveWhen (s : State) (rq : SvcReq) (svc op : Nat) (need : List Word → Nat)
    (body : State → SvcWait → List Word → State × Option Answer) : State :=
  match s.svc.queue.find? fun x => x.svc == svc with
  | some q =>
    if q.ring = rq.ring ∧ q.op = op then s.resumeRequest rq q need body
    else
      match s.admitRequest rq svc op need with
      | .error t => t
      | .ok a => (a.state.enqueue { ring := rq.ring, index := a.index, svc := svc, op := op, begun := false }).goOn rq.ring
  | none =>
    match s.admitRequest rq svc op need with
    | .error t => t
    | .ok a =>
      let q : SvcWait := { ring := rq.ring, index := a.index, svc := svc, op := op, begun := true }
      let r := body a.state q a.arg
      match r.2 with
      | some x => r.1.answer rq.ring a.index a.desc x
      | none => (r.1.enqueue q).goOn rq.ring

/-- A request that its service does at once: `body` sees the requesting context and the argument words. -/
def State.serve (s : State) (rq : SvcReq) (svc op : Nat) (need : List Word → Nat)
    (body : State → Nat → List Word → State × Answer) : State :=
  s.serveWhen rq svc op need fun t _ arg =>
    let r := body t (s.ringCtx rq.ring) arg
    (r.1, some r.2)

/-- The length of an argument of `n` words. The spec does not lay out the arguments of most requests: a field of up to 32 bits
takes a word, a longer one two (DESIGN CHOICE, log 60). -/
def argWords (n : Nat) (_ : List Word) : Nat := 4 * n

/-- The requester may name a resource of context `c` (R329). -/
def ownRes (ctx c : Nat) : Bool := ctx == 0 || ctx == c

/-! ## Contexts (R329, R401, R421) -/

/-- CREATE: the context exists. -/
def execCreate (rq : SvcReq) (a : CreateArg) (s : State) : Host.Outcome State Fault Refusal :=
  .next (s.serve rq 1 0 (argWords 1) fun s _ _ =>
    if (List.range 64).all fun c => c == 0 || s.ctxExists c then (s, answerNo svcNoRes none)
    else if a.ctx = 0 ∨ 64 ≤ a.ctx ∨ s.ctxExists a.ctx = true then (s, answerNo svcBadArg none)
    else (s.svcReg (offCtx a.ctx) 0x80000000, answerOk [BitVec.ofNat 32 a.ctx]))

/-- What the services hold for a context goes with it. -/
def State.dropServices (s : State) (c : Nat) : State :=
  { s with svc := { s.svc with
      trees := s.svc.trees.filter fun p => !(p.2.any fun t => t.ctx == c)
      ckpts := s.svc.ckpts.filter fun p => !(p.2.any fun k => k.ctx == c)
      streams := s.svc.streams.filter fun p => !(p.2.any fun k => k.ctx == c)
      groups := s.svc.groups.filter fun p => !(p.2.any fun k => k.ctx == c) } }

/-- The requests of a context that have not begun complete with SGONE (R330). -/
def State.goneRequests (s : State) (c : Nat) : State :=
  forEach (fun s (q : SvcWait) => match (s.ring q.ring).at q.index.toNat with
    | some d => (s.unqueue q).answer q.ring q.index d.words (answerNo svcGone none)
    | none => s.unqueue q) s (s.svc.queue.filter fun q => q.ring != 0 && s.ringCtx q.ring == c && !q.begun)

/-- DESTROY: it waits for the context's running request (R330), and enters the ladder at the context level (R398): the context is
reset, exists no more, and its spool range is released (R401). -/
def execDestroy (rq : SvcReq) (ctx : Nat) (s : State) : Host.Outcome State Fault Refusal :=
  .next (s.serveWhen rq 1 1 (argWords 1) fun s _ _ =>
    if ctx = 0 ∨ 64 ≤ ctx ∨ s.ctxExists ctx = false then (s, some (answerNo svcBadArg none))
    else if s.svc.queue.any fun q => q.ring != 0 && s.ringCtx q.ring == ctx && q.begun then (s, none)
    else
      let t := (((s.goneRequests ctx).contextReset ctx).dropServices ctx).svcFld (offCtx ctx) 31 1 0
      (s.reidle (t.svcRwc (offCtx ctx + 4) 0), some (answerOk [])))

/-- BIND_RING (R302): a free ring is bound to a context. -/
def execBindRing (rq : SvcReq) (ring ctx : Nat) (s : State) : Host.Outcome State Fault Refusal :=
  .next (s.serve rq 1 2 (argWords 2) fun s _ _ =>
    if (List.range 128).all fun r => r == 0 || (s.ring r).bound then (s, answerNo svcNoRes none)
    else if ring = 0 ∨ 128 ≤ ring ∨ (s.ring ring).bound = true ∨ ctx = 0 ∨ 64 ≤ ctx ∨ s.ctxExists ctx = false then
      (s, answerNo svcBadArg none)
    else ((s.setRing ring fun x => { x with bound := true }).svcFld (offRing ring + 0x10) 16 6 ctx, answerOk []))

/-- UNBIND_RING: a ring that is not STOPPED is stopped first, and the request waits for it (R322; log 62). -/
def execUnbindRing (rq : SvcReq) (ring : Nat) (s : State) : Host.Outcome State Fault Refusal :=
  .next (s.serveWhen rq 1 3 (argWords 1) fun s _ _ =>
    if ring = 0 ∨ 128 ≤ ring ∨ (s.ring ring).bound = false then (s, some (answerNo svcBadArg none))
    else if s.ringState ring ≠ 0 then (s.ringStop ring, none)
    else ((s.setRing ring fun x => { x with bound := false }).svcFld (offRing ring + 0x10) 16 6 0, some (answerOk [])))

/-- SET_WINDOW (R177, R180): the entry is written and WT_INV applied. -/
def execSetWindow (rq : SvcReq) (ctx idx : Nat) (words : List Word) (s : State) : Host.Outcome State Fault Refusal :=
  .next (s.serve rq 1 4 (argWords 10) fun s _ _ =>
    if 64 ≤ ctx ∨ (ctx ≠ 0 ∧ s.ctxExists ctx = false) ∨ 256 ≤ idx ∨ words.length ≠ 8
        ∨ (bitAt (wordAt words 6) 0 = true ∧ windowValid words = false) then (s, answerNo svcBadArg none)
    else
      ((s.writeMem (s.wtBase + 0x2000 * ctx + 32 * idx) (bytesOfWords words)).invalidate .wt (BitVec.ofNat 32 ctx), answerOk []))

/-- A range that may not be granted to context `c` yet (R401). -/
def State.rangeHeld (s : State) (c first last : Nat) : Bool :=
  s.svc.retired.any fun p =>
    decide (first ≤ p.2.1) && decide (p.1 ≤ last)
      && (if s.ctxGlobal c then p.2.2.2 == s.epoch else decide ((s.lcount - p.2.2.1).toNat < 100000))

/-- Ranges granted to other contexts never overlap (R421). -/
def State.rangeTaken (s : State) (c first last : Nat) : Bool :=
  (List.range 64).any fun d =>
    let r := s.spoolRange d
    d != c && r.2 != 0 && decide (first < r.1 + r.2) && decide (r.1 ≤ last)

/-- GRANT_SPOOL (R401, R421). -/
def execGrantSpool (rq : SvcReq) (ctx first last : Nat) (s : State) : Host.Outcome State Fault Refusal :=
  .next (s.serve rq 1 5 (argWords 3) fun s _ _ =>
    if 64 ≤ ctx ∨ (ctx ≠ 0 ∧ s.ctxExists ctx = false) ∨ last < first ∨ 16384 ≤ last then (s, answerNo svcBadArg none)
    else if s.rangeTaken ctx first last || s.rangeHeld ctx first last then (s, answerNo svcNoRes none)
    else
      (s.reidle (s.svcRwc (offCtx ctx + 4) (BitVec.ofNat 32 (2 ^ 31 + last * 2 ^ 16 + first))), answerOk []))

end Sys2Proof.Machine
end

