-- ==== Sys2Proof/Machine/Placement.lean ====
section
/-! DEFINITION. Job placement (spec/15, R331) and the collective coordinator's trees (R332, R241, R243). -/
namespace Sys2Proof.Machine

/-! ## PLACE and RELEASE (R331) -/

/-- A register of this module that only the gondola writes. -/
def State.gondWrite (s : State) (off : Nat) (v : Word) : State := s.setupWrite 0x650 off v

/-- An RWC register written by the gondola: value, then complement (R6). -/
def State.gondRwc (s : State) (off : Nat) (v : Word) : State := (s.gondWrite off v).gondWrite (off + 4) (~~~ v)

/-- The port block of port `k` (R293). -/
def State.placePort (s : State) (k : Nat) (p : PortPlace) : State :=
  let s := ((s.gondRwc (offPort k + 8) (p.lo.setWidth 32)).gondRwc (offPort k + 0x10) (p.hi.setWidth 32)).gondRwc
    (offPort k + 0x18) (p.peer.setWidth 32)
  (s.svcFld (offPort k) 1 1 (b2n p.dateline)).svcFld (offPort k) 2 1 (b2n p.jobport)

/-- What a PLACE has to keep; one that finds MEM_LOCK set is refused (R423). -/
def State.placeOk (s : State) (a : PlaceArg) : Bool :=
  !s.placed && !bitAt (s.reg (offMem + 0x10)) 0 && decide (a.rank < a.ranks.length) && decide (a.ports.length ≤ 16) && a.ranks.getD a.rank 0 == a.deviceId
    && (a.contexts.all fun c => c != 0 && decide (c < 64) && s.ctxExists c)

/-- The steps of R331 in their order, MEM_LOCK after step 2 (R423). -/
def State.placeJob (s : State) (a : PlaceArg) : State :=
  let s := s.gondRwc offFabJob (BitVec.ofNat 32 (a.job.toNat * 2 ^ 16))
  let s := forEach (fun s (p : PortPlace × Nat) => s.placePort p.2 p.1) s (a.ports.zip (List.range 16))
  let s := s.gondWrite offMem (BitVec.ofNat 32 (b2n a.gran))
  let s := s.gondWrite (offMem + 4) (a.famapBase.setWidth 32)
  let s := s.gondWrite (offMem + 8) (a.exportBase.setWidth 32)
  let s := s.gondWrite (offMem + 0xC) (a.deviceId.setWidth 32)
  let s := s.gondWrite (offMem + 0x10) 1
  let s := forEach (fun s (e : Nat × DWord) => s.writeMem (s.famapBase + 8 * e.1) (bytesLE 8 e.2.toNat)) s a.entries
  let s := s.invalidate .famap 0x80000000
  let s := forEach (fun s c => s.svcFld (offCtx c) 8 1 1) s a.contexts
  let s : State := { s with svc := { s.svc with ranks := a.ranks, rank := a.rank } }
  s.setSvc 1 true

/-- PLACE (R331). -/
def execPlace (rq : SvcReq) (a : PlaceArg) (s : State) : Host.Outcome State Fault Refusal :=
  .next (s.serve rq 2 0 (argWords (8 + a.ranks.length + 4 * a.ports.length + 3 * a.entries.length + a.contexts.length))
      fun s _ _ => if s.placeOk a then (s.placeJob a, answerOk []) else (s, answerNo svcBadArg none))

/-- RELEASE clears GLOBAL and JOBPORT, and then PLACED. -/
def State.releaseJob (s : State) : State :=
  let s := forEach (fun s c => s.svcFld (offCtx c) 8 1 0) s (List.range 64)
  let s := forEach (fun s k => s.svcFld (offPort k) 2 1 0) s (List.range 16)
  s.setSvc 1 false

/-- JOB_RELEASE (R331). -/
def execJobRelease (rq : SvcReq) (s : State) : Host.Outcome State Fault Refusal :=
  .next (s.serve rq 2 1 (argWords 0) fun s _ _ => (s.releaseJob, answerOk []))

/-! ## Trees (R241, R243) -/

/-- The least h with m ≤ 2^h. -/
def log2up (m : Nat) : Nat := ((List.range 25).find? fun h => decide (m ≤ 2 ^ h)).getD 25

/-- A node that this module hosts: leaf positions lo to lo + m − 1, whether it is the tree's root, and its parent: the positions
of a parent on another module, none where the parent is the node above in the same module. -/
structure TreeNode where
  lo : Nat
  m : Nat
  root : Bool
  above : Option (Nat × Nat)
  deriving DecidableEq, Repr

/-- The nodes over positions lo … lo + m − 1 hosted at position `pos`, from the top: R241's recursion, `above` the parent.
A chain runs down left children, whose parents are on the same module. -/
def hostedNodes (pos : Nat) : Nat → Nat → Nat → Option (Nat × Nat) → Bool → List TreeNode
  | 0, _, _, _, _ => []
  | fuel + 1, lo, m, above, root =>
    let me : List TreeNode := if lo = pos then [{ lo := lo, m := m, root := root, above := above }] else []
    if m ≤ 1 then me
    else
      let l := 2 ^ (log2up m - 1)
      if pos < lo + l then me ++ hostedNodes pos fuel lo l (if lo = pos then none else some (lo, m)) false
      else me ++ hostedNodes pos fuel (lo + l) (m - l) (some (lo, m)) false

/-- Module of leaf position `i` of tree `t`. -/
def State.treeHost (s : State) (t i : Nat) : Nat :=
  (s.svc.ranks.getD ((t + i) % s.svc.ranks.length) 0).toNat

/-- The nodes of tree `t` on this module, the PAIR chain from the top and the LEAF last. -/
def State.treeNodes (s : State) (t : Nat) : List TreeNode :=
  let n := s.svc.ranks.length
  hostedNodes ((s.svc.rank + n - t % n) % n) 26 0 n none true

/-- Node-table indices that are KIND 0 and in no tree set. -/
def State.freeNodes (s : State) (n : Nat) : List Nat :=
  let held := s.svc.trees.flatMap fun p => match p.2 with
    | some t => t.ids
    | none => []
  (List.range s.ntSize).foldl (fun (acc : List Nat) i =>
    if n ≤ acc.length then acc
    else if nKind (s.nodeNow i) = 0 ∧ held.contains i = false then acc ++ [i] else acc) []

/-- The service message that tells the job of a node's index (R332, R335; log 92): the set, the tree, the node's positions. -/
def nodeMessage (set t : Nat) (x : TreeNode) (idx : Nat) : List Word := [5, set, t, x.lo, x.m, idx].map (BitVec.ofNat 32)

/-- The index that the module of position `pos` has told for its node over `lo` to `lo + m - 1` of tree `t` of a set. -/
def State.peerIndex (s : State) (set t : Nat) (lo m : Nat) : Option Nat :=
  (s.svc.inbox.find? fun p => p.1 == s.treeHost t lo && p.2.take 5 == [5, set, t, lo, m].map (BitVec.ofNat 32)).map
    fun p => (wordAt p.2 5).toNat

/-- The words of one entry (R232): its node, the index of the next node above and below in the chain. None while a peer's index is not
known: every PARENT_NODE and CHILD_NODE names a real entry (R332). -/
def State.nodeWords (s : State) (set : Nat) (a : BuildArg) (t : Nat) (buf : Nat) (x : TreeNode) (up down : Option Nat) :
    Option (List Word) :=
  let leaf := decide (x.m ≤ 1)
  let l := 2 ^ (log2up x.m - 1)
  let off := if a.sharded then 128 * a.segs.toNat * t else 0
  let dest := a.dest.toNat + (if a.sharded ∧ a.castf = true then off else 0)
  let w0 := (if leaf then 1 else 2) * 2 ^ 28 + a.fmt.toNat * 2 ^ 26 + b2n x.root * 2 ^ 25 + b2n (x.root && a.castf) * 2 ^ 24
    + a.ctx % 64 * 2 ^ 16 + a.step.toNat
  let parent : Option (Nat × Nat) := match up, x.above with
    | some i, _ => some (s.deviceId, i)
    | none, some (lo, m) => (s.peerIndex set t lo m).map fun i => (s.treeHost t lo, i)
    | none, none => some (s.deviceId, 0)
  let child : Option (List Nat) := if leaf then some [0, 0]
    else (s.peerIndex set t (x.lo + l) (x.m - l)).map fun i => [2 ^ 31 + s.treeHost t (x.lo + l), i % 2 ^ 20]
  let bs := if leaf then a.leafBuf.toNat + off else buf
  match parent, child with
  | some (dev, i), some c =>
    some (([w0, a.segs.toNat, bs, bs / 2 ^ 32, dest, dest / 2 ^ 32, dev, i % 2 ^ 20] ++ c
      ++ [match down with | some i => 2 ^ 31 + i % 2 ^ 20 | none => 0, a.spoolId.toNat * 2 ^ 16 + a.trigId.toNat,
          a.trigTarget.toNat, a.trigTarget.toNat / 2 ^ 32, a.trigInc.toNat, 0]).map (BitVec.ofNat 32))
  | _, _ => none

/-- One node of a set on this module: its tree, itself, its index, those of the next above and below in its chain, and the staging
space of a PAIR. -/
structure SetNode where
  tree : Nat
  node : TreeNode
  idx : Nat
  up : Option Nat
  down : Option Nat
  buf : Nat
  deriving DecidableEq, Repr

/-- Trees of a request. -/
def State.setTrees (s : State) (a : BuildArg) : List Nat := if a.sharded then List.range s.svc.ranks.length else [a.tree]

/-- The nodes of a set, with what they take of indices and staging space in order. -/
def State.setNodes (s : State) (a : BuildArg) (ids : List Nat) : List SetNode :=
  ((s.setTrees a).foldl (fun (p : List SetNode × List Nat × Nat) t =>
    let xs := s.treeNodes t
    let b := pairBytes a.segs.toNat
    (p.1 ++ (xs.zip (List.range xs.length)).map fun q =>
       { tree := t, node := q.1, idx := p.2.1.getD q.2 0, up := if q.2 = 0 then none else p.2.1[q.2 - 1]?
         down := if q.2 + 1 < xs.length then p.2.1[q.2 + 1]? else none, buf := p.2.2 + q.2 * b },
     p.2.1.drop xs.length, p.2.2 + (xs.length - 1) * b)) ([], ids, a.pairBuf.toNat)).1

/-- The set's entries: none while an index is not known. -/
def State.setWords (s : State) (set : Nat) (a : BuildArg) (ids : List Nat) : Option (List (Nat × List Word)) :=
  (s.setNodes a ids).foldr (fun x acc => match acc, s.nodeWords set a x.tree x.buf x.node x.up x.down with
    | some l, some ws => some ((x.idx, ws) :: l)
    | _, _ => none) (some [])

/-- Entries that the set needs on this module. -/
def State.setSize (s : State) (a : BuildArg) : Nat := ((s.setTrees a).map fun t => (s.treeNodes t).length).sum

/-- The lowest number without a holder in a map. -/
def freshKey {α : Type} (m : Sparse (Option α)) : Nat :=
  ((List.range (m.length + 1)).find? fun k => (Sparse.get (fun _ => none) m k).isNone).getD 0

def State.setTree (s : State) (k : Nat) (t : Option TreeSet) : State :=
  { s with svc := { s.svc with trees := Sparse.set (fun _ => none) s.svc.trees k t } }

/-- A set that is refused, or whose request is gone, holds nothing. -/
def State.dropTree (s : State) (k : Nat) : State :=
  let s := s.setTree k none
  { s with svc := { s.svc with inbox := s.svc.inbox.filter fun p => p.2.take 2 != [5, BitVec.ofNat 32 k] } }

/-- Tell every other module of the job the indices of this module's nodes (R332). -/
def State.tellNodes (s : State) (k : Nat) (a : BuildArg) (ids : List Nat) : State :=
  forEach (fun s (d : BitVec 24) =>
    forEach (fun s (x : SetNode) => s.tell 1 d.toNat (nodeMessage k x.tree x.node x.idx)) s (s.setNodes a ids)) s s.svc.ranks

/-- Finish a set once every index is known: the result holds the number of the set and this module's indices (log 63). -/
def State.finishSet (s : State) (k : Nat) (t : TreeSet) : State × Option Answer :=
  match s.setWords k t.arg t.ids with
  | none => (s, none)
  | some es =>
    if es.any fun e => !s.nodeOk e.2 then (s.dropTree k, some (answerNo svcBadArg none))
    else (s.setTree k (some { t with ready := true, entries := es }), some (answerOk ((k :: t.ids).map (BitVec.ofNat 32))))

/-- The set that a request in progress is building. -/
def State.unbuilt (s : State) : Option (Nat × TreeSet) :=
  (s.svc.trees.find? fun p => p.2.any fun t => !t.ready).bind fun p => p.2.map fun t => (p.1, t)

/-- Sets whose request has been turned away while it waited (R330) are gone. -/
def State.sweepTrees (s : State) : State := if s.svcBusy 3 then s else
  match s.unbuilt with
  | some p => s.dropTree p.1
  | none => s

/-- BUILD (R332): entries are allocated and told to the job's coordinators; the request is done when every peer's index is known. -/
def execBuild (rq : SvcReq) (a : BuildArg) (s : State) : Host.Outcome State Fault Refusal :=
  .next (s.serveWhen rq 3 0 (argWords 17) fun s _ _ =>
    match s.unbuilt with
    | some (k, t) => s.finishSet k t
    | none =>
      let ctx := s.ringCtx rq.ring
      if !ownRes ctx a.ctx || (ctx != 0 && !(s.inSpool ctx a.spoolId.toNat && s.inSpool ctx a.trigId.toNat)) then
        (s, some (answerNo svcPerm none))
      else if s.placed = false ∨ s.svc.ranks = [] ∨ (a.sharded = false ∧ s.svc.ranks.length ≤ a.tree) ∨ s.ctxExists a.ctx = false
          ∨ s.inSpool a.ctx a.spoolId.toNat = false then (s, some (answerNo svcBadArg none))
      else
        let ids := s.freeNodes (s.setSize a)
        if ids.length < s.setSize a then (s, some (answerNo svcNoRes none))
        else
          let k := freshKey s.svc.trees
          let t : TreeSet := { ctx := a.ctx, arg := a, ids := ids, ready := false, entries := [] }
          ((s.setTree k (some t)).tellNodes k a ids).finishSet k t).sweepTrees

/-- Write a set's entries with every segment EMPTY, and apply NT_INV to each (R231, R233). -/
def State.armSet (s : State) (t : TreeSet) : State :=
  forEach (fun s (e : Nat × List Word) =>
    let s := if nKind e.2 = 2 then s.emptySegs e.1 e.2 else s
    (s.putNode e.1 e.2).invalidate .nt (BitVec.ofNat 32 e.1)) s t.entries

/-- Set a set's entries to KIND 0. -/
def State.disarmSet (s : State) (t : TreeSet) : State :=
  forEach (fun s (e : Nat × List Word) =>
    let w := s.nodeNow e.1
    (s.putNode e.1 (setWord w 0 (setFld (wordAt w 0) 28 4 0))).invalidate .nt (BitVec.ofNat 32 e.1)) s t.entries

/-- A request about a tree set. -/
def State.onSet (s : State) (ctx set : Nat) (f : State → TreeSet → State) : State × Answer :=
  match (Sparse.get (fun _ => none) s.svc.trees set).filter TreeSet.ready with
  | none => (s, answerNo svcBadArg none)
  | some t => if ownRes ctx t.ctx then (f s t, answerOk []) else (s, answerNo svcPerm none)

/-- COLLECTIVE_ARM (R332). -/
def execCollectiveArm (rq : SvcReq) (set : Nat) (s : State) : Host.Outcome State Fault Refusal :=
  .next (s.serve rq 3 1 (argWords 1) fun s ctx _ => s.onSet ctx set State.armSet)

/-- DISARM (R332). -/
def execDisarm (rq : SvcReq) (set : Nat) (s : State) : Host.Outcome State Fault Refusal :=
  .next (s.serve rq 3 2 (argWords 1) fun s ctx _ => s.onSet ctx set State.disarmSet)

end Sys2Proof.Machine
end

