-- ==== Sys2Proof/Machine/Checkpoint.lean ====
section
/-! DEFINITION. Buddy checkpoints (spec/15, R333, R334) and recovery (R336, R409, R292). -/
namespace Sys2Proof.Machine

/-! ## Requests (R329, R333) -/

def State.ckpt (s : State) (k : Nat) : Option Checkpoint := Sparse.get (fun _ => none) s.svc.ckpts k
def State.setCkpt (s : State) (k : Nat) (c : Option Checkpoint) : State :=
  { s with svc := { s.svc with ckpts := Sparse.set (fun _ => none) s.svc.ckpts k c } }

/-- The buddy: by default the module of rank (own rank + 1) mod n. -/
def State.buddy (s : State) (a : CheckpointArg) : Nat :=
  match a.buddy with
  | some d => d.toNat
  | none => (s.svc.ranks.getD ((s.svc.rank + 1) % s.svc.ranks.length) 0).toNat

/-- Bytes that a slot holds after its header: the ranges, then the group records. -/
def ckBytes (a : CheckpointArg) : Nat := (a.ranges.map Prod.snd).sum + 128 * a.groups.length

/-- A context may name a group that one of its update-table entries belongs to. -/
def State.ownsGroup (s : State) (ctx g : Nat) : Bool :=
  ctx == 0 || (List.range s.utSize).any fun i =>
    let e := s.updNow i
    uKind e == 1 && uCtx e == ctx && uGroup e == g

/-- A counter in the requesting context's range; context 0 may name every one. -/
def State.ownsSpool (s : State) (ctx id : Nat) : Bool := (ctx == 0 && decide (id < 16384)) || s.inSpool ctx id

/-- CONFIGURE (R333). -/
def execConfigure (rq : SvcReq) (a : CheckpointArg) (s : State) : Host.Outcome State Fault Refusal :=
  .next (s.serve rq 4 0 (argWords (12 + 4 * a.ranges.length + a.groups.length)) fun s ctx _ =>
    if !(s.ownsSpool ctx a.trigId && s.ownsSpool ctx a.cpDone && a.groups.all fun g => s.ownsGroup ctx g) then
      (s, answerNo svcPerm none)
    else if a.groups = [] ∨ (a.groups.any fun g => decide (s.gtSize ≤ g)) = true ∨ a.slotSize < 64 + ckBytes a
        ∨ (a.buddy = none ∧ s.svc.ranks = []) then (s, answerNo svcBadArg none)
    else
      let k := freshKey s.svc.ckpts
      (s.setCkpt k (some { ctx := ctx, arg := a, firing := { change := s.changes a.trigId, again := false }
                           target := a.trigTarget, copying := none }), answerOk [BitVec.ofNat 32 k]))

/-- A request about a checkpoint. -/
def State.onCkpt (s : State) (ctx ck : Nat) (f : State → Checkpoint → State × Answer) : State × Answer :=
  match s.ckpt ck with
  | none => (s, answerNo svcBadArg none)
  | some c => if ownRes ctx c.ctx then f s c else (s, answerNo svcPerm none)

/-- CHECKPOINT_STOP: nothing fires any more. -/
def execCheckpointStop (rq : SvcReq) (ck : Nat) (s : State) : Host.Outcome State Fault Refusal :=
  .next (s.serve rq 4 1 (argWords 1) fun s ctx _ => s.onCkpt ctx ck fun s _ => (s.setCkpt ck none, answerOk []))

/-- A result whose layout the spec does not give: free words (log 2). -/
def State.freeResult (s : State) : State × Answer :=
  let d := s.draw
  (d.2, answerOk (Config.freeWords d.1))

/-- QUERY. -/
def execQuery (rq : SvcReq) (ck : Nat) (s : State) : Host.Outcome State Fault Refusal :=
  .next (s.serve rq 4 2 (argWords 1) fun s ctx _ => s.onCkpt ctx ck fun s _ => s.freeResult)

/-! ## Firing (R333, R334, R237) -/

/-- Write bytes at a position of the two-slot region, on the buddy by global WRITEs or, where the buddy is this module, in its own
export space. False when a WRITE found no route. -/
def State.putSlot (s : State) (k : Nat) (c : Checkpoint) (pos : Nat) (bs : List Byte) : State × Bool :=
  let dev := s.buddy c.arg
  let g := if s.gran then 2 ^ 25 else 2 ^ 21
  (pieces (c.arg.slotOff + pos) bs.length).foldl (fun (q : State × Bool) p =>
    let part := (bs.drop (p.1 - (c.arg.slotOff + pos))).take p.2
    let lpn := c.arg.slotLpn.toNat + p.1 / g
    if dev = q.1.deviceId then (q.1.writeMem (q.1.exportBase + c.arg.slotLpn.toNat * g + p.1) part, q.2)
    else
      let ws := (part.zip (List.range part.length)).map fun x => ({ off := p.1 % g + x.2, mask := 0xFF, val := x.1 } : OffWrite)
      let r := q.1.issueWrites dev lpn c.ctx (.ckWrite k) p.1 ws
      (r.1, q.2 && r.2)) (s, true)

/-- The STEP of each named group: none of one whose record cannot be read (R446). -/
def State.groupSteps (s : State) (gs : List Nat) : State × List (Option Word) :=
  gs.foldl (fun (q : State × List (Option Word)) g =>
    let r := q.1.readEntry (q.1.groupAddr g) 2
    (r.1, q.2 ++ [r.2.map fun w => wordAt w 1])) (s, [])

/-- The bytes to save: the ranges in the context's address space, then the group records; none when a block is poisoned or a
range cannot be read. -/
def State.ckRead (s : State) (c : Checkpoint) : State × Option (List Byte) :=
  let add (q : State × Option (List Byte)) (r : State × Option (List Byte)) : State × Option (List Byte) :=
    (r.1, q.2.bind fun a => r.2.map (a ++ ·))
  let q := c.arg.ranges.foldl (fun (q : State × Option (List Byte)) p => add q (q.1.readVa c.ctx p.1 p.2)) (s, some [])
  c.arg.groups.foldl (fun (q : State × Option (List Byte)) g => add q (q.1.readMem (q.1.groupAddr g) 128)) q

/-- A slot's header (R333, R334; its layout is log 64): STEP, length, CRC-32C of the contents, VALID in bit 0, TORN in bit 1. -/
def slotHeader (x : CkCopy) (torn : Bool) : List Byte :=
  bytesOfWords ([x.step, BitVec.ofNat 32 x.len, BitVec.ofNat 32 (x.len / 2 ^ 32), x.crc, if torn then 2 else 1]
    ++ List.replicate 11 0)

/-- Position of the slot of a step. -/
def slotPos (c : Checkpoint) (step : Word) : Nat := if bitAt step 0 then c.arg.slotSize else 0

/-- The firing: the trigger moves on, the slot's header is made invalid, and the contents go out. A poisoned trigger copies
nothing, and neither does a first group without a STEP that can be read. -/
def State.ckBegin (s : State) (k : Nat) (c : Checkpoint) (change : Nat) (trigBad : Bool) : State :=
  let g := s.groupSteps c.arg.groups
  let steps := g.2.map fun w => w.getD 0
  let c := { c with firing := { change := change, again := true }, target := c.target + c.arg.trigInc }
  if trigBad || (g.2.headD none).isNone then (g.1.spoolPoison c.arg.cpDone).setCkpt k (some c)
  else
    let step := steps.headD 0
    let h := g.1.putSlot k c (slotPos c step) (List.replicate 64 0)
    let r := h.1.ckRead c
    let bs := r.2.getD []
    let o := r.1.putSlot k c (slotPos c step + 64) bs
    let x : CkCopy := { step := step, len := bs.length, crc := crc32c bs, steps := steps
                        bad := r.2.isNone || !h.2 || !o.2, torn := none }
    o.1.setCkpt k (some { c with copying := some x })

/-- WRITEs of the copy still without an answer. -/
def State.ckWaits (s : State) (k : Nat) : Bool := s.reqs.any fun q => q.2.any fun r => r.owner == .ckWrite k

/-- The contents have landed: a copy that met a cut or a poisoned block poisons CP_DONE; otherwise the header goes out,
TORN where a group has advanced. -/
def State.ckHeader (s : State) (k : Nat) (c : Checkpoint) (x : CkCopy) : State :=
  let g := s.groupSteps c.arg.groups
  if x.bad || g.2.any Option.isNone || s.isCut (s.buddy c.arg) then
    (g.1.spoolPoison c.arg.cpDone).setCkpt k (some { c with copying := none })
  else
    let moved := (c.arg.groups.zip (x.steps.zip (g.2.map fun w => w.getD 0))).find? fun p => p.2.1 != p.2.2
    let o := g.1.putSlot k c (slotPos c x.step) (slotHeader x moved.isSome)
    let s := match moved with
      | some (i, a, b) => o.1.report 0x653 9 4 none 0xFFFF [BitVec.ofNat 32 i, a, b]
      | none => o.1
    s.setCkpt k (some { c with copying := some { x with torn := some moved.isSome, bad := !o.2 } })

/-- The header has landed: CP_DONE increases by 64, or is poisoned. -/
def State.ckEnd (s : State) (k : Nat) (c : Checkpoint) (x : CkCopy) (torn : Bool) : State :=
  let s := if torn || x.bad || s.isCut (s.buddy c.arg) then s.spoolPoison c.arg.cpDone else s.spoolAdd c.arg.cpDone 64
  s.setCkpt k (some { c with copying := none })

/-- CHECKPOINT_FIRE (R333, R334): the firing, and then, as its WRITEs have been answered, the header and CP_DONE. -/
def execCheckpointFire (ck : Nat) (s : State) : Host.Outcome State Fault Refusal :=
  match s.ckpt ck with
  | none => .next s
  | some c =>
    match c.copying with
    | none =>
      match s.fires c.firing c.arg.trigId c.target with
      | some (change, bad) => .next (s.ckBegin ck c change bad)
      | none => .next s
    | some x =>
      if s.ckWaits ck then .next s
      else
        match x.torn with
        | none => .next (s.ckHeader ck c x)
        | some t => .next (s.ckEnd ck c x t)

/-! ## Recovery (R336) -/

/-- Rings of the job's contexts. -/
def State.jobRings (s : State) : List Nat := s.affected.flatMap s.ringsOf

/-- Every ring of the job's contexts is STOPPED. -/
def State.jobStopped (s : State) : Bool := s.jobRings.all fun r => s.ringState r == 0

def State.setStage (s : State) (n : Nat) : State := { s with svc := { s.svc with stage := n } }

/-- The modules of the job other than this one that no cut names. -/
def State.survivors (s : State) : List Nat := (s.svc.ranks.map BitVec.toNat).filter fun d => d != s.deviceId && !s.isCut d

/-- The service message that tells the coordinators which modules are lost (R336, R335; log 92): at most 64 of them (R290). -/
def cutMessage (lost : List Nat) : List Word :=
  ([4, lost.length] ++ lost ++ List.replicate (62 - lost.length) 0).map (BitVec.ofNat 32)

/-- Every survivor has told the same set (stage 2). -/
def State.agreed (s : State) : Bool :=
  s.survivors.all fun d => ((s.svc.inbox.find? fun p => p.1 == d && wordAt p.2 0 == 4).map Prod.snd) == some (cutMessage s.cut)

/-- Stage 1 begins again, with the cut table as it stands. -/
def State.restartRecovery (s : State) : State :=
  { s with svc := { s.svc with stage := 1, restore := none, lostSet := s.cut } }

/-- RECOVERY_START (R336): with a cut in force, or to go on, RECOVERING is set and stage 1 stops the rings; when they are STOPPED, stage 2 tells the
survivors what is lost; when they have told the same, stage 3 waits for the ranks to be taken. A second cut starts again with the
larger cut table. -/
def execRecoveryStart (s : State) : Host.Outcome State Fault Refusal :=
  if s.up = false ∨ (s.recovering = false ∧ s.cut = [] ∧ s.cutAll = false) then .next s
  else if s.svc.stage = 0 ∨ s.svc.lostSet ≠ s.cut then
    .next (forEach State.ringStop (s.setSvc 2 true).restartRecovery s.jobRings)
  else if s.svc.stage = 1 ∧ s.jobStopped = true then
    .next ((forEach (fun s d => s.tell 2 d (cutMessage s.cut)) s s.survivors).setStage 2)
  else if s.svc.stage = 2 ∧ s.agreed = true then .next (s.setStage 3)
  else .next s

/-- The rank list's modules that are lost. -/
def State.lostRanks (s : State) : List (BitVec 24) := s.svc.ranks.filter fun d => s.isCut d.toNat

/-- Each lost module's rank is taken by itself, after its chip reset, or by a spare that a WAIT names (here, or on the leader
whose epoch has come). -/
def State.ranksTaken (s : State) (ts : List (BitVec 24 × BitVec 24)) : Bool :=
  s.lostRanks.all fun d => match ts.find? fun p => p.1 == d with
    | some (_, t) => t == d || s.svc.waits.any fun w => w.2.2 == t.toNat
    | none => false

/-- The device that holds a rank after recovery. -/
def takerOf (ts : List (BitVec 24 × BitVec 24)) (d : BitVec 24) : BitVec 24 :=
  match ts.find? fun p => p.1 == d with
  | some p => p.2
  | none => d

/-- The restored step (R409): the largest STEP that every module's buddy holds. -/
def restoredStep (slots : List (List Word)) : Option Word :=
  ((slots.headD []).filter fun t => slots.all fun l => l.contains t).foldl (fun (b : Option Word) t =>
    match b with
    | some x => if x.toNat < t.toNat then some t else b
    | none => some t) none

/-- The DRAM region of an address (R418), and whether this start marked it lost (R169). -/
def regionOf (a : Nat) : Nat := if isLp a then a / 2 ^ 39 else 2 + (a - 0x10000000000) / 2 ^ 34
def State.regionLost (s : State) (a : Nat) : Bool := isDram a && bitAt (s.reg (offMem + 0x20 + 4 * regionOf a)) 31

/-- Put saved bytes back at a virtual address: everywhere, or only in regions marked lost. -/
def State.restoreVa (s : State) (all : Bool) (ctx va : Nat) (bs : List Byte) : State :=
  forEach (fun s p =>
    let t := s.translate linkUnit ctx p.1 .write
    match t.2 with
    | .ok (.here a, _) => if all || t.1.regionLost a then t.1.writeMem a ((bs.drop (p.1 - va)).take p.2) else t.1
    | _ => t.1) s (pieces va bs.length)

/-- Stage 5 for one checkpoint: a module at another step takes all of its slot; one at step t only what it lost. -/
def State.restoreCkpt (s : State) (t : Word) (c : Checkpoint) (bs : List Byte) : State :=
  let g := s.groupSteps c.arg.groups
  let all := g.2.any fun x => x != some t
  let q := c.arg.ranges.foldl (fun (q : State × List Byte) p =>
    (q.1.restoreVa all c.ctx p.1 (q.2.take p.2), q.2.drop p.2)) (g.1, bs)
  (c.arg.groups.foldl (fun (q : State × List Byte) i =>
    (if (all || q.1.regionLost (q.1.groupAddr i)) && decide (128 ≤ q.2.length) then q.1.writeMem (q.1.groupAddr i) (q.2.take 128)
      else q.1, q.2.drop 128)) q).1

/-- Read `n` bytes at a position of a checkpoint's two-slot region: by READs of one 64-byte block each, or here where the buddy is
this module. -/
def State.askSlot (s : State) (k : Nat) (c : Checkpoint) (pos n : Nat) : State :=
  let dev := s.buddy c.arg
  let g := if s.gran then 2 ^ 25 else 2 ^ 21
  let lpn (o : Nat) : Nat := c.arg.slotLpn.toNat + o / g
  forEach (fun s (p : Nat × Nat) =>
    let o := c.arg.slotOff + p.1
    if dev = s.deviceId then
      let r := s.readMem (s.exportBase + c.arg.slotLpn.toNat * g + o) p.2
      r.1.ckGot k p.1 r.2
    else
      match s.issueReq 2 dev c.ctx (.ckRead k p.1) o (ceilDiv p.2 4) (extAddr s.gran false (lpn o) (o % g)) [] with
      | some t => t
      | none => s.ckGot k p.1 none) s ((pieces (c.arg.slotOff + pos) n).map fun p => (p.1 - c.arg.slotOff, p.2))

/-- What has been read of `n` bytes at a position. -/
def Restore.bytes (x : Restore) (k : Nat) (c : Checkpoint) (pos n : Nat) : List Byte :=
  (pieces (c.arg.slotOff + pos) n).flatMap fun p =>
    (((x.got.find? fun y => y.1 == k && y.2.1 == p.1 - c.arg.slotOff).map fun y => y.2.2).getD []).take p.2

/-- The header of one of a checkpoint's two slots, as it has been read. -/
def Restore.header (x : Restore) (k : Nat) (c : Checkpoint) (slot : Nat) : List Word :=
  wordsLE 16 (x.bytes k c (slot * c.arg.slotSize) 64)

/-- STEP of a slot that is VALID and not TORN. -/
def Restore.validStep (x : Restore) (k : Nat) (c : Checkpoint) (slot : Nat) : Option Word :=
  let h := x.header k c slot
  if fld (wordAt h 4) 0 2 = 1 then some (wordAt h 0) else none

/-- Every checkpoint of this module, with its number. -/
def State.ckptList (s : State) : List (Nat × Checkpoint) := s.svc.ckpts.filterMap fun p => p.2.map fun c => (p.1, c)

/-- The steps that the slots of each of this module's checkpoints offer, with what the other modules have told (R409). -/
def State.offered (s : State) (x : Restore) : List (List Word) :=
  (s.ckptList.map fun p => [0, 1].filterMap fun i => x.validStep p.1 p.2 i) ++ x.data.slots.eraseIdx s.svc.rank

/-- The length of the contents of the slot of step t. -/
def Restore.length (x : Restore) (k : Nat) (c : Checkpoint) (t : Word) : Nat :=
  min (dwordAt (x.header k c (fld t 0 1)) 1) (ckBytes c.arg)

/-- The contents of a checkpoint's slot of step t, once they have been read: none when their CRC-32C is not the header's. -/
def Restore.contents (x : Restore) (k : Nat) (c : Checkpoint) (t : Word) : Option (List Byte) :=
  let bs := x.bytes k c (slotPos c t + 64) (x.length k c t)
  if crc32c bs = wordAt (x.header k c (fld t 0 1)) 3 then some bs else none

/-- An entry of a tree of the old rank list, for the new holders of its ranks and the restored step. -/
def reTree (ts : List (BitVec 24 × BitVec 24)) (t : Word) (e : List Word) : List Word :=
  let sub (w : Word) : Nat := (takerOf ts (BitVec.ofNat 24 (fld w 0 24))).toNat
  let e := setWord e 0 (setFld (wordAt e 0) 0 16 (fld t 0 16))
  let e := setWord e 6 (setFld (wordAt e 6) 0 24 (sub (wordAt e 6)))
  if bitAt (wordAt e 8) 31 then setWord e 8 (setFld (wordAt e 8) 0 24 (sub (wordAt e 8))) else e

/-- Stage 6: counters by SPL.SET; trees rebuilt; node-table, FACTOR and update-table entries at the restored step with their targets;
NT_INV and UT_INV. -/
def State.rearm (s : State) (d : RecoveryData) (t : Word) : State :=
  let s := forEach (fun s (p : Nat × DWord) => s.spoolSet p.1 p.2.toNat) s d.spool
  let s : State := { s with svc := { s.svc with
    trees := s.svc.trees.map fun p => (p.1, p.2.map fun x => { x with entries := x.entries.map fun e => (e.1, reTree d.takers t e.2) }) } }
  let s := forEach (fun s (p : Nat × Option TreeSet) => match p.2 with
    | some x => s.armSet x
    | none => s) s s.svc.trees
  let s := forEach (fun s (p : Nat × DWord) =>
    let e := s.nodeNow p.1
    let e := setWord e 0 (setFld (wordAt e 0) 0 16 (fld t 0 16))
    let e := setWord (setWord e 12 (BitVec.ofNat 32 p.2.toNat)) 13 (BitVec.ofNat 32 (p.2.toNat / 2 ^ 32))
    (s.putNode p.1 e).invalidate .nt (BitVec.ofNat 32 p.1)) s d.nodes
  forEach (fun s (p : Nat × DWord) =>
    let e := s.updNow p.1
    let e := setWord (setWord (setWord e 1 t) 17 (BitVec.ofNat 32 p.2.toNat)) 18 (BitVec.ofNat 32 (p.2.toNat / 2 ^ 32))
    (s.putUpd p.1 e).invalidate .ut (BitVec.ofNat 32 p.1)) s d.updates

/-- Complete the WAIT requests that are pending. -/
def State.endWaits (s : State) (a : Answer) : State :=
  let s := forEach (fun s (p : Nat × Nat × Nat) =>
    match (s.ring p.1).at p.2.1 with
    | some d => s.answer p.1 (BitVec.ofNat 32 p.2.1) d.words a
    | none => s) s s.svc.waits
  { s with svc := { s.svc with waits := [] } }

/-- The service message by which the leader writes the new epoch on another module (R336, R335; log 92). -/
def epochMessage (e : BitVec 8) : List Word := [3, e.setWidth 32]

/-- A new FAB_JOB.EPOCH on this module (R292). -/
def State.newEpoch (s : State) (e : BitVec 8) : State :=
  s.gondRwc offFabJob (BitVec.ofNat 32 (s.job * 2 ^ 16 + e.toNat * 2 ^ 8))

/-- This module holds the lowest surviving rank: it leads. -/
def State.leads (s : State) : Bool :=
  ((s.svc.ranks.map BitVec.toNat).find? fun d => !s.svc.lostSet.contains d).all fun d => d == s.deviceId

/-- Stages 4 and 5 begin: the leader writes the epoch on every module, and both slot headers of every checkpoint are read. -/
def State.beginRestore (s : State) (d : RecoveryData) : State :=
  let s := if s.leads then (forEach (fun s i => s.tell 2 i (epochMessage d.epoch)) s s.survivors).newEpoch d.epoch else s
  let s : State := { s with svc := { s.svc with
    stage := 5, lostSet := [], restore := some { data := d, step := none, failed := false, got := [] } } }
  forEach (fun s (p : Nat × Checkpoint) => forEach (fun s i => s.askSlot p.1 p.2 (i * p.2.arg.slotSize) 64) s [0, 1]) s s.ckptList

/-- A checkpoint's slot of step t is read when its groups stand at another step, or a region of this module is marked lost. -/
def State.needsSlot (s : State) (t : Word) (c : Checkpoint) : Bool :=
  ((s.groupSteps c.arg.groups).2.any fun w => w != some t) || (List.range 4).any fun r => bitAt (s.reg (offMem + 0x20 + 4 * r)) 31

/-- Stage 5 goes on with step t. -/
def State.chooseStep (s : State) (x : Restore) (t : Word) : State :=
  let s : State := { s with svc := { s.svc with restore := some { x with step := some t } } }
  forEach (fun s (p : Nat × Checkpoint) =>
    if s.needsSlot t p.2 then s.askSlot p.1 p.2 (slotPos p.2 t + 64) (x.length p.1 p.2 t) else s) s s.ckptList

/-- The end of stage 5, and stages 6 and 7. -/
def State.recover (s : State) (x : Restore) (t : Word) : State :=
  let s := forEach (fun s (p : Nat × Checkpoint) => s.restoreCkpt t p.2 ((x.contents p.1 p.2 t).getD [])) s s.ckptList
  let s := s.rearm x.data t
  let s : State := { s with svc := { s.svc with
    ranks := s.svc.ranks.map (takerOf x.data.takers), stage := 0, restore := none, lostSet := [] } }
  (s.setSvc 2 false).endWaits { status := 0, detail := some t.toNat, result := [] }

/-- READs of the slots still without an answer. -/
def State.slotWaits (s : State) : Bool := s.reqs.any fun q => q.2.any fun r => match r.owner with
  | .ckRead _ _ => true
  | _ => false

/-- Stage 5 once what it asked for has come: the step is chosen, or everything is put back. A slot that has not been read, contents
that are not what the header says, and the want of a step that every buddy holds fail the stage, and the procedure starts again. -/
def State.goRestore (s : State) (x : Restore) : State :=
  if x.failed then s.restartRecovery
  else
    match x.step with
    | none => match restoredStep (s.offered x) with
      | none => s.restartRecovery
      | some t => s.chooseStep x t
    | some t => if s.ckptList.all fun p => !s.needsSlot t p.2 || (x.contents p.1 p.2 t).isSome then s.recover x t else s.restartRecovery

/-- RECOVERY_RANK_TAKEN (R336, R409): with stage 3 satisfied, stages 4 and 5 begin, on the leader with an epoch that is new and elsewhere
once that epoch has been written; offered again, stage 5 goes on as its READs have been answered. -/
def execRecoveryRankTaken (d : RecoveryData) (s : State) : Host.Outcome State Fault Refusal :=
  if s.recovering = false ∨ s.jobStopped = false then .next s
  else
    match s.svc.restore with
    | none =>
      if s.svc.stage ≠ 3 ∨ s.ranksTaken d.takers = false ∨ d.slots.length ≠ s.svc.ranks.length
          ∨ (s.leads == decide (d.epoch.toNat = s.epoch)) = true then .next s
      else .next (s.beginRestore d)
    | some x => if s.slotWaits then .next s else .next (s.goRestore x)

/-- RECOVERY_STATUS. -/
def execRecoveryStatus (rq : SvcReq) (s : State) : Host.Outcome State Fault Refusal :=
  .next (s.serve rq 5 0 (argWords 0) fun s _ _ => s.freeResult)

/-- RECOVERY_WAIT (R336): the request stays pending until recovery ends. -/
def execRecoveryWait (rq : SvcReq) (spare : Nat) (s : State) : Host.Outcome State Fault Refusal :=
  match s.admitRequest rq 5 1 (argWords 1) with
  | .error t => .next t
  | .ok a =>
    let t : State := { a.state with svc := { a.state.svc with waits := a.state.svc.waits ++ [(rq.ring, a.index.toNat, spare)] } }
    .next (t.goOn rq.ring)

/-- ABANDON (R336): it ends the procedure, and WAIT completes with SLOST. -/
def execAbandon (rq : SvcReq) (s : State) : Host.Outcome State Fault Refusal :=
  .next (s.serve rq 5 2 (argWords 0) fun s _ _ =>
    let s : State := { s with svc := { s.svc with restore := none, lostSet := [] } }
    (((s.setSvc 2 false).setStage 0).endWaits (answerNo svcLost none), answerOk []))

end Sys2Proof.Machine
end

