-- ==== Sys2Proof/Machine/Counters.lean ====
section
/-! DEFINITION. The rows that clear counters: a write of one bit of a count-clear register by the gondola (R41, R71, R175,
R251, R269, R293, R322, R365, R412, R415). -/
namespace Sys2Proof.Machine

/-- Write one bit of a register, as the gondola. -/
def State.writeBit (s : State) (off bit : Nat) : State := s.setupWrite 0x650 off (BitVec.ofNat 32 (2 ^ bit))

/-- CVT_COUNT_CLEAR_SAT (R41): sets CVT_SAT_COUNT to 0. -/
def execCvtCountClearSat (core : Nat) (s : State) : Host.Outcome State Fault Refusal :=
  if core < 1536 then .next (s.writeBit (offCvt core 3) 0) else .next s

/-- CVT_COUNT_CLEAR_INF (R41): sets CVT_INF_COUNT to 0. -/
def execCvtCountClearInf (core : Nat) (s : State) : Host.Outcome State Fault Refusal :=
  if core < 1536 then .next (s.writeBit (offCvt core 3) 1) else .next s

/-- CVT_COUNT_CLEAR_NAN (R41): sets CVT_NAN_COUNT to 0. -/
def execCvtCountClearNan (core : Nat) (s : State) : Host.Outcome State Fault Refusal :=
  if core < 1536 then .next (s.writeBit (offCvt core 3) 2) else .next s

/-- ARR_COUNT_CLEAR_F (R71): sets every counter of the F group to 0. -/
def execArrCountClearF (core : Nat) (s : State) : Host.Outcome State Fault Refusal :=
  if core < 1536 then .next (s.writeBit (offCore core + 0x160) 0) else .next s

/-- ARR_COUNT_CLEAR_D (R71): sets every counter of the D group to 0. -/
def execArrCountClearD (core : Nat) (s : State) : Host.Outcome State Fault Refusal :=
  if core < 1536 then .next (s.writeBit (offCore core + 0x160) 1) else .next s

/-- ARR_COUNT_CLEAR_W (R71): sets every counter of the W group to 0. -/
def execArrCountClearW (core : Nat) (s : State) : Host.Outcome State Fault Refusal :=
  if core < 1536 then .next (s.writeBit (offCore core + 0x160) 2) else .next s

/-- CORE_COUNT_CLEAR_REPACK (R412): sets REPACK to 0. -/
def execCoreCountClearRepack (core : Nat) (s : State) : Host.Outcome State Fault Refusal :=
  if core < 1536 then .next (s.writeBit (offCore core + 0x204) 0) else .next s

/-- FU_COUNT_CLEAR_DONE (R415): sets FU_DONE to 0. -/
def execFuCountClearDone (p : Nat) (s : State) : Host.Outcome State Fault Refusal :=
  if p < 8 then .next (s.writeBit (offPart p + 8) 0) else .next s

/-- MC_COUNT_CLEAR_RETRY (R175): sets MC_CRC_RETRY to 0. -/
def execMcCountClearRetry (mc : Nat) (s : State) : Host.Outcome State Fault Refusal :=
  if mc < 48 then .next (s.writeBit (offMc mc + 0x14) 0) else .next s

/-- MC_COUNT_CLEAR_POIS (R175): sets MC_POISONED to 0. -/
def execMcCountClearPois (mc : Nat) (s : State) : Host.Outcome State Fault Refusal :=
  if mc < 48 then .next (s.writeBit (offMc mc + 0x14) 1) else .next s

/-- MC_COUNT_CLEAR_PREAD (R175): sets MC_POISON_READ to 0. -/
def execMcCountClearPread (mc : Nat) (s : State) : Host.Outcome State Fault Refusal :=
  if mc < 48 then .next (s.writeBit (offMc mc + 0x14) 2) else .next s

/-- MC_COUNT_CLEAR_SCRUB (R175): sets MC_SCRUB_PASS to 0. -/
def execMcCountClearScrub (mc : Nat) (s : State) : Host.Outcome State Fault Refusal :=
  if mc < 48 then .next (s.writeBit (offMc mc + 0x14) 3) else .next s

/-- RA_COUNT_CLEAR_ACC (R251): sets RA_ACC to 0. -/
def execRaCountClearAcc (mc : Nat) (s : State) : Host.Outcome State Fault Refusal :=
  if mc < 48 then .next (s.writeBit (offMc mc + 0x11C) 0) else .next s

/-- RA_COUNT_CLEAR_PAIRS (R251): sets RA_PAIRS to 0. -/
def execRaCountClearPairs (mc : Nat) (s : State) : Host.Outcome State Fault Refusal :=
  if mc < 48 then .next (s.writeBit (offMc mc + 0x11C) 1) else .next s

/-- RA_COUNT_CLEAR_SPILL (R251): sets RA_SPILL to 0. -/
def execRaCountClearSpill (mc : Nat) (s : State) : Host.Outcome State Fault Refusal :=
  if mc < 48 then .next (s.writeBit (offMc mc + 0x11C) 2) else .next s

/-- RA_COUNT_CLEAR_SAT (R251): sets RA_SAT to 0. -/
def execRaCountClearSat (mc : Nat) (s : State) : Host.Outcome State Fault Refusal :=
  if mc < 48 then .next (s.writeBit (offMc mc + 0x11C) 3) else .next s

/-- RA_COUNT_CLEAR_STALE (R251): sets RA_STALE to 0. -/
def execRaCountClearStale (mc : Nat) (s : State) : Host.Outcome State Fault Refusal :=
  if mc < 48 then .next (s.writeBit (offMc mc + 0x11C) 4) else .next s

/-- RA_COUNT_CLEAR_EXTRA (R251): sets RA_EXTRA to 0. -/
def execRaCountClearExtra (mc : Nat) (s : State) : Host.Outcome State Fault Refusal :=
  if mc < 48 then .next (s.writeBit (offMc mc + 0x11C) 5) else .next s

/-- RA_COUNT_CLEAR_DROPPED (R251): sets RA_DROPPED to 0. -/
def execRaCountClearDropped (mc : Nat) (s : State) : Host.Outcome State Fault Refusal :=
  if mc < 48 then .next (s.writeBit (offMc mc + 0x11C) 6) else .next s

/-- UU_COUNT_CLEAR_PARAMS (R269): sets UU_PARAMS to 0. -/
def execUuCountClearParams (mc : Nat) (s : State) : Host.Outcome State Fault Refusal :=
  if mc < 48 then .next (s.writeBit (offMc mc + 0x21C) 0) else .next s

/-- UU_COUNT_CLEAR_FROZEN (R269): sets UU_FROZEN to 0. -/
def execUuCountClearFrozen (mc : Nat) (s : State) : Host.Outcome State Fault Refusal :=
  if mc < 48 then .next (s.writeBit (offMc mc + 0x21C) 1) else .next s

/-- UU_COUNT_CLEAR_PBLOCKS (R269): sets UU_PBLOCKS to 0. -/
def execUuCountClearPblocks (mc : Nat) (s : State) : Host.Outcome State Fault Refusal :=
  if mc < 48 then .next (s.writeBit (offMc mc + 0x21C) 2) else .next s

/-- UU_COUNT_CLEAR_MCLAMP (R269): sets UU_MCLAMP to 0. -/
def execUuCountClearMclamp (mc : Nat) (s : State) : Host.Outcome State Fault Refusal :=
  if mc < 48 then .next (s.writeBit (offMc mc + 0x21C) 3) else .next s

/-- UU_COUNT_CLEAR_SHARDS (R269): sets UU_SHARDS to 0. -/
def execUuCountClearShards (mc : Nat) (s : State) : Host.Outcome State Fault Refusal :=
  if mc < 48 then .next (s.writeBit (offMc mc + 0x21C) 4) else .next s

/-- UU_COUNT_CLEAR_SKEW (R269): sets UU_SKEW to 0. -/
def execUuCountClearSkew (mc : Nat) (s : State) : Host.Outcome State Fault Refusal :=
  if mc < 48 then .next (s.writeBit (offMc mc + 0x21C) 5) else .next s

/-- UU_COUNT_CLEAR_BUSY (R269): sets UU_BUSY to 0. -/
def execUuCountClearBusy (mc : Nat) (s : State) : Host.Outcome State Fault Refusal :=
  if mc < 48 then .next (s.writeBit (offMc mc + 0x21C) 6) else .next s

/-- FAB_COUNT_CLEAR_CRC_ERR (R293): sets FAB_CRC_ERR to 0. -/
def execFabCountClearCrcErr (port : Nat) (s : State) : Host.Outcome State Fault Refusal :=
  if port < 16 then .next (s.writeBit (offPort port + 0x38) 0) else .next s

/-- FAB_COUNT_CLEAR_RESEND (R293): sets FAB_RESEND to 0. -/
def execFabCountClearResend (port : Nat) (s : State) : Host.Outcome State Fault Refusal :=
  if port < 16 then .next (s.writeBit (offPort port + 0x38) 1) else .next s

/-- FAB_COUNT_CLEAR_NARROW (R293): sets FAB_NARROW to 0. -/
def execFabCountClearNarrow (port : Nat) (s : State) : Host.Outcome State Fault Refusal :=
  if port < 16 then .next (s.writeBit (offPort port + 0x38) 2) else .next s

/-- FAB_COUNT_CLEAR_LOSS (R293): sets FAB_LOSS to 0. -/
def execFabCountClearLoss (port : Nat) (s : State) : Host.Outcome State Fault Refusal :=
  if port < 16 then .next (s.writeBit (offPort port + 0x38) 3) else .next s

/-- FAB_COUNT_CLEAR_DROP (R293): sets FAB_DROP to 0. -/
def execFabCountClearDrop (port : Nat) (s : State) : Host.Outcome State Fault Refusal :=
  if port < 16 then .next (s.writeBit (offPort port + 0x38) 4) else .next s

/-- SN_COUNT_CLEAR_CRC_ERR (R322): sets SN_CRC_ERR to 0. -/
def execSnCountClearCrcErr (s : State) : Host.Outcome State Fault Refusal :=
  .next (s.writeBit (offHost + 0x28) 0)

/-- SN_COUNT_CLEAR_RESEND (R322): sets SN_RESEND to 0. -/
def execSnCountClearResend (s : State) : Host.Outcome State Fault Refusal :=
  .next (s.writeBit (offHost + 0x28) 1)

/-- SN_COUNT_CLEAR_NARROW (R322): sets SN_NARROW to 0. -/
def execSnCountClearNarrow (s : State) : Host.Outcome State Fault Refusal :=
  .next (s.writeBit (offHost + 0x28) 2)

/-- SN_COUNT_CLEAR_LOSS (R322): sets SN_LOSS to 0. -/
def execSnCountClearLoss (s : State) : Host.Outcome State Fault Refusal :=
  .next (s.writeBit (offHost + 0x28) 3)

/-- SN_COUNT_CLEAR_DB (R322): sets SN_DB to 0. -/
def execSnCountClearDb (s : State) : Host.Outcome State Fault Refusal :=
  .next (s.writeBit (offHost + 0x28) 4)

/-- SN_COUNT_CLEAR_DB_POLL (R322): sets SN_DB_POLL to 0. -/
def execSnCountClearDbPoll (s : State) : Host.Outcome State Fault Refusal :=
  .next (s.writeBit (offHost + 0x28) 5)

/-- PWR_COUNT_CLEAR_PARTITION (R365): sets every per-partition power counter to 0. -/
def execPwrCountClearPartition (s : State) : Host.Outcome State Fault Refusal :=
  .next (s.writeBit (offPwr + 0x190) 0)

/-- PWR_COUNT_CLEAR_MODULE (R365): sets every module power counter to 0. -/
def execPwrCountClearModule (s : State) : Host.Outcome State Fault Refusal :=
  .next (s.writeBit (offPwr + 0x190) 1)

end Sys2Proof.Machine
end

