-- ==== Sys2Proof/Machine/Drogue.lean ====
section
/-! DEFINITION. Drogue samples (spec/04, R85, R88 to R90): recomputing a captured tile and comparing it. -/
namespace Sys2Proof.Machine

/-- A slot of a core, 0 or 1 (R88). -/
def Core.slot (c : Core) (i : Nat) : Option Capture := c.captures.getD i none

def State.setSlot (s : State) (core i : Nat) (c : Option Capture) : State :=
  s.modCore core fun x => { x with captures := x.captures.set i c }

/-- Format of a 16-bit form (R86). -/
def wideFmt (code : Nat) : Fmt := if code = 0 then .bf16 else .fp16

/-- The layout of a 16-bit form can be used: its complements match, it is valid, its format is the one named and it is as
large as the operand that it stands for (log 7). -/
def wideOk (s : State) (o : ArrOp) (i : Nat) (own : Layout) : Bool :=
  let ws := wideLayout s o i
  let l := Layout.ofWords ws
  let code := fld (wordAt o.shadow 0) (22 - 2 * i) 2
  complementsOk 8 ws && !l.invalid true && l.fmt == wideFmt code && l.blk == 0
    && decide (own.rows ≤ l.rows) && decide (own.cols ≤ l.cols)
    && decide (fld (wordAt o.shadow i) 0 19 + l.elemBytes ≤ o.ls)

/-- An element of a 16-bit form, with its per-tensor exponent (R86). -/
def wideValue (s : State) (o : ArrOp) (i r c : Nat) : FVal :=
  let l := Layout.ofWords (wideLayout s o i)
  elemValue s.byte l (wideBase o i) r c none
    (signedOf 8 (fld (wordAt o.shadow 3) (if i = 1 then 24 else 16) 8))

/-- The recomputed FP32 sum of element (r, c) (R88): each operand from its 16-bit form, or widened exactly from the
operation's own. -/
def recomputed (s : State) (o : ArrOp) (r c : Nat) : Word :=
  dotFrom (fun k => if useWide o 1 then wideValue s o 1 r k else aValue s.byte o r k)
    (fun k => if useWide o 2 then (if dTransB o.desc then wideValue s o 2 c k else wideValue s o 2 k c)
      else bValue s.byte o k c) (dK o.desc)

/-- Array `arr` of the core may recompute a tile of `o` (R88): idle, in the 16 x 16 shape, and the D array under TRANS_B. -/
def State.canRecompute (s : State) (core arr : Nat) (o : ArrOp) : Bool :=
  let x := (s.core core).array arr
  x.queue.isEmpty && x.running.isEmpty && x.shape == 0 && decide (arr < 3)
    && decide (arrayWidth (s.arrayMap core).1 arr ≠ 0) && (!dTransB o.desc || arr == 1)

/-- DROGUE_RECOMPUTE (R88 step 2). A form whose layout cannot be used drops the sample (log 7). -/
def execDrogueRecompute (core slot arr : Nat) (s : State) : Host.Outcome State Fault Refusal :=
  match (s.core core).slot slot with
  | none => .next s
  | some c =>
    let o := c.op
    if c.phase ≠ .captured ∨ s.canRecompute core arr o = false ∨ (s.core core).stopped = true then .next s
    else if (useWide o 1 && !wideOk s o 1 (Layout.ofWords o.la)) || (useWide o 2 && !wideOk s o 2 (Layout.ofWords o.lb)) then
      .next (s.dropSample core slot)
    else
      .next (s.setSlot core slot
        (some { c with phase := .computed, arr := arr, wide := c.vals.map fun v => (v.1, v.2.1, recomputed s o v.1 v.2.1) }))

/-- The histogram bin of one element (R89): `n` captured, `w` recomputed, `m` the largest |w| of the tile, FLR. -/
def drogueBin (n w : FVal) (m : FVal) (flr : Nat) : Nat :=
  match n, w with
  | .nan, .nan => 0
  | .inf a, .inf b => if a = b then 0 else 15
  | .fin _ _ _, .fin _ _ _ =>
    let d := fround (FVal.abs (fdec (fround (FVal.add n (FVal.neg w)))))
    let fl := fdec (fround (FVal.scale m (-(flr : Int))))
    let aw := FVal.abs w
    let den := if FVal.lt aw fl then fl else aw
    if den.isZero then (if (fdec d).isZero then 0 else 15)
    else
      match fdec (fdivV (fdec d) den) with
      | .fin a k e =>
        if k = 0 then 0
        else
          let x := FVal.log2 (.fin a k e)
          if x < -14 then 1 else if -1 ≤ x then 15 else (x + 16).toNat
      | _ => 15
  | _, _ => 15

/-- The bins of a compared tile, one per enabled element. -/
def drogueBins (c : Capture) (flr : Nat) : List Nat :=
  let m := (c.wide.map fun x => FVal.abs (fdec x.2.2)).foldl
    (fun a b => if FVal.lt a b then b else a) (FVal.zero false)
  (c.vals.zip c.wide).map fun p => drogueBin p.1.2.2 (fdec p.2.2.2) m flr

/-- DROGUE_COMPARE (R89, R90): the histogram, SAMPLED, EXCEEDED and the NUM_DROGUE event. -/
def execDrogueCompare (core slot : Nat) (s : State) : Host.Outcome State Fault Refusal :=
  match (s.core core).slot slot with
  | none => .next s
  | some c =>
    if c.phase ≠ .computed then .next s
    else
      let s := s.setSlot core slot none
      let a := drogueEntry s c.op
      let r := s.readEntry a 32
      match r.2 with
      | none => .next r.1
      | some ws =>
        let s := r.1
        let w0 := wordAt ws 0
        let bins := drogueBins c (fld w0 0 5)
        let s := s.drogueAdd c.op 1 1
        let s := forEach (fun s i => s.drogueAdd c.op (8 + i) (bins.filter fun b => b == i).length) s (List.range 16)
        let high := (bins.filter fun b => decide (fld w0 16 4 ≤ b)).length
        if high ≤ fld w0 8 8 then .next s
        else
          let s := s.drogueAdd c.op 4 1
          let last := dwordAt ws 5
          if s.lcount.toNat - last < 2 ^ 20 then .next s
          else
            let s := s.report core 2 4 (some c.op.ctx) core
              [BitVec.ofNat 32 (fld (wordAt c.op.shadow 0) 0 12), BitVec.ofNat 32 core, BitVec.ofNat 32 high]
            .next (s.writeMem (a + 20) (bytesLE 8 s.lcount.toNat))

end Sys2Proof.Machine
end

