-- ==== Sys2Proof/Machine/HostLink.lean ====
section
/-! DEFINITION. What the host sends over the Sornal link beside doorbells (spec/14, R297 to R300): answers to host reads, and
reads and writes of set-up registers. -/
namespace Sys2Proof.Machine

/-- The status of a descriptor or copy whose host read has failed (R299, R306): DLINK for a refused one, DFETCH for poison. For an
answer UNSUPPORTED the spec names no status; it takes that of REFUSED (DESIGN CHOICE, log 98). -/
def hostReadCode : HostStatus → Nat
  | .ok => 0
  | .refused => 0x89
  | .poison => 0x8A
  | .unsupported => 0x89

/-- Descriptors read from host memory arrive, for each of the `n` slots (R306). -/
def State.descAnswer (s : State) (r i n : Nat) (st : HostStatus) (data : List Byte) : State :=
  let code := hostReadCode st
  let s := forEach (fun s k =>
    s.arrived r ((i + k) % 2 ^ 32) (wordsLE 16 ((data.drop (64 * k)).take 64), code)) s (List.range n)
  s.goOn r

/-- A polled doorbell word (R303, R304): its low word is the tail; SN_DB_POLL counts the tails that it supplies. -/
def State.pollAnswer (s : State) (r : Nat) (data : List Byte) : State :=
  let t := s.supplyTail r (BitVec.ofNat 32 (natLE (data.take 4)))
  if t.2 then t.1.count (offLinkCnt 16 5) 1 else t.1

/-- HREAD_RESPONSE (R299, R301, R306, R310, R382): matched to its request by tag. -/
def execHreadResponse (tag : Nat) (status : HostStatus) (data : List Byte) (s : State) : Host.Outcome State Fault Refusal :=
  match Sparse.get (fun _ => none) s.hreads tag with
  | none => .next s
  | some what =>
    let s : State := { s with hreads := Sparse.set (fun _ => none) s.hreads tag none }
    match what with
    | .descriptor r i n => .next (s.descAnswer r i n status data)
    | .doorbell r => if status = .ok then .next (s.pollAnswer r data) else .next s
    | .copy r i _ =>
      if status = .ok then .next (s.linkData r i data) else .next (s.endJob r i (hostReadCode status))
    | .moored => if status = .ok then .next (s.moorData data) else .next (s.setRegFld (offMoor + 0xC) 0 8 5)

/-- The moored block of the host-link block (R380). -/
def inMoor (off : Nat) : Bool := offMoor ≤ off && off < offMoor + 0x80

/-- MREAD (R300): a hole reads 0 with a record. A moored module answers in the moored block alone (R380). -/
def execMread (tag off : Nat) (s : State) : Host.Outcome State Fault Refusal :=
  if s.start.moored && !inMoor off then .next s
  else if off % 4 ≠ 0 ∨ 0x4000000 ≤ off then
    .next ((s.holeRecord 0x640 (some 0) (setupBase + off)).toHost (.mresp tag 0))
  else
    let r := s.setupRead .host 0x640 off
    .next (r.1.toHost (.mresp tag r.2))

/-- The registers that take an MWRITE (R300, R390): the global and ring registers of R322, the moored block, ERR_RD. -/
def hostMayWrite (off : Nat) : Bool :=
  off % 4 == 0 && decide (offHost ≤ off) &&
    (let x := off - offHost
     decide (x < 0x2C) || (decide (0x1000 ≤ x) && decide (x < 0x3000)) || (decide (0x800 ≤ x) && decide (x < 0x824))
       || x == 0x888)

/-- MWRITE (R300): discarded with a REFUSAL record where the host may not write. -/
def execMwrite (off : Nat) (v : Word) (s : State) : Host.Outcome State Fault Refusal :=
  if hostMayWrite off && (!s.start.moored || inMoor off) then .next (s.setupWrite 0x640 off v)
  else .next (s.refusal 0x640 3 none (addrWords off ++ [v]))

end Sys2Proof.Machine
end

