-- ==== Sys2Proof/Machine/Relay.lean ====
section
/-! DEFINITION. The numerics service (spec/04, R84; spec/15, R337), the power service (spec/16, R363), the input relay (R338) and the
diagnostic state (R330, R378). -/
namespace Sys2Proof.Machine

/-! ## Numerics (R84, R337) -/

/-- NUMERICS_ENABLE: a group is placed under the service, with the records it combines. -/
def execNumericsEnable (rq : SvcReq) (group : Nat) (recs : List Nat) (s : State) : Host.Outcome State Fault Refusal :=
  .next (s.serve rq 6 0 (argWords (2 + 2 * recs.length)) fun s ctx _ =>
    if !s.ownsGroup ctx group then (s, answerNo svcPerm none)
    else if s.gtSize ≤ group ∨ (recs.any fun a => !s.dramRange a 16) = true then (s, answerNo svcBadArg none)
    else
      let g : NumGroup := { ctx := ctx, recs := recs, last := none }
      ({ s with svc := { s.svc with groups := Sparse.set (fun _ => none) s.svc.groups group (some g) } }, answerOk []))

/-- NUMERICS_DISABLE: the group returns to software. -/
def execNumericsDisable (rq : SvcReq) (group : Nat) (s : State) : Host.Outcome State Fault Refusal :=
  .next (s.serve rq 6 1 (argWords 1) fun s ctx _ =>
    match Sparse.get (fun _ => none) s.svc.groups group with
    | none => (s, answerNo svcBadArg none)
    | some g =>
      if !ownRes ctx g.ctx then (s, answerNo svcPerm none)
      else ({ s with svc := { s.svc with groups := Sparse.set (fun _ => none) s.svc.groups group none } }, answerOk []))

/-- The configuration fields of a drogue table entry's word 0 (R85). -/
def drogueMask : Word := 0x9F0FFF1F

/-- DROGUE (R337): configuration fields of the entry of a tag that the requesting context owns. -/
def execDrogue (rq : SvcReq) (tag : Nat) (cfg : Word) (s : State) : Host.Outcome State Fault Refusal :=
  .next (s.serve rq 6 2 (argWords 2) fun s ctx _ =>
    if !s.ownsTag ctx tag then (s, answerNo svcPerm none)
    else if tag = 0 ∨ 4096 ≤ tag then (s, answerNo svcBadArg none)
    else (s.writeMem (s.drogueBase + 128 * tag) (bytesLE 4 (cfg &&& drogueMask).toNat), answerOk []))

/-- Some context holds a tag from `first` to `last`. -/
def State.tagsTaken (s : State) (first last : Nat) : Bool :=
  (List.range 64).any fun c =>
    let w := s.reg (offCtx c + 0xC)
    bitAt w 31 && decide (first ≤ fld w 16 12) && decide (fld w 0 12 ≤ last)

/-- The lowest free range of `n` tags (log 65). -/
def State.freeTags (s : State) (n : Nat) : Option Nat :=
  ((List.range 4096).filter fun f => f != 0 && decide (f + n ≤ 4096)).find? fun f => !s.tagsTaken f (f + n - 1)

/-- TAGS (R337). -/
def execTags (rq : SvcReq) (s : State) : Host.Outcome State Fault Refusal :=
  .next (s.serve rq 6 3 (fun _ => 4) fun s ctx arg =>
    let n := (wordAt arg 0).toNat
    if n = 0 ∨ 4095 < n then (s, answerNo svcBadArg (some 32))
    else if bitAt (s.reg (offCtx ctx + 0xC)) 31 then (s, answerNo svcBadArg none)
    else
      match s.freeTags n with
      | none => (s, answerNo svcNoRes (some 32))
      | some f =>
        (s.svcReg (offCtx ctx + 0xC) (BitVec.ofNat 32 (2 ^ 31 + (f + n - 1) * 2 ^ 16 + f)), answerOk [BitVec.ofNat 32 f]))

/-- A shard numerics record in memory (R82): none when it cannot be read. -/
def State.numRecord (s : State) (a : Nat) : State × Option NumRecord :=
  let r := s.readMem a 16
  (r.1, r.2.map fun bs =>
    let w := wordsLE 4 bs
    { step := wordAt w 0, dmax := BitVec.ofNat 8 (fld (wordAt w 1) 24 8), zcnt := wordAt w 2, momFloor := wordAt w 3 })

/-- The records at the addresses: none when one cannot be read. -/
def State.numRecords (s : State) (as : List Nat) : State × Option (List NumRecord) :=
  as.foldr (fun a (q : State × Option (List NumRecord)) =>
    let r := q.1.numRecord a
    (r.1, match r.2, q.2 with
      | some x, some l => some (x :: l)
      | _, _ => none)) (s, some [])

/-- The largest DMAX of the records. -/
def maxDmax (rs : List NumRecord) : Int := rs.foldl (fun m r => max m r.dmax.toInt) (-128)

/-- LR_SIG × 2^−k: its exponent field moved; none where it leaves the normal range. -/
def moveLr (lr : Word) (k : Int) : Option Word :=
  let e : Int := (fld lr 23 8 : Int) - k
  if 1 ≤ e ∧ e ≤ 254 then some (setFld lr 23 8 e.toNat) else none

/-- The new UEXP, from −126 to +126, as the byte of a group record. -/
def moveUexp (u : BitVec 8) (k : Int) : Option Nat :=
  let v := u.toInt + k
  if -126 ≤ v ∧ v ≤ 126 then some (v % 256).toNat else none

/-- Deliver a rate pair to every owner of a shard of the group (R83): the modules of the job, this one among them. -/
def State.deliverPair (s : State) (group : Nat) (p : RatePair) : State :=
  let s := (s.changeGroup group 0 p []).1
  forEach (fun s (d : BitVec 24) => s.tell 4 d.toNat (groupMessage group 0 0 p [])) s s.svc.ranks

/-- What a combined DMAX does to the group (R84): nothing from −8 to +8 and at −128, a move of the pair with FROM_STEP two steps
on, or NUM_UEXP_LIMIT. A record of the group that cannot be read leaves it as it is. -/
def State.moveExponent (s : State) (group : Nat) (step : Word) (k : Int) : State :=
  if (-8 ≤ k ∧ k ≤ 8) ∨ k = -128 then s
  else
    let r := s.groupWords group
    match r.2 with
    | none => r.1
    | some g =>
      let u : BitVec 8 := BitVec.ofNat 8 (fld (wordAt g 7) 0 8)
      match moveLr (wordAt g 6) k, moveUexp u k with
      | some lr, some ux => r.1.deliverPair group (RatePair.of lr ux (step + 2))
      | _, _ =>
        r.1.report 0x654 2 3 none 0xFFFF [BitVec.ofNat 32 group, step, BitVec.ofInt 32 k, BitVec.ofInt 32 u.toInt]

/-- NUMERICS_SERVICE_STEP (R84): when the records of this module's shards and of the other modules' (`remote`) stand at one
step that has not been combined yet, they are combined. -/
def execNumericsServiceStep (group : Nat) (remote : List NumRecord) (s : State) : Host.Outcome State Fault Refusal :=
  match Sparse.get (fun _ => none) s.svc.groups group with
  | none => .next s
  | some g =>
    let q := s.numRecords g.recs
    match q.2.map (· ++ remote) with
    | none => .next q.1
    | some [] => .next q.1
    | some (r :: rs) =>
      if (rs.all fun x => x.step == r.step) = false ∨ g.last.map Prod.fst = some r.step then .next q.1
      else
        let all := r :: rs
        let k := maxDmax all
        let done : Word × Int × Nat × Nat :=
          (r.step, k, (all.map fun x => x.zcnt.toNat).sum, (all.map fun x => x.momFloor.toNat).sum)
        let s : State := { q.1 with svc := { q.1.svc with
          groups := Sparse.set (fun _ => none) q.1.svc.groups group (some { g with last := some done }) } }
        .next (s.moveExponent group r.step k)

/-! ## Power (R363) -/

/-- SET_CAP (R348, R351): committed by the procedure of R6; a value out of range or a bad complement is not, with an error record
(R187, R348) and PWR_REFUSED (R365). -/
def execSetCap (rq : SvcReq) (s : State) : Host.Outcome State Fault Refusal :=
  .next (s.serve rq 7 0 (fun _ => 8) fun s _ arg =>
    let w := fld (wordAt arg 0) 0 11
    let s := s.dropPend 0x655 offPwr
    if wordAt arg 1 ≠ ~~~ (wordAt arg 0) then (s.rwcFailed 0x655 offPwr (wordAt arg 0) (wordAt arg 1), answerNo svcBadArg (some 36))
    else if !capOk w then (s.refuseCap w, answerNo svcBadArg (some 32))
    else (s.commitSwCap w, answerOk []))

/-- SET_MODE: FREE takes effect at the next evaluation. -/
def execSetMode (rq : SvcReq) (s : State) : Host.Outcome State Fault Refusal :=
  .next (s.serve rq 7 1 (fun _ => 4) fun s _ arg =>
    (s.svcFld (offPwr + 0x10) 0 1 (fld (wordAt arg 0) 0 1), answerOk []))

/-- Every code of a phase-table entry is a divider code (R345). -/
def phaseOk (w : Word) : Bool := (List.range 8).all fun p => decide (fld w (4 * p) 4 ≤ 6)

/-- SET_PHASES: all the entries, or, where one is invalid, none: a code that is refused is recorded and counted as R15 and R365 have
it, though no entry has been written (DEDUCED, log 100). -/
def execSetPhases (rq : SvcReq) (s : State) : Host.Outcome State Fault Refusal :=
  .next (s.serve rq 7 2 (fun arg => 8 + 4 * min 16 (wordAt arg 1).toNat) fun s _ arg =>
    let first := (wordAt arg 0).toNat
    let n := (wordAt arg 1).toNat
    if 16 ≤ first then (s, answerNo svcBadArg (some 32))
    else if n = 0 ∨ 16 < n ∨ 16 < first + n then (s, answerNo svcBadArg (some 36))
    else
      match (List.range n).find? fun i => !phaseOk (wordAt arg (2 + i)) with
      | some i => (s.refusedFields (wordAt arg (2 + i)) (List.range 8), answerNo svcBadArg (some (40 + 4 * i)))
      | none => (forEach (fun (s : State) i => (s.dropPend 0x655 offPwr).writePhase (first + i) (wordAt arg (2 + i))) s (List.range n), answerOk []))

/-- READ_POWER. -/
def execReadPower (rq : SvcReq) (s : State) : Host.Outcome State Fault Refusal :=
  .next (s.serve rq 7 3 (argWords 0) fun s _ _ =>
    (s, answerOk ([0, 8, 0xC, 0x18, 0x14].map (fun x => s.reg (offPwr + x)) ++ (List.range 8).map fun p => s.reg (offPartStatus p))))

/-! ## The input relay (R338) -/

def State.stream (s : State) (k : Nat) : Option Stream := Sparse.get (fun _ => none) s.svc.streams k
def State.setStream (s : State) (k : Nat) (x : Option Stream) : State :=
  { s with svc := { s.svc with streams := Sparse.set (fun _ => none) s.svc.streams k x } }

/-- OPEN. -/
def execOpenStream (rq : SvcReq) (a : StreamArg) (s : State) : Host.Outcome State Fault Refusal :=
  .next (s.serve rq 8 0 (argWords (6 + 3 * a.nodes.length)) fun s ctx _ =>
    if !(s.ownsSpool ctx a.consumer && s.ownsSpool ctx a.release && s.ownsSpool ctx a.staging) then (s, answerNo svcPerm none)
    else if a.slots = 0 ∨ a.slotSize < 64 ∨ a.slotSize % 64 ≠ 0 ∨ a.base % 64 ≠ 0 ∨ a.nodes = []
        ∨ s.dramRange a.base (a.slots * a.slotSize) = false then (s, answerNo svcBadArg none)
    else
      let k := freshKey s.svc.streams
      let x : Stream := { ctx := ctx, arg := a, seqNo := 0, staged := spoolCount (s.spoolVal a.staging)
                          released := spoolCount (s.spoolVal a.release), freed := 0
                          headers := [] }
      (s.setStream k (some x), answerOk [BitVec.ofNat 32 k]))

/-- CLOSE: the last accepted batch was the last. -/
def execCloseStream (rq : SvcReq) (stream : Nat) (s : State) : Host.Outcome State Fault Refusal :=
  .next (s.serve rq 8 1 (argWords 1) fun s ctx _ =>
    match s.stream stream with
    | none => (s, answerNo svcBadArg none)
    | some x => if ownRes ctx x.ctx then (s.setStream stream none, answerOk []) else (s, answerNo svcPerm none))

/-- INPUT_BATCH_ARRIVAL (R338): the next batch in sequence order, once its header, which is written last, has come, and the staging
counter covers the batch; a poisoned staging counter ends the wait. The batch header is the last 64 bytes of its slot: sequence
number, length, CRC-32C of the batch, which stands at the slot's start (log 66). -/
def execInputBatchArrival (stream : Nat) (s : State) : Host.Outcome State Fault Refusal :=
  match s.stream stream with
  | none => .next s
  | some x =>
    let v := s.spoolVal x.arg.staging
    let slot := x.seqNo % x.arg.slots
    let base := x.arg.base + slot * x.arg.slotSize
    if spoolPoisoned v = false ∧ x.headers.contains slot = false then .next s
    else
      let h := s.readMem (base + x.arg.slotSize - 64) 64
      let w := wordsLE 16 (h.2.getD [])
      let len := (wordAt w 1).toNat
      let fits := h.2.isSome && decide (len ≤ x.arg.slotSize - 64)
      let count := spoolCount v
      if spoolPoisoned v = false ∧ count < x.staged + 64 + (if fits then len else 0) then .next h.1
      else
        let d := h.1.readMem base (if fits then len else 0)
        let good := match d.2 with
          | some bs => fits && !spoolPoisoned v && wordAt w 0 == BitVec.ofNat 32 x.seqNo && wordAt w 2 == crc32c bs
          | none => false
        let s := d.1.setStream stream (some { x with
          seqNo := x.seqNo + 1, staged := if fits then x.staged + 64 + len else count, headers := x.headers.filter (· != slot) })
        if good then .next (s.spoolAdd x.arg.consumer len)
        else
          .next ((s.spoolPoison x.arg.consumer).report (0x656 + stream % 2) 9 5 none 0xFFFF
            [BitVec.ofNat 32 stream, BitVec.ofNat 32 x.seqNo, wordAt w 0])

/-- A WRITE of `n` bytes at `a` that counts on the staging counter of a stream and reaches the end of a slot has brought that slot's
header (R338). -/
def State.headerCame (s : State) (id a n : Nat) : State :=
  { s with svc := { s.svc with streams := s.svc.streams.map fun p => (p.1, p.2.map fun x =>
      let e := a + n - x.arg.base
      if x.arg.staging = id ∧ x.arg.base ≤ a ∧ x.arg.slotSize ≠ 0 ∧ e % x.arg.slotSize = 0 ∧ e ≤ x.arg.slots * x.arg.slotSize ∧ n ≠ 0
      then { x with headers := x.headers ++ [e / x.arg.slotSize - 1] } else x) } }

/-- INPUT_SLOT_FREED (R338): the release counter shows one more freed slot; a credit goes to the data node that owns it. Slots fall to the
nodes in turn, and a node's credit word is written with the credits it has had (log 66). -/
def execInputSlotFreed (stream : Nat) (s : State) : Host.Outcome State Fault Refusal :=
  match s.stream stream with
  | none => .next s
  | some x =>
    let v := s.spoolVal x.arg.release
    if spoolPoisoned v ∨ spoolCount v ≤ x.released + x.freed then .next s
    else
      let n := x.arg.nodes.length
      let slot := x.freed % x.arg.slots
      let s := s.setStream stream (some { x with freed := x.freed + 1 })
      match x.arg.nodes[slot % n]? with
      | none => .next s
      | some (dev, lpn, off) =>
        if s.isCut dev.toNat then .next s
        else
          let bs := bytesLE 8 ((List.range (x.freed + 1)).filter fun k => k % x.arg.slots % n == slot % n).length
          let ws := (bs.zip (List.range 8)).map fun p => ({ off := off.toNat + p.2, mask := 0xFF, val := p.1 } : OffWrite)
          .next (s.issueWrites dev.toNat lpn.toNat x.ctx (.gondola (6 + stream % 2)) off.toNat ws).1

/-! ## Diagnostics (R330, R378) -/

/-- ENTER waits until no context but 0 has work on the module, and sets DIAG. -/
def execEnter (rq : SvcReq) (s : State) : Host.Outcome State Fault Refusal :=
  .next (s.serveWhen rq 9 0 (argWords 0) fun s _ _ =>
    if (List.range 64).any fun c => c != 0 && s.ctxWork c then (s, none) else (s.setSvc 3 true, some (answerOk [])))

/-- EXIT. -/
def execExit (rq : SvcReq) (s : State) : Host.Outcome State Fault Refusal :=
  .next (s.serve rq 9 1 (argWords 0) fun s _ _ => (s.setSvc 3 false, answerOk []))

/-- SELFTEST (R378): only while DIAG is set. The chip reset with its flags has been asked for once the header and the completion entry
are written. -/
def execSelftest (rq : SvcReq) (s : State) : Host.Outcome State Fault Refusal :=
  .next (s.serve rq 9 2 (argWords 1) fun s _ arg =>
    if !s.diag then (s, answerNo svcPerm none)
    else
      let f := wordAt arg 0
      let s := if bitAt f 1 then s.modStart Start.clearLevels else s
      ((({ s with resets := { s.resets with flags := f &&& 7 } } : State).askChip .selfTest), answerOk []))

end Sys2Proof.Machine
end

