-- ==== Sys2Proof/Machine/Mail.lean ====
section
/-! DEFINITION. Fabric WRITEs, and the service messages that some of them are (spec/13, R279, R281; spec/15, R335): what the gondola does
with a message from another module of the job (its format is log 92). -/
namespace Sys2Proof.Machine

/-- A change of a group's record that a message asks for (R83, R267): applied, and answered with its status. -/
def State.heardChange (s : State) (src : Nat) (m : List Word) : State :=
  let p : RatePair := { lr := wordAt m 2, ux := wordAt m 3, lrC := wordAt m 4, uxC := wordAt m 5, from_ := wordAt m 6 }
  let r := s.changeGroup (fld (wordAt m 1) 0 12) (fld (wordAt m 1) 30 2) p (m.drop 16)
  r.1.tell 0 src [2, BitVec.ofNat 32 r.2, wordAt m 7]

/-- A message is acted on by its kind: 1 asks for a change of a group, 3 is the new epoch (R336); the others wait in the mailbox for
the coordinators: 2 answers a change, 4 tells a set of lost modules, 5 a node's index. -/
def State.hear (s : State) (src : Nat) (m : List Word) : State :=
  if wordAt m 0 = 1 then s.heardChange src m
  else if wordAt m 0 = 3 then s.newEpoch ((wordAt m 1).setWidth 8)
  else { s with svc := { s.svc with inbox := (src, m) :: s.svc.inbox } }

/-- WRITE (R279, R281, R173): to memory, with the batch headers that it brings to input streams (R338), or into the peer mailbox
(R335). -/
def execWrite (port : Nat) (p : Packet) (s : State) : Host.Outcome State Fault Refusal :=
  if notFor p 1 then .next s
  else
    .next (s.receive port p fun s =>
      match (if pMail p then mailAddr p p.data.length else s.holderAddr p p.data.length) with
      | none => s.respond p 1 []
      | some a =>
        let s := (s.performWrite p a).respond p 0 []
        if pMail p then s.hear p.src.toNat (wordsLE (p.data.length / 4) p.data)
        else if pSpv p then s.headerCame (pId p) a p.data.length else s)

end Sys2Proof.Machine
end

