-- ==== Sys2Proof/Machine/Scrub.lean ====
section
/-! DEFINITION. What the memory controllers do by themselves (spec/08, R170, R174). -/
namespace Sys2Proof.Machine

/-- First address of the region that a controller serves: LMCs 0 to 31, BMCs 32 to 47 (R167). -/
def mcBase (mc : Nat) : Nat :=
  if mc < 32 then 2 ^ 39 * (mc / 16) else 0x10000000000 + 2 ^ 34 * ((mc - 32) / 8)

/-- The controller's first block at or above `a` (R167): 256-byte granules go round the channels of the region, so it lies within
one round; none beyond its last block. -/
def State.nextBlock (s : State) (mc a : Nat) : Option Nat :=
  if s.mcOf a = some mc then some (a / 64 * 64)
  else ((List.range 65).map fun i => (a / 256 + 1 + i) * 256).find? fun g => s.mcOf g == some mc

/-- The memory that a controller serves is in self-refresh (R170, R174, R407). -/
def State.inSelfRefresh (s : State) (mc : Nat) : Bool :=
  s.standby || (if mc < 32 then s.start.selfL else s.start.selfB)

/-- SCRUB_READ (R174): controller `mc` reads its next block with the check and retry of R172; the last block of its memory completes
a pass. The order is ascending addresses (log 80). Scrubbing stands still in self-refresh, and goes on where it stopped. -/
def execScrubRead (mc : Nat) (s : State) : Host.Outcome State Fault Refusal :=
  let from_ := max (Sparse.get (fun _ => 0) s.scrub mc) (mcBase mc)
  match s.nextBlock mc from_ with
  | none => .next s
  | some b =>
    if bitAt (s.reg (offMc mc + 0x10)) 16 = false ∨ s.inSelfRefresh mc = true ∨ s.powered = false then .next s
    else
      let s := s.crcCheck b
      match s.nextBlock mc (b + 64) with
      | some n => .next { s with scrub := Sparse.set (fun _ => 0) s.scrub mc n }
      | none => .next ({ s with scrub := Sparse.set (fun _ => 0) s.scrub mc 0 }.count (offMc mc + 0xC) 1)

/-- LPDDR6_RETRAIN (R170): at most once every 100 ms per channel in service; accesses wait meanwhile, and nothing else
changes. -/
def execLpddr6Retrain (die ch : Nat) (s : State) : Host.Outcome State Fault Refusal :=
  let k := 64 * die + ch
  let last := Sparse.get (fun _ => 0) s.retrained k
  if !(s.lpList die).contains ch || decide (2 ≤ die) || s.standby || decide (last ≠ 0 ∧ s.lcount.toNat + 1 - last < 10000000) then .next s
  else .next { s with retrained := Sparse.set (fun _ => 0) s.retrained k (s.lcount.toNat + 1) }

end Sys2Proof.Machine
end

