-- ==== Sys2Proof/Machine/Dispatch.lean ====
section
/-! DEFINITION. One arm per row of spec/opcode_table.json: the command's effect on everything but the queue. -/
namespace Sys2Proof.Machine

def exec (i : Instr) (s : State) : Host.Outcome State Fault Refusal :=
  match i with
  | .add sg f => Sys2Proof.Machine.execAdd sg f s
  | .sub sg f => Sys2Proof.Machine.execSub sg f s
  | .mullo sg f => Sys2Proof.Machine.execMullo sg f s
  | .mulhi sg f => Sys2Proof.Machine.execMulhi sg f s
  | .muladd sg f => Sys2Proof.Machine.execMuladd sg f s
  | .minmax sg f => Sys2Proof.Machine.execMinmax sg f s
  | .logic sg f => Sys2Proof.Machine.execLogic sg f s
  | .shift sg f => Sys2Proof.Machine.execShift sg f s
  | .field sg f => Sys2Proof.Machine.execField sg f s
  | .bitop sg f => Sys2Proof.Machine.execBitop sg f s
  | .cmp sg f => Sys2Proof.Machine.execCmp sg f s
  | .pick sg f => Sys2Proof.Machine.execPick sg f s
  | .mov sg f => Sys2Proof.Machine.execMov sg f s
  | .setk sg f => Sys2Proof.Machine.execSetk sg f s
  | .addk sg f => Sys2Proof.Machine.execAddk sg f s
  | .addF sg f => Sys2Proof.Machine.execAddF sg f s
  | .mulF sg f => Sys2Proof.Machine.execMulF sg f s
  | .fmaF sg f => Sys2Proof.Machine.execFmaF sg f s
  | .minF sg f => Sys2Proof.Machine.execMinF sg f s
  | .maxF sg f => Sys2Proof.Machine.execMaxF sg f s
  | .cmpF sg f => Sys2Proof.Machine.execCmpF sg f s
  | .adderrF sg f => Sys2Proof.Machine.execAdderrF sg f s
  | .mulerrF sg f => Sys2Proof.Machine.execMulerrF sg f s
  | .tointF sg f => Sys2Proof.Machine.execTointF sg f s
  | .toflt sg f => Sys2Proof.Machine.execToflt sg f s
  | .pow2F sg f => Sys2Proof.Machine.execPow2F sg f s
  | .log2F sg f => Sys2Proof.Machine.execLog2F sg f s
  | .recipF sg f => Sys2Proof.Machine.execRecipF sg f s
  | .rsqrtF sg f => Sys2Proof.Machine.execRsqrtF sg f s
  | .widen sg f => Sys2Proof.Machine.execWiden sg f s
  | .narrow sg f => Sys2Proof.Machine.execNarrow sg f s
  | .narrowb sg f => Sys2Proof.Machine.execNarrowb sg f s
  | .ld sg f => Sys2Proof.Machine.execLd sg f s
  | .st sg f => Sys2Proof.Machine.execSt sg f s
  | .stN sg f => Sys2Proof.Machine.execStN sg f s
  | .accN sg f => Sys2Proof.Machine.execAccN sg f s
  | .cinv sg f => Sys2Proof.Machine.execCinv sg f s
  | .cwb sg f => Sys2Proof.Machine.execCwb sg f s
  | .aop sg f => Sys2Proof.Machine.execAop sg f s
  | .jmp sg f => Sys2Proof.Machine.execJmp sg f s
  | .jmpr sg f => Sys2Proof.Machine.execJmpr sg f s
  | .call sg f => Sys2Proof.Machine.execCall sg f s
  | .endThread sg f => Sys2Proof.Machine.execEndThread sg f s
  | .cede sg f => Sys2Proof.Machine.execCede sg f s
  | .nop sg f => Sys2Proof.Machine.execNop sg f s
  | .pred sg f => Sys2Proof.Machine.execPred sg f s
  | .tally sg f => Sys2Proof.Machine.execTally sg f s
  | .lxch sg f => Sys2Proof.Machine.execLxch sg f s
  | .rdl sg f => Sys2Proof.Machine.execRdl sg f s
  | .pack sg f => Sys2Proof.Machine.execPack sg f s
  | .rally sg f => Sys2Proof.Machine.execRally sg f s
  | .barrierComplete core blk train id => Sys2Proof.Machine.execBarrierComplete core blk train id s
  | .arrIssue sg f => Sys2Proof.Machine.execArrIssue sg f s
  | .hset sg f => Sys2Proof.Machine.execHset sg f s
  | .hget sg f => Sys2Proof.Machine.execHget sg f s
  | .sbWait sg f => Sys2Proof.Machine.execSbWait sg f s
  | .sbWaitReady sg => Sys2Proof.Machine.execSbWaitReady sg s
  | .sbTest sg f => Sys2Proof.Machine.execSbTest sg f s
  | .hclr sg f => Sys2Proof.Machine.execHclr sg f s
  | .strIssue sg f => Sys2Proof.Machine.execStrIssue sg f s
  | .splRd sg f => Sys2Proof.Machine.execSplRd sg f s
  | .splWait sg f => Sys2Proof.Machine.execSplWait sg f s
  | .splWaitSatisfied sg => Sys2Proof.Machine.execSplWaitSatisfied sg s
  | .splAdd sg f => Sys2Proof.Machine.execSplAdd sg f s
  | .splSet sg f => Sys2Proof.Machine.execSplSet sg f s
  | .srd sg f => Sys2Proof.Machine.execSrd sg f s
  | .fence sg f => Sys2Proof.Machine.execFence sg f s
  | .arrayOpStart core arr held => Sys2Proof.Machine.execArrayOpStart core arr held s
  | .arrayReconfigure core arr => Sys2Proof.Machine.execArrayReconfigure core arr s
  | .tileConvertDone core arr cyc => Sys2Proof.Machine.execTileConvertDone core arr cyc s
  | .tileRefeed core arr => Sys2Proof.Machine.execTileRefeed core arr s
  | .replayStageCopy core arr => Sys2Proof.Machine.execReplayStageCopy core arr s
  | .sparseBadlist core => Sys2Proof.Machine.execSparseBadlist core s
  | .arrayOpComplete core arr cyc => Sys2Proof.Machine.execArrayOpComplete core arr cyc s
  | .drogueRecompute core slot arr => Sys2Proof.Machine.execDrogueRecompute core slot arr s
  | .drogueCompare core slot => Sys2Proof.Machine.execDrogueCompare core slot s
  | .copyStart core id => Sys2Proof.Machine.execCopyStart core id s
  | .copySpoolStep core id bytes => Sys2Proof.Machine.execCopySpoolStep core id bytes s
  | .scatterBadlist core id => Sys2Proof.Machine.execScatterBadlist core id s
  | .copyComplete core id => Sys2Proof.Machine.execCopyComplete core id s
  | .allocationRelease core blk => Sys2Proof.Machine.execAllocationRelease core blk s
  | .blockPlace launch cores => Sys2Proof.Machine.execBlockPlace launch cores s
  | .splitChange core split => Sys2Proof.Machine.execSplitChange core split s
  | .coreIdle core => Sys2Proof.Machine.execCoreIdle core s
  | .partitionSleep p => Sys2Proof.Machine.execPartitionSleep p s
  | .partitionWake p => Sys2Proof.Machine.execPartitionWake p s
  | .scrubRead mc => Sys2Proof.Machine.execScrubRead mc s
  | .lpddr6Retrain die ch => Sys2Proof.Machine.execLpddr6Retrain die ch s
  | .spoolFileWrite addr data => Sys2Proof.Machine.execSpoolFileWrite addr data s
  | .setupRegisterWrite off v => Sys2Proof.Machine.execSetupRegisterWrite off v s
  | .rwcValueWrite off v => Sys2Proof.Machine.execRwcValueWrite off v s
  | .rwcComplementWrite off v => Sys2Proof.Machine.execRwcComplementWrite off v s
  | .broadcastWrite x v => Sys2Proof.Machine.execBroadcastWrite x v s
  | .groupApertureWrite x v => Sys2Proof.Machine.execGroupApertureWrite x v s
  | .lcountLoRead rq => Sys2Proof.Machine.execLcountLoRead rq s
  | .wtInv v => Sys2Proof.Machine.execWtInv v s
  | .famapInv v => Sys2Proof.Machine.execFamapInv v s
  | .ntInv v => Sys2Proof.Machine.execNtInv v s
  | .utInv v => Sys2Proof.Machine.execUtInv v s
  | .invalidationComplete kind => Sys2Proof.Machine.execInvalidationComplete kind s
  | .partCtrlReset p => Sys2Proof.Machine.execPartCtrlReset p s
  | .resetCtrlChip => Sys2Proof.Machine.execResetCtrlChip s
  | .errBaseWrite v => Sys2Proof.Machine.execErrBaseWrite v s
  | .errRdWrite v => Sys2Proof.Machine.execErrRdWrite v s
  | .errFatalClear => Sys2Proof.Machine.execErrFatalClear s
  | .cvtCountClearSat core => Sys2Proof.Machine.execCvtCountClearSat core s
  | .cvtCountClearInf core => Sys2Proof.Machine.execCvtCountClearInf core s
  | .cvtCountClearNan core => Sys2Proof.Machine.execCvtCountClearNan core s
  | .arrCountClearF core => Sys2Proof.Machine.execArrCountClearF core s
  | .arrCountClearD core => Sys2Proof.Machine.execArrCountClearD core s
  | .arrCountClearW core => Sys2Proof.Machine.execArrCountClearW core s
  | .coreCountClearRepack core => Sys2Proof.Machine.execCoreCountClearRepack core s
  | .fuCountClearDone p => Sys2Proof.Machine.execFuCountClearDone p s
  | .mcCountClearRetry mc => Sys2Proof.Machine.execMcCountClearRetry mc s
  | .mcCountClearPois mc => Sys2Proof.Machine.execMcCountClearPois mc s
  | .mcCountClearPread mc => Sys2Proof.Machine.execMcCountClearPread mc s
  | .mcCountClearScrub mc => Sys2Proof.Machine.execMcCountClearScrub mc s
  | .raCountClearAcc mc => Sys2Proof.Machine.execRaCountClearAcc mc s
  | .raCountClearPairs mc => Sys2Proof.Machine.execRaCountClearPairs mc s
  | .raCountClearSpill mc => Sys2Proof.Machine.execRaCountClearSpill mc s
  | .raCountClearSat mc => Sys2Proof.Machine.execRaCountClearSat mc s
  | .raCountClearStale mc => Sys2Proof.Machine.execRaCountClearStale mc s
  | .raCountClearExtra mc => Sys2Proof.Machine.execRaCountClearExtra mc s
  | .raCountClearDropped mc => Sys2Proof.Machine.execRaCountClearDropped mc s
  | .uuCountClearParams mc => Sys2Proof.Machine.execUuCountClearParams mc s
  | .uuCountClearFrozen mc => Sys2Proof.Machine.execUuCountClearFrozen mc s
  | .uuCountClearPblocks mc => Sys2Proof.Machine.execUuCountClearPblocks mc s
  | .uuCountClearMclamp mc => Sys2Proof.Machine.execUuCountClearMclamp mc s
  | .uuCountClearShards mc => Sys2Proof.Machine.execUuCountClearShards mc s
  | .uuCountClearSkew mc => Sys2Proof.Machine.execUuCountClearSkew mc s
  | .uuCountClearBusy mc => Sys2Proof.Machine.execUuCountClearBusy mc s
  | .fabCountClearCrcErr port => Sys2Proof.Machine.execFabCountClearCrcErr port s
  | .fabCountClearResend port => Sys2Proof.Machine.execFabCountClearResend port s
  | .fabCountClearNarrow port => Sys2Proof.Machine.execFabCountClearNarrow port s
  | .fabCountClearLoss port => Sys2Proof.Machine.execFabCountClearLoss port s
  | .fabCountClearDrop port => Sys2Proof.Machine.execFabCountClearDrop port s
  | .snCountClearCrcErr => Sys2Proof.Machine.execSnCountClearCrcErr s
  | .snCountClearResend => Sys2Proof.Machine.execSnCountClearResend s
  | .snCountClearNarrow => Sys2Proof.Machine.execSnCountClearNarrow s
  | .snCountClearLoss => Sys2Proof.Machine.execSnCountClearLoss s
  | .snCountClearDb => Sys2Proof.Machine.execSnCountClearDb s
  | .snCountClearDbPoll => Sys2Proof.Machine.execSnCountClearDbPoll s
  | .pwrCountClearPartition => Sys2Proof.Machine.execPwrCountClearPartition s
  | .pwrCountClearModule => Sys2Proof.Machine.execPwrCountClearModule s
  | .portRetrain port => Sys2Proof.Machine.execPortRetrain port s
  | .ringStart ring => Sys2Proof.Machine.execRingStart ring s
  | .ringStop ring => Sys2Proof.Machine.execRingStop ring s
  | .ringResume ring => Sys2Proof.Machine.execRingResume ring s
  | .ringTailWrite ring v => Sys2Proof.Machine.execRingTailWrite ring v s
  | .doorbell ring v => Sys2Proof.Machine.execDoorbell ring v s
  | .doorbellPoll ring => Sys2Proof.Machine.execDoorbellPoll ring s
  | .hreadResponse tag status data => Sys2Proof.Machine.execHreadResponse tag status data s
  | .mread tag off => Sys2Proof.Machine.execMread tag off s
  | .mwrite off v => Sys2Proof.Machine.execMwrite off v s
  | .descriptorFetch ring n => Sys2Proof.Machine.execDescriptorFetch ring n s
  | .descriptorRefetch ring => Sys2Proof.Machine.execDescriptorRefetch ring s
  | .launch ring => Sys2Proof.Machine.execLaunch ring s
  | .launchComplete launch => Sys2Proof.Machine.execLaunchComplete launch s
  | .intrHoldExpiry vec => Sys2Proof.Machine.execIntrHoldExpiry vec s
  | .copy ring => Sys2Proof.Machine.execCopy ring s
  | .fill ring => Sys2Proof.Machine.execFill ring s
  | .linkCopyComplete ring seq => Sys2Proof.Machine.execLinkCopyComplete ring seq s
  | .hint ring => Sys2Proof.Machine.execHint ring s
  | .ballastGuardEnd p => Sys2Proof.Machine.execBallastGuardEnd p s
  | .phase ring => Sys2Proof.Machine.execPhase ring s
  | .spoolWait ring => Sys2Proof.Machine.execSpoolWait ring s
  | .spoolWaitSatisfied ring => Sys2Proof.Machine.execSpoolWaitSatisfied ring s
  | .spoolSignal ring => Sys2Proof.Machine.execSpoolSignal ring s
  | .ringFence ring => Sys2Proof.Machine.execRingFence ring s
  | .updateGroupRate ring remote => Sys2Proof.Machine.execUpdateGroupRate ring remote s
  | .updateGroupSet ring remote => Sys2Proof.Machine.execUpdateGroupSet ring remote s
  | .updateGroupArm ring remote => Sys2Proof.Machine.execUpdateGroupArm ring remote s
  | .sornalLinkLoss => Sys2Proof.Machine.execSornalLinkLoss s
  | .flitReceive lk flit => Sys2Proof.Machine.execFlitReceive lk flit s
  | .resendTimeout lk => Sys2Proof.Machine.execResendTimeout lk s
  | .laneBad lk lane => Sys2Proof.Machine.execLaneBad lk lane s
  | .linkLoss lk => Sys2Proof.Machine.execLinkLoss lk s
  | .portSignalDetect lk lanes => Sys2Proof.Machine.execPortSignalDetect lk lanes s
  | .detectTimeout lk => Sys2Proof.Machine.execDetectTimeout lk s
  | .equaliseDone lk lanes => Sys2Proof.Machine.execEqualiseDone lk lanes s
  | .widthAgreed lk lanes port serial => Sys2Proof.Machine.execWidthAgreed lk lanes port serial s
  | .initReady lk => Sys2Proof.Machine.execInitReady lk s
  | .lostRetry lk => Sys2Proof.Machine.execLostRetry lk s
  | .downRetry lk => Sys2Proof.Machine.execDownRetry lk s
  | .write port p => Sys2Proof.Machine.execWrite port p s
  | .read port p => Sys2Proof.Machine.execRead port p s
  | .accumulate port p => Sys2Proof.Machine.execAccumulate port p s
  | .pairAccumulate src => Sys2Proof.Machine.execPairAccumulate src s
  | .atomic port p => Sys2Proof.Machine.execAtomic port p s
  | .spoolNotify port p => Sys2Proof.Machine.execSpoolNotify port p s
  | .fabricResponse port p => Sys2Proof.Machine.execFabricResponse port p s
  | .lineCut port p => Sys2Proof.Machine.execLineCut port p s
  | .fabricRequestTimeout tag => Sys2Proof.Machine.execFabricRequestTimeout tag s
  | .leafFire idx => Sys2Proof.Machine.execLeafFire idx s
  | .castFire idx => Sys2Proof.Machine.execCastFire idx s
  | .factorFire idx => Sys2Proof.Machine.execFactorFire idx s
  | .gram p => Sys2Proof.Machine.execGram p s
  | .ortho p => Sys2Proof.Machine.execOrtho p s
  | .factorComplete p => Sys2Proof.Machine.execFactorComplete p s
  | .shardFire idx => Sys2Proof.Machine.execShardFire idx s
  | .shardUpdateComplete idx => Sys2Proof.Machine.execShardUpdateComplete idx s
  | .checkpointFire ck => Sys2Proof.Machine.execCheckpointFire ck s
  | .recoveryStart => Sys2Proof.Machine.execRecoveryStart s
  | .recoveryRankTaken d => Sys2Proof.Machine.execRecoveryRankTaken d s
  | .numericsServiceStep group remote => Sys2Proof.Machine.execNumericsServiceStep group remote s
  | .inputBatchArrival stream => Sys2Proof.Machine.execInputBatchArrival stream s
  | .inputSlotFreed stream => Sys2Proof.Machine.execInputSlotFreed stream s
  | .create rq a => Sys2Proof.Machine.execCreate rq a s
  | .destroy rq ctx => Sys2Proof.Machine.execDestroy rq ctx s
  | .bindRing rq ring ctx => Sys2Proof.Machine.execBindRing rq ring ctx s
  | .unbindRing rq ring => Sys2Proof.Machine.execUnbindRing rq ring s
  | .setWindow rq ctx idx words => Sys2Proof.Machine.execSetWindow rq ctx idx words s
  | .grantSpool rq ctx first last => Sys2Proof.Machine.execGrantSpool rq ctx first last s
  | .place rq a => Sys2Proof.Machine.execPlace rq a s
  | .jobRelease rq => Sys2Proof.Machine.execJobRelease rq s
  | .build rq a => Sys2Proof.Machine.execBuild rq a s
  | .collectiveArm rq set => Sys2Proof.Machine.execCollectiveArm rq set s
  | .disarm rq set => Sys2Proof.Machine.execDisarm rq set s
  | .configure rq a => Sys2Proof.Machine.execConfigure rq a s
  | .checkpointStop rq ck => Sys2Proof.Machine.execCheckpointStop rq ck s
  | .query rq ck => Sys2Proof.Machine.execQuery rq ck s
  | .recoveryStatus rq => Sys2Proof.Machine.execRecoveryStatus rq s
  | .recoveryWait rq spare => Sys2Proof.Machine.execRecoveryWait rq spare s
  | .abandon rq => Sys2Proof.Machine.execAbandon rq s
  | .numericsEnable rq group recs => Sys2Proof.Machine.execNumericsEnable rq group recs s
  | .numericsDisable rq group => Sys2Proof.Machine.execNumericsDisable rq group s
  | .drogue rq tag cfg => Sys2Proof.Machine.execDrogue rq tag cfg s
  | .tags rq => Sys2Proof.Machine.execTags rq s
  | .setCap rq => Sys2Proof.Machine.execSetCap rq s
  | .capDeferralExpiry => Sys2Proof.Machine.execCapDeferralExpiry s
  | .setMode rq => Sys2Proof.Machine.execSetMode rq s
  | .setPhases rq => Sys2Proof.Machine.execSetPhases rq s
  | .readPower rq => Sys2Proof.Machine.execReadPower rq s
  | .openStream rq a => Sys2Proof.Machine.execOpenStream rq a s
  | .closeStream rq stream => Sys2Proof.Machine.execCloseStream rq stream s
  | .enter rq => Sys2Proof.Machine.execEnter rq s
  | .exit rq => Sys2Proof.Machine.execExit rq s
  | .selftest rq => Sys2Proof.Machine.execSelftest rq s
  | .powerEvaluation m => Sys2Proof.Machine.execPowerEvaluation m s
  | .dividerChange p => Sys2Proof.Machine.execDividerChange p s
  | .railSettled p => Sys2Proof.Machine.execRailSettled p s
  | .telemetryWindow e m => Sys2Proof.Machine.execTelemetryWindow e m s
  | .droopWarning p mv => Sys2Proof.Machine.execDroopWarning p mv s
  | .droopHoldExpiry p => Sys2Proof.Machine.execDroopHoldExpiry p s
  | .droopReset p mv => Sys2Proof.Machine.execDroopReset p mv s
  | .sensorSample temps others => Sys2Proof.Machine.execSensorSample temps others s
  | .engineHang unit waited => Sys2Proof.Machine.execEngineHang unit waited s
  | .escalationTimeout unit => Sys2Proof.Machine.execEscalationTimeout unit s
  | .waitMonitorExpiry w waited => Sys2Proof.Machine.execWaitMonitorExpiry w waited s
  | .contextReset ctx => Sys2Proof.Machine.execContextReset ctx s
  | .engineReset unit => Sys2Proof.Machine.execEngineReset unit s
  | .partitionReset p => Sys2Proof.Machine.execPartitionReset p s
  | .chipReset reason straps => Sys2Proof.Machine.execChipReset reason straps s
  | .powerCycleRequest => Sys2Proof.Machine.execPowerCycleRequest s
  | .watchdogExpiry sc => Sys2Proof.Machine.execWatchdogExpiry sc s
  | .errorRecordWrite src => Sys2Proof.Machine.execErrorRecordWrite src s
  | .coldStart straps => Sys2Proof.Machine.execColdStart straps s
  | .stepTimeLimit => Sys2Proof.Machine.execStepTimeLimit s
  | .restart => Sys2Proof.Machine.execRestart s
  | .loadImage => Sys2Proof.Machine.execLoadImage s
  | .persistImage => Sys2Proof.Machine.execPersistImage s
  | .loadRecord => Sys2Proof.Machine.execLoadRecord s
  | .clearFallbacks => Sys2Proof.Machine.execClearFallbacks s
  | .hold => Sys2Proof.Machine.execHold s
  | .release => Sys2Proof.Machine.execRelease s
  | .getVersion tr req => Sys2Proof.Machine.execGetVersion tr req s
  | .getCapabilities tr req => Sys2Proof.Machine.execGetCapabilities tr req s
  | .negotiateAlgorithms tr req => Sys2Proof.Machine.execNegotiateAlgorithms tr req s
  | .getDigests tr req => Sys2Proof.Machine.execGetDigests tr req s
  | .getCertificate tr req => Sys2Proof.Machine.execGetCertificate tr req s
  | .challenge tr req => Sys2Proof.Machine.execChallenge tr req s
  | .getMeasurements tr req => Sys2Proof.Machine.execGetMeasurements tr req s
  | .unsupportedRequest tr req => Sys2Proof.Machine.execUnsupportedRequest tr req s
  | .progress path => Sys2Proof.Machine.execProgress path s
  | .modStatus path => Sys2Proof.Machine.execModStatus path s
  | .lastResult path => Sys2Proof.Machine.execLastResult path s
  | .trayCap path data pecOk => Sys2Proof.Machine.execTrayCap path data pecOk s
  | .capRead path => Sys2Proof.Machine.execCapRead path s
  | .powerRead path vin iin => Sys2Proof.Machine.execPowerRead path vin iin s
  | .senseMap path => Sys2Proof.Machine.execSenseMap path s
  | .standby path data pecOk => Sys2Proof.Machine.execStandby path data pecOk s
  | .alertClear path data pecOk => Sys2Proof.Machine.execAlertClear path data pecOk s
  | .serial path => Sys2Proof.Machine.execSerial path s
  | .mgmtBusStuck => Sys2Proof.Machine.execMgmtBusStuck s
  | .mgmtBusRestored => Sys2Proof.Machine.execMgmtBusRestored s
  | .smbclkTimeout => Sys2Proof.Machine.execSmbclkTimeout s
  | .resetPin => Sys2Proof.Machine.execResetPin s
  | .inputTurnOff => Sys2Proof.Machine.execInputTurnOff s
  | .senseOpen pair => Sys2Proof.Machine.execSenseOpen pair s
  | .senseRestored pair => Sys2Proof.Machine.execSenseRestored pair s
  | .refclkLoss => Sys2Proof.Machine.execRefclkLoss s
  | .resetPinRelease => Sys2Proof.Machine.execResetPinRelease s
  | .selfTestStepEnd r => Sys2Proof.Machine.execSelfTestStepEnd r s
  | .undefinedInstruction sg w => Sys2Proof.Machine.execUndefinedInstruction sg w s
  | .vendorDefinedMessageSupport tr => Sys2Proof.Machine.execVendorDefinedMessageSupport tr s

end Sys2Proof.Machine
end

