-- ==== Sys2Proof/Safety.lean ====
section
/-! DEFINITION. A safe run of the block: every step of it answers a next state. And the terms in which statements about thread
instructions are made: the sub-group that issues, and what an instruction that writes registers leaves alone. -/
namespace Sys2Proof

/-- No fault and no refusal in `k` steps from `s`. -/
def SafeFor (k : Nat) (s : Machine.State) : Prop := ∃ t, Host.Core.run core k s = .next t

namespace Machine

/-- The sub-group that issues when nothing stops the instruction before its own effect, and the state after its fetch and the read
of its registers: the sub-group stands, can issue, and it is its turn (R118, R126), its fetch translates (R132), its
operands are encoded as the opcode allows (R126, R130 to R134), none of them waits for another module (R136), a lane takes
part (R135), and no source register has a double-bit error (R176). -/
def State.issuing (s : State) (sg : SgRef) (gf : BitVec 4) (uni : Bool) (us : List Use) : Option (At × State) :=
  match sg.partner, s.at? sg.core sg.blk sg.grp sg.lane gf with
  | none, some a =>
    match s.translate a.core a.b.ctx a.sub.pc.toNat .fetch with
    | (s1, .ok _) =>
      if usesOk a.b.regs uni us = true ∧ s1.interlocked a us = false ∧ a.m ≠ 0 ∧ (s1.regEcc a us).2 = false then
        some (a, (s1.regEcc a us).1)
      else none
    | _ => none
  | _, _ => none

/-- The issuing group as a state holds it. -/
def At.groupIn (a : At) (s : State) : Group := s.group a.core a.blk a.grp

/-- Nothing but cores differs. -/
def OnlyCores (s t : State) : Prop := t = { s with cores := t.cores }

/-- `t` differs from `s` at most in memory, integrity, registers, the recorder, the translation caches with their errors (and
the counts of those corrected), and the draw number: what reading tables, checking blocks and reporting can change. -/
def State.FetchFrame (s t : State) : Prop :=
  t = { s with mem := t.mem, lost := t.lost, poison := t.poison, defects := t.defects, crcOff := t.crcOff, setup := t.setup
               keeper := t.keeper, err := t.err, wcache := t.wcache, fcache := t.fcache, wcacheBad := t.wcacheBad
               fcacheBad := t.fcacheBad, eccFixed := t.eccFixed, freeCtr := t.freeCtr }

/-- `t` differs from `s` in cores and in what issuing an instruction with operands `us` itself changes: the scheduler of the core
goes on behind the sub-group (R118), the thread engine has made progress (R395), and a value that was still to come, before the
instruction (`old`), for a u register that it writes is not wanted any more (R131). -/
def At.OnlyIssuedAfter (a : At) (us : List Use) (old s t : State) : Prop :=
  t = { s with cores := t.cores, reqs := (a.supersede old s us).reqs, progress := (s.progressed (.thread a.core)).progress } ∧
    (t.core a.core).turn = a.key + 1

/-- The same of an instruction that asks no other module. -/
def At.OnlyIssued (a : At) (us : List Use) (s t : State) : Prop := a.OnlyIssuedAfter us s s t

/-- The same where free values may have been drawn: the draw number differs too. -/
def At.OnlyIssuedDraws (a : At) (us : List Use) (s t : State) : Prop :=
  t = { s with cores := t.cores, freeCtr := t.freeCtr, reqs := (a.supersede s s us).reqs
               progress := (s.progressed (.thread a.core)).progress } ∧
    (t.core a.core).turn = a.key + 1

/-- Every group but the issuing one is as before, and so is everything else of the block it lies in and of the cores, but for the
scheduler's place in its round on the issuing core. -/
structure At.OtherGroupsKept (a : At) (s t : State) : Prop where
  groups : ∀ c b g, (c, b, g) ≠ (a.core, a.blk, a.grp) → t.group c b g = s.group c b g
  cores : ∀ c, t.core c = { s.core c with blocks := (t.core c).blocks, turn := (t.core c).turn }
  turns : ∀ c, c ≠ a.core → (t.core c).turn = (s.core c).turn
  blocks : ∀ c b, (t.block c b).map (fun x => { x with groups := [] }) = (s.block c b).map fun x => { x with groups := [] }

/-- What writing operand `d` of `n` registers in some lanes does, `vals` giving each lane its value: a t destination takes, in
each of those lanes, the value modulo its width (R130); a u destination takes the value on which the lanes agree; every
other register of the group, its predicates, handles and LSTAT are as before, and so is every other group. -/
structure At.WroteRegs (a : At) (s t : State) (d : BitVec 9) (n : Nat) (vals : List (Nat × Nat)) : Prop where
  inT : (fileOf d).1 = .t → ∀ p ∈ vals, (a.groupIn t).val d p.1 n = p.2 % 2 ^ (32 * n)
  inU : (fileOf d).1 = .u → vals ≠ [] → ∀ k, (∀ p ∈ vals, p.2 = k) → ∀ i, (a.groupIn t).val d i n = k % 2 ^ (32 * n)
  tKept : ∀ i < 32, ∀ k, ¬ ((fileOf d).1 = .t ∧ i ∈ vals.map Prod.fst ∧ (fileOf d).2 ≤ k ∧ k < (fileOf d).2 + n) →
    (a.groupIn t).treg i k = (a.groupIn s).treg i k
  uKept : ∀ k, ¬ ((fileOf d).1 = .u ∧ (fileOf d).2 ≤ k ∧ k < (fileOf d).2 + n) →
    (a.groupIn t).ureg k = (a.groupIn s).ureg k
  pKept : (a.groupIn t).p = (a.groupIn s).p
  hKept : (a.groupIn t).h = (a.groupIn s).h
  lstatKept : (a.groupIn t).lstat = (a.groupIn s).lstat
  others : a.OtherGroupsKept s t

/-- What writing predicate operand `d` in some lanes does: the predicate named takes each lane's value, p0 and ZERO discard
it (R129); every other predicate and register of the group, and every other group, is as before. -/
structure At.WrotePreds (a : At) (s t : State) (d : BitVec 9) (vals : List (Nat × Bool)) : Prop where
  inP : ∀ k, fileOf d = (.p, k) → k ≠ 0 → ∀ p ∈ vals, (a.groupIn t).preg p.1 k = p.2
  pKept : ∀ i < 32, ∀ k, ¬ (fileOf d = (.p, k) ∧ k ≠ 0 ∧ i ∈ vals.map Prod.fst) →
    (a.groupIn t).preg i k = (a.groupIn s).preg i k
  tKept : (a.groupIn t).t = (a.groupIn s).t
  uKept : (a.groupIn t).u = (a.groupIn s).u
  hKept : (a.groupIn t).h = (a.groupIn s).h
  lstatKept : (a.groupIn t).lstat = (a.groupIn s).lstat
  others : a.OtherGroupsKept s t

/-- What writing handle `k` of the issuing group does. -/
structure At.WroteHandle (a : At) (s t : State) (k : Nat) (v : DWord) : Prop where
  inH : (a.groupIn t).hreg k = v
  hKept : ∀ j, j ≠ k → (a.groupIn t).hreg j = (a.groupIn s).hreg j
  tKept : (a.groupIn t).t = (a.groupIn s).t
  uKept : (a.groupIn t).u = (a.groupIn s).u
  pKept : (a.groupIn t).p = (a.groupIn s).p
  lstatKept : (a.groupIn t).lstat = (a.groupIn s).lstat
  others : a.OtherGroupsKept s t

/-- No register of the issuing group changes: only its sub-groups and split records may. -/
structure At.RegsKept (a : At) (s t : State) : Prop where
  tKept : (a.groupIn t).t = (a.groupIn s).t
  uKept : (a.groupIn t).u = (a.groupIn s).u
  pKept : (a.groupIn t).p = (a.groupIn s).p
  hKept : (a.groupIn t).h = (a.groupIn s).h
  lstatKept : (a.groupIn t).lstat = (a.groupIn s).lstat
  others : a.OtherGroupsKept s t

/-- No register of the issuing group changes, and no other group; what a core holds beside groups may. -/
structure At.RegsHeld (a : At) (s t : State) : Prop where
  tKept : (a.groupIn t).t = (a.groupIn s).t
  uKept : (a.groupIn t).u = (a.groupIn s).u
  pKept : (a.groupIn t).p = (a.groupIn s).p
  hKept : (a.groupIn t).h = (a.groupIn s).h
  lstatKept : (a.groupIn t).lstat = (a.groupIn s).lstat
  groups : ∀ c b g, (c, b, g) ≠ (a.core, a.blk, a.grp) → t.group c b g = s.group c b g

end Machine
end Sys2Proof
end

