-- ==== Sys2Proof/Certificates/Slice0/Obligations.lean ====
section
/-! DEFINITION. The statements for the provers. Each says what commands do, for every state and operands that meet its
hypotheses; `t` is the next state that `exec` answers. -/
open Sys2Proof Sys2Proof.Machine

/-! ## Terms of the statements -/

namespace Sys2Proof.Claims

/-- The command answers a next state of which `P` holds. -/
def Next (c : Instr) (s : State) (P : State → Prop) : Prop := ∃ t, exec c s = .next t ∧ P t

/-- A thread instruction that issues writes value `v` of each participating lane to operand `d` of `n` registers, and nothing
else: `g` is the group as it was. -/
def Computes (c : Instr) (s : State) (sg : SgRef) (gf : BitVec 4) (uni : Bool) (us : List Use) (d : BitVec 9) (n : Nat)
    (v : At → State → Nat → Nat) : Prop :=
  ∀ a s1, s.issuing sg gf uni us = some (a, s1) →
    Next c s fun t => a.WroteRegs s1 t d n (a.each (v a s1)) ∧ a.OnlyIssuedDraws us s1 t

/-- The same for an instruction that writes a predicate. -/
def Decides (c : Instr) (s : State) (sg : SgRef) (gf : BitVec 4) (uni : Bool) (us : List Use) (d : BitVec 9)
    (v : At → State → Nat → Bool) : Prop :=
  ∀ a s1, s.issuing sg gf uni us = some (a, s1) →
    Next c s fun t => a.WrotePreds s1 t d (a.each (v a s1)) ∧ a.OnlyIssued us s1 t

/-- Operand values of a lane: `n` registers as one number; one register as a word. -/
def opA (f : FormR) (a : At) (i n : Nat) : Nat := a.g.val f.a i n
def opB (f : FormR) (a : At) (i n : Nat) : Nat := a.g.val f.b i n
def opC (f : FormR) (a : At) (i n : Nat) : Nat := a.g.val f.c i n

end Sys2Proof.Claims

open Sys2Proof.Claims

/-! ## The queue and reset -/

/-- A step takes the command at the front of the queue and runs it with the queue's rest. -/
def Obligations.StepRunsFrontCommand : Prop :=
  ∀ (c : Instr) (rest : List Instr) (s : State), s.pending = c :: rest → step s = exec c { s with pending := rest }

/-- With nothing waiting one local count passes (R18), modulo 2^64, each partition's replica shows the new count or the one before it
(R19), and nothing else changes: the model's choice, log 6. Without power, in standby and with the root PLL's lock lost nothing
changes at all. -/
def Obligations.EmptyQueueTicks : Prop :=
  ∀ s : State, s.pending = [] →
    (s.powered = true → s.standby = false → s.mgmt.stopped = false →
      ∃ t, step s = .next t ∧ t.lcount.toNat = (s.lcount.toNat + 1) % 2 ^ 64
        ∧ (∀ p < 8, t.replica p = t.lcount ∨ t.replica p + 1 = t.lcount) ∧ t = { s with lcount := t.lcount, late := t.late })
    ∧ (s.powered = false ∨ s.standby = true ∨ s.mgmt.stopped = true → step s = .next s)

/-- What reset leaves, of the values that the spec gives: START_PROGRESS is 0, so step S0 runs, RESET_CAUSE names power-on, every
spool counter is 0, every ring is STOPPED with indices 0 and 64 slots, PWR_CAP_SW holds 1,350 W, KEEP_MEM is 1, PART_STATUS and
PHASE_TABLE hold what their tables say, SVC_STATE and the counter LCOUNT are 0, no context exists. No command waits: the queue is
the model's (log 10). -/
def Obligations.ResetValues : Prop :=
  (∀ r < 128, State.reset.head r = 0 ∧ State.reset.tail r = 0
      ∧ State.reset.retired r = 0 ∧ State.reset.ringSize r = 64 ∧ State.reset.ringState r = 0)
    ∧ (∀ n < 16384, State.reset.spoolVal n = 0)
    ∧ State.reset.kreg 0 = 0 ∧ State.reset.kreg 0xC = 0xA ∧ State.reset.reg 0x1500000 = 0x546 ∧ State.reset.keepMem = true
    ∧ (∀ p < 8, State.reset.reg (0x1500080 + 4 * p) = 0x11FFFF00) ∧ (∀ n < 16, State.reset.reg (0x1500040 + 4 * n) = 0x11111111)
    ∧ State.reset.reg 0x1600000 = 0 ∧ State.reset.lcount = 0
    ∧ (∀ c < 64, State.reset.ctxExists c = false)
    ∧ State.reset.pending = []

/-! ## Thread instructions: the integer class (R137) -/

/-- Bits of an operand of `n` registers. -/
def Sys2Proof.Claims.width (f : FormR) : Nat := 32 * wRegs f

/-- Every row of the integer class that writes a register: the value each participating lane receives, with W (64-bit pairs)
and S (signed) wherever the row allows them, and nothing else changed. -/
def Obligations.IntegerResults : Prop :=
  ∀ (s : State) (sg : SgRef) (f : FormR),
    (modClear f.mod 2 = true → f.ctl = 0 →
      Computes (.add sg f) s sg f.g false (use2 f (wRegs f)) f.d (wRegs f)
        fun a _ i => opA f a i (wRegs f) + opB f a i (wRegs f))
    ∧ (modClear f.mod 2 = true → f.ctl = 0 →
      Computes (.sub sg f) s sg f.g false (use2 f (wRegs f)) f.d (wRegs f)
        fun a _ i => 2 ^ width f + opA f a i (wRegs f) - opB f a i (wRegs f))
    ∧ (onlyS f = true → f.ctl = 0 →
      Computes (.mullo sg f) s sg f.g false (use2 f 1) f.d 1 fun a _ i => opA f a i 1 * opB f a i 1)
    ∧ (onlyS f = true → f.ctl = 0 →
      Computes (.mulhi sg f) s sg f.g false (use2 f 1) f.d 1 fun a _ i =>
        if sBit f then toTwos 64 (signedOf 32 (opA f a i 1) * signedOf 32 (opB f a i 1)) / 2 ^ 32
        else opA f a i 1 * opB f a i 1 / 2 ^ 32)
    ∧ (onlyS f = true → f.ctl = 0 →
      Computes (.muladd sg f) s sg f.g false (use3 f) f.d 1 fun a _ i => opA f a i 1 * opB f a i 1 + opC f a i 1)
    ∧ (modClear f.mod 3 = true → f.ctl = 0 →
      Computes (.minmax sg f) s sg f.g false (use2 f (wRegs f)) f.d (wRegs f) fun a _ i =>
        let x := opA f a i (wRegs f)
        let y := opB f a i (wRegs f)
        let le := asInt (sBit f) (width f) x ≤ asInt (sBit f) (width f) y
        if bitAt f.mod 2 then (if le then y else x) else (if le then x else y))
    ∧ (fld f.mod 2 4 ≤ 4 → f.ctl = 0 →
      Computes (.logic sg f) s sg f.g false (use2 f (wRegs f)) f.d (wRegs f) fun a _ i =>
        let x := opA f a i (wRegs f)
        let y := opB f a i (wRegs f)
        if fld f.mod 2 4 = 0 then x &&& y
        else if fld f.mod 2 4 = 1 then x ||| y
        else if fld f.mod 2 4 = 2 then x ^^^ y
        else if fld f.mod 2 4 = 3 then x &&& (2 ^ width f - 1 - y % 2 ^ width f)
        else 2 ^ width f - 1 - x % 2 ^ width f)
    ∧ (modClear f.mod 3 = true → f.ctl = 0 →
      Computes (.shift sg f) s sg f.g false (use2 f (wRegs f)) f.d (wRegs f) fun a _ i =>
        let x := opA f a i (wRegs f)
        let k := opB f a i (wRegs f)
        if bitAt f.mod 2 = false then x * 2 ^ k
        else if sBit f then toTwos (width f) (signedOf (width f) x / 2 ^ k) else x / 2 ^ k)
    ∧ (bitAt f.mod 0 = false → modClear f.mod 3 = true →
      Computes (.field sg f) s sg f.g false (use2 f 1) f.d 1 fun a _ i =>
        let pos := fld f.ctl 5 5
        let len := fld f.ctl 0 5 + 1
        let x := opA f a i 1
        if bitAt f.mod 2 then
          let m := min len (32 - pos)
          let y := opB f a i 1
          y - y / 2 ^ pos % 2 ^ m * 2 ^ pos + x % 2 ^ m * 2 ^ pos
        else if sBit f then toTwos 32 (signedOf len (x / 2 ^ pos)) else x / 2 ^ pos % 2 ^ len)
    ∧ (bitAt f.mod 0 = false → modClear f.mod 4 = true → fld f.mod 2 2 ≠ 3 → f.ctl = 0 →
      Computes (.bitop sg f) s sg f.g false (use1 f 1) f.d 1 fun a _ i =>
        let x := opA f a i 1
        if fld f.mod 2 2 = 0 then ((List.range 32).filter fun j => x.testBit j).length
        else if fld f.mod 2 2 = 1 then (if x = 0 then 32 else 31 - Nat.log2 x)
        else ((List.range 32).map fun j => (if x.testBit j then 1 else 0) * 2 ^ (31 - j)).sum)
    ∧ (modClear f.mod 2 = true → fld f.ctl 4 6 = 0 →
      Computes (.pick sg f) s sg f.g false (use2 f (wRegs f)) f.d (wRegs f) fun a _ i =>
        if xor (a.g.preg i (fld f.ctl 0 3)) (bitAt f.ctl 3) then opA f a i (wRegs f) else opB f a i (wRegs f))
    ∧ (modClear f.mod 2 = true → f.ctl = 0 →
      Computes (.mov sg f) s sg f.g false (use1 f (wRegs f)) f.d (wRegs f) fun a _ i => opA f a i (wRegs f))
    ∧ (∀ l : FormL, l.mod = 0 ∨ l.mod = 2 → l.rsv = 0 →
      Computes (.setk sg l) s sg l.g false [.dest l.d] l.d 1 fun _ _ _ => l.imm.toNat)
    ∧ (∀ k : FormI, modClear k.mod 2 = true →
      Computes (.addk sg k) s sg k.g false
        [.dest k.d (if bitAt k.mod 0 then 2 else 1), .src k.a (if bitAt k.mod 0 then 2 else 1)] k.d
        (if bitAt k.mod 0 then 2 else 1) fun a _ i =>
          a.g.val k.a i (if bitAt k.mod 0 then 2 else 1) + toTwos (32 * if bitAt k.mod 0 then 2 else 1) (signedOf 28 k.imm.toNat))

/-! ## Thread instructions: FP32, special functions and conversions (R75 to R77, R138 to R143) -/

/-- Operand a or b of an FP32 instruction under its modifiers: absolute value, then negation (R138). -/
def Sys2Proof.Claims.modA (f : FormR) (a : At) (i : Nat) : FVal :=
  fdec (modified (bitAt f.mod 5) (bitAt f.mod 3) (BitVec.ofNat 32 (opA f a i 1)))
def Sys2Proof.Claims.modB (f : FormR) (a : At) (i : Nat) : FVal :=
  fdec (modified (bitAt f.mod 4) (bitAt f.mod 2) (BitVec.ofNat 32 (opB f a i 1)))
def Sys2Proof.Claims.wordC (f : FormR) (a : At) (i : Nat) : Word := BitVec.ofNat 32 (opC f a i 1)

/-- Every row of the FP32 and special-function classes that writes a register: one rounding of the exact sum, product or
fused result; minimum and maximum; the exact errors; conversions; special functions. -/
def Obligations.FloatResults : Prop :=
  ∀ (s : State) (sg : SgRef) (f : FormR),
    (lowModClear f = true → f.ctl = 0 →
      Computes (.addF sg f) s sg f.g false (use2 f 1) f.d 1
          (fun a _ i => (fround (FVal.add (modA f a i) (modB f a i))).toNat)
        ∧ Computes (.mulF sg f) s sg f.g false (use2 f 1) f.d 1
          (fun a _ i => (fround (FVal.mul (modA f a i) (modB f a i))).toNat)
        ∧ Computes (.fmaF sg f) s sg f.g false (use3 f) f.d 1
          (fun a _ i => (fround (FVal.add (FVal.mul (modA f a i) (modB f a i)) (fdec (wordC f a i)))).toNat)
        ∧ Computes (.minF sg f) s sg f.g false (use2 f 1) f.d 1 (fun a _ i => (fminW (a.g.fa f i) (a.g.fb f i)).toNat)
        ∧ Computes (.maxF sg f) s sg f.g false (use2 f 1) f.d 1 (fun a _ i => (fmaxW (a.g.fa f i) (a.g.fb f i)).toNat)
        ∧ Computes (.adderrF sg f) s sg f.g false (use3 f) f.d 1
          (fun a _ i => (faddErr (a.g.fa f i) (a.g.fb f i) (wordC f a i)).toNat)
        ∧ Computes (.mulerrF sg f) s sg f.g false (use3 f) f.d 1
          (fun a _ i => (fmulErr (a.g.fa f i) (a.g.fb f i) (wordC f a i)).toNat))
    ∧ (noB f = true → f.ctl = 0 →
      Computes (.tointF sg f) s sg f.g false (use1 f 1) f.d 1
        fun a _ i => (ftoint (bitAt f.mod 1) (bitAt f.mod 0) (a.g.fa f i)).toNat)
    ∧ (noB f = true → bitAt f.mod 0 = false → f.ctl = 0 →
      Computes (.toflt sg f) s sg f.g false (use1 f 1) f.d 1 fun a _ i =>
        (modified (bitAt f.mod 5) (bitAt f.mod 3) (ftoflt (bitAt f.mod 1) (BitVec.ofNat 32 (opA f a i 1)))).toNat)
    ∧ (f.mod = 0 → f.ctl = 0 →
      Computes (.pow2F sg f) s sg f.g false (use1 f 1) f.d 1 (fun a _ i => (sfuExp2 (BitVec.ofNat 32 (opA f a i 1))).toNat)
        ∧ Computes (.log2F sg f) s sg f.g false (use1 f 1) f.d 1
          (fun a _ i => (sfuLog2 (BitVec.ofNat 32 (opA f a i 1))).toNat)
        ∧ Computes (.recipF sg f) s sg f.g false (use1 f 1) f.d 1
          (fun a _ i => (sfuRcp (BitVec.ofNat 32 (opA f a i 1))).toNat)
        ∧ Computes (.rsqrtF sg f) s sg f.g false (use1 f 1) f.d 1
          (fun a _ i => (sfuRsqrt (BitVec.ofNat 32 (opA f a i 1))).toNat))

/-- A NaN result of FP32 arithmetic is the canonical NaN, whatever NaNs went in (R75); the special inputs of the special functions,
and the exact powers of two of exp2 (R76). -/
def Obligations.FloatSpecialCases : Prop :=
  (∀ x y z : Word,
    ((fdec (fadd x y)).isNan = true → fadd x y = 0x7FC00000)
    ∧ ((fdec (fsub x y)).isNan = true → fsub x y = 0x7FC00000)
    ∧ ((fdec (fmul x y)).isNan = true → fmul x y = 0x7FC00000)
    ∧ ((fdec (ffma x y z)).isNan = true → ffma x y z = 0x7FC00000)
    ∧ ((fdec x).isNan = true → fadd x y = 0x7FC00000 ∧ fmul x y = 0x7FC00000 ∧ ffma x y z = 0x7FC00000)
    ∧ ((fdec x).isNan = true → sfuExp2 x = nan32 ∧ sfuLog2 x = nan32 ∧ sfuRcp x = nan32 ∧ sfuRsqrt x = nan32))
  ∧ sfuExp2 0x7F800000 = 0x7F800000 ∧ sfuExp2 0xFF800000 = 0
  ∧ sfuLog2 0 = 0xFF800000 ∧ sfuLog2 0x80000000 = 0xFF800000 ∧ sfuLog2 0x7F800000 = 0x7F800000
  ∧ sfuRcp 0 = 0x7F800000 ∧ sfuRcp 0x80000000 = 0xFF800000 ∧ sfuRcp 0x7F800000 = 0 ∧ sfuRcp 0xFF800000 = 0x80000000
  ∧ sfuRsqrt 0 = 0x7F800000 ∧ sfuRsqrt 0x80000000 = 0xFF800000 ∧ sfuRsqrt 0x7F800000 = 0
  ∧ (∀ n : Nat, n < 254 → sfuExp2 (ftoflt true (BitVec.ofInt 32 ((n : Int) - 126))) = BitVec.ofNat 32 ((n + 1) * 2 ^ 23))

/-- What a conversion with operands `us` may change beside registers: counters, for a NaN the recorder with its words and the
checks of their blocks, and what issuing itself changes. -/
def Sys2Proof.Claims.ConvertFrame (a : At) (us : List Use) (s t : State) : Prop :=
  t = { s with cores := t.cores, freeCtr := t.freeCtr, setup := t.setup, err := t.err, keeper := t.keeper, mem := t.mem
               lost := t.lost, poison := t.poison, defects := t.defects, crcOff := t.crcOff
               reqs := (a.supersede s s us).reqs, progress := (s.progressed (.thread a.core)).progress }

/-- Operands of NARROW and of NARROWB. -/
def Sys2Proof.Claims.useNarrow (f : FormR) : List Use := [.dest f.d, .src f.a, .srcIn f.b [.u, .zero] 2, .src f.c]
def Sys2Proof.Claims.useNarrowb (f : FormR) : List Use :=
  [.dest f.d (blockRegs (fld f.ctl 0 3)), .src f.a (blockRegs (fld f.ctl 0 3)), .srcIn f.b [.u, .zero] 2, .dstIn f.c [.t, .zero]]

/-- WIDEN, NARROW and NARROWB: where a form is refused nothing is written and LSTAT becomes BADFMT; otherwise every
participating lane receives its conversion and the core's counters rise by the lanes' clamps, infinities and NaNs. -/
def Obligations.ConversionResults : Prop :=
  ∀ (s : State) (sg : SgRef) (f : FormR) (a : At) (s1 : State),
    (bitAt f.ctl 9 = false → (bitAt f.ctl 8 = true ∨ f.b = 0x180) →
      (fld f.mod 3 3 = 7 ∨ fld f.mod 0 3 < wordElems (Fmt.ofCode (fld f.mod 3 3))) →
      s.issuing sg f.g false (use2 f 1) = some (a, s1) →
      Next (.widen sg f) s fun t =>
        if widenRefused f then
          a.groupIn t = { a.groupIn s1 with lstat := 0x14, subs := (a.groupIn t).subs, splits := (a.groupIn t).splits }
            ∧ a.OnlyIssued (use2 f 1) s1 t
        else a.WroteRegs s1 t f.d 1 (a.each fun i => (widenLane f a.g i).bits.toNat)
          ∧ t.reg (offCvt a.core 1) = satAdd32 (s1.reg (offCvt a.core 1)) ((a.lanes.map fun i => (widenLane f a.g i).infs).sum)
          ∧ ConvertFrame a (use2 f 1) s1 t)
    ∧ (bitAt f.ctl 9 = false → (bitAt f.mod 2 = true ∨ (f.b = 0x180 ∧ f.c = 0x180)) →
      s.issuing sg f.g false (useNarrow f) = some (a, s1) →
      Next (.narrow sg f) s fun t =>
        if narrowRefused f then
          a.groupIn t = { a.groupIn s1 with lstat := 0x14, subs := (a.groupIn t).subs, splits := (a.groupIn t).splits }
            ∧ a.OnlyIssued (useNarrow f) s1 t
        else a.WroteRegs s1 t f.d 1 (a.each fun i => (narrowLane f a.g i).code)
          ∧ t.reg (offCvt a.core 0) = satAdd32 (s1.reg (offCvt a.core 0)) ((a.lanes.map fun i => (narrowLane f a.g i).sat).sum)
          ∧ t.reg (offCvt a.core 1) = satAdd32 (s1.reg (offCvt a.core 1)) ((a.lanes.map fun i => (narrowLane f a.g i).infs).sum)
          ∧ t.reg (offCvt a.core 2) = satAdd32 (s1.reg (offCvt a.core 2)) ((a.lanes.map fun i => (narrowLane f a.g i).nans).sum)
          ∧ ConvertFrame a (useNarrow f) s1 t)
    ∧ (fld f.mod 0 2 = 0 → fld f.ctl 4 6 = 0 → (bitAt f.mod 2 = true ∨ f.b = 0x180) →
      s.issuing sg f.g false (useNarrowb f) = some (a, s1) →
      Next (.narrowb sg f) s fun t =>
        if pbmRefused s1 a.b.ctx f = true ∨ narrowbRefused f = true then
          a.groupIn t = { a.groupIn s1 with lstat := 0x14, subs := (a.groupIn t).subs, splits := (a.groupIn t).splits }
            ∧ ConvertFrame a (useNarrowb f) s1 t
        else
          -- the block of each lane: its elements' codes in d, its scale in c
          let z := fld f.ctl 0 3
          let bs := ((List.range (if z < 3 then 32 / blockSize z else 1)).map (narrowLanes f a.g a.lanes)).filter
            fun b => !b.1.isEmpty
          ConvertFrame a (useNarrowb f) s1 t
            ∧ t.reg (offCvt a.core 1) = satAdd32 (s1.reg (offCvt a.core 1)) ((bs.map fun b => b.2.infs).sum)
            ∧ t.reg (offCvt a.core 2) = satAdd32 (s1.reg (offCvt a.core 2)) ((bs.map fun b => b.2.nans).sum)
            ∧ ((fileOf f.c).1 = .t → ∀ i ∈ a.lanes, (a.groupIn t).val f.c i 1 = scaleOf bs i % 2 ^ 32)
            ∧ ((fileOf f.d).1 = .t → sharesReg f.d (blockRegs z) f.c 1 = false → ∀ i ∈ a.lanes,
                (a.groupIn t).val f.d i (blockRegs z)
                  = ((List.range (blockRegs z)).map fun r => codeOf bs i r * 2 ^ (32 * r)).sum % 2 ^ (32 * blockRegs z)))

/-! ## Thread instructions: predicates and cross-lane (R137, R138, R149 to R151, R154) -/

/-- Every row that writes a predicate. -/
def Obligations.PredicateResults : Prop :=
  ∀ (s : State) (sg : SgRef) (f : FormR),
    (bitAt f.mod 5 = false → fld f.mod 2 3 ≤ 5 → f.ctl = 0 →
      Decides (.cmp sg f) s sg f.g false [.dstIn f.d [.p, .zero], .src f.a (wRegs f), .src f.b (wRegs f), .unused f.c] f.d
        fun a _ i =>
          let x := asInt (sBit f) (width f) (opA f a i (wRegs f))
          let y := asInt (sBit f) (width f) (opB f a i (wRegs f))
          if fld f.mod 2 3 = 0 then x = y else if fld f.mod 2 3 = 1 then x ≠ y else if fld f.mod 2 3 = 2 then x < y
          else if fld f.mod 2 3 = 3 then x ≤ y else if fld f.mod 2 3 = 4 then x > y else x ≥ y)
    ∧ (lowModClear f = true → fld f.ctl 3 7 = 0 →
      Decides (.cmpF sg f) s sg f.g false [.dstIn f.d [.p, .zero], .src f.a, .src f.b, .unused f.c] f.d
        fun a _ i => condFp (fld f.ctl 0 3) (fdec (a.g.fa f i)) (fdec (a.g.fb f i)))
    ∧ (selOnly f = true →
      Decides (.pred sg f) s sg f.g false [.dstIn f.d [.p, .zero], .srcIn f.a [.p], .srcIn f.b [.p], .unused f.c] f.d
        fun a _ i =>
          let x := a.g.prd f.a i
          let y := a.g.prd f.b i
          if sel f = 0 then x && y else if sel f = 1 then x || y else if sel f = 2 then xor x y else x && !y)
    ∧ (selOnly f = true → sel f = 0 →
      Decides (.tally sg f) s sg f.g true [.dstIn f.d [.p, .zero], .srcIn f.a [.p], .unused f.b, .unused f.c] f.d
        fun a _ _ => a.lanes.any fun j => a.g.prd f.a j)
    ∧ (selOnly f = true → sel f = 1 →
      Decides (.tally sg f) s sg f.g true [.dstIn f.d [.p, .zero], .srcIn f.a [.p], .unused f.b, .unused f.c] f.d
        fun a _ _ => a.lanes.all fun j => a.g.prd f.a j)
    ∧ (plainR f = true →
      Decides (.sbTest sg f) s sg f.g false [.dstIn f.d [.p, .zero], .srcIn f.a [.h], .unused f.b, .unused f.c] f.d
        fun a _ _ => hState (a.g.handle f.a) ≠ 2)

/-- TALLY MASK, LXCH, RDL and PACK: what each participating lane receives. -/
def Obligations.CrossLaneResults : Prop :=
  ∀ (s : State) (sg : SgRef) (f : FormR),
    (selOnly f = true → sel f = 2 →
      Computes (.tally sg f) s sg f.g true [.dest f.d, .srcIn f.a [.p], .unused f.b, .unused f.c] f.d 1
        fun a _ _ => ((a.lanes.filter fun j => a.g.prd f.a j).map fun j => 2 ^ j).sum)
    ∧ (selOnly f = true →
      Computes (.lxch sg f) s sg f.g false (use2 f 1) f.d 1 fun a _ i =>
        let k := opB f a i 1
        -- the lane read: b itself, i - b, i + b, or i xor b; a lane outside the participating ones gives the own value
        let from? : Option Nat := if sel f = 0 then some k else if sel f = 1 then (if k ≤ i then some (i - k) else none)
          else if sel f = 2 then some (i + k) else some (i ^^^ k)
        if ∃ j ∈ a.lanes, from? = some j then opA f a (from?.getD 0) 1 else opA f a i 1)
    ∧ (f.mod = 0 → f.ctl = 0 →
      Computes (.rdl sg f) s sg f.g true [.dstIn f.d [.u, .zero], .srcIn f.a [.t], .srcIn f.b [.u, .zero], .unused f.c] f.d 1
        fun a _ _ => if opB f a a.firstLane 1 % 32 ∈ a.lanes then opA f a (opB f a a.firstLane 1 % 32) 1 else 0)
    ∧ (selOnly f = true →
      Computes (.pack sg f) s sg f.g false (use1 f 1) f.d 1 fun a _ i =>
        let w := packWidth (sel f)
        (a.lanes.map fun j => opA f a j 1 % 2 ^ w * 2 ^ (w * j)).sum / 2 ^ (32 * i) % 2 ^ 32)

/-! ## Thread instructions: control and barriers (R116, R117, R120, R149, R152) -/

/-- The issuing group once the threads of the issuing sub-group go on in parts, each of some lanes at an address (R116): one
part stays under the split records it was under; several come under a new record when a join address is given (R117). Joins
have still to take place. -/
def Sys2Proof.Claims.parted (a : At) (s1 : State) (join : Option DWord) (parts : List (BitVec 32 × DWord)) : Group :=
  let g := a.groupIn s1
  let sub (stack : List Nat) (p : BitVec 32 × DWord) : Sub :=
    { a.sub with mask := p.1, pc := p.2, stack := stack, since := s1.lcount }
  match parts, join with
  | [p], _ => g.replace a.sub.lane [sub a.sub.stack p]
  | ps, none => g.replace a.sub.lane (ps.map (sub a.sub.stack))
  | ps, some j =>
    { g with splits := g.splits ++ [(g.nextSplit, j)], nextSplit := g.nextSplit + 1 }.replace a.sub.lane
      (ps.map (sub (g.nextSplit :: a.sub.stack)))

/-- Lanes of the issuing sub-group that do not take part. -/
def Sys2Proof.Claims.others (a : At) : BitVec 32 := a.sub.mask &&& ~~~ a.m

/-- Participating threads at one address, the others in sequence. -/
def Sys2Proof.Claims.towards (a : At) (target : DWord) : List (BitVec 32 × DWord) :=
  if Sys2Proof.Claims.others a = 0 then [(a.sub.mask, target)]
  else [(a.m, target), (Sys2Proof.Claims.others a, a.sub.pc + 8)]

/-- Each participating thread at the address in its pair, bits [2:0] ignored: one part per distinct address, and one in sequence
for the lanes that do not take part. -/
def Sys2Proof.Claims.towardsEach (a : At) (f : FormB) : List (BitVec 32 × DWord) :=
  let at' (i : Nat) : Nat := a.g.val f.a i 2 / 8 * 8
  let ts := (a.lanes.map at').eraseDups
  if Sys2Proof.Claims.others a = 0 ∧ ts.length ≤ 1 then [(a.sub.mask, BitVec.ofNat 64 (ts.headD 0))]
  else (ts.map fun v => (maskBy fun i => a.lanes.any fun j => j == i && at' j == v, BitVec.ofNat 64 v))
    ++ if Sys2Proof.Claims.others a = 0 then [] else [(Sys2Proof.Claims.others a, a.sub.pc + 8)]

/-- An address `n` instructions from the issuing one. -/
def Sys2Proof.Claims.away (a : At) (n : Int) : DWord := BitVec.ofInt 64 (a.sub.pc.toNat + 8 * n)
def Sys2Proof.Claims.joinOf (a : At) (f : FormB) : Option DWord :=
  if f.jv = 1 then some (away a (signedOf 15 f.join.toNat)) else none

/-- JMP, CALL, JMPR, END, CEDE, NOP and RALLY complete whenever their sub-group issues: where its threads stand afterwards (joins that
are complete then take place: `joined`); registers stay, but for CALL's pair, which receives the return address. -/
def Obligations.ControlFlow : Prop :=
  ∀ (s : State) (sg : SgRef) (f : FormB) (r : FormR) (a : At) (s1 : State),
    (f.mod = 0 → s.issuing sg f.g false [.unused f.a] = some (a, s1) →
      ∃ t, exec (.jmp sg f) s = .next t
        ∧ a.groupIn t = (parted a s1 (joinOf a f) (towards a (away a (signedOf 21 f.tgt.toNat)))).joined
        ∧ a.OtherGroupsKept s1 t ∧ a.OnlyIssued [.unused f.a] s1 t)
    ∧ (f.mod = 0 → s.issuing sg f.g false [.dest f.a 2] = some (a, s1) →
      ∃ t, exec (.call sg f) s = .next t
        ∧ a.WroteRegs s1 t f.a 2 (a.each fun _ => (a.sub.pc + 8).toNat)
        ∧ (a.groupIn t).subs = (parted a s1 (joinOf a f) (towards a (away a (signedOf 21 f.tgt.toNat)))).joined.subs
        ∧ (a.groupIn t).splits = (parted a s1 (joinOf a f) (towards a (away a (signedOf 21 f.tgt.toNat)))).joined.splits
        ∧ a.OnlyIssued [.dest f.a 2] s1 t)
    ∧ (f.mod = 0 → f.tgt = 0 → s.issuing sg f.g false [.src f.a 2] = some (a, s1) →
      ∃ t, exec (.jmpr sg f) s = .next t
        ∧ a.groupIn t = (parted a s1 (joinOf a f) (towardsEach a f)).joined
        ∧ a.OtherGroupsKept s1 t ∧ a.OnlyIssued [.src f.a 2] s1 t)
    ∧ (r.mod = 0 → r.ctl = 0 → s.issuing sg r.g false (noOperands r) = some (a, s1) →
      -- END: the participating threads exit; CEDE and NOP: no effect
      (∃ t, exec (.endThread sg r) s = .next t
        ∧ a.groupIn t = (parted a s1 none [(others a, a.sub.pc + 8)]).joined
        ∧ a.OtherGroupsKept s1 t ∧ a.OnlyIssued (noOperands r) s1 t)
      ∧ (∃ t, exec (.cede sg r) s = .next t
        ∧ a.groupIn t = (parted a s1 none [(a.sub.mask, a.sub.pc + 8)]).joined
        ∧ a.OtherGroupsKept s1 t ∧ a.OnlyIssued (noOperands r) s1 t)
      ∧ ∃ t, exec (.nop sg r) s = .next t
        ∧ a.groupIn t = (parted a s1 none [(a.sub.mask, a.sub.pc + 8)]).joined
        ∧ a.OtherGroupsKept s1 t ∧ a.OnlyIssued (noOperands r) s1 t)
    ∧ (modClear r.mod 1 = true → fld r.ctl 4 6 = 0 → s.issuing sg r.g false (noOperands r) = some (a, s1) →
      ∃ t, exec (.rally sg r) s = .next t
        ∧ a.groupIn t = ((a.groupIn s1).replace a.sub.lane
          [{ a.sub with mask := a.m, pc := a.sub.pc + 8, wait := .barrier (bitAt r.mod 0) (fld r.ctl 0 4), since := s1.lcount },
           { a.sub with mask := others a, pc := a.sub.pc + 8, since := s1.lcount }]).joined
        ∧ a.OtherGroupsKept s1 t ∧ a.OnlyIssued (noOperands r) s1 t)

/-- Two sub-groups that stand at the join address of their split record become one, which goes on from there (R117). -/
def Obligations.JoinMerges : Prop :=
  ∀ (g : Group) (r : Nat) (j : DWord) (x y : Sub),
    g.splits = [(r, j)] → g.subs = [x, y] →
    x.stack = [r] → y.stack = [r] → x.pc = j → y.pc = j → x.wait = .none → y.wait = .none →
    g.joined = { g with splits := [], subs := [{ mask := x.mask ||| y.mask, pc := j, stack := [], wait := .none
                                                 since := x.since, seen := (x.seen ++ y.seen).eraseDups }] }

/-- BARRIER_COMPLETE: once every thread of the block, or of every block of the block train, waits at the barrier or has
exited, every sub-group that waits there resumes; before that nothing happens. -/
def Obligations.BarrierCompletes : Prop :=
  ∀ (s : State) (core blk : Nat) (train : Bool) (id : Nat),
    let bs := s.barrierBlocks core blk train
    let all := ∀ p ∈ bs, ∃ b, s.block p.1 p.2 = some b ∧ b.allAt train id = true
    let some' := ∃ p ∈ bs, ∃ b, s.block p.1 p.2 = some b ∧ b.someAt train id = true
    (all → some' → bs.Nodup → (∀ p ∈ bs, ∀ b, s.block p.1 p.2 = some b → (b.groups.map Prod.fst).Nodup) →
      Next (.barrierComplete core blk train id) s fun t =>
        (∀ p ∈ bs, ∀ g, t.group p.1 p.2 g = (s.group p.1 p.2 g).wake (.barrier train id) s.lcount)
          ∧ (∀ c b, (c, b) ∉ bs → t.block c b = s.block c b) ∧ OnlyCores s t)
    ∧ (¬ (all ∧ some') → exec (.barrierComplete core blk train id) s = .next s)

/-! ## Thread instructions: handles, spool counters, special values, fences (R153, R154, R159 to R162) -/

/-- HSET, HGET, HCLR, SB.WAIT and SB_WAIT_READY. HSET and HCLR hold while the handle is PENDING: nothing changes but that the
scheduler goes on behind the sub-group. -/
def Obligations.HandleInstructions : Prop :=
  ∀ (s : State) (sg : SgRef) (f : FormR) (a : At) (s1 : State), plainR f = true →
    (s.issuing sg f.g false [.dstIn f.d [.h], .srcIn f.a [.u], .unused f.b, .unused f.c] = some (a, s1) →
      (hState (a.g.handle f.d) ≠ 2 →
        Next (.hset sg f) s fun t => a.WroteHandle s1 t (hNo f.d) (BitVec.ofNat 64 (2 ^ 62 + a.g.val f.a 0 1 % 2 ^ 19))
          ∧ a.OnlyIssued [.dstIn f.d [.h], .srcIn f.a [.u], .unused f.b, .unused f.c] s1 t)
      ∧ (hState (a.g.handle f.d) = 2 → exec (.hset sg f) s = .next (a.served s)))
    ∧ (s.issuing sg f.g false [.dstIn f.d [.h], .unused f.a, .unused f.b, .unused f.c] = some (a, s1) →
      (hState (a.g.handle f.d) ≠ 2 → Next (.hclr sg f) s fun t => a.WroteHandle s1 t (hNo f.d) 0
        ∧ a.OnlyIssued [.dstIn f.d [.h], .unused f.a, .unused f.b, .unused f.c] s1 t)
      ∧ (hState (a.g.handle f.d) = 2 → exec (.hclr sg f) s = .next (a.served s)))
    ∧ Computes (.hget sg f) s sg f.g true [.dest f.d 2, .srcIn f.a [.h], .unused f.b, .unused f.c] f.d 2
        (fun a _ _ => (a.g.handle f.a).toNat)
    ∧ (s.issuing sg f.g false [.unused f.d, .srcIn f.a [.h], .unused f.b, .unused f.c] = some (a, s1) →
      Next (.sbWait sg f) s fun t => a.OtherGroupsKept s1 t
        ∧ a.OnlyIssued [.unused f.d, .srcIn f.a [.h], .unused f.b, .unused f.c] s1 t ∧
        if hState (a.g.handle f.a) = 2 then
          a.groupIn t = (a.groupIn s1).replace a.sub.lane
            [{ a.sub with pc := a.sub.pc + 8, wait := .handle (hNo f.a), since := s1.lcount }]
        else a.groupIn t = (parted a s1 none [(a.sub.mask, a.sub.pc + 8)]).joined)
    ∧ (∀ b x k, s.block sg.core sg.blk = some b → (b.group sg.grp).subs.find? (fun x => bitAt x.mask sg.lane) = some x →
      x.wait = .handle k →
      (hState ((b.group sg.grp).hreg k) ≠ 2 →
        Next (.sbWaitReady sg) s fun t =>
          t.group sg.core sg.blk sg.grp
              = ((b.group sg.grp).replace x.lane [{ x with wait := .none, since := s.lcount }]).joined
            ∧ (∀ c b' g, (c, b', g) ≠ (sg.core, sg.blk, sg.grp) → t.group c b' g = s.group c b' g) ∧ OnlyCores s t)
      ∧ (hState ((b.group sg.grp).hreg k) = 2 → exec (.sbWaitReady sg) s = .next s))

/-- The counter that a spool instruction names, when the context may use it (R159, R421). -/
def Sys2Proof.Claims.mayCount (s : State) (a : At) (id : Nat) : Prop :=
  id < 2 ^ 14 ∧ bitAt (s.reg (offCtx a.b.ctx + 4)) 31 = true ∧ fld (s.reg (offCtx a.b.ctx + 4)) 0 14 ≤ id
    ∧ id ≤ fld (s.reg (offCtx a.b.ctx + 4)) 16 14

/-- Operands of SPL.RD, SPL.SET, SPL.ADD and SPL.WAIT. -/
def Sys2Proof.Claims.useRd (f : FormR) : List Use := [.dest f.d 2, .srcIn f.a [.u], .unused f.b, .unused f.c]
def Sys2Proof.Claims.useSet (f : FormR) : List Use := [.unused f.d, .srcIn f.a [.u], .srcIn f.b [.u] 2, .unused f.c]
def Sys2Proof.Claims.useAdd (f : FormR) : List Use := [.unused f.d, .srcIn f.a [.u], .srcIn f.b [.u], .unused f.c]
def Sys2Proof.Claims.useWait (f : FormR) : List Use := [.dstIn f.d [.p, .zero], .srcIn f.a [.u], .srcIn f.b [.u] 2, .unused f.c]

/-- A change of counters, and what issuing an instruction with operands `us` changes; nothing else. -/
def Sys2Proof.Claims.OnlyCounted (a : At) (us : List Use) (s t : State) : Prop :=
  t = { s with cores := t.cores, spool := t.spool, spoolChg := t.spoolChg, waiters := t.waiters
               reqs := (a.supersede s s us).reqs, progress := (s.progressed (.thread a.core)).progress }

/-- SPL.RD, SPL.ADD, SPL.SET and SPL.WAIT on a counter that the context may use, with no acquire of the threads outstanding; while one is,
they wait (R220). SPL.ADD with a release adds once the release's part is done, and waits until then. -/
def Obligations.SpoolInstructions : Prop :=
  ∀ (s : State) (sg : SgRef) (f : FormR) (a : At) (s1 : State),
    (plainR f = true → s.issuing sg f.g true (useRd f) = some (a, s1) →
      (s1.acquiring a = true → exec (.splRd sg f) s = .next (a.served s))
      ∧ (s1.acquiring a = false → mayCount s1 a (a.g.val f.a 0 1) →
        Next (.splRd sg f) s fun t =>
          a.WroteRegs s1 t f.d 2 (a.each fun _ => (s1.spoolVal (a.g.val f.a 0 1)).toNat) ∧ a.OnlyIssuedDraws (useRd f) s1 t))
    ∧ (plainR f = true → s.issuing sg f.g false (useSet f) = some (a, s1) →
      (s1.acquiring a = true → exec (.splSet sg f) s = .next (a.served s))
      ∧ (s1.acquiring a = false → mayCount s1 a (a.g.val f.a 0 1) →
        Next (.splSet sg f) s fun t =>
          (t.spoolVal (a.g.val f.a 0 1)).toNat = a.g.val f.b 0 2 % 2 ^ 63
            ∧ (∀ n, n ≠ a.g.val f.a 0 1 → t.spoolVal n = s1.spoolVal n)
            ∧ t.changes (a.g.val f.a 0 1) = s1.changes (a.g.val f.a 0 1) + 1 ∧ a.RegsKept s1 t
            ∧ OnlyCounted a (useSet f) s1 t))
    ∧ (f.mod = 0 → fld f.ctl 4 6 = 0 → fld f.ctl 2 1 = 0 → s.issuing sg f.g false (useAdd f) = some (a, s1) →
      (s1.acquiring a = true → exec (.splAdd sg f) s = .next (a.served s))
      ∧ (s1.acquiring a = false → mayCount s1 a (a.g.val f.a 0 1) →
        let r := s1.release a (fld f.ctl 0 4)
        (r.2 = false → exec (.splAdd sg f) s = .next (a.issued r.1))
        ∧ (r.2 = true →
          Next (.splAdd sg f) s fun t =>
            t.spoolVal (a.g.val f.a 0 1) =
                (let v := r.1.spoolVal (a.g.val f.a 0 1)
                 if bitAt v 63 then v else BitVec.ofNat 64 (min (fld v 0 63 + a.g.val f.b 0 1) (2 ^ 63 - 1)))
              ∧ (∀ n, n ≠ a.g.val f.a 0 1 → t.spoolVal n = r.1.spoolVal n) ∧ a.RegsKept r.1 t
              ∧ OnlyCounted a (useAdd f) r.1 t)
        -- without a release, and with one of the CTA or cluster, nothing but the add happens
        ∧ (fld f.ctl 3 1 = 0 ∨ (fld f.ctl 0 2 < 2 ∧ s1.readsPending a = false) → r = (s1, true))))
    ∧ (plainR f = true → s.issuing sg f.g false (useWait f) = some (a, s1) →
      (s1.acquiring a = true → exec (.splWait sg f) s = .next (a.served s))
      ∧ (s1.acquiring a = false → mayCount s1 a (a.g.val f.a 0 1) →
        let v := s1.spoolVal (a.g.val f.a 0 1)
        -- poisoned, or the target reached: the outcome at once; otherwise the sub-group waits
        (bitAt v 63 = true ∨ a.g.val f.b 0 2 % 2 ^ 63 ≤ fld v 0 63 →
          Next (.splWait sg f) s fun t =>
            a.WrotePreds s1 t f.d (a.each fun _ => !bitAt v 63) ∧ a.OnlyIssued (useWait f) s1 t)
        ∧ (bitAt v 63 = false → fld v 0 63 < a.g.val f.b 0 2 % 2 ^ 63 →
          Next (.splWait sg f) s fun t =>
            a.groupIn t = (a.groupIn s1).replace a.sub.lane
                [{ a.sub with pc := a.sub.pc + 8, wait := .spool (predNo f.d) a.m, since := s1.lcount }]
              ∧ t.waiters = s1.waiters ++ [{ who := .sub a.core a.blk a.grp a.sub.lane, id := a.g.val f.a 0 1,
                                             target := a.g.val f.b 0 2, result := none }]
              ∧ OnlyCounted a (useWait f) s1 t ∧ t.spool = s1.spool ∧ t.spoolChg = s1.spoolChg)))

/-- A change of a counter satisfies the waits that it reaches or poisons (R159, R222), and SPL_WAIT_SATISFIED gives the waiting
sub-group that outcome and wakes it; a counter is poisoned for good until it is set. -/
def Obligations.SpoolChangesAndWaits : Prop :=
  (∀ (s : State) (n : Nat) (v : DWord) (w : Waiter), w ∈ s.waiters → w.id = n → w.result = none →
      { w with result := if bitAt v 63 then some false else if w.target % 2 ^ 63 ≤ fld v 0 63 then some true else none }
        ∈ (s.spoolChange n v).waiters)
    ∧ (∀ (s : State) (n k : Nat), bitAt (s.spoolVal n) 63 = true → s.spoolAdd n k = s ∧ s.spoolPoison n = s)
    ∧ (∀ (s : State) (sg : SgRef) (b : Block) (x : Sub) (pd : Nat) (mask : BitVec 32) (w : Waiter) (r : Bool),
      s.block sg.core sg.blk = some b → (b.group sg.grp).subs.find? (fun x => bitAt x.mask sg.lane) = some x →
      x.wait = .spool pd mask → s.waiters = [w] → w.who = .sub sg.core sg.blk sg.grp x.lane → w.result = some r →
      Next (.splWaitSatisfied sg) s fun t =>
        t.waiters = []
          ∧ (∀ i < 32, pd ≠ 0 → bitAt mask i = true → (t.group sg.core sg.blk sg.grp).preg i pd = r)
          ∧ (∀ i < 32, ∀ k, k ≠ pd ∨ bitAt mask i = false →
              (t.group sg.core sg.blk sg.grp).preg i k = (b.group sg.grp).preg i k)
          -- a wait that was reached acquires (R221): writes still under way count as earlier accesses of later releases
          ∧ (let g := (if r then s.observe sg.core sg.blk sg.grp mask else s).group sg.core sg.blk sg.grp
             ∃ y, g.subs.find? (fun y => bitAt y.mask sg.lane) = some y ∧ { y with seen := x.seen } = x
              ∧ (t.group sg.core sg.blk sg.grp).subs
                  = ((g.replace x.lane [{ y with wait := .none, since := s.lcount }]).joined).subs)
          ∧ t = { s with cores := t.cores, waiters := t.waiters })

/-- SRD writes the value of its selector; reading LSTAT sets it to 0 (R161). FENCE orders, and at device and fabric scope leaves no
modified line in the core's cache part; at fabric scope it waits for the writes to other modules (R162, R219). Both complete on
every form that the tables allow. -/
def Obligations.SpecialReadsAndFences : Prop :=
  ∀ (s : State) (sg : SgRef) (f : FormR) (a : At) (s1 : State) (n : Nat),
    (f.mod = 0 → fld f.ctl 8 2 = 0 → srdRegs (fld f.ctl 0 8) = some n → fld f.ctl 0 8 ≠ 0x24 →
      s.issuing sg f.g false [.dest f.d n, .unused f.a, .unused f.b, .unused f.c] = some (a, s1) →
      ∃ t, exec (.srd sg f) s = .next t ∧ a.WroteRegs s1 t f.d n (a.each fun i => srdValue s1 a (fld f.ctl 0 8) i)
        ∧ a.OnlyIssuedDraws [.dest f.d n, .unused f.a, .unused f.b, .unused f.c] s1 t)
    ∧ (f.mod = 0 → fld f.ctl 8 2 = 0 → fld f.ctl 0 8 = 0x24 →
      s.issuing sg f.g false [.dest f.d 1, .unused f.a, .unused f.b, .unused f.c] = some (a, s1) →
      ∃ t, exec (.srd sg f) s = .next t ∧ (a.groupIn t).lstat = 0
        ∧ ((fileOf f.d).1 = .t → ∀ i ∈ a.lanes, (a.groupIn t).rd f.d i 0 = a.g.lstat)
        ∧ ((fileOf f.d).1 = .u → (a.groupIn t).rd f.d 0 0 = a.g.lstat)
        ∧ (a.groupIn t).p = a.g.p ∧ (a.groupIn t).h = a.g.h ∧ a.OtherGroupsKept s1 t
        ∧ a.OnlyIssued [.dest f.d 1, .unused f.a, .unused f.b, .unused f.c] s1 t)
    ∧ (∀ (t : State) (i : Nat), srdValue t a 0x00 i = 32 * a.grp + i ∧ srdValue t a 0x01 i = i
        ∧ srdValue t a 0x02 i = a.b.bid.1 ∧ srdValue t a 0x03 i = a.b.bid.2.1 ∧ srdValue t a 0x04 i = a.b.bid.2.2
        ∧ srdValue t a 0x08 i = a.b.trank
        ∧ srdValue t a 0x0A i = a.core ∧ srdValue t a 0x0B i = a.core / 16 ∧ srdValue t a 0x0C i = a.core / 192
        ∧ srdValue t a 0x0D i = a.b.ctx ∧ srdValue t a 0x0F i = t.lmapAddr ∧ srdValue t a 0x10 i = a.b.ls
        ∧ (srdValue t a 0x20 i = t.lcount.toNat ∨ srdValue t a 0x20 i + 1 = t.lcount.toNat)
        ∧ srdValue t a 0x21 i = (t.reg (offArrayMap a.core)).toNat
        ∧ srdValue t a 0x22 i = (t.reg (offArrayMap a.core + 4)).toNat ∧ srdValue t a 0x23 i = a.b.split
        ∧ ∀ l, t.launchOf a.b.launch = some l →
            srdValue t a 0x05 i = l.gx ∧ srdValue t a 0x06 i = l.gy ∧ srdValue t a 0x07 i = l.gz
              ∧ srdValue t a 0x09 i = l.train ∧ srdValue t a 0x0E i = l.args.toNat)
    ∧ (f.mod = 0 → fld f.ctl 4 6 = 0 → 4 ≤ fld f.ctl 0 4 → s.issuing sg f.g false (noOperands f) = some (a, s1) →
      let rel := fld f.ctl 3 1 = 1
      let scope := fld f.ctl 0 2
      -- an acquire, and a release of the CTA or cluster scope
      (¬ rel ∨ (s1.readsPending a = false ∧ scope < 2) →
        ∃ t, exec (.fence sg f) s = .next t ∧ a.RegsKept s1 t ∧ a.OnlyIssued (noOperands f) s1 t)
      -- a release of device or fabric scope
      ∧ (rel → s1.readsPending a = false → 2 ≤ scope →
        (scope = 3 → ((s1.writeBackAll a.core).reqsOf fun r => r.ofCore a.core a.b.ctx) = []
          ∧ (s1.writeBackAll a.core).seenPending a = false) →
        ∃ t, exec (.fence sg f) s = .next t ∧ a.RegsHeld s1 t
          ∧ a.groupIn t = (parted a s1 none [(a.sub.mask, a.sub.pc + 8)]).joined
          ∧ ∀ k l, (t.core a.core).line k = some l → l.dirty = 0)
      -- it waits for reads that have not returned, and at fabric scope for writes that have not been acknowledged
      ∧ (rel → s1.readsPending a = true → exec (.fence sg f) s = .next (a.issued s1))
      ∧ (rel → s1.readsPending a = false → scope = 3 →
        ((s1.writeBackAll a.core).reqsOf fun r => r.ofCore a.core a.b.ctx) ≠ []
          ∨ (s1.writeBackAll a.core).seenPending a = true →
        exec (.fence sg f) s = .next (a.issued (s1.writeBackAll a.core))))

/-! ## Thread instructions: memory (R108, R144 to R148) -/

/-- An access of `n` bytes to a space of the core: MISALIGNED first, then the address of local store, cluster-local store and
wide buffer, or BOUNDS. -/
def Obligations.LocalAddresses : Prop :=
  ∀ (s : State) (a : At) (n : Nat) (need : Need) (x : Int), 0 < n → x < 2 ^ 64 →
    (∀ space, x % n ≠ 0 → a.place s space x n need = (s, .error (4, (x % 2 ^ 64).toNat)))
    ∧ (x % n = 0 →
      (0 ≤ x → x + n ≤ a.b.ls → a.place s 0 x n need = (s, .ok (.here (a.b.base + x.toNat) none false)))
      ∧ (x < 0 ∨ a.b.ls < x + n → a.place s 0 x n need = (s, .error (1, (x % 2 ^ 64).toNat)))
      ∧ (∀ m, 0 ≤ x → s.member a.core a.b (x.toNat / 2 ^ 19) = some m →
        (x.toNat % 2 ^ 19 + n ≤ m.ls → a.place s 1 x n need = (s, .ok (.here (m.base + x.toNat % 2 ^ 19) none false)))
        ∧ (m.ls < x.toNat % 2 ^ 19 + n → a.place s 1 x n need = (s, .error (1, (x % 2 ^ 64).toNat))))
      ∧ (x < 0 ∨ s.member a.core a.b (x.toNat / 2 ^ 19) = none →
        a.place s 1 x n need = (s, .error (1, (x % 2 ^ 64).toNat)))
      ∧ (a.b.wb = true → 0 ≤ x → x + n ≤ 65536 →
        a.place s 3 x n need = (s, .ok (.here (0x20040000000 + 0x10000 * a.core + x.toNat) none false)))
      ∧ (a.b.wb = false ∨ x < 0 ∨ 65536 < x + n → a.place s 3 x n need = (s, .error (1, (x % 2 ^ 64).toNat))))

/-- Bytes of this module's memory as an access sees them: a core's local-SRAM slot shows its cache part too (R164). -/
def Sys2Proof.Claims.shown (s : State) (x n : Nat) : List Byte :=
  if isSram x then s.slotBytes x (s.bytes x n) else s.bytes x n

/-- What one access of `n` bytes at a place of this module sees, when no line has to be fetched or written back for it: the
line of the cache part when the access uses lines, otherwise memory. -/
def Sys2Proof.Claims.sees (s : State) (core : Nat) (cached : Bool) (p : Place) (n : Nat) : Option (List Byte) :=
  match p with
  | .here x _ c =>
    if s.isStore x = false then none
    else
      match (s.core core).line (x / 64 * 64), cached && c && (s.core core).split != 0 with
      | some l, true => some (l.slice (x % 64) n)
      | none, false => if s.anyPoison x n then none else some (shown s x n)
      | _, _ => none
  | .away _ _ _ _ => none

/-- The addresses that the lanes of a load or store form. -/
def Sys2Proof.Claims.addrs (a : At) (f : FormM) (ls : List Nat) : List (Nat × Int) :=
  ls.map fun i => (i, a.address (modSpace f.mod) f.a (signedOf 24 f.off.toNat) i)

/-- A loaded value, widened to words: signed bytes and halves are sign-extended. -/
def Sys2Proof.Claims.widened (wid : Nat) (bs : List Byte) : Nat :=
  if wid = 1 then toTwos 32 (signedOf 8 (natLE bs)) else if wid = 3 then toTwos 32 (signedOf 16 (natLE bs)) else natLE bs

/-- No word or block of memory has an error. -/
def Sys2Proof.Claims.soundMem (s : State) : Prop := s.defects = [] ∧ s.crcOff = [] ∧ s.sramBad = []

/-- Operands of LD and of ST. -/
def Sys2Proof.Claims.useLd (f : FormM) : List Use := [.dest f.d (widRegs (modWid f.mod)), .src f.a (addrRegs (modSpace f.mod))]
def Sys2Proof.Claims.useSt (f : FormM) : List Use := [.src f.d (widRegs (modWid f.mod)), .src f.a (addrRegs (modSpace f.mod))]

/-- LD: when no acquire of the threads is outstanding, every lane's access has a place and no earlier operation of the core holds it,
the destination receives what the loads return; from this module's memory, the bytes there. While an acquire is outstanding, or an
earlier operation holds it, it waits (R215, R220). -/
def Obligations.LoadResults : Prop :=
  ∀ (s : State) (sg : SgRef) (f : FormM) (a : At) (s1 s2 : State) (ps : List (Nat × Place)),
    let wid := modWid f.mod
    let o := f.ord.toNat
    let cached := !modStrm f.mod && !(ordAcquire o && decide (2 ≤ ordScope o))
    wid ≠ 7 → (modStrm f.mod = true → modSpace f.mod = 2) → ordRelease o = false →
    s.issuing sg f.g false (useLd f) = some (a, s1) →
    (s1.acquiring a = true → exec (.ld sg f) s = .next (a.served s))
    ∧ (s1.acquiring a = false →
      a.places s1 (modSpace f.mod) (widBytes wid) .read (addrs a f (a.loadLanes f.d)) = (s2, .ok ps) →
      (a.blocked s2 ps (widBytes wid) false = true → exec (.ld sg f) s = .next (a.served s))
      ∧ (a.blocked s2 ps (widBytes wid) false = false →
        (∀ s3 vals, a.loads s2 f.d wid cached (ordAcquire o) ps = (s3, .ok vals) →
          s3.block a.core a.blk = s2.block a.core a.blk →
          Next (.ld sg f) s fun t => a.WroteRegs s3 t f.d (widRegs wid) vals
            ∧ ∃ u : State, u = { s3 with freeCtr := u.freeCtr } ∧ a.OnlyIssuedAfter (useLd f) s1 u t)
        ∧ (∀ v : Nat → List Byte, soundMem s2 →
          (∀ p ∈ ps, sees s2 a.core cached p.2 (widBytes wid) = some (v p.1)) →
          Next (.ld sg f) s fun t =>
            a.WroteRegs s2 t f.d (widRegs wid) (ps.map fun p => (p.1, widened wid (v p.1)))
              ∧ a.OnlyIssuedDraws (useLd f) s2 t)))

/-- A store of `n` bytes at this place goes to memory of this module at once: it is memory, and no line holds it. -/
def Sys2Proof.Claims.plainPlace (s : State) (core : Nat) (p : Place) : Option Nat :=
  match p with
  | .here x _ _ =>
    if s.isStore x = true ∧ isRom x = false ∧ isRom (x + 15) = false ∧ (s.core core).line (x / 64 * 64) = none
    then some x else none
  | .away _ _ _ _ => none

/-- An access at this place uses no line: its window is not cacheable, or the core has no cache part. -/
def Sys2Proof.Claims.uncached (s : State) (core : Nat) (p : Place) : Bool :=
  match p with
  | .here _ _ c => !c || (s.core core).split == 0
  | .away _ _ _ _ => false

/-- Nothing in memory is defective and no drogue sample is pending: a store reports nothing and discards nothing. -/
def Sys2Proof.Claims.quietMem (s : State) : Prop := soundMem s ∧ ∀ c, (s.core c).captures = [none, none]

/-- ST: every lane's bytes are stored at its place and every other byte keeps its value; no register changes. While an acquire of the
threads is outstanding, an earlier operation holds the place, or the release's part is not done, it waits. -/
def Obligations.StoreResults : Prop :=
  ∀ (s : State) (sg : SgRef) (f : FormM) (a : At) (s1 s2 s3 : State) (ps : List (Nat × Place)),
    let wid := modWid f.mod
    let o := f.ord.toNat
    wid ≠ 7 → modStrm f.mod = false → ordAcquire o = false →
    s.issuing sg f.g false (useSt f) = some (a, s1) →
    (s1.acquiring a = true → exec (.st sg f) s = .next (a.served s))
    ∧ (s1.acquiring a = false →
      a.places s1 (modSpace f.mod) (widBytes wid) .write (addrs a f a.lanes) = (s2, .ok ps) →
      (a.blocked s2 ps (widBytes wid) true = true → exec (.st sg f) s = .next (a.served s))
      ∧ (a.blocked s2 ps (widBytes wid) true = false →
        (s2.release a o = (s3, false) → exec (.st sg f) s = .next (a.issued s3))
        ∧ (s2.release a o = (s3, true) →
          (∀ s4, a.stores s3 (!(ordRelease o && decide (2 ≤ ordScope o))) (a.storeBytes f.d wid) ps = (s4, none) →
            Next (.st sg f) s fun t => a.OnlyIssuedAfter (useSt f) s1 s4 t)
          ∧ (quietMem s3 → (∀ p ∈ ps, (plainPlace s3 a.core p.2).isSome ∧ uncached s3 a.core p.2 = true) →
            Next (.st sg f) s fun t =>
              (∀ p ∈ ps, ∀ x, plainPlace s3 a.core p.2 = some x →
                (∀ q ∈ ps, q.1 ≠ p.1 → ∀ y, plainPlace s3 a.core q.2 = some y → x + widBytes wid ≤ y ∨ y + widBytes wid ≤ x) →
                t.bytes x (widBytes wid) = bytesLE (widBytes wid) (a.g.val f.d p.1 (widRegs wid)))
              ∧ (∀ z, (∀ p ∈ ps, ∀ x, plainPlace s3 a.core p.2 = some x → z < x ∨ x + widBytes wid ≤ z) →
                t.byte z = s3.byte z)
              ∧ a.RegsHeld s3 t
              ∧ t = { s3 with cores := t.cores, mem := t.mem, lost := t.lost, reqs := (a.supersede s3 s3 (useSt f)).reqs
                              progress := (s3.progressed (.thread a.core)).progress }))))

/-- Operands of ST.N and of ACC.N. -/
def Sys2Proof.Claims.useStN (f : FormR) : List Use := [.unused f.d, .src f.a 2, .src f.b (widRegs (modWid f.mod)), .srcIn f.c [.u]]
def Sys2Proof.Claims.useAccN (f : FormR) : List Use := [.unused f.d, .src f.a 2, .src f.b, .srcIn f.c [.u]]

/-- The lanes' counted writes one after the other, each by `act` of a place, lane and counter: the state after them, when each finds
where to go. -/
def Sys2Proof.Claims.countedAll (a : At) (f : FormR) (act : State → Place → Nat → Nat → State × Bool) (s : State) :
    List (Nat × Place) → Option State
  | [] => some s
  | p :: ps =>
    let r := act s p.2 p.1 (a.g.val f.c p.1 1)
    if r.2 then Sys2Proof.Claims.countedAll a f act r.1 ps else none

/-- ST.N and ACC.N, plain or with a release: each lane's bytes or FP32 sum at its place, and its counter raised by the bytes written. Of
one lane to this module's DRAM: every other byte and counter keeps its value. -/
def Obligations.CountedWrites : Prop :=
  ∀ (s : State) (sg : SgRef) (f : FormR) (a : At) (s1 s2 s3 : State) (ps : List (Nat × Place)) (wid : Nat),
    wid = modWid f.mod → modSpace f.mod = 2 → modStrm f.mod = false → fld f.ctl 4 6 = 0 → fld f.ctl 2 1 = 0 →
    s1.acquiring a = false →
    a.places s1 2 (widBytes wid) .count (a.each fun i => a.address 2 f.a 0 i) = (s2, .ok ps) →
    a.blocked s2 ps (widBytes wid) true = false →
    (∀ p ∈ ps, (a.countId s2 f.c p.1 p.2).isSome) → s2.release a (fld f.ctl 0 4) = (s3, true) →
    -- every lane, wherever its place is
    ((wid = 4 ∨ wid = 5 ∨ wid = 6) → s.issuing sg f.g false (useStN f) = some (a, s1) →
      ∀ s4, countedAll a f (fun s p i id => a.storeCounted s p (a.storeBytes f.b wid i) id) s3 ps = some s4 →
      Next (.stN sg f) s fun t => a.OnlyIssuedAfter (useStN f) s1 s4 t)
    ∧ (wid = 4 → s.issuing sg f.g false (useAccN f) = some (a, s1) →
      ∀ s4, countedAll a f (fun s p i id => a.accumulate s p (BitVec.ofNat 32 (a.g.val f.b i 1)) id) s3 ps = some s4 →
      Next (.accN sg f) s fun t => a.OnlyIssuedAfter (useAccN f) s1 s4 t)
    -- one lane to this module's DRAM
    ∧ (∀ i x, ps.map Prod.fst = [i] → ps.map (fun p => plainPlace s3 a.core p.2) = [some x] → isDram x = true → quietMem s3 →
      let id := a.g.val f.c i 1
      let counted := fun (t : State) (k : Nat) =>
        (t.spoolVal id = if bitAt (s3.spoolVal id) 63 then s3.spoolVal id
            else BitVec.ofNat 64 (min (fld (s3.spoolVal id) 0 63 + k) (2 ^ 63 - 1)))
          ∧ (∀ m, m ≠ id → t.spoolVal m = s3.spoolVal m) ∧ a.RegsHeld s3 t
      ((wid = 4 ∨ wid = 5 ∨ wid = 6) → s.issuing sg f.g false (useStN f) = some (a, s1) →
        Next (.stN sg f) s fun t =>
          t.bytes x (widBytes wid) = bytesLE (widBytes wid) (a.g.val f.b i (widRegs wid))
            ∧ (∀ z, z < x ∨ x + widBytes wid ≤ z → t.byte z = s3.byte z) ∧ counted t (widBytes wid)
            ∧ t = { s3 with cores := t.cores, mem := t.mem, lost := t.lost, spool := t.spool, spoolChg := t.spoolChg
                            waiters := t.waiters, reqs := (a.supersede s3 s3 (useStN f)).reqs
                            progress := (s3.progressed (.thread a.core)).progress })
      ∧ (wid = 4 → s3.anyPoison x 4 = false → s.issuing sg f.g false (useAccN f) = some (a, s1) →
        Next (.accN sg f) s fun t =>
          t.word x = fadd (s3.word x) (BitVec.ofNat 32 (a.g.val f.b i 1))
            ∧ (∀ z, z < x ∨ x + 4 ≤ z → t.byte z = s3.byte z) ∧ counted t 4
            ∧ t = { s3 with cores := t.cores, mem := t.mem, lost := t.lost, setup := t.setup, spool := t.spool
                            spoolChg := t.spoolChg, waiters := t.waiters, reqs := (a.supersede s3 s3 (useAccN f)).reqs
                            progress := (s3.progressed (.thread a.core)).progress }))

/-- Operands of CINV and CWB. -/
def Sys2Proof.Claims.useLines (f : FormR) : List Use := [.unused f.d, .src f.a 2, .src f.b, .unused f.c]

/-- What CINV and CWB do to the lines that the lanes' ranges touch, lane by lane: the state after them, when every byte translates. -/
def Sys2Proof.Claims.linesAll (a : At) (f : FormR) (act : State → Nat → State) (s : State) : List Nat → Option State
  | [] => some s
  | i :: is =>
    let r := a.cacheOp s act (a.g.val f.a i 2) (a.g.val f.b i 1)
    if r.2.isNone then Sys2Proof.Claims.linesAll a f act r.1 is else none

/-- CINV and CWB complete on every range that translates and that no earlier operation of the core holds. On one block of this module's
memory CWB leaves no modified byte in its line, CINV leaves no line; no register changes, and a length of 0 does nothing. -/
def Obligations.CacheInstructions : Prop :=
  ∀ (s : State) (sg : SgRef) (f : FormR) (a : At) (s1 : State),
    modSpace f.mod = 2 → modWid f.mod ≠ 7 → modStrm f.mod = false → f.ctl = 0 →
    s.issuing sg f.g false (useLines f) = some (a, s1) → s1.acquiring a = false →
    (∀ i ∈ a.lanes, 0 < a.g.val f.b i 1 →
      (s1.core a.core).conflict (vaKey a.b.ctx (a.g.val f.a i 2)) (a.g.val f.b i 1) true = false) →
    -- every lane's lines, whatever they are
    (∀ s2, linesAll a f (fun s k => s.evict a.core k) s1 a.lanes = some s2 →
      ∃ t, exec (.cinv sg f) s = .next t ∧ a.OnlyIssuedAfter (useLines f) s1 s2 t)
    ∧ (∀ s2, linesAll a f (fun s k => s.writeBack a.core k) s1 a.lanes = some s2 →
      ∃ t, exec (.cwb sg f) s = .next t ∧ a.OnlyIssuedAfter (useLines f) s1 s2 t)
    ∧ ((∀ i ∈ a.lanes, a.g.val f.b i 1 = 0) →
      (∃ t, exec (.cinv sg f) s = .next t ∧ a.RegsKept s1 t ∧ a.OnlyIssued (useLines f) s1 t)
        ∧ ∃ t, exec (.cwb sg f) s = .next t ∧ a.RegsKept s1 t ∧ a.OnlyIssued (useLines f) s1 t)
    ∧ (∀ i va x s2 c, a.lanes = [i] → a.g.val f.a i 2 = va → va % 64 + a.g.val f.b i 1 ≤ 64 → 0 < a.g.val f.b i 1 →
      s1.translate a.core a.b.ctx (va / 64 * 64) .read = (s2, .ok (.here x, c)) → quietMem s2 →
      (∀ l, (s2.core a.core).line (x / 64 * 64) = some l → l.remote = none ∧ l.bytes.length = 64) →
      (∃ t, exec (.cwb sg f) s = .next t ∧ a.RegsHeld s2 t
          ∧ (∀ l, (s2.core a.core).line (x / 64 * 64) = some l →
            (t.core a.core).line (x / 64 * 64) = some { l with dirty := 0 }
              ∧ (∀ k < 64, x / 64 * 64 < 0xF0000000000 → bitAt l.dirty k = true →
                  t.byte (x / 64 * 64 + k) = l.bytes.getD k 0)
              ∧ ∀ z, (∀ k < 64, bitAt l.dirty k = true → z ≠ x / 64 * 64 + k) → t.byte z = s2.byte z)
          ∧ (∀ k, k ≠ x / 64 * 64 → (t.core a.core).line k = (s2.core a.core).line k))
        ∧ ∃ t, exec (.cinv sg f) s = .next t ∧ a.RegsHeld s2 t ∧ (t.core a.core).line (x / 64 * 64) = none
          ∧ ∀ k, k ≠ x / 64 * 64 → (t.core a.core).line k = (s2.core a.core).line k)

/-- Operands of AOP. -/
def Sys2Proof.Claims.useAop (f : FormR) : List Use :=
  let k := atomBits (fld f.mod 0 3) / 32
  [.dest f.d k, .src f.a (addrRegs (fld f.ctl 8 2)), .src f.b k, if fld f.mod 3 3 = 7 then .src f.c k else .unused f.c]

/-- The memory operations of an atomic one after the other: the state after them and what each lane receives at once, when none
fails. -/
def Sys2Proof.Claims.atomicsAll (a : At) (f : FormR) (s : State) :
    List (Place × Nat × Nat × List (Nat × Option Nat)) → Option (State × List (Nat × Nat))
  | [] => some (s, [])
  | x :: xs =>
    match a.atomicOp s f.d (fld f.mod 3 3) (fld f.mod 0 3) (ordAcquire (fld f.ctl 4 4)) x.1 x.2.1 x.2.2.1 x.2.2.2 with
    | (t, .ok vs) => (Sys2Proof.Claims.atomicsAll a f t xs).map fun q => (q.1, vs ++ q.2)
    | (_, .error _) => none

/-- AOP of every order, whatever its lanes and places: the lanes receive what their operations answer (those of another module, when
its answer comes). Of one lane to this module's memory: the destination receives the value seen, memory the new value. -/
def Obligations.AtomicResult : Prop :=
  ∀ (s : State) (sg : SgRef) (f : FormR) (a : At) (s1 s2 s3 : State) (ps : List (Nat × Place)),
    let op := fld f.mod 3 3
    let ty := fld f.mod 0 3
    let n := atomBits ty / 8
    atomOk op ty = true → fld f.ctl 8 2 < 3 → fld f.ctl 0 4 = 0 →
    s.issuing sg f.g false (useAop f) = some (a, s1) → s1.acquiring a = false →
    a.places s1 (fld f.ctl 8 2) n .atomic (a.each fun i => a.address (fld f.ctl 8 2) f.a 0 i) = (s2, .ok ps) →
    a.blocked s2 ps n true = false → s2.release a (fld f.ctl 4 4) = (s3, true) →
    (∀ s4 vals, atomicsAll a f s3 (atomicPlan op ty ps (fun i => a.g.val f.b i (n / 4)) fun i => a.g.val f.c i (n / 4)) = some (s4, vals) →
      s4.block a.core a.blk = s2.block a.core a.blk →
      Next (.aop sg f) s fun t => a.WroteRegs s4 t f.d (n / 4) vals
        ∧ ∃ u : State, u = { s4 with freeCtr := u.freeCtr } ∧ a.OnlyIssuedAfter (useAop f) s1 u t)
    ∧ (∀ i x, ps.map Prod.fst = [i] → ps.map (fun p => plainPlace s3 a.core p.2) = [some x] → quietMem s3 → s3.anyPoison x n = false →
      let old := natLE (shown s3 x n)
      let b := a.g.val f.b i (n / 4)
      Next (.aop sg f) s fun t =>
        (∃ u, a.RegsHeld s3 u ∧ a.WroteRegs u t f.d (n / 4) [(i, old)])
          ∧ t.bytes x n = bytesLE n
              (if op = 7 then (if old = a.g.val f.c i (n / 4) then b else old)
               else if op = 6 then b
               else if ty = 4 then
                 (if op = 0 then fadd (BitVec.ofNat 32 old) (BitVec.ofNat 32 b)
                   else if op = 1 then fminW (BitVec.ofNat 32 old) (BitVec.ofNat 32 b)
                   else fmaxW (BitVec.ofNat 32 old) (BitVec.ofNat 32 b)).toNat
               else if op = 0 then (old + b) % 2 ^ (8 * n)
               else if op ≤ 2 then minMax (op == 2) (ty % 2 == 1) (8 * n) old b
               else if op = 3 then old &&& b else if op = 4 then old ||| b else old ^^^ b)
          ∧ (∀ z, z < x ∨ x + n ≤ z → t.byte z = s3.byte z)
          ∧ t = { s3 with cores := t.cores, mem := t.mem, lost := t.lost, reqs := (a.supersede s3 s3 (useAop f)).reqs
                          progress := (s3.progressed (.thread a.core)).progress })

/-- A fault of a thread kills its context and is latched as a FAULT report that names core, group, lanes, instruction and
address; the issuing instruction itself writes nothing (R126, R387). -/
def Obligations.ThreadFaults : Prop :=
  (∀ (a : At) (s : State) (cls addr : Nat), a.core < 1536 →
    let t := a.fault s cls addr
    t.cores = s.cores ∧ t.spool = s.spool ∧ t.ctxRuns a.b.ctx = false
      ∧ ∃ r : Report, ((t.latch a.core).first = some r ∨ (t.latch a.core).latest = some r)
        ∧ r.cls = 1 ∧ r.cause = cls ∧ r.sev = 2 ∧ r.ctx = some a.b.ctx ∧ r.unit = a.core ∧ r.lcount = s.lcount
        ∧ r.detail = [BitVec.ofNat 32 a.grp, a.sub.mask, BitVec.ofNat 32 a.sub.pc.toNat,
            BitVec.ofNat 32 (a.sub.pc.toNat / 2 ^ 32), BitVec.ofNat 32 addr, BitVec.ofNat 32 (addr / 2 ^ 32)])
  ∧ (∀ (s : State) (sg : SgRef) (f : FormM) (a : At) (s1 s2 : State) (cls ad : Nat),
    let wid := modWid f.mod
    wid ≠ 7 → modStrm f.mod = false →
    (ordRelease f.ord.toNat = false →
      s.issuing sg f.g false (useLd f) = some (a, s1) → s1.acquiring a = false →
      a.places s1 (modSpace f.mod) (widBytes wid) .read (addrs a f (a.loadLanes f.d)) = (s2, .error (cls, ad)) →
      exec (.ld sg f) s = .next (a.issued (a.fault s2 cls ad)))
    ∧ (ordAcquire f.ord.toNat = false →
      s.issuing sg f.g false (useSt f) = some (a, s1) → s1.acquiring a = false →
      a.places s1 (modSpace f.mod) (widBytes wid) .write (addrs a f a.lanes) = (s2, .error (cls, ad)) →
      exec (.st sg f) s = .next (a.issued (a.fault s2 cls ad))))

/-- An instruction whose fields its opcode does not allow, an opcode that no table lists, and an address that may not be
executed: a fault of class ILLEGAL (5), or the translation's, at the instruction's own address, and no other effect. -/
def Obligations.IllegalInstructions : Prop :=
  ∀ (s : State) (sg : SgRef) (gf : BitVec 4) (a : At) (s1 : State), sg.partner = none →
    s.at? sg.core sg.blk sg.grp sg.lane gf = some a →
    -- a word spells an instruction exactly when a table lists its opcode (R132, R163)
    (∀ w : DWord, (decodeThread sg w).isSome = definedOpcode (fld w 56 8))
    ∧ (∀ (w : DWord) u, definedOpcode (fld w 56 8) = false → gf = BitVec.ofNat 4 (fld w 46 4) →
      s.translate a.core a.b.ctx a.sub.pc.toNat .fetch = (s1, .ok u) →
      -- no table lists the opcode
      exec (.undefinedInstruction sg w) s = .next (a.issued (a.fault s1 5 a.sub.pc.toNat)))
    ∧ (∀ (f : FormR) u, f.g = gf → s.translate a.core a.b.ctx a.sub.pc.toNat .fetch = (s1, .ok u) →
      (f.ctl ≠ 0 ∨ f.mod ≠ 0 ∨ fileOf f.d ≠ (.zero, 0) ∨ fileOf f.a ≠ (.zero, 0) →
        exec (.nop sg f) s = .next (a.issued (a.fault s1 5 a.sub.pc.toNat)) ∧ exec (.endThread sg f) s = .next (a.issued (a.fault s1 5 a.sub.pc.toNat)))
      ∧ (f.ctl ≠ 0 ∨ fileOf f.d = (.reserved, 0) ∨ (∃ k, fileOf f.d = (.t, k) ∧ min 255 (8 * ((a.b.regs + 7) / 8)) ≤ k) →
        exec (.mov sg f) s = .next (a.issued (a.fault s1 5 a.sub.pc.toNat))
          ∧ exec (.add sg f) s = .next (a.issued (a.fault s1 5 a.sub.pc.toNat))
          ∧ exec (.mullo sg f) s = .next (a.issued (a.fault s1 5 a.sub.pc.toNat))
          ∧ exec (.fmaF sg f) s = .next (a.issued (a.fault s1 5 a.sub.pc.toNat))))
    ∧ (∀ (f : FormR) cls, f.g = gf → s.translate a.core a.b.ctx a.sub.pc.toNat .fetch = (s1, .error cls) →
        exec (.nop sg f) s = .next (a.issued (a.fault s1 cls a.sub.pc.toNat))
          ∧ exec (.add sg f) s = .next (a.issued (a.fault s1 cls a.sub.pc.toNat)))

/-! ## Re-packing (R119) -/

/-- The state has a counter raised by `n`, stopping at 0xFFFF_FFFF (R41, R71). -/
def Sys2Proof.Claims.raised (s t : State) (off n : Nat) : Prop :=
  (t.reg off).toNat = min ((s.reg off).toNat + n) 0xFFFFFFFF

/-- Every register outside `offs` keeps its value. -/
def Sys2Proof.Claims.regsKept (s t : State) (offs : List Nat) : Prop := ∀ o, o ∉ offs → t.reg o = s.reg o

/-- Two sub-groups of different groups at one address, with disjoint lanes and no u or h source, share an issue slot: their
effects follow one another, as if the second's turn came at once, the scheduler goes on behind the first, and REPACK counts one;
without those conditions nothing issues. -/
def Obligations.RepackedPairs : Prop :=
  ∀ (s : State) (sg : SgRef) (f : FormR) (grp lane : Nat) (a b : At) (s1 : State) (u v : State) (a2 : At) (u1 : State)
    (c : SgRef → Instr), sg.partner = some (grp, lane) →
    let us := use2 f 1
    let first : SgRef := { sg with partner := none }
    let second : SgRef := { sg with grp := grp, lane := lane, partner := none }
    f.mod = 0 → f.ctl = 0 → c ∈ [fun g => Instr.add g f, fun g => Instr.mullo g f, fun g => Instr.addF g f] →
    s.issuing first f.g false us = some (a, s1) → s.ready? sg.core sg.blk grp lane f.g = some b →
    (a.grp ≠ b.grp → a.sub.pc = b.sub.pc → a.sub.mask &&& b.sub.mask = 0 → readsUniform us = false →
      s.interlocked b us = false →
      exec (c first) s = .next u →
      let w := u.modCore sg.core fun x => { x with turn := b.key }
      w.issuing second f.g false us = some (a2, u1) → exec (c second) w = .next v →
      Next (c sg) s fun t => raised v t (0x20000 * (sg.core / 16) + 0x1000 * (sg.core % 16 + 1) + 0x200) 1
        ∧ regsKept v t [0x20000 * (sg.core / 16) + 0x1000 * (sg.core % 16 + 1) + 0x200]
        ∧ (∀ k, t.core k = if k = sg.core then { v.core k with turn := a.key + 1 } else v.core k)
        ∧ t = { v with setup := t.setup, cores := t.cores })
    ∧ (a.grp = b.grp ∨ a.sub.pc ≠ b.sub.pc ∨ a.sub.mask &&& b.sub.mask ≠ 0 ∨ readsUniform us = true ∨ s.interlocked b us = true →
      exec (c sg) s = .next s)

/-! ## Array operations (R47 to R72, R155) -/

/-- The layout descriptors that an array descriptor names. -/
def Sys2Proof.Claims.layoutsOf (d : List Word) : List Nat :=
  (if dSparse d then [] else [dALd d]) ++ [dBLd d] ++ (if dDest d = 0 then [dOLd d] else [])

/-- Operands of ARR.ISSUE and of STR.ISSUE. -/
def Sys2Proof.Claims.useArr (f : FormR) : List Use := [.unused f.d, .srcIn f.a [.h], .srcIn f.b [.h, .zero], .unused f.c]
def Sys2Proof.Claims.useStr (f : FormR) : List Use := [.unused f.d, .srcIn f.a [.h], .unused f.b, .unused f.c]

/-- The block of the issuing group holds nothing new but a handle's value; t, u and p registers are as before. -/
def Sys2Proof.Claims.HandleOnly (a : At) (s t : State) (h : Nat) (v : DWord) : Prop :=
  (a.groupIn t).hreg h = v ∧ (a.groupIn t).t = (a.groupIn s).t ∧ (a.groupIn t).u = (a.groupIn s).u
    ∧ (a.groupIn t).p = (a.groupIn s).p

/-- ARR.ISSUE, when no acquire of its threads is outstanding: it waits for a PENDING handle and for a full queue; a handle without an
address ends with BADDESC; a descriptor outside the allocation is a BOUNDS fault; an operation that passes every check joins the
queue of each array it occupies, under a PENDING handle, and takes the next place in the core order; one whose descriptor does not
match its complement joins them too, to report INTEGRITY when its turn comes. -/
def Obligations.ArrayIssue : Prop :=
  ∀ (s : State) (sg : SgRef) (f : FormR) (a : At) (s1 : State), plainR f = true →
    s.issuing sg f.g false (useArr f) = some (a, s1) → s1.acquiring a = false →
    let h := hNo f.a
    let v := a.g.handle f.a
    let addr := fld v 0 19
    let at' := a.b.base + addr
    (hState v = 2 → exec (.arrIssue sg f) s = .next (a.served s))
    ∧ (hState v ≠ 2 → hState v = 0 ∨ addr % 128 ≠ 0 →
      Next (.arrIssue sg f) s fun t =>
        a.WroteHandle s1 t h (BitVec.ofNat 64 (0xC000110100000000 + addr)) ∧ a.OnlyIssued (useArr f) s1 t)
    ∧ (hState v = 1 ∨ hState v = 3 → addr % 128 = 0 → a.b.ls < addr + 128 →
      exec (.arrIssue sg f) s = .next (a.issued (a.fault s1 1 addr)))
    ∧ (hState v = 1 ∨ hState v = 3 → addr % 128 = 0 → addr + 128 ≤ a.b.ls →
      (s1.core a.core).conflict at' 128 false = false → quietMem s1 → s1.anyPoison at' 128 = false →
      (s1.core a.core).arrays.length = 3 →
      let ws := s1.words at' 32
      let d := ws.take 16
      let map := ((s1.core a.core).mapCopy).getD (s1.reg (offArrayMap a.core), s1.reg (offArrayMap a.core + 4))
      let la := s1.words (a.b.base + dALd d) 8
      let lb := s1.words (a.b.base + dBLd d) 8
      let lo := s1.words (a.b.base + dOLd d) 8
      let queued := fun (t : State) (o : ArrOp) =>
        (∀ i, (t.core a.core).array i =
            if i ∈ opArrays d then { (s1.core a.core).array i with queue := ((s1.core a.core).array i).queue ++ [o] }
            else (s1.core a.core).array i)
          ∧ (t.core a.core).nextSeq = (s1.core a.core).nextSeq + 1 ∧ (t.core a.core).copies = (s1.core a.core).copies
          ∧ (∀ c, c ≠ a.core → t.core c = s1.core c)
          ∧ HandleOnly a s1 t h (BitVec.ofNat 64 (0x8000000100000000 + addr))
      ((∃ i ∈ opArrays d, 4 ≤ ((s1.core a.core).array i).waiting.length) → exec (.arrIssue sg f) s = .next (a.served s))
      ∧ ((∀ i ∈ opArrays d, ((s1.core a.core).array i).waiting.length < 4) →
        (∀ x ∈ layoutsOf d, x + 64 ≤ a.b.ls) →
        (complementsOk 16 ws = false →
          Next (.arrIssue sg f) s fun t =>
            queued t { a.newOp s1 h d 16 [] [] [] [] with reads := [], writes := [], refused := some 0x10 })
        ∧ (complementsOk 16 ws = true →
          (∀ x ∈ layoutsOf d, complementsOk 8 (s1.words (a.b.base + x) 16) = true) →
          map.2 = ~~~ map.1 → fld (wordAt d 0) 24 8 = 0xA1 → badArray map.1 a.b.wb d = false →
          badShape map.1 d (.ofWords la) (.ofWords lb) (.ofWords lo) = false → dPbm d = false →
          badFmt d (.ofWords la) (.ofWords lb) (.ofWords lo) = false →
          (∀ r ∈ opReads d (.ofWords la) (.ofWords lb) ++ opWrites d (opWidth map.1 d) (.ofWords lo), inAlloc a.b.ls r = true) →
          (dSpoolEn d = true → s1.inSpool a.b.ctx (dSpoolId d) = true) → (fileOf f.b).1 = .zero →
          Next (.arrIssue sg f) s fun t =>
            queued t (a.newOp s1 h d (opWidth map.1 d) la lb lo []) ∧ a.OnlyIssued (useArr f) s1 t)))

/-- The byte at `z` after bit writes in order. -/
def Sys2Proof.Claims.after (s : State) (ws : List BitWrite) (z : Nat) : Byte :=
  ws.foldl (fun b w => if w.addr = z then (b &&& ~~~ w.mask) ||| (w.val &&& w.mask) else b) (s.byte z)

/-- An array and its first running operation that still feeds or converts, the only one with its place in the core order. -/
def Sys2Proof.Claims.converting (s : State) (core arr : Nat) (o : ArrOp) : Prop :=
  core < 1536 ∧ arr < 3 ∧ (s.core core).arrays.length = 3 ∧ ((s.core core).array arr).current = some o ∧ o.killed = false
    ∧ (s.core core).tileBlocked arr o = false ∧ (opArrays o.desc).headD 0 = arr
    ∧ ∀ p ∈ ((s.core core).array arr).running, p.seq = o.seq → p = o

/-- The array engine's progress at this count. -/
def Sys2Proof.Claims.arrayNow (s : State) (core arr : Nat) : Sparse DWord := (s.progressed (.array core arr)).progress

/-- ARRAY_OP_START, ARRAY_RECONFIGURE, TILE_REFEED, REPLAY_STAGE_COPY, SPARSE_BADLIST and ARRAY_OP_COMPLETE of an operation on
one array; without their condition nothing happens. -/
def Obligations.ArrayEvents : Prop :=
  ∀ (s : State) (core arr held : Nat) (cyc : ArrCycles) (o : ArrOp) (rest : List ArrOp),
    core < 1536 → arr < 3 → (s.core core).arrays.length = 3 → dArray o.desc = arr → quietMem s →
    let x := (s.core core).array arr
    (x.queue = o :: rest → x.running.length < 2 → x.drained = true → (s.core core).stopped = false →
      (x.shape = dShape o.desc → o.refused = none →
        Next (.arrayOpStart core arr held) s fun t =>
          (t.core core).array arr = { x with
              queue := rest
              running := x.running ++ [if dSparse o.desc then o else
                let k := min (opTiles o.desc o.width) (opDepth o.desc o.width)
                { o with fed := List.range k, tile := k }] }
            ∧ (∀ i, i ≠ arr → (t.core core).array i = (s.core core).array i) ∧ (∀ c, c ≠ core → t.core c = s.core c)
            -- array-cycles that pacing held, unless a guard is in force without a duty (R347, R350)
            ∧ raised s t (offPp (core / 192) 1) (if (s.part (core / 192)).guard = 0 ∨ s.power.duty < 8 then held else 0)
            ∧ regsKept s t [offPp (core / 192) 1]
            ∧ t = { s with cores := t.cores, setup := t.setup, progress := arrayNow s core arr })
      ∧ (∀ st, o.refused = some st → (s.block core o.owner.1).isSome →
        Next (.arrayOpStart core arr held) s fun t =>
          (t.core core).array arr = { x with queue := rest }
            ∧ (t.group core o.owner.1 o.owner.2.1).hreg o.owner.2.2
                = mkHandle 3 st 1 (hAddr ((s.group core o.owner.1 o.owner.2.1).hreg o.owner.2.2))
            ∧ (∀ i, i ≠ arr → (t.core core).array i = (s.core core).array i) ∧ (∀ c, c ≠ core → t.core c = s.core c)
            ∧ OnlyCores s t))
    ∧ (x.queue = [] → exec (.arrayOpStart core arr held) s = .next s ∧ exec (.arrayReconfigure core arr) s = .next s)
    ∧ (x.queue = o :: rest → x.shape ≠ dShape o.desc → x.drained = true → o.refused = none →
      Next (.arrayReconfigure core arr) s fun t =>
        (t.core core).array arr = { x with shape := dShape o.desc } ∧ raised s t (offArr core arr 0) 8
          ∧ (∀ c, c ≠ core → t.core c = s.core c) ∧ t = { s with cores := t.cores, setup := t.setup })
    ∧ (x.current = some o → o.killed = false →
      (∀ k ks, o.refeed = k :: ks →
        Next (.tileRefeed core arr) s fun t =>
          ((t.core core).array arr).running = (x.running.map fun p =>
              if p.seq = o.seq then { p with refeed := ks, fed := p.fed ++ [k], replays := p.replays + 1 } else p)
            ∧ raised s t (offArr core arr 7) 1 ∧ regsKept s t [offArr core arr 7]
            ∧ t = { s with cores := t.cores, setup := t.setup, progress := arrayNow s core arr })
      ∧ (o.refeed = [] → exec (.tileRefeed core arr) s = .next s))
    ∧ ((∀ p ∈ x.running, p.stages = []) → exec (.replayStageCopy core arr) s = .next s)
    ∧ (∀ st sts, x.running.find? (fun p => !p.stages.isEmpty) = some o → o.stages = st :: sts → o.killed = false →
      (o.writes.any fun r => (s.core core).conflictBefore o.seq r true) = false →
      Next (.replayStageCopy core arr) s fun t =>
        (∀ z, isRom z = false → t.byte z = after s st.writes z)
          ∧ (∀ p ∈ ((t.core core).array arr).running, p.seq = o.seq → p.stages = sts)
          ∧ t = { s with cores := t.cores, mem := t.mem, lost := t.lost, progress := arrayNow s core arr })
    ∧ (arr = 2 → x.current = some o → dSparse o.desc = true → o.killed = false → (s.core core).opBlocked o = false →
      (entryBad o (listEntry s.byte o o.entry) = true →
        Next (.sparseBadlist core) s fun t =>
          ((t.core core).array 2).running = (x.running.map fun p => if p.seq = o.seq then { p with bad := some o.entry } else p)
            ∧ OnlyCores s t)
      ∧ (entryBad o (listEntry s.byte o o.entry) = false → exec (.sparseBadlist core) s = .next s))
    ∧ (x.running = o :: rest → o.fedOut = true → o.stages = [] → o.killed = false → (s.core core).opBlocked o = false →
      o.clamped = 0 → dReplay o.desc = false →
      let base := o.base + dCompl o.desc
      isSram base = true → isSram (base + 31) = true → (s.block core o.owner.1).isSome →
      Next (.arrayOpComplete core arr cyc) s fun t =>
        t.bytes base 32 = bytesOfWords (opRecord { o with freeze := o.freeze + cyc.frozen })
          ∧ (∀ z, z < base ∨ base + 32 ≤ z → t.byte z = s.byte z)
          ∧ (t.group core o.owner.1 o.owner.2.1).hreg o.owner.2.2 =
              mkHandle 3 (if o.bad.isSome then 0x20 else 0) 1
                (hAddr ((s.group core o.owner.1 o.owner.2.1).hreg o.owner.2.2))
          ∧ (dSpoolEn o.desc = true → t.spool = (s.spoolAdd (dSpoolId o.desc) o.done.length).spool)
          ∧ (dSpoolEn o.desc = false → t.spool = s.spool)
          ∧ ((t.core core).array arr).running = rest.filter (fun p => p.seq != o.seq)
          ∧ raised s t (offArr core arr 0) cyc.busy ∧ raised s t (offArr core arr 1) cyc.frozen
          ∧ raised s t (offArr core arr 2) cyc.feed ∧ raised s t (offArr core arr 3) cyc.drain)

/-- TILE_CONVERT_DONE: the next fed tile of a dense operation is written, its counts added, and the next tile enters; a pass
of a sparse one is added into the wide buffer. -/
def Obligations.TileConversion : Prop :=
  ∀ (s : State) (core arr : Nat) (cyc : ArrCycles) (o : ArrOp), converting s core arr o → quietMem s → s.scaleBad = [] →
    dArray o.desc = arr →
    (∀ k rest, dSparse o.desc = false → dReplay o.desc = false → o.fed = k :: rest → o.shadow = [] → o.refed = [] →
      let o1 : ArrOp := { o with
        freeze := o.freeze + cyc.frozen
        rowBits := Sparse.set (fun _ => 0) o.rowBits (tileBlocks o k).1 (65536 + rowBitsAt s.byte o (tileBlocks o k).1)
        fed := rest }
      let out := if dWb o.desc then wbTile s.byte core o1 k else tileOutput s.byte o1 k (dS o.desc)
      out.cvt.nans = 0 →
      Next (.tileConvertDone core arr cyc) s fun t =>
        (∀ z, isRom z = false → t.byte z = after s out.writes z)
          ∧ raised s t (offCvt core 0) out.cvt.sat ∧ raised s t (offCvt core 1) out.cvt.infs
          ∧ raised s t (offArr core arr 0) cyc.busy ∧ raised s t (offArr core arr 1) cyc.frozen
          ∧ raised s t (offArr core arr 2) cyc.feed ∧ raised s t (offArr core arr 3) cyc.drain
          ∧ (∀ p ∈ ((t.core core).array arr).running, p.seq = o.seq →
              p.fed = rest ++ (if o.refeed = [] ∧ o.tile < opTiles o.desc o.width then [o.tile] else [])
              ∧ p.done.length = (out.writes.foldl (fun m w => Sparse.set (fun _ => false) m w.addr true) o.done).length
              ∧ p.cvt = { sat := o.cvt.sat + out.cvt.sat, infs := o.cvt.infs + out.cvt.infs, nans := o.cvt.nans })
          ∧ (∀ c, c ≠ core → t.core c = s.core c)
          ∧ t = { s with cores := t.cores, mem := t.mem, lost := t.lost, setup := t.setup, progress := arrayNow s core arr })
    ∧ (dSparse o.desc = true → arr = 2 →
      let es := passEntries s.byte o none o.entry 16
      let xs := passSums s.byte { o with freeze := o.freeze + cyc.frozen } es
      es ≠ [] → (xs.map Prod.fst).Nodup → dDest o.desc = 2 →
      (∀ x ∈ xs, isRom (0x20040000000 + 0x10000 * core + 4 * x.1) = false ∧ isRom (0x20040000000 + 0x10000 * core + 4 * x.1 + 3) = false) →
      -- no sum that is written is a NaN
      (∀ x ∈ xs, (fdec (fadd (s.word (wbBase core + 4 * x.1)) x.2)).isNan = false) →
      Next (.tileConvertDone core arr cyc) s fun t =>
        (∀ x ∈ xs, t.word (wbBase core + 4 * x.1) = fadd (s.word (wbBase core + 4 * x.1)) x.2)
          ∧ (∀ z, (∀ x ∈ xs, z < wbBase core + 4 * x.1 ∨ wbBase core + 4 * x.1 + 4 ≤ z) → t.byte z = s.byte z)
          ∧ raised s t (offArr core 2 5) 1 ∧ raised s t (offArr core 2 6) es.length
          ∧ (∀ p ∈ ((t.core core).array 2).running, p.seq = o.seq →
              p.entry = o.entry + es.length ∧ p.segments = o.segments + es.length ∧ p.tile = o.tile + 1))

/-- The arithmetic of a dense tile: each enabled element is the sum from -0 over ascending k, rounded once at each step (R29,
R72), and an FP32 output stores those words; disabled rows and columns outside M and N store nothing. -/
def Obligations.TileArithmetic : Prop :=
  ∀ (rd : Nat → Byte) (o : ArrOp) (k : Nat) (e : Int),
    (∀ r c, denseSum rd o r c = (List.range (dK o.desc)).foldl
      (fun acc i => fround (FVal.add (fdec acc) (FVal.mul (aValue rd o r i) (bValue rd o i c)))) 0x80000000)
    ∧ (dOBlk o.desc = 0 → dOFmt o.desc = 7 →
      (tileOutput rd o k e).writes =
        (tileElems rd o k).flatMap (fun x => codeWrites o x.2.2.1 x.2.2.2 (denseSum rd o x.2.2.1 x.2.2.2).toNat)
      ∧ (tileOutput rd o k e).cvt.sat = 0 ∧ (tileOutput rd o k e).cvt.infs = 0 ∧ (tileOutput rd o k e).overflowed = none)
    ∧ (∀ x ∈ tileElems rd o k, x.2.2.1 < dM o.desc ∨ o.rowBits ≠ [] ) ∧ (∀ x ∈ tileElems rd o k, x.2.2.2 < dN o.desc)

/-! ## Stream-engine copies (R157, R197 to R213) -/

/-- STR.ISSUE, when no acquire of its threads is outstanding: it waits for a PENDING handle or when eight accepted copies are held; a
handle without an address ends with BADDESC; a copy that passes every check is held in the core order under a PENDING handle; one
that a status refuses is held too, without a footprint, to report it when its turn comes. -/
def Obligations.StreamIssue : Prop :=
  ∀ (s : State) (sg : SgRef) (f : FormR) (a : At) (s1 : State), plainR f = true →
    s.issuing sg f.g false (useStr f) = some (a, s1) → s1.acquiring a = false →
    let h := hNo f.a
    let v := a.g.handle f.a
    let addr := fld v 0 19
    let at' := a.b.base + addr
    (hState v = 2 → exec (.strIssue sg f) s = .next (a.served s))
    ∧ (hState v ≠ 2 → hState v = 0 ∨ addr % 128 ≠ 0 →
      Next (.strIssue sg f) s fun t =>
        a.WroteHandle s1 t h (BitVec.ofNat 64 (0xC000110200000000 + addr)) ∧ a.OnlyIssued (useStr f) s1 t)
    ∧ (hState v = 1 ∨ hState v = 3 → addr % 128 = 0 → addr + 128 ≤ a.b.ls →
      (s1.core a.core).conflict at' 128 false = false → 8 ≤ (s1.core a.core).accepted.length →
      exec (.strIssue sg f) s = .next (a.served s))
    ∧ (hState v = 1 ∨ hState v = 3 → addr % 128 = 0 → addr + 128 ≤ a.b.ls →
      (s1.core a.core).conflict at' 128 false = false → (s1.core a.core).accepted.length < 8 → quietMem s1 →
      s1.anyPoison at' 128 = false →
      let ws := s1.words at' 32
      let d := ws.take 16
      let lw := s1.words (a.b.base + cSLd d) 8
      let dw := s1.words (a.b.base + cDLd d) 8
      let sb := s1.sideBase a.core a.b (cSSpace d) (cSAddr d)
      let db := s1.sideBase a.core a.b (cDSpace d) (cDAddr d)
      let sn := copySpan d (.ofWords lw) false 0
      let dn := copySpan d (.ofWords dw) true 0
      let held := fun (t : State) (o : CopyOp) =>
        (t.core a.core).copies = (s1.core a.core).copies ++ [o]
          ∧ (t.core a.core).nextSeq = (s1.core a.core).nextSeq + 1
          ∧ (t.core a.core).arrays = (s1.core a.core).arrays ∧ (∀ c, c ≠ a.core → t.core c = s1.core c)
          ∧ HandleOnly a s1 t h (BitVec.ofNat 64 (0x8000000200000000 + addr))
          ∧ a.OnlyIssued (useStr f) s1 t
      complementsOk 16 ws = true → fld (wordAt d 0) 24 8 = 0xC1 → cMode d < 3 →
      (∀ x ∈ [cSLd d, cDLd d], x + 64 ≤ a.b.ls ∧ complementsOk 8 (s1.words (a.b.base + x) 16) = true) →
      (∀ st, copyStatus d (.ofWords lw) (.ofWords dw) = some st →
        Next (.strIssue sg f) s fun t =>
          held t { a.newCopy s1 h d [] [] 0 0 0 0 with reads := [], writes := [], phase := .refused, status := st })
      ∧ (copyStatus d (.ofWords lw) (.ofWords dw) = none →
        (copyOverlap d (.ofWords lw) sb db sn dn = true →
          Next (.strIssue sg f) s fun t =>
            held t { a.newCopy s1 h d [] [] 0 0 0 0 with reads := [], writes := [], phase := .refused, status := 0x52 })
        ∧ (copyOverlap d (.ofWords lw) sb db sn dn = false → cSSpace d ≠ 2 → cDSpace d ≠ 2 →
          s1.copyFault a d (.ofWords lw) (.ofWords dw) sn dn 0 = (s1, none) →
          Next (.strIssue sg f) s fun t => held t (a.newCopy s1 h d lw dw (sb.getD 0) (db.getD 0) sn dn))))

/-- The moves of a copy in COPY mode (R198 to R200): one per destination element, from the source element that PERM and the
zero strides select, clamped into the source. -/
def Obligations.CopyMoves : Prop :=
  ∀ (d : List Word) (ls : Layout) (o i j : Nat), o < cOuter d → i < cBoxR d → j < cBoxC d → 0 < ls.rows → 0 < ls.cols →
    let idx := fun k => if k = 0 then o else if k = 1 then i else j
    let p : Nat × Nat × Nat := if cPerm d = 1 then (0, 2, 1) else if cPerm d = 2 then (1, 0, 2) else if cPerm d = 3 then (2, 0, 1)
      else if cPerm d = 4 then (1, 2, 0) else if cPerm d = 5 then (2, 1, 0) else (0, 1, 2)
    let r : Int := cSR0 d + (if cZsR d then 0 else (idx p.2.1 : Int))
    let c : Int := cSC0 d + (if cZsC d then 0 else (idx p.2.2 : Int))
    ∃ m ∈ copyMoves d ls, m.o = o ∧ m.dr = cDR0 d + i ∧ m.dc = cDC0 d + j
      ∧ m.sl = (if cSStride d = 0 then 0 else idx p.1)
      ∧ (m.r : Int) = max 0 (min r (ls.rows - 1)) ∧ (m.c : Int) = max 0 (min c (ls.cols - 1))
      ∧ (m.clamped = true ↔ r < 0 ∨ (ls.rows : Int) ≤ r ∨ c < 0 ∨ (ls.cols : Int) ≤ c)

/-- COPY_START, COPY_SPOOL_STEP, SCATTER_BADLIST and COPY_COMPLETE of a copy between local stores. -/
def Obligations.StreamCopies : Prop :=
  ∀ (s : State) (core id n : Nat) (c : CopyOp), (s.core core).copy id = some c → c.id = id → quietMem s →
    (s.mayStart core c = false → c.phase ≠ .refused → exec (.copyStart core id) s = .next s)
    -- a refused copy ends with its status when its turn comes
    ∧ (c.phase = .refused → s.copyTurn core c = false → exec (.copyStart core id) s = .next s)
    ∧ (c.phase = .refused → s.copyTurn core c = true → (s.block core c.owner.1).isSome →
      Next (.copyStart core id) s fun t =>
        (t.core core).copies = (s.core core).copies.filter (fun x => x.id != id)
          ∧ (t.group core c.owner.1 c.owner.2.1).hreg c.owner.2.2 =
              mkHandle 3 c.status 2 (hAddr ((s.group core c.owner.1 c.owner.2.1).hreg c.owner.2.2))
          ∧ (∀ k, k ≠ core → t.core k = s.core k) ∧ OnlyCores s t)
    ∧ (s.mayStart core c = true → cSSpace c.desc ≠ 2 → cDSpace c.desc ≠ 2 →
      let r := copyResult s.byte s.byte c
      Next (.copyStart core id) s fun t =>
        (∀ z, isRom z = false → t.byte z = after s (r.bytes.map fun p => { addr := p.1, mask := p.2.1, val := p.2.2 }) z)
          ∧ (t.core core).copies = ((s.core core).copies.map fun x =>
              if x.id = id then
                { x with phase := if r.bad.isSome then .badList else .moved, status := r.status, index := r.index
                         clampCnt := r.clamps, used := r.used, texp := r.texp, bytes := x.bytes + r.bytes.length
                         share := Sparse.modify (fun _ => 0) x.share s.deviceId (· + r.bytes.length) }
              else x)
          ∧ (∀ k, k ≠ core → t.core k = s.core k)
          ∧ t = { s with cores := t.cores, mem := t.mem, lost := t.lost, progress := (s.progressed (.stream core)).progress })
    ∧ (c.phase = .badList →
      Next (.scatterBadlist core id) s fun t =>
        (t.core core).copies = ((s.core core).copies.map fun x =>
            if x.id = id then { x with phase := .moved, status := 0x20 } else x) ∧ OnlyCores s t)
    ∧ (c.phase ≠ .badList → exec (.scatterBadlist core id) s = .next s)
    ∧ (cSpoolEn c.desc = true → cSave c.desc = false → c.status ≠ 0x53 → c.phase = .moved →
      (∀ y ∈ (s.core core).copies, y.id = id → y = c) → ∀ k, c.share = [(s.deviceId, k)] → 0 < min n (k - Sparse.get (fun _ => 0) c.counted s.deviceId) →
        Next (.copySpoolStep core id n) s fun t =>
          t.spool = (s.spoolAdd (cSpoolId c.desc) (min n (k - Sparse.get (fun _ => 0) c.counted s.deviceId))).spool
            ∧ (∀ x ∈ (t.core core).copies, x.id = id →
                Sparse.get (fun _ => 0) x.counted s.deviceId =
                  Sparse.get (fun _ => 0) c.counted s.deviceId + min n (k - Sparse.get (fun _ => 0) c.counted s.deviceId))
            ∧ t = { s with cores := t.cores, spool := t.spool, spoolChg := t.spoolChg, waiters := t.waiters })
    ∧ (∀ rest, (s.core core).copies = c :: rest → c.phase = .moved → c.waits = 0 → cSpoolEn c.desc = false →
      let base := c.base + cCompl c.desc
      isSram base = true → isSram (base + 31) = true → (s.block core c.owner.1).isSome →
      Next (.copyComplete core id) s fun t =>
        t.bytes base 32 = bytesOfWords [BitVec.ofNat 32 c.status, BitVec.ofNat 32 c.index, BitVec.ofNat 32 c.bytes,
            BitVec.ofNat 32 (c.bytes / 2 ^ 32), BitVec.ofNat 32 (min c.clampCnt 0xFFFFFFFF), BitVec.ofNat 32 c.used,
            BitVec.ofNat 32 c.texp, 0]
          ∧ (∀ z, z < base ∨ base + 32 ≤ z → t.byte z = s.byte z)
          ∧ (t.group core c.owner.1 c.owner.2.1).hreg c.owner.2.2 =
              mkHandle 3 c.status 2 (hAddr ((s.group core c.owner.1 c.owner.2.1).hreg c.owner.2.2))
          ∧ (t.core core).copies = rest.filter (fun x => x.id != id)
          ∧ t = { s with cores := t.cores, mem := t.mem, lost := t.lost, progress := (s.progressed (.stream core)).progress })

/-! ## Drogue samples (R85 to R90) -/

/-- DROGUE_RECOMPUTE stores the recomputed sums in the slot; DROGUE_COMPARE empties the slot, counts the sample and its bins in
the drogue table, and an excess in EXCEEDED. -/
def Obligations.DrogueSamples : Prop :=
  ∀ (s : State) (core slot arr : Nat) (c : Capture), (s.core core).captures.getD slot none = some c →
    (c.phase = .captured → s.canRecompute core arr c.op = true → (s.core core).stopped = false →
      (useWide c.op 1 = true → wideOk s c.op 1 (Layout.ofWords c.op.la) = true) →
      (useWide c.op 2 = true → wideOk s c.op 2 (Layout.ofWords c.op.lb) = true) →
      Next (.drogueRecompute core slot arr) s fun t =>
        (t.core core).captures = (s.core core).captures.set slot
            (some { c with phase := .computed, arr := arr, wide := c.vals.map fun v => (v.1, v.2.1, recomputed s c.op v.1 v.2.1) })
          ∧ (∀ k, k ≠ core → t.core k = s.core k) ∧ OnlyCores s t)
    ∧ (c.phase = .computed ∨ s.canRecompute core arr c.op = false → exec (.drogueRecompute core slot arr) s = .next s)
    ∧ (c.phase = .captured → exec (.drogueCompare core slot) s = .next s)
    ∧ (c.phase = .computed → s.defects = [] → s.crcOff = [] →
      let a := drogueEntry s c.op
      let w0 := s.word a
      let bins := drogueBins c (fld w0 0 5)
      let high := (bins.filter fun b => decide (fld w0 16 4 ≤ b)).length
      isDram (a + 127) = true → s.anyPoison a 128 = false →
      Next (.drogueCompare core slot) s fun t =>
        (t.core core).captures = (s.core core).captures.set slot none
          ∧ (high ≤ fld w0 8 8 →
            (t.word (a + 4)).toNat = min ((s.word (a + 4)).toNat + 1) 0xFFFFFFFF
              ∧ (∀ i < 16, (t.word (a + 32 + 4 * i)).toNat =
                  min ((s.word (a + 32 + 4 * i)).toNat + (bins.filter fun b => b == i).length) 0xFFFFFFFF)
              ∧ t.word (a + 16) = s.word (a + 16)
              ∧ (∀ z, z < a ∨ a + 128 ≤ z → t.byte z = s.byte z)
              ∧ t = { s with cores := t.cores, mem := t.mem, lost := t.lost })
          ∧ (fld w0 8 8 < high → s.lcount.toNat - dwordAt (s.words a 32) 5 < 2 ^ 20 →
            (t.word (a + 16)).toNat = min ((s.word (a + 16)).toNat + 1) 0xFFFFFFFF ∧ t.err = s.err))

/-! ## Counters, registers, apertures, invalidations (spec/19) -/

/-- Register `x` of core `n`'s sub-block (R412). -/
def Sys2Proof.Claims.coreReg (n x : Nat) : Nat := 0x20000 * (n / 16) + 0x1000 * (n % 16 + 1) + x
/-- Register `x` of a controller's block (R416). -/
def Sys2Proof.Claims.mcReg' (mc x : Nat) : Nat := if mc < 32 then 0x1200000 + 0x1000 * mc + x else 0x1220000 + 0x1000 * (mc - 32) + x

/-- The command sets exactly these registers to 0. -/
def Sys2Proof.Claims.Clears (c : Instr) (s : State) (regs : List Nat) : Prop :=
  Next c s fun t => (∀ o ∈ regs, t.reg o = 0) ∧ regsKept s t regs ∧ t = { s with setup := t.setup }

/-- Every count-clear row sets its counters to 0 and changes nothing else, when no complement-checked value is pending and
the core is present (R41, R71, R175, R251, R269, R293, R322, R365, R412, R415). -/
def Obligations.CounterClears : Prop :=
  ∀ (s : State) (n : Nat), s.rwcPend = [] →
    (s.corePresent n = true →
      Clears (.cvtCountClearSat n) s [coreReg n 0] ∧ Clears (.cvtCountClearInf n) s [coreReg n 4]
        ∧ Clears (.cvtCountClearNan n) s [coreReg n 8]
        ∧ Clears (.arrCountClearF n) s ((List.range 8).map fun i => coreReg n (0x100 + 4 * i))
        ∧ Clears (.arrCountClearD n) s ((List.range 8).map fun i => coreReg n (0x120 + 4 * i))
        ∧ Clears (.arrCountClearW n) s ((List.range 8).map fun i => coreReg n (0x140 + 4 * i))
        ∧ Clears (.coreCountClearRepack n) s [coreReg n 0x200])
    ∧ (n < 8 → Clears (.fuCountClearDone n) s [0x1000004 + 0x10000 * n])
    ∧ (n < 48 →
      Clears (.mcCountClearRetry n) s [mcReg' n 0] ∧ Clears (.mcCountClearPois n) s [mcReg' n 4]
        ∧ Clears (.mcCountClearPread n) s [mcReg' n 8] ∧ Clears (.mcCountClearScrub n) s [mcReg' n 0xC]
        ∧ Clears (.raCountClearAcc n) s [mcReg' n 0x100] ∧ Clears (.raCountClearPairs n) s [mcReg' n 0x104]
        ∧ Clears (.raCountClearSpill n) s [mcReg' n 0x108] ∧ Clears (.raCountClearSat n) s [mcReg' n 0x10C]
        ∧ Clears (.raCountClearStale n) s [mcReg' n 0x110] ∧ Clears (.raCountClearExtra n) s [mcReg' n 0x114]
        ∧ Clears (.raCountClearDropped n) s [mcReg' n 0x118]
        ∧ Clears (.uuCountClearParams n) s [mcReg' n 0x200] ∧ Clears (.uuCountClearFrozen n) s [mcReg' n 0x204]
        ∧ Clears (.uuCountClearPblocks n) s [mcReg' n 0x208] ∧ Clears (.uuCountClearMclamp n) s [mcReg' n 0x20C]
        ∧ Clears (.uuCountClearShards n) s [mcReg' n 0x210] ∧ Clears (.uuCountClearSkew n) s [mcReg' n 0x214]
        ∧ Clears (.uuCountClearBusy n) s [mcReg' n 0x218])
    ∧ (n < 16 →
      Clears (.fabCountClearCrcErr n) s [0x1300024 + 0x100 * n] ∧ Clears (.fabCountClearResend n) s [0x1300028 + 0x100 * n]
        ∧ Clears (.fabCountClearNarrow n) s [0x130002C + 0x100 * n] ∧ Clears (.fabCountClearLoss n) s [0x1300030 + 0x100 * n]
        ∧ Clears (.fabCountClearDrop n) s [0x1300034 + 0x100 * n])
    ∧ Clears .snCountClearCrcErr s [0x1400010] ∧ Clears .snCountClearResend s [0x1400014]
    ∧ Clears .snCountClearNarrow s [0x1400018] ∧ Clears .snCountClearLoss s [0x140001C]
    ∧ Clears .snCountClearDb s [0x1400020] ∧ Clears .snCountClearDbPoll s [0x1400024]
    ∧ Clears .pwrCountClearPartition s
        ((List.range 8).flatMap fun p => (List.range 4).map fun i => 0x1500100 + 0x10 * p + 4 * i)
    ∧ Clears .pwrCountClearModule s [0x1500180, 0x1500184, 0x1500188, 0x150018C]

/-- Plain, locked, read-only and absent registers under SETUP_REGISTER_WRITE (R5, R411), the two words of a
complement-checked register (R6), and the latching read of LCOUNT (R422). -/
def Obligations.RegisterWrites : Prop :=
  ∀ (s : State) (off mask : Nat) (v w : Word) (rq : Requester), s.rwcPend = [] →
    (off % 4 = 0 → off < 0x4000000 → (off < 0xC00000 ∨ 0x1000000 ≤ off) →
      (∀ d, regDesc off = some d → s.setupHole off = false →
        (d.kind = .rw 0 → exec (.setupRegisterWrite off v) s = .next s)
        ∧ (d.kind = .rw mask → mask ≠ 0 → off ≠ 0x1500010 →
          Next (.setupRegisterWrite off v) s fun t =>
            t.reg off = v &&& BitVec.ofNat 32 mask ∧ regsKept s t [off]
              ∧ t = { s with setup := t.setup, svc := { s.svc with clCtrl := t.svc.clCtrl } })
        -- a write that follows in a block with a value pending drops that value
        ∧ (∀ (o : Nat) (u : State), u = { s with rwcPend := [(regBlock off, some (o, w))] } → o ≠ 0x1500000 →
          d.kind = .rw mask → mask ≠ 0 →
          Next (.setupRegisterWrite off v) u fun t =>
            t.reg off = v &&& BitVec.ofNat 32 mask ∧ t.pendOf (regBlock off) = none
              ∧ ∃ r, ((t.latch 0x650).first = some r ∨ (t.latch 0x650).latest = some r) ∧ r.cls = 3 ∧ r.cause = 7)
        ∧ (d.kind = .rwl mask → s.locked off = false →
          Next (.setupRegisterWrite off v) s fun t =>
            t.reg off = clampSize off (v &&& BitVec.ofNat 32 mask) ∧ regsKept s t [off] ∧ t = { s with setup := t.setup })
        ∧ (d.kind = .rwl mask → s.locked off = true → soundMem s →
          Next (.setupRegisterWrite off v) s fun t =>
            t.setup = s.setup ∧ t.cores = s.cores
              ∧ ∃ r, ((t.latch 0x650).first = some r ∨ (t.latch 0x650).latest = some r) ∧ r.cls = 3 ∧ r.cause = 8))
      ∧ (regDesc off = none → soundMem s → Next (.setupRegisterWrite off v) s fun t =>
          t.setup = s.setup ∧ t.cores = s.cores
            ∧ ∃ r, ((t.latch 0x650).first = some r ∨ (t.latch 0x650).latest = some r) ∧ r.cls = 4 ∧ r.cause = 2))
    ∧ (isRwcValue off = true → s.setupHole off = false →
      Next (.rwcValueWrite off v) s fun t =>
        t.pendOf (regBlock off) = some (off, v) ∧ t.setup = s.setup ∧ t = { s with rwcPend := t.rwcPend })
    ∧ (∀ (u : State), u = { s with rwcPend := [(regBlock off, some (off, w))] } → isRwcComplement (off + 4) = true →
      regDesc off = some (.rwcV mask) → s.setupHole (off + 4) = false → off < 0x1301000 ∨ 0x1330000 ≤ off ∧ off < 0x1400000 →
      (v = ~~~ w →
        Next (.rwcComplementWrite (off + 4) v) u fun t =>
          t.reg off = w &&& BitVec.ofNat 32 mask ∧ t.reg (off + 4) = ~~~ (w &&& BitVec.ofNat 32 mask)
            ∧ t.pendOf (regBlock off) = none ∧ regsKept s t [off, off + 4]
            ∧ (∀ n, 0x1340000 + 8 * n = off → (t.core n).mapCopy = none))
      ∧ (v ≠ ~~~ w → soundMem s →
        Next (.rwcComplementWrite (off + 4) v) u fun t =>
          t.setup = s.setup ∧ t.pendOf (regBlock off) = none ∧ t.cores = s.cores
            ∧ ∃ r, ((t.latch 0x650).first = some r ∨ (t.latch 0x650).latest = some r) ∧ r.cls = 3 ∧ r.cause = 7))
    ∧ (let k := match rq with | .sc n => n % 8 | .host => 8 | .core n => 16 + n
       Next (.lcountLoRead rq) s fun t =>
         (Sparse.get (fun _ => 0) t.lcLatch k).toNat = s.lcount.toNat / 2 ^ 32
           ∧ (∀ j, j ≠ k → Sparse.get (fun _ => (0 : Word)) t.lcLatch j = Sparse.get (fun _ => 0) s.lcLatch j)
           ∧ t = { s with lcLatch := t.lcLatch })

/-- BROADCAST_WRITE and GROUP_APERTURE_WRITE are a write to the same register of every present cluster, or of every present
cluster that the group aperture selects (R413, R414). -/
def Obligations.ApertureWrites : Prop :=
  ∀ (s : State) (v : Word), s.rwcPend = [] →
    Next (.broadcastWrite 0 v) s (fun t =>
      (∀ c < 96, t.reg (0x20000 * c) = if s.partAbsent (c / 12) then s.reg (0x20000 * c) else v &&& 1)
        ∧ (∀ o, (∀ c < 96, o ≠ 0x20000 * c) → t.reg o = s.reg o)
        ∧ t = { s with setup := t.setup, svc := { s.svc with clCtrl := t.svc.clCtrl } })
    ∧ Next (.groupApertureWrite 0 v) s (fun t =>
      (∀ c < 96, t.reg (0x20000 * c) =
          if s.partAbsent (c / 12) = false ∧ bitAt (s.reg (0x1700000 + 4 * (c / 32))) (c % 32) = true then v &&& 1
          else s.reg (0x20000 * c))
        ∧ (∀ o, (∀ c < 96, o ≠ 0x20000 * c) → t.reg o = s.reg o)
        ∧ t = { s with setup := t.setup, svc := { s.svc with clCtrl := t.svc.clCtrl } })
    ∧ (∀ n, s.corePresent n = true → v = 1 →
      Next (.broadcastWrite (0x1000 * (n % 16 + 1) + 0xC) v) s fun t =>
        t.reg (coreReg n 0) = 0 ∧ ∀ i, s.corePresent i = false → t.reg (coreReg i 0) = s.reg (coreReg i 0))

/-- What a table entry of `w` words at `a`, with `w` complements behind them, takes effect as when it is read: nothing beyond the
table, outside DRAM, when poisoned, or when a complement does not match (R231, R253, R446). -/
def Sys2Proof.Claims.entryNow (s : State) (inTable : Bool) (a w : Nat) : List Word :=
  if inTable && s.dramRange a (8 * w) && !s.anyPoison a (8 * w) && complementsOk w (s.words a (2 * w)) then
    (s.words a (2 * w)).take w
  else []

/-- WT_INV, FAMAP_INV, NT_INV, UT_INV and INVALIDATION_COMPLETE (R180, R185, R231, R253, R419, R420): one invalidation of a
kind at a time, BUSY while one is in progress; when it completes, the entries it names are dropped, and a node or update entry
takes effect as it stands in its table. -/
def Obligations.Invalidations : Prop :=
  ∀ (s : State) (v : Word),
    (∀ x ∈ [(Instr.wtInv v, InvKind.wt, 0), (.famapInv v, .famap, 1), (.ntInv v, .nt, 2), (.utInv v, .ut, 3)],
      Next x.1 s fun t =>
        t.invWaiting x.2.1 = s.invWaiting x.2.1 ++ [v] ∧ bitAt (t.reg 0x1320030) x.2.2 = true
          ∧ (∀ k, k ≠ x.2.1 → t.invWaiting k = s.invWaiting k) ∧ regsKept s t [0x1320030]
          ∧ t = { s with invQueue := t.invQueue, setup := t.setup })
    ∧ (∀ k, s.invWaiting k = [] → exec (.invalidationComplete k) s = .next s)
    ∧ (∀ rest, s.invWaiting .wt = v :: rest →
      Next (.invalidationComplete .wt) s fun t =>
        t.invWaiting .wt = rest ∧ (rest = [] → bitAt (t.reg 0x1320030) 0 = false)
          ∧ (∀ unit ctx, ctx < 64 → Sparse.get (fun _ => none) t.wcache (unit * 64 + ctx) =
              if ctx = fld v 0 6 then none else Sparse.get (fun _ => none) s.wcache (unit * 64 + ctx))
          ∧ t = { s with invQueue := t.invQueue, setup := t.setup, wcache := t.wcache })
    ∧ (∀ rest, s.invWaiting .famap = v :: rest →
      Next (.invalidationComplete .famap) s fun t =>
        t.invWaiting .famap = rest
          ∧ (∀ die i, i < 2 ^ 25 → Sparse.get (fun _ => none) t.fcache (2 ^ 25 * die + i) =
              if bitAt v 31 = true ∨ i = fld v 0 25 then none else Sparse.get (fun _ => none) s.fcache (2 ^ 25 * die + i))
          ∧ t = { s with invQueue := t.invQueue, setup := t.setup, fcache := t.fcache })
    ∧ (∀ rest, s.invWaiting .nt = v :: rest → soundMem s →
      Next (.invalidationComplete .nt) s fun t =>
        t.invWaiting .nt = rest
          ∧ (bitAt v 31 = false → ∀ i, Sparse.get (fun _ => []) t.tables.nodeCache i =
              if i = fld v 0 20 then entryNow s (decide (i < s.ntSize)) (s.nodeAddr i) 16
              else Sparse.get (fun _ => []) s.tables.nodeCache i)
          ∧ (bitAt v 31 = true → s.lost = [] → ∀ i, Sparse.get (fun _ => []) t.tables.nodeCache i =
              entryNow s (decide (i < s.ntSize)) (s.nodeAddr i) 16)
          ∧ t = { s with invQueue := t.invQueue, setup := t.setup, tables := t.tables, power := t.power })
    ∧ (∀ rest, s.invWaiting .ut = v :: rest → soundMem s →
      Next (.invalidationComplete .ut) s fun t =>
        t.invWaiting .ut = rest
          ∧ (bitAt v 31 = false → ∀ i, Sparse.get (fun _ => []) t.tables.updCache i =
              if i = fld v 0 16 then entryNow s (decide (i < s.utSize)) (s.updAddr i) 32
              else Sparse.get (fun _ => []) s.tables.updCache i)
          ∧ (bitAt v 31 = true → s.lost = [] → ∀ i, Sparse.get (fun _ => []) t.tables.updCache i =
              entryNow s (decide (i < s.utSize)) (s.updAddr i) 32)
          ∧ t = { s with invQueue := t.invQueue, setup := t.setup, tables := t.tables })

/-- ERR_BASE_WRITE, ERR_RD_WRITE, ERR_FATAL_CLEAR, PART_CTRL_RESET, RESET_CTRL_CHIP and SPOOL_FILE_WRITE (R164, R390, R399,
R404, R415). -/
def Obligations.KeeperAndSpoolWrites : Prop :=
  ∀ (s : State) (v : Word) (p n : Nat) (bs : List Byte),
    (bitAt (s.kreg 0x30) 0 = false → soundMem s →
      Next (.errBaseWrite v) s fun t =>
        t.kreg 0x10 = v &&& 0xFFFFFFF ∧ t.kreg 0x14 = 0 ∧ t.kreg 0x18 = 0 ∧ t.kreg 0x1C = 0
          ∧ (∀ o, o ∉ [0x10, 0x14, 0x18, 0x1C] → t.kreg o = s.kreg o)
          ∧ (let b := 2 ^ 16 * (v.toNat % 2 ^ 28)
             (∀ z, 0x40000 + b ≤ z → z < 0x50000 + b → isRom z = false → t.byte z = 0)
               ∧ (∀ z, z < 0x40000 + b ∨ 0x50000 + b ≤ z → t.byte z = s.byte z)
               ∧ (∀ z, z < 0x40000 + b ∨ 0x50000 + b ≤ z → z % 64 = 0 → t.poisoned z = s.poisoned z)
               ∧ ∀ z, 0x40000 + b ≤ z → z < 0x50000 + b → z % 64 = 0 → t.poisoned z = false)
          ∧ t = { s with keeper := t.keeper, mem := t.mem, lost := t.lost, poison := t.poison })
    ∧ (bitAt (s.kreg 0x30) 0 = true → soundMem s → Next (.errBaseWrite v) s fun t =>
        t.kreg 0x10 = s.kreg 0x10 ∧ t.kreg 0x14 = s.kreg 0x14 ∧ t.kreg 0x18 = s.kreg 0x18 ∧ t.setup = s.setup)
    ∧ ((s.kreg 0x14 - v).toNat ≤ 4032 → Next (.errRdWrite v) s fun t =>
        t.kreg 0x18 = v ∧ (∀ o, o ≠ 0x18 → t.kreg o = s.kreg o) ∧ t = { s with keeper := t.keeper })
    ∧ (4032 < (s.kreg 0x14 - v).toNat → exec (.errRdWrite v) s = .next s)
    ∧ Next .errFatalClear s (fun t =>
        t.kreg 0x1C = 0 ∧ (∀ o, o ≠ 0x1C → t.kreg o = s.kreg o) ∧ t = { s with keeper := t.keeper })
    ∧ (p < 8 → s.partAbsent p = false → Next (.partCtrlReset p) s fun t =>
        p ∈ t.resets.parts ∧ t = { s with resets := { s.resets with parts := t.resets.parts } })
    ∧ (s.partAbsent p = true → exec (.partCtrlReset p) s = .next s)
    ∧ (s.resets.chip = none → Next .resetCtrlChip s fun t =>
        t = { s with resets := { s.resets with chip := some .resetCtrl } })
    ∧ (s.resets.chip ≠ none → exec .resetCtrlChip s = .next s)
    ∧ (n < 16384 → s.partAbsent (n / 2048) = false → bs.length = 8 →
      Next (.spoolFileWrite (0x30000000000 + 8 * n) bs) s fun t =>
        (t.spoolVal n).toNat = natLE bs % 2 ^ 63 ∧ (∀ m, m ≠ n → t.spoolVal m = s.spoolVal m)
          ∧ t.changes n = s.changes n + 1
          ∧ t = { s with spool := t.spool, spoolChg := t.spoolChg, waiters := t.waiters })
    ∧ (n < 16384 → s.partAbsent (n / 2048) = false → 0 < bs.length → bs.length < 8 →
      Next (.spoolFileWrite (0x30000000000 + 8 * n) bs) s fun t => t.spool = s.spool ∧ t.cores = s.cores
        ∧ ∃ r, ((t.latch 0x650).first = some r ∨ (t.latch 0x650).latest = some r) ∧ r.cls = 7 ∧ r.cause = 6)

/-- ERROR_RECORD_WRITE (R386, R389, R391): the source next in round-robin order has its FIRST report written to the next slot
of the general area, with its SEQ in the source table; a source whose turn it is not, or a full area, waits. -/
def Obligations.ErrorRecords : Prop :=
  ∀ (s : State) (src : Nat),
    (∀ r, src < 0x1000 → s.err.ringReady = true → s.err.earlyUsed = 0 → s.nextSource = some src →
      (s.latch src).first = some r → r.sev ≠ 3 → (s.kreg 0x14 - s.kreg 0x18).toNat < 4032 → bitAt (s.kreg 0x24) 0 = false →
      let base := 2 ^ 16 * fld (s.kreg 0x10) 0 28
      let at' := base + 64 * ((s.kreg 0x14).toNat % 4032)
      isDram (0x50000 + base) = true → soundMem s →
      Next (.errorRecordWrite src) s fun t =>
        t.bytes at' 64 = bytesOfWords (recordWords src (s.kreg 0x14) r) ∧ t.kreg 0x14 = s.kreg 0x14 + 1
          ∧ t.word (0x4000C + base + 16 * src) = s.kreg 0x14 ∧ (t.latch src).first = none
          ∧ (t.latch src).latest = (s.latch src).latest ∧ t.err.lastSrc = src
          ∧ (∀ z, z < at' ∨ at' + 64 ≤ z → z < 0x4000C + base + 16 * src ∨ 0x40010 + base + 16 * src ≤ z → t.byte z = s.byte z)
          ∧ (∀ o, o ≠ 0x14 → t.kreg o = s.kreg o)
          ∧ t.poisoned at' = false ∧ (∀ z, z % 64 = 0 → z ≠ at' → t.poisoned z = s.poisoned z)
          ∧ t = { s with mem := t.mem, lost := t.lost, poison := t.poison, keeper := t.keeper, err := t.err })
    ∧ (s.nextSource ≠ some src → s.err.ringReady = false ∨ s.err.earlyUsed = 0 → exec (.errorRecordWrite src) s = .next s)
    ∧ (∀ (r : Report) (seq : Word), r.cls < 256 → r.cause < 256 → r.sev < 4 → src < 4096 →
      (∀ c, r.ctx = some c → c < 64) →
      let ws := recordWords src seq r
      ws.length = 16 ∧ fld (wordAt ws 0) 24 8 = r.cls ∧ fld (wordAt ws 0) 16 8 = r.cause ∧ fld (wordAt ws 0) 14 2 = r.sev
        ∧ fld (wordAt ws 0) 0 12 = src ∧ wordAt ws 1 = r.startSeq ∧ dwordAt ws 2 = r.lcount.toNat
        ∧ (bitAt (wordAt ws 4) 31 = r.ctx.isSome) ∧ (∀ c, r.ctx = some c → fld (wordAt ws 4) 16 6 = c) ∧ fld (wordAt ws 4) 0 16 = r.unit % 65536 ∧ wordAt ws 6 = seq
        ∧ (∀ i < 8, wordAt ws (7 + i) = wordAt r.detail i) ∧ wordAt ws 15 = crc32c (bytesOfWords (ws.take 15)))

/-! ## Blocks, splits, idle cores, sleep, scrubbing -/

/-- BLOCK_PLACE of a whole block train (R107, R109, R112, R113): each member starts on its core with zeroed local store and
registers, its place in the grid and its rank; when some core cannot take it, when an earlier launch of the ring is still being
placed, or when DIAG is set and the context is not 0 (R327), nothing is placed. -/
def Obligations.BlocksPlaced : Prop :=
  ∀ (s : State) (launch : Nat) (cores : List Nat) (l : Launch), s.launchOf launch = some l → cores.length = l.train →
    (l.resident = true → l.train = l.gx * l.gy * l.gz) →
    (s.earlierLaunch launch l = true ∨ s.ctxRuns l.ctx = false ∨ s.mayLaunch l.ctx = false ∨ (∃ c ∈ cores, s.coreTakes c l = false) →
      exec (.blockPlace launch cores) s = .next s)
    -- a launch with RESIDENT set waits until all its trains are placed together
    ∧ (∀ cs, l.resident = true → cs.length ≠ l.gx * l.gy * l.gz → exec (.blockPlace launch cs) s = .next s)
    ∧ (s.earlierLaunch launch l = false → s.ctxRuns l.ctx = true → s.mayLaunch l.ctx = true → l.placed * l.train ≠ l.gx * l.gy * l.gz → cores ≠ [] →
      cores.Nodup → (∀ c ∈ cores, c / 16 = cores.headD 0 / 16) → (∀ c ∈ cores, s.coreTakes c l = true) → quietMem s →
      Next (.blockPlace launch cores) s fun t =>
        (∀ i c, cores[i]? = some c → ∃ b, t.block c (s.core c).nextBlk = some b
          ∧ b.ctx = l.ctx ∧ b.trank = i ∧ b.train = l.placed ∧ b.ls = 1024 * l.lsKiB ∧ b.threads = l.threads
          ∧ (let n := l.placed * l.train + i
             b.bid = (n % l.gx, n / l.gx % l.gy, n / l.gx / l.gy))
          ∧ (∀ g, 32 * g < l.threads → ∃ m : BitVec 32, b.group g = Group.start m l.entry s.lcount
              ∧ ∀ j < 32, bitAt m j = decide (32 * g + j < l.threads))
          ∧ (∀ z, b.base ≤ z → z < b.base + b.ls → t.byte z = 0)
          ∧ 0x20000000000 + 0x80000 * c + 65536 * l.split ≤ b.base ∧ b.base + b.ls ≤ 0x20000060000 + 0x80000 * c
          ∧ (t.core c).nextBlk = (s.core c).nextBlk + 1 ∧ (t.core c).stopped = false)
        ∧ (∀ c, c ∉ cores → t.core c = s.core c)
        ∧ (∀ z, isDram z = true → t.byte z = s.byte z) ∧ t.launchOf launch = some { l with placed := l.placed + 1 }
        ∧ (∀ z, isDram z = true → z % 64 = 0 → t.poisoned z = s.poisoned z)
        ∧ t = { s with cores := t.cores, mem := t.mem, lost := t.lost, poison := t.poison, launches := t.launches })

/-- ALLOCATION_RELEASE, SPLIT_CHANGE and CORE_IDLE (R111, R158, R407). -/
def Obligations.BlocksReleased : Prop :=
  ∀ (s : State) (core blk split : Nat) (b : Block),
    (s.block core blk = some b → b.live = true ∨ s.blockBusy core blk = true → exec (.allocationRelease core blk) s = .next s)
    ∧ (s.block core blk = some b → b.live = false → s.blockBusy core blk = false →
      Next (.allocationRelease core blk) s fun t =>
        t.block core blk = none ∧ (∀ c k, (c, k) ≠ (core, blk) → t.block c k = s.block c k)
          ∧ t.launchOf b.launch = (s.launchOf b.launch).map (fun l => { l with released := l.released + 1 })
          ∧ (t.part (core / 192)).idleSince = s.lcount
          ∧ t = { s with cores := t.cores, launches := t.launches, power := t.power })
    ∧ ((∃ k l, Sparse.get (fun _ => none) s.launches k = some l ∧ l.split = split ∧ l.unplaced = true ∧ s.ctxRuns l.ctx = true) →
      (s.core core).split ≠ split → s.corePresent core = true →
      ((s.core core).held ≠ [] → Next (.splitChange core split) s fun t =>
          t.core core = { s.core core with newSplit := some split } ∧ (∀ c, c ≠ core → t.core c = s.core c) ∧ OnlyCores s t)
      ∧ ((s.core core).held = [] → Next (.splitChange core split) s fun t =>
          (t.core core).split = split ∧ (t.core core).newSplit = none ∧ (t.core core).cache = []
            ∧ (t.core core).blocks = (s.core core).blocks ∧ (∀ c, c ≠ core → t.core c = s.core c)))
    ∧ (s.launches = [] → exec (.splitChange core split) s = .next s)
    ∧ ((s.core core).held = [] → (s.core core).arrayOps = [] → (s.core core).copies = [] → s.corePresent core = true →
      Next (.coreIdle core) s fun t =>
        t.core core = { s.core core with stopped := true } ∧ (∀ c, c ≠ core → t.core c = s.core c) ∧ OnlyCores s t)
    ∧ ((s.core core).held ≠ [] ∨ (s.core core).copies ≠ [] → exec (.coreIdle core) s = .next s)

/-- PARTITION_SLEEP, PARTITION_WAKE, SCRUB_READ and LPDDR6_RETRAIN (R170, R172 to R174, R407, R408). -/
def Obligations.SleepAndScrub : Prop :=
  ∀ (s : State) (p mc die ch : Nat),
    (p < 8 → s.partAbsent p = false → (s.part p).asleep = false → bitAt (s.reg 0x1600030) 31 = true → s.partIdle p = true →
      (fld (s.reg 0x1600030) 0 31 ≤ (s.lcount - (s.part p).idleSince).toNat →
        Next (.partitionSleep p) s fun t =>
          (t.part p).asleep = true ∧ (∀ q, q ≠ p → t.part q = s.part q)
            -- what the partition's SRAM and wide buffers held is lost
            ∧ (∀ c, c / 192 = p → (∃ k, (0x20000000000 + 0x80000 * c, 0x60000, k) ∈ t.lost) ∧ (t.core c).cache = [])
            ∧ (∀ z, isDram z = true → t.byte z = s.byte z) ∧ t.setup = s.setup ∧ t.spool = s.spool)
      ∧ ((s.lcount - (s.part p).idleSince).toNat < fld (s.reg 0x1600030) 0 31 → exec (.partitionSleep p) s = .next s))
    ∧ (bitAt (s.reg 0x1600030) 31 = false → exec (.partitionSleep p) s = .next s)
    ∧ (p < 8 → (s.part p).asleep = true → Next (.partitionWake p) s fun t =>
        (t.part p).asleep = false ∧ (∀ q, q ≠ p → t.part q = s.part q) ∧ t = { s with power := t.power })
    ∧ (∀ b, s.nextBlock mc (max (Sparse.get (fun _ => 0) s.scrub mc) (mcBase mc)) = some b → mc < 48 →
       bitAt (s.reg (offMc mc + 0x10)) 16 = true → s.inSelfRefresh mc = false → s.powered = true →
       (∀ z, z ≠ b → Sparse.get (fun _ => 0) s.defects z = 0 ∧ Sparse.get (fun _ => 0) s.crcOff z = 0) →
       let d := Sparse.get (fun _ => 0) s.defects b
       let off := Sparse.get (fun _ => 0) s.crcOff b
       -- the block is the controller's; the pointer goes on to its next one, and the last one completes a pass
       s.mcOf b = some mc
       ∧ (∀ n, s.nextBlock mc (b + 64) = some n → Next (.scrubRead mc) s fun t =>
          Sparse.get (fun _ => 0) t.scrub mc = n ∧ t.reg (mcReg' mc 0xC) = s.reg (mcReg' mc 0xC))
       ∧ (s.nextBlock mc (b + 64) = none → Next (.scrubRead mc) s fun t =>
          Sparse.get (fun _ => 0) t.scrub mc = 0 ∧ raised s t (mcReg' mc 0xC) 1)
       ∧ (d = 0 → off = 0 → Next (.scrubRead mc) s fun t =>
          regsKept s t [mcReg' mc 0xC] ∧ t = { s with scrub := t.scrub, setup := t.setup })
       ∧ (0 < d → d ≤ 3 → off = 0 → Next (.scrubRead mc) s fun t =>
          Sparse.get (fun _ => 0) t.defects b = 0 ∧ raised s t (mcReg' mc 0) 1 ∧ t.poison = s.poison ∧ t.mem = s.mem
            ∧ regsKept s t [mcReg' mc 0, mcReg' mc 0xC])
       ∧ (3 < d ∨ off ≠ 0 → Next (.scrubRead mc) s fun t => t.poisoned b = true ∧ raised s t (mcReg' mc 4) 1
          ∧ regsKept s t [mcReg' mc 4, mcReg' mc 0xC]
          ∧ ∃ r, ((t.latch (0x600 + mc)).first = some r ∨ (t.latch (0x600 + mc)).latest = some r) ∧ r.cls = 4 ∧ r.cause = 1
            ∧ r.detail = [BitVec.ofNat 32 b, BitVec.ofNat 32 (b / 2 ^ 32)]))
    ∧ (s.inSelfRefresh mc = true ∨ bitAt (s.reg (offMc mc + 0x10)) 16 = false → exec (.scrubRead mc) s = .next s)
    ∧ (let k := Sparse.get (fun _ => 0) s.retrained (64 * die + ch)
       ch ∈ s.lpList die → die < 2 → s.standby = false →
       (k = 0 ∨ 10000000 ≤ s.lcount.toNat + 1 - k → Next (.lpddr6Retrain die ch) s fun t =>
          Sparse.get (fun _ => 0) t.retrained (64 * die + ch) = s.lcount.toNat + 1 ∧ t = { s with retrained := t.retrained })
       ∧ (k ≠ 0 → s.lcount.toNat + 1 - k < 10000000 → exec (.lpddr6Retrain die ch) s = .next s))

/-! ## The whole machine -/

/-- No run stops: from every state, whatever commands wait, any number of steps answers a next state. -/
def Obligations.NeverStops : Prop := ∀ (k : Nat) (s : State), SafeFor k s

/-- The canonical form of the sparse maps: memory, poison and both kinds of defect, both register files, spool counters and their changes, cores. Keys
rise strictly and no pair holds what an unlisted key reads as. -/
def Sys2Proof.Claims.Canonical (s : State) : Prop :=
  memWf s.mem = true ∧ Sparse.wf (fun _ => false) s.poison = true ∧ Sparse.wf (fun _ => 0) s.defects = true
    ∧ Sparse.wf (fun _ => 0) s.crcOff = true
    ∧ Sparse.wf regReset s.setup = true ∧ Sparse.wf keeperReset s.keeper = true
    ∧ Sparse.wf (fun _ => 0) s.spool = true ∧ Sparse.wf (fun _ => []) s.spoolChg = true
    ∧ Sparse.wf (fun _ => Core.idle) s.cores = true

/-- Reset is canonical. -/
def Obligations.CanonicalAtReset : Prop := Canonical State.reset

/-- Every step of every command keeps the canonical form. -/
def Obligations.CanonicalKept : Prop := ∀ s t : State, Canonical s → step s = .next t → Canonical t

/-- p0 reads 1 and discards writes; ZERO reads 0 and discards results (R129), as the registers hold them and as MOV and CMP
write them. -/
def Obligations.ZeroAndP0 : Prop :=
  (∀ (g : Group) (lane v n : Nat) (b : Bool),
    g.preg lane 0 = true ∧ g.prd 0x150 lane = true ∧ g.pwr 0x150 lane b = g
      ∧ g.rd 0x180 lane n = 0 ∧ g.val 0x180 lane n = 0 ∧ g.prd 0x180 lane = false
      ∧ g.put 0x180 lane v n = g ∧ g.pwr 0x180 lane b = g ∧ g.guard 0 lane = true ∧ g.guard 8 lane = false)
  ∧ ∀ (s : State) (sg : SgRef) (f : FormR) (a : At) (s1 : State),
    (modClear f.mod 2 = true → f.ctl = 0 → s.issuing sg f.g false (use1 f (wRegs f)) = some (a, s1) →
      (f.d = 0x180 → Next (.mov sg f) s fun t => a.RegsKept s1 t ∧ a.OnlyIssued (use1 f (wRegs f)) s1 t)
      ∧ (f.a = 0x180 → Next (.mov sg f) s fun t =>
          a.WroteRegs s1 t f.d (wRegs f) (a.each fun _ => 0) ∧ a.OnlyIssuedDraws (use1 f (wRegs f)) s1 t))
    ∧ (bitAt f.mod 5 = false → fld f.mod 2 3 ≤ 5 → f.ctl = 0 → (f.d = 0x150 ∨ f.d = 0x180) →
      let us := [.dstIn f.d [.p, .zero], .src f.a (wRegs f), .src f.b (wRegs f), .unused f.c]
      s.issuing sg f.g false us = some (a, s1) → Next (.cmp sg f) s fun t => a.RegsKept s1 t ∧ a.OnlyIssued us s1 t)

/-- Pairs and quads (R130): their words, lowest in the lowest register, in the t and u files; an unaligned one, or one that
reaches t255, is an ILLEGAL fault of the instruction that names it (MOV with W for pairs, LD of 128 bits for quads). -/
def Obligations.PairsAndQuads : Prop :=
  (∀ (g : Group) (d : BitVec 9) (lane k v : Nat), lane < 32 →
    (fileOf d = (.t, k) →
      g.val d lane 2 = (g.treg lane k).toNat + 2 ^ 32 * (g.treg lane (k + 1)).toNat
        ∧ g.val d lane 4 = (g.treg lane k).toNat + 2 ^ 32 * (g.treg lane (k + 1)).toNat
            + 2 ^ 64 * (g.treg lane (k + 2)).toNat + 2 ^ 96 * (g.treg lane (k + 3)).toNat
        ∧ (∀ j < 2, ((g.put d lane v 2).treg lane (k + j)).toNat = v / 2 ^ (32 * j) % 2 ^ 32)
        ∧ (∀ j < 4, ((g.put d lane v 4).treg lane (k + j)).toNat = v / 2 ^ (32 * j) % 2 ^ 32))
    ∧ (fileOf d = (.u, k) →
      g.val d lane 2 = (g.ureg k).toNat + 2 ^ 32 * (g.ureg (k + 1)).toNat
        ∧ g.val d lane 4 = (g.ureg k).toNat + 2 ^ 32 * (g.ureg (k + 1)).toNat
            + 2 ^ 64 * (g.ureg (k + 2)).toNat + 2 ^ 96 * (g.ureg (k + 3)).toNat
        ∧ (∀ j < 2, ((g.put d lane v 2).ureg (k + j)).toNat = v / 2 ^ (32 * j) % 2 ^ 32)
        ∧ (∀ j < 4, ((g.put d lane v 4).ureg (k + j)).toNat = v / 2 ^ (32 * j) % 2 ^ 32)))
  ∧ ∀ (s s1 : State) (sg : SgRef) (a : At) (gf : BitVec 4) (u : Where × Bool), sg.partner = none →
    s.at? sg.core sg.blk sg.grp sg.lane gf = some a →
    s.translate a.core a.b.ctx a.sub.pc.toNat .fetch = (s1, .ok u) →
    (∀ (f : FormR) (k : Nat), f.g = gf → wRegs f = 2 →
      (fileOf f.d = (.t, k) ∧ (k % 2 ≠ 0 ∨ k = 254) ∨ fileOf f.a = (.t, k) ∧ (k % 2 ≠ 0 ∨ k = 254)
        ∨ fileOf f.d = (.u, k) ∧ k % 2 ≠ 0 ∨ fileOf f.a = (.u, k) ∧ k % 2 ≠ 0) →
      exec (.mov sg f) s = .next (a.issued (a.fault s1 5 a.sub.pc.toNat)))
    ∧ (∀ (f : FormM) (k : Nat), f.g = gf → widRegs (modWid f.mod) = 4 →
      (fileOf f.d = (.t, k) ∧ (k % 4 ≠ 0 ∨ k = 252) ∨ fileOf f.d = (.u, k) ∧ k % 4 ≠ 0) →
      exec (.ld sg f) s = .next (a.issued (a.fault s1 5 a.sub.pc.toNat)))

/-! ## Rings (R301 to R323) -/

/-- A report of this class and cause is latched at `src`. -/
def Sys2Proof.Claims.Reported (t : State) (src cls cause : Nat) : Prop :=
  ∃ r, ((t.latch src).first = some r ∨ (t.latch src).latest = some r) ∧ r.cls = cls ∧ r.cause = cause

/-- RING_START, RING_STOP, RING_RESUME, RING_TAIL_WRITE, DOORBELL, DOORBELL_POLL and INTR_HOLD_EXPIRY (R303, R304, R308, R321,
R322): the states of a ring, its indices, the three cases of a value received for TAIL, and held interrupts. -/
def Obligations.RingControl : Prop :=
  ∀ (s : State) (r : Nat), r < 128 → s.rwcPend = [] →
    let base := 0x1401000 + 0x40 * r
    (s.ringState r = 0 → (r = 0 ∨ (s.ring r).bound = true) →
      (fld (s.reg (0x10 + base)) 0 5 ≤ 16 → Next (.ringStart r) s fun t =>
        t.ringState r = 1 ∧ t.tail r = 0 ∧ t.head r = 0 ∧ t.retired r = 0 ∧ fld (t.reg (0x18 + base)) 0 5 = 0
          ∧ t.ring r = { Ring.empty with bound := (s.ring r).bound, lastPoll := s.lcount }
          ∧ (∀ q, q ≠ r → t.ring q = s.ring q) ∧ regsKept s t [0x18 + base, 0x1C + base, 0x20 + base, 0x24 + base]
          ∧ t = { s with setup := t.setup, rings := t.rings })
      ∧ (16 < fld (s.reg (0x10 + base)) 0 5 → soundMem s → Next (.ringStart r) s fun t =>
          t.rings = s.rings ∧ t.setup = s.setup ∧ Reported t 0x640 7 4))
    ∧ (s.ringState r ≠ 0 ∨ (r ≠ 0 ∧ (s.ring r).bound = false) → exec (.ringStart r) s = .next s)
    ∧ (s.ringState r = 0 → exec (.ringStop r) s = .next s)
    ∧ (s.ringState r ≠ 0 → (s.ring r).inflight = 0 → Next (.ringStop r) s fun t =>
        t.ringState r = 0 ∧ (t.ring r).stopping = false ∧ (t.ring r).coll = false ∧ t.tail r = s.tail r ∧ t.head r = s.head r
          ∧ t.retired r = s.retired r ∧ (∀ q, q ≠ r → t.ring q = s.ring q)
          ∧ t = { s with setup := t.setup, rings := t.rings, power := t.power })
    ∧ (s.ringState r ≠ 0 → (s.ring r).inflight ≠ 0 → Next (.ringStop r) s fun t =>
        t.ring r = { s.ring r with stopping := true } ∧ (∀ q, q ≠ r → t.ring q = s.ring q) ∧ t = { s with rings := t.rings })
    ∧ (s.ringState r ≠ 3 → exec (.ringResume r) s = .next s)
    ∧ (s.ringState r = 3 → Next (.ringResume r) s fun t =>
        t.ringState r = (if (s.ring r).waiting.isSome then 2 else 1)
          ∧ t.ring r = { s.ring r with fetched := [], retries := 0, linkLost := false } ∧ (∀ q, q ≠ r → t.ring q = s.ring q)
          -- RETIRED goes back to a descriptor that was refused at HEAD (the model's reading, log 30)
          ∧ t.retired r = (if s.retired r = s.head r + 1 then s.head r else s.retired r)
          ∧ regsKept s t [0x18 + base, 0x24 + base] ∧ t = { s with setup := t.setup, rings := t.rings, hreads := t.hreads })
    -- the three cases of a value for TAIL
    ∧ (∀ (v : Word) (c : Instr) (n : Nat), (c = .ringTailWrite r v ∧ s.ringDev r = true ∧ n = 0)
          ∨ (c = .doorbell r v ∧ s.ringDev r = false ∧ n = 1) → s.ringState r ≠ 0 →
      ((v - s.tail r).toNat = 0 ∨ 2 ^ 31 ≤ (v - s.tail r).toNat → Next c s fun t =>
          raised s t 0x1400020 n ∧ regsKept s t [0x1400020] ∧ t = { s with setup := t.setup })
      ∧ (0 < (v - s.tail r).toNat → (v - s.tail r).toNat < 2 ^ 31 → (v - s.retired r).toNat ≤ s.ringSize r →
        Next c s fun t => t.tail r = v ∧ raised s t 0x1400020 n ∧ regsKept s t [0x1400020, 0x1C + base]
          ∧ t = { s with setup := t.setup })
      ∧ (0 < (v - s.tail r).toNat → (v - s.tail r).toNat < 2 ^ 31 → s.ringSize r < (v - s.retired r).toNat →
        s.ringState r ≠ 3 → Next c s fun t =>
          t.ringState r = 3 ∧ fld (t.reg (0x18 + base)) 16 8 = 0x87 ∧ t.reg (0x28 + base) = s.retired r + BitVec.ofNat 32 (s.ringSize r)
            ∧ raised s t 0x1400020 n ∧ regsKept s t [0x1400020, 0x18 + base, 0x28 + base] ∧ t.rings = s.rings))
    ∧ (∀ v, s.ringDev r = false → exec (.ringTailWrite r v) s = .next s)
    ∧ (let n := (s.reg 0x1400004).toNat
       let late := n ≤ (s.lcount - (s.ring r).lastPoll).toNat
       (n ≠ 0 → s.ringDev r = false → s.ringState r = 1 ∨ s.ringState r = 2 → s.linkUp 16 = true → late → Next (.doorbellPoll r) s fun t =>
          t.ring r = { s.ring r with lastPoll := s.lcount } ∧ (∀ q, q ≠ r → t.ring q = s.ring q)
            ∧ (∃ tag, Sparse.get (fun _ => none) s.hreads tag = none ∧ Sparse.get (fun _ => none) t.hreads tag = some (.doorbell r)
              ∧ (∀ k, k ≠ tag → Sparse.get (fun _ => none) t.hreads k = Sparse.get (fun _ => none) s.hreads k)
              ∧ t.hostOut = s.hostOut ++ [.hread tag (BitVec.ofNat 64
                  (4096 * ((s.reg 0x1400008).toNat / 4096) + 2 ^ 32 * (s.reg 0x140000C).toNat + 8 * r)) 8])
            ∧ t = { s with rings := t.rings, hreads := t.hreads, hostOut := t.hostOut, links := t.links })
       ∧ (n = 0 ∨ s.ringDev r = true ∨ ¬ late → exec (.doorbellPoll r) s = .next s))
    ∧ (∀ v, let x := s.vector v
       (x.holding = false ∨ (s.lcount - x.since).toNat < x.hold → exec (.intrHoldExpiry v) s = .next s)
       ∧ (x.holding = true → x.hold ≤ (s.lcount - x.since).toNat →
        (x.due = false → Next (.intrHoldExpiry v) s fun t => t.vector v = .idle ∧ (∀ q, q ≠ v → t.vector q = s.vector q)
          ∧ t = { s with vectors := t.vectors })
        ∧ (x.due = true → s.linkUp 16 = true → Next (.intrHoldExpiry v) s fun t =>
          t.hostOut = s.hostOut ++ [.intr v] ∧ (t.vector v).due = false ∧ (t.vector v).since = s.lcount
            ∧ (t.vector v).hold = x.hold ∧ (∀ q, q ≠ v → t.vector q = s.vector q)
            ∧ t = { s with vectors := t.vectors, hostOut := t.hostOut, links := t.links })))

/-- The completion entry (R319). -/
def Sys2Proof.Claims.entryOf (s : State) (r : Nat) (i : Word) (w : List Word) (status detail : Nat) : List Word :=
  let ws : List Word := [BitVec.ofNat 32 (2 ^ 31 * (1 - i.toNat / s.ringSize r % 2) + (2 ^ 16 * status + fld (wordAt w 0) 0 16)),
    i, BitVec.ofNat 32 s.lcount.toNat, BitVec.ofNat 32 (s.lcount.toNat / 2 ^ 32), BitVec.ofNat 32 detail, s.startSeq, 0]
  ws ++ [crc32c (bytesOfWords ws)]

/-- Device ring `r` runs, nothing of it is in flight, and its next descriptor, `w` of type `ty`, may start; the one after has
not been read. -/
structure Sys2Proof.Claims.Sole (s : State) (r ty : Nat) (w : List Word) : Prop where
  ring : r < 128
  ready : s.readyDesc r ty = some w
  alone : (s.ring r).started = []
  level : s.head r = s.retired r
  next : (s.ring r).fetchedAt (s.head r + 1).toNat = ([], 0)
  dev : s.ringDev r = true
  fits : s.dramRange (s.entryAddr r (s.head r)) 32 = true
  irq : bitAt (wordAt w 0) 23 = false
  sound : soundMem s
  sent : s.unsent r = false

/-- No byte outside these ranges differs. -/
def Sys2Proof.Claims.bytesKept (s t : State) (rs : List (Nat × Nat)) : Prop :=
  ∀ z, (∀ p ∈ rs, z < p.1 ∨ p.1 + p.2 ≤ z) → t.byte z = s.byte z

/-- The descriptor at HEAD of `s` has completed with this status and detail: HEAD and RETIRED are past it, its entry is written, and
a status other than OK has halted the ring. -/
structure Sys2Proof.Claims.Completed (s t : State) (r : Nat) (w : List Word) (st detail : Nat) : Prop where
  head : t.head r = s.retired r + 1
  retired : t.retired r = s.retired r + 1
  started : (t.ring r).started = []
  inflight : fld (t.reg (0x1401018 + 0x40 * r)) 0 5 = 0
  entry : t.words (s.entryAddr r (s.retired r)) 8 = entryOf s r (s.retired r) w st detail
  running : st = 0 → t.ringState r = 1
  halted : st ≠ 0 → t.ringState r = 3 ∧ fld (t.reg (0x1401018 + 0x40 * r)) 16 8 = st ∧ t.reg (0x1401028 + 0x40 * r) = s.retired r
  others : ∀ q, q ≠ r → t.ring q = s.ring q

/-- DESCRIPTOR_FETCH and DESCRIPTOR_REFETCH on device rings, and the checks of a descriptor (R306): what is read is kept when it
passes, refused with an entry and a halt when it does not, and read again after a CRC failure. -/
def Obligations.DescriptorsRead : Prop :=
  ∀ (s : State) (r : Nat), r < 128 →
    let i := s.head r
    let slot := s.slotAddr r i
    let w := s.words slot 16
    (s.fetches r = false → ∀ n, exec (.descriptorFetch r n) s = .next s)
    ∧ (s.ringDev r = true → s.ringState r = 1 → s.canStart r = true → s.nextFetch r = some 0 → s.dramRange slot 64 = true →
      s.anyPoison slot 64 = false → soundMem s → (s.ring r).linkLost = false →
      (s.checkDesc r i w = 0 ∨ (s.checkDesc r i w = 0x80 ∧ (s.ring r).retries < 8) →
        Next (.descriptorFetch r 1) s fun t =>
          (t.ring r).fetchedAt i.toNat = (w, 0) ∧ (t.ring r).lastTry = s.lcount ∧ (t.ring r).started = (s.ring r).started
            ∧ (∀ k, k ≠ i.toNat → (t.ring r).fetchedAt k = (s.ring r).fetchedAt k) ∧ (∀ q, q ≠ r → t.ring q = s.ring q)
            ∧ t = { s with rings := t.rings })
      ∧ (s.checkDesc r i w ∈ [0x83, 0x84, 0x86] → (s.ring r).started = [] → i = s.retired r → s.irqEn r = false →
        bitAt (wordAt w 0) 23 = false → s.dramRange (s.entryAddr r i) 32 = true → s.unsent r = false →
        Next (.descriptorFetch r 1) s fun t =>
          t.ringState r = 3 ∧ fld (t.reg (0x1401018 + 0x40 * r)) 16 8 = s.checkDesc r i w ∧ t.reg (0x1401028 + 0x40 * r) = i
            ∧ t.head r = i ∧ t.retired r = i + 1
            ∧ t.words (s.entryAddr r i) 8 = entryOf s r i w (s.checkDesc r i w) 0 ∧ bytesKept s t [(s.entryAddr r i, 32)]
            ∧ t = { s with rings := t.rings, setup := t.setup, mem := t.mem, lost := t.lost }))
    -- RETIRED passes a refused descriptor, whose entry is written, and HEAD stays at it
    ∧ (∀ w st, s.headStatus r = some (w, st) → st ∉ [0x80, 0x82] → exec (.descriptorRefetch r) s = .next s)
    ∧ ((s.lcount - (s.ring r).lastTry).toNat < 100 → exec (.descriptorRefetch r) s = .next s)
    ∧ (∀ w', s.headStatus r = some (w', 0x80) → s.canStart r = true → s.ringDev r = true → (s.ring r).retries < 8 →
      100 ≤ (s.lcount - (s.ring r).lastTry).toNat → s.dramRange slot 64 = true → s.anyPoison slot 64 = false → soundMem s →
      s.checkDesc r i w = 0 →
      Next (.descriptorRefetch r) s fun t =>
        (t.ring r).fetchedAt i.toNat = (w, 0) ∧ (t.ring r).retries = (s.ring r).retries + 1 ∧ t = { s with rings := t.rings })
    ∧ (∀ w, (wordAt w 15 ≠ crc32c (bytesOfWords (w.take 15)) → s.checkDesc r i w = 0x80)
      ∧ (wordAt w 15 = crc32c (bytesOfWords (w.take 15)) → wordAt w 2 ≠ i → s.checkDesc r i w = 0x82)
      ∧ (wordAt w 15 = crc32c (bytesOfWords (w.take 15)) → wordAt w 2 = i → wordAt w 1 ≠ ~~~ (wordAt w 0) → s.checkDesc r i w = 0x81)
      ∧ (wordAt w 15 = crc32c (bytesOfWords (w.take 15)) → wordAt w 2 = i → wordAt w 1 = ~~~ (wordAt w 0) →
        (fld (wordAt w 0) 24 8 = 0 ∨ 10 < fld (wordAt w 0) 24 8) → s.checkDesc r i w = 0x83))

/-- LAUNCH, LAUNCH_COMPLETE, HINT, PHASE, SPOOL_WAIT, SPOOL_WAIT_SATISFIED, SPOOL_SIGNAL, RING_FENCE and BALLAST_GUARD_END
(R309, R312 to R316, R319, R320, R346), of a device ring with nothing else in flight. -/
def Obligations.DescriptorsRun : Prop :=
  ∀ (s : State) (r : Nat) (w : List Word),
    (∀ ty, s.readyDesc r ty = none → ∀ c, (ty, c) ∈ [(1, Instr.launch r), (4, .hint r), (5, .phase r), (6, .spoolWait r),
        (7, .spoolSignal r), (8, .ringFence r)] → exec c s = .next s)
    ∧ (Sole s r 1 w →
      let l := launchOfWords r (s.head r).toNat (s.ringCtx r) w
      -- while DIAG is set only context 0 launches
      (s.mayLaunch l.ctx = false → exec (.launch r) s = .next s)
      ∧ (s.mayLaunch l.ctx = true → s.launchStatus l = 0 → Next (.launch r) s fun t =>
        t.launchOf s.nextLaunch = some l ∧ t.nextLaunch = s.nextLaunch + 1
          ∧ (∀ k, k ≠ s.nextLaunch → t.launchOf k = s.launchOf k) ∧ t.head r = s.head r + 1 ∧ t.retired r = s.retired r
          ∧ fld (t.reg (0x1401018 + 0x40 * r)) 0 5 = 1
          ∧ t = { s with launches := t.launches, nextLaunch := t.nextLaunch, rings := t.rings, setup := t.setup })
      ∧ (s.mayLaunch l.ctx = true → s.irqEn r = false → s.launchStatus l ≠ 0 → Next (.launch r) s fun t =>
        t.launches = s.launches ∧ t.ringState r = 3 ∧ t.head r = s.head r ∧ t.retired r = s.head r + 1
          ∧ t.words (s.entryAddr r (s.head r)) 8 = entryOf s r (s.head r) w (s.launchStatus l) 0
          ∧ t = { s with rings := t.rings, setup := t.setup, mem := t.mem, lost := t.lost })
      ∧ l.entry.toNat = dwordAt w 3 ∧ l.args.toNat = dwordAt w 7 ∧ l.gx = fld (wordAt w 11) 0 31 ∧ l.gy = fld (wordAt w 12) 16 16
      ∧ l.gz = fld (wordAt w 12) 0 16 ∧ l.threads = fld (wordAt w 14) 0 10 ∧ l.train = fld (wordAt w 13) 7 5
      ∧ (l.entry.toNat % 8 ≠ 0 ∨ l.args.toNat % 64 ≠ 0 ∨ l.gx = 0 ∨ l.threads = 0 ∨ 512 < l.threads ∨ l.gx % l.train ≠ 0 →
        s.launchStatus l = 0x40))
    ∧ (∀ k, s.launchOf k = none → exec (.launchComplete k) s = .next s)
    ∧ (∀ k l, s.launchOf k = some l → l.released < l.gx * l.gy * l.gz → exec (.launchComplete k) s = .next s)
    ∧ (∀ k l z, s.launchOf k = some l → l.gx * l.gy * l.gz ≤ l.released → l.ring = r → r < 128 → l.index = (s.retired r).toNat →
      (s.ring r).started = [(l.index, some { words := w, refused := false, result := none, doneAt := z })] → (s.ring r).jobs = [] →
      (s.ring r).waiting = none → (s.ring r).stopping = false → (s.ring r).linkLost = false → s.ringState r = 1 →
      s.head r = s.retired r + 1 → (s.ring r).fetchedAt (s.head r).toNat = ([], 0) → s.ringDev r = true →
      s.dramRange (s.entryAddr r (s.retired r)) 32 = true → bitAt (wordAt w 0) 23 = false → soundMem s → s.unsent r = false →
      Next (.launchComplete k) s fun t =>
        t.launchOf k = none ∧ (∀ j, j ≠ k → t.launchOf j = s.launchOf j) ∧ Completed s t r w 0 0
          ∧ bytesKept s t [(s.entryAddr r (s.retired r), 32)]
          ∧ t = { s with launches := t.launches, rings := t.rings, setup := t.setup, mem := t.mem, lost := t.lost })
    ∧ (Sole s r 4 w → Next (.hint r) s fun t =>
        Completed s t r w 0 0 ∧ raised s t 0x1500188 1 ∧ bytesKept s t [(s.entryAddr r (s.retired r), 32)]
          ∧ (∀ p < 8, s.partAbsent p = false → (wordAt w 3).toNat / 2 ^ p % 2 = 1 →
            (t.part p).guardHold = (wordAt w 5).toNat ∧ (t.part p).guardLoad = s.lcount + BitVec.ofNat 64 (fld (wordAt w 4) 0 24)
              ∧ (t.part p).fullGuard = 5 * (fld (wordAt w 3) 28 4 - 7) ∧ (t.part p).guard ≤ (t.part p).fullGuard)
          ∧ t = { s with rings := t.rings, setup := t.setup, mem := t.mem, lost := t.lost, power := t.power })
    ∧ (Sole s r 5 w → (∀ p < 8, fld (s.reg (0x1500040 + 4 * fld (wordAt w 3) 0 4)) (4 * p) 4 ≤ 6) →
        Next (.phase r) s fun t =>
        Completed s t r w 0 0 ∧ bytesKept s t [(s.entryAddr r (s.retired r), 32)]
          ∧ fld (t.reg 0x1500014) 0 4 = fld (wordAt w 3) 0 4
          ∧ (∀ p < 8, s.partAbsent p = false → fld (t.reg (0x1500080 + 4 * p)) 24 4 =
              if s.power.free = true then fld (s.reg (0x1500040 + 4 * fld (wordAt w 3) 0 4)) (4 * p) 4 else 1)
          ∧ (t.ring r).coll = (if bitAt (wordAt w 3) 9 = true then true else if bitAt (wordAt w 3) 10 = true then false else (s.ring r).coll)
          ∧ t = { s with rings := t.rings, setup := t.setup, mem := t.mem, lost := t.lost, power := t.power })
    ∧ (Sole s r 6 w → Next (.spoolWait r) s fun t =>
        let id := fld (wordAt w 3) 0 14
        t.ringState r = 2 ∧ (t.ring r).waiting = some (s.head r).toNat ∧ t.head r = s.head r + 1 ∧ t.retired r = s.retired r
          ∧ t.waiters = s.waiters ++ [{ who := .ring r, id := id, target := dwordAt w 5
                                        result := waitOutcome (s.spoolVal id) (dwordAt w 5) }]
          ∧ t = { s with rings := t.rings, setup := t.setup, waiters := t.waiters })
    ∧ (∀ x ok z, s.waiters.find? (fun y => y.who == WaitUnit.ring r) = some x → x.result = some ok →
      (s.ring r).waiting = some (s.retired r).toNat → r < 128 → s.irqEn r = false →
      (s.ring r).started = [((s.retired r).toNat, some { words := w, refused := false, result := none, doneAt := z })] →
      (s.ring r).jobs = [] → (s.ring r).stopping = false → (s.ring r).linkLost = false → s.ringState r = 2 →
      s.head r = s.retired r + 1 → (s.ring r).fetchedAt (s.head r).toNat = ([], 0) → s.ringDev r = true →
      s.dramRange (s.entryAddr r (s.retired r)) 32 = true → bitAt (wordAt w 0) 23 = false → soundMem s → s.unsent r = false →
      Next (.spoolWaitSatisfied r) s fun t =>
        Completed s t r w (if ok then 0 else 0x85) 0 ∧ bytesKept s t [(s.entryAddr r (s.retired r), 32)]
          ∧ t.waiters = s.waiters.filter (fun y => y.who != WaitUnit.ring r)
          ∧ t = { s with rings := t.rings, setup := t.setup, mem := t.mem, lost := t.lost, waiters := t.waiters })
    ∧ (∀ x, s.waiters.find? (fun y => y.who == WaitUnit.ring r) = some x → x.result = none → exec (.spoolWaitSatisfied r) s = .next s)
    ∧ (Sole s r 7 w → (∀ p ∈ s.cores, p.2.cache = []) → Next (.spoolSignal r) s fun t =>
        let id := fld (wordAt w 3) 0 14
        Completed s t r w 0 0 ∧ bytesKept s t [(s.entryAddr r (s.retired r), 32)] ∧ (∀ k, k ≠ id → t.spoolVal k = s.spoolVal k)
          ∧ (bitAt (wordAt w 3) 31 = true → (t.spoolVal id).toNat = dwordAt w 5 % 2 ^ 63)
          ∧ (bitAt (wordAt w 3) 31 = false → bitAt (s.spoolVal id) 63 = false →
              (t.spoolVal id).toNat = min ((s.spoolVal id).toNat + dwordAt w 5) (2 ^ 63 - 1))
          ∧ (bitAt (wordAt w 3) 31 = false → bitAt (s.spoolVal id) 63 = true → t.spoolVal id = s.spoolVal id)
          ∧ t = { s with rings := t.rings, setup := t.setup, mem := t.mem, lost := t.lost, spool := t.spool
                         spoolChg := t.spoolChg, waiters := t.waiters })
    ∧ (Sole s r 8 w → (∀ p ∈ s.cores, p.2.cache = []) →
      -- with SCOPE 3 it starts, and completes when the writes have been acknowledged
      (fld (wordAt w 3) 0 2 = 3 → s.writesUnacked r = true → Next (.ringFence r) s fun t =>
        t.head r = s.head r + 1 ∧ t.retired r = s.retired r ∧ fld (t.reg (0x1401018 + 0x40 * r)) 0 5 = 1
          ∧ t.canStart r = false ∧ t = { s with rings := t.rings, setup := t.setup })
      ∧ (fld (wordAt w 3) 0 2 ≠ 3 ∨ s.writesUnacked r = false → Next (.ringFence r) s fun t =>
          Completed s t r w 0 0 ∧ bytesKept s t [(s.entryAddr r (s.retired r), 32)]
            ∧ t = { s with rings := t.rings, setup := t.setup, mem := t.mem, lost := t.lost }))
    ∧ (∀ z, (s.ring r).started = [((s.retired r).toNat, some { words := w, refused := false, result := none, doneAt := z })] →
      dType w = 8 → r < 128 → (s.ring r).jobs = [] → (s.ring r).waiting = none → (s.ring r).stopping = false →
      (s.ring r).linkLost = false → s.ringState r = 1 → s.head r = s.retired r + 1 →
      (s.ring r).fetchedAt (s.head r).toNat = ([], 0) → s.ringDev r = true →
      s.dramRange (s.entryAddr r (s.retired r)) 32 = true → bitAt (wordAt w 0) 23 = false → soundMem s → s.unsent r = false →
      (fld (wordAt w 3) 0 2 = 3 → s.writesUnacked r = true → exec (.ringFence r) s = .next s)
      ∧ (fld (wordAt w 3) 0 2 ≠ 3 ∨ s.writesUnacked r = false → Next (.ringFence r) s fun t =>
          Completed s t r w 0 0 ∧ bytesKept s t [(s.entryAddr r (s.retired r), 32)]
            ∧ t = { s with rings := t.rings, setup := t.setup, mem := t.mem, lost := t.lost }))
    ∧ (∀ p < 8, let x := s.part p
      (s.partAbsent p = false → x.fullGuard ≠ 0 → x.guardHold ≠ 0 → x.guardLoad.toNat + x.guardHold ≤ s.lcount.toNat →
        Next (.ballastGuardEnd p) s fun t =>
          t.part p = { x with fullGuard := 0, guard := 0, guardHold := 0, ramping := (t.part p).ramping }
            -- a neighbour's guard may grow again; its rail then ramps
            ∧ (∀ q, q ≠ p → t.part q = { s.part q with guard := (t.part q).guard, ramping := (t.part q).ramping })
            ∧ t = { s with power := t.power })
      ∧ (x.fullGuard = 0 ∨ x.guardHold = 0 ∨ s.lcount.toNat < x.guardLoad.toNat + x.guardHold → exec (.ballastGuardEnd p) s = .next s))

/-! ## The link engine and the host (spec/14, R297 to R300, R310, R311) -/

/-- The windows that the link engine has cached for ring `r`'s context put the 64-byte block of `va` at `a` of this module's
DRAM in service, with the access that `need` allows, and that block is not poisoned. -/
def Sys2Proof.Claims.linkBlock (s : State) (r va a : Nat) (need : Need) : Prop :=
  va < 2 ^ 63 ∧ a % 64 = 0 ∧ a < 0x10800000000 ∧ s.inDram a = true ∧ s.poisoned a = false
    ∧ ∃ ws win, Sparse.get (fun _ => none) s.wcache (98304 + s.ringCtx r) = some ws
      ∧ (∀ x < 64, findWindow ws (64 * (va / 64) + x) = some win) ∧ fld (wordAt win 6) 0 6 &&& need.mask = need.mask
      ∧ dwordAt win 4 + (64 * (va / 64) - dwordAt win 0) = a

/-- COPY between device addresses and FILL within one block each, LINK_COPY_COMPLETE, HREAD_RESPONSE, MREAD and MWRITE. -/
def Obligations.LinkEngineAndHost : Prop :=
  ∀ (s : State) (r : Nat) (w : List Word), r < 128 →
    let i := s.head r
    let n := (wordAt w 11).toNat
    let dst := dwordAt w 7
    let started (t : State) (a : Nat) : Prop :=
      t.head r = s.head r + 1 ∧ t.retired r = s.retired r
        ∧ (∃ j, t.job? r i.toNat = some j ∧ j.moved = true ∧ j.status = 0 ∧ j.done = n ∧ (0 < n → j.share = [(s.deviceId, n)]))
        ∧ (∀ q, q ≠ r → t.ring q = s.ring q) ∧ (∀ c, t.core c = s.core c) ∧ bytesKept s t [(a, n)]
        ∧ regsKept s t [0x1401018 + 0x40 * r, 0x1401020 + 0x40 * r]
        ∧ t = { s with rings := t.rings, setup := t.setup, mem := t.mem, lost := t.lost, poison := t.poison
                       cores := t.cores, progress := t.progress }
    (∀ ty, (ty = 2 ∨ ty = 3) → s.readyDesc r ty = none → exec (if ty = 2 then .copy r else .fill r) s = .next s)
    ∧ ((s.ring r).fetchedAt (i + 1).toNat = ([], 0) → soundMem s → s.wcacheBad = [] → (∀ p ∈ s.cores, p.2.cache = []) →
      dst % 64 + n ≤ 64 →
      ∀ a, linkBlock s r dst a .write →
      (∀ b, s.readyDesc r 2 = some w → bitAt (wordAt w 13) 31 = false → bitAt (wordAt w 13) 30 = false →
        dwordAt w 3 % 64 + n ≤ 64 → linkBlock s r (dwordAt w 3) b .read →
        Next (.copy r) s fun t => started t (a + dst % 64) ∧ t.bytes (a + dst % 64) n = s.bytes (b + dwordAt w 3 % 64) n)
      ∧ (s.readyDesc r 3 = some w →
        Next (.fill r) s fun t => started t (a + dst % 64)
          ∧ ∀ k < n, t.byte (a + dst % 64 + k) = (bytesOfWords [wordAt w 3, wordAt w 4]).getD (k % 8) 0))
    ∧ (∀ q : Word, s.job? r q.toNat = none → exec (.linkCopyComplete r q) s = .next s)
    ∧ (∀ (q : Word) j, s.job? r q.toNat = some j → j.moved = false → j.status = 0 → exec (.linkCopyComplete r q) s = .next s)
    ∧ (∀ j z, s.job? r (s.retired r).toNat = some j → (j.moved = true ∨ j.status ≠ 0) → j.status ∈ [0, 0x53, 0x89, 0x8A] →
      j.done < 2 ^ 32 → s.irqEn r = false →
      (s.ring r).started = [((s.retired r).toNat, some { words := w, refused := false, result := none, doneAt := z })] →
      (s.ring r).waiting = none → (s.ring r).stopping = false → (s.ring r).linkLost = false → s.ringState r = 1 →
      s.head r = s.retired r + 1 → (s.ring r).fetchedAt (s.head r).toNat = ([], 0) → s.ringDev r = true →
      s.dramRange (s.entryAddr r (s.retired r)) 32 = true → bitAt (wordAt w 0) 23 = false → soundMem s → s.unsent r = false →
      let id := fld (wordAt w 13) 0 14
      let done (t : State) : Prop := Completed s t r w j.status j.done ∧ t.job? r (s.retired r).toNat = none
        ∧ bytesKept s t [(s.entryAddr r (s.retired r), 32)]
        ∧ t = { s with rings := t.rings, setup := t.setup, mem := t.mem, lost := t.lost, spool := t.spool
                       spoolChg := t.spoolChg, waiters := t.waiters }
      (bitAt (wordAt w 13) 29 = false → Next (.linkCopyComplete r (s.retired r)) s fun t => done t ∧ t.spool = s.spool)
      ∧ (dType w = 2 → bitAt (wordAt w 13) 29 = true → j.status = 0 → j.share = [(s.deviceId, j.done)] → j.done ≠ 0 →
        bitAt (s.spoolVal id) 63 = false → Next (.linkCopyComplete r (s.retired r)) s fun t =>
          done t ∧ (t.spoolVal id).toNat = min ((s.spoolVal id).toNat + j.done) (2 ^ 63 - 1)
            ∧ ∀ k, k ≠ id → t.spoolVal k = s.spoolVal k))
    -- answers to host reads
    ∧ (∀ tag st bs, Sparse.get (fun _ => none) s.hreads tag = none → exec (.hreadResponse tag st bs) s = .next s)
    ∧ (∀ tag (v : Word) hi, Sparse.get (fun _ => none) s.hreads tag = some (.doorbell r) → s.ringState r ≠ 0 → hi < 2 ^ 32 →
      0 < (v - s.tail r).toNat → (v - s.tail r).toNat < 2 ^ 31 → (v - s.retired r).toNat ≤ s.ringSize r →
      (Next (.hreadResponse tag .ok (bytesLE 8 (v.toNat + 2 ^ 32 * hi))) s fun t =>
        t.tail r = v ∧ raised s t 0x1400024 1 ∧ regsKept s t [0x140101C + 0x40 * r, 0x1400024]
          ∧ Sparse.get (fun _ => none) t.hreads tag = none ∧ t = { s with setup := t.setup, hreads := t.hreads })
      ∧ ∀ st ∈ [HostStatus.refused, .poison, .unsupported],
          Next (.hreadResponse tag st []) s fun t => t = { s with hreads := t.hreads })
    ∧ (∀ tag (k : Nat) ws, Sparse.get (fun _ => none) s.hreads tag = some (.descriptor r k 1) → s.ringState r = 2 → k < 2 ^ 32 →
      ws.length = 16 →
      (Next (.hreadResponse tag .ok (bytesOfWords ws)) s fun t => (t.ring r).fetchedAt k = (ws, 0)
        ∧ (∀ j, j ≠ k → (t.ring r).fetchedAt j = (s.ring r).fetchedAt j) ∧ t = { s with rings := t.rings, hreads := t.hreads })
      ∧ (Next (.hreadResponse tag .refused []) s fun t => ((t.ring r).fetchedAt k).2 = 0x89)
      -- for an answer UNSUPPORTED the status is the model's choice (log 98)
      ∧ (Next (.hreadResponse tag .unsupported []) s fun t => ((t.ring r).fetchedAt k).2 = 0x89)
      ∧ Next (.hreadResponse tag .poison []) s fun t => ((t.ring r).fetchedAt k).2 = 0x8A)
    ∧ (∀ tag k off j, Sparse.get (fun _ => none) s.hreads tag = some (.copy r k off) → s.job? r k = some j →
      (Next (.hreadResponse tag .refused []) s fun t => t.job? r k = some { j with status := 0x89, waits := 0, data := [] })
      ∧ Next (.hreadResponse tag .poison []) s fun t => t.job? r k = some { j with status := 0x8A, waits := 0, data := [] })
    -- reads and writes of set-up registers
    ∧ (∀ tag off, s.start.moored = false → s.linkUp 16 = true →
      (off ∈ [0x1400004, 0x1400008, 0x140101C + 0x40 * r, 0x1401020 + 0x40 * r, 0x1401024 + 0x40 * r] →
        Next (.mread tag off) s fun t =>
          t.hostOut = s.hostOut ++ [.mresp tag (s.reg off)] ∧ t = { s with hostOut := t.hostOut, links := t.links })
      ∧ (off % 4 ≠ 0 ∨ 0x4000000 ≤ off → soundMem s → Next (.mread tag off) s fun t =>
          t.hostOut = s.hostOut ++ [.mresp tag 0] ∧ Reported t 0x640 4 2 ∧ t.setup = s.setup))
    ∧ (∀ tag off, s.start.moored = true → off < 0x1400800 ∨ 0x1400880 ≤ off → exec (.mread tag off) s = .next s)
    ∧ (∀ (v : Word) (off : Nat), s.start.moored = false → s.rwcPend = [] →
      (Next (.mwrite 0x1400004 v) s fun t => t.reg 0x1400004 = v ∧ regsKept s t [0x1400004] ∧ t = { s with setup := t.setup })
      ∧ (off < 0x1400000 ∨ 0x1403000 ≤ off → soundMem s → Next (.mwrite off v) s fun t =>
          t.setup = s.setup ∧ t.cores = s.cores ∧ t.rings = s.rings ∧ Reported t 0x640 7 3))

/-! ## Links (spec/13, R271 to R277, R293; R301) -/

/-- Status register and counters of link `k`: 0 to 15 the Bihel ports, 16 the Sornal link (R293, R322). -/
def Sys2Proof.Claims.stReg (k : Nat) : Nat := if k < 16 then 0x1300020 + 0x100 * k else 0x1400000
def Sys2Proof.Claims.lkCount (k i : Nat) : Nat := if k < 16 then 0x1300024 + 0x100 * k + 4 * i else 0x1400010 + 4 * i

/-- The link is in training state `st` since now, holding nothing, and nothing but its status changed. -/
def Sys2Proof.Claims.Entered (s t : State) (k st : Nat) : Prop :=
  t.linkState k = st ∧ (t.link k).since = s.lcount ∧ (t.link k).unacked = [] ∧ (t.link k).txWait = []
    ∧ (∀ j, j ≠ k → t.link j = s.link j) ∧ regsKept s t [stReg k] ∧ t = { s with setup := t.setup, links := t.links }

/-- Link `k` has sent flits, the first of which says NAK with the ACK of `l`. -/
def Sys2Proof.Claims.sentNak (l l' : Link) : Prop :=
  ∃ (f : Flit) (rest : List Flit), l'.sent = l.sent ++ f :: rest ∧ f.nak = true ∧ f.ack = l.rxAck

/-- Link `k` has sent every flit of its replay buffer again, and others after them. -/
def Sys2Proof.Claims.sentAgain (l l' : Link) : Prop :=
  ∃ fs rest : List Flit, l'.sent = l.sent ++ fs ++ rest ∧ fs.map Flit.seq = l.unacked.map Prod.fst ∧ ∀ f ∈ fs, f.ftype = 1

/-- FLIT_RECEIVE, RESEND_TIMEOUT, LANE_BAD, LINK_LOSS, SORNAL_LINK_LOSS, and the training rows; and the words of a sent flit. -/
def Obligations.Links : Prop :=
  ∀ (s : State) (k : Nat), k ≤ 16 →
    let l := s.link k
    let st := s.linkState k
    let age := (s.lcount - l.since).toNat
    -- what DOWN is: with EN clear a port goes on to OFF
    let down := if k = 16 ∨ bitAt (s.reg (0x1300000 + 0x100 * k)) 0 = true then 7 else 0
    -- flits
    (∀ fl : List Byte, (s.linkUp k = false ∨ fl.length ≠ 256) → exec (.flitReceive k fl) s = .next s)
    ∧ (∀ fl : List Byte, s.linkUp k = true → fl.length = 256 →
      let w0 : Word := BitVec.ofNat 32 (natLE (fl.take 4))
      let good := (crc32c (fl.take 252)).toNat = natLE (fl.drop 252)
      (¬ good → Next (.flitReceive k fl) s fun t =>
        raised s t (lkCount k 0) 1 ∧ (l.nakSent = false → sentNak l (t.link k)) ∧ (t.link k).rxAck = l.rxAck
          ∧ (l.txWait = [] → (t.link k).unacked = l.unacked) ∧ regsKept s t [lkCount k 0] ∧ (∀ j, j ≠ k → t.link j = s.link j)
          ∧ t = { s with setup := t.setup, links := t.links })
      ∧ (good → fld w0 28 4 = 1 → bitAt w0 3 = false → l.txWait = [] → fld w0 16 12 = (l.rxAck + 1) % 4096 →
        Next (.flitReceive k fl) s fun t =>
          -- the acceptance is told with the next flit
          (t.link k).rxAck = fld w0 16 12 ∧ (t.link k).ackSent = fld w0 16 12 ∧ (t.link k).nak = false
            ∧ (t.link k).lastGood = s.lcount
            ∧ (∀ pre q x post, l.unacked = pre ++ [(fld w0 4 12, q, x)] ++ post → (∀ y ∈ pre, y.1 ≠ fld w0 4 12) →
                (t.link k).unacked = post)
            ∧ (k < 16 → (∀ j, j ≠ k → t.link j = s.link j) ∧ t = { s with links := t.links }))
      ∧ (good → fld w0 28 4 = 1 → bitAt w0 3 = false → l.txWait = [] → fld w0 16 12 ≠ (l.rxAck + 1) % 4096 →
        Next (.flitReceive k fl) s fun t => (t.link k).rxAck = l.rxAck ∧ (t.link k).rx = l.rx
          ∧ (l.nakSent = false → sentNak l (t.link k)) ∧ (k < 16 → t = { s with links := t.links }))
      ∧ (good → fld w0 28 4 < 3 → bitAt w0 3 = true → (∀ y ∈ l.unacked, y.1 ≠ fld w0 4 12) →
        Next (.flitReceive k fl) s fun t => raised s t (lkCount k 1) l.unacked.length ∧ sentAgain l (t.link k)
          ∧ (k < 16 → regsKept s t [lkCount k 1])))
    ∧ (s.linkUp k = true → l.unacked ≠ [] → 80 ≤ (s.lcount - l.lastAck).toNat → Next (.resendTimeout k) s fun t =>
        raised s t (lkCount k 1) l.unacked.length ∧ (t.link k).lastAck = s.lcount ∧ (t.link k).unacked = l.unacked ∧ sentAgain l (t.link k)
          ∧ regsKept s t [lkCount k 1] ∧ t = { s with setup := t.setup, links := t.links })
    ∧ (s.linkUp k = false ∨ l.unacked = [] ∨ (s.lcount - l.lastAck).toNat < 80 → exec (.resendTimeout k) s = .next s)
    -- lanes
    ∧ (∀ lane < 8, s.linkUp k = true → fld (s.reg (stReg k)) 26 2 = 3 → fld (s.reg (stReg k)) 18 8 = 0xFF → l.unacked = [] →
      Next (.laneBad k lane) s fun t =>
        t.linkUp k = true ∧ fld (t.reg (stReg k)) 26 2 = (if lane < 4 then 2 else 1)
          ∧ fld (t.reg (stReg k)) 18 8 = 255 - 2 ^ lane ∧ raised s t (lkCount k 2) 1 ∧ regsKept s t [stReg k, lkCount k 2]
          ∧ t = { s with setup := t.setup })
    ∧ (∀ lane < 8, st ≠ 5 → Next (.laneBad k lane) s fun t =>
        t.linkState k = st ∧ bitAt (t.reg (stReg k)) (18 + lane) = false ∧ bitAt (t.link k).lanes lane = false
          ∧ regsKept s t [stReg k] ∧ t = { s with setup := t.setup, links := t.links })
    ∧ (∀ lane, 8 ≤ lane → exec (.laneBad k lane) s = .next s)
    -- losses
    ∧ (k < 16 → s.linkUp k = true → s.jobPort k = false → 200 ≤ (s.lcount - l.lastGood).toNat → Next (.linkLoss k) s fun t =>
        t.linkState k = 6 ∧ raised s t (lkCount k 3) 1 ∧ (t.link k).unacked = [] ∧ (t.link k).since = s.lcount
          ∧ (∀ j, j ≠ k → t.link j = s.link j) ∧ regsKept s t [stReg k, lkCount k 3] ∧ t = { s with setup := t.setup, links := t.links })
    ∧ (s.linkUp k = false ∨ (s.lcount - l.lastGood).toNat < 200 → exec (.linkLoss k) s = .next s)
    ∧ (s.linkUp 16 = false → exec .sornalLinkLoss s = .next s)
    ∧ (s.linkUp 16 = true → s.hreads = [] → Next .sornalLinkLoss s fun t =>
        t.linkState 16 = 6 ∧ raised s t 0x140001C 1 ∧ (t.link 16).unacked = [] ∧ (∀ j < 16, t.link j = s.link j)
          ∧ (∀ r < 128, (s.ringDev r = true ∧ (s.ring r).started = []
                ∨ s.ringDev r = false ∧ (s.ringState r = 0 ∨ s.ringState r = 3) → t.ring r = s.ring r ∧ t.ringState r = s.ringState r)
            ∧ (s.ringDev r = false → s.ringState r = 1 → (s.ring r).stopping = false →
              (t.ring r).linkLost = true ∧ t.head r = s.head r
                ∧ ((s.ring r).inflight = 0 → t.ringState r = 3 ∧ fld (t.reg (0x1401018 + 0x40 * r)) 16 8 = 0x89
                    ∧ t.reg (0x1401028 + 0x40 * r) = s.head r)
                ∧ ((s.ring r).inflight ≠ 0 → t.ringState r = 1))))
    -- training
    ∧ (∀ lanes : BitVec 8,
      (st = 1 → (lanes &&& 0x0F = 0x0F ∨ lanes &&& 0xF0 = 0xF0) → age ≤ 1000000 → Next (.portSignalDetect k lanes) s fun t =>
        Entered s t k 2 ∧ (t.link k).lanes = lanes)
      ∧ (st ≠ 1 ∨ (lanes &&& 0x0F ≠ 0x0F ∧ lanes &&& 0xF0 ≠ 0xF0) → exec (.portSignalDetect k lanes) s = .next s)
      ∧ (st = 2 → Next (.equaliseDone k lanes) s fun t =>
          Entered s t k 3 ∧ (t.link k).lanes = (if age ≤ 200000 then lanes &&& l.lanes else 0)
            -- the TRAIN flit that tells the module's serial number and the port (its layout is the model's, log 96)
            ∧ ∃ (fl : Flit) (rest : List Byte), (t.link k).sent = l.sent ++ [fl] ∧ fl.ftype = 2 ∧ fl.payload = s.trainPayload k ++ rest)
      ∧ (st ≠ 2 → exec (.equaliseDone k lanes) s = .next s)
      ∧ (∀ (pn : BitVec 4) (sn : BitVec 128),
        (st = 3 → (k < 16 ∨ s.start.levels.getD 6 0 = 0) →
          let told (t : State) : Prop := (t.link k).peer = some (if k = 16 then 0 else pn, sn)
          (lanes &&& l.lanes = 0xFF → Next (.widthAgreed k lanes pn sn) s fun t =>
            Entered s t k 4 ∧ told t ∧ fld (t.reg (stReg k)) 26 2 = 3)
          ∧ (lanes &&& l.lanes ≠ 0xFF → lanes &&& l.lanes &&& 0x0F = 0x0F → Next (.widthAgreed k lanes pn sn) s fun t =>
            Entered s t k 4 ∧ told t ∧ fld (t.reg (stReg k)) 26 2 = 1)
          ∧ (lanes &&& l.lanes &&& 0x0F ≠ 0x0F → lanes &&& l.lanes &&& 0xF0 = 0xF0 → Next (.widthAgreed k lanes pn sn) s fun t =>
            Entered s t k 4 ∧ told t ∧ fld (t.reg (stReg k)) 26 2 = 2)
          ∧ (lanes &&& l.lanes &&& 0x0F ≠ 0x0F → lanes &&& l.lanes &&& 0xF0 ≠ 0xF0 → Next (.widthAgreed k lanes pn sn) s fun t =>
            Entered s t k down))
        ∧ (st ≠ 3 → exec (.widthAgreed k lanes pn sn) s = .next s)))
    ∧ (st = 1 → 1000000 ≤ age → Next (.detectTimeout k) s fun t => Entered s t k down)
    ∧ (st ≠ 1 ∨ age < 1000000 → exec (.detectTimeout k) s = .next s)
    ∧ (st = 4 → Next (.initReady k) s fun t => Entered s t k 5 ∧ (t.link k).txSeq = 1 ∧ (t.link k).rxAck = 0
        ∧ (t.link k).credits = [] ∧ (t.link k).lastGood = s.lcount)
    ∧ (st ≠ 4 → exec (.initReady k) s = .next s)
    ∧ (st = 6 → 100000 ≤ age → Next (.lostRetry k) s fun t => Entered s t k 1)
    ∧ (st ≠ 6 ∨ age < 100000 → exec (.lostRetry k) s = .next s)
    ∧ (st = 7 → 10000000 ≤ age → Next (.downRetry k) s fun t => Entered s t k 1)
    ∧ (st ≠ 7 ∨ age < 10000000 → exec (.downRetry k) s = .next s)
    -- the PORT_CTRL bit; a port that is off with EN clear stays so (the model's reading, log 41)
    ∧ (k < 16 → s.pendOf (0x1300000 + 0x100 * k) = none → (st = 5 → s.jobPort k = false) → (st ≠ 0 ∨ bitAt (s.reg (0x1300000 + 0x100 * k)) 0 = true) →
      Next (.portRetrain k) s fun t => Entered s t k 1)
    ∧ (k < 16 → s.pendOf (0x1300000 + 0x100 * k) = none → st = 0 → bitAt (s.reg (0x1300000 + 0x100 * k)) 0 = false →
      exec (.portRetrain k) s = .next s)
    -- a flit: 8 bytes of header, 244 of payload, CRC-32C
    ∧ (∀ x : Flit, x.ftype < 16 → x.seq < 4096 → x.ack < 4096 → x.q < 8 → x.cqa < 8 → x.ca < 512 → x.cqb < 8 → x.cb < 512 →
      x.payload.length = 244 →
      let fl := flitBytes x
      let w0 : Word := BitVec.ofNat 32 (natLE (fl.take 4))
      let w1 : Word := BitVec.ofNat 32 (natLE ((fl.drop 4).take 4))
      fl.length = 256 ∧ natLE (fl.drop 252) = (crc32c (fl.take 252)).toNat ∧ (fl.drop 8).take 244 = x.payload
        ∧ fld w0 28 4 = x.ftype ∧ fld w0 16 12 = x.seq ∧ fld w0 4 12 = x.ack ∧ bitAt w0 3 = x.nak ∧ fld w0 0 3 = x.q
        ∧ fld w1 29 3 = x.cqa ∧ fld w1 20 9 = x.ca ∧ fld w1 13 3 = x.cqb ∧ fld w1 4 9 = x.cb)

/-! ## Packets (spec/13, R278 to R292) -/

/-- A request of type `ty` for this module arrives on a port that is UP and passes the checks of R281. -/
structure Sys2Proof.Claims.Arrives (s : State) (port ty : Nat) (p : Packet) : Prop where
  inRange : port < 16
  up : s.linkUp port = true
  type : p.ptype.toNat = ty
  req : p.rsp = false
  fields : packetOk p = true
  here : p.dst.toNat = s.deviceId
  job : p.job.toNat = s.job
  epoch : p.epoch.toNat = s.epoch
  noCut : s.cut = [] ∧ s.cutAll = false
  pairs : pairsOk p = true
  counter : hasSpool p = true → (pSpv p = true ∨ ty = 6) → s.globalSpool (pId p) = true

/-- One response to `p` has been sent, on the port that leads to its source. -/
def Sys2Proof.Claims.Answered (s t : State) (p : Packet) (status : Nat) (data : List Byte) : Prop :=
  ∃ k q, s.routePort s.deviceId p.src.toNat = some k ∧ t.fabOut = s.fabOut ++ [(k, q)] ∧ q.rsp = true ∧ q.ptype = p.ptype
    ∧ q.status.toNat = status ∧ q.dst = p.src ∧ q.tag = p.tag ∧ q.data = data

/-- WRITE, READ, ACCUMULATE, ATOMIC, SPOOL_NOTIFY, FABRIC_RESPONSE, LINE_CUT and FABRIC_REQUEST_TIMEOUT. -/
def Obligations.Packets : Prop :=
  ∀ (s : State) (port : Nat) (p : Packet),
    let id := pId p
    let old := s.spoolVal id
    let plus (t : State) (n : Nat) : Prop := (∀ k, k ≠ id → t.spoolVal k = s.spoolVal k)
      ∧ (bitAt old 63 = true → t.spoolVal id = old)
      ∧ (bitAt old 63 = false → n ≠ 0 → (t.spoolVal id).toNat = min (old.toNat + n) (2 ^ 63 - 1))
    let kept (t : State) : Prop :=
      t = { s with mem := t.mem, lost := t.lost, poison := t.poison, spool := t.spool, spoolChg := t.spoolChg
                   waiters := t.waiters, setup := t.setup, fabOut := t.fabOut, links := t.links
                   svc := { s.svc with streams := t.svc.streams } }
    (∀ k, s.routePort s.deviceId p.src.toNat = some k → soundMem s →
      (Arrives s port 1 p → pMail p = false → ∀ a, s.holderAddr p p.data.length = some a → s.anyPoison a p.data.length = false →
        Next (.write port p) s fun t =>
          -- the bits that the EDGE words leave out keep their value
          (∀ i < p.data.length, let m := (edgeMasks p).getD i 0
            t.byte (a + i) = (s.byte (a + i) &&& ~~~ m) ||| (p.data.getD i 0 &&& m))
            ∧ (pEdge p = false → ∀ i < p.data.length, (edgeMasks p).getD i 0 = 0xFF) ∧ bytesKept s t [(a, p.data.length)]
            ∧ (pSpv p = true → plus t ((edgeMasks p).filter (· != 0)).length) ∧ (pSpv p = false → t.spool = s.spool)
            ∧ Answered s t p 0 [] ∧ t.setup = s.setup ∧ kept t)
      -- a service message joins the mailbox, or is a new epoch (its format is the model's, log 92)
      ∧ (Arrives s port 1 p → pMail p = true → pEdge p = false → ∀ a, mailAddr p p.data.length = some a →
        let m := wordsLE (p.data.length / 4) p.data
        (wordAt m 0 ≠ 1 → wordAt m 0 ≠ 3 → Next (.write port p) s fun t =>
          t.bytes a p.data.length = p.data ∧ bytesKept s t [(a, p.data.length)] ∧ Answered s t p 0 []
            ∧ t.svc.inbox = (p.src.toNat, m) :: s.svc.inbox ∧ t.cores = s.cores)
        ∧ (wordAt m 0 = 3 → s.rwcPend = [] → Next (.write port p) s fun t =>
          t.epoch = (wordAt m 1).toNat % 256 ∧ t.job = s.job ∧ Answered s t p 0 []
            ∧ (t.epoch ≠ s.epoch → t.cut = [] ∧ t.cutAll = false)))
      ∧ (Arrives s port 1 p → (if pMail p then mailAddr p p.data.length else s.holderAddr p p.data.length) = none → Next (.write port p) s fun t =>
          Answered s t p 1 [] ∧ t = { s with fabOut := t.fabOut, links := t.links })
      ∧ (Arrives s port 2 p → ∀ a, s.holderAddr p (4 * p.len.toNat) = some a →
        (s.anyPoison a (4 * p.len.toNat) = false → Next (.read port p) s fun t =>
          Answered s t p 0 (s.bytes a (4 * p.len.toNat)) ∧ t = { s with fabOut := t.fabOut, links := t.links })
        ∧ (s.anyPoison a (4 * p.len.toNat) = true → Next (.read port p) s fun t =>
          Answered s t p 2 [] ∧ t = { s with fabOut := t.fabOut, links := t.links, setup := t.setup }))
      ∧ (Arrives s port 3 p → pFmt p = false → ∀ a, s.holderAddr p (4 * p.len.toNat) = some a → a % 4 = 0 →
        s.anyPoison a (4 * p.len.toNat) = false →
        Next (.accumulate port p) s fun t =>
          (∀ i < p.len.toNat, t.word (a + 4 * i) = fadd (s.word (a + 4 * i)) (BitVec.ofNat 32 (natLE ((p.data.drop (4 * i)).take 4))))
            ∧ bytesKept s t [(a, 4 * p.len.toNat)] ∧ plus t (4 * p.len.toNat) ∧ Answered s t p 0 [] ∧ kept t)
      ∧ (Arrives s port 5 p →
        let op := fld (pExt p 2) 8 3
        let ty := fld (pExt p 2) 4 3
        let n := if ty = 2 ∨ ty = 3 then 8 else 4
        ∀ a, s.holderAddr p n = some a → a % n = 0 → s.anyPoison a n = false →
        Next (.atomic port p) s fun t =>
          t.bytes a n = bytesLE n (atomNew op ty (natLE (s.bytes a n)) (dwordAt p.ext 4 % 2 ^ (8 * n)) (dwordAt p.ext 6 % 2 ^ (8 * n)))
            ∧ bytesKept s t [(a, n)] ∧ Answered s t p 0 (bytesLE 8 (natLE (s.bytes a n))) ∧ t.spool = s.spool ∧ kept t))
    ∧ (Arrives s port 6 p → Next (.spoolNotify port p) s fun t =>
        let n := (pExt p 2).toNat
        (pPsn p = false → plus t n) ∧ (pPsn p = true → bitAt (t.spoolVal id) 63 = true)
          ∧ (n = 0 → pPsn p = false → t.spool = s.spool) ∧ t.mem = s.mem ∧ t.fabOut = s.fabOut ∧ kept t)
    -- responses: a load's word reaches its register; a response without a request is dropped
    ∧ (p.rsp = true → s.linkUp port = true → port < 16 → p.dst.toNat = s.deviceId → p.job.toNat = s.job → p.epoch.toNat = s.epoch →
      s.cut = [] → s.cutAll = false → packetOk p = true →
      (Sparse.get (fun _ => none) s.reqs p.tag.toNat = none → Next (.fabricResponse port p) s fun t =>
        raised s t (0x1300034 + 0x100 * port) 1 ∧ Reported t (0x630 + port) 5 1 ∧ t.cores = s.cores ∧ t.reqs = s.reqs)
      ∧ (∀ q core blk grp lane d b n, Sparse.get (fun _ => none) s.reqs p.tag.toNat = some q → q.ptype = p.ptype → p.status = 0 →
        q.owner = .thread core blk grp lane d 4 false → s.block core blk = some b → fileOf d = (.t, n) → lane < 32 → q.addr.toNat % 4 = 0 →
        Next (.fabricResponse port p) s fun t =>
          -- a value that a later instruction has superseded is not written
          (t.group core blk grp).treg lane n =
              (if q.stale = true then (s.group core blk grp).treg lane n else BitVec.ofNat 32 (natLE (p.data.take 4)))
            ∧ (∀ i < 32, ∀ j, (i, j) ≠ (lane, n) → (t.group core blk grp).treg i j = (s.group core blk grp).treg i j)
            ∧ (∀ c k g, (c, k, g) ≠ (core, blk, grp) → t.group c k g = s.group c k g)
            ∧ Sparse.get (fun _ => none) t.reqs p.tag.toNat = none
            ∧ (∀ j, j ≠ p.tag.toNat → Sparse.get (fun _ => none) t.reqs j = Sparse.get (fun _ => none) s.reqs j)
            ∧ t = { s with cores := t.cores, reqs := t.reqs })
      ∧ (∀ q core blk grp lane d wid, Sparse.get (fun _ => none) s.reqs p.tag.toNat = some q → q.ptype = p.ptype →
        (p.status = 1 ∨ p.status = 3) → q.owner = .thread core blk grp lane d wid false → core < 1536 →
        Next (.fabricResponse port p) s fun t =>
          t.ctxRuns q.ctx = false ∧ t.cores = s.cores
            -- the record names the lanes and the address of the instruction that issued the load
            ∧ ∃ r, ((t.latch core).first = some r ∨ (t.latch core).latest = some r) ∧ r.cls = 1 ∧ r.cause = 2
              ∧ r.detail = [BitVec.ofNat 32 grp, q.org.mask] ++ addrWords q.org.pc.toNat ++ addrWords q.addr.toNat))
    -- line-cuts: applied once, every counter of the job's contexts poisoned
    ∧ (let lost := fld (pExt p 0) 0 24
       p.ptype = 7 → s.linkUp port = true → port < 16 → packetOk p = true → p.rsp = false → p.job.toNat = s.job →
       p.epoch.toNat = s.epoch → pExt p 1 = ~~~ (pExt p 0) →
       (lost ∈ s.cut → exec (.lineCut port p) s = .next s)
       ∧ (lost ∉ s.cut → Next (.lineCut port p) s fun t =>
          t.isCut lost = true ∧ (s.cut.length < 64 → t.cut = s.cut ++ [lost] ∧ t.cutAll = s.cutAll) ∧ (64 ≤ s.cut.length → t.cutAll = true)
            ∧ (∀ c < 64, s.ctxGlobal c = true → ∀ k, s.inSpool c k = true → bitAt (t.spoolVal k) 63 = true)
            ∧ Reported t (0x630 + port) 6 0
            -- and it goes on, as it came but for TTL, on every other job port that is UP
            ∧ (1 < p.ttl.toNat → ∀ j ∈ s.jobPorts, j ≠ port → ∃ q : Packet, (j, q) ∈ t.fabOut ∧ q.ptype = 7 ∧ q.src = p.src
                ∧ q.ext = p.ext ∧ q.ttl = p.ttl - 1 ∧ q.cls = (p.cls || bitAt (s.reg (0x1300000 + 0x100 * j)) 1))))
    ∧ (∀ tag, Sparse.get (fun _ => none) s.reqs tag = none → exec (.fabricRequestTimeout tag) s = .next s)
    ∧ (∀ tag q, Sparse.get (fun _ => none) s.reqs tag = some q →
      ((s.lcount - q.since).toNat < (s.reg 0x1600028).toNat → exec (.fabricRequestTimeout tag) s = .next s)
      ∧ ((s.reg 0x1600028).toNat ≤ (s.lcount - q.since).toNat → Next (.fabricRequestTimeout tag) s fun t =>
        Sparse.get (fun _ => none) t.reqs tag = none ∧ (∀ sc < 8, q.owner = .gondola sc → Reported t (0x650 + sc) 0xA 7)
          ∧ ((∃ core blk grp lane d wid fill, q.owner = .thread core blk grp lane d wid fill) → t.ctxRuns q.ctx = false)))

/-! ## Reduction and the factor unit (spec/11) -/

/-- Two byte ranges share no byte. -/
def Sys2Proof.Claims.apart (p q : Nat × Nat) : Prop := p.1 + p.2 ≤ q.1 ∨ q.1 + q.2 ≤ p.1

/-- A range of this module's DRAM in service with no poisoned block. -/
def Sys2Proof.Claims.cleanRange (s : State) (a n : Nat) : Prop :=
  a + n ≤ 0x10800000000 ∧ s.dramRange a n = true ∧ s.anyPoison a n = false

/-- A counter rises by `n`, stopping at 2^63 - 1, unless it is poisoned; no other counter changes. -/
def Sys2Proof.Claims.counted (s t : State) (id n : Nat) : Prop :=
  (∀ k, k ≠ id → t.spoolVal k = s.spoolVal k)
    ∧ (bitAt (s.spoolVal id) 63 = true → t.spoolVal id = s.spoolVal id)
    ∧ (bitAt (s.spoolVal id) 63 = false → (t.spoolVal id).toNat = min ((s.spoolVal id).toNat + n) (2 ^ 63 - 1))

/-- LEAF_FIRE, CAST_FIRE and PAIR_ACCUMULATE (R228 to R240): a firing sends or stores every segment and moves the entry to its next
step; a pair node stages a first arrival and stores or sends the sum of two; a segment of another step is dropped. -/
def Obligations.Reduction : Prop :=
  ∀ (s s1 : State) (idx : Nat) (e : List Word),
    let n := nSegs e
    -- the entry is of the kind and its table holds it as it is in force; its trigger was met at a change, poisoned or not
    let fires (kind : Nat) (bad : Bool) : Prop := s.node idx = (s1, some e) ∧ nKind e = kind ∧ e.length = 16
      ∧ (∃ c, s1.fires (s1.nodeFiring idx (nTrig e)) (nTrig e) (nTarget e) = some (c, bad)) ∧ soundMem s1
      ∧ cleanRange s1 (s1.nodeAddr idx) 128 ∧ s1.words (s1.nodeAddr idx) 32 = withComplements e
    let stepped (t : State) : Prop := t.words (s1.nodeAddr idx) 32 = withComplements (stepNode (retarget e))
      ∧ Sparse.get (fun _ => []) t.tables.nodeCache idx = stepNode (retarget e)
    let seg (k : Nat) (down : Bool) : Segment := { down := down, poison := false, node := nParent e, seg := k, step := nStep e
                                                   vals := s1.words (nBuf e + 128 * k) 32 }
    (∀ c ∈ [Instr.leafFire idx, .castFire idx, .factorFire idx], s.node idx = (s1, none) → exec c s = .next s1)
    ∧ (∀ x ∈ [(Instr.leafFire idx, 1), (.castFire idx, 3), (.factorFire idx, 4)], s.node idx = (s1, some e) →
        nKind e ≠ x.2 ∨ s1.fires (s1.nodeFiring idx (nTrig e)) (nTrig e) (nTarget e) = none → exec x.1 s = .next s1)
    -- the changes that meet a trigger: a later one with the count at the target, or the same one again
    ∧ (∀ (fr : Firing) (trig target c : Nat) (bad : Bool), s1.fires fr trig target = some (c, bad) →
        (fr.again = true → 0 < fr.change ∧ fr.change ≤ s1.changes trig) →
        c ≤ s1.changes trig ∧ 0 < c ∧ (fr.change < c ∨ fr.again = true ∧ c = fr.change)
          ∧ (let v := (s1.history trig).reverse.getD (c - 1) 0
             bad = bitAt v 63 ∧ (bad = true ∨ target ≤ fld v 0 63)))
    ∧ (fires 1 false → nRoot e = true → cleanRange s1 (nBuf e) (128 * n) →
      cleanRange s1 (nDest e) (128 * n) → apart (nBuf e, 128 * n) (nDest e, 128 * n) → apart (nDest e, 128 * n) (s1.nodeAddr idx, 128) →
      apart (nBuf e, 128 * n) (s1.nodeAddr idx, 128) →
      Next (.leafFire idx) s fun t =>
        (∀ k < n, t.bytes (nDest e + 128 * k) 128 = s1.bytes (nBuf e + 128 * k) 128) ∧ counted s1 t (nSpool e) (128 * n) ∧ stepped t
          ∧ bytesKept s1 t [(nDest e, 128 * n), (s1.nodeAddr idx, 128)])
    ∧ (fires 1 true → nRoot e = true → 0 < n → Next (.leafFire idx) s fun t =>
        bitAt (t.spoolVal (nSpool e)) 63 = true ∧ stepped t ∧ bytesKept s1 t [(s1.nodeAddr idx, 128)])
    ∧ (fires 1 false → nRoot e = false → nParentDev e = s1.deviceId → nBf16 e = false →
      cleanRange s1 (nBuf e) (128 * n) → Next (.leafFire idx) s fun t =>
        t.tables.segQ = s1.tables.segQ ++ (List.range n).map (fun k => seg k false) ∧ stepped t ∧ t.spool = s1.spool
          ∧ bytesKept s1 t [(s1.nodeAddr idx, 128)])
    ∧ (fires 3 false → cleanRange s1 (nBuf e) (128 * n) → Next (.castFire idx) s fun t =>
        t.tables.segQ = s1.tables.segQ ++ (List.range n).map (fun k => seg k true) ∧ stepped t ∧ t.spool = s1.spool
          ∧ bytesKept s1 t [(s1.nodeAddr idx, 128)])
    -- stepped: STEP one higher modulo 2^16, the target raised by the increment
    ∧ (e.length = 16 → nStep (stepNode (retarget e)) = (nStep e + 1) % 2 ^ 16
        ∧ nTarget (stepNode (retarget e)) = (nTarget e + nInc e) % 2 ^ 64
        ∧ ∀ i, i ∉ [0, 12, 13] → wordAt (stepNode (retarget e)) i = wordAt e i)
    -- where segments come from
    ∧ (s.tables.segQ = [] → exec (.pairAccumulate .ownModule) s = .next s)
    ∧ (∀ g gs, s.tables.segQ = g :: gs → exec (.pairAccumulate .ownModule) s =
        .next (({ s with tables := { s.tables with segQ := gs } } : State).segment 0 g))
    ∧ (∀ port p, Arrives s port 4 p →
      (segHeadOk p = true → exec (.pairAccumulate (.port port p)) s = .next (s.segment (port / 8) (segOfPacket p)))
      ∧ (segHeadOk p = false → soundMem s → Next (.pairAccumulate (.port port p)) s fun t =>
          (∃ mc, mc < 48 ∧ Reported t (0x600 + mc) 3 10) ∧ t.tables = s.tables ∧ t.spool = s.spool))
    -- a segment at its entry
    ∧ (∀ die g, s.node g.node = (s1, some e) → g.seg < n → soundMem s1 →
      let st (t : State) (j : Nat) : Nat := (t.byte (nBuf e + 128 * n + j / 4)).toNat / 4 ^ (j % 4) % 4
      let line := 2 ^ 26 * g.node + g.seg
      let dest := nDest e + 128 * g.seg
      (nKind e = 2 → g.down = false → g.step < 2 ^ 16 → nRoot e = true → nCastf e = false → cleanRange s1 (nBuf e) (pairBytes n) →
        (nStep e = g.step → st s1 g.seg = 0 → g.poison = false → g.vals ≠ [] →
          (s1.tables.lines.filter fun l => some l.1 == s1.mcOf (nBuf e + 128 * g.seg)).length < 1024 →
          let t := s.segment die g
          st t g.seg = 1 ∧ Sparse.get (fun _ => []) t.tables.staged line = g.vals ∧ t.spool = s1.spool
            ∧ bytesKept s1 t [(nBuf e + 128 * n + g.seg / 4, 1)] ∧ ∀ j < n, j ≠ g.seg → st t j = st s1 j)
        ∧ (nStep e = g.step → st s1 g.seg = 1 → g.poison = false → cleanRange s1 dest 128 →
          apart (nBuf e, pairBytes n) (dest, 128) → ∀ v vs, Sparse.get (fun _ => []) s1.tables.staged line = v :: vs →
          (∃ j < n, j ≠ g.seg ∧ st s1 j ≠ 2) → vs.length = 31 → g.vals.length = 32 →
          let t := s.segment die g
          st t g.seg = 2 ∧ t.words dest 32 = List.zipWith fadd (v :: vs) g.vals ∧ counted s1 t (nSpool e) 128
            ∧ Sparse.get (fun _ => []) t.tables.staged line = []
            ∧ bytesKept s1 t [(nBuf e + 128 * n + g.seg / 4, 1), (dest, 128)])
        ∧ (nStep e = g.step → st s1 g.seg = 1 → g.poison = false → cleanRange s1 dest 128 → cleanRange s1 (s1.nodeAddr g.node) 128 →
          s1.words (s1.nodeAddr g.node) 32 = withComplements e →
          apart (nBuf e, pairBytes n) (dest, 128) → apart (nBuf e, pairBytes n) (s1.nodeAddr g.node, 128) →
          apart (dest, 128) (s1.nodeAddr g.node, 128) → ∀ v vs, Sparse.get (fun _ => []) s1.tables.staged line = v :: vs →
          (∀ j < n, j ≠ g.seg → st s1 j = 2) → vs.length = 31 → g.vals.length = 32 → e.length = 16 →
          let t := s.segment die g
          (∀ j < n, st t j = 0) ∧ t.words dest 32 = List.zipWith fadd (v :: vs) g.vals ∧ counted s1 t (nSpool e) 128
            ∧ t.words (s1.nodeAddr g.node) 32 = withComplements (stepNode e))
        ∧ (1 ≤ (nStep e + 65536 - g.step) % 65536 → (nStep e + 65536 - g.step) % 65536 ≤ 32767 →
          let t := s.segment die g
          t = { s1 with setup := t.setup } ∧ ∃ mc, s1.mcOf (nBuf e + 128 * g.seg) = some mc ∧ raised s1 t (mcReg' mc 0x110) 1)
        ∧ (32767 < (nStep e + 65536 - g.step) % 65536 → st s1 g.seg = 0 →
          apart (nBuf e, pairBytes n) (0x40000 + s1.errBase, 0x10000) →
          ∃ mc, s1.mcOf (nBuf e + 128 * g.seg) = some mc ∧ Reported (s.segment die g) (0x600 + mc) 9 2))
      ∧ (nKind e = 1 → g.down = true → g.poison = false → g.vals.length = 32 → cleanRange s1 dest 128 →
        s1.inSpool (nCtx e) (nSpool e) = true →
        let t := s.segment die g
        t.words dest 32 = g.vals ∧ counted s1 t (nSpool e) 128 ∧ bytesKept s1 t [(dest, 128)]))
    ∧ (∀ die g, s.node g.node = (s1, none) → soundMem s1 → ∃ src, Reported (s.segment die g) src 9 1)

/-- FACTOR_FIRE, GRAM, ORTHO and FACTOR_COMPLETE (R245 to R248). -/
def Sys2Proof.Claims.FactorUnit (s : State) : Prop :=
  (∀ (s1 : State) (idx c : Nat) (bad : Bool) (e : List Word), s.node idx = (s1, some e) → nKind e = 4 → e.length = 16 →
      s1.fires (s1.nodeFiring idx (nTrig e)) (nTrig e) (nTarget e) = some (c, bad) → soundMem s1 →
      cleanRange s1 (s1.nodeAddr idx) 128 → s1.words (s1.nodeAddr idx) 32 = withComplements e → Next (.factorFire idx) s fun t =>
        (∃ j, t.factorQueue (fld (wordAt e 0) 22 3) = s1.factorQueue (fld (wordAt e 0) 22 3) ++ [j] ∧ j.entry = e ∧ j.computed = false
          ∧ j.poisoned = bad)
        ∧ t.words (s1.nodeAddr idx) 32 = withComplements (stepNode (retarget e)) ∧ bytesKept s1 t [(s1.nodeAddr idx, 128)])
    ∧ (∀ (p : Nat) (j : FactorJob) (js : List FactorJob), s.factorQueue p = j :: js →
      let e := j.entry
      let r := fld (wordAt e 1) 20 6 + 1
      let rows := fld (wordAt e 1) 0 20
      let pm := dwordAt e 2
      let pAt (q i : Nat) : Word := s.word (pm + 4 * (q * r + i))
      let only (t : State) : Prop := (∃ j', t.factorQueue p = j' :: js ∧ j'.entry = e ∧ j'.computed = true) ∧ t = { s with tables := t.tables }
      (s.ctxRuns (nCtx e) = true → j.computed = false → cleanRange s pm (4 * (rows * r)) → soundMem s →
        (fld (wordAt e 0) 26 2 = 0 →
          (j.poisoned = false → Next (.gram p) s fun t => only t ∧ ∃ j', t.factorQueue p = j' :: js ∧ j'.poisoned = false
            ∧ j'.out.length = r * r ∧ fld (wordAt j'.record 0) 0 8 = 0
            ∧ ∀ i < r, ∀ k < r, wordAt j'.out (i * r + k) =
                (List.range rows).foldl (fun h q => ffma (pAt q (min i k)) (pAt q (max i k)) h) 0x80000000)
          ∧ (j.poisoned = true → Next (.gram p) s fun t => only t ∧ ∃ j', t.factorQueue p = j' :: js ∧ j'.out = []
              ∧ fld (wordAt j'.record 0) 0 8 = 0x60))
        ∧ (fld (wordAt e 0) 26 2 = 1 → cleanRange s (dwordAt e 6) (4 * (r * r)) → 0 < r → 0 < rows →
          (j.poisoned = false → Next (.ortho p) s fun t => only t ∧ ∃ j', t.factorQueue p = j' :: js ∧ j'.poisoned = false
            ∧ (let cols := orthoCols (s.words (dwordAt e 6) (r * r)) r
               j'.out = (List.range rows).flatMap (fun q => orthoRow cols (s.words pm (rows * r)) r q)
                 ∧ fld (wordAt j'.record 0) 16 8 = (cols.filter Option.isSome).length
                 ∧ fld (wordAt j'.record 0) 24 8 = r - (cols.filter Option.isSome).length
                 ∧ ∀ q < rows, ∀ k < r, cols.getD k none = none → wordAt (orthoRow cols (s.words pm (rows * r)) r q) k = 0))
          ∧ (j.poisoned = true → Next (.ortho p) s fun t => only t ∧ ∃ j', t.factorQueue p = j' :: js ∧ j'.out = []
              ∧ fld (wordAt j'.record 0) 0 8 = 0x60)))
      ∧ (j.computed = true ∨ s.ctxRuns (nCtx e) = false → exec (.gram p) s = .next s ∧ exec (.ortho p) s = .next s)
      ∧ (j.computed = false → exec (.factorComplete p) s = .next s)
      ∧ (p < 8 → j.computed = true → soundMem s → j.record.length = 8 → cleanRange s (dwordAt e 8) 32 →
        (j.poisoned = true → Next (.factorComplete p) s fun t => t.factorQueue p = js ∧ t.words (dwordAt e 8) 8 = j.record
          ∧ bitAt (t.spoolVal (nSpool e)) 63 = true ∧ bytesKept s t [(dwordAt e 8, 32)] ∧ raised s t (0x1000004 + 0x10000 * p) 1)
        ∧ (j.poisoned = false → cleanRange s (dwordAt e 4) (4 * j.out.length) → apart (dwordAt e 4, 4 * j.out.length) (dwordAt e 8, 32) →
          Next (.factorComplete p) s fun t => t.factorQueue p = js ∧ t.words (dwordAt e 8) 8 = j.record
            ∧ t.words (dwordAt e 4) j.out.length = j.out ∧ counted s t (nSpool e) (4 * j.out.length + 32)
            ∧ bytesKept s t [(dwordAt e 8, 32), (dwordAt e 4, 4 * j.out.length)] ∧ raised s t (0x1000004 + 0x10000 * p) 1)))
    ∧ (∀ p, s.factorQueue p = [] → exec (.gram p) s = .next s ∧ exec (.ortho p) s = .next s ∧ exec (.factorComplete p) s = .next s)

/-- The factor unit, and parameter update (spec/12, R253 to R267): SHARD_FIRE updates every parameter that no freeze mask bit holds,
SHARD_UPDATE_COMPLETE writes the records and counts, and the UPDATE_GROUP descriptors change the group's record. -/
def Obligations.FactorAndUpdate : Prop :=
  ∀ (s : State), FactorUnit s ∧
    (∀ (s1 : State) (idx : Nat) (e gr : List Word),
      let n := uCount e
      let wb := if gBf16 gr then 2 else 4
      let fired (t : State) (status : Nat) : Prop := t.words (s1.updAddr idx) 64 = withComplements (fireEntry e)
        ∧ ∃ j, Sparse.get (fun _ => none) t.tables.shards idx = some j ∧ j.entry = e ∧ j.status = status
      (s.updEntry idx = (s1, none) → exec (.shardFire idx) s = .next s1)
      ∧ (s.updEntry idx = (s1, some e) → s1.groupBusy (uGroup e) = true ∨ s1.ctxRuns (uCtx e) = false →
          exec (.shardFire idx) s = .next s1)
      ∧ (∀ (ch : Nat) (bad : Bool), s.updEntry idx = (s1, some e) → e.length = 32 → uKind e = 1 → s1.groupBusy (uGroup e) = false →
        s1.ctxRuns (uCtx e) = true → s1.fires (s1.updFiring idx (uTrig e)) (uTrig e) (uTarget e) = some (ch, bad) → soundMem s1 →
        -- an entry that breaks a rule of R253 is idle, with a record
        s1.shardOk e = false → Next (.shardFire idx) s fun t =>
          Reported t (0x600 + s1.shardMc e) 3 9 ∧ t.tables.shards = s1.tables.shards ∧ t.spool = s1.spool)
      ∧ (∀ (ch : Nat) (bad : Bool), s.updEntry idx = (s1, some e) → e.length = 32 → uKind e = 1 → s1.groupBusy (uGroup e) = false →
        s1.ctxRuns (uCtx e) = true → s1.fires (s1.updFiring idx (uTrig e)) (uTrig e) (uTarget e) = some (ch, bad) →
        s1.shardOk e = true → soundMem s1 → cleanRange s1 (s1.updAddr idx) 256 →
        s1.words (s1.updAddr idx) 64 = withComplements e →
        -- a record that reads but is not valid shows its STEP
        (s1.groupWords (uGroup e) = (s1, some gr) → groupValid gr = false → Next (.shardFire idx) s fun t =>
          fired t 0x73 ∧ (∃ j, Sparse.get (fun _ => none) t.tables.shards idx = some j ∧ j.gstep = gStep gr ∧ j.uexp = (ratePair e gr).2)
            ∧ bytesKept s1 t [(s1.updAddr idx, 256)])
        ∧ (s1.groupRec (uGroup e) = (s1, none) → Next (.shardFire idx) s fun t => fired t 0x73 ∧ bytesKept s1 t [(s1.updAddr idx, 256)])
        ∧ (s1.groupRec (uGroup e) = (s1, some gr) → s1.shardFits e gr = true →
          (bad = true → Next (.shardFire idx) s fun t =>
            fired t 0x72 ∧ bytesKept s1 t [(s1.updAddr idx, 256)])
          ∧ (bad = false → uStep e ≠ gStep gr → Next (.shardFire idx) s fun t =>
            fired t 0x71 ∧ ∃ src, Reported t src 9 3)
          ∧ (bad = false → uStep e = gStep gr →
            (∀ r ∈ blockRanges e gr 0 n, cleanRange s1 r.1 r.2) → cleanRange s1 (uScale e) ((n + 31) / 32) →
            let places := [(uW e, wb * n), (uG e, 4 * n), (uM e, n), (uScale e, (n + 31) / 32), (s1.updAddr idx, 256)]
              ++ (if gComp gr || gWcopy gr then [(uAux e, 2 * n)] else []) ++ (if uFm e then [(uFmask e, (n + 7) / 8)] else [])
            places.Pairwise apart →
            let rate := ratePair e gr
            Next (.shardFire idx) s fun t => fired t 0
              ∧ (∀ i < n, let p := s1.newParam e gr rate.1 rate.2 i
                  if s1.frozen e i = true then t.bytes (uW e + wb * i) wb = s1.bytes (uW e + wb * i) wb
                  else t.bytes (uW e + wb * i) wb = p.w ∧ (p.aux ≠ [] → t.bytes (uAux e + 2 * i) 2 = p.aux))
              ∧ (∀ b, 32 * b + 32 ≤ n → (∀ i < 32, s1.frozen e (32 * b + i) = false) →
                  let ps := (List.range 32).map fun i => s1.newParam e gr rate.1 rate.2 (32 * b + i)
                  let c := narrowBlock .e4m3 (ps.map fun p => (fdec p.m, momRound e gr p.i))
                  t.bytes (uM e + 32 * b) 32 = c.codes.map (BitVec.ofNat 8) ∧ t.byte (uScale e + b) = BitVec.ofNat 8 c.scale)
              ∧ bytesKept s1 t [(uW e, wb * n), (uM e, n), (uScale e, (n + 31) / 32), (s1.updAddr idx, 256), (uAux e, 2 * n)]))))
    ∧ (∀ idx, Sparse.get (fun _ => none) s.tables.shards idx = none → exec (.shardUpdateComplete idx) s = .next s)
    ∧ (∀ idx (j : ShardJob), Sparse.get (fun _ => none) s.tables.shards idx = some j → soundMem s → j.status ∈ [0, 0x71, 0x72, 0x73] →
      let e := j.entry
      let ga := s.groupAddr (uGroup e)
      cleanRange s (uNrec e) 64 → apart (uNrec e, 64) (ga, 128) → cleanRange s ga 128 → uGroup e < s.gtSize →
      (j.status ≠ 0x73 → complementsOk 16 (s.words ga 32) = true) →
      Next (.shardUpdateComplete idx) s fun t =>
        Sparse.get (fun _ => none) t.tables.shards idx = none ∧ bytesKept s t [(uNrec e, 64), (ga, 128)]
          ∧ t.word (uNrec e) = uStep e ∧ (t.word (uNrec e + 16)).toNat = j.status ∧ t.word (uNrec e + 20) = j.gstep
          ∧ fld (t.word (uNrec e + 4)) 16 8 = j.uexp % 256
          ∧ (j.status = 0 → t.word (uNrec e + 8) = BitVec.ofNat 32 j.zcnt)
          ∧ (j.status ≠ 0 → bitAt (t.spoolVal (uDone e)) 63 = true) ∧ (j.status = 0 → counted s t (uDone e) 64)
          ∧ (j.status = 0x73 → t.words ga 32 = s.words ga 32)
          ∧ (∀ g, j.status ≠ 0x73 → s.words ga 32 = withComplements g → g.length = 16 → groupValid g = true →
            (gDone g + 1 < gShards g → t.words ga 32 = withComplements (setWord g 2 (setFld (wordAt g 2) 0 12 (gDone g + 1))))
            ∧ (gShards g ≤ gDone g + 1 → (t.word (ga + 4)) = gStep g + 1 ∧ fld (t.word (ga + 8)) 0 12 = 0)))
    -- UPDATE_GROUP with this module as its one owner
    ∧ (∀ (r : Nat) (w g : List Word) (a : Nat) (rem : List (Nat × Byte)),
      let pb := dwordAt w 4
      let i := fld (wordAt w 3) 0 12
      let ga := s.groupAddr i
      let op := fld (wordAt w 3) 30 2
      let img := s.words a 16
      let entry := (s.entryAddr r (s.retired r), 32)
      (∀ c ∈ [Instr.updateGroupRate r rem, .updateGroupSet r rem, .updateGroupArm r rem], s.readyDesc r 9 = none → exec c s = .next s)
      ∧ (Sole s r 9 w → s.wcacheBad = [] → fld (wordAt w 8) 0 17 = 1 → s.irqEn r = false →
        -- the parameter block, its owner list and its status byte
        (∀ x < 2, linkBlock s r (pb + 64 * x) (a + 64 * x) .read ∧ linkBlock s r (pb + 64 * x) (a + 64 * x) .write) →
        (s.word (a + 64)).toNat % 2 ^ 24 = s.deviceId → cleanRange s ga 128 → i < s.gtSize → g.length = 16 →
        s.words ga 32 = withComplements g → apart (ga, 128) (a, 128) → apart (a, 128) entry → apart (ga, 128) entry →
        let ends (c : Instr) (st : Nat) (g' : List Word) : Prop := Next c s fun t =>
          Completed s t r w st (if st = 0 then 0 else 1) ∧ (t.byte (a + 68)).toNat = st ∧ t.words ga 32 = withComplements g'
            ∧ bytesKept s t [entry, (a + 68, 1), (ga, 128)]
        let ahead : Prop := (gStep g).toNat < (wordAt w 12).toNat ∨ (wordAt w 12 = gStep g ∧ gDone g = 0)
        (op = 0 →
          (gPv g = true → ends (.updateGroupRate r rem) 0x75 g)
          ∧ (gPv g = false → (wordAt w 12).toNat < (gStep g).toNat ∨ (wordAt w 12 = gStep g ∧ 0 < gDone g) →
              ends (.updateGroupRate r rem) 0x76 g)
          ∧ (gPv g = false → ahead → rateOk (wordAt w 10) (fld (wordAt w 11) 0 8) = false →
              ends (.updateGroupRate r rem) 0x73 g)
          ∧ (gPv g = false → ahead → rateOk (wordAt w 10) (fld (wordAt w 11) 0 8) = true →
              ends (.updateGroupRate r rem) 0
                (setWord (setWord (setWord g 12 (BitVec.ofNat 32 (0x100 + fld (wordAt w 11) 0 8))) 11 (wordAt w 10)) 13 (wordAt w 12))))
        ∧ (op = 1 →
          (0 < gDone g → ends (.updateGroupSet r rem) 0x74 g)
          ∧ (gDone g = 0 →
            let g' := [(0, setFld (wordAt g 0) 25 6 (fld (wordAt img 0) 25 6)), (3, wordAt img 3), (4, wordAt img 4), (5, wordAt img 5),
              (9, wordAt img 9), (10, wordAt img 10)].foldl (fun x (p : Nat × Word) => setWord x p.1 p.2) g
            (groupValid g' = true → ends (.updateGroupSet r rem) 0 g') ∧ (groupValid g' = false → ends (.updateGroupSet r rem) 0x73 g)))
        ∧ (op = 2 →
          (gDone g = 0 → ends (.updateGroupArm r rem) 0 img) ∧ (gDone g ≠ 0 → ends (.updateGroupArm r rem) 0x74 g))))

/-! ## Checkpoints, recovery, the numerics service and the input relay (spec/04 R84; spec/15) -/

/-- CHECKPOINT_FIRE (R333, R334), onto this module as its own buddy. -/
def Sys2Proof.Claims.Checkpointing (s : State) : Prop :=
  (∀ ck, s.ckpt ck = none → exec (.checkpointFire ck) s = .next s)
  ∧ (∀ ck c, s.ckpt ck = some c → s.buddy c.arg = s.deviceId → s.isCut s.deviceId = false → soundMem s →
    c.arg.groups ≠ [] → (∀ g ∈ c.arg.groups, cleanRange s (s.groupAddr g) 128) →
    let slot (step : Word) : Nat := s.exportBase + (if s.gran then 2 ^ 25 else 2 ^ 21) * c.arg.slotLpn.toNat + c.arg.slotOff
      + (if bitAt step 0 then c.arg.slotSize else 0)
    let n := 128 * c.arg.groups.length
    let save := c.arg.groups.flatMap fun g => s.bytes (s.groupAddr g) 128
    let steps := c.arg.groups.map fun g => s.word (s.groupAddr g + 4)
    -- the firing: the slot's header is made invalid, then the contents are written
    (c.copying = none → s.fires c.firing c.arg.trigId c.target = none → exec (.checkpointFire ck) s = .next s)
    ∧ (∀ ch bad, c.copying = none → s.fires c.firing c.arg.trigId c.target = some (ch, bad) →
      let a := slot (steps.headD 0)
      let c' : Checkpoint := { c with firing := { change := ch, again := true }, target := c.target + c.arg.trigInc }
      (bad = false → c.arg.ranges = [] → cleanRange s a (64 + n) → (∀ g ∈ c.arg.groups, apart (s.groupAddr g, 128) (a, 64 + n)) →
        Next (.checkpointFire ck) s fun t =>
          t.bytes a (64 + n) = List.replicate 64 0 ++ save ∧ bytesKept s t [(a, 64 + n)]
            ∧ t.ckpt ck = some { c' with copying := some { step := steps.headD 0, len := n, crc := crc32c save, steps := steps
                                                           bad := false, torn := none } }
            ∧ (∀ k, k ≠ ck → t.ckpt k = s.ckpt k) ∧ t = { s with svc := t.svc, mem := t.mem, lost := t.lost, poison := t.poison })
      -- a poisoned trigger copies nothing (the model's reading, log 64)
      ∧ (bad = true → Next (.checkpointFire ck) s fun t =>
          t.ckpt ck = some c' ∧ (∀ k, k ≠ ck → t.ckpt k = s.ckpt k) ∧ bitAt (t.spoolVal c.arg.cpDone) 63 = true
            ∧ t = { s with svc := t.svc, spool := t.spool, spoolChg := t.spoolChg, waiters := t.waiters }))
    -- the header, once the contents have landed
    ∧ (∀ x, c.copying = some x → s.ckWaits ck = false → x.torn = none → x.bad = false → x.steps.length = c.arg.groups.length →
      let a := slot x.step
      cleanRange s a 64 →
      let ended (t : State) (torn : Bool) : Prop :=
        (apart (a, 64) (0x40000 + s.errBase, 0x10000) → t.words a 16 = [x.step, BitVec.ofNat 32 x.len, BitVec.ofNat 32 (x.len / 2 ^ 32), x.crc, if torn then 2 else 1]
            ++ List.replicate 11 0)
          ∧ t.ckpt ck = some { c with copying := some { x with torn := some torn } } ∧ t.spool = s.spool
      (x.steps = steps → Next (.checkpointFire ck) s fun t => ended t false ∧ bytesKept s t [(a, 64)])
      ∧ (x.steps ≠ steps → Next (.checkpointFire ck) s fun t => ended t true ∧ Reported t 0x653 9 4))
    ∧ (∀ x, c.copying = some x → s.ckWaits ck = true → exec (.checkpointFire ck) s = .next s)
    -- the end: CP_DONE rises by 64, or is poisoned
    ∧ (∀ x, c.copying = some x → s.ckWaits ck = false →
      let finished (t : State) : Prop := t.ckpt ck = some { c with copying := none } ∧ (∀ k, k ≠ ck → t.ckpt k = s.ckpt k)
        ∧ t = { s with svc := t.svc, spool := t.spool, spoolChg := t.spoolChg, waiters := t.waiters }
      (x.bad = true → Next (.checkpointFire ck) s fun t => finished t ∧ bitAt (t.spoolVal c.arg.cpDone) 63 = true)
      ∧ (x.torn = some true → Next (.checkpointFire ck) s fun t => finished t ∧ bitAt (t.spoolVal c.arg.cpDone) 63 = true)
      ∧ (x.torn = some false → x.bad = false → Next (.checkpointFire ck) s fun t => finished t ∧ counted s t c.arg.cpDone 64)))

/-- A service message with these words has been sent to module `d` (R335). -/
def Sys2Proof.Claims.Told (s t : State) (d : Nat) (ws : List Word) : Prop :=
  ∀ port, s.routePort s.deviceId d = some port → ∃ q : Packet, (port, q) ∈ t.fabOut ∧ q.ptype = 1 ∧ q.rsp = false ∧ q.dst.toNat = d
    ∧ pMail q = true ∧ q.data = bytesOfWords ws

/-- RECOVERY_START (R336): stages 1 to 3. -/
def Sys2Proof.Claims.RecoveryBegins (s : State) : Prop :=
  (s.up = false ∨ (s.recovering = false ∧ s.cut = [] ∧ s.cutAll = false) → exec .recoveryStart s = .next s)
  ∧ (s.up = true → s.recovering = true ∨ s.cut ≠ [] ∨ s.cutAll = true →
    -- stage 1: every ring of the job's contexts is stopped; a cut that has grown begins it again
    (s.svc.stage = 0 ∨ s.svc.lostSet ≠ s.cut → ∃ t, exec .recoveryStart s = .next t ∧
      let mine (r : Nat) : Prop := 0 < r ∧ r < 128 ∧ (s.ring r).bound = true ∧ s.ctxGlobal (s.ringCtx r) = true
      t.recovering = true ∧ t.svc = { s.svc with stage := 1, restore := none, lostSet := s.cut }
        ∧ (∀ r, mine r → (s.ring r).inflight = 0 → t.ringState r = 0)
        ∧ (∀ r, mine r → (s.ring r).inflight ≠ 0 → t.ringState r = s.ringState r ∧ (s.ringState r ≠ 0 → (t.ring r).stopping = true))
        ∧ (∀ r, ¬ mine r → t.ring r = s.ring r ∧ (r < 128 → t.ringState r = s.ringState r))
        ∧ (s.pendOf 0x1600000 = none → t = { s with setup := t.setup, rings := t.rings, svc := t.svc, power := t.power }))
    ∧ (s.svc.lostSet = s.cut →
      -- stage 2: every survivor is told what is lost
      (s.svc.stage = 1 → s.jobStopped = false → exec .recoveryStart s = .next s)
      ∧ (s.svc.stage = 1 → s.jobStopped = true → ∃ t, exec .recoveryStart s = .next t ∧
          t.svc = { s.svc with stage := 2 } ∧ (∀ d ∈ s.survivors, Told s t d (cutMessage s.cut))
            ∧ t = { s with svc := t.svc, reqs := t.reqs, fabOut := t.fabOut, links := t.links })
      -- stage 3: every survivor has told the same
      ∧ (s.svc.stage = 2 → s.agreed = false → exec .recoveryStart s = .next s)
      ∧ (s.svc.stage = 2 → s.agreed = true → exec .recoveryStart s = .next { s with svc := { s.svc with stage := 3 } })))

/-- RECOVERY_START and RECOVERY_RANK_TAKEN (R336, R409). -/
def Sys2Proof.Claims.Recovering (s : State) : Prop :=
  RecoveryBegins s ∧ ∀ d : RecoveryData,
    (s.recovering = false ∨ s.jobStopped = false → exec (.recoveryRankTaken d) s = .next s)
    ∧ (s.recovering = true → s.jobStopped = true → s.svc.restore = none →
      let ready : Prop := s.svc.stage = 3 ∧ s.ranksTaken d.takers = true ∧ d.slots.length = s.svc.ranks.length
      (¬ ready ∨ (s.leads = true ∧ d.epoch.toNat = s.epoch) ∨ (s.leads = false ∧ d.epoch.toNat ≠ s.epoch) →
        exec (.recoveryRankTaken d) s = .next s)
      -- stage 4: the leader writes the new epoch on every module; stage 5 begins
      ∧ (ready → s.leads = true → d.epoch.toNat ≠ s.epoch → s.rwcPend = [] → Next (.recoveryRankTaken d) s fun t =>
          t.job = s.job ∧ t.epoch = d.epoch.toNat ∧ t.cut = [] ∧ t.cutAll = false ∧ t.recovering = true ∧ t.svc.stage = 5
            ∧ (∀ i ∈ s.survivors, Told s t i (epochMessage d.epoch))
            ∧ (s.svc.ckpts = [] → t.svc.restore = some { data := d, step := none, failed := false, got := [] }))
      ∧ (ready → s.leads = false → d.epoch.toNat = s.epoch → s.svc.ckpts = [] → Next (.recoveryRankTaken d) s fun t =>
          t = { s with svc := { s.svc with
            stage := 5, lostSet := [], restore := some { data := d, step := none, failed := false, got := [] } } }))
    ∧ (∀ x, s.recovering = true → s.jobStopped = true → s.svc.restore = some x →
      (s.slotWaits = true → exec (.recoveryRankTaken d) s = .next s)
      ∧ (s.slotWaits = false →
        -- a slot that cannot be read, or no step that every buddy holds: the procedure starts again
        (x.failed = true ∨ (x.step = none ∧ ∀ t0, ∃ l ∈ s.offered x, t0 ∉ l) → Next (.recoveryRankTaken d) s fun t =>
          t = { s with svc := { s.svc with stage := 1, restore := none, lostSet := s.cut } })
        -- the largest step that every buddy holds
        ∧ (∀ t0 : Word, x.failed = false → x.step = none → s.offered x ≠ [] → (∀ l ∈ s.offered x, t0 ∈ l) →
            (∀ t1, (∀ l ∈ s.offered x, t1 ∈ l) → t1.toNat ≤ t0.toNat) → Next (.recoveryRankTaken d) s fun t =>
              ∃ y, t.svc.restore = some y ∧ y.step = some t0 ∧ y.data = x.data)
        -- stages 6 and 7, where no checkpoint is to be put back
        ∧ (∀ t0, x.failed = false → x.step = some t0 → s.svc.ckpts = [] → s.svc.waits = [] → s.svc.trees = [] → x.data.updates = [] →
            s.rwcPend = [] → Next (.recoveryRankTaken d) s fun t =>
              t.recovering = false ∧ t.svc.stage = 0 ∧ t.svc.restore = none ∧ t.svc.ranks = s.svc.ranks.map (takerOf x.data.takers)
                ∧ (∀ k v, x.data.spool = [(k, v)] → (t.spoolVal k).toNat = v.toNat % 2 ^ 63 ∧ ∀ j, j ≠ k → t.spoolVal j = s.spoolVal j)
                ∧ (∀ i tg, x.data.nodes = [(i, tg)] → soundMem s → cleanRange s (s.nodeAddr i) 128 → (s.nodeNow i).length = 16 →
                  nStep (t.words (s.nodeAddr i) 16) = t0.toNat % 2 ^ 16 ∧ nTarget (t.words (s.nodeAddr i) 16) = tg.toNat
                    ∧ bytesKept s t [(s.nodeAddr i, 128)]))))

/-- NUMERICS_SERVICE_STEP (R84), INPUT_BATCH_ARRIVAL and INPUT_SLOT_FREED (R338), with CHECKPOINT_FIRE and the recovery
rows. -/
def Obligations.BackgroundServices : Prop :=
  ∀ (s : State), Checkpointing s ∧ Recovering s
    ∧ (∀ i rem, Sparse.get (fun _ => none) s.svc.groups i = none → exec (.numericsServiceStep i rem) s = .next s)
    ∧ (∀ i rem (g : NumGroup) (s1 : State), Sparse.get (fun _ => none) s.svc.groups i = some g → s.numRecords g.recs = (s1, none) →
      exec (.numericsServiceStep i rem) s = .next s1)
    ∧ (∀ i rem (g : NumGroup) (l : List NumRecord) (r : NumRecord) rs, Sparse.get (fun _ => none) s.svc.groups i = some g →
      s.numRecords g.recs = (s, some l) → l ++ rem = r :: rs →
      ((∃ x ∈ rs, x.step ≠ r.step) ∨ g.last.map Prod.fst = some r.step → exec (.numericsServiceStep i rem) s = .next s)
      ∧ ((∀ x ∈ rs, x.step = r.step) → g.last.map Prod.fst ≠ some r.step → ∀ k : Int, (∀ x ∈ r :: rs, x.dmax.toInt ≤ k) →
        (∃ x ∈ r :: rs, x.dmax.toInt = k) →
        let ga := s.groupAddr i
        -- the combined record: the largest DMAX and the sums
        let zs := ((r :: rs).map fun x => x.zcnt.toNat).sum
        let ms := ((r :: rs).map fun x => x.momFloor.toNat).sum
        let noted (t : State) : Prop := t.svc = { s.svc with
          groups := Sparse.set (fun _ => none) s.svc.groups i (some { g with last := some (r.step, k, zs, ms) }) }
        ((-8 ≤ k ∧ k ≤ 8) ∨ k = -128 → Next (.numericsServiceStep i rem) s fun t => noted t ∧ t = { s with svc := t.svc })
        ∧ (∀ gr, 8 < k ∨ (-128 < k ∧ k < -8) → soundMem s → cleanRange s ga 128 → i < s.gtSize → gr.length = 16 →
          s.words ga 32 = withComplements gr →
          let e : Int := fld (wordAt gr 6) 23 8 - k
          let u : Int := signedOf 8 (fld (wordAt gr 7) 0 8) + k
          (e < 1 ∨ 254 < e ∨ u < -126 ∨ 126 < u → Next (.numericsServiceStep i rem) s fun t =>
            noted t ∧ Reported t 0x654 2 3 ∧ t.spool = s.spool ∧ t.setup = s.setup)
          ∧ (1 ≤ e → e ≤ 254 → -126 ≤ u → u ≤ 126 → bitAt (wordAt gr 6) 31 = false → gPv gr = false →
            ((gStep gr).toNat < (r.step + 2).toNat ∨ (r.step + 2 = gStep gr ∧ gDone gr = 0)) →
            let lr := setFld (wordAt gr 6) 23 8 e.toNat
            Next (.numericsServiceStep i rem) s fun t =>
              noted t ∧ bytesKept s t [(ga, 128)] ∧ t.words ga 32 = withComplements
                (setWord (setWord (setWord gr 12 (BitVec.ofNat 32 (0x100 + (u % 256).toNat))) 11 lr) 13 (r.step + 2))
                -- the pair goes to every other module of the job, with its complement (R83)
                ∧ ∀ d ∈ s.svc.ranks, d.toNat ≠ s.deviceId → s.isCut d.toNat = false →
                  Told s t d.toNat (groupMessage i 0 0 (RatePair.of lr (u % 256).toNat (r.step + 2)) [])))))
    -- the relay
    ∧ (∀ k, s.stream k = none → exec (.inputBatchArrival k) s = .next s ∧ exec (.inputSlotFreed k) s = .next s)
    ∧ (∀ k x, s.stream k = some x → 64 ≤ x.arg.slotSize →
      let a := x.arg.base + x.seqNo % x.arg.slots * x.arg.slotSize
      let h := a + x.arg.slotSize - 64
      let len := (s.word (h + 4)).toNat
      let v := s.spoolVal x.arg.staging
      let here := x.seqNo % x.arg.slots
      let judged (t : State) (staged : Nat) : Prop := t.stream k = some { x with
          seqNo := x.seqNo + 1, staged := staged, headers := x.headers.filter (· != here) }
        ∧ ∀ j, j ≠ k → t.stream j = s.stream j
      let refused (t : State) : Prop := bitAt (t.spoolVal x.arg.consumer) 63 = true ∧ Reported t (0x656 + k % 2) 9 5
      soundMem s → cleanRange s a x.arg.slotSize →
      -- the header has not come, or the batch is not all there
      (bitAt v 63 = false → here ∉ x.headers → exec (.inputBatchArrival k) s = .next s)
      ∧ (bitAt v 63 = false → here ∈ x.headers → len ≤ x.arg.slotSize - 64 → fld v 0 63 < x.staged + 64 + len →
          exec (.inputBatchArrival k) s = .next s)
      ∧ (bitAt v 63 = false → here ∈ x.headers → x.arg.slotSize - 64 < len → fld v 0 63 < x.staged + 64 →
          exec (.inputBatchArrival k) s = .next s)
      ∧ (bitAt v 63 = false → here ∈ x.headers → len ≤ x.arg.slotSize - 64 → x.staged + 64 + len ≤ fld v 0 63 →
        (s.word h = BitVec.ofNat 32 x.seqNo → s.word (h + 8) = crc32c (s.bytes a len) → Next (.inputBatchArrival k) s fun t =>
          judged t (x.staged + 64 + len) ∧ (0 < len → counted s t x.arg.consumer len)
            ∧ t = { s with svc := t.svc, spool := t.spool, spoolChg := t.spoolChg, waiters := t.waiters })
        ∧ (s.word h ≠ BitVec.ofNat 32 x.seqNo ∨ s.word (h + 8) ≠ crc32c (s.bytes a len) → Next (.inputBatchArrival k) s fun t =>
          judged t (x.staged + 64 + len) ∧ refused t))
      ∧ (bitAt v 63 = false → here ∈ x.headers → x.arg.slotSize - 64 < len → x.staged + 64 ≤ fld v 0 63 →
          Next (.inputBatchArrival k) s fun t => judged t (fld v 0 63) ∧ refused t)
      ∧ (bitAt v 63 = true → Next (.inputBatchArrival k) s fun t => refused t))
    ∧ (∀ k x, s.stream k = some x → let v := s.spoolVal x.arg.release
      (bitAt v 63 = true ∨ fld v 0 63 ≤ x.released + x.freed → exec (.inputSlotFreed k) s = .next s)
      -- the credit of a slot goes to the data node whose turn it is: a WRITE of the credits it has had (log 66)
      ∧ (bitAt v 63 = false → x.released + x.freed < fld v 0 63 → ∀ dev lpn off port,
        x.arg.nodes[x.freed % x.arg.slots % x.arg.nodes.length]? = some (dev, lpn, off) →
        s.routePort s.deviceId dev.toNat = some port → off.toNat % 8 = 0 → s.isCut dev.toNat = false →
        Next (.inputSlotFreed k) s fun t =>
          t.stream k = some { x with freed := x.freed + 1 } ∧ (∀ j, j ≠ k → t.stream j = s.stream j)
            ∧ (∃ q, t.fabOut = s.fabOut ++ [(port, q)] ∧ q.rsp = false ∧ q.ptype = 1 ∧ q.dst = dev ∧ q.len = 2
              ∧ (x.freed < x.arg.slots → x.arg.nodes.length = 1 → q.data = bytesLE 8 (x.freed + 1)))
            ∧ t = { s with svc := t.svc, reqs := t.reqs, fabOut := t.fabOut, links := t.links }))

/-! ## Service requests (spec/15, R328 to R338; spec/16, R363; spec/18, R378) -/

/-- The host writes that carry bytes to a host address (R298): up to 256 bytes each. -/
def Sys2Proof.Claims.hostWrites (a : Nat) (bs : List Byte) : List HostMsg :=
  (List.range ((bs.length + 255) / 256)).map fun i => .hwrite (BitVec.ofNat 64 (a + 256 * i)) ((bs.drop (256 * i)).take 256)

/-- The header of a result (R328): status, detail, length of the result, START_SEQ, LCOUNT. -/
def Sys2Proof.Claims.resultHead (s : State) (st : Nat) (d : Word) (n : Nat) : List Word :=
  [BitVec.ofNat 32 st, d, BitVec.ofNat 32 (4 * n), s.startSeq, BitVec.ofNat 32 s.lcount.toNat,
   BitVec.ofNat 32 (s.lcount.toNat / 2 ^ 32), 0, 0]

/-- The module is up, and the request `w`, its ARG in host memory, is the one descriptor of a device ring that may start. -/
structure Sys2Proof.Claims.Asked (s : State) (rq : SvcReq) (w : List Word) : Prop where
  sole : Sole s rq.ring 10 w
  up : s.up = true
  quiet : s.irqEn rq.ring = false
  link : s.linkUp 16 = true
  host : svcHost rq.ring w = true
  pend : s.rwcPend = []

/-- The request `w` is for operation `op` of service `svc`, long enough, from a ring that may ask, of a context that exists, outside
the diagnostic state or allowed in it, with no cut in force or for a service that a cut leaves alone (R328 to R330). -/
structure Sys2Proof.Claims.Allowed (s : State) (rq : SvcReq) (svc op need : Nat) (w : List Word) : Prop where
  names : svcNo w = svc ∧ svcOp w = op
  length : 32 + need ≤ svcLen w
  ringMay : rq.ring = 0 ∨ svc ∉ [1, 2, 5, 7, 9]
  diag : s.diag = false ∨ svc = 9 ∨ (svc = 5 ∧ op = 0)
  lives : rq.ring = 0 ∨ s.ctxExists (s.ringCtx rq.ring) = true
  whole : s.jobLost = false ∨ (svc ≠ 2 ∧ (s.ctxGlobal (s.ringCtx rq.ring) = false ∨ (svc ≠ 3 ∧ svc ≠ 4)))

/-- Its service, which has no other request, takes the request. -/
structure Sys2Proof.Claims.Admits (s : State) (rq : SvcReq) (svc op need : Nat) (w : List Word) : Prop where
  asked : Asked s rq w
  allowed : Allowed s rq svc op need w
  free : ∀ q ∈ s.svc.queue, q.svc ≠ svc

/-- The request `w` of ring `rq.ring` was taken before, as `q`: it is the first of its service, and the ring's one descriptor in
flight. -/
structure Sys2Proof.Claims.Taken (s : State) (rq : SvcReq) (svc op need : Nat) (q : SvcWait) (w : List Word) : Prop where
  allowed : Allowed s rq svc op need w
  first : s.svc.queue.find? (fun x => x.svc == svc) = some q
  mine : q.ring = rq.ring ∧ q.op = op ∧ q.index = s.retired rq.ring
  held : ∃ d : Started, (s.ring rq.ring).started = [(q.index.toNat, some d)] ∧ d.words = w ∧ d.refused = false ∧ d.result = none
  ring : rq.ring < 128
  runs : s.ringState rq.ring = 1 ∧ (s.ring rq.ring).stopping = false
  head : s.head rq.ring = s.retired rq.ring + 1
  next : (s.ring rq.ring).fetchedAt (s.head rq.ring).toNat = ([], 0)
  dev : s.ringDev rq.ring = true
  fits : s.dramRange (s.entryAddr rq.ring q.index) 32 = true
  irq : bitAt (wordAt w 0) 23 = false
  sound : soundMem s
  link : s.linkUp 16 = true
  host : svcHost rq.ring w = true
  pend : s.rwcPend = []

/-- The request has been taken, and waits in its service's queue (R330). -/
def Sys2Proof.Claims.Waiting (u t : State) (rq : SvcReq) (svc op : Nat) (begun : Bool) : Prop :=
  t.svc.queue = u.svc.queue ++ [{ ring := rq.ring, index := u.head rq.ring, svc := svc, op := op, begun := begun }]
    ∧ t.head rq.ring = u.head rq.ring + 1 ∧ t.retired rq.ring = u.retired rq.ring ∧ fld (t.reg (0x1401018 + 0x40 * rq.ring)) 0 5 = 1
    ∧ (∀ q, q ≠ rq.ring → t.ring q = u.ring q) ∧ regsKept u t [0x1401018 + 0x40 * rq.ring, 0x1401020 + 0x40 * rq.ring]
    ∧ t = { u with rings := t.rings, setup := t.setup, svc := { u.svc with queue := t.svc.queue } }

/-- The request of `w` is answered with status `st` and the result words `res`, `u` being the state with what the service did: the
result and its header go to the host, its service core checks in (log 95), and the entry is written (0x88 for a status other than 0)
once the link has sent them, as it has at once where its window and the host's credits allow (R320). -/
structure Sys2Proof.Claims.Served (u t : State) (r : Nat) (w : List Word) (st : Nat) (detail : Option Nat) (res : List Word) :
    Prop where
  done : t.unsent r = false → Completed u t r w (if st = 0 then 0 else 0x88) 0
  waits : t.unsent r = true → t.retired r = u.retired r ∧ t.head r = u.retired r + 1
    ∧ ∃ d : Started, (t.ring r).at (u.retired r).toNat = some d ∧ d.words = w ∧ d.doneAt = u.lcount
      ∧ d.result = some (if st = 0 then 0 else 0x88, 0)
  sent : (u.link 16).txWait = [] → (u.link 16).unacked.length + (2 * res.length + 1) ≤ 1024 →
    2 * res.length + 1 ≤ (u.link 16).credit 0 → t.unsent r = false
  told : ∃ d : Word, (∀ x, detail = some x → d.toNat = x) ∧
    t.hostOut = u.hostOut ++ hostWrites (svcArg w + 32) (bytesOfWords res)
      ++ hostWrites (svcArg w) (bytesOfWords (resultHead u st d res.length))
  regs : regsKept u t [0x1401018 + 0x40 * r, 0x1401020 + 0x40 * r, 0x1401024 + 0x40 * r, 0x1401028 + 0x40 * r]
  bytes : bytesKept u t [(u.entryAddr r (u.retired r), 32)]
  checked : t.svc = { u.svc with checkin := Sparse.set (fun _ => 0) u.svc.checkin (svcCore (svcNo w)) u.lcount }
  rest : t = { u with rings := t.rings, setup := t.setup, mem := t.mem, lost := t.lost, hostOut := t.hostOut
                      links := t.links, freeCtr := t.freeCtr, svc := t.svc }

/-- The Context service, and the state behind its answers (R329, R401, R421). -/
def Sys2Proof.Claims.ContextService (s : State) (rq : SvcReq) (w : List Word) : Prop :=
  let no (c : Instr) (st : Nat) : Prop := Next c s fun t => Served s t rq.ring w st none []
  let yes (c : Instr) (u : State) (res : List Word) : Prop := Next c s fun t => Served u t rq.ring w 0 none res
  (∀ a : CreateArg, Admits s rq 1 0 4 w →
    (0 < a.ctx → a.ctx < 64 → s.ctxExists a.ctx = false →
      yes (.create rq a) (s.setReg (0x1330000 + 0x10 * a.ctx) 0x80000000) [BitVec.ofNat 32 a.ctx])
    ∧ ((∃ c, 0 < c ∧ c < 64 ∧ s.ctxExists c = false) → a.ctx = 0 ∨ 64 ≤ a.ctx ∨ s.ctxExists a.ctx = true → no (.create rq a) 0xC5)
    ∧ ((∀ c, 0 < c → c < 64 → s.ctxExists c = true) → no (.create rq a) 0xC2))
  ∧ (∀ c, Admits s rq 1 1 4 w →
    (c = 0 ∨ 64 ≤ c ∨ s.ctxExists c = false → no (.destroy rq c) 0xC5)
    -- it waits for a request of the context that has begun; those that have not are answered SGONE, and the context is reset
    ∧ (0 < c → c < 64 → s.ctxExists c = true →
      let mine (q : SvcWait) : Prop := q.ring ≠ 0 ∧ s.ringCtx q.ring = c
      ((∃ q ∈ s.svc.queue, mine q ∧ q.begun = true) → Next (.destroy rq c) s fun t => Waiting s t rq 1 1 true)
      ∧ ((∀ q ∈ s.svc.queue, mine q → q.begun = false) → Next (.destroy rq c) s fun t => t.ctxExists c = false
          ∧ t.spoolRange c = (0, 0) ∧ (∀ k x, t.ckpt k = some x → x.ctx ≠ c) ∧ (∀ q ∈ t.svc.queue, ¬ mine q)
          ∧ (∀ q ∈ s.svc.queue, ¬ mine q → q ∈ t.svc.queue)
          ∧ (∀ q d, s.svc.queue = [q] → mine q → (s.ring q.ring).at q.index.toNat = some d → svcHost q.ring d.words = true →
              ∃ x : Word, ∀ m ∈ hostWrites (svcArg d.words) (bytesOfWords (resultHead s 0xC3 x 0)), m ∈ t.hostOut))
      ∧ ((∀ q ∈ s.svc.queue, ¬ mine q) → Next (.destroy rq c) s fun t => ∃ u, Served u t rq.ring w 0 none []
          ∧ u = s.reidle
            ((((s.contextReset c).dropServices c).setRegFld (0x1330000 + 0x10 * c) 31 1 0).setRwc (0x1330004 + 0x10 * c) 0))))
  ∧ (∀ r c, Admits s rq 1 2 8 w →
    (0 < r → r < 128 → (s.ring r).bound = false → 0 < c → c < 64 → s.ctxExists c = true →
      yes (.bindRing rq r c) ((s.setRing r fun x => { x with bound := true }).setRegFld (0x1401010 + 0x40 * r) 16 6 c) [])
    ∧ ((∃ q, 0 < q ∧ q < 128 ∧ (s.ring q).bound = false) →
      r = 0 ∨ 128 ≤ r ∨ (s.ring r).bound = true ∨ c = 0 ∨ 64 ≤ c ∨ s.ctxExists c = false → no (.bindRing rq r c) 0xC5)
    ∧ ((∀ q, 0 < q → q < 128 → (s.ring q).bound = true) → no (.bindRing rq r c) 0xC2))
  ∧ (∀ r, Admits s rq 1 3 4 w →
    (r = 0 ∨ 128 ≤ r ∨ (s.ring r).bound = false → no (.unbindRing rq r) 0xC5)
    -- a ring that runs is stopped first, and the request waits (the model's reading, log 62)
    ∧ (0 < r → r < 128 → (s.ring r).bound = true → s.ringState r ≠ 0 →
      Next (.unbindRing rq r) s fun t => Waiting (s.ringStop r) t rq 1 3 true)
    ∧ (0 < r → r < 128 → (s.ring r).bound = true → s.ringState r = 0 →
      yes (.unbindRing rq r) ((s.setRing r fun x => { x with bound := false }).setRegFld (0x1401010 + 0x40 * r) 16 6 0) []))
  -- and the request is answered when it is offered again with the ring STOPPED
  ∧ (∀ r q, Taken s rq 1 3 4 q w → r ≠ rq.ring → 0 < r → r < 128 → (s.ring r).bound = true → s.ringState r = 0 →
      yes (.unbindRing rq r)
        ((({ s with svc := { s.svc with queue := s.svc.queue.filter fun x => !(x.ring == q.ring && x.index == q.index) } } : State).setRing r
          fun x => { x with bound := false }).setRegFld (0x1401010 + 0x40 * r) 16 6 0) [])
  ∧ (∀ c i ws, Admits s rq 1 4 40 w →
    let a := s.wtBase + 0x2000 * c + 32 * i
    let ok := c < 64 ∧ (c = 0 ∨ s.ctxExists c = true) ∧ i < 256 ∧ ws.length = 8 ∧ (bitAt (wordAt ws 6) 0 = true → windowValid ws = true)
    (¬ ok → no (.setWindow rq c i ws) 0xC5)
    ∧ (ok → cleanRange s a 32 → apart (a, 32) (s.entryAddr rq.ring (s.retired rq.ring), 32) →
      Next (.setWindow rq c i ws) s fun t => ∃ u, Served u t rq.ring w 0 none [] ∧ bytesKept s u [(a, 32)] ∧ t.words a 8 = ws
        ∧ (∀ unit k, k < 64 → Sparse.get (fun _ => none) t.wcache (unit * 64 + k) =
            if k = c then none else Sparse.get (fun _ => none) s.wcache (unit * 64 + k))
        ∧ u = { s with mem := u.mem, lost := u.lost, wcache := u.wcache }))
  ∧ (∀ c lo hi, Admits s rq 1 5 12 w →
    let ok := c < 64 ∧ (c = 0 ∨ s.ctxExists c = true) ∧ lo ≤ hi ∧ hi < 16384
    (¬ ok → no (.grantSpool rq c lo hi) 0xC5)
    ∧ (ok → s.rangeTaken c lo hi = true ∨ s.rangeHeld c lo hi = true → no (.grantSpool rq c lo hi) 0xC2)
    ∧ (ok → s.rangeTaken c lo hi = false → s.rangeHeld c lo hi = false → Next (.grantSpool rq c lo hi) s fun t =>
        ∃ u, Served u t rq.ring w 0 none [] ∧ u.spoolRange c = (lo, hi + 1 - lo)
          ∧ (∀ k, u.inSpool c k = (decide (lo ≤ k) && decide (k ≤ hi)))
          ∧ regsKept s u [0x1330004 + 0x10 * c, 0x1330008 + 0x10 * c] ∧ u = { s with setup := u.setup, power := u.power }))

/-- Job placement, trees, checkpoints and recovery (R331 to R336). -/
def Sys2Proof.Claims.JobServices (s : State) (rq : SvcReq) (w : List Word) : Prop :=
  let no (c : Instr) (st : Nat) : Prop := Next c s fun t => Served s t rq.ring w st none []
  let yes (c : Instr) (u : State) (res : List Word) : Prop := Next c s fun t => Served u t rq.ring w 0 none res
  let ctx := s.ringCtx rq.ring
  (∀ a : PlaceArg, Admits s rq 2 0 (4 * (8 + a.ranks.length + 4 * a.ports.length + 3 * a.entries.length + a.contexts.length)) w →
    let ok := s.placed = false ∧ bitAt (s.reg 0x1310010) 0 = false ∧ a.rank < a.ranks.length ∧ a.ports.length ≤ 16 ∧ a.ranks.getD a.rank 0 = a.deviceId
      ∧ ∀ c ∈ a.contexts, c ≠ 0 ∧ c < 64 ∧ s.ctxExists c = true
    (¬ ok → no (.place rq a) 0xC5)
    ∧ (ok → Next (.place rq a) s fun t => Served (s.placeJob a) t rq.ring w 0 none []
        ∧ t.job = a.job.toNat ∧ t.epoch = 0 ∧ t.placed = true ∧ t.svc.ranks = a.ranks ∧ t.svc.rank = a.rank
        ∧ (∀ c < 64, t.ctxGlobal c = (s.ctxGlobal c || a.contexts.contains c))
        ∧ t.deviceId = a.deviceId.toNat ∧ t.gran = a.gran ∧ bitAt (t.reg 0x1310010) 0 = true
        ∧ (∀ k p, a.ports[k]? = some p → t.jobPort k = p.jobport ∧ fld (t.reg (0x1300008 + 0x100 * k)) 0 24 = p.lo.toNat
            ∧ fld (t.reg (0x1300010 + 0x100 * k)) 0 24 = p.hi.toNat ∧ fld (t.reg (0x1300018 + 0x100 * k)) 0 24 = p.peer.toNat)))
  ∧ (Admits s rq 2 1 0 w → Next (.jobRelease rq) s fun t => ∃ u, Served u t rq.ring w 0 none []
      ∧ u.placed = false ∧ (∀ c < 64, u.ctxGlobal c = false) ∧ (∀ k, u.jobPort k = false) ∧ u = { s with setup := u.setup })
  ∧ (∀ a : BuildArg, Admits s rq 3 0 68 w →
    let mine := (ctx = 0 ∨ ctx = a.ctx) ∧ (ctx = 0 ∨ (s.inSpool ctx a.spoolId.toNat = true ∧ s.inSpool ctx a.trigId.toNat = true))
    let fits := s.placed = true ∧ s.svc.ranks ≠ [] ∧ (a.sharded = true ∨ a.tree < s.svc.ranks.length) ∧ s.ctxExists a.ctx = true
      ∧ s.inSpool a.ctx a.spoolId.toNat = true
    let ids := s.freeNodes (s.setSize a)
    let k := freshKey s.svc.trees
    let x : TreeSet := { ctx := a.ctx, arg := a, ids := ids, ready := false, entries := [] }
    let told (t : State) : Prop := ∀ n ∈ s.setNodes a ids, ∀ d ∈ s.svc.ranks, d.toNat ≠ s.deviceId → s.isCut d.toNat = false →
      Told s t d.toNat (nodeMessage k n.tree n.node n.idx)
    s.unbuilt = none →
    (¬ mine → no (.build rq a) 0xC1)
    ∧ (mine → ¬ fits → no (.build rq a) 0xC5)
    ∧ (mine → fits → ids.length < s.setSize a → no (.build rq a) 0xC2)
    ∧ (mine → fits → s.setSize a ≤ ids.length → Sparse.get (fun _ => none) s.svc.trees k = none
      ∧ (∀ i ∈ ids, i < s.ntSize ∧ nKind (s.nodeNow i) = 0)
      -- while a peer has not told the index of a node that the entries name, the request waits
      ∧ (s.setWords k a ids = none → Next (.build rq a) s fun t => Waiting ((s.setTree k (some x)).tellNodes k a ids) t rq 3 0 true
          ∧ told t)
      ∧ (∀ es, s.setWords k a ids = some es → Next (.build rq a) s told
        ∧ ((∃ e ∈ es, s.nodeOk e.2 = false) → Next (.build rq a) s fun t => ∃ u, Served u t rq.ring w 0xC5 none []
            ∧ Sparse.get (fun _ => none) u.svc.trees k = none)
        ∧ ((∀ e ∈ es, s.nodeOk e.2 = true) → yes (.build rq a)
            (((s.setTree k (some x)).tellNodes k a ids).setTree k (some { x with ready := true, entries := es }))
            ((k :: ids).map (BitVec.ofNat 32))))))
  -- the request goes on when the peers' indices have come
  ∧ (∀ (a : BuildArg) q k x es, Taken s rq 3 0 68 q w → s.unbuilt = some (k, x) → s.setWords k x.arg x.ids = some es →
      (∀ e ∈ es, s.nodeOk e.2 = true) → yes (.build rq a)
        (({ s with svc := { s.svc with queue := s.svc.queue.filter fun y => !(y.ring == q.ring && y.index == q.index) } } : State).setTree k
          (some { x with ready := true, entries := es })) ((k :: x.ids).map (BitVec.ofNat 32)))
  ∧ (∀ (k op : Nat) (c : Instr), (op, c) ∈ [(1, Instr.collectiveArm rq k), (2, .disarm rq k)] → Admits s rq 3 op 4 w →
    (Sparse.get (fun _ => none) s.svc.trees k = none → no c 0xC5)
    ∧ (∀ x : TreeSet, Sparse.get (fun _ => none) s.svc.trees k = some x → x.ready = false → no c 0xC5)
    ∧ (∀ x : TreeSet, Sparse.get (fun _ => none) s.svc.trees k = some x → x.ready = true → ctx ≠ 0 → ctx ≠ x.ctx → no c 0xC1)
    ∧ (∀ x : TreeSet, Sparse.get (fun _ => none) s.svc.trees k = some x → x.ready = true → ctx = 0 ∨ ctx = x.ctx →
      yes c (if op = 1 then s.armSet x else s.disarmSet x) []
        ∧ ∀ i e, x.entries = [(i, e)] → cleanRange s (s.nodeAddr i) 128 → e.length = 16 → nKind e ≠ 2 →
          (op = 1 → (s.armSet x).words (s.nodeAddr i) 32 = withComplements e)
          ∧ (op = 2 → nKind ((s.disarmSet x).words (s.nodeAddr i) 1) = 0)))
  ∧ (∀ a : CheckpointArg, Admits s rq 4 0 (4 * (12 + 4 * a.ranges.length + a.groups.length)) w →
    let mine := s.ownsSpool ctx a.trigId = true ∧ s.ownsSpool ctx a.cpDone = true ∧ ∀ g ∈ a.groups, s.ownsGroup ctx g = true
    let ok := a.groups ≠ [] ∧ (∀ g ∈ a.groups, g < s.gtSize)
      ∧ 64 + (a.ranges.map Prod.snd).sum + 128 * a.groups.length ≤ a.slotSize ∧ (a.buddy ≠ none ∨ s.svc.ranks ≠ [])
    (¬ mine → no (.configure rq a) 0xC1)
    ∧ (mine → ¬ ok → no (.configure rq a) 0xC5)
    ∧ (mine → ok → Next (.configure rq a) s fun t => ∃ k u, Served u t rq.ring w 0 none [BitVec.ofNat 32 k]
        ∧ s.ckpt k = none ∧ (∀ j, j ≠ k → u.ckpt j = s.ckpt j) ∧ u = { s with svc := u.svc }
        ∧ u.ckpt k = some { ctx := ctx, arg := a, firing := { change := s.changes a.trigId, again := false }
                            target := a.trigTarget, copying := none }))
  ∧ (∀ (k op : Nat) (c : Instr), (op, c) ∈ [(1, Instr.checkpointStop rq k), (2, .query rq k)] → Admits s rq 4 op 4 w →
    (s.ckpt k = none → no c 0xC5)
    ∧ (∀ x, s.ckpt k = some x → ctx ≠ 0 → ctx ≠ x.ctx → no c 0xC1)
    ∧ (∀ x, s.ckpt k = some x → ctx = 0 ∨ ctx = x.ctx →
      (op = 1 → yes c (s.setCkpt k none) [] ∧ (s.setCkpt k none).ckpt k = none)
      -- what QUERY answers is free
      ∧ (op = 2 → Next c s fun t => ∃ res, Served s t rq.ring w 0 none res)))
  ∧ (Admits s rq 5 0 0 w → Next (.recoveryStatus rq) s fun t => ∃ res, Served s t rq.ring w 0 none res)
  ∧ (∀ spare, Admits s rq 5 1 4 w → Next (.recoveryWait rq spare) s fun t =>
      t.svc = { s.svc with waits := s.svc.waits ++ [(rq.ring, (s.head rq.ring).toNat, spare)] }
        ∧ t.head rq.ring = s.head rq.ring + 1 ∧ t.retired rq.ring = s.retired rq.ring ∧ fld (t.reg (0x1401018 + 0x40 * rq.ring)) 0 5 = 1
        ∧ (∀ q, q ≠ rq.ring → t.ring q = s.ring q) ∧ t = { s with rings := t.rings, setup := t.setup, svc := t.svc })
  ∧ (Admits s rq 5 2 0 w → Next (.abandon rq) s fun t => t.recovering = false ∧ t.svc.stage = 0 ∧ t.svc.waits = []
      ∧ t.svc.restore = none ∧ t.svc.lostSet = []
      ∧ (s.svc.waits = [] → Served ((({ s with svc := { s.svc with restore := none, lostSet := [] } } : State).setSvc 2 false).setStage 0)
          t rq.ring w 0 none []))

/-- The numerics, power and input services, and diagnostics (R330, R337, R338, R363, R378). -/
def Sys2Proof.Claims.OtherServices (s : State) (rq : SvcReq) (w : List Word) : Prop :=
  let no (c : Instr) (st : Nat) (detail : Option Nat) : Prop := Next c s fun t => Served s t rq.ring w st detail []
  let yes (c : Instr) (u : State) (res : List Word) : Prop := Next c s fun t => Served u t rq.ring w 0 none res
  let ctx := s.ringCtx rq.ring
  let arg (i : Nat) : Word := wordAt rq.arg i
  (∀ g recs, Admits s rq 6 0 (4 * (2 + 2 * recs.length)) w →
    (s.ownsGroup ctx g = false → no (.numericsEnable rq g recs) 0xC1 none)
    ∧ (s.ownsGroup ctx g = true → s.gtSize ≤ g ∨ (∃ a ∈ recs, s.dramRange a 16 = false) → no (.numericsEnable rq g recs) 0xC5 none)
    ∧ (s.ownsGroup ctx g = true → g < s.gtSize → (∀ a ∈ recs, s.dramRange a 16 = true) →
      yes (.numericsEnable rq g recs) { s with svc := { s.svc with
        groups := Sparse.set (fun _ => none) s.svc.groups g (some { ctx := ctx, recs := recs, last := none }) } } []))
  ∧ (∀ g, Admits s rq 6 1 4 w →
    (Sparse.get (fun _ => none) s.svc.groups g = none → no (.numericsDisable rq g) 0xC5 none)
    ∧ (∀ x : NumGroup, Sparse.get (fun _ => none) s.svc.groups g = some x →
      (ctx ≠ 0 → ctx ≠ x.ctx → no (.numericsDisable rq g) 0xC1 none)
      ∧ (ctx = 0 ∨ ctx = x.ctx → yes (.numericsDisable rq g)
          { s with svc := { s.svc with groups := Sparse.set (fun _ => none) s.svc.groups g none } } [])))
  ∧ (∀ tag cfg, Admits s rq 6 2 8 w →
    let a := s.drogueBase + 128 * tag
    (s.ownsTag ctx tag = false → no (.drogue rq tag cfg) 0xC1 none)
    ∧ (s.ownsTag ctx tag = true → tag = 0 ∨ 4096 ≤ tag → no (.drogue rq tag cfg) 0xC5 none)
    ∧ (0 < tag → tag < 4096 → s.ownsTag ctx tag = true → cleanRange s a 4 → apart (a, 4) (s.entryAddr rq.ring (s.retired rq.ring), 32) →
      Next (.drogue rq tag cfg) s fun t => ∃ u, Served u t rq.ring w 0 none [] ∧ t.word a = cfg &&& 0x9F0FFF1F
        ∧ bytesKept s u [(a, 4)] ∧ u = { s with mem := u.mem, lost := u.lost }))
  ∧ (Admits s rq 6 3 4 w →
    let n := (arg 0).toNat
    let r := 0x133000C + 0x10 * ctx
    let free (f : Nat) : Prop := 0 < f ∧ f + n ≤ 4096 ∧ s.tagsTaken f (f + n - 1) = false
    (n = 0 ∨ 4095 < n → no (.tags rq) 0xC5 (some 32))
    ∧ (0 < n → n < 4096 → bitAt (s.reg r) 31 = true → no (.tags rq) 0xC5 none)
    ∧ (0 < n → n < 4096 → bitAt (s.reg r) 31 = false → (∀ f, ¬ free f) → no (.tags rq) 0xC2 (some 32))
    -- the lowest range that is free (the model's choice, log 65)
    ∧ (∀ f, 0 < n → n < 4096 → bitAt (s.reg r) 31 = false → free f → (∀ g < f, ¬ free g) → Next (.tags rq) s fun t =>
        ∃ u, Served u t rq.ring w 0 none [BitVec.ofNat 32 f] ∧ regsKept s u [r] ∧ u = { s with setup := u.setup }
          ∧ (0 < ctx → ∀ k, u.ownsTag ctx k = (decide (f ≤ k) && decide (k < f + n)))))
  ∧ (Admits s rq 7 0 8 w →
    let v := fld (arg 0) 0 11
    (arg 1 ≠ ~~~ (arg 0) → Next (.setCap rq) s fun t => ∃ u, Served u t rq.ring w 0xC5 (some 36) []
        ∧ u = s.rwcFailed 0x655 0x1500000 (arg 0) (arg 1) ∧ Reported u 0x655 3 4 ∧ raised s u 0x150018C 1)
    ∧ (arg 1 = ~~~ (arg 0) → v < 500 ∨ 1500 < v → Next (.setCap rq) s fun t => ∃ u, Served u t rq.ring w 0xC5 (some 32) []
        ∧ u = s.refuseCap v ∧ Reported u 0x648 7 5 ∧ raised s u 0x150018C 1)
    ∧ (arg 1 = ~~~ (arg 0) → 500 ≤ v → v ≤ 1500 → Next (.setCap rq) s fun t =>
        ∃ u, Served u t rq.ring w 0 none [] ∧ u.swCap = v ∧ u = { s with setup := u.setup, power := u.power }
          -- inside a collective a lower cap waits, 2 ms at most; otherwise it is in force at once
          ∧ (s.insideColl = true → v < s.effCap → u.capPending = true ∧ fld (u.reg 0x150000C) 16 11 = v ∧ u.effCap = s.effCap
              ∧ u.power.deadline = (if s.capPending = true then s.power.deadline else s.lcount + 200000) ∧ raised s u 0x1500184 1)
          ∧ (s.insideColl = false ∨ s.effCap ≤ v → u.capPending = false ∧ u.effCap = min v s.trayCap ∧ u.power.swForce = v)))
  ∧ ((s.capPending = false ∨ s.lcount.toNat < s.power.deadline.toNat → exec .capDeferralExpiry s = .next s)
    ∧ (s.capPending = true → s.power.deadline.toNat ≤ s.lcount.toNat → Next .capDeferralExpiry s fun t =>
        t.capPending = false ∧ t.effCap = min (fld (s.reg 0x150000C) 16 11) s.trayCap ∧ regsKept s t [0x150000C]
          ∧ t = { s with setup := t.setup, power := t.power }))
  ∧ (Admits s rq 7 1 4 w → yes (.setMode rq) (s.setRegFld 0x1500010 0 1 (fld (arg 0) 0 1)) [])
  ∧ (Admits s rq 7 2 (8 + 4 * min 16 (arg 1).toNat) w →
    let first := (arg 0).toNat
    let n := (arg 1).toNat
    let okEntry (i : Nat) : Prop := ∀ p < 8, fld (arg (2 + i)) (4 * p) 4 ≤ 6
    (16 ≤ first → no (.setPhases rq) 0xC5 (some 32))
    ∧ (first < 16 → n = 0 ∨ 16 < n ∨ 16 < first + n → no (.setPhases rq) 0xC5 (some 36))
    ∧ (first < 16 → 0 < n → first + n ≤ 16 →
      -- the codes that are not divider codes are recorded and counted, and no entry is written (the model's reading, log 100)
      (∀ i < n, (∀ j < i, okEntry j) → ¬ okEntry i → Next (.setPhases rq) s fun t =>
        ∃ u, Served u t rq.ring w 0xC5 (some (40 + 4 * i)) [] ∧ regsKept s u [0x150018C]
          ∧ raised s u 0x150018C ((List.range 8).filter fun p => decide (6 < fld (arg (2 + i)) (4 * p) 4)).length
          ∧ (∀ p < 8, 6 < fld (arg (2 + i)) (4 * p) 4 → Reported u (0x648 + p) 7 1))
      ∧ ((∀ i < n, okEntry i) → Next (.setPhases rq) s fun t => ∃ u, Served u t rq.ring w 0 none []
          ∧ (∀ k < 16, u.reg (0x1500040 + 4 * k) = if first ≤ k ∧ k < first + n then arg (2 + (k - first)) else s.reg (0x1500040 + 4 * k))
          ∧ u = { s with setup := u.setup, power := u.power })))
  ∧ (Admits s rq 7 3 0 w → yes (.readPower rq) s
      ([0x1500000, 0x1500008, 0x150000C, 0x1500018, 0x1500014].map s.reg ++ (List.range 8).map fun p => s.reg (0x1500080 + 4 * p)))
  ∧ (∀ a : StreamArg, Admits s rq 8 0 (4 * (6 + 3 * a.nodes.length)) w →
    let mine := s.ownsSpool ctx a.consumer = true ∧ s.ownsSpool ctx a.release = true ∧ s.ownsSpool ctx a.staging = true
    let ok := 0 < a.slots ∧ 64 ≤ a.slotSize ∧ a.slotSize % 64 = 0 ∧ a.base % 64 = 0 ∧ a.nodes ≠ []
      ∧ s.dramRange a.base (a.slots * a.slotSize) = true
    (¬ mine → no (.openStream rq a) 0xC1 none)
    ∧ (mine → ¬ ok → no (.openStream rq a) 0xC5 none)
    ∧ (mine → ok → Next (.openStream rq a) s fun t => ∃ k u, Served u t rq.ring w 0 none [BitVec.ofNat 32 k]
        ∧ s.stream k = none ∧ (∀ j, j ≠ k → u.stream j = s.stream j) ∧ u = { s with svc := u.svc }
        ∧ u.stream k = some { ctx := ctx, arg := a, seqNo := 0, staged := fld (s.spoolVal a.staging) 0 63
                              released := fld (s.spoolVal a.release) 0 63, freed := 0, headers := [] }))
  ∧ (∀ k, Admits s rq 8 1 4 w →
    (s.stream k = none → no (.closeStream rq k) 0xC5 none)
    ∧ (∀ x, s.stream k = some x →
      (ctx ≠ 0 → ctx ≠ x.ctx → no (.closeStream rq k) 0xC1 none)
      ∧ (ctx = 0 ∨ ctx = x.ctx → yes (.closeStream rq k) (s.setStream k none) [] ∧ (s.setStream k none).stream k = none)))
  ∧ (Admits s rq 9 0 0 w →
    ((∃ c, 0 < c ∧ c < 64 ∧ s.ctxWork c = true) → Next (.enter rq) s fun t => Waiting s t rq 9 0 true)
    ∧ ((∀ c, 0 < c → c < 64 → s.ctxWork c = false) → yes (.enter rq) (s.setSvc 3 true) [] ∧ (s.setSvc 3 true).diag = true))
  -- and the request is answered when it is offered again and no context has work
  ∧ (∀ q, Taken s rq 9 0 0 q w → (∀ c, 0 < c → c < 64 → s.ctxWork c = false) →
      yes (.enter rq) (({ s with svc := { s.svc with queue := s.svc.queue.filter fun x => !(x.ring == q.ring && x.index == q.index) } } :
        State).setSvc 3 true) [])
  ∧ (Admits s rq 9 1 0 w → yes (.exit rq) (s.setSvc 3 false) [] ∧ (s.setSvc 3 false).diag = false)
  ∧ (Admits s rq 9 2 4 w →
    (s.diag = false → no (.selftest rq) 0xC1 none)
    ∧ (s.diag = true → yes (.selftest rq) { s with
        resets := { s.resets with flags := arg 0 &&& 7, chip := if s.resets.chip = none then some .selfTest else s.resets.chip }
        start := if bitAt (arg 0) 1 then s.start.clearLevels else s.start } []))

/-- Every service request (R318, R328 to R330): what turns it away, by status and in this order (log 61), what its service does,
and, for TAGS, an argument in device memory. -/
def Obligations.Services : Prop :=
  ∀ (s : State) (rq : SvcReq) (w : List Word), ContextService s rq w ∧ JobServices s rq w ∧ OtherServices s rq w
    ∧ (∀ (ca : CreateArg) (pa : PlaceArg) (ba : BuildArg) (ka : CheckpointArg) (sa : StreamArg) (n m k : Nat) (ns : List Nat)
        (ws : List Word) (v : Word),
      ∀ x ∈ [(1, 0, 4, Instr.create rq ca), (1, 1, 4, .destroy rq n), (1, 2, 8, .bindRing rq n m), (1, 3, 4, .unbindRing rq n),
          (1, 4, 40, .setWindow rq n m ws), (1, 5, 12, .grantSpool rq n m k),
          (2, 0, 4 * (8 + pa.ranks.length + 4 * pa.ports.length + 3 * pa.entries.length + pa.contexts.length), .place rq pa),
          (2, 1, 0, .jobRelease rq), (3, 0, 68, .build rq ba), (3, 1, 4, .collectiveArm rq n), (3, 2, 4, .disarm rq n),
          (4, 0, 4 * (12 + 4 * ka.ranges.length + ka.groups.length), .configure rq ka),
          (4, 1, 4, .checkpointStop rq n), (4, 2, 4, .query rq n), (5, 0, 0, .recoveryStatus rq), (5, 1, 4, .recoveryWait rq n),
          (5, 2, 0, .abandon rq), (6, 0, 4 * (2 + 2 * ns.length), .numericsEnable rq n ns), (6, 1, 4, .numericsDisable rq n),
          (6, 2, 8, .drogue rq n v), (6, 3, 4, .tags rq), (7, 0, 8, .setCap rq), (7, 1, 4, .setMode rq),
          (7, 2, 8 + 4 * min 16 (wordAt rq.arg 1).toNat, .setPhases rq), (7, 3, 0, .readPower rq),
          (8, 0, 4 * (6 + 3 * sa.nodes.length), .openStream rq sa), (8, 1, 4, .closeStream rq n), (9, 0, 0, .enter rq),
          (9, 1, 0, .exit rq), (9, 2, 4, .selftest rq)],
      let svc := x.1
      let op := x.2.1
      let need := x.2.2.1
      let c := x.2.2.2
      let no (st : Nat) : Prop := Next c s fun t => Served s t rq.ring w st none []
      let mayAsk := rq.ring = 0 ∨ svc ∉ [1, 2, 5, 7, 9]
      let mayNow := s.diag = false ∨ svc = 9 ∨ (svc = 5 ∧ op = 0)
      -- the service has not taken this request before
      (∀ q, s.svc.queue.find? (fun y => y.svc == svc) = some q → ¬ (q.ring = rq.ring ∧ q.op = op)) → s.unbuilt = none →
      (s.up = false ∨ s.readyDesc rq.ring 10 = none → exec c s = .next s)
      ∧ (s.readyDesc rq.ring 10 = some w → svcKnown w = true → svcNo w ≠ svc ∨ svcOp w ≠ op → exec c s = .next s)
      ∧ (Asked s rq w → svcKnown w = false → no 0xC0)
      -- a service that has a request answers it first: this one is taken and has not begun
      ∧ (Asked s rq w → Allowed s rq svc op need w → (∃ q ∈ s.svc.queue, q.svc = svc) → svc ≠ 5 ∨ op ≠ 1 →
          Next c s fun t => Waiting s t rq svc op false)
      ∧ (Asked s rq w → svcNo w = svc → svcOp w = op →
        (svcLen w < 32 + need → no 0xC0)
        ∧ (32 + need ≤ svcLen w → ¬ mayAsk → no 0xC1)
        ∧ (32 + need ≤ svcLen w → mayAsk → ¬ mayNow → no 0xC1)
        ∧ (32 + need ≤ svcLen w → mayAsk → mayNow → rq.ring ≠ 0 → s.ctxExists (s.ringCtx rq.ring) = false → no 0xC3)
        ∧ (32 + need ≤ svcLen w → mayAsk → mayNow → (rq.ring = 0 ∨ s.ctxExists (s.ringCtx rq.ring) = true) → s.jobLost = true →
          svc = 2 ∨ ((svc = 3 ∨ svc = 4) ∧ s.ctxGlobal (s.ringCtx rq.ring) = true) → no 0xC4)))
    ∧ (∀ a f, Sole s rq.ring 10 w → s.up = true → s.rwcPend = [] → (∀ q ∈ s.svc.queue, q.svc ≠ 6) → svcHost rq.ring w = false → svcNo w = 6 → svcOp w = 3 → s.diag = false →
      s.ctxExists (s.ringCtx rq.ring) = true → 36 ≤ svcLen w → svcLen w % 4 = 0 → svcArg w % 64 + svcLen w ≤ 64 →
      linkBlock s rq.ring (svcArg w) a .read → linkBlock s rq.ring (svcArg w) a .write →
      let at' := a + svcArg w % 64
      let n := (s.word (at' + 32)).toNat
      let r := 0x133000C + 0x10 * s.ringCtx rq.ring
      let entry := (s.entryAddr rq.ring (s.retired rq.ring), 32)
      apart (at', 36) entry → 0 < n → f + n ≤ 4096 → 0 < f → bitAt (s.reg r) 31 = false → s.tagsTaken f (f + n - 1) = false →
      (∀ g, 0 < g → g < f → s.tagsTaken g (g + n - 1) = true) → Next (.tags rq) s fun t =>
        Completed s t rq.ring w 0 0 ∧ t.word (at' + 32) = BitVec.ofNat 32 f ∧ t.word at' = 0 ∧ t.word (at' + 8) = 4
          ∧ bytesKept s t [(at', 36), entry] ∧ t.reg r = BitVec.ofNat 32 (2 ^ 31 + (f + n - 1) * 2 ^ 16 + f)
          ∧ t.hostOut = s.hostOut)

/-! ## Power (spec/16) and monitors (R395 to R398) -/

/-- Field of PART_STATUS: 28 RUN, 24 PREF, 20 cap ceiling, 16 mismatch, 12 heat, 8 neighbour (R364). -/
def Sys2Proof.Claims.status (s : State) (p lo : Nat) : Nat := fld (s.reg (0x1500080 + 4 * p)) lo 4

/-- Every present partition that is awake steps towards the slowest of its preferred point and its ceilings, one code at a time, and
starts a step up only while its clock is not stretched and no neighbouring rail would lie more than 200 mV lower (R341, R343, R344). -/
def Sys2Proof.Claims.Chosen (s t : State) : Prop :=
  ∀ p < 8, s.partAbsent p = false → (s.part p).asleep = false → ∀ w,
    w = [status t p 24, ceilingCode (status t p 20), ceilingCode (status t p 16), ceilingCode (status t p 12),
      ceilingCode (status t p 8)].foldl max 0 →
    ((s.part p).code < w → (t.part p).toCode = some ((s.part p).code + 1))
    ∧ (w = (s.part p).code → (t.part p).toCode = none)
    -- no rail rises more than 200 mV above a neighbour's (R344); the partitions are taken in the order of their ids
    ∧ (let mv (q : Nat) : Nat := let x := if q < p then t.part q else s.part q
         codeMv (min x.code (x.toCode.getD x.code))
       let breaks : Prop := ∃ q < 8, s.partAbsent q = false ∧ areNeighbours p q = true ∧ mv q + 200 < codeMv ((s.part p).code - 1)
       w < (s.part p).code →
        ((s.part p).stretching = false → ¬ breaks → (t.part p).toCode = some ((s.part p).code - 1))
        ∧ ((s.part p).stretching = true ∨ breaks → (t.part p).toCode = (s.part p).toCode))

/-- POWER_EVALUATION (R341, R342, R349, R350). -/
def Sys2Proof.Claims.Evaluates (s : State) : Prop :=
  ∀ (m : PowerReading), let c := Instr.powerEvaluation m
    (s.up = false ∨ s.lcount.toNat % 1000 ≠ 0 ∨ s.power.lastEval = some s.lcount → exec c s = .next s)
    ∧ (s.up = true → s.lcount.toNat % 1000 = 0 → s.power.lastEval ≠ some s.lcount → (∀ x ∈ m.part, x < 2 ^ 40) →
      (∀ p, s.decided p ≤ 6) →
      let here (p : Nat) : Prop := p < 8 ∧ s.partAbsent p = false
      let phase := s.reg (0x1500040 + 4 * fld (s.reg 0x1500014) 0 4)
      let pref (p : Nat) : Nat :=
        if bitAt (s.reg 0x1500010) 0 = true then (if fld phase (4 * p) 4 ≤ 6 then fld phase (4 * p) 4 else status s p 24) else 1
      let watts := if s.power.useMax = true then max (fld (s.reg 0x1500018) 0 11) (fld (s.reg 0x1500018) 16 11) else m.est
      let always (t : State) : Prop := t.power.lastEval = some s.lcount ∧ t.power.reading = m ∧ Chosen s t
        ∧ t.power.free = bitAt (s.reg 0x1500010) 0
        ∧ (∀ p, here p → status t p 24 = pref p ∧ status t p 16 = status s p 16 ∧ status t p 12 = status s p 12 ∧ status t p 8 = status s p 8
            ∧ status t p 28 = status s p 28 ∧ (t.part p).code = (s.part p).code)
        ∧ regsKept s t ((List.range 8).map fun p => 0x1500080 + 4 * p) ∧ t = { s with setup := t.setup, power := t.power }
      -- the cap ceilings but that of `q`
      let others (t : State) (q : Nat) : Prop := ∀ p, here p → p ≠ q → status t p 20 = status s p 20
      -- too much: the fastest partition, then the one with the highest estimate, then the highest id
      (s.effCap < watts →
        (∀ q, here q → status s q 20 ≠ 6 →
          (∀ p, here p → p ≠ q → status s p 20 ≠ 6 → s.decided q < s.decided p ∨ (s.decided q = s.decided p ∧
            (m.part.getD p 0 < m.part.getD q 0 ∨ (m.part.getD p 0 = m.part.getD q 0 ∧ p < q)))) →
          Next c s fun t => always t ∧ others t q ∧ status t q 20 = min 6 (ceilingCode (status s q 20) + 1)
            ∧ t.power.lastStep = some s.lcount ∧ t.power.duty = s.power.duty)
        ∧ ((∀ p, here p → status s p 20 = 6) → Next c s fun t => always t ∧ others t 8 ∧ t.power.lastStep = some s.lcount
            ∧ t.power.duty = max 1 (s.power.duty - 1)))
      ∧ (watts ≤ s.effCap →
        let fits (w : Nat) : Prop := 100 * w ≤ 97 * s.effCap
        let old := s.power.lastStep = none ∨ ∃ x, s.power.lastStep = some x ∧ 100000 ≤ (s.lcount - x).toNat
        let idle (t : State) : Prop := always t ∧ others t 8 ∧ t.power.lastStep = s.power.lastStep ∧ t.power.duty = s.power.duty
        -- held down by its cap ceiling
        let held (p : Nat) : Prop := here p ∧ status s p 20 ≠ 15 ∧ pref p < status s p 20
        (¬ old → Next c s idle)
        ∧ (old → s.power.duty < 8 → (fits watts → Next c s fun t => always t ∧ others t 8 ∧ t.power.duty = s.power.duty + 1
              ∧ t.power.lastStep = some s.lcount)
            ∧ (¬ fits watts → Next c s idle))
        ∧ (old → 8 ≤ s.power.duty →
          ((∀ p, ¬ held p) → Next c s idle)
          ∧ (∀ q, held q → (∀ p, held p → p ≠ q → s.decided p < s.decided q ∨ (s.decided p = s.decided q ∧ q < p)) →
            (¬ fits (m.ifRaised.getD q 0) → Next c s idle)
            ∧ (fits (m.ifRaised.getD q 0) → Next c s fun t => always t ∧ others t q ∧ status t q 20 = raiseCode (status s q 20)
                ∧ t.power.lastStep = some s.lcount ∧ t.power.duty = s.power.duty)))))

/-- Temperatures (R357 to R360): ceilings of heat and of neighbours, invalid sensors, and the trip at 110 degrees. -/
def Sys2Proof.Claims.Senses (s : State) : Prop :=
  ∀ (sensors : List (List (Option Nat))) (oth : List Nat), let c := Instr.sensorSample sensors oth
    -- a partition's temperature is the highest valid reading of its sensors
    let temps : List (Option Nat) := sensors.map fun l => if l.filterMap id = [] then none else some ((l.filterMap id).foldl max 0)
    (s.powered = false ∨ s.lcount.toNat % 100 ≠ 0 ∨ s.power.lastSample = some s.lcount → exec c s = .next s)
    ∧ (s.powered = true → s.lcount.toNat % 100 = 0 → s.power.lastSample ≠ some s.lcount →
      let all := oth ++ temps.filterMap id
      let trips := (∃ v ∈ all, 110 ≤ v) ∧ (s.start.tripWait = false ∨ ∀ v ∈ all, v < 85) ∧ s.standby = false
      (trips → Next c s fun t => t.resets.chip = some (s.resets.chip.getD .thermalTrip) ∧ t.start.tripWait = true
          ∧ bitAt t.mgmt.modStatus 4 = true ∧ Reported t 0x648 0x10 3 ∧ t.power.lastSample = some s.lcount)
      ∧ (¬ trips → Next c s fun t => t.resets = s.resets ∧ t.power.lastSample = some s.lcount ∧ t.mgmt.hottest = all.foldl max 0
          ∧ t.start.tripWait = (s.start.tripWait && all.any fun v => decide (85 ≤ v)) ∧ t.cores = s.cores ∧ t.spool = s.spool
          ∧ (s.up = false → s.start.tripWait = false → t.setup = s.setup)
          -- S0 counts its limit from the end of the trip wait (log 104)
          ∧ (s.start.tripWait = true → (∀ v ∈ all, v < 85) → s.start.running = true → s.startStep = 0 → t.start.since = s.lcount)
          ∧ (s.up = true → Chosen s t ∧ ∀ p < 8, s.partAbsent p = false →
            let x := s.part p
            let y := t.part p
            -- what stood before a spell without a valid sensor comes back, and the episodes begin afresh (log 101)
            let c0 := if x.invalid = true then x.savedTh else status s p 12
            let hot := if x.invalid = true then none else x.hot
            let cool := if x.invalid = true then none else x.cool
            let due (since : DWord) (n : Nat) : Nat := (s.lcount - since).toNat / n
            (temps.getD p none = none → status t p 12 = 6 ∧ y.invalid = true ∧ y.savedTh = c0 ∧ (x.invalid = false → Reported t (0x648 + p) 8 4))
            ∧ (∀ v, temps.getD p none = some v →
              y.invalid = false ∧ fld (t.reg (0x1500080 + 4 * p)) 0 8 = min v 255
                ∧ (95 ≤ v → hot = none → status t p 12 = min 6 (max x.code (ceilingCode c0) + 1) ∧ y.hot = some (s.lcount, 0))
                ∧ (∀ since n, 95 ≤ v → hot = some (since, n) →
                    status t p 12 = min 6 (ceilingCode c0 + (due since 100000 - n)) ∧ y.hot = some (since, max n (due since 100000)))
                ∧ (90 < v → v < 95 → status t p 12 = c0 ∧ y.hot = none ∧ y.cool = none)
                ∧ (v ≤ 90 → cool = none → status t p 12 = c0 ∧ y.hot = none ∧ y.cool = some (s.lcount, 0))
                ∧ (∀ since n, v ≤ 90 → cool = some (since, n) → due since 1000000 ≤ n → status t p 12 = c0)
                ∧ (∀ since n, v ≤ 90 → cool = some (since, n) → due since 1000000 = n + 1 → status t p 12 = raiseCode c0)
                -- the neighbour that is 25 degrees cooler
                ∧ (∀ q u, q < 8 → s.partAbsent q = false → areNeighbours p q = true → temps.getD q none = some u → u + 25 < v → x.nbHot = none →
                    status t p 8 = min 6 (max x.code (ceilingCode (status s p 8)) + 1) ∧ y.nbHot = some (s.lcount, 0))
                ∧ ((∀ q u, q < 8 → s.partAbsent q = false → areNeighbours p q = true → temps.getD q none = some u → u + 20 < v ∧ v ≤ u + 25) →
                    (∃ q u, q < 8 ∧ s.partAbsent q = false ∧ areNeighbours p q = true ∧ temps.getD q none = some u) →
                    status t p 8 = status s p 8)))))

/-- The hang record of an engine is latched, and level `n` of the ladder is taken as far as MAXLVL allows (R397, R398). -/
def Sys2Proof.Claims.Took (s t : State) (u : EngineUnit) (waited : DWord) (n : Nat) : Prop :=
  (engineSource u ≠ 0x658 → Reported t (engineSource u) 0xA (monitorCode u))
    ∧ (min 4 (fld (s.reg 0x160002C) 0 3) < n → t.resets = s.resets)
    ∧ (n ≤ min 4 (fld (s.reg 0x160002C) 0 3) →
      (∃ g, t.rung u = some g ∧ g.level = n ∧ g.since = s.lcount)
        ∧ (n = 1 → ∀ c ∈ (s.hangRecord u waited).engineCtxs u,
            (c ≠ 0 → c ∈ t.resets.contexts) ∧ (c = 0 → t.resets.chip ≠ none))
        ∧ (n = 2 → u ∈ t.resets.engines)
        ∧ (n = 3 → ∀ p, enginePart u = some p → s.partAbsent p = false → p ∈ t.resets.parts)
        ∧ (n = 4 → t.resets.chip ≠ none ∧ Reported t 0x658 0x10 4))

/-- The guards of `t` keep R344 and R346: none is larger than what was asked for or takes its rail above 0.84 V, and no rail lies more
than 200 mV over a neighbour's; a rail whose setpoint is not that of `s` ramps. -/
def Sys2Proof.Claims.Refit (s t : State) : Prop :=
  ∀ p < 8, s.partAbsent p = false →
    let mv (x : Partition) : Nat := codeMv (min x.code (x.toCode.getD x.code))
    let x := s.part p
    let y := t.part p
    y.guard ≤ y.fullGuard ∧ (y.guard ≠ 0 → mv y + y.guard ≤ 840)
      ∧ (∀ q < 8, s.partAbsent q = false → areNeighbours p q = true → mv y + y.guard ≤ mv (t.part q) + (t.part q).guard + 200)
      ∧ (mv x + x.guard ≠ mv y + y.guard → y.ramping = true) ∧ (mv x = mv y → x.guard = y.guard → y.ramping = x.ramping)

/-- The time-driven rows of the power controller, the temperature samples, and the monitors of engines and waits. -/
def Obligations.PowerAndMonitors : Prop :=
  ∀ (s : State), Evaluates s ∧ Senses s
    ∧ (∀ p, let x := s.part p
      (x.toCode = none → exec (.dividerChange p) s = .next s)
      ∧ (∀ c, x.toCode = some c → c < x.code → x.ramping = true ∨ x.rail < codeMv c → exec (.dividerChange p) s = .next s)
      ∧ (∀ c, x.toCode = some c → (x.code ≤ c ∨ (x.ramping = false ∧ codeMv c ≤ x.rail)) → Next (.dividerChange p) s fun t =>
          t.part p = { x with code := c, toCode := none, guard := (t.part p).guard, ramping := (t.part p).ramping }
            ∧ (∀ q, q ≠ p → t.part q = { s.part q with guard := (t.part q).guard, ramping := (t.part q).ramping })
            ∧ Refit s t ∧ status t p 28 = c % 16
            ∧ raised s t (0x1500108 + 0x10 * p) 1 ∧ regsKept s t [0x1500108 + 0x10 * p, 0x1500080 + 4 * p]
            ∧ t = { s with setup := t.setup, power := t.power })
      ∧ (8 ≤ p ∨ s.partAbsent p = true → exec (.railSettled p) s = .next s
          ∧ ∀ mv, exec (.droopWarning p mv) s = .next s ∧ exec (.droopReset p mv) s = .next s)
      ∧ (p < 8 → s.partAbsent p = false →
        -- the setpoint is that of the faster of the two points while the point changes, with the guard
        (Next (.railSettled p) s fun t => t.part p = { x with rail := codeMv (min x.code (x.toCode.getD x.code)) + x.guard, ramping := false }
          ∧ (∀ q, q ≠ p → t.part q = s.part q) ∧ t = { s with power := t.power })
        -- the levels: 94% and 85% of the voltage of the point in force, which while the rail ramps is the lower of the two (R354)
        ∧ (∀ mv, 100 * mv < 94 * codeMv x.code → Next (.droopWarning p mv) s fun t =>
          t.part p = { x with stretching := true, below := true } ∧ (∀ q, q ≠ p → t.part q = s.part q) ∧ t = { s with power := t.power })
        ∧ (∀ mv, 94 * codeMv x.code ≤ 100 * mv → x.below = true → Next (.droopWarning p mv) s fun t =>
          t.part p = { x with below := false, aboveSince := s.lcount } ∧ (∀ q, q ≠ p → t.part q = s.part q) ∧ t = { s with power := t.power })
        ∧ (∀ mv, 94 * codeMv x.code ≤ 100 * mv → x.below = false → exec (.droopWarning p mv) s = .next s)
        ∧ (∀ mv, 85 * codeMv x.code ≤ 100 * mv → exec (.droopReset p mv) s = .next s)
        ∧ (∀ mv, 100 * mv < 85 * codeMv x.code → Next (.droopReset p mv) s fun t =>
          Reported t (0x648 + p) 8 3 ∧ p ∈ t.resets.parts ∧ (∀ q ∈ s.resets.parts, q ∈ t.resets.parts)
            ∧ t.resets.chip = s.resets.chip ∧ t.power = s.power ∧ t.cores = s.cores))
      ∧ (x.stretching = false ∨ x.below = true ∨ s.lcount.toNat < x.aboveSince.toNat + 1000 → exec (.droopHoldExpiry p) s = .next s)
      ∧ (x.stretching = true → x.below = false → x.aboveSince.toNat + 1000 ≤ s.lcount.toNat →
        -- the record at most once in 1,048,576 counts
        ((x.lastDroop = none ∨ ∃ d, x.lastDroop = some d ∧ 1048576 ≤ (s.lcount - d).toNat) → Next (.droopHoldExpiry p) s fun t =>
          t.part p = { x with stretching := false, lastDroop := some s.lcount } ∧ raised s t (0x1500100 + 0x10 * p) 1
            ∧ Reported t (0x648 + p) 8 2)
        ∧ (∀ d, x.lastDroop = some d → (s.lcount - d).toNat < 1048576 → Next (.droopHoldExpiry p) s fun t =>
          t.part p = { x with stretching := false } ∧ raised s t (0x1500100 + 0x10 * p) 1 ∧ regsKept s t [0x1500100 + 0x10 * p]
            ∧ t = { s with setup := t.setup, power := t.power })))
    ∧ (∀ (e : Nat) (m : Option Nat), let c := Instr.telemetryWindow e m
      (s.up = false ∨ s.lcount.toNat % 100000 ≠ 0 ∨ s.power.lastWindow = some s.lcount → exec c s = .next s)
      ∧ (s.up = true → s.lcount.toNat % 100000 = 0 → s.power.lastWindow ≠ some s.lcount →
        let w := m.getD 1500
        let apart' : Prop := 15 * max e w < 100 * (max e w - min e w)
        let here (p : Nat) : Prop := p < 8 ∧ s.partAbsent p = false
        let always (t : State) : Prop := (t.reg 0x1500018).toNat = min w 2047 * 2 ^ 16 + min e 2047 ∧ t.power.lastWindow = some s.lcount
          ∧ t.power.disagree = (if 15 * max e w < 100 * (max e w - min e w) then s.power.disagree + 1 else 0)
          ∧ t.power.agree = (if 15 * max e w < 100 * (max e w - min e w) then 0 else s.power.agree + 1)
          ∧ (∀ p, here p → (t.part p).throttled = false ∧ raised s t (0x150010C + 0x10 * p) (if (s.part p).throttled = true then 1 else 0))
          ∧ t.cores = s.cores ∧ t.spool = s.spool ∧ t.resets = s.resets
        (¬ apart' → s.power.agree + 1 ≠ 1000 → Next c s fun t => always t ∧ t.power.useMax = s.power.useMax
          ∧ (∀ p, here p → status t p 16 = status s p 16) ∧ t = { s with setup := t.setup, power := t.power })
        ∧ (apart' → (s.power.disagree + 1) % 8 ≠ 0 → Next c s fun t => always t ∧ t.power.useMax = s.power.useMax
          ∧ (∀ p, here p → status t p 16 = status s p 16) ∧ t = { s with setup := t.setup, power := t.power })
        -- eight windows apart: the larger figure counts, and the mismatch ceilings fall by one
        ∧ (apart' → (s.power.disagree + 1) % 8 = 0 → Next c s fun t => always t ∧ t.power.useMax = true ∧ Chosen s t
          ∧ (∀ p, here p → status t p 16 = min 6 ((if status s p 16 = 15 then (s.part p).code else status s p 16) + 1))
          ∧ raised s t 0x1500180 1 ∧ Reported t 0x648 8 1)
        ∧ (¬ apart' → s.power.agree + 1 = 1000 → Next c s fun t => always t ∧ t.power.useMax = false ∧ Chosen s t
          ∧ (∀ p, here p → status t p 16 = 15) ∧ t = { s with setup := t.setup, power := t.power })))
    -- monitors
    ∧ (∀ (u : EngineUnit) (waited : DWord),
      -- the monitor counts from the engine's last progress, and a thread engine's only while a sub-group is ready
      (s.engineWorks u = false ∨ waited.toNat ≠ s.monitor u ∨ waited.toNat < s.hangLimit u → exec (.engineHang u waited) s = .next s)
      ∧ s.monitor u ≤ (s.lcount - Sparse.get (fun _ => 0) s.progress (unitKey u)).toNat
      ∧ ((∀ core, u ≠ .thread core) → s.monitor u = (s.lcount - Sparse.get (fun _ => 0) s.progress (unitKey u)).toNat)
      ∧ (s.engineWorks u = true → waited.toNat = s.monitor u → s.hangLimit u ≤ waited.toNat →
        (s.rung u = none → Next (.engineHang u waited) s fun t => Took s t u waited 1)
        ∧ (∀ g, s.rung u = some g → levelWindow g.level ≤ (s.lcount - g.since).toNat →
            Next (.engineHang u waited) s fun t => Took s t u waited 1)
        ∧ (∀ g, s.rung u = some g → (s.lcount - g.since).toNat < levelWindow g.level →
            Next (.engineHang u waited) s fun t => Took s t u waited (nextLevelOf u g.level)))
      ∧ (s.rung u = none → exec (.escalationTimeout u) s = .next s)
      ∧ (∀ g, s.rung u = some g → let age := s.lcount - g.since
        (s.rungOpen g = false ∨ age.toNat < levelLimit g.level → exec (.escalationTimeout u) s = .next s)
        ∧ (s.rungOpen g = true → levelLimit g.level ≤ age.toNat → Next (.escalationTimeout u) s fun t =>
            Took s t u age (nextLevelOf u g.level)))
      -- HANG_NS, at least 1,000 counts; ten times as long for copies
      ∧ s.hangLimit u = (match u with
          | .stream _ | .link => 10
          | _ => 1) * max 1000 (s.reg 0x1600024).toNat)
    ∧ (∀ (w : WaitUnit) (waited : DWord), let n := (s.reg 0x1600020).toNat
      -- the wait began `waited` counts ago
      (n = 0 ∨ s.waitBegan w ≠ some (s.lcount - waited) ∨ (∀ k < 7, waited.toNat ≠ n * 2 ^ k) → exec (.waitMonitorExpiry w waited) s = .next s)
      ∧ (n ≠ 0 → s.waitBegan w = some (s.lcount - waited) → (∃ k < 7, waited.toNat = n * 2 ^ k) →
        Next (.waitMonitorExpiry w waited) s fun t =>
        Reported t (match w with | .sub core _ _ _ => core | .ring _ => 0x641) 0xA 8 ∧ t.cores = s.cores ∧ t.rings = s.rings
          ∧ t.resets = s.resets ∧ t.waiters = s.waiters ∧ (soundMem s → t.setup = s.setup))
      ∧ (∀ r, s.waitBegan (.ring r) = if (s.ring r).waiting = none then none else some (s.ring r).waitSince))

/-! ## Resets (R398 to R406), starts (spec/17) and the moored commands (R380 to R382) -/

/-- CONTEXT_RESET, ENGINE_RESET, PARTITION_RESET, CHIP_RESET, POWER_CYCLE_REQUEST and WATCHDOG_EXPIRY. -/
def Sys2Proof.Claims.Resetting (s : State) : Prop :=
  (∀ c, s.resets.contexts.contains c = false ∨ s.resets.chip ≠ none ∨ s.resets.cycle = true → exec (.contextReset c) s = .next s)
  ∧ (∀ c, c < 64 → s.resets.contexts.contains c = true → s.resets.chip = none → s.resets.cycle = false → Next (.contextReset c) s fun t =>
      c ∉ t.resets.contexts ∧ Reported t 0x650 0xB 1
        -- its rings are stopped and unbound, their indices as they stand
        ∧ (∀ r < 128, let mine := r ≠ 0 ∧ (s.ring r).bound = true ∧ s.ringCtx r = c
          (mine → t.ring r = Ring.empty ∧ t.ringState r = 0) ∧ (¬ mine → t.ring r = s.ring r ∧ t.ringState r = s.ringState r)
            ∧ t.head r = s.head r ∧ t.tail r = s.tail r ∧ t.retired r = s.retired r)
        -- its launches, blocks and requests go
        ∧ (∀ k l, t.launchOf k = some l → l.ctx ≠ c) ∧ (Canonical s → ∀ core blk b, t.block core blk = some b → b.ctx ≠ c)
        ∧ (∀ k q, Sparse.get (fun _ => none) t.reqs k = some q → q.ctx = c → ∃ src, q.owner = .gone src)
        -- its counters are 0, and no other counter changes
        ∧ (∀ k, s.inSpool c k = true → t.spoolVal k = 0) ∧ (∀ k, s.inSpool c k = false → t.spoolVal k = s.spoolVal k)
        -- its windows are zero, GLOBAL and the drogue range are gone; other contexts keep their registers
        ∧ (∀ z, s.wtBase + 0x2000 * c ≤ z → z < s.wtBase + 0x2000 * c + 0x2000 → isRom z = false →
            (z < 0x40000 + s.errBase ∨ 0x50000 + s.errBase ≤ z) → t.byte z = 0)
        ∧ t.ctxGlobal c = false ∧ t.reg (0x133000C + 0x10 * c) = 0 ∧ t.ctxExists c = s.ctxExists c
        ∧ (∀ d < 64, d ≠ c → ∀ x ∈ [0, 4, 8, 0xC], t.reg (0x1330000 + 0x10 * d + x) = s.reg (0x1330000 + 0x10 * d + x))
        -- a global context is followed by a chip reset while GCUT is set
        ∧ (s.ctxGlobal c = true → bitAt (s.reg 0x160002C) 8 = true → t.resets.chip ≠ none))
  ∧ (∀ u, s.resets.engines.contains u = false ∨ s.resets.chip ≠ none ∨ s.resets.cycle = true → exec (.engineReset u) s = .next s)
  ∧ (∀ u, s.resets.engines.contains u = true → s.resets.chip = none → s.resets.cycle = false → Next (.engineReset u) s fun t =>
      u ∉ t.resets.engines ∧ Reported t 0x650 0xB 2
        ∧ (∀ c ∈ s.engineCtxs u, (c = 0 → t.resets.chip ≠ none) ∧ (0 < c → c < 64 → t.ctxGlobal c = false))
        ∧ (∀ core a, u = .array core a → a < (s.core core).arrays.length →
            ((t.core core).array a).queue = [] ∧ ((t.core core).array a).running = [] ∧ ((t.core core).array a).shape = 0)
        ∧ (∀ core, u = .stream core → (t.core core).copies = [])
        ∧ (∀ p, u = .factor p → t.factorQueue p = [])
        ∧ (∀ mc l, u = .adder mc → l ∈ t.tables.lines → l.1 ≠ mc))
  ∧ (∀ p, s.resets.parts.contains p = false ∨ s.resets.chip ≠ none ∨ s.resets.cycle = true ∨ 8 ≤ p → exec (.partitionReset p) s = .next s)
  ∧ (∀ p < 8, s.resets.parts.contains p = true → s.resets.chip = none → s.resets.cycle = false → Next (.partitionReset p) s fun t =>
      p ∉ t.resets.parts ∧ Reported t 0x650 0xB 3
        ∧ (∀ i < 192, t.core (192 * p + i) = Core.idle) ∧ (∀ k, 2048 * p ≤ k → k < 2048 * p + 2048 → t.spoolVal k = 0)
        -- divide by 16 at 0.60 V, its cluster blocks at their reset values but for CL_CTRL, which is as it was last written (R412)
        ∧ (t.part p).code = 6 ∧ (t.part p).rail = 600 ∧ (t.part p).guard = 0 ∧ (t.part p).stretching = false ∧ (t.part p).asleep = false
        ∧ (∀ o, 0x180000 * p ≤ o → o < 0x180000 * (p + 1) →
          t.reg o = if o % 0x20000 = 0 then Sparse.get (fun _ => 1) s.svc.clCtrl (o / 0x20000) else regReset o)
        -- the launch map is written afresh
        ∧ (s.start.lmap ≠ 0 → t.start.mapGen = s.start.mapGen + 1) ∧ (s.start.lmap = 0 → t.start.mapGen = s.start.mapGen))
  ∧ (∀ r straps, s.resets.chip ≠ some r ∨ s.powered = false ∨ s.resets.cycle = true → exec (.chipReset r straps) s = .next s)
  ∧ (∀ r straps, s.resets.chip = some r → s.powered = true → s.resets.cycle = false → Next (.chipReset r straps) s fun t =>
      -- a PERSIST_IMAGE under way leaves no image
      let persisting : Bool := s.moorBusy && s.start.moorJob == 3
      t.mgmt.mid = straps ∧ t.scrub = s.scrub ∧ (persisting = true → t.start.imageWritten = true)
        ∧ (∀ k, Sparse.get (fun _ => (0 : Byte)) t.start.flash k
          = if persisting = true ∧ 0x1000000 ≤ k then 0 else Sparse.get (fun _ => 0) s.start.flash k)
        ∧ (t.kreg 0xC).toNat = reasonCode r ∧ Reported t 0x658 0xB 4 ∧ t.resets.chip = none
        ∧ t.cores = [] ∧ t.spool = [] ∧ t.rings = [] ∧ t.launches = [] ∧ t.reqs = [] ∧ t.svc = Services.empty ∧ t.up = false
        ∧ (∀ c < 64, t.ctxExists c = false)
        -- the caps stay, and what flash holds
        ∧ t.swCap = s.swCap ∧ t.reg 0x1500008 = s.reg 0x1500008 ∧ t.start.counter0 = s.start.counter0
        ∧ t.start.counter1 = s.start.counter1
        -- a start begins at S0
        ∧ t.start.running = true ∧ t.start.moored = false ∧ (s.start.levels.getD 0 0 < 4 → t.startStep = 0) ∧ t.start.kind = (if r = .selfTest then 2 else 1)
        ∧ t.start.holdNow = s.start.hold ∧ t.start.hold = false
        ∧ (∀ e es, s.start.journal = e :: es → t.startSeq = e.seq + 1)
        ∧ (s.up = false → ∀ z, isDram z = true → (z < 0x40000 + s.errBase ∨ 0x50000 + s.errBase ≤ z) → t.byte z = s.byte z))
  ∧ (s.resets.cycle = false ∨ s.powered = false ∨ bitAt (s.kreg 8) 1 = true → exec .powerCycleRequest s = .next s)
  ∧ (s.resets.cycle = true → s.powered = true → bitAt (s.kreg 8) 1 = false → Next .powerCycleRequest s fun t =>
      bitAt (t.kreg 8) 1 = true ∧ Reported t 0x658 0x10 5 ∧ t.start.moored = true ∧ t.start.running = false
        ∧ (∀ k < 16, t.linkState k = 0) ∧ t.power.parts = [] ∧ t.cores = s.cores)
  -- the watchdog runs from the start of S8 until the module is moored, and a core checks in by answering a request (log 95)
  ∧ (∀ sc, let last := max (Sparse.get (fun _ => 0) s.svc.checkin sc).toNat s.start.since.toNat
      (s.powered = false ∨ s.startStep ≠ 8 ∨ s.start.moored = true ∨ 8 ≤ sc ∨ s.lcount.toNat < last + 10000000 →
        exec (.watchdogExpiry sc) s = .next s)
      ∧ (s.powered = true → s.startStep = 8 → s.start.moored = false → sc < 8 → last + 10000000 ≤ s.lcount.toNat →
        Next (.watchdogExpiry sc) s fun t =>
      t.resets.chip = some (s.resets.chip.getD .watchdog) ∧ Reported t 0x658 0x10 2 ∧ bitAt t.mgmt.modStatus 9 = true
        ∧ fld (t.kreg 0x40) 24 8 = 0x10 ∧ fld (t.kreg 0x40) 16 8 = 2 ∧ fld (t.kreg 0x50) 0 16 = sc ∧ t.cores = s.cores
        ∧ (soundMem s → t.setup = s.setup)))

/-- Step `n` has failed with this cause, unit and, in S3, array and column (R366, R376, R377): a chip reset when a fallback is left, otherwise the moored state. -/
def Sys2Proof.Claims.FailedStep (s t : State) (n detail unit : Nat) (site : Nat × Nat) : Prop :=
  (∀ e es, s.start.journal = e :: es → ∃ e' es', t.start.journal = e' :: es' ∧ e'.site = site) ∧
  t.startStep = n ∧ t.startState = 3 ∧ t.startDetail = detail ∧ fld (t.kreg 0) 0 16 = unit ∧ t.start.running = false
    ∧ ((s.start.fallback n unit).isSome = true → t.resets.chip = some (s.resets.chip.getD .startFallback) ∧ t.start.moored = s.start.moored)
    ∧ (s.start.fallback n unit = none → t.start.moored = true ∧ (∀ k < 16, t.linkState k = 0)
      ∧ t.resets = { s.resets with cycle := s.resets.cycle || (n == 0 && s.start.kind != 0) })
    ∧ t.mem = s.mem ∧ t.cores = s.cores

/-- COLD_START, STEP_TIME_LIMIT and SELF_TEST_STEP_END (R366 to R369, R374, R379). -/
def Sys2Proof.Claims.Starting (s : State) : Prop :=
  (∀ straps, (s.powered = true → exec (.coldStart straps) s = .next s)
    ∧ (s.powered = false → Next (.coldStart straps) s fun t =>
      t.powered = true ∧ t.mgmt = { Mgmt.atReset with mid := straps } ∧ t.start.running = true ∧ t.start.kind = 0 ∧ t.start.full = true
        ∧ t.start.keepMem = false ∧ (s.start.levels.getD 0 0 < 4 → t.startStep = 0 ∧ t.startState = 0) ∧ t.lcount = 0 ∧ t.start.since = 0
        ∧ (∀ e es, s.start.journal = e :: es → t.startSeq = e.seq + 1)))
  ∧ (let n := s.startStep
     let x := s.start
     let stuck := n = 0 ∧ x.tripWait = true
     let age := (s.lcount - x.since).toNat
     -- limits of the steps in local counts of 10 ns (R366)
     let limit := 100000 * ((if x.full = true then [100, 50, 200, 300, 2000, 1500, 20, 500, 200]
       else [100, 50, 200, 300, 60, 400, 20, 500, 200]).getD n 200)
     (x.running = false ∨ s.resets.held = true → exec .stepTimeLimit s = .next s ∧ ∀ r, exec (.selfTestStepEnd r) s = .next s)
     ∧ (stuck ∨ age ≤ limit → exec .stepTimeLimit s = .next s)
     ∧ (x.running = true → s.resets.held = false → (∀ k, x.levels.getD k 0 < 4) →
      -- past the limit the step has failed, whatever it reports
      (¬ stuck → limit < age → Next .stepTimeLimit s (fun t => FailedStep s t n 0xF0 0xFFFF (0, 0))
        ∧ ∀ r, Next (.selfTestStepEnd r) s fun t => FailedStep s t n 0xF0 0xFFFF (0, 0))
      ∧ (∀ d u a col, let c := Instr.selfTestStepEnd (.fail d u a col)
        -- S6 does not fail with the Sornal link UP (R367)
        (stuck ∨ age ≤ limit → n = 6 → s.linkUp 16 = true → exec c s = .next s)
        ∧ (stuck ∨ age ≤ limit → n ≠ 6 ∨ s.linkUp 16 = false →
          Next c s fun t => FailedStep s t n d.toNat u.toNat (a.toNat, col.toNat)))
      -- the places of S8 are bonded DRAM in service
      ∧ (∀ p, s.placesOk p = true → p.lmap % 64 = 0 ∧ ∀ z ∈ [p.lmap, p.lmap + 0x3FFF, 2 ^ 16 * p.wt.toNat, 2 ^ 16 * p.wt.toNat + 0x7FFFF,
          2 ^ 16 * p.drogue.toNat, 2 ^ 16 * p.drogue.toNat + 0x7FFFF], isBonded z = true ∧ s.inDram z = true)
      ∧ (∀ (m : List (Nat × Word)) (p : Places), let c := Instr.selfTestStepEnd (.pass m p)
        stuck ∨ age ≤ limit →
        (stuck ∨ (n = 6 ∧ s.trained = false) ∨ (n = 8 ∧ s.placesOk p = false) → exec c s = .next s)
        ∧ (¬ stuck → (n = 6 → s.trained = true) → (n = 8 → s.placesOk p = true) →
          -- a written record and a written image are checked (R371, R374)
          (∀ d, s.stepCheck n = some d → d < 256 → Next c s fun t => FailedStep s t n d 0xFFFF (0, 0))
          -- HOLD stops the start before S7 (R381)
          ∧ (n = 6 → x.holdNow = true → Next c s fun t => t.start.moored = true ∧ t.start.s6Passed = true ∧ t.startStep = 7
              ∧ t.startState = 3 ∧ t.startDetail = 0xF1 ∧ t.mem = s.mem ∧ ∀ k < 16, t.linkState k = 0)
          ∧ (s.stepCheck n = none → n ≤ 8 → ∀ e es, x.journal = e :: es → e.words.length = 9 → (n = 6 → x.holdNow = false) →
            -- the step's word says passed, or passed with a fallback, and the next step begins
            let next (t : State) : Prop := t.startStep = n + 1 ∧ t.startState = 0 ∧ t.start.since = s.lcount ∧ t.start.running = true
              ∧ (∃ e' es', t.start.journal = e' :: es' ∧ fld (wordAt e'.words n) 28 4 = n
                ∧ fld (wordAt e'.words n) 26 2 = (if x.levels.getD n 0 = 0 then 1 else 2)) ∧ t.cores = s.cores ∧ t.spool = s.spool
            (n = 0 → Next c s fun t => next t ∧ t.mgmt.pwrgd = true ∧ t.mem = s.mem)
            ∧ (n = 1 → Next c s fun t => next t ∧ t.diag = true ∧ t.mem = s.mem
                -- S2 and S3 run each present partition at divide by 8 and 0.80 V (R368)
                ∧ ∀ q < 8, t.partAbsent q = false → (t.part q).code = 0 ∧ (t.part q).rail = 800)
            ∧ (n = 2 → Next c s fun t => next t ∧ t.mem = s.mem ∧ regsKept s t [0x1400800])
            ∧ (n = 3 → ∀ k v, m = [(k, v)] → k < 1536 →
              ((∀ f ∈ x.narrow, f.1 ≠ k) → Next c s fun t => next t ∧ t.mem = s.mem
                ∧ t.reg (0x1340000 + 8 * k) = v &&& 0xCFCFCF ∧ t.reg (0x1340004 + 8 * k) = ~~~ (v &&& 0xCFCFCF))
              -- a fallback of S3 bypasses a column of an array that was whole
              ∧ (∀ a col, x.narrow = [(k, (a, col))] → a < 3 → col < 16 → fld v (8 * a + 6) 2 = 0 → Next c s fun t => next t
                ∧ fld (t.reg (0x1340000 + 8 * k)) (8 * a + 6) 2 = 1 ∧ fld (t.reg (0x1340000 + 8 * k)) (8 * a) 4 = col
                ∧ t.reg (0x1340004 + 8 * k) = ~~~ (t.reg (0x1340000 + 8 * k))))
            -- memory that is not kept reads zero (R366)
            ∧ (x.prevLists.length = 4 → ∀ i < 2, ∀ z, (n = 4 → Next c s fun t => next t ∧ (2 ^ 40 + 2 ^ 34 * i ≤ z → z < 2 ^ 40 + 2 ^ 34 * (i + 1) →
                t.byte z = if x.regionKept (2 + i) = true then s.byte z else 0))
              ∧ (n = 5 → Next c s fun t => next t ∧ (2 ^ 39 * i ≤ z → z < 2 ^ 39 * (i + 1) →
                t.byte z = if x.regionKept i = true then s.byte z else 0)))
            ∧ (n = 6 → Next c s fun t => next t ∧ t.start.s6Passed = true ∧ t.mem = s.mem
                ∧ ∃ e' es', t.start.journal = e' :: es' ∧ e'.ports = (List.range 16).map fun k => s.reg (0x1300020 + 0x100 * k))
            ∧ (n = 7 → Next c s fun t => next t
                ∧ (x.imageWritten = false → t.mem = s.mem ∧ t.start.svn = Config.factorySvn)
                ∧ (x.imageWritten = true → ∀ i < imageBody s.flashImage, t.byte (gondolaBase + i) = s.flashImage.getD (512 + i) 0))
            -- S8: the services are up, and the tables stand where they were placed, locked
            ∧ (n = 8 → Next c s fun t => t.up = true ∧ t.diag = false ∧ t.start.running = false ∧ t.err.ringReady = true
                ∧ t.reg 0x1320000 = p.wt.setWidth 32 ∧ t.reg 0x1320004 = p.nt.setWidth 32
                ∧ (t.reg 0x1320008).toNat = min p.ntSize.toNat 1048576 ∧ t.reg 0x132000C = p.gt.setWidth 32
                ∧ (t.reg 0x1320010).toNat = min p.gtSize.toNat 4096 ∧ t.reg 0x1320014 = p.ut.setWidth 32
                ∧ (t.reg 0x1320018).toNat = min p.utSize.toNat 65536 ∧ t.reg 0x132001C = p.drogue.setWidth 32 ∧ t.reg 0x132003C = 1
                ∧ t.effCap = min s.power.swForce s.trayCap ∧ t.start.mapGen = x.mapGen + 1 ∧ t.cores = s.cores ∧ t.spool = s.spool))))))

/-- RESTART, LOAD_IMAGE, PERSIST_IMAGE, LOAD_RECORD, CLEAR_FALLBACKS, HOLD and RELEASE, and the answers to their host reads. -/
def Sys2Proof.Claims.Mooring (s : State) : Prop :=
  let busy := ∃ p ∈ s.hreads, p.2 = some .moored
  let read := 4096 * ((s.reg 0x1400818).toNat / 4096) + 2 ^ 32 * (s.reg 0x140081C).toNat
  let len := (s.reg 0x1400820).toNat
  -- MOOR_CMD holds the code; MOOR_RESULT: 1 busy, 2 done, 3 refused, 4 invalid, 5 host read failed
  let noted (t : State) (cmd res : Nat) : Prop := (t.reg 0x1400810).toNat = cmd ∧ fld (t.reg 0x140080C) 0 8 = res
  let only (t : State) : Prop := regsKept s t [0x1400810, 0x1400814, 0x140080C] ∧ t = { s with setup := t.setup, start := t.start
                                                                                               resets := t.resets }
  let cmds : List (Nat × Instr) := [(1, Instr.restart), (2, .loadImage), (3, .persistImage), (4, .loadRecord), (5, .clearFallbacks),
    (6, .hold), (7, .release)]
  -- the command's value word drops a value that was pending in the block (R6)
  (∀ q, s.pendOf 0x1400000 = some q → ∀ x ∈ cmds, Next x.2 s fun t => t.pendOf 0x1400000 = none ∧ (t.reg 0x1400810).toNat = x.1
    ∧ (q.1 ≠ 0x1500000 → Reported t 0x640 3 7))
  ∧ (s.pendOf 0x1400000 = none → (busy → ∀ x ∈ [(1, Instr.restart), (2, .loadImage), (3, .persistImage), (4, .loadRecord), (5, .clearFallbacks), (6, .hold), (7, .release)],
      Next x.2 s fun t => noted t x.1 3 ∧ only t ∧ t.start = s.start ∧ t.resets = s.resets))
  ∧ (s.pendOf 0x1400000 = none → ¬ busy →
    (s.start.moored = false → ∀ x ∈ [(1, Instr.restart), (2, .loadImage), (3, .persistImage), (4, .loadRecord), (5, .clearFallbacks)],
      Next x.2 s fun t => noted t x.1 3 ∧ only t ∧ t.start = s.start ∧ t.resets = s.resets)
    ∧ (s.start.moored = true → Next .restart s fun t => noted t 1 2 ∧ only t ∧ t.start = s.start
        ∧ t.resets.chip = some (s.resets.chip.getD .mooredCommand))
    ∧ (s.start.moored = true → Next .clearFallbacks s fun t => noted t 5 2 ∧ t.resets.chip = some (s.resets.chip.getD .mooredCommand)
        ∧ t.start.levels = List.replicate 9 0 ∧ t.start.offline = [] ∧ t.start.outBmc = [] ∧ t.start.outLmc = [] ∧ t.start.narrow = []
        ∧ t.reg 0x1400808 = 0 ∧ t.start.flash = s.start.flash)
    ∧ Next .hold s (fun t => noted t 6 2 ∧ only t ∧ t.start = { s.start with hold := true } ∧ t.resets = s.resets)
    ∧ Next .release s (fun t => noted t 7 2 ∧ only t ∧ t.start = { s.start with hold := false } ∧ t.resets = s.resets)
    -- the commands that read host memory: LOAD_IMAGE where S7 failed, LOAD_RECORD once an identity was read
    ∧ (∀ (k : Nat) (c : Instr) (ok : Prop), (k, c, ok) ∈ [(2, Instr.loadImage, s.startStep = 7), (3, .persistImage, True),
          (4, .loadRecord, s.startStep ≠ 0 ∧ (s.startStep = 1 → s.startDetail ≠ 0x10))] → s.start.moored = true →
      (¬ ok → Next c s fun t => noted t k 3 ∧ only t ∧ t.start = s.start ∧ t.resets = s.resets)
      ∧ (ok → 0 < len → s.linkUp 16 = false → Next c s fun t => noted t k 5 ∧ only t ∧ t.resets = s.resets)
      ∧ (ok → 0 < len → s.linkUp 16 = true → Next c s fun t => noted t k 1 ∧ t.start = { s.start with hostBytes := [], moorJob := k }
          ∧ ∃ tag, Sparse.get (fun _ => none) s.hreads tag = none ∧ Sparse.get (fun _ => none) t.hreads tag = some .moored
            ∧ t.hostOut = s.hostOut ++ [.hread tag (BitVec.ofNat 64 read) (min 256 (4 * ((len + 3) / 4)))])))
  -- an answer to such a read
  ∧ (∀ tag (bs : List Byte), Sparse.get (fun _ => none) s.hreads tag = some .moored →
    let all := s.start.hostBytes ++ bs.take (len - s.start.hostBytes.length)
    (∀ st data, st ≠ .ok → Next (.hreadResponse tag st data) s fun t => fld (t.reg 0x140080C) 0 8 = 5 ∧ regsKept s t [0x140080C]
        ∧ Sparse.get (fun _ => none) t.hreads tag = none)
    ∧ (all.length < len → s.linkUp 16 = true → Next (.hreadResponse tag .ok bs) s fun t => t.start.hostBytes = all ∧ t.setup = s.setup
        ∧ ∃ k, Sparse.get (fun _ => none) t.hreads k = some .moored ∧ t.hostOut = s.hostOut ++
          [.hread k (BitVec.ofNat 64 (read + all.length)) (min 256 (4 * ((len - all.length + 3) / 4)))])
    ∧ (len ≤ all.length →
      (s.start.moorJob = 4 →
        (∀ d, recordCheck all s.start.counter1 (s.start.level 1) = some d → d < 256 → Next (.hreadResponse tag .ok bs) s fun t =>
          fld (t.reg 0x140080C) 0 8 = 4 ∧ fld (t.reg 0x140080C) 8 8 = d ∧ t.start.flash = s.start.flash ∧ t.resets = s.resets)
        ∧ (recordCheck all s.start.counter1 (s.start.level 1) = none → Next (.hreadResponse tag .ok bs) s fun t =>
          fld (t.reg 0x140080C) 0 8 = 2 ∧ t.start.recordWritten = true ∧ (t.start.counter1).toNat = num32 all 4
            ∧ t.resets.chip = some (s.resets.chip.getD .mooredCommand) ∧ t.flashBytes 0 all.length = all))
      ∧ (s.start.moorJob ≠ 4 → ∀ d, imageCheck all s.start.counter0 = some d → d < 256 → Next (.hreadResponse tag .ok bs) s fun t =>
          fld (t.reg 0x140080C) 0 8 = 4 ∧ fld (t.reg 0x140080C) 8 8 = d ∧ t.start.flash = s.start.flash ∧ t.resets = s.resets)
      ∧ (s.start.moorJob = 3 → imageCheck all s.start.counter0 = none → Next (.hreadResponse tag .ok bs) s fun t =>
          fld (t.reg 0x140080C) 0 8 = 2 ∧ t.start.imageWritten = true ∧ t.resets.chip = some (s.resets.chip.getD .mooredCommand)
            ∧ t.flashBytes 0x1000000 (512 + imageBody all) = all.take (512 + imageBody all))
      ∧ (s.start.moorJob = 2 → imageCheck all s.start.counter0 = none → Next (.hreadResponse tag .ok bs) s fun t =>
          fld (t.reg 0x140080C) 0 8 = 2 ∧ t.start.moored = false ∧ t.start.running = true ∧ t.start.hostImage = true
            ∧ (s.start.levels.getD 8 0 < 4 → t.startStep = 8)
            ∧ t.start.flash = s.start.flash ∧ ∀ i < imageBody all, t.byte (gondolaBase + i) = all.getD (512 + i) 0)))

/-- Resets, starts and the moored state. -/
def Obligations.ResetsAndStarts : Prop := ∀ s : State, Resetting s ∧ Starting s ∧ Mooring s

/-! ## SPDM (R383 to R385) and the management port (spec/20, R429 to R438) -/

/-- One message has gone out, and nothing but the links, the SPDM connections, LAST_RESULT and the free-value counter may have changed. -/
def Sys2Proof.Claims.Says (s t : State) (m : HostMsg) : Prop :=
  t.hostOut = s.hostOut ++ [m] ∧ t = { s with hostOut := t.hostOut, links := t.links, spdm := t.spdm, freeCtr := t.freeCtr }

/-- The SPDM requests: what silences a row, what it refuses, and what it answers. -/
def Sys2Proof.Claims.Responds (s : State) : Prop :=
  ∀ (tr : Transport) (req : List Byte),
    let code := req.getD 1 0
    let at' (i : Nat) : Nat := (req.getD i 0).toNat
    let conn := s.conn tr
    let tells (c : Instr) (bs : List Byte) : Prop := Next c s fun t => Says s t (.spdm tr bs) ∧ t.spdm = s.spdm
    let chain := s.certChain
    -- who hears: a module with power and clocks, over the link, or over a bus that is not stuck
    let hears := s.powered = true ∧ s.standby = false ∧ s.mgmt.stopped = false
      ∧ (tr = .sideband → s.linkUp 16 = true) ∧ (tr = .smbus → s.busStuck = false)
    (∀ x ∈ [(Instr.getVersion tr req, (0x84 : Byte), 4, true), (.getCapabilities tr req, 0xE1, 4, conn.versioned),
        (.negotiateAlgorithms tr req, 0xE3, 4, conn.capable), (.getDigests tr req, 0x81, 4, conn.negotiated),
        (.getCertificate tr req, 0x82, 8, conn.negotiated), (.challenge tr req, 0x83, 36, conn.negotiated),
        (.getMeasurements tr req, 0xE0, if at' 2 % 2 = 1 then 37 else 4, conn.negotiated)],
      (¬ hears ∨ code ≠ x.2.1 → exec x.1 s = .next s)
      ∧ (hears → code = x.2.1 → s.start.s1Passed = false → tells x.1 [0x12, 0x7F, 5, 0])
      ∧ (hears → code = x.2.1 → s.start.s1Passed = true → req.length < x.2.2.1 → tells x.1 [0x12, 0x7F, 1, 0])
      ∧ (hears → code = x.2.1 → s.start.s1Passed = true → x.2.2.1 ≤ req.length → x.2.2.2 = false → tells x.1 [0x12, 0x7F, 4, 0]))
    ∧ (code ∈ [0x84, 0xE1, 0xE3, 0x81, 0x82, 0x83, 0xE0] ∨ ¬ hears → exec (.unsupportedRequest tr req) s = .next s)
    ∧ (hears → code ∉ [0x84, 0xE1, 0xE3, 0x81, 0x82, 0x83, 0xE0] →
        tells (.unsupportedRequest tr req) [0x12, 0x7F, if s.start.s1Passed = true then 7 else 5, 0])
    ∧ (hears → s.start.s1Passed = true →
      let joins (c : Instr) (bs : List Byte) (x : Spdm) : Prop := Next c s fun t => Says s t (.spdm tr bs) ∧ t.conn tr = x
        ∧ ∀ u, u ≠ tr → t.conn u = s.conn u
      (code = 0x84 → 4 ≤ req.length → joins (.getVersion tr req) [0x10, 4, 0, 0, 0, 1, 0, 0x12]
        { versioned := true, capable := false, negotiated := false })
      ∧ (code = 0xE1 → 4 ≤ req.length → conn.versioned = true → ∃ sizes : List Byte, sizes.length = 8
          ∧ joins (.getCapabilities tr req) ([0x12, 0x61, 0, 0, 0, 20, 0, 0, 0x16, 0, 0, 0] ++ sizes) { conn with capable := true })
      ∧ (code = 0xE3 → 4 ≤ req.length → conn.capable = true → joins (.negotiateAlgorithms tr req)
          ([0x12, 0x63, 0, 0, 36, 0, 1, 0, 4, 0, 0, 0, 0x80, 0, 0, 0, 2, 0, 0, 0] ++ List.replicate 16 0) { conn with negotiated := true })
      ∧ (conn.negotiated = true →
        (code = 0x81 → 4 ≤ req.length → tells (.getDigests tr req) ([0x12, 1, 0, 1] ++ sha chain))
        ∧ (code = 0x82 → 8 ≤ req.length →
          let off := at' 4 + 256 * at' 5
          let n := min (min (at' 6 + 256 * at' 7) 1024) (chain.length - off)
          (at' 2 % 16 ≠ 0 ∨ chain.length ≤ off → tells (.getCertificate tr req) [0x12, 0x7F, 1, 0])
          ∧ (at' 2 % 16 = 0 → off < chain.length → tells (.getCertificate tr req)
              ([0x12, 2, 0, 0] ++ bytesLE 2 n ++ bytesLE 2 (chain.length - off - n) ++ (chain.drop off).take n)))
        ∧ (code = 0x83 → 36 ≤ req.length →
          (at' 2 ≠ 0 ∨ (at' 3 ≠ 0 ∧ at' 3 ≠ 0xFF) → tells (.challenge tr req) [0x12, 0x7F, 1, 0])
          ∧ (at' 2 = 0 → at' 3 = 0 ∨ at' 3 = 0xFF → Next (.challenge tr req) s fun t => ∃ nonce sig : List Byte,
              nonce.length = 32 ∧ sig.length = 96 ∧ t.spdm = s.spdm ∧ Says s t (.spdm tr ([0x12, 3, 0, 1] ++ sha chain ++ nonce
                ++ (if at' 3 = 0 then [] else sha ((s.measBlocks [1, 2, 3, 4, 5]).flatMap id)) ++ [0, 0] ++ sig))))
        ∧ (code = 0xE0 → (if at' 2 % 2 = 1 then 37 else 4) ≤ req.length →
          let op := at' 3
          let lists (total : Byte) (blocks : List (List Byte)) : Prop := Next (.getMeasurements tr req) s fun t =>
            ∃ nonce sig : List Byte, nonce.length = 32 ∧ sig.length = (if at' 2 % 2 = 1 then 96 else 0) ∧ t.spdm = s.spdm
              ∧ Says s t (.spdm tr ([0x12, 0x60, total, 0, BitVec.ofNat 8 blocks.length] ++ bytesLE 3 (blocks.flatMap id).length
                ++ blocks.flatMap id ++ nonce ++ [0, 0] ++ sig))
          (op = 0 → lists 5 [])
          ∧ (op = 0xFF → lists 0 (s.measBlocks [1, 2, 3, 4, 5]))
          ∧ (5 < op → op < 0xFF → tells (.getMeasurements tr req) [0x12, 0x7F, 1, 0])
          ∧ (∀ v, 1 ≤ op → op ≤ 5 → s.measurement op = some v → lists 0 [measBlock op v])
          ∧ (1 ≤ op → op ≤ 5 → s.measurement op = none →
              tells (.getMeasurements tr req) [0x12, 0x7F, if s.start.running = true then 3 else 1, 0]))))
    ∧ (¬ hears → exec (.vendorDefinedMessageSupport tr) s = .next s)
    ∧ (hears → Next (.vendorDefinedMessageSupport tr) s fun t => Says s t
        (match tr with
          | .sideband => .sideband (bytesLE 4 Config.ianaNumber.toNat)
          | .smbus => .mgmt .smbus (bytesLE 4 Config.ianaNumber.toNat)))

/-- What goes out on a path: on the sideband the command code and the data (R437). -/
def Sys2Proof.Claims.onPath (path : MgmtPath) (cmd : Byte) (bs : List Byte) : HostMsg :=
  .mgmt path (if path = .sideband then cmd :: bs else bs)

/-- Write `cmd` has been answered with this code: LAST_RESULT holds it, and on the sideband it is the answer. `u` is the state with
what the write did. -/
def Sys2Proof.Claims.Replied (u t : State) (path : MgmtPath) (cmd : Byte) (code : Nat) : Prop :=
  t.mgmt = { u.mgmt with lastResult := code }
    ∧ t.hostOut = (match path with | .smbus => u.hostOut | .sideband => u.hostOut ++ [onPath .sideband cmd [BitVec.ofNat 8 code]])
    ∧ t = { u with mgmt := t.mgmt, hostOut := t.hostOut, links := t.links }

/-- The management commands, the bus, and the pins. -/
def Sys2Proof.Claims.Managed (s : State) : Prop :=
  (∀ (path : MgmtPath) (vin iin : BitVec 16),
    let reaches := s.powered = true ∧ (path = .smbus → s.busStuck = false) ∧ (path = .sideband → s.linkUp 16 = true ∧ s.busStuck = true)
    let tooEarly := s.powered = true ∧ path = .sideband ∧ s.linkUp 16 = true ∧ s.busStuck = false
    let status := setFld (setFld (setFld (setFld s.mgmt.modStatus 1 1 (if s.start.moored = true then 1 else 0)) 2 1
      (if s.up = true then 1 else 0)) 3 1 (fld (s.kreg 8) 1 1)) 8 1 (if s.standby = true then 1 else 0)
    (∀ x ∈ [(Instr.progress path, (1 : Byte), bytesLE 4 (s.kreg 0).toNat), (.modStatus path, 2, bytesLE 4 status.toNat),
        (.lastResult path, 3, [BitVec.ofNat 8 s.mgmt.lastResult]),
        (.capRead path, 0x11, bytesLE 2 s.trayCap ++ bytesLE 2 s.swCap ++ bytesLE 2 s.effCap),
        (.powerRead path vin iin, 0x20, bytesLE 2 vin.toNat ++ bytesLE 2 iin.toNat ++ bytesLE 2 (fld (s.reg 0x1500018) 16 11)
          ++ [BitVec.ofNat 8 s.mgmt.hottest, 0]),
        (.senseMap path, 0x21, bytesLE 2 s.mgmt.sense.toNat),
        (.serial path, 0x40, if s.start.s1Passed = true then s.recordBytes 8 16 else List.replicate 16 0)],
      (reaches → Next x.1 s fun t => Says s t (onPath path x.2.1 x.2.2) ∧ t.mgmt = s.mgmt)
      -- the sideband while the bus is in force (log 51)
      ∧ (tooEarly → Next x.1 s fun t => Says s t (onPath .sideband x.2.1 [3]))
      ∧ (¬ reaches → ¬ tooEarly → exec x.1 s = .next s))
    ∧ (∀ (data : List Byte) (pec : Bool),
      let stands := path = .smbus → pec = true
      let w := natLE (data.take 2)
      let cap := Instr.trayCap path data pec
      let stby := Instr.standby path data pec
      let clear := Instr.alertClear path data pec
      (data.length ≠ 4 → exec cap s = .next s ∧ exec clear s = .next s)
      ∧ (data.length ≠ 2 → exec stby s = .next s)
      ∧ (¬ stands ∨ (¬ reaches ∧ ¬ tooEarly) → exec cap s = .next s ∧ exec stby s = .next s ∧ exec clear s = .next s)
      ∧ (data.length = 4 → tooEarly → stands → Next cap s (fun t => Says s t (onPath .sideband 0x10 [3]))
          ∧ Next clear s fun t => Says s t (onPath .sideband 0x31 [3]))
      ∧ (data.length = 2 → tooEarly → stands → Next stby s fun t => Says s t (onPath .sideband 0x30 [3]))
      ∧ (stands → reaches → data.length = 4 →
        (natLE (data.drop 2) ≠ 65535 - w → Next cap s fun t => t.mgmt.lastResult = 1 ∧ bitAt t.mgmt.modStatus 10 = true
          ∧ Reported t 0x658 3 4 ∧ raised s t 0x150018C 1 ∧ (soundMem s → regsKept s t [0x150018C]) ∧ t.power = s.power)
        ∧ (natLE (data.drop 2) = 65535 - w → w < 500 ∨ 1500 < w → Next cap s fun t => t.mgmt.lastResult = 2
          ∧ bitAt t.mgmt.modStatus 10 = true ∧ Reported t 0x648 7 5 ∧ raised s t 0x150018C 1 ∧ (soundMem s → regsKept s t [0x150018C]) ∧ t.power = s.power)
        ∧ (natLE (data.drop 2) = 65535 - w → 500 ≤ w → w ≤ 1500 → Next cap s fun t => ∃ u, Replied u t path 0x10 0
          ∧ u.trayCap = w ∧ u.effCap = min s.power.swForce w ∧ regsKept s u [0x1500008, 0x150000C] ∧ u = { s with setup := u.setup })
        -- SENSE_OPEN stays while a pair is open
        ∧ (let m : Word := BitVec.ofNat 32 (natLE data) &&& (if s.mgmt.sense = 0 then 0x630 else 0x610)
           Next clear s fun t => Replied { s with mgmt := { s.mgmt with modStatus := s.mgmt.modStatus &&& ~~~ m } } t path 0x31 0))
      ∧ (stands → reaches → data.length = 2 → ∀ a, a = data.getD 0 0 →
        (data.getD 1 0 ≠ ~~~ a → Next stby s fun t => Replied s t path 0x30 1)
        ∧ (data.getD 1 0 = ~~~ a → a ≠ 0x5A → Next stby s fun t => Replied s t path 0x30 2)
        ∧ (data.getD 1 0 = ~~~ a → a = 0x5A →
          (s.start.moored = true ∨ (∃ c, 0 < c ∧ c < 64 ∧ s.ctxWork c = true) → Next stby s fun t => Replied s t path 0x30 3)
          ∧ (s.start.moored = false → (∀ c, 0 < c → c < 64 → s.ctxWork c = false) →
            (s.standby = true → Next stby s fun t => Replied s t path 0x30 0)
            -- everything outside the keeper loses its power; DRAM in service keeps its contents in self-refresh
            ∧ (s.standby = false → Next stby s fun t => t.standby = true ∧ t.mgmt.lastResult = 0 ∧ t.up = false ∧ t.start.running = false
              ∧ t.cores = [] ∧ t.rings = [] ∧ t.spool = [] ∧ (∀ z, isDram z = true → t.byte z = s.byte z)
              ∧ (∀ o, o ∉ [0x1500000, 0x1500004, 0x1500008] → t.reg o = regReset o) ∧ t.swCap = s.swCap ∧ t.keeper = s.keeper
              ∧ (s.bondedUp = true → t.start.selfB = true) ∧ (s.lpUp = true → t.start.selfL = true)))))))
  -- the bus and the pins
  ∧ (s.powered = false → ∀ c ∈ [Instr.mgmtBusStuck, .mgmtBusRestored, .resetPin, .senseOpen 0, .senseRestored 0, .refclkLoss, .inputTurnOff],
      exec c s = .next s)
  ∧ exec .smbclkTimeout s = .next s
  ∧ (s.powered = true →
    let word (c : Instr) (w : Word) : Prop := Next c s fun t => t = { s with mgmt := { s.mgmt with modStatus := w } }
    word .mgmtBusStuck (s.mgmt.modStatus ||| 0x80) ∧ word .mgmtBusRestored (s.mgmt.modStatus &&& ~~~ 0x80#32)
    ∧ (Next .resetPin s fun t =>
        t.resets = { s.resets with chip := some (s.resets.chip.getD (if s.standby = true then .standbyExit else .trayReset)) }
        ∧ t.mgmt = { s.mgmt with resetLow := true } ∧ t = { s with mgmt := t.mgmt, resets := t.resets })
    ∧ (∀ pair, (10 ≤ pair → exec (.senseOpen pair) s = .next s ∧ exec (.senseRestored pair) s = .next s)
      ∧ (pair < 10 → (Next (.senseOpen pair) s fun t => t.mgmt = { s.mgmt with
              sense := s.mgmt.sense ||| BitVec.ofNat 16 (2 ^ pair), modStatus := s.mgmt.modStatus ||| 0x20 }
            ∧ t = { s with mgmt := t.mgmt })
        ∧ Next (.senseRestored pair) s fun t => t = { s with mgmt := { s.mgmt with sense := s.mgmt.sense &&& ~~~ BitVec.ofNat 16 (2 ^ pair) } }))
    ∧ (s.standby = true ∨ s.mgmt.stopped = true ∨ s.mgmt.pwrgd = false → exec .refclkLoss s = .next s)
    ∧ (s.standby = false → s.mgmt.stopped = false → s.mgmt.pwrgd = true → Next .refclkLoss s fun t =>
        t.resets.cycle = true ∧ t.mgmt.stopped = true ∧ bitAt t.mgmt.modStatus 6 = true ∧ t.up = false ∧ t.start.running = false
          ∧ t.cores = [] ∧ t.rings = [] ∧ t.lcount = s.lcount ∧ t.startSeq = s.startSeq ∧ ∀ z, isDram z = true → t.byte z = s.byte z)
    -- without the input only flash keeps its contents
    ∧ (Next .inputTurnOff s fun t => t.powered = false ∧ t.mem = [] ∧ t.lost = [] ∧ t.cores = [] ∧ t.setup = [] ∧ t.keeper = [] ∧ t.spool = []
        ∧ (s.moorBusy = false ∨ s.start.moorJob ≠ 3 → t.start.flash = s.start.flash)
        ∧ (s.moorBusy = true → s.start.moorJob = 3 → ∀ k, 0x1000000 ≤ k → Sparse.get (fun _ => (0 : Byte)) t.start.flash k = 0)
        ∧ t.start.journal = s.start.journal ∧ t.start.counter0 = s.start.counter0
        ∧ t.start.counter1 = s.start.counter1 ∧ t.pending = s.pending ∧ t.hostOut = s.hostOut))
  ∧ (Next .resetPinRelease s fun t => t.mgmt = { s.mgmt with resetLow := false } ∧ t.resets = { s.resets with held := false }
      ∧ t.start = (if s.resets.held = true then { s.start with since := s.lcount } else s.start)
      ∧ t = { s with mgmt := t.mgmt, resets := t.resets, start := t.start })

/-- The SPDM responder and the management port. -/
def Obligations.Management : Prop := ∀ s : State, Responds s ∧ Managed s
end

