-- ==== Sys2Proof/Laws/Sparse.lean ====
section
/-! SUPPORT. Laws of sparse maps: read after write, and the canonical form is kept by every update. -/
namespace Sys2Proof.Machine

variable {α : Type}

@[simp] theorem Sparse.get_nil (d : Nat → α) (k : Nat) : Sparse.get d [] k = d k := rfl

@[simp] theorem Sparse.wf_nil [DecidableEq α] (d : Nat → α) : Sparse.wf d [] = true := rfl

/-! ## Reading after an update, canonical map or not -/

theorem Sparse.get_insert (d : Nat → α) (m : Sparse α) (k j : Nat) (v : α) :
    Sparse.get d (Sparse.insert m k v) j = if j = k then v else Sparse.get d m j := by
  induction m with
  | nil => simp [Sparse.insert, Sparse.get]
  | cons p m ih =>
    simp only [Sparse.insert]
    split
    · simp [Sparse.get]
    · split
      · rename_i h
        subst h
        simp only [Sparse.get]
        split <;> rfl
      · simp only [Sparse.get, ih]
        split <;> split <;> simp_all

theorem Sparse.get_forget (d : Nat → α) (m : Sparse α) (p : Nat → Bool) (j : Nat) :
    Sparse.get d (Sparse.forget p m) j = if p j then d j else Sparse.get d m j := by
  induction m with
  | nil => simp [Sparse.forget]
  | cons q m ih =>
    simp only [Sparse.forget] at ih ⊢
    simp only [List.filter_cons]
    by_cases hj : j = q.1
    · subst hj
      cases hp : p q.1 <;> simp [Sparse.get, hp, ih]
    · cases hp : p q.1 <;> simp [Sparse.get, hj, ih]

theorem Sparse.get_set [DecidableEq α] (d : Nat → α) (m : Sparse α) (k j : Nat) (v : α) :
    Sparse.get d (Sparse.set d m k v) j = if j = k then v else Sparse.get d m j := by
  unfold Sparse.set
  split
  · rename_i h
    rw [Sparse.get_forget]
    by_cases hj : j = k
    · subst hj; simp [h]
    · simp [hj]
  · exact Sparse.get_insert d m k j v

@[simp] theorem Sparse.get_set_same [DecidableEq α] (d : Nat → α) (m : Sparse α) (k : Nat) (v : α) :
    Sparse.get d (Sparse.set d m k v) k = v := by
  rw [Sparse.get_set, if_pos rfl]

theorem Sparse.get_set_other [DecidableEq α] (d : Nat → α) (m : Sparse α) {k j : Nat} (hj : j ≠ k) (v : α) :
    Sparse.get d (Sparse.set d m k v) j = Sparse.get d m j := by
  rw [Sparse.get_set, if_neg hj]

theorem Sparse.get_modify [DecidableEq α] (d : Nat → α) (m : Sparse α) (k j : Nat) (f : α → α) :
    Sparse.get d (Sparse.modify d m k f) j = if j = k then f (Sparse.get d m k) else Sparse.get d m j :=
  Sparse.get_set d m k j _

/-! ## The canonical form -/

/-- A weaker lower bound still holds. -/
theorem Sparse.wfFrom_mono [DecidableEq α] {d : Nat → α} {m : Sparse α} {lo lo' : Nat} (hl : lo' ≤ lo)
    (h : Sparse.wfFrom d lo m = true) : Sparse.wfFrom d lo' m = true := by
  cases m with
  | nil => rfl
  | cons p m =>
    simp only [Sparse.wfFrom, Bool.and_eq_true, decide_eq_true_eq] at h ⊢
    exact ⟨⟨le_trans hl h.1.1, h.1.2⟩, h.2⟩

theorem Sparse.wfFrom_insert [DecidableEq α] {d : Nat → α} {m : Sparse α} {lo k : Nat} {v : α} (hk : lo ≤ k)
    (hv : v ≠ d k) (h : Sparse.wfFrom d lo m = true) : Sparse.wfFrom d lo (Sparse.insert m k v) = true := by
  induction m generalizing lo with
  | nil => simp [Sparse.insert, Sparse.wfFrom, hk, hv]
  | cons p m ih =>
    obtain ⟨i, w⟩ := p
    simp only [Sparse.wfFrom, Bool.and_eq_true, decide_eq_true_eq, bne_iff_ne] at h
    simp only [Sparse.insert]
    split
    · simp [Sparse.wfFrom, hk, hv, h.1.2, h.2]
      omega
    · split
      · rename_i h1 h2
        subst h2
        simp_all [Sparse.wfFrom]
      · simp only [Sparse.wfFrom, Bool.and_eq_true, decide_eq_true_eq, bne_iff_ne]
        exact ⟨h.1, ih (by omega) h.2⟩

theorem Sparse.wfFrom_filter [DecidableEq α] {d : Nat → α} {m : Sparse α} {lo : Nat} (p : Nat × α → Bool)
    (h : Sparse.wfFrom d lo m = true) : Sparse.wfFrom d lo (m.filter p) = true := by
  induction m generalizing lo with
  | nil => rfl
  | cons q m ih =>
    simp only [Sparse.wfFrom, Bool.and_eq_true, decide_eq_true_eq, bne_iff_ne] at h
    simp only [List.filter_cons]
    split
    · simp only [Sparse.wfFrom, Bool.and_eq_true, decide_eq_true_eq, bne_iff_ne]
      exact ⟨h.1, ih h.2⟩
    · exact ih (Sparse.wfFrom_mono (by omega) h.2)

theorem Sparse.wf_filter [DecidableEq α] {d : Nat → α} {m : Sparse α} (p : Nat × α → Bool) (h : Sparse.wf d m = true) :
    Sparse.wf d (m.filter p) = true :=
  Sparse.wfFrom_filter p h

theorem Sparse.wf_forget [DecidableEq α] {d : Nat → α} {m : Sparse α} (p : Nat → Bool) (h : Sparse.wf d m = true) :
    Sparse.wf d (Sparse.forget p m) = true :=
  Sparse.wfFrom_filter _ h

theorem Sparse.wf_set [DecidableEq α] {d : Nat → α} {m : Sparse α} (k : Nat) (v : α) (h : Sparse.wf d m = true) :
    Sparse.wf d (Sparse.set d m k v) = true := by
  unfold Sparse.set
  split
  · exact Sparse.wf_forget _ h
  · rename_i hv
    exact Sparse.wfFrom_insert (Nat.zero_le k) hv h

theorem Sparse.wf_modify [DecidableEq α] {d : Nat → α} {m : Sparse α} (k : Nat) (f : α → α) (h : Sparse.wf d m = true) :
    Sparse.wf d (Sparse.modify d m k f) = true :=
  Sparse.wf_set k _ h

end Sys2Proof.Machine
end

