-- ==== Sys2Proof/Laws/State.lean ====
section
/-! SUPPORT. What each update of one part of the state leaves alone: one lemma per update and field. -/
namespace Sys2Proof.Machine

/-! ## State.setReg -/

@[simp] theorem State.setReg_pending (s : State) (o : Nat) (v : Word) : (s.setReg o v).pending = s.pending := rfl
@[simp] theorem State.setReg_freeCtr (s : State) (o : Nat) (v : Word) : (s.setReg o v).freeCtr = s.freeCtr := rfl
@[simp] theorem State.setReg_powered (s : State) (o : Nat) (v : Word) : (s.setReg o v).powered = s.powered := rfl
@[simp] theorem State.setReg_lcount (s : State) (o : Nat) (v : Word) : (s.setReg o v).lcount = s.lcount := rfl
@[simp] theorem State.setReg_lcLatch (s : State) (o : Nat) (v : Word) : (s.setReg o v).lcLatch = s.lcLatch := rfl
@[simp] theorem State.setReg_late (s : State) (o : Nat) (v : Word) : (s.setReg o v).late = s.late := rfl
@[simp] theorem State.setReg_progress (s : State) (o : Nat) (v : Word) : (s.setReg o v).progress = s.progress := rfl
@[simp] theorem State.setReg_mem (s : State) (o : Nat) (v : Word) : (s.setReg o v).mem = s.mem := rfl
@[simp] theorem State.setReg_lost (s : State) (o : Nat) (v : Word) : (s.setReg o v).lost = s.lost := rfl
@[simp] theorem State.setReg_poison (s : State) (o : Nat) (v : Word) : (s.setReg o v).poison = s.poison := rfl
@[simp] theorem State.setReg_defects (s : State) (o : Nat) (v : Word) : (s.setReg o v).defects = s.defects := rfl
@[simp] theorem State.setReg_crcOff (s : State) (o : Nat) (v : Word) : (s.setReg o v).crcOff = s.crcOff := rfl
@[simp] theorem State.setReg_sramBad (s : State) (o : Nat) (v : Word) : (s.setReg o v).sramBad = s.sramBad := rfl
@[simp] theorem State.setReg_eccFixed (s : State) (o : Nat) (v : Word) : (s.setReg o v).eccFixed = s.eccFixed := rfl
@[simp] theorem State.setReg_scaleBad (s : State) (o : Nat) (v : Word) : (s.setReg o v).scaleBad = s.scaleBad := rfl
@[simp] theorem State.setReg_fcacheBad (s : State) (o : Nat) (v : Word) : (s.setReg o v).fcacheBad = s.fcacheBad := rfl
@[simp] theorem State.setReg_wcacheBad (s : State) (o : Nat) (v : Word) : (s.setReg o v).wcacheBad = s.wcacheBad := rfl
@[simp] theorem State.setReg_scrub (s : State) (o : Nat) (v : Word) : (s.setReg o v).scrub = s.scrub := rfl
@[simp] theorem State.setReg_retrained (s : State) (o : Nat) (v : Word) : (s.setReg o v).retrained = s.retrained := rfl
@[simp] theorem State.setReg_spool (s : State) (o : Nat) (v : Word) : (s.setReg o v).spool = s.spool := rfl
@[simp] theorem State.setReg_spoolChg (s : State) (o : Nat) (v : Word) : (s.setReg o v).spoolChg = s.spoolChg := rfl
@[simp] theorem State.setReg_waiters (s : State) (o : Nat) (v : Word) : (s.setReg o v).waiters = s.waiters := rfl
@[simp] theorem State.setReg_keeper (s : State) (o : Nat) (v : Word) : (s.setReg o v).keeper = s.keeper := rfl
@[simp] theorem State.setReg_rwcPend (s : State) (o : Nat) (v : Word) : (s.setReg o v).rwcPend = s.rwcPend := rfl
@[simp] theorem State.setReg_invQueue (s : State) (o : Nat) (v : Word) : (s.setReg o v).invQueue = s.invQueue := rfl
@[simp] theorem State.setReg_wcache (s : State) (o : Nat) (v : Word) : (s.setReg o v).wcache = s.wcache := rfl
@[simp] theorem State.setReg_fcache (s : State) (o : Nat) (v : Word) : (s.setReg o v).fcache = s.fcache := rfl
@[simp] theorem State.setReg_err (s : State) (o : Nat) (v : Word) : (s.setReg o v).err = s.err := rfl
@[simp] theorem State.setReg_cores (s : State) (o : Nat) (v : Word) : (s.setReg o v).cores = s.cores := rfl
@[simp] theorem State.setReg_launches (s : State) (o : Nat) (v : Word) : (s.setReg o v).launches = s.launches := rfl
@[simp] theorem State.setReg_nextLaunch (s : State) (o : Nat) (v : Word) : (s.setReg o v).nextLaunch = s.nextLaunch := rfl
@[simp] theorem State.setReg_reqs (s : State) (o : Nat) (v : Word) : (s.setReg o v).reqs = s.reqs := rfl
@[simp] theorem State.setReg_hreads (s : State) (o : Nat) (v : Word) : (s.setReg o v).hreads = s.hreads := rfl
@[simp] theorem State.setReg_hostOut (s : State) (o : Nat) (v : Word) : (s.setReg o v).hostOut = s.hostOut := rfl
@[simp] theorem State.setReg_fabOut (s : State) (o : Nat) (v : Word) : (s.setReg o v).fabOut = s.fabOut := rfl
@[simp] theorem State.setReg_cut (s : State) (o : Nat) (v : Word) : (s.setReg o v).cut = s.cut := rfl
@[simp] theorem State.setReg_cutAll (s : State) (o : Nat) (v : Word) : (s.setReg o v).cutAll = s.cutAll := rfl
@[simp] theorem State.setReg_tables (s : State) (o : Nat) (v : Word) : (s.setReg o v).tables = s.tables := rfl
@[simp] theorem State.setReg_rings (s : State) (o : Nat) (v : Word) : (s.setReg o v).rings = s.rings := rfl
@[simp] theorem State.setReg_vectors (s : State) (o : Nat) (v : Word) : (s.setReg o v).vectors = s.vectors := rfl
@[simp] theorem State.setReg_links (s : State) (o : Nat) (v : Word) : (s.setReg o v).links = s.links := rfl
@[simp] theorem State.setReg_svc (s : State) (o : Nat) (v : Word) : (s.setReg o v).svc = s.svc := rfl
@[simp] theorem State.setReg_power (s : State) (o : Nat) (v : Word) : (s.setReg o v).power = s.power := rfl
@[simp] theorem State.setReg_start (s : State) (o : Nat) (v : Word) : (s.setReg o v).start = s.start := rfl
@[simp] theorem State.setReg_spdm (s : State) (o : Nat) (v : Word) : (s.setReg o v).spdm = s.spdm := rfl
@[simp] theorem State.setReg_resets (s : State) (o : Nat) (v : Word) : (s.setReg o v).resets = s.resets := rfl
@[simp] theorem State.setReg_mgmt (s : State) (o : Nat) (v : Word) : (s.setReg o v).mgmt = s.mgmt := rfl
@[simp] theorem State.setReg_standby (s : State) (o : Nat) (v : Word) : (s.setReg o v).standby = s.standby := rfl

/-! ## State.setRegFld -/

@[simp] theorem State.setRegFld_pending (s : State) (o lo len v : Nat) : (s.setRegFld o lo len v).pending = s.pending := rfl
@[simp] theorem State.setRegFld_freeCtr (s : State) (o lo len v : Nat) : (s.setRegFld o lo len v).freeCtr = s.freeCtr := rfl
@[simp] theorem State.setRegFld_powered (s : State) (o lo len v : Nat) : (s.setRegFld o lo len v).powered = s.powered := rfl
@[simp] theorem State.setRegFld_lcount (s : State) (o lo len v : Nat) : (s.setRegFld o lo len v).lcount = s.lcount := rfl
@[simp] theorem State.setRegFld_lcLatch (s : State) (o lo len v : Nat) : (s.setRegFld o lo len v).lcLatch = s.lcLatch := rfl
@[simp] theorem State.setRegFld_late (s : State) (o lo len v : Nat) : (s.setRegFld o lo len v).late = s.late := rfl
@[simp] theorem State.setRegFld_progress (s : State) (o lo len v : Nat) : (s.setRegFld o lo len v).progress = s.progress := rfl
@[simp] theorem State.setRegFld_mem (s : State) (o lo len v : Nat) : (s.setRegFld o lo len v).mem = s.mem := rfl
@[simp] theorem State.setRegFld_lost (s : State) (o lo len v : Nat) : (s.setRegFld o lo len v).lost = s.lost := rfl
@[simp] theorem State.setRegFld_poison (s : State) (o lo len v : Nat) : (s.setRegFld o lo len v).poison = s.poison := rfl
@[simp] theorem State.setRegFld_defects (s : State) (o lo len v : Nat) : (s.setRegFld o lo len v).defects = s.defects := rfl
@[simp] theorem State.setRegFld_crcOff (s : State) (o lo len v : Nat) : (s.setRegFld o lo len v).crcOff = s.crcOff := rfl
@[simp] theorem State.setRegFld_sramBad (s : State) (o lo len v : Nat) : (s.setRegFld o lo len v).sramBad = s.sramBad := rfl
@[simp] theorem State.setRegFld_eccFixed (s : State) (o lo len v : Nat) : (s.setRegFld o lo len v).eccFixed = s.eccFixed := rfl
@[simp] theorem State.setRegFld_scaleBad (s : State) (o lo len v : Nat) : (s.setRegFld o lo len v).scaleBad = s.scaleBad := rfl
@[simp] theorem State.setRegFld_fcacheBad (s : State) (o lo len v : Nat) : (s.setRegFld o lo len v).fcacheBad = s.fcacheBad := rfl
@[simp] theorem State.setRegFld_wcacheBad (s : State) (o lo len v : Nat) : (s.setRegFld o lo len v).wcacheBad = s.wcacheBad := rfl
@[simp] theorem State.setRegFld_scrub (s : State) (o lo len v : Nat) : (s.setRegFld o lo len v).scrub = s.scrub := rfl
@[simp] theorem State.setRegFld_retrained (s : State) (o lo len v : Nat) : (s.setRegFld o lo len v).retrained = s.retrained := rfl
@[simp] theorem State.setRegFld_spool (s : State) (o lo len v : Nat) : (s.setRegFld o lo len v).spool = s.spool := rfl
@[simp] theorem State.setRegFld_spoolChg (s : State) (o lo len v : Nat) : (s.setRegFld o lo len v).spoolChg = s.spoolChg := rfl
@[simp] theorem State.setRegFld_waiters (s : State) (o lo len v : Nat) : (s.setRegFld o lo len v).waiters = s.waiters := rfl
@[simp] theorem State.setRegFld_keeper (s : State) (o lo len v : Nat) : (s.setRegFld o lo len v).keeper = s.keeper := rfl
@[simp] theorem State.setRegFld_rwcPend (s : State) (o lo len v : Nat) : (s.setRegFld o lo len v).rwcPend = s.rwcPend := rfl
@[simp] theorem State.setRegFld_invQueue (s : State) (o lo len v : Nat) : (s.setRegFld o lo len v).invQueue = s.invQueue := rfl
@[simp] theorem State.setRegFld_wcache (s : State) (o lo len v : Nat) : (s.setRegFld o lo len v).wcache = s.wcache := rfl
@[simp] theorem State.setRegFld_fcache (s : State) (o lo len v : Nat) : (s.setRegFld o lo len v).fcache = s.fcache := rfl
@[simp] theorem State.setRegFld_err (s : State) (o lo len v : Nat) : (s.setRegFld o lo len v).err = s.err := rfl
@[simp] theorem State.setRegFld_cores (s : State) (o lo len v : Nat) : (s.setRegFld o lo len v).cores = s.cores := rfl
@[simp] theorem State.setRegFld_launches (s : State) (o lo len v : Nat) : (s.setRegFld o lo len v).launches = s.launches := rfl
@[simp] theorem State.setRegFld_nextLaunch (s : State) (o lo len v : Nat) : (s.setRegFld o lo len v).nextLaunch = s.nextLaunch := rfl
@[simp] theorem State.setRegFld_reqs (s : State) (o lo len v : Nat) : (s.setRegFld o lo len v).reqs = s.reqs := rfl
@[simp] theorem State.setRegFld_hreads (s : State) (o lo len v : Nat) : (s.setRegFld o lo len v).hreads = s.hreads := rfl
@[simp] theorem State.setRegFld_hostOut (s : State) (o lo len v : Nat) : (s.setRegFld o lo len v).hostOut = s.hostOut := rfl
@[simp] theorem State.setRegFld_fabOut (s : State) (o lo len v : Nat) : (s.setRegFld o lo len v).fabOut = s.fabOut := rfl
@[simp] theorem State.setRegFld_cut (s : State) (o lo len v : Nat) : (s.setRegFld o lo len v).cut = s.cut := rfl
@[simp] theorem State.setRegFld_cutAll (s : State) (o lo len v : Nat) : (s.setRegFld o lo len v).cutAll = s.cutAll := rfl
@[simp] theorem State.setRegFld_tables (s : State) (o lo len v : Nat) : (s.setRegFld o lo len v).tables = s.tables := rfl
@[simp] theorem State.setRegFld_rings (s : State) (o lo len v : Nat) : (s.setRegFld o lo len v).rings = s.rings := rfl
@[simp] theorem State.setRegFld_vectors (s : State) (o lo len v : Nat) : (s.setRegFld o lo len v).vectors = s.vectors := rfl
@[simp] theorem State.setRegFld_links (s : State) (o lo len v : Nat) : (s.setRegFld o lo len v).links = s.links := rfl
@[simp] theorem State.setRegFld_svc (s : State) (o lo len v : Nat) : (s.setRegFld o lo len v).svc = s.svc := rfl
@[simp] theorem State.setRegFld_power (s : State) (o lo len v : Nat) : (s.setRegFld o lo len v).power = s.power := rfl
@[simp] theorem State.setRegFld_start (s : State) (o lo len v : Nat) : (s.setRegFld o lo len v).start = s.start := rfl
@[simp] theorem State.setRegFld_spdm (s : State) (o lo len v : Nat) : (s.setRegFld o lo len v).spdm = s.spdm := rfl
@[simp] theorem State.setRegFld_resets (s : State) (o lo len v : Nat) : (s.setRegFld o lo len v).resets = s.resets := rfl
@[simp] theorem State.setRegFld_mgmt (s : State) (o lo len v : Nat) : (s.setRegFld o lo len v).mgmt = s.mgmt := rfl
@[simp] theorem State.setRegFld_standby (s : State) (o lo len v : Nat) : (s.setRegFld o lo len v).standby = s.standby := rfl

/-! ## State.count -/

@[simp] theorem State.count_pending (s : State) (o n : Nat) : (s.count o n).pending = s.pending := rfl
@[simp] theorem State.count_freeCtr (s : State) (o n : Nat) : (s.count o n).freeCtr = s.freeCtr := rfl
@[simp] theorem State.count_powered (s : State) (o n : Nat) : (s.count o n).powered = s.powered := rfl
@[simp] theorem State.count_lcount (s : State) (o n : Nat) : (s.count o n).lcount = s.lcount := rfl
@[simp] theorem State.count_lcLatch (s : State) (o n : Nat) : (s.count o n).lcLatch = s.lcLatch := rfl
@[simp] theorem State.count_late (s : State) (o n : Nat) : (s.count o n).late = s.late := rfl
@[simp] theorem State.count_progress (s : State) (o n : Nat) : (s.count o n).progress = s.progress := rfl
@[simp] theorem State.count_mem (s : State) (o n : Nat) : (s.count o n).mem = s.mem := rfl
@[simp] theorem State.count_lost (s : State) (o n : Nat) : (s.count o n).lost = s.lost := rfl
@[simp] theorem State.count_poison (s : State) (o n : Nat) : (s.count o n).poison = s.poison := rfl
@[simp] theorem State.count_defects (s : State) (o n : Nat) : (s.count o n).defects = s.defects := rfl
@[simp] theorem State.count_crcOff (s : State) (o n : Nat) : (s.count o n).crcOff = s.crcOff := rfl
@[simp] theorem State.count_sramBad (s : State) (o n : Nat) : (s.count o n).sramBad = s.sramBad := rfl
@[simp] theorem State.count_eccFixed (s : State) (o n : Nat) : (s.count o n).eccFixed = s.eccFixed := rfl
@[simp] theorem State.count_scaleBad (s : State) (o n : Nat) : (s.count o n).scaleBad = s.scaleBad := rfl
@[simp] theorem State.count_fcacheBad (s : State) (o n : Nat) : (s.count o n).fcacheBad = s.fcacheBad := rfl
@[simp] theorem State.count_wcacheBad (s : State) (o n : Nat) : (s.count o n).wcacheBad = s.wcacheBad := rfl
@[simp] theorem State.count_scrub (s : State) (o n : Nat) : (s.count o n).scrub = s.scrub := rfl
@[simp] theorem State.count_retrained (s : State) (o n : Nat) : (s.count o n).retrained = s.retrained := rfl
@[simp] theorem State.count_spool (s : State) (o n : Nat) : (s.count o n).spool = s.spool := rfl
@[simp] theorem State.count_spoolChg (s : State) (o n : Nat) : (s.count o n).spoolChg = s.spoolChg := rfl
@[simp] theorem State.count_waiters (s : State) (o n : Nat) : (s.count o n).waiters = s.waiters := rfl
@[simp] theorem State.count_keeper (s : State) (o n : Nat) : (s.count o n).keeper = s.keeper := rfl
@[simp] theorem State.count_rwcPend (s : State) (o n : Nat) : (s.count o n).rwcPend = s.rwcPend := rfl
@[simp] theorem State.count_invQueue (s : State) (o n : Nat) : (s.count o n).invQueue = s.invQueue := rfl
@[simp] theorem State.count_wcache (s : State) (o n : Nat) : (s.count o n).wcache = s.wcache := rfl
@[simp] theorem State.count_fcache (s : State) (o n : Nat) : (s.count o n).fcache = s.fcache := rfl
@[simp] theorem State.count_err (s : State) (o n : Nat) : (s.count o n).err = s.err := rfl
@[simp] theorem State.count_cores (s : State) (o n : Nat) : (s.count o n).cores = s.cores := rfl
@[simp] theorem State.count_launches (s : State) (o n : Nat) : (s.count o n).launches = s.launches := rfl
@[simp] theorem State.count_nextLaunch (s : State) (o n : Nat) : (s.count o n).nextLaunch = s.nextLaunch := rfl
@[simp] theorem State.count_reqs (s : State) (o n : Nat) : (s.count o n).reqs = s.reqs := rfl
@[simp] theorem State.count_hreads (s : State) (o n : Nat) : (s.count o n).hreads = s.hreads := rfl
@[simp] theorem State.count_hostOut (s : State) (o n : Nat) : (s.count o n).hostOut = s.hostOut := rfl
@[simp] theorem State.count_fabOut (s : State) (o n : Nat) : (s.count o n).fabOut = s.fabOut := rfl
@[simp] theorem State.count_cut (s : State) (o n : Nat) : (s.count o n).cut = s.cut := rfl
@[simp] theorem State.count_cutAll (s : State) (o n : Nat) : (s.count o n).cutAll = s.cutAll := rfl
@[simp] theorem State.count_tables (s : State) (o n : Nat) : (s.count o n).tables = s.tables := rfl
@[simp] theorem State.count_rings (s : State) (o n : Nat) : (s.count o n).rings = s.rings := rfl
@[simp] theorem State.count_vectors (s : State) (o n : Nat) : (s.count o n).vectors = s.vectors := rfl
@[simp] theorem State.count_links (s : State) (o n : Nat) : (s.count o n).links = s.links := rfl
@[simp] theorem State.count_svc (s : State) (o n : Nat) : (s.count o n).svc = s.svc := rfl
@[simp] theorem State.count_power (s : State) (o n : Nat) : (s.count o n).power = s.power := rfl
@[simp] theorem State.count_start (s : State) (o n : Nat) : (s.count o n).start = s.start := rfl
@[simp] theorem State.count_spdm (s : State) (o n : Nat) : (s.count o n).spdm = s.spdm := rfl
@[simp] theorem State.count_resets (s : State) (o n : Nat) : (s.count o n).resets = s.resets := rfl
@[simp] theorem State.count_mgmt (s : State) (o n : Nat) : (s.count o n).mgmt = s.mgmt := rfl
@[simp] theorem State.count_standby (s : State) (o n : Nat) : (s.count o n).standby = s.standby := rfl

/-! ## State.setKreg -/

@[simp] theorem State.setKreg_pending (s : State) (o : Nat) (v : Word) : (s.setKreg o v).pending = s.pending := rfl
@[simp] theorem State.setKreg_freeCtr (s : State) (o : Nat) (v : Word) : (s.setKreg o v).freeCtr = s.freeCtr := rfl
@[simp] theorem State.setKreg_powered (s : State) (o : Nat) (v : Word) : (s.setKreg o v).powered = s.powered := rfl
@[simp] theorem State.setKreg_lcount (s : State) (o : Nat) (v : Word) : (s.setKreg o v).lcount = s.lcount := rfl
@[simp] theorem State.setKreg_lcLatch (s : State) (o : Nat) (v : Word) : (s.setKreg o v).lcLatch = s.lcLatch := rfl
@[simp] theorem State.setKreg_late (s : State) (o : Nat) (v : Word) : (s.setKreg o v).late = s.late := rfl
@[simp] theorem State.setKreg_progress (s : State) (o : Nat) (v : Word) : (s.setKreg o v).progress = s.progress := rfl
@[simp] theorem State.setKreg_mem (s : State) (o : Nat) (v : Word) : (s.setKreg o v).mem = s.mem := rfl
@[simp] theorem State.setKreg_lost (s : State) (o : Nat) (v : Word) : (s.setKreg o v).lost = s.lost := rfl
@[simp] theorem State.setKreg_poison (s : State) (o : Nat) (v : Word) : (s.setKreg o v).poison = s.poison := rfl
@[simp] theorem State.setKreg_defects (s : State) (o : Nat) (v : Word) : (s.setKreg o v).defects = s.defects := rfl
@[simp] theorem State.setKreg_crcOff (s : State) (o : Nat) (v : Word) : (s.setKreg o v).crcOff = s.crcOff := rfl
@[simp] theorem State.setKreg_sramBad (s : State) (o : Nat) (v : Word) : (s.setKreg o v).sramBad = s.sramBad := rfl
@[simp] theorem State.setKreg_eccFixed (s : State) (o : Nat) (v : Word) : (s.setKreg o v).eccFixed = s.eccFixed := rfl
@[simp] theorem State.setKreg_scaleBad (s : State) (o : Nat) (v : Word) : (s.setKreg o v).scaleBad = s.scaleBad := rfl
@[simp] theorem State.setKreg_fcacheBad (s : State) (o : Nat) (v : Word) : (s.setKreg o v).fcacheBad = s.fcacheBad := rfl
@[simp] theorem State.setKreg_wcacheBad (s : State) (o : Nat) (v : Word) : (s.setKreg o v).wcacheBad = s.wcacheBad := rfl
@[simp] theorem State.setKreg_scrub (s : State) (o : Nat) (v : Word) : (s.setKreg o v).scrub = s.scrub := rfl
@[simp] theorem State.setKreg_retrained (s : State) (o : Nat) (v : Word) : (s.setKreg o v).retrained = s.retrained := rfl
@[simp] theorem State.setKreg_spool (s : State) (o : Nat) (v : Word) : (s.setKreg o v).spool = s.spool := rfl
@[simp] theorem State.setKreg_spoolChg (s : State) (o : Nat) (v : Word) : (s.setKreg o v).spoolChg = s.spoolChg := rfl
@[simp] theorem State.setKreg_waiters (s : State) (o : Nat) (v : Word) : (s.setKreg o v).waiters = s.waiters := rfl
@[simp] theorem State.setKreg_setup (s : State) (o : Nat) (v : Word) : (s.setKreg o v).setup = s.setup := rfl
@[simp] theorem State.setKreg_rwcPend (s : State) (o : Nat) (v : Word) : (s.setKreg o v).rwcPend = s.rwcPend := rfl
@[simp] theorem State.setKreg_invQueue (s : State) (o : Nat) (v : Word) : (s.setKreg o v).invQueue = s.invQueue := rfl
@[simp] theorem State.setKreg_wcache (s : State) (o : Nat) (v : Word) : (s.setKreg o v).wcache = s.wcache := rfl
@[simp] theorem State.setKreg_fcache (s : State) (o : Nat) (v : Word) : (s.setKreg o v).fcache = s.fcache := rfl
@[simp] theorem State.setKreg_err (s : State) (o : Nat) (v : Word) : (s.setKreg o v).err = s.err := rfl
@[simp] theorem State.setKreg_cores (s : State) (o : Nat) (v : Word) : (s.setKreg o v).cores = s.cores := rfl
@[simp] theorem State.setKreg_launches (s : State) (o : Nat) (v : Word) : (s.setKreg o v).launches = s.launches := rfl
@[simp] theorem State.setKreg_nextLaunch (s : State) (o : Nat) (v : Word) : (s.setKreg o v).nextLaunch = s.nextLaunch := rfl
@[simp] theorem State.setKreg_reqs (s : State) (o : Nat) (v : Word) : (s.setKreg o v).reqs = s.reqs := rfl
@[simp] theorem State.setKreg_hreads (s : State) (o : Nat) (v : Word) : (s.setKreg o v).hreads = s.hreads := rfl
@[simp] theorem State.setKreg_hostOut (s : State) (o : Nat) (v : Word) : (s.setKreg o v).hostOut = s.hostOut := rfl
@[simp] theorem State.setKreg_fabOut (s : State) (o : Nat) (v : Word) : (s.setKreg o v).fabOut = s.fabOut := rfl
@[simp] theorem State.setKreg_cut (s : State) (o : Nat) (v : Word) : (s.setKreg o v).cut = s.cut := rfl
@[simp] theorem State.setKreg_cutAll (s : State) (o : Nat) (v : Word) : (s.setKreg o v).cutAll = s.cutAll := rfl
@[simp] theorem State.setKreg_tables (s : State) (o : Nat) (v : Word) : (s.setKreg o v).tables = s.tables := rfl
@[simp] theorem State.setKreg_rings (s : State) (o : Nat) (v : Word) : (s.setKreg o v).rings = s.rings := rfl
@[simp] theorem State.setKreg_vectors (s : State) (o : Nat) (v : Word) : (s.setKreg o v).vectors = s.vectors := rfl
@[simp] theorem State.setKreg_links (s : State) (o : Nat) (v : Word) : (s.setKreg o v).links = s.links := rfl
@[simp] theorem State.setKreg_svc (s : State) (o : Nat) (v : Word) : (s.setKreg o v).svc = s.svc := rfl
@[simp] theorem State.setKreg_power (s : State) (o : Nat) (v : Word) : (s.setKreg o v).power = s.power := rfl
@[simp] theorem State.setKreg_start (s : State) (o : Nat) (v : Word) : (s.setKreg o v).start = s.start := rfl
@[simp] theorem State.setKreg_spdm (s : State) (o : Nat) (v : Word) : (s.setKreg o v).spdm = s.spdm := rfl
@[simp] theorem State.setKreg_resets (s : State) (o : Nat) (v : Word) : (s.setKreg o v).resets = s.resets := rfl
@[simp] theorem State.setKreg_mgmt (s : State) (o : Nat) (v : Word) : (s.setKreg o v).mgmt = s.mgmt := rfl
@[simp] theorem State.setKreg_standby (s : State) (o : Nat) (v : Word) : (s.setKreg o v).standby = s.standby := rfl

/-! ## State.setCore -/

@[simp] theorem State.setCore_pending (s : State) (n : Nat) (c : Core) : (s.setCore n c).pending = s.pending := rfl
@[simp] theorem State.setCore_freeCtr (s : State) (n : Nat) (c : Core) : (s.setCore n c).freeCtr = s.freeCtr := rfl
@[simp] theorem State.setCore_powered (s : State) (n : Nat) (c : Core) : (s.setCore n c).powered = s.powered := rfl
@[simp] theorem State.setCore_lcount (s : State) (n : Nat) (c : Core) : (s.setCore n c).lcount = s.lcount := rfl
@[simp] theorem State.setCore_lcLatch (s : State) (n : Nat) (c : Core) : (s.setCore n c).lcLatch = s.lcLatch := rfl
@[simp] theorem State.setCore_late (s : State) (n : Nat) (c : Core) : (s.setCore n c).late = s.late := rfl
@[simp] theorem State.setCore_progress (s : State) (n : Nat) (c : Core) : (s.setCore n c).progress = s.progress := rfl
@[simp] theorem State.setCore_mem (s : State) (n : Nat) (c : Core) : (s.setCore n c).mem = s.mem := rfl
@[simp] theorem State.setCore_lost (s : State) (n : Nat) (c : Core) : (s.setCore n c).lost = s.lost := rfl
@[simp] theorem State.setCore_poison (s : State) (n : Nat) (c : Core) : (s.setCore n c).poison = s.poison := rfl
@[simp] theorem State.setCore_defects (s : State) (n : Nat) (c : Core) : (s.setCore n c).defects = s.defects := rfl
@[simp] theorem State.setCore_crcOff (s : State) (n : Nat) (c : Core) : (s.setCore n c).crcOff = s.crcOff := rfl
@[simp] theorem State.setCore_sramBad (s : State) (n : Nat) (c : Core) : (s.setCore n c).sramBad = s.sramBad := rfl
@[simp] theorem State.setCore_eccFixed (s : State) (n : Nat) (c : Core) : (s.setCore n c).eccFixed = s.eccFixed := rfl
@[simp] theorem State.setCore_scaleBad (s : State) (n : Nat) (c : Core) : (s.setCore n c).scaleBad = s.scaleBad := rfl
@[simp] theorem State.setCore_fcacheBad (s : State) (n : Nat) (c : Core) : (s.setCore n c).fcacheBad = s.fcacheBad := rfl
@[simp] theorem State.setCore_wcacheBad (s : State) (n : Nat) (c : Core) : (s.setCore n c).wcacheBad = s.wcacheBad := rfl
@[simp] theorem State.setCore_scrub (s : State) (n : Nat) (c : Core) : (s.setCore n c).scrub = s.scrub := rfl
@[simp] theorem State.setCore_retrained (s : State) (n : Nat) (c : Core) : (s.setCore n c).retrained = s.retrained := rfl
@[simp] theorem State.setCore_spool (s : State) (n : Nat) (c : Core) : (s.setCore n c).spool = s.spool := rfl
@[simp] theorem State.setCore_spoolChg (s : State) (n : Nat) (c : Core) : (s.setCore n c).spoolChg = s.spoolChg := rfl
@[simp] theorem State.setCore_waiters (s : State) (n : Nat) (c : Core) : (s.setCore n c).waiters = s.waiters := rfl
@[simp] theorem State.setCore_setup (s : State) (n : Nat) (c : Core) : (s.setCore n c).setup = s.setup := rfl
@[simp] theorem State.setCore_keeper (s : State) (n : Nat) (c : Core) : (s.setCore n c).keeper = s.keeper := rfl
@[simp] theorem State.setCore_rwcPend (s : State) (n : Nat) (c : Core) : (s.setCore n c).rwcPend = s.rwcPend := rfl
@[simp] theorem State.setCore_invQueue (s : State) (n : Nat) (c : Core) : (s.setCore n c).invQueue = s.invQueue := rfl
@[simp] theorem State.setCore_wcache (s : State) (n : Nat) (c : Core) : (s.setCore n c).wcache = s.wcache := rfl
@[simp] theorem State.setCore_fcache (s : State) (n : Nat) (c : Core) : (s.setCore n c).fcache = s.fcache := rfl
@[simp] theorem State.setCore_err (s : State) (n : Nat) (c : Core) : (s.setCore n c).err = s.err := rfl
@[simp] theorem State.setCore_launches (s : State) (n : Nat) (c : Core) : (s.setCore n c).launches = s.launches := rfl
@[simp] theorem State.setCore_nextLaunch (s : State) (n : Nat) (c : Core) : (s.setCore n c).nextLaunch = s.nextLaunch := rfl
@[simp] theorem State.setCore_reqs (s : State) (n : Nat) (c : Core) : (s.setCore n c).reqs = s.reqs := rfl
@[simp] theorem State.setCore_hreads (s : State) (n : Nat) (c : Core) : (s.setCore n c).hreads = s.hreads := rfl
@[simp] theorem State.setCore_hostOut (s : State) (n : Nat) (c : Core) : (s.setCore n c).hostOut = s.hostOut := rfl
@[simp] theorem State.setCore_fabOut (s : State) (n : Nat) (c : Core) : (s.setCore n c).fabOut = s.fabOut := rfl
@[simp] theorem State.setCore_cut (s : State) (n : Nat) (c : Core) : (s.setCore n c).cut = s.cut := rfl
@[simp] theorem State.setCore_cutAll (s : State) (n : Nat) (c : Core) : (s.setCore n c).cutAll = s.cutAll := rfl
@[simp] theorem State.setCore_tables (s : State) (n : Nat) (c : Core) : (s.setCore n c).tables = s.tables := rfl
@[simp] theorem State.setCore_rings (s : State) (n : Nat) (c : Core) : (s.setCore n c).rings = s.rings := rfl
@[simp] theorem State.setCore_vectors (s : State) (n : Nat) (c : Core) : (s.setCore n c).vectors = s.vectors := rfl
@[simp] theorem State.setCore_links (s : State) (n : Nat) (c : Core) : (s.setCore n c).links = s.links := rfl
@[simp] theorem State.setCore_svc (s : State) (n : Nat) (c : Core) : (s.setCore n c).svc = s.svc := rfl
@[simp] theorem State.setCore_power (s : State) (n : Nat) (c : Core) : (s.setCore n c).power = s.power := rfl
@[simp] theorem State.setCore_start (s : State) (n : Nat) (c : Core) : (s.setCore n c).start = s.start := rfl
@[simp] theorem State.setCore_spdm (s : State) (n : Nat) (c : Core) : (s.setCore n c).spdm = s.spdm := rfl
@[simp] theorem State.setCore_resets (s : State) (n : Nat) (c : Core) : (s.setCore n c).resets = s.resets := rfl
@[simp] theorem State.setCore_mgmt (s : State) (n : Nat) (c : Core) : (s.setCore n c).mgmt = s.mgmt := rfl
@[simp] theorem State.setCore_standby (s : State) (n : Nat) (c : Core) : (s.setCore n c).standby = s.standby := rfl

/-! ## State.modCore -/

@[simp] theorem State.modCore_pending (s : State) (n : Nat) (f : Core → Core) : (s.modCore n f).pending = s.pending := rfl
@[simp] theorem State.modCore_freeCtr (s : State) (n : Nat) (f : Core → Core) : (s.modCore n f).freeCtr = s.freeCtr := rfl
@[simp] theorem State.modCore_powered (s : State) (n : Nat) (f : Core → Core) : (s.modCore n f).powered = s.powered := rfl
@[simp] theorem State.modCore_lcount (s : State) (n : Nat) (f : Core → Core) : (s.modCore n f).lcount = s.lcount := rfl
@[simp] theorem State.modCore_lcLatch (s : State) (n : Nat) (f : Core → Core) : (s.modCore n f).lcLatch = s.lcLatch := rfl
@[simp] theorem State.modCore_late (s : State) (n : Nat) (f : Core → Core) : (s.modCore n f).late = s.late := rfl
@[simp] theorem State.modCore_progress (s : State) (n : Nat) (f : Core → Core) : (s.modCore n f).progress = s.progress := rfl
@[simp] theorem State.modCore_mem (s : State) (n : Nat) (f : Core → Core) : (s.modCore n f).mem = s.mem := rfl
@[simp] theorem State.modCore_lost (s : State) (n : Nat) (f : Core → Core) : (s.modCore n f).lost = s.lost := rfl
@[simp] theorem State.modCore_poison (s : State) (n : Nat) (f : Core → Core) : (s.modCore n f).poison = s.poison := rfl
@[simp] theorem State.modCore_defects (s : State) (n : Nat) (f : Core → Core) : (s.modCore n f).defects = s.defects := rfl
@[simp] theorem State.modCore_crcOff (s : State) (n : Nat) (f : Core → Core) : (s.modCore n f).crcOff = s.crcOff := rfl
@[simp] theorem State.modCore_sramBad (s : State) (n : Nat) (f : Core → Core) : (s.modCore n f).sramBad = s.sramBad := rfl
@[simp] theorem State.modCore_eccFixed (s : State) (n : Nat) (f : Core → Core) : (s.modCore n f).eccFixed = s.eccFixed := rfl
@[simp] theorem State.modCore_scaleBad (s : State) (n : Nat) (f : Core → Core) : (s.modCore n f).scaleBad = s.scaleBad := rfl
@[simp] theorem State.modCore_fcacheBad (s : State) (n : Nat) (f : Core → Core) : (s.modCore n f).fcacheBad = s.fcacheBad := rfl
@[simp] theorem State.modCore_wcacheBad (s : State) (n : Nat) (f : Core → Core) : (s.modCore n f).wcacheBad = s.wcacheBad := rfl
@[simp] theorem State.modCore_scrub (s : State) (n : Nat) (f : Core → Core) : (s.modCore n f).scrub = s.scrub := rfl
@[simp] theorem State.modCore_retrained (s : State) (n : Nat) (f : Core → Core) : (s.modCore n f).retrained = s.retrained := rfl
@[simp] theorem State.modCore_spool (s : State) (n : Nat) (f : Core → Core) : (s.modCore n f).spool = s.spool := rfl
@[simp] theorem State.modCore_spoolChg (s : State) (n : Nat) (f : Core → Core) : (s.modCore n f).spoolChg = s.spoolChg := rfl
@[simp] theorem State.modCore_waiters (s : State) (n : Nat) (f : Core → Core) : (s.modCore n f).waiters = s.waiters := rfl
@[simp] theorem State.modCore_setup (s : State) (n : Nat) (f : Core → Core) : (s.modCore n f).setup = s.setup := rfl
@[simp] theorem State.modCore_keeper (s : State) (n : Nat) (f : Core → Core) : (s.modCore n f).keeper = s.keeper := rfl
@[simp] theorem State.modCore_rwcPend (s : State) (n : Nat) (f : Core → Core) : (s.modCore n f).rwcPend = s.rwcPend := rfl
@[simp] theorem State.modCore_invQueue (s : State) (n : Nat) (f : Core → Core) : (s.modCore n f).invQueue = s.invQueue := rfl
@[simp] theorem State.modCore_wcache (s : State) (n : Nat) (f : Core → Core) : (s.modCore n f).wcache = s.wcache := rfl
@[simp] theorem State.modCore_fcache (s : State) (n : Nat) (f : Core → Core) : (s.modCore n f).fcache = s.fcache := rfl
@[simp] theorem State.modCore_err (s : State) (n : Nat) (f : Core → Core) : (s.modCore n f).err = s.err := rfl
@[simp] theorem State.modCore_launches (s : State) (n : Nat) (f : Core → Core) : (s.modCore n f).launches = s.launches := rfl
@[simp] theorem State.modCore_nextLaunch (s : State) (n : Nat) (f : Core → Core) : (s.modCore n f).nextLaunch = s.nextLaunch := rfl
@[simp] theorem State.modCore_reqs (s : State) (n : Nat) (f : Core → Core) : (s.modCore n f).reqs = s.reqs := rfl
@[simp] theorem State.modCore_hreads (s : State) (n : Nat) (f : Core → Core) : (s.modCore n f).hreads = s.hreads := rfl
@[simp] theorem State.modCore_hostOut (s : State) (n : Nat) (f : Core → Core) : (s.modCore n f).hostOut = s.hostOut := rfl
@[simp] theorem State.modCore_fabOut (s : State) (n : Nat) (f : Core → Core) : (s.modCore n f).fabOut = s.fabOut := rfl
@[simp] theorem State.modCore_cut (s : State) (n : Nat) (f : Core → Core) : (s.modCore n f).cut = s.cut := rfl
@[simp] theorem State.modCore_cutAll (s : State) (n : Nat) (f : Core → Core) : (s.modCore n f).cutAll = s.cutAll := rfl
@[simp] theorem State.modCore_tables (s : State) (n : Nat) (f : Core → Core) : (s.modCore n f).tables = s.tables := rfl
@[simp] theorem State.modCore_rings (s : State) (n : Nat) (f : Core → Core) : (s.modCore n f).rings = s.rings := rfl
@[simp] theorem State.modCore_vectors (s : State) (n : Nat) (f : Core → Core) : (s.modCore n f).vectors = s.vectors := rfl
@[simp] theorem State.modCore_links (s : State) (n : Nat) (f : Core → Core) : (s.modCore n f).links = s.links := rfl
@[simp] theorem State.modCore_svc (s : State) (n : Nat) (f : Core → Core) : (s.modCore n f).svc = s.svc := rfl
@[simp] theorem State.modCore_power (s : State) (n : Nat) (f : Core → Core) : (s.modCore n f).power = s.power := rfl
@[simp] theorem State.modCore_start (s : State) (n : Nat) (f : Core → Core) : (s.modCore n f).start = s.start := rfl
@[simp] theorem State.modCore_spdm (s : State) (n : Nat) (f : Core → Core) : (s.modCore n f).spdm = s.spdm := rfl
@[simp] theorem State.modCore_resets (s : State) (n : Nat) (f : Core → Core) : (s.modCore n f).resets = s.resets := rfl
@[simp] theorem State.modCore_mgmt (s : State) (n : Nat) (f : Core → Core) : (s.modCore n f).mgmt = s.mgmt := rfl
@[simp] theorem State.modCore_standby (s : State) (n : Nat) (f : Core → Core) : (s.modCore n f).standby = s.standby := rfl

/-! ## State.setBlock -/

@[simp] theorem State.setBlock_pending (s : State) (c b : Nat) (x : Option Block) : (s.setBlock c b x).pending = s.pending := rfl
@[simp] theorem State.setBlock_freeCtr (s : State) (c b : Nat) (x : Option Block) : (s.setBlock c b x).freeCtr = s.freeCtr := rfl
@[simp] theorem State.setBlock_powered (s : State) (c b : Nat) (x : Option Block) : (s.setBlock c b x).powered = s.powered := rfl
@[simp] theorem State.setBlock_lcount (s : State) (c b : Nat) (x : Option Block) : (s.setBlock c b x).lcount = s.lcount := rfl
@[simp] theorem State.setBlock_lcLatch (s : State) (c b : Nat) (x : Option Block) : (s.setBlock c b x).lcLatch = s.lcLatch := rfl
@[simp] theorem State.setBlock_late (s : State) (c b : Nat) (x : Option Block) : (s.setBlock c b x).late = s.late := rfl
@[simp] theorem State.setBlock_progress (s : State) (c b : Nat) (x : Option Block) : (s.setBlock c b x).progress = s.progress := rfl
@[simp] theorem State.setBlock_mem (s : State) (c b : Nat) (x : Option Block) : (s.setBlock c b x).mem = s.mem := rfl
@[simp] theorem State.setBlock_lost (s : State) (c b : Nat) (x : Option Block) : (s.setBlock c b x).lost = s.lost := rfl
@[simp] theorem State.setBlock_poison (s : State) (c b : Nat) (x : Option Block) : (s.setBlock c b x).poison = s.poison := rfl
@[simp] theorem State.setBlock_defects (s : State) (c b : Nat) (x : Option Block) : (s.setBlock c b x).defects = s.defects := rfl
@[simp] theorem State.setBlock_crcOff (s : State) (c b : Nat) (x : Option Block) : (s.setBlock c b x).crcOff = s.crcOff := rfl
@[simp] theorem State.setBlock_sramBad (s : State) (c b : Nat) (x : Option Block) : (s.setBlock c b x).sramBad = s.sramBad := rfl
@[simp] theorem State.setBlock_eccFixed (s : State) (c b : Nat) (x : Option Block) : (s.setBlock c b x).eccFixed = s.eccFixed := rfl
@[simp] theorem State.setBlock_scaleBad (s : State) (c b : Nat) (x : Option Block) : (s.setBlock c b x).scaleBad = s.scaleBad := rfl
@[simp] theorem State.setBlock_fcacheBad (s : State) (c b : Nat) (x : Option Block) : (s.setBlock c b x).fcacheBad = s.fcacheBad := rfl
@[simp] theorem State.setBlock_wcacheBad (s : State) (c b : Nat) (x : Option Block) : (s.setBlock c b x).wcacheBad = s.wcacheBad := rfl
@[simp] theorem State.setBlock_scrub (s : State) (c b : Nat) (x : Option Block) : (s.setBlock c b x).scrub = s.scrub := rfl
@[simp] theorem State.setBlock_retrained (s : State) (c b : Nat) (x : Option Block) : (s.setBlock c b x).retrained = s.retrained := rfl
@[simp] theorem State.setBlock_spool (s : State) (c b : Nat) (x : Option Block) : (s.setBlock c b x).spool = s.spool := rfl
@[simp] theorem State.setBlock_spoolChg (s : State) (c b : Nat) (x : Option Block) : (s.setBlock c b x).spoolChg = s.spoolChg := rfl
@[simp] theorem State.setBlock_waiters (s : State) (c b : Nat) (x : Option Block) : (s.setBlock c b x).waiters = s.waiters := rfl
@[simp] theorem State.setBlock_setup (s : State) (c b : Nat) (x : Option Block) : (s.setBlock c b x).setup = s.setup := rfl
@[simp] theorem State.setBlock_keeper (s : State) (c b : Nat) (x : Option Block) : (s.setBlock c b x).keeper = s.keeper := rfl
@[simp] theorem State.setBlock_rwcPend (s : State) (c b : Nat) (x : Option Block) : (s.setBlock c b x).rwcPend = s.rwcPend := rfl
@[simp] theorem State.setBlock_invQueue (s : State) (c b : Nat) (x : Option Block) : (s.setBlock c b x).invQueue = s.invQueue := rfl
@[simp] theorem State.setBlock_wcache (s : State) (c b : Nat) (x : Option Block) : (s.setBlock c b x).wcache = s.wcache := rfl
@[simp] theorem State.setBlock_fcache (s : State) (c b : Nat) (x : Option Block) : (s.setBlock c b x).fcache = s.fcache := rfl
@[simp] theorem State.setBlock_err (s : State) (c b : Nat) (x : Option Block) : (s.setBlock c b x).err = s.err := rfl
@[simp] theorem State.setBlock_launches (s : State) (c b : Nat) (x : Option Block) : (s.setBlock c b x).launches = s.launches := rfl
@[simp] theorem State.setBlock_nextLaunch (s : State) (c b : Nat) (x : Option Block) : (s.setBlock c b x).nextLaunch = s.nextLaunch := rfl
@[simp] theorem State.setBlock_reqs (s : State) (c b : Nat) (x : Option Block) : (s.setBlock c b x).reqs = s.reqs := rfl
@[simp] theorem State.setBlock_hreads (s : State) (c b : Nat) (x : Option Block) : (s.setBlock c b x).hreads = s.hreads := rfl
@[simp] theorem State.setBlock_hostOut (s : State) (c b : Nat) (x : Option Block) : (s.setBlock c b x).hostOut = s.hostOut := rfl
@[simp] theorem State.setBlock_fabOut (s : State) (c b : Nat) (x : Option Block) : (s.setBlock c b x).fabOut = s.fabOut := rfl
@[simp] theorem State.setBlock_cut (s : State) (c b : Nat) (x : Option Block) : (s.setBlock c b x).cut = s.cut := rfl
@[simp] theorem State.setBlock_cutAll (s : State) (c b : Nat) (x : Option Block) : (s.setBlock c b x).cutAll = s.cutAll := rfl
@[simp] theorem State.setBlock_tables (s : State) (c b : Nat) (x : Option Block) : (s.setBlock c b x).tables = s.tables := rfl
@[simp] theorem State.setBlock_rings (s : State) (c b : Nat) (x : Option Block) : (s.setBlock c b x).rings = s.rings := rfl
@[simp] theorem State.setBlock_vectors (s : State) (c b : Nat) (x : Option Block) : (s.setBlock c b x).vectors = s.vectors := rfl
@[simp] theorem State.setBlock_links (s : State) (c b : Nat) (x : Option Block) : (s.setBlock c b x).links = s.links := rfl
@[simp] theorem State.setBlock_svc (s : State) (c b : Nat) (x : Option Block) : (s.setBlock c b x).svc = s.svc := rfl
@[simp] theorem State.setBlock_power (s : State) (c b : Nat) (x : Option Block) : (s.setBlock c b x).power = s.power := rfl
@[simp] theorem State.setBlock_start (s : State) (c b : Nat) (x : Option Block) : (s.setBlock c b x).start = s.start := rfl
@[simp] theorem State.setBlock_spdm (s : State) (c b : Nat) (x : Option Block) : (s.setBlock c b x).spdm = s.spdm := rfl
@[simp] theorem State.setBlock_resets (s : State) (c b : Nat) (x : Option Block) : (s.setBlock c b x).resets = s.resets := rfl
@[simp] theorem State.setBlock_mgmt (s : State) (c b : Nat) (x : Option Block) : (s.setBlock c b x).mgmt = s.mgmt := rfl
@[simp] theorem State.setBlock_standby (s : State) (c b : Nat) (x : Option Block) : (s.setBlock c b x).standby = s.standby := rfl

/-! ## State.setLine -/

@[simp] theorem State.setLine_pending (s : State) (c k : Nat) (l : Option Line) : (s.setLine c k l).pending = s.pending := rfl
@[simp] theorem State.setLine_freeCtr (s : State) (c k : Nat) (l : Option Line) : (s.setLine c k l).freeCtr = s.freeCtr := rfl
@[simp] theorem State.setLine_powered (s : State) (c k : Nat) (l : Option Line) : (s.setLine c k l).powered = s.powered := rfl
@[simp] theorem State.setLine_lcount (s : State) (c k : Nat) (l : Option Line) : (s.setLine c k l).lcount = s.lcount := rfl
@[simp] theorem State.setLine_lcLatch (s : State) (c k : Nat) (l : Option Line) : (s.setLine c k l).lcLatch = s.lcLatch := rfl
@[simp] theorem State.setLine_late (s : State) (c k : Nat) (l : Option Line) : (s.setLine c k l).late = s.late := rfl
@[simp] theorem State.setLine_progress (s : State) (c k : Nat) (l : Option Line) : (s.setLine c k l).progress = s.progress := rfl
@[simp] theorem State.setLine_mem (s : State) (c k : Nat) (l : Option Line) : (s.setLine c k l).mem = s.mem := rfl
@[simp] theorem State.setLine_lost (s : State) (c k : Nat) (l : Option Line) : (s.setLine c k l).lost = s.lost := rfl
@[simp] theorem State.setLine_poison (s : State) (c k : Nat) (l : Option Line) : (s.setLine c k l).poison = s.poison := rfl
@[simp] theorem State.setLine_defects (s : State) (c k : Nat) (l : Option Line) : (s.setLine c k l).defects = s.defects := rfl
@[simp] theorem State.setLine_crcOff (s : State) (c k : Nat) (l : Option Line) : (s.setLine c k l).crcOff = s.crcOff := rfl
@[simp] theorem State.setLine_sramBad (s : State) (c k : Nat) (l : Option Line) : (s.setLine c k l).sramBad = s.sramBad := rfl
@[simp] theorem State.setLine_eccFixed (s : State) (c k : Nat) (l : Option Line) : (s.setLine c k l).eccFixed = s.eccFixed := rfl
@[simp] theorem State.setLine_scaleBad (s : State) (c k : Nat) (l : Option Line) : (s.setLine c k l).scaleBad = s.scaleBad := rfl
@[simp] theorem State.setLine_fcacheBad (s : State) (c k : Nat) (l : Option Line) : (s.setLine c k l).fcacheBad = s.fcacheBad := rfl
@[simp] theorem State.setLine_wcacheBad (s : State) (c k : Nat) (l : Option Line) : (s.setLine c k l).wcacheBad = s.wcacheBad := rfl
@[simp] theorem State.setLine_scrub (s : State) (c k : Nat) (l : Option Line) : (s.setLine c k l).scrub = s.scrub := rfl
@[simp] theorem State.setLine_retrained (s : State) (c k : Nat) (l : Option Line) : (s.setLine c k l).retrained = s.retrained := rfl
@[simp] theorem State.setLine_spool (s : State) (c k : Nat) (l : Option Line) : (s.setLine c k l).spool = s.spool := rfl
@[simp] theorem State.setLine_spoolChg (s : State) (c k : Nat) (l : Option Line) : (s.setLine c k l).spoolChg = s.spoolChg := rfl
@[simp] theorem State.setLine_waiters (s : State) (c k : Nat) (l : Option Line) : (s.setLine c k l).waiters = s.waiters := rfl
@[simp] theorem State.setLine_setup (s : State) (c k : Nat) (l : Option Line) : (s.setLine c k l).setup = s.setup := rfl
@[simp] theorem State.setLine_keeper (s : State) (c k : Nat) (l : Option Line) : (s.setLine c k l).keeper = s.keeper := rfl
@[simp] theorem State.setLine_rwcPend (s : State) (c k : Nat) (l : Option Line) : (s.setLine c k l).rwcPend = s.rwcPend := rfl
@[simp] theorem State.setLine_invQueue (s : State) (c k : Nat) (l : Option Line) : (s.setLine c k l).invQueue = s.invQueue := rfl
@[simp] theorem State.setLine_wcache (s : State) (c k : Nat) (l : Option Line) : (s.setLine c k l).wcache = s.wcache := rfl
@[simp] theorem State.setLine_fcache (s : State) (c k : Nat) (l : Option Line) : (s.setLine c k l).fcache = s.fcache := rfl
@[simp] theorem State.setLine_err (s : State) (c k : Nat) (l : Option Line) : (s.setLine c k l).err = s.err := rfl
@[simp] theorem State.setLine_launches (s : State) (c k : Nat) (l : Option Line) : (s.setLine c k l).launches = s.launches := rfl
@[simp] theorem State.setLine_nextLaunch (s : State) (c k : Nat) (l : Option Line) : (s.setLine c k l).nextLaunch = s.nextLaunch := rfl
@[simp] theorem State.setLine_reqs (s : State) (c k : Nat) (l : Option Line) : (s.setLine c k l).reqs = s.reqs := rfl
@[simp] theorem State.setLine_hreads (s : State) (c k : Nat) (l : Option Line) : (s.setLine c k l).hreads = s.hreads := rfl
@[simp] theorem State.setLine_hostOut (s : State) (c k : Nat) (l : Option Line) : (s.setLine c k l).hostOut = s.hostOut := rfl
@[simp] theorem State.setLine_fabOut (s : State) (c k : Nat) (l : Option Line) : (s.setLine c k l).fabOut = s.fabOut := rfl
@[simp] theorem State.setLine_cut (s : State) (c k : Nat) (l : Option Line) : (s.setLine c k l).cut = s.cut := rfl
@[simp] theorem State.setLine_cutAll (s : State) (c k : Nat) (l : Option Line) : (s.setLine c k l).cutAll = s.cutAll := rfl
@[simp] theorem State.setLine_tables (s : State) (c k : Nat) (l : Option Line) : (s.setLine c k l).tables = s.tables := rfl
@[simp] theorem State.setLine_rings (s : State) (c k : Nat) (l : Option Line) : (s.setLine c k l).rings = s.rings := rfl
@[simp] theorem State.setLine_vectors (s : State) (c k : Nat) (l : Option Line) : (s.setLine c k l).vectors = s.vectors := rfl
@[simp] theorem State.setLine_links (s : State) (c k : Nat) (l : Option Line) : (s.setLine c k l).links = s.links := rfl
@[simp] theorem State.setLine_svc (s : State) (c k : Nat) (l : Option Line) : (s.setLine c k l).svc = s.svc := rfl
@[simp] theorem State.setLine_power (s : State) (c k : Nat) (l : Option Line) : (s.setLine c k l).power = s.power := rfl
@[simp] theorem State.setLine_start (s : State) (c k : Nat) (l : Option Line) : (s.setLine c k l).start = s.start := rfl
@[simp] theorem State.setLine_spdm (s : State) (c k : Nat) (l : Option Line) : (s.setLine c k l).spdm = s.spdm := rfl
@[simp] theorem State.setLine_resets (s : State) (c k : Nat) (l : Option Line) : (s.setLine c k l).resets = s.resets := rfl
@[simp] theorem State.setLine_mgmt (s : State) (c k : Nat) (l : Option Line) : (s.setLine c k l).mgmt = s.mgmt := rfl
@[simp] theorem State.setLine_standby (s : State) (c k : Nat) (l : Option Line) : (s.setLine c k l).standby = s.standby := rfl

/-! ## State.setRing -/

@[simp] theorem State.setRing_pending (s : State) (r : Nat) (f : Ring → Ring) : (s.setRing r f).pending = s.pending := rfl
@[simp] theorem State.setRing_freeCtr (s : State) (r : Nat) (f : Ring → Ring) : (s.setRing r f).freeCtr = s.freeCtr := rfl
@[simp] theorem State.setRing_powered (s : State) (r : Nat) (f : Ring → Ring) : (s.setRing r f).powered = s.powered := rfl
@[simp] theorem State.setRing_lcount (s : State) (r : Nat) (f : Ring → Ring) : (s.setRing r f).lcount = s.lcount := rfl
@[simp] theorem State.setRing_lcLatch (s : State) (r : Nat) (f : Ring → Ring) : (s.setRing r f).lcLatch = s.lcLatch := rfl
@[simp] theorem State.setRing_late (s : State) (r : Nat) (f : Ring → Ring) : (s.setRing r f).late = s.late := rfl
@[simp] theorem State.setRing_progress (s : State) (r : Nat) (f : Ring → Ring) : (s.setRing r f).progress = s.progress := rfl
@[simp] theorem State.setRing_mem (s : State) (r : Nat) (f : Ring → Ring) : (s.setRing r f).mem = s.mem := rfl
@[simp] theorem State.setRing_lost (s : State) (r : Nat) (f : Ring → Ring) : (s.setRing r f).lost = s.lost := rfl
@[simp] theorem State.setRing_poison (s : State) (r : Nat) (f : Ring → Ring) : (s.setRing r f).poison = s.poison := rfl
@[simp] theorem State.setRing_defects (s : State) (r : Nat) (f : Ring → Ring) : (s.setRing r f).defects = s.defects := rfl
@[simp] theorem State.setRing_crcOff (s : State) (r : Nat) (f : Ring → Ring) : (s.setRing r f).crcOff = s.crcOff := rfl
@[simp] theorem State.setRing_sramBad (s : State) (r : Nat) (f : Ring → Ring) : (s.setRing r f).sramBad = s.sramBad := rfl
@[simp] theorem State.setRing_eccFixed (s : State) (r : Nat) (f : Ring → Ring) : (s.setRing r f).eccFixed = s.eccFixed := rfl
@[simp] theorem State.setRing_scaleBad (s : State) (r : Nat) (f : Ring → Ring) : (s.setRing r f).scaleBad = s.scaleBad := rfl
@[simp] theorem State.setRing_fcacheBad (s : State) (r : Nat) (f : Ring → Ring) : (s.setRing r f).fcacheBad = s.fcacheBad := rfl
@[simp] theorem State.setRing_wcacheBad (s : State) (r : Nat) (f : Ring → Ring) : (s.setRing r f).wcacheBad = s.wcacheBad := rfl
@[simp] theorem State.setRing_scrub (s : State) (r : Nat) (f : Ring → Ring) : (s.setRing r f).scrub = s.scrub := rfl
@[simp] theorem State.setRing_retrained (s : State) (r : Nat) (f : Ring → Ring) : (s.setRing r f).retrained = s.retrained := rfl
@[simp] theorem State.setRing_spool (s : State) (r : Nat) (f : Ring → Ring) : (s.setRing r f).spool = s.spool := rfl
@[simp] theorem State.setRing_spoolChg (s : State) (r : Nat) (f : Ring → Ring) : (s.setRing r f).spoolChg = s.spoolChg := rfl
@[simp] theorem State.setRing_waiters (s : State) (r : Nat) (f : Ring → Ring) : (s.setRing r f).waiters = s.waiters := rfl
@[simp] theorem State.setRing_setup (s : State) (r : Nat) (f : Ring → Ring) : (s.setRing r f).setup = s.setup := rfl
@[simp] theorem State.setRing_keeper (s : State) (r : Nat) (f : Ring → Ring) : (s.setRing r f).keeper = s.keeper := rfl
@[simp] theorem State.setRing_rwcPend (s : State) (r : Nat) (f : Ring → Ring) : (s.setRing r f).rwcPend = s.rwcPend := rfl
@[simp] theorem State.setRing_invQueue (s : State) (r : Nat) (f : Ring → Ring) : (s.setRing r f).invQueue = s.invQueue := rfl
@[simp] theorem State.setRing_wcache (s : State) (r : Nat) (f : Ring → Ring) : (s.setRing r f).wcache = s.wcache := rfl
@[simp] theorem State.setRing_fcache (s : State) (r : Nat) (f : Ring → Ring) : (s.setRing r f).fcache = s.fcache := rfl
@[simp] theorem State.setRing_err (s : State) (r : Nat) (f : Ring → Ring) : (s.setRing r f).err = s.err := rfl
@[simp] theorem State.setRing_cores (s : State) (r : Nat) (f : Ring → Ring) : (s.setRing r f).cores = s.cores := rfl
@[simp] theorem State.setRing_launches (s : State) (r : Nat) (f : Ring → Ring) : (s.setRing r f).launches = s.launches := rfl
@[simp] theorem State.setRing_nextLaunch (s : State) (r : Nat) (f : Ring → Ring) : (s.setRing r f).nextLaunch = s.nextLaunch := rfl
@[simp] theorem State.setRing_reqs (s : State) (r : Nat) (f : Ring → Ring) : (s.setRing r f).reqs = s.reqs := rfl
@[simp] theorem State.setRing_hreads (s : State) (r : Nat) (f : Ring → Ring) : (s.setRing r f).hreads = s.hreads := rfl
@[simp] theorem State.setRing_hostOut (s : State) (r : Nat) (f : Ring → Ring) : (s.setRing r f).hostOut = s.hostOut := rfl
@[simp] theorem State.setRing_fabOut (s : State) (r : Nat) (f : Ring → Ring) : (s.setRing r f).fabOut = s.fabOut := rfl
@[simp] theorem State.setRing_cut (s : State) (r : Nat) (f : Ring → Ring) : (s.setRing r f).cut = s.cut := rfl
@[simp] theorem State.setRing_cutAll (s : State) (r : Nat) (f : Ring → Ring) : (s.setRing r f).cutAll = s.cutAll := rfl
@[simp] theorem State.setRing_tables (s : State) (r : Nat) (f : Ring → Ring) : (s.setRing r f).tables = s.tables := rfl
@[simp] theorem State.setRing_vectors (s : State) (r : Nat) (f : Ring → Ring) : (s.setRing r f).vectors = s.vectors := rfl
@[simp] theorem State.setRing_links (s : State) (r : Nat) (f : Ring → Ring) : (s.setRing r f).links = s.links := rfl
@[simp] theorem State.setRing_svc (s : State) (r : Nat) (f : Ring → Ring) : (s.setRing r f).svc = s.svc := rfl
@[simp] theorem State.setRing_power (s : State) (r : Nat) (f : Ring → Ring) : (s.setRing r f).power = s.power := rfl
@[simp] theorem State.setRing_start (s : State) (r : Nat) (f : Ring → Ring) : (s.setRing r f).start = s.start := rfl
@[simp] theorem State.setRing_spdm (s : State) (r : Nat) (f : Ring → Ring) : (s.setRing r f).spdm = s.spdm := rfl
@[simp] theorem State.setRing_resets (s : State) (r : Nat) (f : Ring → Ring) : (s.setRing r f).resets = s.resets := rfl
@[simp] theorem State.setRing_mgmt (s : State) (r : Nat) (f : Ring → Ring) : (s.setRing r f).mgmt = s.mgmt := rfl
@[simp] theorem State.setRing_standby (s : State) (r : Nat) (f : Ring → Ring) : (s.setRing r f).standby = s.standby := rfl

/-! ## State.setLink -/

@[simp] theorem State.setLink_pending (s : State) (k : Nat) (f : Link → Link) : (s.setLink k f).pending = s.pending := rfl
@[simp] theorem State.setLink_freeCtr (s : State) (k : Nat) (f : Link → Link) : (s.setLink k f).freeCtr = s.freeCtr := rfl
@[simp] theorem State.setLink_powered (s : State) (k : Nat) (f : Link → Link) : (s.setLink k f).powered = s.powered := rfl
@[simp] theorem State.setLink_lcount (s : State) (k : Nat) (f : Link → Link) : (s.setLink k f).lcount = s.lcount := rfl
@[simp] theorem State.setLink_lcLatch (s : State) (k : Nat) (f : Link → Link) : (s.setLink k f).lcLatch = s.lcLatch := rfl
@[simp] theorem State.setLink_late (s : State) (k : Nat) (f : Link → Link) : (s.setLink k f).late = s.late := rfl
@[simp] theorem State.setLink_progress (s : State) (k : Nat) (f : Link → Link) : (s.setLink k f).progress = s.progress := rfl
@[simp] theorem State.setLink_mem (s : State) (k : Nat) (f : Link → Link) : (s.setLink k f).mem = s.mem := rfl
@[simp] theorem State.setLink_lost (s : State) (k : Nat) (f : Link → Link) : (s.setLink k f).lost = s.lost := rfl
@[simp] theorem State.setLink_poison (s : State) (k : Nat) (f : Link → Link) : (s.setLink k f).poison = s.poison := rfl
@[simp] theorem State.setLink_defects (s : State) (k : Nat) (f : Link → Link) : (s.setLink k f).defects = s.defects := rfl
@[simp] theorem State.setLink_crcOff (s : State) (k : Nat) (f : Link → Link) : (s.setLink k f).crcOff = s.crcOff := rfl
@[simp] theorem State.setLink_sramBad (s : State) (k : Nat) (f : Link → Link) : (s.setLink k f).sramBad = s.sramBad := rfl
@[simp] theorem State.setLink_eccFixed (s : State) (k : Nat) (f : Link → Link) : (s.setLink k f).eccFixed = s.eccFixed := rfl
@[simp] theorem State.setLink_scaleBad (s : State) (k : Nat) (f : Link → Link) : (s.setLink k f).scaleBad = s.scaleBad := rfl
@[simp] theorem State.setLink_fcacheBad (s : State) (k : Nat) (f : Link → Link) : (s.setLink k f).fcacheBad = s.fcacheBad := rfl
@[simp] theorem State.setLink_wcacheBad (s : State) (k : Nat) (f : Link → Link) : (s.setLink k f).wcacheBad = s.wcacheBad := rfl
@[simp] theorem State.setLink_scrub (s : State) (k : Nat) (f : Link → Link) : (s.setLink k f).scrub = s.scrub := rfl
@[simp] theorem State.setLink_retrained (s : State) (k : Nat) (f : Link → Link) : (s.setLink k f).retrained = s.retrained := rfl
@[simp] theorem State.setLink_spool (s : State) (k : Nat) (f : Link → Link) : (s.setLink k f).spool = s.spool := rfl
@[simp] theorem State.setLink_spoolChg (s : State) (k : Nat) (f : Link → Link) : (s.setLink k f).spoolChg = s.spoolChg := rfl
@[simp] theorem State.setLink_waiters (s : State) (k : Nat) (f : Link → Link) : (s.setLink k f).waiters = s.waiters := rfl
@[simp] theorem State.setLink_setup (s : State) (k : Nat) (f : Link → Link) : (s.setLink k f).setup = s.setup := rfl
@[simp] theorem State.setLink_keeper (s : State) (k : Nat) (f : Link → Link) : (s.setLink k f).keeper = s.keeper := rfl
@[simp] theorem State.setLink_rwcPend (s : State) (k : Nat) (f : Link → Link) : (s.setLink k f).rwcPend = s.rwcPend := rfl
@[simp] theorem State.setLink_invQueue (s : State) (k : Nat) (f : Link → Link) : (s.setLink k f).invQueue = s.invQueue := rfl
@[simp] theorem State.setLink_wcache (s : State) (k : Nat) (f : Link → Link) : (s.setLink k f).wcache = s.wcache := rfl
@[simp] theorem State.setLink_fcache (s : State) (k : Nat) (f : Link → Link) : (s.setLink k f).fcache = s.fcache := rfl
@[simp] theorem State.setLink_err (s : State) (k : Nat) (f : Link → Link) : (s.setLink k f).err = s.err := rfl
@[simp] theorem State.setLink_cores (s : State) (k : Nat) (f : Link → Link) : (s.setLink k f).cores = s.cores := rfl
@[simp] theorem State.setLink_launches (s : State) (k : Nat) (f : Link → Link) : (s.setLink k f).launches = s.launches := rfl
@[simp] theorem State.setLink_nextLaunch (s : State) (k : Nat) (f : Link → Link) : (s.setLink k f).nextLaunch = s.nextLaunch := rfl
@[simp] theorem State.setLink_reqs (s : State) (k : Nat) (f : Link → Link) : (s.setLink k f).reqs = s.reqs := rfl
@[simp] theorem State.setLink_hreads (s : State) (k : Nat) (f : Link → Link) : (s.setLink k f).hreads = s.hreads := rfl
@[simp] theorem State.setLink_hostOut (s : State) (k : Nat) (f : Link → Link) : (s.setLink k f).hostOut = s.hostOut := rfl
@[simp] theorem State.setLink_fabOut (s : State) (k : Nat) (f : Link → Link) : (s.setLink k f).fabOut = s.fabOut := rfl
@[simp] theorem State.setLink_cut (s : State) (k : Nat) (f : Link → Link) : (s.setLink k f).cut = s.cut := rfl
@[simp] theorem State.setLink_cutAll (s : State) (k : Nat) (f : Link → Link) : (s.setLink k f).cutAll = s.cutAll := rfl
@[simp] theorem State.setLink_tables (s : State) (k : Nat) (f : Link → Link) : (s.setLink k f).tables = s.tables := rfl
@[simp] theorem State.setLink_rings (s : State) (k : Nat) (f : Link → Link) : (s.setLink k f).rings = s.rings := rfl
@[simp] theorem State.setLink_vectors (s : State) (k : Nat) (f : Link → Link) : (s.setLink k f).vectors = s.vectors := rfl
@[simp] theorem State.setLink_svc (s : State) (k : Nat) (f : Link → Link) : (s.setLink k f).svc = s.svc := rfl
@[simp] theorem State.setLink_power (s : State) (k : Nat) (f : Link → Link) : (s.setLink k f).power = s.power := rfl
@[simp] theorem State.setLink_start (s : State) (k : Nat) (f : Link → Link) : (s.setLink k f).start = s.start := rfl
@[simp] theorem State.setLink_spdm (s : State) (k : Nat) (f : Link → Link) : (s.setLink k f).spdm = s.spdm := rfl
@[simp] theorem State.setLink_resets (s : State) (k : Nat) (f : Link → Link) : (s.setLink k f).resets = s.resets := rfl
@[simp] theorem State.setLink_mgmt (s : State) (k : Nat) (f : Link → Link) : (s.setLink k f).mgmt = s.mgmt := rfl
@[simp] theorem State.setLink_standby (s : State) (k : Nat) (f : Link → Link) : (s.setLink k f).standby = s.standby := rfl

/-! ## State.setPart -/

@[simp] theorem State.setPart_pending (s : State) (p : Nat) (f : Partition → Partition) : (s.setPart p f).pending = s.pending := rfl
@[simp] theorem State.setPart_freeCtr (s : State) (p : Nat) (f : Partition → Partition) : (s.setPart p f).freeCtr = s.freeCtr := rfl
@[simp] theorem State.setPart_powered (s : State) (p : Nat) (f : Partition → Partition) : (s.setPart p f).powered = s.powered := rfl
@[simp] theorem State.setPart_lcount (s : State) (p : Nat) (f : Partition → Partition) : (s.setPart p f).lcount = s.lcount := rfl
@[simp] theorem State.setPart_lcLatch (s : State) (p : Nat) (f : Partition → Partition) : (s.setPart p f).lcLatch = s.lcLatch := rfl
@[simp] theorem State.setPart_late (s : State) (p : Nat) (f : Partition → Partition) : (s.setPart p f).late = s.late := rfl
@[simp] theorem State.setPart_progress (s : State) (p : Nat) (f : Partition → Partition) : (s.setPart p f).progress = s.progress := rfl
@[simp] theorem State.setPart_mem (s : State) (p : Nat) (f : Partition → Partition) : (s.setPart p f).mem = s.mem := rfl
@[simp] theorem State.setPart_lost (s : State) (p : Nat) (f : Partition → Partition) : (s.setPart p f).lost = s.lost := rfl
@[simp] theorem State.setPart_poison (s : State) (p : Nat) (f : Partition → Partition) : (s.setPart p f).poison = s.poison := rfl
@[simp] theorem State.setPart_defects (s : State) (p : Nat) (f : Partition → Partition) : (s.setPart p f).defects = s.defects := rfl
@[simp] theorem State.setPart_crcOff (s : State) (p : Nat) (f : Partition → Partition) : (s.setPart p f).crcOff = s.crcOff := rfl
@[simp] theorem State.setPart_sramBad (s : State) (p : Nat) (f : Partition → Partition) : (s.setPart p f).sramBad = s.sramBad := rfl
@[simp] theorem State.setPart_eccFixed (s : State) (p : Nat) (f : Partition → Partition) : (s.setPart p f).eccFixed = s.eccFixed := rfl
@[simp] theorem State.setPart_scaleBad (s : State) (p : Nat) (f : Partition → Partition) : (s.setPart p f).scaleBad = s.scaleBad := rfl
@[simp] theorem State.setPart_fcacheBad (s : State) (p : Nat) (f : Partition → Partition) : (s.setPart p f).fcacheBad = s.fcacheBad := rfl
@[simp] theorem State.setPart_wcacheBad (s : State) (p : Nat) (f : Partition → Partition) : (s.setPart p f).wcacheBad = s.wcacheBad := rfl
@[simp] theorem State.setPart_scrub (s : State) (p : Nat) (f : Partition → Partition) : (s.setPart p f).scrub = s.scrub := rfl
@[simp] theorem State.setPart_retrained (s : State) (p : Nat) (f : Partition → Partition) : (s.setPart p f).retrained = s.retrained := rfl
@[simp] theorem State.setPart_spool (s : State) (p : Nat) (f : Partition → Partition) : (s.setPart p f).spool = s.spool := rfl
@[simp] theorem State.setPart_spoolChg (s : State) (p : Nat) (f : Partition → Partition) : (s.setPart p f).spoolChg = s.spoolChg := rfl
@[simp] theorem State.setPart_waiters (s : State) (p : Nat) (f : Partition → Partition) : (s.setPart p f).waiters = s.waiters := rfl
@[simp] theorem State.setPart_setup (s : State) (p : Nat) (f : Partition → Partition) : (s.setPart p f).setup = s.setup := rfl
@[simp] theorem State.setPart_keeper (s : State) (p : Nat) (f : Partition → Partition) : (s.setPart p f).keeper = s.keeper := rfl
@[simp] theorem State.setPart_rwcPend (s : State) (p : Nat) (f : Partition → Partition) : (s.setPart p f).rwcPend = s.rwcPend := rfl
@[simp] theorem State.setPart_invQueue (s : State) (p : Nat) (f : Partition → Partition) : (s.setPart p f).invQueue = s.invQueue := rfl
@[simp] theorem State.setPart_wcache (s : State) (p : Nat) (f : Partition → Partition) : (s.setPart p f).wcache = s.wcache := rfl
@[simp] theorem State.setPart_fcache (s : State) (p : Nat) (f : Partition → Partition) : (s.setPart p f).fcache = s.fcache := rfl
@[simp] theorem State.setPart_err (s : State) (p : Nat) (f : Partition → Partition) : (s.setPart p f).err = s.err := rfl
@[simp] theorem State.setPart_cores (s : State) (p : Nat) (f : Partition → Partition) : (s.setPart p f).cores = s.cores := rfl
@[simp] theorem State.setPart_launches (s : State) (p : Nat) (f : Partition → Partition) : (s.setPart p f).launches = s.launches := rfl
@[simp] theorem State.setPart_nextLaunch (s : State) (p : Nat) (f : Partition → Partition) : (s.setPart p f).nextLaunch = s.nextLaunch := rfl
@[simp] theorem State.setPart_reqs (s : State) (p : Nat) (f : Partition → Partition) : (s.setPart p f).reqs = s.reqs := rfl
@[simp] theorem State.setPart_hreads (s : State) (p : Nat) (f : Partition → Partition) : (s.setPart p f).hreads = s.hreads := rfl
@[simp] theorem State.setPart_hostOut (s : State) (p : Nat) (f : Partition → Partition) : (s.setPart p f).hostOut = s.hostOut := rfl
@[simp] theorem State.setPart_fabOut (s : State) (p : Nat) (f : Partition → Partition) : (s.setPart p f).fabOut = s.fabOut := rfl
@[simp] theorem State.setPart_cut (s : State) (p : Nat) (f : Partition → Partition) : (s.setPart p f).cut = s.cut := rfl
@[simp] theorem State.setPart_cutAll (s : State) (p : Nat) (f : Partition → Partition) : (s.setPart p f).cutAll = s.cutAll := rfl
@[simp] theorem State.setPart_tables (s : State) (p : Nat) (f : Partition → Partition) : (s.setPart p f).tables = s.tables := rfl
@[simp] theorem State.setPart_rings (s : State) (p : Nat) (f : Partition → Partition) : (s.setPart p f).rings = s.rings := rfl
@[simp] theorem State.setPart_vectors (s : State) (p : Nat) (f : Partition → Partition) : (s.setPart p f).vectors = s.vectors := rfl
@[simp] theorem State.setPart_links (s : State) (p : Nat) (f : Partition → Partition) : (s.setPart p f).links = s.links := rfl
@[simp] theorem State.setPart_svc (s : State) (p : Nat) (f : Partition → Partition) : (s.setPart p f).svc = s.svc := rfl
@[simp] theorem State.setPart_start (s : State) (p : Nat) (f : Partition → Partition) : (s.setPart p f).start = s.start := rfl
@[simp] theorem State.setPart_spdm (s : State) (p : Nat) (f : Partition → Partition) : (s.setPart p f).spdm = s.spdm := rfl
@[simp] theorem State.setPart_resets (s : State) (p : Nat) (f : Partition → Partition) : (s.setPart p f).resets = s.resets := rfl
@[simp] theorem State.setPart_mgmt (s : State) (p : Nat) (f : Partition → Partition) : (s.setPart p f).mgmt = s.mgmt := rfl
@[simp] theorem State.setPart_standby (s : State) (p : Nat) (f : Partition → Partition) : (s.setPart p f).standby = s.standby := rfl

/-! ## State.setLatch -/

@[simp] theorem State.setLatch_pending (s : State) (x : Nat) (l : Latch) : (s.setLatch x l).pending = s.pending := rfl
@[simp] theorem State.setLatch_freeCtr (s : State) (x : Nat) (l : Latch) : (s.setLatch x l).freeCtr = s.freeCtr := rfl
@[simp] theorem State.setLatch_powered (s : State) (x : Nat) (l : Latch) : (s.setLatch x l).powered = s.powered := rfl
@[simp] theorem State.setLatch_lcount (s : State) (x : Nat) (l : Latch) : (s.setLatch x l).lcount = s.lcount := rfl
@[simp] theorem State.setLatch_lcLatch (s : State) (x : Nat) (l : Latch) : (s.setLatch x l).lcLatch = s.lcLatch := rfl
@[simp] theorem State.setLatch_late (s : State) (x : Nat) (l : Latch) : (s.setLatch x l).late = s.late := rfl
@[simp] theorem State.setLatch_progress (s : State) (x : Nat) (l : Latch) : (s.setLatch x l).progress = s.progress := rfl
@[simp] theorem State.setLatch_mem (s : State) (x : Nat) (l : Latch) : (s.setLatch x l).mem = s.mem := rfl
@[simp] theorem State.setLatch_lost (s : State) (x : Nat) (l : Latch) : (s.setLatch x l).lost = s.lost := rfl
@[simp] theorem State.setLatch_poison (s : State) (x : Nat) (l : Latch) : (s.setLatch x l).poison = s.poison := rfl
@[simp] theorem State.setLatch_defects (s : State) (x : Nat) (l : Latch) : (s.setLatch x l).defects = s.defects := rfl
@[simp] theorem State.setLatch_crcOff (s : State) (x : Nat) (l : Latch) : (s.setLatch x l).crcOff = s.crcOff := rfl
@[simp] theorem State.setLatch_sramBad (s : State) (x : Nat) (l : Latch) : (s.setLatch x l).sramBad = s.sramBad := rfl
@[simp] theorem State.setLatch_eccFixed (s : State) (x : Nat) (l : Latch) : (s.setLatch x l).eccFixed = s.eccFixed := rfl
@[simp] theorem State.setLatch_scaleBad (s : State) (x : Nat) (l : Latch) : (s.setLatch x l).scaleBad = s.scaleBad := rfl
@[simp] theorem State.setLatch_fcacheBad (s : State) (x : Nat) (l : Latch) : (s.setLatch x l).fcacheBad = s.fcacheBad := rfl
@[simp] theorem State.setLatch_wcacheBad (s : State) (x : Nat) (l : Latch) : (s.setLatch x l).wcacheBad = s.wcacheBad := rfl
@[simp] theorem State.setLatch_scrub (s : State) (x : Nat) (l : Latch) : (s.setLatch x l).scrub = s.scrub := rfl
@[simp] theorem State.setLatch_retrained (s : State) (x : Nat) (l : Latch) : (s.setLatch x l).retrained = s.retrained := rfl
@[simp] theorem State.setLatch_spool (s : State) (x : Nat) (l : Latch) : (s.setLatch x l).spool = s.spool := rfl
@[simp] theorem State.setLatch_spoolChg (s : State) (x : Nat) (l : Latch) : (s.setLatch x l).spoolChg = s.spoolChg := rfl
@[simp] theorem State.setLatch_waiters (s : State) (x : Nat) (l : Latch) : (s.setLatch x l).waiters = s.waiters := rfl
@[simp] theorem State.setLatch_setup (s : State) (x : Nat) (l : Latch) : (s.setLatch x l).setup = s.setup := rfl
@[simp] theorem State.setLatch_keeper (s : State) (x : Nat) (l : Latch) : (s.setLatch x l).keeper = s.keeper := rfl
@[simp] theorem State.setLatch_rwcPend (s : State) (x : Nat) (l : Latch) : (s.setLatch x l).rwcPend = s.rwcPend := rfl
@[simp] theorem State.setLatch_invQueue (s : State) (x : Nat) (l : Latch) : (s.setLatch x l).invQueue = s.invQueue := rfl
@[simp] theorem State.setLatch_wcache (s : State) (x : Nat) (l : Latch) : (s.setLatch x l).wcache = s.wcache := rfl
@[simp] theorem State.setLatch_fcache (s : State) (x : Nat) (l : Latch) : (s.setLatch x l).fcache = s.fcache := rfl
@[simp] theorem State.setLatch_cores (s : State) (x : Nat) (l : Latch) : (s.setLatch x l).cores = s.cores := rfl
@[simp] theorem State.setLatch_launches (s : State) (x : Nat) (l : Latch) : (s.setLatch x l).launches = s.launches := rfl
@[simp] theorem State.setLatch_nextLaunch (s : State) (x : Nat) (l : Latch) : (s.setLatch x l).nextLaunch = s.nextLaunch := rfl
@[simp] theorem State.setLatch_reqs (s : State) (x : Nat) (l : Latch) : (s.setLatch x l).reqs = s.reqs := rfl
@[simp] theorem State.setLatch_hreads (s : State) (x : Nat) (l : Latch) : (s.setLatch x l).hreads = s.hreads := rfl
@[simp] theorem State.setLatch_hostOut (s : State) (x : Nat) (l : Latch) : (s.setLatch x l).hostOut = s.hostOut := rfl
@[simp] theorem State.setLatch_fabOut (s : State) (x : Nat) (l : Latch) : (s.setLatch x l).fabOut = s.fabOut := rfl
@[simp] theorem State.setLatch_cut (s : State) (x : Nat) (l : Latch) : (s.setLatch x l).cut = s.cut := rfl
@[simp] theorem State.setLatch_cutAll (s : State) (x : Nat) (l : Latch) : (s.setLatch x l).cutAll = s.cutAll := rfl
@[simp] theorem State.setLatch_tables (s : State) (x : Nat) (l : Latch) : (s.setLatch x l).tables = s.tables := rfl
@[simp] theorem State.setLatch_rings (s : State) (x : Nat) (l : Latch) : (s.setLatch x l).rings = s.rings := rfl
@[simp] theorem State.setLatch_vectors (s : State) (x : Nat) (l : Latch) : (s.setLatch x l).vectors = s.vectors := rfl
@[simp] theorem State.setLatch_links (s : State) (x : Nat) (l : Latch) : (s.setLatch x l).links = s.links := rfl
@[simp] theorem State.setLatch_svc (s : State) (x : Nat) (l : Latch) : (s.setLatch x l).svc = s.svc := rfl
@[simp] theorem State.setLatch_power (s : State) (x : Nat) (l : Latch) : (s.setLatch x l).power = s.power := rfl
@[simp] theorem State.setLatch_start (s : State) (x : Nat) (l : Latch) : (s.setLatch x l).start = s.start := rfl
@[simp] theorem State.setLatch_spdm (s : State) (x : Nat) (l : Latch) : (s.setLatch x l).spdm = s.spdm := rfl
@[simp] theorem State.setLatch_resets (s : State) (x : Nat) (l : Latch) : (s.setLatch x l).resets = s.resets := rfl
@[simp] theorem State.setLatch_mgmt (s : State) (x : Nat) (l : Latch) : (s.setLatch x l).mgmt = s.mgmt := rfl
@[simp] theorem State.setLatch_standby (s : State) (x : Nat) (l : Latch) : (s.setLatch x l).standby = s.standby := rfl

/-! ## State.putMem -/

@[simp] theorem State.putMem_pending (s : State) (a : Nat) (bs : List Byte) : (s.putMem a bs).pending = s.pending := rfl
@[simp] theorem State.putMem_freeCtr (s : State) (a : Nat) (bs : List Byte) : (s.putMem a bs).freeCtr = s.freeCtr := rfl
@[simp] theorem State.putMem_powered (s : State) (a : Nat) (bs : List Byte) : (s.putMem a bs).powered = s.powered := rfl
@[simp] theorem State.putMem_lcount (s : State) (a : Nat) (bs : List Byte) : (s.putMem a bs).lcount = s.lcount := rfl
@[simp] theorem State.putMem_lcLatch (s : State) (a : Nat) (bs : List Byte) : (s.putMem a bs).lcLatch = s.lcLatch := rfl
@[simp] theorem State.putMem_late (s : State) (a : Nat) (bs : List Byte) : (s.putMem a bs).late = s.late := rfl
@[simp] theorem State.putMem_progress (s : State) (a : Nat) (bs : List Byte) : (s.putMem a bs).progress = s.progress := rfl
@[simp] theorem State.putMem_poison (s : State) (a : Nat) (bs : List Byte) : (s.putMem a bs).poison = s.poison := rfl
@[simp] theorem State.putMem_defects (s : State) (a : Nat) (bs : List Byte) : (s.putMem a bs).defects = s.defects := rfl
@[simp] theorem State.putMem_crcOff (s : State) (a : Nat) (bs : List Byte) : (s.putMem a bs).crcOff = s.crcOff := rfl
@[simp] theorem State.putMem_sramBad (s : State) (a : Nat) (bs : List Byte) : (s.putMem a bs).sramBad = s.sramBad := rfl
@[simp] theorem State.putMem_eccFixed (s : State) (a : Nat) (bs : List Byte) : (s.putMem a bs).eccFixed = s.eccFixed := rfl
@[simp] theorem State.putMem_scaleBad (s : State) (a : Nat) (bs : List Byte) : (s.putMem a bs).scaleBad = s.scaleBad := rfl
@[simp] theorem State.putMem_fcacheBad (s : State) (a : Nat) (bs : List Byte) : (s.putMem a bs).fcacheBad = s.fcacheBad := rfl
@[simp] theorem State.putMem_wcacheBad (s : State) (a : Nat) (bs : List Byte) : (s.putMem a bs).wcacheBad = s.wcacheBad := rfl
@[simp] theorem State.putMem_scrub (s : State) (a : Nat) (bs : List Byte) : (s.putMem a bs).scrub = s.scrub := rfl
@[simp] theorem State.putMem_retrained (s : State) (a : Nat) (bs : List Byte) : (s.putMem a bs).retrained = s.retrained := rfl
@[simp] theorem State.putMem_spool (s : State) (a : Nat) (bs : List Byte) : (s.putMem a bs).spool = s.spool := rfl
@[simp] theorem State.putMem_spoolChg (s : State) (a : Nat) (bs : List Byte) : (s.putMem a bs).spoolChg = s.spoolChg := rfl
@[simp] theorem State.putMem_waiters (s : State) (a : Nat) (bs : List Byte) : (s.putMem a bs).waiters = s.waiters := rfl
@[simp] theorem State.putMem_setup (s : State) (a : Nat) (bs : List Byte) : (s.putMem a bs).setup = s.setup := rfl
@[simp] theorem State.putMem_keeper (s : State) (a : Nat) (bs : List Byte) : (s.putMem a bs).keeper = s.keeper := rfl
@[simp] theorem State.putMem_rwcPend (s : State) (a : Nat) (bs : List Byte) : (s.putMem a bs).rwcPend = s.rwcPend := rfl
@[simp] theorem State.putMem_invQueue (s : State) (a : Nat) (bs : List Byte) : (s.putMem a bs).invQueue = s.invQueue := rfl
@[simp] theorem State.putMem_wcache (s : State) (a : Nat) (bs : List Byte) : (s.putMem a bs).wcache = s.wcache := rfl
@[simp] theorem State.putMem_fcache (s : State) (a : Nat) (bs : List Byte) : (s.putMem a bs).fcache = s.fcache := rfl
@[simp] theorem State.putMem_err (s : State) (a : Nat) (bs : List Byte) : (s.putMem a bs).err = s.err := rfl
@[simp] theorem State.putMem_cores (s : State) (a : Nat) (bs : List Byte) : (s.putMem a bs).cores = s.cores := rfl
@[simp] theorem State.putMem_launches (s : State) (a : Nat) (bs : List Byte) : (s.putMem a bs).launches = s.launches := rfl
@[simp] theorem State.putMem_nextLaunch (s : State) (a : Nat) (bs : List Byte) : (s.putMem a bs).nextLaunch = s.nextLaunch := rfl
@[simp] theorem State.putMem_reqs (s : State) (a : Nat) (bs : List Byte) : (s.putMem a bs).reqs = s.reqs := rfl
@[simp] theorem State.putMem_hreads (s : State) (a : Nat) (bs : List Byte) : (s.putMem a bs).hreads = s.hreads := rfl
@[simp] theorem State.putMem_hostOut (s : State) (a : Nat) (bs : List Byte) : (s.putMem a bs).hostOut = s.hostOut := rfl
@[simp] theorem State.putMem_fabOut (s : State) (a : Nat) (bs : List Byte) : (s.putMem a bs).fabOut = s.fabOut := rfl
@[simp] theorem State.putMem_cut (s : State) (a : Nat) (bs : List Byte) : (s.putMem a bs).cut = s.cut := rfl
@[simp] theorem State.putMem_cutAll (s : State) (a : Nat) (bs : List Byte) : (s.putMem a bs).cutAll = s.cutAll := rfl
@[simp] theorem State.putMem_tables (s : State) (a : Nat) (bs : List Byte) : (s.putMem a bs).tables = s.tables := rfl
@[simp] theorem State.putMem_rings (s : State) (a : Nat) (bs : List Byte) : (s.putMem a bs).rings = s.rings := rfl
@[simp] theorem State.putMem_vectors (s : State) (a : Nat) (bs : List Byte) : (s.putMem a bs).vectors = s.vectors := rfl
@[simp] theorem State.putMem_links (s : State) (a : Nat) (bs : List Byte) : (s.putMem a bs).links = s.links := rfl
@[simp] theorem State.putMem_svc (s : State) (a : Nat) (bs : List Byte) : (s.putMem a bs).svc = s.svc := rfl
@[simp] theorem State.putMem_power (s : State) (a : Nat) (bs : List Byte) : (s.putMem a bs).power = s.power := rfl
@[simp] theorem State.putMem_start (s : State) (a : Nat) (bs : List Byte) : (s.putMem a bs).start = s.start := rfl
@[simp] theorem State.putMem_spdm (s : State) (a : Nat) (bs : List Byte) : (s.putMem a bs).spdm = s.spdm := rfl
@[simp] theorem State.putMem_resets (s : State) (a : Nat) (bs : List Byte) : (s.putMem a bs).resets = s.resets := rfl
@[simp] theorem State.putMem_mgmt (s : State) (a : Nat) (bs : List Byte) : (s.putMem a bs).mgmt = s.mgmt := rfl
@[simp] theorem State.putMem_standby (s : State) (a : Nat) (bs : List Byte) : (s.putMem a bs).standby = s.standby := rfl

/-! ## State.putWord -/

@[simp] theorem State.putWord_pending (s : State) (a : Nat) (w : Word) : (s.putWord a w).pending = s.pending := rfl
@[simp] theorem State.putWord_freeCtr (s : State) (a : Nat) (w : Word) : (s.putWord a w).freeCtr = s.freeCtr := rfl
@[simp] theorem State.putWord_powered (s : State) (a : Nat) (w : Word) : (s.putWord a w).powered = s.powered := rfl
@[simp] theorem State.putWord_lcount (s : State) (a : Nat) (w : Word) : (s.putWord a w).lcount = s.lcount := rfl
@[simp] theorem State.putWord_lcLatch (s : State) (a : Nat) (w : Word) : (s.putWord a w).lcLatch = s.lcLatch := rfl
@[simp] theorem State.putWord_late (s : State) (a : Nat) (w : Word) : (s.putWord a w).late = s.late := rfl
@[simp] theorem State.putWord_progress (s : State) (a : Nat) (w : Word) : (s.putWord a w).progress = s.progress := rfl
@[simp] theorem State.putWord_poison (s : State) (a : Nat) (w : Word) : (s.putWord a w).poison = s.poison := rfl
@[simp] theorem State.putWord_defects (s : State) (a : Nat) (w : Word) : (s.putWord a w).defects = s.defects := rfl
@[simp] theorem State.putWord_crcOff (s : State) (a : Nat) (w : Word) : (s.putWord a w).crcOff = s.crcOff := rfl
@[simp] theorem State.putWord_sramBad (s : State) (a : Nat) (w : Word) : (s.putWord a w).sramBad = s.sramBad := rfl
@[simp] theorem State.putWord_eccFixed (s : State) (a : Nat) (w : Word) : (s.putWord a w).eccFixed = s.eccFixed := rfl
@[simp] theorem State.putWord_scaleBad (s : State) (a : Nat) (w : Word) : (s.putWord a w).scaleBad = s.scaleBad := rfl
@[simp] theorem State.putWord_fcacheBad (s : State) (a : Nat) (w : Word) : (s.putWord a w).fcacheBad = s.fcacheBad := rfl
@[simp] theorem State.putWord_wcacheBad (s : State) (a : Nat) (w : Word) : (s.putWord a w).wcacheBad = s.wcacheBad := rfl
@[simp] theorem State.putWord_scrub (s : State) (a : Nat) (w : Word) : (s.putWord a w).scrub = s.scrub := rfl
@[simp] theorem State.putWord_retrained (s : State) (a : Nat) (w : Word) : (s.putWord a w).retrained = s.retrained := rfl
@[simp] theorem State.putWord_spool (s : State) (a : Nat) (w : Word) : (s.putWord a w).spool = s.spool := rfl
@[simp] theorem State.putWord_spoolChg (s : State) (a : Nat) (w : Word) : (s.putWord a w).spoolChg = s.spoolChg := rfl
@[simp] theorem State.putWord_waiters (s : State) (a : Nat) (w : Word) : (s.putWord a w).waiters = s.waiters := rfl
@[simp] theorem State.putWord_setup (s : State) (a : Nat) (w : Word) : (s.putWord a w).setup = s.setup := rfl
@[simp] theorem State.putWord_keeper (s : State) (a : Nat) (w : Word) : (s.putWord a w).keeper = s.keeper := rfl
@[simp] theorem State.putWord_rwcPend (s : State) (a : Nat) (w : Word) : (s.putWord a w).rwcPend = s.rwcPend := rfl
@[simp] theorem State.putWord_invQueue (s : State) (a : Nat) (w : Word) : (s.putWord a w).invQueue = s.invQueue := rfl
@[simp] theorem State.putWord_wcache (s : State) (a : Nat) (w : Word) : (s.putWord a w).wcache = s.wcache := rfl
@[simp] theorem State.putWord_fcache (s : State) (a : Nat) (w : Word) : (s.putWord a w).fcache = s.fcache := rfl
@[simp] theorem State.putWord_err (s : State) (a : Nat) (w : Word) : (s.putWord a w).err = s.err := rfl
@[simp] theorem State.putWord_cores (s : State) (a : Nat) (w : Word) : (s.putWord a w).cores = s.cores := rfl
@[simp] theorem State.putWord_launches (s : State) (a : Nat) (w : Word) : (s.putWord a w).launches = s.launches := rfl
@[simp] theorem State.putWord_nextLaunch (s : State) (a : Nat) (w : Word) : (s.putWord a w).nextLaunch = s.nextLaunch := rfl
@[simp] theorem State.putWord_reqs (s : State) (a : Nat) (w : Word) : (s.putWord a w).reqs = s.reqs := rfl
@[simp] theorem State.putWord_hreads (s : State) (a : Nat) (w : Word) : (s.putWord a w).hreads = s.hreads := rfl
@[simp] theorem State.putWord_hostOut (s : State) (a : Nat) (w : Word) : (s.putWord a w).hostOut = s.hostOut := rfl
@[simp] theorem State.putWord_fabOut (s : State) (a : Nat) (w : Word) : (s.putWord a w).fabOut = s.fabOut := rfl
@[simp] theorem State.putWord_cut (s : State) (a : Nat) (w : Word) : (s.putWord a w).cut = s.cut := rfl
@[simp] theorem State.putWord_cutAll (s : State) (a : Nat) (w : Word) : (s.putWord a w).cutAll = s.cutAll := rfl
@[simp] theorem State.putWord_tables (s : State) (a : Nat) (w : Word) : (s.putWord a w).tables = s.tables := rfl
@[simp] theorem State.putWord_rings (s : State) (a : Nat) (w : Word) : (s.putWord a w).rings = s.rings := rfl
@[simp] theorem State.putWord_vectors (s : State) (a : Nat) (w : Word) : (s.putWord a w).vectors = s.vectors := rfl
@[simp] theorem State.putWord_links (s : State) (a : Nat) (w : Word) : (s.putWord a w).links = s.links := rfl
@[simp] theorem State.putWord_svc (s : State) (a : Nat) (w : Word) : (s.putWord a w).svc = s.svc := rfl
@[simp] theorem State.putWord_power (s : State) (a : Nat) (w : Word) : (s.putWord a w).power = s.power := rfl
@[simp] theorem State.putWord_start (s : State) (a : Nat) (w : Word) : (s.putWord a w).start = s.start := rfl
@[simp] theorem State.putWord_spdm (s : State) (a : Nat) (w : Word) : (s.putWord a w).spdm = s.spdm := rfl
@[simp] theorem State.putWord_resets (s : State) (a : Nat) (w : Word) : (s.putWord a w).resets = s.resets := rfl
@[simp] theorem State.putWord_mgmt (s : State) (a : Nat) (w : Word) : (s.putWord a w).mgmt = s.mgmt := rfl
@[simp] theorem State.putWord_standby (s : State) (a : Nat) (w : Word) : (s.putWord a w).standby = s.standby := rfl

/-! ## State.zeroMem -/

@[simp] theorem State.zeroMem_pending (s : State) (a n : Nat) : (s.zeroMem a n).pending = s.pending := rfl
@[simp] theorem State.zeroMem_freeCtr (s : State) (a n : Nat) : (s.zeroMem a n).freeCtr = s.freeCtr := rfl
@[simp] theorem State.zeroMem_powered (s : State) (a n : Nat) : (s.zeroMem a n).powered = s.powered := rfl
@[simp] theorem State.zeroMem_lcount (s : State) (a n : Nat) : (s.zeroMem a n).lcount = s.lcount := rfl
@[simp] theorem State.zeroMem_lcLatch (s : State) (a n : Nat) : (s.zeroMem a n).lcLatch = s.lcLatch := rfl
@[simp] theorem State.zeroMem_late (s : State) (a n : Nat) : (s.zeroMem a n).late = s.late := rfl
@[simp] theorem State.zeroMem_progress (s : State) (a n : Nat) : (s.zeroMem a n).progress = s.progress := rfl
@[simp] theorem State.zeroMem_poison (s : State) (a n : Nat) : (s.zeroMem a n).poison = s.poison := rfl
@[simp] theorem State.zeroMem_defects (s : State) (a n : Nat) : (s.zeroMem a n).defects = s.defects := rfl
@[simp] theorem State.zeroMem_crcOff (s : State) (a n : Nat) : (s.zeroMem a n).crcOff = s.crcOff := rfl
@[simp] theorem State.zeroMem_sramBad (s : State) (a n : Nat) : (s.zeroMem a n).sramBad = s.sramBad := rfl
@[simp] theorem State.zeroMem_eccFixed (s : State) (a n : Nat) : (s.zeroMem a n).eccFixed = s.eccFixed := rfl
@[simp] theorem State.zeroMem_scaleBad (s : State) (a n : Nat) : (s.zeroMem a n).scaleBad = s.scaleBad := rfl
@[simp] theorem State.zeroMem_fcacheBad (s : State) (a n : Nat) : (s.zeroMem a n).fcacheBad = s.fcacheBad := rfl
@[simp] theorem State.zeroMem_wcacheBad (s : State) (a n : Nat) : (s.zeroMem a n).wcacheBad = s.wcacheBad := rfl
@[simp] theorem State.zeroMem_scrub (s : State) (a n : Nat) : (s.zeroMem a n).scrub = s.scrub := rfl
@[simp] theorem State.zeroMem_retrained (s : State) (a n : Nat) : (s.zeroMem a n).retrained = s.retrained := rfl
@[simp] theorem State.zeroMem_spool (s : State) (a n : Nat) : (s.zeroMem a n).spool = s.spool := rfl
@[simp] theorem State.zeroMem_spoolChg (s : State) (a n : Nat) : (s.zeroMem a n).spoolChg = s.spoolChg := rfl
@[simp] theorem State.zeroMem_waiters (s : State) (a n : Nat) : (s.zeroMem a n).waiters = s.waiters := rfl
@[simp] theorem State.zeroMem_setup (s : State) (a n : Nat) : (s.zeroMem a n).setup = s.setup := rfl
@[simp] theorem State.zeroMem_keeper (s : State) (a n : Nat) : (s.zeroMem a n).keeper = s.keeper := rfl
@[simp] theorem State.zeroMem_rwcPend (s : State) (a n : Nat) : (s.zeroMem a n).rwcPend = s.rwcPend := rfl
@[simp] theorem State.zeroMem_invQueue (s : State) (a n : Nat) : (s.zeroMem a n).invQueue = s.invQueue := rfl
@[simp] theorem State.zeroMem_wcache (s : State) (a n : Nat) : (s.zeroMem a n).wcache = s.wcache := rfl
@[simp] theorem State.zeroMem_fcache (s : State) (a n : Nat) : (s.zeroMem a n).fcache = s.fcache := rfl
@[simp] theorem State.zeroMem_err (s : State) (a n : Nat) : (s.zeroMem a n).err = s.err := rfl
@[simp] theorem State.zeroMem_cores (s : State) (a n : Nat) : (s.zeroMem a n).cores = s.cores := rfl
@[simp] theorem State.zeroMem_launches (s : State) (a n : Nat) : (s.zeroMem a n).launches = s.launches := rfl
@[simp] theorem State.zeroMem_nextLaunch (s : State) (a n : Nat) : (s.zeroMem a n).nextLaunch = s.nextLaunch := rfl
@[simp] theorem State.zeroMem_reqs (s : State) (a n : Nat) : (s.zeroMem a n).reqs = s.reqs := rfl
@[simp] theorem State.zeroMem_hreads (s : State) (a n : Nat) : (s.zeroMem a n).hreads = s.hreads := rfl
@[simp] theorem State.zeroMem_hostOut (s : State) (a n : Nat) : (s.zeroMem a n).hostOut = s.hostOut := rfl
@[simp] theorem State.zeroMem_fabOut (s : State) (a n : Nat) : (s.zeroMem a n).fabOut = s.fabOut := rfl
@[simp] theorem State.zeroMem_cut (s : State) (a n : Nat) : (s.zeroMem a n).cut = s.cut := rfl
@[simp] theorem State.zeroMem_cutAll (s : State) (a n : Nat) : (s.zeroMem a n).cutAll = s.cutAll := rfl
@[simp] theorem State.zeroMem_tables (s : State) (a n : Nat) : (s.zeroMem a n).tables = s.tables := rfl
@[simp] theorem State.zeroMem_rings (s : State) (a n : Nat) : (s.zeroMem a n).rings = s.rings := rfl
@[simp] theorem State.zeroMem_vectors (s : State) (a n : Nat) : (s.zeroMem a n).vectors = s.vectors := rfl
@[simp] theorem State.zeroMem_links (s : State) (a n : Nat) : (s.zeroMem a n).links = s.links := rfl
@[simp] theorem State.zeroMem_svc (s : State) (a n : Nat) : (s.zeroMem a n).svc = s.svc := rfl
@[simp] theorem State.zeroMem_power (s : State) (a n : Nat) : (s.zeroMem a n).power = s.power := rfl
@[simp] theorem State.zeroMem_start (s : State) (a n : Nat) : (s.zeroMem a n).start = s.start := rfl
@[simp] theorem State.zeroMem_spdm (s : State) (a n : Nat) : (s.zeroMem a n).spdm = s.spdm := rfl
@[simp] theorem State.zeroMem_resets (s : State) (a n : Nat) : (s.zeroMem a n).resets = s.resets := rfl
@[simp] theorem State.zeroMem_mgmt (s : State) (a n : Nat) : (s.zeroMem a n).mgmt = s.mgmt := rfl
@[simp] theorem State.zeroMem_standby (s : State) (a n : Nat) : (s.zeroMem a n).standby = s.standby := rfl

/-! ## State.loseMem -/

@[simp] theorem State.loseMem_pending (s : State) (a n : Nat) : (s.loseMem a n).pending = s.pending := rfl
@[simp] theorem State.loseMem_powered (s : State) (a n : Nat) : (s.loseMem a n).powered = s.powered := rfl
@[simp] theorem State.loseMem_lcount (s : State) (a n : Nat) : (s.loseMem a n).lcount = s.lcount := rfl
@[simp] theorem State.loseMem_lcLatch (s : State) (a n : Nat) : (s.loseMem a n).lcLatch = s.lcLatch := rfl
@[simp] theorem State.loseMem_late (s : State) (a n : Nat) : (s.loseMem a n).late = s.late := rfl
@[simp] theorem State.loseMem_progress (s : State) (a n : Nat) : (s.loseMem a n).progress = s.progress := rfl
@[simp] theorem State.loseMem_poison (s : State) (a n : Nat) : (s.loseMem a n).poison = s.poison := rfl
@[simp] theorem State.loseMem_defects (s : State) (a n : Nat) : (s.loseMem a n).defects = s.defects := rfl
@[simp] theorem State.loseMem_crcOff (s : State) (a n : Nat) : (s.loseMem a n).crcOff = s.crcOff := rfl
@[simp] theorem State.loseMem_sramBad (s : State) (a n : Nat) : (s.loseMem a n).sramBad = s.sramBad := rfl
@[simp] theorem State.loseMem_eccFixed (s : State) (a n : Nat) : (s.loseMem a n).eccFixed = s.eccFixed := rfl
@[simp] theorem State.loseMem_scaleBad (s : State) (a n : Nat) : (s.loseMem a n).scaleBad = s.scaleBad := rfl
@[simp] theorem State.loseMem_fcacheBad (s : State) (a n : Nat) : (s.loseMem a n).fcacheBad = s.fcacheBad := rfl
@[simp] theorem State.loseMem_wcacheBad (s : State) (a n : Nat) : (s.loseMem a n).wcacheBad = s.wcacheBad := rfl
@[simp] theorem State.loseMem_scrub (s : State) (a n : Nat) : (s.loseMem a n).scrub = s.scrub := rfl
@[simp] theorem State.loseMem_retrained (s : State) (a n : Nat) : (s.loseMem a n).retrained = s.retrained := rfl
@[simp] theorem State.loseMem_spool (s : State) (a n : Nat) : (s.loseMem a n).spool = s.spool := rfl
@[simp] theorem State.loseMem_spoolChg (s : State) (a n : Nat) : (s.loseMem a n).spoolChg = s.spoolChg := rfl
@[simp] theorem State.loseMem_waiters (s : State) (a n : Nat) : (s.loseMem a n).waiters = s.waiters := rfl
@[simp] theorem State.loseMem_setup (s : State) (a n : Nat) : (s.loseMem a n).setup = s.setup := rfl
@[simp] theorem State.loseMem_keeper (s : State) (a n : Nat) : (s.loseMem a n).keeper = s.keeper := rfl
@[simp] theorem State.loseMem_rwcPend (s : State) (a n : Nat) : (s.loseMem a n).rwcPend = s.rwcPend := rfl
@[simp] theorem State.loseMem_invQueue (s : State) (a n : Nat) : (s.loseMem a n).invQueue = s.invQueue := rfl
@[simp] theorem State.loseMem_wcache (s : State) (a n : Nat) : (s.loseMem a n).wcache = s.wcache := rfl
@[simp] theorem State.loseMem_fcache (s : State) (a n : Nat) : (s.loseMem a n).fcache = s.fcache := rfl
@[simp] theorem State.loseMem_err (s : State) (a n : Nat) : (s.loseMem a n).err = s.err := rfl
@[simp] theorem State.loseMem_cores (s : State) (a n : Nat) : (s.loseMem a n).cores = s.cores := rfl
@[simp] theorem State.loseMem_launches (s : State) (a n : Nat) : (s.loseMem a n).launches = s.launches := rfl
@[simp] theorem State.loseMem_nextLaunch (s : State) (a n : Nat) : (s.loseMem a n).nextLaunch = s.nextLaunch := rfl
@[simp] theorem State.loseMem_reqs (s : State) (a n : Nat) : (s.loseMem a n).reqs = s.reqs := rfl
@[simp] theorem State.loseMem_hreads (s : State) (a n : Nat) : (s.loseMem a n).hreads = s.hreads := rfl
@[simp] theorem State.loseMem_hostOut (s : State) (a n : Nat) : (s.loseMem a n).hostOut = s.hostOut := rfl
@[simp] theorem State.loseMem_fabOut (s : State) (a n : Nat) : (s.loseMem a n).fabOut = s.fabOut := rfl
@[simp] theorem State.loseMem_cut (s : State) (a n : Nat) : (s.loseMem a n).cut = s.cut := rfl
@[simp] theorem State.loseMem_cutAll (s : State) (a n : Nat) : (s.loseMem a n).cutAll = s.cutAll := rfl
@[simp] theorem State.loseMem_tables (s : State) (a n : Nat) : (s.loseMem a n).tables = s.tables := rfl
@[simp] theorem State.loseMem_rings (s : State) (a n : Nat) : (s.loseMem a n).rings = s.rings := rfl
@[simp] theorem State.loseMem_vectors (s : State) (a n : Nat) : (s.loseMem a n).vectors = s.vectors := rfl
@[simp] theorem State.loseMem_links (s : State) (a n : Nat) : (s.loseMem a n).links = s.links := rfl
@[simp] theorem State.loseMem_svc (s : State) (a n : Nat) : (s.loseMem a n).svc = s.svc := rfl
@[simp] theorem State.loseMem_power (s : State) (a n : Nat) : (s.loseMem a n).power = s.power := rfl
@[simp] theorem State.loseMem_start (s : State) (a n : Nat) : (s.loseMem a n).start = s.start := rfl
@[simp] theorem State.loseMem_spdm (s : State) (a n : Nat) : (s.loseMem a n).spdm = s.spdm := rfl
@[simp] theorem State.loseMem_resets (s : State) (a n : Nat) : (s.loseMem a n).resets = s.resets := rfl
@[simp] theorem State.loseMem_mgmt (s : State) (a n : Nat) : (s.loseMem a n).mgmt = s.mgmt := rfl
@[simp] theorem State.loseMem_standby (s : State) (a n : Nat) : (s.loseMem a n).standby = s.standby := rfl

/-! ## State.setPoison -/

@[simp] theorem State.setPoison_pending (s : State) (b : Nat) (v : Bool) : (s.setPoison b v).pending = s.pending := rfl
@[simp] theorem State.setPoison_freeCtr (s : State) (b : Nat) (v : Bool) : (s.setPoison b v).freeCtr = s.freeCtr := rfl
@[simp] theorem State.setPoison_powered (s : State) (b : Nat) (v : Bool) : (s.setPoison b v).powered = s.powered := rfl
@[simp] theorem State.setPoison_lcount (s : State) (b : Nat) (v : Bool) : (s.setPoison b v).lcount = s.lcount := rfl
@[simp] theorem State.setPoison_lcLatch (s : State) (b : Nat) (v : Bool) : (s.setPoison b v).lcLatch = s.lcLatch := rfl
@[simp] theorem State.setPoison_late (s : State) (b : Nat) (v : Bool) : (s.setPoison b v).late = s.late := rfl
@[simp] theorem State.setPoison_progress (s : State) (b : Nat) (v : Bool) : (s.setPoison b v).progress = s.progress := rfl
@[simp] theorem State.setPoison_mem (s : State) (b : Nat) (v : Bool) : (s.setPoison b v).mem = s.mem := rfl
@[simp] theorem State.setPoison_lost (s : State) (b : Nat) (v : Bool) : (s.setPoison b v).lost = s.lost := rfl
@[simp] theorem State.setPoison_defects (s : State) (b : Nat) (v : Bool) : (s.setPoison b v).defects = s.defects := rfl
@[simp] theorem State.setPoison_crcOff (s : State) (b : Nat) (v : Bool) : (s.setPoison b v).crcOff = s.crcOff := rfl
@[simp] theorem State.setPoison_sramBad (s : State) (b : Nat) (v : Bool) : (s.setPoison b v).sramBad = s.sramBad := rfl
@[simp] theorem State.setPoison_eccFixed (s : State) (b : Nat) (v : Bool) : (s.setPoison b v).eccFixed = s.eccFixed := rfl
@[simp] theorem State.setPoison_scaleBad (s : State) (b : Nat) (v : Bool) : (s.setPoison b v).scaleBad = s.scaleBad := rfl
@[simp] theorem State.setPoison_fcacheBad (s : State) (b : Nat) (v : Bool) : (s.setPoison b v).fcacheBad = s.fcacheBad := rfl
@[simp] theorem State.setPoison_wcacheBad (s : State) (b : Nat) (v : Bool) : (s.setPoison b v).wcacheBad = s.wcacheBad := rfl
@[simp] theorem State.setPoison_scrub (s : State) (b : Nat) (v : Bool) : (s.setPoison b v).scrub = s.scrub := rfl
@[simp] theorem State.setPoison_retrained (s : State) (b : Nat) (v : Bool) : (s.setPoison b v).retrained = s.retrained := rfl
@[simp] theorem State.setPoison_spool (s : State) (b : Nat) (v : Bool) : (s.setPoison b v).spool = s.spool := rfl
@[simp] theorem State.setPoison_spoolChg (s : State) (b : Nat) (v : Bool) : (s.setPoison b v).spoolChg = s.spoolChg := rfl
@[simp] theorem State.setPoison_waiters (s : State) (b : Nat) (v : Bool) : (s.setPoison b v).waiters = s.waiters := rfl
@[simp] theorem State.setPoison_setup (s : State) (b : Nat) (v : Bool) : (s.setPoison b v).setup = s.setup := rfl
@[simp] theorem State.setPoison_keeper (s : State) (b : Nat) (v : Bool) : (s.setPoison b v).keeper = s.keeper := rfl
@[simp] theorem State.setPoison_rwcPend (s : State) (b : Nat) (v : Bool) : (s.setPoison b v).rwcPend = s.rwcPend := rfl
@[simp] theorem State.setPoison_invQueue (s : State) (b : Nat) (v : Bool) : (s.setPoison b v).invQueue = s.invQueue := rfl
@[simp] theorem State.setPoison_wcache (s : State) (b : Nat) (v : Bool) : (s.setPoison b v).wcache = s.wcache := rfl
@[simp] theorem State.setPoison_fcache (s : State) (b : Nat) (v : Bool) : (s.setPoison b v).fcache = s.fcache := rfl
@[simp] theorem State.setPoison_err (s : State) (b : Nat) (v : Bool) : (s.setPoison b v).err = s.err := rfl
@[simp] theorem State.setPoison_cores (s : State) (b : Nat) (v : Bool) : (s.setPoison b v).cores = s.cores := rfl
@[simp] theorem State.setPoison_launches (s : State) (b : Nat) (v : Bool) : (s.setPoison b v).launches = s.launches := rfl
@[simp] theorem State.setPoison_nextLaunch (s : State) (b : Nat) (v : Bool) : (s.setPoison b v).nextLaunch = s.nextLaunch := rfl
@[simp] theorem State.setPoison_reqs (s : State) (b : Nat) (v : Bool) : (s.setPoison b v).reqs = s.reqs := rfl
@[simp] theorem State.setPoison_hreads (s : State) (b : Nat) (v : Bool) : (s.setPoison b v).hreads = s.hreads := rfl
@[simp] theorem State.setPoison_hostOut (s : State) (b : Nat) (v : Bool) : (s.setPoison b v).hostOut = s.hostOut := rfl
@[simp] theorem State.setPoison_fabOut (s : State) (b : Nat) (v : Bool) : (s.setPoison b v).fabOut = s.fabOut := rfl
@[simp] theorem State.setPoison_cut (s : State) (b : Nat) (v : Bool) : (s.setPoison b v).cut = s.cut := rfl
@[simp] theorem State.setPoison_cutAll (s : State) (b : Nat) (v : Bool) : (s.setPoison b v).cutAll = s.cutAll := rfl
@[simp] theorem State.setPoison_tables (s : State) (b : Nat) (v : Bool) : (s.setPoison b v).tables = s.tables := rfl
@[simp] theorem State.setPoison_rings (s : State) (b : Nat) (v : Bool) : (s.setPoison b v).rings = s.rings := rfl
@[simp] theorem State.setPoison_vectors (s : State) (b : Nat) (v : Bool) : (s.setPoison b v).vectors = s.vectors := rfl
@[simp] theorem State.setPoison_links (s : State) (b : Nat) (v : Bool) : (s.setPoison b v).links = s.links := rfl
@[simp] theorem State.setPoison_svc (s : State) (b : Nat) (v : Bool) : (s.setPoison b v).svc = s.svc := rfl
@[simp] theorem State.setPoison_power (s : State) (b : Nat) (v : Bool) : (s.setPoison b v).power = s.power := rfl
@[simp] theorem State.setPoison_start (s : State) (b : Nat) (v : Bool) : (s.setPoison b v).start = s.start := rfl
@[simp] theorem State.setPoison_spdm (s : State) (b : Nat) (v : Bool) : (s.setPoison b v).spdm = s.spdm := rfl
@[simp] theorem State.setPoison_resets (s : State) (b : Nat) (v : Bool) : (s.setPoison b v).resets = s.resets := rfl
@[simp] theorem State.setPoison_mgmt (s : State) (b : Nat) (v : Bool) : (s.setPoison b v).mgmt = s.mgmt := rfl
@[simp] theorem State.setPoison_standby (s : State) (b : Nat) (v : Bool) : (s.setPoison b v).standby = s.standby := rfl

/-! ## State.spoolChange -/

@[simp] theorem State.spoolChange_pending (s : State) (n : Nat) (v : DWord) : (s.spoolChange n v).pending = s.pending := rfl
@[simp] theorem State.spoolChange_freeCtr (s : State) (n : Nat) (v : DWord) : (s.spoolChange n v).freeCtr = s.freeCtr := rfl
@[simp] theorem State.spoolChange_powered (s : State) (n : Nat) (v : DWord) : (s.spoolChange n v).powered = s.powered := rfl
@[simp] theorem State.spoolChange_lcount (s : State) (n : Nat) (v : DWord) : (s.spoolChange n v).lcount = s.lcount := rfl
@[simp] theorem State.spoolChange_lcLatch (s : State) (n : Nat) (v : DWord) : (s.spoolChange n v).lcLatch = s.lcLatch := rfl
@[simp] theorem State.spoolChange_late (s : State) (n : Nat) (v : DWord) : (s.spoolChange n v).late = s.late := rfl
@[simp] theorem State.spoolChange_progress (s : State) (n : Nat) (v : DWord) : (s.spoolChange n v).progress = s.progress := rfl
@[simp] theorem State.spoolChange_mem (s : State) (n : Nat) (v : DWord) : (s.spoolChange n v).mem = s.mem := rfl
@[simp] theorem State.spoolChange_lost (s : State) (n : Nat) (v : DWord) : (s.spoolChange n v).lost = s.lost := rfl
@[simp] theorem State.spoolChange_poison (s : State) (n : Nat) (v : DWord) : (s.spoolChange n v).poison = s.poison := rfl
@[simp] theorem State.spoolChange_defects (s : State) (n : Nat) (v : DWord) : (s.spoolChange n v).defects = s.defects := rfl
@[simp] theorem State.spoolChange_crcOff (s : State) (n : Nat) (v : DWord) : (s.spoolChange n v).crcOff = s.crcOff := rfl
@[simp] theorem State.spoolChange_sramBad (s : State) (n : Nat) (v : DWord) : (s.spoolChange n v).sramBad = s.sramBad := rfl
@[simp] theorem State.spoolChange_eccFixed (s : State) (n : Nat) (v : DWord) : (s.spoolChange n v).eccFixed = s.eccFixed := rfl
@[simp] theorem State.spoolChange_scaleBad (s : State) (n : Nat) (v : DWord) : (s.spoolChange n v).scaleBad = s.scaleBad := rfl
@[simp] theorem State.spoolChange_fcacheBad (s : State) (n : Nat) (v : DWord) : (s.spoolChange n v).fcacheBad = s.fcacheBad := rfl
@[simp] theorem State.spoolChange_wcacheBad (s : State) (n : Nat) (v : DWord) : (s.spoolChange n v).wcacheBad = s.wcacheBad := rfl
@[simp] theorem State.spoolChange_scrub (s : State) (n : Nat) (v : DWord) : (s.spoolChange n v).scrub = s.scrub := rfl
@[simp] theorem State.spoolChange_retrained (s : State) (n : Nat) (v : DWord) : (s.spoolChange n v).retrained = s.retrained := rfl
@[simp] theorem State.spoolChange_setup (s : State) (n : Nat) (v : DWord) : (s.spoolChange n v).setup = s.setup := rfl
@[simp] theorem State.spoolChange_keeper (s : State) (n : Nat) (v : DWord) : (s.spoolChange n v).keeper = s.keeper := rfl
@[simp] theorem State.spoolChange_rwcPend (s : State) (n : Nat) (v : DWord) : (s.spoolChange n v).rwcPend = s.rwcPend := rfl
@[simp] theorem State.spoolChange_invQueue (s : State) (n : Nat) (v : DWord) : (s.spoolChange n v).invQueue = s.invQueue := rfl
@[simp] theorem State.spoolChange_wcache (s : State) (n : Nat) (v : DWord) : (s.spoolChange n v).wcache = s.wcache := rfl
@[simp] theorem State.spoolChange_fcache (s : State) (n : Nat) (v : DWord) : (s.spoolChange n v).fcache = s.fcache := rfl
@[simp] theorem State.spoolChange_err (s : State) (n : Nat) (v : DWord) : (s.spoolChange n v).err = s.err := rfl
@[simp] theorem State.spoolChange_cores (s : State) (n : Nat) (v : DWord) : (s.spoolChange n v).cores = s.cores := rfl
@[simp] theorem State.spoolChange_launches (s : State) (n : Nat) (v : DWord) : (s.spoolChange n v).launches = s.launches := rfl
@[simp] theorem State.spoolChange_nextLaunch (s : State) (n : Nat) (v : DWord) : (s.spoolChange n v).nextLaunch = s.nextLaunch := rfl
@[simp] theorem State.spoolChange_reqs (s : State) (n : Nat) (v : DWord) : (s.spoolChange n v).reqs = s.reqs := rfl
@[simp] theorem State.spoolChange_hreads (s : State) (n : Nat) (v : DWord) : (s.spoolChange n v).hreads = s.hreads := rfl
@[simp] theorem State.spoolChange_hostOut (s : State) (n : Nat) (v : DWord) : (s.spoolChange n v).hostOut = s.hostOut := rfl
@[simp] theorem State.spoolChange_fabOut (s : State) (n : Nat) (v : DWord) : (s.spoolChange n v).fabOut = s.fabOut := rfl
@[simp] theorem State.spoolChange_cut (s : State) (n : Nat) (v : DWord) : (s.spoolChange n v).cut = s.cut := rfl
@[simp] theorem State.spoolChange_cutAll (s : State) (n : Nat) (v : DWord) : (s.spoolChange n v).cutAll = s.cutAll := rfl
@[simp] theorem State.spoolChange_tables (s : State) (n : Nat) (v : DWord) : (s.spoolChange n v).tables = s.tables := rfl
@[simp] theorem State.spoolChange_rings (s : State) (n : Nat) (v : DWord) : (s.spoolChange n v).rings = s.rings := rfl
@[simp] theorem State.spoolChange_vectors (s : State) (n : Nat) (v : DWord) : (s.spoolChange n v).vectors = s.vectors := rfl
@[simp] theorem State.spoolChange_links (s : State) (n : Nat) (v : DWord) : (s.spoolChange n v).links = s.links := rfl
@[simp] theorem State.spoolChange_svc (s : State) (n : Nat) (v : DWord) : (s.spoolChange n v).svc = s.svc := rfl
@[simp] theorem State.spoolChange_power (s : State) (n : Nat) (v : DWord) : (s.spoolChange n v).power = s.power := rfl
@[simp] theorem State.spoolChange_start (s : State) (n : Nat) (v : DWord) : (s.spoolChange n v).start = s.start := rfl
@[simp] theorem State.spoolChange_spdm (s : State) (n : Nat) (v : DWord) : (s.spoolChange n v).spdm = s.spdm := rfl
@[simp] theorem State.spoolChange_resets (s : State) (n : Nat) (v : DWord) : (s.spoolChange n v).resets = s.resets := rfl
@[simp] theorem State.spoolChange_mgmt (s : State) (n : Nat) (v : DWord) : (s.spoolChange n v).mgmt = s.mgmt := rfl
@[simp] theorem State.spoolChange_standby (s : State) (n : Nat) (v : DWord) : (s.spoolChange n v).standby = s.standby := rfl

/-! ## State.spoolClear -/

@[simp] theorem State.spoolClear_pending (s : State) (n : Nat) : (s.spoolClear n).pending = s.pending := rfl
@[simp] theorem State.spoolClear_freeCtr (s : State) (n : Nat) : (s.spoolClear n).freeCtr = s.freeCtr := rfl
@[simp] theorem State.spoolClear_powered (s : State) (n : Nat) : (s.spoolClear n).powered = s.powered := rfl
@[simp] theorem State.spoolClear_lcount (s : State) (n : Nat) : (s.spoolClear n).lcount = s.lcount := rfl
@[simp] theorem State.spoolClear_lcLatch (s : State) (n : Nat) : (s.spoolClear n).lcLatch = s.lcLatch := rfl
@[simp] theorem State.spoolClear_late (s : State) (n : Nat) : (s.spoolClear n).late = s.late := rfl
@[simp] theorem State.spoolClear_progress (s : State) (n : Nat) : (s.spoolClear n).progress = s.progress := rfl
@[simp] theorem State.spoolClear_mem (s : State) (n : Nat) : (s.spoolClear n).mem = s.mem := rfl
@[simp] theorem State.spoolClear_lost (s : State) (n : Nat) : (s.spoolClear n).lost = s.lost := rfl
@[simp] theorem State.spoolClear_poison (s : State) (n : Nat) : (s.spoolClear n).poison = s.poison := rfl
@[simp] theorem State.spoolClear_defects (s : State) (n : Nat) : (s.spoolClear n).defects = s.defects := rfl
@[simp] theorem State.spoolClear_crcOff (s : State) (n : Nat) : (s.spoolClear n).crcOff = s.crcOff := rfl
@[simp] theorem State.spoolClear_sramBad (s : State) (n : Nat) : (s.spoolClear n).sramBad = s.sramBad := rfl
@[simp] theorem State.spoolClear_eccFixed (s : State) (n : Nat) : (s.spoolClear n).eccFixed = s.eccFixed := rfl
@[simp] theorem State.spoolClear_scaleBad (s : State) (n : Nat) : (s.spoolClear n).scaleBad = s.scaleBad := rfl
@[simp] theorem State.spoolClear_fcacheBad (s : State) (n : Nat) : (s.spoolClear n).fcacheBad = s.fcacheBad := rfl
@[simp] theorem State.spoolClear_wcacheBad (s : State) (n : Nat) : (s.spoolClear n).wcacheBad = s.wcacheBad := rfl
@[simp] theorem State.spoolClear_scrub (s : State) (n : Nat) : (s.spoolClear n).scrub = s.scrub := rfl
@[simp] theorem State.spoolClear_retrained (s : State) (n : Nat) : (s.spoolClear n).retrained = s.retrained := rfl
@[simp] theorem State.spoolClear_spoolChg (s : State) (n : Nat) : (s.spoolClear n).spoolChg = s.spoolChg := rfl
@[simp] theorem State.spoolClear_waiters (s : State) (n : Nat) : (s.spoolClear n).waiters = s.waiters := rfl
@[simp] theorem State.spoolClear_setup (s : State) (n : Nat) : (s.spoolClear n).setup = s.setup := rfl
@[simp] theorem State.spoolClear_keeper (s : State) (n : Nat) : (s.spoolClear n).keeper = s.keeper := rfl
@[simp] theorem State.spoolClear_rwcPend (s : State) (n : Nat) : (s.spoolClear n).rwcPend = s.rwcPend := rfl
@[simp] theorem State.spoolClear_invQueue (s : State) (n : Nat) : (s.spoolClear n).invQueue = s.invQueue := rfl
@[simp] theorem State.spoolClear_wcache (s : State) (n : Nat) : (s.spoolClear n).wcache = s.wcache := rfl
@[simp] theorem State.spoolClear_fcache (s : State) (n : Nat) : (s.spoolClear n).fcache = s.fcache := rfl
@[simp] theorem State.spoolClear_err (s : State) (n : Nat) : (s.spoolClear n).err = s.err := rfl
@[simp] theorem State.spoolClear_cores (s : State) (n : Nat) : (s.spoolClear n).cores = s.cores := rfl
@[simp] theorem State.spoolClear_launches (s : State) (n : Nat) : (s.spoolClear n).launches = s.launches := rfl
@[simp] theorem State.spoolClear_nextLaunch (s : State) (n : Nat) : (s.spoolClear n).nextLaunch = s.nextLaunch := rfl
@[simp] theorem State.spoolClear_reqs (s : State) (n : Nat) : (s.spoolClear n).reqs = s.reqs := rfl
@[simp] theorem State.spoolClear_hreads (s : State) (n : Nat) : (s.spoolClear n).hreads = s.hreads := rfl
@[simp] theorem State.spoolClear_hostOut (s : State) (n : Nat) : (s.spoolClear n).hostOut = s.hostOut := rfl
@[simp] theorem State.spoolClear_fabOut (s : State) (n : Nat) : (s.spoolClear n).fabOut = s.fabOut := rfl
@[simp] theorem State.spoolClear_cut (s : State) (n : Nat) : (s.spoolClear n).cut = s.cut := rfl
@[simp] theorem State.spoolClear_cutAll (s : State) (n : Nat) : (s.spoolClear n).cutAll = s.cutAll := rfl
@[simp] theorem State.spoolClear_tables (s : State) (n : Nat) : (s.spoolClear n).tables = s.tables := rfl
@[simp] theorem State.spoolClear_rings (s : State) (n : Nat) : (s.spoolClear n).rings = s.rings := rfl
@[simp] theorem State.spoolClear_vectors (s : State) (n : Nat) : (s.spoolClear n).vectors = s.vectors := rfl
@[simp] theorem State.spoolClear_links (s : State) (n : Nat) : (s.spoolClear n).links = s.links := rfl
@[simp] theorem State.spoolClear_svc (s : State) (n : Nat) : (s.spoolClear n).svc = s.svc := rfl
@[simp] theorem State.spoolClear_power (s : State) (n : Nat) : (s.spoolClear n).power = s.power := rfl
@[simp] theorem State.spoolClear_start (s : State) (n : Nat) : (s.spoolClear n).start = s.start := rfl
@[simp] theorem State.spoolClear_spdm (s : State) (n : Nat) : (s.spoolClear n).spdm = s.spdm := rfl
@[simp] theorem State.spoolClear_resets (s : State) (n : Nat) : (s.spoolClear n).resets = s.resets := rfl
@[simp] theorem State.spoolClear_mgmt (s : State) (n : Nat) : (s.spoolClear n).mgmt = s.mgmt := rfl
@[simp] theorem State.spoolClear_standby (s : State) (n : Nat) : (s.spoolClear n).standby = s.standby := rfl

/-! ## State.modBit -/

@[simp] theorem State.modBit_pending (s : State) (i : Nat) (v : Bool) : (s.modBit i v).pending = s.pending := rfl
@[simp] theorem State.modBit_freeCtr (s : State) (i : Nat) (v : Bool) : (s.modBit i v).freeCtr = s.freeCtr := rfl
@[simp] theorem State.modBit_powered (s : State) (i : Nat) (v : Bool) : (s.modBit i v).powered = s.powered := rfl
@[simp] theorem State.modBit_lcount (s : State) (i : Nat) (v : Bool) : (s.modBit i v).lcount = s.lcount := rfl
@[simp] theorem State.modBit_lcLatch (s : State) (i : Nat) (v : Bool) : (s.modBit i v).lcLatch = s.lcLatch := rfl
@[simp] theorem State.modBit_late (s : State) (i : Nat) (v : Bool) : (s.modBit i v).late = s.late := rfl
@[simp] theorem State.modBit_progress (s : State) (i : Nat) (v : Bool) : (s.modBit i v).progress = s.progress := rfl
@[simp] theorem State.modBit_mem (s : State) (i : Nat) (v : Bool) : (s.modBit i v).mem = s.mem := rfl
@[simp] theorem State.modBit_lost (s : State) (i : Nat) (v : Bool) : (s.modBit i v).lost = s.lost := rfl
@[simp] theorem State.modBit_poison (s : State) (i : Nat) (v : Bool) : (s.modBit i v).poison = s.poison := rfl
@[simp] theorem State.modBit_defects (s : State) (i : Nat) (v : Bool) : (s.modBit i v).defects = s.defects := rfl
@[simp] theorem State.modBit_crcOff (s : State) (i : Nat) (v : Bool) : (s.modBit i v).crcOff = s.crcOff := rfl
@[simp] theorem State.modBit_sramBad (s : State) (i : Nat) (v : Bool) : (s.modBit i v).sramBad = s.sramBad := rfl
@[simp] theorem State.modBit_eccFixed (s : State) (i : Nat) (v : Bool) : (s.modBit i v).eccFixed = s.eccFixed := rfl
@[simp] theorem State.modBit_scaleBad (s : State) (i : Nat) (v : Bool) : (s.modBit i v).scaleBad = s.scaleBad := rfl
@[simp] theorem State.modBit_fcacheBad (s : State) (i : Nat) (v : Bool) : (s.modBit i v).fcacheBad = s.fcacheBad := rfl
@[simp] theorem State.modBit_wcacheBad (s : State) (i : Nat) (v : Bool) : (s.modBit i v).wcacheBad = s.wcacheBad := rfl
@[simp] theorem State.modBit_scrub (s : State) (i : Nat) (v : Bool) : (s.modBit i v).scrub = s.scrub := rfl
@[simp] theorem State.modBit_retrained (s : State) (i : Nat) (v : Bool) : (s.modBit i v).retrained = s.retrained := rfl
@[simp] theorem State.modBit_spool (s : State) (i : Nat) (v : Bool) : (s.modBit i v).spool = s.spool := rfl
@[simp] theorem State.modBit_spoolChg (s : State) (i : Nat) (v : Bool) : (s.modBit i v).spoolChg = s.spoolChg := rfl
@[simp] theorem State.modBit_waiters (s : State) (i : Nat) (v : Bool) : (s.modBit i v).waiters = s.waiters := rfl
@[simp] theorem State.modBit_setup (s : State) (i : Nat) (v : Bool) : (s.modBit i v).setup = s.setup := rfl
@[simp] theorem State.modBit_keeper (s : State) (i : Nat) (v : Bool) : (s.modBit i v).keeper = s.keeper := rfl
@[simp] theorem State.modBit_rwcPend (s : State) (i : Nat) (v : Bool) : (s.modBit i v).rwcPend = s.rwcPend := rfl
@[simp] theorem State.modBit_invQueue (s : State) (i : Nat) (v : Bool) : (s.modBit i v).invQueue = s.invQueue := rfl
@[simp] theorem State.modBit_wcache (s : State) (i : Nat) (v : Bool) : (s.modBit i v).wcache = s.wcache := rfl
@[simp] theorem State.modBit_fcache (s : State) (i : Nat) (v : Bool) : (s.modBit i v).fcache = s.fcache := rfl
@[simp] theorem State.modBit_err (s : State) (i : Nat) (v : Bool) : (s.modBit i v).err = s.err := rfl
@[simp] theorem State.modBit_cores (s : State) (i : Nat) (v : Bool) : (s.modBit i v).cores = s.cores := rfl
@[simp] theorem State.modBit_launches (s : State) (i : Nat) (v : Bool) : (s.modBit i v).launches = s.launches := rfl
@[simp] theorem State.modBit_nextLaunch (s : State) (i : Nat) (v : Bool) : (s.modBit i v).nextLaunch = s.nextLaunch := rfl
@[simp] theorem State.modBit_reqs (s : State) (i : Nat) (v : Bool) : (s.modBit i v).reqs = s.reqs := rfl
@[simp] theorem State.modBit_hreads (s : State) (i : Nat) (v : Bool) : (s.modBit i v).hreads = s.hreads := rfl
@[simp] theorem State.modBit_hostOut (s : State) (i : Nat) (v : Bool) : (s.modBit i v).hostOut = s.hostOut := rfl
@[simp] theorem State.modBit_fabOut (s : State) (i : Nat) (v : Bool) : (s.modBit i v).fabOut = s.fabOut := rfl
@[simp] theorem State.modBit_cut (s : State) (i : Nat) (v : Bool) : (s.modBit i v).cut = s.cut := rfl
@[simp] theorem State.modBit_cutAll (s : State) (i : Nat) (v : Bool) : (s.modBit i v).cutAll = s.cutAll := rfl
@[simp] theorem State.modBit_tables (s : State) (i : Nat) (v : Bool) : (s.modBit i v).tables = s.tables := rfl
@[simp] theorem State.modBit_rings (s : State) (i : Nat) (v : Bool) : (s.modBit i v).rings = s.rings := rfl
@[simp] theorem State.modBit_vectors (s : State) (i : Nat) (v : Bool) : (s.modBit i v).vectors = s.vectors := rfl
@[simp] theorem State.modBit_links (s : State) (i : Nat) (v : Bool) : (s.modBit i v).links = s.links := rfl
@[simp] theorem State.modBit_svc (s : State) (i : Nat) (v : Bool) : (s.modBit i v).svc = s.svc := rfl
@[simp] theorem State.modBit_power (s : State) (i : Nat) (v : Bool) : (s.modBit i v).power = s.power := rfl
@[simp] theorem State.modBit_start (s : State) (i : Nat) (v : Bool) : (s.modBit i v).start = s.start := rfl
@[simp] theorem State.modBit_spdm (s : State) (i : Nat) (v : Bool) : (s.modBit i v).spdm = s.spdm := rfl
@[simp] theorem State.modBit_resets (s : State) (i : Nat) (v : Bool) : (s.modBit i v).resets = s.resets := rfl
@[simp] theorem State.modBit_standby (s : State) (i : Nat) (v : Bool) : (s.modBit i v).standby = s.standby := rfl

/-! ## State.endReq -/

@[simp] theorem State.endReq_pending (s : State) (n : Nat) : (s.endReq n).pending = s.pending := rfl
@[simp] theorem State.endReq_freeCtr (s : State) (n : Nat) : (s.endReq n).freeCtr = s.freeCtr := rfl
@[simp] theorem State.endReq_powered (s : State) (n : Nat) : (s.endReq n).powered = s.powered := rfl
@[simp] theorem State.endReq_lcount (s : State) (n : Nat) : (s.endReq n).lcount = s.lcount := rfl
@[simp] theorem State.endReq_lcLatch (s : State) (n : Nat) : (s.endReq n).lcLatch = s.lcLatch := rfl
@[simp] theorem State.endReq_late (s : State) (n : Nat) : (s.endReq n).late = s.late := rfl
@[simp] theorem State.endReq_progress (s : State) (n : Nat) : (s.endReq n).progress = s.progress := rfl
@[simp] theorem State.endReq_mem (s : State) (n : Nat) : (s.endReq n).mem = s.mem := rfl
@[simp] theorem State.endReq_lost (s : State) (n : Nat) : (s.endReq n).lost = s.lost := rfl
@[simp] theorem State.endReq_poison (s : State) (n : Nat) : (s.endReq n).poison = s.poison := rfl
@[simp] theorem State.endReq_defects (s : State) (n : Nat) : (s.endReq n).defects = s.defects := rfl
@[simp] theorem State.endReq_crcOff (s : State) (n : Nat) : (s.endReq n).crcOff = s.crcOff := rfl
@[simp] theorem State.endReq_sramBad (s : State) (n : Nat) : (s.endReq n).sramBad = s.sramBad := rfl
@[simp] theorem State.endReq_eccFixed (s : State) (n : Nat) : (s.endReq n).eccFixed = s.eccFixed := rfl
@[simp] theorem State.endReq_scaleBad (s : State) (n : Nat) : (s.endReq n).scaleBad = s.scaleBad := rfl
@[simp] theorem State.endReq_fcacheBad (s : State) (n : Nat) : (s.endReq n).fcacheBad = s.fcacheBad := rfl
@[simp] theorem State.endReq_wcacheBad (s : State) (n : Nat) : (s.endReq n).wcacheBad = s.wcacheBad := rfl
@[simp] theorem State.endReq_scrub (s : State) (n : Nat) : (s.endReq n).scrub = s.scrub := rfl
@[simp] theorem State.endReq_retrained (s : State) (n : Nat) : (s.endReq n).retrained = s.retrained := rfl
@[simp] theorem State.endReq_spool (s : State) (n : Nat) : (s.endReq n).spool = s.spool := rfl
@[simp] theorem State.endReq_spoolChg (s : State) (n : Nat) : (s.endReq n).spoolChg = s.spoolChg := rfl
@[simp] theorem State.endReq_waiters (s : State) (n : Nat) : (s.endReq n).waiters = s.waiters := rfl
@[simp] theorem State.endReq_setup (s : State) (n : Nat) : (s.endReq n).setup = s.setup := rfl
@[simp] theorem State.endReq_keeper (s : State) (n : Nat) : (s.endReq n).keeper = s.keeper := rfl
@[simp] theorem State.endReq_rwcPend (s : State) (n : Nat) : (s.endReq n).rwcPend = s.rwcPend := rfl
@[simp] theorem State.endReq_invQueue (s : State) (n : Nat) : (s.endReq n).invQueue = s.invQueue := rfl
@[simp] theorem State.endReq_wcache (s : State) (n : Nat) : (s.endReq n).wcache = s.wcache := rfl
@[simp] theorem State.endReq_fcache (s : State) (n : Nat) : (s.endReq n).fcache = s.fcache := rfl
@[simp] theorem State.endReq_err (s : State) (n : Nat) : (s.endReq n).err = s.err := rfl
@[simp] theorem State.endReq_cores (s : State) (n : Nat) : (s.endReq n).cores = s.cores := rfl
@[simp] theorem State.endReq_launches (s : State) (n : Nat) : (s.endReq n).launches = s.launches := rfl
@[simp] theorem State.endReq_nextLaunch (s : State) (n : Nat) : (s.endReq n).nextLaunch = s.nextLaunch := rfl
@[simp] theorem State.endReq_hreads (s : State) (n : Nat) : (s.endReq n).hreads = s.hreads := rfl
@[simp] theorem State.endReq_hostOut (s : State) (n : Nat) : (s.endReq n).hostOut = s.hostOut := rfl
@[simp] theorem State.endReq_fabOut (s : State) (n : Nat) : (s.endReq n).fabOut = s.fabOut := rfl
@[simp] theorem State.endReq_cut (s : State) (n : Nat) : (s.endReq n).cut = s.cut := rfl
@[simp] theorem State.endReq_cutAll (s : State) (n : Nat) : (s.endReq n).cutAll = s.cutAll := rfl
@[simp] theorem State.endReq_tables (s : State) (n : Nat) : (s.endReq n).tables = s.tables := rfl
@[simp] theorem State.endReq_rings (s : State) (n : Nat) : (s.endReq n).rings = s.rings := rfl
@[simp] theorem State.endReq_vectors (s : State) (n : Nat) : (s.endReq n).vectors = s.vectors := rfl
@[simp] theorem State.endReq_links (s : State) (n : Nat) : (s.endReq n).links = s.links := rfl
@[simp] theorem State.endReq_svc (s : State) (n : Nat) : (s.endReq n).svc = s.svc := rfl
@[simp] theorem State.endReq_power (s : State) (n : Nat) : (s.endReq n).power = s.power := rfl
@[simp] theorem State.endReq_start (s : State) (n : Nat) : (s.endReq n).start = s.start := rfl
@[simp] theorem State.endReq_spdm (s : State) (n : Nat) : (s.endReq n).spdm = s.spdm := rfl
@[simp] theorem State.endReq_resets (s : State) (n : Nat) : (s.endReq n).resets = s.resets := rfl
@[simp] theorem State.endReq_mgmt (s : State) (n : Nat) : (s.endReq n).mgmt = s.mgmt := rfl
@[simp] theorem State.endReq_standby (s : State) (n : Nat) : (s.endReq n).standby = s.standby := rfl

end Sys2Proof.Machine
end

