-- ==== Sys2Proof/Laws/Regs.lean ====
section
/-! SUPPORT. Reading one part of the state after an update of it: registers, keeper words, cores, rings, links, partitions,
latches, counters of the spool file. -/
namespace Sys2Proof.Machine

theorem State.reg_setReg (s : State) (o j : Nat) (v : Word) : (s.setReg o v).reg j = if j = o then v else s.reg j :=
  Sparse.get_set _ _ _ _ _

@[simp] theorem State.reg_setReg_same (s : State) (o : Nat) (v : Word) : (s.setReg o v).reg o = v := by
  rw [State.reg_setReg, if_pos rfl]

theorem State.reg_count (s : State) (o j n : Nat) :
    (s.count o n).reg j = if j = o then satAdd32 (s.reg o) n else s.reg j :=
  State.reg_setReg _ _ _ _

theorem State.reg_setRegFld (s : State) (o j lo len v : Nat) :
    (s.setRegFld o lo len v).reg j = if j = o then setFld (s.reg o) lo len v else s.reg j :=
  State.reg_setReg _ _ _ _

theorem State.kreg_setKreg (s : State) (o j : Nat) (v : Word) : (s.setKreg o v).kreg j = if j = o then v else s.kreg j :=
  Sparse.get_set _ _ _ _ _

@[simp] theorem State.kreg_setKreg_same (s : State) (o : Nat) (v : Word) : (s.setKreg o v).kreg o = v := by
  rw [State.kreg_setKreg, if_pos rfl]

/-- A register read depends on the set-up window alone. -/
theorem State.reg_congr {s t : State} (h : t.setup = s.setup) (o : Nat) : t.reg o = s.reg o := by
  simp [State.reg, h]

theorem State.kreg_congr {s t : State} (h : t.keeper = s.keeper) (o : Nat) : t.kreg o = s.kreg o := by
  simp [State.kreg, h]

theorem State.core_congr {s t : State} (h : t.cores = s.cores) (n : Nat) : t.core n = s.core n := by
  simp [State.core, h]

theorem State.core_setCore (s : State) (n j : Nat) (c : Core) : (s.setCore n c).core j = if j = n then c else s.core j :=
  Sparse.get_set _ _ _ _ _

theorem State.core_modCore (s : State) (n j : Nat) (f : Core → Core) :
    (s.modCore n f).core j = if j = n then f (s.core n) else s.core j :=
  Sparse.get_set _ _ _ _ _

theorem State.ring_setRing (s : State) (r j : Nat) (f : Ring → Ring) :
    (s.setRing r f).ring j = if j = r then f (s.ring r) else s.ring j :=
  Sparse.get_modify _ _ _ _ _

theorem State.link_setLink (s : State) (k j : Nat) (f : Link → Link) :
    (s.setLink k f).link j = if j = k then f (s.link k) else s.link j :=
  Sparse.get_modify _ _ _ _ _

theorem State.part_setPart (s : State) (p j : Nat) (f : Partition → Partition) :
    (s.setPart p f).part j = if j = p then f (s.part p) else s.part j :=
  Sparse.get_modify _ _ _ _ _

theorem State.latch_setLatch (s : State) (x j : Nat) (l : Latch) :
    (s.setLatch x l).latch j = if j = x then l else s.latch j :=
  Sparse.get_set _ _ _ _ _

theorem State.spoolVal_spoolChange (s : State) (n j : Nat) (v : DWord) :
    (s.spoolChange n v).spoolVal j = if j = n then v else s.spoolVal j :=
  Sparse.get_set _ _ _ _ _

theorem State.history_spoolChange (s : State) (n j : Nat) (v : DWord) :
    (s.spoolChange n v).history j = if j = n then v :: s.history n else s.history j :=
  Sparse.get_modify (fun _ => []) s.spoolChg n j (v :: ·)

theorem State.changes_spoolChange (s : State) (n j : Nat) (v : DWord) :
    (s.spoolChange n v).changes j = if j = n then s.changes n + 1 else s.changes j := by
  rw [State.changes, State.history_spoolChange]
  split <;> rfl

theorem State.spoolVal_spoolClear (s : State) (n j : Nat) :
    (s.spoolClear n).spoolVal j = if j = n then 0 else s.spoolVal j :=
  Sparse.get_set (fun _ => 0) s.spool n j 0

end Sys2Proof.Machine
end

