-- ==== Sys2Proof/Laws/Frames.lean ====
section
/-! SUPPORT. Everything a shared operation can change, said once for each: reports, checks of memory, translation. -/
namespace Sys2Proof.Machine

theorem State.FetchFrame.refl (s : State) : s.FetchFrame s := rfl

theorem State.FetchFrame.trans {s t u : State} (h : s.FetchFrame t) (h' : t.FetchFrame u) : s.FetchFrame u := by
  unfold State.FetchFrame at *
  rw [h'] 
  rw [h]

theorem State.FetchFrame.pending {s t : State} (h : s.FetchFrame t) : t.pending = s.pending := by unfold State.FetchFrame at h; rw [h]
theorem State.FetchFrame.powered {s t : State} (h : s.FetchFrame t) : t.powered = s.powered := by unfold State.FetchFrame at h; rw [h]
theorem State.FetchFrame.lcount {s t : State} (h : s.FetchFrame t) : t.lcount = s.lcount := by unfold State.FetchFrame at h; rw [h]
theorem State.FetchFrame.lcLatch {s t : State} (h : s.FetchFrame t) : t.lcLatch = s.lcLatch := by unfold State.FetchFrame at h; rw [h]
theorem State.FetchFrame.sramBad {s t : State} (h : s.FetchFrame t) : t.sramBad = s.sramBad := by unfold State.FetchFrame at h; rw [h]
theorem State.FetchFrame.scrub {s t : State} (h : s.FetchFrame t) : t.scrub = s.scrub := by unfold State.FetchFrame at h; rw [h]
theorem State.FetchFrame.retrained {s t : State} (h : s.FetchFrame t) : t.retrained = s.retrained := by unfold State.FetchFrame at h; rw [h]
theorem State.FetchFrame.spool {s t : State} (h : s.FetchFrame t) : t.spool = s.spool := by unfold State.FetchFrame at h; rw [h]
theorem State.FetchFrame.spoolChg {s t : State} (h : s.FetchFrame t) : t.spoolChg = s.spoolChg := by unfold State.FetchFrame at h; rw [h]
theorem State.FetchFrame.waiters {s t : State} (h : s.FetchFrame t) : t.waiters = s.waiters := by unfold State.FetchFrame at h; rw [h]
theorem State.FetchFrame.rwcPend {s t : State} (h : s.FetchFrame t) : t.rwcPend = s.rwcPend := by unfold State.FetchFrame at h; rw [h]
theorem State.FetchFrame.invQueue {s t : State} (h : s.FetchFrame t) : t.invQueue = s.invQueue := by unfold State.FetchFrame at h; rw [h]
theorem State.FetchFrame.cores {s t : State} (h : s.FetchFrame t) : t.cores = s.cores := by unfold State.FetchFrame at h; rw [h]
theorem State.FetchFrame.launches {s t : State} (h : s.FetchFrame t) : t.launches = s.launches := by unfold State.FetchFrame at h; rw [h]
theorem State.FetchFrame.nextLaunch {s t : State} (h : s.FetchFrame t) : t.nextLaunch = s.nextLaunch := by unfold State.FetchFrame at h; rw [h]
theorem State.FetchFrame.reqs {s t : State} (h : s.FetchFrame t) : t.reqs = s.reqs := by unfold State.FetchFrame at h; rw [h]
theorem State.FetchFrame.hreads {s t : State} (h : s.FetchFrame t) : t.hreads = s.hreads := by unfold State.FetchFrame at h; rw [h]
theorem State.FetchFrame.hostOut {s t : State} (h : s.FetchFrame t) : t.hostOut = s.hostOut := by unfold State.FetchFrame at h; rw [h]
theorem State.FetchFrame.fabOut {s t : State} (h : s.FetchFrame t) : t.fabOut = s.fabOut := by unfold State.FetchFrame at h; rw [h]
theorem State.FetchFrame.cut {s t : State} (h : s.FetchFrame t) : t.cut = s.cut := by unfold State.FetchFrame at h; rw [h]
theorem State.FetchFrame.cutAll {s t : State} (h : s.FetchFrame t) : t.cutAll = s.cutAll := by unfold State.FetchFrame at h; rw [h]
theorem State.FetchFrame.tables {s t : State} (h : s.FetchFrame t) : t.tables = s.tables := by unfold State.FetchFrame at h; rw [h]
theorem State.FetchFrame.rings {s t : State} (h : s.FetchFrame t) : t.rings = s.rings := by unfold State.FetchFrame at h; rw [h]
theorem State.FetchFrame.vectors {s t : State} (h : s.FetchFrame t) : t.vectors = s.vectors := by unfold State.FetchFrame at h; rw [h]
theorem State.FetchFrame.links {s t : State} (h : s.FetchFrame t) : t.links = s.links := by unfold State.FetchFrame at h; rw [h]
theorem State.FetchFrame.svc {s t : State} (h : s.FetchFrame t) : t.svc = s.svc := by unfold State.FetchFrame at h; rw [h]
theorem State.FetchFrame.power {s t : State} (h : s.FetchFrame t) : t.power = s.power := by unfold State.FetchFrame at h; rw [h]
theorem State.FetchFrame.start {s t : State} (h : s.FetchFrame t) : t.start = s.start := by unfold State.FetchFrame at h; rw [h]
theorem State.FetchFrame.spdm {s t : State} (h : s.FetchFrame t) : t.spdm = s.spdm := by unfold State.FetchFrame at h; rw [h]
theorem State.FetchFrame.resets {s t : State} (h : s.FetchFrame t) : t.resets = s.resets := by unfold State.FetchFrame at h; rw [h]
theorem State.FetchFrame.mgmt {s t : State} (h : s.FetchFrame t) : t.mgmt = s.mgmt := by unfold State.FetchFrame at h; rw [h]
theorem State.FetchFrame.standby {s t : State} (h : s.FetchFrame t) : t.standby = s.standby := by unfold State.FetchFrame at h; rw [h]

theorem State.setReg_frame (s : State) (o : Nat) (v : Word) : s.FetchFrame (s.setReg o v) := rfl
theorem State.setKreg_frame (s : State) (o : Nat) (v : Word) : s.FetchFrame (s.setKreg o v) := rfl
theorem State.putMem_frame (s : State) (a : Nat) (bs : List Byte) : s.FetchFrame (s.putMem a bs) := rfl
theorem State.putWord_frame (s : State) (a : Nat) (w : Word) : s.FetchFrame (s.putWord a w) := rfl
theorem State.setLatch_frame (s : State) (x : Nat) (l : Latch) : s.FetchFrame (s.setLatch x l) := rfl
theorem State.setPoison_frame (s : State) (b : Nat) (v : Bool) : s.FetchFrame (s.setPoison b v) := rfl
theorem State.count_frame (s : State) (o n : Nat) : s.FetchFrame (s.count o n) := rfl

theorem State.srcPut_frame (s : State) (src n l : Nat) : s.FetchFrame (s.srcPut src n l) := by
  unfold State.srcPut
  simp only []
  split
  · exact State.putWord_frame _ _ _
  · exact ((State.putWord_frame _ _ _).trans (State.putWord_frame _ _ _)).trans (State.putWord_frame _ _ _)

/-- Whatever adds to the source table, counting through it keeps the frame when it does. -/
theorem State.countBy_frame {add : State → Nat → Nat → Nat → State} (ha : ∀ (s : State) x n l, s.FetchFrame (add s x n l))
    (s : State) (src n l : Nat) : s.FetchFrame (State.countBy add s src n l) := by
  have h : s.FetchFrame (if l = 0 then s else s.setKreg 0x20 (satAdd32 (s.kreg 0x20) l)) := by
    split
    · exact .refl s
    · exact State.setKreg_frame _ _ _
  unfold State.countBy
  simp only []
  generalize (if l = 0 then s else s.setKreg 0x20 (satAdd32 (s.kreg 0x20) l)) = t at h ⊢
  split
  · exact h.trans (ha _ _ _ _)
  · exact h.trans (State.setLatch_frame _ _ _)

theorem State.latchBy_frame {add : State → Nat → Nat → Nat → State} (ha : ∀ (s : State) x n l, s.FetchFrame (add s x n l))
    (s : State) (src : Nat) (r : Report) : s.FetchFrame (State.latchBy add s src r) := by
  unfold State.latchBy
  simp only []
  split
  · exact (State.FetchFrame.trans (t := s.setLatch src _) rfl (State.countBy_frame ha _ _ _ _))
  · exact (State.FetchFrame.trans (t := s.setLatch src _) rfl (State.countBy_frame ha _ _ _ _))
  · exact (State.FetchFrame.trans (t := s.setLatch src _) rfl (State.countBy_frame ha _ _ _ _))

theorem State.mcCount_frame (s : State) (a i : Nat) : s.FetchFrame (s.mcCount a i) := by
  rw [State.mcCount]
  split <;> rfl

theorem State.crcCheckBy_frame {add : State → Nat → Nat → Nat → State} (ha : ∀ (s : State) x n l, s.FetchFrame (add s x n l))
    (s : State) (b : Nat) : s.FetchFrame (State.crcCheckBy add s b) := by
  rw [State.crcCheckBy]
  simp only []
  split
  · rfl
  · generalize ht : ({ s with defects := _, crcOff := _ } : State) = t
    have h : s.FetchFrame t := by rw [← ht]; rfl
    split
    · exact h.trans (State.mcCount_frame _ _ _)
    · have h' : s.FetchFrame ((t.setPoison b true).mcCount b 1) :=
        (h.trans (State.setPoison_frame _ _ _)).trans (State.mcCount_frame _ _ _)
      split
      · exact h'.trans (State.latchBy_frame ha _ _ _)
      · exact h'

theorem State.srcAdd_frame (s : State) (src n l : Nat) : s.FetchFrame (s.srcAdd src n l) :=
  (State.crcCheckBy_frame State.srcPut_frame _ _).trans (State.srcPut_frame _ _ _ _)

theorem State.countReports_frame (s : State) (src n l : Nat) : s.FetchFrame (s.countReports src n l) :=
  State.countBy_frame State.srcAdd_frame _ _ _ _

theorem State.latchReport_frame (s : State) (src : Nat) (r : Report) : s.FetchFrame (s.latchReport src r) :=
  State.latchBy_frame State.srcAdd_frame _ _ _

theorem State.report_frame (s : State) (src cls cause : Nat) (ctx : Option Nat) (unit : Nat) (d : List Word) :
    s.FetchFrame (s.report src cls cause ctx unit d) :=
  State.latchReport_frame _ _ _

theorem State.crcCheck_frame (s : State) (b : Nat) : s.FetchFrame (s.crcCheck b) :=
  State.crcCheckBy_frame State.srcAdd_frame _ _

/-- A fold of operations that keep the frame keeps it. -/
theorem State.FetchFrame.forEach {α : Type} (f : State → α → State) (hf : ∀ (s : State) x, s.FetchFrame (f s x)) (s : State)
    (xs : List α) : s.FetchFrame (Machine.forEach f s xs) := by
  induction xs generalizing s with
  | nil => rfl
  | cons x xs ih => exact (hf s x).trans (ih _)

theorem State.FetchFrame.foldl {α β : Type} (f : State × β → α → State × β) (hf : ∀ (p : State × β) x, p.1.FetchFrame (f p x).1)
    (p : State × β) (xs : List α) : p.1.FetchFrame (xs.foldl f p).1 := by
  induction xs generalizing p with
  | nil => rfl
  | cons x xs ih => exact (hf p x).trans (ih _)

theorem State.crcRange_frame (s : State) (a n : Nat) : s.FetchFrame (s.crcRange a n) :=
  State.FetchFrame.forEach _ State.crcCheck_frame _ _

theorem State.entryOk_frame (s : State) (a n : Nat) : s.FetchFrame (s.entryOk a n).1 := by
  rw [State.entryOk]
  split
  · exact (State.crcRange_frame s _ _).trans (State.mcCount_frame _ _ _)
  · exact State.crcRange_frame s _ _

theorem State.readEntry_frame (s : State) (a n : Nat) : s.FetchFrame (s.readEntry a n).1 := State.entryOk_frame s a n

theorem State.loadWindows_frame (s : State) (ctx : Nat) : s.FetchFrame (s.loadWindows ctx).1 := by
  rw [State.loadWindows]
  generalize List.range 256 = l
  refine State.FetchFrame.foldl _ (fun p i => ?_) (s, []) l
  have h := State.entryOk_frame p.1 (p.1.wtBase + 0x2000 * ctx + 32 * i) 8
  simp only []
  rcases hr : p.1.entryOk (p.1.wtBase + 0x2000 * ctx + 32 * i) 8 with ⟨t, o⟩
  rw [hr] at h
  split <;> exact h

/-- A cached entry's read changes what `put` changes, and the counts of corrected errors. -/
theorem State.cacheEcc_frame {put : State → Sparse Nat → State} (hp : ∀ (s : State) m, s.FetchFrame (put s m)) (s : State)
    (bad : Sparse Nat) (key unit : Nat) : s.FetchFrame (s.cacheEcc bad key unit put).1 := by
  rw [State.cacheEcc]
  simp only []
  split
  · rfl
  · generalize hm : Sparse.set (fun _ => 0) bad key 0 = m
    have h := hp s m
    split
    · exact h.trans rfl
    · exact h

theorem State.windows_frame (s : State) (unit ctx : Nat) : s.FetchFrame (s.windows unit ctx).1 := by
  have he := State.cacheEcc_frame (put := fun s m => { s with wcacheBad := m }) (fun _ _ => rfl) s s.wcacheBad
    (unit * 64 + ctx) (eccWindow unit)
  rw [State.windows]
  simp only []
  generalize s.cacheEcc s.wcacheBad (unit * 64 + ctx) (eccWindow unit) _ = e at he ⊢
  split
  · exact he
  · have h := State.loadWindows_frame e.1 ctx
    rcases hr : e.1.loadWindows ctx with ⟨t, o⟩
    rw [hr] at h
    exact he.trans (h.trans rfl)

theorem State.trLocal_frame (s : State) (unit ctx va : Nat) (need : Need) :
    s.FetchFrame (s.trLocal unit ctx va need).1 := by
  have h := State.windows_frame s unit ctx
  rw [State.trLocal]
  rcases hr : s.windows unit ctx with ⟨t, o⟩
  rw [hr] at h
  simp only []
  split
  · split <;> exact h
  · split
    · exact h
    · split
      · exact h
      · split <;> exact h

theorem State.readFamap_frame (s : State) (i : Nat) : s.FetchFrame (s.readFamap i).1 := by
  have h := State.readEntry_frame s (s.famapBase + 8 * i) 2
  rw [State.readFamap]
  simp only []
  rcases hr : s.readEntry (s.famapBase + 8 * i) 2 with ⟨t, o⟩
  rw [hr] at h
  split
  · rfl
  · exact h

theorem State.integrity_frame (s : State) (src cause : Nat) (ctx : Option Nat) (unit addr : Nat) (v c : Word) :
    s.FetchFrame (s.integrity src cause ctx unit addr v c) :=
  State.report_frame _ _ _ _ _ _ _

theorem State.fcache_frame (s : State) (m : Sparse (Option DWord)) : s.FetchFrame { s with fcache := m } := rfl

theorem State.famapBad_frame (s : State) (unit ctx i : Nat) (e : DWord) : s.FetchFrame (s.famapBad unit ctx i e) :=
  State.integrity_frame _ _ _ _ _ _ _ _

theorem State.famapPut_frame (s : State) (unit i : Nat) (e : DWord) : s.FetchFrame (s.famapPut unit i e) := by
  rw [State.famapPut]
  simp only []
  split
  · rfl
  · rw [State.draw]; rfl

theorem State.famapRead_frame (s : State) (unit ctx i : Nat) : s.FetchFrame (s.famapRead unit ctx i).1 := by
  have h := State.readFamap_frame s i
  rw [State.famapRead]
  rcases hr : s.readFamap i with ⟨t, _ | e⟩
  · rw [hr] at h; exact h
  · rw [hr] at h
    simp only []
    split
    · exact h.trans (State.famapPut_frame _ _ _ _)
    · exact h.trans (State.famapBad_frame _ _ _ _ _)

theorem State.famapEntry_frame (s : State) (unit ctx i : Nat) : s.FetchFrame (s.famapEntry unit ctx i).1 := by
  have hb := State.cacheEcc_frame (put := fun s m => { s with fcacheBad := m }) (fun _ _ => rfl) s s.fcacheBad
    (famapKey unit i) (eccMap (dieOf unit))
  rw [State.famapEntry]
  simp only []
  generalize s.cacheEcc s.fcacheBad (famapKey unit i) (eccMap (dieOf unit)) _ = b at hb ⊢
  have h := State.readFamap_frame b.1 i
  split
  · split
    · exact hb
    · exact hb.trans (((State.famapBad_frame b.1 unit ctx i _).trans (State.fcache_frame _ _)).trans
        (State.famapRead_frame _ _ _ _))
  · rcases hr : b.1.readFamap i with ⟨t, _ | e⟩
    · rw [hr] at h; exact hb.trans h
    · rw [hr] at h
      simp only []
      split
      · exact hb.trans (h.trans (State.famapPut_frame _ _ _ _))
      · exact hb.trans ((h.trans (State.famapBad_frame _ _ _ _ _)).trans (State.famapRead_frame _ _ _ _))

theorem State.trGlobal_frame (s : State) (unit ctx va : Nat) (need : Need) :
    s.FetchFrame (s.trGlobal unit ctx va need).1 := by
  have h (i : Nat) := State.famapEntry_frame s unit ctx i
  rw [State.trGlobal]
  simp only []
  generalize (if s.gran = true then 25 else 21) = gb
  generalize va % 2 ^ 63 / 2 ^ gb % 2 ^ 25 = i
  specialize h i
  rcases hr : s.famapEntry unit ctx i with ⟨t, o⟩
  rw [hr] at h
  split
  · rfl
  · split
    · rfl
    · split
      · exact h
      · split
        · exact h
        · split
          · exact h
          · split
            · split <;> exact h
            · exact h

/-- Translating an address changes no core, no spool counter, no request: only what reading tables can change. -/
theorem State.translate_frame (s : State) (unit ctx va : Nat) (need : Need) :
    s.FetchFrame (s.translate unit ctx va need).1 := by
  have hg := State.trGlobal_frame s unit ctx va need
  have hl := State.trLocal_frame s unit ctx va need
  rw [State.translate]
  simp only []
  rcases hr : s.trGlobal unit ctx va need with ⟨t, o⟩
  rw [hr] at hg
  rcases hr' : s.trLocal unit ctx va need with ⟨t', o'⟩
  rw [hr'] at hl
  split
  · exact hg
  · exact hl

end Sys2Proof.Machine
end

