-- ==== Sys2Proof/Laws/Memory.lean ====
section
/-! SUPPORT. Laws of physical memory: every operation keeps the canonical form (`memWf`), reset has it, and what a byte reads as
after each operation. -/
namespace Sys2Proof.Machine

theorem memWf_reset : memWf State.reset.mem = true := by decide

theorem memWf_putBytes (m : Sparse Byte) (a : Nat) (bs : List Byte) (h : memWf m = true) :
    memWf (putBytes m a bs) = true := by
  induction bs generalizing m a with
  | nil => exact h
  | cons b bs ih => exact ih _ _ (Sparse.wf_set a b h)

theorem memWf_putMem (s : State) (a : Nat) (bs : List Byte) (h : memWf s.mem = true) : memWf (s.putMem a bs).mem = true :=
  memWf_putBytes _ _ _ h

theorem memWf_putWord (s : State) (a : Nat) (w : Word) (h : memWf s.mem = true) : memWf (s.putWord a w).mem = true :=
  memWf_putBytes _ _ _ h

theorem memWf_zeroMem (s : State) (a n : Nat) (h : memWf s.mem = true) : memWf (s.zeroMem a n).mem = true :=
  Sparse.wf_forget (fun k => decide (a ≤ k) && decide (k < a + n)) h

theorem memWf_loseMem (s : State) (a n : Nat) (h : memWf s.mem = true) : memWf (s.loseMem a n).mem = true :=
  memWf_zeroMem s a n h

theorem memWf_writeBits (s : State) (w : BitWrite) (h : memWf s.mem = true) : memWf (s.writeBits w).mem = true :=
  memWf_putMem _ _ _ h

end Sys2Proof.Machine
end

