-- ==== Sys2Proof/Laws/Thread.lean ====
section
/-! SUPPORT. Issuing a thread instruction, and writing registers of its participating lanes. -/
namespace Sys2Proof.Machine

/-! ## Issue -/

theorem State.issuing_spec {s : State} {sg : SgRef} {gf : BitVec 4} {uni : Bool} {us : List Use} {a : At} {s1 : State}
    (h : s.issuing sg gf uni us = some (a, s1)) :
    sg.partner = none ∧ s.at? sg.core sg.blk sg.grp sg.lane gf = some a ∧
      ∃ s0 w, s.translate a.core a.b.ctx a.sub.pc.toNat .fetch = (s0, .ok w) ∧
        usesOk a.b.regs uni us = true ∧ s0.interlocked a us = false ∧ a.m ≠ 0 ∧ s0.regEcc a us = (s1, false) := by
  unfold State.issuing at h
  split at h
  · rename_i x hp hx
    split at h
    · rename_i s2 w ht
      split at h
      · rename_i hc
        cases h
        exact ⟨hp, hx, s2, w, ht, hc.1, hc.2.1, hc.2.2.1, Prod.ext rfl hc.2.2.2⟩
      · cases h
    · cases h
  · cases h

/-- What `issue` does for a sub-group that can issue: the body's answer decides. -/
theorem State.issue_of_issuing {s : State} {sg : SgRef} {gf : BitVec 4} {uni : Bool} {us : List Use} {a : At} {s1 : State}
    (h : s.issuing sg gf uni us = some (a, s1)) (rep : Bool) (body : At → State → Did) :
    s.issue sg gf rep uni true us body =
      match body a s1 with
      | .wait => a.served s
      | .retry t => a.issued t
      | .fault t c x => a.issued (a.fault t c x)
      | .done t => a.issued (a.advance (a.supersede s t us))
      | .flow t => a.issued (a.supersede s t us) := by
  obtain ⟨hp, hat, s0, w, ht, hu, hi, hm, he⟩ := State.issuing_spec h
  unfold State.issue
  rw [hat, hp]
  simp only [State.issueAt, ht, hu, hi, hm, he, Bool.and_self, Bool.true_eq_false, if_false, Bool.false_eq_true]
  cases body a s1 <;> rfl

theorem State.issue_done {s : State} {sg : SgRef} {gf : BitVec 4} {uni : Bool} {us : List Use} {a : At} {s1 t : State}
    (h : s.issuing sg gf uni us = some (a, s1)) (rep : Bool) {body : At → State → Did} (hb : body a s1 = .done t) :
    s.issue sg gf rep uni true us body = a.issued (a.advance (a.supersede s t us)) := by
  rw [State.issue_of_issuing h, hb]

theorem State.ready?_spec {s : State} {c b g l : Nat} {gf : BitVec 4} {a : At} (h : s.ready? c b g l gf = some a) :
    a.core = c ∧ a.blk = b ∧ a.grp = g ∧ s.block c b = some a.b ∧ a.g = a.b.group g ∧
      a.m = (a.b.group g).guardMask gf a.sub.mask ∧ a.sub ∈ (a.b.group g).subs ∧ bitAt a.sub.mask l = true := by
  unfold State.ready? at h
  split at h
  · cases h
  · rename_i x hx
    split at h
    · cases h
    · rename_i y hy
      split at h
      · cases h
        exact ⟨rfl, rfl, rfl, hx, rfl, rfl, List.mem_of_find?_eq_some hy, List.find?_some (p := fun x : Sub => bitAt x.mask l) hy⟩
      · cases h

/-- The sub-group whose turn it is is ready. -/
theorem State.at?_ready {s : State} {c b g l : Nat} {gf : BitVec 4} {a : At} (h : s.at? c b g l gf = some a) :
    s.ready? c b g l gf = some a := by
  unfold State.at? at h
  split at h
  · rename_i x hx
    split at h
    · cases h
    · cases h; exact hx
  · cases h

/-! ## Changing a group of a resident block -/

theorem State.block_setBlock (s : State) (c b c' b' : Nat) (x : Option Block) :
    (s.setBlock c b x).block c' b' = if c' = c ∧ b' = b then x else s.block c' b' := by
  unfold State.block State.setBlock
  rw [State.core_modCore]
  by_cases hc : c' = c
  · subst hc
    simp only [if_true, true_and]
    rw [Sparse.get_set]
  · simp [hc]

theorem State.modGroup_onlyCores (s : State) (c b g : Nat) (f : Group → Group) : OnlyCores s (s.modGroup c b g f) := by
  unfold State.modGroup
  split <;> rfl

theorem Block.group_set (b : Block) (g g' : Nat) (x : Group) :
    Sparse.get (fun _ => Group.none) (Sparse.set (fun _ => Group.none) b.groups g x) g' = if g' = g then x else b.group g' :=
  Sparse.get_set _ _ _ _ _

/-- A group is changed, and no other. -/
theorem State.group_modGroup (s : State) (c b g c' b' g' : Nat) (f : Group → Group) {x : Block} (h : s.block c b = some x) :
    (s.modGroup c b g f).group c' b' g' = if c' = c ∧ b' = b ∧ g' = g then f (x.group g) else s.group c' b' g' := by
  unfold State.modGroup State.group
  rw [h]
  simp only []
  rw [State.block_setBlock]
  by_cases hc : c' = c ∧ b' = b
  · obtain ⟨rfl, rfl⟩ := hc
    simp only [and_self, if_true, h, true_and]
    unfold Block.group
    simp only []
    rw [Sparse.get_set]
  · rw [if_neg hc, if_neg (fun hh => hc ⟨hh.1, hh.2.1⟩)]

theorem State.block_modGroup (s : State) (c b g : Nat) (f : Group → Group) {x : Block} (h : s.block c b = some x) :
    ∃ y, (s.modGroup c b g f).block c b = some y ∧ { y with groups := [] } = { x with groups := [] } ∧
      y.group g = f (x.group g) := by
  unfold State.modGroup
  rw [h]
  simp only []
  rw [State.block_setBlock, if_pos ⟨rfl, rfl⟩]
  refine ⟨_, rfl, rfl, ?_⟩
  unfold Block.group
  simp only []
  rw [Sparse.get_set, if_pos rfl]

theorem At.OtherGroupsKept.refl (a : At) (s : State) : a.OtherGroupsKept s s :=
  ⟨fun _ _ _ _ => rfl, fun _ => rfl, fun _ _ => rfl, fun _ _ => rfl⟩

theorem At.OtherGroupsKept.trans {a : At} {s t u : State} (h : a.OtherGroupsKept s t) (h' : a.OtherGroupsKept t u) :
    a.OtherGroupsKept s u :=
  ⟨fun c b g hn => (h'.groups c b g hn).trans (h.groups c b g hn),
   fun c => by rw [h'.cores c, h.cores c],
   fun c hc => (h'.turns c hc).trans (h.turns c hc),
   fun c b => (h'.blocks c b).trans (h.blocks c b)⟩

theorem OnlyCores.trans {s t u : State} (h : OnlyCores s t) (h' : OnlyCores t u) : OnlyCores s u := by
  unfold OnlyCores at *
  rw [h', h]

theorem At.modGroup_kept (a : At) (s : State) (f : Group → Group) {x : Block} (h : s.block a.core a.blk = some x) :
    a.OtherGroupsKept s (a.modGroup s f) := by
  refine ⟨fun c b g hn => ?_, fun c => ?_, fun c hc => ?_, fun c b => ?_⟩
  · unfold At.modGroup
    rw [State.group_modGroup _ _ _ _ _ _ _ _ h, if_neg (fun hh => hn (by simp [hh.1, hh.2.1, hh.2.2]))]
  · unfold At.modGroup State.modGroup
    rw [h]
    simp only []
    unfold State.setBlock
    rw [State.core_modCore]
    split
    · rename_i hc; subst hc; rfl
    · rfl
  · unfold At.modGroup State.modGroup
    rw [h]
    simp only []
    unfold State.setBlock
    rw [State.core_modCore, if_neg hc]
  · unfold At.modGroup State.modGroup
    rw [h]
    simp only []
    rw [State.block_setBlock]
    split
    · rename_i hc
      rw [hc.1, hc.2, h]; rfl
    · rfl

theorem At.groupIn_modGroup (a : At) (s : State) (f : Group → Group) {x : Block} (h : s.block a.core a.blk = some x) :
    a.groupIn (a.modGroup s f) = f (a.groupIn s) := by
  unfold At.groupIn At.modGroup
  rw [State.group_modGroup _ _ _ _ _ _ _ _ h, if_pos ⟨rfl, rfl, rfl⟩]
  unfold State.group
  rw [h]

/-! ## Going on: sub-groups change, registers do not -/

/-- Registers, predicates, handles and LSTAT of two groups agree. -/
def Group.SameRegs (g h : Group) : Prop := h.t = g.t ∧ h.u = g.u ∧ h.p = g.p ∧ h.h = g.h ∧ h.lstat = g.lstat

theorem Group.SameRegs.refl (g : Group) : g.SameRegs g := ⟨rfl, rfl, rfl, rfl, rfl⟩

theorem Group.SameRegs.trans {g h k : Group} (a : g.SameRegs h) (b : h.SameRegs k) : g.SameRegs k :=
  ⟨b.1.trans a.1, b.2.1.trans a.2.1, b.2.2.1.trans a.2.2.1, b.2.2.2.1.trans a.2.2.2.1, b.2.2.2.2.trans a.2.2.2.2⟩

theorem Group.mergeAt_same (g : Group) (r : Nat) (j : DWord) : g.SameRegs (g.mergeAt r j) := by
  unfold Group.mergeAt
  simp only []
  split <;> exact ⟨rfl, rfl, rfl, rfl, rfl⟩

theorem Group.settle_same (n : Nat) (g : Group) : g.SameRegs (Group.settle n g) := by
  induction n generalizing g with
  | zero => exact .refl g
  | succ n ih =>
    unfold Group.settle
    simp only []
    split
    · exact (Group.SameRegs.trans (h := { g with subs := g.subs.map g.arrive }) ⟨rfl, rfl, rfl, rfl, rfl⟩
        (Group.mergeAt_same _ _ _)).trans (ih _)
    · exact ⟨rfl, rfl, rfl, rfl, rfl⟩

theorem Group.joined_same (g : Group) : g.SameRegs g.joined := Group.settle_same _ _

theorem Group.replace_same (g : Group) (l : Nat) (xs : List Sub) : g.SameRegs (g.replace l xs) := ⟨rfl, rfl, rfl, rfl, rfl⟩

theorem At.goto_same (a : At) (s : State) (pc : DWord) {x : Block} (h : s.block a.core a.blk = some x) :
    (a.groupIn s).SameRegs (a.groupIn (a.goto s pc)) := by
  unfold At.goto
  rw [At.groupIn_modGroup a s _ h]
  exact (Group.replace_same _ _ _).trans (Group.joined_same _)


/-! ## What issuing changes beside the instruction's own effect -/

theorem State.block_of_cores {s t : State} (h : t.cores = s.cores) (c b : Nat) : t.block c b = s.block c b := by
  unfold State.block State.core; rw [h]

theorem State.group_of_cores {s t : State} (h : t.cores = s.cores) (c b g : Nat) : t.group c b g = s.group c b g := by
  unfold State.group; rw [State.block_of_cores h]

theorem At.OtherGroupsKept.of_cores {a : At} {s t : State} (h : t.cores = s.cores) : a.OtherGroupsKept s t :=
  ⟨fun _ _ _ _ => State.group_of_cores h _ _ _, fun _ => by unfold State.core; rw [h], fun _ _ => by unfold State.core; rw [h],
   fun _ _ => by rw [State.block_of_cores h]⟩

/-- A superseded request is marked; nothing else changes. -/
theorem At.supersede_eq (a : At) (old s : State) (us : List Use) :
    a.supersede old s us = { s with reqs := (a.supersede old s us).reqs } := by
  unfold At.supersede
  simp only []
  split <;> rfl

theorem At.supersede_reqs {a : At} {old s s' : State} {us : List Use} (h : s'.reqs = s.reqs) :
    (a.supersede old s' us).reqs = (a.supersede old s us).reqs := by
  unfold At.supersede
  simp only [h]
  split <;> simp [h]

theorem At.supersede_old {a : At} {old old' s : State} {us : List Use} (h : old'.reqs = old.reqs) :
    a.supersede old' s us = a.supersede old s us := by
  unfold At.supersede
  rw [h]

/-- The scheduler's place and the engine's progress: no group changes. -/
theorem At.block_issued (a : At) (s : State) (c b : Nat) : (a.issued s).block c b = s.block c b := by
  have h : ((a.issued s).core c).blocks = (s.core c).blocks := by
    have : (a.issued s).core c = (a.served s).core c := rfl
    rw [this]
    unfold At.served
    rw [State.core_modCore]
    split
    · rename_i hc; rw [hc]
    · rfl
  unfold State.block
  rw [h]

theorem At.groupIn_issued (a : At) (s : State) : a.groupIn (a.issued s) = a.groupIn s := by
  unfold At.groupIn State.group
  rw [At.block_issued]

theorem At.issued_kept (a : At) (s : State) : a.OtherGroupsKept s (a.issued s) := by
  have hc (c : Nat) : (a.issued s).core c = if c = a.core then { s.core a.core with turn := a.key + 1 } else s.core c := by
    have : (a.issued s).core c = (a.served s).core c := rfl
    rw [this]
    unfold At.served
    exact State.core_modCore _ _ _ _
  refine ⟨fun c b g _ => ?_, fun c => ?_, fun c h => ?_, fun c b => ?_⟩
  · unfold State.group; rw [At.block_issued]
  · rw [hc]
    split
    · rename_i h; rw [h]
    · rfl
  · rw [hc, if_neg h]
  · rw [At.block_issued]

/-- A state that differs from another in cores and the draw number, written out. -/
theorem State.eq_of_draws {s t : State} (h : t = { s with cores := t.cores, freeCtr := t.freeCtr }) :
    ∃ c f, t = { s with cores := c, freeCtr := f } := ⟨_, _, h⟩

/-- Going on: a change of the issuing group, whatever the requests. -/
theorem At.goto_reqs (a : At) (s : State) (q : List (Nat × Option Req)) (pc : DWord) :
    a.goto { s with reqs := q } pc = { a.goto s pc with reqs := q } := by
  have hb : (({ s with reqs := q } : State)).block a.core a.blk = s.block a.core a.blk := rfl
  unfold At.goto At.modGroup State.modGroup
  rw [hb]
  cases s.block a.core a.blk <;> rfl

/-- Issuing what changed only cores and the draw number. -/
theorem At.issued_onlyDraws (a : At) {s t : State} {us : List Use} (old : State) (ho : old.reqs = s.reqs)
    (h : t = { s with cores := t.cores, freeCtr := t.freeCtr }) :
    a.OnlyIssuedDraws us s (a.issued (a.supersede old t us)) := by
  refine ⟨?_, ?_⟩
  · obtain ⟨c, f, rfl⟩ := State.eq_of_draws h
    have h1 : a.supersede old { s with cores := c, freeCtr := f } us =
        { s with cores := c, freeCtr := f, reqs := (a.supersede s s us).reqs } := by
      rw [At.supersede_eq, At.supersede_old ho,
        At.supersede_reqs (s' := { s with cores := c, freeCtr := f }) (s := s) rfl]
    rw [h1]
    rfl
  · have : (a.issued (a.supersede old t us)).core a.core = (a.served (a.supersede old t us)).core a.core := rfl
    rw [this]
    unfold At.served
    rw [State.core_modCore, if_pos rfl]

/-! ## The state that the body of an issuing instruction sees -/

/-- Reading registers changes at most the error marks of words of the issuing group, and the count of corrected ones. -/
theorem State.regEcc_spec (s : State) (a : At) (us : List Use) : (s.regEcc a us).1 = s ∨
    ∃ (f : Group → Group) (m : Sparse Nat), (∀ g, f g = { g with bad := (f g).bad }) ∧
      (s.regEcc a us).1 = { a.modGroup s f with eccFixed := m } := by
  unfold State.regEcc
  simp only []
  split
  · exact Or.inl rfl
  · exact Or.inr ⟨_, _, fun _ => rfl, rfl⟩

/-- The block and group that the body of an issuing instruction sees: as they stood, but for error marks corrected. -/
theorem State.issuing_block {s : State} {sg : SgRef} {gf : BitVec 4} {uni : Bool} {us : List Use} {a : At} {s1 : State}
    (h : s.issuing sg gf uni us = some (a, s1)) :
    (∃ x, s1.block a.core a.blk = some x ∧ { x with groups := [] } = { a.b with groups := [] }) ∧
      a.groupIn s1 = { a.g with bad := (a.groupIn s1).bad } := by
  obtain ⟨_, hat, s0, w, ht, _, _, _, he⟩ := State.issuing_spec h
  obtain ⟨h1, h2, h3, h4, h5, _⟩ := State.ready?_spec (State.at?_ready hat)
  have hc : s0.cores = s.cores := by
    have hf := State.translate_frame s a.core a.b.ctx a.sub.pc.toNat .fetch
    rw [ht] at hf
    exact hf.cores
  have hb : s0.block a.core a.blk = some a.b := by rw [State.block_of_cores hc, h1, h2, h4]
  have hg : a.groupIn s0 = a.g := by
    unfold At.groupIn State.group
    rw [hb, h5, h3]
  rcases State.regEcc_spec s0 a us with hr | ⟨f, m, hf, hr⟩
  · rw [he] at hr
    simp only [] at hr
    subst hr
    exact ⟨⟨a.b, hb, rfl⟩, by rw [hg]⟩
  · rw [he] at hr
    simp only [] at hr
    have hcs : s1.cores = (a.modGroup s0 f).cores := by rw [hr]
    obtain ⟨y, hy, hy', _⟩ := State.block_modGroup s0 a.core a.blk a.grp f hb
    refine ⟨⟨y, ?_, hy'⟩, ?_⟩
    · rw [State.block_of_cores hcs]; exact hy
    · have : a.groupIn s1 = f a.g := by
        unfold At.groupIn
        rw [State.group_of_cores hcs]
        have := At.groupIn_modGroup a s0 f hb
        unfold At.groupIn at this hg
        rw [this, hg]
      rw [this]
      exact hf a.g

/-- Nothing but cores, translation's and correction's effects lies between a state and the one that the body sees: requests stand. -/
theorem State.issuing_reqs {s : State} {sg : SgRef} {gf : BitVec 4} {uni : Bool} {us : List Use} {a : At} {s1 : State}
    (h : s.issuing sg gf uni us = some (a, s1)) : s1.reqs = s.reqs := by
  obtain ⟨_, _, s0, w, ht, _, _, _, he⟩ := State.issuing_spec h
  have hf := State.translate_frame s a.core a.b.ctx a.sub.pc.toNat .fetch
  rw [ht] at hf
  have hr0 : s0.reqs = s.reqs := hf.reqs
  rcases State.regEcc_spec s0 a us with hr | ⟨f, m, _, hr⟩
  · rw [he] at hr; simp only [] at hr; rw [hr, hr0]
  · rw [he] at hr
    simp only [] at hr
    rw [hr]
    have := State.modGroup_onlyCores s0 a.core a.blk a.grp f
    unfold OnlyCores at this
    have h2 : (a.modGroup s0 f).reqs = s0.reqs := by unfold At.modGroup; rw [this]
    exact h2.trans hr0

end Sys2Proof.Machine
end

