-- ==== Sys2Proof/Laws/Registers.lean ====
section
/-! SUPPORT. Reading the registers of a group after an operand has been written in some lanes. -/
namespace Sys2Proof.Machine

/-! ## Words of a number -/

theorem bitsOf_lt (v lo len : Nat) : bitsOf v lo len < 2 ^ len := Nat.mod_lt _ (Nat.two_pow_pos len)

/-- A number modulo 2^(32 (n + 1)) is its low n words and the next one. -/
theorem mod_words (v n : Nat) : v % 2 ^ (32 * (n + 1)) = v % 2 ^ (32 * n) + bitsOf v (32 * n) 32 * 2 ^ (32 * n) := by
  unfold bitsOf
  rw [show 32 * (n + 1) = 32 * n + 32 by ring, pow_add, Nat.mod_mul, Nat.shiftRight_eq_div_pow]
  ring

/-! ## One register -/

theorem Group.treg_setT (g : Group) (l k l' k' : Nat) (v : Word) (h : l < 32) (h' : l' < 32) :
    (g.setT l k v).treg l' k' = if l' = l ∧ k' = k then v else g.treg l' k' := by
  unfold Group.setT Group.treg
  simp only []
  rw [Sparse.get_set]
  by_cases hh : l' = l ∧ k' = k
  · rw [if_pos hh, if_pos (by rw [hh.1, hh.2])]
  · rw [if_neg hh, if_neg (by omega)]

theorem Group.ureg_setU (g : Group) (k k' : Nat) (v : Word) : (g.setU k v).ureg k' = if k' = k then v else g.ureg k' :=
  Sparse.get_set (fun _ => 0) g.u k k' v

/-! ## An operand of several registers -/

/-- Writing an operand writes registers of its file alone. -/
theorem Group.wr_frame (g : Group) (f : BitVec 9) (l i : Nat) (v : Word) :
    (g.wr f l i v).p = g.p ∧ (g.wr f l i v).h = g.h ∧ (g.wr f l i v).lstat = g.lstat ∧
      ((fileOf f).1 ≠ .t → (g.wr f l i v).t = g.t) ∧ ((fileOf f).1 ≠ .u → (g.wr f l i v).u = g.u) := by
  unfold Group.wr
  split <;> simp_all [Group.setT, Group.setU]

theorem Group.put_frame (g : Group) (f : BitVec 9) (l v n : Nat) :
    (g.put f l v n).p = g.p ∧ (g.put f l v n).h = g.h ∧ (g.put f l v n).lstat = g.lstat ∧
      ((fileOf f).1 ≠ .t → (g.put f l v n).t = g.t) ∧ ((fileOf f).1 ≠ .u → (g.put f l v n).u = g.u) := by
  induction n with
  | zero => simp [Group.put]
  | succ n ih =>
    have h := Group.wr_frame (g.put f l v n) f l n (BitVec.ofNat 32 (bitsOf v (32 * n) 32))
    unfold Group.put
    exact ⟨h.1.trans ih.1, h.2.1.trans ih.2.1, h.2.2.1.trans ih.2.2.1, fun ht => (h.2.2.2.1 ht).trans (ih.2.2.2.1 ht),
      fun hu => (h.2.2.2.2 hu).trans (ih.2.2.2.2 hu)⟩

theorem Group.putLanes_frame (g : Group) (f : BitVec 9) (n : Nat) (vals : List (Nat × Nat)) :
    (g.putLanes f n vals).p = g.p ∧ (g.putLanes f n vals).h = g.h ∧ (g.putLanes f n vals).lstat = g.lstat ∧
      ((fileOf f).1 ≠ .t → (g.putLanes f n vals).t = g.t) ∧ ((fileOf f).1 ≠ .u → (g.putLanes f n vals).u = g.u) := by
  unfold Group.putLanes
  induction vals generalizing g with
  | nil => simp
  | cons p ps ih =>
    have h := Group.put_frame g f p.1 p.2 n
    have h' := ih (g.put f p.1 p.2 n)
    simp only [List.foldl_cons]
    exact ⟨h'.1.trans h.1, h'.2.1.trans h.2.1, h'.2.2.1.trans h.2.2.1, fun ht => (h'.2.2.2.1 ht).trans (h.2.2.2.1 ht),
      fun hu => (h'.2.2.2.2 hu).trans (h.2.2.2.2 hu)⟩

/-- t registers after one lane's operand has been written. -/
theorem Group.treg_put (g : Group) (f : BitVec 9) (l v n l' j : Nat) (hf : (fileOf f).1 = .t) (hl : l < 32)
    (hl' : l' < 32) :
    (g.put f l v n).treg l' j =
      if l' = l ∧ (fileOf f).2 ≤ j ∧ j < (fileOf f).2 + n then BitVec.ofNat 32 (bitsOf v (32 * (j - (fileOf f).2)) 32)
      else g.treg l' j := by
  induction n with
  | zero => simp [Group.put, show ¬ ((fileOf f).2 ≤ j ∧ j < (fileOf f).2) by omega]
  | succ n ih =>
    unfold Group.put Group.wr
    rw [show fileOf f = (.t, (fileOf f).2) from Prod.ext hf rfl]
    simp only []
    rw [Group.treg_setT _ _ _ _ _ _ hl hl', ih]
    by_cases h1 : l' = l ∧ j = (fileOf f).2 + n
    · rw [if_pos h1, if_pos ⟨h1.1, by omega, by omega⟩, h1.2, Nat.add_sub_cancel_left]
    · rw [if_neg h1]
      by_cases h2 : l' = l ∧ (fileOf f).2 ≤ j ∧ j < (fileOf f).2 + n
      · rw [if_pos h2, if_pos ⟨h2.1, h2.2.1, by omega⟩]
      · rw [if_neg h2, if_neg (by omega)]

/-- t registers after the operand of several lanes has been written: each lane's own value, last write first. -/
theorem Group.treg_putLanes_kept (g : Group) (f : BitVec 9) (n : Nat) (vals : List (Nat × Nat)) (l' j : Nat)
    (hl : ∀ p ∈ vals, p.1 < 32) (hl' : l' < 32)
    (hk : ¬ ((fileOf f).1 = .t ∧ l' ∈ vals.map Prod.fst ∧ (fileOf f).2 ≤ j ∧ j < (fileOf f).2 + n)) :
    (g.putLanes f n vals).treg l' j = g.treg l' j := by
  by_cases hf : (fileOf f).1 = .t
  · unfold Group.putLanes
    induction vals generalizing g with
    | nil => rfl
    | cons p ps ih =>
      simp only [List.foldl_cons]
      rw [ih (g.put f p.1 p.2 n) (fun q hq => hl q (List.mem_cons_of_mem _ hq))
        (fun hh => hk ⟨hh.1, by simp only [List.map_cons, List.mem_cons]; exact Or.inr hh.2.1, hh.2.2⟩)]
      rw [Group.treg_put g f p.1 p.2 n l' j hf (hl p (List.mem_cons_self ..)) hl', if_neg]
      intro hh
      exact hk ⟨hf, by simp [hh.1], hh.2⟩
  · have := (Group.putLanes_frame g f n vals).2.2.2.1 hf
    unfold Group.treg
    rw [this]

theorem Group.treg_putLanes (g : Group) (f : BitVec 9) (n : Nat) (vals : List (Nat × Nat)) (hf : (fileOf f).1 = .t)
    (hl : ∀ p ∈ vals, p.1 < 32) (hn : (vals.map Prod.fst).Nodup) (p : Nat × Nat) (hp : p ∈ vals) (j : Nat)
    (hj : (fileOf f).2 ≤ j) (hj' : j < (fileOf f).2 + n) :
    (g.putLanes f n vals).treg p.1 j = BitVec.ofNat 32 (bitsOf p.2 (32 * (j - (fileOf f).2)) 32) := by
  induction vals generalizing g with
  | nil => cases hp
  | cons q qs ih =>
    have hq32 := hl q (List.mem_cons_self ..)
    simp only [List.map_cons, List.nodup_cons] at hn
    rcases List.mem_cons.mp hp with rfl | hp'
    · have := Group.treg_putLanes_kept (g.put f p.1 p.2 n) f n qs p.1 j (fun x hx => hl x (List.mem_cons_of_mem _ hx)) hq32
        (fun hh => hn.1 hh.2.1)
      unfold Group.putLanes at this ⊢
      simp only [List.foldl_cons]
      rw [this, Group.treg_put g f p.1 p.2 n p.1 j hf hq32 hq32, if_pos ⟨rfl, hj, hj'⟩]
    · have := ih (g.put f q.1 q.2 n) (fun x hx => hl x (List.mem_cons_of_mem _ hx)) hn.2 hp'
      unfold Group.putLanes at this ⊢
      simp only [List.foldl_cons]
      exact this

/-- u registers after one operand has been written. -/
theorem Group.ureg_put (g : Group) (f : BitVec 9) (l v n j : Nat) (hf : (fileOf f).1 = .u) :
    (g.put f l v n).ureg j =
      if (fileOf f).2 ≤ j ∧ j < (fileOf f).2 + n then BitVec.ofNat 32 (bitsOf v (32 * (j - (fileOf f).2)) 32)
      else g.ureg j := by
  induction n with
  | zero => simp [Group.put, show ¬ ((fileOf f).2 ≤ j ∧ j < (fileOf f).2) by omega]
  | succ n ih =>
    unfold Group.put Group.wr
    rw [show fileOf f = (.u, (fileOf f).2) from Prod.ext hf rfl]
    simp only []
    rw [Group.ureg_setU, ih]
    by_cases h1 : j = (fileOf f).2 + n
    · rw [if_pos h1, if_pos ⟨by omega, by omega⟩, h1, Nat.add_sub_cancel_left]
    · rw [if_neg h1]
      by_cases h2 : (fileOf f).2 ≤ j ∧ j < (fileOf f).2 + n
      · rw [if_pos h2, if_pos ⟨h2.1, by omega⟩]
      · rw [if_neg h2, if_neg (by omega)]

theorem Group.ureg_putLanes_kept (g : Group) (f : BitVec 9) (n : Nat) (vals : List (Nat × Nat)) (j : Nat)
    (hk : ¬ ((fileOf f).1 = .u ∧ (fileOf f).2 ≤ j ∧ j < (fileOf f).2 + n)) :
    (g.putLanes f n vals).ureg j = g.ureg j := by
  by_cases hf : (fileOf f).1 = .u
  · unfold Group.putLanes
    induction vals generalizing g with
    | nil => rfl
    | cons p ps ih =>
      simp only [List.foldl_cons]
      rw [ih (g.put f p.1 p.2 n), Group.ureg_put g f p.1 p.2 n j hf, if_neg (fun hh => hk ⟨hf, hh⟩)]
  · have := (Group.putLanes_frame g f n vals).2.2.2.2 hf
    unfold Group.ureg
    rw [this]

theorem Group.ureg_putLanes (g : Group) (f : BitVec 9) (n k : Nat) (vals : List (Nat × Nat)) (hf : (fileOf f).1 = .u)
    (hv : ∀ p ∈ vals, p.2 = k) (hne : vals ≠ []) (j : Nat) (hj : (fileOf f).2 ≤ j) (hj' : j < (fileOf f).2 + n) :
    (g.putLanes f n vals).ureg j = BitVec.ofNat 32 (bitsOf k (32 * (j - (fileOf f).2)) 32) := by
  induction vals generalizing g with
  | nil => exact absurd rfl hne
  | cons q qs ih =>
    by_cases hqs : qs = []
    · subst hqs
      unfold Group.putLanes
      simp only [List.foldl_cons, List.foldl_nil]
      rw [Group.ureg_put g f q.1 q.2 n j hf, if_pos ⟨hj, hj'⟩, hv q (List.mem_cons_self ..)]
    · have := ih (g.put f q.1 q.2 n) (fun p hp => hv p (List.mem_cons_of_mem _ hp)) hqs
      unfold Group.putLanes at this ⊢
      simp only [List.foldl_cons]
      exact this

/-! ## Values -/

/-- A number read back from the words that were written. -/
theorem Group.val_of_words (g : Group) (f : BitVec 9) (l v n : Nat)
    (h : ∀ i < n, g.rd f l i = BitVec.ofNat 32 (bitsOf v (32 * i) 32)) : g.val f l n = v % 2 ^ (32 * n) := by
  induction n with
  | zero => simp [Group.val, Nat.mod_one]
  | succ n ih =>
    unfold Group.val
    rw [ih (fun i hi => h i (by omega)), h n (by omega), mod_words, BitVec.toNat_ofNat,
      Nat.mod_eq_of_lt (bitsOf_lt _ _ _)]

theorem Group.val_putLanes_t (g : Group) (f : BitVec 9) (n : Nat) (vals : List (Nat × Nat)) (hf : (fileOf f).1 = .t)
    (hl : ∀ p ∈ vals, p.1 < 32) (hn : (vals.map Prod.fst).Nodup) (p : Nat × Nat) (hp : p ∈ vals) :
    (g.putLanes f n vals).val f p.1 n = p.2 % 2 ^ (32 * n) := by
  apply Group.val_of_words
  intro i hi
  unfold Group.rd
  rw [show fileOf f = (.t, (fileOf f).2) from Prod.ext hf rfl]
  simp only []
  rw [Group.treg_putLanes g f n vals hf hl hn p hp _ (by omega) (by omega), Nat.add_sub_cancel_left]

theorem Group.val_putLanes_u (g : Group) (f : BitVec 9) (n k l : Nat) (vals : List (Nat × Nat)) (hf : (fileOf f).1 = .u)
    (hv : ∀ p ∈ vals, p.2 = k) (hne : vals ≠ []) : (g.putLanes f n vals).val f l n = k % 2 ^ (32 * n) := by
  apply Group.val_of_words
  intro i hi
  unfold Group.rd
  rw [show fileOf f = (.u, (fileOf f).2) from Prod.ext hf rfl]
  simp only []
  rw [Group.ureg_putLanes g f n k vals hf hv hne _ (by omega) (by omega), Nat.add_sub_cancel_left]

/-- The value of an operand depends on the registers alone. -/
theorem Group.val_congr {g h : Group} (hs : g.SameRegs h) (f : BitVec 9) (l n : Nat) : h.val f l n = g.val f l n := by
  have hr : ∀ i, h.rd f l i = g.rd f l i := by
    intro i
    unfold Group.rd Group.treg Group.ureg
    rw [hs.1, hs.2.1]
  induction n with
  | zero => rfl
  | succ n ih => unfold Group.val; rw [ih, hr]

/-! ## Lanes -/

theorem lanesOf_lt (m : BitVec 32) : ∀ i ∈ lanesOf m, i < 32 := by
  intro i hi
  unfold lanesOf at hi
  exact List.mem_range.mp (List.mem_of_mem_filter hi)

theorem lanesOf_nodup (m : BitVec 32) : (lanesOf m).Nodup := List.Nodup.filter _ List.nodup_range

theorem lanesOf_ne_nil {m : BitVec 32} (h : m ≠ 0) : lanesOf m ≠ [] := by
  intro hn
  apply h
  apply BitVec.eq_of_getLsbD_eq
  intro i hi
  have : bitAt m i = false := by
    by_contra hb
    have : i ∈ lanesOf m := by
      unfold lanesOf
      exact List.mem_filter.mpr ⟨List.mem_range.mpr hi, by simpa using hb⟩
    rw [hn] at this
    cases this
  unfold bitAt fld bitsOf at this
  rw [BitVec.getLsbD, Nat.testBit]
  simp only [beq_eq_false_iff_ne, ne_eq, pow_one] at this
  have h2 : m.toNat >>> i % 2 = 0 := by omega
  simp [Nat.one_and_eq_mod_two, h2]

theorem At.each_fst {α : Type} (a : At) (f : Nat → α) : (a.each f).map Prod.fst = a.lanes := by
  unfold At.each
  rw [List.map_map]
  exact List.map_id _

theorem agree_of_const {vals : List (Nat × Nat)} {k : Nat} (h : ∀ p ∈ vals, p.2 = k) : agree vals = true := by
  unfold agree
  split
  · rfl
  · rename_i v vs
    simp only [List.all_eq_true, beq_iff_eq]
    intro x hx
    rw [h x (List.mem_cons_of_mem _ hx), h v (List.mem_cons_self ..)]

/-! ## Writing an operand in the participating lanes -/

theorem At.put_wrote (a : At) (s : State) (d : BitVec 9) (n : Nat) (vals : List (Nat × Nat)) {x : Block}
    (h : s.block a.core a.blk = some x) (hlt : ∀ p ∈ vals, p.1 < 32) (hnd : (vals.map Prod.fst).Nodup) (pc : DWord) :
    a.WroteRegs s (a.goto (a.put s d n vals) pc) d n vals ∧ 
      a.goto (a.put s d n vals) pc = { s with
        cores := (a.goto (a.put s d n vals) pc).cores, freeCtr := (a.goto (a.put s d n vals) pc).freeCtr } := by
  -- the state after the write is a change of the issuing group of a state with the same cores
  obtain ⟨s0, fw, hput, hs0, hd0, hw⟩ : ∃ s0 : State, ∃ fw : Group → Group,
      a.put s d n vals = a.modGroup s0 fw ∧ s0.cores = s.cores ∧ s0 = { s with freeCtr := s0.freeCtr } ∧
      ((fw = fun g => g.putLanes d n vals) ∨
        ((fileOf d).1 = .u ∧ agree vals = false ∧ ∃ k, fw = fun g => g.put d 0 k n)) := by
    unfold At.put State.putVals
    split
    · rename_i hc
      exact ⟨_, _, rfl, rfl, rfl, Or.inr ⟨hc.1, hc.2, _, rfl⟩⟩
    · exact ⟨s, _, rfl, rfl, rfl, Or.inl rfl⟩
  have hb0 : s0.block a.core a.blk = some x := by
    unfold State.block State.core at h ⊢
    rw [hs0]; exact h
  have hg0 : a.groupIn s0 = a.groupIn s := by
    unfold At.groupIn State.group State.block State.core
    rw [hs0]
  obtain ⟨y, hy, _, _⟩ := State.block_modGroup s0 a.core a.blk a.grp fw hb0
  have hy' : (a.modGroup s0 fw).block a.core a.blk = some y := hy
  have hgp : a.groupIn (a.put s d n vals) = fw (a.groupIn s) := by
    rw [hput, At.groupIn_modGroup a s0 fw hb0, hg0]
  have hsame := At.goto_same a (a.put s d n vals) pc (x := y) (by rw [hput]; exact hy')
  rw [hgp] at hsame
  have hkeep : a.OtherGroupsKept s (a.put s d n vals) := by
    rw [hput]
    have h1 : a.OtherGroupsKept s s0 := At.OtherGroupsKept.of_cores hs0
    exact h1.trans (At.modGroup_kept a s0 fw hb0)
  refine ⟨⟨fun hf p hp => ?_, fun hf hne k hall i => ?_, fun i hi k hk => ?_, fun k hk => ?_, ?_, ?_, ?_, ?_⟩, ?_⟩
  · rw [Group.val_congr hsame]
    rcases hw with rfl | ⟨hu, _⟩
    · exact Group.val_putLanes_t _ _ _ _ hf hlt hnd p hp
    · rw [hf] at hu; cases hu
  · rw [Group.val_congr hsame]
    rcases hw with rfl | ⟨_, hag, _⟩
    · exact Group.val_putLanes_u _ _ _ _ _ _ hf hall hne
    · rw [agree_of_const hall] at hag; cases hag
  · have : (a.groupIn (a.goto (a.put s d n vals) pc)).treg i k = (fw (a.groupIn s)).treg i k := by
      unfold Group.treg; rw [hsame.1]
    rw [this]
    rcases hw with rfl | ⟨hu, _, k', rfl⟩
    · exact Group.treg_putLanes_kept _ _ _ _ _ _ hlt hi hk
    · have := (Group.put_frame (a.groupIn s) d 0 k' n).2.2.2.1 (by rw [hu]; decide)
      unfold Group.treg; rw [this]
  · have : (a.groupIn (a.goto (a.put s d n vals) pc)).ureg k = (fw (a.groupIn s)).ureg k := by
      unfold Group.ureg; rw [hsame.2.1]
    rw [this]
    rcases hw with rfl | ⟨hu, _, k', rfl⟩
    · exact Group.ureg_putLanes_kept _ _ _ _ _ hk
    · rw [Group.ureg_put _ _ _ _ _ _ hu, if_neg (fun hh => hk ⟨hu, hh⟩)]
  · rw [hsame.2.2.1]
    rcases hw with rfl | ⟨_, _, k', rfl⟩
    · exact (Group.putLanes_frame _ _ _ _).1
    · exact (Group.put_frame _ _ _ _ _).1
  · rw [hsame.2.2.2.1]
    rcases hw with rfl | ⟨_, _, k', rfl⟩
    · exact (Group.putLanes_frame _ _ _ _).2.1
    · exact (Group.put_frame _ _ _ _ _).2.1
  · rw [hsame.2.2.2.2]
    rcases hw with rfl | ⟨_, _, k', rfl⟩
    · exact (Group.putLanes_frame _ _ _ _).2.2.1
    · exact (Group.put_frame _ _ _ _ _).2.2.1
  · refine hkeep.trans ?_
    unfold At.goto
    exact At.modGroup_kept a _ _ (by rw [hput]; exact hy')
  · have h1 : OnlyCores (a.put s d n vals) (a.goto (a.put s d n vals) pc) := by
      unfold At.goto At.modGroup
      exact State.modGroup_onlyCores _ _ _ _ _
    have h2 : OnlyCores s0 (a.put s d n vals) := by rw [hput]; exact State.modGroup_onlyCores _ _ _ _ _
    have h3 := h2.trans h1
    unfold OnlyCores at h3
    rw [h3, hd0]

/-- What was written stays written when the sub-group has issued. -/
theorem At.WroteRegs.issued {a : At} {s t u : State} {d : BitVec 9} {n : Nat} {vals : List (Nat × Nat)}
    (h : a.WroteRegs s t d n vals) (hg : a.groupIn u = a.groupIn t) (ho : a.OtherGroupsKept t u) : a.WroteRegs s u d n vals := by
  refine ⟨?_, ?_, ?_, ?_, ?_, ?_, ?_, h.others.trans ho⟩ <;> rw [hg]
  · exact h.inT
  · exact h.inU
  · exact h.tKept
  · exact h.uKept
  · exact h.pKept
  · exact h.hKept
  · exact h.lstatKept

/-- An instruction whose body writes one operand: the result in each participating lane, and the frame. -/
theorem State.issue_wrote {s : State} {sg : SgRef} {gf : BitVec 4} {uni : Bool} {us : List Use} {a : At} {s1 : State}
    (h : s.issuing sg gf uni us = some (a, s1)) (rep : Bool) (body : At → State → Did) (d : BitVec 9) (n : Nat)
    (v : Nat → Nat) (hb : body a s1 = .done (a.put s1 d n (a.each v))) :
    a.WroteRegs s1 (s.issue sg gf rep uni true us body) d n (a.each v) ∧
      a.OnlyIssuedDraws us s1 (s.issue sg gf rep uni true us body) := by
  rw [State.issue_done h rep hb]
  obtain ⟨⟨x, hblk, _⟩, _⟩ := State.issuing_block h
  have hq := State.issuing_reqs h
  obtain ⟨hw, hd⟩ := At.put_wrote a s1 d n (a.each v) hblk
    (fun p hp => by obtain ⟨i, hi, rfl⟩ := List.mem_map.mp hp; exact lanesOf_lt _ _ hi)
    (by rw [At.each_fst]; exact lanesOf_nodup _) a.next
  have hput : (a.put s1 d n (a.each v)).reqs = s1.reqs := by
    have hr : (a.goto (a.put s1 d n (a.each v)) a.next).reqs = (a.put s1 d n (a.each v)).reqs := by
      have := State.modGroup_onlyCores (a.put s1 d n (a.each v)) a.core a.blk a.grp
        (fun g => (g.replace a.sub.lane [{ a.stamp (a.put s1 d n (a.each v)) with pc := a.next }]).joined)
      unfold OnlyCores at this
      unfold At.goto At.modGroup
      rw [this]
    rw [← hr, hd]
  -- superseding first or last makes no difference
  have hs : a.advance (a.supersede s (a.put s1 d n (a.each v)) us) =
      a.supersede s (a.goto (a.put s1 d n (a.each v)) a.next) us := by
    have hr : (a.goto (a.put s1 d n (a.each v)) a.next).reqs = (a.put s1 d n (a.each v)).reqs := by rw [hd, hput]
    unfold At.advance
    rw [At.supersede_eq a s (a.put s1 d n (a.each v)), At.goto_reqs, At.supersede_eq a s (a.goto _ _),
      At.supersede_reqs hr]
  rw [hs]
  generalize ht : a.goto (a.put s1 d n (a.each v)) a.next = t at hw hd ⊢
  refine ⟨hw.issued (t := t) ?_ ?_, At.issued_onlyDraws a s hq.symm hd⟩
  · rw [At.groupIn_issued, At.supersede_eq]; rfl
  · refine At.OtherGroupsKept.trans ?_ (At.issued_kept a _)
    rw [At.supersede_eq]
    exact At.OtherGroupsKept.of_cores rfl

/-- Values that agree modulo the operand's width: what was written may be said of either. -/
theorem At.WroteRegs.of_mod {a : At} {s t : State} {d : BitVec 9} {n : Nat} {v w : Nat → Nat}
    (h : a.WroteRegs s t d n (a.each w)) (hv : ∀ i ∈ a.lanes, w i = v i % 2 ^ (32 * n)) : a.WroteRegs s t d n (a.each v) := by
  refine ⟨fun hf p hp => ?_, fun hf hne k hall i => ?_, fun i hi k hk => ?_, h.uKept, h.pKept, h.hKept, h.lstatKept, h.others⟩
  · obtain ⟨i, hi, rfl⟩ := List.mem_map.mp hp
    have := h.inT hf (i, w i) (List.mem_map.mpr ⟨i, hi, rfl⟩)
    rw [this]
    simp only []
    rw [hv i hi, Nat.mod_mod]
  · have := h.inU hf (fun hn => hne (List.map_eq_nil_iff.mpr (List.map_eq_nil_iff.mp hn))) (k % 2 ^ (32 * n)) (fun p hp => by
      obtain ⟨j, hj, rfl⟩ := List.mem_map.mp hp
      have hk := hall (j, v j) (List.mem_map.mpr ⟨j, hj, rfl⟩)
      simp only [] at hk ⊢
      rw [hv j hj, hk]) i
    rw [this, Nat.mod_mod]
  · exact h.tKept i hi k (by rw [At.each_fst]; rw [At.each_fst] at hk; exact hk)

theorem At.WroteRegs.of_eq {a : At} {s t : State} {d : BitVec 9} {n : Nat} {v w : Nat → Nat}
    (h : a.WroteRegs s t d n (a.each w)) (hv : ∀ i ∈ a.lanes, w i = v i) : a.WroteRegs s t d n (a.each v) := by
  have : a.each w = a.each v := List.map_congr_left fun i hi => by rw [hv i hi]
  rw [← this]; exact h

end Sys2Proof.Machine
end

