-- ==== Sys2Proof/WellFormed.lean ====
section
/-! DEFINITION. Well-formed commands: each unit that a command names exists (spec/01, spec/06, spec/08, spec/13, spec/14, spec/18),
and what arrives from outside has its size. The machine answers every command, well formed or not. -/
namespace Sys2Proof

/-! ## Units -/

def coreOk (n : Nat) : Bool := decide (n < 1536)
def arrOk (a : Nat) : Bool := decide (a < 3)
def partOk (p : Nat) : Bool := decide (p < 8)
/-- A memory controller: LMC0 to LMC31, then BMC0 to BMC15 (R416). -/
def mcOk (m : Nat) : Bool := decide (m < 48)
def portOk (k : Nat) : Bool := decide (k < 16)
/-- A Bihel port, or 16 for the Sornal link. -/
def linkOk (k : Nat) : Bool := decide (k ≤ 16)
def ringOk (r : Nat) : Bool := decide (r < 128)
def ctxOk (c : Nat) : Bool := decide (c < 64)
def idxOk (i : Nat) : Bool := decide (i < 2 ^ 20)
/-- An offset of a register in the set-up window (R411). -/
def offOk (o : Nat) : Bool := o % 4 == 0 && decide (o < 0x4000000)
/-- An offset within a cluster block (R413, R414). -/
def aperOk (x : Nat) : Bool := x % 4 == 0 && decide (x < 0x20000)

/-! ## Operands -/

def SgRef.wf (r : SgRef) : Bool :=
  coreOk r.core && decide (r.grp < 16) && decide (r.lane < 32)
    && (match r.partner with
      | none => true
      | some q => decide (q.1 < 16) && decide (q.2 < 32))

/-- Every frozen cycle has one cause (R52). -/
def ArrCycles.wf (c : ArrCycles) : Bool := c.frozen == c.feed + c.drain + c.wbq

/-- Data fill the words that LEN gives (R278). -/
def packetWf (p : Packet) : Bool := p.data.length == 4 * p.len.toNat || p.data.isEmpty

def pairWf : PairSource → Bool
  | .port n p => portOk n && packetWf p
  | .ownModule => true

def engineWf : EngineUnit → Bool
  | .array c a => coreOk c && arrOk a
  | .stream c => coreOk c
  | .atomic c => coreOk c
  | .thread c => coreOk c
  | .adder m => mcOk m
  | .updateUnit m => mcOk m
  | .factor p => partOk p
  | .link => true

def waitWf : WaitUnit → Bool
  | .sub c _ g l => coreOk c && decide (g < 16) && decide (l < 32)
  | .ring r => ringOk r

def requesterWf : Requester → Bool
  | .sc n => decide (n < 8)
  | .host => true
  | .core n => coreOk n

def readingWf (m : PowerReading) : Bool := decide (m.part.length = 8) && decide (m.ifRaised.length = 8)

def placeWf (a : PlaceArg) : Bool := decide (a.rank < a.ranks.length) && decide (a.ports.length ≤ 16) && a.contexts.all ctxOk

def buildWf (a : BuildArg) : Bool := ctxOk a.ctx && decide (1 ≤ a.segs.toNat)

def streamWf (a : StreamArg) : Bool := decide (1 ≤ a.slots) && a.slotSize % 64 == 0

def recoveryWf (d : RecoveryData) : Bool := d.spool.all fun p => decide (p.1 < 16384)

/-! ## Commands -/

/-- A well-formed command. -/
def Instr.wf : Instr → Bool
  | .add sg _ => sg.wf
  | .sub sg _ => sg.wf
  | .mullo sg _ => sg.wf
  | .mulhi sg _ => sg.wf
  | .muladd sg _ => sg.wf
  | .minmax sg _ => sg.wf
  | .logic sg _ => sg.wf
  | .shift sg _ => sg.wf
  | .field sg _ => sg.wf
  | .bitop sg _ => sg.wf
  | .cmp sg _ => sg.wf
  | .pick sg _ => sg.wf
  | .mov sg _ => sg.wf
  | .setk sg _ => sg.wf
  | .addk sg _ => sg.wf
  | .addF sg _ => sg.wf
  | .mulF sg _ => sg.wf
  | .fmaF sg _ => sg.wf
  | .minF sg _ => sg.wf
  | .maxF sg _ => sg.wf
  | .cmpF sg _ => sg.wf
  | .adderrF sg _ => sg.wf
  | .mulerrF sg _ => sg.wf
  | .tointF sg _ => sg.wf
  | .toflt sg _ => sg.wf
  | .pow2F sg _ => sg.wf
  | .log2F sg _ => sg.wf
  | .recipF sg _ => sg.wf
  | .rsqrtF sg _ => sg.wf
  | .widen sg _ => sg.wf
  | .narrow sg _ => sg.wf
  | .narrowb sg _ => sg.wf
  | .ld sg _ => sg.wf
  | .st sg _ => sg.wf
  | .stN sg _ => sg.wf
  | .accN sg _ => sg.wf
  | .cinv sg _ => sg.wf
  | .cwb sg _ => sg.wf
  | .aop sg _ => sg.wf
  | .jmp sg _ => sg.wf
  | .jmpr sg _ => sg.wf
  | .call sg _ => sg.wf
  | .endThread sg _ => sg.wf
  | .cede sg _ => sg.wf
  | .nop sg _ => sg.wf
  | .pred sg _ => sg.wf
  | .tally sg _ => sg.wf
  | .lxch sg _ => sg.wf
  | .rdl sg _ => sg.wf
  | .pack sg _ => sg.wf
  | .rally sg _ => sg.wf
  | .barrierComplete core _ _ _ => coreOk core
  | .arrIssue sg _ => sg.wf
  | .hset sg _ => sg.wf
  | .hget sg _ => sg.wf
  | .sbWait sg _ => sg.wf
  | .sbWaitReady sg => sg.wf
  | .sbTest sg _ => sg.wf
  | .hclr sg _ => sg.wf
  | .strIssue sg _ => sg.wf
  | .splRd sg _ => sg.wf
  | .splWait sg _ => sg.wf
  | .splWaitSatisfied sg => sg.wf
  | .splAdd sg _ => sg.wf
  | .splSet sg _ => sg.wf
  | .srd sg _ => sg.wf
  | .fence sg _ => sg.wf
  | .arrayOpStart core arr _ => coreOk core && arrOk arr
  | .arrayReconfigure core arr => coreOk core && arrOk arr
  | .tileConvertDone core arr cyc => coreOk core && arrOk arr && cyc.wf
  | .tileRefeed core arr => coreOk core && arrOk arr
  | .replayStageCopy core arr => coreOk core && arrOk arr
  | .sparseBadlist core => coreOk core
  | .arrayOpComplete core arr cyc => coreOk core && arrOk arr && cyc.wf
  | .drogueRecompute core slot arr => coreOk core && decide (slot < 2) && arrOk arr
  | .drogueCompare core slot => coreOk core && decide (slot < 2)
  | .copyStart core _ => coreOk core
  | .copySpoolStep core _ _ => coreOk core
  | .scatterBadlist core _ => coreOk core
  | .copyComplete core _ => coreOk core
  | .allocationRelease core _ => coreOk core
  | .blockPlace _ cores => cores.all coreOk
  | .splitChange core split => coreOk core && decide (split ≤ 4)
  | .coreIdle core => coreOk core
  | .partitionSleep p => partOk p
  | .partitionWake p => partOk p
  | .scrubRead mc => mcOk mc
  | .lpddr6Retrain die ch => decide (die < 2) && decide (ch < 64)
  | .spoolFileWrite _ data => (decide (1 ≤ data.length) && decide (data.length ≤ 8))
  | .setupRegisterWrite off _ => offOk off
  | .rwcValueWrite off _ => offOk off
  | .rwcComplementWrite off _ => offOk off
  | .broadcastWrite x _ => aperOk x
  | .groupApertureWrite x _ => aperOk x
  | .lcountLoRead rq => requesterWf rq
  | .wtInv _ => true
  | .famapInv _ => true
  | .ntInv _ => true
  | .utInv _ => true
  | .invalidationComplete _ => true
  | .partCtrlReset p => partOk p
  | .resetCtrlChip => true
  | .errBaseWrite _ => true
  | .errRdWrite _ => true
  | .errFatalClear => true
  | .cvtCountClearSat core => coreOk core
  | .cvtCountClearInf core => coreOk core
  | .cvtCountClearNan core => coreOk core
  | .arrCountClearF core => coreOk core
  | .arrCountClearD core => coreOk core
  | .arrCountClearW core => coreOk core
  | .coreCountClearRepack core => coreOk core
  | .fuCountClearDone p => partOk p
  | .mcCountClearRetry mc => mcOk mc
  | .mcCountClearPois mc => mcOk mc
  | .mcCountClearPread mc => mcOk mc
  | .mcCountClearScrub mc => mcOk mc
  | .raCountClearAcc mc => mcOk mc
  | .raCountClearPairs mc => mcOk mc
  | .raCountClearSpill mc => mcOk mc
  | .raCountClearSat mc => mcOk mc
  | .raCountClearStale mc => mcOk mc
  | .raCountClearExtra mc => mcOk mc
  | .raCountClearDropped mc => mcOk mc
  | .uuCountClearParams mc => mcOk mc
  | .uuCountClearFrozen mc => mcOk mc
  | .uuCountClearPblocks mc => mcOk mc
  | .uuCountClearMclamp mc => mcOk mc
  | .uuCountClearShards mc => mcOk mc
  | .uuCountClearSkew mc => mcOk mc
  | .uuCountClearBusy mc => mcOk mc
  | .fabCountClearCrcErr port => portOk port
  | .fabCountClearResend port => portOk port
  | .fabCountClearNarrow port => portOk port
  | .fabCountClearLoss port => portOk port
  | .fabCountClearDrop port => portOk port
  | .snCountClearCrcErr => true
  | .snCountClearResend => true
  | .snCountClearNarrow => true
  | .snCountClearLoss => true
  | .snCountClearDb => true
  | .snCountClearDbPoll => true
  | .pwrCountClearPartition => true
  | .pwrCountClearModule => true
  | .portRetrain port => portOk port
  | .ringStart ring => ringOk ring
  | .ringStop ring => ringOk ring
  | .ringResume ring => ringOk ring
  | .ringTailWrite ring _ => ringOk ring
  | .doorbell ring _ => ringOk ring
  | .doorbellPoll ring => ringOk ring
  | .hreadResponse _ _ data => decide (data.length ≤ 256)
  | .mread _ off => offOk off
  | .mwrite off _ => offOk off
  | .descriptorFetch ring n => ringOk ring && (decide (1 ≤ n) && decide (n ≤ 4))
  | .descriptorRefetch ring => ringOk ring
  | .launch ring => ringOk ring
  | .launchComplete _ => true
  | .intrHoldExpiry vec => decide (vec < 256)
  | .copy ring => ringOk ring
  | .fill ring => ringOk ring
  | .linkCopyComplete ring _ => ringOk ring
  | .hint ring => ringOk ring
  | .ballastGuardEnd p => partOk p
  | .phase ring => ringOk ring
  | .spoolWait ring => ringOk ring
  | .spoolWaitSatisfied ring => ringOk ring
  | .spoolSignal ring => ringOk ring
  | .ringFence ring => ringOk ring
  | .updateGroupRate ring _ => ringOk ring
  | .updateGroupSet ring _ => ringOk ring
  | .updateGroupArm ring _ => ringOk ring
  | .sornalLinkLoss => true
  | .flitReceive lk flit => linkOk lk && decide (flit.length = 256)
  | .resendTimeout lk => linkOk lk
  | .laneBad lk lane => linkOk lk && decide (lane < 8)
  | .linkLoss lk => linkOk lk
  | .portSignalDetect lk _ => linkOk lk
  | .detectTimeout lk => linkOk lk
  | .equaliseDone lk _ => linkOk lk
  | .widthAgreed lk _ _ _ => linkOk lk
  | .initReady lk => linkOk lk
  | .lostRetry lk => linkOk lk
  | .downRetry lk => linkOk lk
  | .write port p => portOk port && packetWf p
  | .read port p => portOk port && packetWf p
  | .accumulate port p => portOk port && packetWf p
  | .pairAccumulate src => pairWf src
  | .atomic port p => portOk port && packetWf p
  | .spoolNotify port p => portOk port && packetWf p
  | .fabricResponse port p => portOk port && packetWf p
  | .lineCut port p => portOk port && packetWf p
  | .fabricRequestTimeout tag => decide (tag < 65536)
  | .leafFire idx => idxOk idx
  | .castFire idx => idxOk idx
  | .factorFire idx => idxOk idx
  | .gram p => partOk p
  | .ortho p => partOk p
  | .factorComplete p => partOk p
  | .shardFire idx => decide (idx < 65536)
  | .shardUpdateComplete idx => decide (idx < 65536)
  | .checkpointFire _ => true
  | .recoveryStart => true
  | .recoveryRankTaken d => recoveryWf d
  | .numericsServiceStep group _ => decide (group < 4096)
  | .inputBatchArrival _ => true
  | .inputSlotFreed _ => true
  | .create rq a => ringOk rq.ring && ctxOk a.ctx
  | .destroy rq ctx => ringOk rq.ring && ctxOk ctx
  | .bindRing rq ring ctx => ringOk rq.ring && ringOk ring && ctxOk ctx
  | .unbindRing rq ring => ringOk rq.ring && ringOk ring
  | .setWindow rq ctx idx words => ringOk rq.ring && ctxOk ctx && decide (idx < 256) && decide (words.length = 8)
  | .grantSpool rq ctx _ _ => ringOk rq.ring && ctxOk ctx
  | .place rq a => ringOk rq.ring && placeWf a
  | .jobRelease rq => ringOk rq.ring
  | .build rq a => ringOk rq.ring && buildWf a
  | .collectiveArm rq _ => ringOk rq.ring
  | .disarm rq _ => ringOk rq.ring
  | .configure rq _ => ringOk rq.ring
  | .checkpointStop rq _ => ringOk rq.ring
  | .query rq _ => ringOk rq.ring
  | .recoveryStatus rq => ringOk rq.ring
  | .recoveryWait rq spare => ringOk rq.ring && decide (spare < 2 ^ 24)
  | .abandon rq => ringOk rq.ring
  | .numericsEnable rq group _ => ringOk rq.ring && decide (group < 4096)
  | .numericsDisable rq group => ringOk rq.ring && decide (group < 4096)
  | .drogue rq tag _ => ringOk rq.ring && decide (tag < 4096)
  | .tags rq => ringOk rq.ring
  | .setCap rq => ringOk rq.ring
  | .capDeferralExpiry => true
  | .setMode rq => ringOk rq.ring
  | .setPhases rq => ringOk rq.ring
  | .readPower rq => ringOk rq.ring
  | .openStream rq a => ringOk rq.ring && streamWf a
  | .closeStream rq _ => ringOk rq.ring
  | .enter rq => ringOk rq.ring
  | .exit rq => ringOk rq.ring
  | .selftest rq => ringOk rq.ring
  | .powerEvaluation m => readingWf m
  | .dividerChange p => partOk p
  | .railSettled p => partOk p
  | .telemetryWindow _ _ => true
  | .droopWarning p _ => partOk p
  | .droopHoldExpiry p => partOk p
  | .droopReset p _ => partOk p
  | .sensorSample temps _ => decide (temps.length = 8)
  | .engineHang unit _ => engineWf unit
  | .escalationTimeout unit => engineWf unit
  | .waitMonitorExpiry w _ => waitWf w
  | .contextReset ctx => ctxOk ctx
  | .engineReset unit => engineWf unit
  | .partitionReset p => partOk p
  | .chipReset _ _ => true
  | .powerCycleRequest => true
  | .watchdogExpiry sc => decide (sc < 8)
  | .errorRecordWrite src => decide (src < 0x660)
  | .coldStart _ => true
  | .stepTimeLimit => true
  | .restart => true
  | .loadImage => true
  | .persistImage => true
  | .loadRecord => true
  | .clearFallbacks => true
  | .hold => true
  | .release => true
  | .getVersion _ _ => true
  | .getCapabilities _ _ => true
  | .negotiateAlgorithms _ _ => true
  | .getDigests _ _ => true
  | .getCertificate _ _ => true
  | .challenge _ _ => true
  | .getMeasurements _ _ => true
  | .unsupportedRequest _ _ => true
  | .progress _ => true
  | .modStatus _ => true
  | .lastResult _ => true
  | .trayCap _ _ _ => true
  | .capRead _ => true
  | .powerRead _ _ _ => true
  | .senseMap _ => true
  | .standby _ _ _ => true
  | .alertClear _ _ _ => true
  | .serial _ => true
  | .mgmtBusStuck => true
  | .mgmtBusRestored => true
  | .smbclkTimeout => true
  | .resetPin => true
  | .inputTurnOff => true
  | .senseOpen pair => decide (pair < 10)
  | .senseRestored pair => decide (pair < 10)
  | .refclkLoss => true
  | .resetPinRelease => true
  | .selfTestStepEnd _ => true
  | .undefinedInstruction sg _ => sg.wf
  | .vendorDefinedMessageSupport _ => true

end Sys2Proof
end

