-- ==== Sys2Proof/Tests/Slice0.lean ====
section
/-! SUPPORT. Tests: ill-formed commands, and for every statement states and operands that meet its hypotheses, with a
result or two that the spec gives. Expected values are worked out by hand from the rules named. -/
namespace Sys2Proof.Tests
set_option Elab.async false
open Sys2Proof Sys2Proof.Machine Sys2Proof.Claims

/-! ## States -/

/-- What the next state of a command is like. -/
def next (c : Instr) (s : State) (p : State → Bool) : Bool :=
  match exec c s with
  | .next t => p t
  | _ => false

/-- The command changes nothing. -/
def idle (c : Instr) (s : State) : Bool := next c s fun t => decide (t = s)

/-- A block with one group, of context `ctx`. -/
def blockOf (ctx : Nat) (g : Group) : Block :=
  { launch := 0, ring := 1, ctx := ctx, bid := (0, 0, 0), trank := 0, train := 1, base := 0x20000000000, ls := 0x1000, wb := true, regs := 64
    split := 0, threads := 32, groups := [(0, g)] }

/-- A window that maps every local address to itself with every permission. -/
def flat : List Word := [0, 0, 0xFFFFFFFF, 0x7FFFFFFF, 0, 0, 0x1F, 0]

/-- The reset state with one group on core 0, of context 0, whose windows are cached. -/
def run (g : Group) : State :=
  { State.reset with
    cores := [(0, { Core.idle with blocks := [(0, some (blockOf 0 g))] })], wcache := [(0, some [flat])], nextLaunch := 1 }

/-- Two threads at 0x1000 with these t registers: number, value in lane 0, value in lane 1. -/
def grp (ts : List (Nat × Word × Word)) : Group :=
  { Group.start 3 0x1000 with t := ts.flatMap fun r => [(32 * r.1, r.2.1), (32 * r.1 + 1, r.2.2)] }

def sg0 : SgRef := { core := 0, blk := 0, grp := 0, lane := 0 }

/-- A format R instruction with its modifier and fields. -/
def fr (mod : BitVec 6) (d a b : BitVec 9) (c : BitVec 9 := 0x180) (ctl : BitVec 10 := 0) : FormR :=
  { mod := mod, g := 0, d := d, a := a, b := b, c := c, ctl := ctl }

/-- The sub-group issues with these operands, and the issue satisfies a condition. -/
def issues (s : State) (us : List Use) (p : At → State → Bool := fun _ _ => true) (uni : Bool := false) : Bool :=
  match s.issuing sg0 0 uni us with
  | some (a, s1) => p a s1
  | none => false

/-- Register `d` afterwards in lanes 0 and 1. -/
def gives (g : Group) (c : Instr) (d : Nat) (x y : Word) : Bool :=
  next c (run g) fun t => (t.group 0 0 0).treg 0 d == x && (t.group 0 0 0).treg 1 d == y

/-- Predicate `d` afterwards in lanes 0 and 1. -/
def decides (g : Group) (c : Instr) (d : Nat) (x y : Bool) : Bool :=
  next c (run g) fun t => (t.group 0 0 0).preg 0 d == x && (t.group 0 0 0).preg 1 d == y

/-- The state with these set-up registers stored on top of its own. -/
def sets (l : List (Nat × Word)) (s : State) : State := l.foldl (fun s p => s.setReg p.1 p.2) s

/-- Every DRAM channel in service. -/
def dram (s : State) : State :=
  sets [(0x1310030, 0xFFFFFFFF), (0x1310034, 0xFFFFFFFF), (0x1310038, 0xFFFFFFFF), (0x131003C, 0xFFFFFFFF), (0x1310040, 0xFFFF)] s

/-- The bytes of consecutive words at an address, as memory lists them (nonzero bytes, lowest address first). -/
def ram (a : Nat) (ws : List Word) : List (Nat × Byte) :=
  (((bytesOfWords ws).zipIdx a).filter fun p => p.1 != 0).map fun p => (p.2, p.1)

/-- The state after some commands, one step each; a fault or refusal would leave the state before it. -/
def went (cs : List Instr) (s : State) : State :=
  cs.foldl (fun s c => match exec c s with
    | .next t => t
    | _ => s) s


/-! ## Ill-formed commands: one for each check -/

/-- A command that differs from a well-formed one in the unit or size that is checked. -/
theorem test_illformed_threads :
    Instr.wf (.sbWaitReady { core := 1535, blk := 0, grp := 15, lane := 31, partner := some (15, 31) }) = true
      ∧ Instr.wf (.sbWaitReady { core := 1536, blk := 0, grp := 0, lane := 0 }) = false
      ∧ Instr.wf (.sbWaitReady { core := 0, blk := 0, grp := 16, lane := 0 }) = false
      ∧ Instr.wf (.sbWaitReady { core := 0, blk := 0, grp := 0, lane := 32 }) = false
      ∧ Instr.wf (.sbWaitReady { core := 0, blk := 0, grp := 0, lane := 0, partner := some (16, 0) }) = false
      ∧ Instr.wf (.sbWaitReady { core := 0, blk := 0, grp := 0, lane := 0, partner := some (0, 32) }) = false := by decide +kernel

theorem test_illformed_units :
    Instr.wf (.coreIdle 1536) = false ∧ Instr.wf (.arrayReconfigure 0 3) = false ∧ Instr.wf (.partitionSleep 8) = false
      ∧ Instr.wf (.scrubRead 48) = false ∧ Instr.wf (.portRetrain 16) = false ∧ Instr.wf (.linkLoss 17) = false
      ∧ Instr.wf (.ringStart 128) = false ∧ Instr.wf (.contextReset 64) = false ∧ Instr.wf (.leafFire 1048576) = false
      ∧ Instr.wf (.setupRegisterWrite 2 0) = false ∧ Instr.wf (.setupRegisterWrite 0x4000000 0) = false
      ∧ Instr.wf (.broadcastWrite 2 0) = false ∧ Instr.wf (.broadcastWrite 0x20000 0) = false
      ∧ Instr.wf (.blockPlace 0 [0, 1536]) = false ∧ Instr.wf (.splitChange 0 5) = false ∧ Instr.wf (.drogueCompare 0 2) = false
      ∧ Instr.wf (.lpddr6Retrain 2 0) = false ∧ Instr.wf (.lpddr6Retrain 0 64) = false := by decide +kernel

theorem test_illformed_sizes :
    Instr.wf (.spoolFileWrite 0 []) = false ∧ Instr.wf (.spoolFileWrite 0 (List.replicate 9 0)) = false
      ∧ Instr.wf (.hreadResponse 0 .ok (List.replicate 257 0)) = false ∧ Instr.wf (.descriptorFetch 0 0) = false
      ∧ Instr.wf (.descriptorFetch 0 5) = false ∧ Instr.wf (.intrHoldExpiry 256) = false ∧ Instr.wf (.flitReceive 0 []) = false
      ∧ Instr.wf (.laneBad 0 8) = false ∧ Instr.wf (.fabricRequestTimeout 65536) = false ∧ Instr.wf (.shardFire 65536) = false
      ∧ Instr.wf (.numericsServiceStep 4096 []) = false ∧ Instr.wf (.sensorSample [] []) = false ∧ Instr.wf (.watchdogExpiry 8) = false
      ∧ Instr.wf (.errorRecordWrite 0x660) = false ∧ Instr.wf (.senseOpen 10) = false
      ∧ Instr.wf (.powerEvaluation { est := 0, part := [], ifRaised := List.replicate 8 0 }) = false
      ∧ Instr.wf (.powerEvaluation { est := 0, part := List.replicate 8 0, ifRaised := [] }) = false
      ∧ Instr.wf (.tileConvertDone 0 0 { busy := 9, frozen := 3, feed := 1, drain := 1, wbq := 0 }) = false := by decide +kernel

theorem test_illformed_engines :
    Instr.wf (.engineReset (.array 0 3)) = false ∧ Instr.wf (.engineReset (.stream 1536)) = false
      ∧ Instr.wf (.engineReset (.atomic 1536)) = false ∧ Instr.wf (.engineReset (.thread 1536)) = false
      ∧ Instr.wf (.engineReset (.adder 48)) = false ∧ Instr.wf (.engineReset (.updateUnit 48)) = false
      ∧ Instr.wf (.engineReset (.factor 8)) = false ∧ Instr.wf (.engineReset .link) = true
      ∧ Instr.wf (.waitMonitorExpiry (.sub 0 0 16 0) 0) = false ∧ Instr.wf (.waitMonitorExpiry (.ring 128) 0) = false
      ∧ Instr.wf (.lcountLoRead (.sc 8)) = false ∧ Instr.wf (.lcountLoRead (.core 1536)) = false := by decide +kernel

def emptyP : Packet :=
  { ptype := 1, rsp := false, status := 0, dst := 0, cls := false, len := 1, src := 0, job := 0, tag := 0, epoch := 0, ttl := 0, ext := [], data := [] }

theorem test_illformed_packets :
    Instr.wf (.write 0 { emptyP with data := [1, 2, 3] }) = false ∧ Instr.wf (.write 16 emptyP) = false ∧ Instr.wf (.write 15 emptyP) = true
      ∧ Instr.wf (.pairAccumulate (.port 16 emptyP)) = false := by decide +kernel

theorem test_illformed_services :
    let rq : SvcReq := { ring := 0, arg := [] }
    Instr.wf (.create { ring := 128, arg := [] } { ctx := 1 }) = false ∧ Instr.wf (.create rq { ctx := 64 }) = false
      ∧ Instr.wf (.setWindow rq 0 256 (List.replicate 8 0)) = false ∧ Instr.wf (.setWindow rq 0 0 []) = false
      ∧ Instr.wf (.drogue rq 4096 0) = false ∧ Instr.wf (.recoveryWait rq 0x1000000) = false ∧ Instr.wf (.numericsEnable rq 4096 []) = false
      ∧ Instr.wf (.recoveryRankTaken { takers := [], epoch := 0, slots := [], spool := [(16384, 0)], nodes := [], updates := [] }) = false
      ∧ Instr.wf (.place rq { job := 0, ranks := [0], rank := 1, gran := false, ports := [], famapBase := 0, exportBase := 0, deviceId := 0
                              entries := [], contexts := [] }) = false
      ∧ Instr.wf (.openStream rq { base := 0, slots := 0, slotSize := 64, staging := 0, consumer := 0, release := 0, nodes := [] }) = false
      ∧ Instr.wf (.openStream rq { base := 0, slots := 1, slotSize := 65, staging := 0, consumer := 0, release := 0, nodes := [] }) = false := by
  decide +kernel

/-! ## The queue -/

theorem test_witness_StepRunsFrontCommand :
    (match step { State.reset with pending := [.hold, .release] } with
      | .next t => t.start.hold && t.pending == [.release]
      | _ => false) = true := by decide +kernel

theorem test_witness_EmptyQueueTicks :
    State.reset.pending = [] ∧ (match step { State.reset with lcount := 0xFFFFFFFFFFFFFFFF } with
      | .next t => t.lcount == 0
      | _ => false) = true
      ∧ (match step { State.reset with powered := false } with
      | .next t => t.lcount == 0 && !t.powered
      | _ => false) = true := by decide +kernel

/-- The table gives no command a word. -/
theorem test_no_words : decodeTableWord 32 7 = none ∧ State.reset.withFetchWord 32 7 = State.reset := by decide +kernel

theorem test_witness_CanonicalKept : memWf State.reset.mem = true ∧ Sparse.wf regReset State.reset.setup = true := by decide +kernel
/-! ## Thread instructions: integers (R137) -/

/-- t1 = (5, -1), t2 = (7, 1), t4 t5 and t6 t7 are pairs. -/
def ints : Group :=
  grp [(1, 5, 0xFFFFFFFF), (2, 7, 1), (4, 0xFFFFFFFF, 0), (5, 0, 0x80000000), (6, 1, 1), (7, 0, 0)]

theorem test_integer_add_sub :
    gives ints (.add sg0 (fr 0 3 1 2)) 3 12 0 = true ∧ gives ints (.add sg0 (fr 1 8 4 6)) 9 1 0x80000000 = true
      ∧ gives ints (.sub sg0 (fr 0 3 1 2)) 3 0xFFFFFFFE 0xFFFFFFFE = true
      ∧ gives ints (.addk sg0 { mod := 0, g := 0, d := 3, a := 1, imm := 0xFFFFFFF }) 3 4 0xFFFFFFFE = true
      ∧ gives ints (.setk sg0 { mod := 0, g := 0, d := 3, rsv := 0, imm := 0x12345678 }) 3 0x12345678 0x12345678 = true
      ∧ gives ints (.mov sg0 (fr 0 3 1 0x180)) 3 5 0xFFFFFFFF = true := by decide +kernel

theorem test_integer_products :
    gives ints (.mullo sg0 (fr 0 3 1 2)) 3 35 0xFFFFFFFF = true ∧ gives ints (.mulhi sg0 (fr 0 3 1 1)) 3 0 0xFFFFFFFE = true
      ∧ gives ints (.mulhi sg0 (fr 2 3 1 1)) 3 0 0 = true ∧ gives ints (.muladd sg0 (fr 0 3 1 2 2)) 3 42 0 = true := by decide +kernel

theorem test_integer_bits :
    gives ints (.minmax sg0 (fr 2 3 1 2)) 3 5 0xFFFFFFFF = true ∧ gives ints (.minmax sg0 (fr 4 3 1 2)) 3 7 0xFFFFFFFF = true
      ∧ gives ints (.logic sg0 (fr 12 3 1 2)) 3 0 0xFFFFFFFE = true ∧ gives ints (.shift sg0 (fr 6 3 1 2)) 3 0 0xFFFFFFFF = true
      ∧ gives ints (.shift sg0 (fr 0 3 1 2)) 3 640 0xFFFFFFFE = true
      ∧ gives ints (.field sg0 (fr 0 3 1 0x180 0x180 0x21)) 3 2 3 = true
      ∧ gives ints (.bitop sg0 (fr 0 3 1 0x180)) 3 2 32 = true ∧ gives ints (.bitop sg0 (fr 4 3 1 0x180)) 3 29 0 = true
      ∧ gives ints (.pick sg0 (fr 0 3 1 2)) 3 5 0xFFFFFFFF = true := by decide +kernel

theorem test_witness_IntegerResults :
    (issues (run ints) (use2 (fr 0 3 1 2) 1) && issues (run ints) (use2 (fr 1 8 4 6) 2) && issues (run ints) (use3 (fr 0 3 1 2 2))
      && issues (run ints) (use1 (fr 0 3 1 0x180) 1) && issues (run ints) [.dest 3] && issues (run ints) [.dest 8 2, .src 4 2]
      && modClear (63 &&& 3 : BitVec 6) 2 && onlyS (fr 2 3 1 1) && modClear (6 : BitVec 6) 3) = true := by decide +kernel

/-! ## FP32, special functions, conversions (R75, R76, R138 to R143) -/

/-- t1 = (1.5, NaN), t2 = (2.0, 1.0). -/
def floats : Group := grp [(1, 0x3FC00000, 0x7FC12345), (2, 0x40000000, 0x3F800000)]

/-- t1 = (1, 0), t2 = (2^-30, 0), t4 = (1 + 2^-23, 0), t5 = (1 + 2^-22, 0). -/
def tiny : Group := grp [(1, 0x3F800000, 0), (2, 0x30800000, 0), (4, 0x3F800001, 0), (5, 0x3F800002, 0)]

theorem test_fp32 :
    gives floats (.addF sg0 (fr 0 3 1 2)) 3 0x40600000 0x7FC00000 = true
      ∧ gives floats (.addF sg0 (fr 16 3 1 2)) 3 0xBF000000 0x7FC00000 = true
      ∧ gives floats (.mulF sg0 (fr 0 3 1 2)) 3 0x40400000 0x7FC00000 = true
      ∧ gives floats (.fmaF sg0 (fr 0 3 1 2 2)) 3 0x40A00000 0x7FC00000 = true
      ∧ gives floats (.minF sg0 (fr 0 3 1 2)) 3 0x3FC00000 0x3F800000 = true
      ∧ gives floats (.maxF sg0 (fr 0 3 1 2)) 3 0x40000000 0x3F800000 = true
      ∧ gives tiny (.adderrF sg0 (fr 0 3 1 2 1)) 3 0x30800000 0 = true ∧ gives tiny (.mulerrF sg0 (fr 0 3 4 4 5)) 3 0x28800000 0 = true := by decide +kernel

theorem test_fp32_conversions :
    gives floats (.tointF sg0 (fr 2 3 1 0x180)) 3 1 0 = true ∧ gives floats (.tointF sg0 (fr 3 3 1 0x180)) 3 2 0 = true ∧ gives ints (.toflt sg0 (fr 2 3 1 0x180)) 3 0x40A00000 0xBF800000 = true
      ∧ gives floats (.pow2F sg0 (fr 0 3 2 0x180)) 3 0x40800000 0x40000000 = true
      ∧ gives floats (.log2F sg0 (fr 0 3 2 0x180)) 3 0x3F800000 0 = true
      ∧ gives floats (.recipF sg0 (fr 0 3 2 0x180)) 3 0x3F000000 0x3F800000 = true
      ∧ gives (grp [(1, 0, 0x7F800000)]) (.rsqrtF sg0 (fr 0 3 1 0x180)) 3 0x7F800000 0 = true := by decide +kernel

theorem test_witness_FloatResults :
    (issues (run floats) (use2 (fr 0 3 1 2) 1) && issues (run floats) (use3 (fr 0 3 1 2 2)) && issues (run floats) (use1 (fr 0 3 1 0x180) 1)
      && lowModClear (fr 60 3 1 2) && noB (fr 43 3 1 0x180)) = true := by decide +kernel

/-- A NaN sum, difference, product and fused result; a NaN first operand. -/
theorem test_witness_FloatSpecialCases :
    ((fdec (fadd 0x7F800000 0xFF800000)).isNan && (fdec (fsub 0x7F800000 0x7F800000)).isNan && (fdec (fmul 0 0x7F800000)).isNan
      && (fdec (ffma 0 0x7F800000 0)).isNan && (fdec 0x7F800001).isNan) = true := by decide +kernel

/-- 300 and -0.75, the worked example of R143; with no seed. -/
def saves : Group := grp [(8, 0x43960000, 0xBF400000)]

/-- Element 1 of an E4M3 word: 1.0, and 2.0 times 2^-1. NARROW of 300 and -0.75 to E4M3 with S = 0. NARROWB in blocks of 32 under a
shared scale (FMT 2, BSZ 2). -/
theorem test_conversions :
    gives (grp [(1, 0x3800, 0x4000)]) (.widen sg0 (fr 17 3 1 0x180)) 3 0x3F800000 0x40000000 = true
      ∧ gives (grp [(1, 0x3800, 0x4000)]) (.widen sg0 (fr 17 3 1 0x180 0x180 0xFF)) 3 0x3F000000 0x3F800000 = true
      ∧ gives saves (.narrow sg0 (fr 16 3 8 0x180)) 3 0x79 0xB4 = true
      ∧ gives saves (.narrowb sg0 (fr 16 9 8 0x180 10 2)) 9 0x79 0xB4 = true
      ∧ gives saves (.narrowb sg0 (fr 16 9 8 0x180 10 2)) 10 0x7F 0x7F = true := by decide +kernel

/-- A 6-bit format without a scale is refused: LSTAT 0x14 and no register written (R143). -/
theorem test_conversion_refused :
    next (.widen sg0 (fr 32 3 1 0x180)) (run (grp [(1, 1, 1)])) (fun t => (t.group 0 0 0).lstat == 0x14 && (t.group 0 0 0).treg 0 3 == 0)
      = true := by decide +kernel

theorem test_witness_ConversionResults :
    (let w := fr 17 3 1 0x180
     let w2 := fr 32 3 1 0x180
     let n := fr 16 3 8 0x180
     let n2 := fr 19 3 8 0x180
     let b := fr 16 9 8 0x180 10 2
     let b2 := fr 16 9 8 0x180 10 0
     issues (run saves) (use2 w 1) && decide (bitAt w.ctl 9 = false ∧ w.b = 0x180 ∧ fld w.mod 0 3 < wordElems (Fmt.ofCode (fld w.mod 3 3)))
       && issues (run saves) (use2 w2 1) && widenRefused w2 && !widenRefused w
       && issues (run saves) [.dest n.d, .src n.a, .srcIn n.b [.u, .zero] 2, .src n.c]
       && decide (bitAt n.ctl 9 = false ∧ n.b = 0x180 ∧ n.c = 0x180) && !narrowRefused n && narrowRefused n2
       && issues (run saves) [.dest b.d (blockRegs 2), .src b.a (blockRegs 2), .srcIn b.b [.u, .zero] 2, .dstIn b.c [.t, .zero]]
       && decide (fld b.mod 0 2 = 0 ∧ fld b.ctl 4 6 = 0 ∧ b.b = 0x180) && !narrowbRefused b && !pbmRefused (run saves) 0 b
       && (narrowbRefused b2 || pbmRefused (run saves) 0 b2)) = true := by decide +kernel

/-! ## Predicates and cross-lane instructions (R137, R138, R149 to R151) -/

/-- The lanes hold 5 and -1, 7 and 1; p1 holds in lane 0, p2 in both. -/
def votes : Group := { ints with p := [(32, true), (64, true), (65, true)] }

theorem test_predicates :
    decides votes (.cmp sg0 (fr 8 0x153 1 2)) 3 true false = true ∧ decides votes (.cmp sg0 (fr 10 0x153 1 2)) 3 true true = true
      ∧ decides floats (.cmpF sg0 (fr 0 0x153 1 2 0x180 6)) 3 false true = true
      ∧ decides votes (.pred sg0 (fr 12 0x153 0x152 0x151)) 3 false true = true
      ∧ decides votes (.tally sg0 (fr 0 0x153 0x151 0x180)) 3 true true = true
      ∧ decides votes (.tally sg0 (fr 4 0x153 0x151 0x180)) 3 false false = true
      ∧ decides votes (.sbTest sg0 (fr 0 0x153 0x141 0x180)) 3 true true = true
      ∧ decides { votes with h := [(1, 0x8000000000000000)] } (.sbTest sg0 (fr 0 0x153 0x141 0x180)) 3 false false = true := by
  decide +kernel

theorem test_witness_PredicateResults :
    (issues (run votes) [.dstIn 0x153 [.p, .zero], .src 1, .src 2, .unused 0x180]
      && issues (run votes) [.dstIn 0x153 [.p, .zero], .src 4 2, .src 6 2, .unused 0x180]
      && issues (run votes) [.dstIn 0x153 [.p, .zero], .srcIn 0x151 [.p], .srcIn 0x152 [.p], .unused 0x180]
      && issues (run votes) [.dstIn 0x153 [.p, .zero], .srcIn 0x151 [.p], .unused 0x180, .unused 0x180] (uni := true)
      && issues (run votes) [.dstIn 0x153 [.p, .zero], .srcIn 0x141 [.h], .unused 0x180, .unused 0x180]
      && decide (bitAt (8 : BitVec 6) 5 = false ∧ fld (8 : BitVec 6) 2 3 ≤ 5) && selOnly (fr 12 0x153 0x152 0x151)
      && plainR (fr 0 0x153 0x141 0x180) && lowModClear (fr 60 0x153 1 2)) = true := by decide +kernel

theorem test_cross_lane :
    gives votes (.tally sg0 (fr 8 3 0x151 0x180)) 3 1 1 = true
      ∧ gives votes (.lxch sg0 (fr 12 3 1 8)) 3 5 0xFFFFFFFF = true
      ∧ gives { votes with u := [(1, 1)] } (.lxch sg0 (fr 12 3 1 0x101)) 3 0xFFFFFFFF 5 = true
      ∧ next (.rdl sg0 (fr 0 0x102 1 0x180)) (run votes) (fun t => (t.group 0 0 0).ureg 2 == 5) = true
      ∧ gives votes (.pack sg0 (fr 4 3 1 0x180)) 3 0xFF05 0 = true := by decide +kernel

theorem test_witness_CrossLaneResults :
    (issues (run votes) [.dest 3, .srcIn 0x151 [.p], .unused 0x180, .unused 0x180] (uni := true)
      && issues (run votes) (use2 (fr 12 3 1 2) 1) && issues (run votes) (use1 (fr 4 3 1 0x180) 1)
      && issues (run votes) [.dstIn 0x102 [.u, .zero], .srcIn 1 [.t], .srcIn 0x180 [.u, .zero], .unused 0x180] (uni := true)
      && selOnly (fr 8 3 0x151 0x180) && sel (fr 8 3 0x151 0x180) == 2) = true := by decide +kernel

/-! ## Control and barriers (R116, R117, R120, R149, R152) -/

/-- A branch with guard p1: lane 0 alone takes part. -/
def br (tgt : BitVec 21) (join : BitVec 15) (jv : BitVec 1) (a : BitVec 9 := 0x180) : FormB :=
  { mod := 0, g := 1, a := a, tgt := tgt, join := join, jv := jv }

/-- Addresses and masks of the sub-groups afterwards. -/
def stands (g : Group) (c : Instr) (want : List (BitVec 32 × DWord × Wait)) : Bool :=
  next c (run g) fun t => (t.group 0 0 0).subs.map (fun x => (x.mask, x.pc, x.wait)) == want

theorem test_branches :
    stands votes (.jmp sg0 (br 0x1FFFFF 4 1)) [(1, 0xFF8, .none), (2, 0x1008, .none)] = true
      ∧ stands votes (.jmp sg0 { br 4 0 0 with g := 0 }) [(3, 0x1020, .none)] = true
      ∧ next (.call sg0 { br 2 0 0 4 with g := 0 }) (run votes) (fun t => (t.group 0 0 0).treg 1 4 == 0x1008) = true
      ∧ stands (grp [(4, 0x2007, 0x3000)]) (.jmpr sg0 { br 0 0 0 4 with g := 0 }) [(1, 0x2000, .none), (2, 0x3000, .none)] = true
      ∧ stands (grp [(4, 0x2007, 0x2000)]) (.jmpr sg0 { br 0 0 0 4 with g := 0 }) [(3, 0x2000, .none)] = true := by decide +kernel

theorem test_ends_and_barriers :
    stands votes (.endThread sg0 { fr 0 0x180 0x180 0x180 with g := 1 }) [(2, 0x1008, .none)] = true
      ∧ stands votes (.cede sg0 (fr 0 0x180 0x180 0x180)) [(3, 0x1008, .none)] = true
      ∧ stands votes (.nop sg0 (fr 0 0x180 0x180 0x180)) [(3, 0x1008, .none)] = true
      ∧ stands votes (.rally sg0 { fr 0 0x180 0x180 0x180 0x180 3 with g := 1 }) [(1, 0x1008, .barrier false 3), (2, 0x1008, .none)]
        = true := by decide +kernel

/-- The issue of a guarded branch with one register operand list. -/
def issuesG (g : Group) (gf : BitVec 4) (us : List Use) (p : At → State → Bool := fun _ _ => true) : Bool :=
  match (run g).issuing sg0 gf false us with
  | some (a, s1) => p a s1
  | none => false

theorem test_witness_ControlFlow :
    (issuesG votes 1 [.unused 0x180] (fun a _ => a.rest != 0) && issuesG votes 0 [.dest 4 2]
      && issuesG (grp [(4, 0x2007, 0x2000)]) 0 [.src 4 2] (fun a _ => a.lanes.all fun i => a.g.val 4 i 2 / 8 * 8 == 0x2000)
      && issuesG (grp [(4, 0x2007, 0x3000)]) 0 [.src 4 2] (fun a _ => a.g.val 4 0 2 / 8 != a.g.val 4 1 2 / 8)
      && issuesG votes 1 (noOperands (fr 0 0x180 0x180 0x180)) && modClear (1 : BitVec 6) 1) = true := by decide +kernel

/-- The split of test_branches with both parts at their join. -/
def siblings : Group :=
  { Group.start 0 0 with
    splits := [(0, 0x40)], nextSplit := 1
    subs := [{ mask := 1, pc := 0x40, stack := [0], wait := .none, since := 0, seen := [] }, { mask := 2, pc := 0x40, stack := [0], wait := .none, since := 0, seen := [] }] }

theorem test_witness_JoinMerges :
    siblings.joined = { siblings with splits := [], subs := [{ mask := 3, pc := 0x40, stack := [], wait := .none, since := 0, seen := [] }] } := by decide +kernel

/-- Both parts of a group at barrier 3 of its block. -/
def waiting (second : Wait) : State :=
  run { Group.start 0 0 with
        subs := [{ mask := 1, pc := 8, stack := [], wait := .barrier false 3, since := 0, seen := [] }, { mask := 2, pc := 8, stack := [], wait := second, since := 0, seen := [] }] }

theorem test_witness_BarrierCompletes :
    ((waiting (.barrier false 3)).barrierBlocks 0 0 false == [(0, 0)]
      && next (.barrierComplete 0 0 false 3) (waiting (.barrier false 3)) (fun t => (t.group 0 0 0).subs.all fun x => x.wait == .none)
      && idle (.barrierComplete 0 0 false 3) (waiting .none) && (waiting (.barrier false 3)).barrierBlocks 0 0 true == [(0, 0)]) = true := by
  decide +kernel

/-! ## Handles, spool counters, special values, fences -/

/-- Handle h1 PENDING and h2 DONE; u1 holds 0x80040. -/
def handles : Group := { votes with h := [(1, 0x8000000000000040), (2, 0xC000000000000040)], u := [(1, 0x80040)] }

theorem test_handles :
    next (.hset sg0 (fr 0 0x142 0x101 0x180)) (run handles) (fun t => (t.group 0 0 0).hreg 2 == 0x4000000000000040) = true
      ∧ next (.hset sg0 (fr 0 0x141 0x101 0x180)) (run handles) (fun t => (t.group 0 0 0).hreg 1 == 0x8000000000000040
        && (t.group 0 0 0).subs.map Machine.Sub.pc == [0x1000]) = true
      ∧ next (.hclr sg0 (fr 0 0x142 0x180 0x180)) (run handles) (fun t => (t.group 0 0 0).hreg 2 == 0) = true
      ∧ gives handles (.hget sg0 (fr 0 8 0x142 0x180)) 9 0xC0000000 0xC0000000 = true
      ∧ stands handles (.sbWait sg0 (fr 0 0x180 0x141 0x180)) [(3, 0x1008, .handle 1)] = true
      ∧ stands handles (.sbWait sg0 (fr 0 0x180 0x142 0x180)) [(3, 0x1008, .none)] = true := by decide +kernel

/-- The sub-group waits on a handle. -/
def onHandle (h : Nat) : Group :=
  { handles with subs := [{ mask := 3, pc := 0x1008, stack := [], wait := .handle h, since := 0, seen := [] }] }

theorem test_witness_HandleInstructions :
    (issues (run handles) [.dstIn 0x142 [.h], .srcIn 0x101 [.u], .unused 0x180, .unused 0x180]
      && issues (run handles) [.dstIn 0x142 [.h], .unused 0x180, .unused 0x180, .unused 0x180]
      && issues (run handles) [.dest 8 2, .srcIn 0x142 [.h], .unused 0x180, .unused 0x180] (uni := true)
      && issues (run handles) [.unused 0x180, .srcIn 0x141 [.h], .unused 0x180, .unused 0x180]
      && hState 0x8000000000000040 == 2 && hState 0xC000000000000040 == 3 && next (.hclr sg0 (fr 0 0x141 0x180 0x180)) (run handles) (fun t => (t.core 0).turn == 1 && (t.group 0 0 0) == handles)
      && stands (onHandle 2) (.sbWaitReady sg0) [(3, 0x1008, .none)] && idle (.sbWaitReady sg0) (run (onHandle 1))) = true := by
  decide +kernel

/-- A load (`true`: an acquire) of lane 0 to another module, or a store, has not been answered. -/
def unanswered (owner : Owner) (ptype : BitVec 4) (acq : Bool) (s : State) : State :=
  { s with reqs := [(7, some { ptype := ptype, dst := 5, ctx := 0, owner := owner, addr := 0, since := 0
                               org := { ring := none, grp := 0, mask := 1, pc := 0 }, acq := acq, stale := false, noFill := false })] }
def loading (acq : Bool) : State → State := unanswered (.thread 0 0 0 0 9 4 false) 0 acq
def storing : State → State := unanswered (.store 0 0 0) 1 false

/-- The acquire holds the sub-group's instruction where it is. -/
def held (c : Instr) (s : State) : Bool :=
  next c (loading true s) fun t => (t.group 0 0 0).subs.map Machine.Sub.pc == [0x1000] && decide (t.reqs = (loading true s).reqs)

/-- Context 0 may use the counters 0 to 0x3FFF; counter 5 holds 9, counter 6 is poisoned, u1 = 5, u2 = 6, u4 u5 = 10. -/
def counting : State :=
  { run { votes with u := [(1, 5), (2, 6), (4, 10)] } with
    setup := [(0x1330004, 0xBFFF0000)], spool := [(5, 9), (6, 0x8000000000000003)] }

theorem test_spool_instructions :
    next (.splRd sg0 (fr 0 8 0x102 0x180)) counting
        (fun t => (t.group 0 0 0).treg 1 8 == 3 && (t.group 0 0 0).treg 1 9 == 0x80000000) = true
      ∧ next (.splSet sg0 (fr 0 0x180 0x102 0x104)) counting (fun t => t.spoolVal 6 == 10 && t.spoolVal 5 == 9) = true
      ∧ next (.splAdd sg0 (fr 0 0x180 0x101 0x104)) counting (fun t => t.spoolVal 5 == 19) = true
      ∧ next (.splAdd sg0 (fr 0 0x180 0x102 0x104)) counting (fun t => t.spoolVal 6 == 0x8000000000000003) = true
      ∧ next (.splWait sg0 (fr 0 0x153 0x101 0x104)) counting
        (fun t => (t.group 0 0 0).subs.map Machine.Sub.wait == [.spool 3 3] && t.waiters.map Waiter.target == [10]) = true
      ∧ next (.splWait sg0 (fr 0 0x153 0x102 0x104)) counting (fun t => (t.group 0 0 0).preg 0 3 == false) = true := by decide +kernel

theorem test_witness_SpoolInstructions :
    (issues counting [.dest 8 2, .srcIn 0x102 [.u], .unused 0x180, .unused 0x180] (uni := true)
        (p := fun a s1 => s1.reg (offCtx a.b.ctx + 4) == 0xBFFF0000 && a.g.val 0x102 0 1 == 6)
      && issues counting [.unused 0x180, .srcIn 0x102 [.u], .srcIn 0x104 [.u] 2, .unused 0x180]
      && issues counting [.unused 0x180, .srcIn 0x101 [.u], .srcIn 0x104 [.u], .unused 0x180]
      && issues counting [.dstIn 0x153 [.p, .zero], .srcIn 0x101 [.u], .srcIn 0x104 [.u] 2, .unused 0x180]
        (fun a s1 => decide (fld (s1.spoolVal 5) 0 63 < a.g.val 0x104 0 2 % 2 ^ 63))
      && bitAt (counting.spoolVal 6) 63 && fld (0xBFFF0000 : Word) 16 14 == 0x3FFF
      -- an outstanding acquire holds them; a release waits for reads of any kind
      && held (.splRd sg0 (fr 0 8 0x102 0x180)) counting && held (.splSet sg0 (fr 0 0x180 0x102 0x104)) counting
      && held (.splAdd sg0 (fr 0 0x180 0x101 0x104)) counting && held (.splWait sg0 (fr 0 0x153 0x101 0x104)) counting
      && issues (loading true counting) (useAdd (fr 0 0x180 0x101 0x104)) (fun a s1 => s1.acquiring a)
      && issues (loading false counting) (useAdd (fr 0 0x180 0x101 0x104 0x180 8))
        (fun a s1 => !s1.acquiring a && !(s1.release a 8).2 && (s1.release a 0).2)
      && issues counting (useAdd (fr 0 0x180 0x101 0x104 0x180 9)) (fun a s1 => !s1.readsPending a && (s1.release a 9).2)) = true := by decide +kernel

/-- A sub-group that waits for counter 5 to reach 10, which 1 more satisfies. -/
def onSpool (r : Option Bool) : State :=
  { run { votes with subs := [{ mask := 3, pc := 0x1008, stack := [], wait := .spool 3 1, since := 0, seen := [] }] } with
    spool := [(5, 9)], waiters := [{ who := .sub 0 0 0 0, id := 5, target := 10, result := r }] }

theorem test_witness_SpoolChangesAndWaits :
    (((onSpool none).spoolChange 5 10).waiters.map Waiter.result == [some true]
      && ((onSpool none).spoolChange 5 0x8000000000000000).waiters.map Waiter.result == [some false]
      && bitAt (counting.spoolVal 6) 63
      && next (.splWaitSatisfied sg0) (onSpool (some true)) (fun t => t.waiters.isEmpty && (t.group 0 0 0).preg 0 3
          && !(t.group 0 0 0).preg 1 3 && (t.group 0 0 0).subs.map Machine.Sub.wait == [.none])) = true := by decide +kernel

theorem test_special_reads :
    gives votes (.srd sg0 (fr 0 3 0x180 0x180 0x180 1)) 3 0 1 = true ∧ gives votes (.srd sg0 (fr 0 3 0x180 0x180 0x180 0x10)) 3 0x1000 0x1000 = true
      ∧ next (.srd sg0 (fr 0 3 0x180 0x180 0x180 0x24)) (run { votes with lstat := 0x14 })
        (fun t => (t.group 0 0 0).lstat == 0 && (t.group 0 0 0).treg 1 3 == 0x14) = true := by decide +kernel

/-- A core with a cache part, one of whose lines has a modified byte. -/
def lined : State :=
  { run votes with
    cores := [(0, { Core.idle with
      blocks := [(0, some (blockOf 0 { votes with t := [(32, 0x2000), (33, 0x2000), (96, 64), (97, 64)] }))], split := 1
      cache := [(0x2000, some { bytes := List.replicate 64 7, dirty := 3, ctx := 0, remote := none, slot := 0, org := .none })] })] }

theorem test_witness_SpecialReadsAndFences :
    (issues (run votes) [.dest 3 1, .unused 0x180, .unused 0x180, .unused 0x180]
      && issues (run votes) [.dest 8 2, .unused 0x180, .unused 0x180, .unused 0x180] && srdRegs 0x20 == some 2
      && issues lined (noOperands (fr 0 0x180 0x180 0x180)) (fun a s1 => !s1.readsPending a)
      && next (.fence sg0 (fr 0 0x180 0x180 0x180 0x180 0xA)) lined
          (fun t => ((t.core 0).line 0x2000).any (fun l => l.dirty == 0) && t.byte 0x2001 == 7 && t.byte 0x2002 == 0)
      && next (.fence sg0 (fr 0 0x180 0x180 0x180 0x180 4)) lined (fun t => t.byte 0x2001 == 0)
      -- reads under way hold a release, writes to other modules one of fabric scope
      && issues (loading false lined) (noOperands (fr 0 0x180 0x180 0x180)) (fun a s1 => s1.readsPending a)
      && next (.fence sg0 (fr 0 0x180 0x180 0x180 0x180 8)) (loading false lined) (fun t => (t.group 0 0 0).subs.map Machine.Sub.pc == [0x1000])
      && issues (storing lined) (noOperands (fr 0 0x180 0x180 0x180)) (fun a s1 => !s1.readsPending a
          && decide (((s1.writeBackAll 0).reqsOf fun r => r.ofCore 0 0) ≠ []))
      && next (.fence sg0 (fr 0 0x180 0x180 0x180 0x180 0xB)) (storing lined) (fun t => (t.group 0 0 0).subs.map Machine.Sub.pc == [0x1000])
      && next (.fence sg0 (fr 0 0x180 0x180 0x180 0x180 0xA)) (storing lined) (fun t => (t.group 0 0 0).subs.map Machine.Sub.pc == [0x1008]))
      = true := by decide +kernel

/-! ## Loads, stores, counted writes, cache instructions, atomics (R108, R144 to R148) -/

/-- An issue point for placing accesses. -/
def here : At :=
  { core := 0, blk := 0, grp := 0, b := blockOf 0 votes, g := votes, sub := { mask := 3, pc := 0x1000, stack := [], wait := .none, since := 0, seen := [] }, m := 3 }

/-- Where an access goes (class 0 and the address), or its fault and the address. -/
def spot (space : Nat) (x : Int) : Nat × Nat :=
  match (here.place (run votes) space x 4 .read).2 with
  | .ok (.here p none false) => (0, p)
  | .error e => e
  | _ => (99, 0)

/-- Local store of 0x1000 bytes: its last word, the first outside it, a misaligned one, a negative one; the same of the block's own
rank, and a rank that is not there; the last word of the wide buffer and the first outside it. -/
theorem test_witness_LocalAddresses :
    [spot 0 0xFFC, spot 0 0x1000, spot 0 2, spot 0 (-4), spot 1 0xFFC, spot 1 0x1000, spot 1 0x80000, spot 3 0xFFFC, spot 3 0x10000]
      = [(0, 0x20000000FFC), (1, 0x1000), (4, 2), (1, 0xFFFFFFFFFFFFFFFC), (0, 0x20000000FFC), (1, 0x1000), (1, 0x80000)
        , (0, 0x2004000FFFC), (1, 0x10000)]
      ∧ ((run votes).member 0 here.b 0).isSome = true ∧ (run votes).member 0 here.b 1 = none := by decide +kernel

/-- Format M: 32-bit words (WID 4) of a space, or another modifier. -/
def fm (mod : BitVec 6) (d a : BitVec 9) (off : BitVec 24 := 0) (ord : BitVec 4 := 0) : FormM :=
  { mod := mod, g := 0, d := d, a := a, ord := ord, off := off }

/-- Two lanes address local words 0x10 and 0x14 by t1, DRAM at 0x2000 and 0x2004 by t2 t3; t4 = (1, 2); u1 = 5. -/
def access : Group :=
  { grp [(1, 0x10, 0x14), (2, 0x2000, 0x2004), (3, 0, 0), (4, 1, 2), (6, 0x2000, 0), (7, 0, 0)] with
    u := [(1, 5)], p := [(32, true)] }

def store1 : State :=
  { dram (sets [(0x1330004, 0xBFFF0000)] (run access)) with mem := ram 0x2000 [0x80FF0001, 0x3F800000], spool := [(5, 9)] }

theorem test_loads :
    next (.ld sg0 (fm 36 8 2)) store1 (fun t => (t.group 0 0 0).treg 0 8 == 0x80FF0001 && (t.group 0 0 0).treg 1 8 == 0x3F800000) = true
      ∧ next (.ld sg0 (fm 12 8 2 2)) store1 (fun t => (t.group 0 0 0).treg 0 8 == 0xFFFFFFFF && (t.group 0 0 0).treg 1 8 == 0xFFFFFF80)
        = true
      ∧ next (.ld sg0 (fm 32 8 1)) store1 (fun t => (t.group 0 0 0).treg 0 8 == 0) = true := by decide +kernel

theorem test_stores :
    next (.st sg0 (fm 36 4 2)) store1 (fun t => t.word 0x2000 == 1 && t.word 0x2004 == 2 && t.word 0x2008 == 0) = true
      ∧ next (.st sg0 (fm 32 4 1)) store1 (fun t => t.word 0x20000000010 == 1 && t.word 0x20000000014 == 2) = true
      ∧ next (.st sg0 (fm 4 4 2)) store1 (fun t => t.word 0x2000 == 0x80FF0001 && t.word 0x2004 == 0x3F800002) = true := by decide +kernel

theorem test_witness_LoadResults :
    (let f := fm 36 8 2
     issues store1 [.dest 8, .src 2 2] fun a s1 =>
      match a.places s1 2 4 .read (addrs a f (a.loadLanes 8)) with
      | (s2, .ok ps) => !a.blocked s2 ps 4 false && s2.defects.isEmpty && s2.sramBad.isEmpty
          && ps.all (fun p => (sees s2 0 true p.2 4).isSome)
          && (match a.loads s2 8 4 true false ps with
              | (s3, .ok vs) => decide (vs = [(0, 0x80FF0001), (1, 0x3F800000)] ∧ s3.block 0 0 = s2.block 0 0)
              | _ => false)
          && held (.ld sg0 f) store1 && (loading true s1).acquiring a && !s1.acquiring a
      | _ => false) = true := by decide +kernel

theorem test_witness_StoreResults :
    (let f := fm 36 4 2
     issues store1 [.src 4, .src 2 2] fun a s1 =>
      match a.places s1 2 4 .write (addrs a f a.lanes) with
      | (s2, .ok ps) => !a.blocked s2 ps 4 true && decide (s2.defects = [] ∧ s2.sramBad = [])
          && (s2.cores.all fun c => c.2.captures == [none, none]) && Core.idle.captures == [none, none]
          && decide (ps.map (fun p => plainPlace s2 0 p.2) = [some 0x2000, some 0x2004])
          && ps.all (fun p => uncached s2 0 p.2) && (s2.release a 0).2 && (a.stores s2 true (a.storeBytes 4 4) ps).2.isNone
          && held (.st sg0 f) store1 && !((loading false s2).release a 8).2
      | _ => false) = true := by decide +kernel

/-- ST.N of 1 and ACC.N of 2.0 to 0x2004 by lane 1 of two, with counter 5 (u1). -/
def accs : State :=
  { dram (sets [(0x1330004, 0xBFFF0000)] (run { access with subs := [{ mask := 2, pc := 0x1000, stack := [], wait := .none, since := 0, seen := [] }] })) with
    mem := ram 0x2004 [0x3F800000], spool := [(5, 9)] }

theorem test_counted_writes :
    next (.stN { sg0 with lane := 1 } (fr 36 0x180 2 4 0x101)) accs (fun t => t.word 0x2004 == 2 && t.spoolVal 5 == 13) = true
      ∧ next (.accN { sg0 with lane := 1 } (fr 36 0x180 2 4 0x101)) accs (fun t => t.word 0x2004 == 0x3F800000 && t.spoolVal 5 == 13)
        = true := by decide +kernel

theorem test_witness_CountedWrites :
    (match accs.issuing { sg0 with lane := 1 } 0 false [.unused 0x180, .src 2 2, .src 4, .srcIn 0x101 [.u]] with
     | some (a, s1) =>
       match a.places s1 2 4 .count (a.each fun i => a.address 2 2 0 i) with
       | (s2, .ok ps) => !a.blocked s2 ps 4 true && ps.all (fun p => (a.countId s2 0x101 p.1 p.2).isSome)
           && decide (ps.map Prod.fst = [1] ∧ ps.map (fun p => plainPlace s2 0 p.2) = [some 0x2004] ∧ isDram 0x2004 = true
             ∧ s2.defects = [] ∧ s2.crcOff = [] ∧ s2.sramBad = [] ∧ s2.anyPoison 0x2004 4 = false)
           && !s1.acquiring a && (s2.release a 0).2
           && (countedAll a (fr 36 0x180 2 4 0x101) (fun s p i id => a.storeCounted s p (a.storeBytes 4 4 i) id) s2 ps).isSome
           && (countedAll a (fr 36 0x180 2 4 0x101) (fun s p i id => a.accumulate s p (BitVec.ofNat 32 (a.g.val 4 i 1)) id) s2 ps).isSome
       | _ => false
     | none => false) = true := by decide +kernel

/-- `lined` with a line of 64 bytes at 0x2000, of which lane 0 names 4; lane 1 does not take part. -/
theorem test_cache_instructions :
    (let s := { dram lined with cores := [(0, { (lined.core 0) with
        blocks := [(0, some (blockOf 0 { access with subs := [{ mask := 1, pc := 0x1000, stack := [], wait := .none, since := 0, seen := [] }] }))] })] }
     next (.cwb sg0 (fr 4 0x180 6 4)) s (fun t => ((t.core 0).line 0x2000).any (fun l => l.dirty == 0) && t.byte 0x2001 == 7
        && t.byte 0x2002 == 0)
      && next (.cinv sg0 (fr 4 0x180 6 4)) s (fun t => ((t.core 0).line 0x2000).isNone && t.byte 0x2001 == 7)
      && next (.cwb sg0 (fr 4 0x180 6 0x180)) s (fun t => ((t.core 0).line 0x2000).any fun l => l.dirty == 3)
      && (match s.issuing sg0 0 false [.unused 0x180, .src 6 2, .src 4, .unused 0x180] with
          | some (a, s1) => a.lanes == [0] && a.g.val 6 0 2 == 0x2000 && a.g.val 4 0 1 == 1 && !s1.acquiring a
              && (linesAll a (fr 4 0x180 6 4) (fun s k => s.evict 0 k) s1 a.lanes).isSome
              && (linesAll a (fr 4 0x180 6 4) (fun s k => s.writeBack 0 k) s1 a.lanes).isSome
              && !(s1.core 0).conflict (vaKey 0 0x2000) 1 true
              && (match s1.translate 0 0 0x2000 .read with | (_, .ok (.here x, _)) => x == 0x2000 | _ => false)
          | none => false)) = true := by decide +kernel

/-- Unsigned add of 2 to DRAM by lane 1; compare-and-swap of 1.0's bits for 2 with the wrong and the right compare value. -/
theorem test_atomics :
    next (.aop { sg0 with lane := 1 } (fr 0 8 2 4 0x180 0x200)) accs (fun t => t.word 0x2004 == 0x3F800002 && (t.group 0 0 0).treg 1 8 == 0x3F800000)
        = true
      ∧ next (.aop { sg0 with lane := 1 } (fr 56 8 2 4 7 0x200)) accs (fun t => t.word 0x2004 == 0x3F800000) = true
      ∧ next (.aop { sg0 with lane := 1 } (fr 48 8 2 4 0x180 0x200)) accs (fun t => t.word 0x2004 == 2) = true := by decide +kernel

theorem test_witness_AtomicResult :
    (match accs.issuing { sg0 with lane := 1 } 0 false (useAop (fr 0 8 2 4 0x180 0x200)) with
     | some (a, s1) =>
       match a.places s1 2 4 .atomic (a.each fun i => a.address 2 2 0 i) with
       | (s2, .ok ps) => a.lanes == [1] && !s1.acquiring a && !a.blocked s2 ps 4 true && (s2.release a 0).2
           && decide (ps.map Prod.fst = [1] ∧ ps.map (fun p => plainPlace s2 0 p.2) = [some 0x2004]) && !s2.anyPoison 0x2004 4
           && (match atomicsAll a (fr 0 8 2 4 0x180 0x200) s2
                 (atomicPlan 0 0 ps (fun i => a.g.val 4 i 1) fun i => a.g.val 0x180 i 1) with
               | some (s4, vs) => vs == [(1, 0x3F800000)] && decide (s4.block 0 0 = s2.block 0 0)
               | none => false)
           && atomOk 0 0 && atomOk 4 3 && atomOk 2 4 && decide (fld (0x200 : BitVec 10) 8 2 < 3 ∧ fld (0x200 : BitVec 10) 0 8 = 0)
       | _ => false
     | none => false) = true := by decide +kernel

/-! ## Faults (R126, R134, R163, R386) -/

theorem test_faults :
    next (.ld sg0 (fm 32 8 2)) (run access) (fun t => (t.latch 0).first.any (fun r => r.cls == 1 && r.cause == 1 && r.unit == 0
        && r.detail == [0, 3, 0x1000, 0, 0x2000, 0]) && !t.ctxRuns 0) = true
      ∧ next (.st sg0 (fm 32 4 2)) (run access) (fun t => (t.latch 0).first.any fun r => r.cause == 1) = true
      ∧ next (.add sg0 (fr 4 3 1 2)) (run access) (fun t => (t.latch 0).first.any fun r => r.cause == 5) = true := by decide +kernel

theorem test_witness_ThreadFaults :
    (issues (run access) [.dest 8, .src 2] (fun a s1 => match (a.places s1 0 4 .read (addrs a (fm 32 8 2) (a.loadLanes 8))).2 with
        | .error e => e == (1, 0x2000) | _ => false)
      && issues (run access) [.src 4, .src 2] (fun a s1 => match (a.places s1 0 4 .write (addrs a (fm 32 4 2) a.lanes)).2 with
        | .error e => e == (1, 0x2000) | _ => false)) = true := by decide +kernel

/-- Opcode 0x0F; NOP with an operand; t64 of an allocation of 64; a window without execute permission. -/
theorem test_witness_IllegalInstructions :
    (((run access).at? 0 0 0 0 0).isSome && !definedOpcode 0x0F
      && (match (run access).translate 0 0 0x1000 .fetch with | (_, .ok _) => true | _ => false)
      && next (.undefinedInstruction sg0 0x0F00000000000000) (run access) (fun t => (t.latch 0).first.any fun r => r.cause == 5)
      && next (.nop sg0 (fr 0 1 0x180 0x180)) (run access) (fun t => (t.latch 0).first.any fun r => r.cause == 5)
      && fileOf 64 == (.t, 64) && min 255 (8 * ((64 + 7) / 8)) == 64
      && next (.mov sg0 (fr 0 64 1 0x180)) (run access) (fun t => (t.latch 0).first.any fun r => r.cause == 5)
      && next (.nop sg0 (fr 0 0x180 0x180 0x180)) { run access with wcache := [(0, some [[0, 0, 0xFFFFFFFF, 0x7FFFFFFF, 0, 0, 7, 0]])] }
        (fun t => (t.latch 0).first.any fun r => r.cause == 3)
      && (decodeThread sg0 0x0F00000000000000).isNone && (decodeThread sg0 0x1200014048182800).isSome) = true := by decide +kernel

/-- The worked example after R133: FMA.F t10, t4, u3, t10, unguarded and without modifiers. -/
theorem test_decodes : decodeThread sg0 0x1200014048182800 = some (.fmaF sg0 (fr 0 10 4 0x103 10)) := by decide +kernel
/-! ## Re-packing (R119) -/

/-- Groups 0 and 1 of one block, at one address, with lanes 0 and 1; `same` puts them in the same lane. -/
def twoGroups (same : Bool) : State :=
  let g (m : BitVec 32) (x : Word) : Group := { Group.start m 0x1000 with t := [(32, x), (33, x), (64, 7), (65, 7)] }
  { run votes with cores := [(0, { Core.idle with blocks := [(0, some { blockOf 0 votes with
      groups := [(0, g 1 5), (1, g (if same then 1 else 2) 6)] })] })] }

def paired (lane : Nat) : SgRef := { sg0 with partner := some (1, lane) }

theorem test_witness_RepackedPairs :
    (next (.add (paired 1) (fr 0 3 1 2)) (twoGroups false) (fun t => (t.group 0 0 0).treg 0 3 == 12 && (t.group 0 0 1).treg 1 3 == 13
        && t.reg 0x1200 == 1)
      && idle (.add (paired 0) (fr 0 3 1 2)) (twoGroups true)
      && ((twoGroups false).issuing sg0 0 false (use2 (fr 0 3 1 2) 1)).isSome && ((twoGroups false).ready? 0 0 1 1 0).any (fun b =>
        !(twoGroups false).interlocked b (use2 (fr 0 3 1 2) 1) && b.key == 33)
      && !readsUniform (use2 (fr 0 3 1 2) 1)
      && (((went [.add sg0 (fr 0 3 1 2)] (twoGroups false)).modCore 0 fun x => { x with turn := 33 }).issuing
            { sg0 with grp := 1, lane := 1 } 0 false (use2 (fr 0 3 1 2) 1)).isSome) = true := by decide +kernel

/-! ## Array operations (R47 to R72, R155) -/

/-- The descriptor of a 1 by 1 product of two terms on the F array, with its layouts: A and B in BF16, O in FP32. -/
def arrDesc : List Word :=
  [0xA1000000, 0x10001, 2, 0x3800000, 0, 0x100200, 0x180400, 0x200600, 0xFFFF, 0, 0, 0xA00, 0, 0, 0, 0]
def layA : List Word := [0xB1400000, 1, 2, 0, 0, 0, 0, 0]
def layB : List Word := [0xB1404000, 2, 1, 0, 0, 0, 0, 0]
def layO : List Word := [0xB1380000, 1, 1, 0, 0, 0, 0, 0]

/-- Local store with those descriptors and the elements 2 and 3, 1.5 and 1; handle h1 names the descriptor, h2 is PENDING,
h3 INVALID, h4 names the last 64 bytes of the allocation, h5 zeros, h6 the end of the allocation. -/
def arrays : State :=
  { run { Group.start 1 0x1000 with
          h := [(1, 0x4000000000000000), (2, 0x8000000000000000), (3, 0), (4, 0x4000000000000FC0), (5, 0x4000000000000F80), (6, 0x4000000000001000)] } with
    mem := ram 0x20000000000 (withComplements arrDesc ++ withComplements layA ++ withComplements layB ++ withComplements layO)
      ++ [(0x20000000201, 0x40), (0x20000000220, 0x40), (0x20000000221, 0x40), (0x20000000400, 0xC0), (0x20000000401, 0x3F),
          (0x20000000420, 0x80), (0x20000000421, 0x3F)] }

def issueArr (h : BitVec 9) : Instr := .arrIssue sg0 (fr 0 0x180 h 0x180)

theorem test_array_issue :
    next (issueArr 0x141) arrays (fun t => (t.group 0 0 0).hreg 1 == 0x8000000100000000 && ((t.core 0).array 0).queue.length == 1) = true
      ∧ next (issueArr 0x142) arrays (fun t => decide (t = arrays.modCore 0 fun c => { c with turn := 1 })) = true
      ∧ next (issueArr 0x143) arrays (fun t => (t.group 0 0 0).hreg 3 == 0xC000110100000000) = true
      ∧ next (issueArr 0x144) arrays (fun t => (t.group 0 0 0).hreg 4 == 0xC000110100000FC0) = true := by decide +kernel

theorem test_witness_ArrayIssue :
    (issues arrays [.unused 0x180, .srcIn 0x141 [.h], .srcIn 0x180 [.h, .zero], .unused 0x180] fun a s1 =>
      let ws := s1.words 0x20000000000 32
      let d := ws.take 16
      let la := s1.words (a.b.base + dALd d) 8
      let lb := s1.words (a.b.base + dBLd d) 8
      let lo := s1.words (a.b.base + dOLd d) 8
      let (la', lb', lo') := (Layout.ofWords la, Layout.ofWords lb, Layout.ofWords lo)
      !(s1.core 0).conflict 0x20000000000 128 false && decide (s1.defects = [] ∧ s1.sramBad = [] ∧ d = arrDesc ∧ la = layA ∧ lb = layB ∧ lo = layO)
        && !s1.anyPoison 0x20000000000 128 && complementsOk 16 ws && (opArrays d).all (fun i => decide (((s1.core 0).array i).queue.length < 4))
        && (layoutsOf d).all (fun x => decide (x + 64 ≤ a.b.ls) && complementsOk 8 (s1.words (a.b.base + x) 16))
        && s1.reg (offArrayMap 0 + 4) == ~~~ (s1.reg (offArrayMap 0)) && !badArray 0 true d && !badShape 0 d la' lb' lo' && !dPbm d
        && !badFmt d la' lb' lo' && (opReads d la' lb' ++ opWrites d (opWidth 0 d) lo').all (inAlloc a.b.ls) && !dSpoolEn d) = true := by
  decide +kernel

/-- A descriptor that does not match its complement is queued to report it; one outside the allocation is a fault; a full queue and an
outstanding acquire hold the instruction. -/
theorem test_witness_ArrayRefusals :
    next (issueArr 0x145) arrays (fun t => (t.group 0 0 0).hreg 5 == 0x8000000100000F80
        && ((t.core 0).array 0).queue.map ArrOp.refused == [some 0x10]) = true
      ∧ next (issueArr 0x146) arrays (fun t => (t.latch 0).first.any fun r => r.cls == 1 && r.cause == 1) = true
      ∧ next (issueArr 0x141) (went [issueArr 0x141, issueArr 0x145, issueArr 0x141, issueArr 0x143] arrays)
        (fun t => ((t.core 0).array 0).queue.length == 2) = true
      ∧ held (issueArr 0x141) arrays = true := by decide +kernel

/-- That operation, as it starts. -/
def op0 : ArrOp :=
  { seq := 0, desc := arrDesc, la := layA, lb := layB, lo := layO, shadow := [], owner := (0, 0, 1), ctx := 0, base := 0x20000000000
    ls := 0x1000, width := 16, reads := [], writes := [], tile := 1, entry := 0, rowBits := [], fed := [0], refeed := [], refed := []
    stages := [], done := [], cvt := { sat := 0, infs := 0, nans := 0 }, replays := 0, clamped := 0, clampS := 0, freeze := 0
    segments := 0, bad := none, nanSeen := false, killed := false, refused := none }

/-- Queued with nothing fed; converted, with four bytes written. -/
def opQ : ArrOp := { op0 with fed := [], tile := 0 }
def opC : ArrOp := { op0 with fed := [], done := [(0x20000000600, true), (0x20000000601, true), (0x20000000602, true), (0x20000000603, true)] }

def cyc0 : ArrCycles := { busy := 37, frozen := 0, feed := 0, drain := 0, wbq := 0 }

/-- Core 0 with one array in use, its elements in local store, and h1 PENDING. -/
def arrState (arr : Nat) (x : ArraySt) (mem : List (Nat × Byte) := []) : State :=
  { run { Group.start 1 0x1000 with h := [(1, 0x8000000100000000)] } with
    cores := [(0, { Core.idle with
      blocks := [(0, some (blockOf 0 { Group.start 1 0x1000 with h := [(1, 0x8000000100000000)] }))]
      arrays := (List.range 3).map fun i => if i = arr then x else .idle })]
    mem := [(0x20000000201, 0x40), (0x20000000220, 0x40), (0x20000000221, 0x40), (0x20000000400, 0xC0), (0x20000000401, 0x3F),
          (0x20000000420, 0x80), (0x20000000421, 0x3F)] ++ mem }

def queued : State := arrState 0 { shape := 0, queue := [opQ], running := [] }
def refusedOp : State := arrState 0 { shape := 2, queue := [{ opQ with refused := some 0x10 }], running := [] }
def started : State := arrState 0 { shape := 0, queue := [], running := [op0] }
def converted : State := arrState 0 { shape := 0, queue := [], running := [opC] }

/-- 2 * 1.5 + 3 * 1 = 6. -/
theorem test_array_operation :
    next (.arrayOpStart 0 0 0) queued (fun t => ((t.core 0).array 0).running.map ArrOp.fed == [[0]]) = true
      ∧ next (.tileConvertDone 0 0 cyc0) started (fun t => t.word 0x20000000600 == 0x40C00000) = true
      ∧ next (.arrayOpComplete 0 0 cyc0) converted (fun t => (t.group 0 0 0).hreg 1 == 0xC000000100000000
          && ((t.core 0).array 0).running.isEmpty) = true := by decide +kernel

/-- A shape that is not the operation's; a discarded tile; a staged tile; a sparse operation whose list's first row is outside M. -/
def otherShape : State := arrState 0 { shape := 2, queue := [opQ], running := [] }
def discarded : State := arrState 0 { shape := 0, queue := [], running := [{ op0 with refeed := [0], fed := [] }] }
def staged : State :=
  arrState 0 { shape := 0, queue := [], running := [{ op0 with stages := [{ tile := 0, writes := [{ addr := 0x20000000E00, mask := 0xFF, val := 9 }] }] }] }
def opS : ArrOp :=
  { op0 with desc := [0xA1860000, 0x10001, 16, 0x3800000, 0, 0x100200, 0x180400, 0, 0xFFFF, 0, 0, 0xA00, 0xE00, 1, 0, 0], fed := [], tile := 0 }
def sparseOp (row : Byte) : State := arrState 2 { shape := 0, queue := [], running := [opS] } [(0x20000000E00, row)]

theorem test_witness_ArrayEvents :
    next (.arrayOpStart 0 0 0) refusedOp (fun t => (t.group 0 0 0).hreg 1 == 0xC000100100000000
        && ((t.core 0).array 0) == { shape := 2, queue := [], running := [] }) = true ∧
    next (.arrayReconfigure 0 0) otherShape (fun t => ((t.core 0).array 0).shape == 0 && t.reg 0x1100 == 8) = true
      ∧ next (.tileRefeed 0 0) discarded (fun t => ((t.core 0).array 0).running.map ArrOp.fed == [[0]] && t.reg 0x111C == 1) = true
      ∧ next (.replayStageCopy 0 0) staged (fun t => t.byte 0x20000000E00 == 9) = true
      ∧ next (.sparseBadlist 0) (sparseOp 1) (fun t => ((t.core 0).array 2).running.map ArrOp.bad == [some 0]) = true
      ∧ opC.fedOut = true ∧ (converted.core 0).opBlocked opC = false ∧ isSram (opC.base + dCompl opC.desc) = true
      ∧ isSram (opC.base + dCompl opC.desc + 31) = true ∧ (converted.block 0 0).isSome = true ∧ opQ.desc = arrDesc ∧ dArray arrDesc = 0 := by
  decide +kernel

theorem test_array_idle :
    (idle (.tileRefeed 0 0) started && idle (.replayStageCopy 0 0) started && idle (.sparseBadlist 0) (sparseOp 0)
      && idle (.arrayOpStart 0 0 0) started && idle (.arrayReconfigure 0 0) started) = true := by decide +kernel

/-- A dense tile of one element; a pass of one segment into an empty wide buffer, of which only 2 * 1.5 is not zero. -/
theorem test_witness_TileConversion :
    ((started.core 0).array 0).current = some op0 ∧ (started.core 0).opBlocked op0 = false
      ∧ (tileOutput started.byte op0 0 0).cvt.nans = 0 ∧ ((sparseOp 0).core 0).array 2 = { shape := 0, queue := [], running := [opS] }
      ∧ passEntries (sparseOp 0).byte opS none 0 16 = [(0, 0, 0)] ∧ dDest opS.desc = 2 ∧ dSparse opS.desc = true
      ∧ next (.tileConvertDone 0 2 cyc0) (sparseOp 0) (fun t => t.word 0x20040000000 == 0x40400000) = true := by decide +kernel

/-- A named element of a tile. -/
theorem test_witness_TileArithmetic :
    dOBlk arrDesc = 0 ∧ dOFmt arrDesc = 7 ∧ tileElems started.byte op0 0 = [(0, 0, 0, 0)] ∧ denseSum started.byte op0 0 0 = 0x40C00000 := by
  decide +kernel

/-! ## Stream-engine copies (R157, R197 to R213) -/

/-- One row of two elements, from columns 1 and 2 of a BF16 tensor at 0x200 to columns 0 and 1 of another at 0x600. -/
def copyDesc : List Word :=
  [0xC1000000, 0x100003, 0x200, 0, 0x600, 0, 0, 1, 0, 0, 0x10002, 1, 1, 0, 0, 0x50]
def lay16 : List Word := [0xB1000000, 16, 16, 0, 0, 0, 0, 0]

def copying : State :=
  { run { Group.start 1 0x1000 with h := [(1, 0x4000000000000000), (2, 0x8000000000000000), (4, 0x4000000000000FC0)] } with
    mem := ram 0x20000000000 (withComplements copyDesc ++ withComplements lay16 ++ withComplements lay16) }

def issueStr (h : BitVec 9) : Instr := .strIssue sg0 (fr 0 0x180 h 0x180)

/-- Held with its layouts; the source elements are 0x1234 and 0x5678. -/
def copy0 : CopyOp :=
  { seq := 0, id := 0, desc := copyDesc, ls := lay16, ld := lay16, owner := (0, 0, 1), ctx := 0, base := 0x20000000000
    sBase := 0x20000000200, dBase := 0x20000000600, reads := [], writes := [], phase := .held, fetched := [], waits := 0, status := 0
    index := 0, bytes := 0, share := [], counted := [], clampCnt := 0, used := 0, texp := 0 }
def copyOn (c : CopyOp) : State :=
  { run votes with
    cores := [(0, { Core.idle with
      copies := [c], blocks := [(0, some (blockOf 0 { Group.start 1 0x1000 with h := [(1, 0x8000000200000000)] }))] })]
    mem := [(0x20000000202, 0x34), (0x20000000203, 0x12), (0x20000000204, 0x78), (0x20000000205, 0x56)], spool := [(5, 9)] }
def moved0 : CopyOp := { copy0 with phase := .moved, bytes := 4, share := [(0, 4)] }
/-- The same with SPOOL_EN and SPOOL_ID 5. -/
def moved1 : CopyOp := { moved0 with desc := [0xC1000200, 0x100003, 0x200, 0, 0x600, 0, 0, 1, 0, 0, 0x10002, 1, 1, 0, 0, 0x14050] }

theorem test_witness_StreamIssue :
    next (issueStr 0x141) copying (fun t => (t.group 0 0 0).hreg 1 == 0x8000000200000000 && (t.core 0).copies.length == 1) = true
      ∧ next (issueStr 0x142) copying (fun t => (t.core 0).copies.isEmpty) = true
      ∧ next (issueStr 0x144) copying (fun t => (t.group 0 0 0).hreg 4 == 0xC000110200000FC0) = true
      ∧ next (issueStr 0x141) (copying.modCore 0 fun c => { c with copies := List.replicate 8 copy0 }) (fun t => (t.core 0).copies.length == 8) = true
      ∧ copyStatus copyDesc (.ofWords lay16) (.ofWords lay16) = none
      ∧ copyOverlap copyDesc (.ofWords lay16) (some 0x20000000200) (some 0x20000000600) 512 512 = false
      ∧ ((copying.copyFault here copyDesc (.ofWords lay16) (.ofWords lay16) 512 512 0).2 = none) := by decide +kernel

/-- A layout that is none, a permuted copy onto its source: held to report BADLAYOUT and OVERLAP. -/
theorem test_witness_StreamRefusals :
    copyStatus copyDesc (.ofWords [0]) (.ofWords lay16) ≠ none
      ∧ copyOverlap [0xC1040000] (.ofWords lay16) (some 0x20000000200) (some 0x20000000200) 512 512 = true
      ∧ next (.copyStart 0 0) (copyOn { copy0 with phase := .refused, status := 0x52 }) (fun t =>
          (t.group 0 0 0).hreg 1 == 0xC000520200000000 && (t.core 0).copies.isEmpty) = true
      ∧ (copyOn { copy0 with phase := .refused, status := 0x52 }).copyTurn 0 { copy0 with phase := .refused, status := 0x52 } = true
      ∧ idle (.copyStart 0 1) (copyOn copy0) = true ∧ held (issueStr 0x141) copying = true := by decide +kernel

theorem test_witness_CopyMoves :
    0 < cOuter copyDesc ∧ 0 < cBoxR copyDesc ∧ 1 < cBoxC copyDesc ∧ 0 < (Layout.ofWords lay16).rows ∧ 0 < (Layout.ofWords lay16).cols
      ∧ (copyMoves copyDesc (.ofWords lay16)).map (fun m => (m.dc, m.c)) = [(0, 1), (1, 2)] := by decide +kernel

theorem test_witness_StreamCopies :
    (copyOn copy0).mayStart 0 copy0 = true ∧ (copyOn moved0).mayStart 0 moved0 = false
      ∧ next (.copyStart 0 0) (copyOn copy0) (fun t => t.bytes 0x20000000600 5 == [0x34, 0x12, 0x78, 0x56, 0]) = true
      ∧ next (.scatterBadlist 0 0) (copyOn { copy0 with phase := .badList }) (fun t => (t.core 0).copies.map CopyOp.status == [0x20]) = true
      ∧ idle (.scatterBadlist 0 0) (copyOn moved0) = true
      ∧ next (.copySpoolStep 0 0 3) (copyOn moved1) (fun t => t.spoolVal 5 == 12) = true
      ∧ next (.copyComplete 0 0) (copyOn moved0)
        (fun t => (t.group 0 0 0).hreg 1 == 0xC000000200000000 && t.word 0x20000000A08 == 4 && (t.core 0).copies.isEmpty) = true := by
  decide +kernel

/-! ## Drogue samples (R85 to R90) -/

/-- A captured tile of `op0` under tag 1 of a drogue table at 0x10000 with K 4 and no limit (0x0); its captured value is 6. -/
def capture (ph : SlotPhase) (v : Word) : Capture :=
  { op := { op0 with shadow := [0xA2000001, 0, 0, 0, 0, 0, 0, 0] }, tile := 0, vals := [(0, 0, fdec v)]
    wide := if ph = .computed then [(0, 0, 0x40C00000)] else [], phase := ph, abandoned := 0, arr := 0 }
def sampled (ph : SlotPhase) (v : Word) : State :=
  let s := sets [(0x132001C, 1)] (dram (arrState 0 .idle))
  { s.modCore 0 fun c => { c with captures := [some (capture ph v), none] } with mem := (0x10082, 0xF) :: (0x10083, 0x84) :: s.mem }

theorem test_witness_DrogueSamples :
    next (.drogueRecompute 0 0 0) (sampled .captured 0x40C00000) (fun t => ((t.core 0).captures.getD 0 none).any fun c =>
        c.wide == [(0, 0, 0x40C00000)] && c.phase == .computed) = true
      ∧ (sampled .captured 0x40C00000).canRecompute 0 0 op0 = true
      ∧ next (.drogueCompare 0 0) (sampled .computed 0x40C00000) (fun t => t.word 0x10084 == 1 && t.word 0x100A0 == 1 && t.word 0x10090 == 0) = true
      ∧ next (.drogueCompare 0 0) (sampled .computed 0xC0C00000) (fun t => t.word 0x100DC == 1 && t.word 0x10090 == 1) = true
      ∧ idle (.drogueCompare 0 0) (sampled .captured 0x40C00000) = true
      ∧ idle (.drogueRecompute 0 0 0) (sampled .computed 0x40C00000) = true := by decide +kernel

/-! ## Registers (spec/19) -/

/-- The rows that clear counters, with one counter of each (R412, R415, R416, R293, R365). -/
def clears : List (Instr × Nat) :=
  [(.cvtCountClearSat 17, 0x22000), (.cvtCountClearInf 17, 0x22004), (.cvtCountClearNan 17, 0x22008), (.arrCountClearF 17, 0x2211C),
   (.arrCountClearD 17, 0x22120), (.arrCountClearW 17, 0x2215C), (.coreCountClearRepack 1535, 0xBF0200), (.fuCountClearDone 7, 0x1070004)]
  ++ [(.mcCountClearRetry 31, 0x121F000), (.mcCountClearPois 32, 0x1220004), (.mcCountClearPread 47, 0x122F008),
      (.mcCountClearScrub 0, 0x120000C), (.raCountClearAcc 0, 0x1200100), (.raCountClearPairs 0, 0x1200104),
      (.raCountClearSpill 0, 0x1200108), (.raCountClearSat 0, 0x120010C), (.raCountClearStale 0, 0x1200110),
      (.raCountClearExtra 0, 0x1200114), (.raCountClearDropped 0, 0x1200118)]
  ++ [(.uuCountClearParams 0, 0x1200200), (.uuCountClearFrozen 0, 0x1200204), (.uuCountClearPblocks 0, 0x1200208),
      (.uuCountClearMclamp 0, 0x120020C), (.uuCountClearShards 0, 0x1200210), (.uuCountClearSkew 0, 0x1200214),
      (.uuCountClearBusy 0, 0x1200218), (.fabCountClearCrcErr 15, 0x1300F24), (.fabCountClearResend 0, 0x1300028),
      (.fabCountClearNarrow 0, 0x130002C), (.fabCountClearLoss 0, 0x1300030), (.fabCountClearDrop 0, 0x1300034)]
  ++ [(.snCountClearCrcErr, 0x1400010), (.snCountClearResend, 0x1400014), (.snCountClearNarrow, 0x1400018), (.snCountClearLoss, 0x140001C),
      (.snCountClearDb, 0x1400020), (.snCountClearDbPoll, 0x1400024), (.pwrCountClearPartition, 0x150017C), (.pwrCountClearModule, 0x150018C)]

theorem test_counter_clears :
    clears.all (fun x => next x.1 (sets [(x.2, 5)] .reset) fun t => t.reg x.2 == 0) = true := by decide +kernel

theorem test_witness_CounterClears :
    State.reset.rwcPend = [] ∧ State.reset.corePresent 1535 = true ∧ State.reset.corePresent 1536 = false := by decide +kernel

/-- A context's plain register, a port's read-only one, the memory block's locked ones before and after its LOCK, a hole, the
two words of a spool range with the right and a wrong complement, and the latching read. -/
theorem test_witness_RegisterWrites :
    next (.setupRegisterWrite 0x1330000 0xFFFFFFFF) .reset (fun t => t.reg 0x1330000 == 0x80000100) = true
      ∧ idle (.setupRegisterWrite 0x1300020 5) .reset = true
      ∧ next (.setupRegisterWrite 0x1310004 0x12345) .reset (fun t => t.reg 0x1310004 == 0x2345) = true
      ∧ next (.setupRegisterWrite 0x1310004 5) (sets [(0x1310010, 1)] .reset) (fun t => t.reg 0x1310004 == 0
          && (t.latch 0x650).first.any fun r => r.cls == 3 && r.cause == 8) = true
      ∧ next (.setupRegisterWrite 0x1080000 5) .reset (fun t => (t.latch 0x650).first.any fun r => r.cls == 4 && r.cause == 2) = true
      ∧ next (.rwcValueWrite 0x1330004 0x80010000) .reset (fun t => t.pendOf (regBlock 0x1330004) == some (0x1330004, 0x80010000)) = true
      ∧ next (.rwcComplementWrite 0x1330008 0x7FFEFFFF) { State.reset with rwcPend := [(regBlock 0x1330004, some (0x1330004, 0x80010000))] }
          (fun t => t.reg 0x1330004 == 0x80010000 && t.reg 0x1330008 == 0x7FFEFFFF) = true
      ∧ next (.rwcComplementWrite 0x1330008 0) { State.reset with rwcPend := [(regBlock 0x1330004, some (0x1330004, 0x80010000))] }
          (fun t => t.reg 0x1330004 == 0 && (t.latch 0x650).first.any fun r => r.cls == 3 && r.cause == 7) = true
      -- another write of the block drops its pending value
      ∧ next (.setupRegisterWrite 0x1330000 7) { State.reset with rwcPend := [(regBlock 0x1330000, some (0x1330004, 0))] }
          (fun t => t.reg 0x1330000 == 0 && (t.pendOf (regBlock 0x1330000)).isNone && (t.latch 0x650).first.any fun r => r.cls == 3 && r.cause == 7)
        = true
      ∧ next (.lcountLoRead .host) { State.reset with lcount := 0x500000007 } (fun t => Sparse.get (fun _ => 0) t.lcLatch 8 == 5) = true := by
  decide +kernel

/-- Partition 7 is out of service. -/
def absent7 : State := sets [(0x1070000, 0x80000000)] .reset

/-- A cluster of an absent partition is passed over; the aperture selects cluster 33. -/
theorem test_witness_ApertureWrites :
    (next (.broadcastWrite 0 0) absent7 (fun t => t.reg 0 == 0 && t.reg (0x20000 * 83) == 0 && t.reg (0x20000 * 84) == 1)
      && next (.groupApertureWrite 0 0) (sets [(0x1700004, 2)] .reset) (fun t => t.reg (0x20000 * 33) == 0 && t.reg 0 == 1)
      && next (.broadcastWrite 0x200C 1) (sets [(0x22000, 5)] .reset) (fun t => t.reg 0x22000 == 0)) = true := by decide +kernel

theorem test_witness_Invalidations :
    next (.wtInv 3) .reset (fun t => t.invWaiting .wt == [3] && t.reg 0x1320030 == 1) = true
      ∧ next (.utInv 0x80000000) .reset (fun t => t.invWaiting .ut == [0x80000000] && t.reg 0x1320030 == 8) = true
      ∧ idle (.invalidationComplete .wt) .reset = true
      ∧ next (.invalidationComplete .wt) { run votes with invQueue := [(0, [0, 3])] } (fun t => t.invWaiting .wt == [3] && t.wcache.isEmpty) = true
      ∧ next (.invalidationComplete .famap) { State.reset with invQueue := [(1, [7])], fcache := [(7, some 1), (8, some 2)] }
          (fun t => t.fcache == [(8, some 2)]) = true
      ∧ next (.invalidationComplete .nt) { State.reset with invQueue := [(2, [0x80000000])], tables := { Tables.empty with nodeCache := [(7, [1])] } }
          (fun t => t.tables.nodeCache.isEmpty) = true
      ∧ next (.invalidationComplete .ut) { State.reset with invQueue := [(3, [7])], tables := { Tables.empty with updCache := [(7, [1])] } }
          (fun t => t.tables.updCache.isEmpty) = true
      ∧ idle (.ntInv 1) .reset = false ∧ idle (.famapInv 1) .reset = false := by decide +kernel

theorem test_witness_KeeperAndSpoolWrites :
    next (.errBaseWrite 5) .reset (fun t => t.kreg 0x10 == 5) = true
      ∧ next (.errBaseWrite 5) (State.reset.setKreg 0x30 1) (fun t => t.kreg 0x10 == 0) = true
      ∧ next (.errRdWrite 5) (State.reset.setKreg 0x14 4037) (fun t => t.kreg 0x18 == 5) = true
      ∧ idle (.errRdWrite 4) (State.reset.setKreg 0x14 4037) = true
      ∧ next .errFatalClear (State.reset.setKreg 0x1C 3) (fun t => t.kreg 0x1C == 0) = true
      ∧ next (.partCtrlReset 7) .reset (fun t => t.resets.parts == [7]) = true
      ∧ idle (.partCtrlReset 7) absent7 = true ∧ absent7.partAbsent 7 = true
      ∧ next .resetCtrlChip .reset (fun t => t.resets.chip == some .resetCtrl) = true
      ∧ idle .resetCtrlChip { State.reset with resets := { Resets.none with chip := some .watchdog } } = true
      ∧ next (.spoolFileWrite 0x3000001FFF8 [1, 0, 0, 0, 0, 0, 0, 0x80]) .reset (fun t => t.spoolVal 16383 == 1) = true
      ∧ next (.spoolFileWrite 0x30000000000 [1, 0, 0, 0]) .reset (fun t => t.spool.isEmpty
          && (t.latch 0x650).first.any fun r => r.cls == 7 && r.cause == 6) = true := by decide +kernel

/-- A report latched at core 0, with the ring at 0x10000000000 in use. -/
def hole3 : Report :=
  { cls := 4, cause := 2, sev := 1, startSeq := 0, lcount := 9, ctx := some 3, unit := 0, lost := 0, detail := [0x55] }
def latched : State :=
  { (dram State.reset).setKreg 0x10 0x1000000 with
    err := { ErrSt.atReset with ringReady := true, latches := [(0, { Latch.empty with first := some hole3 })] } }

theorem test_witness_ErrorRecords :
    latched.nextSource = some 0 ∧ ((latched.latch 0).first.map Report.sev) = some 1
      ∧ next (.errorRecordWrite 0) latched (fun t => t.word 0x10000000000 == 0x4024000 && t.kreg 0x14 == 1
          && t.word 0x10000000010 == 0x80030000 && t.word 0x1000000001C == 0x55) = true
      ∧ idle (.errorRecordWrite 5) latched = true := by decide +kernel

/-! ## Blocks, splits, sleep, scrubbing -/

/-- A launch of one train of two blocks of 40 threads, 4 KiB of local store each. -/
def launch2 : Launch :=
  { ring := 1, index := 0, ctx := 0, entry := 0x1000, args := 0, gx := 2, gy := 1, gz := 1, threads := 40, train := 2, split := 0
    lsKiB := 4, regs := 64, wb := false, resident := false, placed := 0, released := 0 }
def launching : State := { State.reset with launches := [(0, some launch2)], nextLaunch := 1 }

theorem test_witness_BlocksPlaced :
    launching.launchOf 0 = some launch2 ∧ launching.earlierLaunch 0 launch2 = false ∧ launching.ctxRuns 0 = true
      ∧ launching.coreTakes 0 launch2 = true ∧ launching.coreTakes 15 launch2 = true ∧ absent7.coreTakes 1535 launch2 = false
      ∧ next (.blockPlace 0 [0, 15]) launching (fun t => (t.block 15 0).any (fun b => b.trank == 1 && b.bid == (1, 0, 0) && b.ls == 4096
          && (b.group 1).subs.map (fun x => (x.mask, x.pc)) == [(0xFF, 0x1000)])
          && (t.launchOf 0).any (fun l => l.placed == 1)) = true
      ∧ idle (.blockPlace 0 [0, 1535]) { absent7 with launches := [(0, some launch2)] } = true
      ∧ (launching.setSvc 3 true).mayLaunch 0 = true
      ∧ idle (.blockPlace 0 [0, 15]) { (launching.setSvc 3 true) with launches := [(0, some { launch2 with ctx := 3 })] } = true
      ∧ idle (.blockPlace 0 [0, 15]) { launching with resets := { Resets.none with contexts := [0] } } = true := by decide +kernel

/-- A block whose threads have exited, and one whose have not. -/
def ended : State := run { votes with subs := [] }

theorem test_witness_BlocksReleased :
    next (.allocationRelease 0 0) { ended with launches := [(0, some launch2)] }
        (fun t => (t.block 0 0).isNone && (t.launchOf 0).any fun l => l.released == 1) = true
      ∧ (ended.block 0 0).any (fun b => !b.live) = true ∧ ended.blockBusy 0 0 = false
      ∧ idle (.allocationRelease 0 0) (run votes) = true
      ∧ next (.splitChange 0 1) { run votes with launches := [(0, some { launch2 with split := 1 })] } (fun t => (t.core 0).newSplit == some 1) = true
      ∧ next (.splitChange 5 1) { run votes with launches := [(0, some { launch2 with split := 1 })] } (fun t => (t.core 5).split == 1) = true
      ∧ { launch2 with split := 1 }.unplaced = true ∧ idle (.splitChange 0 1) (run votes) = true
      ∧ next (.coreIdle 5) (run votes) (fun t => (t.core 5).stopped) = true ∧ idle (.coreIdle 0) (run votes) = true := by decide +kernel

/-- Sleep enabled after 10 counts; the partitions have been idle since count 0. -/
def sleepy (now : DWord) : State := { sets [(0x1600030, 0x8000000A)] .reset with lcount := now }

theorem test_witness_SleepAndScrub :
    ((sleepy 10).part 7).asleep = false ∧ (sleepy 10).partIdle 7 = true
      ∧ next (.partitionSleep 7) (sleepy 10) (fun t => (t.part 7).asleep && (t.lost.any fun r => r.1 == 0x20000000000 + 0x80000 * 1344)) = true
      ∧ idle (.partitionSleep 7) (sleepy 9) = true ∧ idle (.partitionSleep 7) (sets [(0x1600030, 10)] .reset) = true
      ∧ next (.partitionWake 7) { State.reset with power := { Power.atReset with parts := [(7, { Partition.atReset with asleep := true })] } }
        (fun t => !(t.part 7).asleep) = true := by decide +kernel

/-- Every channel in service, and controller 0's scrub pointer at `b`. -/
def scrubAt (b : Nat) : State := { dram .reset with scrub := [(0, b)] }

/-- Controller 0 serves the block 0x4000; the last of its blocks is 0x7F_FFFF_C5C0. -/
theorem test_scrubbing :
    (scrubAt 0x4000).nextBlock 0 0x4000 = some 0x4000 ∧ bitAt ((dram .reset).reg (offMc 0 + 0x10)) 16 = true
      ∧ (scrubAt 0).nextBlock 0 0x4040 = some 0x4040 ∧ (scrubAt 0).nextBlock 0 0x7FFFFFC5C0 = some 0x7FFFFFC5C0
      ∧ (scrubAt 0).nextBlock 0 0x7FFFFFC600 = none
      ∧ next (.scrubRead 0) (scrubAt 0x7FFFFFC5C0) (fun t => t.reg 0x120000C == 1 && t.scrub.isEmpty) = true
      ∧ next (.scrubRead 0) (scrubAt 0x4000) (fun t => t.reg 0x120000C == 0 && t.scrub == [(0, 0x4040)]) = true
      ∧ next (.scrubRead 0) { scrubAt 0x4000 with defects := [(0x4000, 3)] } (fun t => t.defects.isEmpty && t.reg 0x1200000 == 1) = true
      ∧ next (.scrubRead 0) { scrubAt 0x4000 with defects := [(0x4000, 4)] } (fun t => t.poisoned 0x4000 && t.reg 0x1200004 == 1) = true
      ∧ idle (.scrubRead 0) { dram .reset with standby := true } = true := by decide +kernel

theorem test_retraining :
    next (.lpddr6Retrain 1 63) { dram .reset with lcount := 10000005, retrained := [(127, 6)] } (fun t => t.retrained == [(127, 10000006)]) = true
      ∧ idle (.lpddr6Retrain 1 63) { dram .reset with lcount := 10000004, retrained := [(127, 6)] } = true := by decide +kernel

/-! ## Rings (spec/14) -/

/-- MOV and CMP with ZERO and p0 as destination and as source; a pair and a quad that a file ends before. -/
theorem test_witness_ZeroAndP0 :
    issues (run ints) (use1 (fr 0 0x180 4 0x180) 1) = true ∧ issues (run ints) (use1 (fr 0 1 0x180 0x180) 1) = true
      ∧ wRegs (fr 0 0x180 4 0x180) = 1 ∧ modClear (0 : BitVec 6) 2 = true
      ∧ issues (run ints) [.dstIn 0x150 [.p, .zero], .src 4 1, .src 4 1, .unused 0x180] = true
      ∧ fld (0 : BitVec 6) 2 3 ≤ 5 ∧ gives ints (.mov sg0 (fr 0 1 0x180 0x180)) 1 0 0 = true := by decide +kernel

theorem test_witness_PairsAndQuads :
    fileOf 252 = (.t, 252) ∧ fileOf 254 = (.t, 254) ∧ fileOf 3 = (.t, 3) ∧ fileOf 0x103 = (.u, 3)
      ∧ wRegs (fr 1 254 4 0x180) = 2 ∧ widRegs (modWid (0x30 : BitVec 6)) = 4 ∧ sg0.partner = none
      ∧ !idle (.mov sg0 (fr 1 254 4 0x180)) (run ints) = true := by
  decide +kernel

/-- A descriptor of a type with a tag, words 3 to 14, and an index. -/
def descr (ty i : Nat) (ws : List Word) : List Word :=
  let h : Word := BitVec.ofNat 32 (2 ^ 24 * ty + 0x55)
  let b : List Word := [h, ~~~ h, BitVec.ofNat 32 i] ++ ws ++ List.replicate (12 - ws.length) 0
  b ++ [crc32c (bytesOfWords b)]

/-- Device ring 1 of context 0, at 0x10000000000, its completion queue at 0x10000010000, running with TAIL at 1. -/
def ring1 : State :=
  sets [(0x1401044, 0x100), (0x1401048, 0x10000), (0x140104C, 0x100), (0x1401050, 0x106),
    (0x1401058, 0x40000000), (0x140105C, 1), (0x1330004, 0xBFFF0000)] (dram .reset)

/-- The same with a descriptor fetched. -/
def front (w : List Word) : State :=
  { ring1 with rings := [(1, { Ring.empty with bound := true, fetched := [(0, (w, 0))] })], nextLaunch := 1 }

/-- The same with it started. -/
def begun (w : List Word) (st : Word := 0x40000001) : State :=
  { sets [(0x1401058, st), (0x1401060, 1)] ring1 with
    rings := [(1, { Ring.empty with bound := true, started := [(0, some { words := w, refused := false, result := none, doneAt := 0 })] })] }

/-- Start, stop, resume and the three cases of a tail, at their edges. -/
theorem test_witness_RingControl :
    next (.ringStart 0) .reset (fun t => t.ringState 0 == 1) = true ∧ State.reset.ringState 127 = 0 ∧ (State.reset.ring 127).bound = false
      ∧ idle (.ringStart 127) .reset = true ∧ idle (.ringStop 127) .reset = true ∧ idle (.ringResume 127) .reset = true
      ∧ next (.ringStart 0) (sets [(0x1401010, 17)] .reset) (fun t => t.ringState 0 == 0
          && (t.latch 0x640).first.any fun r => r.cls == 7 && r.cause == 4) = true
      ∧ next (.ringStop 1) ring1 (fun t => t.ringState 1 == 0) = true
      ∧ next (.ringStop 1) (begun []) (fun t => t.ringState 1 == 1 && (t.ring 1).stopping) = true ∧ ((begun []).ring 1).inflight = 1
      ∧ next (.ringResume 1) (sets [(0x1401058, 0xC0000000)] ring1) (fun t => t.ringState 1 == 1) = true
      ∧ next (.ringTailWrite 1 64) ring1 (fun t => t.tail 1 == 64) = true ∧ ring1.ringSize 1 = 64
      ∧ next (.ringTailWrite 1 65) ring1 (fun t => t.tail 1 == 1 && t.ringState 1 == 3 && t.reg 0x1401068 == 64) = true
      ∧ idle (.ringTailWrite 1 1) ring1 = true ∧ idle (.ringTailWrite 1 0x80000001) ring1 = true := by decide +kernel

/-- Host ring 2 runs, with the Sornal link up and a poll interval of 100. -/
def hostRing (now : DWord) : State :=
  { sets [(0x1400000, 0x50000000), (0x1400004, 100), (0x1400008, 0x5000), (0x1401098, 0x40000000)] .reset with lcount := now }

theorem test_witness_DoorbellsAndHolds :
    (hostRing 100).linkUp 16 = true ∧ (hostRing 100).ringDev 2 = false
      ∧ next (.doorbell 2 5) (hostRing 0) (fun t => t.tail 2 == 5 && t.reg 0x1400020 == 1) = true
      ∧ next (.doorbellPoll 2) (hostRing 100) (fun t => t.hostOut == [.hread 0 0x5010 8]) = true
      ∧ idle (.doorbellPoll 2) (hostRing 99) = true ∧ idle (.doorbellPoll 2) .reset = true
      ∧ idle (.intrHoldExpiry 7) .reset = true
      ∧ next (.intrHoldExpiry 7) { hostRing 100 with vectors := [(7, { since := 0, hold := 100, holding := true, due := true })] }
          (fun t => t.hostOut == [.intr 7] && (t.vector 7).since == 100) = true
      ∧ next (.intrHoldExpiry 7) { hostRing 100 with vectors := [(7, { since := 0, hold := 100, holding := true, due := false })] }
          (fun t => t.vectors.isEmpty) = true := by decide +kernel

/-- SERVICE in ring 1 with a bad complement, a bad CRC, a bad index and a bad type, and a good FENCE. -/
def fence0 : List Word := descr 8 0 [3]
theorem test_witness_DescriptorsRead :
    ring1.checkDesc 1 0 fence0 = 0 ∧ ring1.checkDesc 1 0 (fence0.set 15 0) = 0x80 ∧ ring1.checkDesc 1 1 fence0 = 0x82
      ∧ ring1.checkDesc 1 0 (descr 11 0 []) = 0x83 ∧ ring1.checkDesc 1 0 (descr 7 0 [0, 0]) = 0x81
      ∧ ring1.nextFetch 1 = some 0 ∧ ring1.canStart 1 = true ∧ ring1.dramRange 0x10000000000 64 = true
      ∧ State.reset.fetches 1 = false ∧ ring1.fetches 1 = true := by decide +kernel

/-- Memory with a descriptor in ring 1's first slot. -/
def slot0 (w : List Word) : State := { ring1 with mem := ram 0x10000000000 w }

theorem test_descriptor_fetched :
    next (.descriptorFetch 1 1) (slot0 fence0) (fun t => (t.ring 1).fetchedAt 0 == (fence0, 0)) = true := by decide +kernel

theorem test_descriptor_refused :
    next (.descriptorFetch 1 1) (slot0 (descr 11 0 []))
      (fun t => t.ringState 1 == 3 && t.head 1 == 0 && t.retired 1 == 1 && t.word 0x10000010000 == 0x80830055) = true
      ∧ next (.ringResume 1) (went [.descriptorFetch 1 1] (slot0 (descr 11 0 []))) (fun t => t.ringState 1 == 1 && t.retired 1 == 0) = true := by decide +kernel

theorem test_descriptor_read_again :
    next (.descriptorRefetch 1) { slot0 fence0 with
        lcount := 100, rings := [(1, { Ring.empty with bound := true, fetched := [(0, (fence0.set 15 0, 0))] })] }
      (fun t => (t.ring 1).fetchedAt 0 == (fence0, 0) && (t.ring 1).retries == 1) = true := by decide +kernel

/-- A launch of one block of 40 threads, of no threads, and an ENTRY off by four. -/
def launchW (entry threads : Word) : List Word :=
  descr 1 0 [entry, 0, ~~~ entry, 0xFFFFFFFF, 0, 0, 0xFFFFFFFF, 0xFFFFFFFF, 1, 0x10001, 0x00A00080, threads]

theorem test_witness_DescriptorsRun_ready :
    (front (launchW 0x1000 40)).readyDesc 1 1 = some (launchW 0x1000 40)
      ∧ (front fence0).readyDesc 1 8 = some fence0 ∧ (front fence0).readyDesc 1 1 = none
      ∧ (front fence0).dramRange ((front fence0).entryAddr 1 0) 32 = true ∧ (front fence0).ringDev 1 = true
      ∧ ((front fence0).ring 1).fetchedAt 1 = ([], 0) ∧ bitAt (wordAt fence0 0) 23 = false := by decide +kernel

theorem test_launch_descriptors :
    next (.launch 1) (front (launchW 0x1000 40)) (fun t => t.nextLaunch == 2 && t.head 1 == 1 && t.retired 1 == 0) = true
      ∧ next (.launch 1) (front (launchW 0x1004 40)) (fun t => t.ringState 1 == 3 && t.word 0x10000010000 == 0x80400055) = true
      ∧ idle (.launchComplete 0) .reset = true := by decide +kernel

theorem test_launch_completes :
    next (.launchComplete 0) { begun (launchW 0x1000 40) with launches := [(0, some { launch2 with released := 2 })] }
      (fun t => t.retired 1 == 1 && t.word 0x10000010000 == 0x80000055 && t.launches.isEmpty) = true
      ∧ idle (.launchComplete 0) { begun (launchW 0x1000 40) with launches := [(0, some { launch2 with released := 1 })] } = true := by
  decide +kernel

theorem test_hint_and_phase :
    next (.hint 1) (front (descr 4 0 [0xA0000080, 0, 7])) (fun t => t.retired 1 == 1 && (t.part 7).guard == 15 && (t.part 7).guardHold == 7
        && (t.part 0).guard == 0) = true
      ∧ next (.phase 1) (front (descr 5 0 [0x203])) (fun t => t.retired 1 == 1 && fld (t.reg 0x1500014) 0 4 == 3 && (t.ring 1).coll) = true := by
  decide +kernel

def signal (id : Word) (lo : Word) : List Word := descr 7 0 [id, ~~~ id, lo, 0, ~~~ lo, 0xFFFFFFFF]
def waitW (id : Word) (lo : Word) : List Word := descr 6 0 [id, ~~~ id, lo, 0, ~~~ lo, 0xFFFFFFFF]

theorem test_signal_and_fence :
    next (.spoolSignal 1) (front (signal 0 5)) (fun t => t.retired 1 == 1 && t.spoolVal 0 == 5) = true
      ∧ next (.spoolSignal 1) { front (signal 0x80000000 5) with spool := [(0, 9)] } (fun t => t.spoolVal 0 == 5) = true
      ∧ next (.ringFence 1) (front fence0) (fun t => t.retired 1 == 1) = true ∧ (front fence0).writesUnacked 1 = false := by decide +kernel

/-- A store of a block that ring 1 launched has not been acknowledged. -/
def storing1 (s : State) : State :=
  unanswered (.store 0 0 0) 1 false s |> fun t => { t with reqs := t.reqs.map fun q =>
    (q.1, q.2.map fun r => { r with org := { r.org with ring := some 1 } }) }

theorem test_witness_FenceWaits :
    (storing1 (front fence0)).writesUnacked 1 = true ∧ fld (wordAt fence0 3) 0 2 = 3
      ∧ next (.ringFence 1) (storing1 (front fence0)) (fun t => t.head 1 == 1 && t.retired 1 == 0 && !t.canStart 1) = true
      ∧ idle (.ringFence 1) (storing1 (begun fence0)) = true ∧ next (.ringFence 1) (begun fence0) (fun t => t.retired 1 == 1) = true
      ∧ (front fence0).mayLaunch 0 = true ∧ (front fence0).unsent 1 = false := by decide +kernel

theorem test_ring_waits :
    next (.spoolWait 1) (front (waitW 0 5)) (fun t => t.ringState 1 == 2 && (t.ring 1).waiting == some 0 && t.waiters.length == 1) = true
      ∧ next (.spoolWaitSatisfied 1) { begun (waitW 0 5) 0x80000001 with
            rings := [(1, { Ring.empty with
              bound := true, started := [(0, some { words := waitW 0 5, refused := false, result := none, doneAt := 0 })], waiting := some 0 })]
            waiters := [{ who := .ring 1, id := 0, target := 5, result := some false }] }
          (fun t => t.ringState 1 == 3 && t.retired 1 == 1 && t.word 0x10000010000 == 0x80850055 && t.waiters.isEmpty) = true := by
  decide +kernel

theorem test_guard_ends :
    next (.ballastGuardEnd 7) { State.reset with
        lcount := 20, power := { Power.atReset with parts := [(7, { Partition.atReset with guard := 15, fullGuard := 15, guardLoad := 13, guardHold := 7 })] } }
      (fun t => (t.part 7).guard == 0) = true
      ∧ idle (.ballastGuardEnd 7) { State.reset with
        lcount := 19, power := { Power.atReset with parts := [(7, { Partition.atReset with guard := 15, fullGuard := 15, guardLoad := 13, guardHold := 7 })] } } = true := by
  decide +kernel

/-! ## The link engine, links and packets (spec/13, spec/14) -/

/-- A running ring at the front of whose queue a copy or fill waits, with the link engine's windows cached. -/
def engine (w : List Word) (mem : List (Nat × Byte)) : State :=
  { front w with wcache := [(98304, some [flat])], mem := mem }

/-- A COPY of 8 bytes from 0x2004 to 0x3008, and a FILL of 8 bytes with a pattern at 0x3008. -/
def copyW : List Word := descr 2 0 [0x2004, 0, 0xFFFFDFFB, 0xFFFFFFFF, 0x3008, 0, 0xFFFFCFF7, 0xFFFFFFFF, 8, 0xFFFFFFF7, 0]
def fillW : List Word := descr 3 0 [0x11, 0x22, 0xFFFFFFEE, 0xFFFFFFDD, 0x3008, 0, 0xFFFFCFF7, 0xFFFFFFFF, 8, 0xFFFFFFF7, 0]

/-- A job whose bytes have all moved. -/
def movedJob : LinkJob := { data := [], done := 8, waits := 0, moved := true, status := 0, share := [(0, 8)] }
def jobbed (w : List Word) : State :=
  { begun w with
    rings := [(1, { Ring.empty with
      bound := true, started := [(0, some { words := w, refused := false, result := none, doneAt := 0 })], jobs := [(0, some movedJob)] })] }

theorem test_witness_LinkEngine :
    (engine copyW []).readyDesc 1 2 = some copyW ∧ (engine fillW []).readyDesc 1 3 = some fillW ∧ (engine fillW []).readyDesc 1 2 = none
      ∧ (engine copyW []).ringCtx 1 = 0 ∧ findWindow [flat] 0x2000 = some flat ∧ fld (wordAt flat 6) 0 6 &&& Need.write.mask = Need.write.mask
      ∧ dwordAt flat 4 + (0x2000 - dwordAt flat 0) = 0x2000 ∧ (dram .reset).inDram 0x3000 = true
      ∧ next (.copy 1) (engine copyW [(0x2004, 5), (0x200B, 6)]) (fun t => t.byte 0x3008 == 5 && t.byte 0x300F == 6 && t.head 1 == 1
          && (t.job? 1 0).any fun j => j.moved && j.done == 8) = true
      ∧ next (.fill 1) (engine fillW []) (fun t => t.byte 0x3008 == 0x11 && t.byte 0x300C == 0x22 && t.byte 0x3010 == 0) = true := by
  decide +kernel

theorem test_witness_LinkCopyComplete :
    next (.linkCopyComplete 1 0) (jobbed copyW) (fun t => t.retired 1 == 1 && t.word 0x10000010000 == 0x80000055
        && t.word 0x10000010010 == 8 && (t.job? 1 0).isNone) = true
      ∧ (jobbed copyW).job? 1 ((jobbed copyW).retired 1).toNat = some movedJob ∧ idle (.linkCopyComplete 1 5) (jobbed copyW) = true := by
  decide +kernel

/-- Host reads under way: a doorbell of ring 2, a descriptor of ring 3, which waits on a counter. -/
def reading : State :=
  { sets [(0x14010D8, 0x80000000)] (hostRing 0) with
    hreads := [(0, some (.doorbell 2)), (1, some (.descriptor 3 7 1)), (2, some (.copy 1 0 0))]
    rings := [(1, { Ring.empty with bound := true, jobs := [(0, some { movedJob with moved := false })] })] }

theorem test_witness_HostReads :
    next (.hreadResponse 0 .ok [64, 0, 0, 0, 0, 0, 0, 0]) reading (fun t => t.tail 2 == 64 && t.reg 0x1400024 == 1) = true
      ∧ reading.ringSize 2 = 64 ∧ reading.ringState 3 = 2
      ∧ next (.hreadResponse 1 .ok (bytesOfWords (List.replicate 16 9))) reading
          (fun t => (t.ring 3).fetchedAt 7 == (List.replicate 16 9, 0)) = true
      ∧ next (.hreadResponse 1 .poison []) reading (fun t => ((t.ring 3).fetchedAt 7).2 == 0x8A) = true
      ∧ next (.hreadResponse 2 .refused []) reading (fun t => (t.job? 1 0).any fun j => j.status == 0x89) = true
      ∧ next (.hreadResponse 1 .unsupported []) reading (fun t => ((t.ring 3).fetchedAt 7).2 == 0x89) = true
      ∧ next (.hreadResponse 2 .poison []) reading (fun t => (t.job? 1 0).any fun j => j.status == 0x8A) = true
      ∧ next (.hreadResponse 0 .unsupported []) reading (fun t => t.tail 2 == 0 && t.hreads.length == 2) = true
      ∧ idle (.hreadResponse 3 .ok []) reading = true := by decide +kernel

theorem test_witness_HostAccesses :
    (hostRing 0).start.moored = false
      ∧ next (.mread 9 0x1400004) (hostRing 0) (fun t => t.hostOut == [.mresp 9 100]) = true
      ∧ next (.mread 9 0x4000000) (hostRing 0) (fun t => t.hostOut == [.mresp 9 0]
          && (t.latch 0x640).first.any fun r => r.cls == 4 && r.cause == 2) = true
      ∧ next (.mwrite 0x1400004 7) (hostRing 0) (fun t => t.reg 0x1400004 == 7) = true
      ∧ next (.mwrite 0x13FFFFC 7) (hostRing 0) (fun t => (t.latch 0x640).first.any fun r => r.cls == 7 && r.cause == 3) = true := by
  decide +kernel

/-! ## Links -/

/-- Port 0 in a training state, all lanes good, with a count. -/
def port (st : Nat) (now : DWord := 0) (l : Link := State.reset.link 0) : State :=
  { sets [(0x1300020, BitVec.ofNat 32 (0x10000000 * st + 0xFFC0000)), (0x1300010, 0x00FFFFFF)] .reset with
    lcount := now, links := [(0, l)] }

def lk : Link := State.reset.link 0

/-- A control flit: SEQ, ACK and the low bits of word 0, with its CRC; its type is 1 for no packet. -/
def flit (seq ack : Nat) (low : Nat := 0) : List Byte :=
  let b := bytesLE 4 (0x10000000 + (0x10000 * seq + (16 * ack + low))) ++ List.replicate 248 0
  b ++ bytesLE 4 (crc32c b).toNat

theorem test_witness_Flits :
    (port 5).linkUp 0 = true ∧ (flit 1 0).length = 256
      ∧ next (.flitReceive 0 (flit 1 4095)) (port 5 0 { lk with unacked := [(4095, 1, []), (5, 1, [])] })
          (fun t => (t.link 0).rxAck == 1 && (t.link 0).unacked == [(5, 1, [])]) = true
      ∧ next (.flitReceive 0 (flit 0 0)) (port 5 0 { lk with rxAck := 4095 }) (fun t => (t.link 0).rxAck == 0) = true
      ∧ next (.flitReceive 0 (flit 2 0)) (port 5) (fun t => (t.link 0).rxAck == 0
          && (t.link 0).sent.map (fun f => (f.nak, f.ack)) == [(true, 0)]) = true := by decide +kernel

theorem test_witness_FlitsBad :
    next (.flitReceive 0 ((flit 1 0).set 255 0)) (port 5) (fun t => t.reg 0x1300024 == 1
        && (t.link 0).sent.map (fun f => (f.nak, f.ack)) == [(true, 0)] && (t.link 0).nakSent) = true
      ∧ next (.flitReceive 0 (flit 1 7 8)) (port 5 0 { lk with unacked := [(8, 1, []), (9, 1, [])] }) (fun t => t.reg 0x1300028 == 2
        && (t.link 0).sent.map (fun f => (f.ftype, f.seq)) == [(1, 8), (1, 9)]) = true
      ∧ idle (.flitReceive 0 (flit 1 0)) (port 4) = true ∧ idle (.flitReceive 0 []) (port 5) = true := by decide +kernel

/-- A DATA flit with SEQ 0x123, ACK 0x456, queue 5 and credits 7 for queue 2: its header words, by R271. -/
theorem test_sent_flit :
    let fl := flitBytes { ftype := 1, seq := 0x123, ack := 0x456, nak := true, q := 5, cqa := 2, ca := 7, cqb := 0, cb := 0
                          payload := List.replicate 244 0 }
    (fl.take 8, fl.length) = ([0x6D, 0x45, 0x23, 0x11, 0, 0, 0x70, 0x40], 256) := by decide +kernel

theorem test_witness_LinkTimes :
    next (.resendTimeout 0) (port 5 80 { lk with unacked := [(1, 1, [])] }) (fun t => t.reg 0x1300028 == 1) = true
      ∧ idle (.resendTimeout 0) (port 5 79 { lk with unacked := [(1, 1, [])] }) = true
      ∧ next (.linkLoss 0) (port 5 200) (fun t => t.linkState 0 == 6 && t.reg 0x1300030 == 1) = true ∧ (port 5).jobPort 0 = false
      ∧ idle (.linkLoss 0) (port 5 199) = true ∧ idle .sornalLinkLoss .reset = true
      ∧ next (.lostRetry 0) (port 6 100000) (fun t => t.linkState 0 == 1) = true ∧ idle (.lostRetry 0) (port 6 99999) = true
      ∧ next (.downRetry 0) (port 7 10000000) (fun t => t.linkState 0 == 1) = true ∧ idle (.downRetry 0) (port 7 9999999) = true
      ∧ next (.detectTimeout 0) (port 1 1000000) (fun t => t.linkState 0 == 7) = true ∧ idle (.detectTimeout 0) (port 1 999999) = true
      ∧ next (.detectTimeout 0) (sets [(0x1300000, 0)] (port 1 1000000)) (fun t => t.linkState 0 == 0) = true := by decide +kernel

theorem test_witness_Lanes :
    next (.laneBad 0 7) (port 5) (fun t => t.reg 0x1300020 == 0x55FC0000 && t.reg 0x130002C == 1) = true
      ∧ next (.laneBad 0 0) (port 5) (fun t => fld (t.reg 0x1300020) 26 2 == 2 && t.linkUp 0) = true
      ∧ next (.laneBad 0 3) (port 2) (fun t => bitAt (t.reg 0x1300020) 21 == false && t.linkState 0 == 2) = true
      ∧ idle (.laneBad 0 8) (port 5) = true ∧ fld ((port 5).reg 0x1300020) 18 8 = 0xFF := by decide +kernel

theorem test_witness_Training :
    next (.portSignalDetect 0 0x0F) (port 1 1000000) (fun t => t.linkState 0 == 2 && (t.link 0).lanes == 0x0F) = true
      ∧ idle (.portSignalDetect 0 0x77) (port 1) = true ∧ idle (.portSignalDetect 0 0xFF) (port 2) = true
      ∧ next (.equaliseDone 0 0xFF) (port 2 0 { lk with lanes := 0xF0 }) (fun t => t.linkState 0 == 3 && (t.link 0).lanes == 0xF0
          && (t.link 0).sent.map Flit.ftype == [2]) = true
      ∧ next (.equaliseDone 0 0xFF) (port 2 200001 { lk with lanes := 0xFF }) (fun t => t.linkState 0 == 3 && (t.link 0).lanes == 0) = true
      ∧ next (.widthAgreed 0 0xFF 3 0x1234) (port 3 0 { lk with lanes := 0xFF }) (fun t => t.linkState 0 == 4 && fld (t.reg 0x1300020) 26 2 == 3
          && (t.link 0).peer == some (3, 0x1234)) = true
      ∧ next (.widthAgreed 0 0x7F 3 0x1234) (port 3 0 { lk with lanes := 0xFF }) (fun t => t.linkState 0 == 4 && fld (t.reg 0x1300020) 26 2 == 1) = true
      ∧ next (.widthAgreed 0 0xFE 3 0x1234) (port 3 0 { lk with lanes := 0xFF }) (fun t => t.linkState 0 == 4 && fld (t.reg 0x1300020) 26 2 == 2) = true
      ∧ next (.widthAgreed 0 0x7E 3 0x1234) (port 3 0 { lk with lanes := 0xFF }) (fun t => t.linkState 0 == 7) = true
      ∧ next (.initReady 0) (port 4) (fun t => t.linkState 0 == 5 && (t.link 0).txSeq == 1) = true ∧ idle (.initReady 0) (port 5) = true
      ∧ next (.portRetrain 0) (port 7) (fun t => t.linkState 0 == 1) = true
      ∧ idle (.portRetrain 0) (sets [(0x1300000, 0)] (port 0)) = true := by decide +kernel

theorem test_witness_SornalLoss :
    let s := hostRing 0
    s.linkUp 16 = true ∧ s.hreads = [] ∧ s.ringDev 2 = false ∧ s.ringState 2 = 1 ∧ (s.ring 2).stopping = false
      ∧ next .sornalLinkLoss s (fun t => t.linkState 16 == 6 && t.ringState 2 == 3 && fld (t.reg 0x1401098) 16 8 == 0x89
          && t.ringState 0 == 0) = true := by decide +kernel

/-! ## Packets -/

/-- Device 0 with port 0 up as the job's port to every device; context 3 is global with counters 0 to 255. -/
def fabric : State :=
  sets [(0x1300000, 5), (0x1300010, 0xFFFFFF), (0x1300020, 0x5FFC0000), (0x1330030, 0x80000100), (0x1330034, 0x80FF0000)] (dram .reset)

/-- A request from device 1 to device 0. -/
def ask (ty : BitVec 4) (len : BitVec 7) (ext : List Word) (data : List Byte) : Packet :=
  { ptype := ty, rsp := false, status := 0, dst := 0, cls := false, len := len, src := 1, job := 0, tag := 5, epoch := 0
    ttl := 9, ext := ext, data := data }

/-- A write of eight bytes at 0x1000, counted by counter 255, and one that writes the two middle bytes of each word. -/
def writeP : Packet := ask 1 2 [0x1000, 0, 0x800000FF, 0x7FFFFF00] [1, 2, 3, 4, 5, 6, 7, 8]
def edgeP : Packet := ask 1 2 [0x1000, 0x40000000, 0, 0xFFFFFFFF, 0x00FFFF00, 0x00FFFF00] [1, 2, 3, 4, 5, 6, 7, 8]

theorem test_witness_Packets_arrive :
    fabric.routePort fabric.deviceId 1 = some 0 ∧ fabric.linkUp 0 = true ∧ fabric.cut = [] ∧ fabric.cutAll = false
      ∧ packetOk writeP = true ∧ pairsOk writeP = true ∧ fabric.globalSpool 255 = true ∧ pSpv writeP = true
      ∧ fabric.holderAddr writeP 8 = some 0x1000 ∧ packetOk edgeP = true ∧ pairsOk edgeP = true
      ∧ fabric.holderAddr (ask 1 1 [0, 0x2100, 0, 0xFFFFFFFF] [1, 2, 3, 4]) 4 = some 0x420000000
      ∧ fabric.holderAddr (ask 1 1 [0x200000, 0, 0, 0xFFFFFFFF] [1, 2, 3, 4]) 4 = none := by decide +kernel

theorem test_writes_arrive :
    next (.write 0 writeP) fabric (fun t => t.byte 0x1000 == 1 && t.byte 0x1007 == 8 && t.spoolVal 255 == 8
        && t.fabOut.map (fun x => (x.1, x.2.rsp, x.2.status, x.2.tag)) == [(0, true, 0, 5)]) = true
      ∧ next (.write 0 edgeP) fabric (fun t => t.bytes 0x1000 8 == [0, 2, 3, 0, 0, 6, 7, 0]) = true
      ∧ next (.write 0 (ask 1 1 [0x200000, 0, 0, 0xFFFFFFFF] [1, 2, 3, 4])) fabric
          (fun t => t.mem.isEmpty && t.fabOut.map (fun x => x.2.status) == [1]) = true := by decide +kernel

/-- A service message of kind 4 to 16 bytes at offset 0x40 of the mailbox, one past its end, and a new epoch 6. -/
def mailP (off kind : Word) : Packet := ask 1 2 [off, 0x20000000, 0, 0xFFFFFFFF] (bytesOfWords [kind, 6])

theorem test_witness_Mail :
    packetOk (mailP 0x40 4) = true ∧ pMail (mailP 0x40 4) = true ∧ mailAddr (mailP 0x40 4) 8 = some 0xF0000D00040
      ∧ mailAddr (mailP 0xFFFC 4) 8 = none
      ∧ next (.write 0 (mailP 0x40 4)) fabric (fun t => t.svc.inbox == [(1, [4, 6])] && t.word 0xF0000D00044 == 6) = true
      ∧ next (.write 0 (mailP 0 3)) fabric (fun t => t.epoch == 6) = true
      ∧ next (.write 0 (mailP 0xFFFC 4)) fabric (fun t => t.fabOut.map (fun x => x.2.status) == [1]) = true := by decide +kernel

theorem test_reads_arrive :
    next (.read 0 (ask 2 1 [0x1004, 0] [])) { fabric with mem := [(0x1004, 7)] } (fun t => t.fabOut.map (fun x => x.2.data) == [[7, 0, 0, 0]]) = true
      ∧ next (.read 0 (ask 2 1 [0x1004, 0] [])) { fabric with poison := [(0x1000, true)] }
          (fun t => t.fabOut.map (fun x => (x.2.status, x.2.data)) == [(2, [])]) = true
      ∧ next (.accumulate 0 (ask 3 1 [0x1004, 0, 0x80000000, 0x7FFFFFFF] [0, 0, 0x80, 0x3F])) { fabric with mem := [(0x1006, 0x80), (0x1007, 0x3F)] }
          (fun t => t.word 0x1004 == 0x40000000 && t.spoolVal 0 == 4) = true
      ∧ next (.atomic 0 (ask 5 2 [0x1004, 0, 0, 0, 5, 0, 0, 0] [])) { fabric with mem := [(0x1004, 7)] }
          (fun t => t.word 0x1004 == 12 && t.fabOut.map (fun x => x.2.data) == [[7, 0, 0, 0, 0, 0, 0, 0]]) = true
      ∧ next (.spoolNotify 0 (ask 6 0 [0x80000007, 0x7FFFFFF8, 3, 0xFFFFFFFC] [])) fabric (fun t => t.spoolVal 7 == 3) = true
      ∧ next (.spoolNotify 0 (ask 6 0 [0xA0000007, 0x5FFFFFF8, 3, 0xFFFFFFFC] [])) fabric (fun t => bitAt (t.spoolVal 7) 63) = true := by
  decide +kernel

/-- A load of lane 1 into t9 under way. -/
def load1 : Req :=
  { ptype := 2, dst := 1, ctx := 0, owner := .thread 0 0 0 1 9 4 false, addr := 0x8000000000001000, since := 0
    org := { ring := none, grp := 0, mask := 2, pc := 0x1000 }, acq := false, stale := false, noFill := false }
def awaiting : State := { fabric with cores := (run votes).cores, reqs := [(5, some load1)] }
def answer (st : BitVec 3) : Packet := { ask 2 1 [] [7, 0, 0, 0] with rsp := true, status := st }

theorem test_witness_Responses :
    packetOk (answer 3) = true ∧ (awaiting.block 0 0).isSome = true
      ∧ next (.fabricResponse 0 (answer 0)) awaiting (fun t => (t.group 0 0 0).treg 1 9 == 7 && t.reqs.isEmpty) = true
      ∧ next (.fabricResponse 0 (answer 3)) awaiting (fun t => t.ctxRuns 0 == false
          && (t.latch 0).first.any fun r => r.detail == [0, 2, 0x1000, 0, 0x1000, 0x80000000]) = true
      ∧ next (.fabricResponse 0 (answer 0)) { awaiting with reqs := [(5, some { load1 with stale := true })] }
          (fun t => (t.group 0 0 0).treg 1 9 == 0) = true
      ∧ next (.fabricResponse 0 { answer 0 with tag := 6 }) awaiting (fun t => t.reg 0x1300034 == 1 && t.reqs.length == 1) = true
      ∧ next (.fabricRequestTimeout 5) { awaiting with setup := [(0x1600028, 100)], lcount := 100 } (fun t => t.reqs.isEmpty) = true
      ∧ idle (.fabricRequestTimeout 5) { awaiting with setup := [(0x1600028, 100)], lcount := 99 } = true
      ∧ idle (.fabricRequestTimeout 6) awaiting = true := by decide +kernel

/-- The same with counters 254 and 255. -/
def fabric2 : State := sets [(0x1330034, 0x80FF00FE)] fabric
def cutP : Packet := ask 7 0 [9, 0xFFFFFFF6, 0, 0] []

theorem test_witness_LineCuts :
    packetOk cutP = true ∧ pExt cutP 1 = ~~~ (pExt cutP 0)
      ∧ next (.lineCut 0 cutP) fabric2 (fun t => t.cut == [9] && bitAt (t.spoolVal 255) 63 && !bitAt (t.spoolVal 256) 63) = true
      ∧ next (.lineCut 0 cutP) { fabric2 with cut := [9] } (fun t => t.cut == [9] && t.spool.isEmpty) = true
      ∧ next (.lineCut 0 cutP) { fabric2 with cut := List.replicate 64 8 } (fun t => t.cutAll) = true := by decide +kernel

/-! ## Reduction, the factor unit and update (spec/11, spec/12) -/

/-- Tables in bonded memory: the node table at 0x10000200000, group records at 0x10000210000, the update table at 0x10000220000;
context 0 owns counters 0 to 16383; counter 3 reached 4. -/
def tables : State :=
  { sets [(0x1330004, 0xBFFF0000), (0x1320004, 0x1000020), (0x1320008, 8), (0x132000C, 0x1000021), (0x1320010, 8), (0x1320014, 0x1000022),
      (0x1320018, 8)] (dram .reset) with spool := [(3, 4)], spoolChg := [(3, [4])] }

/-- The same with node 0 in its table and cached, and with memory. -/
def nodes (e : List Word) (mem : List (Nat × Byte) := []) : State :=
  { tables with tables := { Tables.empty with nodeCache := [(0, e)] }, mem := mem ++ ram 0x10000200000 (withComplements e) }

/-- An entry: word 0, segments, BUF, DEST, counter 4, trigger counter 3 with target and increment 4; its parent is node 5 here. -/
def nodeE (w0 segs buf : Word) (bufHi : Word := 0) : List Word :=
  [w0, segs, buf, bufHi, 0x2000, 0, 0, 5, 0, 0, 0, 0x40003, 4, 0, 4, 0]
def leafE : List Word := nodeE 0x12000007 1 0x1000
def upE : List Word := nodeE 0x1000FFFF 1 0x1000
def castE : List Word := nodeE 0x30000007 1 0x1000
def pairE : List Word := nodeE 0x22000007 2 0x300000 0x100

theorem test_witness_Reduction_fires :
    (nodes leafE).node 0 = (nodes leafE, some leafE) ∧ (nodes upE).node 0 = (nodes upE, some upE)
      ∧ (nodes castE).node 0 = (nodes castE, some castE) ∧ (nodes leafE).fires ((nodes leafE).nodeFiring 0 3) 3 4 = some (1, false)
      ∧ (nodes leafE).dramRange ((nodes leafE).nodeAddr 0) 128 = true ∧ nKind upE = 1 ∧ nRoot upE = false
      ∧ nParentDev upE = (nodes upE).deviceId ∧ (tables.node 0).2 = none := by decide +kernel

theorem test_leaves_fire :
    next (.leafFire 0) (nodes leafE [(0x1003, 7)]) (fun t => t.byte 0x2003 == 7 && t.spoolVal 4 == 128
        && t.words 0x10000200000 1 == [0x12000008] && t.words 0x10000200030 1 == [8]) = true
      ∧ next (.leafFire 0) (nodes upE [(0x1003, 7)]) (fun t => t.tables.segQ.map (fun g => (g.node, g.seg, g.step, g.down, wordAt g.vals 0))
          == [(5, 0, 0xFFFF, false, 0x07000000)] && t.words 0x10000200000 1 == [0x10000000]) = true
      ∧ next (.castFire 0) (nodes castE [(0x1003, 7)]) (fun t => t.tables.segQ.map Segment.down == [true]) = true
      ∧ next (.leafFire 0) { nodes leafE with spoolChg := [(3, [0x8000000000000000])] } (fun t => bitAt (t.spoolVal 4) 63) = true
      ∧ idle (.castFire 0) (nodes leafE) = true ∧ idle (.leafFire 0) { nodes leafE with spool := [(3, 5)], spoolChg := [(3, [3])] } = true := by decide +kernel

/-- A segment of ones for the pair, and one with a step and a number. -/
def segment1 (step : Nat := 7) (k : Nat := 1) : Segment :=
  { down := false, poison := false, node := 0, seg := k, step := step, vals := List.replicate 32 0x3F800000 }

/-- A first arrival is staged; the second is added and stored; the last one of the step clears the states. -/
theorem test_witness_Reduction_pairs :
    let first := nodes pairE
    let second := { first with
      mem := first.mem ++ [(0x10000300100, 4)], tables := { first.tables with staged := [(1, List.replicate 32 0x40000000)] } }
    let last := { second with mem := first.mem ++ [(0x10000300100, 6)] }
    let own (s : State) (g : Segment) := { s with tables := { s.tables with segQ := [g] } }
    pairBytes 2 = 320 ∧ first.dramRange 0x10000300000 320 = true
      ∧ next (.pairAccumulate .ownModule) (own first (segment1)) (fun t => t.byte 0x10000300100 == 4 && t.tables.staged.length == 1) = true
      ∧ next (.pairAccumulate .ownModule) (own second (segment1)) (fun t => t.byte 0x10000300100 == 8 && t.word 0x2080 == 0x40400000
          && t.spoolVal 4 == 128 && t.tables.staged.isEmpty) = true
      ∧ next (.pairAccumulate .ownModule) (own last (segment1)) (fun t => t.byte 0x10000300100 == 0 && t.word 0x20FC == 0x40400000
          && t.words 0x10000200000 1 == [0x22000008]) = true
      ∧ idle (.pairAccumulate .ownModule) first = true := by decide +kernel

theorem test_witness_Reduction_steps :
    let own (g : Segment) : State := { nodes pairE with tables := { (nodes pairE).tables with segQ := [g] } }
    next (.pairAccumulate .ownModule) (own (segment1 6)) (fun t => t.mem == (nodes pairE).mem && t.reg 0x1220110 == 1) = true
      ∧ next (.pairAccumulate .ownModule) (own (segment1 8)) (fun t => (t.latch 0x620).first.any fun r => r.cls == 9 && r.cause == 2) = true
      ∧ next (.pairAccumulate .ownModule) (own { segment1 with node := 7 }) (fun t => t.mem == (nodes pairE).mem) = true
      ∧ (nodes pairE).mcOf 0x10000300080 = some 32 := by decide +kernel

theorem test_segments_from_a_port :
    let p : Packet := ask 4 32 [0x00000000, 1, 7, 0xFFFFFFFF] (bytesOfWords (List.replicate 32 0x3F800000))
    let s : State := { sets [(0x1300020, 0x50000000)] tables with tables := { Tables.empty with nodeCache := [(0, pairE)] } }
    packetOk p = true ∧ segHeadOk p = true ∧ s.linkUp 0 = true
      ∧ next (.pairAccumulate (.port 0 p)) s (fun t => t.byte 0x10000300100 == 4) = true
      ∧ next (.pairAccumulate (.port 0 { p with ext := [0, 1, 7, 0] })) s (fun t => t.mem.isEmpty && t.tables.staged.isEmpty) = true := by
  decide +kernel

/-- A factor entry on partition 0: two rows of two, P at 0x10000300000, results at 0x10000400000, H at 0x10000500000. -/
def factorE (op : Word) : List Word :=
  [0x40000007 + op * 0x4000000, 0x100002, 0x300000, 0x100, 0x400000, 0x100, 0x500000, 0x100, 0x600000, 0x100, 0, 0x40003, 4, 0, 4, 0]
def factorJob (op : Word) : FactorJob := { entry := factorE op, poisoned := false, computed := false, out := [], record := [] }
/-- P holds 1, 2 and 3, 4; H is the unit matrix. -/
def factoring (j : FactorJob) : State :=
  { tables with
    tables := { Tables.empty with factor := [(0, [j])] }
    mem := ram 0x10000300000 [0x3F800000, 0x40000000, 0x40400000, 0x40800000] ++ ram 0x10000500000 [0x3F800000, 0, 0, 0x3F800000] }

theorem test_witness_FactorUnit :
    next (.factorFire 0) (nodes (factorE 0)) (fun t => (t.factorQueue 0).map FactorJob.entry == [factorE 0]
        && t.words 0x10000200000 1 == [0x40000008]) = true
      ∧ next (.gram 0) (factoring (factorJob 0)) (fun t => (t.factorQueue 0).map FactorJob.out
          == [[0x41200000, 0x41600000, 0x41600000, 0x41A00000]]) = true
      ∧ next (.ortho 0) (factoring (factorJob 1)) (fun t => (t.factorQueue 0).map (fun j => (j.computed, wordAt j.record 0))
          == [(true, 0x20000)]) = true
      ∧ next (.gram 0) (factoring { factorJob 0 with poisoned := true }) (fun t => (t.factorQueue 0).map (fun j => fld (wordAt j.record 0) 0 8)
          == [0x60]) = true
      ∧ idle (.gram 0) (factoring (factorJob 1)) = true ∧ idle (.ortho 7) tables = true := by decide +kernel

theorem test_witness_FactorComplete :
    let j : FactorJob := { factorJob 0 with
      computed := true, out := [1, 2, 3, 4], record := [9, 0, 0, 0, 7, 0, 0, 0] }
    next (.factorComplete 0) (factoring j) (fun t => t.words 0x10000400000 4 == [1, 2, 3, 4] && t.word 0x10000600000 == 9
        && t.spoolVal 4 == 48 && t.reg 0x1000004 == 1 && (t.factorQueue 0).isEmpty) = true
      ∧ next (.factorComplete 0) (factoring { j with poisoned := true }) (fun t => t.word 0x10000400000 == 0 && bitAt (t.spoolVal 4) 63) = true
      ∧ idle (.factorComplete 0) (factoring (factorJob 0)) = true := by decide +kernel

/-- An update entry of 32 parameters in group 0 at STEP 5, and the group's record: momentum with B1 = 1/2, rate 1, one shard. -/
def shardE : List Word :=
  [0x10000000, 5, 0x2000, 0, 0x3000, 0, 0x4000, 0, 0, 0, 0, 0, 0x5000, 0, 0, 32, 0x40003, 4, 0, 4] ++ List.replicate 12 0
def groupG (done pv : Word := 0) : List Word := [0x80000002, 5, done, 0x3F000000, 0, 0, 0x3F800000, 0, 0, 0, 0, 0, pv, 0, 0, 0]
/-- Gradients 1 and 2 for the first two parameters, weight 3 for the first. -/
def updating (g : List Word) : State :=
  { tables with
    tables := { Tables.empty with updCache := [(0, shardE)] }
    mem := ram 0x2000 [0x40400000] ++ ram 0x3000 [0x3F800000, 0x40000000] ++ ram 0x10000210000 (withComplements g)
      ++ ram 0x10000220000 (withComplements shardE) }

theorem test_witness_ShardFire :
    (updating (groupG)).updEntry 0 = (updating (groupG), some shardE) ∧ groupValid (groupG) = true
      ∧ (updating (groupG)).shardOk shardE = true ∧ (updating (groupG)).shardFits shardE (groupG) = true
      ∧ (updating (groupG)).fires ((updating (groupG)).updFiring 0 3) 3 4 = some (1, false) ∧ uKind shardE = 1
      ∧ (updating (groupG)).groupBusy 0 = false ∧ (updating (groupG)).frozen shardE 31 = false ∧ (tables.updEntry 0).2 = none := by
  decide +kernel

theorem test_shard_fires :
    next (.shardFire 0) (updating (groupG)) (fun t => t.word 0x2000 == 0x40000000 && t.word 0x2004 == 0xC0000000 && t.word 0x2008 == 0
        && t.words 0x10000220004 1 == [6] && t.words 0x10000220044 1 == [8]) = true := by decide +kernel

theorem test_shard_refused :
    let late : List Word := setWord (groupG) 1 6
    next (.shardFire 0) (updating late) (fun t => t.word 0x2000 == 0x40400000
        && (Sparse.get (fun _ => none) t.tables.shards 0).any fun j => j.status == 0x71) = true
      ∧ next (.shardFire 0) { updating (groupG) with spoolChg := [(3, [0x8000000000000000])] } (fun t =>
          (Sparse.get (fun _ => none) t.tables.shards 0).any fun j => j.status == 0x72) = true := by decide +kernel

/-- An entry whose W lies in a hole; a record with V clear, which reads and shows its STEP. -/
theorem test_witness_ShardStops :
    let hole : List Word := setWord shardE 3 0x200
    let s : State := { updating (groupG) with tables := { Tables.empty with updCache := [(0, hole)] } }
    s.shardOk hole = false ∧ next (.shardFire 0) s (fun t => (t.latch (0x600 + t.shardMc hole)).first.any (fun r => r.cls == 3 && r.cause == 9)
        && t.tables.shards.isEmpty && t.spool == s.spool) = true
      ∧ groupValid (setWord (groupG) 0 2) = false
      ∧ next (.shardFire 0) (updating (setWord (groupG) 0 2)) (fun t =>
          (Sparse.get (fun _ => none) t.tables.shards 0).any fun j => j.status == 0x73 && j.gstep == 5) = true := by decide +kernel

/-- The shard's job at its end. -/
def shardJob (st : Nat) : ShardJob :=
  { entry := shardE, status := st, gstep := 5, uexp := 0, dmax := none, stepBad := false, zcnt := 3, momFloor := 0, frozen := 0, sat := 0
    mclamp := 0, pblocks := 0, nonfinite := 0 }
def ending (st : Nat) (done : Word := 0) : State :=
  { tables with
    tables := { Tables.empty with shards := [(0, some (shardJob st))] }, mem := ram 0x10000210000 (withComplements (groupG done)) }

theorem test_witness_ShardUpdateComplete :
    next (.shardUpdateComplete 0) (ending 0) (fun t => t.word 0x5000 == 5 && t.word 0x5008 == 3 && t.word 0x5014 == 5 && t.spoolVal 4 == 64
        && t.words 0x10000210004 2 == [5, 1] && t.tables.shards.isEmpty) = true
      ∧ next (.shardUpdateComplete 0) (ending 0 1) (fun t => t.words 0x10000210004 2 == [6, 0]) = true
      ∧ next (.shardUpdateComplete 0) (ending 0x73) (fun t => t.word 0x5010 == 0x73 && bitAt (t.spoolVal 4) 63
          && t.words 0x10000210004 2 == [5, 0]) = true
      ∧ idle (.shardUpdateComplete 0) tables = true := by decide +kernel

/-- An UPDATE_GROUP descriptor for group 0: its block at 0x2000, one owner, rate 1/2 from step `from_`. -/
def ugW (op : Word) (step : Word := 6) : List Word :=
  descr 9 0 [op * 0x40000000, 0x2000, 0, 0xFFFFDFFF, 0xFFFFFFFF, 1, 0xFFFFFFFE, 0x3F000000, 0, step]
def ugroup (w g : List Word) (img : List Word := []) : State :=
  { engine w (ram 0x2000 img ++ ram 0x10000210000 (withComplements g)) with
    setup := (sets [(0x132000C, 0x1000021), (0x1320010, 8)] ring1).setup }

theorem test_witness_UpdateGroup_ready :
    (ugroup (ugW 0) (groupG)).readyDesc 1 9 = some (ugW 0) ∧ fld (wordAt (ugW 0) 8) 0 17 = 1
      ∧ dwordAt (ugW 0) 4 = 0x2000 ∧ (ugroup (ugW 0) (groupG)).inDram 0x2040 = true ∧ rateOk 0x3F000000 0 = true
      ∧ rateOk 0 0 = false := by decide +kernel

theorem test_group_rates :
    next (.updateGroupRate 1 []) (ugroup (ugW 0) (groupG)) (fun t => t.words 0x1000021002C 3 == [0x3F000000, 0x100, 6] && t.retired 1 == 1
        && t.byte 0x2044 == 0) = true
      ∧ next (.updateGroupRate 1 []) (ugroup (ugW 0 4) (groupG)) (fun t => t.byte 0x2044 == 0x76 && t.ringState 1 == 3) = true
      ∧ next (.updateGroupRate 1 []) (ugroup (ugW 0) (groupG 0 0x100)) (fun t => t.byte 0x2044 == 0x75 && t.retired 1 == 1) = true := by
  decide +kernel

theorem test_group_sets :
    next (.updateGroupSet 1 []) (ugroup (ugW 1) (groupG) [0, 0, 0, 0x3E800000]) (fun t => t.word 0x1000021000C == 0x3E800000 && t.byte 0x2044 == 0) = true
      ∧ next (.updateGroupSet 1 []) (ugroup (ugW 1) (groupG 1) [0, 0, 0, 0x3E800000]) (fun t => t.byte 0x2044 == 0x74) = true
      ∧ next (.updateGroupArm 1 []) (ugroup (ugW 2) (groupG) [0, 7]) (fun t => t.word 0x10000210004 == 7 && t.word 0x10000210044 == 0xFFFFFFF8) = true
      ∧ idle (.updateGroupArm 1 []) tables = true := by decide +kernel

/-! ## Background services (spec/15) -/

/-- Checkpoint 0 of group 0, its buddy this module: slots of 0x400 bytes at 0x3000, trigger counter 3, CP_DONE counter 9. -/
def ckArg : CheckpointArg :=
  { ranges := [], groups := [0], buddy := some 0, slotLpn := 0, slotOff := 0x3000, slotSize := 0x400, trigId := 3, trigTarget := 4, trigInc := 4
    cpDone := 9 }
def ckpt (x : Option CkCopy) : State :=
  { tables with
    svc := { tables.svc with ckpts := [(0, some { ctx := 0, arg := ckArg, firing := { change := 0, again := false }, target := 4, copying := x })] }
    mem := [(0x10000210004, 5)] }
/-- A copy whose contents have landed. -/
def landed (st : Word) (torn : Option Bool) : Option CkCopy :=
  some { step := st, len := 128, crc := 7, steps := [st], bad := false, torn := torn }

theorem test_witness_Checkpoints :
    (ckpt none).fires { change := 0, again := false } 3 4 = some (1, false) ∧ (ckpt none).buddy ckArg = (ckpt none).deviceId
      ∧ next (.checkpointFire 0) (ckpt none) (fun t => t.byte 0x3444 == 5 && t.byte 0x3400 == 0
          && (t.ckpt 0).any fun c => c.target == 8 && c.copying.any fun x => x.step == 5 && x.len == 128 && !x.bad) = true
      ∧ idle (.checkpointFire 0) { ckpt none with spoolChg := [(3, [3])] } = true ∧ idle (.checkpointFire 1) (ckpt none) = true := by
  decide +kernel

theorem test_checkpoint_headers :
    next (.checkpointFire 0) (ckpt (landed 5 none)) (fun t => t.word 0x3400 == 5 && t.word 0x3404 == 128 && t.word 0x340C == 7 && t.word 0x3410 == 1) = true
      ∧ next (.checkpointFire 0) (ckpt (landed 4 none)) (fun t => t.word 0x3000 == 4 && t.word 0x3010 == 2
          && (t.latch 0x653).first.any fun r => r.cls == 9 && r.cause == 4) = true
      ∧ next (.checkpointFire 0) (ckpt (landed 5 (some false))) (fun t => t.spoolVal 9 == 64 && (t.ckpt 0).any fun c => c.copying.isNone) = true
      ∧ next (.checkpointFire 0) (ckpt (landed 5 (some true))) (fun t => bitAt (t.spoolVal 9) 63) = true := by decide +kernel

theorem test_checkpoint_poisoned :
    next (.checkpointFire 0) { ckpt none with spoolChg := [(3, [0x8000000000000000])] } (fun t => bitAt (t.spoolVal 9) 63
        && (t.ckpt 0).any fun c => c.copying.isNone && c.target == 8 && c.firing == { change := 1, again := true }) = true
      ∧ next (.checkpointFire 0) (ckpt (some { step := 5, len := 0, crc := 0, steps := [5], bad := true, torn := none }))
        (fun t => bitAt (t.spoolVal 9) 63) = true := by decide +kernel

/-- A cut is in force on a job with device 9 lost, whose rank device 2 waits to take; ring 5 serves a context of the job. -/
def cutJob (started : Sparse (Option Started) := []) : State :=
  { sets [(0x1600000, 3), (0x1330030, 0x80000100), (0x1401150, 0x30000), (0x1401158, 0x40000000)] .reset with
    cut := [9]
    rings := [(5, { Ring.empty with bound := true, started := started })]
    svc := { State.reset.svc with ranks := [0, 9], waits := [] } }

/-- The same at a stage, its ring stopped, with this rank list. -/
def atStage (n : Nat) (ranks : List (BitVec 24) := [0, 9]) (inbox : List (Nat × List Word) := []) : State :=
  { sets [(0x1401158, 0), (0x1600000, 7), (0x1300000, 5), (0x1300010, 0xFFFFFF), (0x1300020, 0x5FFC0000)] cutJob with
    svc := { State.reset.svc with ranks := ranks, stage := n, lostSet := [9], inbox := inbox } }

theorem test_witness_RecoveryStart :
    next .recoveryStart cutJob (fun t => t.recovering && t.ringState 5 == 0 && t.svc.stage == 1 && t.svc.lostSet == [9]) = true
      ∧ next .recoveryStart (cutJob [(0, some { words := [], refused := false, result := none, doneAt := 0 })])
          (fun t => t.ringState 5 == 1 && (t.ring 5).stopping && t.svc.stage == 1) = true
      ∧ (atStage 1).jobStopped = true ∧ (atStage 1 [0, 1, 9]).survivors = [1]
      ∧ next .recoveryStart (atStage 1 [0, 1, 9]) (fun t => t.svc.stage == 2
          && t.fabOut.map (fun x => (x.2.ptype, x.2.dst, pMail x.2, x.2.data.take 12)) == [(1, 1, true, bytesOfWords [4, 1, 9])]) = true
      ∧ idle .recoveryStart (atStage 2 [0, 1, 9]) = true
      ∧ next .recoveryStart (atStage 2 [0, 1, 9] [(1, cutMessage [9])]) (fun t => t.svc.stage == 3) = true
      ∧ idle .recoveryStart .reset = true := by decide +kernel

/-- Device 9 takes its own rank again, in this epoch. -/
def taken9 (slots : List (List Word)) (epoch : BitVec 8 := 1) : RecoveryData :=
  { takers := [(9, 9)], epoch := epoch, slots := slots, spool := [(7, 0x100)], nodes := [], updates := [] }

/-- Stages 4 and 5 begin on the leader with a new epoch, elsewhere with the epoch that it wrote. -/
theorem test_witness_RecoveryRankTaken :
    (atStage 3).ranksTaken [(9, 9)] = true ∧ (atStage 3).leads = true ∧ (atStage 3 [1, 0, 9]).leads = false
      ∧ next (.recoveryRankTaken (taken9 [[4, 5], [5, 6]])) (atStage 3) (fun t => t.epoch == 1 && t.cut.isEmpty && t.recovering
          && t.svc.stage == 5 && t.svc.restore.any fun x => x.step.isNone) = true
      ∧ next (.recoveryRankTaken (taken9 [[4, 5], [5], [5]])) (atStage 3 [0, 1, 9]) (fun t =>
          t.fabOut.map (fun x => (x.2.dst, x.2.data)) == [(1, bytesOfWords [3, 1])]) = true
      ∧ next (.recoveryRankTaken (taken9 [[4], [4], [4]] 0)) (atStage 3 [1, 0, 9]) (fun t => t.svc.stage == 5 && t.cut == [9]) = true
      ∧ idle (.recoveryRankTaken (taken9 [[4]])) (atStage 3) = true ∧ idle (.recoveryRankTaken (taken9 [[4], [4]] 0)) (atStage 3) = true
      ∧ idle (.recoveryRankTaken (taken9 [[4], [4]])) (atStage 2) = true ∧ idle (.recoveryRankTaken (taken9 [])) .reset = true := by
  decide +kernel

/-- Stage 5, on a module without checkpoints. -/
def restoring (d : RecoveryData) (step : Option Word) (failed : Bool := false) : State :=
  { sets [(0x1320004, 0x1000020), (0x1320008, 8), (0x1600000, 7)] (dram .reset) with
    svc := { State.reset.svc with
      ranks := [0, 9], stage := 5, restore := some { data := d, step := step, failed := failed, got := [] } } }

/-- The other module's buddy holds 5 and 6; there is none that holds nothing. -/
theorem test_witness_Restore :
    (restoring (taken9 [[], [5, 6]]) none).jobStopped = true
      ∧ next (.recoveryRankTaken (taken9 [])) (restoring (taken9 [[], [5, 6]]) none) (fun t => t.svc.restore.any fun x => x.step == some 6) = true
      ∧ next (.recoveryRankTaken (taken9 [])) (restoring (taken9 [[5], []]) none) (fun t => t.svc.stage == 1 && t.svc.restore.isNone) = true
      ∧ next (.recoveryRankTaken (taken9 [])) (restoring (taken9 [[], [5]]) (some 5) true) (fun t => t.svc.stage == 1) = true
      ∧ next (.recoveryRankTaken (taken9 [])) (restoring (taken9 [[], [5]]) (some 5)) (fun t => !t.recovering && t.svc.stage == 0
          && t.spoolVal 7 == 0x100 && t.svc.ranks == [0, 9]) = true
      ∧ next (.recoveryRankTaken (taken9 [])) (restoring { taken9 [] with nodes := [(0, 0x123)] } (some 5)) (fun t =>
          nStep (t.words 0x10000200000 16) == 5 && nTarget (t.words 0x10000200000 16) == 0x123) = true := by decide +kernel

/-- Group 0 under the numerics service, its one record at 0x5000 with this step and DMAX. -/
def numbered (step : Byte) (dmax : Byte) : State :=
  { tables with
    svc := { tables.svc with groups := [(0, some { ctx := 0, recs := [0x5000], last := some (4, 0, 0, 0) })] }
    mem := (0x5000, step) :: (0x5007, dmax) :: ram 0x10000210000 (withComplements (groupG)) }

/-- DMAX of 8 keeps the rate, 9 moves its exponent, -127 moves it past the normal range. -/
theorem test_witness_NumericsServiceStep :
    next (.numericsServiceStep 0 []) (numbered 5 8) (fun t => t.word 0x1000021002C == 0
        && (Sparse.get (fun _ => none) t.svc.groups 0).any fun g => g.last == some (5, 8, 0, 0)) = true
      ∧ next (.numericsServiceStep 0 []) (numbered 5 9) (fun t => t.words 0x1000021002C 3 == [0x3B000000, 0x109, 7]) = true
      ∧ next (.numericsServiceStep 0 []) (numbered 5 0x81) (fun t => (t.latch 0x654).first.any fun r => r.cls == 2 && r.cause == 3) = true
      ∧ idle (.numericsServiceStep 0 []) (numbered 4 9) = true ∧ idle (.numericsServiceStep 1 []) (numbered 5 9) = true
      ∧ idle (.numericsServiceStep 0 [{ step := 6, dmax := 0, zcnt := 0, momFloor := 0 }]) (numbered 5 9) = true := by decide +kernel

/-- Stream 0: two slots of 0x100 bytes at 0x6000, with staging, consumer and release counters 20 to 22, from device 1. -/
def stream0 : Stream :=
  { ctx := 0
    arg := { base := 0x6000, slots := 2, slotSize := 0x100, staging := 20, consumer := 21, release := 22, nodes := [(1, 3, 0x40)] }
    seqNo := 0, staged := 0, released := 0, freed := 0, headers := [0] }
/-- A batch of four bytes 01 02 03 04, with this sequence number, in slot 0, whose header has come; counters. -/
def relay (no crc : Word) (spool : List (Nat × DWord)) : State :=
  { fabric with
    svc := { fabric.svc with streams := [(0, some stream0)] }
    spool := spool
    mem := ram 0x6000 [0x04030201] ++ ram 0x60C0 [no, 4, crc] }

theorem test_witness_InputRelay :
    crc32c [1, 2, 3, 4] = 0x29308CF4
      ∧ next (.inputBatchArrival 0) (relay 0 0x29308CF4 [(20, 68)]) (fun t => t.spoolVal 21 == 4
          && (t.stream 0).any fun x => x.seqNo == 1 && x.staged == 68) = true
      ∧ next (.inputBatchArrival 0) (relay 1 0x29308CF4 [(20, 68)]) (fun t => bitAt (t.spoolVal 21) 63
          && (t.latch 0x656).first.any fun r => r.cls == 9 && r.cause == 5) = true
      ∧ next (.inputBatchArrival 0) (relay 0 0 [(20, 0x8000000000000000)]) (fun t => bitAt (t.spoolVal 21) 63) = true
      ∧ idle (.inputBatchArrival 0) (relay 0 0x29308CF4 [(20, 67)]) = true ∧ idle (.inputBatchArrival 0) (relay 0 0x29308CF4 [(20, 63)]) = true
      ∧ idle (.inputBatchArrival 0) { relay 0 0x29308CF4 [(20, 68)] with
          svc := { fabric.svc with streams := [(0, some { stream0 with headers := [1] })] } } = true
      ∧ idle (.inputBatchArrival 1) (relay 0 0 []) = true := by decide +kernel

theorem test_witness_InputSlotFreed :
    next (.inputSlotFreed 0) (relay 0 0 [(22, 1)]) (fun t => (t.stream 0).any (fun x => x.freed == 1)
        && t.fabOut.map (fun x => (x.1, x.2.ptype, x.2.dst, x.2.data)) == [(0, 1, 1, [1, 0, 0, 0, 0, 0, 0, 0])]) = true
      ∧ (relay 0 0 []).routePort (relay 0 0 []).deviceId 1 = some 0 ∧ (relay 0 0 []).isCut 1 = false
      ∧ idle (.inputSlotFreed 0) (relay 0 0 []) = true ∧ idle (.inputSlotFreed 0) (relay 0 0 [(22, 0x8000000000000001)]) = true
      ∧ idle (.inputSlotFreed 1) (relay 0 0 []) = true := by decide +kernel

/-! ## Service requests (spec/15) -/

/-- A SERVICE descriptor: service, operation, ARG_LEN, ARG at host address 0x1000. -/
def svcW (svc op : Nat) (len : Word := 64) : List Word :=
  descr 10 0 [BitVec.ofNat 32 (0x80000000 + (256 * svc + op)), 0x1000, 0, 0xFFFFEFFF, 0xFFFFFFFF, len, ~~~ len]

/-- Registers of a module that is UP, with context 3, its ring 1, the Sornal link and tables. -/
def upRegs : State :=
  sets [(0x1600000, 1), (0x1400000, 0x5FFC0000), (0x1330030, 0x80000100), (0x1330034, 0x80FF0000),
    (0x1401044, 0x100), (0x1401048, 0x10000), (0x1401050, 0x30106), (0x1401058, 0x40000000), (0x140105C, 1),
    (0x1401004, 0x100), (0x1401008, 0x10000), (0x1401010, 0x106), (0x1401018, 0x40000000), (0x140101C, 1)] tables

/-- A request waits in ring 0, or in ring 1 of context 3. -/
def asked (r svc op : Nat) (len : Word := 64) : State :=
  { upRegs with rings := [(r, { Ring.empty with bound := true, fetched := [(0, (svcW svc op len, 0))] })] }
/-- A request that ring 0 was taken for, and that has begun. -/
def underWay (svc op : Nat) (len : Word := 64) : State :=
  { sets [(0x1401018, 0x40000001), (0x1401020, 1)] upRegs with
    rings := [(0, { Ring.empty with bound := true, started := [(0, some { words := svcW svc op len, refused := false, result := none, doneAt := 0 })] })]
    svc := { upRegs.svc with queue := [{ ring := 0, index := 0, svc := svc, op := op, begun := true }] } }
def req (r : Nat) (arg : List Word := []) : SvcReq := { ring := r, arg := arg }

/-- The request is answered with this status, and the state satisfies a condition. -/
def serves (c : Instr) (s : State) (r st : Nat) (p : State → Bool := fun _ => true) : Bool :=
  next c s fun t => t.retired r == 1 && p t && match t.hostOut.getLast? with
    | some (.hwrite a bs) => a == 0x1000 && natLE (bs.take 4) == st
    | _ => false

theorem test_witness_Services_asked :
    (asked 0 1 0).readyDesc 0 10 = some (svcW 1 0) ∧ (asked 1 6 3).readyDesc 1 10 = some (svcW 6 3) ∧ svcHost 1 (svcW 6 3) = true
      ∧ (asked 0 1 0).up = true ∧ (asked 0 1 0).irqEn 0 = false ∧ (asked 0 1 0).linkUp 16 = true ∧ (asked 1 6 3).ctxExists 3 = true
      ∧ (asked 0 1 0).ringDev 0 = true ∧ (asked 0 1 0).jobLost = false ∧ (asked 0 1 0).diag = false ∧ svcLen (svcW 1 0) = 64
      ∧ svcKnown (svcW 10 0) = false ∧ svcKnown (svcW 1 6) = false ∧ (svcNo (svcW 9 2), svcOp (svcW 9 2)) = (9, 2) := by decide +kernel

/-- What turns a request away. -/
theorem test_services_turned_away :
    serves (.jobRelease (req 0)) (asked 0 10 0) 0 0xC0 = true
      ∧ serves (.setPhases (req 0 [0, 7])) (asked 0 7 2) 0 0xC0 = true
      ∧ serves (.create (req 1) { ctx := 5 }) (asked 1 1 0) 1 0xC1 = true
      ∧ serves (.jobRelease (req 0)) { asked 0 2 1 with setup := (sets [(0x1600000, 9)] upRegs).setup } 0 0xC1 = true
      ∧ serves (.tags (req 1 [5])) { asked 1 6 3 with setup := (sets [(0x1330030, 0)] upRegs).setup } 1 0xC3 = true
      ∧ serves (.jobRelease (req 0)) { asked 0 2 1 with cut := [9] } 0 0xC4 = true
      ∧ idle (.tags (req 1 [5])) upRegs = true ∧ idle (.tags (req 0)) (asked 0 2 1) = true := by decide +kernel

theorem test_witness_ContextService :
    serves (.create (req 0) { ctx := 63 }) (asked 0 1 0) 0 0 (fun t => t.ctxExists 63 && t.hostOut.length == 2) = true
      ∧ serves (.create (req 0) { ctx := 64 }) (asked 0 1 0) 0 0xC5 = true ∧ serves (.create (req 0) { ctx := 3 }) (asked 0 1 0) 0 0xC5 = true
      ∧ serves (.bindRing (req 0) 127 3) (asked 0 1 2) 0 0 (fun t => (t.ring 127).bound && t.ringCtx 127 == 3) = true
      ∧ serves (.bindRing (req 0) 128 3) (asked 0 1 2) 0 0xC5 = true ∧ serves (.bindRing (req 0) 5 4) (asked 0 1 2) 0 0xC5 = true
      ∧ serves (.unbindRing (req 0) 5) (asked 0 1 3) 0 0xC5 = true
      ∧ serves (.setWindow (req 0) 3 255 flat) (asked 0 1 4 72) 0 0 (fun t => t.words (t.wtBase + 0x2000 * 3 + 32 * 255) 8 == flat) = true
      ∧ serves (.setWindow (req 0) 3 256 flat) (asked 0 1 4 72) 0 0xC5 = true
      ∧ serves (.grantSpool (req 0) 3 256 16383) (asked 0 1 5) 0 0xC2 = true
      ∧ serves (.grantSpool (req 0) 3 9 8) (asked 0 1 5) 0 0xC5 = true := by decide +kernel

theorem test_grants_and_unbinds :
    serves (.grantSpool (req 0) 3 200 255) { asked 0 1 5 with setup := (sets [(0x1330004, 0), (0x1330034, 0)] upRegs).setup } 0 0
        (fun t => t.spoolRange 3 == (200, 56)) = true
      ∧ serves (.unbindRing (req 0) 1) { asked 0 1 3 with
          setup := (sets [(0x1401058, 0)] upRegs).setup
          rings := [(0, { Ring.empty with bound := true, fetched := [(0, (svcW 1 3, 0))] }), (1, { Ring.empty with bound := true })] } 0 0
        (fun t => !(t.ring 1).bound) = true
      ∧ next (.unbindRing (req 0) 1) { asked 0 1 3 with
          rings := [(0, { Ring.empty with bound := true, fetched := [(0, (svcW 1 3, 0))] }), (1, { Ring.empty with bound := true })] }
        (fun t => t.ringState 1 == 0 && t.hostOut.isEmpty) = true := by decide +kernel

theorem test_destroy :
    serves (.destroy (req 0) 3) (asked 0 1 1) 0 0 (fun t => !t.ctxExists 3 && t.spoolRange 3 == (0, 0)) = true
      ∧ serves (.destroy (req 0) 0) (asked 0 1 1) 0 0xC5 = true := by decide +kernel

def place0 : PlaceArg :=
  { job := 7, ranks := [9, 5], rank := 1, gran := true, ports := [{ lo := 1, hi := 9, peer := 9, dateline := false, jobport := true }]
    famapBase := 2, exportBase := 0, deviceId := 5, entries := [], contexts := [3] }

theorem test_witness_Place :
    serves (.place (req 0) place0) (asked 0 2 0 92) 0 0 (fun t => t.job == 7 && t.epoch == 0 && t.placed && t.deviceId == 5 && t.gran
        && t.jobPort 0 && t.reg 0x1300018 == 9 && t.ctxGlobal 3 && t.svc.rank == 1) = true
      ∧ serves (.place (req 0) { place0 with rank := 2 }) (asked 0 2 0 92) 0 0xC5 = true
      ∧ serves (.jobRelease (req 0)) (asked 0 2 1) 0 0 (fun t => !t.placed && !t.ctxGlobal 3) = true := by decide +kernel

/-- A service that answers another request takes this one, which waits; TAGS names its operand in DETAIL; an argument that is too
short, and a job's registers that are locked. -/
theorem test_witness_ServiceQueue :
    next (.tags (req 1 [5])) { asked 1 6 3 with svc := (underWay 6 0).svc } (fun t => t.svc.queue.map SvcWait.begun == [true, false]
        && t.retired 1 == 0 && t.head 1 == 1) = true
      ∧ serves (.tags (req 1 [0])) (asked 1 6 3) 1 0xC5 (fun t => match t.hostOut.getLast? with
          | some (.hwrite _ bs) => natLE ((bs.drop 4).take 4) == 32
          | _ => false) = true
      ∧ serves (.place (req 0) place0) (asked 0 2 0 91) 0 0xC0 = true
      ∧ serves (.place (req 0) place0) { asked 0 2 0 92 with setup := (sets [(0x1310010, 1)] upRegs).setup } 0 0xC5 = true
      ∧ serves (.unbindRing (req 0) 1) { underWay 1 3 with
          setup := (sets [(0x1401018, 0x40000001), (0x1401020, 1), (0x1401058, 0)] upRegs).setup
          rings := (underWay 1 3).rings ++ [(1, { Ring.empty with bound := true })] } 0 0 (fun t => !(t.ring 1).bound) = true := by
  decide +kernel

/-- DESTROY of context 3, of whose ring 1 a request has, or has not, begun. -/
def destroying (begun : Bool) : State :=
  { asked 0 1 1 with
    setup := (sets [(0x1401058, 0x40000001), (0x1401060, 1)] upRegs).setup
    rings := (asked 0 1 1).rings ++ [(1, { Ring.empty with
      bound := true, started := [(0, some { words := svcW 6 3, refused := false, result := none, doneAt := 0 })] })]
    svc := { upRegs.svc with queue := [{ ring := 1, index := 0, svc := 6, op := 3, begun := begun }] } }

theorem test_witness_DestroyWaits :
    next (.destroy (req 0) 3) (destroying true) (fun t => t.ctxExists 3 && t.svc.queue.length == 2) = true
      ∧ next (.destroy (req 0) 3) (destroying false) (fun t => !t.ctxExists 3 && t.svc.queue.isEmpty
          && t.hostOut.map (fun m => match m with
            | .hwrite _ bs => natLE (bs.take 4)
            | _ => 0) == [0xC3, 0]) = true := by decide +kernel

/-- One tree over a job of one module: a leaf that is its root. -/
def build0 : BuildArg :=
  { sharded := true, tree := 0, ctx := 3, fmt := 0, castf := false, segs := 1, leafBuf := 0x1000, pairBuf := 0x10000300000, dest := 0x2000
    spoolId := 4, trigId := 3, trigTarget := 4, trigInc := 4, step := 7 }
def job1 (op : Nat) (x : Sparse (Option TreeSet) := []) : State :=
  { asked 1 3 op 100 with
    setup := (sets [(0x1600000, 3)] upRegs).setup
    svc := { upRegs.svc with ranks := [0], trees := x } }

theorem test_witness_Trees :
    serves (.build (req 1) build0) (job1 0) 1 0 (fun t => t.svc.trees.length == 1) = true
      ∧ serves (.build (req 1) { build0 with ctx := 4 }) (job1 0) 1 0xC1 = true
      ∧ serves (.build (req 1) build0) (asked 1 3 0 100) 1 0xC5 = true
      ∧ serves (.build (req 1) build0) { job1 0 with setup := (sets [(0x1600000, 3), (0x1320008, 0)] upRegs).setup } 1 0xC2 = true
      ∧ serves (.build (req 1) { build0 with trigId := 300 }) (job1 0) 1 0xC1 = true := by decide +kernel

theorem test_tree_sets :
    serves (.collectiveArm (req 1) 0) (job1 1 [(0, some { ctx := 3, arg := build0, ids := [0], ready := true, entries := [(0, leafE)] })]) 1 0
        (fun t => t.word 0x10000200000 == 0x12000007) = true
      ∧ serves (.disarm (req 1) 0) { job1 2 [(0, some { ctx := 3, arg := build0, ids := [0], ready := true, entries := [(0, leafE)] })] with mem := [(0x10000200003, 0x12)] } 1 0
        (fun t => fld (t.word 0x10000200000) 28 4 == 0) = true
      ∧ serves (.collectiveArm (req 1) 0) (job1 1 [(0, some { ctx := 4, arg := build0, ids := [0], ready := true, entries := [] })]) 1 0xC1 = true
      ∧ serves (.disarm (req 1) 0) (job1 2) 1 0xC5 = true := by decide +kernel

/-- A tree over two modules: the request waits until the other module has told the index of its leaf. -/
def job2 (inbox : List (Nat × List Word)) : State :=
  { job1 0 with svc := { upRegs.svc with ranks := [0, 1], inbox := inbox } }
def tree0 : BuildArg := { build0 with sharded := false }

theorem test_witness_TreesWait :
    (job2 []).setWords 0 tree0 [0, 1] = none ∧ (job2 []).unbuilt = none
      ∧ next (.build (req 1) tree0) (job2 []) (fun t => t.svc.queue.map SvcWait.begun == [true] && t.unbuilt.isSome && t.retired 1 == 0) = true
      ∧ serves (.build (req 1) tree0) (job2 [(1, nodeMessage 0 0 { lo := 1, m := 1, root := false, above := none } 7)]) 1 0
          (fun t => t.svc.queue.isEmpty && t.unbuilt.isNone) = true := by decide +kernel

/-- The checkpoint of `ckArg`, asked for on ring 0. -/
theorem test_witness_CheckpointServices :
    serves (.configure (req 0) ckArg) (asked 0 4 0 84) 0 0 (fun t => (t.ckpt 0).any fun c => c.target == 4) = true
      ∧ serves (.configure (req 1) ckArg) (asked 1 4 0 84) 1 0xC1 = true
      ∧ serves (.configure (req 0) { ckArg with slotSize := 191 }) (asked 0 4 0 84) 0 0xC5 = true
      ∧ serves (.checkpointStop (req 0) 0) { asked 0 4 1 with svc := (ckpt none).svc } 0 0 (fun t => (t.ckpt 0).isNone) = true
      ∧ (asked 0 4 2).readyDesc 0 10 = some (svcW 4 2)
      ∧ serves (.query (req 1) 0) { asked 1 4 2 with svc := (ckpt none).svc } 1 0xC1 = true
      ∧ serves (.query (req 0) 0) (asked 0 4 2) 0 0xC5 = true := by decide +kernel

theorem test_witness_RecoveryServices :
    (asked 0 5 0).readyDesc 0 10 = some (svcW 5 0)
      ∧ next (.recoveryWait (req 0) 9) (asked 0 5 1) (fun t => t.svc.waits == [(0, 0, 9)] && t.head 0 == 1 && t.retired 0 == 0) = true
      ∧ serves (.abandon (req 0)) { asked 0 5 2 with setup := (sets [(0x1600000, 5)] upRegs).setup } 0 0 (fun t => !t.recovering) = true := by
  decide +kernel

theorem test_witness_NumericsServices :
    serves (.numericsEnable (req 0) 7 [0x5000]) (asked 0 6 0) 0 0 (fun t => t.svc.groups.length == 1) = true
      ∧ serves (.numericsEnable (req 0) 8 [0x5000]) (asked 0 6 0) 0 0xC5 = true
      ∧ serves (.numericsEnable (req 1) 0 []) (asked 1 6 0) 1 0xC1 = true
      ∧ serves (.numericsDisable (req 0) 0) { asked 0 6 1 with svc := (numbered 5 9).svc } 0 0 (fun t => t.svc.groups.isEmpty) = true
      ∧ serves (.numericsDisable (req 1) 0) { asked 1 6 1 with svc := (numbered 5 9).svc } 1 0xC1 = true
      ∧ serves (.numericsDisable (req 0) 1) (asked 0 6 1) 0 0xC5 = true
      ∧ serves (.drogue (req 0) 4095 0xFFFFFFFF) { asked 0 6 2 with setup := (sets [(0x1320020, 0x1000030)] upRegs).setup } 0 0
          (fun t => t.word (t.drogueBase + 128 * 4095) == 0x9F0FFF1F) = true
      ∧ serves (.drogue (req 0) 4096 0) (asked 0 6 2) 0 0xC5 = true ∧ serves (.drogue (req 1) 5 0) (asked 1 6 2) 1 0xC1 = true := by
  decide +kernel

theorem test_witness_Tags :
    serves (.tags (req 1 [4095])) (asked 1 6 3) 1 0 (fun t => t.reg 0x133003C == 0x8FFF0001) = true
      ∧ serves (.tags (req 1 [4096])) (asked 1 6 3) 1 0xC5 = true ∧ serves (.tags (req 1 [0])) (asked 1 6 3) 1 0xC5 = true
      ∧ serves (.tags (req 1 [1])) { asked 1 6 3 with setup := (sets [(0x133003C, 0x80050005)] upRegs).setup } 1 0xC5 = true
      ∧ serves (.tags (req 1 [1])) { asked 1 6 3 with setup := (sets [(0x133001C, 0x8FFF0001)] upRegs).setup } 1 0xC2 = true := by
  decide +kernel

theorem test_witness_PowerServices :
    serves (.setCap (req 0 [500, 0xFFFFFE0B])) (asked 0 7 0) 0 0 (fun t => t.swCap == 500 && t.effCap == 500) = true
      ∧ serves (.setCap (req 0 [499, 0xFFFFFE0C])) (asked 0 7 0) 0 0xC5 = true ∧ serves (.setCap (req 0 [500, 0])) (asked 0 7 0) 0 0xC5 = true
      ∧ serves (.setMode (req 0 [1])) (asked 0 7 1) 0 0 (fun t => t.reg 0x1500010 == 1) = true
      ∧ serves (.setPhases (req 0 [15, 1, 0x66666666])) (asked 0 7 2) 0 0 (fun t => t.reg 0x150007C == 0x66666666) = true
      ∧ serves (.setPhases (req 0 [15, 1, 7])) (asked 0 7 2) 0 0xC5 = true ∧ serves (.setPhases (req 0 [15, 2, 0])) (asked 0 7 2) 0 0xC5 = true
      ∧ serves (.setPhases (req 0 [16, 0, 0])) (asked 0 7 2) 0 0xC5 = true
      ∧ serves (.readPower (req 0)) (asked 0 7 3) 0 0 (fun t => t.hostOut.length == 2) = true := by decide +kernel

/-- A cap that does not match its complement, one out of range, and codes that are not divider codes are recorded and counted. -/
theorem test_witness_PowerRefusals :
    serves (.setCap (req 0 [500, 0])) (asked 0 7 0) 0 0xC5 (fun t => t.reg 0x150018C == 1
        && (t.latch 0x655).first.any fun r => r.cls == 3 && r.cause == 4) = true
      ∧ serves (.setCap (req 0 [499, 0xFFFFFE0C])) (asked 0 7 0) 0 0xC5 (fun t => t.reg 0x150018C == 1
        && (t.latch 0x648).first.any fun r => r.cls == 7 && r.cause == 5) = true
      ∧ serves (.setPhases (req 0 [15, 1, 0x70])) (asked 0 7 2) 0 0xC5 (fun t => t.reg 0x150018C == 1
        && (t.latch 0x649).first.any fun r => r.cls == 7 && r.cause == 1) = true := by decide +kernel

/-- Ring 1 is inside a collective: a lower cap waits, and is in force 200,000 counts later. -/
def inColl : State :=
  { asked 0 7 0 with
    rings := [(0, { Ring.empty with bound := true, fetched := [(0, (svcW 7 0, 0))] }), (1, { Ring.empty with bound := true, coll := true })] }

theorem test_caps_deferred :
    inColl.insideColl = true
      ∧ serves (.setCap (req 0 [600, 0xFFFFFDA7])) inColl 0 0 (fun t => t.capPending && t.power.deadline == 200000 && t.swCap == 600) = true
      ∧ next .capDeferralExpiry { sets [(0x150000C, 0x2580258)] .reset with
          lcount := 200000, power := { Power.atReset with deadline := 200000 } } (fun t => !t.capPending) = State.reset.capPending.not
      ∧ idle .capDeferralExpiry .reset = true := by decide +kernel

def open0 : StreamArg :=
  { base := 0x6000, slots := 2, slotSize := 64, staging := 20, consumer := 21, release := 22, nodes := [(1, 3, 0x40)] }

theorem test_witness_StreamServices :
    serves (.openStream (req 1) open0) (asked 1 8 0 68) 1 0 (fun t => (t.stream 0).isSome) = true
      ∧ serves (.openStream (req 1) { open0 with release := 256 }) (asked 1 8 0 68) 1 0xC1 = true
      ∧ serves (.openStream (req 1) { open0 with slotSize := 63 }) (asked 1 8 0 68) 1 0xC5 = true
      ∧ serves (.closeStream (req 0) 0) { asked 0 8 1 with svc := (relay 0 0 []).svc } 0 0 (fun t => (t.stream 0).isNone) = true
      ∧ serves (.closeStream (req 1) 0) { asked 1 8 1 with svc := (relay 0 0 []).svc } 1 0xC1 = true
      ∧ serves (.closeStream (req 1) 0) (asked 1 8 1) 1 0xC5 = true := by decide +kernel

theorem test_witness_Diagnostics :
    serves (.enter (req 0)) (asked 0 9 0) 0 0 (fun t => t.diag) = true
      ∧ serves (.exit (req 0)) { asked 0 9 1 with setup := (sets [(0x1600000, 9)] upRegs).setup } 0 0 (fun t => !t.diag) = true
      ∧ serves (.selftest (req 0 [7])) (asked 0 9 2) 0 0xC1 = true
      ∧ serves (.selftest (req 0 [7])) { asked 0 9 2 with setup := (sets [(0x1600000, 9)] upRegs).setup } 0 0
          (fun t => t.resets.chip == some .selfTest && t.resets.flags == 7) = true
      ∧ next (.enter (req 0)) { asked 0 9 0 with launches := [(0, some { launch2 with ctx := 3 })] } (fun t => !t.diag
          && t.svc.queue == [{ ring := 0, index := 0, svc := 9, op := 0, begun := true }] && t.head 0 == 1 && t.retired 0 == 0) = true
      ∧ serves (.enter (req 0)) (underWay 9 0) 0 0 (fun t => t.diag && t.svc.queue.isEmpty) = true := by decide +kernel

/-- TAGS with its argument in device memory at 0x2000, from ring 1 of context 3. -/
def tagsHere : State :=
  let w : List Word := descr 10 0 [0x603, 0x2000, 0, 0xFFFFDFFF, 0xFFFFFFFF, 64, 0xFFFFFFBF]
  { upRegs with
    rings := [(1, { Ring.empty with bound := true, fetched := [(0, (w, 0))] })], wcache := [(98307, some [flat])], mem := [(0x2020, 5)] }

/-- DETAIL of the answer is free, so that only what the request rests on is evaluated. -/
theorem test_witness_Services_here :
    (tagsHere.readyDesc 1 10).any (fun w => svcNo w == 6 && svcOp w == 3 && svcLen w == 64 && svcArg w == 0x2000 && !svcHost 1 w) = true
      ∧ tagsHere.ringCtx 1 = 3 ∧ findWindow [flat] 0x2000 = some flat ∧ tagsHere.word 0x2020 = 5 ∧ tagsHere.tagsTaken 1 5 = false
      ∧ bitAt (tagsHere.reg 0x133003C) 31 = false := by decide +kernel

/-! ## Power and monitors (spec/16, spec/18) -/

/-- A module that is UP with every partition at divide by `code`, at a count that is due, with these PART_STATUS words. -/
def powered (code : Nat) (now : DWord) (st : List (Nat × Word) := []) (f : Power → Power := id) : State :=
  { sets ((0x1600000, 1) :: st) .reset with
    lcount := now
    power := f { Power.atReset with parts := (List.range 8).map fun p => (p, { Partition.atReset with code := code, rail := 750 }) } }
/-- `powered` with partition 7 as given. -/
def powered7 (now : DWord) (x : Partition) : State := powered 1 now [] fun f => { f with parts := [(7, x)] }
def watts (est : Nat) (raised : Nat := 0) : PowerReading :=
  { est := est, part := [9, 9, 9, 9, 9, 9, 9, 8], ifRaised := List.replicate 8 raised }

theorem test_witness_Evaluates :
    (powered 1 1000).effCap = 1350 ∧ (powered 1 1000).up = true ∧ (powered 1 1000).decided 7 = 1
      -- just above the cap: the partition with the highest estimate and id falls; one count or watt less changes nothing
      ∧ next (.powerEvaluation (watts 1351)) (powered 1 1000) (fun t => t.reg 0x1500098 == 0x111FFF00 && t.reg 0x150009C == 0x11FFFF00
          && (t.part 6).toCode == none && t.power.lastStep == some 1000) = true
      ∧ next (.powerEvaluation (watts 1351)) (powered 1 1000 [(0x1500098, 0x111FFF00), (0x150009C, 0x112FFF00)])
          (fun t => t.reg 0x1500098 == 0x112FFF00 && t.reg 0x150009C == 0x112FFF00 && (t.part 6).toCode == some 2) = true
      ∧ next (.powerEvaluation (watts 1350)) (powered 1 1000) (fun t => t.setup == (powered 1 1000).setup && t.power.lastStep == none) = true
      ∧ idle (.powerEvaluation (watts 1351)) (powered 1 999) = true ∧ idle (.powerEvaluation (watts 1351)) .reset = true
      ∧ idle (.powerEvaluation (watts 1351)) (powered 1 1000 [] fun x => { x with lastEval := some 1000 }) = true := by decide +kernel

/-- Partition 3 is held at divide by 4 by its cap ceiling; a raise that stays within 97 per cent of the cap is taken. -/
theorem test_power_up :
    next (.powerEvaluation (watts 600 1309)) (powered 1 1000 [(0x150008C, 0x114FFF00)]) (fun t => t.reg 0x150008C == 0x113FFF00) = true
      ∧ next (.powerEvaluation (watts 600 1310)) (powered 1 1000 [(0x150008C, 0x114FFF00)]) (fun t => t.reg 0x150008C == 0x114FFF00) = true
      ∧ next (.powerEvaluation (watts 600 1309)) (powered 1 1000 [(0x150008C, 0x114FFF00)] fun x => { x with lastStep := some 5 })
          (fun t => t.reg 0x150008C == 0x114FFF00) = true
      ∧ next (.powerEvaluation (watts 1309)) (powered 1 1000 [] fun x => { x with duty := 7 }) (fun t => t.power.duty == 8) = true
      ∧ next (.powerEvaluation (watts 1310)) (powered 1 1000 [] fun x => { x with duty := 7 }) (fun t => t.power.duty == 7) = true := by
  decide +kernel

/-- Every cap ceiling at divide by 16: the duty falls. -/
theorem test_power_duty :
    next (.powerEvaluation (watts 1351)) (powered 6 1000 ((List.range 8).map fun p => (0x1500080 + 4 * p, 0x616FFF00)))
      (fun t => t.power.duty == 7) = true := by decide +kernel

theorem test_witness_Dividers :
    next (.dividerChange 7) (powered7 0 { Partition.atReset with code := 1, toCode := some 2 })
        (fun t => (t.part 7).code == 2 && t.reg 0x150009C == 0x21FFFF00 && t.reg 0x1500178 == 1 && (t.part 7).ramping) = true
      ∧ next (.dividerChange 7) (powered7 0 { Partition.atReset with code := 2, toCode := some 1, rail := 750 })
        (fun t => (t.part 7).code == 1 && !(t.part 7).ramping) = true
      -- up only after the rail has settled at the new voltage
      ∧ idle (.dividerChange 7) (powered7 0 { Partition.atReset with code := 2, toCode := some 1, rail := 749 }) = true
      ∧ idle (.dividerChange 7) (powered7 0 { Partition.atReset with code := 2, toCode := some 1, rail := 750, ramping := true }) = true
      ∧ idle (.dividerChange 7) .reset = true ∧ idle (.railSettled 8) .reset = true
      ∧ idle (.droopReset 7 0) absent7 = true ∧ idle (.droopWarning 8 0) .reset = true
      ∧ next (.railSettled 7) (powered7 0 { Partition.atReset with code := 3, toCode := some 2, guard := 5, ramping := true })
        (fun t => (t.part 7).rail == 715 && !(t.part 7).ramping) = true := by decide +kernel

/-- A guard of 40 mV at 800 mV falls as soon as the neighbour's rail goes down to 620 mV: 820 mV is what R344 leaves. -/
theorem test_guard_refit :
    let s : State := powered 1 0 [] fun f => { f with parts :=
      [(0, { Partition.atReset with code := 0, guard := 40, fullGuard := 40 }),
        (1, { Partition.atReset with code := 4, toCode := some 5 }), (2, { Partition.atReset with code := 0 })] }
    next (.dividerChange 1) s (fun t => (t.part 0).guard == 20 && (t.part 0).fullGuard == 40 && (t.part 0).ramping) = true := by decide +kernel

/-- A step up to 750 mV waits while the clock is stretched; one that has started goes on. -/
theorem test_step_up :
    let at' (x : Partition) : State := powered7 1000 { Partition.atReset with code := 2, stretching := x.stretching, toCode := x.toCode }
    let goesTo (s : State) (c : Option Nat) : Bool := next (.powerEvaluation (watts 1350)) s fun t => (t.part 7).toCode == c
    goesTo (at' Partition.atReset) (some 1) = true ∧ goesTo (at' { Partition.atReset with stretching := true }) none = true
      ∧ goesTo (at' { Partition.atReset with stretching := true, toCode := some 1 }) (some 1) = true := by decide +kernel

/-- 94 per cent of 750 mV is 705 mV, 85 per cent is 637.5 mV; at divide by 8 (800 mV) they are 752 and 680 mV. -/
theorem test_witness_Droops :
    next (.droopWarning 7 704) (powered 1 9) (fun t => (t.part 7).stretching && (t.part 7).below) = true
      ∧ idle (.droopWarning 7 705) (powered 1 9) = true
      ∧ next (.droopWarning 7 751) (powered 0 9) (fun t => (t.part 7).stretching) = true
      -- during a ramp down from divide by 8 the lower voltage counts once the point is in force
      ∧ idle (.droopWarning 7 705) (powered7 9 { Partition.atReset with code := 1, ramping := true, rail := 800 }) = true
      ∧ next (.droopWarning 7 705) (powered7 9 { Partition.atReset with code := 1, stretching := true, below := true })
        (fun t => (t.part 7).stretching && !(t.part 7).below && (t.part 7).aboveSince == 9) = true
      ∧ idle (.droopReset 7 638) (powered 1 9) = true
      ∧ next (.droopReset 7 637) (powered 1 9) (fun t => t.resets.parts == [7] && (t.latch 0x64F).first.any fun r => r.cls == 8 && r.cause == 3) = true
      ∧ next (.droopHoldExpiry 7) (powered7 1009 { Partition.atReset with stretching := true, aboveSince := 9 })
        (fun t => !(t.part 7).stretching && t.reg 0x1500170 == 1 && (t.latch 0x64F).first.isSome) = true
      ∧ next (.droopHoldExpiry 7) (powered7 1009 { Partition.atReset with stretching := true, aboveSince := 9, lastDroop := some 8 })
        (fun t => !(t.part 7).stretching && (t.latch 0x64F).first.isNone) = true
      ∧ idle (.droopHoldExpiry 7) (powered7 1008 { Partition.atReset with stretching := true, aboveSince := 9 }) = true
      ∧ idle (.droopHoldExpiry 7) (powered7 1009 { Partition.atReset with stretching := true, aboveSince := 9, below := true }) = true
      ∧ idle (.droopHoldExpiry 7) .reset = true := by decide +kernel

/-- Eight windows apart, and a thousand that agree; 15 per cent of 1,000 is not apart. -/
theorem test_witness_Telemetry :
    next (.telemetryWindow 1000 (some 850)) (powered 1 100000) (fun t => t.power.agree == 1 && t.reg 0x1500018 == 0x035203E8) = true
      ∧ next (.telemetryWindow 1000 (some 849)) (powered 1 100000) (fun t => t.power.disagree == 1 && !t.power.useMax) = true
      ∧ next (.telemetryWindow 1000 none) (powered 1 100000 [] fun x => { x with disagree := 7 }) (fun t => t.power.useMax
          && fld (t.reg 0x1500080) 16 4 == 2 && t.reg 0x1500180 == 1) = true
      ∧ next (.telemetryWindow 1000 (some 1000)) (powered 1 100000 [(0x1500080, 0x11F2FF00)] fun x => { x with agree := 999, useMax := true })
          (fun t => !t.power.useMax && fld (t.reg 0x1500080) 16 4 == 15) = true
      ∧ idle (.telemetryWindow 1000 none) (powered 1 99999) = true := by decide +kernel

/-- Two junction sensors of each partition, `v` the hotter one of partition 0 where it is valid. -/
def heat (v : Option Nat) (rest : Nat := 50) : List (List (Option Nat)) := [v.map fun n => n - 1, v] :: List.replicate 7 [some rest, none]

theorem test_witness_Senses :
    next (.sensorSample (heat (some 95) 95) []) (powered 1 100) (fun t => fld (t.reg 0x1500080) 12 4 == 2 && (t.part 0).hot == some (100, 0)
          && fld (t.reg 0x1500080) 0 8 == 95) = true
      ∧ next (.sensorSample (heat (some 94) 94) []) (powered 1 100) (fun t => fld (t.reg 0x1500080) 12 4 == 15 && (t.part 0).hot == none) = true
      ∧ next (.sensorSample (heat none) []) (powered 1 100) (fun t => fld (t.reg 0x1500080) 12 4 == 6 && (t.part 0).invalid
          && (t.latch 0x648).first.any fun r => r.cls == 8 && r.cause == 4) = true
      ∧ next (.sensorSample (heat (some 76)) []) (powered 1 100) (fun t => fld (t.reg 0x1500080) 8 4 == 2) = true
      ∧ next (.sensorSample (heat (some 75)) []) (powered 1 100) (fun t => fld (t.reg 0x1500080) 8 4 == 15) = true
      -- one valid sensor is enough, and the ceiling that stood before a spell without one comes back
      ∧ next (.sensorSample ([none, some 60] :: (heat none).drop 1) []) (powered 1 100 [(0x1500080, 0x11FF6F00)] fun x => { x with
          parts := [(0, { Partition.atReset with code := 3, invalid := true, savedTh := 3, hot := some (0, 9), cool := some (0, 9) })] })
          (fun t => fld (t.reg 0x1500080) 12 4 == 3 && !(t.part 0).invalid && (t.part 0).hot == none && (t.part 0).cool == some (100, 0)) = true
      ∧ next (.sensorSample (heat none) []) (powered 1 100 [(0x1500080, 0x11FF3F00)]) (fun t => fld (t.reg 0x1500080) 12 4 == 6
          && (t.part 0).savedTh == 3) = true
      ∧ next (.sensorSample (heat none) [84]) { sets [(0x1600000, 0)] (powered 1 300) with
            start := { (powered 1 300).start with tripWait := true, running := true, since := 7 } }
          (fun t => !t.start.tripWait && t.start.since == 300 && t.mgmt.hottest == 84) = true
      ∧ next (.sensorSample (heat none) [110]) (powered 1 100) (fun t => t.resets.chip == some .thermalTrip && t.start.tripWait) = true
      ∧ next (.sensorSample (heat (some 50)) [109]) (powered 1 100) (fun t => t.resets.chip == none && t.mgmt.hottest == 109) = true
      ∧ idle (.sensorSample [] [110]) (powered 1 99) = true := by decide +kernel

theorem test_heat_episodes :
    next (.sensorSample (heat (some 95) 95) []) (powered 1 100100 [(0x1500080, 0x11FF2F00)] fun x => { x with
        parts := [(0, { Partition.atReset with code := 2, hot := some (100, 0) })] })
      (fun t => fld (t.reg 0x1500080) 12 4 == 3 && (t.part 0).hot == some (100, 1)) = true
      ∧ next (.sensorSample (heat (some 90) 90) []) (powered 1 1000100 [(0x1500080, 0x11FF3F00)] fun x => { x with
        parts := [(0, { Partition.atReset with code := 3, cool := some (100, 0) })] }) (fun t => fld (t.reg 0x1500080) 12 4 == 2) = true
      ∧ next (.sensorSample (heat (some 90) 90) []) (powered 1 1000000 [(0x1500080, 0x11FF3F00)] fun x => { x with
        parts := [(0, { Partition.atReset with code := 3, cool := some (100, 0) })] }) (fun t => fld (t.reg 0x1500080) 12 4 == 3) = true := by
  decide +kernel

/-- A thread engine of core 0 with work of context 0's group, its last progress 100,000 counts ago, and the ladder at a level. -/
def hung (now : DWord) (g : List Rung) : State :=
  { run votes with
    lcount := now, progress := [(unitKey (.thread 0), now - 100000)]
    resets := { Resets.none with rungs := g }, cores := [(0, { Core.idle with blocks := [(0, some (blockOf 3 votes))] })] }
def rungAt (level : Nat) : Rung := { unit := .thread 0, level := level, since := 0, ctxs := [3] }

theorem test_witness_EngineHang :
    let expire : Instr := .engineHang (.thread 0) 100000
    (hung 100009 []).engineWorks (.thread 0) = true ∧ (hung 9 []).hangLimit (.thread 0) = 100000 ∧ (hung 9 []).hangLimit (.stream 0) = 1000000
      ∧ (hung 100009 []).monitor (.thread 0) = 100000 ∧ (hung 100009 []).monitor (.stream 0) = 100009
      ∧ next expire (hung 100009 []) (fun t => t.resets.contexts == [3]
          && (t.latch 0).first.any fun r => r.cls == 10 && r.cause == 4) = true
      ∧ next expire (hung 99999999 [rungAt 1]) (fun t => t.resets.engines == [.thread 0]) = true
      ∧ next expire (hung 100000000 [rungAt 1]) (fun t => t.resets.contexts == [3] && t.resets.engines.isEmpty) = true
      ∧ next expire (hung 100009 [rungAt 2]) (fun t => t.resets.parts == [0]) = true
      ∧ next expire (hung 100009 [rungAt 3]) (fun t => t.resets.chip.isSome
          && (t.latch 0x658).first.any fun r => r.cls == 16 && r.cause == 4) = true
      ∧ idle (.engineHang (.thread 0) 99999) (hung 100009 []) = true ∧ idle (.engineHang (.thread 0) 100001) (hung 100009 []) = true
      ∧ idle (.engineHang (.thread 1) 100000) (hung 100009 []) = true
      -- short of the limit, though measured right
      ∧ idle (.engineHang (.thread 0) 99999) { hung 100009 [] with progress := [(unitKey (.thread 0), 10)] } = true := by
  decide +kernel

theorem test_witness_Escalation :
    let s : DWord → State := fun now => { hung now [rungAt 1] with resets := { Resets.none with rungs := [rungAt 1], contexts := [3] } }
    next (.escalationTimeout (.thread 0)) (s 1000000) (fun t => t.resets.engines == [.thread 0]) = true
      ∧ idle (.escalationTimeout (.thread 0)) (s 999999) = true ∧ idle (.escalationTimeout (.thread 1)) (s 1000000) = true
      ∧ next (.engineHang (.thread 0) 100000) (sets [(0x160002C, 0)] (hung 100009 [])) (fun t => t.resets.contexts.isEmpty) = true := by
  decide +kernel

/-- Ring 1's PAYLOAD_WAIT began at 5 and the limit is 100 counts: it is reported after 100 counts and at each doubling, up to 6,400. -/
theorem test_witness_WaitMonitor :
    let s (now : DWord) : State := { sets [(0x1600020, 100)] (begun []) with
      lcount := now, rings := [(1, { Ring.empty with waiting := some 0, waitSince := 5 })] }
    (begun []).waitBegan (.ring 1) = none ∧ (s 6405).waitBegan (.ring 1) = some 5
      ∧ next (.waitMonitorExpiry (.ring 1) 6400) (s 6405)
          (fun t => (t.latch 0x641).first.any fun r => r.cls == 10 && r.cause == 8) = true
      ∧ idle (.waitMonitorExpiry (.ring 1) 6400) (s 6406) = true ∧ idle (.waitMonitorExpiry (.ring 1) 12800) (s 12805) = true
      ∧ idle (.waitMonitorExpiry (.ring 1) 150) (s 155) = true
      ∧ idle (.waitMonitorExpiry (.ring 1) 100000000) .reset = true := by decide +kernel

/-- A sub-group of the group that waits at a counter since 7. -/
theorem test_witness_WaitMonitor_sub :
    let s : State := { hung 107 [] with
      setup := (sets [(0x1600020, 100)] .reset).setup
      cores := [(0, { Core.idle with blocks := [(0, some { blockOf 3 votes with
        groups := (blockOf 3 votes).groups.map fun g => (g.1, { g.2 with
          subs := g.2.subs.map fun x => { x with wait := .spool 2 1, since := 7 } }) })] })] }
    s.engineWorks (.thread 0) = false
      ∧ next (.waitMonitorExpiry (.sub 0 0 0 0) 100) s (fun t => (t.latch 0).first.any fun r => r.cls == 10 && r.cause == 8) = true := by
  decide +kernel

/-! ## Resets and starts (spec/17, spec/18) -/

/-- Context 3 with a bound ring, a block, a launch, a request, counters 254 and 255, and a reset asked for. -/
def resetting : State :=
  { sets [(0x1330034, 0x80FF00FE), (0x1401050, 0x30106), (0x1401058, 0x40000000), (0x1401060, 7), (0x1330040, 0x80000000)] fabric with
    spool := [(253, 9), (254, 9)]
    rings := [(1, { Ring.empty with bound := true })]
    cores := [(0, { Core.idle with blocks := [(0, some (blockOf 3 votes))] })]
    launches := [(0, some { launch2 with ctx := 3 })]
    reqs := [(5, some { ptype := 2, dst := 1, ctx := 3, owner := .store 0 0 0, addr := 0, since := 0, org := .none, acq := false, stale := false, noFill := false })]
    resets := { Resets.none with contexts := [3] } }

theorem test_witness_ContextReset :
    next (.contextReset 3) resetting (fun t => t.resets.contexts.isEmpty && t.ringState 1 == 0 && t.head 1 == 7 && !(t.ring 1).bound
        && (t.launchOf 0).isNone && (t.block 0 0).isNone && t.reqs.all (fun q => q.2.any fun r => r.owner == .gone 0) && t.spoolVal 254 == 0 && t.spoolVal 253 == 9) = true := by
  decide +kernel

theorem test_context_reset_more :
    next (.contextReset 3) (sets [(0x160002C, 0x100)] resetting) (fun t => t.resets.chip.isSome && !t.ctxGlobal 3 && t.ctxExists 3
        && t.ctxExists 4 && (t.latch 0x650).first.any fun r => r.cls == 11 && r.cause == 1) = true
      ∧ idle (.contextReset 4) resetting = true ∧ idle (.contextReset 3) .reset = true := by decide +kernel

/-- Engines with work, and their resets asked for. -/
def engines (u : EngineUnit) : State := { factoring (factorJob 0) with resets := { Resets.none with engines := [u] } }

theorem test_witness_EngineReset :
    next (.engineReset (.factor 0)) (engines (.factor 0)) (fun t => (t.factorQueue 0).isEmpty && t.resets.engines.isEmpty
        && t.resets.chip.isSome && (t.latch 0x650).first.any fun r => r.cls == 11 && r.cause == 2) = true
      ∧ next (.engineReset (.stream 0)) { engines (.stream 0) with
            cores := [(0, { Core.idle with copies := [copy0] })] } (fun t => (t.core 0).copies.isEmpty) = true
      ∧ next (.engineReset (.adder 32)) { engines (.adder 32) with tables := { Tables.empty with lines := [(32, 1, 0x10000300080), (33, 2, 0)] } }
          (fun t => t.tables.lines == [(33, 2, 0)]) = true
      ∧ next (.engineReset (.array 0 0)) { engines (.array 0 0) with
            cores := [(0, { Core.idle with arrays := Core.idle.arrays.map fun x => { x with shape := 3 } })] }
          (fun t => (((t.core 0).array 0).shape, ((t.core 0).array 1).shape) == (0, 3)) = true
      ∧ idle (.engineReset (.adder 32)) .reset = true := by decide +kernel

def partReset : State :=
  { sets [(0xA80000, 5), (0x1070004, 5)] .reset with
    cores := [(1344, { Core.idle with blocks := [(0, some (blockOf 3 votes))] })]
    resets := { Resets.none with parts := [7] }
    power := { Power.atReset with parts := [(7, { Partition.atReset with code := 2, guard := 5, asleep := true })] } }

theorem test_witness_PartitionReset :
    next (.partitionReset 7) partReset (fun t => t.resets.parts.isEmpty
        && (t.core 1344).held.isEmpty && t.reg 0xA80000 == regReset 0xA80000 && (t.part 7).code == 6 && (t.part 7).guard == 0 && !(t.part 7).asleep) = true
      -- CL_CTRL is as it was last written
      ∧ next (.partitionReset 7) { partReset with svc := { partReset.svc with clCtrl := [(84, 0)] } } (fun t => t.reg 0xA80000 == 0) = true
      ∧ idle (.partitionReset 7) .reset = true ∧ idle (.partitionReset 6) partReset = true := by decide +kernel

/-- The start at step `n`, and what a passing step brings. -/
def atStep (n : Nat) (now : DWord := 0) : State := { State.reset.setKreg 0 (BitVec.ofNat 32 (0x10000000 * n)) with lcount := now }

/-- Moored at S7, with host bytes of this length to read at 0x5000 and the Sornal link up or down. -/
def moored7 (len : Word) (up : Word := 0x5FFC0000) : State :=
  { sets [(0x1400818, 0x5000), (0x1400820, len), (0x1400000, up)] (atStep 7) with start := { Start.first with moored := true, running := false } }

theorem test_witness_ChipReset :
    next (.chipReset .watchdog 5) { resetting with
        resets := { Resets.none with chip := some .watchdog }, mem := [(5, 5)] }
      (fun t => t.kreg 0xC == 2 && t.cores.isEmpty && t.spool.isEmpty && t.rings.isEmpty && !t.up && !t.ctxExists 3 && t.swCap == 1350
        && t.startSeq == 1 && t.start.kind == 1 && t.startStep == 0 && t.byte 5 == 5 && t.resets.chip.isNone
        && t.mgmt.mid == 5) = true
      -- a PERSIST_IMAGE under way leaves no image; the record stays
      ∧ next (.chipReset .mooredCommand 5) { moored7 4 with
            resets := { Resets.none with chip := some .mooredCommand }, hreads := [(0, some .moored)]
            start := { Start.first with moored := true, moorJob := 3, flash := [(5, 6), (0x1000000, 7)] } }
          (fun t => t.start.flash == [(5, 6)] && t.start.imageWritten) = true
      ∧ idle (.chipReset .watchdog 5) { State.reset with resets := { Resets.none with chip := some .selfTest } } = true
      ∧ idle (.chipReset .watchdog 5) .reset = true := by decide +kernel

theorem test_witness_PowerCycle :
    next .powerCycleRequest { State.reset with resets := { Resets.none with cycle := true } } (fun t => bitAt (t.kreg 8) 1 && t.start.moored
        && (t.latch 0x658).first.any fun r => r.cls == 16 && r.cause == 5) = true
      ∧ idle .powerCycleRequest .reset = true
      ∧ next (.watchdogExpiry 7) (atStep 8 10000000) (fun t => t.resets.chip == some .watchdog && bitAt t.mgmt.modStatus 9
          && fld (t.kreg 0x40) 16 16 == 0x1002 && fld (t.kreg 0x50) 0 16 == 7) = true
      ∧ idle (.watchdogExpiry 8) (atStep 8 10000000) = true ∧ idle (.watchdogExpiry 0) (atStep 7 10000000) = true
      ∧ idle (.watchdogExpiry 0) (atStep 8 9999999) = true
      -- a core that has answered a request since has checked in
      ∧ idle (.watchdogExpiry 7) { atStep 8 10000000 with svc := { Services.empty with checkin := [(7, 1)] } } = true := by decide +kernel

/-- The start's places, in bonded DRAM of die 0. -/
def places0 : Places :=
  { lmap := 0x10000100000, errBase := 0x1000400, wt := 0x1001000, nt := 0x1002000, ntSize := 1048577, gt := 0x1004000, gtSize := 4097
    ut := 0x1005000, utSize := 65537, drogue := 0x1006000 }
def passes (c : Instr) (n : Nat) (p : State → Bool) (s : State := atStep n) : Bool := next c s fun t => t.startStep == n + 1 && p t

theorem test_witness_StepsPass :
    let c : Instr := .selfTestStepEnd (.pass [] places0)
    passes c 0 (fun t => t.mgmt.pwrgd) = true ∧ passes c 1 (fun t => t.diag && (t.part 7).rail == 800 && t.reg 0x150009C == 0x01FFFF00) = true ∧ passes c 2 (fun _ => true) = true
      ∧ passes (.selfTestStepEnd (.pass [(1535, 0xFFFFFFFF)] places0)) 3 (fun t => t.reg 0x1342FF8 == 0xCFCFCF && t.reg 0x1342FFC == 0xFF303030) = true
      ∧ passes c 4 (fun t => t.mem == [(0x1000, 5)]) (s := { atStep 4 with mem := [(0x1000, 5), (0x10000001000, 5)] }) = true
      ∧ passes c 5 (fun t => t.mem == [(0x10000001000, 5)]) (s := { atStep 5 with mem := [(0x1000, 5), (0x10000001000, 5)] }) = true
      ∧ passes c 6 (fun t => t.start.s6Passed) (s := { sets ((0x1400000, 0x5FFC0000) :: (List.range 16).map fun k => (0x1300020 + 0x100 * k, 0x70000000))
          .reset with keeper := (atStep 6).keeper }) = true
      ∧ passes c 7 (fun t => t.mem.isEmpty) = true := by decide +kernel

theorem test_witness_StepsEnd :
    let s : State := dram (atStep 8)
    let c (p : Places) : Instr := .selfTestStepEnd (.pass [] p)
    s.placesOk places0 = true
      ∧ next (c places0) s (fun t => t.up && !t.start.running && t.reg 0x1320000 == 0x1001000 && t.reg 0x1320008 == 1048576
        && t.reg 0x1320010 == 4096 && t.reg 0x1320018 == 65536 && t.reg 0x132003C == 1 && t.start.mapGen == 1) = true
      -- a place off its line, in LPDDR6, or without DRAM in service
      ∧ idle (c { places0 with lmap := 0x10000100020 }) s = true ∧ idle (c { places0 with wt := 1 }) s = true ∧ idle (c places0) (atStep 8) = true
      ∧ idle (c places0) (atStep 6) = true
      ∧ idle (c places0) { atStep 0 with start := { Start.first with tripWait := true } } = true := by decide +kernel

/-- Port 3 of S6 stayed DOWN: the journal keeps each port's own word; HOLD stops the start; a written record that is no record fails S1. -/
theorem test_steps_end_more :
    let six : State := { sets ((0x1400000, 0x5FFC0000) :: (List.range 16).map fun k => (0x1300020 + 0x100 * k, if k = 3 then 0x70FF0000 else 0x70000000))
      .reset with keeper := (atStep 6).keeper }
    let c : Instr := .selfTestStepEnd (.pass [] places0)
    six.trained = true
      ∧ next c six (fun t => (t.start.journal.head?).any fun e => e.ports.getD 3 0 == 0x70FF0000 && e.ports.getD 4 0 == 0x70000000 && e.ports.length == 16) = true
      ∧ next c { six with start := { six.start with holdNow := true } } (fun t => t.start.moored && t.startState == 3 && t.startDetail == 0xF1) = true
      ∧ idle (.selfTestStepEnd (.fail 0x61 0xFFFF 0 0)) six = true
      ∧ next (.selfTestStepEnd (.fail 0x61 0xFFFF 0 0)) (atStep 6) (fun t => t.startState == 3 && t.startDetail == 0x61) = true
      ∧ next c { atStep 1 with start := { Start.first with recordWritten := true } } (fun t => t.startState == 3 && t.startDetail == 0x12) = true
      -- a fallback of S3 bypasses column 5 of array D of core 2
      ∧ next (.selfTestStepEnd (.pass [(2, 0xCF00)] places0)) { atStep 3 with start := { Start.first with narrow := [(2, 1, 5)] } }
          (fun t => t.reg 0x1340010 == 0xCF00) = true
      ∧ next (.selfTestStepEnd (.pass [(2, 0xF)] places0)) { atStep 3 with start := { Start.first with narrow := [(2, 1, 5)] } }
          (fun t => t.reg 0x1340010 == 0x450F && t.reg 0x1340014 == ~~~ 0x450F) = true := by decide +kernel

/-- S2 without its unit goes to the moored state, with partition 7 to a fallback; S0's limit is 100 ms. -/
theorem test_witness_StepsFail :
    next (.selfTestStepEnd (.fail 0x21 0xFFFF 0 0)) (atStep 2) (fun t => t.start.moored && t.startState == 3 && t.startDetail == 0x21
        && t.resets.chip.isNone) = true
      ∧ next (.selfTestStepEnd (.fail 0x21 7 0 0)) (atStep 2) (fun t => !t.start.moored && t.resets.chip == some .startFallback) = true
      ∧ next .stepTimeLimit (atStep 0 10000001) (fun t => t.startDetail == 0xF0 && t.start.moored) = true
      ∧ idle .stepTimeLimit (atStep 0 10000000) = true
      -- a step that is past its limit has failed, though it reports a pass
      ∧ next (.selfTestStepEnd (.pass [] places0)) (atStep 0 10000001) (fun t => t.startDetail == 0xF0 && t.start.moored) = true
      -- the entry keeps the array and the column that S3 found bad
      ∧ next (.selfTestStepEnd (.fail 0x31 9 1 5)) (atStep 3) (fun t => (t.start.journal.head?).any fun e => e.site == (1, 5)) = true
      ∧ idle .stepTimeLimit { atStep 0 10000001 with resets := { Resets.none with held := true } } = true := by decide +kernel

theorem test_witness_ColdStart :
    next (.coldStart 0x1F) { State.reset with powered := false, lcount := 9 } (fun t => t.powered && t.mgmt.mid == 0x1F && t.startSeq == 1
        && t.start.since == 0 && t.lcount == 0 && t.startStep == 0) = true ∧ idle (.coldStart 0) .reset = true := by decide +kernel

theorem test_witness_Mooring :
    next .restart (moored7 0) (fun t => t.resets.chip == some .mooredCommand && t.reg 0x1400810 == 1 && fld (t.reg 0x140080C) 0 8 == 2) = true
      ∧ next .restart .reset (fun t => fld (t.reg 0x140080C) 0 8 == 3 && t.resets.chip.isNone) = true
      ∧ next .clearFallbacks (moored7 0) (fun t => t.reg 0x1400810 == 5 && t.resets.chip.isSome) = true
      ∧ next .hold .reset (fun t => t.start.hold) = true ∧ next .release .reset (fun t => !t.start.hold && t.reg 0x1400810 == 7) = true
      ∧ next .loadImage (moored7 513) (fun t => t.hostOut == [.hread 0 0x5000 256] && t.start.moorJob == 2 && fld (t.reg 0x140080C) 0 8 == 1) = true
      ∧ next .persistImage (moored7 255) (fun t => t.hostOut == [.hread 0 0x5000 256]) = true
      ∧ next .loadRecord (moored7 4 0) (fun t => fld (t.reg 0x140080C) 0 8 == 5) = true
      ∧ next .loadRecord { moored7 4 with keeper := (atStep 0).keeper } (fun t => fld (t.reg 0x140080C) 0 8 == 3) = true
      ∧ next .release { moored7 4 with hreads := [(0, some .moored)] } (fun t => fld (t.reg 0x140080C) 0 8 == 3) = true := by decide +kernel

/-- Answers to the reads: refused, another piece, and an image too short. A valid image or record rests on free keys, so that no
literal one can be shown. -/
theorem test_witness_MooredReads :
    let s : State := { moored7 300 with
      hreads := [(0, some .moored)], start := { Start.first with moored := true, running := false, moorJob := 2, hostBytes := [1] } }
    next (.hreadResponse 0 .refused []) s (fun t => fld (t.reg 0x140080C) 0 8 == 5 && t.hreads.isEmpty) = true
      ∧ next (.hreadResponse 0 .ok [2]) s (fun t => t.start.hostBytes == [1, 2] && t.hostOut == [.hread 0 0x5002 256]) = true
      ∧ imageCheck [1, 2] 0 = some 0x70 ∧ recordCheck [1, 2] 0 = some 0x12
      ∧ next (.hreadResponse 0 .ok [2]) { s with setup := (moored7 2).setup } (fun t => fld (t.reg 0x140080C) 0 16 == 0x7004) = true
      ∧ next (.hreadResponse 0 .ok [2]) { s with
            setup := (moored7 2).setup, start := { Start.first with moored := true, running := false, moorJob := 4, hostBytes := [1] } }
          (fun t => fld (t.reg 0x140080C) 0 16 == 0x1204) = true := by decide +kernel

/-! ## SPDM and the management port (spec/17, spec/20) -/

/-- The Sornal link is up; the device has passed S1 and has this connection on the sideband. -/
def talking (c : Spdm) : State :=
  { sets [(0x1400000, 0x5FFC0000)] .reset with spdm := [(0, c)], start := { Start.first with s1Passed := true } }
def said (bs : List Byte) (t : State) : Bool := t.hostOut == [.spdm .sideband bs]

theorem test_witness_Spdm_versions :
    (talking Spdm.none).linkUp 16 = true ∧ (talking Spdm.none).mgmt.stopped = false
      ∧ next (.getVersion .sideband [0x10, 0x84, 0, 0]) (talking Spdm.none) (fun t => said [0x10, 4, 0, 0, 0, 1, 0, 0x12] t && (t.conn .sideband).versioned) = true
      ∧ next (.getVersion .sideband [0x10, 0x84, 0]) (talking Spdm.none) (said [0x12, 0x7F, 1, 0]) = true
      ∧ next (.getVersion .smbus [0x10, 0x84, 0, 0]) .reset (fun t => t.hostOut == [.spdm .smbus [0x12, 0x7F, 5, 0]]) = true
      ∧ next (.getCapabilities .sideband [0x12, 0xE1, 0, 0]) (talking Spdm.none) (said [0x12, 0x7F, 4, 0]) = true
      ∧ next (.negotiateAlgorithms .sideband [0x12, 0xE3, 0, 0]) (talking { versioned := true, capable := true, negotiated := false })
          (fun t => (t.conn .sideband).negotiated) = true
      ∧ next (.unsupportedRequest .sideband [0x12, 0xFF]) (talking Spdm.none) (said [0x12, 0x7F, 7, 0]) = true
      ∧ idle (.unsupportedRequest .sideband [0x12, 0x84]) (talking Spdm.none) = true
      ∧ idle (.getDigests .sideband [0x12, 0x84, 0, 0]) (talking Spdm.none) = true
      ∧ idle (.getDigests .sideband [0x12, 0x81, 0, 0]) .reset = true ∧ idle (.vendorDefinedMessageSupport .sideband) .reset = true
      ∧ next (.vendorDefinedMessageSupport .sideband) (talking Spdm.none)
          (fun t => t.hostOut.length == 1) = true := by
  decide +kernel

/-- A negotiated connection, and requests that are refused or list nothing. -/
def joined : State := talking { versioned := true, capable := true, negotiated := true }

theorem test_witness_Spdm_requests :
    (joined.conn .sideband).negotiated = true
      ∧ next (.getCertificate .sideband [0x12, 0x82, 1, 0, 0, 0, 0, 4]) joined (said [0x12, 0x7F, 1, 0]) = true
      ∧ next (.getCertificate .sideband [0x12, 0x82, 0, 0, 0, 0, 0]) joined (said [0x12, 0x7F, 1, 0]) = true
      ∧ next (.challenge .sideband ([0x12, 0x83, 1, 0] ++ List.replicate 32 0)) joined (said [0x12, 0x7F, 1, 0]) = true
      ∧ next (.challenge .sideband [0x12, 0x83, 0, 0]) joined (said [0x12, 0x7F, 1, 0]) = true
      ∧ next (.getMeasurements .sideband [0x12, 0xE0, 0, 6]) joined (said [0x12, 0x7F, 1, 0]) = true
      ∧ next (.getMeasurements .sideband [0x12, 0xE0, 1, 0]) joined (said [0x12, 0x7F, 1, 0]) = true
      ∧ joined.measurement 5 = none ∧ joined.start.running = true
      ∧ next (.getMeasurements .sideband [0x12, 0xE0, 0, 5]) joined (said [0x12, 0x7F, 3, 0]) = true := by decide +kernel

/-- The bus in force, and held by another so that the sideband reaches the port. -/
def sideOnly : State := { sets [(0x1400000, 0x5FFC0000)] .reset with mgmt := { Mgmt.atReset with modStatus := 0x81 } }
def answered (path : MgmtPath) (bs : List Byte) (t : State) : Bool := t.hostOut == [.mgmt path bs]

theorem test_witness_MgmtReads :
    sideOnly.busStuck = true ∧ State.reset.busStuck = false
      ∧ next (.progress .smbus) (State.reset.setKreg 0 0x12345678) (answered .smbus [0x78, 0x56, 0x34, 0x12]) = true
      ∧ next (.modStatus .sideband) sideOnly (answered .sideband [2, 0x81, 0, 0, 0]) = true
      ∧ next (.modStatus .smbus) { State.reset with standby := true } (answered .smbus [1, 1, 0, 0]) = true
      ∧ next (.lastResult .smbus) .reset (answered .smbus [0]) = true
      ∧ next (.capRead .smbus) .reset (answered .smbus [0xDC, 5, 0x46, 5, 0x46, 5]) = true
      ∧ next (.powerRead .smbus 0x1234 0x5678) { State.reset with mgmt := { Mgmt.atReset with hottest := 77 } }
          (answered .smbus [0x34, 0x12, 0x78, 0x56, 0, 0, 77, 0]) = true
      ∧ next (.senseMap .smbus) { State.reset with mgmt := { Mgmt.atReset with sense := 0x201 } } (answered .smbus [1, 2]) = true
      ∧ next (.serial .smbus) .reset (answered .smbus (List.replicate 16 0)) = true
      ∧ next (.lastResult .sideband) (sets [(0x1400000, 0x5FFC0000)] .reset) (answered .sideband [3, 3]) = true
      ∧ idle (.lastResult .sideband) .reset = true ∧ idle (.lastResult .smbus) sideOnly = true := by decide +kernel

theorem test_witness_TrayCap :
    next (.trayCap .smbus [0xF4, 1, 0x0B, 0xFE] true) .reset (fun t => t.trayCap == 500 && t.effCap == 500 && t.mgmt.lastResult == 0) = true
      ∧ next (.trayCap .smbus [0xF3, 1, 0x0C, 0xFE] true) .reset (fun t => t.trayCap == 1500 && t.mgmt.lastResult == 2 && t.reg 0x150018C == 1) = true
      ∧ next (.trayCap .sideband [0xF4, 1, 0, 0] false) sideOnly (fun t => t.trayCap == 1500 && t.mgmt.lastResult == 1
          && (t.latch 0x658).first.any fun r => r.cls == 3 && r.cause == 4) = true
      ∧ next (.trayCap .sideband [0xF4, 1, 0x0B, 0xFE] false) sideOnly (fun t => t.trayCap == 500 && answered .sideband [0x10, 0] t) = true
      ∧ next (.trayCap .sideband [0xF4, 1, 0x0B, 0xFE] false) (sets [(0x1400000, 0x5FFC0000)] .reset)
          (fun t => t.trayCap == 1500 && answered .sideband [0x10, 3] t) = true
      ∧ idle (.trayCap .smbus [0xF4, 1, 0x0B, 0xFE] false) .reset = true ∧ idle (.trayCap .smbus [0xF4, 1, 0x0B] true) .reset = true
      ∧ next (.alertClear .smbus [0xFF, 0xFF, 0xFF, 0xFF] true) { State.reset with mgmt := { Mgmt.atReset with modStatus := 0x631, sense := 1 } }
          (fun t => t.mgmt.modStatus == 0x21) = true
      ∧ next (.alertClear .smbus [0xFF, 0xFF, 0xFF, 0xFF] true) { State.reset with mgmt := { Mgmt.atReset with modStatus := 0x631 } }
          (fun t => t.mgmt.modStatus == 1) = true := by decide +kernel

theorem test_witness_Standby :
    next (.standby .smbus [0x5A, 0xA5] true) { fabric with spool := [(3, 9)] } (fun t => t.standby && t.mgmt.lastResult == 0
        && t.rings.isEmpty && t.spool.isEmpty && t.reg 0x1330030 == 0) = true
      ∧ next (.standby .smbus [0x5A, 0xA5] true) { State.reset with launches := [(0, some { launch2 with ctx := 3 })] }
          (fun t => !t.standby && t.mgmt.lastResult == 3) = true
      ∧ next (.standby .smbus [0x5B, 0xA4] true) .reset (fun t => !t.standby && t.mgmt.lastResult == 2) = true
      ∧ next (.standby .smbus [0x5A, 0xA4] true) .reset (fun t => !t.standby && t.mgmt.lastResult == 1) = true
      ∧ next (.standby .smbus [0x5A, 0xA5] true) { State.reset with standby := true } (fun t => t.standby && t.mgmt.lastResult == 0) = true
      ∧ idle (.standby .smbus [0x5A] true) .reset = true := by decide +kernel

/-- Power good, and without the input. -/
def dark : State := { State.reset with powered := false }

theorem test_witness_Pins :
    next .mgmtBusStuck .reset (fun t => t.mgmt.modStatus == 0x81) = true ∧ next .mgmtBusRestored sideOnly (fun t => t.mgmt.modStatus == 1) = true
      ∧ next .resetPin .reset (fun t => t.resets.chip == some .trayReset && t.mgmt.resetLow) = true
      ∧ next .resetPin { State.reset with standby := true } (fun t => t.resets.chip == some .standbyExit) = true
      ∧ next .resetPinRelease { State.reset with lcount := 9, resets := { Resets.none with held := true } }
          (fun t => !t.resets.held && t.start.since == 9) = true
      ∧ next (.senseOpen 9) .reset (fun t => t.mgmt.sense == 0x200 && t.mgmt.modStatus == 0x21) = true ∧ idle (.senseOpen 10) .reset = true
      ∧ next (.senseRestored 9) { State.reset with mgmt := { Mgmt.atReset with sense := 0x201 } } (fun t => t.mgmt.sense == 1) = true
      ∧ next .refclkLoss { State.reset with mgmt := { Mgmt.atReset with pwrgd := true } } (fun t => t.resets.cycle && t.mgmt.stopped
          && bitAt t.mgmt.modStatus 6 && !t.up) = true
      ∧ next .refclkLoss { State.reset with lcount := 9, mgmt := { Mgmt.atReset with pwrgd := true } } (fun t => t.lcount == 9) = true
      -- flash keeps its contents, but for the image that PERSIST_IMAGE was writing
      ∧ next .inputTurnOff { State.reset with start := { Start.first with flash := [(5, 6), (0x1000000, 7)] } }
          (fun t => t.start.flash == [(5, 6), (0x1000000, 7)]) = true
      ∧ next .inputTurnOff { State.reset with
            hreads := [(0, some .moored)], start := { Start.first with moorJob := 3, flash := [(5, 6), (0x1000000, 7)] } }
          (fun t => t.start.flash == [(5, 6)]) = true
      ∧ idle .refclkLoss .reset = true
      ∧ next .inputTurnOff resetting (fun t => !t.powered && t.mem.isEmpty && t.cores.isEmpty && t.setup.isEmpty && t.keeper.isEmpty) = true
      ∧ idle .inputTurnOff dark = true ∧ idle .resetPin dark = true ∧ idle .smbclkTimeout .reset = true := by decide +kernel
end Sys2Proof.Tests
end

section
/-! # No run of the module stops (O43)

An arm of `exec` is built from `.next` by guards and matches alone. So every command answers a next state, so does every
step, and runs of any length follow by induction (SPEC.md, "Stops"; log 4). -/
namespace Sys2Proof.Machine

/-! ## What it is to answer a next state -/

/-- The outcome is a next state: no fault and no refusal of the model. -/
inductive Answers : Host.Outcome State Fault Refusal → Prop
  | next (t : State) : Answers (.next t)

theorem Answers.exists_next {o : Host.Outcome State Fault Refusal} (h : Answers o) : ∃ t, o = .next t := by
  obtain ⟨t⟩ := h
  exact ⟨t, rfl⟩

/-- A guard between two meanings that answer. -/
theorem Answers.ite {p : Prop} [Decidable p] {x y : Host.Outcome State Fault Refusal} (hx : Answers x) (hy : Answers y) :
    Answers (if p then x else y) := by
  split
  · exact hx
  · exact hy

/-! ## Meanings with more than one guard, by the branches of their definitions -/

/-! ### The error recorder -/

@[simp] theorem execErrorRecordWrite_answers (src : Nat) (s : State) : Answers (execErrorRecordWrite src s) := by
  fun_cases execErrorRecordWrite <;> exact .next _

/-! ### The spool file -/

@[simp] theorem execSpoolFileWrite_answers (addr : Nat) (data : List Byte) (s : State) :
    Answers (execSpoolFileWrite addr data s) := by
  fun_cases execSpoolFileWrite <;> exact .next _

/-! ### Waits of sub-groups -/

@[simp] theorem execSplWaitSatisfied_answers (sg : SgRef) (s : State) : Answers (execSplWaitSatisfied sg s) := by
  fun_cases execSplWaitSatisfied <;> exact .next _

@[simp] theorem execSbWaitReady_answers (sg : SgRef) (s : State) : Answers (execSbWaitReady sg s) := by
  fun_cases execSbWaitReady <;> exact .next _

/-! ### Array operations -/

@[simp] theorem execArrayOpStart_answers (core arr held : Nat) (s : State) :
    Answers (execArrayOpStart core arr held s) := by
  fun_cases execArrayOpStart <;> exact .next _

@[simp] theorem execArrayReconfigure_answers (core arr : Nat) (s : State) :
    Answers (execArrayReconfigure core arr s) := by
  fun_cases execArrayReconfigure <;> exact .next _

@[simp] theorem execTileConvertDone_answers (core arr : Nat) (cyc : ArrCycles) (s : State) :
    Answers (execTileConvertDone core arr cyc s) := by
  fun_cases execTileConvertDone <;> exact .next _

@[simp] theorem execTileRefeed_answers (core arr : Nat) (s : State) : Answers (execTileRefeed core arr s) := by
  fun_cases execTileRefeed <;> exact .next _

@[simp] theorem execReplayStageCopy_answers (core arr : Nat) (s : State) :
    Answers (execReplayStageCopy core arr s) := by
  fun_cases execReplayStageCopy <;> exact .next _

@[simp] theorem execSparseBadlist_answers (core : Nat) (s : State) : Answers (execSparseBadlist core s) := by
  fun_cases execSparseBadlist <;> exact .next _

@[simp] theorem execArrayOpComplete_answers (core arr : Nat) (cyc : ArrCycles) (s : State) :
    Answers (execArrayOpComplete core arr cyc s) := by
  fun_cases execArrayOpComplete <;> exact .next _

/-! ### Copies -/

@[simp] theorem execCopyStart_answers (core id : Nat) (s : State) : Answers (execCopyStart core id s) := by
  fun_cases execCopyStart <;> exact .next _

@[simp] theorem execScatterBadlist_answers (core id : Nat) (s : State) : Answers (execScatterBadlist core id s) := by
  fun_cases execScatterBadlist <;> exact .next _

@[simp] theorem execCopySpoolStep_answers (core id bytes : Nat) (s : State) :
    Answers (execCopySpoolStep core id bytes s) := by
  fun_cases execCopySpoolStep <;> exact .next _

@[simp] theorem execCopyComplete_answers (core id : Nat) (s : State) : Answers (execCopyComplete core id s) := by
  fun_cases execCopyComplete <;> exact .next _

/-! ### Launches and allocations -/

@[simp] theorem execBlockPlace_answers (launch : Nat) (cores : List Nat) (s : State) :
    Answers (execBlockPlace launch cores s) := by
  fun_cases execBlockPlace <;> exact .next _

@[simp] theorem execSplitChange_answers (core split : Nat) (s : State) : Answers (execSplitChange core split s) := by
  fun_cases execSplitChange <;> exact .next _

@[simp] theorem execAllocationRelease_answers (core blk : Nat) (s : State) :
    Answers (execAllocationRelease core blk s) := by
  fun_cases execAllocationRelease <;> exact .next _

/-! ### Power and droop -/

@[simp] theorem execDividerChange_answers (p : Nat) (s : State) : Answers (execDividerChange p s) := by
  fun_cases execDividerChange <;> exact .next _

@[simp] theorem execTelemetryWindow_answers (e : Nat) (m : Option Nat) (s : State) :
    Answers (execTelemetryWindow e m s) := by
  fun_cases execTelemetryWindow <;> exact .next _

@[simp] theorem execDroopWarning_answers (p mv : Nat) (s : State) : Answers (execDroopWarning p mv s) := by
  fun_cases execDroopWarning <;> exact .next _

@[simp] theorem execDroopHoldExpiry_answers (p : Nat) (s : State) : Answers (execDroopHoldExpiry p s) := by
  fun_cases execDroopHoldExpiry <;> exact .next _

@[simp] theorem execSensorSample_answers (sensors : List (List (Option Nat))) (others : List Nat) (s : State) :
    Answers (execSensorSample sensors others s) := by
  fun_cases execSensorSample <;> exact .next _

/-! ### Rings and descriptors -/

@[simp] theorem execIntrHoldExpiry_answers (vec : Nat) (s : State) : Answers (execIntrHoldExpiry vec s) := by
  fun_cases execIntrHoldExpiry <;> exact .next _

@[simp] theorem execDescriptorFetch_answers (ring n : Nat) (s : State) : Answers (execDescriptorFetch ring n s) := by
  fun_cases execDescriptorFetch <;> exact .next _

@[simp] theorem execDescriptorRefetch_answers (ring : Nat) (s : State) : Answers (execDescriptorRefetch ring s) := by
  fun_cases execDescriptorRefetch <;> exact .next _

@[simp] theorem execRingTailWrite_answers (ring : Nat) (v : Word) (s : State) :
    Answers (execRingTailWrite ring v s) := by
  fun_cases execRingTailWrite <;> exact .next _

@[simp] theorem execLinkCopyComplete_answers (ring : Nat) (seq : Word) (s : State) :
    Answers (execLinkCopyComplete ring seq s) := by
  fun_cases execLinkCopyComplete <;> exact .next _

@[simp] theorem execLaunch_answers (ring : Nat) (s : State) : Answers (execLaunch ring s) := by
  fun_cases execLaunch <;> exact .next _

@[simp] theorem execLaunchComplete_answers (launch : Nat) (s : State) : Answers (execLaunchComplete launch s) := by
  fun_cases execLaunchComplete <;> exact .next _

@[simp] theorem execHint_answers (ring : Nat) (s : State) : Answers (execHint ring s) := by
  fun_cases execHint <;> exact .next _

@[simp] theorem execPhase_answers (ring : Nat) (s : State) : Answers (execPhase ring s) := by
  fun_cases execPhase <;> exact .next _

@[simp] theorem execSpoolWait_answers (ring : Nat) (s : State) : Answers (execSpoolWait ring s) := by
  fun_cases execSpoolWait <;> exact .next _

@[simp] theorem execSpoolWaitSatisfied_answers (ring : Nat) (s : State) : Answers (execSpoolWaitSatisfied ring s) := by
  fun_cases execSpoolWaitSatisfied <;> exact .next _

@[simp] theorem execSpoolSignal_answers (ring : Nat) (s : State) : Answers (execSpoolSignal ring s) := by
  fun_cases execSpoolSignal <;> exact .next _

@[simp] theorem execRingFence_answers (ring : Nat) (s : State) : Answers (execRingFence ring s) := by
  fun_cases execRingFence <;> exact .next _

/-! ### Packets of the fabric -/

@[simp] theorem execFabricRequestTimeout_answers (tag : Nat) (s : State) :
    Answers (execFabricRequestTimeout tag s) := by
  fun_cases execFabricRequestTimeout <;> exact .next _

@[simp] theorem execLineCut_answers (port : Nat) (p : Packet) (s : State) : Answers (execLineCut port p s) := by
  fun_cases execLineCut <;> exact .next _

/-! ### Reduction and factor entries -/

@[simp] theorem execPairAccumulate_answers (src : PairSource) (s : State) : Answers (execPairAccumulate src s) := by
  fun_cases execPairAccumulate <;> exact .next _

@[simp] theorem execFactorFire_answers (idx : Nat) (s : State) : Answers (execFactorFire idx s) := by
  fun_cases execFactorFire <;> exact .next _

@[simp] theorem execGram_answers (p : Nat) (s : State) : Answers (execGram p s) := by
  fun_cases execGram <;> exact .next _

@[simp] theorem execOrtho_answers (p : Nat) (s : State) : Answers (execOrtho p s) := by
  fun_cases execOrtho <;> exact .next _

@[simp] theorem execFactorComplete_answers (p : Nat) (s : State) : Answers (execFactorComplete p s) := by
  fun_cases execFactorComplete <;> exact .next _

/-! ### Links -/

@[simp] theorem execLaneBad_answers (lk lane : Nat) (s : State) : Answers (execLaneBad lk lane s) := by
  fun_cases execLaneBad <;> exact .next _

@[simp] theorem execFlitReceive_answers (lk : Nat) (flit : List Byte) (s : State) :
    Answers (execFlitReceive lk flit s) := by
  fun_cases execFlitReceive <;> exact .next _

@[simp] theorem execWidthAgreed_answers (lk : Nat) (lanes : BitVec 8) (port : BitVec 4) (serial : BitVec 128) (s : State) :
    Answers (execWidthAgreed lk lanes port serial s) := by
  fun_cases execWidthAgreed <;> exact .next _

/-! ### The start sequence -/

@[simp] theorem execSelfTestStepEnd_answers (r : StepResult) (s : State) : Answers (execSelfTestStepEnd r s) := by
  fun_cases execSelfTestStepEnd <;> exact .next _

/-! ### Update entries -/

@[simp] theorem execShardFire_answers (idx : Nat) (s : State) : Answers (execShardFire idx s) := by
  fun_cases execShardFire <;> exact .next _

@[simp] theorem execShardUpdateComplete_answers (idx : Nat) (s : State) : Answers (execShardUpdateComplete idx s) := by
  fun_cases execShardUpdateComplete <;> exact .next _

/-! ### Invalidations -/

@[simp] theorem execInvalidationComplete_answers (kind : InvKind) (s : State) :
    Answers (execInvalidationComplete kind s) := by
  fun_cases execInvalidationComplete <;> exact .next _

/-! ### Escalation -/

@[simp] theorem execEscalationTimeout_answers (u : EngineUnit) (s : State) : Answers (execEscalationTimeout u s) := by
  fun_cases execEscalationTimeout <;> exact .next _

/-! ### Checkpoints and recovery -/

@[simp] theorem execCheckpointFire_answers (ck : Nat) (s : State) : Answers (execCheckpointFire ck s) := by
  fun_cases execCheckpointFire <;> exact .next _

@[simp] theorem execRecoveryStart_answers (s : State) : Answers (execRecoveryStart s) := by
  fun_cases execRecoveryStart <;> exact .next _

@[simp] theorem execRecoveryRankTaken_answers (d : RecoveryData) (s : State) : Answers (execRecoveryRankTaken d s) := by
  fun_cases execRecoveryRankTaken <;> exact .next _

@[simp] theorem execRecoveryWait_answers (rq : SvcReq) (spare : Nat) (s : State) :
    Answers (execRecoveryWait rq spare s) := by
  fun_cases execRecoveryWait <;> exact .next _

/-! ### Drogue samples -/

@[simp] theorem execDrogueRecompute_answers (core slot arr : Nat) (s : State) :
    Answers (execDrogueRecompute core slot arr s) := by
  fun_cases execDrogueRecompute <;> exact .next _

@[simp] theorem execDrogueCompare_answers (core slot : Nat) (s : State) : Answers (execDrogueCompare core slot s) := by
  fun_cases execDrogueCompare <;> exact .next _

/-! ### The host link -/

@[simp] theorem execHreadResponse_answers (tag : Nat) (status : HostStatus) (data : List Byte) (s : State) :
    Answers (execHreadResponse tag status data s) := by
  fun_cases execHreadResponse <;> exact .next _

@[simp] theorem execMread_answers (tag off : Nat) (s : State) : Answers (execMread tag off s) := by
  fun_cases execMread <;> exact .next _

/-! ### Gondola services -/

@[simp] theorem execNumericsServiceStep_answers (group : Nat) (remote : List NumRecord) (s : State) :
    Answers (execNumericsServiceStep group remote s) := by
  fun_cases execNumericsServiceStep <;> exact .next _

@[simp] theorem execInputBatchArrival_answers (stream : Nat) (s : State) :
    Answers (execInputBatchArrival stream s) := by
  fun_cases execInputBatchArrival <;> exact .next _

@[simp] theorem execInputSlotFreed_answers (stream : Nat) (s : State) : Answers (execInputSlotFreed stream s) := by
  fun_cases execInputSlotFreed <;> exact .next _

/-! ### Scrubbing -/

@[simp] theorem execScrubRead_answers (mc : Nat) (s : State) : Answers (execScrubRead mc s) := by
  fun_cases execScrubRead <;> exact .next _

/-! ## The dispatch, a step, a run -/

/-- Every command answers: rows under one guard, rows with more branches, and rows whose meaning is `.next` at once. -/
theorem exec_answers (c : Instr) (s : State) : Answers (exec c s) := by
  cases c with
  | barrierComplete | coreIdle | partitionSleep | partitionWake | lpddr6Retrain | setupRegisterWrite | rwcValueWrite |
      rwcComplementWrite | broadcastWrite | groupApertureWrite | partCtrlReset | cvtCountClearSat | cvtCountClearInf |
      cvtCountClearNan | arrCountClearF | arrCountClearD | arrCountClearW | coreCountClearRepack | fuCountClearDone |
      mcCountClearRetry | mcCountClearPois | mcCountClearPread | mcCountClearScrub | raCountClearAcc |
      raCountClearPairs | raCountClearSpill | raCountClearSat | raCountClearStale | raCountClearExtra |
      raCountClearDropped | uuCountClearParams | uuCountClearFrozen | uuCountClearPblocks | uuCountClearMclamp |
      uuCountClearShards | uuCountClearSkew | uuCountClearBusy | fabCountClearCrcErr | fabCountClearResend |
      fabCountClearNarrow | fabCountClearLoss | fabCountClearDrop | portRetrain | doorbell | doorbellPoll | mwrite |
      ballastGuardEnd | sornalLinkLoss | resendTimeout | linkLoss | portSignalDetect | detectTimeout | equaliseDone |
      initReady | lostRetry | downRetry | write | read | accumulate | atomic | spoolNotify | fabricResponse |
      powerEvaluation | railSettled | droopReset | engineHang | waitMonitorExpiry | contextReset | engineReset |
      partitionReset | chipReset | powerCycleRequest | watchdogExpiry | coldStart | stepTimeLimit |
      unsupportedRequest | trayCap | standby | alertClear | mgmtBusStuck | mgmtBusRestored | resetPin | inputTurnOff |
      senseOpen | senseRestored | refclkLoss | resetPinRelease | undefinedInstruction | vendorDefinedMessageSupport =>
    exact .ite (.next _) (.next _)
  | errorRecordWrite | spoolFileWrite | splWaitSatisfied | sbWaitReady | arrayOpStart | arrayReconfigure |
      tileConvertDone | tileRefeed | replayStageCopy | sparseBadlist | arrayOpComplete | copyStart | scatterBadlist |
      copySpoolStep | copyComplete | blockPlace | splitChange | allocationRelease | dividerChange | telemetryWindow |
      droopWarning | droopHoldExpiry | sensorSample | intrHoldExpiry | descriptorFetch | descriptorRefetch |
      ringTailWrite | linkCopyComplete | launch | launchComplete | hint | phase | spoolWait | spoolWaitSatisfied |
      spoolSignal | ringFence | fabricRequestTimeout | lineCut | pairAccumulate | factorFire | gram | ortho |
      factorComplete | laneBad | flitReceive | widthAgreed | selfTestStepEnd | shardFire | shardUpdateComplete |
      invalidationComplete | escalationTimeout | checkpointFire | recoveryStart | recoveryRankTaken | recoveryWait |
      drogueRecompute | drogueCompare | hreadResponse | mread | numericsServiceStep | inputBatchArrival |
      inputSlotFreed | scrubRead =>
    simp [exec]
  | _ => exact .next _

theorem step_answers (s : State) : Answers (step s) := by
  unfold step
  split
  · exact .next _
  · exact exec_answers _ _

/-- A run whose first step answers goes on from what it answers. -/
theorem run_succ_of_step {M : Host.Core} {s t : M.State} (h : M.step s = .next t) (k : Nat) :
    M.run (k + 1) s = M.run k t := by
  simp only [Host.Core.run, h]

theorem safeFor_succ {k : Nat} {s t : State} (hs : step s = .next t) (ht : SafeFor k t) : SafeFor (k + 1) s := by
  obtain ⟨u, hu⟩ := ht
  exact ⟨u, (run_succ_of_step (M := core) hs k).trans hu⟩

end Sys2Proof.Machine

open Sys2Proof Sys2Proof.Machine

/-- Settles O43, by induction on the number of steps. -/
theorem neverStops : Obligations.NeverStops := by
  unfold Obligations.NeverStops
  intro k
  induction k with
  | zero => exact fun s => ⟨s, rfl⟩
  | succ k ih =>
    intro s
    obtain ⟨t, ht⟩ := (step_answers s).exists_next
    exact safeFor_succ ht (ih t)

end

section
/-! # What a report leaves, and what the recorder holds after it

Facts beyond `State.report_frame`: the reports that sources hold, and the set-up window where memory is sound (R175, R389,
R391). -/
namespace Sys2Proof.Machine
open Sys2Proof.Claims

/-! ## Latched reports -/

/-- A report of class `cls` and cause `cause` stands latched at a source. -/
def State.Latched (t : State) (src cls cause : Nat) : Prop :=
  ∃ r, ((t.latch src).first = some r ∨ (t.latch src).latest = some r) ∧ r.cls = cls ∧ r.cause = cause

/-- A source holds the same reports in both states. -/
def State.SameReports (src : Nat) (s t : State) : Prop :=
  (t.latch src).first = (s.latch src).first ∧ (t.latch src).latest = (s.latch src).latest

theorem State.SameReports.of_err {src : Nat} {s t : State} (h : t.err = s.err) : State.SameReports src s t := by
  simp [State.SameReports, State.latch, h]

theorem State.SameReports.trans {src : Nat} {s t u : State} (h : State.SameReports src s t) (h' : State.SameReports src t u) :
    State.SameReports src s u :=
  ⟨h'.1.trans h.1, h'.2.trans h.2⟩

theorem State.SameReports.setLatch_other {src x : Nat} (h : src ≠ x) (s : State) (l : Latch) :
    State.SameReports src s (s.setLatch x l) := by
  simp [State.SameReports, State.latch_setLatch, h]

theorem State.Latched.keep {s t : State} {src cls cause : Nat} (h : s.Latched src cls cause)
    (hk : State.SameReports src s t) : t.Latched src cls cause := by
  obtain ⟨r, hr, hc⟩ := h
  obtain ⟨h1, h2⟩ := hk
  exact ⟨r, by rwa [h1, h2], hc⟩

/-! ## What counting and latching keep, whatever adds to the source table -/

/-- Counting a report changes no report that a source holds. -/
theorem State.countBy_sameReports {add : State → Nat → Nat → Nat → State} {src : Nat}
    (ha : ∀ (s : State) x n l, State.SameReports src s (add s x n l)) (s : State) (x n l : Nat) :
    State.SameReports src s (State.countBy add s x n l) := by
  have h : State.SameReports src s (if l = 0 then s else s.setKreg 0x20 (satAdd32 (s.kreg 0x20) l)) := by
    split <;> exact .of_err rfl
  unfold State.countBy
  simp only []
  generalize (if l = 0 then s else s.setKreg 0x20 (satAdd32 (s.kreg 0x20) l)) = t at h ⊢
  split
  · exact h.trans (ha _ _ _ _)
  · refine h.trans ?_
    by_cases hx : src = x
    · subst hx
      simp [State.SameReports, State.latch_setLatch]
    · exact .setLatch_other hx _ _

/-- The report is held afterwards, as FIRST or as LATEST. -/
theorem State.latchBy_latched {add : State → Nat → Nat → Nat → State} {src : Nat}
    (ha : ∀ (s : State) x n l, State.SameReports src s (add s x n l)) (s : State) (r : Report) :
    (State.latchBy add s src r).Latched src r.cls r.cause := by
  unfold State.latchBy
  simp only []
  split
  · exact State.Latched.keep ⟨r, by simp [State.latch_setLatch], rfl, rfl⟩ (State.countBy_sameReports ha _ _ _ _)
  · exact State.Latched.keep ⟨r, by simp [State.latch_setLatch], rfl, rfl⟩ (State.countBy_sameReports ha _ _ _ _)
  · next old _ _ =>
    exact State.Latched.keep ⟨{ r with lost := min (old.lost + 1) 0xFFFFFFFF }, by simp [State.latch_setLatch], rfl, rfl⟩
      (State.countBy_sameReports ha _ _ _ _)

/-- A source holds what it held when another one reports. -/
theorem State.latchBy_sameReports {add : State → Nat → Nat → Nat → State} {src x : Nat} (hx : src ≠ x)
    (ha : ∀ (s : State) y n l, State.SameReports src s (add s y n l)) (s : State) (r : Report) :
    State.SameReports src s (State.latchBy add s x r) := by
  unfold State.latchBy
  simp only []
  split <;> exact (State.SameReports.setLatch_other hx _ _).trans (State.countBy_sameReports ha _ _ _ _)

/-! ## The controllers' own reports -/

theorem getD_lt_of_forall {n : Nat} {l : List Nat} (hn : 0 < n) (h : ∀ x ∈ l, x < n) (i : Nat) : l.getD i 0 < n := by
  rw [List.getD_eq_getElem?_getD]
  cases hi : l[i]? with
  | none => exact hn
  | some x => exact h x (List.mem_of_getElem? hi)

theorem mem_bitList_lt {n m x : Nat} (h : x ∈ bitList n m) : x < n := List.mem_range.mp (List.mem_of_mem_filter h)

/-- There are 48 controllers (R416). -/
theorem State.mcOf_lt {s : State} {a mc : Nat} (h : s.mcOf a = some mc) : mc < 48 := by
  have hch (die i : Nat) : (s.lpList die).getD i 0 < 64 :=
    getD_lt_of_forall (by decide) (fun _ hx => mem_bitList_lt hx) i
  have hb (die i : Nat) : (s.bmcList die).getD i 0 < 16 :=
    getD_lt_of_forall (by decide) (fun _ hx => mem_bitList_lt (List.mem_of_mem_filter hx)) i
  unfold State.mcOf at h
  split at h
  · next hlp =>
    have hdie : a < 0x10000000000 := by simpa [isLp] using hlp
    simp only [Option.ite_none_left_eq_some, Option.some.injEq] at h
    obtain ⟨-, rfl⟩ := h
    have := hch (a / 2 ^ 39) (a % 2 ^ 39 / 256 % (s.lpList (a / 2 ^ 39)).length)
    omega
  · split at h
    · simp only [Option.ite_none_left_eq_some, Option.some.injEq] at h
      obtain ⟨-, rfl⟩ := h
      have := hb ((a - 0x10000000000) / 2 ^ 34)
        ((a - 0x10000000000) % 2 ^ 34 / 256 % (s.bmcList ((a - 0x10000000000) / 2 ^ 34)).length)
      omega
    · cases h

theorem State.srcPut_err (s : State) (x n l : Nat) : (s.srcPut x n l).err = s.err := by
  unfold State.srcPut
  simp only []
  split <;> simp

/-- The check of a block reports from a controller alone. -/
theorem State.crcCheckBy_sameReports {add : State → Nat → Nat → Nat → State} {src : Nat} (hsrc : 0x630 ≤ src)
    (ha : ∀ (s : State) x n l, State.SameReports src s (add s x n l)) (s : State) (b : Nat) :
    State.SameReports src s (State.crcCheckBy add s b) := by
  have hc (u : State) (i : Nat) : (u.mcCount b i).err = u.err := by
    unfold State.mcCount
    split <;> simp
  unfold State.crcCheckBy
  simp only []
  split
  · exact .of_err rfl
  · split
    · exact .of_err (hc _ _)
    · split
      · next mc hmc =>
        have hlt := State.mcOf_lt hmc
        have hne : src ≠ mcSource mc := by unfold mcSource; omega
        refine State.SameReports.trans (.of_err ?_) (State.latchBy_sameReports hne ha _ _)
        exact hc _ _
      · exact .of_err (hc _ _)

theorem State.srcAdd_sameReports {src : Nat} (hsrc : 0x630 ≤ src) (s : State) (x n l : Nat) :
    State.SameReports src s (s.srcAdd x n l) :=
  (State.crcCheckBy_sameReports hsrc (fun _ _ _ _ => .of_err (State.srcPut_err _ _ _ _)) s _).trans
    (.of_err (State.srcPut_err _ _ _ _))

/-- A report of a source that is no core and no controller is held afterwards (R391). -/
theorem State.report_latched {src : Nat} (hsrc : 0x630 ≤ src) (s : State) (cls cause : Nat) (ctx : Option Nat) (unit : Nat)
    (d : List Word) : (s.report src cls cause ctx unit d).Latched src cls cause :=
  State.latchBy_latched (State.srcAdd_sameReports hsrc) s (s.made cls cause ctx unit d)

/-! ## Reports while no block of DRAM is in error -/

theorem State.crcCheckBy_of_sound (add : State → Nat → Nat → Nat → State) {s : State} (h : soundMem s) (b : Nat) :
    State.crcCheckBy add s b = s := by
  obtain ⟨hd, ho, -⟩ := h
  simp [State.crcCheckBy, hd, ho]

theorem State.srcPut_setup (s : State) (x n l : Nat) : (s.srcPut x n l).setup = s.setup := by
  unfold State.srcPut
  simp only []
  split <;> simp

theorem State.srcAdd_setup {s : State} (h : soundMem s) (x n l : Nat) : (s.srcAdd x n l).setup = s.setup := by
  rw [State.srcAdd, State.crcCheckBy_of_sound _ h, State.srcPut_setup]

theorem State.countReports_setup {s : State} (h : soundMem s) (x n l : Nat) : (s.countReports x n l).setup = s.setup := by
  have hs (u : State) (hu : u = if l = 0 then s else s.setKreg 0x20 (satAdd32 (s.kreg 0x20) l)) :
      soundMem u ∧ u.setup = s.setup := by
    subst hu
    split
    · exact ⟨h, rfl⟩
    · exact ⟨h, rfl⟩
  obtain ⟨hu, he⟩ := hs _ rfl
  unfold State.countReports State.countBy
  simp only []
  generalize (if l = 0 then s else s.setKreg 0x20 (satAdd32 (s.kreg 0x20) l)) = u at hu he ⊢
  split
  · rw [State.srcAdd_setup hu, he]
  · rw [State.setLatch_setup, he]

/-- Without a block in error, a report changes no register of the set-up window. -/
theorem State.report_setup {s : State} (h : soundMem s) (src cls cause : Nat) (ctx : Option Nat) (unit : Nat) (d : List Word) :
    (s.report src cls cause ctx unit d).setup = s.setup := by
  have hl (l : Latch) : soundMem (s.setLatch src l) := h
  unfold State.report State.latchReport State.latchBy
  simp only []
  split <;> exact State.countReports_setup (hl _) _ _ _

end Sys2Proof.Machine
end

section
/-! # Writes of set-up registers (O35)

What `setupWrite` does, by the access code of the register (R5, R411), then the two words of a complement-checked register
(R6). Set-up events are reported from SOURCE 0x650 (log 27). -/
namespace Sys2Proof.Machine
open Sys2Proof.Claims

/-! ## The value pending in a block -/

theorem State.pendOf_of_nil {s : State} (h : s.rwcPend = []) (b : Nat) : s.pendOf b = none := by
  simp [State.pendOf, h]

theorem State.pendOf_setPend (s : State) (b j : Nat) (p : Option (Nat × Word)) :
    (s.setPend b p).pendOf j = if j = b then p else s.pendOf j :=
  Sparse.get_set _ _ _ _ _

@[simp] theorem State.pendOf_setPend_same (s : State) (b : Nat) (p : Option (Nat × Word)) : (s.setPend b p).pendOf b = p := by
  rw [State.pendOf_setPend, if_pos rfl]

theorem State.pendOf_congr {s t : State} (h : t.rwcPend = s.rwcPend) (b : Nat) : t.pendOf b = s.pendOf b := by
  simp [State.pendOf, h]

theorem pendOf_single (s : State) (b : Nat) (p : Option (Nat × Word)) :
    State.pendOf { s with rwcPend := [(b, p)] } b = p := by
  simp [State.pendOf, Sparse.get]

theorem State.dropPend_of_none {s : State} {b : Nat} (h : s.pendOf b = none) (src : Nat) : s.dropPend src b = s := by
  simp [State.dropPend, h]

/-- Dropping a value pending is an integrity event, for any register but the cap (R6). -/
theorem State.dropPend_of_some {s : State} {b o : Nat} {w : Word} (h : s.pendOf b = some (o, w)) (ho : o ≠ offPwr) (src : Nat) :
    s.dropPend src b = (s.setPend b none).integrity src 7 none 0xFFFF o w 0 := by
  simp [State.dropPend, h, State.rwcFailed, ho]

/-! ## An integrity event -/

theorem State.integrity_latched {src : Nat} (hsrc : 0x630 ≤ src) (s : State) (cause : Nat) (ctx : Option Nat) (unit addr : Nat)
    (v c : Word) : (s.integrity src cause ctx unit addr v c).Latched src 3 cause :=
  State.report_latched hsrc _ _ _ _ _ _

theorem State.integrity_setup {s : State} (h : soundMem s) (src cause : Nat) (ctx : Option Nat) (unit addr : Nat) (v c : Word) :
    (s.integrity src cause ctx unit addr v c).setup = s.setup :=
  State.report_setup h _ _ _ _ _ _

/-! ## One write, by the register's access code -/

section
variable {s : State} {off : Nat} {d : RegDesc}

/-- Outside the apertures a write of the window is a write of the register (R413, R414). -/
theorem State.windowWrite_outside (h : off < 0xC00000 ∨ 0x1000000 ≤ off) (s : State) (src : Nat) (v : Word) :
    s.windowWrite src off v = s.setupWrite src off v := by
  unfold State.windowWrite
  rw [if_neg (by omega), if_neg (by omega)]

theorem State.setupWrite_of_none (h : regDesc off = none) (s : State) (src : Nat) (v : Word) :
    s.setupWrite src off v = s.holeRecord src (some 0) (setupBase + off) := by
  simp [State.setupWrite, h]

theorem State.setupWrite_readOnly (hd : regDesc off = some d) (hh : s.setupHole off = false) (hk : d.kind = .rw 0)
    (src : Nat) (v : Word) : s.setupWrite src off v = s.dropPend src (regBlock off) := by
  simp [State.setupWrite, hd, hh, hk]

theorem State.noteCluster_eq (s : State) (src off : Nat) (v : Word) :
    ∃ m, s.noteCluster src off v = { s with svc := { s.svc with clCtrl := m } } := by
  unfold State.noteCluster
  split
  · exact ⟨_, rfl⟩
  · exact ⟨s.svc.clCtrl, rfl⟩

/-- A plain register stores the bits of its mask; the gondola's own record of CL_CTRL may follow (R403). -/
theorem State.setupWrite_plain {mask : Nat} (hd : regDesc off = some d) (hh : s.setupHole off = false) (hk : d.kind = .rw mask)
    (hm : mask ≠ 0) (src : Nat) (v : Word) :
    ∃ m, s.setupWrite src off v =
      { (s.dropPend src (regBlock off)).setReg off (v &&& BitVec.ofNat 32 mask) with
        svc := { (s.dropPend src (regBlock off)).svc with clCtrl := m } } := by
  obtain ⟨m, h⟩ := State.noteCluster_eq ((s.dropPend src (regBlock off)).setReg off (v &&& BitVec.ofNat 32 mask)) src off
    (v &&& BitVec.ofNat 32 mask)
  exact ⟨m, by simpa [State.setupWrite, hd, hh, hk, hm] using h⟩

theorem State.setupWrite_lockable {mask : Nat} (hd : regDesc off = some d) (hh : s.setupHole off = false)
    (hk : d.kind = .rwl mask) (hp : s.pendOf (regBlock off) = none) (src : Nat) (v : Word) :
    s.setupWrite src off v =
      if s.locked off then s.lockedWrite src off v else s.setReg off (clampSize off (v &&& BitVec.ofNat 32 mask)) := by
  simp [State.setupWrite, hd, hh, hk, State.dropPend_of_none hp]

theorem State.setupWrite_value {mask : Nat} (hd : regDesc off = some d) (hh : s.setupHole off = false)
    (hk : d.kind = .rwcValue mask) (src : Nat) (v : Word) :
    s.setupWrite src off v = (s.dropPend src (regBlock off)).setPend (regBlock off) (some (off, v)) := by
  simp [State.setupWrite, hd, hh, hk]

theorem State.setupWrite_complement (hd : regDesc off = some d) (hh : s.setupHole off = false) (hk : d.kind = .rwcComplement)
    (src : Nat) (v : Word) : s.setupWrite src off v = s.writeComplement src off v := by
  simp [State.setupWrite, hd, hh, hk]

end

/-! ## The rows -/

theorem exec_setupRegisterWrite {off : Nat} (h4 : off % 4 = 0) (hlt : off < 0x4000000)
    (hout : off < 0xC00000 ∨ 0x1000000 ≤ off) (v : Word) (s : State) :
    exec (.setupRegisterWrite off v) s = .next (s.setupWrite 0x650 off v) := by
  rw [← State.windowWrite_outside hout s 0x650 v]
  exact if_pos ⟨h4, hlt⟩

theorem exec_rwcValueWrite {off : Nat} (h : isRwcValue off = true) (v : Word) (s : State) :
    exec (.rwcValueWrite off v) s = .next (s.setupWrite 0x650 off v) :=
  if_pos h

theorem exec_rwcComplementWrite {off : Nat} (h : isRwcComplement off = true) (v : Word) (s : State) :
    exec (.rwcComplementWrite off v) s = .next (s.setupWrite 0x650 off v) :=
  if_pos h

theorem kind_of_isRwcValue {off : Nat} (h : isRwcValue off = true) :
    ∃ d mask, regDesc off = some d ∧ d.kind = .rwcValue mask := by
  unfold isRwcValue at h
  split at h
  · next d hd =>
    split at h
    · next mask hk => exact ⟨d, mask, hd, hk⟩
    · cases h
  · cases h

theorem kind_of_isRwcComplement {off : Nat} (h : isRwcComplement off = true) :
    ∃ d, regDesc off = some d ∧ d.kind = .rwcComplement := by
  unfold isRwcComplement at h
  split at h
  · next d hd => exact ⟨d, hd, by simpa using h⟩
  · cases h

/-! ## Complement-checked registers -/

/-- No register of a cluster or of a controller is complement-checked (R412, R416). -/
theorem clusterReg_ne_rwcV (x mask : Nat) : clusterReg x ≠ .rwcV mask := by
  unfold clusterReg
  simp only []
  split_ifs <;> simp [RegDesc.plain, RegDesc.ro, RegDesc.act, RegDesc.rwcV]

theorem mcReg_ne_rwcV (lmc : Bool) (x mask : Nat) : mcReg lmc x ≠ .rwcV mask := by
  unfold mcReg
  split_ifs <;> simp [RegDesc.plain, RegDesc.ro, RegDesc.act, RegDesc.rwcV]

theorem portReg_rwcV {x mask : Nat} (h : portReg x = .rwcV mask) : x = 8 ∨ x = 0x10 ∨ x = 0x18 := by
  by_contra hx
  unfold portReg at h
  rw [if_neg hx] at h
  split_ifs at h <;> simp [RegDesc.ro, RegDesc.act, RegDesc.rwcV, RegDesc.rwcC] at h

theorem ctxReg_rwcV {x mask : Nat} (h : ctxReg x = .rwcV mask) : x = 4 := by
  by_contra hx
  unfold ctxReg at h
  rw [if_neg hx] at h
  split_ifs at h <;> simp [RegDesc.plain, RegDesc.rwcV, RegDesc.rwcC] at h

/-- Offsets of blocks as numbers. -/
theorem blockOffsets : offFabJob = 0x1301000 ∧ offMem = 0x1310000 ∧ offTbl = 0x1320000 ∧ offCtx 0 = 0x1330000
    ∧ offCtx 64 = 0x1330400 ∧ offArrayMap 0 = 0x1340000 ∧ offArrayMap 1536 = 0x1343000 ∧ offHost = 0x1400000
    ∧ offPwr = 0x1500000 ∧ offGond = 0x1600000 ∧ offAper = 0x1700000 := by decide

/-- Below the fabric block, only ports have complement-checked registers (R410). -/
theorem rwcV_below_fabric {off mask : Nat} (hd : regDesc off = some (.rwcV mask)) (hoff : off < 0x1301000) :
    0x1300000 ≤ off ∧ (off % 0x100 = 8 ∨ off % 0x100 = 0x10 ∨ off % 0x100 = 0x18) := by
  have hc := blockOffsets
  rw [regDesc] at hd
  by_cases h1 : off < 0xC00000
  · rw [if_pos h1] at hd
    exact absurd (Option.some.inj hd) (clusterReg_ne_rwcV _ _)
  rw [if_neg h1] at hd
  by_cases h2 : 0x1000000 ≤ off ∧ off < 0x1080000
  · rw [if_pos h2] at hd
    split at hd <;> cases hd
  rw [if_neg h2] at hd
  by_cases h3 : 0x1200000 ≤ off ∧ off < 0x1220000
  · rw [if_pos h3] at hd
    exact absurd (Option.some.inj hd) (mcReg_ne_rwcV _ _ _)
  rw [if_neg h3] at hd
  by_cases h4 : 0x1220000 ≤ off ∧ off < 0x1230000
  · rw [if_pos h4] at hd
    exact absurd (Option.some.inj hd) (mcReg_ne_rwcV _ _ _)
  rw [if_neg h4] at hd
  by_cases h5 : 0x1300000 ≤ off ∧ off < 0x1301000
  · rw [if_pos h5] at hd
    exact ⟨h5.1, portReg_rwcV (Option.some.inj hd)⟩
  rw [if_neg h5, if_neg (by omega), if_neg (by omega), if_neg (by omega), if_neg (by omega), if_neg (by omega),
    if_neg (by omega), if_neg (by omega), if_neg (by omega), if_neg (by omega)] at hd
  cases hd

/-- Between the table block and the host-link block, contexts and ARRAY_MAP have them. -/
theorem rwcV_above_tables {off mask : Nat} (hd : regDesc off = some (.rwcV mask)) (hlo : 0x1330000 ≤ off)
    (hhi : off < 0x1400000) :
    (off < 0x1330400 ∧ off % 0x10 = 4) ∨ (0x1340000 ≤ off ∧ off < 0x1343000 ∧ off % 8 = 0) := by
  have hc := blockOffsets
  rw [regDesc, if_neg (by omega), if_neg (by omega), if_neg (by omega), if_neg (by omega), if_neg (by omega),
    if_neg (by omega), if_neg (by omega), if_neg (by omega)] at hd
  by_cases h1 : offCtx 0 ≤ off ∧ off < offCtx 64
  · rw [if_pos h1] at hd
    exact .inl ⟨by omega, ctxReg_rwcV (Option.some.inj hd)⟩
  rw [if_neg h1] at hd
  by_cases h2 : offArrayMap 0 ≤ off ∧ off < offArrayMap 1536
  · rw [if_pos h2] at hd
    by_cases h8 : off % 8 = 0
    · exact .inr ⟨by omega, by omega, h8⟩
    · rw [if_neg h8] at hd
      cases hd
  rw [if_neg h2, if_neg (by omega), if_neg (by omega), if_neg (by omega), if_neg (by omega)] at hd
  cases hd

theorem regBlock_port {off : Nat} (hlo : 0x1300000 ≤ off) (hhi : off < 0x1301000) : regBlock off = off / 0x100 * 0x100 := by
  rw [regBlock, if_neg (by omega), if_neg (by omega), if_neg (by omega), if_pos hhi]

theorem regBlock_ctx {off : Nat} (hlo : 0x1330000 ≤ off) (hhi : off < 0x1340000) : regBlock off = offCtx 0 := by
  have hc := blockOffsets
  rw [regBlock, if_neg (by omega), if_neg (by omega), if_neg (by omega), if_neg (by omega), if_neg (by omega),
    if_neg (by omega), if_neg (by omega), if_pos (by omega)]

theorem regBlock_arrayMap {off : Nat} (hlo : 0x1340000 ≤ off) (hhi : off < 0x1400000) : regBlock off = offArrayMap 0 := by
  have hc := blockOffsets
  rw [regBlock, if_neg (by omega), if_neg (by omega), if_neg (by omega), if_neg (by omega), if_neg (by omega),
    if_neg (by omega), if_neg (by omega), if_neg (by omega), if_pos (by omega)]

/-- Both words of such a register lie in one block (R6). -/
theorem regBlock_complement {off mask : Nat} (hd : regDesc off = some (.rwcV mask))
    (hoff : off < 0x1301000 ∨ 0x1330000 ≤ off ∧ off < 0x1400000) : regBlock (off + 4) = regBlock off := by
  rcases hoff with hlt | ⟨hlo, hhi⟩
  · obtain ⟨hlo, hmod⟩ := rwcV_below_fabric hd hlt
    rw [regBlock_port hlo hlt, regBlock_port (by omega) (by omega)]
    omega
  · rcases rwcV_above_tables hd hlo hhi with ⟨hctx, -⟩ | ⟨harr, hend, -⟩
    · rw [regBlock_ctx hlo (by omega), regBlock_ctx (by omega) (by omega)]
    · rw [regBlock_arrayMap harr hhi, regBlock_arrayMap (by omega) (by omega)]

/-! ## The complement word (R6) -/

section
variable {s : State} {off mask : Nat} {w : Word}

/-- The right complement commits the value pending. -/
theorem State.writeComplement_commits (hp : s.pendOf (regBlock off) = some (off, w)) (hb : regBlock (off + 4) = regBlock off)
    (hd : regDesc off = some (.rwcV mask)) (src : Nat) :
    s.writeComplement src (off + 4) (~~~ w) = (s.setPend (regBlock off) none).commitRwc off mask w := by
  simp [State.writeComplement, hb, hp, hd, RegDesc.rwcV]

/-- A wrong one drops it. -/
theorem State.writeComplement_fails (hp : s.pendOf (regBlock off) = some (off, w)) (hb : regBlock (off + 4) = regBlock off)
    {v : Word} (hv : v ≠ ~~~ w) (hoff : off ≠ offPwr) (src : Nat) :
    s.writeComplement src (off + 4) v = (s.setPend (regBlock off) none).integrity src 7 none 0xFFFF off w v := by
  simp [State.writeComplement, hb, hp, hv, State.rwcFailed, hoff]

theorem State.reg_setRwc (s : State) (off j : Nat) (v : Word) :
    (s.setRwc off v).reg j = if j = off + 4 then ~~~ v else if j = off then v else s.reg j := by
  simp only [State.setRwc, State.reg_setReg]

/-- A commit outside the cap, the moored and the fabric block stores both words; for ARRAY_MAP the core's copy is dropped
(R56). -/
theorem State.commitRwc_stores (hcap : off ≠ offPwr) (hmoor : off ≠ offMoor + 0x10) (hjob : off ≠ offFabJob)
    (s : State) (w : Word) :
    s.commitRwc off mask w =
      if offArrayMap 0 ≤ off ∧ off < offHost then
        (s.setRwc off (w &&& BitVec.ofNat 32 mask)).modCore ((off - offArrayMap 0) / 8) fun c => { c with mapCopy := none }
      else s.setRwc off (w &&& BitVec.ofNat 32 mask) := by
  simp only [State.commitRwc, if_neg hcap, if_neg hmoor, if_neg hjob]

end

/-! ## The clauses of O35 -/

theorem regsKept_setReg (s : State) (off : Nat) (v : Word) : regsKept s (s.setReg off v) [off] := by
  intro o ho
  rw [State.reg_setReg, if_neg (by simpa using ho)]

theorem regsKept_setRwc (s : State) (off : Nat) (v : Word) : regsKept s (s.setRwc off v) [off, off + 4] := by
  intro o ho
  simp only [List.mem_cons, List.not_mem_nil, or_false, not_or] at ho
  rw [State.reg_setRwc, if_neg ho.2, if_neg ho.1]

section
variable {s : State} {off mask : Nat} {d : RegDesc} {v w : Word}

section
variable (hex : ∀ s, exec (.setupRegisterWrite off v) s = .next (s.setupWrite 0x650 off v)) (hd : regDesc off = some d)
  (hh : s.setupHole off = false)
include hex hd hh

/-- SETUP_REGISTER_WRITE of a plain register (R5). -/
theorem next_plainWrite (hk : d.kind = .rw mask) (hm : mask ≠ 0) (hp : s.pendOf (regBlock off) = none) :
    Next (.setupRegisterWrite off v) s fun t =>
      t.reg off = v &&& BitVec.ofNat 32 mask ∧ regsKept s t [off]
        ∧ t = { s with setup := t.setup, svc := { s.svc with clCtrl := t.svc.clCtrl } } := by
  obtain ⟨m, hw⟩ := State.setupWrite_plain hd hh hk hm 0x650 v
  rw [State.dropPend_of_none hp] at hw
  refine ⟨_, hex s, ?_⟩
  rw [hw]
  exact ⟨State.reg_setReg_same s off _, regsKept_setReg s off _, rfl⟩

/-- The same with a value pending in the block: that value is dropped (R6). -/
theorem next_plainWrite_drops (hk : d.kind = .rw mask) (hm : mask ≠ 0) {o : Nat}
    (hp : s.pendOf (regBlock off) = some (o, w)) (ho : o ≠ offPwr) :
    Next (.setupRegisterWrite off v) s fun t =>
      t.reg off = v &&& BitVec.ofNat 32 mask ∧ t.pendOf (regBlock off) = none ∧ t.Latched 0x650 3 7 := by
  obtain ⟨m, hw⟩ := State.setupWrite_plain hd hh hk hm 0x650 v
  rw [State.dropPend_of_some hp ho] at hw
  refine ⟨_, hex s, ?_⟩
  rw [hw]
  generalize hu : s.setPend (regBlock off) none = u
  have hpend : u.pendOf (regBlock off) = none := hu ▸ State.pendOf_setPend_same s _ none
  have hframe := State.integrity_frame u 0x650 7 none 0xFFFF o w 0
  have hrec : (u.integrity 0x650 7 none 0xFFFF o w 0).Latched 0x650 3 7 := State.integrity_latched (by decide) _ _ _ _ _ _ _
  exact ⟨State.reg_setReg_same _ off _, (State.pendOf_congr hframe.rwcPend _).trans hpend, hrec.keep (.of_err rfl)⟩

/-- A lockable register before its lock is set (R5). -/
theorem next_unlockedWrite (hk : d.kind = .rwl mask) (hl : s.locked off = false) (hp : s.pendOf (regBlock off) = none) :
    Next (.setupRegisterWrite off v) s fun t =>
      t.reg off = clampSize off (v &&& BitVec.ofNat 32 mask) ∧ regsKept s t [off] ∧ t = { s with setup := t.setup } := by
  have hw := State.setupWrite_lockable hd hh hk hp 0x650 v
  rw [hl, if_neg (by decide)] at hw
  refine ⟨_, hex s, ?_⟩
  rw [hw]
  exact ⟨State.reg_setReg_same s off _, regsKept_setReg s off _, rfl⟩

/-- The same once the lock is set: an integrity event alone (R5, R387). -/
theorem next_lockedWrite (hk : d.kind = .rwl mask) (hl : s.locked off = true) (hp : s.pendOf (regBlock off) = none)
    (hs : soundMem s) :
    Next (.setupRegisterWrite off v) s fun t => t.setup = s.setup ∧ t.cores = s.cores ∧ t.Latched 0x650 3 8 := by
  have hw := State.setupWrite_lockable hd hh hk hp 0x650 v
  rw [if_pos hl] at hw
  refine ⟨_, hex s, ?_⟩
  rw [hw]
  exact ⟨State.integrity_setup hs _ _ _ _ _ _ _, (State.integrity_frame _ _ _ _ _ _ _ _).cores,
    State.integrity_latched (by decide) _ _ _ _ _ _ _⟩

end

/-- A hole (R165, R410). -/
theorem next_holeWrite (hex : ∀ s, exec (.setupRegisterWrite off v) s = .next (s.setupWrite 0x650 off v))
    (hd : regDesc off = none) (hs : soundMem s) :
    Next (.setupRegisterWrite off v) s fun t => t.setup = s.setup ∧ t.cores = s.cores ∧ t.Latched 0x650 4 2 := by
  refine ⟨_, hex s, ?_⟩
  rw [State.setupWrite_of_none hd]
  exact ⟨State.report_setup hs _ _ _ _ _ _, (State.report_frame _ _ _ _ _ _ _).cores,
    State.report_latched (by decide) _ _ _ _ _ _⟩

/-- The value word is held pending (R6). -/
theorem next_rwcValueWrite (hv : isRwcValue off = true) (hh : s.setupHole off = false)
    (hp : s.pendOf (regBlock off) = none) :
    Next (.rwcValueWrite off v) s fun t =>
      t.pendOf (regBlock off) = some (off, v) ∧ t.setup = s.setup ∧ t = { s with rwcPend := t.rwcPend } := by
  obtain ⟨d, mask, hd, hk⟩ := kind_of_isRwcValue hv
  refine ⟨_, exec_rwcValueWrite hv v s, ?_⟩
  rw [State.setupWrite_value hd hh hk, State.dropPend_of_none hp]
  exact ⟨State.pendOf_setPend_same _ _ _, rfl, rfl⟩

section
variable (hc : isRwcComplement (off + 4) = true) (hd : regDesc off = some (.rwcV mask)) (hh : s.setupHole (off + 4) = false)
  (hp : s.pendOf (regBlock off) = some (off, w)) (hoff : off < 0x1301000 ∨ 0x1330000 ≤ off ∧ off < 0x1400000)
include hc hd hh hp hoff

/-- The right complement word commits both words (R6), and for ARRAY_MAP drops the core's copy of it (R56). -/
theorem next_rwcComplement_commits :
    Next (.rwcComplementWrite (off + 4) (~~~ w)) s fun t =>
      t.reg off = w &&& BitVec.ofNat 32 mask ∧ t.reg (off + 4) = ~~~ (w &&& BitVec.ofNat 32 mask)
        ∧ t.pendOf (regBlock off) = none ∧ regsKept s t [off, off + 4]
        ∧ (∀ n, 0x1340000 + 8 * n = off → (t.core n).mapCopy = none) := by
  obtain ⟨e, he, hek⟩ := kind_of_isRwcComplement hc
  have hb := regBlock_complement hd hoff
  have hoffs := blockOffsets
  have hmoor : offMoor = 0x1400800 := rfl
  refine ⟨_, exec_rwcComplementWrite hc _ s, ?_⟩
  rw [State.setupWrite_complement he hh hek, State.writeComplement_commits hp hb hd,
    State.commitRwc_stores (by omega) (by omega) (by omega)]
  generalize hu : s.setPend (regBlock off) none = u
  have hpend : u.pendOf (regBlock off) = none := hu ▸ State.pendOf_setPend_same s _ none
  have hkept : regsKept s u [] := by intro o _; rw [← hu]; rfl
  generalize hx : w &&& BitVec.ofNat 32 mask = x
  have hlow : (u.setRwc off x).reg off = x := by rw [State.reg_setRwc, if_neg (by omega), if_pos rfl]
  have hhigh : (u.setRwc off x).reg (off + 4) = ~~~ x := by rw [State.reg_setRwc, if_pos rfl]
  have hrest : regsKept s (u.setRwc off x) [off, off + 4] := fun o ho =>
    (regsKept_setRwc u off x o ho).trans (hkept o (List.not_mem_nil))
  split
  · refine ⟨hlow, hhigh, hpend, hrest, fun n hn => ?_⟩
    rw [State.core_modCore, if_pos (by omega)]
  · exact ⟨hlow, hhigh, hpend, hrest, fun n hn => by omega⟩

/-- A wrong one drops the value pending and is an integrity event (R6, R387). -/
theorem next_rwcComplement_fails (hv : v ≠ ~~~ w) (hs : soundMem s) :
    Next (.rwcComplementWrite (off + 4) v) s fun t =>
      t.setup = s.setup ∧ t.pendOf (regBlock off) = none ∧ t.cores = s.cores ∧ t.Latched 0x650 3 7 := by
  obtain ⟨e, he, hek⟩ := kind_of_isRwcComplement hc
  have hoffs := blockOffsets
  refine ⟨_, exec_rwcComplementWrite hc v s, ?_⟩
  rw [State.setupWrite_complement he hh hek, State.writeComplement_fails hp (regBlock_complement hd hoff) hv (by omega)]
  generalize hu : s.setPend (regBlock off) none = u
  have hpend : u.pendOf (regBlock off) = none := hu ▸ State.pendOf_setPend_same s _ none
  have hsame : soundMem u ∧ u.setup = s.setup ∧ u.cores = s.cores := by rw [← hu]; exact ⟨hs, rfl, rfl⟩
  obtain ⟨hsu, hset, hcor⟩ := hsame
  have hframe := State.integrity_frame u 0x650 7 none 0xFFFF off w v
  exact ⟨(State.integrity_setup hsu _ _ _ _ _ _ _).trans hset, (State.pendOf_congr hframe.rwcPend _).trans hpend,
    hframe.cores.trans hcor, State.integrity_latched (by decide) _ _ _ _ _ _ _⟩

end
end

/-- Reading LCOUNT_LO latches the high half for its requester alone (R422). -/
theorem next_lcountLoRead (s : State) (rq : Requester) :
    Next (.lcountLoRead rq) s fun t =>
      (Sparse.get (fun _ => 0) t.lcLatch (requesterIndex rq)).toNat = s.lcount.toNat / 2 ^ 32
        ∧ (∀ j, j ≠ requesterIndex rq →
          Sparse.get (fun _ => (0 : Word)) t.lcLatch j = Sparse.get (fun _ => 0) s.lcLatch j)
        ∧ t = { s with lcLatch := t.lcLatch } := by
  have hhole : s.setupHole (offGond + 8) = false := by rfl
  have hread : exec (.lcountLoRead rq) s = .next { s with
      lcLatch := Sparse.set (fun _ => 0) s.lcLatch (requesterIndex rq) (BitVec.ofNat 32 (s.lcount.toNat / 2 ^ 32)) } := by
    show Host.Outcome.next (s.setupRead rq 0x650 (offGond + 8)).1 = _
    rw [State.setupRead, if_neg (by decide), if_neg (by decide), hhole, if_neg (by decide), if_pos rfl]
  have hlt := s.lcount.isLt
  refine ⟨_, hread, ?_, fun j hj => Sparse.get_set_other _ _ hj _, rfl⟩
  rw [Sparse.get_set_same, BitVec.toNat_ofNat]
  omega

end Sys2Proof.Machine

open Sys2Proof Sys2Proof.Machine Sys2Proof.Claims

/-- Settles O35, clause by clause: the access codes of a plain write, the two words of a complement-checked register, the read of
LCOUNT_LO. -/
theorem registerWrites : Obligations.RegisterWrites := by
  unfold Obligations.RegisterWrites
  intro s off mask v w rq hnil
  have hp := State.pendOf_of_nil hnil
  refine ⟨fun h4 hlt hout => ?_, fun hv hh => next_rwcValueWrite hv hh (hp _), ?_, ?_⟩
  · have hex := exec_setupRegisterWrite h4 hlt hout v
    refine ⟨fun d hd hh => ⟨fun hk => ?_, fun hk hm _ => next_plainWrite hex hd hh hk hm (hp _), ?_,
      fun hk hl => next_unlockedWrite hex hd hh hk hl (hp _), fun hk hl hs => next_lockedWrite hex hd hh hk hl (hp _) hs⟩,
      fun hd hs => next_holeWrite hex hd hs⟩
    · rw [hex, State.setupWrite_readOnly hd hh hk, State.dropPend_of_none (hp _)]
    · rintro o u rfl ho hk hm
      exact next_plainWrite_drops hex hd hh hk hm (pendOf_single s _ _) ho
  · rintro u rfl hc hd hh hoff
    have hpend := pendOf_single s (regBlock off) (some (off, w))
    refine ⟨?_, fun hv hs => next_rwcComplement_fails hc hd hh hpend hoff hv hs⟩
    rintro rfl
    exact next_rwcComplement_commits hc hd hh hpend hoff
  · cases rq <;> exact next_lcountLoRead s _

end

section
/-! # The local counter on an empty queue (O2)

A count that passes (R18, log 6), and how far a partition's replica of the counter may lie behind it (R19, log 87). -/
namespace Sys2Proof.Machine

/-- A module that has power, is not in standby and has its clocks counts (R407, R438). -/
theorem State.tick_of_running {s : State} (hp : s.powered = true) (hs : s.standby = false) (hm : s.mgmt.stopped = false) :
    s.tick = { s with lcount := s.lcount + 1, late := (List.range 8).filter fun p => Config.replicaLate p (s.lcount + 1) } := by
  rw [State.tick, if_pos (by simp [hp, hs, hm])]

theorem State.tick_of_still {s : State} (h : s.powered = false ∨ s.standby = true ∨ s.mgmt.stopped = true) : s.tick = s := by
  rw [State.tick, if_neg]
  rcases h with h | h | h <;> simp [h]

/-- A replica shows the counter or, once something has been counted, the count before (R19). -/
theorem State.replica_cases (s : State) (p : Nat) :
    s.replica p = s.lcount ∨ s.lcount ≠ 0 ∧ s.replica p = s.lcount - 1 := by
  unfold State.replica
  split
  · next h => exact .inr ⟨h.2, rfl⟩
  · exact .inl rfl

theorem State.replica_add_one (s : State) (p : Nat) : s.replica p = s.lcount ∨ s.replica p + 1 = s.lcount := by
  rcases s.replica_cases p with h | ⟨-, h⟩
  · exact .inl h
  · exact .inr (by rw [h, BitVec.sub_add_cancel])

/-- The same of the numbers, where a count of 0 has none before it. -/
theorem State.replica_toNat (s : State) (p : Nat) :
    (s.replica p).toNat = s.lcount.toNat ∨ (s.replica p).toNat + 1 = s.lcount.toNat := by
  rcases s.replica_cases p with h | ⟨h0, h⟩
  · exact .inl (by rw [h])
  · exact .inr (by rw [h]; bv_omega)

theorem step_of_empty {s : State} (h : s.pending = []) : step s = .next s.tick := by
  rw [step, h]

end Sys2Proof.Machine

open Sys2Proof Sys2Proof.Machine

/-- Settles O2: the step is `tick`, which counts or stands still. -/
theorem emptyQueueTicks : Obligations.EmptyQueueTicks := by
  unfold Obligations.EmptyQueueTicks
  intro s hq
  refine ⟨fun hp hs hm => ?_, fun h => ?_⟩
  · refine ⟨_, step_of_empty hq, ?_, fun p _ => State.replica_add_one _ p, ?_⟩ <;> rw [State.tick_of_running hp hs hm]
    exact BitVec.toNat_add _ _
  · rw [step_of_empty hq, State.tick_of_still h]

end

section
/-! # The end of an issue

What holds of the state that a finished instruction leaves: `a.issued (a.advance (a.supersede old u us))`, `u` being the state
after its own effect (R116 to R118, R131, R395). -/
namespace Sys2Proof.Machine

theorem At.supersede_cores (a : At) (old s : State) (us : List Use) : (a.supersede old s us).cores = s.cores := by
  rw [At.supersede_eq]

theorem At.advance_onlyCores (a : At) (s : State) : OnlyCores s (a.advance s) := by
  unfold At.advance At.goto At.modGroup
  exact State.modGroup_onlyCores _ _ _ _ _

theorem OnlyCores.reqs {s t : State} (h : OnlyCores s t) : t.reqs = s.reqs := by
  rw [h]

/-- Going on changes no request: superseding first or last makes no difference. -/
theorem At.advance_supersede (a : At) (old u : State) (us : List Use) :
    a.advance (a.supersede old u us) = a.supersede old (a.advance u) us := by
  rw [At.supersede_eq a old u, At.supersede_eq a old (a.advance u), At.supersede_reqs (a.advance_onlyCores u).reqs]
  exact At.goto_reqs _ _ _ _

section
variable (a : At) (old : State) (us : List Use) {u : State} {x : Block} (h : u.block a.core a.blk = some x)
include h

/-- The sub-group stands at the next instruction, and joins that are complete have taken place (R117). -/
theorem At.groupIn_finished : a.groupIn (a.issued (a.advance (a.supersede old u us))) =
    ((a.groupIn u).replace a.sub.lane [{ a.stamp u with pc := a.next }]).joined := by
  rw [At.groupIn_issued, At.advance_supersede]
  exact (State.group_of_cores (a.supersede_cores old _ us) _ _ _).trans (At.groupIn_modGroup a u _ h)

theorem At.finished_kept : a.OtherGroupsKept u (a.issued (a.advance (a.supersede old u us))) := by
  rw [At.advance_supersede]
  exact ((At.modGroup_kept a u _ h).trans (.of_cores (a.supersede_cores old _ us))).trans (At.issued_kept a _)

theorem At.finished_sameRegs :
    (a.groupIn u).SameRegs (a.groupIn (a.issued (a.advance (a.supersede old u us)))) := by
  rw [At.groupIn_finished a old us h]
  exact (Group.replace_same _ _ _).trans (Group.joined_same _)

/-- No register changes once an instruction has had its effect. -/
theorem At.finished_regsKept : a.RegsKept u (a.issued (a.advance (a.supersede old u us))) := by
  obtain ⟨ht, hu, hp, hh, hl⟩ := At.finished_sameRegs a old us h
  exact ⟨ht, hu, hp, hh, hl, At.finished_kept a old us h⟩

/-- An operand that the instruction has written stays written. -/
theorem At.put_finished (d : BitVec 9) (n : Nat) (v : Nat → Nat) :
    a.WroteRegs u (a.issued (a.advance (a.supersede old (a.put u d n (a.each v)) us))) d n (a.each v) := by
  obtain ⟨hw, -⟩ := At.put_wrote a u d n (a.each v) h
    (fun p hp => by obtain ⟨i, hi, rfl⟩ := List.mem_map.mp hp; exact lanesOf_lt _ _ hi)
    (by rw [At.each_fst]; exact lanesOf_nodup _) a.next
  have hcores := a.supersede_cores old (a.advance (a.put u d n (a.each v))) us
  rw [At.advance_supersede]
  exact hw.issued ((At.groupIn_issued a _).trans (State.group_of_cores hcores _ _ _))
    ((At.OtherGroupsKept.of_cores hcores).trans (At.issued_kept a _))

end

/-- An effect on cores alone leaves what issuing itself changes. -/
theorem At.finished_onlyIssued (a : At) {old s u : State} (us : List Use) (ho : old.reqs = s.reqs) (h : OnlyCores s u) :
    a.OnlyIssued us s (a.issued (a.advance (a.supersede old u us))) := by
  have hadv : OnlyCores s (a.advance u) := h.trans (a.advance_onlyCores u)
  rw [At.advance_supersede]
  generalize a.advance u = v at hadv
  obtain ⟨heq, hturn⟩ := At.issued_onlyDraws a (us := us) old ho (t := v) (by rw [hadv])
  have hfree : (a.issued (a.supersede old v us)).freeCtr = s.freeCtr := by
    rw [At.supersede_eq, hadv]
    rfl
  exact ⟨heq.trans (by rw [hfree]), hturn⟩

/-- Values on which the lanes agree are written without a draw (R131). -/
theorem At.put_onlyCores (a : At) (s : State) (d : BitVec 9) (n k : Nat) : OnlyCores s (a.put s d n (a.each fun _ => k)) := by
  have hagree : agree (a.each fun _ => k) = true :=
    agree_of_const (k := k) fun p hp => by obtain ⟨i, -, rfl⟩ := List.mem_map.mp hp; rfl
  rw [At.put, State.putVals, hagree, if_neg (by simp)]
  exact State.modGroup_onlyCores _ _ _ _ _

/-- The value of a single register. -/
theorem Group.val_one (g : Group) (f : BitVec 9) (lane : Nat) : g.val f lane 1 = (g.rd f lane 0).toNat := by
  simp [Group.val]

end Sys2Proof.Machine
end

section
/-! # Writing back the modified lines of a cache part (R162, R180, R219)

A write-back changes memory, requests, links, the recorder and the resets asked for; of the cores it changes the mark of the
line alone. -/
namespace Sys2Proof.Machine

/-! ## What changes neither cores nor the local counter -/

/-- The cores and the local counter are as before. -/
structure State.CoresKept (s t : State) : Prop where
  cores : t.cores = s.cores
  lcount : t.lcount = s.lcount

theorem State.CoresKept.refl (s : State) : s.CoresKept s := ⟨rfl, rfl⟩

theorem State.CoresKept.trans {s t u : State} (h : s.CoresKept t) (h' : t.CoresKept u) : s.CoresKept u :=
  ⟨h'.cores.trans h.cores, h'.lcount.trans h.lcount⟩

theorem State.FetchFrame.coresKept {s t : State} (h : s.FetchFrame t) : s.CoresKept t := ⟨h.cores, h.lcount⟩

theorem State.CoresKept.forEach {α : Type} {f : State → α → State} {s u : State} (h : s.CoresKept u)
    (hf : ∀ (s : State) x, s.CoresKept (f s x)) (xs : List α) : s.CoresKept (Machine.forEach f u xs) := by
  induction xs generalizing u with
  | nil => exact h
  | cons x xs ih => exact ih (h.trans (hf u x))

theorem State.CoresKept.foldl {α β : Type} {f : State × β → α → State × β} (hf : ∀ (p : State × β) x, p.1.CoresKept (f p x).1)
    (p : State × β) (xs : List α) : p.1.CoresKept (xs.foldl f p).1 := by
  induction xs generalizing p with
  | nil => exact .refl _
  | cons x xs ih => exact (hf p x).trans (ih _)

theorem State.writeMem_coresKept (s : State) (a : Nat) (bs : List Byte) : s.CoresKept (s.writeMem a bs) := by
  unfold State.writeMem
  refine State.CoresKept.trans (t := if isDram a then _ else _) ?_ (State.putMem_frame _ _ _).coresKept
  split
  · refine .forEach (.refl s) (fun s b => ?_) _
    split
    · exact ⟨rfl, rfl⟩
    · exact (State.crcCheck_frame s b).coresKept
  · exact ⟨rfl, rfl⟩

theorem State.writeBitsAll_coresKept (s : State) (ws : List BitWrite) : s.CoresKept (s.writeBitsAll ws) := by
  have hcheck : s.CoresKept (forEach (fun s w => if isDram w.addr then s.crcCheck (w.addr / 64 * 64) else s) s ws) := by
    refine .forEach (.refl s) (fun s w => ?_) _
    split
    · exact (State.crcCheck_frame s _).coresKept
    · exact .refl s
  unfold State.writeBitsAll
  refine .forEach (f := State.writeBits) ?_ (fun s w => (State.putMem_frame s _ _).coresKept) _
  exact ⟨hcheck.cores, hcheck.lcount⟩

theorem State.issueReq_coresKept {s t : State} {ptype dst ctx : Nat} {owner : Owner} {addr len : Nat} {ext : List Word}
    {data : List Byte} {org : Origin} {acq : Bool}
    (h : s.issueReq ptype dst ctx owner addr len ext data org acq = some t) : s.CoresKept t := by
  unfold State.issueReq at h
  split at h
  · cases h
  · cases h
    exact ⟨rfl, rfl⟩

theorem State.issueWrites_coresKept (s : State) (dev lpn ctx : Nat) (owner : Owner) (addr : Nat) (ws : List OffWrite)
    (org : Origin) : s.CoresKept (s.issueWrites dev lpn ctx owner addr ws org).1 := by
  unfold State.issueWrites
  refine State.CoresKept.foldl (fun p r => ?_) (s, true) _
  split
  · next t ht => exact State.issueReq_coresKept ht
  · exact .refl _

theorem State.askContext_coresKept (s : State) (c : Nat) : s.CoresKept (s.askContext c) := by
  unfold State.askContext State.askChip
  split
  · split <;> exact ⟨rfl, rfl⟩
  · split <;> exact ⟨rfl, rfl⟩

theorem State.threadFault_coresKept (s : State) (core ctx cls grp : Nat) (mask : BitVec 32) (pc addr : Nat) :
    s.CoresKept (s.threadFault core ctx cls grp mask pc addr) :=
  (State.report_frame _ _ _ _ _ _ _).coresKept.trans (State.askContext_coresKept _ _)

/-! ## One line -/

/-- Only a line with modified bytes is written back, and then it is marked unmodified. -/
theorem State.writeBack_cases (s : State) (core k : Nat) :
    (s.writeBack core k = s ∧ ∀ l, (s.core core).line k = some l → l.dirty = 0)
      ∨ ∃ l : Line, (s.setLine core k (some { l with dirty := 0 })).CoresKept (s.writeBack core k) := by
  unfold State.writeBack
  split
  · next hl => exact .inl ⟨rfl, fun l h => by rw [hl] at h; cases h⟩
  · next l hl =>
    split
    · next hd => exact .inl ⟨rfl, fun m h => by rw [hl] at h; cases h; exact hd⟩
    · refine .inr ⟨l, ?_⟩
      simp only []
      split
      · split
        · exact State.writeMem_coresKept _ _ _
        · exact State.writeBitsAll_coresKept _ _
      · split
        · exact .refl _
        · split
          · exact State.issueWrites_coresKept _ _ _ _ _ _ _ _
          · exact (State.issueWrites_coresKept _ _ _ _ _ _ _ _).trans (State.threadFault_coresKept _ _ _ _ _ _ _ _)

theorem State.line_setLine (s : State) (core k j : Nat) (l : Option Line) :
    ((s.setLine core k l).core core).line j = if j = k then l else (s.core core).line j := by
  unfold State.setLine Core.line
  rw [State.core_modCore, if_pos rfl]
  exact Sparse.get_set _ _ _ _ _

theorem State.block_setLine (s : State) (core k c b : Nat) (l : Option Line) :
    (s.setLine core k l).block c b = s.block c b := by
  unfold State.setLine State.block
  rw [State.core_modCore]
  split
  · next h => rw [h]
  · rfl

theorem State.writeBack_block (s : State) (core k c b : Nat) : (s.writeBack core k).block c b = s.block c b := by
  rcases s.writeBack_cases core k with ⟨h, -⟩ | ⟨l, h⟩
  · rw [h]
  · rw [State.block_of_cores h.cores, State.block_setLine]

theorem State.writeBack_lcount (s : State) (core k : Nat) : (s.writeBack core k).lcount = s.lcount := by
  rcases s.writeBack_cases core k with ⟨h, -⟩ | ⟨l, h⟩
  · rw [h]
  · exact h.lcount

/-- A line that has modified bytes afterwards is another one, and had them before. -/
theorem State.line_of_writeBack {s : State} {core k j : Nat} {l : Line} (h : ((s.writeBack core k).core core).line j = some l)
    (hd : l.dirty ≠ 0) : j ≠ k ∧ (s.core core).line j = some l := by
  rcases s.writeBack_cases core k with ⟨hs, hk⟩ | ⟨m, hs⟩
  · rw [hs] at h
    exact ⟨fun hj => hd (hk l (hj ▸ h)), h⟩
  · rw [State.core_congr hs.cores, State.line_setLine] at h
    split at h
    · cases h
      exact absurd rfl hd
    · next hj => exact ⟨hj, h⟩

/-! ## Every line -/

theorem State.writeBackAll_block (s : State) (core c b : Nat) : (s.writeBackAll core).block c b = s.block c b := by
  unfold State.writeBackAll
  generalize (s.core core).keys = ks
  induction ks generalizing s with
  | nil => rfl
  | cons k ks ih => exact (ih _).trans (s.writeBack_block core k c b)

theorem State.writeBackAll_group (s : State) (core c b g : Nat) : (s.writeBackAll core).group c b g = s.group c b g := by
  unfold State.group
  rw [State.writeBackAll_block]

theorem State.writeBackAll_lcount (s : State) (core : Nat) : (s.writeBackAll core).lcount = s.lcount := by
  unfold State.writeBackAll
  generalize (s.core core).keys = ks
  induction ks generalizing s with
  | nil => rfl
  | cons k ks ih => exact (ih _).trans (s.writeBack_lcount core k)

theorem Sparse.mem_keys_of_get {α : Type} {m : Sparse (Option α)} {k : Nat} {v : α} (h : Sparse.get (fun _ => none) m k = some v) :
    k ∈ m.map Prod.fst := by
  induction m with
  | nil => cases h
  | cons p m ih =>
    rw [List.map_cons, List.mem_cons]
    by_cases hk : k = p.1
    · exact .inl hk
    · exact .inr (ih (by simpa [Sparse.get, hk] using h))

/-- Once the lines of the keys `ks` are written back, a line with modified bytes has another key, and had them before. -/
theorem State.line_of_writeBacks {s : State} {core j : Nat} {l : Line} (ks : List Nat)
    (h : ((forEach (fun s k => s.writeBack core k) s ks).core core).line j = some l) (hd : l.dirty ≠ 0) :
    j ∉ ks ∧ (s.core core).line j = some l := by
  induction ks generalizing s with
  | nil => exact ⟨List.not_mem_nil, h⟩
  | cons k ks ih =>
    obtain ⟨hks, hl⟩ := ih h
    obtain ⟨hk, hl⟩ := State.line_of_writeBack hl hd
    exact ⟨by simp [hk, hks], hl⟩

/-- No line of the core has modified bytes left. -/
theorem State.writeBackAll_clean {s : State} {core k : Nat} {l : Line}
    (h : ((s.writeBackAll core).core core).line k = some l) : l.dirty = 0 := by
  by_contra hd
  obtain ⟨hk, hl⟩ := State.line_of_writeBacks _ h hd
  exact hk (Sparse.mem_keys_of_get hl)

end Sys2Proof.Machine
end

section
/-! # Special reads and fences (O16)

The values of SRD (R115, R161), the cases of a release (R219; which writes one of fabric scope waits for is log 76), and FENCE
(R162). -/
namespace Sys2Proof.Machine
open Sys2Proof.Claims

/-! ## SRD -/

theorem exec_srd {f : FormR} {n : Nat} (hm : f.mod = 0) (hc : fld f.ctl 8 2 = 0) (hn : srdRegs (fld f.ctl 0 8) = some n)
    (sg : SgRef) (s : State) :
    exec (.srd sg f) s = .next (s.issue sg f.g false false true [.dest f.d n, .unused f.a, .unused f.b, .unused f.c] fun a s =>
      .done (a.put (if fld f.ctl 0 8 = 0x24 then s.setLstat a.core a.blk a.grp 0 else s) f.d n
        (a.each fun i => srdValue s a (fld f.ctl 0 8) i))) := by
  show execSrd sg f s = _
  simp [execSrd, hm, hc, hn]

/-- A register that was written in a participating lane reads as the value, a u register in any lane. -/
theorem At.WroteRegs.rd {a : At} {s t : State} {d : BitVec 9} {v : Word} (h : a.WroteRegs s t d 1 (a.each fun _ => v.toNat))
    (hm : a.m ≠ 0) :
    ((fileOf d).1 = .t → ∀ i ∈ a.lanes, (a.groupIn t).rd d i 0 = v) ∧ ((fileOf d).1 = .u → (a.groupIn t).rd d 0 0 = v) := by
  have hword (i : Nat) (hv : (a.groupIn t).val d i 1 = v.toNat % 2 ^ (32 * 1)) : (a.groupIn t).rd d i 0 = v := by
    rw [Group.val_one] at hv
    exact BitVec.eq_of_toNat_eq (hv.trans (Nat.mod_eq_of_lt v.isLt))
  have hmem {i : Nat} (hi : i ∈ a.lanes) : (i, v.toNat) ∈ a.each fun _ => v.toNat := List.mem_map.mpr ⟨i, hi, rfl⟩
  refine ⟨fun hf i hi => hword i (h.inT hf _ (hmem hi)), fun hf => hword 0 (h.inU hf ?_ _ (fun p hp => ?_) 0)⟩
  · exact fun hnil => lanesOf_ne_nil hm (List.map_eq_nil_iff.mp hnil)
  · obtain ⟨i, -, rfl⟩ := List.mem_map.mp hp
    rfl

/-- Reading LSTAT clears it in the group and writes what it held (R161). -/
theorem next_srdLstat {f : FormR} (hm : f.mod = 0) (hc : fld f.ctl 8 2 = 0) (hsel : fld f.ctl 0 8 = 0x24) {s s1 : State}
    {sg : SgRef} {a : At} (h : s.issuing sg f.g false [.dest f.d 1, .unused f.a, .unused f.b, .unused f.c] = some (a, s1)) :
    ∃ t, exec (.srd sg f) s = .next t ∧ (a.groupIn t).lstat = 0
      ∧ ((fileOf f.d).1 = .t → ∀ i ∈ a.lanes, (a.groupIn t).rd f.d i 0 = a.g.lstat)
      ∧ ((fileOf f.d).1 = .u → (a.groupIn t).rd f.d 0 0 = a.g.lstat)
      ∧ (a.groupIn t).p = a.g.p ∧ (a.groupIn t).h = a.g.h ∧ a.OtherGroupsKept s1 t
      ∧ a.OnlyIssued [.dest f.d 1, .unused f.a, .unused f.b, .unused f.c] s1 t := by
  obtain ⟨⟨x, hblk, -⟩, hg⟩ := State.issuing_block h
  obtain ⟨-, -, -, -, -, -, -, hpart, -⟩ := State.issuing_spec h
  have hex := exec_srd hm hc (n := 1) (by rw [hsel]; rfl) sg s
  rw [State.issue_done h _ rfl, hsel, if_pos rfl] at hex
  refine ⟨_, hex, ?_⟩
  have hclear : a.groupIn (s1.setLstat a.core a.blk a.grp 0) = { a.groupIn s1 with lstat := 0 } :=
    At.groupIn_modGroup a s1 _ hblk
  have hcores : OnlyCores s1 (s1.setLstat a.core a.blk a.grp 0) := State.modGroup_onlyCores _ _ _ _ _
  have hothers : a.OtherGroupsKept s1 (s1.setLstat a.core a.blk a.grp 0) := At.modGroup_kept a s1 _ hblk
  obtain ⟨y, hy, -⟩ := State.block_modGroup s1 a.core a.blk a.grp (fun g => { g with lstat := 0 }) hblk
  have hw := At.put_finished a s [.dest f.d 1, .unused f.a, .unused f.b, .unused f.c] (u := s1.setLstat a.core a.blk a.grp 0)
    hy f.d 1 fun _ => a.g.lstat.toNat
  obtain ⟨hrt, hru⟩ := hw.rd hpart
  exact ⟨hw.lstatKept.trans (by rw [hclear]), hrt, hru, hw.pKept.trans (by rw [hclear, hg]),
    hw.hKept.trans (by rw [hclear, hg]), hothers.trans hw.others,
    At.finished_onlyIssued a _ (State.issuing_reqs h).symm (hcores.trans (At.put_onlyCores _ _ _ _ _))⟩

/-! ## The cases of a release -/

theorem bitsOf_bitsOf {lo len m : Nat} (h : lo + len ≤ m) (v : Nat) : bitsOf (bitsOf v 0 m) lo len = bitsOf v lo len := by
  apply Nat.eq_of_testBit_eq
  intro i
  simp only [bitsOf, Nat.testBit_mod_two_pow, Nat.testBit_shiftRight, Nat.zero_add]
  by_cases hi : i < len
  · simp [hi, show lo + i < m by omega]
  · simp [hi]

/-- ORD lies in the low bits of CTL (R147). -/
theorem ordRelease_ctl (c : BitVec 10) : ordRelease (fld c 0 4) = true ↔ fld c 3 1 = 1 := by
  unfold ordRelease fld
  rw [bitsOf_bitsOf (by decide), beq_iff_eq]

theorem ordScope_ctl (c : BitVec 10) : ordScope (fld c 0 4) = fld c 0 2 :=
  bitsOf_bitsOf (by decide) _

section
variable {s : State} {a : At} {o : Nat}

theorem State.release_of_not_release (h : ordRelease o = false) : s.release a o = (s, true) := by
  rw [State.release, h, if_pos (by decide)]

theorem State.release_of_reads (h : ordRelease o = true) (hr : s.readsPending a = true) : s.release a o = (s, false) := by
  rw [State.release, h, if_neg (by decide), if_pos hr]

theorem State.release_near (h : ordRelease o = true) (hr : s.readsPending a = false) (hs : ordScope o < 2) :
    s.release a o = (s, true) := by
  rw [State.release, h, if_neg (by decide), hr, if_neg (by decide), if_pos hs]

/-- A release of device or fabric scope writes back the cache part; one of fabric scope may have to wait all the same (R219). -/
theorem State.release_far (h : ordRelease o = true) (hr : s.readsPending a = false) (hs : 2 ≤ ordScope o) :
    s.release a o = if ordScope o = 3 ∧ (((s.writeBackAll a.core).reqsOf fun r => r.ofCore a.core a.b.ctx) ≠ []
        ∨ (s.writeBackAll a.core).seenPending a = true)
      then (s.writeBackAll a.core, false) else (s.writeBackAll a.core, true) := by
  rw [State.release, h, if_neg (by decide), hr, if_neg (by decide), if_neg (by omega)]

end

/-! ## FENCE -/

section
variable {f : FormR} {s s1 u : State} {sg : SgRef} {a : At} (hm : f.mod = 0) (hc : fld f.ctl 4 6 = 0) (ho : 4 ≤ fld f.ctl 0 4)
  (h : s.issuing sg f.g false (noOperands f) = some (a, s1))
include hm hc ho

theorem exec_fence : exec (.fence sg f) s = .next (s.issue sg f.g false false true (noOperands f) fun a s =>
    if (s.release a (fld f.ctl 0 4)).2 then .done (s.release a (fld f.ctl 0 4)).1
    else .retry (s.release a (fld f.ctl 0 4)).1) := by
  show execFence sg f s = _
  simp [execFence, hm, hc, ho]

include h

/-- FENCE completes when its release is performed, which it is at once for an acquire. -/
theorem exec_fence_of_released (hr : s1.release a (fld f.ctl 0 4) = (u, true)) :
    exec (.fence sg f) s = .next (a.issued (a.advance (a.supersede s u (noOperands f)))) := by
  rw [exec_fence hm hc ho, State.issue_done h _ (by rw [hr]; rfl)]

/-- It stands where it is while its release waits. -/
theorem exec_fence_of_waiting (hr : s1.release a (fld f.ctl 0 4) = (u, false)) :
    exec (.fence sg f) s = .next (a.issued u) := by
  rw [exec_fence hm hc ho, State.issue_of_issuing h, hr]
  rfl

/-- A fence that writes nothing back changes no register and no core beside the issuing group. -/
theorem next_fence_near (hr : s1.release a (fld f.ctl 0 4) = (s1, true)) :
    ∃ t, exec (.fence sg f) s = .next t ∧ a.RegsKept s1 t ∧ a.OnlyIssued (noOperands f) s1 t := by
  obtain ⟨⟨x, hblk, -⟩, -⟩ := State.issuing_block h
  exact ⟨_, exec_fence_of_released hm hc ho h hr, At.finished_regsKept a s _ hblk,
    At.finished_onlyIssued a _ (State.issuing_reqs h).symm rfl⟩

/-- One that writes back the cache part leaves no modified byte in it, and every register as it was. -/
theorem next_fence_far (hr : s1.release a (fld f.ctl 0 4) = (s1.writeBackAll a.core, true)) :
    ∃ t, exec (.fence sg f) s = .next t ∧ a.RegsHeld s1 t
      ∧ a.groupIn t = (parted a s1 none [(a.sub.mask, a.sub.pc + 8)]).joined
      ∧ ∀ k l, (t.core a.core).line k = some l → l.dirty = 0 := by
  obtain ⟨⟨x, hblk, -⟩, -⟩ := State.issuing_block h
  have hblk' : (s1.writeBackAll a.core).block a.core a.blk = some x := (State.writeBackAll_block _ _ _ _).trans hblk
  have hgrp : a.groupIn (s1.writeBackAll a.core) = a.groupIn s1 := State.writeBackAll_group _ _ _ _ _
  have hgo := At.groupIn_finished a s (noOperands f) hblk'
  obtain ⟨hT, hU, hP, hH, hL, hothers⟩ := At.finished_regsKept a s (noOperands f) hblk'
  rw [hgrp] at hT hU hP hH hL hgo
  refine ⟨_, exec_fence_of_released hm hc ho h hr, ⟨hT, hU, hP, hH, hL, fun c b g hne => ?_⟩, ?_, fun k l hl => ?_⟩
  · exact (hothers.groups c b g hne).trans (State.writeBackAll_group _ _ _ _ _)
  · rw [hgo, At.stamp, State.writeBackAll_lcount]
    rfl
  · rw [hothers.cores a.core] at hl
    exact State.writeBackAll_clean hl

end

end Sys2Proof.Machine

open Sys2Proof Sys2Proof.Machine

/-- Settles O16, clause by clause: SRD, SRD of LSTAT, the values of the selectors, the cases of FENCE (which writes a release of
fabric scope waits for is log 76). -/
theorem specialReadsAndFences : Obligations.SpecialReadsAndFences := by
  unfold Obligations.SpecialReadsAndFences
  intro s sg f a s1 n
  refine ⟨fun hm hc hn hsel h => ?_, fun hm hc hsel h => next_srdLstat hm hc hsel h, fun t i => ?_, fun hm hc ho h => ?_⟩
  · refine ⟨_, exec_srd hm hc hn sg s, State.issue_wrote h false _ f.d n _ ?_⟩
    rw [if_neg hsel]
  · refine ⟨rfl, rfl, rfl, rfl, rfl, rfl, rfl, rfl, rfl, rfl, rfl, rfl, State.replica_toNat _ _, rfl, rfl, rfl, fun l hl => ?_⟩
    simp [srdValue, hl]
  · have hrel := ordRelease_ctl f.ctl
    have hscope := ordScope_ctl f.ctl
    refine ⟨fun hcase => next_fence_near hm hc ho h ?_, fun hr hreads hs hdone => next_fence_far hm hc ho h ?_,
      fun hr hreads => exec_fence_of_waiting hm hc ho h (State.release_of_reads (hrel.mpr hr) hreads),
      fun hr hreads hs hwait => exec_fence_of_waiting hm hc ho h ?_⟩
    · by_cases hr : fld f.ctl 3 1 = 1
      · obtain ⟨hreads, hs⟩ := hcase.resolve_left (not_not_intro hr)
        exact State.release_near (hrel.mpr hr) hreads (hscope ▸ hs)
      · exact State.release_of_not_release (Bool.eq_false_iff.mpr fun h => hr (hrel.mp h))
    · rw [State.release_far (hrel.mpr hr) hreads (hscope ▸ hs), if_neg]
      rintro ⟨hs3, hwait⟩
      obtain ⟨hnone, hseen⟩ := hdone (hscope ▸ hs3)
      exact hwait.elim (fun hne => hne hnone) (fun hs => by rw [hseen] at hs; cases hs)
    · rw [State.release_far (hrel.mpr hr) hreads (by omega), if_pos ⟨hscope.trans hs, hwait⟩]

end

section
/-! # Count-clear rows (O34)

A write of one bit of a count-clear register sets the counters that the bit names to 0 (R41, R71, R175, R251, R269, R293, R322,
R365, R412, R415). -/
namespace Sys2Proof.Machine
open Sys2Proof.Claims

/-! ## Setting registers to 0 -/

/-- `t` is `s` with exactly these registers set to 0. -/
structure State.Cleared (s t : State) (regs : List Nat) : Prop where
  zero : ∀ o ∈ regs, t.reg o = 0
  kept : regsKept s t regs
  frame : t = { s with setup := t.setup }

namespace State.Cleared

theorem refl (s : State) : s.Cleared s [] := ⟨fun _ h => absurd h List.not_mem_nil, fun _ _ => rfl, rfl⟩

theorem append {s t u : State} {xs ys : List Nat} (h : s.Cleared t xs) (h' : t.Cleared u ys) : s.Cleared u (xs ++ ys) := by
  refine ⟨fun o ho => ?_, fun o ho => ?_, h'.frame.trans (by rw [h.frame])⟩
  · by_cases hy : o ∈ ys
    · exact h'.zero o hy
    · rw [h'.kept o hy]
      exact h.zero o ((List.mem_append.mp ho).resolve_right hy)
  · rw [List.mem_append, not_or] at ho
    exact (h'.kept o ho.2).trans (h.kept o ho.1)

theorem setReg (s : State) (o : Nat) : s.Cleared (s.setReg o 0) [o] :=
  ⟨fun j hj => by rw [List.mem_singleton.mp hj, State.reg_setReg_same], regsKept_setReg s o 0, rfl⟩

theorem clearRegs (s : State) (off n : Nat) : s.Cleared (s.clearRegs off n) ((List.range n).map fun i => off + 4 * i) := by
  induction n with
  | zero => exact refl s
  | succ n ih =>
    rw [List.range_succ, List.map_append]
    exact ih.append (setReg _ _)

theorem forEach {α : Type} {f : State → α → State} {regs : α → List Nat} (hf : ∀ s x, State.Cleared s (f s x) (regs x)) (s : State)
    (xs : List α) : s.Cleared (Machine.forEach f s xs) (xs.flatMap regs) := by
  induction xs generalizing s with
  | nil => exact refl s
  | cons x xs ih => exact (hf s x).append (ih _)

theorem ite {s t : State} {regs : List Nat} (c : Bool) (h : s.Cleared t regs) :
    s.Cleared (if c then t else s) (if c then regs else []) := by
  cases c
  · exact refl s
  · exact h

end State.Cleared

theorem State.Cleared.clears {c : Instr} {s t : State} {regs : List Nat} (h : s.Cleared t regs) (hex : exec c s = .next t) :
    Clears c s regs :=
  ⟨t, hex, h.zero, h.kept, h.frame⟩

/-! ## A write of one bit -/

theorem bitAt_twoPow {b i : Nat} (hb : b < 32) : bitAt (BitVec.ofNat 32 (2 ^ b)) i = decide (b = i) := by
  have hlt : 2 ^ b % 2 ^ 32 = 2 ^ b := Nat.mod_eq_of_lt (Nat.pow_lt_pow_right (by decide) hb)
  rw [← Nat.testBit_two_pow, bitAt, fld, bitsOf, BitVec.toNat_ofNat, hlt, Nat.testBit, Nat.one_and_eq_mod_two, pow_one]
  rcases Nat.mod_two_eq_zero_or_one (2 ^ b >>> i) with h | h <;> rw [h] <;> rfl

/-- Of the lists that the bits of a word choose, one bit chooses one. -/
theorem flatMap_range_bit {b k : Nat} (hb : b < 32) (hk : b < k) (regs : Nat → List Nat) :
    ((List.range k).flatMap fun i => if bitAt (BitVec.ofNat 32 (2 ^ b)) i then regs i else []) = regs b := by
  simp only [bitAt_twoPow hb, decide_eq_true_eq]
  induction k with
  | zero => omega
  | succ k ih =>
    rw [List.range_succ, List.flatMap_append, List.flatMap_singleton]
    by_cases h : b = k
    · have hnil : ((List.range k).flatMap fun i => if b = i then regs i else []) = [] :=
        List.flatMap_eq_nil_iff.mpr fun i hi => if_neg (by have := List.mem_range.mp hi; omega)
      rw [hnil, if_pos h, h, List.nil_append]
    · rw [ih (by omega), if_neg h, List.append_nil]

/-- One bit of a register whose bits clear consecutive counters. -/
theorem State.clearBits_bit {b n : Nat} (hb : b < 32) (hn : b < n) (s : State) (off : Nat) :
    s.Cleared (s.clearBits (BitVec.ofNat 32 (2 ^ b)) (countersFrom off n)) [off + 4 * b] := by
  have h := State.Cleared.forEach (fun u r => (State.Cleared.setReg u r.2).ite (bitAt (BitVec.ofNat 32 (2 ^ b)) r.1)) s
    (countersFrom off n)
  rw [countersFrom, List.flatMap_map, flatMap_range_bit hb hn fun i => [off + 4 * i]] at h
  exact h

/-- One bit of ARR_COUNT_CLEAR: the eight counters of an array (R71). -/
theorem State.clearArr_bit {b : Nat} (hb : b < 3) (s : State) (n : Nat) :
    s.Cleared (s.clearArr n (BitVec.ofNat 32 (2 ^ b))) ((List.range 8).map fun i => offArr n b 0 + 4 * i) := by
  have h := State.Cleared.forEach
    (fun u x => (State.Cleared.clearRegs u (offArr n x 0) 8).ite (bitAt (BitVec.ofNat 32 (2 ^ b)) x)) s (List.range 3)
  rw [flatMap_range_bit (by omega) hb fun x => (List.range 8).map fun i => offArr n x 0 + 4 * i] at h
  exact h

/-! ## The register that is written -/

/-- The register at an offset acts, and is no hole. -/
structure State.Acts (s : State) (off : Nat) : Prop where
  desc : regDesc off = some .act
  hole : s.setupHole off = false

theorem State.Acts.writeBit {s : State} {off : Nat} (h : s.Acts off) (hp : s.rwcPend = []) (bit : Nat) :
    s.writeBit off bit = s.act 0x650 off (BitVec.ofNat 32 (2 ^ bit)) := by
  simp [State.writeBit, State.setupWrite, h.desc, h.hole, RegDesc.act, State.dropPend_of_none (State.pendOf_of_nil hp _)]

/-- What a hole of the window is (R410). -/
theorem State.setupHole_eq {off : Nat} (hoff : off < 0x4000000) (s : State) :
    s.setupHole off = !(if off < 0xC00000 then s.clusterPresent (off / 0x20000) else if off < 0xC20000 then true
      else if 0xE00000 ≤ off && off < 0xE20000 then true else (regDesc off).isSome) := by
  have hbase : setupBase = 0xE0000000000 := rfl
  have hsub : setupBase + off - setupBase = off := Nat.add_sub_cancel_left _ _
  have hin : isSetup (setupBase + off) = true := by simp [isSetup]; omega
  have hout : isDram (setupBase + off) = false ∧ isSram (setupBase + off) = false ∧ isWb (setupBase + off) = false
      ∧ isSpool (setupBase + off) = false := by
    simp [isDram, isSram, isWb, isSpool]; omega
  obtain ⟨hdram, hsram, hwb, hspool⟩ := hout
  simp only [State.setupHole, State.populated, hin, hdram, hsram, hwb, hspool, hsub, Bool.false_eq_true, if_false, if_true]

/-- Above the clusters' blocks and the apertures, a register that has a description is no hole. -/
theorem State.setupHole_of_desc {off : Nat} (hlo : 0x1000000 ≤ off) (hhi : off < 0x4000000) {d : RegDesc}
    (hd : regDesc off = some d) (s : State) : s.setupHole off = false := by
  have hgroup : ¬ (0xE00000 ≤ off && off < 0xE20000) = true := by simp; omega
  rw [State.setupHole_eq hhi, if_neg (by omega), if_neg (by omega), if_neg hgroup, hd]
  rfl

/-- The block of a present core is no hole (R412). -/
theorem State.setupHole_core {s : State} {n x : Nat} (hn : s.corePresent n = true) (hx : x < 0x1000) :
    s.setupHole (offCore n + x) = false := by
  simp only [State.corePresent, Bool.and_eq_true, decide_eq_true_eq] at hn
  obtain ⟨hn, hpart⟩ := hn
  have hoff : offCore n + x = 0x20000 * (n / 16) + 0x1000 * (n % 16 + 1) + x := rfl
  have hclus : s.clusterPresent ((offCore n + x) / 0x20000) = true := by
    rw [show (offCore n + x) / 0x20000 = n / 16 by omega]
    simp only [State.clusterPresent, Nat.div_div_eq_div_mul, Bool.and_eq_true, decide_eq_true_eq]
    exact ⟨by omega, hpart⟩
  rw [State.setupHole_eq (by omega), if_pos (by omega), hclus]
  rfl

theorem regDesc_core {n x : Nat} (hn : n < 1536) (hx : x = 0xC ∨ x = 0x160 ∨ x = 0x204) :
    regDesc (offCore n + x) = some .act := by
  have hoff : offCore n + x = 0x20000 * (n / 16) + 0x1000 * (n % 16 + 1) + x := rfl
  have hmod : (offCore n + x) % 0x20000 = 0x1000 * (n % 16 + 1) + x := by omega
  have hreg : (offCore n + x) % 0x20000 % 0x1000 = x := by omega
  rw [regDesc, if_pos (by omega), clusterReg, if_neg (by omega), if_neg (by omega)]
  simp only [hreg, if_pos hx]

theorem State.corePresent_lt {s : State} {n : Nat} (hn : s.corePresent n = true) : n < 1536 := by
  simp only [State.corePresent, Bool.and_eq_true, decide_eq_true_eq] at hn
  exact hn.1

/-- What a write to a core's count-clear register does. -/
theorem State.act_core {n x : Nat} (hn : n < 1536) (hx : x < 0x1000) (s : State) (src : Nat) (v : Word) :
    s.act src (offCore n + x) v =
      if x = 0xC then s.clearCvt n v else if x = 0x160 then s.clearArr n v else s.clearCore n v := by
  have hoff : offCore n + x = 0x20000 * (n / 16) + 0x1000 * (n % 16 + 1) + x := rfl
  have hcore : (offCore n + x) / 0x20000 * 16 + (offCore n + x) % 0x20000 / 0x1000 - 1 = n := by omega
  have hreg : (offCore n + x) % 0x20000 % 0x1000 = x := by omega
  rw [State.act, if_pos (by omega)]
  simp only [hcore, hreg]

/-- PWR_COUNT_CLEAR (R365). -/
theorem State.acts_pwr (s : State) : s.Acts (offPwr + 0x190) := ⟨rfl, State.setupHole_of_desc (by decide) (by decide) rfl s⟩

theorem mcReg'_eq (mc x : Nat) : mcReg' mc x = offMc mc + x := by
  unfold mcReg' offMc
  split <;> rfl

section
variable {c : Instr} {s : State} {n : Nat} (hp : s.rwcPend = [])
include hp

theorem State.writeBit_core {x b : Nat} (hn : s.corePresent n = true) (hx : x = 0xC ∨ x = 0x160 ∨ x = 0x204) :
    s.writeBit (offCore n + x) b =
      if x = 0xC then s.clearCvt n (BitVec.ofNat 32 (2 ^ b)) else if x = 0x160 then s.clearArr n (BitVec.ofNat 32 (2 ^ b))
      else s.clearCore n (BitVec.ofNat 32 (2 ^ b)) := by
  have hlt := State.corePresent_lt hn
  have hacts : s.Acts (offCore n + x) := ⟨regDesc_core hlt hx, State.setupHole_core hn (by omega)⟩
  rw [hacts.writeBit hp, State.act_core hlt (by omega)]

/-- A row that clears a conversion counter (R41). -/
theorem clears_cvt (hn : s.corePresent n = true) (b : Nat) (hb : b < 3)
    (hex : exec c s = if n < 1536 then .next (s.writeBit (offCvt n 3) b) else .next s) : Clears c s [coreReg n (4 * b)] := by
  rw [if_pos (State.corePresent_lt hn), show offCvt n 3 = offCore n + 0xC from rfl, State.writeBit_core hp hn (.inl rfl),
    if_pos rfl] at hex
  exact (State.clearBits_bit (by omega) hb s _).clears hex

/-- A row that clears the counters of an array (R71). -/
theorem clears_arr (hn : s.corePresent n = true) (b : Nat) (hb : b < 3)
    (hex : exec c s = if n < 1536 then .next (s.writeBit (offCore n + 0x160) b) else .next s) :
    Clears c s ((List.range 8).map fun i => coreReg n (0x100 + 0x20 * b + 4 * i)) := by
  have hregs : (fun i => coreReg n (0x100 + 0x20 * b + 4 * i)) = fun i => offArr n b 0 + 4 * i := by
    funext i
    simp only [coreReg, offArr, offCore, offCluster]
    omega
  rw [if_pos (State.corePresent_lt hn), State.writeBit_core hp hn (.inr (.inl rfl)), if_neg (by decide), if_pos rfl] at hex
  rw [hregs]
  exact (State.clearArr_bit hb s n).clears hex

/-- The row that clears REPACK (R412). -/
theorem clears_repack (hn : s.corePresent n = true) : Clears (.coreCountClearRepack n) s [coreReg n 0x200] := by
  have hex : exec (.coreCountClearRepack n) s = .next (s.writeBit (offCore n + 0x204) 0) :=
    if_pos (State.corePresent_lt hn)
  rw [State.writeBit_core hp hn (.inr (.inr rfl)), if_neg (by decide), if_neg (by decide)] at hex
  exact ((State.Cleared.setReg s _).ite true).clears hex

/-- The row that clears FU_DONE (R415). -/
theorem clears_fu (hn : n < 8) : Clears (.fuCountClearDone n) s [0x1000004 + 0x10000 * n] := by
  have hoff : offPart n + 8 = 0x1000000 + 0x10000 * n + 8 := rfl
  have hdesc : regDesc (offPart n + 8) = some .act := by
    rw [regDesc, if_neg (by omega), if_pos (by omega), if_pos (by omega)]
  have hacts : s.Acts (offPart n + 8) := ⟨hdesc, State.setupHole_of_desc (by omega) (by omega) hdesc s⟩
  have hpart : (offPart n + 8 - 0x1000000) / 0x10000 = n := by omega
  have hcount : offFuDone n = 0x1000004 + 0x10000 * n := by simp [offFuDone, offPart]; omega
  have hex : exec (.fuCountClearDone n) s = .next (s.writeBit (offPart n + 8) 0) := if_pos hn
  rw [hacts.writeBit hp, State.act, if_neg (by omega), if_pos (by omega), if_neg (by omega), hpart] at hex
  rw [← hcount]
  exact ((State.Cleared.setReg s _).ite true).clears hex

/-- A controller's count-clear registers (R416). -/
theorem State.writeBit_mc {x b : Nat} (hn : n < 48) (hx : x = 0x14 ∨ x = 0x11C ∨ x = 0x21C) :
    s.writeBit (offMc n + x) b =
      if x = 0x14 then s.clearMc n (BitVec.ofNat 32 (2 ^ b)) else if x = 0x11C then s.clearRa n (BitVec.ofNat 32 (2 ^ b))
      else s.clearUu n (BitVec.ofNat 32 (2 ^ b)) := by
  have hoff : offMc n = if n < 32 then 0x1200000 + 0x1000 * n else 0x1220000 + 0x1000 * (n - 32) := rfl
  have hdesc : regDesc (offMc n + x) = some .act := by
    have hmod : (offMc n + x) % 0x1000 = x := by split at hoff <;> omega
    have hreg (lmc : Bool) : mcReg lmc x = .act := by rw [mcReg, if_neg (by omega), if_pos hx]
    rw [regDesc, if_neg (by split at hoff <;> omega), if_neg (by split at hoff <;> omega), hmod, hreg, hreg]
    by_cases h : n < 32
    · rw [if_pos (by rw [if_pos h] at hoff; omega)]
    · rw [if_neg (by rw [if_neg h] at hoff; omega), if_pos (by rw [if_neg h] at hoff; omega)]
  have hacts : s.Acts (offMc n + x) :=
    ⟨hdesc, State.setupHole_of_desc (by split at hoff <;> omega) (by split at hoff <;> omega) hdesc s⟩
  have hmc : (if offMc n + x < 0x1220000 then (offMc n + x - 0x1200000) / 0x1000
      else 32 + (offMc n + x - 0x1220000) / 0x1000) = n := by
    split at hoff <;> split <;> omega
  have hreg : (offMc n + x) % 0x1000 = x := by split at hoff <;> omega
  rw [hacts.writeBit hp, State.act, if_neg (by split at hoff <;> omega), if_neg (by split at hoff <;> omega),
    if_pos (by split at hoff <;> omega)]
  simp only [hmc, hreg]

/-- A row that clears a controller's counter (R175). -/
theorem clears_mc (hn : n < 48) (b : Nat) (hb : b < 4)
    (hex : exec c s = if n < 48 then .next (s.writeBit (offMc n + 0x14) b) else .next s) : Clears c s [mcReg' n (4 * b)] := by
  rw [if_pos hn, State.writeBit_mc hp hn (.inl rfl), if_pos rfl] at hex
  rw [mcReg'_eq]
  exact (State.clearBits_bit (by omega) hb s _).clears hex

/-- A row that clears a counter of a reduction engine (R251). -/
theorem clears_ra (hn : n < 48) (b : Nat) (hb : b < 7)
    (hex : exec c s = if n < 48 then .next (s.writeBit (offMc n + 0x11C) b) else .next s) : Clears c s [mcReg' n (0x100 + 4 * b)] := by
  rw [if_pos hn, State.writeBit_mc hp hn (.inr (.inl rfl)), if_neg (by decide), if_pos rfl] at hex
  rw [mcReg'_eq, ← Nat.add_assoc]
  exact (State.clearBits_bit (by omega) hb s _).clears hex

/-- A row that clears a counter of an update unit (R269). -/
theorem clears_uu (hn : n < 48) (b : Nat) (hb : b < 7)
    (hex : exec c s = if n < 48 then .next (s.writeBit (offMc n + 0x21C) b) else .next s) : Clears c s [mcReg' n (0x200 + 4 * b)] := by
  rw [if_pos hn, State.writeBit_mc hp hn (.inr (.inr rfl)), if_neg (by decide), if_neg (by decide)] at hex
  rw [mcReg'_eq, ← Nat.add_assoc]
  exact (State.clearBits_bit (by omega) hb s _).clears hex

/-- A row that clears a port's counter (R293). -/
theorem clears_fab (hn : n < 16) (b : Nat) (hb : b < 5)
    (hex : exec c s = if n < 16 then .next (s.writeBit (offPort n + 0x38) b) else .next s) :
    Clears c s [0x1300024 + 4 * b + 0x100 * n] := by
  have hoff : offPort n + 0x38 = 0x1300000 + 0x100 * n + 0x38 := rfl
  have hmod : (offPort n + 0x38) % 0x100 = 0x38 := by omega
  have hdesc : regDesc (offPort n + 0x38) = some .act := by
    rw [regDesc, if_neg (by omega), if_neg (by omega), if_neg (by omega), if_neg (by omega), if_pos (by omega), hmod]
    rfl
  have hacts : s.Acts (offPort n + 0x38) := ⟨hdesc, State.setupHole_of_desc (by omega) (by omega) hdesc s⟩
  have hport : (offPort n + 0x38 - 0x1300000) / 0x100 = n := by omega
  have hcount : 0x1300024 + 4 * b + 0x100 * n = offPort n + 0x24 + 4 * b := by omega
  rw [if_pos hn, hacts.writeBit hp, State.act, if_neg (by omega), if_neg (by omega), if_neg (by omega), if_pos (by omega),
    if_neg (by omega), hport] at hex
  rw [hcount]
  exact (State.clearBits_bit (by omega) hb s _).clears hex

/-- A row that clears a counter of the host link (R322). -/
theorem clears_sn (b : Nat) (hb : b < 6) (hex : exec c s = .next (s.writeBit (offHost + 0x28) b)) :
    Clears c s [0x1400010 + 4 * b] := by
  have hacts : s.Acts (offHost + 0x28) := ⟨rfl, State.setupHole_of_desc (by decide) (by decide) rfl s⟩
  rw [hacts.writeBit hp] at hex
  exact (State.clearBits_bit (by omega) hb s _).clears hex

theorem clears_pwrPartition : Clears .pwrCountClearPartition s
    ((List.range 8).flatMap fun p => (List.range 4).map fun i => 0x1500100 + 0x10 * p + 4 * i) := by
  have hex : exec .pwrCountClearPartition s = .next (s.writeBit (offPwr + 0x190) 0) := rfl
  rw [s.acts_pwr.writeBit hp] at hex
  exact (State.Cleared.forEach (fun u p => State.Cleared.clearRegs u (offPp p 0) 4) s _).clears hex

theorem clears_pwrModule : Clears .pwrCountClearModule s [0x1500180, 0x1500184, 0x1500188, 0x150018C] := by
  have hex : exec .pwrCountClearModule s = .next (s.writeBit (offPwr + 0x190) 1) := rfl
  rw [s.acts_pwr.writeBit hp] at hex
  exact (State.Cleared.clearRegs s (offPwr + 0x180) 4).clears hex

end

end Sys2Proof.Machine

open Sys2Proof Sys2Proof.Machine

/-- Settles O34, row by row: each writes one bit of its count-clear register. -/
theorem counterClears : Obligations.CounterClears := by
  unfold Obligations.CounterClears
  intro s n hp
  refine ⟨fun hn => ?_, fun hn => clears_fu hp hn, fun hn => ?_, fun hn => ?_, clears_sn hp 0 (by decide) rfl,
    clears_sn hp 1 (by decide) rfl, clears_sn hp 2 (by decide) rfl, clears_sn hp 3 (by decide) rfl,
    clears_sn hp 4 (by decide) rfl, clears_sn hp 5 (by decide) rfl, clears_pwrPartition hp, clears_pwrModule hp⟩
  · exact ⟨clears_cvt hp hn 0 (by decide) rfl, clears_cvt hp hn 1 (by decide) rfl, clears_cvt hp hn 2 (by decide) rfl,
      clears_arr hp hn 0 (by decide) rfl, clears_arr hp hn 1 (by decide) rfl, clears_arr hp hn 2 (by decide) rfl,
      clears_repack hp hn⟩
  · exact ⟨clears_mc hp hn 0 (by decide) rfl, clears_mc hp hn 1 (by decide) rfl, clears_mc hp hn 2 (by decide) rfl,
      clears_mc hp hn 3 (by decide) rfl, clears_ra hp hn 0 (by decide) rfl, clears_ra hp hn 1 (by decide) rfl,
      clears_ra hp hn 2 (by decide) rfl, clears_ra hp hn 3 (by decide) rfl, clears_ra hp hn 4 (by decide) rfl,
      clears_ra hp hn 5 (by decide) rfl, clears_ra hp hn 6 (by decide) rfl, clears_uu hp hn 0 (by decide) rfl,
      clears_uu hp hn 1 (by decide) rfl, clears_uu hp hn 2 (by decide) rfl, clears_uu hp hn 3 (by decide) rfl,
      clears_uu hp hn 4 (by decide) rfl, clears_uu hp hn 5 (by decide) rfl, clears_uu hp hn 6 (by decide) rfl⟩
  · exact ⟨clears_fab hp hn 0 (by decide) rfl, clears_fab hp hn 1 (by decide) rfl, clears_fab hp hn 2 (by decide) rfl,
      clears_fab hp hn 3 (by decide) rfl, clears_fab hp hn 4 (by decide) rfl⟩

end

section
/-! # A conversion counter that a report raises (O7)

The statement bounds no core number. The offset that `offCvt` gives core 2304, beyond the 1,536 that exist, is that of LMC 1's
MC_CRC_RETRY (R175, R412). A NaN is reported (R40); counting that report is a partial write of the source table (R389), whose
block the controller reads, finds in error and reads again (R172): the counter rises by one, although no lane clamps. -/
namespace Sys2Proof.Machine
open Sys2Proof.Claims

/-- One thread at 0x1000 with a NaN in t1, of context 0. -/
def nanBlock : Block :=
  { launch := 0, ring := 0, ctx := 0, bid := (0, 0, 0), trank := 0, train := 1, base := 0, ls := 0, wb := false, regs := 8, split := 0
    threads := 1, groups := [(0, { Group.start 1 0x1000 with t := [(32, 0x7FC00000)] })] }

/-- The reset state with that block on core 2304 and its window cached, channel 2 of die 0 in service, which LMC 1 serves, the
recorder's ring in use, and one read in error of the block that holds the source-table entry of core 2304. -/
def nanState : State :=
  { State.reset with
    cores := [(2304, { Core.idle with blocks := [(0, some nanBlock)] })]
    wcache := [(64 * 2304, some [[0, 0, 0xFFFFFFFF, 0x7FFFFFFF, 0, 0, 0x1F, 0]])]
    nextLaunch := 1, setup := [(0x1310030, 4)], err := { State.reset.err with ringReady := true }, defects := [(0x49000, 1)] }

def nanSg : SgRef := { core := 2304, blk := 0, grp := 0, lane := 0 }

/-- NARROW of t1 to BF16 in t2, saturating, to nearest-even. -/
def nanForm : FormR := { mod := 0, g := 0, d := 2, a := 1, b := 0x180, c := 0x180, ctl := 0 }

/-- The sub-group issues, its counter stands at 0, and no lane clamps. -/
theorem nanState_issues :
    ((nanState.issuing nanSg nanForm.g false (useNarrow nanForm)).map fun p =>
      (p.1.core, p.2.reg (offCvt 2304 0), (p.1.lanes.map fun i => (narrowLane nanForm p.1.g i).sat).sum)) = some (2304, 0, 0) := by
  decide +kernel

/-- Yet its counter stands at 1 afterwards. -/
theorem nanState_counts {t : State} (h : exec (.narrow nanSg nanForm) nanState = .next t) : t.reg (offCvt 2304 0) = 1 := by
  have hrun : (match exec (.narrow nanSg nanForm) nanState with | .next t => t.reg (offCvt 2304 0) | _ => 0) = 1 := by
    decide +kernel
  rwa [h] at hrun

end Sys2Proof.Machine

open Sys2Proof Sys2Proof.Machine

/-- Refutes O7: on core 2304, which does not exist, the counter of clamps is LMC 1's counter of repeated reads, and the report of a
NaN raises it. -/
theorem not_conversionResults : ¬ Obligations.ConversionResults := by
  unfold Obligations.ConversionResults
  intro h
  obtain ⟨⟨a, s1⟩, hissue, hvals⟩ := Option.map_eq_some_iff.mp nanState_issues
  obtain ⟨hcore, hreg, hsum⟩ := by simpa only [Prod.mk.injEq] using hvals
  obtain ⟨-, hnarrow, -⟩ := h nanState nanSg nanForm a s1
  obtain ⟨t, ht, hres⟩ := hnarrow (by decide) (.inr ⟨rfl, rfl⟩) hissue
  rw [if_neg (by decide)] at hres
  obtain ⟨-, hsat, -⟩ := hres
  rw [hcore, hsum, hreg, nanState_counts ht] at hsat
  exact absurd hsat (by decide)

end

section
/-! # Bytes after bit writes

What a byte of memory reads as once one byte (`State.writeBits`), a list of bit writes or a whole word has been written, lost
ranges among them (R408). -/
namespace Sys2Proof.Machine
open Sys2Proof.Claims

/-! ## Lost ranges -/

/-- The free value that a byte of a lost range reads as; none outside the lost ranges. -/
def lostAt (l : List (Nat × Nat × Nat)) (z : Nat) : Option Byte :=
  (l.find? fun r => decide (r.1 ≤ z) && decide (z < r.1 + r.2.1)).map fun r => Config.freeByte (r.2.2 + (z - r.1))

theorem State.byte_eq (s : State) (z : Nat) :
    s.byte z = if isRom z then Config.romByte z else (lostAt s.lost z).getD (Sparse.get memDefault s.mem z) := by
  unfold State.byte lostAt
  split
  · rfl
  · cases s.lost.find? fun r => decide (r.1 ≤ z) && decide (z < r.1 + r.2.1) <;> rfl

theorem lostAt_append (l m : List (Nat × Nat × Nat)) (z : Nat) : lostAt (l ++ m) z = (lostAt l z).or (lostAt m z) := by
  rw [lostAt, List.find?_append, Option.map_or]
  rfl

theorem lostAt_singleton (r : Nat × Nat × Nat) (z : Nat) :
    lostAt [r] z = if r.1 ≤ z ∧ z < r.1 + r.2.1 then some (Config.freeByte (r.2.2 + (z - r.1))) else none := by
  by_cases h : r.1 ≤ z ∧ z < r.1 + r.2.1
  · simp [lostAt, h]
  · rw [if_neg h]
    simp only [lostAt, List.find?_singleton, Option.map_eq_none_iff]
    exact if_neg (by simpa using h)

/-- What is left of a range has the values that it had. -/
theorem lostAt_cutLost (a n : Nat) (r : Nat × Nat × Nat) (z : Nat) :
    lostAt (cutLost a n r) z = if a ≤ z ∧ z < a + n then none else lostAt [r] z := by
  obtain ⟨b, m, k⟩ := r
  have hnil : lostAt [] z = none := rfl
  unfold cutLost
  simp only [lostAt_singleton]
  split
  · next hcut =>
    have hlow : lostAt (if b < a then [(b, a - b, k)] else []) z =
        if b ≤ z ∧ z < a then some (Config.freeByte (k + (z - b))) else none := by
      split
      · next h => rw [lostAt_singleton]; simp only []; rw [Nat.add_sub_cancel' h.le]
      · rw [hnil, if_neg (by omega)]
    have hhigh : lostAt (if a + n < b + m then [(a + n, b + m - (a + n), k + (a + n - b))] else []) z =
        if a + n ≤ z ∧ z < b + m then some (Config.freeByte (k + (z - b))) else none := by
      split
      · next h =>
        rw [lostAt_singleton]
        simp only []
        rw [Nat.add_sub_cancel' h.le]
        split
        · rw [show k + (a + n - b) + (z - (a + n)) = k + (z - b) by omega]
        · rfl
      · rw [hnil, if_neg (by omega)]
    rw [lostAt_append, hlow, hhigh]
    by_cases hin : a ≤ z ∧ z < a + n
    · rw [if_neg (by omega), if_neg (by omega), if_pos hin]
      rfl
    · rw [if_neg hin]
      by_cases hlo : b ≤ z ∧ z < a
      · have hall : b ≤ z ∧ z < b + m := by omega
        rw [if_pos hlo, if_pos hall, Option.some_or]
      · rw [if_neg hlo, Option.none_or]
        by_cases hhi : a + n ≤ z ∧ z < b + m
        · rw [if_pos hhi, if_pos (by omega)]
        · rw [if_neg hhi, if_neg (by omega)]
  · next hcut =>
    rw [lostAt_singleton]
    simp only []
    by_cases hin : a ≤ z ∧ z < a + n
    · rw [if_neg (by omega), if_pos hin]
    · rw [if_neg hin]

theorem lostAt_flatMap_cutLost (a n : Nat) (l : List (Nat × Nat × Nat)) (z : Nat) :
    lostAt (l.flatMap (cutLost a n)) z = if a ≤ z ∧ z < a + n then none else lostAt l z := by
  induction l with
  | nil => exact (ite_self _).symm
  | cons r l ih =>
    rw [List.flatMap_cons, lostAt_append, lostAt_cutLost, ih, show r :: l = [r] ++ l from rfl, lostAt_append]
    split <;> rfl

/-! ## Bit writes -/

/-- What one bit write makes of a byte. -/
def BitWrite.onto (w : BitWrite) (z : Nat) (b : Byte) : Byte :=
  if w.addr = z then (b &&& ~~~ w.mask) ||| (w.val &&& w.mask) else b

theorem State.byte_writeBits (s : State) (w : BitWrite) {z : Nat} (hz : isRom z = false) :
    (s.writeBits w).byte z = w.onto z (s.byte z) := by
  have hlost := lostAt_flatMap_cutLost w.addr 1 s.lost z
  rw [State.byte_eq, if_neg (by simp [hz])]
  simp only [State.writeBits, State.putMem, putBytes, List.length_singleton, hlost, Sparse.get_set, BitWrite.onto]
  by_cases h : z = w.addr
  · rw [if_pos (by omega), if_pos h, if_pos h.symm, h]
    rfl
  · rw [if_neg (by omega), if_neg h, if_neg (Ne.symm h), State.byte_eq, if_neg (by simp [hz])]

theorem State.byte_rom (s t : State) {z : Nat} (hz : isRom z = true) : t.byte z = s.byte z := by
  rw [State.byte_eq, State.byte_eq, if_pos hz, if_pos hz]

theorem after_eq_foldl (s : State) (ws : List BitWrite) (z : Nat) :
    after s ws z = ws.foldl (fun b w => w.onto z b) (s.byte z) := rfl

/-- Bytes after a list of bit writes, in order. -/
theorem State.byte_forEach_writeBits (s : State) (ws : List BitWrite) {z : Nat} (hz : isRom z = false) :
    (forEach State.writeBits s ws).byte z = after s ws z := by
  rw [after_eq_foldl]
  induction ws generalizing s with
  | nil => rfl
  | cons w ws ih =>
    rw [List.foldl_cons, ← State.byte_writeBits s w hz]
    exact ih _

/-- A byte that none of the writes names. -/
theorem after_of_forall_ne {s : State} {ws : List BitWrite} {z : Nat} (h : ∀ w ∈ ws, w.addr ≠ z) : after s ws z = s.byte z := by
  rw [after_eq_foldl]
  generalize s.byte z = b
  induction ws generalizing b with
  | nil => rfl
  | cons w ws ih =>
    rw [List.foldl_cons, BitWrite.onto, if_neg (h w List.mem_cons_self)]
    exact ih (fun v hv => h v (List.mem_cons_of_mem _ hv)) _

/-- Bit writes change memory alone. -/
theorem State.forEach_writeBits_eq (s : State) (ws : List BitWrite) :
    forEach State.writeBits s ws =
      { s with mem := (forEach State.writeBits s ws).mem, lost := (forEach State.writeBits s ws).lost } := by
  induction ws generalizing s with
  | nil => rfl
  | cons w ws ih => exact (ih (s.writeBits w)).trans rfl

theorem forEach_of_fixed {α σ : Type} {f : σ → α → σ} {s : σ} (h : ∀ x, f s x = s) (xs : List α) : forEach f s xs = s := by
  induction xs with
  | nil => rfl
  | cons x xs ih => exact (congrArg (fun u => forEach f u xs) (h x)).trans ih

/-- While no block and no word is in error, bit writes are all that `writeBitsAll` does. -/
theorem State.writeBitsAll_of_sound {s : State} (h : soundMem s) (ws : List BitWrite) :
    s.writeBitsAll ws = forEach State.writeBits s ws := by
  have hcheck : forEach (fun s w => if isDram w.addr then s.crcCheck (w.addr / 64 * 64) else s) s ws = s :=
    forEach_of_fixed (fun w => by rw [State.crcCheck, State.crcCheckBy_of_sound _ h, ite_self]) ws
  obtain ⟨-, -, hbad⟩ := h
  unfold State.writeBitsAll
  rw [hcheck]
  simp only [hbad, List.filter_nil]
  exact congrArg (fun u => forEach State.writeBits u ws) (by rw [← hbad])

/-! ## A word -/

/-- The writes of the four bytes of a word. -/
def wordWrites (a : Nat) (v : Word) : List BitWrite :=
  (List.range 4).map fun i => { addr := a + i, mask := 0xFF, val := BitVec.ofNat 8 (v.toNat >>> (8 * i)) }

theorem natLE_bytesLE (n v : Nat) : natLE (bytesLE n v) = v % 2 ^ (8 * n) := by
  induction n generalizing v with
  | zero => simp [bytesLE, natLE, Nat.mod_one]
  | succ n ih =>
    rw [bytesLE, natLE, ih, BitVec.toNat_ofNat, Nat.shiftRight_eq_div_pow, show 8 * (n + 1) = 8 + 8 * n by ring, pow_add,
      Nat.mod_mul]
    ring

theorem mem_wordWrites {a : Nat} {v : Word} {w : BitWrite} (h : w ∈ wordWrites a v) : a ≤ w.addr ∧ w.addr < a + 4 := by
  obtain ⟨i, hi, rfl⟩ := List.mem_map.mp h
  have := List.mem_range.mp hi
  exact ⟨Nat.le_add_right _ _, by simpa using this⟩

theorem after_wordWrites (s : State) (a : Nat) (v : Word) {i : Nat} (hi : i < 4) :
    after s (wordWrites a v) (a + i) = BitVec.ofNat 8 (v.toNat >>> (8 * i)) := by
  have hfull (c : Byte) : c &&& 255#8 = c := BitVec.and_allOnes
  rw [after_eq_foldl]
  interval_cases i <;> simp [wordWrites, List.range_succ, BitWrite.onto, hfull]

theorem isRom_between {a i : Nat} (hlo : isRom a = false) (hhi : isRom (a + 3) = false) (hi : i < 4) : isRom (a + i) = false := by
  simp only [isRom, Bool.and_eq_false_iff, decide_eq_false_iff_not] at *
  omega

theorem State.word_congr {s t : State} {a : Nat} (h : ∀ i < 4, t.byte (a + i) = s.byte (a + i)) : t.word a = s.word a := by
  have h0 := h 0 (by decide)
  have h1 := h 1 (by decide)
  have h2 := h 2 (by decide)
  have h3 := h 3 (by decide)
  simp only [State.word, State.bytes, Nat.add_assoc, Nat.reduceAdd, Nat.add_zero] at *
  rw [h0, h1, h2, h3]

/-- A word reads as it was written, outside the boot ROM. -/
theorem State.word_forEach_wordWrites (s : State) {a : Nat} (v : Word) (hlo : isRom a = false) (hhi : isRom (a + 3) = false) :
    (forEach State.writeBits s (wordWrites a v)).word a = v := by
  have hbyte {i : Nat} (hi : i < 4) : (forEach State.writeBits s (wordWrites a v)).byte (a + i) =
      BitVec.ofNat 8 (v.toNat >>> (8 * i)) := by
    rw [State.byte_forEach_writeBits _ _ (isRom_between hlo hhi hi), after_wordWrites s a v hi]
  have hbytes : (forEach State.writeBits s (wordWrites a v)).bytes a 4 = bytesLE 4 v.toNat := by
    have h0 := hbyte (i := 0) (by decide)
    have h1 := hbyte (i := 1) (by decide)
    have h2 := hbyte (i := 2) (by decide)
    have h3 := hbyte (i := 3) (by decide)
    simp only [State.bytes, bytesLE, Nat.add_assoc, Nat.reduceAdd, Nat.add_zero, ← Nat.shiftRight_add] at *
    rw [h0, h1, h2, h3]
    simp
  rw [State.word, hbytes, natLE_bytesLE]
  exact BitVec.eq_of_toNat_eq (by simpa using v.isLt)

end Sys2Proof.Machine
end

section
/-! # What array events are made of

Changing a running operation, counting cycles and conversions (R41, R71), and keeping a conversion: its bytes written and its
counts added (R70), where no block or word is in error and no sample is captured. -/
namespace Sys2Proof.Machine
open Sys2Proof.Claims

/-! ## A running operation -/

/-- The operation of an array that has `o`'s place in the core order is `o`. -/
structure State.Runs (s : State) (core arr : Nat) (o : ArrOp) : Prop where
  arr_lt : arr < (s.core core).arrays.length
  eq_of_seq : ∀ p ∈ ((s.core core).array arr).running, p.seq = o.seq → p = o

theorem State.Runs.congr {s t : State} {core arr : Nat} {o : ArrOp} (h : s.Runs core arr o) (hc : t.core core = s.core core) :
    t.Runs core arr o := by
  obtain ⟨hlt, heq⟩ := h
  exact ⟨hc ▸ hlt, hc ▸ heq⟩

/-- A running operation of an array changed. -/
def ArraySt.modOp (x : ArraySt) (seq : Nat) (f : ArrOp → ArrOp) : ArraySt :=
  { x with running := x.running.map fun p => if p.seq = seq then f p else p }

theorem State.core_modOp (s : State) (core arr seq : Nat) (f : ArrOp → ArrOp) (c : Nat) :
    (s.modOp core arr seq f).core c = if c = core then
      { s.core core with arrays := (s.core core).arrays.set arr (((s.core core).array arr).modOp seq f) } else s.core c :=
  State.core_modCore _ _ _ _

theorem State.core_modOp_other (s : State) {core c : Nat} (h : c ≠ core) (arr seq : Nat) (f : ArrOp → ArrOp) :
    (s.modOp core arr seq f).core c = s.core c := by
  rw [State.core_modOp, if_neg h]

theorem State.captures_modOp (s : State) (core arr seq : Nat) (f : ArrOp → ArrOp) :
    ((s.modOp core arr seq f).core core).captures = (s.core core).captures := by
  rw [State.core_modOp, if_pos rfl]

theorem State.Runs.modOp {s : State} {core arr seq : Nat} {o : ArrOp} (h : s.Runs core arr o) (hs : o.seq = seq)
    {f : ArrOp → ArrOp} (hf : (f o).seq = seq) : (s.modOp core arr seq f).Runs core arr (f o) := by
  subst hs
  obtain ⟨hlt, heq⟩ := h
  have hcore := s.core_modOp core arr o.seq f core
  rw [if_pos rfl] at hcore
  refine ⟨by rw [hcore]; simpa using hlt, fun p hp hseq => ?_⟩
  rw [hcore, Core.array, List.getD_eq_getElem?_getD, List.getElem?_set_self hlt] at hp
  obtain ⟨q, hq, rfl⟩ := List.mem_map.mp hp
  by_cases hqs : q.seq = o.seq
  · rw [if_pos hqs, heq q hq hqs]
  · rw [if_neg hqs] at hseq
    exact absurd (hseq.trans hf) hqs

/-! ## Counters -/

theorem satAdd32_toNat (w : Word) (n : Nat) : (satAdd32 w n).toNat = min (w.toNat + n) 0xFFFFFFFF := by
  rw [satAdd32, BitVec.toNat_ofNat]
  omega

theorem satAdd32_zero (w : Word) : satAdd32 w 0 = w := by
  apply BitVec.eq_of_toNat_eq
  rw [satAdd32_toNat]
  omega

@[simp] theorem offArr_inj {core arr i j : Nat} : offArr core arr i = offArr core arr j ↔ i = j := by
  unfold offArr
  omega

@[simp] theorem offCvt_inj {core i j : Nat} : offCvt core i = offCvt core j ↔ i = j := by
  unfold offCvt
  omega

/-- Conversion counters lie below the arrays'. -/
theorem offCvt_lt_offArr {core arr i j : Nat} (h : i < 3) : offCvt core i < offArr core arr j := by
  unfold offCvt offArr
  omega

theorem State.reg_countCvt_other {s : State} {core off : Nat} (h : ∀ i < 3, off ≠ offCvt core i) (sat infs nans : Nat) :
    (s.countCvt core sat infs nans).reg off = s.reg off := by
  simp only [State.countCvt, State.reg_count]
  rw [if_neg (h 2 (by decide)), if_neg (h 1 (by decide)), if_neg (h 0 (by decide))]

theorem State.raised_countCvt (s : State) (core sat infs nans : Nat) :
    raised s (s.countCvt core sat infs nans) (offCvt core 0) sat ∧ raised s (s.countCvt core sat infs nans) (offCvt core 1) infs := by
  simp [raised, State.countCvt, State.reg_count, satAdd32_toNat]

/-- Counting nothing changes no register. -/
theorem State.reg_countCvt_zero (s : State) (core off : Nat) : (s.countCvt core 0 0 0).reg off = s.reg off := by
  simp only [State.countCvt, State.reg_count, satAdd32_zero]
  split_ifs <;> simp_all

theorem State.arrCycles_singleton (s : State) (core arr : Nat) (cyc : ArrCycles) :
    s.arrCycles core [arr] cyc =
      let t := (((s.count (offArr core arr 0) cyc.busy).count (offArr core arr 1) cyc.frozen).count (offArr core arr 2) cyc.feed).count
        (offArr core arr 3) cyc.drain
      if arr = 2 then t.count (offArr core arr 4) cyc.wbq else t := rfl

theorem State.raised_arrCycles (s : State) (core arr : Nat) (cyc : ArrCycles) :
    let t := s.arrCycles core [arr] cyc
    raised s t (offArr core arr 0) cyc.busy ∧ raised s t (offArr core arr 1) cyc.frozen ∧ raised s t (offArr core arr 2) cyc.feed
      ∧ raised s t (offArr core arr 3) cyc.drain := by
  simp only [State.arrCycles_singleton, raised]
  split <;> simp [State.reg_count, satAdd32_toNat]

theorem State.reg_arrCycles_other {s : State} {core arr off : Nat} (h : ∀ i < 5, off ≠ offArr core arr i) (cyc : ArrCycles) :
    (s.arrCycles core [arr] cyc).reg off = s.reg off := by
  simp only [State.arrCycles_singleton]
  split <;> simp only [State.reg_count, if_neg (h 0 (by decide)), if_neg (h 1 (by decide)), if_neg (h 2 (by decide)),
    if_neg (h 3 (by decide)), if_neg (h 4 (by decide))]

/-- A counter was raised if it was raised in between and stands before and after as it does there. -/
theorem raised_congr {s s' t t' : State} {off n : Nat} (h : raised s' t' off n) (hs : s'.reg off = s.reg off)
    (ht : t.reg off = t'.reg off) : raised s t off n := by
  unfold raised at *
  rwa [ht, ← hs]

/-! ## What a conversion leaves -/

/-- Nothing but registers differs. -/
def State.OnlyRegs (s t : State) : Prop := t = { s with setup := t.setup }

theorem State.OnlyRegs.trans {s t u : State} (h : s.OnlyRegs t) (h' : t.OnlyRegs u) : s.OnlyRegs u := by
  unfold State.OnlyRegs at *
  rw [h', h]

theorem State.count_onlyRegs (s : State) (off n : Nat) : s.OnlyRegs (s.count off n) := rfl

theorem State.countCvt_onlyRegs (s : State) (core sat infs nans : Nat) : s.OnlyRegs (s.countCvt core sat infs nans) :=
  ((State.count_onlyRegs ..).trans (State.count_onlyRegs ..)).trans (State.count_onlyRegs ..)

theorem State.arrCycles_onlyRegs (s : State) (core arr : Nat) (cyc : ArrCycles) : s.OnlyRegs (s.arrCycles core [arr] cyc) := by
  have h := ((s.count_onlyRegs (offArr core arr 0) cyc.busy).trans (State.count_onlyRegs _ (offArr core arr 1) cyc.frozen)).trans
    ((State.count_onlyRegs _ (offArr core arr 2) cyc.feed).trans (State.count_onlyRegs _ (offArr core arr 3) cyc.drain))
  rw [State.arrCycles_singleton]
  simp only []
  split
  · exact h.trans (State.count_onlyRegs ..)
  · exact h

theorem State.OnlyRegs.byte {s t : State} (h : s.OnlyRegs t) (z : Nat) : t.byte z = s.byte z := by
  rw [h]
  rfl

theorem State.OnlyRegs.core {s t : State} (h : s.OnlyRegs t) (c : Nat) : t.core c = s.core c := by
  rw [h]
  rfl

/-- Nothing but cores, memory and registers differs. -/
def State.WriteFrame (s t : State) : Prop := t = { s with cores := t.cores, mem := t.mem, lost := t.lost, setup := t.setup }

theorem State.WriteFrame.trans {s t u : State} (h : s.WriteFrame t) (h' : t.WriteFrame u) : s.WriteFrame u := by
  unfold State.WriteFrame at *
  rw [h', h]

theorem State.OnlyRegs.writeFrame {s t : State} (h : s.OnlyRegs t) : s.WriteFrame t := by
  rw [h]
  rfl

theorem State.modOp_frame (s : State) (core arr seq : Nat) (f : ArrOp → ArrOp) : s.WriteFrame (s.modOp core arr seq f) := by
  unfold State.WriteFrame State.modOp State.modArray State.modCore State.setCore
  rfl

/-- No block or word is in error and no sample of the core is captured. -/
def State.QuietCore (s : State) (core : Nat) : Prop := soundMem s ∧ (s.core core).captures = [none, none]

theorem State.QuietCore.onlyRegs {s t : State} {core : Nat} (h : s.QuietCore core) (hr : s.OnlyRegs t) : t.QuietCore core := by
  rw [hr]
  exact h

theorem State.QuietCore.modOp {s : State} {core : Nat} (h : s.QuietCore core) (arr seq : Nat) (f : ArrOp → ArrOp) :
    (s.modOp core arr seq f).QuietCore core := by
  obtain ⟨⟨hd, ho, hb⟩, hc⟩ := h
  exact ⟨⟨(State.modCore_defects ..).trans hd, (State.modCore_crcOff ..).trans ho, (State.modCore_sramBad ..).trans hb⟩,
    (State.captures_modOp ..).trans hc⟩

/-- The bytes that an operation has written, and those of `ws`. -/
def ArrOp.wrote (ws : List BitWrite) (o : ArrOp) : ArrOp :=
  { o with done := ws.foldl (fun m w => Sparse.set (fun _ => false) m w.addr true) o.done }

/-- The counts of an operation and those of a conversion without NaN. -/
def ArrOp.counted (c : CvtCounts) (o : ArrOp) : ArrOp :=
  { o with cvt := { sat := o.cvt.sat + c.sat, infs := o.cvt.infs + c.infs, nans := o.cvt.nans } }

theorem State.opWrite_of_quiet {s : State} {core : Nat} (h : s.QuietCore core) (arr : Nat) (o : ArrOp) (ws : List BitWrite) :
    s.opWrite core arr o ws = (forEach State.writeBits s ws).modOp core arr o.seq (ArrOp.wrote ws) := by
  obtain ⟨hs, hc⟩ := h
  have hcap : ((forEach State.writeBits s ws).core core).captures = [none, none] := by
    rw [State.forEach_writeBits_eq]
    exact hc
  unfold State.opWrite
  rw [State.writeBitsAll_of_sound hs]
  simp only [hcap]
  rfl

theorem State.opCounts_of_noNan {c : CvtCounts} (h : c.nans = 0) (s : State) (core arr k : Nat) (o : ArrOp) :
    s.opCounts core arr k o c = (s.countCvt core c.sat c.infs 0).modOp core arr o.seq (ArrOp.counted c) := by
  unfold State.opCounts ArrOp.counted
  simp only [h, ne_eq, not_true_eq_false, false_and, if_false, bne_self_eq_false, Bool.or_false, Nat.add_zero]

theorem State.byte_congr {s t : State} (hm : t.mem = s.mem) (hl : t.lost = s.lost) (z : Nat) : t.byte z = s.byte z := by
  rw [State.byte_eq, State.byte_eq, hm, hl]

theorem State.byte_modOp (s : State) (core arr seq : Nat) (f : ArrOp → ArrOp) (z : Nat) :
    (s.modOp core arr seq f).byte z = s.byte z :=
  State.byte_congr (State.modCore_mem ..) (State.modCore_lost ..) z

theorem State.reg_modOp (s : State) (core arr seq : Nat) (f : ArrOp → ArrOp) (off : Nat) :
    (s.modOp core arr seq f).reg off = s.reg off :=
  State.reg_congr (State.modCore_setup ..) off

/-- What keeping a conversion of the running operation in place `seq` of the core order does: its bytes are written, its counts
are added to the core's and to the operation's, and no other core changes. -/
structure State.Keeps (s t : State) (core arr seq : Nat) (out : Converted) : Prop where
  bytes : ∀ z, isRom z = false → t.byte z = after s out.writes z
  regs : ∀ off, t.reg off = (s.countCvt core out.cvt.sat out.cvt.infs 0).reg off
  runs : ∀ p, s.Runs core arr p → p.seq = seq → t.Runs core arr ((p.wrote out.writes).counted out.cvt)
  others : ∀ c, c ≠ core → t.core c = s.core c
  frame : s.WriteFrame t
  quiet : t.QuietCore core

theorem State.keeps_opCounts_opWrite {s : State} {core arr : Nat} {o q : ArrOp} {out : Converted} (h : s.QuietCore core)
    (hn : out.cvt.nans = 0) (hq : q.seq = o.seq) (k : Nat) :
    s.Keeps ((s.opWrite core arr o out.writes).opCounts core arr k q out.cvt) core arr o.seq out := by
  have hbyte (z : Nat) (hz : isRom z = false) := State.byte_forEach_writeBits s out.writes hz
  obtain ⟨m, l, hu⟩ : ∃ m l, forEach State.writeBits s out.writes = { s with mem := m, lost := l } :=
    ⟨_, _, State.forEach_writeBits_eq s out.writes⟩
  rw [State.opWrite_of_quiet h, State.opCounts_of_noNan hn, hq, hu]
  rw [hu] at hbyte
  refine ⟨fun z hz => ?_, fun off => ?_, fun p hp hs => ?_, fun c hc => ?_, ?_, ?_⟩
  · rw [State.byte_modOp, (State.countCvt_onlyRegs ..).byte, State.byte_modOp]
    exact hbyte z hz
  · simp only [State.reg_modOp, State.countCvt, State.reg_count]
    rfl
  · have hp' : State.Runs { s with mem := m, lost := l } core arr p := hp.congr rfl
    exact (((hp'.modOp hs hs).congr ((State.countCvt_onlyRegs ..).core core)).modOp hs hs)
  · rw [State.core_modOp_other _ hc, (State.countCvt_onlyRegs ..).core, State.core_modOp_other _ hc]
    rfl
  · have hw : s.WriteFrame { s with mem := m, lost := l } := rfl
    exact ((hw.trans (State.modOp_frame ..)).trans (State.countCvt_onlyRegs ..).writeFrame).trans (State.modOp_frame ..)
  · have hm : State.QuietCore { s with mem := m, lost := l } core := h
    exact ((hm.modOp ..).onlyRegs (State.countCvt_onlyRegs ..)).modOp ..

end Sys2Proof.Machine
end

section
/-! # A tile conversion (O28)

TILE_CONVERT_DONE once its checks have passed: a dense tile without replay (R66, R67), and a pass of a sparse operation
(R63, R66). -/
namespace Sys2Proof.Machine
open Sys2Proof.Claims

/-! ## The row -/

/-- An operation with cycles frozen for it (R70). -/
def ArrOp.frozenFor (n : Nat) (o : ArrOp) : ArrOp := { o with freeze := o.freeze + n }

/-- The state in which a tile converts: progress and cycles have been noted (R71, R395). -/
def State.underway (s : State) (core arr seq : Nat) (cyc : ArrCycles) : State :=
  ((s.progressed (.array core arr)).arrCycles core [arr] cyc).modOp core arr seq (ArrOp.frozenFor cyc.frozen)

section
variable (s : State) (core arr seq : Nat) (cyc : ArrCycles)

/-- Before the operation is changed, only progress and registers differ. -/
theorem State.underway_onlyRegs :
    (s.progressed (.array core arr)).OnlyRegs ((s.progressed (.array core arr)).arrCycles core [arr] cyc) :=
  State.arrCycles_onlyRegs ..

theorem State.byte_underway (z : Nat) : (s.underway core arr seq cyc).byte z = s.byte z := by
  rw [State.underway, State.byte_modOp, (s.underway_onlyRegs core arr cyc).byte]
  rfl

theorem State.core_underway_other {c : Nat} (h : c ≠ core) : (s.underway core arr seq cyc).core c = s.core c := by
  rw [State.underway, State.core_modOp_other _ h, (s.underway_onlyRegs core arr cyc).core]
  rfl

theorem State.reg_underway (off : Nat) :
    (s.underway core arr seq cyc).reg off = ((s.progressed (.array core arr)).arrCycles core [arr] cyc).reg off :=
  State.reg_modOp ..

theorem State.underway_frame : (s.progressed (.array core arr)).WriteFrame (s.underway core arr seq cyc) :=
  (s.underway_onlyRegs core arr cyc).writeFrame.trans (State.modOp_frame ..)

variable {s core arr}

theorem State.QuietCore.underway (h : s.QuietCore core) : (s.underway core arr seq cyc).QuietCore core := by
  have hp : (s.progressed (.array core arr)).QuietCore core := h
  exact (hp.onlyRegs (s.underway_onlyRegs core arr cyc)).modOp ..

theorem State.Runs.underway {o : ArrOp} (h : s.Runs core arr o) :
    (s.underway core arr o.seq cyc).Runs core arr (o.frozenFor cyc.frozen) :=
  ((h.congr rfl).congr ((s.underway_onlyRegs core arr cyc).core core)).modOp rfl rfl

end

theorem State.eccRange_of_sound {s : State} (h : s.sramBad = []) (a n : Nat) : s.eccRange a n = (s, false) := by
  rw [State.eccRange, h]
  rfl

theorem State.eccRanges_of_sound {s : State} (h : s.sramBad = []) (rs : List Range) : s.eccRanges rs = (s, none) := by
  unfold State.eccRanges
  induction rs with
  | nil => rfl
  | cons r rs ih =>
    rw [List.foldl_cons, State.eccRange_of_sound h]
    exact ih

theorem opArrays_of_dArray {d : List Word} {arr : Nat} (h : dArray d = arr) (hlt : arr < 3) : opArrays d = [arr] := by
  have hc : dChained d = false := by
    rw [dChained, h, beq_eq_false_iff_ne]
    omega
  rw [opArrays, hc, if_neg (by decide), h]

theorem passEntries_frozenFor (rd : Nat → Byte) (n : Nat) (o : ArrOp) (kblk : Option Nat) (i k : Nat) :
    passEntries rd (o.frozenFor n) kblk i k = passEntries rd o kblk i k := by
  induction k generalizing kblk i with
  | zero => rfl
  | succ k ih =>
    simp only [passEntries, ih]
    rfl

/-- The next tile of an operation converts, or its next pass: what TILE_CONVERT_DONE does once every check has passed. -/
def State.convertNext (s : State) (core arr : Nat) (o : ArrOp) (cyc : ArrCycles) : State :=
  let u := s.underway core arr o.seq cyc
  if dSparse o.desc then
    (if passEntries u.byte o none o.entry 16 = [] then s
     else u.convertPass core arr (o.frozenFor cyc.frozen) (passEntries u.byte o none o.entry 16))
  else if o.fed = [] then s
  else u.convertDense core arr (o.frozenFor cyc.frozen) (o.fed.headD 0)

section
variable {s : State} {core arr : Nat} {o : ArrOp} (h : converting s core arr o)
include h

theorem State.Runs.of_converting : s.Runs core arr o := by
  obtain ⟨-, harr, hlen, -, -, -, -, honly⟩ := h
  exact ⟨by rw [hlen]; exact harr, honly⟩

theorem exec_tileConvertDone (hq : quietMem s) (hb : s.scaleBad = []) (ha : dArray o.desc = arr) (cyc : ArrCycles) :
    exec (.tileConvertDone core arr cyc) s = .next (s.convertNext core arr o cyc) := by
  obtain ⟨-, harr, -, hcur, hkill, hblk, hhead, -⟩ := h
  obtain ⟨⟨-, -, hbad⟩, -⟩ := hq
  have hgo : ¬ (o.killed || (s.core core).tileBlocked arr o || decide ((opArrays o.desc).headD 0 ≠ arr)) = true := by
    rw [hkill, hblk, hhead]
    simp
  have hscale : s.checkScales core o = (s, none, 0) := by rw [State.checkScales, hb]; rfl
  have hpass : passEntries (s.underway core arr o.seq cyc).byte (o.frozenFor cyc.frozen) none o.entry 16 =
      passEntries (s.underway core arr o.seq cyc).byte o none o.entry 16 := passEntries_frozenFor _ _ _ _ _ _
  show execTileConvertDone core arr cyc s = _
  unfold execTileConvertDone
  simp only [hcur]
  rw [if_neg hgo]
  simp only [State.eccRanges_of_sound hbad, hscale, opArrays_of_dArray ha harr, Nat.add_zero]
  unfold State.convertNext
  simp only []
  rw [← hpass]
  cases dSparse o.desc
  · rw [if_neg Bool.false_ne_true, if_neg Bool.false_ne_true]
    split
    · next hnil => rw [if_pos hnil]
    · next k rest hcons =>
      have hhd : o.fed.headD 0 = k := by rw [hcons]; rfl
      rw [if_neg (by rw [hcons]; exact List.cons_ne_nil _ _), hhd]
      rfl
  · rw [if_pos rfl, if_pos rfl]
    split
    · next hnil => exact congrArg _ (if_pos hnil).symm
    · next hne => exact congrArg _ (if_neg hne).symm
end

/-! ## A dense tile -/

/-- The operation behind whose tiles the next one enters (R67). -/
theorem ArrOp.feedNext_eq (o : ArrOp) : o.feedNext = { o with
    fed := o.fed ++ (if o.refeed = [] ∧ o.tile < opTiles o.desc o.width then [o.tile] else []), tile := o.feedNext.tile } := by
  unfold ArrOp.feedNext
  by_cases h : o.refeed = [] ∧ o.tile < opTiles o.desc o.width
  · rw [if_pos (by simp [h]), if_pos h]
  · rw [if_neg (by simpa using h), if_neg h, List.append_nil]

/-- The operation as its tile `k` converts: the row bits are recorded, and the tile leaves the array (R54, R67). -/
def ArrOp.feeding (rd : Nat → Byte) (o : ArrOp) (k : Nat) : ArrOp :=
  { o with
    rowBits := Sparse.set (fun _ => 0) o.rowBits (tileBlocks o k).1 (2 ^ 16 + rowBitsAt rd o (tileBlocks o k).1), fed := o.fed.tail }

/-- What tile `k` gives (R66). -/
def ArrOp.output (rd : Nat → Byte) (core : Nat) (o : ArrOp) (k : Nat) : Converted :=
  if dWb o.desc then wbTile rd core o k else tileOutput rd o k (dS o.desc)

theorem State.captureTile_of_unsampled {o : ArrOp} (h : o.shadow = []) (s : State) (core arr k : Nat) (sx : Int)
    (vals : List (Nat × Nat × FVal)) : s.captureTile core arr o k sx vals = s := by
  rw [State.captureTile, h]
  rfl

/-- Without replay the tile is written at once, and the next one enters. -/
theorem State.convertDense_of_plain {o : ArrOp} (hrep : dReplay o.desc = false) (hrefed : o.refed = []) (hsh : o.shadow = [])
    (s : State) (core arr k : Nat) :
    s.convertDense core arr o k =
      let o1 := (o.feeding s.byte k).feedNext
      let out := (o.feeding s.byte k).output s.byte core k
      ((s.modOp core arr o.seq fun _ => o1).opWrite core arr o1 out.writes).opCounts core arr k o1 out.cvt := by
  unfold State.convertDense
  extract_lets rb p
  have hp : p = o.feeding s.byte k := rfl
  clear_value p
  have hnext := p.feedNext_eq
  have hrefed' : Sparse.get (fun _ => 0) p.refed k = 0 := by rw [hp, ArrOp.feeding, hrefed]; rfl
  have hrep' : dReplay p.desc = false := by rw [hp]; exact hrep
  have hnextRep : dReplay p.feedNext.desc = false := by rw [hnext]; exact hrep'
  have hshadow : p.feedNext.shadow = [] := by rw [hnext, hp]; exact hsh
  have hseq : p.feedNext.seq = o.seq := by rw [hnext, hp]; rfl
  have htile : tileS p k = dS p.desc := by rw [tileS]; simp only [hrefed', if_true]
  simp +zetaDelta only [hrefed', hrep', hnextRep, htile, hseq, ne_eq, not_true_eq_false, decide_false, Bool.false_and, Bool.false_eq_true,
    if_false, State.captureTile_of_unsampled hshadow, ← hp]
  rfl

section
variable {s : State} {core arr k : Nat} {o : ArrOp} {cyc : ArrCycles} {rest : List Nat} {out : Converted}

/-- The state in which the tile is written: its operation stands as it will once the next tile has entered. -/
def State.feeding (s : State) (core arr : Nat) (o : ArrOp) (cyc : ArrCycles) (k : Nat) : State :=
  (s.underway core arr o.seq cyc).modOp core arr o.seq fun _ => ((o.frozenFor cyc.frozen).feeding s.byte k).feedNext

theorem State.byte_feeding (z : Nat) : (s.feeding core arr o cyc k).byte z = s.byte z := by
  rw [State.feeding, State.byte_modOp, State.byte_underway]

theorem State.reg_feeding (off : Nat) :
    (s.feeding core arr o cyc k).reg off = ((s.progressed (.array core arr)).arrCycles core [arr] cyc).reg off := by
  rw [State.feeding, State.reg_modOp, State.reg_underway]

theorem State.QuietCore.feeding (h : s.QuietCore core) : (s.feeding core arr o cyc k).QuietCore core :=
  (h.underway o.seq cyc).modOp ..

/-- A dense tile is fed, written and counted. -/
theorem exec_tileConvertDone_dense (h : converting s core arr o) (hq : quietMem s) (hb : s.scaleBad = [])
    (ha : dArray o.desc = arr) (hsp : dSparse o.desc = false) (hrep : dReplay o.desc = false) (hfed : o.fed = k :: rest)
    (hsh : o.shadow = []) (hrefed : o.refed = [])
    (hout : ((o.frozenFor cyc.frozen).feeding s.byte k).output s.byte core k = out) (hn : out.cvt.nans = 0) :
    ∃ t, exec (.tileConvertDone core arr cyc) s = .next t ∧ (s.feeding core arr o cyc k).Keeps t core arr o.seq out := by
  have hbyte : (s.underway core arr o.seq cyc).byte = s.byte := funext fun z => State.byte_underway ..
  have hquiet : s.QuietCore core := ⟨hq.1, hq.2 core⟩
  have hseq : ((o.frozenFor cyc.frozen).feeding s.byte k).feedNext.seq = o.seq := by rw [ArrOp.feedNext_eq]; rfl
  have hne : o.fed ≠ [] := by rw [hfed]; exact List.cons_ne_nil _ _
  have hconv := State.convertDense_of_plain (o := o.frozenFor cyc.frozen) hrep hrefed hsh (s.underway core arr o.seq cyc) core arr k
  simp only [hbyte, hout] at hconv
  have hnext : s.convertNext core arr o cyc =
      (s.underway core arr o.seq cyc).convertDense core arr (o.frozenFor cyc.frozen) k := by
    rw [State.convertNext, hsp, if_neg Bool.false_ne_true, if_neg hne, hfed, List.headD_cons]
  have hkeep := State.keeps_opCounts_opWrite (arr := arr) (o := ((o.frozenFor cyc.frozen).feeding s.byte k).feedNext)
    (hquiet.feeding (arr := arr) (o := o) (cyc := cyc) (k := k)) hn rfl k
  rw [hseq] at hkeep
  exact ⟨_, (exec_tileConvertDone h hq hb ha cyc).trans (congrArg _ (hnext.trans hconv)), hkeep⟩

/-- The registers that a dense tile raises. -/
theorem State.Keeps.raised {t : State} (hk : (s.feeding core arr o cyc k).Keeps t core arr o.seq out) :
    raised s t (offCvt core 0) out.cvt.sat ∧ raised s t (offCvt core 1) out.cvt.infs
      ∧ raised s t (offArr core arr 0) cyc.busy ∧ raised s t (offArr core arr 1) cyc.frozen
      ∧ raised s t (offArr core arr 2) cyc.feed ∧ raised s t (offArr core arr 3) cyc.drain := by
  have hcvt {i : Nat} (hi : i < 3) : (s.feeding core arr o cyc k).reg (offCvt core i) = s.reg (offCvt core i) := by
    rw [State.reg_feeding, State.reg_arrCycles_other fun j _ => (offCvt_lt_offArr hi).ne]
    rfl
  have harr (i : Nat) : t.reg (offArr core arr i) =
      ((s.progressed (.array core arr)).arrCycles core [arr] cyc).reg (offArr core arr i) := by
    rw [hk.regs, State.reg_countCvt_other fun j hj => (offCvt_lt_offArr hj).ne', State.reg_feeding]
  obtain ⟨hsat, hinf⟩ := State.raised_countCvt (s.feeding core arr o cyc k) core out.cvt.sat out.cvt.infs 0
  obtain ⟨hbusy, hfrozen, hfeed, hdrain⟩ := State.raised_arrCycles (s.progressed (.array core arr)) core arr cyc
  exact ⟨raised_congr hsat (hcvt (by decide)) (hk.regs _), raised_congr hinf (hcvt (by decide)) (hk.regs _), raised_congr hbusy rfl (harr 0),
    raised_congr hfrozen rfl (harr 1), raised_congr hfeed rfl (harr 2), raised_congr hdrain rfl (harr 3)⟩

/-- The operation once a dense tile is written. -/
theorem State.Keeps.operation {t : State} (h : converting s core arr o)
    (hk : (s.feeding core arr o cyc k).Keeps t core arr o.seq out) :
    t.Runs core arr (((((o.frozenFor cyc.frozen).feeding s.byte k).feedNext).wrote out.writes).counted out.cvt) := by
  have hseq : ((o.frozenFor cyc.frozen).feeding s.byte k).feedNext.seq = o.seq := by rw [ArrOp.feedNext_eq]; rfl
  exact hk.runs _ (((State.Runs.of_converting h).underway cyc).modOp rfl hseq) hseq

end

/-! ## A pass of a sparse operation -/

/-- One sum is added to its wide-buffer entry (R63). -/
def State.addEntry (core arr : Nat) (o : ArrOp) (s : State) (x : Nat × Word) : State :=
  let out := wbWrites s.byte core o [x]
  let cur := (((s.core core).array arr).running.find? fun q => q.seq == o.seq).getD o
  (s.opWrite core arr o out.writes).opCounts core arr o.tile cur out.cvt

/-- A pass of `n` entries noted in an operation (R70). -/
def ArrOp.passed (n : Nat) (o : ArrOp) : ArrOp :=
  { o with entry := o.entry + n, tile := o.tile + 1, segments := o.segments + n }

/-- The pass counted, before its sums are added (R71). -/
def State.passing (s : State) (core arr seq n : Nat) : State :=
  ((s.modOp core arr seq (ArrOp.passed n)).count (offArr core 2 5) 1).count (offArr core 2 6) n

theorem State.convertPass_eq (s : State) (core arr : Nat) (o : ArrOp) (es : List (Nat × Nat × Nat)) :
    s.convertPass core arr o es =
      forEach (State.addEntry core arr o) (s.passing core arr o.seq es.length) (passSums s.byte o es) := rfl

/-- Counting a pass changes the operation and registers. -/
theorem State.passing_onlyRegs (s : State) (core arr seq n : Nat) :
    (s.modOp core arr seq (ArrOp.passed n)).OnlyRegs (s.passing core arr seq n) :=
  (State.count_onlyRegs ..).trans (State.count_onlyRegs ..)

theorem State.byte_passing (s : State) (core arr seq n z : Nat) : (s.passing core arr seq n).byte z = s.byte z := by
  rw [(s.passing_onlyRegs core arr seq n).byte, State.byte_modOp]

theorem State.QuietCore.passing {s : State} {core : Nat} (h : s.QuietCore core) (arr seq n : Nat) :
    (s.passing core arr seq n).QuietCore core :=
  (h.modOp ..).onlyRegs (s.passing_onlyRegs core arr seq n)

theorem State.raised_passing (s : State) (core arr seq n : Nat) :
    raised s (s.passing core arr seq n) (offArr core 2 5) 1 ∧ raised s (s.passing core arr seq n) (offArr core 2 6) n := by
  simp [raised, State.passing, State.reg_count, State.reg_modOp, satAdd32_toNat]

/-- The write that adds a sum to its entry. -/
def wbAdd (s : State) (core : Nat) (x : Nat × Word) : Converted :=
  { writes := wordWrites (wbBase core + 4 * x.1) (fadd (s.word (wbBase core + 4 * x.1)) x.2)
    cvt := { sat := 0, infs := 0, nans := b2n (fdec (fadd (s.word (wbBase core + 4 * x.1)) x.2)).isNan }, overflowed := none }

theorem wbWrites_singleton {o : ArrOp} (h : dDest o.desc = 2) (s : State) (core : Nat) (x : Nat × Word) :
    wbWrites s.byte core o [x] = wbAdd s core x := by
  have hold (a : Nat) : (BitVec.ofNat 32 (natLE ((List.range 4).map fun i => s.byte (a + i))) : Word) = s.word a := rfl
  simp only [wbWrites, hold, h, if_true, List.map_cons, List.map_nil, List.flatMap_singleton, List.sum_singleton]
  rfl

/-- Entries that hold no NaN afterwards, outside the boot ROM. -/
structure State.Addable (s : State) (core : Nat) (x : Nat × Word) : Prop where
  low : isRom (wbBase core + 4 * x.1) = false
  high : isRom (wbBase core + 4 * x.1 + 3) = false
  number : (fdec (fadd (s.word (wbBase core + 4 * x.1)) x.2)).isNan = false

/-- What adding the sums of a pass does. -/
structure State.Adds (s t : State) (core arr seq : Nat) (xs : List (Nat × Word)) : Prop where
  words : ∀ x ∈ xs, t.word (wbBase core + 4 * x.1) = fadd (s.word (wbBase core + 4 * x.1)) x.2
  bytes : ∀ z, (∀ x ∈ xs, z < wbBase core + 4 * x.1 ∨ wbBase core + 4 * x.1 + 4 ≤ z) → t.byte z = s.byte z
  regs : ∀ off, t.reg off = s.reg off
  runs : ∀ p, s.Runs core arr p → p.seq = seq →
    ∃ q, t.Runs core arr q ∧ q.seq = seq ∧ q.entry = p.entry ∧ q.segments = p.segments ∧ q.tile = p.tile

section
variable {s : State} {core arr : Nat} {o : ArrOp}

theorem State.keeps_addEntry (h : s.QuietCore core) (hd : dDest o.desc = 2) {x : Nat × Word} (hx : s.Addable core x) :
    s.Keeps (State.addEntry core arr o s x) core arr o.seq (wbAdd s core x) := by
  have hcur : ((((s.core core).array arr).running.find? fun q => q.seq == o.seq).getD o).seq = o.seq := by
    cases hf : ((s.core core).array arr).running.find? fun q => q.seq == o.seq with
    | none => rfl
    | some q => exact eq_of_beq (List.find?_some (p := fun q : ArrOp => q.seq == o.seq) hf)
  have hn : (wbAdd s core x).cvt.nans = 0 := by
    show b2n _ = 0
    rw [hx.number]
    rfl
  unfold State.addEntry
  rw [wbWrites_singleton hd]
  exact State.keeps_opCounts_opWrite h hn hcur _

/-- A byte outside the entry keeps its value. -/
theorem State.Keeps.byte_outside {t : State} {x : Nat × Word} (hk : s.Keeps t core arr o.seq (wbAdd s core x)) {z : Nat}
    (hz : z < wbBase core + 4 * x.1 ∨ wbBase core + 4 * x.1 + 4 ≤ z) : t.byte z = s.byte z := by
  by_cases hrom : isRom z = true
  · exact State.byte_rom s t hrom
  · rw [hk.bytes z (by simpa using hrom)]
    refine after_of_forall_ne fun w hw => ?_
    obtain ⟨hlo, hhi⟩ := mem_wordWrites hw
    omega

/-- Another entry's word keeps its value. -/
theorem State.Keeps.word_other {t : State} {x : Nat × Word} (hk : s.Keeps t core arr o.seq (wbAdd s core x)) {n : Nat}
    (hn : n ≠ x.1) : t.word (wbBase core + 4 * n) = s.word (wbBase core + 4 * n) :=
  State.word_congr fun i hi => hk.byte_outside (by omega)

/-- The entry's word is the sum. -/
theorem State.Keeps.word_entry {t : State} {x : Nat × Word} (hk : s.Keeps t core arr o.seq (wbAdd s core x))
    (hx : s.Addable core x) :
    t.word (wbBase core + 4 * x.1) = fadd (s.word (wbBase core + 4 * x.1)) x.2 := by
  rw [← State.word_forEach_wordWrites s (fadd (s.word (wbBase core + 4 * x.1)) x.2) hx.low hx.high]
  refine State.word_congr fun i hi => ?_
  have hrom := isRom_between hx.low hx.high hi
  rw [hk.bytes _ hrom, State.byte_forEach_writeBits _ _ hrom]
  rfl

/-- Distinct entries take their sums one after another, and nothing else of memory or registers changes. -/
theorem State.adds_forEach (hd : dDest o.desc = 2) (xs : List (Nat × Word)) (h : s.QuietCore core)
    (hx : ∀ x ∈ xs, s.Addable core x) (hnodup : (xs.map Prod.fst).Nodup) :
    s.Adds (forEach (State.addEntry core arr o) s xs) core arr o.seq xs := by
  induction xs generalizing s with
  | nil => exact ⟨fun _ hx => absurd hx List.not_mem_nil, fun _ _ => rfl, fun _ => rfl, fun p hp hs => ⟨p, hp, hs, rfl, rfl, rfl⟩⟩
  | cons x xs ih =>
    obtain ⟨hfirst, hrest⟩ := List.nodup_cons.mp hnodup
    have hadd := hx x List.mem_cons_self
    have hk := State.keeps_addEntry (arr := arr) h hd hadd
    have hother {y : Nat × Word} (hy : y ∈ xs) :=
      hk.word_other (n := y.1) fun heq => hfirst (heq ▸ List.mem_map.mpr ⟨y, hy, rfl⟩)
    obtain ⟨hwords, hbytes, hregs, hruns⟩ := ih hk.quiet
      (fun y hy => by
        obtain ⟨hlo, hhi, hnum⟩ := hx y (List.mem_cons_of_mem _ hy)
        exact ⟨hlo, hhi, by rw [hother hy]; exact hnum⟩) hrest
    refine ⟨fun y hy => ?_, fun z hz => ?_, fun off => ?_, fun p hp hs => ?_⟩
    · rcases List.mem_cons.mp hy with rfl | hy
      · rw [← hk.word_entry hadd]
        refine State.word_congr fun i hi => hbytes _ fun w hw => ?_
        have hne : w.1 ≠ y.1 := fun heq => hfirst (heq ▸ List.mem_map.mpr ⟨w, hw, rfl⟩)
        omega
      · exact (hwords y hy).trans (by rw [hother hy])
    · exact (hbytes z fun y hy => hz y (List.mem_cons_of_mem _ hy)).trans (hk.byte_outside (hz x List.mem_cons_self))
    · exact (hregs off).trans ((hk.regs off).trans (State.reg_countCvt_zero ..))
    · obtain ⟨q, hq, hseq, hentry, hsegments, htile⟩ := hruns _ (hk.runs p hp hs) hs
      exact ⟨q, hq, hseq, hentry, hsegments, htile⟩

end

/-! ## The clauses -/

section
variable {s : State} {core arr : Nat} {o : ArrOp} {cyc : ArrCycles}

theorem next_tileConvertDone_dense {k : Nat} {rest : List Nat} {out : Converted} (h : converting s core arr o) (hq : quietMem s)
    (hb : s.scaleBad = []) (ha : dArray o.desc = arr) (hsp : dSparse o.desc = false) (hrep : dReplay o.desc = false)
    (hfed : o.fed = k :: rest) (hsh : o.shadow = []) (hrefed : o.refed = [])
    (hout : ((o.frozenFor cyc.frozen).feeding s.byte k).output s.byte core k = out) (hn : out.cvt.nans = 0) :
    Next (.tileConvertDone core arr cyc) s fun t =>
      (∀ z, isRom z = false → t.byte z = after s out.writes z)
        ∧ raised s t (offCvt core 0) out.cvt.sat ∧ raised s t (offCvt core 1) out.cvt.infs
        ∧ raised s t (offArr core arr 0) cyc.busy ∧ raised s t (offArr core arr 1) cyc.frozen
        ∧ raised s t (offArr core arr 2) cyc.feed ∧ raised s t (offArr core arr 3) cyc.drain
        ∧ (∀ p ∈ ((t.core core).array arr).running, p.seq = o.seq →
            p.fed = rest ++ (if o.refeed = [] ∧ o.tile < opTiles o.desc o.width then [o.tile] else [])
            ∧ p.done.length = (out.writes.foldl (fun m w => Sparse.set (fun _ => false) m w.addr true) o.done).length
            ∧ p.cvt = { sat := o.cvt.sat + out.cvt.sat, infs := o.cvt.infs + out.cvt.infs, nans := o.cvt.nans })
        ∧ (∀ c, c ≠ core → t.core c = s.core c)
        ∧ t = { s with cores := t.cores, mem := t.mem, lost := t.lost, setup := t.setup, progress := arrayNow s core arr } := by
  obtain ⟨t, hex, hk⟩ := exec_tileConvertDone_dense h hq hb ha hsp hrep hfed hsh hrefed hout hn
  obtain ⟨hsat, hinfs, hbusy, hfrozen, hfeed, hdrain⟩ := hk.raised
  have hruns := hk.operation h
  refine ⟨t, hex, fun z hz => ?_, hsat, hinfs, hbusy, hfrozen, hfeed, hdrain, fun p hp hs => ?_, fun c hc => ?_, ?_⟩
  · rw [hk.bytes z hz, after_eq_foldl, State.byte_feeding]
    rfl
  · rw [ArrOp.feedNext_eq] at hruns
    rw [hruns.eq_of_seq p hp hs]
    exact ⟨congrArg (fun l => l.tail ++ _) hfed, rfl, rfl⟩
  · rw [hk.others c hc, State.feeding, State.core_modOp_other _ hc, State.core_underway_other _ _ _ _ _ hc]
  · have hframe := (s.underway_frame core arr o.seq cyc).trans ((State.modOp_frame ..).trans hk.frame)
    unfold State.WriteFrame at hframe
    rw [hframe]
    rfl

theorem next_tileConvertDone_sparse {es : List (Nat × Nat × Nat)} {xs : List (Nat × Word)} (h : converting s core 2 o)
    (hq : quietMem s) (hb : s.scaleBad = []) (ha : dArray o.desc = 2) (hsp : dSparse o.desc = true) (hd : dDest o.desc = 2)
    (hes : passEntries s.byte o none o.entry 16 = es) (hxs : passSums s.byte (o.frozenFor cyc.frozen) es = xs)
    (hne : es ≠ []) (hnodup : (xs.map Prod.fst).Nodup) (hadd : ∀ x ∈ xs, s.Addable core x) :
    Next (.tileConvertDone core 2 cyc) s fun t =>
      (∀ x ∈ xs, t.word (wbBase core + 4 * x.1) = fadd (s.word (wbBase core + 4 * x.1)) x.2)
        ∧ (∀ z, (∀ x ∈ xs, z < wbBase core + 4 * x.1 ∨ wbBase core + 4 * x.1 + 4 ≤ z) → t.byte z = s.byte z)
        ∧ raised s t (offArr core 2 5) 1 ∧ raised s t (offArr core 2 6) es.length
        ∧ (∀ p ∈ ((t.core core).array 2).running, p.seq = o.seq →
            p.entry = o.entry + es.length ∧ p.segments = o.segments + es.length ∧ p.tile = o.tile + 1) := by
  have hbyte : (s.underway core 2 o.seq cyc).byte = s.byte := funext fun z => State.byte_underway ..
  have hquiet : s.QuietCore core := ⟨hq.1, hq.2 core⟩
  have hex := exec_tileConvertDone h hq hb ha cyc
  rw [State.convertNext, hsp, if_pos rfl, hbyte, hes, if_neg hne, State.convertPass_eq, hbyte, hxs] at hex
  have hwbyte (z : Nat) : ((s.underway core 2 o.seq cyc).passing core 2 o.seq es.length).byte z = s.byte z := by
    rw [State.byte_passing, hbyte]
  have hword (a : Nat) : ((s.underway core 2 o.seq cyc).passing core 2 o.seq es.length).word a = s.word a :=
    State.word_congr fun i _ => hwbyte _
  have hruns : ((s.underway core 2 o.seq cyc).passing core 2 o.seq es.length).Runs core 2
      ((o.frozenFor cyc.frozen).passed es.length) :=
    ((((State.Runs.of_converting h).underway cyc).modOp rfl rfl).congr ((State.passing_onlyRegs ..).core core))
  obtain ⟨hpass, hentries⟩ := State.raised_passing (s.underway core 2 o.seq cyc) core 2 o.seq es.length
  have hreg {i : Nat} (hi : 5 ≤ i) : (s.underway core 2 o.seq cyc).reg (offArr core 2 i) = s.reg (offArr core 2 i) := by
    rw [State.reg_underway, State.reg_arrCycles_other fun j hj => by rw [Ne, offArr_inj]; omega]
    rfl
  have hadds := State.adds_forEach (o := o.frozenFor cyc.frozen) (arr := 2) hd xs ((hquiet.underway o.seq cyc).passing 2 o.seq es.length)
    (fun x hx => by
      obtain ⟨hlo, hhi, hnum⟩ := hadd x hx
      exact ⟨hlo, hhi, by rw [hword]; exact hnum⟩) hnodup
  refine ⟨_, hex, fun x hx => ?_, fun z hz => ?_, raised_congr hpass (hreg (by decide)) (hadds.regs _),
    raised_congr hentries (hreg (by decide)) (hadds.regs _), fun p hp hs => ?_⟩
  · rw [← hword]
    exact hadds.words x hx
  · exact (hadds.bytes z hz).trans (hwbyte z)
  · obtain ⟨q, hq, hseq, hentry, hsegments, htile⟩ := hadds.runs _ hruns rfl
    rw [hq.eq_of_seq p hp (hs.trans hseq.symm)]
    exact ⟨hentry, hsegments, htile⟩

end

end Sys2Proof.Machine

open Sys2Proof Sys2Proof.Machine Sys2Proof.Claims

/-- Settles O28: a dense tile, and a pass of a sparse operation. -/
theorem tileConversion : Obligations.TileConversion := by
  unfold Obligations.TileConversion
  intro s core arr cyc o h hq hb ha
  constructor
  · intro k rest hsp hrep hfed hsh hrefed
    extract_lets o1 out
    intro hn
    have ho1 : o1 = (o.frozenFor cyc.frozen).feeding s.byte k := by
      simp only [o1, ArrOp.feeding, ArrOp.frozenFor, hfed]
      rfl
    exact next_tileConvertDone_dense h hq hb ha hsp hrep hfed hsh hrefed (by rw [← ho1]; rfl) hn
  · intro hsp harr es xs hne hnodup hd hrom hnum
    subst harr
    exact next_tileConvertDone_sparse h hq hb ha hsp hd rfl rfl hne hnodup fun x hx =>
      ⟨(hrom x hx).1, (hrom x hx).2, hnum x hx⟩

end

section
/-! # Issuing an array operation (O26)

The cases of ARR.ISSUE once its sub-group issues (R155): the handle, the allocation, the queues, the checks of the descriptor (R68,
R69, R187, R196), and the operation's place in the core order (R215). That a queue holds four operations that wait beside those
that run, and that a refused one keeps its place in its queues, is log 24. -/
namespace Sys2Proof.Machine
open Sys2Proof.Claims

/-! ## Reading a descriptor -/

theorem State.bytes_congr {s t : State} (h : ∀ z, t.byte z = s.byte z) (a n : Nat) : t.bytes a n = s.bytes a n := by
  induction n generalizing a with
  | zero => rfl
  | succ n ih => rw [State.bytes, State.bytes, h, ih]

theorem State.words_modCore (s : State) (core : Nat) (f : Core → Core) (a n : Nat) : (s.modCore core f).words a n = s.words a n :=
  congrArg (wordsLE n) (State.bytes_congr (s := s) (t := s.modCore core f) (fun _ => rfl) a (4 * n))

theorem State.crcRange_of_sound {s : State} (h : soundMem s) (a n : Nat) : s.crcRange a n = s :=
  forEach_of_fixed (fun b => State.crcCheckBy_of_sound _ h b) _

/-- Memory without errors and without poison is read as it is. -/
theorem State.readMem_of_sound {s : State} (h : soundMem s) {a n : Nat} (hp : s.anyPoison a n = false) :
    s.readMem a n = (s, some (s.bytes a n)) := by
  have ⟨_, _, hbad⟩ := h
  have hnone : (blocksOf a n).find? s.poisoned = none := by
    rw [List.find?_eq_none]
    exact fun b hb hpb => by simpa [hpb] using List.any_eq_false.mp hp b hb
  unfold State.readMem
  split
  · simp only [State.crcRange_of_sound h, hnone]
  · simp only [State.eccRange_of_sound hbad, Bool.false_eq_true, if_false]

/-! ## The arrays of an operation -/

theorem dArray_lt (d : List Word) : dArray d < 4 := Nat.mod_lt _ (by decide)

theorem opArrays_lt {d : List Word} {i : Nat} (h : i ∈ opArrays d) : i < 3 := by
  have hlt := dArray_lt d
  unfold opArrays dChained at h
  split at h
  · simp only [List.mem_cons, List.not_mem_nil, or_false] at h
    omega
  · next hne =>
    have hne' : dArray d ≠ 3 := by simpa using hne
    rw [List.mem_singleton] at h
    omega

theorem opArrays_nodup (d : List Word) : (opArrays d).Nodup := by
  unfold opArrays
  split
  · decide
  · exact List.nodup_singleton _

/-! ## Changing an array -/

theorem Core.array_set (c : Core) {i : Nat} (h : i < c.arrays.length) (x : ArraySt) (j : Nat) :
    ({ c with arrays := c.arrays.set i x } : Core).array j = if j = i then x else c.array j := by
  unfold Core.array
  by_cases hj : j = i
  · subst hj
    simp [h]
  · simp [hj, List.getD_eq_getElem?_getD, Ne.symm hj]

theorem State.core_modArray (s : State) (core i : Nat) (f : ArraySt → ArraySt) (c : Nat) :
    (s.modArray core i f).core c = if c = core then
      { s.core core with arrays := (s.core core).arrays.set i (f ((s.core core).array i)) } else s.core c :=
  State.core_modCore _ _ _ _

theorem State.core_modArray_other (s : State) {core c : Nat} (h : c ≠ core) (i : Nat) (f : ArraySt → ArraySt) :
    (s.modArray core i f).core c = s.core c := by
  rw [State.core_modArray, if_neg h]

theorem State.array_modArray (s : State) {core i : Nat} (h : i < (s.core core).arrays.length) (f : ArraySt → ArraySt) (j : Nat) :
    ((s.modArray core i f).core core).array j = if j = i then f ((s.core core).array i) else (s.core core).array j := by
  rw [State.core_modArray, if_pos rfl, Core.array_set _ h]

theorem State.modArray_onlyCores (s : State) (core i : Nat) (f : ArraySt → ArraySt) : OnlyCores s (s.modArray core i f) := rfl

/-! ## Changing several arrays of a core -/

section
variable (s : State) (core : Nat) (f : ArraySt → ArraySt) (is : List Nat)

theorem State.core_forEach_modArray (c : Nat) : (forEach (fun s i => s.modArray core i f) s is).core c =
    { s.core c with arrays := ((forEach (fun s i => s.modArray core i f) s is).core c).arrays } := by
  induction is generalizing s with
  | nil => rfl
  | cons i is ih =>
    refine (ih (s.modArray core i f)).trans ?_
    rw [State.core_modArray]
    split
    · next hc => rw [hc]; rfl
    · rfl

theorem State.core_forEach_modArray_other {c : Nat} (h : c ≠ core) :
    (forEach (fun s i => s.modArray core i f) s is).core c = s.core c := by
  induction is generalizing s with
  | nil => rfl
  | cons i is ih => exact (ih _).trans (s.core_modArray_other h i f)

theorem State.array_forEach_modArray (hnd : is.Nodup) (hlt : ∀ i ∈ is, i < (s.core core).arrays.length) (j : Nat) :
    ((forEach (fun s i => s.modArray core i f) s is).core core).array j =
      if j ∈ is then f ((s.core core).array j) else (s.core core).array j := by
  induction is generalizing s with
  | nil => rfl
  | cons i is ih =>
    obtain ⟨hi, hnd⟩ := List.nodup_cons.mp hnd
    have hfirst := s.array_modArray (hlt i List.mem_cons_self) f
    have hlen : ((s.modArray core i f).core core).arrays.length = (s.core core).arrays.length := by
      rw [State.core_modArray, if_pos rfl]
      exact List.length_set
    refine (ih (s.modArray core i f) hnd fun k hk => hlen ▸ hlt k (List.mem_cons_of_mem _ hk)).trans ?_
    rw [hfirst]
    by_cases hj : j = i
    · subst hj
      rw [if_neg hi, if_pos rfl, if_pos List.mem_cons_self]
    · simp [hj]

theorem State.forEach_modArray_onlyCores : OnlyCores s (forEach (fun s i => s.modArray core i f) s is) := by
  induction is generalizing s with
  | nil => rfl
  | cons i is ih => exact (s.modArray_onlyCores core i f).trans (ih _)

end

/-! ## What issuing leaves of the cores -/

theorem State.core_modGroup_other (s : State) {c c' : Nat} (h : c' ≠ c) (b g : Nat) (f : Group → Group) :
    (s.modGroup c b g f).core c' = s.core c' := by
  unfold State.modGroup
  split
  · exact (State.core_modCore _ _ _ _).trans (if_neg h)
  · rfl

theorem Group.hreg_setH (g : Group) (n j : Nat) (v : DWord) : (g.setH n v).hreg j = if j = n then v else g.hreg j :=
  Sparse.get_set (fun _ => 0) g.h n j v

section
variable (a : At) (old u : State) (us : List Use)

theorem At.core_finished_other {c : Nat} (h : c ≠ a.core) :
    (a.issued (a.advance (a.supersede old u us))).core c = u.core c :=
  calc (a.issued (a.advance (a.supersede old u us))).core c = (a.advance (a.supersede old u us)).core c := by
        show (a.served _).core c = _
        rw [At.served, State.core_modCore, if_neg h]
    _ = (a.supersede old u us).core c := State.core_modGroup_other _ h _ _ _
    _ = u.core c := State.core_congr (a.supersede_cores old u us) c

variable {u} in
/-- A handle that the instruction has written stays written, and it has written nothing else. -/
theorem At.setH_finished {x : Block} (h : u.block a.core a.blk = some x) (k : Nat) (v : DWord) :
    a.WroteHandle u (a.issued (a.advance (a.supersede old (a.modGroup u fun g => g.setH k v) us))) k v := by
  obtain ⟨y, hy, -⟩ := State.block_modGroup u a.core a.blk a.grp (fun g => g.setH k v) h
  obtain ⟨ht, hu, hp, hh, hl, hothers⟩ := At.finished_regsKept a old us hy
  have hgrp := At.groupIn_modGroup a u (fun g => g.setH k v) h
  unfold At.modGroup at hgrp ⊢
  have hreg (j : Nat) (w : DWord) (hw : ((a.groupIn u).setH k v).hreg j = w) :
      (a.groupIn (a.issued (a.advance (a.supersede old (u.modGroup a.core a.blk a.grp fun g => g.setH k v) us)))).hreg j = w := by
    rw [Group.hreg, hh, hgrp]
    exact hw
  rw [hgrp] at ht hu hp hl
  exact ⟨hreg k v (by rw [Group.hreg_setH, if_pos rfl]), fun j hj => hreg j _ (by rw [Group.hreg_setH, if_neg hj]), ht, hu, hp, hl,
    (At.modGroup_kept a u _ h).trans hothers⟩

end

/-- A handle value of a 19-bit address. -/
theorem mkHandle_eq {addr : Nat} (h : addr < 2 ^ 19) (state status kind : Nat) :
    mkHandle state status kind addr = BitVec.ofNat 64 (state * 2 ^ 62 + status * 2 ^ 40 + kind * 2 ^ 32 + addr) := by
  rw [mkHandle, Nat.mod_eq_of_lt h]

theorem hAddr_lt (v : DWord) : hAddr v < 2 ^ 19 := bitsOf_lt _ _ _

/-! ## Joining the queues -/

/-- An operation joins the queue of each array it occupies and takes its place in the core order (R155, R215). -/
def State.queueing (s : State) (core : Nat) (o : ArrOp) : State :=
  forEach (fun s i => s.modArray core i fun x => { x with queue := x.queue ++ [o] })
    (s.modCore core fun c => { c with nextSeq := c.nextSeq + 1 }) (opArrays o.desc)

section
variable (s : State) (core : Nat) (o : ArrOp)

theorem State.queueing_onlyCores : OnlyCores s (s.queueing core o) := by
  have hseq : OnlyCores s (s.modCore core fun c => { c with nextSeq := c.nextSeq + 1 }) := rfl
  exact hseq.trans (State.forEach_modArray_onlyCores ..)

theorem State.core_queueing : (s.queueing core o).core core =
    { s.core core with nextSeq := (s.core core).nextSeq + 1, arrays := ((s.queueing core o).core core).arrays } := by
  refine (State.core_forEach_modArray ..).trans ?_
  rw [State.core_modCore, if_pos rfl]
  rfl

theorem State.core_queueing_other {c : Nat} (h : c ≠ core) : (s.queueing core o).core c = s.core c :=
  (State.core_forEach_modArray_other _ _ _ _ h).trans ((State.core_modCore ..).trans (if_neg h))

variable {s core} in
theorem State.array_queueing (hlen : (s.core core).arrays.length = 3) (i : Nat) :
    ((s.queueing core o).core core).array i =
      if i ∈ opArrays o.desc then { (s.core core).array i with queue := ((s.core core).array i).queue ++ [o] }
      else (s.core core).array i := by
  have hcore : (s.modCore core fun c => { c with nextSeq := c.nextSeq + 1 }).core core =
      { s.core core with nextSeq := (s.core core).nextSeq + 1 } := (State.core_modCore ..).trans (if_pos rfl)
  refine (State.array_forEach_modArray _ core _ _ (opArrays_nodup _) (fun j hj => ?_) i).trans ?_
  · rw [hcore]
    exact hlen ▸ opArrays_lt hj
  · rw [hcore]
    rfl

theorem State.block_queueing (b : Nat) : (s.queueing core o).block core b = s.block core b := by
  unfold State.block
  rw [State.core_queueing]

end

/-- `t` differs from `s` in no core, but for the issuing core's copy of its map entry (R58). -/
structure At.MapRead (a : At) (s t : State) : Prop where
  core : t.core a.core = { s.core a.core with mapCopy := (t.core a.core).mapCopy }
  others : ∀ c, c ≠ a.core → t.core c = s.core c

/-- `o` stands in the queues of its arrays under a PENDING handle and has the next place in the core order. -/
def At.Queued (a : At) (s t : State) (h addr : Nat) (o : ArrOp) : Prop :=
  (∀ i, (t.core a.core).array i =
      if i ∈ opArrays o.desc then { (s.core a.core).array i with queue := ((s.core a.core).array i).queue ++ [o] }
      else (s.core a.core).array i)
    ∧ (t.core a.core).nextSeq = (s.core a.core).nextSeq + 1 ∧ (t.core a.core).copies = (s.core a.core).copies
    ∧ (∀ c, c ≠ a.core → t.core c = s.core c)
    ∧ HandleOnly a s t h (BitVec.ofNat 64 (0x8000000100000000 + addr))

/-- An operation that joins its queues stands there once its instruction has issued. -/
theorem At.queued_finished {a : At} {s u : State} (hmap : a.MapRead s u) {x : Block} (hblk : s.block a.core a.blk = some x)
    (hlen : (s.core a.core).arrays.length = 3) {addr : Nat} (haddr : addr < 2 ^ 19) (old : State) (us : List Use) (h : Nat)
    (o : ArrOp) :
    a.Queued s (a.issued (a.advance (a.supersede old
      (a.modGroup (u.queueing a.core o) fun g => g.setH h (mkHandle 2 0 1 addr)) us))) h addr o := by
  obtain ⟨hcore, hothers⟩ := hmap
  have hqueued := u.core_queueing a.core o
  have hblocks : (u.queueing a.core o).block a.core a.blk = s.block a.core a.blk := by
    rw [State.block_queueing, State.block, hcore]
    rfl
  have hgroup : a.groupIn (u.queueing a.core o) = a.groupIn s := by
    unfold At.groupIn State.group
    rw [hblocks]
  have hfar {c : Nat} (hc : c ≠ a.core) :=
    (At.core_finished_other a old (a.modGroup (u.queueing a.core o) fun g => g.setH h (mkHandle 2 0 1 addr)) us hc).trans
      ((State.core_modGroup_other _ hc _ _ _).trans ((u.core_queueing_other a.core o hc).trans (hothers c hc)))
  have hwrote := At.setH_finished a old us (hblocks.trans hblk) h (mkHandle 2 0 1 addr)
  generalize a.issued (a.advance (a.supersede old (a.modGroup (u.queueing a.core o) fun g => g.setH h (mkHandle 2 0 1 addr)) us)) = t
    at hfar hwrote ⊢
  obtain ⟨hH, -, hT, hU, hP, -, hkept⟩ := hwrote
  have harrays : (u.core a.core).arrays = (s.core a.core).arrays := by rw [hcore]
  have hseq : (u.core a.core).nextSeq = (s.core a.core).nextSeq := by rw [hcore]
  have hcopies : (u.core a.core).copies = (s.core a.core).copies := by rw [hcore]
  have harray (i : Nat) : (u.core a.core).array i = (s.core a.core).array i := by rw [Core.array, harrays, Core.array]
  have hadded := State.array_queueing (s := u) (core := a.core) o (harrays ▸ hlen)
  generalize u.queueing a.core o = v at *
  refine ⟨fun i => ?_, ?_, ?_, fun c hc => hfar hc, hH.trans (mkHandle_eq haddr ..), hT.trans (by rw [hgroup]), hU.trans (by rw [hgroup]),
    hP.trans (by rw [hgroup])⟩
  · have hsame : (t.core a.core).array i = (v.core a.core).array i := by rw [hkept.cores a.core]; rfl
    rw [hsame, hadded, harray]
  · rw [hkept.cores a.core, hqueued, hseq]
  · rw [hkept.cores a.core, hqueued, hcopies]

/-! ## The descriptor's checks (R155 steps 6 and 7) -/

/-- A report of a descriptor leaves every core as it was. -/
theorem State.badDescriptor_cores (s : State) (core ctx addr n : Nat) (ws : List Word) :
    (s.badDescriptor core ctx addr n ws).cores = s.cores := by
  unfold State.badDescriptor
  split
  · exact (State.report_frame ..).cores
  · rfl

/-- The place in the core order is all that a queued operation takes from the state. -/
theorem At.newOp_congr {a : At} {s t : State} (h : (t.core a.core).nextSeq = (s.core a.core).nextSeq) (k : Nat) (d : List Word)
    (w : Nat) (la lb lo shadow : List Word) : a.newOp t k d w la lb lo shadow = a.newOp s k d w la lb lo shadow := by
  unfold At.newOp
  rw [h]

/-- An operation refused with a status: it has no ranges, and waits to report (R155 step 7). -/
def At.refusedOp (a : At) (s : State) (h : Nat) (d : List Word) (status : Nat) : ArrOp :=
  { a.newOp s h d 16 [] [] [] [] with reads := [], writes := [], refused := some status }

theorem At.refuseOp_eq (a : At) (s : State) (h addr : Nat) (d : List Word) (status : Nat) :
    a.refuseOp s h addr d status =
      .done (a.modGroup (s.queueing a.core (a.refusedOp s h d status)) fun g => g.setH h (mkHandle 2 0 1 addr)) := rfl

/-- No layout descriptor lies outside the allocation. -/
theorem find?_layoutsOf_outside {d : List Word} {ls : Nat} (h : ∀ x ∈ layoutsOf d, x + 64 ≤ ls) :
    (layoutsOf d).find? (fun x => decide (ls < x + 64)) = none :=
  List.find?_eq_none.mpr fun x hx => by simpa using h x hx

section
variable {a : At} {s : State} {f : FormR} {h addr : Nat} {ws d : List Word} (hd : ws.take 16 = d)
  (hlds : ∀ x ∈ layoutsOf d, x + 64 ≤ a.b.ls)
include hd hlds

/-- A descriptor that does not match its complement is refused with INTEGRITY (R187). -/
theorem At.queueOp_integrity (hbad : complementsOk 16 ws = false) :
    a.queueOp s f h addr ws = a.refuseOp (s.badDescriptor a.core a.b.ctx (a.b.base + addr) 16 ws) h addr d 0x10 := by
  have hfind := find?_layoutsOf_outside hlds
  unfold layoutsOf at hfind
  unfold At.queueOp
  simp only [hd, hfind, hbad, if_true]

/-- A descriptor that passes every check is queued, unsampled when no shadow descriptor is named. -/
theorem At.queueOp_accepted (hok : complementsOk 16 ws = true)
    (hlok : ∀ x ∈ layoutsOf d, complementsOk 8 (s.words (a.b.base + x) 16) = true) {map : Word × Word}
    (hmap : s.arrayMap a.core = map) (hcheck : map.2 = ~~~ map.1) (hkind : fld (wordAt d 0) 24 8 = 0xA1)
    (harray : badArray map.1 a.b.wb d = false) {la lb lo : List Word} (hla : s.words (a.b.base + dALd d) 8 = la)
    (hlb : s.words (a.b.base + dBLd d) 8 = lb) (hlo : s.words (a.b.base + dOLd d) 8 = lo)
    (hshape : badShape map.1 d (.ofWords la) (.ofWords lb) (.ofWords lo) = false) (hpbm : dPbm d = false)
    (hfmt : badFmt d (.ofWords la) (.ofWords lb) (.ofWords lo) = false)
    (hranges : ∀ r ∈ opReads d (.ofWords la) (.ofWords lb) ++ opWrites d (opWidth map.1 d) (.ofWords lo), inAlloc a.b.ls r = true)
    (hspool : dSpoolEn d = true → s.inSpool a.b.ctx (dSpoolId d) = true) (hplain : (fileOf f.b).1 = .zero) :
    a.queueOp s f h addr ws = .done (a.modGroup ((s.modCore a.core fun c => { c with mapCopy := some map }).queueing a.core
      (a.newOp s h d (opWidth map.1 d) la lb lo [])) fun g => g.setH h (mkHandle 2 0 1 addr)) := by
  have hfind := find?_layoutsOf_outside hlds
  have hlayouts : (layoutsOf d).find? (fun x => !complementsOk 8 (s.words (a.b.base + x) 16)) = none :=
    List.find?_eq_none.mpr fun x hx => by rw [hlok x hx]; decide
  unfold layoutsOf at hfind hlayouts
  have hinside : (opReads d (.ofWords la) (.ofWords lb) ++ opWrites d (opWidth map.1 d) (.ofWords lo)).find?
      (fun r => !inAlloc a.b.ls r) = none :=
    List.find?_eq_none.mpr fun r hr => by rw [hranges r hr]; decide
  obtain ⟨u, hu⟩ : ∃ u, u = s.modCore a.core fun c => { c with mapCopy := some map } := ⟨_, rfl⟩
  have hwords (x n : Nat) : u.words x n = s.words x n := by rw [hu, State.words_modCore]
  have hin : u.inSpool a.b.ctx (dSpoolId d) = s.inSpool a.b.ctx (dSpoolId d) := by rw [hu]; rfl
  have hcount : (dSpoolEn d && !s.inSpool a.b.ctx (dSpoolId d)) = false := by
    simpa using hspool
  have hshadow : a.shadow u f d = (u, []) := by rw [At.shadow, if_pos (by rw [hplain]; decide)]
  have hnew : a.newOp u h d (opWidth map.1 d) la lb lo [] = a.newOp s h d (opWidth map.1 d) la lb lo [] :=
    At.newOp_congr (by rw [hu, State.core_modCore, if_pos rfl]) ..
  unfold At.queueOp
  simp only [hd, hfind, hok, hmap, hcheck, Bool.true_eq_false, if_false, ne_eq, not_true_eq_false, ← hu, hlayouts, hwords,
    hla, hlb, hlo, hkind, harray, hshape, hpbm, hfmt, Bool.false_eq_true, Bool.false_and, hinside, hin, hcount, hshadow, hnew]
  rfl

end

/-! ## ARR.ISSUE -/

/-- What the issue of an instruction leaves, by what its own effect answers (R117, R118, R126). -/
def At.answered (a : At) (s : State) (us : List Use) : Did → State
  | .wait => a.served s
  | .retry t => a.issued t
  | .fault t c x => a.issued (a.fault t c x)
  | .done t => a.issued (a.advance (a.supersede s t us))
  | .flow t => a.issued (a.supersede s t us)

/-- What ARR.ISSUE does once no acquire of its threads is outstanding (R155). -/
def At.arrIssue (a : At) (f : FormR) (s : State) : Did :=
  let v := a.g.handle f.a
  let addr := hAddr v
  if pending v then .wait
  else if hState v = 0 ∨ addr % 128 ≠ 0 then .done (a.refuseHandle s (hNo f.a) 0x11 1 addr)
  else if a.b.ls < addr + 128 then .fault s fBounds addr
  else if (s.core a.core).conflict (a.b.base + addr) 128 false then .wait
  else
    let r := s.readMem (a.b.base + addr) 128
    match r.2 with
    | none => .fault r.1 fPoison addr
    | some bs =>
      let ws := wordsLE 32 bs
      if (opArrays (ws.take 16)).any fun i => decide (4 ≤ ((s.core a.core).array i).waiting.length) then .wait
      else a.queueOp r.1 f (hNo f.a) addr ws

theorem exec_arrIssue {s s1 : State} {sg : SgRef} {f : FormR} {a : At} (hplain : plainR f = true)
    (h : s.issuing sg f.g false (useArr f) = some (a, s1)) (hacq : s1.acquiring a = false) :
    exec (.arrIssue sg f) s = .next (a.answered s (useArr f) (a.arrIssue f s1)) := by
  show execArrIssue sg f s = _
  unfold execArrIssue
  rw [hplain]
  refine congrArg Host.Outcome.next ((State.issue_of_issuing h false _).trans ?_)
  rw [show a.arrIssue f s1 = a.access s1 fun s => a.arrIssue f s by rw [At.access, hacq, if_neg Bool.false_ne_true]]
  rfl

section
variable {a : At} {f : FormR} {s : State}

theorem At.arrIssue_pending (h : hState (a.g.handle f.a) = 2) : a.arrIssue f s = .wait := by
  rw [At.arrIssue, if_pos (by rw [pending, h]; rfl)]

theorem At.arrIssue_noAddress (h2 : hState (a.g.handle f.a) ≠ 2)
    (h : hState (a.g.handle f.a) = 0 ∨ hAddr (a.g.handle f.a) % 128 ≠ 0) :
    a.arrIssue f s = .done (a.refuseHandle s (hNo f.a) 0x11 1 (hAddr (a.g.handle f.a))) := by
  rw [At.arrIssue, if_neg (by simpa [pending] using h2), if_pos h]

variable (hv : hState (a.g.handle f.a) = 1 ∨ hState (a.g.handle f.a) = 3) (hal : hAddr (a.g.handle f.a) % 128 = 0)
include hv hal

theorem At.arrIssue_outside (h : a.b.ls < hAddr (a.g.handle f.a) + 128) :
    a.arrIssue f s = .fault s 1 (hAddr (a.g.handle f.a)) := by
  rw [At.arrIssue, if_neg (by rw [pending, beq_iff_eq]; omega), if_neg (by omega), if_pos h]
  rfl

/-- With the descriptor read, its queues and its checks decide. -/
theorem At.arrIssue_read (h : hAddr (a.g.handle f.a) + 128 ≤ a.b.ls)
    (hfree : (s.core a.core).conflict (a.b.base + hAddr (a.g.handle f.a)) 128 false = false) (hsound : soundMem s)
    (hpoison : s.anyPoison (a.b.base + hAddr (a.g.handle f.a)) 128 = false) {ws d : List Word}
    (hws : s.words (a.b.base + hAddr (a.g.handle f.a)) 32 = ws) (hd : ws.take 16 = d) :
    a.arrIssue f s = if ∃ i ∈ opArrays d, 4 ≤ ((s.core a.core).array i).waiting.length then .wait
      else a.queueOp s f (hNo f.a) (hAddr (a.g.handle f.a)) ws := by
  have hbytes : wordsLE 32 (s.bytes (a.b.base + hAddr (a.g.handle f.a)) 128) = ws := hws
  rw [At.arrIssue, if_neg (by rw [pending, beq_iff_eq]; omega), if_neg (by omega), if_neg (by omega), hfree,
    if_neg Bool.false_ne_true, State.readMem_of_sound hsound hpoison]
  simp only [hbytes, hd, List.any_eq_true, decide_eq_true_eq]

end

/-! ## The clauses -/

section
variable {s s1 : State} {sg : SgRef} {f : FormR} {a : At} (hplain : plainR f = true)
  (h : s.issuing sg f.g false (useArr f) = some (a, s1)) (hacq : s1.acquiring a = false)
include hplain h hacq

/-- A handle without an address is DONE with BADDESC. -/
theorem next_arrIssue_noAddress (h2 : hState (a.g.handle f.a) ≠ 2)
    (h0 : hState (a.g.handle f.a) = 0 ∨ hAddr (a.g.handle f.a) % 128 ≠ 0) :
    Next (.arrIssue sg f) s fun t =>
      a.WroteHandle s1 t (hNo f.a) (BitVec.ofNat 64 (0xC000110100000000 + hAddr (a.g.handle f.a))) ∧ a.OnlyIssued (useArr f) s1 t := by
  obtain ⟨⟨x, hblk, -⟩, -⟩ := State.issuing_block h
  have hex := exec_arrIssue hplain h hacq
  rw [At.arrIssue_noAddress h2 h0] at hex
  have hwrote := At.setH_finished a s (useArr f) hblk (hNo f.a) (mkHandle 3 0x11 1 (hAddr (a.g.handle f.a)))
  have honly := At.finished_onlyIssued a (useArr f) (State.issuing_reqs h).symm
    (State.modGroup_onlyCores s1 a.core a.blk a.grp fun g => g.setH (hNo f.a) (mkHandle 3 0x11 1 (hAddr (a.g.handle f.a))))
  have hvalue := mkHandle_eq (hAddr_lt (a.g.handle f.a)) 3 0x11 1
  refine ⟨_, hex, ?_, honly⟩
  rwa [← show _ = BitVec.ofNat 64 (0xC000110100000000 + hAddr (a.g.handle f.a)) from hvalue]

variable (hlen : (s1.core a.core).arrays.length = 3)
include hlen

/-- A refused operation joins its queues, whatever was reported of it. -/
theorem next_arrIssue_refused {u : State} {d : List Word} {status : Nat} (hcores : u.cores = s1.cores)
    (hdid : a.arrIssue f s1 = a.refuseOp u (hNo f.a) (hAddr (a.g.handle f.a)) d status) :
    Next (.arrIssue sg f) s fun t =>
      a.Queued s1 t (hNo f.a) (hAddr (a.g.handle f.a)) (a.refusedOp s1 (hNo f.a) d status) := by
  obtain ⟨⟨x, hblk, -⟩, -⟩ := State.issuing_block h
  have hcore (c : Nat) : u.core c = s1.core c := State.core_congr hcores c
  have hsame : a.refusedOp u (hNo f.a) d status = a.refusedOp s1 (hNo f.a) d status := by
    rw [At.refusedOp, At.newOp_congr (congrArg Core.nextSeq (hcore a.core)), At.refusedOp]
  have hex := exec_arrIssue hplain h hacq
  rw [hdid, At.refuseOp_eq, hsame] at hex
  have hmap : a.MapRead s1 u := ⟨by rw [hcore], fun c _ => hcore c⟩
  exact ⟨_, hex, At.queued_finished hmap hblk hlen (hAddr_lt _) s (useArr f) (hNo f.a) _⟩

/-- An accepted operation joins its queues, and no register but its handle changes. -/
theorem next_arrIssue_accepted {map : Word × Word} {o : ArrOp}
    (hdid : a.arrIssue f s1 = .done (a.modGroup ((s1.modCore a.core fun c => { c with mapCopy := some map }).queueing a.core o)
      fun g => g.setH (hNo f.a) (mkHandle 2 0 1 (hAddr (a.g.handle f.a))))) :
    Next (.arrIssue sg f) s fun t =>
      a.Queued s1 t (hNo f.a) (hAddr (a.g.handle f.a)) o ∧ a.OnlyIssued (useArr f) s1 t := by
  obtain ⟨⟨x, hblk, -⟩, -⟩ := State.issuing_block h
  have hex := exec_arrIssue hplain h hacq
  rw [hdid] at hex
  have hmap : a.MapRead s1 (s1.modCore a.core fun c => { c with mapCopy := some map }) :=
    ⟨by rw [State.core_modCore, if_pos rfl], fun c hc => (State.core_modCore ..).trans (if_neg hc)⟩
  have hread : OnlyCores s1 (s1.modCore a.core fun c => { c with mapCopy := some map }) := rfl
  exact ⟨_, hex, At.queued_finished hmap hblk hlen (hAddr_lt _) s (useArr f) (hNo f.a) _,
    At.finished_onlyIssued a (useArr f) (State.issuing_reqs h).symm
      ((hread.trans (State.queueing_onlyCores ..)).trans (State.modGroup_onlyCores ..))⟩

end

end Sys2Proof.Machine

open Sys2Proof Sys2Proof.Machine Sys2Proof.Claims

/-- Settles O26: each answer of ARR.ISSUE in turn, then the two ways into the queues. -/
theorem arrayIssue : Obligations.ArrayIssue := by
  unfold Obligations.ArrayIssue
  intro s sg f a s1 hplain h hacq
  extract_lets hn v addr at' ws d map la lb lo
  have hex := exec_arrIssue hplain h hacq
  refine ⟨fun h2 => ?_, fun h2 h0 => next_arrIssue_noAddress hplain h hacq h2 h0, fun hv hal hout => ?_,
    fun hv hal hin hfree ⟨hsound, _⟩ hpoison hlen => ?_⟩
  · rw [hex, At.arrIssue_pending h2]
    rfl
  · rw [hex, At.arrIssue_outside hv hal hout]
    rfl
  · have hdid := At.arrIssue_read hv hal hin hfree hsound hpoison (ws := ws) (d := d) rfl rfl
    refine ⟨fun hfull => ?_, fun hroom hlds => ?_⟩
    · rw [hex, hdid, if_pos hfull]
      rfl
    · rw [if_neg fun ⟨i, hi, hle⟩ => absurd (hroom i hi) (by omega)] at hdid
      refine ⟨fun hbad => ?_, fun hok hlok hcheck hkind harray hshape hpbm hfmt hranges hspool hb => ?_⟩
      · exact next_arrIssue_refused hplain h hacq hlen (State.badDescriptor_cores ..)
          (hdid.trans (At.queueOp_integrity rfl hlds hbad))
      · have haccepted := next_arrIssue_accepted hplain h hacq hlen (map := map)
          (hdid.trans (At.queueOp_accepted (la := la) (lb := lb) (lo := lo) rfl hlds hok hlok rfl hcheck hkind harray rfl rfl rfl hshape
            hpbm hfmt hranges hspool hb))
        exact haccepted

end

section
/-! # Two operations with one place in the core order (O27)

The statement does not ask that the places of an array's running operations differ, as ARR.ISSUE makes them (R215).
SPARSE_BADLIST (R65) notes in each running operation with the place of the one that feeds that operation's own next entry;
the statement wants the entry of the one that feeds noted in all of them. Where the place is that operation's alone, the two agree. -/
namespace Sys2Proof.Machine
open Sys2Proof.Claims

/-- Without a second operation in its place, the one that feeds notes the invalid entry, and no other changes. -/
theorem next_sparseBadlist_of_runs {s : State} {core : Nat} {o : ArrOp} (hruns : s.Runs core 2 o)
    (hcur : ((s.core core).array 2).current = some o) (hsp : dSparse o.desc = true) (hkill : o.killed = false)
    (hfree : (s.core core).opBlocked o = false) (hbad : entryBad o (listEntry s.byte o o.entry) = true) :
    Next (.sparseBadlist core) s fun t =>
      ((t.core core).array 2).running =
          (((s.core core).array 2).running.map fun p => if p.seq = o.seq then { p with bad := some o.entry } else p)
        ∧ OnlyCores s t := by
  obtain ⟨hlt, heq⟩ := hruns
  have hex : exec (.sparseBadlist core) s = .next (s.modOp core 2 o.seq fun p => { p with bad := some p.entry }) := by
    show execSparseBadlist core s = _
    unfold execSparseBadlist
    simp only [hcur, hsp, hkill, hfree, hbad, Bool.not_false, Bool.and_self, if_true]
  refine ⟨_, hex, ?_, rfl⟩
  have hcore := s.core_modOp core 2 o.seq (fun p => { p with bad := some p.entry }) core
  rw [hcore, if_pos rfl, Core.array, List.getD_eq_getElem?_getD, List.getElem?_set_self hlt]
  refine List.map_congr_left fun p hp => ?_
  split
  · next hs => rw [heq p hp hs]
  · rfl

/-- A sparse operation of one row whose list has one entry, at 0x20000000E00, with the entries before `n` fed. -/
def listOp (n : Nat) : ArrOp :=
  { seq := 0, desc := [0xA1860000, 0x10001, 16, 0x3800000, 0, 0x100200, 0x180400, 0, 0xFFFF, 0, 0, 0xA00, 0xE00, 1, 0, 0], la := [], lb := []
    lo := [], shadow := [], owner := (0, 0, 0), ctx := 0, base := 0x20000000000, ls := 0x1000, width := 16, reads := [], writes := []
    tile := 0, entry := n, rowBits := [], fed := [], refeed := [], refed := [], stages := [], done := []
    cvt := { sat := 0, infs := 0, nans := 0 }, replays := 0, clamped := 0, clampS := 0, freeze := 0, segments := 0
    bad := none, nanSeen := false, killed := false, refused := none }

/-- Array 2 of core 0 runs two such operations with one place: the first has fed its entry, the second comes to it, and its row 1 is
outside M. -/
def sharedPlace : State :=
  { State.reset with
    cores := [(0, { Core.idle with arrays := [.idle, .idle, { shape := 0, queue := [], running := [listOp 1, listOp 0] }] })]
    mem := [(0x20000000E00, 1)] }

theorem sharedPlace_quiet : quietMem sharedPlace := by
  refine ⟨⟨rfl, rfl, rfl⟩, fun c => ?_⟩
  show (if c = 0 then _ else Core.idle : Core).captures = _
  split <;> rfl

/-- The operation that feeds is at an invalid entry, and nothing holds it. -/
theorem sharedPlace_feeds : ((sharedPlace.core 0).array 2).current = some (listOp 0) ∧ dArray (listOp 0).desc = 2
    ∧ dSparse (listOp 0).desc = true ∧ (sharedPlace.core 0).opBlocked (listOp 0) = false
    ∧ entryBad (listOp 0) (listEntry sharedPlace.byte (listOp 0) 0) = true := by
  decide +kernel

/-- Each of the two notes its own entry. -/
theorem sharedPlace_notes {t : State} (h : exec (.sparseBadlist 0) sharedPlace = .next t) :
    ((t.core 0).array 2).running.map ArrOp.bad = [some 1, some 0] := by
  have hrun : (match exec (.sparseBadlist 0) sharedPlace with | .next t => ((t.core 0).array 2).running.map ArrOp.bad | _ => []) =
      [some 1, some 0] := by
    decide +kernel
  rwa [h] at hrun

end Sys2Proof.Machine

open Sys2Proof Sys2Proof.Machine

/-- Refutes O27: of two running operations with one place in the core order, SPARSE_BADLIST notes in each its own entry, not in both
that of the one that feeds. -/
theorem not_arrayEvents : ¬ Obligations.ArrayEvents := by
  unfold Obligations.ArrayEvents
  intro h
  obtain ⟨hcur, harr, hsp, hfree, hbad⟩ := sharedPlace_feeds
  obtain ⟨-, -, -, -, -, -, hlist, -⟩ := h sharedPlace 0 2 0 ⟨0, 0, 0, 0, 0⟩ (listOp 0) [] (by decide) (by decide) rfl harr
    sharedPlace_quiet
  obtain ⟨t, ht, hrun, -⟩ := (hlist rfl hcur hsp rfl hfree).1 hbad
  have hnotes := sharedPlace_notes ht
  rw [hrun] at hnotes
  exact absurd hnotes (by decide)

end

section
/-! # Rows of format R that compute a value, and the FP32 rows (O5)

Every FP32 and special-function row is `aluR` with its function (R138, R139), so one rule says what all of them write: the value of
each participating lane, and nothing else. -/
namespace Sys2Proof.Machine
open Sys2Proof.Claims

/-- A row that is `aluR` with operation `op` computes any value that is `op` of the issuing group's registers. -/
theorem computes_of_aluR {c : Instr} {s : State} {sg : SgRef} {f : FormR} {ok : Bool} {us : List Use} {n : Nat}
    {op : Group → Nat → Nat} {v : At → State → Nat → Nat} (hex : exec c s = .next (s.aluR sg f ok us n op)) (hok : ok = true)
    (hv : ∀ a s1 i, v a s1 i = op a.g i) : Computes c s sg f.g false us f.d n v := by
  subst hok
  intro a s1 h
  have hop : v a s1 = op a.g := funext (hv a s1)
  rw [hop]
  exact ⟨_, hex, State.issue_wrote h true (fun a s => .done (a.put s f.d n (a.each fun i => op a.g i))) f.d n (op a.g) rfl⟩

/-! ## Operands of one register -/

/-- An operand of one register, taken as a word, is that register. -/
theorem ofNat_val_one (g : Group) (f : BitVec 9) (i : Nat) : BitVec.ofNat 32 (g.val f i 1) = g.rd f i 0 := by
  rw [Group.val_one, BitVec.ofNat_toNat, BitVec.setWidth_eq]

section
variable (f : FormR) (a : At) (i : Nat)

theorem ofNat_opA_one : BitVec.ofNat 32 (opA f a i 1) = a.g.rd f.a i 0 := ofNat_val_one ..

theorem modA_eq : modA f a i = fdec (a.g.fa f i) := by rw [modA, ofNat_opA_one, Group.fa]

theorem modB_eq : modB f a i = fdec (a.g.fb f i) := by rw [modB, opB, ofNat_val_one, Group.fb]

theorem wordC_eq : wordC f a i = a.g.rd f.c i 0 := ofNat_val_one ..

end

/-! ## The rows, by the modifiers that they allow -/

section
variable (s : State) (sg : SgRef) (f : FormR)

/-- Two or three sources under modifiers: the arithmetic rows round the exact value once (R75), the error rows follow R77. -/
theorem computes_fp32 (hmod : lowModClear f = true) (hctl : f.ctl = 0) :
    Computes (.addF sg f) s sg f.g false (use2 f 1) f.d 1 (fun a _ i => (fround (FVal.add (modA f a i) (modB f a i))).toNat)
      ∧ Computes (.mulF sg f) s sg f.g false (use2 f 1) f.d 1 (fun a _ i => (fround (FVal.mul (modA f a i) (modB f a i))).toNat)
      ∧ Computes (.fmaF sg f) s sg f.g false (use3 f) f.d 1
        (fun a _ i => (fround (FVal.add (FVal.mul (modA f a i) (modB f a i)) (fdec (wordC f a i)))).toNat)
      ∧ Computes (.minF sg f) s sg f.g false (use2 f 1) f.d 1 (fun a _ i => (fminW (a.g.fa f i) (a.g.fb f i)).toNat)
      ∧ Computes (.maxF sg f) s sg f.g false (use2 f 1) f.d 1 (fun a _ i => (fmaxW (a.g.fa f i) (a.g.fb f i)).toNat)
      ∧ Computes (.adderrF sg f) s sg f.g false (use3 f) f.d 1
        (fun a _ i => (faddErr (a.g.fa f i) (a.g.fb f i) (wordC f a i)).toNat)
      ∧ Computes (.mulerrF sg f) s sg f.g false (use3 f) f.d 1
        (fun a _ i => (fmulErr (a.g.fa f i) (a.g.fb f i) (wordC f a i)).toNat) := by
  have hok : (lowModClear f && f.ctl == 0) = true := by simp [hmod, hctl]
  exact ⟨computes_of_aluR rfl hok fun a _ i => by rw [modA_eq, modB_eq, fadd],
    computes_of_aluR rfl hok fun a _ i => by rw [modA_eq, modB_eq, fmul],
    computes_of_aluR rfl hok fun a _ i => by rw [modA_eq, modB_eq, wordC_eq, ffma],
    computes_of_aluR rfl hok fun _ _ _ => rfl, computes_of_aluR rfl hok fun _ _ _ => rfl,
    computes_of_aluR rfl hok fun a _ i => by rw [wordC_eq], computes_of_aluR rfl hok fun a _ i => by rw [wordC_eq]⟩

/-- TOINT.F (R138). -/
theorem computes_tointF (hmod : noB f = true) (hctl : f.ctl = 0) :
    Computes (.tointF sg f) s sg f.g false (use1 f 1) f.d 1
      fun a _ i => (ftoint (bitAt f.mod 1) (bitAt f.mod 0) (a.g.fa f i)).toNat :=
  computes_of_aluR rfl (by simp [hmod, hctl]) fun _ _ _ => rfl

/-- TOFLT, whose modifiers act on the result (R138). -/
theorem computes_toflt (hmod : noB f = true) (hlow : bitAt f.mod 0 = false) (hctl : f.ctl = 0) :
    Computes (.toflt sg f) s sg f.g false (use1 f 1) f.d 1 fun a _ i =>
      (modified (bitAt f.mod 5) (bitAt f.mod 3) (ftoflt (bitAt f.mod 1) (BitVec.ofNat 32 (opA f a i 1)))).toNat :=
  computes_of_aluR rfl (by simp [hmod, hlow, hctl]) fun a _ i => by rw [ofNat_opA_one]

/-- The special functions, which have no modifiers (R139). -/
theorem computes_special (hmod : f.mod = 0) (hctl : f.ctl = 0) :
    Computes (.pow2F sg f) s sg f.g false (use1 f 1) f.d 1 (fun a _ i => (sfuExp2 (BitVec.ofNat 32 (opA f a i 1))).toNat)
      ∧ Computes (.log2F sg f) s sg f.g false (use1 f 1) f.d 1 (fun a _ i => (sfuLog2 (BitVec.ofNat 32 (opA f a i 1))).toNat)
      ∧ Computes (.recipF sg f) s sg f.g false (use1 f 1) f.d 1 (fun a _ i => (sfuRcp (BitVec.ofNat 32 (opA f a i 1))).toNat)
      ∧ Computes (.rsqrtF sg f) s sg f.g false (use1 f 1) f.d 1
        (fun a _ i => (sfuRsqrt (BitVec.ofNat 32 (opA f a i 1))).toNat) := by
  have hok : (f.mod == 0 && f.ctl == 0) = true := by simp [hmod, hctl]
  have hword (fn : Word → Word) (a : At) (i : Nat) :
      (fn (BitVec.ofNat 32 (opA f a i 1))).toNat = (fn (a.g.rd f.a i 0)).toNat := by rw [ofNat_opA_one]
  exact ⟨computes_of_aluR rfl hok fun a _ i => hword sfuExp2 a i, computes_of_aluR rfl hok fun a _ i => hword sfuLog2 a i,
    computes_of_aluR rfl hok fun a _ i => hword sfuRcp a i, computes_of_aluR rfl hok fun a _ i => hword sfuRsqrt a i⟩

end

end Sys2Proof.Machine

open Sys2Proof Sys2Proof.Machine

/-- Settles O5: each row is `aluR` with its function, under the modifiers that it allows. -/
theorem floatResults : Obligations.FloatResults := by
  unfold Obligations.FloatResults
  exact fun s sg f => ⟨computes_fp32 s sg f, computes_tointF s sg f, computes_toflt s sg f, computes_special s sg f⟩

end

section
/-! # FP32 words and the special cases of its arithmetic (O6)

What a word of a given sign and magnitude code decodes to; that rounding never makes a NaN of a number, so a NaN result is the
canonical one (R75); and exp2 of an integer, which is the power of two that it names (R76). -/
namespace Sys2Proof.Machine

/-! ## Decoding -/

theorem FVal.eq_nan_of_isNan {x : FVal} (h : x.isNan = true) : x = .nan := by
  cases x with
  | nan => rfl
  | inf => cases h
  | fin => cases h

/-- The word of a sign and of the 31 bits below it, by its exponent and its fraction (R22). -/
theorem fdec_signed (neg : Bool) {code : Nat} (h : code < 2 ^ 31) :
    fdec (BitVec.ofNat 32 (b2n neg * 2 ^ 31 + code)) =
      if code / 2 ^ 23 = 255 then (if code % 2 ^ 23 = 0 then .inf neg else .nan)
      else if code / 2 ^ 23 = 0 then .fin neg (code % 2 ^ 23) (-149)
      else .fin neg (code % 2 ^ 23 + 2 ^ 23) (((code / 2 ^ 23 : Nat) : Int) - 150) := by
  have hneg : b2n neg < 2 := by cases neg <;> decide
  have hword : (BitVec.ofNat 32 (b2n neg * 2 ^ 31 + code)).toNat = b2n neg * 2 ^ 31 + code := by
    rw [BitVec.toNat_ofNat]
    omega
  have hsign : bitAt (BitVec.ofNat 32 (b2n neg * 2 ^ 31 + code)) 31 = neg := by
    have hbit : fld (BitVec.ofNat 32 (b2n neg * 2 ^ 31 + code)) 31 1 = b2n neg := by
      rw [fld, bitsOf, hword, Nat.shiftRight_eq_div_pow]
      omega
    rw [bitAt, hbit]
    cases neg <;> rfl
  have hexp : fld (BitVec.ofNat 32 (b2n neg * 2 ^ 31 + code)) 23 8 = code / 2 ^ 23 := by
    rw [fld, bitsOf, hword, Nat.shiftRight_eq_div_pow]
    omega
  have hfrac : fld (BitVec.ofNat 32 (b2n neg * 2 ^ 31 + code)) 0 23 = code % 2 ^ 23 := by
    rw [fld, bitsOf, hword, Nat.shiftRight_eq_div_pow]
    omega
  unfold fdec
  simp only [hsign, hexp, hfrac]

/-! ## Rounding -/

/-- What rounding gives is a sign and a magnitude of at most infinity's. -/
theorem round32_code (neg : Bool) (m : Nat) (e : Int) (sticky : Bool) :
    ∃ code ≤ 0x7F800000, round32 neg m e sticky = BitVec.ofNat 32 (b2n neg * 2 ^ 31 + code) := by
  unfold round32
  split
  · exact ⟨0, by omega, by simp⟩
  · refine ⟨_, ?_, rfl⟩
    split
    · exact le_rfl
    · next h => exact Nat.le_of_not_le h

theorem round32_notNan (neg : Bool) (m : Nat) (e : Int) (sticky : Bool) : (fdec (round32 neg m e sticky)).isNan = false := by
  obtain ⟨code, hle, hcode⟩ := round32_code neg m e sticky
  rw [hcode, fdec_signed neg (by omega)]
  split
  · next hexp => rw [if_pos (by omega)]; rfl
  · split <;> rfl

/-- Only a NaN rounds to a NaN, and that is the canonical one (R75). -/
theorem fround_of_isNan {x : FVal} (h : (fdec (fround x)).isNan = true) : fround x = nan32 := by
  cases x with
  | nan => rfl
  | inf s => cases s <;> exact absurd h (by decide)
  | fin s m e => exact absurd h (by rw [fround, round32_notNan]; decide)

/-- A NaN operand makes each special function answer the canonical NaN (R76). -/
theorem special_of_nan {x : Word} (h : fdec x = .nan) :
    sfuExp2 x = nan32 ∧ sfuLog2 x = nan32 ∧ sfuRcp x = nan32 ∧ sfuRsqrt x = nan32 := by
  simp only [sfuExp2, sfuLog2, sfuRcp, sfuRsqrt, h, and_self]

/-- A number of at most 24 bits, shifted up to 24 bits. -/
theorem shiftedUp_bounds {m : Nat} (hm : m ≠ 0) (hlt : m < 2 ^ 24) :
    2 ^ 23 ≤ m * 2 ^ (23 - Nat.log2 m) ∧ m * 2 ^ (23 - Nat.log2 m) < 2 ^ 24 := by
  have hlog : Nat.log2 m < 24 := (Nat.log2_lt hm).mpr hlt
  constructor
  · calc 2 ^ 23 = 2 ^ Nat.log2 m * 2 ^ (23 - Nat.log2 m) := by rw [← pow_add]; congr 1; omega
      _ ≤ m * 2 ^ (23 - Nat.log2 m) := Nat.mul_le_mul_right _ (Nat.log2_self_le hm)
  · calc m * 2 ^ (23 - Nat.log2 m) < 2 ^ (Nat.log2 m + 1) * 2 ^ (23 - Nat.log2 m) :=
          Nat.mul_lt_mul_of_pos_right Nat.lt_log2_self (Nat.two_pow_pos _)
      _ = 2 ^ 24 := by rw [← pow_add]; congr 1; omega

/-- A number of at most 24 bits in the range of normal numbers rounds to itself: its significand, shifted up to 24 bits. -/
theorem round32_exact (neg : Bool) {m : Nat} (hm : m ≠ 0) (hlt : m < 2 ^ 24) {e : Int} (hlo : -126 ≤ (Nat.log2 m : Int) + e)
    (hhi : (Nat.log2 m : Int) + e ≤ 127) :
    round32 neg m e =
      BitVec.ofNat 32 (b2n neg * 2 ^ 31 + (((Nat.log2 m : Int) + e + 126).toNat * 2 ^ 23 + m * 2 ^ (23 - Nat.log2 m))) := by
  have hlog : Nat.log2 m < 24 := (Nat.log2_lt hm).mpr hlt
  obtain ⟨-, htop⟩ := shiftedUp_bounds hm hlt
  have hq : max ((Nat.log2 m : Int) + e - 23) (-149) = (Nat.log2 m : Int) + e - 23 := by omega
  have hshift : (Nat.log2 m : Int) + e - 23 - e ≤ 0 := by omega
  have hup : (-((Nat.log2 m : Int) + e - 23 - e)).toNat = 23 - Nat.log2 m := by omega
  have hcode : ((Nat.log2 m : Int) + e - 23 + 149).toNat = ((Nat.log2 m : Int) + e + 126).toNat := by congr 1; omega
  have hsplit : splitAt m ((Nat.log2 m : Int) + e - 23 - e) = (m * 2 ^ (23 - Nat.log2 m), 0) := by
    rw [splitAt, if_pos hshift, hup]
  have hkeep : roundEven (m * 2 ^ (23 - Nat.log2 m)) 0 ((Nat.log2 m : Int) + e - 23 - e) false = m * 2 ^ (23 - Nat.log2 m) := by
    rw [roundEven, if_pos hshift]
  have hbelow : ¬ 0x7F800000 ≤ ((Nat.log2 m : Int) + e + 126).toNat * 2 ^ 23 + m * 2 ^ (23 - Nat.log2 m) := by omega
  simp only [round32, if_neg hm, hq, hsplit, hkeep, hcode, if_neg hbelow]

/-- 2^n, where it is a normal number (R76). -/
theorem pow2Word_eq {n : Int} (hlo : -126 ≤ n) (hhi : n ≤ 127) :
    pow2Word false n = BitVec.ofNat 32 ((n + 127).toNat * 2 ^ 23) := by
  have hone : Nat.log2 1 = 0 := by decide
  rw [pow2Word, round32_exact false one_ne_zero (by norm_num) (by rw [hone]; omega) (by rw [hone]; omega), hone]
  refine congrArg (BitVec.ofNat 32) ?_
  have hsign : b2n false = 0 := rfl
  rw [hsign]
  omega

/-- An integer that is not 0 and has at most 24 bits, as an FP32 word: its significand and how far it was shifted up. -/
theorem fdec_round32_int (neg : Bool) {m : Nat} (hm : m ≠ 0) (hlt : m < 2 ^ 24) :
    fdec (round32 neg m 0) = .fin neg (m * 2 ^ (23 - Nat.log2 m)) (-((23 - Nat.log2 m : Nat) : Int)) := by
  have hlog : Nat.log2 m < 24 := (Nat.log2_lt hm).mpr hlt
  obtain ⟨hlow, htop⟩ := shiftedUp_bounds hm hlt
  rw [round32_exact neg hm hlt (by omega) (by omega)]
  generalize m * 2 ^ (23 - Nat.log2 m) = k at hlow htop
  rw [fdec_signed neg (by omega), if_neg (by omega), if_neg (by omega)]
  congr 1 <;> omega

/-! ## exp2 of an integer -/

/-- The value of a sign and a magnitude. -/
def signedInt (neg : Bool) (m : Nat) : Int := if neg then -(m : Int) else m

theorem signedInt_mul (neg : Bool) (m n : Nat) :
    (if neg then -((m * n : Nat) : Int) else ((m * n : Nat) : Int)) = signedInt neg m * (n : Nat) := by
  cases neg <;> simp [signedInt]

theorem alignTo_shifted (m k : Nat) {e : Int} (h : e ≤ -(k : Int)) : alignTo (m * 2 ^ k) (-(k : Int)) e = m * 2 ^ (-e).toNat := by
  rw [alignTo, mul_assoc, ← pow_add]
  congr 2
  omega

/-- Integers, each shifted up and scaled back, compare as they are. -/
theorem FVal.le_shifted (s t : Bool) (m n k j : Nat) :
    FVal.le (.fin s (m * 2 ^ k) (-(k : Int))) (.fin t (n * 2 ^ j) (-(j : Int))) = decide (signedInt s m ≤ signedInt t n) := by
  have hcmp : FVal.cmp (.fin s (m * 2 ^ k) (-(k : Int))) (.fin t (n * 2 ^ j) (-(j : Int))) =
      some (if signedInt s m < signedInt t n then -1 else if signedInt s m = signedInt t n then 0 else 1) := by
    have hpos : (0 : Int) < (2 ^ (-min (-(k : Int)) (-(j : Int))).toNat : Nat) := by positivity
    simp only [FVal.cmp, alignTo_shifted m k (min_le_left _ _), alignTo_shifted n j (min_le_right _ _), signedInt_mul,
      Int.mul_lt_mul_right hpos, mul_left_inj' hpos.ne']
  rw [FVal.le, hcmp]
  split_ifs with hlt heq
  · simp [hlt.le]
  · simp [heq]
  · simp [not_le.mpr (lt_of_le_of_ne (not_lt.mp hlt) (Ne.symm heq))]

/-- exp2 of a word that stands for an integer is that power of two, above the cut to 0 and below overflow (R76). -/
theorem sfuExp2_of_int {x : Word} {neg : Bool} {m k : Nat} (hx : fdec x = .fin neg (m * 2 ^ k) (-(k : Int)))
    (hlo : -150 < signedInt neg m) (hhi : signedInt neg m < 128) : sfuExp2 x = pow2Word false (signedInt neg m) := by
  have hover : FVal.le (.fin false 128 0) (.fin neg (m * 2 ^ k) (-(k : Int))) = false :=
    (FVal.le_shifted false neg 128 m 0 k).trans (decide_eq_false (not_le.mpr hhi))
  have hunder : FVal.le (.fin neg (m * 2 ^ k) (-(k : Int))) (.fin true 150 0) = false :=
    (FVal.le_shifted neg true m 150 k 0).trans (decide_eq_false (not_le.mpr hlo))
  have hk : (-(-(k : Int))).toNat = k := by omega
  have hpos : ((2 ^ k : Nat) : Int) ≠ 0 := by positivity
  unfold sfuExp2
  simp only [hx, hover, hunder, Bool.false_eq_true, if_false, signedInt_mul, hk, Int.mul_emod_left, if_true, Int.mul_ediv_cancel _ hpos]
  split
  · next h0 =>
    have hzero : k = 0 := by omega
    subst hzero
    simp
  · rfl

/-- An integer of at most 24 bits, as TOFLT makes a word of it (R138), stands for itself. -/
theorem fdec_ftoflt {i : Int} (h : i.natAbs < 2 ^ 24) :
    ∃ neg m k, fdec (ftoflt true (BitVec.ofInt 32 i)) = .fin neg (m * 2 ^ k) (-((k : Nat) : Int)) ∧ signedInt neg m = i := by
  have hint : (BitVec.ofInt 32 i).toInt = i := by
    rw [BitVec.toInt_ofInt]
    exact Int.bmod_eq_of_le (by omega) (by omega)
  have hword : ftoflt true (BitVec.ofInt 32 i) = round32 (decide (i < 0)) i.natAbs 0 := by
    simp only [ftoflt, if_true, hint]
  by_cases h0 : i = 0
  · subst h0
    exact ⟨false, 0, 149, by decide, rfl⟩
  · refine ⟨_, _, _, by rw [hword, fdec_round32_int _ (by omega) h], ?_⟩
    simp only [signedInt, decide_eq_true_eq]
    split <;> omega

/-- exp2 of an integer whose power of two is a normal number (R76). -/
theorem sfuExp2_ftoflt {i : Int} (hlo : -126 ≤ i) (hhi : i ≤ 127) :
    sfuExp2 (ftoflt true (BitVec.ofInt 32 i)) = BitVec.ofNat 32 ((i + 127).toNat * 2 ^ 23) := by
  obtain ⟨neg, m, k, hx, hi⟩ := fdec_ftoflt (i := i) (by omega)
  rw [sfuExp2_of_int hx (by omega) (by omega), hi, pow2Word_eq hlo hhi]

end Sys2Proof.Machine

open Sys2Proof Sys2Proof.Machine

/-- Settles O6: NaN results by what rounding can give, exp2 of integers by their words, the listed inputs by evaluation. -/
theorem floatSpecialCases : Obligations.FloatSpecialCases := by
  unfold Obligations.FloatSpecialCases
  refine ⟨fun x y z => ⟨fround_of_isNan, fround_of_isNan, fround_of_isNan, fround_of_isNan, fun hx => ?_,
    fun hx => special_of_nan (FVal.eq_nan_of_isNan hx)⟩, by decide, by decide, by decide, by decide, by decide, by decide,
    by decide, by decide, by decide, by decide, by decide, by decide, fun n hn => ?_⟩
  · rw [fadd, fmul, ffma, FVal.eq_nan_of_isNan hx]
    exact ⟨rfl, rfl, rfl⟩
  · rw [sfuExp2_ftoflt (by omega) (by omega), show ((n : Int) - 126 + 127).toNat = n + 1 by omega]

end

section
/-! # Words of memory after a write

What a byte and a word of memory read as once bytes have been written at an address (R408), and access to blocks of DRAM of which
none is in error (R171 to R173, R446). -/
namespace Sys2Proof.Machine

/-! ## Bytes -/

theorem bytesLE_length (n v : Nat) : (bytesLE n v).length = n := by
  induction n generalizing v with
  | zero => rfl
  | succ n ih => rw [bytesLE, List.length_cons, ih]

theorem get_putBytes (m : Sparse Byte) (a : Nat) (bs : List Byte) (z : Nat) :
    Sparse.get memDefault (putBytes m a bs) z =
      if a ≤ z ∧ z < a + bs.length then bs.getD (z - a) 0 else Sparse.get memDefault m z := by
  induction bs generalizing m a with
  | nil => rw [putBytes, List.length_nil, if_neg (by omega)]
  | cons b bs ih =>
    rw [putBytes, ih, Sparse.get_set, List.length_cons]
    by_cases hz : z = a
    · subst hz
      rw [if_neg (by omega), if_pos rfl, if_pos (by omega), Nat.sub_self]
      rfl
    · rw [if_neg hz]
      by_cases hin : a + 1 ≤ z ∧ z < a + 1 + bs.length
      · rw [if_pos hin, if_pos (by omega), show z - a = z - (a + 1) + 1 by omega, List.getD_cons_succ]
      · rw [if_neg hin, if_neg (by omega)]

/-- A byte after a write, outside the boot ROM. -/
theorem State.byte_putMem (s : State) (a : Nat) (bs : List Byte) {z : Nat} (hz : isRom z = false) :
    (s.putMem a bs).byte z = if a ≤ z ∧ z < a + bs.length then bs.getD (z - a) 0 else s.byte z := by
  rw [State.byte_eq, State.byte_eq, hz, if_neg Bool.false_ne_true, if_neg Bool.false_ne_true]
  simp only [State.putMem, lostAt_flatMap_cutLost, get_putBytes]
  split <;> rfl

theorem State.byte_putMem_outside (s : State) {a z : Nat} {bs : List Byte} (h : z < a ∨ a + bs.length ≤ z) :
    (s.putMem a bs).byte z = s.byte z := by
  cases hz : isRom z with
  | true => exact State.byte_rom _ _ hz
  | false => rw [State.byte_putMem _ _ _ hz, if_neg (by omega)]

theorem State.bytes_of_byte {s : State} {a : Nat} {bs : List Byte} (h : ∀ i < bs.length, s.byte (a + i) = bs.getD i 0) :
    s.bytes a bs.length = bs := by
  induction bs generalizing a with
  | nil => rfl
  | cons b bs ih =>
    rw [List.length_cons, State.bytes, ih fun i hi => ?_]
    · rw [show s.byte a = b from h 0 (by simp)]
    · rw [Nat.add_right_comm, Nat.add_assoc]
      exact h (i + 1) (by simpa using hi)

/-! ## Words -/

/-- A word reads as it was written, outside the boot ROM. -/
theorem State.word_putWord (s : State) {a : Nat} (v : Word) (hlo : isRom a = false) (hhi : isRom (a + 3) = false) :
    (s.putWord a v).word a = v := by
  have hbytes : (s.putWord a v).bytes a (bytesLE 4 v.toNat).length = bytesLE 4 v.toNat :=
    State.bytes_of_byte fun i hi => by
      have hrom : isRom (a + i) = false := isRom_between hlo hhi (by rwa [bytesLE_length] at hi)
      rw [State.putWord, State.byte_putMem _ _ _ hrom, if_pos (by omega), Nat.add_sub_cancel_left]
  rw [bytesLE_length] at hbytes
  rw [State.word, hbytes, natLE_bytesLE]
  exact BitVec.eq_of_toNat_eq (by simpa using v.isLt)

theorem State.byte_putWord_outside (s : State) {a z : Nat} (v : Word) (h : z < a ∨ a + 4 ≤ z) :
    (s.putWord a v).byte z = s.byte z :=
  State.byte_putMem_outside s (by rwa [bytesLE_length])

/-- Another word keeps its value. -/
theorem State.word_putWord_other (s : State) {a b : Nat} (v : Word) (h : b + 4 ≤ a ∨ a + 4 ≤ b) :
    (s.putWord a v).word b = s.word b :=
  State.word_congr fun i hi => State.byte_putWord_outside s v (by omega)

/-- The first of several words read. -/
theorem wordAt_words_zero (s : State) (a n : Nat) : wordAt (s.words a (n + 1)) 0 = s.word a := rfl

/-! ## DRAM without errors -/

section
variable {s : State} (hd : s.defects = []) (hc : s.crcOff = [])
include hd hc

theorem State.crcCheck_of_intact (b : Nat) : s.crcCheck b = s := by
  simp [State.crcCheck, State.crcCheckBy, hd, hc]

/-- Writing one word of DRAM does no more than put it. -/
theorem State.writeMem_word {a : Nat} (hdram : isDram a = true) (v : Word) :
    s.writeMem a (bytesLE 4 v.toNat) = s.putWord a v := by
  have hpart (b : Nat) : ¬ (a ≤ b ∧ b + 64 ≤ a + 4) := by omega
  unfold State.writeMem
  simp only [bytesLE_length, hdram, if_true, hpart, if_false]
  rw [forEach_of_fixed (State.crcCheck_of_intact hd hc), State.putWord]

theorem State.readEntry_of_intact {a n : Nat} (hp : s.anyPoison a (4 * n) = false) :
    s.readEntry a n = (s, some (s.words a n)) := by
  have hcheck : s.crcRange a (4 * n) = s := forEach_of_fixed (State.crcCheck_of_intact hd hc) _
  have hnone : (blocksOf a (4 * n)).find? s.poisoned = none :=
    List.find?_eq_none.mpr fun b hb hpb => by simpa [hpb] using List.any_eq_false.mp hp b hb
  simp only [State.readEntry, State.entryOk, hcheck, hnone, if_true]

end

/-- A range without poison has no poisoned block at any of its addresses. -/
theorem State.poisoned_of_anyPoison {s : State} {a n z : Nat} (h : s.anyPoison a n = false) (hlo : a ≤ z) (hhi : z < a + n) :
    s.poisoned (z / 64 * 64) = false := by
  have hmem : z / 64 * 64 ∈ blocksOf a n := by
    rw [blocksOf, if_neg (by omega)]
    exact List.mem_map.mpr ⟨z / 64 - a / 64, List.mem_range.mpr (by omega), by congr 1; omega⟩
  simpa using List.any_eq_false.mp h _ hmem

end Sys2Proof.Machine
end

section
/-! # Drogue samples (O33)

Recomputing a captured tile, and comparing it: the counters of the drogue table's entry rise and nothing else of memory changes
(R85, R88 to R90). A 16-bit form whose layout cannot be used would drop the sample (log 7). -/
namespace Sys2Proof.Machine
open Sys2Proof.Claims

/-! ## The counters of an entry -/

/-- The 128 bytes of a drogue entry lie in DRAM, none of which is in error or poisoned. -/
structure State.EntrySound (s : State) (a : Nat) : Prop where
  dram : isDram (a + 127) = true
  defects : s.defects = []
  crcOff : s.crcOff = []
  clean : s.anyPoison a 128 = false

/-- `t` is `s` with `n i` added to word `i` of the entry at `a`, each word stopping at its largest value (R85). -/
structure State.Counted (s t : State) (a : Nat) (n : Nat → Nat) : Prop where
  words : ∀ i < 32, (t.word (a + 4 * i)).toNat = min ((s.word (a + 4 * i)).toNat + n i) 0xFFFFFFFF
  outside : ∀ z, z < a ∨ a + 128 ≤ z → t.byte z = s.byte z
  frame : t = { s with mem := t.mem, lost := t.lost }

theorem State.Counted.refl (s : State) (a : Nat) : s.Counted s a fun _ => 0 :=
  ⟨fun i _ => by omega, fun _ _ => rfl, rfl⟩

theorem State.Counted.trans {s t u : State} {a : Nat} {n k : Nat → Nat} (h : s.Counted t a n) (h' : t.Counted u a k) :
    s.Counted u a fun i => n i + k i := by
  refine ⟨fun i hi => ?_, fun z hz => (h'.outside z hz).trans (h.outside z hz), ?_⟩
  · rw [h'.words i hi, h.words i hi]
    omega
  · rw [h'.frame, h.frame]

theorem State.Counted.of_eq {s t : State} {a : Nat} {n k : Nat → Nat} (h : s.Counted t a n) (hk : ∀ i < 32, n i = k i) :
    s.Counted t a k :=
  ⟨fun i hi => hk i hi ▸ h.words i hi, h.outside, h.frame⟩

theorem State.Counted.sound {s t : State} {a : Nat} {n : Nat → Nat} (h : s.Counted t a n) (hs : s.EntrySound a) :
    t.EntrySound a := by
  obtain ⟨hdram, hd, hc, hp⟩ := hs
  rw [h.frame]
  exact ⟨hdram, hd, hc, hp⟩

theorem State.Counted.entry {s t : State} {a : Nat} {n : Nat → Nat} (h : s.Counted t a n) (o : ArrOp) :
    drogueEntry t o = drogueEntry s o := by
  rw [h.frame]
  rfl

theorem State.Counted.cores {s t : State} {a : Nat} {n : Nat → Nat} (h : s.Counted t a n) : t.cores = s.cores := by
  rw [h.frame]

/-- A word to which nothing is added stays as it is. -/
theorem State.Counted.word_same {s t : State} {a : Nat} {n : Nat → Nat} (h : s.Counted t a n) {i : Nat} (hi : i < 32)
    (hn : n i = 0) : t.word (a + 4 * i) = s.word (a + 4 * i) := by
  have hword := h.words i hi
  rw [hn] at hword
  exact BitVec.eq_of_toNat_eq (by omega)

/-- Counting on a state that differs in cores alone. -/
theorem State.Counted.frame_of_cores {s t u : State} {a : Nat} {n : Nat → Nat} (h : u.Counted t a n) (hu : OnlyCores s u) :
    t = { s with cores := t.cores, mem := t.mem, lost := t.lost } := by
  obtain ⟨c, rfl⟩ : ∃ c, u = { s with cores := c } := ⟨_, hu⟩
  obtain ⟨m, l, rfl⟩ : ∃ m l, t = { s with cores := c, mem := m, lost := l } := ⟨_, _, h.frame⟩
  rfl

theorem isRom_of_dram {a z : Nat} (h : isDram a = true) (hz : z ≤ a) : isRom z = false := by
  simp only [isDram, decide_eq_true_eq] at h
  simp only [isRom, Bool.and_eq_false_iff, decide_eq_false_iff_not]
  omega

section
variable {s : State} {o : ArrOp} {a : Nat} (ha : drogueEntry s o = a) (hs : s.EntrySound a)
include ha hs

theorem State.drogueAdd_eq {i : Nat} (hi : i < 32) (n : Nat) :
    s.drogueAdd o i n = s.putWord (a + 4 * i) (satAdd32 (s.word (a + 4 * i)) n) := by
  obtain ⟨hdram, hd, hc, hp⟩ := hs
  have hclean : s.poisoned ((a + 4 * i) / 64 * 64) = false := State.poisoned_of_anyPoison hp (by omega) (by omega)
  have hin : isDram (a + 4 * i) = true := by
    simp only [isDram, decide_eq_true_eq] at hdram ⊢
    omega
  simp only [State.drogueAdd, ha, hclean, Bool.false_eq_true, if_false]
  exact State.writeMem_word hd hc hin _

/-- One counter rises. -/
theorem State.drogueAdd_counted {i : Nat} (hi : i < 32) (n : Nat) :
    s.Counted (s.drogueAdd o i n) a fun j => if j = i then n else 0 := by
  rw [State.drogueAdd_eq ha hs hi]
  refine ⟨fun j hj => ?_, fun z hz => State.byte_putWord_outside s _ (by omega), rfl⟩
  by_cases hij : j = i
  · subst hij
    rw [State.word_putWord s _ (isRom_of_dram hs.dram (by omega)) (isRom_of_dram hs.dram (by omega)), satAdd32_toNat, if_pos rfl]
  · rw [State.word_putWord_other s _ (by omega), if_neg hij]
    omega

/-- Bins rise, each by its own count (R89). -/
theorem State.drogueAdds_counted (n : Nat → Nat) {is : List Nat} (hnd : is.Nodup) (hlt : ∀ i ∈ is, i < 16) :
    s.Counted (forEach (fun s i => s.drogueAdd o (8 + i) (n i)) s is) a
      fun j => if 8 ≤ j ∧ j - 8 ∈ is then n (j - 8) else 0 := by
  induction is generalizing s with
  | nil => exact (State.Counted.refl s a).of_eq fun j _ => by simp
  | cons i is ih =>
    obtain ⟨hi, hnd⟩ := List.nodup_cons.mp hnd
    have hlt16 := hlt i List.mem_cons_self
    have hone := State.drogueAdd_counted ha hs (show 8 + i < 32 by omega) (n i)
    have hrest := ih ((hone.entry o).trans ha) (hone.sound hs) hnd fun k hk => hlt k (List.mem_cons_of_mem _ hk)
    refine (hone.trans hrest).of_eq fun j _ => ?_
    by_cases hj : j = 8 + i
    · subst hj
      simp [hi]
    · have hne : 8 ≤ j → j - 8 ≠ i := by omega
      by_cases h8 : 8 ≤ j
      · simp [hj, h8, hne h8]
      · simp [hj, h8]

end

/-! ## Comparing -/

/-- How often bin `b` occurs. -/
def binCount (bins : List Nat) (b : Nat) : Nat := (bins.filter fun x => x == b).length

/-- What a compared sample adds to each word of its entry: SAMPLED and the bins (R85, R89). -/
def sampleCounts (bins : List Nat) (j : Nat) : Nat :=
  if j = 1 then 1 else if 8 ≤ j ∧ j < 24 then binCount bins (j - 8) else 0

/-- The slot is empty and the sample is counted. -/
def State.sampleCounted (s : State) (core slot : Nat) (o : ArrOp) (bins : List Nat) : State :=
  forEach (fun s i => s.drogueAdd o (8 + i) (binCount bins i)) ((s.setSlot core slot none).drogueAdd o 1 1) (List.range 16)

theorem State.sampleCounted_counted {s : State} {o : ArrOp} {a : Nat} (ha : drogueEntry s o = a) (hs : s.EntrySound a)
    (core slot : Nat) (bins : List Nat) :
    (s.setSlot core slot none).Counted (s.sampleCounted core slot o bins) a (sampleCounts bins) := by
  have hslot : (s.setSlot core slot none).EntrySound a := ⟨hs.dram, hs.defects, hs.crcOff, hs.clean⟩
  have hone := State.drogueAdd_counted (s := s.setSlot core slot none) ha hslot (show 1 < 32 by decide) 1
  have hbins := State.drogueAdds_counted ((hone.entry o).trans ha) (hone.sound hslot) (binCount bins) List.nodup_range
    fun i hi => List.mem_range.mp hi
  refine (hone.trans hbins).of_eq fun j _ => ?_
  rw [sampleCounts]
  by_cases h1 : j = 1
  · simp [h1]
  · by_cases h8 : 8 ≤ j ∧ j < 24
    · rw [if_neg h1, if_neg h1, if_pos h8, if_pos ⟨h8.1, List.mem_range.mpr (by omega)⟩, Nat.zero_add]
    · rw [if_neg h1, if_neg h1, if_neg h8, if_neg fun h => h8 ⟨h.1, by have := List.mem_range.mp h.2; omega⟩]

theorem sampleCounts_bin (bins : List Nat) {i : Nat} (hi : i < 16) : sampleCounts bins (8 + i) = binCount bins i := by
  rw [sampleCounts, if_neg (by omega), if_pos (by omega), Nat.add_sub_cancel_left]

/-- Above the limit EXCEEDED rises too (R90). -/
theorem State.excessCounted_counted {s : State} {o : ArrOp} {a : Nat} (ha : drogueEntry s o = a) (hs : s.EntrySound a)
    (core slot : Nat) (bins : List Nat) :
    (s.setSlot core slot none).Counted ((s.sampleCounted core slot o bins).drogueAdd o 4 1) a
      fun j => sampleCounts bins j + if j = 4 then 1 else 0 :=
  have hall := State.sampleCounted_counted ha hs core slot bins
  hall.trans (State.drogueAdd_counted ((hall.entry o).trans ha) (hall.sound ⟨hs.dram, hs.defects, hs.crcOff, hs.clean⟩) (by decide) 1)

/-- The event of a sample above the limit, and the time of it (R90). -/
def State.drogueEvent (s : State) (core : Nat) (o : ArrOp) (a high : Nat) : State :=
  let t := s.report core 2 4 (some o.ctx) core
    [BitVec.ofNat 32 (fld (wordAt o.shadow 0) 0 12), BitVec.ofNat 32 core, BitVec.ofNat 32 high]
  t.writeMem (a + 20) (bytesLE 8 t.lcount.toNat)

theorem State.drogueEvent_cores (s : State) (core : Nat) (o : ArrOp) (a high : Nat) :
    (s.drogueEvent core o a high).cores = s.cores :=
  (State.writeMem_coresKept _ _ _).cores.trans (State.report_frame ..).cores

theorem State.setSlot_onlyCores (s : State) (core slot : Nat) (x : Option Capture) : OnlyCores s (s.setSlot core slot x) := rfl

theorem State.core_setSlot (s : State) (core slot k : Nat) (x : Option Capture) : (s.setSlot core slot x).core k =
    if k = core then { s.core core with captures := (s.core core).captures.set slot x } else s.core k :=
  State.core_modCore ..

section
variable {s : State} {core slot : Nat} {c : Capture} (hslot : (s.core core).slot slot = some c)
include hslot

section
variable (hphase : c.phase = .computed) {a : Nat} (ha : drogueEntry s c.op = a) (hs : s.EntrySound a)
  {bins : List Nat} (hbins : drogueBins c (fld (s.word a) 0 5) = bins) {high : Nat}
  (hhigh : (bins.filter fun b => decide (fld (s.word a) 16 4 ≤ b)).length = high)
include hphase ha hs hbins hhigh

/-- DROGUE_COMPARE of a recomputed tile (R89, R90). -/
theorem exec_drogueCompare : exec (.drogueCompare core slot) s = .next
    (let t := s.sampleCounted core slot c.op bins
     let u := t.drogueAdd c.op 4 1
     if high ≤ fld (s.word a) 8 8 then t
     else if s.lcount.toNat - dwordAt (s.words a 32) 5 < 2 ^ 20 then u else u.drogueEvent core c.op a high) := by
  obtain ⟨v, hv⟩ : ∃ v, v = s.setSlot core slot none := ⟨_, rfl⟩
  have hentry : drogueEntry v c.op = a := by rw [hv]; exact ha
  have hwords : v.words a 32 = s.words a 32 := by rw [hv, State.setSlot, State.words_modCore]
  have hread : v.readEntry a 32 = (v, some (s.words a 32)) := by
    rw [State.readEntry_of_intact (by rw [hv]; exact hs.defects) (by rw [hv]; exact hs.crcOff) (by rw [hv]; exact hs.clean), hwords]
  have hsample : forEach (fun s i => s.drogueAdd c.op (8 + i) (bins.filter fun b => b == i).length) (v.drogueAdd c.op 1 1)
      (List.range 16) = s.sampleCounted core slot c.op bins := by rw [hv]; rfl
  have hcount : ((s.sampleCounted core slot c.op bins).drogueAdd c.op 4 1).lcount = s.lcount := by
    rw [(State.excessCounted_counted ha hs core slot bins).frame]
    rfl
  show execDrogueCompare core slot s = _
  unfold execDrogueCompare
  simp only [hslot, hphase, ne_eq, not_true_eq_false, if_false, ← hv, hentry, hread]
  rw [wordAt_words_zero s a 31]
  simp only [hbins, hsample, hhigh, hcount, State.drogueEvent]
  split
  · rfl
  · split <;> rfl

theorem next_drogueCompare : Next (.drogueCompare core slot) s fun t =>
    (t.core core).captures = (s.core core).captures.set slot none
      ∧ (high ≤ fld (s.word a) 8 8 →
        (t.word (a + 4)).toNat = min ((s.word (a + 4)).toNat + 1) 0xFFFFFFFF
          ∧ (∀ i < 16, (t.word (a + 32 + 4 * i)).toNat = min ((s.word (a + 32 + 4 * i)).toNat + binCount bins i) 0xFFFFFFFF)
          ∧ t.word (a + 16) = s.word (a + 16)
          ∧ (∀ z, z < a ∨ a + 128 ≤ z → t.byte z = s.byte z)
          ∧ t = { s with cores := t.cores, mem := t.mem, lost := t.lost })
      ∧ (fld (s.word a) 8 8 < high → s.lcount.toNat - dwordAt (s.words a 32) 5 < 2 ^ 20 →
        (t.word (a + 16)).toNat = min ((s.word (a + 16)).toNat + 1) 0xFFFFFFFF ∧ t.err = s.err) := by
  have hcounted := State.sampleCounted_counted ha hs core slot bins
  have hexcess := State.excessCounted_counted ha hs core slot bins
  have hempty {t : State} (ht : t.cores = (s.setSlot core slot none).cores) :
      (t.core core).captures = (s.core core).captures.set slot none := by
    rw [State.core_congr ht, State.core_setSlot, if_pos rfl]
  refine ⟨_, exec_drogueCompare hslot hphase ha hs hbins hhigh, ?_⟩
  by_cases hle : high ≤ fld (s.word a) 8 8
  · simp only [if_pos hle]
    refine ⟨hempty hcounted.cores, fun _ => ⟨hcounted.words 1 (by decide), fun i hi => ?_, ?_, hcounted.outside, ?_⟩,
      fun hlt => absurd hle (by omega)⟩
    · have h := hcounted.words (8 + i) (by omega)
      rwa [sampleCounts_bin _ hi, show a + 4 * (8 + i) = a + 32 + 4 * i by omega] at h
    · exact hcounted.word_same (i := 4) (by decide) rfl
    · exact hcounted.frame_of_cores (State.setSlot_onlyCores ..)
  · simp only [if_neg hle]
    by_cases hrecent : s.lcount.toNat - dwordAt (s.words a 32) 5 < 2 ^ 20
    · simp only [if_pos hrecent]
      have herr : ((s.sampleCounted core slot c.op bins).drogueAdd c.op 4 1).err = s.err := by
        rw [hexcess.frame_of_cores (State.setSlot_onlyCores ..)]
      exact ⟨hempty hexcess.cores, fun h => absurd h hle, fun _ _ => ⟨hexcess.words 4 (by decide), herr⟩⟩
    · simp only [if_neg hrecent]
      exact ⟨hempty ((State.drogueEvent_cores ..).trans hexcess.cores), fun h => absurd h hle, fun _ h => absurd h hrecent⟩

end

theorem exec_drogueCompare_captured (hphase : c.phase = .captured) : exec (.drogueCompare core slot) s = .next s := by
  show execDrogueCompare core slot s = _
  simp only [execDrogueCompare, hslot, hphase, ne_eq, reduceCtorEq, not_false_eq_true, if_true]

/-! ## Recomputing -/

/-- Nothing recomputes what has been recomputed, nor on an array that may not take it (R88). -/
theorem exec_drogueRecompute_idle {arr : Nat} (h : c.phase = .computed ∨ s.canRecompute core arr c.op = false) :
    exec (.drogueRecompute core slot arr) s = .next s := by
  have hidle : c.phase ≠ .captured ∨ s.canRecompute core arr c.op = false ∨ (s.core core).stopped = true := by
    rcases h with h | h
    · exact .inl (by rw [h]; decide)
    · exact .inr (.inl h)
  show execDrogueRecompute core slot arr s = _
  simp only [execDrogueRecompute, hslot, if_pos hidle]

/-- DROGUE_RECOMPUTE of a captured tile whose 16-bit forms can be used (R88). -/
theorem exec_drogueRecompute {arr : Nat} (hphase : c.phase = .captured) (hcan : s.canRecompute core arr c.op = true)
    (hrun : (s.core core).stopped = false) (hA : useWide c.op 1 = true → wideOk s c.op 1 (Layout.ofWords c.op.la) = true)
    (hB : useWide c.op 2 = true → wideOk s c.op 2 (Layout.ofWords c.op.lb) = true) :
    exec (.drogueRecompute core slot arr) s = .next (s.setSlot core slot (some { c with
      phase := .computed, arr := arr, wide := c.vals.map fun v => (v.1, v.2.1, recomputed s c.op v.1 v.2.1) })) := by
  have husable : ((useWide c.op 1 && !wideOk s c.op 1 (Layout.ofWords c.op.la)) ||
      (useWide c.op 2 && !wideOk s c.op 2 (Layout.ofWords c.op.lb))) = false := by
    simpa using And.intro hA hB
  show execDrogueRecompute core slot arr s = _
  simp only [execDrogueRecompute, hslot, hphase, hcan, hrun, husable, ne_eq, not_true_eq_false, Bool.true_eq_false,
    Bool.false_eq_true, or_self, if_false]

end

end Sys2Proof.Machine

open Sys2Proof Sys2Proof.Machine

/-- Settles O33: the slot is written or emptied, and the counters of the entry rise by the sample. -/
theorem drogueSamples : Obligations.DrogueSamples := by
  unfold Obligations.DrogueSamples
  intro s core slot arr c hslot
  refine ⟨fun hphase hcan hrun hA hB => ⟨_, exec_drogueRecompute hslot hphase hcan hrun hA hB, ?_, fun k hk => ?_, rfl⟩,
    fun h => exec_drogueRecompute_idle hslot h, fun h => exec_drogueCompare_captured hslot h, fun hphase hd hc => ?_⟩
  · rw [State.core_setSlot, if_pos rfl]
  · rw [State.core_setSlot, if_neg hk]
  · intro a w0 bins high hdram hclean
    exact next_drogueCompare hslot hphase rfl ⟨hdram, hd, hc, hclean⟩ rfl rfl

end

section
/-! # Siblings that join (O11)

A split record whose siblings all stand at its join address goes, and one sub-group of all their threads stands there (R117). -/
namespace Sys2Proof.Machine

/-- A group once each sub-group that stands at its join waits there. -/
def Group.arrived (g : Group) : Group := { g with subs := g.subs.map g.arrive }

/-- A record whose siblings have all arrived is merged, and what remains settles. -/
theorem Group.settle_of_ready {n : Nat} {g : Group} {p : Nat × DWord}
    (h : (g.splits.find? fun p => g.arrived.joinReady p.1) = some p) :
    Group.settle (n + 1) g = Group.settle n (g.arrived.mergeAt p.1 p.2) := by
  rw [Group.arrived] at h ⊢
  simp only [Group.settle, h]

/-- When no record's siblings have all arrived, those that arrive wait. -/
theorem Group.settle_of_none {n : Nat} {g : Group} (h : (g.splits.find? fun p => g.arrived.joinReady p.1) = Option.none) :
    Group.settle (n + 1) g = g.arrived := by
  rw [Group.arrived] at h ⊢
  simp only [Group.settle, h]

/-- Sub-groups under no record have no join. -/
theorem Group.settle_of_no_splits {g : Group} (h : g.splits = []) (hs : ∀ x ∈ g.subs, x.stack = []) (n : Nat) :
    Group.settle n g = g := by
  have harrive : g.subs.map g.arrive = g.subs := by
    refine (List.map_congr_left fun x hx => ?_).trans (List.map_id _)
    simp [Group.arrive, hs x hx]
  cases n with
  | zero => rfl
  | succ n => rw [Group.settle_of_none (by rw [h, List.find?_nil]), Group.arrived, harrive]

theorem Group.arrive_at_join {g : Group} {x : Sub} {r : Nat} {j : DWord} {rest : List Nat} (hmem : (r, j) ∈ g.splits)
    (hstack : x.stack = r :: rest) (hpc : x.pc = j) (hwait : x.wait = .none) : g.arrive x = { x with wait := .join } := by
  have hany : (g.splits.any fun p => p.1 == r && p.2 == x.pc) = true :=
    List.any_eq_true.mpr ⟨(r, j), hmem, by simp [hpc]⟩
  simp only [Group.arrive, hwait, hstack, hany, if_true]

end Sys2Proof.Machine

open Sys2Proof Sys2Proof.Machine

/-- Settles O11: both siblings arrive, and the one record is merged. -/
theorem joinMerges : Obligations.JoinMerges := by
  unfold Obligations.JoinMerges
  intro g r j x y hsplits hsubs hsx hsy hpx hpy hwx hwy
  have hmem : (r, j) ∈ g.splits := hsplits ▸ List.mem_singleton_self _
  have harrived : g.arrived = { g with subs := [{ x with wait := .join }, { y with wait := .join }] } := by
    rw [Group.arrived, hsubs, List.map_cons, List.map_cons, List.map_nil, Group.arrive_at_join hmem hsx hpx hwx,
      Group.arrive_at_join hmem hsy hpy hwy]
  have hready : g.arrived.joinReady r = true := by
    simp [Group.joinReady, Group.under, harrived, hsx, hsy]
  have hmerge : g.arrived.mergeAt r j =
      { g with splits := [], subs := [{ mask := x.mask ||| y.mask, pc := j, stack := [], wait := .none
                                        since := x.since, seen := (x.seen ++ y.seen).eraseDups }] } := by
    simp [harrived, Group.mergeAt, Group.under, hsplits, hsx, hsy]
  have hfind : (g.splits.find? fun p => g.arrived.joinReady p.1) = some (r, j) := by
    simp [hsplits, hready]
  rw [Group.joined, Group.settle_of_ready hfind, hmerge]
  exact Group.settle_of_no_splits rfl (by simp) _

end

section
/-! # A barrier completes (O12)

Waking a group, the groups of a block and the blocks that a barrier concerns (R120). -/
namespace Sys2Proof.Machine
open Sys2Proof.Claims

theorem Sparse.get_of_not_mem_keys {α : Type} (d : Nat → α) {m : Sparse α} {k : Nat} (h : k ∉ m.map Prod.fst) :
    Sparse.get d m k = d k := by
  induction m with
  | nil => rfl
  | cons p m ih =>
    rw [List.map_cons, List.mem_cons, not_or] at h
    rw [Sparse.get, if_neg h.1, ih h.2]

/-- In a group without sub-groups none waits. -/
theorem Group.wake_none (w : Wait) (now : DWord) : Group.none.wake w now = Group.none := rfl

theorem State.group_of_block {s t : State} {c b : Nat} (h : t.block c b = s.block c b) (g : Nat) :
    t.group c b g = s.group c b g := by
  rw [State.group, State.group, h]

theorem OnlyCores.lcount {s t : State} (h : OnlyCores s t) : t.lcount = s.lcount := by rw [h]

/-- A change of one group of a block leaves every other block as it is. -/
theorem State.block_modGroup_other (s : State) {c b c' b' : Nat} (h : (c', b') ≠ (c, b)) (g : Nat) (f : Group → Group) :
    (s.modGroup c b g f).block c' b' = s.block c' b' := by
  unfold State.modGroup
  split
  · rw [State.block_setBlock, if_neg fun hh => h (Prod.ext hh.1 hh.2)]
  · rfl

/-! ## The groups of a block -/

section
variable (core blk : Nat) (w : Wait)

/-- Wake the waiting sub-groups of some groups of a block. -/
def State.wakeGroups (s : State) (ks : List Nat) : State :=
  forEach (fun s k => s.modGroup core blk k fun g => g.wake w s.lcount) s ks

theorem State.wakeGroups_onlyCores (s : State) (ks : List Nat) : OnlyCores s (s.wakeGroups core blk w ks) := by
  induction ks generalizing s with
  | nil => rfl
  | cons k ks ih => exact (State.modGroup_onlyCores _ _ _ _ _).trans (ih _)

theorem State.block_wakeGroups_other (s : State) (ks : List Nat) {c b : Nat} (h : (c, b) ≠ (core, blk)) :
    (s.wakeGroups core blk w ks).block c b = s.block c b := by
  induction ks generalizing s with
  | nil => rfl
  | cons k ks ih => exact (ih _).trans (s.block_modGroup_other h _ _)

theorem State.group_wakeGroups {s : State} {x : Block} (hx : s.block core blk = some x) {ks : List Nat} (hnd : ks.Nodup)
    (g : Nat) : (s.wakeGroups core blk w ks).group core blk g =
      if g ∈ ks then (s.group core blk g).wake w s.lcount else s.group core blk g := by
  induction ks generalizing s x with
  | nil => rw [if_neg List.not_mem_nil]; rfl
  | cons k ks ih =>
    obtain ⟨hk, hnd⟩ := List.nodup_cons.mp hnd
    obtain ⟨y, hy, -⟩ := State.block_modGroup s core blk k (fun g => g.wake w s.lcount) hx
    have hgroup := State.group_modGroup s core blk k core blk g (fun g => g.wake w s.lcount) hx
    have hhere : s.group core blk k = x.group k := by rw [State.group, hx]
    have hstep := ih hy hnd
    rw [hgroup, (State.modGroup_onlyCores s core blk k _).lcount] at hstep
    refine hstep.trans ?_
    by_cases hg : g = k
    · subst hg
      simp [hk, hhere]
    · simp [hg]

/-- Every group of the block is woken, those that it does not have included. -/
theorem State.group_wakeBlock {s : State} {x : Block} (hx : s.block core blk = some x) (hnd : (x.groups.map Prod.fst).Nodup)
    (g : Nat) : (s.wakeBlock core blk w).group core blk g = (s.group core blk g).wake w s.lcount := by
  have hwake : s.wakeBlock core blk w = s.wakeGroups core blk w (x.groups.map Prod.fst) := by
    rw [State.wakeBlock, hx]
    rfl
  rw [hwake, State.group_wakeGroups core blk w hx hnd]
  split
  · rfl
  · next hg =>
    have hnone : s.group core blk g = Group.none := by
      rw [State.group, hx]
      exact Sparse.get_of_not_mem_keys _ hg
    rw [hnone, Group.wake_none]

theorem State.wakeBlock_onlyCores (s : State) : OnlyCores s (s.wakeBlock core blk w) := by
  unfold State.wakeBlock
  split
  · rfl
  · exact State.wakeGroups_onlyCores core blk w s _

theorem State.block_wakeBlock_other (s : State) {c b : Nat} (h : (c, b) ≠ (core, blk)) :
    (s.wakeBlock core blk w).block c b = s.block c b := by
  unfold State.wakeBlock
  split
  · rfl
  · exact State.block_wakeGroups_other core blk w s _ h

end

/-! ## The blocks that a barrier concerns -/

section
variable (w : Wait)

/-- Wake the waiting sub-groups of some blocks. -/
def State.wakeBlocks (s : State) (bs : List (Nat × Nat)) : State := forEach (fun s p => s.wakeBlock p.1 p.2 w) s bs

theorem State.wakeBlocks_onlyCores (s : State) (bs : List (Nat × Nat)) : OnlyCores s (s.wakeBlocks w bs) := by
  induction bs generalizing s with
  | nil => rfl
  | cons p bs ih => exact (State.wakeBlock_onlyCores _ _ _ _).trans (ih _)

theorem State.block_wakeBlocks_other (s : State) (bs : List (Nat × Nat)) {c b : Nat} (h : (c, b) ∉ bs) :
    (s.wakeBlocks w bs).block c b = s.block c b := by
  induction bs generalizing s with
  | nil => rfl
  | cons p bs ih =>
    rw [List.mem_cons, not_or] at h
    exact (ih _ h.2).trans (s.block_wakeBlock_other _ _ w h.1)

theorem State.group_wakeBlocks {s : State} {bs : List (Nat × Nat)} (hnd : bs.Nodup)
    (hall : ∀ p ∈ bs, ∃ b, s.block p.1 p.2 = some b ∧ (b.groups.map Prod.fst).Nodup) :
    ∀ p ∈ bs, ∀ g, (s.wakeBlocks w bs).group p.1 p.2 g = (s.group p.1 p.2 g).wake w s.lcount := by
  induction bs generalizing s with
  | nil => exact fun p hp => absurd hp List.not_mem_nil
  | cons q bs ih =>
    obtain ⟨hq, hnd⟩ := List.nodup_cons.mp hnd
    obtain ⟨x, hx, hkeys⟩ := hall q List.mem_cons_self
    have hother (p : Nat × Nat) (hp : p ∈ bs) : (s.wakeBlock q.1 q.2 w).block p.1 p.2 = s.block p.1 p.2 :=
      s.block_wakeBlock_other _ _ w fun h => hq (by rwa [show q = p from h.symm])
    intro p hp g
    rcases List.mem_cons.mp hp with rfl | hp
    · have hrest := (s.wakeBlock p.1 p.2 w).block_wakeBlocks_other w bs hq
      exact (State.group_of_block hrest g).trans (State.group_wakeBlock p.1 p.2 w hx hkeys g)
    · have hrec := ih hnd (fun r hr => hother r hr ▸ hall r (List.mem_cons_of_mem _ hr)) p hp g
      refine hrec.trans ?_
      rw [State.group_of_block (hother p hp), (s.wakeBlock_onlyCores _ _ w).lcount]

end

/-! ## The test of the blocks -/

theorem State.atBarrier_all {s : State} {bs : List (Nat × Nat)} {f : Block → Bool} :
    ((s.atBarrier bs f).all fun x => x) = true ↔ ∀ p ∈ bs, ∃ b, s.block p.1 p.2 = some b ∧ f b = true := by
  simp only [State.atBarrier, List.all_map, List.all_eq_true]
  refine forall₂_congr fun p _ => ?_
  cases h : s.block p.1 p.2 <;> simp [h]

theorem State.atBarrier_any {s : State} {bs : List (Nat × Nat)} {f : Block → Bool} :
    ((s.atBarrier bs f).any fun x => x) = true ↔ ∃ p ∈ bs, ∃ b, s.block p.1 p.2 = some b ∧ f b = true := by
  simp only [State.atBarrier, List.any_map, List.any_eq_true]
  refine exists_congr fun p => and_congr_right fun _ => ?_
  cases h : s.block p.1 p.2 <;> simp [h]

end Sys2Proof.Machine

open Sys2Proof Sys2Proof.Machine

/-- Settles O12: the blocks are woken one after the other, each by itself. -/
theorem barrierCompletes : Obligations.BarrierCompletes := by
  unfold Obligations.BarrierCompletes
  intro s core blk train id bs all some'
  have hex : exec (.barrierComplete core blk train id) s = execBarrierComplete core blk train id s := rfl
  refine ⟨fun hall hsome hnd hkeys => ?_, fun hnot => ?_⟩
  · refine ⟨s.wakeBlocks (.barrier train id) bs, ?_, State.group_wakeBlocks _ hnd fun p hp => ?_,
      fun c b h => s.block_wakeBlocks_other _ _ h, s.wakeBlocks_onlyCores _ _⟩
    · rw [hex, execBarrierComplete, if_pos (Bool.and_eq_true_iff.mpr ⟨State.atBarrier_all.mpr hall, State.atBarrier_any.mpr hsome⟩)]
      rfl
    · obtain ⟨b, hb, -⟩ := hall p hp
      exact ⟨b, hb, hkeys p hp b hb⟩
  · rw [hex, execBarrierComplete, if_neg]
    rw [Bool.and_eq_true, State.atBarrier_all, State.atBarrier_any]
    exact hnot

end

section
/-! # Places of accesses to local store, cluster-local store and wide buffer (O17)

What `At.place` answers for the spaces of the core (R108, R145); a negative sum is outside every space (log 45). -/
namespace Sys2Proof.Machine

section
variable {a : At} {s : State} {space n : Nat} {need : Need} {x : Int}

/-- The alignment of an access is judged first, in every space. -/
theorem At.place_misaligned (h : x % n ≠ 0) : a.place s space x n need = (s, .error (4, (x % 2 ^ 64).toNat)) := by
  simp only [At.place, if_pos h, fMisaligned]

/-- An address in range is itself modulo 2^64. -/
theorem toNat_mod_of_lt (h0 : 0 ≤ x) (hx : x < 2 ^ 64) : (x % 2 ^ 64).toNat = x.toNat := by
  rw [Int.emod_eq_of_lt h0 hx]

variable (hal : x % n = 0) (hspace : space ≠ 2)
include hal hspace

/-- An aligned access outside what the block may reach. -/
theorem At.place_outside (h : x < 0 ∨ s.inSpace a.core a.b space (x % 2 ^ 64).toNat n = false) :
    a.place s space x n need = (s, .error (1, (x % 2 ^ 64).toNat)) := by
  simp only [At.place, if_neg (not_not.mpr hal), if_neg hspace, if_pos h, fBounds]

/-- An aligned access inside it. -/
theorem At.place_inside {p : Nat} (h0 : 0 ≤ x) (hx : x < 2 ^ 64) (hin : s.inSpace a.core a.b space x.toNat n = true)
    (hbase : s.sideBase a.core a.b space x.toNat = some p) :
    a.place s space x n need = (s, .ok (.here p none false)) := by
  rw [← toNat_mod_of_lt h0 hx] at hin hbase
  simp only [At.place, if_neg (not_not.mpr hal), if_neg hspace, hin, hbase, not_lt.mpr h0, Bool.true_eq_false, or_self,
    if_false]

end

/-- A cluster-local access: the member of the train with that rank decides. -/
theorem State.inSpace_member {s : State} {core : Nat} {b m : Block} {ad n : Nat} (h : s.member core b (ad / 2 ^ 19) = some m) :
    s.inSpace core b 1 ad n = decide (ad % 2 ^ 19 + n ≤ m.ls) := by
  simp only [State.inSpace, h]

theorem State.inSpace_noMember {s : State} {core : Nat} {b : Block} {ad n : Nat} (h : s.member core b (ad / 2 ^ 19) = none) :
    s.inSpace core b 1 ad n = false := by
  simp only [State.inSpace, h]

end Sys2Proof.Machine

open Sys2Proof Sys2Proof.Machine

/-- Settles O17, space by space. -/
theorem localAddresses : Obligations.LocalAddresses := by
  unfold Obligations.LocalAddresses
  intro s a n need x hn hx
  -- outside a space either the address is negative or the space does not hold it
  have houtside {space : Nat} (hal : x % n = 0) (hspace : space ≠ 2)
      (h : 0 ≤ x → s.inSpace a.core a.b space x.toNat n = false) :
      a.place s space x n need = (s, .error (1, (x % 2 ^ 64).toNat)) := by
    refine At.place_outside hal hspace ?_
    by_cases h0 : 0 ≤ x
    · exact .inr (by rw [toNat_mod_of_lt h0 hx, h h0])
    · exact .inl (not_le.mp h0)
  refine ⟨fun space h => At.place_misaligned h, fun hal => ⟨fun h0 hin => ?_, fun hout => ?_,
    fun m h0 hm => ⟨fun hin => ?_, fun hout => ?_⟩,
    fun hout => ?_, fun hwb h0 hin => ?_, fun hout => ?_⟩⟩
  · exact At.place_inside hal (by decide) h0 hx (by simp only [State.inSpace, decide_eq_true_eq]; omega) rfl
  · exact houtside hal (by decide) fun h0 => by simp only [State.inSpace, decide_eq_false_iff_not]; omega
  · refine At.place_inside hal (by decide) h0 hx ?_ ?_
    · rw [State.inSpace_member hm, decide_eq_true_eq]
      exact hin
    · simp only [State.sideBase, hm, Option.map_some]
  · refine houtside hal (by decide) fun _ => ?_
    rw [State.inSpace_member hm, decide_eq_false_iff_not]
    omega
  · exact houtside hal (by decide) fun h0 => State.inSpace_noMember (hout.resolve_left (not_lt.mpr h0))
  · refine At.place_inside hal (by decide) h0 hx ?_ rfl
    simp only [State.inSpace, hwb, Bool.true_and, decide_eq_true_eq]
    omega
  · refine houtside hal (by decide) fun h0 => ?_
    simp only [State.inSpace, Bool.and_eq_false_iff, decide_eq_false_iff_not]
    exact hout.imp_right fun h => by omega

end

section
/-! # Faults of threads (O23)

A fault is latched at its core, names its instruction, and kills its context (R126, R387, R391); a load or store whose
addresses fail is that fault and nothing else (R144, R145). -/
namespace Sys2Proof.Machine
open Sys2Proof.Claims

/-! ## What a core's latches hold -/

section
variable {src : Nat} (hsrc : src < 0x600)
include hsrc

/-- The check of a block reports from a controller, which is no core. -/
theorem State.crcCheckBy_sameReports_core {add : State → Nat → Nat → Nat → State}
    (ha : ∀ (s : State) x n l, State.SameReports src s (add s x n l)) (s : State) (b : Nat) :
    State.SameReports src s (State.crcCheckBy add s b) := by
  have hc (u : State) (i : Nat) : (u.mcCount b i).err = u.err := by
    unfold State.mcCount
    split <;> simp
  unfold State.crcCheckBy
  simp only []
  split
  · exact .of_err rfl
  · split
    · exact .of_err (hc _ _)
    · split
      · next mc hmc =>
        have hne : src ≠ mcSource mc := by unfold mcSource; omega
        refine State.SameReports.trans (.of_err ?_) (State.latchBy_sameReports hne ha _ _)
        exact hc _ _
      · exact .of_err (hc _ _)

theorem State.srcAdd_sameReports_core (s : State) (x n l : Nat) : State.SameReports src s (s.srcAdd x n l) :=
  (State.crcCheckBy_sameReports_core hsrc (fun _ _ _ _ => .of_err (State.srcPut_err _ _ _ _)) s _).trans
    (.of_err (State.srcPut_err _ _ _ _))

end

/-- A report stands latched at a source, whatever number of lost ones it carries. -/
def State.Holds (t : State) (src : Nat) (r : Report) : Prop :=
  ∃ n, (t.latch src).first = some { r with lost := n } ∨ (t.latch src).latest = some { r with lost := n }

theorem State.Holds.keep {s t : State} {src : Nat} {r : Report} (h : s.Holds src r) (hk : State.SameReports src s t) :
    t.Holds src r := by
  obtain ⟨n, hn⟩ := h
  obtain ⟨hfirst, hlatest⟩ := hk
  exact ⟨n, by rwa [hfirst, hlatest]⟩

/-- Latching takes the report whole: as FIRST, or as LATEST in the place of another (R391). -/
theorem State.latchBy_holds {add : State → Nat → Nat → Nat → State} {src : Nat}
    (ha : ∀ (s : State) x n l, State.SameReports src s (add s x n l)) (s : State) (r : Report) :
    (State.latchBy add s src r).Holds src r := by
  unfold State.latchBy
  simp only []
  split
  · exact State.Holds.keep ⟨r.lost, .inl (by simp [State.latch_setLatch])⟩ (State.countBy_sameReports ha _ _ _ _)
  · exact State.Holds.keep ⟨r.lost, .inr (by simp [State.latch_setLatch])⟩ (State.countBy_sameReports ha _ _ _ _)
  · next old _ _ =>
    exact State.Holds.keep ⟨min (old.lost + 1) 0xFFFFFFFF, .inr (by simp [State.latch_setLatch])⟩
      (State.countBy_sameReports ha _ _ _ _)

theorem State.report_holds {src : Nat} (hsrc : src < 0x600) (s : State) (cls cause : Nat) (ctx : Option Nat) (unit : Nat)
    (d : List Word) : (s.report src cls cause ctx unit d).Holds src (s.made cls cause ctx unit d) :=
  State.latchBy_holds (State.srcAdd_sameReports_core hsrc) s _

/-! ## The context is killed -/

theorem State.askChip_err (s : State) (r : ResetReason) : (s.askChip r).err = s.err := by
  unfold State.askChip
  split <;> rfl

theorem State.askContext_err (s : State) (c : Nat) : (s.askContext c).err = s.err := by
  unfold State.askContext
  split
  · exact s.askChip_err _
  · split <;> rfl

theorem State.askChip_spool (s : State) (r : ResetReason) : (s.askChip r).spool = s.spool := by
  unfold State.askChip
  split <;> rfl

theorem State.askContext_spool (s : State) (c : Nat) : (s.askContext c).spool = s.spool := by
  unfold State.askContext
  split
  · exact s.askChip_spool _
  · split <;> rfl

/-- A context whose reset is asked for issues no more; for context 0 the whole module is reset (R126, R401). -/
theorem State.ctxRuns_askContext (s : State) (c : Nat) : (s.askContext c).ctxRuns c = false := by
  unfold State.askContext
  split
  · unfold State.askChip
    split
    · next h => simp [State.ctxRuns, h]
    · simp [State.ctxRuns]
  · split
    · next h => simp only [State.ctxRuns, h, Bool.not_true, Bool.false_and]
    · simp [State.ctxRuns]

/-! ## A thread's fault -/

section
variable (a : At) (s : State) (cls addr : Nat)

theorem At.fault_cores : (a.fault s cls addr).cores = s.cores :=
  (s.threadFault_coresKept _ _ _ _ _ _ _).cores

theorem At.fault_spool : (a.fault s cls addr).spool = s.spool :=
  (State.askContext_spool _ _).trans (State.report_frame _ _ _ _ _ _ _).spool

theorem At.ctxRuns_fault : (a.fault s cls addr).ctxRuns a.b.ctx = false := State.ctxRuns_askContext _ _

/-- The fault's report names core, context, group, lanes, instruction and address. -/
theorem At.fault_holds (h : a.core < 1536) : (a.fault s cls addr).Holds a.core (s.made 1 cls (some a.b.ctx) a.core
    ([BitVec.ofNat 32 a.grp, a.sub.mask] ++ addrWords a.sub.pc.toNat ++ addrWords addr)) :=
  (State.report_holds h s ..).keep (.of_err (State.askContext_err _ _))

end

/-! ## Loads and stores whose addresses fail -/

section
variable {s s1 s2 : State} {sg : SgRef} {f : FormM} {a : At} {cls ad : Nat} (hwid : modWid f.mod ≠ 7)
  (hstrm : modStrm f.mod = false) (hacq : s1.acquiring a = false)
include hwid hstrm hacq

theorem exec_ld_of_badPlace (hord : ordRelease f.ord.toNat = false) (h : s.issuing sg f.g false (useLd f) = some (a, s1))
    (hp : a.places s1 (modSpace f.mod) (widBytes (modWid f.mod)) .read (addrs a f (a.loadLanes f.d)) = (s2, .error (cls, ad))) :
    exec (.ld sg f) s = .next (a.issued (a.fault s2 cls ad)) := by
  have hok : (modWid f.mod != 7 && (!modStrm f.mod || modSpace f.mod == 2) && loadOrd f.ord.toNat) = true := by
    simp [hwid, hstrm, hord, loadOrd]
  show execLd sg f s = _
  simp only [execLd, hok]
  refine congrArg Host.Outcome.next ((State.issue_of_issuing h true _).trans ?_)
  simp only [At.access, hacq, Bool.false_eq_true, if_false, show ((a.loadLanes f.d).map fun i =>
    (i, a.address (modSpace f.mod) f.a (signedOf 24 f.off.toNat) i)) = addrs a f (a.loadLanes f.d) from rfl, hp]

theorem exec_st_of_badPlace (hord : ordAcquire f.ord.toNat = false) (h : s.issuing sg f.g false (useSt f) = some (a, s1))
    (hp : a.places s1 (modSpace f.mod) (widBytes (modWid f.mod)) .write (addrs a f a.lanes) = (s2, .error (cls, ad))) :
    exec (.st sg f) s = .next (a.issued (a.fault s2 cls ad)) := by
  have hok : (modWid f.mod != 7 && !modStrm f.mod && storeOrd f.ord.toNat) = true := by
    simp [hwid, hstrm, hord, storeOrd]
  show execSt sg f s = _
  simp only [execSt, hok]
  refine congrArg Host.Outcome.next ((State.issue_of_issuing h _ _).trans ?_)
  simp only [At.access, hacq, Bool.false_eq_true, if_false, show (a.each fun i =>
    a.address (modSpace f.mod) f.a (signedOf 24 f.off.toNat) i) = addrs a f a.lanes from rfl, hp]

end

end Sys2Proof.Machine

open Sys2Proof Sys2Proof.Machine

/-- Settles O23: the report is latched at the core and the context's reset asked for; LD and ST end in that fault. -/
theorem threadFaults : Obligations.ThreadFaults := by
  unfold Obligations.ThreadFaults
  refine ⟨fun a s cls addr hcore => ?_, fun s sg f a s1 s2 cls ad hwid hstrm =>
    ⟨fun hord h hacq hp => ?_, fun hord h hacq hp => ?_⟩⟩
  · obtain ⟨n, hn⟩ := a.fault_holds s cls addr hcore
    exact ⟨a.fault_cores s cls addr, a.fault_spool s cls addr, a.ctxRuns_fault s cls addr, _, hn, rfl, rfl, rfl, rfl, rfl, rfl, rfl⟩
  · exact exec_ld_of_badPlace hwid hstrm hacq hord h hp
  · exact exec_st_of_badPlace hwid hstrm hacq hord h hp

end

section
/-! # Instructions that may not issue (O24)

Which words spell an instruction (R132, R163), and the faults of an instruction that its opcode does not allow (R134) and of an
address that may not be fetched (R132). -/
namespace Sys2Proof.Machine
open Sys2Proof.Claims

/-! ## Opcodes -/

theorem opcodeOf_eq (w : DWord) : opcodeOf w = fld w 56 8 := by
  rw [opcodeOf, BitVec.extractLsb'_toNat]
  rfl

/-- The opcodes that the tables of spec/07 list (R163), one by one. -/
def listedOpcodes : List Nat :=
  [0x00, 0x01, 0x02, 0x03, 0x04, 0x05, 0x06, 0x07, 0x08, 0x09, 0x0A, 0x0B, 0x0C, 0x0D, 0x0E, 0x10, 0x11, 0x12,
   0x13, 0x14, 0x15, 0x16, 0x17, 0x18, 0x19, 0x20, 0x21, 0x22, 0x30, 0x31, 0x32, 0x33, 0x40, 0x41, 0x42, 0x43,
   0x44, 0x45, 0x50, 0x60, 0x61, 0x62, 0x63, 0x64, 0x65, 0x66, 0x67, 0x68, 0x69, 0x6A, 0x70, 0x80, 0x81, 0x82,
   0x83, 0x84, 0x85, 0x90, 0xA0, 0xA1, 0xA2, 0xA3, 0xB0, 0xB1]

theorem mem_listedOpcodes : ∀ n < 256, definedOpcode n = true → n ∈ listedOpcodes := by decide +kernel

theorem opcodeOf_lt (w : DWord) : opcodeOf w < 256 := (w.extractLsb' 56 8).isLt

/-- A word spells an instruction exactly when a table lists its opcode. -/
theorem decodeThread_isSome (sg : SgRef) (w : DWord) : (decodeThread sg w).isSome = definedOpcode (opcodeOf w) := by
  simp only [decodeThread]
  split
  case h_65 =>
    by_contra h
    have hmem := mem_listedOpcodes _ (opcodeOf_lt w) (by simpa using h)
    simp only [listedOpcodes, List.mem_cons, List.not_mem_nil, or_false] at hmem
    grind
  all_goals
    next h => rw [h]; rfl

/-! ## Faults before an instruction's own effect -/

section
variable {s s1 : State} {sg : SgRef} {gf : BitVec 4} {a : At} (hp : sg.partner = none)
  (hat : s.at? sg.core sg.blk sg.grp sg.lane gf = some a)
include hp hat

/-- Fields that the opcode does not allow: ILLEGAL, and nothing else. -/
theorem State.issue_illegal {u : Where × Bool} (ht : s.translate a.core a.b.ctx a.sub.pc.toNat .fetch = (s1, .ok u))
    {ok uni : Bool} {us : List Use} (hbad : ok = false ∨ usesOk a.b.regs uni us = false) (rep : Bool)
    (body : At → State → Did) : s.issue sg gf rep uni ok us body = a.issued (a.fault s1 5 a.sub.pc.toNat) := by
  have hno : (ok && usesOk a.b.regs uni us) = false := Bool.and_eq_false_iff.mpr hbad
  rw [State.issue, hat, hp]
  simp only [State.issueAt, ht, hno, if_true, fIllegal]

/-- An address that may not be executed: the translation's fault. -/
theorem State.issue_unfetched {cls : Nat} (ht : s.translate a.core a.b.ctx a.sub.pc.toNat .fetch = (s1, .error cls))
    (rep uni ok : Bool) (us : List Use) (body : At → State → Did) :
    s.issue sg gf rep uni ok us body = a.issued (a.fault s1 cls a.sub.pc.toNat) := by
  rw [State.issue, hat, hp]
  simp only [State.issueAt, ht]

end

/-! ## Operands -/

theorem usesOk_of_bad {regs : Nat} {uni : Bool} {us : List Use} {u : Use} (hu : u ∈ us) (h : Use.ok regs u = false) :
    usesOk regs uni us = false := by
  have : us.all (Use.ok regs) = false := List.all_eq_false.mpr ⟨u, hu, by rw [h]; decide⟩
  rw [usesOk, this, Bool.false_and]

/-- A field without a use must hold ZERO. -/
theorem Use.ok_unused {regs : Nat} {f : BitVec 9} (h : fileOf f ≠ (.zero, 0)) : Use.ok regs (.unused f) = false := by
  have hfile : (fileOf f).1 ≠ .zero := by
    intro hz
    refine h (Prod.ext hz ?_)
    unfold fileOf at hz ⊢
    simp only [] at hz ⊢
    split_ifs at hz ⊢
    rfl
  simp [Use.ok, Use.unused, hfile]

/-- A destination outside every file, or a t register outside the allocation (R126, R133). -/
theorem Use.ok_dest {regs n : Nat} {f : BitVec 9} (hn : 0 < n)
    (h : fileOf f = (.reserved, 0) ∨ ∃ k, fileOf f = (.t, k) ∧ min 255 (8 * ((regs + 7) / 8)) ≤ k) :
    Use.ok regs (.dest f n) = false := by
  rcases h with h | ⟨k, h, hk⟩
  · simp [Use.ok, Use.dest, h]
  · have hlimit : tLimit regs ≤ k := hk
    simp only [Use.ok, Use.dest, h, Bool.and_eq_false_iff, decide_eq_false_iff_not]
    exact .inr (.inr (by omega))

theorem wRegs_pos (f : FormR) : 0 < wRegs f := by
  unfold wRegs
  split <;> decide

theorem noOperands_bad {regs : Nat} {f : FormR} (h : fileOf f.d ≠ (.zero, 0) ∨ fileOf f.a ≠ (.zero, 0)) :
    usesOk regs false (noOperands f) = false := by
  rcases h with h | h <;> exact usesOk_of_bad (by simp [noOperands]) (Use.ok_unused h)

/-! ## The clauses -/

section
variable {s s1 : State} {sg : SgRef} {a : At} (hp : sg.partner = none)
include hp

/-- An opcode that no table lists. -/
theorem exec_undefinedInstruction {w : DWord} (hat : s.at? sg.core sg.blk sg.grp sg.lane (BitVec.ofNat 4 (fld w 46 4)) = some a)
    {u : Where × Bool} (ht : s.translate a.core a.b.ctx a.sub.pc.toNat .fetch = (s1, .ok u))
    (hop : definedOpcode (fld w 56 8) = false) :
    exec (.undefinedInstruction sg w) s = .next (a.issued (a.fault s1 5 a.sub.pc.toNat)) := by
  show execUndefinedInstruction sg w s = _
  rw [execUndefinedInstruction, hop, hp, if_neg (by decide), State.issue_illegal hp hat ht (.inl rfl)]

variable {f : FormR} (hat : s.at? sg.core sg.blk sg.grp sg.lane f.g = some a)
include hat

/-- NOP and END with a field that is not 0 or ZERO. -/
theorem exec_nop_end_illegal {u : Where × Bool} (ht : s.translate a.core a.b.ctx a.sub.pc.toNat .fetch = (s1, .ok u))
    (h : f.ctl ≠ 0 ∨ f.mod ≠ 0 ∨ fileOf f.d ≠ (.zero, 0) ∨ fileOf f.a ≠ (.zero, 0)) :
    exec (.nop sg f) s = .next (a.issued (a.fault s1 5 a.sub.pc.toNat))
      ∧ exec (.endThread sg f) s = .next (a.issued (a.fault s1 5 a.sub.pc.toNat)) := by
  have hbad : plainR f = false ∨ usesOk a.b.regs false (noOperands f) = false := by
    rcases h with h | h | h
    · exact .inl (Bool.and_eq_false_iff.mpr (.inr (beq_false_of_ne h)))
    · exact .inl (Bool.and_eq_false_iff.mpr (.inl (beq_false_of_ne h)))
    · exact .inr (noOperands_bad h)
  exact ⟨congrArg Host.Outcome.next (State.issue_illegal hp hat ht hbad ..),
    congrArg Host.Outcome.next (State.issue_illegal hp hat ht hbad ..)⟩

/-- A computing instruction of format R with CTL set, or a destination that is no register of the thread. -/
theorem State.aluR_illegal {u : Where × Bool} (ht : s.translate a.core a.b.ctx a.sub.pc.toNat .fetch = (s1, .ok u))
    (h : f.ctl ≠ 0 ∨ fileOf f.d = (.reserved, 0) ∨ ∃ k, fileOf f.d = (.t, k) ∧ min 255 (8 * ((a.b.regs + 7) / 8)) ≤ k)
    {n k : Nat} (hn : 0 < n) (mod : Bool) {us : List Use} (hu : Use.dest f.d n ∈ us) (op : Group → Nat → Nat) :
    s.aluR sg f (mod && f.ctl == 0) us k op = a.issued (a.fault s1 5 a.sub.pc.toNat) := by
  refine State.issue_illegal hp hat ht ?_ _ _
  rcases h with h | h
  · exact .inl (Bool.and_eq_false_iff.mpr (.inr (beq_false_of_ne h)))
  · exact .inr (usesOk_of_bad hu (Use.ok_dest hn h))

end

end Sys2Proof.Machine

open Sys2Proof Sys2Proof.Machine

/-- Settles O24: the checks before an instruction's own effect decide. -/
theorem illegalInstructions : Obligations.IllegalInstructions := by
  unfold Obligations.IllegalInstructions
  intro s sg gf a s1 hp hat
  refine ⟨fun w => ?_, fun w u hop hgf ht => ?_, fun f u hgf ht => ?_, fun f cls hgf ht => ?_⟩
  · rw [decodeThread_isSome, opcodeOf_eq]
  · exact exec_undefinedInstruction hp (hgf ▸ hat) ht hop
  · subst hgf
    refine ⟨exec_nop_end_illegal hp hat ht, fun h => ⟨?_, ?_, ?_, ?_⟩⟩
    · exact congrArg Host.Outcome.next (State.aluR_illegal hp hat ht h (wRegs_pos f) _ (by simp [use1]) _)
    · exact congrArg Host.Outcome.next (State.aluR_illegal hp hat ht h (wRegs_pos f) _ (by simp [use2]) _)
    · exact congrArg Host.Outcome.next (State.aluR_illegal hp hat ht h one_pos _ (by simp [use2]) _)
    · exact congrArg Host.Outcome.next (State.aluR_illegal hp hat ht h one_pos _ (by simp [use3]) _)
  · subst hgf
    exact ⟨congrArg Host.Outcome.next (State.issue_unfetched hp hat ht ..),
      congrArg Host.Outcome.next (State.issue_unfetched hp hat ht ..)⟩

end

section
/-! # Blocks released, splits changed, cores idle (O41)

ALLOCATION_RELEASE, SPLIT_CHANGE and CORE_IDLE by the branches of their definitions (R111, R158, R407). -/
namespace Sys2Proof.Machine
open Sys2Proof.Claims

/-! ## Dropping lines of a cache part -/

/-- Of the cores, the cache part of one alone differs. -/
def State.SameButLines (core : Nat) (s t : State) : Prop :=
  ∀ c, t.core c = { s.core c with cache := (t.core c).cache } ∧ (c ≠ core → t.core c = s.core c)

theorem State.SameButLines.refl (core : Nat) (s : State) : State.SameButLines core s s := fun _ => ⟨rfl, fun _ => rfl⟩

theorem State.SameButLines.trans {core : Nat} {s t u : State} (h : State.SameButLines core s t)
    (h' : State.SameButLines core t u) : State.SameButLines core s u := by
  intro c
  obtain ⟨ht, hto⟩ := h c
  obtain ⟨hu, huo⟩ := h' c
  refine ⟨?_, fun hc => (huo hc).trans (hto hc)⟩
  rw [hu, ht]

theorem State.SameButLines.of_cores {core : Nat} {s t : State} (h : t.cores = s.cores) : State.SameButLines core s t := by
  intro c
  rw [State.core_congr h]
  exact ⟨rfl, fun _ => rfl⟩

theorem State.setLine_sameButLines (s : State) (core k : Nat) (l : Option Line) :
    State.SameButLines core s (s.setLine core k l) := by
  intro c
  unfold State.setLine
  rw [State.core_modCore]
  split
  · next h => exact ⟨by rw [h], fun hc => absurd h hc⟩
  · exact ⟨rfl, fun _ => rfl⟩

theorem State.writeBack_sameButLines (s : State) (core k : Nat) : State.SameButLines core s (s.writeBack core k) := by
  rcases s.writeBack_cases core k with ⟨h, -⟩ | ⟨l, h⟩
  · rw [h]
    exact .refl core s
  · exact (s.setLine_sameButLines core k _).trans (.of_cores h.cores)

theorem State.evictAll_sameButLines (s : State) (core : Nat) : State.SameButLines core s (s.evictAll core) := by
  unfold State.evictAll
  generalize (s.core core).keys = ks
  induction ks generalizing s with
  | nil => exact .refl core s
  | cons k ks ih =>
    exact ((s.writeBack_sameButLines core k).trans (State.setLine_sameButLines _ core k none)).trans (ih _)

/-! ## ALLOCATION_RELEASE -/

section
variable {s : State} {core blk : Nat} {b : Block} (hb : s.block core blk = some b)
include hb

theorem exec_allocationRelease_held (h : b.live = true ∨ s.blockBusy core blk = true) :
    exec (.allocationRelease core blk) s = .next s := by
  show execAllocationRelease core blk s = _
  simp only [execAllocationRelease, hb, Bool.or_eq_true, if_pos h]

theorem next_allocationRelease (hlive : b.live = false) (hbusy : s.blockBusy core blk = false) :
    Next (.allocationRelease core blk) s fun t =>
      t.block core blk = none ∧ (∀ c k, (c, k) ≠ (core, blk) → t.block c k = s.block c k)
        ∧ t.launchOf b.launch = (s.launchOf b.launch).map (fun l => { l with released := l.released + 1 })
        ∧ (t.part (core / 192)).idleSince = s.lcount
        ∧ t = { s with cores := t.cores, launches := t.launches, power := t.power } := by
  have hex : exec (.allocationRelease core blk) s = .next
      { (s.setBlock core blk none).setPart (core / 192) fun p => { p with idleSince := s.lcount } with
        launches := Sparse.modify (fun _ => none) s.launches b.launch fun l => l.map fun l => { l with released := l.released + 1 } } := by
    show execAllocationRelease core blk s = _
    simp only [execAllocationRelease, hb, hlive, hbusy, Bool.or_self, Bool.false_eq_true, if_false]
    rfl
  refine ⟨_, hex, ?_, fun c k h => ?_, ?_, ?_, rfl⟩
  · exact (State.block_of_cores (s := s.setBlock core blk none) rfl _ _).trans
      ((State.block_setBlock _ _ _ _ _ _).trans (if_pos ⟨rfl, rfl⟩))
  · exact (State.block_of_cores (s := s.setBlock core blk none) rfl _ _).trans
      ((State.block_setBlock _ _ _ _ _ _).trans (if_neg fun hh => h (Prod.ext hh.1 hh.2)))
  · exact (Sparse.get_modify ..).trans (if_pos rfl)
  · exact congrArg Partition.idleSince ((State.part_setPart (s.setBlock core blk none) ..).trans (if_pos rfl))

end

/-! ## SPLIT_CHANGE -/

theorem Sparse.mem_of_get {α : Type} {m : Sparse (Option α)} {k : Nat} {v : α}
    (h : Sparse.get (fun _ => none) m k = some v) : (k, some v) ∈ m := by
  induction m with
  | nil => cases h
  | cons p m ih =>
    rw [Sparse.get] at h
    split at h
    · next hk => exact List.mem_cons.mpr (.inl (Prod.ext hk h.symm))
    · exact List.mem_cons_of_mem _ (ih h)

/-- A launch that still has blocks to place and may run wants its split. -/
theorem State.splitWanted_of_launch {s : State} {k : Nat} {l : Launch}
    (hl : Sparse.get (fun _ => none) s.launches k = some l) (hun : l.unplaced = true) (hrun : s.ctxRuns l.ctx = true) :
    s.splitWanted l.split = true :=
  List.any_eq_true.mpr ⟨(k, some l), Sparse.mem_of_get hl, by simp [hun, hrun]⟩

section
variable {s : State} {core split : Nat}

theorem exec_splitChange_unwanted (h : s.splitWanted split = false) : exec (.splitChange core split) s = .next s := by
  show execSplitChange core split s = _
  simp only [execSplitChange, h, Bool.not_false, Bool.true_or, if_true]

variable (hwant : s.splitWanted split = true) (hne : (s.core core).split ≠ split) (hcore : s.corePresent core = true)
include hwant hne hcore

/-- While blocks are resident the core notes the split that it will change to. -/
theorem next_splitChange_held (h : (s.core core).held ≠ []) : Next (.splitChange core split) s fun t =>
    t.core core = { s.core core with newSplit := some split } ∧ (∀ c, c ≠ core → t.core c = s.core c) ∧ OnlyCores s t := by
  have hex : exec (.splitChange core split) s = .next (s.modCore core fun c => { c with newSplit := some split }) := by
    show execSplitChange core split s = _
    simp [execSplitChange, hwant, hcore, hne, h]
  exact ⟨_, hex, (State.core_modCore ..).trans (if_pos rfl), fun c hc => (State.core_modCore ..).trans (if_neg hc), rfl⟩

/-- Once none is, the split applies, and the cache part is empty. -/
theorem next_splitChange_empty (h : (s.core core).held = []) : Next (.splitChange core split) s fun t =>
    (t.core core).split = split ∧ (t.core core).newSplit = none ∧ (t.core core).cache = []
      ∧ (t.core core).blocks = (s.core core).blocks ∧ (∀ c, c ≠ core → t.core c = s.core c) := by
  have hex : exec (.splitChange core split) s =
      .next ((s.evictAll core).modCore core fun c => { c with split := split, newSplit := none, cache := [] }) := by
    show execSplitChange core split s = _
    simp [execSplitChange, hwant, hcore, hne, h]
  obtain ⟨hhere, -⟩ := s.evictAll_sameButLines core core
  refine ⟨_, hex, ?_⟩
  beta_reduce
  rw [State.core_modCore, if_pos rfl]
  refine ⟨rfl, rfl, rfl, ?_, fun c hc => ?_⟩
  · show ((s.evictAll core).core core).blocks = _
    rw [hhere]
  · exact ((State.core_modCore ..).trans (if_neg hc)).trans ((s.evictAll_sameButLines core c).2 hc)

end

/-! ## CORE_IDLE -/

section
variable {s : State} {core : Nat}

theorem next_coreIdle (hheld : (s.core core).held = []) (hops : (s.core core).arrayOps = []) (hcopies : (s.core core).copies = [])
    (hcore : s.corePresent core = true) : Next (.coreIdle core) s fun t =>
      t.core core = { s.core core with stopped := true } ∧ (∀ c, c ≠ core → t.core c = s.core c) ∧ OnlyCores s t := by
  have hex : exec (.coreIdle core) s = .next (s.modCore core fun c => { c with stopped := true }) := by
    show execCoreIdle core s = _
    simp [execCoreIdle, hheld, hops, hcopies, hcore]
  exact ⟨_, hex, (State.core_modCore ..).trans (if_pos rfl), fun c hc => (State.core_modCore ..).trans (if_neg hc), rfl⟩

theorem exec_coreIdle_busy (h : (s.core core).held ≠ [] ∨ (s.core core).copies ≠ []) :
    exec (.coreIdle core) s = .next s := by
  show execCoreIdle core s = _
  rcases h with h | h <;> simp [execCoreIdle, h]

end

end Sys2Proof.Machine

open Sys2Proof Sys2Proof.Machine

/-- Settles O41, command by command. -/
theorem blocksReleased : Obligations.BlocksReleased := by
  unfold Obligations.BlocksReleased
  intro s core blk split b
  refine ⟨fun hb => exec_allocationRelease_held hb, fun hb => next_allocationRelease hb, ?_, fun h => ?_,
    fun hheld hops hcopies hcore => next_coreIdle hheld hops hcopies hcore, exec_coreIdle_busy⟩
  · rintro ⟨k, l, hl, rfl, hun, hrun⟩ hne hcore
    have hwant := State.splitWanted_of_launch hl hun hrun
    exact ⟨next_splitChange_held hwant hne hcore, next_splitChange_empty hwant hne hcore⟩
  · exact exec_splitChange_unwanted (by rw [State.splitWanted, h]; rfl)

end

section
/-! # Where control instructions put threads (O10)

JMP, CALL, JMPR, END, CEDE, NOP and RALLY (R116, R117, R120, R149, R152): each is one change of the issuing group, and joins that
are complete take place with it. A RALLY that completes a join does so at once (log 75). -/
namespace Sys2Proof.Machine
open Sys2Proof.Claims

/-! ## Sub-groups and split records, whatever the registers -/

/-- Two groups have the same sub-groups and split records. -/
def Group.SameFlow (g h : Group) : Prop := h.subs = g.subs ∧ h.splits = g.splits ∧ h.nextSplit = g.nextSplit

theorem Group.SameFlow.trans {g h k : Group} (a : g.SameFlow h) (b : h.SameFlow k) : g.SameFlow k :=
  ⟨b.1.trans a.1, b.2.1.trans a.2.1, b.2.2.trans a.2.2⟩

theorem Group.SameRegs.symm {g h : Group} (a : g.SameRegs h) : h.SameRegs g := by
  obtain ⟨ht, hu, hp, hh, hl⟩ := a
  exact ⟨ht.symm, hu.symm, hp.symm, hh.symm, hl.symm⟩

theorem Group.wr_sameFlow (g : Group) (f : BitVec 9) (l i : Nat) (v : Word) : g.SameFlow (g.wr f l i v) := by
  unfold Group.wr
  split <;> exact ⟨rfl, rfl, rfl⟩

theorem Group.put_sameFlow (g : Group) (f : BitVec 9) (l v n : Nat) : g.SameFlow (g.put f l v n) := by
  induction n with
  | zero => exact ⟨rfl, rfl, rfl⟩
  | succ n ih => exact ih.trans (Group.wr_sameFlow _ _ _ _ _)

theorem Group.putLanes_sameFlow (g : Group) (f : BitVec 9) (n : Nat) (vals : List (Nat × Nat)) :
    g.SameFlow (g.putLanes f n vals) := by
  unfold Group.putLanes
  induction vals generalizing g with
  | nil => exact ⟨rfl, rfl, rfl⟩
  | cons p ps ih => exact (g.put_sameFlow f p.1 p.2 n).trans (ih _)

section
variable {g h : Group}

theorem Group.SameFlow.replace (hf : g.SameFlow h) (lane : Nat) (xs : List Sub) :
    (g.replace lane xs).SameFlow (h.replace lane xs) := by
  obtain ⟨hs, hj, hn⟩ := hf
  exact ⟨by rw [Group.replace, Group.replace, hs], hj, hn⟩

theorem Group.SameFlow.mergeAt (hf : g.SameFlow h) (r : Nat) (j : DWord) : (g.mergeAt r j).SameFlow (h.mergeAt r j) := by
  obtain ⟨hs, hj, hn⟩ := hf
  simp only [Group.mergeAt, Group.under, hs, hj]
  split <;> exact ⟨rfl, rfl, hn⟩

/-- Which joins are complete depends on sub-groups and split records alone (R117). -/
theorem Group.SameFlow.settle (hf : g.SameFlow h) (n : Nat) : (Group.settle n g).SameFlow (Group.settle n h) := by
  induction n generalizing g h with
  | zero => exact hf
  | succ n ih =>
    have harrive : h.arrive = g.arrive := by
      funext x
      rw [Group.arrive, Group.arrive, hf.2.1]
    have harrived : g.arrived.SameFlow h.arrived := ⟨by rw [Group.arrived, Group.arrived, harrive, hf.1], hf.2.1, hf.2.2⟩
    have hready : h.arrived.joinReady = g.arrived.joinReady := by
      funext r
      rw [Group.joinReady, Group.joinReady, Group.under, Group.under, harrived.1]
    have hsame : (h.splits.find? fun p => h.arrived.joinReady p.1) = g.splits.find? fun p => g.arrived.joinReady p.1 := by
      rw [hready, hf.2.1]
    cases hfind : g.splits.find? fun p => g.arrived.joinReady p.1 with
    | some p =>
      rw [Group.settle_of_ready hfind, Group.settle_of_ready (hsame.trans hfind)]
      exact ih (harrived.mergeAt p.1 p.2)
    | none =>
      rw [Group.settle_of_none hfind, Group.settle_of_none (hsame.trans hfind)]
      exact harrived

theorem Group.SameFlow.joined (hf : g.SameFlow h) : g.joined.SameFlow h.joined := by
  rw [Group.joined, Group.joined, hf.2.1]
  exact hf.settle _

end

/-! ## Parts of a sub-group -/

/-- A group once the threads of the issuing sub-group go on in parts from the count `now` (R116, R117). -/
def At.partedFrom (a : At) (now : DWord) (g : Group) (join : Option DWord) (parts : List (BitVec 32 × DWord)) : Group :=
  let sub (stack : List Nat) (p : BitVec 32 × DWord) : Sub := { a.sub with mask := p.1, pc := p.2, stack := stack, since := now }
  match parts, join with
  | [p], _ => g.replace a.sub.lane [sub a.sub.stack p]
  | ps, none => g.replace a.sub.lane (ps.map (sub a.sub.stack))
  | ps, some j =>
    { g with splits := g.splits ++ [(g.nextSplit, j)], nextSplit := g.nextSplit + 1 }.replace a.sub.lane
      (ps.map (sub (g.nextSplit :: a.sub.stack)))

section
variable (a : At) (s : State)

theorem At.parted_eq (join : Option DWord) (parts : List (BitVec 32 × DWord)) :
    parted a s join parts = a.partedFrom s.lcount (a.groupIn s) join parts := by
  unfold parted At.partedFrom
  rfl

theorem At.goto_eq (pc : DWord) (join : Option DWord) :
    a.goto s pc = a.modGroup s fun g => (a.partedFrom s.lcount g join [(a.sub.mask, pc)]).joined := rfl

theorem At.splitTo_eq (join : Option DWord) {parts : List (BitVec 32 × DWord)} (h : parts.length ≠ 1) :
    a.splitTo s join parts = a.modGroup s fun g => (a.partedFrom s.lcount g join parts).joined := by
  match parts, join, h with
  | [], none, _ => rfl
  | [], some _, _ => rfl
  | [_], _, h => exact absurd rfl h
  | _ :: _ :: _, none, _ => rfl
  | _ :: _ :: _, some _, _ => rfl

/-- A branch (R116): the threads that take part at one address, the others in sequence. -/
theorem At.branch_eq (f : FormB) (target : DWord) :
    a.branch s f target = a.modGroup s fun g => (a.partedFrom s.lcount g (joinOf a f) (towards a target)).joined := by
  unfold At.branch towards
  split
  · next h => rw [show others a = 0 from h, if_pos rfl]; exact a.goto_eq s target _
  · next h => rw [if_neg (show others a ≠ 0 from h)]; exact a.splitTo_eq s _ (by simp)

end

theorem At.partedFrom_sameRegs (a : At) (now : DWord) (g : Group) (join : Option DWord) (parts : List (BitVec 32 × DWord)) :
    g.SameRegs (a.partedFrom now g join parts) := by
  unfold At.partedFrom
  simp only []
  split <;> exact ⟨rfl, rfl, rfl, rfl, rfl⟩

theorem Group.SameFlow.partedFrom {g h : Group} (hf : g.SameFlow h) (a : At) (now : DWord) (join : Option DWord)
    (parts : List (BitVec 32 × DWord)) : (a.partedFrom now g join parts).SameFlow (a.partedFrom now h join parts) := by
  obtain ⟨hs, hj, hn⟩ := hf
  unfold At.partedFrom
  simp only [hj, hn]
  split
  · exact Group.SameFlow.replace ⟨hs, hj, hn⟩ _ _
  · exact Group.SameFlow.replace ⟨hs, hj, hn⟩ _ _
  · apply Group.SameFlow.replace
    exact ⟨hs, rfl, rfl⟩

/-! ## An instruction that sets the sub-groups of its group itself -/

/-- An effect on cores alone leaves what issuing itself changes. -/
theorem At.flowed_onlyIssued (a : At) {old s u : State} (us : List Use) (ho : old.reqs = s.reqs) (h : OnlyCores s u) :
    a.OnlyIssued us s (a.issued (a.supersede old u us)) := by
  obtain ⟨heq, hturn⟩ := At.issued_onlyDraws a (us := us) old ho (t := u) (by rw [h])
  have hfree : (a.issued (a.supersede old u us)).freeCtr = s.freeCtr := by
    rw [At.supersede_eq, h]
    rfl
  exact ⟨heq.trans (by rw [hfree]), hturn⟩

section
variable (a : At) (old : State) (us : List Use) {u : State} {x : Block} (h : u.block a.core a.blk = some x) (F : Group → Group)
include h

theorem At.groupIn_flowed : a.groupIn (a.issued (a.supersede old (a.modGroup u F) us)) = F (a.groupIn u) := by
  rw [At.groupIn_issued, ← At.groupIn_modGroup a u F h]
  exact State.group_of_cores (a.supersede_cores old _ us) _ _ _

theorem At.flowed_kept : a.OtherGroupsKept u (a.issued (a.supersede old (a.modGroup u F) us)) :=
  ((At.modGroup_kept a u F h).trans (.of_cores (a.supersede_cores old _ us))).trans (At.issued_kept a _)

end

section
variable {s s1 : State} {sg : SgRef} {gf : BitVec 4} {us : List Use} {a : At}
  (h : s.issuing sg gf false us = some (a, s1))
include h

/-- The group is changed by `F`, and what issuing itself changes. -/
theorem next_flow {c : Instr} {body : At → State → Did} {F : Group → Group} {rep : Bool} {G : Group}
    (hex : exec c s = .next (s.issue sg gf rep false true us body)) (hbody : body a s1 = .flow (a.modGroup s1 F))
    (hG : F (a.groupIn s1) = G) :
    ∃ t, exec c s = .next t ∧ a.groupIn t = G ∧ a.OtherGroupsKept s1 t ∧ a.OnlyIssued us s1 t := by
  obtain ⟨⟨x, hblk, -⟩, -⟩ := State.issuing_block h
  rw [State.issue_of_issuing h, hbody] at hex
  exact ⟨_, hex, (a.groupIn_flowed s us hblk F).trans hG, a.flowed_kept s us hblk F,
    a.flowed_onlyIssued us (State.issuing_reqs h).symm (State.modGroup_onlyCores ..)⟩

/-- The instruction has no effect: its threads go on in sequence. -/
theorem next_inSequence {c : Instr} {rep : Bool} (hex : exec c s = .next (s.issue sg gf rep false true us fun _ s => .done s)) :
    ∃ t, exec c s = .next t ∧ a.groupIn t = (parted a s1 none [(a.sub.mask, a.sub.pc + 8)]).joined
      ∧ a.OtherGroupsKept s1 t ∧ a.OnlyIssued us s1 t := by
  obtain ⟨⟨x, hblk, -⟩, -⟩ := State.issuing_block h
  rw [State.issue_done h rep rfl] at hex
  refine ⟨_, hex, At.groupIn_finished a s us hblk, At.finished_kept a s us hblk,
    At.finished_onlyIssued a us (State.issuing_reqs h).symm rfl⟩

end

/-! ## The rows -/

theorem next_jmp {s s1 : State} {sg : SgRef} {f : FormB} {a : At} (hm : f.mod = 0)
    (h : s.issuing sg f.g false [.unused f.a] = some (a, s1)) :
    ∃ t, exec (.jmp sg f) s = .next t
      ∧ a.groupIn t = (parted a s1 (joinOf a f) (towards a (away a (signedOf 21 f.tgt.toNat)))).joined
      ∧ a.OtherGroupsKept s1 t ∧ a.OnlyIssued [.unused f.a] s1 t := by
  have hex : exec (.jmp sg f) s = .next (s.issue sg f.g false false true [.unused f.a] fun a s =>
      .flow (a.branch s f (a.target (signedOf 21 f.tgt.toNat)))) := by
    rw [← show (f.mod == 0) = true from beq_iff_eq.mpr hm]
    rfl
  exact next_flow h hex (congrArg Did.flow (a.branch_eq s1 f _)) (congrArg Group.joined (a.parted_eq s1 ..).symm)

/-- The distinct targets of the threads, and a part for each. -/
theorem At.lanesWith_each (a : At) (n : Nat → Nat) (v : Nat) :
    lanesWith (a.each n) v = maskBy fun i => a.lanes.any fun j => j == i && n j == v := by
  simp only [lanesWith, At.each, List.any_map]
  rfl

theorem eraseDups_ne_nil {l : List Nat} (h : l ≠ []) : l.eraseDups ≠ [] := by
  cases l with
  | nil => exact absurd rfl h
  | cons x l => simp [List.eraseDups_cons]

theorem next_jmpr {s s1 : State} {sg : SgRef} {f : FormB} {a : At} (hm : f.mod = 0) (htgt : f.tgt = 0)
    (h : s.issuing sg f.g false [.src f.a 2] = some (a, s1)) :
    ∃ t, exec (.jmpr sg f) s = .next t ∧ a.groupIn t = (parted a s1 (joinOf a f) (towardsEach a f)).joined
      ∧ a.OtherGroupsKept s1 t ∧ a.OnlyIssued [.src f.a 2] s1 t := by
  obtain ⟨-, -, -, -, -, -, -, hm0, -⟩ := State.issuing_spec h
  have hex : exec (.jmpr sg f) s = .next (s.issue sg f.g false false (f.mod == 0 && f.tgt == 0) [.src f.a 2] _) := rfl
  rw [show (f.mod == 0 && f.tgt == 0) = true by rw [hm, htgt]; rfl] at hex
  refine next_flow h hex (F := fun g => (a.partedFrom s1.lcount g (joinOf a f) (towardsEach a f)).joined) ?_
    (congrArg Group.joined (a.parted_eq s1 ..).symm)
  have hsnd (n : Nat → Nat) : (a.each n).map Prod.snd = a.lanes.map n := by
    rw [At.each, List.map_map]
    rfl
  have hne : (a.lanes.map fun i => a.g.val f.a i 2 / 8 * 8).eraseDups ≠ [] :=
    eraseDups_ne_nil fun hnil => lanesOf_ne_nil hm0 (List.map_eq_nil_iff.mp hnil)
  simp only [hsnd, At.lanesWith_each, towardsEach]
  rw [show a.rest = others a from rfl]
  generalize (a.lanes.map fun i => a.g.val f.a i 2 / 8 * 8).eraseDups = ts at hne ⊢
  split
  · exact congrArg Did.flow (a.goto_eq s1 _ _)
  · next hparts =>
    have hpos := List.length_pos_iff.mpr hne
    refine congrArg Did.flow ?_
    split
    · next h0 =>
      rw [List.append_nil]
      exact a.splitTo_eq s1 _ (by rw [List.length_map]; exact fun h1 => hparts ⟨h0, h1.le⟩)
    · exact a.splitTo_eq s1 _ (by simp only [List.length_append, List.length_map, List.length_singleton]; omega)

/-- Values on which the lanes agree are written without a draw (R131). -/
theorem At.put_of_agree (a : At) (s : State) (d : BitVec 9) (n : Nat) {vals : List (Nat × Nat)} (h : agree vals = true) :
    a.put s d n vals = a.modGroup s fun g => g.putLanes d n vals := by
  rw [At.put, State.putVals, h, if_neg (by simp)]
  rfl

/-- What an operand was given stays in it while no register changes. -/
theorem At.WroteRegs.of_sameRegs {a : At} {s t u : State} {d : BitVec 9} {n : Nat} {vals : List (Nat × Nat)}
    (h : a.WroteRegs s t d n vals) (hs : (a.groupIn t).SameRegs (a.groupIn u)) (ho : a.OtherGroupsKept s u) :
    a.WroteRegs s u d n vals := by
  obtain ⟨ht, hu, hp, hh, hl⟩ := id hs
  refine ⟨fun hf p hp => ?_, fun hf hne k hk i => ?_, fun i hi k hk => ?_, fun k hk => ?_, hp.trans h.pKept, hh.trans h.hKept,
    hl.trans h.lstatKept, ho⟩
  · rw [Group.val_congr hs, h.inT hf p hp]
  · rw [Group.val_congr hs, h.inU hf hne k hk]
  · rw [← h.tKept i hi k hk, Group.treg, ht, Group.treg]
  · rw [← h.uKept k hk, Group.ureg, hu, Group.ureg]

/-- The state once CALL has written its return address. -/
def At.called (a : At) (s : State) (f : FormB) : State := a.put s f.a 2 (a.each fun _ => (a.sub.pc + 8).toNat)

/-- Where CALL and JMP send the threads of the group `g`, from the count `now`. -/
def At.branchFrom (a : At) (f : FormB) (now : DWord) (g : Group) : Group :=
  (a.partedFrom now g (joinOf a f) (towards a (away a (signedOf 21 f.tgt.toNat)))).joined

section
variable (a : At) (s : State) (f : FormB)

theorem At.called_eq : a.called s f = a.modGroup s fun g => g.putLanes f.a 2 (a.each fun _ => (a.sub.pc + 8).toNat) :=
  a.put_of_agree s f.a 2 <| agree_of_const (k := (a.sub.pc + 8).toNat) fun p hp => by
    obtain ⟨i, -, rfl⟩ := List.mem_map.mp hp
    rfl

theorem At.called_onlyCores : OnlyCores s (a.called s f) := by
  rw [At.called_eq]
  exact State.modGroup_onlyCores ..

variable {a s} {x : Block} (h : s.block a.core a.blk = some x)
include h

theorem At.block_called : ∃ y, (a.called s f).block a.core a.blk = some y := by
  obtain ⟨y, hy, -⟩ := State.block_modGroup s a.core a.blk a.grp
    (fun g => g.putLanes f.a 2 (a.each fun _ => (a.sub.pc + 8).toNat)) h
  exact ⟨y, by rw [At.called_eq]; exact hy⟩

theorem At.groupIn_called_sameFlow : (a.groupIn s).SameFlow (a.groupIn (a.called s f)) := by
  rw [At.called_eq, a.groupIn_modGroup s _ h]
  exact Group.putLanes_sameFlow ..

theorem At.called_kept : a.OtherGroupsKept s (a.called s f) := by
  rw [At.called_eq]
  exact At.modGroup_kept a s _ h

end

/-- CALL: the return address is written, then the threads go where those of JMP go. -/
theorem exec_call {s s1 : State} {sg : SgRef} {f : FormB} {a : At} (hm : f.mod = 0)
    (h : s.issuing sg f.g false [.dest f.a 2] = some (a, s1)) :
    exec (.call sg f) s =
      .next (a.issued (a.supersede s (a.modGroup (a.called s1 f) (a.branchFrom f s1.lcount)) [.dest f.a 2])) := by
  have hex : exec (.call sg f) s = .next (s.issue sg f.g false false (f.mod == 0) [.dest f.a 2] _) := rfl
  have hbranch := a.branch_eq (a.called s1 f) f (away a (signedOf 21 f.tgt.toNat))
  rw [OnlyCores.lcount (a.called_onlyCores s1 f)] at hbranch
  rw [hex, beq_iff_eq.mpr hm, State.issue_of_issuing h]
  exact congrArg (fun u => Host.Outcome.next (a.issued (a.supersede s u [.dest f.a 2]))) hbranch

/-- CALL writes the return address, and its threads go where those of JMP go. -/
theorem next_call {s s1 : State} {sg : SgRef} {f : FormB} {a : At} (hm : f.mod = 0)
    (h : s.issuing sg f.g false [.dest f.a 2] = some (a, s1)) :
    ∃ t, exec (.call sg f) s = .next t
      ∧ a.WroteRegs s1 t f.a 2 (a.each fun _ => (a.sub.pc + 8).toNat)
      ∧ (a.groupIn t).subs = (parted a s1 (joinOf a f) (towards a (away a (signedOf 21 f.tgt.toNat)))).joined.subs
      ∧ (a.groupIn t).splits = (parted a s1 (joinOf a f) (towards a (away a (signedOf 21 f.tgt.toNat)))).joined.splits
      ∧ a.OnlyIssued [.dest f.a 2] s1 t := by
  obtain ⟨⟨x, hblk, -⟩, -⟩ := State.issuing_block h
  obtain ⟨y, hblk'⟩ := At.block_called f hblk
  have hgroup := a.groupIn_flowed s [.dest f.a 2] hblk' (a.branchFrom f s1.lcount)
  obtain ⟨hsubs, hsplits, -⟩ := ((At.groupIn_called_sameFlow f hblk).partedFrom a s1.lcount (joinOf a f)
    (towards a (away a (signedOf 21 f.tgt.toNat)))).joined
  rw [a.parted_eq]
  refine ⟨_, exec_call hm h, ?_, by rw [hgroup]; exact hsubs, by rw [hgroup]; exact hsplits,
    a.flowed_onlyIssued _ (State.issuing_reqs h).symm ((a.called_onlyCores s1 f).trans (State.modGroup_onlyCores ..))⟩
  obtain ⟨hwrote, -⟩ := At.put_wrote a s1 f.a 2 (a.each fun _ => (a.sub.pc + 8).toNat) hblk
    (fun p hp => by obtain ⟨i, hi, rfl⟩ := List.mem_map.mp hp; exact lanesOf_lt _ _ hi)
    (by rw [At.each_fst]; exact lanesOf_nodup _) a.next
  refine hwrote.of_sameRegs ((At.goto_same a _ a.next hblk').symm.trans ?_)
    ((At.called_kept f hblk).trans (a.flowed_kept s [.dest f.a 2] hblk' (a.branchFrom f s1.lcount)))
  rw [hgroup]
  exact (At.partedFrom_sameRegs a ..).trans (Group.joined_same _)

end Sys2Proof.Machine

open Sys2Proof Sys2Proof.Machine

/-- Settles O10, row by row. -/
theorem controlFlow : Obligations.ControlFlow := by
  unfold Obligations.ControlFlow
  intro s sg f r a s1
  refine ⟨next_jmp, next_call, next_jmpr, fun hm hc h => ?_, fun hm hc h => ?_⟩
  · have hplain : plainR r = true := by rw [plainR, hm, hc]; rfl
    refine ⟨next_flow h (rep := false) (by rw [← hplain]; rfl) rfl rfl, next_inSequence h (rep := false) (by rw [← hplain]; rfl),
      next_inSequence h (rep := false) (by rw [← hplain]; rfl)⟩
  · exact next_flow h (rep := false) (by
      rw [← show (modClear r.mod 1 && fld r.ctl 4 6 == 0) = true by simp [hm, hc]]; rfl) rfl rfl

end

section
/-! # An atomic on memory that a stale line overlays (O22)

The statement does not ask that a core's lines be in canonical form, one pair to a key. Where a list holds an empty pair in front of a
line of the same key, the place has no line, yet the slot shows that line's bytes (R164). AOP drops what the core has of the place
before it reads (R123), both pairs, so it sees the memory beneath and returns its value, not the one shown. -/
namespace Sys2Proof.Machine
open Sys2Proof.Claims

/-- Two pairs of one key: no line, and in front of the slot's first 64 bytes a line of ones. -/
def overlaidCache : Sparse (Option Line) :=
  [(0x20000000000, none),
    (0x20000000000, some { bytes := List.replicate 64 1, dirty := 0, ctx := 0, remote := none, slot := 0, org := .none })]

/-- One thread at 0x1000 whose registers are 0, of context 0, its allocation at the start of the slot. -/
def overlaidBlock : Block :=
  { launch := 0, ring := 0, ctx := 0, bid := (0, 0, 0), trank := 0, train := 1, base := 0x20000000000, ls := 0x1000, wb := false
    regs := 64, split := 0, threads := 1, groups := [(0, Group.start 1 0x1000)] }

/-- The reset state with that block and those lines on core 0, a cache part of 64 KiB, and the context's window cached. -/
def overlaid : State :=
  { State.reset with
    cores := [(0, { Core.idle with blocks := [(0, some overlaidBlock)], split := 1, cache := overlaidCache })]
    wcache := [(0, some [[0, 0, 0xFFFFFFFF, 0x7FFFFFFF, 0, 0, 0x1F, 0]])], nextLaunch := 1 }

def overlaidSg : SgRef := { core := 0, blk := 0, grp := 0, lane := 0 }

/-- Unsigned add of t4 to local store at t2, the old value to t8, without order. -/
def overlaidForm : FormR := { mod := 0, g := 0, d := 8, a := 2, b := 4, c := 0x180, ctl := 0 }

/-- The premises of the second clause that can be run, for what issues. -/
def overlaidPremises (a : At) (s1 s2 : State) (ps : List (Nat × Place)) : Bool :=
  decide (s1.acquiring a = false ∧ a.blocked s2 ps 4 true = false
    ∧ (ps.map Prod.fst = [0] ∧ ps.map (fun p => plainPlace s2 a.core p.2) = [some 0x20000000000])
    ∧ s2.anyPoison 0x20000000000 4 = false ∧ natLE (shown s2 0x20000000000 4) = 0x1010101
    ∧ (a.core = 0 ∧ a.blk = 0 ∧ a.grp = 0)
    ∧ (s2.defects = [] ∧ s2.crcOff = [] ∧ s2.sramBad = []) ∧ s2.cores.all fun c => c.2.captures == [none, none])

/-- The instruction issues, its one lane has its place in the slot's cache part, and the slot shows the ones. -/
theorem overlaid_issues : ∃ a s1 s2 ps, overlaid.issuing overlaidSg 0 false (useAop overlaidForm) = some (a, s1)
    ∧ a.places s1 0 4 .atomic (a.each fun i => a.address 0 2 0 i) = (s2, .ok ps) ∧ overlaidPremises a s1 s2 ps = true := by
  have hrun : ((overlaid.issuing overlaidSg 0 false (useAop overlaidForm)).any fun p =>
      match p.1.places p.2 0 4 .atomic (p.1.each fun i => p.1.address 0 2 0 i) with
      | (s2, .ok ps) => overlaidPremises p.1 p.2 s2 ps
      | _ => false) = true := by
    decide +kernel
  obtain ⟨⟨a, s1⟩, hissue, hplaces⟩ := (Option.any_eq_true ..).mp hrun
  split at hplaces
  · next s2 ps hps => exact ⟨a, s1, s2, ps, hissue, hps, hplaces⟩
  · cases hplaces

/-- It adds to the 0 beneath and returns it: no register receives the ones. -/
theorem overlaid_returns {t : State} (h : exec (.aop overlaidSg overlaidForm) overlaid = .next t) :
    (t.group 0 0 0).val 8 0 1 = 0 := by
  have hrun : (match exec (.aop overlaidSg overlaidForm) overlaid with | .next t => (t.group 0 0 0).val 8 0 1 | _ => 1) = 0 := by
    decide +kernel
  rwa [h] at hrun

/-- A drogue sample that no listed core keeps, no core keeps. -/
theorem State.captures_of_all {s : State} (h : (s.cores.all fun c => c.2.captures == [none, none]) = true) (c : Nat) :
    (s.core c).captures = [none, none] := by
  unfold State.core
  generalize s.cores = l at h
  induction l with
  | nil => rfl
  | cons p l ih =>
    obtain ⟨j, x⟩ := p
    obtain ⟨hx, hl⟩ := by simpa only [List.all_cons, Bool.and_eq_true, beq_iff_eq] using h
    rw [Sparse.get]
    split
    · exact hx
    · exact ih hl

end Sys2Proof.Machine

open Sys2Proof Sys2Proof.Machine

/-- Refutes O22: with an empty pair in front of a line of the same key, AOP returns the memory's value, not the line's that the slot
shows. -/
theorem not_atomicResult : ¬ Obligations.AtomicResult := by
  unfold Obligations.AtomicResult
  intro h
  obtain ⟨a, s1, s2, ps, hissue, hplaces, hprem⟩ := overlaid_issues
  obtain ⟨hacq, hblocked, ⟨hlane, hplace⟩, hpoison, hshown, ⟨hcore, hblk, hgrp⟩, hsound, hcapt⟩ := of_decide_eq_true hprem
  obtain ⟨-, hone⟩ := h overlaid overlaidSg overlaidForm a s1 s2 s2 ps (by decide) (by decide) (by decide) hissue hacq hplaces
    hblocked rfl
  obtain ⟨t, ht, ⟨u, -, hwrote⟩, -⟩ := hone 0 0x20000000000 hlane hplace ⟨hsound, State.captures_of_all hcapt⟩ hpoison
  have hval := hwrote.inT (by decide) _ (List.mem_singleton_self _)
  rw [At.groupIn, hcore, hblk, hgrp] at hval
  exact absurd ((overlaid_returns ht).symm.trans (hval.trans (congrArg (· % 2 ^ 32) hshown))) (by decide)

end

section
/-! # Block trains placed (O40)

BLOCK_PLACE places a launch's next train whole or not at all (R107, R109, R112, R113). Where a block's allocation lies is the module's
choice, the first place that is free (log 9), above the cache part at the bottom of the slot (log 88). -/
namespace Sys2Proof.Machine
open Sys2Proof.Claims

/-! ## Masks -/

/-- The bits below `n` of a mask's number. -/
def maskSum (f : Nat → Bool) (n : Nat) : Nat := (List.range n).foldl (fun a i => a + (if f i then 2 ^ i else 0)) 0

theorem maskSum_succ (f : Nat → Bool) (n : Nat) : maskSum f (n + 1) = maskSum f n + (if f n then 2 ^ n else 0) := by
  rw [maskSum, maskSum, List.range_succ, List.foldl_append]
  rfl

theorem maskSum_lt (f : Nat → Bool) (n : Nat) : maskSum f n < 2 ^ n := by
  induction n with
  | zero => exact Nat.one_pos
  | succ n ih =>
    rw [maskSum_succ, Nat.pow_succ]
    split <;> omega

theorem testBit_maskSum (f : Nat → Bool) {n j : Nat} (hj : j < n) : (maskSum f n).testBit j = f j := by
  induction n with
  | zero => omega
  | succ n ih =>
    rw [maskSum_succ]
    rcases Nat.lt_succ_iff_lt_or_eq.mp hj with h | rfl
    · split
      · rw [Nat.add_comm, Nat.testBit_two_pow_add_gt h, ih h]
      · exact ih h
    · have hfree : (maskSum f j).testBit j = false := Nat.testBit_lt_two_pow (maskSum_lt f j)
      cases hf : f j with
      | true => rw [if_pos rfl, Nat.add_comm, Nat.testBit_two_pow_add_eq, hfree, Bool.not_false]
      | false => exact hfree

theorem bitAt_maskBy (f : Nat → Bool) {j : Nat} (hj : j < 32) : bitAt (maskBy f) j = f j := by
  have hm : (maskBy f).toNat = maskSum f 32 := by
    rw [maskBy, BitVec.toNat_ofNat]
    exact Nat.mod_eq_of_lt (maskSum_lt f 32)
  rw [← testBit_maskSum f hj, bitAt, fld, bitsOf, hm, Nat.testBit, Nat.one_and_eq_mod_two, pow_one]
  rcases Nat.mod_two_eq_zero_or_one (maskSum f 32 >>> j) with h | h <;> rw [h] <;> rfl

/-! ## One block -/

/-- Where a core's allocation for one block of a launch starts. -/
def Core.baseFor (c : Core) (core : Nat) (l : Launch) : Nat := (c.place core l.split (1024 * l.lsKiB)).getD (sramBase core)

/-- A core once it has started a block. -/
def Core.withBlock (c : Core) (b : Block) : Core :=
  { c with blocks := Sparse.set (fun _ => none) c.blocks c.nextBlk (some b), nextBlk := c.nextBlk + 1, stopped := false
           newSplit := none }

/-- An allocation lies in the local-store part of the core's slot. -/
theorem Core.baseFor_in {c : Core} {core : Nat} {l : Launch} (h : (c.place core l.split (1024 * l.lsKiB)).isSome = true) :
    sramBase core + 65536 * l.split ≤ c.baseFor core l ∧ c.baseFor core l + 1024 * l.lsKiB ≤ sramBase core + 0x60000 := by
  obtain ⟨base, hbase⟩ := Option.isSome_iff_exists.mp h
  rw [Core.baseFor, hbase, Option.getD_some]
  obtain ⟨hlo, hhi, -⟩ := by simpa only [Bool.and_eq_true, decide_eq_true_eq] using List.find?_some hbase
  exact ⟨hlo, hhi⟩

/-- What placing blocks changes. -/
def State.OnlyPlaced (s t : State) : Prop :=
  t = { s with cores := t.cores, mem := t.mem, lost := t.lost, poison := t.poison }

theorem State.OnlyPlaced.trans {s t u : State} (h : s.OnlyPlaced t) (h' : t.OnlyPlaced u) : s.OnlyPlaced u := by
  unfold State.OnlyPlaced at *
  rw [h', h]

theorem State.touch_of_noSample {s : State} {core : Nat} (h : (s.core core).captures = [none, none]) (base n : Nat) :
    s.touch core base n = s := by
  simp [State.touch, forEach, h]

theorem State.zeroBlocks_onlyPlaced {s : State} (h : soundMem s) (a n : Nat) : s.OnlyPlaced (s.zeroBlocks a n) := by
  obtain ⟨hd, hc, hb⟩ := h
  unfold State.OnlyPlaced State.zeroBlocks State.freshen State.zeroMem
  simp only [hd, hc, hb, Sparse.forget, List.filter_nil]

theorem State.byte_zeroBlocks (s : State) (a n : Nat) {z : Nat} (hz : isRom z = false) :
    (s.zeroBlocks a n).byte z = if a ≤ z ∧ z < a + n then 0 else s.byte z := by
  rw [State.byte_eq, State.byte_eq, hz, if_neg Bool.false_ne_true, if_neg Bool.false_ne_true]
  simp only [State.zeroBlocks, State.freshen, State.zeroMem, lostAt_flatMap_cutLost, Sparse.get_forget, Bool.and_eq_true,
    decide_eq_true_eq]
  split <;> rfl

theorem State.poisoned_zeroBlocks (s : State) {a n z : Nat} (hz : z < a) : (s.zeroBlocks a n).poisoned z = s.poisoned z := by
  simp only [State.poisoned, State.zeroBlocks, State.freshen, State.zeroMem, Sparse.get_forget]
  rw [if_neg (by simp only [Bool.and_eq_true, decide_eq_true_eq]; omega)]

theorem soundMem_zeroBlocks {s : State} (h : soundMem s) (a n : Nat) : soundMem (s.zeroBlocks a n) := by
  rw [State.zeroBlocks_onlyPlaced h a n]
  exact h

theorem quietMem_of_onlyPlaced {s t : State} (h : quietMem s) (ht : s.OnlyPlaced t)
    (hc : ∀ c, (t.core c).captures = (s.core c).captures) : quietMem t :=
  ⟨by rw [ht]; exact h.1, fun c => (hc c).trans (h.2 c)⟩

/-- With sound memory and no pending sample a block's allocation is zeroed, its core starts it, and nothing else changes. -/
theorem State.placeBlock_eq {s : State} (hq : quietMem s) (launch : Nat) (l : Launch) (n rank core : Nat) :
    s.placeBlock launch l n rank core =
      (s.zeroBlocks ((s.core core).baseFor core l) (1024 * l.lsKiB)).modCore core fun c =>
        c.withBlock (startBlock l launch n rank ((s.core core).baseFor core l) s.lcount) := by
  obtain ⟨hsound, hcap⟩ := hq
  obtain ⟨-, -, hbad⟩ := soundMem_zeroBlocks hsound ((s.core core).baseFor core l) (1024 * l.lsKiB)
  have htouch := State.touch_of_noSample (s := s.zeroBlocks ((s.core core).baseFor core l) (1024 * l.lsKiB)) (core := core)
    (hcap core) ((s.core core).baseFor core l) (1024 * l.lsKiB)
  unfold State.placeBlock
  simp only []
  rw [show ((s.core core).place core l.split (1024 * l.lsKiB)).getD (sramBase core) = (s.core core).baseFor core l from rfl, htouch,
    hbad, Sparse.forget, List.filter_nil, ← hbad]
  rfl

/-! ## A train -/

/-- The block that member `p` of a train has started: its rank is `p.2`, its core `p.1`. -/
def State.memberBlock (s : State) (launch : Nat) (l : Launch) (p : Nat × Nat) : Block :=
  startBlock l launch (l.placed * l.train + p.2) p.2 ((s.core p.1).baseFor p.1 l) s.lcount

/-- `t` is `s` with the members `ps` of a train placed: each on its core with its allocation zeroed; other cores and DRAM are as they
were, and no byte that was 0 is another. -/
structure State.MembersPlaced (s t : State) (launch : Nat) (l : Launch) (ps : List (Nat × Nat)) : Prop where
  frame : s.OnlyPlaced t
  started : ∀ p ∈ ps, t.core p.1 = (s.core p.1).withBlock (s.memberBlock launch l p)
  zeroed : ∀ p ∈ ps, ∀ z, (s.core p.1).baseFor p.1 l ≤ z → z < (s.core p.1).baseFor p.1 l + 1024 * l.lsKiB → t.byte z = 0
  others : ∀ c, c ∉ ps.map Prod.fst → t.core c = s.core c
  zeroKept : ∀ z, isRom z = false → s.byte z = 0 → t.byte z = 0
  dramKept : ∀ z, isDram z = true → t.byte z = s.byte z
  poisonKept : ∀ z, isDram z = true → t.poisoned z = s.poisoned z

/-- The core can take one more block of the launch: it exists, and its local store has room. -/
def State.HasRoom (s : State) (l : Launch) (core : Nat) : Prop :=
  core < 1536 ∧ ((s.core core).place core l.split (1024 * l.lsKiB)).isSome = true

theorem State.HasRoom.of_takes {s : State} {l : Launch} {core : Nat} (h : s.coreTakes core l = true) : s.HasRoom l core := by
  simp only [State.coreTakes, Bool.and_eq_true] at h
  obtain ⟨⟨⟨⟨⟨⟨⟨⟨hpresent, -⟩, -⟩, -⟩, -⟩, -⟩, -⟩, -⟩, hplace⟩ := h
  obtain ⟨hlt, -⟩ := by simpa only [State.corePresent, Bool.and_eq_true, decide_eq_true_eq] using hpresent
  exact ⟨hlt, hplace⟩

/-- Its allocation lies in local SRAM: above DRAM and below the ROM. -/
theorem State.HasRoom.base_bounds {s : State} {l : Launch} {core : Nat} (h : s.HasRoom l core) :
    0x20000000000 ≤ (s.core core).baseFor core l ∧ (s.core core).baseFor core l + 1024 * l.lsKiB ≤ 0x20030000000 := by
  obtain ⟨hlt, hplace⟩ := h
  obtain ⟨hlo, hhi⟩ := Core.baseFor_in hplace
  rw [sramBase] at hlo hhi
  omega

theorem isRom_of_sram {z : Nat} (h : z < 0x20030000000) : isRom z = false := by
  simp [isRom]
  omega

theorem isRom_of_isDram {z : Nat} (h : isDram z = true) : isRom z = false :=
  isRom_of_sram (by have := of_decide_eq_true h; omega)

theorem State.placeBlock_placed {s : State} (hq : quietMem s) (launch : Nat) (l : Launch) {p : Nat × Nat} (hroom : s.HasRoom l p.1) :
    s.MembersPlaced (s.placeBlock launch l (l.placed * l.train + p.2) p.2 p.1) launch l [p] := by
  obtain ⟨hlo, hhi⟩ := hroom.base_bounds
  have hbyte {z : Nat} (hz : isRom z = false) :
      (s.placeBlock launch l (l.placed * l.train + p.2) p.2 p.1).byte z =
        if (s.core p.1).baseFor p.1 l ≤ z ∧ z < (s.core p.1).baseFor p.1 l + 1024 * l.lsKiB then 0 else s.byte z := by
    rw [State.placeBlock_eq hq, ← State.byte_zeroBlocks s _ _ hz]
    exact State.byte_congr rfl rfl z
  have hcore (c : Nat) : (s.placeBlock launch l (l.placed * l.train + p.2) p.2 p.1).core c =
      if c = p.1 then (s.core p.1).withBlock (s.memberBlock launch l p) else s.core c := by
    rw [State.placeBlock_eq hq, State.core_modCore]
    rfl
  refine ⟨?_, fun q hq' => ?_, fun q hq' z hz hz' => ?_, fun c hc => ?_, fun z hz h0 => ?_, fun z hz => ?_, fun z hz => ?_⟩
  · rw [State.placeBlock_eq hq]
    exact (State.zeroBlocks_onlyPlaced hq.1 _ _).trans rfl
  · obtain rfl := List.mem_singleton.mp hq'
    rw [hcore, if_pos rfl]
  · obtain rfl := List.mem_singleton.mp hq'
    rw [hbyte (isRom_of_sram (by omega)), if_pos ⟨hz, hz'⟩]
  · rw [hcore, if_neg fun h => hc (by simp [h])]
  · rw [hbyte hz]
    split
    · rfl
    · exact h0
  · have := of_decide_eq_true hz
    rw [hbyte (isRom_of_isDram hz), if_neg (by omega)]
  · have := of_decide_eq_true hz
    rw [State.placeBlock_eq hq, ← s.poisoned_zeroBlocks (a := (s.core p.1).baseFor p.1 l) (n := 1024 * l.lsKiB) (by omega)]
    rfl

theorem State.MembersPlaced.captures {s t : State} {launch : Nat} {l : Launch} {ps : List (Nat × Nat)}
    (h : s.MembersPlaced t launch l ps) (c : Nat) : (t.core c).captures = (s.core c).captures := by
  by_cases hc : c ∈ ps.map Prod.fst
  · obtain ⟨p, hp, rfl⟩ := List.mem_map.mp hc
    rw [h.started p hp, Core.withBlock]
  · rw [h.others c hc]

/-- Members on distinct cores are placed one after the other. -/
theorem State.forEach_placed {s : State} (hq : quietMem s) (launch : Nat) (l : Launch) {ps : List (Nat × Nat)}
    (hnodup : (ps.map Prod.fst).Nodup) (hroom : ∀ p ∈ ps, s.HasRoom l p.1) :
    s.MembersPlaced (forEach (fun s p => s.placeBlock launch l (l.placed * l.train + p.2) p.2 p.1) s ps) launch l ps := by
  induction ps generalizing s with
  | nil => exact ⟨rfl, by simp, by simp, fun _ _ => rfl, fun _ _ h => h, fun _ _ => rfl, fun _ _ => rfl⟩
  | cons p ps ih =>
    obtain ⟨hnot, hrest⟩ := List.nodup_cons.mp hnodup
    have hone := State.placeBlock_placed hq launch l (hroom p List.mem_cons_self)
    have hsame {q : Nat × Nat} (hmem : q ∈ ps) :
        (s.placeBlock launch l (l.placed * l.train + p.2) p.2 p.1).core q.1 = s.core q.1 :=
      hone.others q.1 fun h => hnot (List.mem_singleton.mp h ▸ List.mem_map_of_mem hmem)
    have hall := ih (quietMem_of_onlyPlaced hq hone.frame hone.captures) hrest fun q hmem => by
      rw [State.HasRoom, hsame hmem]
      exact hroom q (List.mem_cons_of_mem _ hmem)
    obtain ⟨hlo, hhi⟩ := (hroom p List.mem_cons_self).base_bounds
    refine ⟨hone.frame.trans hall.frame, fun q hmem => ?_, fun q hmem z hz hz' => ?_, fun c hc => ?_,
      fun z hz h0 => hall.zeroKept z hz (hone.zeroKept z hz h0), fun z hz => (hall.dramKept z hz).trans (hone.dramKept z hz),
      fun z hz => (hall.poisonKept z hz).trans (hone.poisonKept z hz)⟩
    · rcases List.mem_cons.mp hmem with rfl | hmem
      · exact (hall.others q.1 hnot).trans (hone.started q (List.mem_singleton_self q))
      · rw [show forEach _ s (p :: ps) = forEach _ _ ps from rfl, hall.started q hmem, State.memberBlock, hsame hmem, hone.frame]
        rfl
    · rcases List.mem_cons.mp hmem with rfl | hmem
      · exact hall.zeroKept z (isRom_of_sram (by omega)) (hone.zeroed q (List.mem_singleton_self q) z hz hz')
      · rw [← hsame hmem] at hz hz'
        exact hall.zeroed q hmem z hz hz'
    · obtain ⟨hc1, hc2⟩ := by simpa only [List.map_cons, List.mem_cons, not_or] using hc
      exact (hall.others c hc2).trans (hone.others c (by simpa using hc1))

/-! ## BLOCK_PLACE -/

theorem eraseDups_of_nodup {xs : List Nat} (h : xs.Nodup) : xs.eraseDups = xs := by
  induction xs with
  | nil => rfl
  | cons x xs ih =>
    obtain ⟨hx, hxs⟩ := List.nodup_cons.mp h
    rw [List.eraseDups_cons, List.filter_eq_self.mpr fun y hy => by simpa using fun he : y = x => hx (he ▸ hy), ih hxs]

theorem oneCluster_of_nodup {cores : List Nat} (hne : cores ≠ []) (hnodup : cores.Nodup)
    (h : ∀ c ∈ cores, c / 16 = cores.headD 0 / 16) :
    oneCluster cores = true := by
  cases cores with
  | nil => exact absurd rfl hne
  | cons c cs =>
    rw [oneCluster, Bool.and_eq_true, List.all_eq_true, beq_iff_eq, eraseDups_of_nodup hnodup]
    exact ⟨fun x hx => beq_iff_eq.mpr (h x (List.mem_cons_of_mem _ hx)), rfl⟩

theorem cutTrains_nil (n k : Nat) : cutTrains n k [] = [] := by
  cases k <;> rfl

/-- As many cores as a train has members are one train. -/
theorem cutTrains_one {n : Nat} {cores : List Nat} (hlen : cores.length = n) (hne : cores ≠ []) :
    cutTrains n cores.length cores = [cores] := by
  cases cores with
  | nil => exact absurd rfl hne
  | cons c cs => simp [cutTrains, ← hlen, cutTrains_nil]

/-- A state whose launch has one train more on cores. -/
def State.countPlaced (s : State) (launch : Nat) (l : Launch) : State :=
  { s with launches := Sparse.set (fun _ => none) s.launches launch (some { l with placed := l.placed + 1 }) }

section
variable {s : State} {launch : Nat} {cores : List Nat} {l : Launch} (hl : s.launchOf launch = some l)
include hl

theorem State.placeTrain_refused (h : ∃ c ∈ cores, s.coreTakes c l = false) : s.placeTrain launch cores = none := by
  obtain ⟨c, hmem, hc⟩ := h
  have hall : (cores.all fun c => s.coreTakes c l) = false := List.all_eq_false.mpr ⟨c, hmem, by rw [hc]; exact Bool.false_ne_true⟩
  rw [State.placeTrain, hl]
  exact if_pos (.inr (.inr (.inr hall)))

/-- Placing is held back: the launch, its context or the number of cores named forbids it. -/
theorem exec_blockPlace_held (h : s.earlierLaunch launch l = true ∨ s.ctxRuns l.ctx = false ∨ s.mayLaunch l.ctx = false
    ∨ (l.resident = true ∧ cores.length ≠ l.gx * l.gy * l.gz) ∨ (l.resident = false ∧ cores.length ≠ l.train)) :
    exec (.blockPlace launch cores) s = .next s := by
  show execBlockPlace launch cores s = _
  simp only [execBlockPlace, hl]
  exact if_pos h

section
variable (hlen : cores.length = l.train) (hall : l.resident = true → l.train = l.gx * l.gy * l.gz)
include hlen hall

/-- A train's cores are named and nothing holds it back: BLOCK_PLACE places that train, or nothing. -/
theorem exec_blockPlace_train (hne : cores ≠ []) (hearlier : s.earlierLaunch launch l = false) (hctx : s.ctxRuns l.ctx = true)
    (hmay : s.mayLaunch l.ctx = true) : exec (.blockPlace launch cores) s = .next ((s.placeTrain launch cores).getD s) := by
  show execBlockPlace launch cores s = _
  simp only [execBlockPlace, hl]
  rw [if_neg, cutTrains_one hlen hne, State.placeTrains]
  · cases s.placeTrain launch cores <;> rfl
  · rintro (h | h | h | ⟨hres, h⟩ | ⟨-, h⟩)
    · exact absurd (hearlier.symm.trans h) (by decide)
    · exact absurd (hctx.symm.trans h) (by decide)
    · exact absurd (hmay.symm.trans h) (by decide)
    · exact h (hlen.trans (hall hres))
    · exact h hlen

theorem exec_blockPlace_waits (h : s.earlierLaunch launch l = true ∨ s.ctxRuns l.ctx = false ∨ s.mayLaunch l.ctx = false
    ∨ ∃ c ∈ cores, s.coreTakes c l = false) : exec (.blockPlace launch cores) s = .next s := by
  rcases h with h | h | h | h
  · exact exec_blockPlace_held hl (.inl h)
  · exact exec_blockPlace_held hl (.inr (.inl h))
  · exact exec_blockPlace_held hl (.inr (.inr (.inl h)))
  · by_cases hheld : s.earlierLaunch launch l = true ∨ s.ctxRuns l.ctx = false ∨ s.mayLaunch l.ctx = false
    · exact exec_blockPlace_held hl (by tauto)
    · obtain ⟨hearlier, hctx, hmay⟩ := by
        simpa only [not_or, Bool.not_eq_true, Bool.not_eq_false] using hheld
      obtain ⟨c, hmem, -⟩ := id h
      rw [exec_blockPlace_train hl hlen hall (List.ne_nil_of_mem hmem) hearlier hctx hmay, State.placeTrain_refused hl h]
      rfl

end

omit hl in
/-- The launch counts one more train as placed. -/
theorem State.launchOf_countPlaced : (s.countPlaced launch l).launchOf launch = some { l with placed := l.placed + 1 } := by
  rw [State.launchOf, State.countPlaced, Sparse.get_set_same]

/-- A train that every core can take is placed, and the launch counts it. -/
theorem State.placeTrain_placed (hlen : cores.length = l.train) (hmore : l.placed * l.train ≠ l.gx * l.gy * l.gz) (hne : cores ≠ [])
    (hnodup : cores.Nodup) (hcluster : ∀ c ∈ cores, c / 16 = cores.headD 0 / 16) (htakes : ∀ c ∈ cores, s.coreTakes c l = true)
    (hq : quietMem s) :
    ∃ u, s.MembersPlaced u launch l (cores.zip (List.range cores.length))
      ∧ s.placeTrain launch cores = some (u.countPlaced launch l) := by
  have hfst : (cores.zip (List.range cores.length)).map Prod.fst = cores := List.map_fst_zip (by rw [List.length_range])
  refine ⟨_, State.forEach_placed hq launch l (by rw [hfst]; exact hnodup) fun p hp =>
    .of_takes (htakes p.1 (hfst ▸ List.mem_map_of_mem hp)), ?_⟩
  have hunplaced : l.unplaced = true := bne_iff_ne.mpr hmore
  rw [State.placeTrain, hl]
  refine if_neg ?_
  rintro (h | h | h | h)
  · exact absurd (hunplaced.symm.trans h) (by decide)
  · exact h hlen
  · exact absurd ((oneCluster_of_nodup hne hnodup hcluster).symm.trans h) (by decide)
  · exact absurd ((List.all_eq_true.mpr htakes).symm.trans h) (by decide)

end

/-! ## The block that starts -/

theorem get_range'_map {α : Type} {d : Nat → α} (F : Nat → α) {a n g : Nat} (ha : a ≤ g) (hg : g < a + n) :
    Sparse.get d ((List.range' a n).map fun i => (i, F i)) g = F g := by
  induction n generalizing a with
  | zero => omega
  | succ n ih =>
    rw [List.range'_succ, List.map_cons, Sparse.get]
    split
    · next h => rw [h]
    · exact ih (by omega) (by omega)

/-- A group of the block: its threads at the entry address, its registers zero. -/
theorem startBlock_group (l : Launch) (launch n rank base : Nat) (now : DWord) {g : Nat} (hg : 32 * g < l.threads) :
    (startBlock l launch n rank base now).group g = Group.start (groupMask l.threads g) l.entry now := by
  rw [startBlock, Block.group, List.range_eq_range']
  exact get_range'_map _ (Nat.zero_le g) (by rw [groupsOf, ceilDiv]; omega)

end Sys2Proof.Machine

open Sys2Proof Sys2Proof.Machine

/-- Settles O40: a train is placed member by member, each zeroing its own allocation. -/
theorem blocksPlaced : Obligations.BlocksPlaced := by
  unfold Obligations.BlocksPlaced
  intro s launch cores l hl hlen hall
  refine ⟨exec_blockPlace_waits hl hlen hall, fun cs hres hcs => exec_blockPlace_held hl (.inr (.inr (.inr (.inl ⟨hres, hcs⟩)))),
    fun hearlier hctx hmay hmore hne hnodup hcluster htakes hq => ?_⟩
  obtain ⟨u, hu, htrain⟩ := State.placeTrain_placed hl hlen hmore hne hnodup hcluster htakes hq
  have hfst : (cores.zip (List.range cores.length)).map Prod.fst = cores := List.map_fst_zip (by rw [List.length_range])
  have hex := exec_blockPlace_train hl hlen hall hne hearlier hctx hmay
  rw [htrain, Option.getD_some] at hex
  refine ⟨_, hex, fun i c hi => ?_,
    fun c hc => hu.others c (by rwa [hfst]), hu.dramKept, State.launchOf_countPlaced, fun z hz _ => hu.poisonKept z hz, ?_⟩
  · have hmem : (c, i) ∈ cores.zip (List.range cores.length) := by
      obtain ⟨hlt, -⟩ := List.getElem?_eq_some_iff.mp hi
      exact List.mem_of_getElem? (List.getElem?_zip_eq_some.mpr ⟨hi, List.getElem?_range hlt⟩)
    have hcore : (u.countPlaced launch l).core c = (s.core c).withBlock (s.memberBlock launch l (c, i)) := hu.started (c, i) hmem
    have hlt : i < l.train := by
      obtain ⟨hlt, -⟩ := List.getElem?_eq_some_iff.mp hi
      exact hlen ▸ hlt
    obtain ⟨hlo, hhi⟩ := Core.baseFor_in (State.HasRoom.of_takes (htakes c (List.mem_of_getElem? hi))).2
    refine ⟨s.memberBlock launch l (c, i), ?_, rfl, rfl, ?_, rfl, rfl, rfl, fun g hg => ?_, ?_, ?_, ?_, ?_, ?_⟩
    · rw [State.block, hcore, Core.withBlock, Sparse.get_set_same]
    · show (l.placed * l.train + i) / l.train = l.placed
      rw [Nat.mul_comm, Nat.mul_add_div (by omega), Nat.div_eq_of_lt hlt, Nat.add_zero]
    · exact ⟨_, startBlock_group l launch _ i _ s.lcount hg, fun j hj => bitAt_maskBy _ hj⟩
    · exact fun z hz hz' => (State.byte_congr rfl rfl z).trans (hu.zeroed (c, i) hmem z hz hz')
    · exact hlo
    · exact hhi.trans (by rw [sramBase]; omega)
    · rw [hcore]
      rfl
    · rw [hcore]
      rfl
  · rw [State.countPlaced, hu.frame]

end

section
/-! # Translation does not look at cores (O25)

The lookup of an address reads and changes tables, memory, registers and the recorder (R171, R389): with other cores and other marks
of progress it does the same. -/
namespace Sys2Proof.Machine
open Sys2Proof.Claims

/-- A state with other cores and other marks of progress. -/
def State.paced (s : State) (cs : Sparse Core) (pr : Sparse DWord) : State := { s with cores := cs, progress := pr }

section
variable (s : State) (cs : Sparse Core) (pr : Sparse DWord)

@[simp] theorem State.mcOf_paced : (s.paced cs pr).mcOf = s.mcOf := rfl
@[simp] theorem State.poisoned_paced : (s.paced cs pr).poisoned = s.poisoned := rfl
@[simp] theorem State.word_paced : (s.paced cs pr).word = s.word := rfl
@[simp] theorem State.words_paced : (s.paced cs pr).words = s.words := by
  funext a n
  rw [State.words, State.words, State.bytes_congr (s := s) (t := s.paced cs pr) fun _ => rfl]
@[simp] theorem State.latch_paced : (s.paced cs pr).latch = s.latch := rfl
@[simp] theorem State.populated_paced : (s.paced cs pr).populated = s.populated := rfl
@[simp] theorem State.exportAddr_paced : (s.paced cs pr).exportAddr = s.exportAddr := rfl
@[simp] theorem State.setPoison_paced (b : Nat) (v : Bool) : (s.paced cs pr).setPoison b v = (s.setPoison b v).paced cs pr := rfl

@[simp] theorem State.srcPut_paced (src n l : Nat) : (s.paced cs pr).srcPut src n l = (s.srcPut src n l).paced cs pr := by
  unfold State.srcPut
  by_cases h : l = 0
  · simp only [h, if_true]
    rfl
  · simp only [h, if_false]
    rfl

@[simp] theorem State.mcCount_paced (a i : Nat) : (s.paced cs pr).mcCount a i = (s.mcCount a i).paced cs pr := by
  rw [State.mcCount, State.mcCount, State.mcOf_paced]
  cases s.mcOf a <;> rfl

end

/-- A block's damage found and gone. -/
def State.clearFound (s : State) (b : Nat) : State :=
  { s with defects := Sparse.set (fun _ => 0) s.defects b 0, crcOff := Sparse.set (fun _ => 0) s.crcOff b 0 }

/-- The states that a check of a block goes through, each under its name. -/
theorem State.crcCheckBy_eq (add : State → Nat → Nat → Nat → State) (s : State) (b : Nat) : State.crcCheckBy add s b =
    if Sparse.get (fun _ => 0) s.defects b = 0 ∧ Sparse.get (fun _ => 0) s.crcOff b = 0 then s
    else if Sparse.get (fun _ => 0) s.defects b ≤ 3 ∧ Sparse.get (fun _ => 0) s.crcOff b = 0 then (s.clearFound b).mcCount b 0
    else ((((s.clearFound b).setPoison b true).mcCount b 1).mcOf b).elim (((s.clearFound b).setPoison b true).mcCount b 1) fun mc =>
      State.latchBy add (((s.clearFound b).setPoison b true).mcCount b 1) (mcSource mc)
        ((((s.clearFound b).setPoison b true).mcCount b 1).made 4 1 none mc (addrWords b)) := by
  rw [State.crcCheckBy]
  simp only []
  split
  · rfl
  · split
    · rfl
    · rw [← State.clearFound]
      generalize ((s.clearFound b).setPoison b true).mcCount b 1 = t
      cases t.mcOf b <;> rfl

@[simp] theorem State.clearFound_paced (s : State) (cs : Sparse Core) (pr : Sparse DWord) (b : Nat) :
    (s.paced cs pr).clearFound b = (s.clearFound b).paced cs pr := rfl

/-- What adds to the source table adds the same with other cores. -/
def AddsPaced (add : State → Nat → Nat → Nat → State) : Prop :=
  ∀ (s : State) (cs : Sparse Core) (pr : Sparse DWord) (x n l : Nat), add (s.paced cs pr) x n l = (add s x n l).paced cs pr

section
variable {add : State → Nat → Nat → Nat → State} (ha : AddsPaced add) (s : State) (cs : Sparse Core) (pr : Sparse DWord)
include ha

theorem State.countBy_paced (src n l : Nat) : State.countBy add (s.paced cs pr) src n l = (State.countBy add s src n l).paced cs pr := by
  have hlost : (if l = 0 then s.paced cs pr else (s.paced cs pr).setKreg 0x20 (satAdd32 ((s.paced cs pr).kreg 0x20) l))
      = (if l = 0 then s else s.setKreg 0x20 (satAdd32 (s.kreg 0x20) l)).paced cs pr := by
    split <;> rfl
  simp only [State.countBy, hlost]
  generalize (if l = 0 then s else s.setKreg 0x20 (satAdd32 (s.kreg 0x20) l)) = t
  rw [show (t.paced cs pr).err = t.err from rfl]
  split
  · exact ha t cs pr src n l
  · rfl

theorem State.latchBy_paced (src : Nat) (r : Report) :
    State.latchBy add (s.paced cs pr) src r = (State.latchBy add s src r).paced cs pr := by
  simp only [State.latchBy, State.latch_paced]
  cases (s.latch src).first with
  | none => exact State.countBy_paced ha (s.setLatch src _) cs pr src 1 0
  | some _ =>
    cases (s.latch src).latest with
    | none => exact State.countBy_paced ha (s.setLatch src _) cs pr src 1 0
    | some _ => exact State.countBy_paced ha (s.setLatch src _) cs pr src 1 1

theorem State.crcCheckBy_paced (b : Nat) : State.crcCheckBy add (s.paced cs pr) b = (State.crcCheckBy add s b).paced cs pr := by
  rw [State.crcCheckBy_eq, State.crcCheckBy_eq, State.clearFound_paced, State.setPoison_paced, State.mcCount_paced, State.mcCount_paced,
    State.mcOf_paced, show (s.paced cs pr).defects = s.defects from rfl, show (s.paced cs pr).crcOff = s.crcOff from rfl]
  generalize ((s.clearFound b).setPoison b true).mcCount b 1 = t
  split
  · rfl
  · split
    · rfl
    · cases t.mcOf b with
      | none => rfl
      | some mc => exact State.latchBy_paced ha t cs pr (mcSource mc) _

end

section
variable (s : State) (cs : Sparse Core) (pr : Sparse DWord)

theorem addsPaced_srcAdd : AddsPaced State.srcAdd := fun s cs pr x n l => by
  rw [State.srcAdd, State.srcAdd, ← State.srcPut_paced,
    ← State.crcCheckBy_paced (fun s cs pr src n l => s.srcPut_paced cs pr src n l) s cs pr]
  rfl

@[simp] theorem State.crcCheck_paced (b : Nat) : (s.paced cs pr).crcCheck b = (s.crcCheck b).paced cs pr :=
  State.crcCheckBy_paced addsPaced_srcAdd s cs pr b

theorem State.report_paced (src cls cause : Nat) (ctx : Option Nat) (unit : Nat) (d : List Word) :
    (s.paced cs pr).report src cls cause ctx unit d = (s.report src cls cause ctx unit d).paced cs pr :=
  State.latchBy_paced addsPaced_srcAdd s cs pr src _

/-! ## Tables -/

@[simp] theorem State.crcRange_paced (a n : Nat) : (s.paced cs pr).crcRange a n = (s.crcRange a n).paced cs pr := by
  unfold State.crcRange
  generalize blocksOf a n = bs
  induction bs generalizing s with
  | nil => rfl
  | cons b bs ih =>
    rw [forEach, List.foldl_cons, State.crcCheck_paced]
    exact ih _

theorem State.entryOk_paced (a n : Nat) : (s.paced cs pr).entryOk a n = ((s.entryOk a n).1.paced cs pr, (s.entryOk a n).2) := by
  simp only [State.entryOk, State.crcRange_paced, State.poisoned_paced]
  cases (blocksOf a (4 * n)).find? (s.crcRange a (4 * n)).poisoned with
  | none => rfl
  | some b => exact Prod.ext (State.mcCount_paced ..) rfl

theorem State.readEntry_paced (a n : Nat) :
    (s.paced cs pr).readEntry a n = ((s.readEntry a n).1.paced cs pr, (s.readEntry a n).2) := by
  rw [State.readEntry, State.readEntry, State.entryOk_paced, State.words_paced]

/-- A fold that does the same with other cores, step by step, does the same. -/
theorem foldl_paced {α β : Type} {f : State × β → α → State × β}
    (hf : ∀ (t : State) y x, f (t.paced cs pr, y) x = ((f (t, y) x).1.paced cs pr, (f (t, y) x).2)) (y : β) (xs : List α) :
    xs.foldl f (s.paced cs pr, y) = ((xs.foldl f (s, y)).1.paced cs pr, (xs.foldl f (s, y)).2) := by
  induction xs generalizing s y with
  | nil => rfl
  | cons x xs ih =>
    rw [List.foldl_cons, List.foldl_cons, hf]
    exact ih _ _

theorem State.loadWindows_paced (ctx : Nat) :
    (s.paced cs pr).loadWindows ctx = ((s.loadWindows ctx).1.paced cs pr, (s.loadWindows ctx).2) := by
  rw [State.loadWindows, State.loadWindows]
  generalize List.range 256 = l
  refine foldl_paced s cs pr (fun t y i => ?_) [] l
  simp only [show (t.paced cs pr).wtBase = t.wtBase from rfl, State.entryOk_paced, State.word_paced, State.words_paced]
  generalize t.wtBase + 0x2000 * ctx + 32 * i = a
  generalize t.entryOk a 8 = r
  cases r.2 && bitAt (r.1.word (a + 24)) 0 <;> simp only [Bool.false_eq_true, if_false, if_true]

/-- A cached entry's read is the same when what puts the errors back is. -/
theorem State.cacheEcc_paced {put : State → Sparse Nat → State} (hp : ∀ m, put (s.paced cs pr) m = (put s m).paced cs pr)
    (bad : Sparse Nat) (key unit : Nat) :
    (s.paced cs pr).cacheEcc bad key unit put = ((s.cacheEcc bad key unit put).1.paced cs pr, (s.cacheEcc bad key unit put).2) := by
  simp only [State.cacheEcc, hp]
  generalize put s _ = t
  split
  · rfl
  · split <;> rfl

/-- The windows of a context as loaded, once they are cached under a key. -/
def cacheWindows (k : Nat) (r : State × List (List Word)) : State × List (List Word) :=
  ({ r.1 with wcache := Sparse.set (fun _ => none) r.1.wcache k (some r.2) }, r.2)

theorem State.windows_eq (unit ctx : Nat) : s.windows unit ctx =
    let e := s.cacheEcc s.wcacheBad (unit * 64 + ctx) (eccWindow unit) fun s m => { s with wcacheBad := m }
    (if e.2 then none else Sparse.get (fun _ => none) e.1.wcache (unit * 64 + ctx)).elim
      (cacheWindows (unit * 64 + ctx) (e.1.loadWindows ctx)) fun ws => (e.1, ws) := by
  rw [State.windows]
  generalize s.cacheEcc s.wcacheBad (unit * 64 + ctx) (eccWindow unit) _ = e
  simp only []
  generalize e.1.loadWindows ctx = r
  cases (if e.2 then none else Sparse.get (fun _ => none) e.1.wcache (unit * 64 + ctx)) <;> rfl

theorem cacheWindows_paced (k : Nat) (r : State × List (List Word)) :
    cacheWindows k (r.1.paced cs pr, r.2) = ((cacheWindows k r).1.paced cs pr, (cacheWindows k r).2) := rfl

theorem State.windows_paced (unit ctx : Nat) :
    (s.paced cs pr).windows unit ctx = ((s.windows unit ctx).1.paced cs pr, (s.windows unit ctx).2) := by
  have he := State.cacheEcc_paced s cs pr (put := fun s m => { s with wcacheBad := m }) (fun _ => rfl) s.wcacheBad (unit * 64 + ctx)
    (eccWindow unit)
  rw [State.windows_eq, State.windows_eq, show (s.paced cs pr).wcacheBad = s.wcacheBad from rfl, he]
  generalize s.cacheEcc s.wcacheBad (unit * 64 + ctx) (eccWindow unit) _ = e
  obtain ⟨t, c⟩ := e
  simp only []
  rw [show (t.paced cs pr).wcache = t.wcache from rfl, State.loadWindows_paced t cs pr ctx, cacheWindows_paced]
  generalize cacheWindows (unit * 64 + ctx) (t.loadWindows ctx) = r
  cases (if c then none else Sparse.get (fun _ => none) t.wcache (unit * 64 + ctx)) with
  | none => rw [Option.elim_none, Option.elim_none]
  | some ws => rw [Option.elim_some, Option.elim_some]

theorem State.trLocal_paced (unit ctx va : Nat) (need : Need) :
    (s.paced cs pr).trLocal unit ctx va need = ((s.trLocal unit ctx va need).1.paced cs pr, (s.trLocal unit ctx va need).2) := by
  simp only [State.trLocal, State.windows_paced, State.populated_paced, show (s.paced cs pr).lmapAddr = s.lmapAddr from rfl]
  generalize s.windows unit ctx = r
  cases findWindow r.2 va with
  | none =>
    simp only []
    split <;> rfl
  | some w =>
    simp only []
    split
    · rfl
    · split
      · rfl
      · split <;> rfl

/-! ## The map of the fabric -/

theorem State.readFamap_paced (i : Nat) :
    (s.paced cs pr).readFamap i = ((s.readFamap i).1.paced cs pr, (s.readFamap i).2) := by
  simp only [State.readFamap, State.readEntry_paced, show (s.paced cs pr).famapBase = s.famapBase from rfl,
    show (s.paced cs pr).inDram = s.inDram from rfl]
  split <;> rfl

theorem State.famapBad_paced (unit ctx i : Nat) (e : DWord) :
    (s.paced cs pr).famapBad unit ctx i e = (s.famapBad unit ctx i e).paced cs pr :=
  State.report_paced ..

theorem State.famapPut_paced (unit i : Nat) (e : DWord) : (s.paced cs pr).famapPut unit i e = (s.famapPut unit i e).paced cs pr := by
  simp only [State.famapPut, show (s.paced cs pr).famapHeld = s.famapHeld from rfl]
  split <;> rfl

theorem State.famapRead_paced (unit ctx i : Nat) :
    (s.paced cs pr).famapRead unit ctx i = ((s.famapRead unit ctx i).1.paced cs pr, (s.famapRead unit ctx i).2) := by
  rw [State.famapRead, State.famapRead, State.readFamap_paced]
  rcases s.readFamap i with ⟨t, _ | e⟩
  · rfl
  · simp only [State.famapPut_paced, State.famapBad_paced]
    split <;> rfl

theorem State.famapEntry_paced (unit ctx i : Nat) :
    (s.paced cs pr).famapEntry unit ctx i = ((s.famapEntry unit ctx i).1.paced cs pr, (s.famapEntry unit ctx i).2) := by
  have hb := State.cacheEcc_paced s cs pr (put := fun s m => { s with fcacheBad := m }) (fun _ => rfl) s.fcacheBad (famapKey unit i)
    (eccMap (dieOf unit))
  simp only [State.famapEntry, show (s.paced cs pr).fcacheBad = s.fcacheBad from rfl, hb]
  generalize s.cacheEcc s.fcacheBad (famapKey unit i) (eccMap (dieOf unit)) _ = b
  obtain ⟨t, c⟩ := b
  rw [show (t.paced cs pr).fcache = t.fcache from rfl]
  cases (if c then none else Sparse.get (fun _ => none) t.fcache (famapKey unit i)) with
  | some e =>
    simp only [State.famapBad_paced]
    split
    · rfl
    · exact State.famapRead_paced { t.famapBad unit ctx i e with fcache := _ } cs pr unit ctx i
  | none =>
    simp only [State.readFamap_paced]
    rcases t.readFamap i with ⟨r, _ | e⟩
    · rfl
    · simp only [State.famapPut_paced, State.famapBad_paced, State.famapRead_paced]
      split <;> rfl

theorem State.trGlobal_paced (unit ctx va : Nat) (need : Need) :
    (s.paced cs pr).trGlobal unit ctx va need = ((s.trGlobal unit ctx va need).1.paced cs pr, (s.trGlobal unit ctx va need).2) := by
  simp only [State.trGlobal, State.famapEntry_paced, show (s.paced cs pr).ctxGlobal = s.ctxGlobal from rfl,
    show (s.paced cs pr).gran = s.gran from rfl]
  generalize (if s.gran = true then 25 else 21) = gb
  generalize va % 2 ^ 63 / 2 ^ gb % 2 ^ 25 = i
  rcases s.famapEntry unit ctx i with ⟨t, _ | e⟩
  · split
    · rfl
    · split <;> rfl
  · simp only [State.exportAddr_paced, show (t.paced cs pr).deviceId = t.deviceId from rfl]
    split
    · rfl
    · split
      · rfl
      · split
        · rfl
        · split
          · rfl
          · split
            · cases t.exportAddr s.gran (fld e 0 14) (va % 2 ^ 63 % 2 ^ gb) <;> rfl
            · rfl

theorem State.translate_paced (unit ctx va : Nat) (need : Need) :
    (s.paced cs pr).translate unit ctx va need =
      ((s.translate unit ctx va need).1.paced cs pr, (s.translate unit ctx va need).2) := by
  simp only [State.translate, State.trGlobal_paced, State.trLocal_paced]
  split <;> rfl

end

end Sys2Proof.Machine
end

section
/-! # Two re-packed sub-groups (O25)

A re-packed pair issues its second sub-group in the state that the first leaves, without a turn of its own (R119). That state and the one
after the first's whole issue differ in the scheduler's place and the engine's mark of progress alone, which issuing does not read. -/
namespace Sys2Proof.Machine
open Sys2Proof.Claims

/-! ## States that differ in a core's turn and its mark of progress -/

/-- `y` is `x` but for the turn of core `n`, whose thread engine has just made progress. -/
def State.Turned (n : Nat) (x y : State) : Prop :=
  y = x.paced y.cores (x.progressed (.thread n)).progress
    ∧ ∀ k, ∃ j, y.core k = { x.core k with turn := j } ∧ (k ≠ n → j = (x.core k).turn)

section
variable {n : Nat} {x y : State} (h : x.Turned n y)
include h

theorem State.Turned.reqs : y.reqs = x.reqs := by
  rw [h.1]
  rfl

theorem State.Turned.lcount : y.lcount = x.lcount := by
  rw [h.1]
  rfl

theorem State.Turned.block (c b : Nat) : y.block c b = x.block c b := by
  obtain ⟨j, hj, -⟩ := h.2 c
  rw [State.block, State.block, hj]

theorem State.Turned.interlocked (a : At) (us : List Use) : y.interlocked a us = x.interlocked a us := by
  rw [State.interlocked, State.interlocked, h.reqs]

theorem State.Turned.ready? (c b g l : Nat) (gf : BitVec 4) : y.ready? c b g l gf = x.ready? c b g l gf := by
  obtain ⟨j, hj, -⟩ := h.2 c
  have hstopped : (y.core c).stopped = (x.core c).stopped := by rw [hj]
  have hstarted : y.launchStarted = x.launchStarted := by rw [h.1]; rfl
  have hruns : y.ctxRuns = x.ctxRuns := by rw [h.1]; rfl
  simp only [State.ready?, h.block, hstopped, hstarted, hruns]

/-- What neither reads nor changes cores and marks of progress keeps the difference. -/
theorem State.Turned.of_paced {x' y' : State} (hy : y' = x'.paced y.cores y.progress) (hc : x'.cores = x.cores)
    (hp : x'.progress = x.progress) (hl : x'.lcount = x.lcount) : x'.Turned n y' := by
  have hyc : y'.cores = y.cores := by rw [hy]; rfl
  have hyp : y.progress = (x'.progressed (.thread n)).progress := by
    rw [h.1]
    simp only [State.paced, State.progressed, hp, hl]
  refine ⟨by rw [hyc, ← hyp]; exact hy, fun k => ?_⟩
  rw [State.core_congr hyc, State.core_congr hc]
  exact h.2 k

theorem State.Turned.eq_paced : y = x.paced y.cores y.progress := by
  have hp : y.progress = (x.progressed (.thread n)).progress := by rw [h.1]; rfl
  rw [hp]
  exact h.1

theorem State.Turned.translate (unit ctx va : Nat) (need : Need) :
    (x.translate unit ctx va need).1.Turned n (y.translate unit ctx va need).1
      ∧ (y.translate unit ctx va need).2 = (x.translate unit ctx va need).2 := by
  have hp := x.translate_paced y.cores y.progress unit ctx va need
  rw [← h.eq_paced] at hp
  have hf := x.translate_frame unit ctx va need
  rw [hp]
  exact ⟨h.of_paced rfl (by rw [hf]) (by rw [hf]) (by rw [hf]), rfl⟩

/-- So does what changes cores alone, the same way but for that turn. -/
theorem State.Turned.of_onlyCores {x' y' : State} (hx : OnlyCores x x') (hy : OnlyCores y y')
    (hc : ∀ k, ∃ j, y'.core k = { x'.core k with turn := j } ∧ (k ≠ n → j = (x'.core k).turn)) : x'.Turned n y' := by
  refine ⟨?_, hc⟩
  have hxy : ({ y with cores := y'.cores } : State) = x.paced y'.cores (x.progressed (.thread n)).progress :=
    congrArg (fun s : State => { s with cores := y'.cores }) h.1
  rw [hx]
  exact Eq.trans hy hxy

theorem State.Turned.setBlock (c b : Nat) (v : Option Block) : (x.setBlock c b v).Turned n (y.setBlock c b v) := by
  refine h.of_onlyCores rfl rfl fun k => ?_
  obtain ⟨j, hj, hother⟩ := h.2 k
  rw [State.setBlock, State.setBlock, State.core_modCore, State.core_modCore]
  split
  · next hk =>
    subst hk
    exact ⟨j, by rw [hj], hother⟩
  · exact ⟨j, hj, hother⟩

theorem State.Turned.modGroup (c b g : Nat) (f : Group → Group) : (x.modGroup c b g f).Turned n (y.modGroup c b g f) := by
  rw [State.modGroup, State.modGroup, h.block]
  cases x.block c b with
  | none => exact h
  | some v => exact h.setBlock c b _

theorem State.Turned.put (a : At) (d : BitVec 9) (m : Nat) (vals : List (Nat × Nat)) :
    (a.put x d m vals).Turned n (a.put y d m vals) := by
  have hdraw : x.draw.2.Turned n y.draw.2 := h.of_paced (by rw [h.eq_paced]; rfl) rfl rfl rfl
  have hfree : y.draw.1 = x.draw.1 := by rw [h.1]; rfl
  rw [At.put, At.put, State.putVals, State.putVals]
  split
  · simp only [hfree]
    exact hdraw.modGroup ..
  · exact h.modGroup ..

theorem State.Turned.supersede (a : At) {old old' : State} (ho : old'.reqs = old.reqs) (us : List Use) :
    (a.supersede old x us).Turned n (a.supersede old' y us) := by
  have hx := a.supersede_eq old x us
  have hy := a.supersede_eq old' y us
  rw [At.supersede_old ho, At.supersede_reqs h.reqs] at hy
  rw [At.supersede_old ho]
  generalize (a.supersede old x us).reqs = rs at hx hy
  refine h.of_paced ?_ (by rw [hx]) (by rw [hx]) (by rw [hx])
  rw [hx, hy]
  exact congrArg (fun s : State => { s with reqs := rs }) h.eq_paced

theorem State.Turned.advance (a : At) : (a.advance x).Turned n (a.advance y) := by
  have hstamp : a.stamp y = a.stamp x := by rw [At.stamp, At.stamp, h.lcount]
  rw [At.advance, At.advance, At.goto, At.goto, hstamp]
  exact h.modGroup ..

theorem State.Turned.eccFixed (k : Nat) (f : Nat → Nat) :
    State.Turned n { x with eccFixed := Sparse.modify (fun _ => 0) x.eccFixed k f }
      { y with eccFixed := Sparse.modify (fun _ => 0) y.eccFixed k f } :=
  h.of_paced (congrArg (fun s : State => { s with eccFixed := Sparse.modify (fun _ => 0) s.eccFixed k f }) h.eq_paced) rfl rfl rfl

theorem State.Turned.regEcc (a : At) (us : List Use) :
    (x.regEcc a us).1.Turned n (y.regEcc a us).1 ∧ (y.regEcc a us).2 = (x.regEcc a us).2 := by
  rw [State.regEcc, State.regEcc]
  simp only []
  split
  · exact ⟨h, rfl⟩
  · exact ⟨(h.modGroup ..).eccFixed .., rfl⟩

end

theorem At.core_issued (a : At) (s : State) (k : Nat) :
    (a.issued s).core k = if k = a.core then { s.core a.core with turn := a.key + 1 } else s.core k := by
  rw [← State.core_modCore s a.core k fun c => { c with turn := a.key + 1 }]
  exact State.core_congr rfl k

theorem At.setup_issued (a : At) (s : State) : (a.issued s).setup = s.setup := rfl

theorem At.issued_eq_paced (a : At) (s : State) :
    a.issued s = s.paced (a.issued s).cores (s.progressed (.thread a.core)).progress := rfl

/-- The state after an issue and a change of its core's turn, against the state before the scheduler goes on. -/
theorem State.turned_issued (a : At) (x : State) {n : Nat} (hn : a.core = n) (j : Nat) :
    x.Turned n ((a.issued x).modCore n fun c => { c with turn := j }) := by
  subst hn
  refine ⟨rfl, fun k => ?_⟩
  rw [State.core_modCore]
  split
  · next hk =>
    subst hk
    rw [a.core_issued, if_pos rfl]
    exact ⟨j, rfl, fun h => absurd rfl h⟩
  · next hk =>
    rw [a.core_issued, if_neg hk]
    exact ⟨_, rfl, fun _ => rfl⟩

/-! ## The slot is counted, and the scheduler goes on -/

theorem State.progressed_progress (s : State) (u : EngineUnit) :
    (s.progressed u).progress = Sparse.set (fun _ => 0) s.progress (unitKey u) s.lcount := rfl

theorem State.setup_count (s : State) (off n : Nat) : ∃ m, s.count off n = { s with setup := m } := ⟨_, rfl⟩

theorem Sparse.insert_insert {α : Type} (m : Sparse α) (k : Nat) (v : α) :
    Sparse.insert (Sparse.insert m k v) k v = Sparse.insert m k v := by
  induction m with
  | nil => simp [Sparse.insert]
  | cons p m ih =>
    obtain ⟨j, w⟩ := p
    rcases Nat.lt_trichotomy k j with hlt | rfl | hgt
    · simp [Sparse.insert, hlt]
    · simp [Sparse.insert]
    · simp [Sparse.insert, hgt.not_gt, hgt.ne', ih]

theorem Sparse.set_set {α : Type} [DecidableEq α] (d : Nat → α) (m : Sparse α) (k : Nat) (v : α) :
    Sparse.set d (Sparse.set d m k v) k v = Sparse.set d m k v := by
  unfold Sparse.set
  split
  · simp [Sparse.forget, List.filter_filter]
  · exact Sparse.insert_insert m k v

section
variable {x y : State} {a a2 : At} (h : x.Turned a.core y) (hcore : a2.core = a.core)
include h hcore

/-- Nothing but the cores tells the state after the second's whole issue from the state that it leaves in the shared slot. -/
theorem State.Turned.issued_eq : a2.issued y = x.paced (a2.issued y).cores (x.progressed (.thread a.core)).progress := by
  have hp : (y.progressed (.thread a2.core)).progress = (x.progressed (.thread a.core)).progress := by
    have hy : y.progress = (x.progressed (.thread a.core)).progress := by rw [h.1]; rfl
    rw [State.progressed_progress, h.lcount, hy, hcore, State.progressed_progress, Sparse.set_set]
  have hy := congrArg (fun s : State => s.paced (a2.issued y).cores (y.progressed (.thread a2.core)).progress) h.eq_paced
  rw [← hp]
  exact (a2.issued_eq_paced y).trans hy

/-- Against the second's whole issue, the shared slot is counted and the scheduler goes on behind the first. -/
theorem State.Turned.repacked :
    let t := a.issued (x.count (offRepack a.core) 1)
    raised (a2.issued y) t (offRepack a.core) 1 ∧ regsKept (a2.issued y) t [offRepack a.core]
      ∧ (∀ k, t.core k = if k = a.core then { (a2.issued y).core k with turn := a.key + 1 } else (a2.issued y).core k)
      ∧ t = { a2.issued y with setup := t.setup, cores := t.cores } := by
  intro t
  have heq := h.issued_eq hcore
  have hreg (o : Nat) : t.reg o = if o = offRepack a.core then satAdd32 ((a2.issued y).reg o) 1 else (a2.issued y).reg o := by
    have hy : (a2.issued y).reg o = x.reg o := State.reg_congr (s := x) (congrArg State.setup heq :) o
    have ht : t.reg o = (x.count (offRepack a.core) 1).reg o := State.reg_congr (a.setup_issued _) o
    rw [ht, hy, State.reg_count]
    split
    · next ho => rw [ho]
    · rfl
  refine ⟨?_, fun o ho => ?_, fun k => ?_, ?_⟩
  · rw [raised, hreg, if_pos rfl, satAdd32_toNat]
  · rw [hreg, if_neg fun h => ho (by rw [h]; exact List.mem_singleton_self _)]
  · obtain ⟨j, hj, hother⟩ := h.2 k
    have hcount (k : Nat) : (x.count (offRepack a.core) 1).core k = x.core k :=
      State.core_congr (x.count_frame _ _).cores k
    rw [a.core_issued, a2.core_issued, hcore, hcount, hcount]
    split
    · next hk =>
      subst hk
      rw [hj]
    · next hk => rw [hj, hother hk]
  · obtain ⟨m, hm⟩ := x.setup_count (offRepack a.core) 1
    rw [heq, show t = a.issued { x with setup := m } from congrArg a.issued hm]
    rfl

end

/-! ## Rows that compute a value -/

/-- What an issuing sub-group leaves before the scheduler goes on, when its row writes the values of `op`. -/
def At.aluDone (a : At) (old s : State) (f : FormR) (us : List Use) (n : Nat) (op : Group → Nat → Nat) : State :=
  a.advance (a.supersede old (a.put s f.d n (a.each fun i => op a.g i)) us)

/-- What the row does for a sub-group that takes part. -/
def aluBody (f : FormR) (n : Nat) (op : Group → Nat → Nat) (a : At) (s : State) : Did := .done (a.put s f.d n (a.each fun i => op a.g i))

section
variable {s : State} {sg : SgRef} {gf : BitVec 4} {us : List Use} {a : At} {s1 : State}
  (h : s.issuing sg gf false us = some (a, s1)) (f : FormR) (n : Nat) (op : Group → Nat → Nat)
include h

theorem issueAt_of_issuing : s.issueAt a false true us (aluBody f n op) = some (a.aluDone s s1 f us n op) := by
  obtain ⟨-, -, s0, w, ht, hu, hi, hm, he⟩ := State.issuing_spec h
  simp only [State.issueAt, ht, hu, hi, hm, he, Bool.and_self, Bool.true_eq_false, if_false, Bool.false_eq_true]
  rfl

omit h in
theorem State.aluR_eq_issue (sg : SgRef) : s.aluR sg f true us n op = s.issue sg f.g true false true us (aluBody f n op) := rfl

/-- In a state that differs by the scheduler's place the sub-group issues the same. -/
theorem issueAt_of_turned {x : State} (hx : x.Turned sg.core s) :
    ∃ x2, x.ready? sg.core sg.blk sg.grp sg.lane gf = some a ∧ x.issueAt a false true us (aluBody f n op) = some x2
      ∧ x2.Turned sg.core (a.aluDone s s1 f us n op) := by
  obtain ⟨-, hat, s0, w, ht, hu, hi, hm, he⟩ := State.issuing_spec h
  obtain ⟨htr, hval⟩ := hx.translate a.core a.b.ctx a.sub.pc.toNat .fetch
  rcases hx0 : x.translate a.core a.b.ctx a.sub.pc.toNat .fetch with ⟨x0, r⟩
  rw [ht, hx0] at htr hval
  obtain rfl : r = .ok w := hval.symm
  obtain ⟨hecc, hbad⟩ := htr.regEcc a us
  rw [he] at hecc hbad
  rw [htr.interlocked] at hi
  refine ⟨_, hx.ready? .. ▸ State.at?_ready hat, ?_, ((hecc.put a f.d n _).supersede a hx.reqs us).advance a⟩
  simp only [State.issueAt, hx0, hu, hi, hm, ← hbad, Bool.and_self, Bool.true_eq_false, if_false, Bool.false_eq_true]
  rfl

end

theorem aluR_of_issuing {s s1 : State} {sg : SgRef} {f : FormR} {us : List Use} {a : At}
    (h : s.issuing sg f.g false us = some (a, s1)) (n : Nat) (op : Group → Nat → Nat) :
    s.aluR sg f true us n op = a.issued (a.aluDone s s1 f us n op) :=
  State.issue_done h true rfl

/-- Two sub-groups that may share a slot and both issue: the second's effect follows the first's. -/
theorem State.issue_pair {s x x2 : State} {sg : SgRef} {grp lane : Nat} {gf : BitVec 4} {a b a2 : At} {uni ok : Bool} {us : List Use}
    {body : At → State → Did} (hp : sg.partner = some (grp, lane)) (ha : s.at? sg.core sg.blk sg.grp sg.lane gf = some a)
    (hb : s.ready? sg.core sg.blk grp lane gf = some b) (hmay : (mayRepack a b us && !s.interlocked b us) = true)
    (h1 : s.issueAt a uni ok us body = some x) (h2 : x.ready? sg.core sg.blk grp lane gf = some a2)
    (h3 : x.issueAt a2 uni ok us body = some x2) :
    s.issue sg gf true uni ok us body = a.issued (x2.count (offRepack sg.core) 1) := by
  simp only [State.issue, ha, hp, hb, hmay, h1, h2, h3, Bool.true_and, Bool.true_eq_false, if_false]

/-- Two that may not share a slot change nothing. -/
theorem State.issue_apart {s : State} {sg : SgRef} {grp lane : Nat} {gf : BitVec 4} {a b : At} {uni ok : Bool} {us : List Use}
    {body : At → State → Did} (hp : sg.partner = some (grp, lane)) (ha : s.at? sg.core sg.blk sg.grp sg.lane gf = some a)
    (hb : s.ready? sg.core sg.blk grp lane gf = some b) (hmay : (mayRepack a b us && !s.interlocked b us) = false) :
    s.issue sg gf true uni ok us body = s := by
  simp only [State.issue, ha, hp, hb, hmay, Bool.true_and, if_true]

theorem mayRepack_open {s : State} {a b : At} {us : List Use} (hgrp : a.grp ≠ b.grp) (hpc : a.sub.pc = b.sub.pc)
    (hmask : a.sub.mask &&& b.sub.mask = 0) (huni : readsUniform us = false) (hlock : s.interlocked b us = false) :
    (mayRepack a b us && !s.interlocked b us) = true := by
  simp [mayRepack, hgrp, hpc, hmask, huni, hlock]

theorem mayRepack_shut {s : State} {a b : At} {us : List Use} (h : a.grp = b.grp ∨ a.sub.pc ≠ b.sub.pc ∨
    a.sub.mask &&& b.sub.mask ≠ 0 ∨ readsUniform us = true ∨ s.interlocked b us = true) :
    (mayRepack a b us && !s.interlocked b us) = false := by
  rw [Bool.eq_false_iff]
  intro hopen
  simp only [mayRepack, Bool.and_eq_true, bne_iff_ne, beq_iff_eq, Bool.not_eq_true'] at hopen
  obtain ⟨⟨⟨⟨hgrp, hpc⟩, hmask⟩, huni⟩, hlock⟩ := hopen
  rcases h with h | h | h | h | h
  · exact hgrp h
  · exact h hpc
  · exact h hmask
  · exact absurd (huni.symm.trans h) (by decide)
  · exact absurd (hlock.symm.trans h) (by decide)

/-- ADD, MULLO and ADD.F without modifiers are rows that compute a value. -/
theorem exec_aluRow {f : FormR} (hm : f.mod = 0) (hc : f.ctl = 0) {c : SgRef → Instr}
    (h : c ∈ [fun g => Instr.add g f, fun g => Instr.mullo g f, fun g => Instr.addF g f]) :
    ∃ op, ∀ g s, exec (c g) s = .next (s.aluR g f true (use2 f 1) 1 op) := by
  have hadd : (modClear f.mod 2 && f.ctl == 0) = true := by rw [hm, hc]; rfl
  have hmullo : (onlyS f && f.ctl == 0) = true := by rw [onlyS, hm, hc]; rfl
  have haddF : (lowModClear f && f.ctl == 0) = true := by rw [lowModClear, hm, hc]; rfl
  have hn : wRegs f = 1 := by rw [wRegs, hm]; rfl
  simp only [List.mem_cons, List.not_mem_nil, or_false] at h
  rcases h with rfl | rfl | rfl
  · refine ⟨fun g i => g.val f.a i 1 + g.val f.b i 1, fun g s => ?_⟩
    rw [← hadd, ← hn]
    rfl
  · refine ⟨fun g i => g.val f.a i 1 * g.val f.b i 1, fun g s => ?_⟩
    rw [← hmullo]
    rfl
  · refine ⟨fun g i => (fadd (g.fa f i) (g.fb f i)).toNat, fun g s => ?_⟩
    rw [← haddF]
    rfl

end Sys2Proof.Machine

open Sys2Proof Sys2Proof.Machine

/-- Settles O25: the second sub-group issues in the state that the first leaves, which differs from the state after the first's whole issue
in the scheduler's place alone. -/
theorem repackedPairs : Obligations.RepackedPairs := by
  unfold Obligations.RepackedPairs
  intro s sg f grp lane a b s1 u v a2 u1 c hp us first second hm hc hrow hissue hb
  obtain ⟨op, hop⟩ := exec_aluRow hm hc hrow
  obtain ⟨-, hat, -⟩ := State.issuing_spec hissue
  refine ⟨fun hgrp hpc hmask huni hlock hu => ?_, fun h => ?_⟩
  · intro w hw hv
    obtain ⟨hcore, -⟩ := State.ready?_spec (State.at?_ready hat)
    obtain rfl : a.issued (a.aluDone s s1 f us 1 op) = u := by
      rw [hop, aluR_of_issuing hissue 1 op] at hu
      exact Host.Outcome.next.inj hu
    obtain rfl : a2.issued (a2.aluDone w u1 f us 1 op) = v := by
      rw [hop, aluR_of_issuing hw 1 op] at hv
      exact Host.Outcome.next.inj hv
    have hturned : (a.aluDone s s1 f us 1 op).Turned sg.core w := State.turned_issued a _ hcore b.key
    obtain ⟨x2, hready, hissueAt, hafter⟩ := issueAt_of_turned hw f 1 op hturned
    obtain ⟨hcore2, -⟩ := State.ready?_spec hready
    have hpair := State.issue_pair hp hat hb (mayRepack_open hgrp hpc hmask huni hlock) (issueAt_of_issuing hissue f 1 op) hready
      hissueAt
    refine ⟨_, (hop sg s).trans (congrArg Host.Outcome.next hpair), ?_⟩
    have hresult := State.Turned.repacked (a := a) (by rw [hcore]; exact hafter) (hcore2.trans hcore.symm)
    rw [hcore] at hresult
    exact hresult
  · rw [hop, State.aluR_eq_issue, State.issue_apart hp hat hb (mayRepack_shut h)]

end

section
/-! # Operands of any width, and ZERO, p0, pairs and quads (O46, O47)

What an operand is worth, word by word (R129, R130). -/
namespace Sys2Proof.Machine
open Sys2Proof.Claims

/-! ## Values of operands -/

/-- A value of `n` registers fits them (R130). -/
theorem Group.val_lt (g : Group) (f : BitVec 9) (lane n : Nat) : g.val f lane n < 2 ^ (32 * n) := by
  induction n with
  | zero => exact Nat.one_pos
  | succ n ih =>
    have hword := (g.rd f lane n).isLt
    rw [Group.val, Nat.mul_succ, Nat.pow_add]
    calc g.val f lane n + (g.rd f lane n).toNat * 2 ^ (32 * n)
        < 2 ^ (32 * n) + (g.rd f lane n).toNat * 2 ^ (32 * n) := Nat.add_lt_add_right ih _
      _ = ((g.rd f lane n).toNat + 1) * 2 ^ (32 * n) := by ring
      _ ≤ 2 ^ 32 * 2 ^ (32 * n) := Nat.mul_le_mul_right _ hword
      _ = 2 ^ (32 * n) * 2 ^ 32 := Nat.mul_comm _ _

section
variable {g : Group} {f : BitVec 9} {r : Nat → Word} {lane : Nat} (h : ∀ i, g.rd f lane i = r i)
include h

theorem Group.val_pair : g.val f lane 2 = (r 0).toNat + 2 ^ 32 * (r 1).toNat := by
  simp only [Group.val, h]
  omega

theorem Group.val_quad : g.val f lane 4 =
    (r 0).toNat + 2 ^ 32 * (r 1).toNat + 2 ^ 64 * (r 2).toNat + 2 ^ 96 * (r 3).toNat := by
  simp only [Group.val, h]
  omega

end

theorem toNat_ofNat_bitsOf (v lo : Nat) : (BitVec.ofNat 32 (bitsOf v lo 32)).toNat = v / 2 ^ lo % 2 ^ 32 := by
  rw [BitVec.toNat_ofNat, Nat.mod_eq_of_lt (bitsOf_lt v lo 32), bitsOf, Nat.shiftRight_eq_div_pow]

section
variable {d : BitVec 9} {k lane : Nat} (g : Group)

theorem Group.rd_t (h : fileOf d = (.t, k)) (i : Nat) : g.rd d lane i = g.treg lane (k + i) := by
  rw [Group.rd, h]

theorem Group.rd_u (h : fileOf d = (.u, k)) (i : Nat) : g.rd d lane i = g.ureg (k + i) := by
  rw [Group.rd, h]

/-- A t operand that is written holds its words in order. -/
theorem Group.treg_put_word (h : fileOf d = (.t, k)) (hl : lane < 32) (v : Nat) {n j : Nat} (hj : j < n) :
    ((g.put d lane v n).treg lane (k + j)).toNat = v / 2 ^ (32 * j) % 2 ^ 32 := by
  rw [Group.treg_put g d lane v n lane (k + j) (by rw [h]) hl hl, h, if_pos ⟨rfl, by omega, by omega⟩, Nat.add_sub_cancel_left,
    toNat_ofNat_bitsOf]

theorem Group.ureg_put_word (h : fileOf d = (.u, k)) (v : Nat) {n j : Nat} (hj : j < n) :
    ((g.put d lane v n).ureg (k + j)).toNat = v / 2 ^ (32 * j) % 2 ^ 32 := by
  rw [Group.ureg_put g d lane v n (k + j) (by rw [h]), h, if_pos ⟨by omega, by omega⟩, Nat.add_sub_cancel_left,
    toNat_ofNat_bitsOf]

end

/-! ## Encodings that a pair or quad may not have -/

/-- An operand that is not aligned, or that passes the end of the t file, is not encoded as its position allows (R126, R130). -/
theorem Use.ok_unaligned {regs k : Nat} {u : Use} (h : fileOf u.f = (.t, k) ∧ (k % u.n ≠ 0 ∨ 255 < k + u.n) ∨
    fileOf u.f = (.u, k) ∧ k % u.n ≠ 0) : Use.ok regs u = false := by
  unfold Use.ok
  rcases h with ⟨hf, hbad⟩ | ⟨hf, hbad⟩
  · have hlimit : tLimit regs ≤ 255 := Nat.min_le_left _ _
    rw [hf]
    rcases hbad with hbad | hbad
    · simp [hbad]
    · simp [show ¬ k + u.n ≤ tLimit regs by omega]
  · rw [hf]
    simp [hbad]

section
variable {s s1 : State} {sg : SgRef} {gf : BitVec 4} {a : At} {u : Where × Bool} (hp : sg.partner = none)
  (hat : s.at? sg.core sg.blk sg.grp sg.lane gf = some a)
  (ht : s.translate a.core a.b.ctx a.sub.pc.toNat .fetch = (s1, .ok u))
include hp hat ht

/-- MOV with W that names no pair in its destination or its source is ILLEGAL. -/
theorem exec_mov_noPair {f : FormR} {k : Nat} (hg : f.g = gf) (hn : wRegs f = 2)
    (h : fileOf f.d = (.t, k) ∧ (k % 2 ≠ 0 ∨ k = 254) ∨ fileOf f.a = (.t, k) ∧ (k % 2 ≠ 0 ∨ k = 254)
      ∨ fileOf f.d = (.u, k) ∧ k % 2 ≠ 0 ∨ fileOf f.a = (.u, k) ∧ k % 2 ≠ 0) :
    exec (.mov sg f) s = .next (a.issued (a.fault s1 5 a.sub.pc.toNat)) := by
  have hbad : ∃ x ∈ use1 f (wRegs f), Use.ok a.b.regs x = false := by
    rw [hn]
    rcases h with h | h | h | h
    · exact ⟨.dest f.d 2, by simp [use1], Use.ok_unaligned (.inl ⟨h.1, h.2.imp id fun e => by simp [Use.dest, e]⟩)⟩
    · exact ⟨.src f.a 2, by simp [use1], Use.ok_unaligned (.inl ⟨h.1, h.2.imp id fun e => by simp [Use.src, e]⟩)⟩
    · exact ⟨.dest f.d 2, by simp [use1], Use.ok_unaligned (.inr h)⟩
    · exact ⟨.src f.a 2, by simp [use1], Use.ok_unaligned (.inr h)⟩
  obtain ⟨x, hx, hok⟩ := hbad
  subst hg
  exact congrArg Host.Outcome.next (State.issue_illegal hp hat ht (.inr (usesOk_of_bad hx hok)) _ _)

/-- LD of 128 bits that names no quad in its destination is ILLEGAL. -/
theorem exec_ld_noQuad {f : FormM} {k : Nat} (hg : f.g = gf) (hn : widRegs (modWid f.mod) = 4)
    (h : fileOf f.d = (.t, k) ∧ (k % 4 ≠ 0 ∨ k = 252) ∨ fileOf f.d = (.u, k) ∧ k % 4 ≠ 0) :
    exec (.ld sg f) s = .next (a.issued (a.fault s1 5 a.sub.pc.toNat)) := by
  have hok : Use.ok a.b.regs (.dest f.d (widRegs (modWid f.mod))) = false := by
    rw [hn]
    rcases h with h | h
    · exact Use.ok_unaligned (.inl ⟨h.1, h.2.imp id fun e => by simp [Use.dest, e]⟩)
    · exact Use.ok_unaligned (.inr h)
  subst hg
  exact congrArg Host.Outcome.next (State.issue_illegal hp hat ht (.inr (usesOk_of_bad List.mem_cons_self hok)) _ _)

end

/-! ## ZERO and p0 -/

section
variable (g : Group) {f : BitVec 9} (h : fileOf f = (.zero, 0)) (lane : Nat)
include h

theorem Group.rd_zero (i : Nat) : g.rd f lane i = 0 := by rw [Group.rd, h]

theorem Group.val_zero (n : Nat) : g.val f lane n = 0 := by
  induction n with
  | zero => rfl
  | succ n ih => simp [Group.val, ih, g.rd_zero h]

theorem Group.put_zero (v n : Nat) : g.put f lane v n = g := by
  induction n with
  | zero => rfl
  | succ n ih => rw [Group.put, ih, Group.wr, h]

theorem Group.putLanes_zero (n : Nat) (vals : List (Nat × Nat)) : g.putLanes f n vals = g := by
  induction vals with
  | nil => rfl
  | cons p ps ih => exact (congrArg (fun x => Group.putLanes x f n ps) (g.put_zero h p.1 p.2 n)).trans ih

end

/-- A predicate operand that names p0 or ZERO discards what is written (R129). -/
theorem Group.putPreds_discarded (g : Group) {f : BitVec 9} (h : fileOf f = (.p, 0) ∨ fileOf f = (.zero, 0))
    (vals : List (Nat × Bool)) : g.putPreds f vals = g := by
  induction vals with
  | nil => rfl
  | cons p ps ih =>
    have hone : g.pwr f p.1 p.2 = g := by
      unfold Group.pwr
      rcases h with h | h <;> rw [h]
      rfl
    exact (congrArg (fun x => Group.putPreds x f ps) hone).trans ih

section
variable {s s1 : State} {sg : SgRef} {f : FormR} {a : At}

/-- MOV is the row that computes its source. -/
theorem exec_mov (hm : modClear f.mod 2 = true) (hc : f.ctl = 0) (sg : SgRef) (s : State) :
    exec (.mov sg f) s = .next (s.aluR sg f true (use1 f (wRegs f)) (wRegs f) fun g i => g.val f.a i (wRegs f)) := by
  show execMov sg f s = _
  simp [execMov, hm, hc]

theorem exec_cmp (h5 : bitAt f.mod 5 = false) (hsel : fld f.mod 2 3 ≤ 5) (hc : f.ctl = 0) (sg : SgRef) (s : State) :
    exec (.cmp sg f) s = .next (s.issue sg f.g true false true
      [.dstIn f.d [.p, .zero], .src f.a (wRegs f), .src f.b (wRegs f), .unused f.c] fun a s =>
        .done (a.putPreds s f.d (a.each fun i => condInt (fld f.mod 2 3) (asInt (sBit f) (32 * wRegs f) (a.g.val f.a i (wRegs f)))
          (asInt (sBit f) (32 * wRegs f) (a.g.val f.b i (wRegs f)))))) := by
  show execCmp sg f s = _
  simp [execCmp, h5, hsel, hc]

/-- An instruction whose effect leaves its group as it was changes no register. -/
theorem next_unchanged {c : Instr} {uni rep : Bool} {us : List Use} {body : At → State → Did} {F : Group → Group}
    (h : s.issuing sg f.g uni us = some (a, s1)) (hex : exec c s = .next (s.issue sg f.g rep uni true us body))
    (hbody : body a s1 = .done (a.modGroup s1 F)) (hF : ∀ g, F g = g) :
    Next c s fun t => a.RegsKept s1 t ∧ a.OnlyIssued us s1 t := by
  obtain ⟨⟨x, hblk, -⟩, -⟩ := State.issuing_block h
  obtain ⟨y, hy, -⟩ := State.block_modGroup s1 a.core a.blk a.grp F hblk
  have hgrp : a.groupIn (a.modGroup s1 F) = a.groupIn s1 := (At.groupIn_modGroup a s1 F hblk).trans (hF _)
  obtain ⟨ht, hu, hp, hh, hl, hothers⟩ := At.finished_regsKept a s us (u := a.modGroup s1 F) hy
  rw [hgrp] at ht hu hp hh hl
  refine ⟨_, hex.trans (congrArg _ (State.issue_done h rep hbody)),
    ⟨ht, hu, hp, hh, hl, (At.modGroup_kept a s1 F hblk).trans hothers⟩, ?_⟩
  exact At.finished_onlyIssued a us (State.issuing_reqs h).symm (State.modGroup_onlyCores ..)

theorem next_mov_toZero (hm : modClear f.mod 2 = true) (hc : f.ctl = 0)
    (h : s.issuing sg f.g false (use1 f (wRegs f)) = some (a, s1)) (hd : f.d = 0x180) :
    Next (.mov sg f) s fun t => a.RegsKept s1 t ∧ a.OnlyIssued (use1 f (wRegs f)) s1 t := by
  have hfile : fileOf f.d = (.zero, 0) := by rw [hd]; rfl
  refine next_unchanged h (exec_mov hm hc sg s)
    (F := fun g => g.putLanes f.d (wRegs f) (a.each fun i => a.g.val f.a i (wRegs f))) ?_ (fun g => g.putLanes_zero hfile _ _)
  rw [At.put, State.putVals, hfile, if_neg (by simp)]
  rfl

theorem next_mov_fromZero (hm : modClear f.mod 2 = true) (hc : f.ctl = 0)
    (h : s.issuing sg f.g false (use1 f (wRegs f)) = some (a, s1)) (ha : f.a = 0x180) :
    Next (.mov sg f) s fun t =>
      a.WroteRegs s1 t f.d (wRegs f) (a.each fun _ => 0) ∧ a.OnlyIssuedDraws (use1 f (wRegs f)) s1 t := by
  have hzero (g : Group) (i : Nat) : g.val f.a i (wRegs f) = 0 := g.val_zero (by rw [ha]; rfl) i _
  exact computes_of_aluR (v := fun _ _ _ => 0) (exec_mov hm hc sg s) rfl (fun a _ i => (hzero a.g i).symm) a s1 h

theorem next_cmp_discarded (h5 : bitAt f.mod 5 = false) (hsel : fld f.mod 2 3 ≤ 5) (hc : f.ctl = 0)
    (hd : f.d = 0x150 ∨ f.d = 0x180)
    (h : s.issuing sg f.g false [.dstIn f.d [.p, .zero], .src f.a (wRegs f), .src f.b (wRegs f), .unused f.c] = some (a, s1)) :
    Next (.cmp sg f) s fun t => a.RegsKept s1 t ∧
      a.OnlyIssued [.dstIn f.d [.p, .zero], .src f.a (wRegs f), .src f.b (wRegs f), .unused f.c] s1 t := by
  have hfile : fileOf f.d = (.p, 0) ∨ fileOf f.d = (.zero, 0) := hd.imp (fun e => by rw [e]; rfl) (fun e => by rw [e]; rfl)
  exact next_unchanged h (exec_cmp h5 hsel hc sg s) rfl fun g => g.putPreds_discarded hfile _

end

end Sys2Proof.Machine

open Sys2Proof Sys2Proof.Machine

/-- Settles O46: what p0 and ZERO read and discard in a group, then MOV and CMP that name them. -/
theorem zeroAndP0 : Obligations.ZeroAndP0 := by
  unfold Obligations.ZeroAndP0
  refine ⟨fun g lane v n b => ?_, fun s sg f a s1 => ⟨fun hm hc h => ?_, fun h5 hsel hc hd => next_cmp_discarded h5 hsel hc hd⟩⟩
  · have hzero : fileOf 0x180 = (.zero, 0) := by decide
    have hp0 : fileOf 0x150 = (.p, 0) := by decide
    refine ⟨rfl, ?_, ?_, g.rd_zero hzero lane n, g.val_zero hzero lane n, ?_, g.put_zero hzero lane v n, ?_, ?_, ?_⟩
    · rw [Group.prd, hp0]; rfl
    · rw [Group.pwr, hp0]; rfl
    · rw [Group.prd, hzero]
    · rw [Group.pwr, hzero]
    · rw [Group.guard]; rfl
    · rw [Group.guard]; rfl
  · exact ⟨next_mov_toZero hm hc h, next_mov_fromZero hm hc h⟩

/-- Settles O47: the words of pairs and quads in both files, then the two faults. -/
theorem pairsAndQuads : Obligations.PairsAndQuads := by
  unfold Obligations.PairsAndQuads
  refine ⟨fun g d lane k v hl => ⟨fun h => ?_, fun h => ?_⟩, fun s s1 sg a gf u hp hat ht => ⟨fun f k => ?_, fun f k => ?_⟩⟩
  · exact ⟨Group.val_pair (g.rd_t h), Group.val_quad (g.rd_t h), fun j => g.treg_put_word h hl v, fun j => g.treg_put_word h hl v⟩
  · exact ⟨Group.val_pair (g.rd_u h), Group.val_quad (g.rd_u h), fun j => g.ureg_put_word h v, fun j => g.ureg_put_word h v⟩
  · exact exec_mov_noPair hp hat ht
  · exact exec_ld_noQuad hp hat ht

end

section
/-! # The integer class (O4)

The arithmetic of each row of R137 as the model computes it and as a formula, and the rows: what a register receives is the
formula's value modulo its width. -/
namespace Sys2Proof.Machine
open Sys2Proof.Claims

/-! ## Bits and signs -/

theorem bitsOf_eq (v lo len : Nat) : bitsOf v lo len = v / 2 ^ lo % 2 ^ len := by
  rw [bitsOf, Nat.shiftRight_eq_div_pow]

/-- One bit of a number, as a number. -/
theorem bitsOf_one (v i : Nat) : bitsOf v i 1 = if v.testBit i then 1 else 0 := by
  rw [bitsOf, Nat.testBit, Nat.one_and_eq_mod_two, pow_one]
  rcases Nat.mod_two_eq_zero_or_one (v >>> i) with h | h <;> rw [h] <;> rfl

theorem signedOf_mod (n v : Nat) : signedOf n (v % 2 ^ n) = signedOf n v := by
  rw [signedOf, Nat.mod_mod, signedOf]

theorem signedOf_bounds (n v : Nat) : -(2 ^ n : Int) ≤ signedOf n v ∧ signedOf n v < 2 ^ n := by
  have hlt : ((v % 2 ^ n : Nat) : Int) < 2 ^ n := by exact_mod_cast Nat.mod_lt v (Nat.two_pow_pos n)
  have hcast : ((2 ^ n : Nat) : Int) = 2 ^ n := by norm_cast
  unfold signedOf
  rw [hcast]
  split <;> omega

/-! ## Results of single rows -/

theorem subMod_eq (bits x y : Nat) : subMod bits x y = (2 ^ bits + x - y) % 2 ^ bits := by
  rw [subMod, Nat.add_comm]

theorem mulHigh_signed (x y : Nat) : mulHigh true x y = toTwos 64 (signedOf 32 x * signedOf 32 y) / 2 ^ 32 := by
  unfold mulHigh toTwos asInt
  simp only [if_true]
  generalize signedOf 32 x * signedOf 32 y = z
  omega

theorem mulHigh_unsigned {x y : Nat} (hx : x < 2 ^ 32) (hy : y < 2 ^ 32) : mulHigh false x y = x * y / 2 ^ 32 := by
  have hprod : x * y < 2 ^ 32 * 2 ^ 32 := Nat.mul_lt_mul'' hx hy
  unfold mulHigh toTwos asInt
  simp only [Bool.false_eq_true, if_false, ← Nat.cast_mul]
  generalize x * y = z at hprod
  omega

theorem minMax_eq (big signed : Bool) (bits x y : Nat) : minMax big signed bits x y =
    if big then (if asInt signed bits x ≤ asInt signed bits y then y else x)
    else (if asInt signed bits x ≤ asInt signed bits y then x else y) := by
  unfold minMax
  by_cases h : asInt signed bits x ≤ asInt signed bits y <;> cases big <;> simp [h]

theorem ones_xor {n y : Nat} (h : y < 2 ^ n) : (2 ^ n - 1) ^^^ y = 2 ^ n - 1 - y := by
  apply Nat.eq_of_testBit_eq
  intro i
  rw [Nat.testBit_xor, Nat.testBit_two_pow_sub_one, Nat.sub_sub, Nat.add_comm 1 y, Nat.testBit_two_pow_sub_succ h]
  by_cases hi : i < n
  · simp [hi]
  · simp [hi, Nat.testBit_lt_two_pow (h.trans_le (Nat.pow_le_pow_right (by decide) (Nat.le_of_not_lt hi)))]

theorem logicOp_eq {bits x y : Nat} (hx : x < 2 ^ bits) (hy : y < 2 ^ bits) {code : Nat} (hc : code ≤ 4) :
    logicOp code bits x y =
      if code = 0 then x &&& y else if code = 1 then x ||| y else if code = 2 then x ^^^ y
      else if code = 3 then x &&& (2 ^ bits - 1 - y % 2 ^ bits) else 2 ^ bits - 1 - x % 2 ^ bits := by
  rw [Nat.mod_eq_of_lt hx, Nat.mod_eq_of_lt hy, ← ones_xor hx, ← ones_xor hy]
  interval_cases code <;> rfl

/-- A shift by the width or more leaves what a shift by the width leaves: nothing, or sign bits alone. -/
theorem ediv_two_pow_min {z : Int} {bits : Nat} (hlo : -(2 ^ bits : Int) ≤ z) (hhi : z < 2 ^ bits) (k : Nat) :
    z / 2 ^ (min k bits) = z / 2 ^ k := by
  rcases Nat.le_total k bits with hk | hk
  · rw [Nat.min_eq_left hk]
  · have hpow : (2 ^ bits : Int) ≤ 2 ^ k := pow_le_pow_right₀ (by decide) hk
    have hpos : (0 : Int) < 2 ^ bits := by positivity
    rw [Nat.min_eq_right hk]
    rcases lt_or_ge z 0 with hz | hz
    · have hneg {m : Int} (hm : 0 < m) (hle : -m ≤ z) : z / m = -1 :=
        le_antisymm (Int.le_sub_one_of_lt (Int.ediv_neg_of_neg_of_pos hz hm))
          ((Int.le_ediv_iff_mul_le hm).mpr (by omega))
      rw [hneg hpos hlo, hneg (hpos.trans_le hpow) (by omega)]
    · rw [Int.ediv_eq_zero_of_lt hz hhi, Int.ediv_eq_zero_of_lt hz (hhi.trans_le hpow)]

theorem div_two_pow_min {x bits : Nat} (hx : x < 2 ^ bits) (k : Nat) : x / 2 ^ (min k bits) = x / 2 ^ k := by
  rcases Nat.le_total k bits with hk | hk
  · rw [Nat.min_eq_left hk]
  · rw [Nat.min_eq_right hk, Nat.div_eq_of_lt hx,
      Nat.div_eq_of_lt (hx.trans_le (Nat.pow_le_pow_right (by decide) hk))]

theorem toTwos_lt (n : Nat) (z : Int) : toTwos n z < 2 ^ n := by
  have hpos : (0 : Int) < (2 ^ n : Nat) := by exact_mod_cast Nat.two_pow_pos n
  have hlt := Int.emod_lt_of_pos z hpos
  have hnn := Int.emod_nonneg z hpos.ne'
  rw [toTwos]
  omega

theorem shiftOp_eq {bits x : Nat} (hx : x < 2 ^ bits) (right signed : Bool) (k : Nat) :
    shiftOp right signed bits x k =
      (if right = false then x * 2 ^ k
        else if signed then toTwos bits (signedOf bits x / 2 ^ k) else x / 2 ^ k) % 2 ^ bits := by
  obtain ⟨hlo, hhi⟩ := signedOf_bounds bits x
  unfold shiftOp
  cases right with
  | false =>
    simp only [Bool.false_eq_true, if_false, if_true]
    split
    · next h =>
      obtain ⟨j, rfl⟩ := Nat.exists_eq_add_of_le h
      rw [Nat.pow_add, ← Nat.mul_assoc, Nat.mul_comm x, Nat.mul_assoc, Nat.mul_mod_right]
    · rfl
  | true =>
    cases signed with
    | false =>
      simp only [if_true, Bool.false_eq_true, if_false, reduceCtorEq]
      rw [div_two_pow_min hx, Nat.mod_eq_of_lt ((Nat.div_le_self _ _).trans_lt hx)]
    | true =>
      simp only [if_true, if_false, reduceCtorEq]
      rw [ediv_two_pow_min hlo hhi, Nat.mod_eq_of_lt (toTwos_lt _ _)]

theorem fieldInsert_eq (pos len x y : Nat) : fieldInsert pos len x y =
    y - y / 2 ^ pos % 2 ^ (min len (32 - pos)) * 2 ^ pos + x % 2 ^ (min len (32 - pos)) * 2 ^ pos := by
  simp only [fieldInsert, bitsOf_eq, pow_zero, Nat.div_one]

theorem fieldExtract_eq (signed : Bool) (pos len x : Nat) : fieldExtract signed pos len x =
    if signed then toTwos 32 (signedOf len (x / 2 ^ pos)) else x / 2 ^ pos % 2 ^ len := by
  simp only [fieldExtract, bitsOf_eq, signedOf_mod]

/-- Ones counted from the lowest bit. -/
theorem popCount_eq (x n : Nat) : popCount x n = ((List.range n).filter fun j => x.testBit j).length := by
  induction n with
  | zero => rfl
  | succ n ih =>
    rw [popCount, ih, bitsOf_one, List.range_succ, List.filter_append, List.length_append]
    cases h : x.testBit n <;> simp [h]

/-- Bit `j` of the reversed number is bit `n - 1 - j`. -/
theorem bitRev_eq (x n : Nat) :
    bitRev x n = ((List.range n).map fun j => (if x.testBit j then 1 else 0) * 2 ^ (n - 1 - j)).sum := by
  induction n with
  | zero => rfl
  | succ n ih =>
    have hshift : ((List.range n).map fun j => (if x.testBit j then 1 else 0) * 2 ^ (n + 1 - 1 - j)) =
        (List.range n).map fun j => ((if x.testBit j then 1 else 0) * 2 ^ (n - 1 - j)) * 2 := by
      refine List.map_congr_left fun j hj => ?_
      have hlt := List.mem_range.mp hj
      rw [Nat.mul_assoc, ← Nat.pow_succ, show (n - 1 - j).succ = n + 1 - 1 - j by omega]
    rw [bitRev, ih, bitsOf_one, List.range_succ, List.map_append, List.sum_append, hshift, List.sum_map_mul_right]
    simp

theorem bitOp_eq (x : Nat) {code : Nat} (hlt : code < 4) (hne : code ≠ 3) : bitOp code x =
    if code = 0 then ((List.range 32).filter fun j => x.testBit j).length
    else if code = 1 then (if x = 0 then 32 else 31 - Nat.log2 x)
    else ((List.range 32).map fun j => (if x.testBit j then 1 else 0) * 2 ^ (31 - j)).sum := by
  have hcases : code = 0 ∨ code = 1 ∨ code = 2 := by omega
  rcases hcases with rfl | rfl | rfl
  · exact popCount_eq x 32
  · rfl
  · exact bitRev_eq x 32

/-! ## Rows of format R -/

/-- A row that is `aluR` with an operation that gives `v` modulo the destination's width computes `v`. -/
theorem computes_of_aluR_mod {c : Instr} {s : State} {sg : SgRef} {f : FormR} {ok : Bool} {us : List Use} {n : Nat}
    {op : Group → Nat → Nat} {v : At → State → Nat → Nat} (hex : exec c s = .next (s.aluR sg f ok us n op)) (hok : ok = true)
    (hv : ∀ a s1 i, op a.g i = v a s1 i % 2 ^ (32 * n)) : Computes c s sg f.g false us f.d n v := by
  intro a s1 h
  obtain ⟨t, ht, hwrote, honly⟩ := computes_of_aluR (v := fun a _ i => op a.g i) hex hok (fun _ _ _ => rfl) a s1 h
  exact ⟨t, ht, hwrote.of_mod fun i _ => hv a s1 i, honly⟩

section
variable (s : State) (sg : SgRef) (f : FormR)

theorem opA_lt (a : At) (i n : Nat) : opA f a i n < 2 ^ (32 * n) := Group.val_lt ..
theorem opB_lt (a : At) (i n : Nat) : opB f a i n < 2 ^ (32 * n) := Group.val_lt ..

theorem computes_addSub (hm : modClear f.mod 2 = true) (hc : f.ctl = 0) :
    Computes (.add sg f) s sg f.g false (use2 f (wRegs f)) f.d (wRegs f) (fun a _ i => opA f a i (wRegs f) + opB f a i (wRegs f))
      ∧ Computes (.sub sg f) s sg f.g false (use2 f (wRegs f)) f.d (wRegs f)
        (fun a _ i => 2 ^ width f + opA f a i (wRegs f) - opB f a i (wRegs f)) := by
  have hok : (modClear f.mod 2 && f.ctl == 0) = true := by simp [hm, hc]
  exact ⟨computes_of_aluR rfl hok fun _ _ _ => rfl, computes_of_aluR_mod rfl hok fun _ _ _ => subMod_eq ..⟩

theorem computes_products (hm : onlyS f = true) (hc : f.ctl = 0) :
    Computes (.mullo sg f) s sg f.g false (use2 f 1) f.d 1 (fun a _ i => opA f a i 1 * opB f a i 1)
      ∧ Computes (.mulhi sg f) s sg f.g false (use2 f 1) f.d 1 (fun a _ i =>
        if sBit f then toTwos 64 (signedOf 32 (opA f a i 1) * signedOf 32 (opB f a i 1)) / 2 ^ 32
        else opA f a i 1 * opB f a i 1 / 2 ^ 32)
      ∧ Computes (.muladd sg f) s sg f.g false (use3 f) f.d 1 (fun a _ i => opA f a i 1 * opB f a i 1 + opC f a i 1) := by
  have hok : (onlyS f && f.ctl == 0) = true := by simp [hm, hc]
  refine ⟨computes_of_aluR rfl hok fun _ _ _ => rfl, computes_of_aluR rfl hok fun a _ i => ?_,
    computes_of_aluR rfl hok fun _ _ _ => rfl⟩
  show _ = mulHigh (sBit f) (opA f a i 1) (opB f a i 1)
  cases sBit f with
  | false => exact (mulHigh_unsigned (opA_lt f a i 1) (opB_lt f a i 1)).symm
  | true => exact (mulHigh_signed ..).symm

theorem computes_minmax (hm : modClear f.mod 3 = true) (hc : f.ctl = 0) :
    Computes (.minmax sg f) s sg f.g false (use2 f (wRegs f)) f.d (wRegs f) fun a _ i =>
      let x := opA f a i (wRegs f)
      let y := opB f a i (wRegs f)
      let le := asInt (sBit f) (width f) x ≤ asInt (sBit f) (width f) y
      if bitAt f.mod 2 then (if le then y else x) else (if le then x else y) :=
  computes_of_aluR rfl (by simp [hm, hc]) fun _ _ _ => (minMax_eq ..).symm

theorem computes_logic (hm : fld f.mod 2 4 ≤ 4) (hc : f.ctl = 0) :
    Computes (.logic sg f) s sg f.g false (use2 f (wRegs f)) f.d (wRegs f) fun a _ i =>
      let x := opA f a i (wRegs f)
      let y := opB f a i (wRegs f)
      if fld f.mod 2 4 = 0 then x &&& y
      else if fld f.mod 2 4 = 1 then x ||| y
      else if fld f.mod 2 4 = 2 then x ^^^ y
      else if fld f.mod 2 4 = 3 then x &&& (2 ^ width f - 1 - y % 2 ^ width f)
      else 2 ^ width f - 1 - x % 2 ^ width f :=
  computes_of_aluR rfl (by simp [hm, hc]) fun a _ i => (logicOp_eq (opA_lt f a i _) (opB_lt f a i _) hm).symm

theorem computes_shift (hm : modClear f.mod 3 = true) (hc : f.ctl = 0) :
    Computes (.shift sg f) s sg f.g false (use2 f (wRegs f)) f.d (wRegs f) fun a _ i =>
      let x := opA f a i (wRegs f)
      let k := opB f a i (wRegs f)
      if bitAt f.mod 2 = false then x * 2 ^ k
      else if sBit f then toTwos (width f) (signedOf (width f) x / 2 ^ k) else x / 2 ^ k :=
  computes_of_aluR_mod rfl (by simp [hm, hc]) fun a _ i => shiftOp_eq (opA_lt f a i _) ..

theorem computes_field (h0 : bitAt f.mod 0 = false) (hm : modClear f.mod 3 = true) :
    Computes (.field sg f) s sg f.g false (use2 f 1) f.d 1 fun a _ i =>
      let pos := fld f.ctl 5 5
      let len := fld f.ctl 0 5 + 1
      let x := opA f a i 1
      if bitAt f.mod 2 then
        let m := min len (32 - pos)
        let y := opB f a i 1
        y - y / 2 ^ pos % 2 ^ m * 2 ^ pos + x % 2 ^ m * 2 ^ pos
      else if sBit f then toTwos 32 (signedOf len (x / 2 ^ pos)) else x / 2 ^ pos % 2 ^ len :=
  computes_of_aluR rfl (by simp [h0, hm]) fun _ _ _ => by rw [fieldInsert_eq, fieldExtract_eq]; rfl

theorem computes_bitop (h0 : bitAt f.mod 0 = false) (hm : modClear f.mod 4 = true) (hsel : fld f.mod 2 2 ≠ 3) (hc : f.ctl = 0) :
    Computes (.bitop sg f) s sg f.g false (use1 f 1) f.d 1 fun a _ i =>
      let x := opA f a i 1
      if fld f.mod 2 2 = 0 then ((List.range 32).filter fun j => x.testBit j).length
      else if fld f.mod 2 2 = 1 then (if x = 0 then 32 else 31 - Nat.log2 x)
      else ((List.range 32).map fun j => (if x.testBit j then 1 else 0) * 2 ^ (31 - j)).sum :=
  computes_of_aluR rfl (by simp [h0, hm, hsel, hc]) fun a _ i => (bitOp_eq (opA f a i 1) (bitsOf_lt _ 2 2) hsel).symm

theorem computes_pick (hm : modClear f.mod 2 = true) (hc : fld f.ctl 4 6 = 0) :
    Computes (.pick sg f) s sg f.g false (use2 f (wRegs f)) f.d (wRegs f) fun a _ i =>
      if xor (a.g.preg i (fld f.ctl 0 3)) (bitAt f.ctl 3) then opA f a i (wRegs f) else opB f a i (wRegs f) :=
  computes_of_aluR rfl (by simp [hm, hc]) fun a _ i => by
    rw [Bool.bne_eq_xor]; rfl

theorem computes_mov (hm : modClear f.mod 2 = true) (hc : f.ctl = 0) :
    Computes (.mov sg f) s sg f.g false (use1 f (wRegs f)) f.d (wRegs f) fun a _ i => opA f a i (wRegs f) :=
  computes_of_aluR (exec_mov hm hc sg s) rfl fun _ _ _ => rfl

end

/-! ## Rows with an immediate -/

/-- A row whose body writes `v` of each participating lane to one operand computes `v`. -/
theorem computes_of_issue {c : Instr} {s : State} {sg : SgRef} {gf : BitVec 4} {rep uni : Bool} {us : List Use} {d : BitVec 9} {n : Nat}
    {body : At → State → Did} {v : At → State → Nat → Nat} (hex : exec c s = .next (s.issue sg gf rep uni true us body))
    (hbody : ∀ a s1, body a s1 = .done (a.put s1 d n (a.each (v a s1)))) : Computes c s sg gf uni us d n v :=
  fun a s1 h => ⟨_, hex, State.issue_wrote h rep body d n (v a s1) (hbody a s1)⟩

theorem exec_setk {l : FormL} (hm : l.mod = 0 ∨ l.mod = 2) (hr : l.rsv = 0) (sg : SgRef) (s : State) :
    exec (.setk sg l) s = .next (s.issue sg l.g true false true [.dest l.d] fun a s =>
      .done (a.put s l.d 1 (a.each fun _ => l.imm.toNat))) := by
  have hok : (!bitAt l.mod 0 && modClear l.mod 2 && l.rsv == 0) = true := by
    rcases hm with h | h <;> rw [h, hr] <;> rfl
  show execSetk sg l s = _
  rw [execSetk, hok]

theorem computes_setk (s : State) (sg : SgRef) {l : FormL} (hm : l.mod = 0 ∨ l.mod = 2) (hr : l.rsv = 0) :
    Computes (.setk sg l) s sg l.g false [.dest l.d] l.d 1 fun _ _ _ => l.imm.toNat :=
  computes_of_issue (exec_setk hm hr sg s) fun _ _ => rfl

theorem exec_addk {k : FormI} {n : Nat} (hn : (if bitAt k.mod 0 then 2 else 1) = n) (hm : modClear k.mod 2 = true) (sg : SgRef)
    (s : State) : exec (.addk sg k) s = .next (s.issue sg k.g true false true [.dest k.d n, .src k.a n] fun a s =>
      .done (a.put s k.d n (a.each fun i => a.g.val k.a i n + toTwos (32 * n) (signedOf 28 k.imm.toNat)))) := by
  show execAddk sg k s = _
  rw [execAddk, hm, hn]

theorem computes_addk (s : State) (sg : SgRef) {k : FormI} {n : Nat} (hn : (if bitAt k.mod 0 then 2 else 1) = n)
    (hm : modClear k.mod 2 = true) :
    Computes (.addk sg k) s sg k.g false [.dest k.d n, .src k.a n] k.d n fun a _ i =>
      a.g.val k.a i n + toTwos (32 * n) (signedOf 28 k.imm.toNat) :=
  computes_of_issue (exec_addk hn hm sg s) fun _ _ => rfl

end Sys2Proof.Machine

open Sys2Proof Sys2Proof.Machine

/-- Settles O4: each row is `aluR` with its operation, and the operation gives the row's formula modulo the width. -/
theorem integerResults : Obligations.IntegerResults := by
  unfold Obligations.IntegerResults
  intro s sg f
  exact ⟨fun hm hc => (computes_addSub s sg f hm hc).1, fun hm hc => (computes_addSub s sg f hm hc).2,
    fun hm hc => (computes_products s sg f hm hc).1, fun hm hc => (computes_products s sg f hm hc).2.1,
    fun hm hc => (computes_products s sg f hm hc).2.2, computes_minmax s sg f, computes_logic s sg f, computes_shift s sg f,
    computes_field s sg f, computes_bitop s sg f, computes_pick s sg f, computes_mov s sg f,
    fun _ => computes_setk s sg, fun _ => computes_addk s sg rfl⟩

end

section
/-! # Rows that write a predicate, and cross-lane rows (O8, O9)

A mask of lanes as the list of its lanes; what writing a predicate in some lanes does; and the rows of R137, R138, R149, R150,
R151 and R154. -/
namespace Sys2Proof.Machine
open Sys2Proof.Claims

/-! ## Masks and their lanes -/

theorem mem_lanesOf {m : BitVec 32} {i : Nat} : i ∈ lanesOf m ↔ i < 32 ∧ bitAt m i = true := by
  rw [lanesOf, List.mem_filter, List.mem_range]

theorem bitAt_eq_testBit {n : Nat} (w : BitVec n) (i : Nat) : bitAt w i = w.toNat.testBit i := by
  rw [bitAt, fld, bitsOf_one]
  cases w.toNat.testBit i <;> rfl

/-- No bit of a word stands at its width or above. -/
theorem bitAt_of_le {n : Nat} (w : BitVec n) {i : Nat} (h : n ≤ i) : bitAt w i = false := by
  rw [bitAt_eq_testBit]
  exact Nat.testBit_lt_two_pow (w.isLt.trans_le (Nat.pow_le_pow_right (by decide) h))

theorem toNat_maskBy (f : Nat → Bool) : (maskBy f).toNat = maskSum f 32 := by
  rw [maskBy, BitVec.toNat_ofNat]
  exact Nat.mod_eq_of_lt (maskSum_lt f 32)

theorem maskSum_eq_sum (f : Nat → Bool) (n : Nat) : maskSum f n = (((List.range n).filter f).map fun i => 2 ^ i).sum := by
  induction n with
  | zero => rfl
  | succ n ih =>
    rw [maskSum_succ, ih, List.range_succ, List.filter_append, List.map_append, List.sum_append]
    cases h : f n <;> simp [h]

/-- A mask is the sum of its lanes' bits. -/
theorem toNat_eq_sum_lanes (m : BitVec 32) : m.toNat = ((lanesOf m).map fun i => 2 ^ i).sum := by
  rw [lanesOf, ← maskSum_eq_sum]
  apply Nat.eq_of_testBit_eq
  intro i
  by_cases hi : i < 32
  · rw [testBit_maskSum _ hi, bitAt_eq_testBit]
  · have hle : 2 ^ 32 ≤ 2 ^ i := Nat.pow_le_pow_right (by decide) (Nat.le_of_not_lt hi)
    rw [Nat.testBit_lt_two_pow (m.isLt.trans_le hle), Nat.testBit_lt_two_pow ((maskSum_lt _ 32).trans_le hle)]

theorem lanesOf_inj {m m' : BitVec 32} (h : lanesOf m = lanesOf m') : m = m' :=
  BitVec.eq_of_toNat_eq (by rw [toNat_eq_sum_lanes, toNat_eq_sum_lanes, h])

theorem lanesOf_votes (a : At) (p : BitVec 9) : lanesOf (a.votes p) = a.lanes.filter fun i => a.g.prd p i := by
  rw [At.lanes, lanesOf, lanesOf, List.filter_filter]
  refine List.filter_congr fun i hi => ?_
  rw [At.votes, bitAt_maskBy _ (List.mem_range.mp hi), Bool.and_comm]

theorem votes_any (a : At) (p : BitVec 9) : (a.votes p != 0) = a.lanes.any fun i => a.g.prd p i := by
  have hzero : a.votes p = 0 ↔ ∀ i ∈ a.lanes, ¬ a.g.prd p i = true := by
    rw [← List.filter_eq_nil_iff, ← lanesOf_votes]
    exact ⟨fun h => by rw [h]; decide, fun h => lanesOf_inj (h.trans (by decide))⟩
  rw [Bool.eq_iff_iff, bne_iff_ne, ne_eq, hzero, List.any_eq_true]
  push Not
  rfl

theorem votes_all (a : At) (p : BitVec 9) : (a.votes p == a.m) = a.lanes.all fun i => a.g.prd p i := by
  have hfull : a.votes p = a.m ↔ ∀ i ∈ a.lanes, a.g.prd p i = true := by
    rw [← List.filter_eq_self, ← lanesOf_votes]
    exact ⟨fun h => by rw [h, At.lanes], lanesOf_inj⟩
  rw [Bool.eq_iff_iff, beq_iff_eq, hfull, List.all_eq_true]

theorem bitAt_m_iff (a : At) (i : Nat) : bitAt a.m i = true ↔ i ∈ a.lanes := by
  rw [At.lanes, mem_lanesOf]
  refine ⟨fun h => ⟨?_, h⟩, And.right⟩
  by_contra hi
  rw [bitAt_of_le _ (Nat.le_of_not_lt hi)] at h
  cases h

theorem At.each_congr {α : Type} {a : At} {v w : Nat → α} (h : ∀ i ∈ a.lanes, v i = w i) : a.each v = a.each w :=
  List.map_congr_left fun i hi => by rw [h i hi]

/-! ## Predicates after a write -/

theorem Group.preg_setP (g : Group) {l l' : Nat} (h : l < 32) (h' : l' < 32) (k k' : Nat) (v : Bool) :
    (g.setP l k v).preg l' k' = if l' = l ∧ k' = k ∧ k ≠ 0 then v else g.preg l' k' := by
  unfold Group.setP
  by_cases hk : k = 0
  · simp [hk]
  · rw [if_neg hk]
    unfold Group.preg
    simp only [Sparse.get_set]
    by_cases hh : l' = l ∧ k' = k
    · obtain ⟨rfl, rfl⟩ := hh
      simp [hk]
    · rw [if_neg (by omega : ¬ l' + 32 * k' = l + 32 * k), if_neg fun hc => hh ⟨hc.1, hc.2.1⟩]

/-- A predicate destination's own number; ZERO has none. -/
theorem Group.preg_pwr (g : Group) {l l' : Nat} (h : l < 32) (h' : l' < 32) (f : BitVec 9) (k : Nat) (v : Bool) :
    (g.pwr f l v).preg l' k = if fileOf f = (.p, k) ∧ k ≠ 0 ∧ l' = l then v else g.preg l' k := by
  unfold Group.pwr
  split
  · next n hn =>
    rw [Group.preg_setP g h h', hn]
    by_cases hk : k = n
    · subst hk
      simp [and_comm]
    · rw [if_neg fun hc => hk hc.2.1, if_neg fun hc => hk (Prod.ext_iff.mp hc.1).2.symm]
  · next hne => rw [if_neg fun hc => hne k hc.1]

section
variable (f : BitVec 9) {vals : List (Nat × Bool)}

theorem Group.preg_putPreds_kept (g : Group) (hl : ∀ p ∈ vals, p.1 < 32) {i k : Nat} (hi : i < 32)
    (h : ¬ (fileOf f = (.p, k) ∧ k ≠ 0 ∧ i ∈ vals.map Prod.fst)) : (g.putPreds f vals).preg i k = g.preg i k := by
  induction vals generalizing g with
  | nil => rfl
  | cons p ps ih =>
    have hrest : ¬ (fileOf f = (.p, k) ∧ k ≠ 0 ∧ i ∈ ps.map Prod.fst) :=
      fun ⟨hf, hk, hm⟩ => h ⟨hf, hk, List.mem_cons_of_mem _ hm⟩
    refine (ih (g.pwr f p.1 p.2) (fun q hq => hl q (List.mem_cons_of_mem _ hq)) hrest).trans ?_
    rw [Group.preg_pwr g (hl p List.mem_cons_self) hi, if_neg]
    exact fun ⟨hf, hk, he⟩ => h ⟨hf, hk, he ▸ List.mem_cons_self⟩

theorem Group.preg_putPreds (g : Group) (hl : ∀ p ∈ vals, p.1 < 32) (hn : (vals.map Prod.fst).Nodup) {k : Nat}
    (hf : fileOf f = (.p, k)) (hk : k ≠ 0) {p : Nat × Bool} (hp : p ∈ vals) : (g.putPreds f vals).preg p.1 k = p.2 := by
  induction vals generalizing g with
  | nil => cases hp
  | cons q qs ih =>
    obtain ⟨hq, hqs⟩ := List.nodup_cons.mp hn
    have hltq := hl q List.mem_cons_self
    have hlt : ∀ x ∈ qs, x.1 < 32 := fun x hx => hl x (List.mem_cons_of_mem _ hx)
    rcases List.mem_cons.mp hp with rfl | hp
    · refine (Group.preg_putPreds_kept f (g.pwr f p.1 p.2) hlt hltq fun hc => hq hc.2.2).trans ?_
      rw [Group.preg_pwr g hltq hltq, if_pos ⟨hf, hk, rfl⟩]
    · exact ih _ hlt hqs hp

end

/-- Writing predicates writes the group's predicates alone. -/
theorem Group.putPreds_eq (g : Group) (f : BitVec 9) (vals : List (Nat × Bool)) :
    g.putPreds f vals = { g with p := (g.putPreds f vals).p } := by
  induction vals generalizing g with
  | nil => rfl
  | cons q qs ih =>
    obtain ⟨p, hone⟩ : ∃ p, g.pwr f q.1 q.2 = { g with p := p } := by
      unfold Group.pwr
      split
      · unfold Group.setP
        split
        · exact ⟨g.p, rfl⟩
        · exact ⟨_, rfl⟩
      · exact ⟨g.p, rfl⟩
    rw [show g.putPreds f (q :: qs) = (g.pwr f q.1 q.2).putPreds f qs from rfl, hone]
    exact ih { g with p := p }

/-- What was written to predicates of a state may be said of an earlier one with the same registers. -/
theorem At.WrotePreds.from {a : At} {s u t : State} {d : BitVec 9} {vals : List (Nat × Bool)} (h : a.WrotePreds u t d vals)
    (hs : (a.groupIn s).SameRegs (a.groupIn u)) (ho : a.OtherGroupsKept s u) : a.WrotePreds s t d vals := by
  obtain ⟨hst, hsu, hsp, hsh, hsl⟩ := hs
  refine ⟨h.inP, fun i hi k hk => (h.pKept i hi k hk).trans ?_, h.tKept.trans hst, h.uKept.trans hsu, h.hKept.trans hsh,
    h.lstatKept.trans hsl, ho.trans h.others⟩
  rw [Group.preg, hsp, Group.preg]

section
variable (a : At) (old : State) (us : List Use) {u : State} {x : Block} (h : u.block a.core a.blk = some x)
include h

/-- Predicates that the instruction has written stay written. -/
theorem At.putPreds_finished (d : BitVec 9) (v : Nat → Bool) :
    a.WrotePreds u (a.issued (a.advance (a.supersede old (a.putPreds u d (a.each v)) us))) d (a.each v) := by
  obtain ⟨y, hy, -⟩ := State.block_modGroup u a.core a.blk a.grp (fun g => g.putPreds d (a.each v)) h
  obtain ⟨ht, hu, hp, hh, hl, hothers⟩ := At.finished_regsKept a old us (u := a.putPreds u d (a.each v)) hy
  have hgrp : a.groupIn (a.putPreds u d (a.each v)) = (a.groupIn u).putPreds d (a.each v) := At.groupIn_modGroup a u _ h
  have hkept := Group.putPreds_eq (a.groupIn u) d (a.each v)
  have hlt : ∀ p ∈ a.each v, p.1 < 32 := fun p hp => by
    obtain ⟨i, hi, rfl⟩ := List.mem_map.mp hp
    exact lanesOf_lt _ _ hi
  have hnd : ((a.each v).map Prod.fst).Nodup := by rw [At.each_fst]; exact lanesOf_nodup _
  have hpreg (i k : Nat) : (a.groupIn (a.issued (a.advance (a.supersede old (a.putPreds u d (a.each v)) us)))).preg i k =
      ((a.groupIn u).putPreds d (a.each v)).preg i k := by rw [Group.preg, hp, hgrp, Group.preg]
  refine ⟨fun k hf hk p hp => ?_, fun i hi k hk => ?_, ht.trans ?_, hu.trans ?_, hh.trans ?_, hl.trans ?_,
    (At.modGroup_kept a u _ h).trans hothers⟩
  · rw [hpreg, Group.preg_putPreds d _ hlt hnd hf hk hp]
  · rw [hpreg, Group.preg_putPreds_kept d _ hlt hi hk]
  all_goals rw [hgrp, hkept]

end

theorem At.putPreds_onlyCores (a : At) (s : State) (d : BitVec 9) (vals : List (Nat × Bool)) : OnlyCores s (a.putPreds s d vals) := by
  unfold At.putPreds At.modGroup
  exact State.modGroup_onlyCores ..

/-- A row whose body writes `v` of each participating lane to a predicate decides `v`. -/
theorem decides_of_issue {c : Instr} {s : State} {sg : SgRef} {gf : BitVec 4} {rep uni : Bool} {us : List Use} {d : BitVec 9}
    {body : At → State → Did} {v : At → State → Nat → Bool} (hex : exec c s = .next (s.issue sg gf rep uni true us body))
    (hbody : ∀ a s1, body a s1 = .done (a.putPreds s1 d (a.each (v a s1)))) : Decides c s sg gf uni us d v := by
  intro a s1 h
  obtain ⟨⟨x, hblk, -⟩, -⟩ := State.issuing_block h
  rw [State.issue_done h rep (hbody a s1)] at hex
  exact ⟨_, hex, At.putPreds_finished a s us hblk d (v a s1),
    At.finished_onlyIssued a us (State.issuing_reqs h).symm (At.putPreds_onlyCores ..)⟩

/-! ## The rows that write a predicate -/

theorem condInt_eq {code : Nat} (h : code ≤ 5) (x y : Int) : condInt code x y =
    if code = 0 then decide (x = y) else if code = 1 then decide (x ≠ y) else if code = 2 then decide (x < y)
    else if code = 3 then decide (x ≤ y) else if code = 4 then decide (x > y) else decide (x ≥ y) := by
  interval_cases code
  · exact Bool.beq_eq_decide_eq x y
  · simp [condInt, bne, Bool.beq_eq_decide_eq]
  all_goals rfl

theorem sel_lt (f : FormR) : sel f < 4 := bitsOf_lt _ 2 2

theorem predOp_eq {code : Nat} (h : code < 4) (x y : Bool) : predOp code x y =
    if code = 0 then x && y else if code = 1 then x || y else if code = 2 then xor x y else x && !y := by
  interval_cases code
  · rfl
  · rfl
  · exact congrFun (congrFun Bool.bne_eq_xor x) y
  · rfl

section
variable (s : State) (sg : SgRef) (f : FormR)

theorem decides_cmp (h5 : bitAt f.mod 5 = false) (hsel : fld f.mod 2 3 ≤ 5) (hc : f.ctl = 0) :
    Decides (.cmp sg f) s sg f.g false [.dstIn f.d [.p, .zero], .src f.a (wRegs f), .src f.b (wRegs f), .unused f.c] f.d
      fun a _ i =>
        let x := asInt (sBit f) (width f) (opA f a i (wRegs f))
        let y := asInt (sBit f) (width f) (opB f a i (wRegs f))
        if fld f.mod 2 3 = 0 then x = y else if fld f.mod 2 3 = 1 then x ≠ y else if fld f.mod 2 3 = 2 then x < y
        else if fld f.mod 2 3 = 3 then x ≤ y else if fld f.mod 2 3 = 4 then x > y else x ≥ y :=
  decides_of_issue (exec_cmp h5 hsel hc sg s) fun a _ => by
    rw [At.each_congr fun i _ => condInt_eq hsel ..]
    rfl

theorem decides_cmpF (hm : lowModClear f = true) (hc : fld f.ctl 3 7 = 0) :
    Decides (.cmpF sg f) s sg f.g false [.dstIn f.d [.p, .zero], .src f.a, .src f.b, .unused f.c] f.d
      fun a _ i => condFp (fld f.ctl 0 3) (fdec (a.g.fa f i)) (fdec (a.g.fb f i)) := by
  have hok : (lowModClear f && fld f.ctl 3 7 == 0) = true := by simp [hm, hc]
  refine decides_of_issue (rep := true) (body := fun a s => .done (a.putPreds s f.d (a.each fun i =>
    condFp (fld f.ctl 0 3) (fdec (a.g.fa f i)) (fdec (a.g.fb f i))))) ?_ fun _ _ => rfl
  show execCmpF sg f s = _
  rw [execCmpF, hok]

theorem decides_pred (hm : selOnly f = true) :
    Decides (.pred sg f) s sg f.g false [.dstIn f.d [.p, .zero], .srcIn f.a [.p], .srcIn f.b [.p], .unused f.c] f.d
      fun a _ i =>
        let x := a.g.prd f.a i
        let y := a.g.prd f.b i
        if sel f = 0 then x && y else if sel f = 1 then x || y else if sel f = 2 then xor x y else x && !y := by
  refine decides_of_issue (rep := false) (body := fun a s => .done (a.putPreds s f.d (a.each fun i =>
    predOp (sel f) (a.g.prd f.a i) (a.g.prd f.b i)))) ?_ fun a _ => ?_
  · show execPred sg f s = _
    rw [execPred, hm]
  · rw [At.each_congr fun i _ => predOp_eq (sel_lt f) (a.g.prd f.a i) (a.g.prd f.b i)]

/-- TALLY writes a predicate when it does not select MASK, which is 2, or 3, which is illegal (R150). -/
theorem exec_tally_pred (hm : selOnly f = true) (h2 : sel f ≠ 2) (h3 : sel f ≠ 3) :
    exec (.tally sg f) s = .next (s.issue sg f.g false true true
      [.dstIn f.d [.p, .zero], .srcIn f.a [.p], .unused f.b, .unused f.c] fun a s =>
        .done (a.putPreds s f.d (a.each fun _ => if sel f = 0 then a.votes f.a != 0 else a.votes f.a == a.m))) := by
  have hok : (selOnly f && sel f != 3) = true := by simp [hm, h3]
  show execTally sg f s = _
  simp only [execTally, hok, if_neg h2]

theorem decides_tallyAny (hm : selOnly f = true) (hs : sel f = 0) :
    Decides (.tally sg f) s sg f.g true [.dstIn f.d [.p, .zero], .srcIn f.a [.p], .unused f.b, .unused f.c] f.d
      fun a _ _ => a.lanes.any fun j => a.g.prd f.a j :=
  decides_of_issue (exec_tally_pred s sg f hm (by omega) (by omega)) fun a _ => by rw [if_pos hs, votes_any]

theorem decides_tallyAll (hm : selOnly f = true) (hs : sel f = 1) :
    Decides (.tally sg f) s sg f.g true [.dstIn f.d [.p, .zero], .srcIn f.a [.p], .unused f.b, .unused f.c] f.d
      fun a _ _ => a.lanes.all fun j => a.g.prd f.a j :=
  decides_of_issue (exec_tally_pred s sg f hm (by omega) (by omega)) fun a _ => by rw [if_neg (by omega), votes_all]

theorem decides_sbTest (hm : plainR f = true) :
    Decides (.sbTest sg f) s sg f.g false [.dstIn f.d [.p, .zero], .srcIn f.a [.h], .unused f.b, .unused f.c] f.d
      fun a _ _ => hState (a.g.handle f.a) ≠ 2 := by
  refine decides_of_issue (rep := false) (body := fun a s => .done (a.putPreds s f.d (a.each fun _ =>
    !pending (a.g.handle f.a)))) ?_ fun a _ => ?_
  · show execSbTest sg f s = _
    rw [execSbTest, hm]
  · have hne : (!pending (a.g.handle f.a)) = decide (hState (a.g.handle f.a) ≠ 2) := by
      simp [pending, Bool.beq_eq_decide_eq]
    rw [hne]

/-! ## The cross-lane rows -/

theorem computes_tallyMask (hm : selOnly f = true) (hs : sel f = 2) :
    Computes (.tally sg f) s sg f.g true [.dest f.d, .srcIn f.a [.p], .unused f.b, .unused f.c] f.d 1
      fun a _ _ => ((a.lanes.filter fun j => a.g.prd f.a j).map fun j => 2 ^ j).sum := by
  refine computes_of_issue (rep := false) (body := fun a s => .done (a.put s f.d 1 (a.each fun _ => (a.votes f.a).toNat))) ?_
    fun a _ => ?_
  · have hok : (selOnly f && sel f != 3) = true := by simp [hm, hs]
    show execTally sg f s = _
    simp only [execTally, hok, if_pos hs]
  · rw [toNat_eq_sum_lanes, lanesOf_votes]

/-- The value that LXCH gives a lane. -/
def lxchValue (f : FormR) (a : At) (i : Nat) : Nat :=
  match lxchLane (sel f) i (opB f a i 1) with
  | some k => if bitAt a.m k then a.g.val f.a k 1 else a.g.val f.a i 1
  | none => a.g.val f.a i 1

/-- The lane that LXCH reads; one that takes no part, or is none of the 32, gives the lane's own value (R149, R150). -/
theorem lxchValue_eq (f : FormR) (a : At) (i : Nat) {src : Option Nat}
    (h : lxchLane (sel f) i (opB f a i 1) = src.filter fun k => decide (k < 32)) :
    lxchValue f a i = if ∃ j ∈ a.lanes, src = some j then opA f a (src.getD 0) 1 else opA f a i 1 := by
  rw [lxchValue, h]
  cases src with
  | none => simp [opA]
  | some k =>
    by_cases hk : k < 32
    · rw [show (some k).filter (fun k => decide (k < 32)) = some k by simp [Option.filter, hk]]
      simp [bitAt_m_iff, opA]
    · have hout : k ∉ a.lanes := fun hmem => hk (lanesOf_lt _ _ hmem)
      rw [show (some k).filter (fun k => decide (k < 32)) = none by simp [Option.filter, hk]]
      simp [hout, opA]

theorem lxchLane_eq {code : Nat} (h : code < 4) (i k : Nat) : lxchLane code i k =
    (if code = 0 then some k else if code = 1 then (if k ≤ i then some (i - k) else none)
      else if code = 2 then some (i + k) else some (i ^^^ k)).filter fun j => decide (j < 32) := by
  interval_cases code <;> rfl

theorem computes_lxch (hm : selOnly f = true) :
    Computes (.lxch sg f) s sg f.g false (use2 f 1) f.d 1 fun a _ i =>
      let k := opB f a i 1
      let from? : Option Nat := if sel f = 0 then some k else if sel f = 1 then (if k ≤ i then some (i - k) else none)
        else if sel f = 2 then some (i + k) else some (i ^^^ k)
      if ∃ j ∈ a.lanes, from? = some j then opA f a (from?.getD 0) 1 else opA f a i 1 := by
  refine computes_of_issue (rep := false) (body := fun a s => .done (a.put s f.d 1 (a.each (lxchValue f a)))) ?_ fun a _ => ?_
  · show execLxch sg f s = _
    rw [execLxch, hm]
    rfl
  · rw [At.each_congr fun i _ => lxchValue_eq f a i (lxchLane_eq (sel_lt f) i (opB f a i 1))]

theorem computes_rdl (hm : f.mod = 0) (hc : f.ctl = 0) :
    Computes (.rdl sg f) s sg f.g true [.dstIn f.d [.u, .zero], .srcIn f.a [.t], .srcIn f.b [.u, .zero], .unused f.c] f.d 1
      fun a _ _ => if opB f a a.firstLane 1 % 32 ∈ a.lanes then opA f a (opB f a a.firstLane 1 % 32) 1 else 0 := by
  refine computes_of_issue (rep := false) (body := fun a s => .done (a.put s f.d 1 (a.each fun _ =>
    if bitAt a.m (opB f a a.firstLane 1 % 32) then opA f a (opB f a a.firstLane 1 % 32) 1 else 0))) ?_ fun a _ => ?_
  · have hok : (f.mod == 0 && f.ctl == 0) = true := by simp [hm, hc]
    show execRdl sg f s = _
    rw [execRdl, hok]
    rfl
  · simp only [bitAt_m_iff]

theorem computes_pack (hm : selOnly f = true) :
    Computes (.pack sg f) s sg f.g false (use1 f 1) f.d 1 fun a _ i =>
      let w := packWidth (sel f)
      (a.lanes.map fun j => opA f a j 1 % 2 ^ w * 2 ^ (w * j)).sum / 2 ^ (32 * i) % 2 ^ 32 := by
  refine computes_of_issue (rep := false) (body := fun a s => .done (a.put s f.d 1 (a.each fun k =>
    bitsOf (a.stream f.a (packWidth (sel f))) (32 * k) 32))) ?_ fun a _ => ?_
  · show execPack sg f s = _
    rw [execPack, hm]
  · simp only [At.stream, bitsOf_eq, pow_zero, Nat.div_one]
    rfl

end

end Sys2Proof.Machine

open Sys2Proof Sys2Proof.Machine

/-- Settles O8, row by row. -/
theorem predicateResults : Obligations.PredicateResults := by
  unfold Obligations.PredicateResults
  exact fun s sg f => ⟨decides_cmp s sg f, decides_cmpF s sg f, decides_pred s sg f, decides_tallyAny s sg f, decides_tallyAll s sg f,
    decides_sbTest s sg f⟩

/-- Settles O9, row by row. -/
theorem crossLaneResults : Obligations.CrossLaneResults := by
  unfold Obligations.CrossLaneResults
  exact fun s sg f => ⟨computes_tallyMask s sg f, computes_lxch s sg f, computes_rdl s sg f, computes_pack s sg f⟩

end

section
/-! # Handles and spool counters (O13, O14, O15)

What an instruction leaves whose effect is more than a change of cores; then the rows of R154, R159 and R160. -/
namespace Sys2Proof.Machine
open Sys2Proof.Claims

/-! ## The end of an issue after any effect -/

/-- Issue, by what the instruction's own effect answers. -/
theorem exec_of_issuing {c : Instr} {s s1 : State} {sg : SgRef} {gf : BitVec 4} {rep uni : Bool} {us : List Use} {a : At}
    {body : At → State → Did} (h : s.issuing sg gf uni us = some (a, s1))
    (hex : exec c s = .next (s.issue sg gf rep uni true us body)) : exec c s = .next (a.answered s us (body a s1)) := by
  rw [hex, State.issue_of_issuing h]
  cases body a s1 <;> rfl

theorem At.access_waits {a : At} {s : State} (h : s.acquiring a = true) (body : State → Did) : a.access s body = .wait := by
  rw [At.access, if_pos h]

theorem At.access_free {a : At} {s : State} (h : s.acquiring a = false) (body : State → Did) : a.access s body = body s := by
  rw [At.access, h, if_neg Bool.false_ne_true]

/-- An instruction without a destination supersedes nothing (R131). -/
theorem At.supersede_of_noDest (a : At) (old s : State) {us : List Use} (h : ∀ u ∈ us, u.dst = false) :
    a.supersede old s us = s := by
  have hany (d : BitVec 9) (n : Nat) : (us.any fun u => u.dst && sharesReg u.f u.n d n) = false :=
    List.any_eq_false.mpr fun u hu => by simp [h u hu]
  unfold At.supersede
  simp only [hany, Bool.and_false, Bool.false_and]
  rw [if_neg]
  simp only [List.any_eq_true, not_exists, not_and]
  intro q _ hq
  split at hq
  · split at hq <;> cases hq
  · cases hq

section
variable (a : At) (us : List Use) {old old' : State} (ho : old'.reqs = old.reqs) (u : State)
include ho

theorem At.flowed_onlyIssuedAfter : a.OnlyIssuedAfter us old u (a.issued (a.supersede old' u us)) := by
  refine ⟨?_, ?_⟩
  · rw [At.supersede_old ho, At.supersede_eq]
    rfl
  · rw [At.core_issued, if_pos rfl]

theorem At.finished_onlyIssuedAfter : a.OnlyIssuedAfter us old u (a.issued (a.advance (a.supersede old' u us))) := by
  obtain ⟨heq, hturn⟩ := a.flowed_onlyIssuedAfter us ho (a.advance u)
  have hadv := a.advance_onlyCores u
  rw [At.advance_supersede]
  refine ⟨heq.trans ?_, hturn⟩
  rw [At.supersede_reqs hadv.reqs]
  generalize a.advance u = v at hadv
  rw [hadv]
  rfl

end

theorem At.RegsKept.of_cores {a : At} {s u t : State} (hc : u.cores = s.cores) (h : a.RegsKept u t) : a.RegsKept s t := by
  have hg : a.groupIn u = a.groupIn s := State.group_of_cores hc ..
  obtain ⟨ht, hu, hp, hh, hl, hothers⟩ := h
  rw [hg] at ht hu hp hh hl
  exact ⟨ht, hu, hp, hh, hl, (At.OtherGroupsKept.of_cores hc).trans hothers⟩

/-! ## Handles -/

theorem pending_of {v : DWord} (h : hState v = 2) : pending v = true := by rw [pending, h]; rfl
theorem pending_of_ne {v : DWord} (h : hState v ≠ 2) : pending v = false := beq_false_of_ne h

/-- A row that writes a handle, unless it is PENDING, which holds the instruction (R155). -/
theorem next_setHandle {c : Instr} {s s1 : State} {sg : SgRef} {gf : BitVec 4} {us : List Use} {a : At} {f : BitVec 9} {v : DWord}
    {body : At → State → Did} (h : s.issuing sg gf false us = some (a, s1))
    (hex : exec c s = .next (s.issue sg gf false false true us body))
    (hbody : body a s1 = if pending (a.g.handle f) then .wait else .done (a.modGroup s1 fun g => g.setH (hNo f) v)) :
    (hState (a.g.handle f) ≠ 2 → Next c s fun t => a.WroteHandle s1 t (hNo f) v ∧ a.OnlyIssued us s1 t)
      ∧ (hState (a.g.handle f) = 2 → exec c s = .next (a.served s)) := by
  obtain ⟨⟨x, hblk, -⟩, -⟩ := State.issuing_block h
  have hex := exec_of_issuing h hex
  rw [hbody] at hex
  refine ⟨fun hne => ?_, fun heq => ?_⟩
  · rw [pending_of_ne hne, if_neg Bool.false_ne_true] at hex
    exact ⟨_, hex, At.setH_finished a s us hblk (hNo f) v, At.finished_onlyIssued a us (State.issuing_reqs h).symm
      (State.modGroup_onlyCores s1 a.core a.blk a.grp fun g => g.setH (hNo f) v)⟩
  · rw [pending_of heq, if_pos rfl] at hex
    exact hex

section
variable {s s1 : State} {sg : SgRef} {f : FormR} {a : At} (hm : plainR f = true)
include hm

theorem next_hset (h : s.issuing sg f.g false [.dstIn f.d [.h], .srcIn f.a [.u], .unused f.b, .unused f.c] = some (a, s1)) :
    (hState (a.g.handle f.d) ≠ 2 →
        Next (.hset sg f) s fun t => a.WroteHandle s1 t (hNo f.d) (BitVec.ofNat 64 (2 ^ 62 + a.g.val f.a 0 1 % 2 ^ 19))
          ∧ a.OnlyIssued [.dstIn f.d [.h], .srcIn f.a [.u], .unused f.b, .unused f.c] s1 t)
      ∧ (hState (a.g.handle f.d) = 2 → exec (.hset sg f) s = .next (a.served s)) := by
  have hvalue (x : Nat) : mkHandle 1 0 0 x = BitVec.ofNat 64 (2 ^ 62 + x % 2 ^ 19) := by simp [mkHandle]
  refine next_setHandle (body := fun a s => if pending (a.g.handle f.d) then .wait
    else .done (a.modGroup s fun g => g.setH (hNo f.d) (mkHandle 1 0 0 (a.g.val f.a 0 1)))) h ?_ (by rw [hvalue])
  show execHset sg f s = _
  rw [execHset, hm]

theorem next_hclr (h : s.issuing sg f.g false [.dstIn f.d [.h], .unused f.a, .unused f.b, .unused f.c] = some (a, s1)) :
    (hState (a.g.handle f.d) ≠ 2 → Next (.hclr sg f) s fun t => a.WroteHandle s1 t (hNo f.d) 0
        ∧ a.OnlyIssued [.dstIn f.d [.h], .unused f.a, .unused f.b, .unused f.c] s1 t)
      ∧ (hState (a.g.handle f.d) = 2 → exec (.hclr sg f) s = .next (a.served s)) := by
  refine next_setHandle (body := fun a s => if pending (a.g.handle f.d) then .wait
    else .done (a.modGroup s fun g => g.setH (hNo f.d) 0)) h ?_ rfl
  show execHclr sg f s = _
  rw [execHclr, hm]

theorem computes_hget : Computes (.hget sg f) s sg f.g true [.dest f.d 2, .srcIn f.a [.h], .unused f.b, .unused f.c] f.d 2
    (fun a _ _ => (a.g.handle f.a).toNat) := by
  refine computes_of_issue (rep := false) (body := fun a s =>
    .done (a.put s f.d 2 (a.each fun _ => (a.g.handle f.a).toNat))) ?_ fun _ _ => rfl
  show execHget sg f s = _
  rw [execHget, hm]

theorem exec_sbWait : exec (.sbWait sg f) s = .next (s.issue sg f.g false false true
    [.unused f.d, .srcIn f.a [.h], .unused f.b, .unused f.c] fun a s =>
      if pending (a.g.handle f.a) then .flow (a.holdAt s (.handle (hNo f.a))) else .done s) := by
  show execSbWait sg f s = _
  rw [execSbWait, hm]

theorem next_sbWait (h : s.issuing sg f.g false [.unused f.d, .srcIn f.a [.h], .unused f.b, .unused f.c] = some (a, s1)) :
    Next (.sbWait sg f) s fun t => a.OtherGroupsKept s1 t
      ∧ a.OnlyIssued [.unused f.d, .srcIn f.a [.h], .unused f.b, .unused f.c] s1 t ∧
      if hState (a.g.handle f.a) = 2 then
        a.groupIn t = (a.groupIn s1).replace a.sub.lane
          [{ a.sub with pc := a.sub.pc + 8, wait := .handle (hNo f.a), since := s1.lcount }]
      else a.groupIn t = (parted a s1 none [(a.sub.mask, a.sub.pc + 8)]).joined := by
  obtain ⟨⟨x, hblk, -⟩, -⟩ := State.issuing_block h
  by_cases hp : hState (a.g.handle f.a) = 2
  · obtain ⟨t, ht, hgrp, hothers, honly⟩ := next_flow h (exec_sbWait (s := s) (sg := sg) hm)
      (F := fun g => g.replace a.sub.lane [{ a.stamp s1 with pc := a.next, wait := .handle (hNo f.a) }])
      (by rw [pending_of hp]; rfl) rfl
    exact ⟨t, ht, hothers, honly, by rw [if_pos hp]; exact hgrp⟩
  · have hex := exec_of_issuing h (exec_sbWait hm)
    rw [pending_of_ne hp] at hex
    exact ⟨_, hex, At.finished_kept a s _ hblk, At.finished_onlyIssued a _ (State.issuing_reqs h).symm rfl,
      by rw [if_neg hp]; exact At.groupIn_finished a s _ hblk⟩

end

section
variable {s : State} {sg : SgRef} {b : Block} {x : Sub} {k : Nat} (hblk : s.block sg.core sg.blk = some b)
  (hsub : (b.group sg.grp).subs.find? (fun x => bitAt x.mask sg.lane) = some x) (hwait : x.wait = .handle k)
include hblk hsub hwait

theorem exec_sbWaitReady : exec (.sbWaitReady sg) s = if pending ((b.group sg.grp).hreg k) then .next s
    else .next (s.modGroup sg.core sg.blk sg.grp fun g => (g.replace x.lane [{ x with wait := .none, since := s.lcount }]).joined) := by
  show execSbWaitReady sg s = _
  simp only [execSbWaitReady, hblk, hsub, hwait]

theorem next_sbWaitReady (hp : hState ((b.group sg.grp).hreg k) ≠ 2) : Next (.sbWaitReady sg) s fun t =>
    t.group sg.core sg.blk sg.grp = ((b.group sg.grp).replace x.lane [{ x with wait := .none, since := s.lcount }]).joined
      ∧ (∀ c b' g, (c, b', g) ≠ (sg.core, sg.blk, sg.grp) → t.group c b' g = s.group c b' g) ∧ OnlyCores s t := by
  refine ⟨_, (exec_sbWaitReady hblk hsub hwait).trans (by rw [pending_of_ne hp, if_neg Bool.false_ne_true]), ?_, ?_,
    State.modGroup_onlyCores ..⟩
  · rw [State.group_modGroup _ _ _ _ _ _ _ _ hblk, if_pos ⟨rfl, rfl, rfl⟩]
  · intro c b' g hne
    rw [State.group_modGroup _ _ _ _ _ _ _ _ hblk, if_neg fun ⟨hc, hb, hg⟩ => hne (by rw [hc, hb, hg])]

theorem exec_sbWaitReady_pending (hp : hState ((b.group sg.grp).hreg k) = 2) : exec (.sbWaitReady sg) s = .next s := by
  rw [exec_sbWaitReady hblk hsub hwait, pending_of hp, if_pos rfl]

end

/-! ## Changes of counters -/

/-- `t` differs from `s` at most in counters, their changes and the waits on them. -/
def State.OnlySpool (s t : State) : Prop := t = { s with spool := t.spool, spoolChg := t.spoolChg, waiters := t.waiters }

theorem State.spoolChange_onlySpool (s : State) (n : Nat) (v : DWord) : s.OnlySpool (s.spoolChange n v) := rfl

theorem State.waiters_onlySpool (s : State) (ws : List Waiter) : s.OnlySpool { s with waiters := ws } := rfl

theorem State.spoolAdd_onlySpool (s : State) (n k : Nat) : s.OnlySpool (s.spoolAdd n k) := by
  rw [State.spoolAdd]
  split <;> rfl

theorem State.spoolVal_spoolAdd (s : State) (n k j : Nat) : (s.spoolAdd n k).spoolVal j =
    if j = n then
      if bitAt (s.spoolVal n) 63 then s.spoolVal n else BitVec.ofNat 64 (min (fld (s.spoolVal n) 0 63 + k) (2 ^ 63 - 1))
    else s.spoolVal j := by
  by_cases hp : spoolPoisoned (s.spoolVal n) = true
  · rw [State.spoolAdd, if_pos hp, if_pos (show bitAt (s.spoolVal n) 63 = true from hp)]
    split
    · next h => rw [h]
    · rfl
  · rw [State.spoolAdd, if_neg hp, State.spoolVal_spoolChange, if_neg (show ¬ bitAt (s.spoolVal n) 63 = true from hp)]
    rfl

theorem State.toNat_spoolVal_spoolSet (s : State) (n v : Nat) : ((s.spoolSet n v).spoolVal n).toNat = v % 2 ^ 63 := by
  rw [State.spoolSet, State.spoolVal_spoolChange, if_pos rfl, BitVec.toNat_ofNat]
  omega

/-- The counter that a register names, when the context may use it (R159, R421). -/
theorem At.counter_of_mayCount {a : At} {s : State} {f : BitVec 9} (h : mayCount s a (a.g.val f 0 1)) :
    a.counter s f = some (a.g.val f 0 1) := by
  obtain ⟨hlt, hvalid, hlo, hhi⟩ := h
  have hin : s.inSpool a.b.ctx (a.g.val f 0 1) = true := by
    simp only [State.inSpool, hvalid, hlo, hhi, decide_true, Bool.and_self]
  rw [At.counter, if_pos ⟨hlt, hin⟩]

theorem waitOutcome_now {v : DWord} {target : Nat} (h : bitAt v 63 = true ∨ target % 2 ^ 63 ≤ fld v 0 63) :
    waitOutcome v target = some !bitAt v 63 := by
  unfold waitOutcome spoolPoisoned spoolCount
  by_cases hp : bitAt v 63 = true
  · rw [if_pos hp, hp]
    rfl
  · rw [if_neg hp, if_pos (h.resolve_left hp), Bool.eq_false_iff.mpr hp]
    rfl

theorem waitOutcome_later {v : DWord} {target : Nat} (hp : bitAt v 63 = false) (h : fld v 0 63 < target % 2 ^ 63) :
    waitOutcome v target = none := by
  unfold waitOutcome spoolPoisoned spoolCount
  rw [hp, if_neg Bool.false_ne_true, if_neg (by omega)]

/-- What holding a sub-group leaves of an effect on counters alone. -/
theorem At.counted_held {a : At} (us : List Use) {old s u : State} (ho : old.reqs = s.reqs) (hu : s.OnlySpool u)
    {x : Block} (hblk : s.block a.core a.blk = some x) (w : Wait) :
    ∃ t, a.issued (a.supersede old (a.holdAt u w) us) = t ∧ t.waiters = u.waiters ∧ t.spool = u.spool ∧ t.spoolChg = u.spoolChg
      ∧ a.groupIn t = (a.groupIn s).replace a.sub.lane [{ a.sub with pc := a.sub.pc + 8, wait := w, since := s.lcount }]
      ∧ OnlyCounted a us s t := by
  have hcores : u.cores = s.cores := by rw [hu]
  have hlcount : u.lcount = s.lcount := by rw [hu]
  have hgroup := At.groupIn_flowed a old us ((State.block_of_cores hcores ..).trans hblk)
    fun g => g.replace a.sub.lane [{ a.stamp u with pc := a.next, wait := w }]
  obtain ⟨heq, -⟩ := a.flowed_onlyIssuedAfter us ho (a.holdAt u w)
  have hheld : OnlyCores u (a.holdAt u w) := State.modGroup_onlyCores u a.core a.blk a.grp
    fun g => g.replace a.sub.lane [{ a.stamp u with pc := a.next, wait := w }]
  have hreqs : (a.supersede s (a.holdAt u w) us).reqs = (a.supersede s s us).reqs :=
    At.supersede_reqs (hheld.reqs.trans (by rw [hu]))
  rw [hreqs] at heq
  refine ⟨_, rfl, ?_, ?_, ?_, hgroup.trans ?_, ?_⟩
  · rw [heq, hheld]
  · rw [heq, hheld]
  · rw [heq, hheld]
  · rw [show a.groupIn u = a.groupIn s from State.group_of_cores hcores .., At.stamp, hlcount]
    rfl
  · generalize a.issued _ = t at heq ⊢
    generalize a.holdAt u w = v at heq hheld
    rw [OnlyCounted, heq, hheld, hu]
    rfl

/-- What finishing an instruction without a destination leaves of an effect on counters alone. -/
theorem At.counted_finished {a : At} {us : List Use} (hdest : ∀ u ∈ us, u.dst = false) (old : State) {s u : State} (hu : s.OnlySpool u)
    {x : Block} (hblk : s.block a.core a.blk = some x) :
    ∃ t, a.issued (a.advance (a.supersede old u us)) = t ∧ (∀ n, t.spoolVal n = u.spoolVal n) ∧ (∀ n, t.changes n = u.changes n)
      ∧ a.RegsKept s t ∧ OnlyCounted a us s t := by
  have hcores : u.cores = s.cores := by rw [hu]
  have hregs := At.finished_regsKept a old us ((State.block_of_cores hcores ..).trans hblk)
  obtain ⟨heq, -⟩ := a.finished_onlyIssuedAfter us (rfl : old.reqs = old.reqs) u
  rw [At.supersede_of_noDest _ _ _ hdest] at hregs heq ⊢
  refine ⟨_, rfl, fun n => ?_, fun n => ?_, hregs.of_cores hcores, ?_⟩
  · rw [State.spoolVal, heq, State.spoolVal]
  · rw [State.changes, State.history, heq, State.changes, State.history]
  · generalize a.issued (a.advance u) = t at heq
    rw [OnlyCounted, heq, At.supersede_of_noDest _ _ _ hdest, hu]
    rfl

/-! ## What has to happen before a release -/

theorem State.release_cases (s : State) (a : At) (o : Nat) : (s.release a o).1 = s ∨ (s.release a o).1 = s.writeBackAll a.core := by
  unfold State.release
  split
  · exact .inl rfl
  · split
    · exact .inl rfl
    · split
      · exact .inl rfl
      · simp only []
        split <;> exact .inr rfl

theorem State.block_release (s : State) (a : At) (o c b : Nat) : (s.release a o).1.block c b = s.block c b := by
  rcases s.release_cases a o with h | h <;> rw [h]
  exact State.writeBackAll_block ..

/-- Without a release, and with one of the CTA or cluster whose reads have returned, nothing has to happen (R219). -/
theorem State.release_nothing {s : State} {a : At} {c : BitVec 10}
    (h : fld c 3 1 = 0 ∨ (fld c 0 2 < 2 ∧ s.readsPending a = false)) : s.release a (fld c 0 4) = (s, true) := by
  by_cases hr : ordRelease (fld c 0 4) = true
  · have hone := (ordRelease_ctl c).mp hr
    obtain ⟨hscope, hreads⟩ := h.resolve_left (by omega)
    exact State.release_near hr hreads (ordScope_ctl c ▸ hscope)
  · exact State.release_of_not_release (Bool.eq_false_iff.mpr hr)

/-- A form that sets no acquire bit (R147). -/
theorem ordAcquire_ctl {c : BitVec 10} (h : fld c 2 1 = 0) : ordAcquire (fld c 0 4) = false := by
  unfold ordAcquire
  unfold fld at h ⊢
  rw [bitsOf_bitsOf (by decide), h]
  rfl

/-! ## The rows on counters -/

section
variable {s s1 : State} {sg : SgRef} {f : FormR} {a : At}

theorem exec_splRd (hm : plainR f = true) (sg : SgRef) (s : State) : exec (.splRd sg f) s = .next (s.issue sg f.g false true true
    (useRd f) fun a s => a.access s fun s => match a.counter s f.a with
      | none => .fault s fPermission 0
      | some n => .done (a.put s f.d 2 (a.each fun _ => (s.spoolVal n).toNat))) := by
  show execSplRd sg f s = _
  rw [execSplRd, hm]
  rfl

theorem exec_splSet (hm : plainR f = true) (sg : SgRef) (s : State) : exec (.splSet sg f) s = .next (s.issue sg f.g false false true
    (useSet f) fun a s => a.access s fun s => match a.counter s f.a with
      | none => .fault s fPermission 0
      | some n => .done (s.spoolSet n (a.g.val f.b 0 2))) := by
  show execSplSet sg f s = _
  rw [execSplSet, hm]
  rfl

theorem exec_splAdd (hm : f.mod = 0) (hc : fld f.ctl 4 6 = 0) (hacq : fld f.ctl 2 1 = 0) (sg : SgRef) (s : State) :
    exec (.splAdd sg f) s = .next (s.issue sg f.g false false true (useAdd f) fun a s => a.access s fun s =>
      match a.counter s f.a with
      | none => .fault s fPermission 0
      | some n => if (s.release a (fld f.ctl 0 4)).2 then .done ((s.release a (fld f.ctl 0 4)).1.spoolAdd n (a.g.val f.b 0 1))
          else .retry (s.release a (fld f.ctl 0 4)).1) := by
  have hok : (f.mod == 0 && fld f.ctl 4 6 == 0 && !ordAcquire (fld f.ctl 0 4)) = true := by simp [hm, hc, ordAcquire_ctl hacq]
  show execSplAdd sg f s = _
  simp only [execSplAdd, hok]
  rfl

theorem exec_splWait (hm : plainR f = true) (sg : SgRef) (s : State) : exec (.splWait sg f) s = .next (s.issue sg f.g false false true
    (useWait f) fun a s => a.access s fun s => match a.counter s f.a with
      | none => .fault s fPermission 0
      | some n => match waitOutcome (s.spoolVal n) (a.g.val f.b 0 2) with
        | some r => .done (a.putPreds (if r then s.observe a.core a.blk a.grp a.m else s) f.d (a.each fun _ => r))
        | none => .flow (a.holdAt { s with waiters := s.waiters ++
            [{ who := .sub a.core a.blk a.grp a.sub.lane, id := n, target := a.g.val f.b 0 2, result := none }] }
          (.spool (predNo f.d) a.m))) := by
  show execSplWait sg f s = _
  rw [execSplWait, hm]
  rfl

theorem next_splRd (hm : plainR f = true) (h : s.issuing sg f.g true (useRd f) = some (a, s1)) (hacq : s1.acquiring a = false)
    (hid : mayCount s1 a (a.g.val f.a 0 1)) : Next (.splRd sg f) s fun t =>
      a.WroteRegs s1 t f.d 2 (a.each fun _ => (s1.spoolVal (a.g.val f.a 0 1)).toNat) ∧ a.OnlyIssuedDraws (useRd f) s1 t :=
  ⟨_, exec_splRd hm sg s, State.issue_wrote h false _ f.d 2 _ (by simp only [At.access_free hacq, At.counter_of_mayCount hid])⟩

theorem useSet_noDest (f : FormR) : ∀ u ∈ useSet f, u.dst = false := by
  simp [useSet, Use.srcIn, Use.unused]

theorem useAdd_noDest (f : FormR) : ∀ u ∈ useAdd f, u.dst = false := by
  simp [useAdd, Use.srcIn, Use.unused]

theorem next_splSet (hm : plainR f = true) (h : s.issuing sg f.g false (useSet f) = some (a, s1)) (hacq : s1.acquiring a = false)
    (hid : mayCount s1 a (a.g.val f.a 0 1)) : Next (.splSet sg f) s fun t =>
      (t.spoolVal (a.g.val f.a 0 1)).toNat = a.g.val f.b 0 2 % 2 ^ 63
        ∧ (∀ n, n ≠ a.g.val f.a 0 1 → t.spoolVal n = s1.spoolVal n)
        ∧ t.changes (a.g.val f.a 0 1) = s1.changes (a.g.val f.a 0 1) + 1 ∧ a.RegsKept s1 t
        ∧ OnlyCounted a (useSet f) s1 t := by
  obtain ⟨⟨x, hblk, -⟩, -⟩ := State.issuing_block h
  have hex := exec_of_issuing h (exec_splSet hm sg s)
  simp only [At.access_free hacq, At.counter_of_mayCount hid] at hex
  obtain ⟨t, ht, hval, hchg, hregs, hcount⟩ := At.counted_finished (useSet_noDest f) s
    (s1.spoolChange_onlySpool (a.g.val f.a 0 1) (BitVec.ofNat 64 (a.g.val f.b 0 2 % 2 ^ 63))) hblk
  refine ⟨t, hex.trans (congrArg Host.Outcome.next ht), ?_, fun n hn => ?_, ?_, hregs, hcount⟩
  · rw [hval, ← State.spoolSet, State.toNat_spoolVal_spoolSet]
  · rw [hval, State.spoolVal_spoolChange, if_neg hn]
  · rw [hchg, State.changes_spoolChange, if_pos rfl]

/-- SPL.ADD once no acquire is outstanding: it waits for its release, and then adds. -/
theorem next_splAdd (hm : f.mod = 0) (hc : fld f.ctl 4 6 = 0) (hord : fld f.ctl 2 1 = 0)
    (h : s.issuing sg f.g false (useAdd f) = some (a, s1)) (hacq : s1.acquiring a = false)
    (hid : mayCount s1 a (a.g.val f.a 0 1)) {u : State} {done : Bool} (hr : s1.release a (fld f.ctl 0 4) = (u, done)) :
    (done = false → exec (.splAdd sg f) s = .next (a.issued u))
      ∧ (done = true → Next (.splAdd sg f) s fun t =>
        t.spoolVal (a.g.val f.a 0 1) =
            (let v := u.spoolVal (a.g.val f.a 0 1)
             if bitAt v 63 then v else BitVec.ofNat 64 (min (fld v 0 63 + a.g.val f.b 0 1) (2 ^ 63 - 1)))
          ∧ (∀ n, n ≠ a.g.val f.a 0 1 → t.spoolVal n = u.spoolVal n) ∧ a.RegsKept u t ∧ OnlyCounted a (useAdd f) u t) := by
  obtain ⟨⟨x, hblk, -⟩, -⟩ := State.issuing_block h
  have hex := exec_of_issuing h (exec_splAdd hm hc hord sg s)
  simp only [At.access_free hacq, At.counter_of_mayCount hid, hr] at hex
  refine ⟨fun hd => ?_, fun hd => ?_⟩ <;> subst hd
  · exact hex
  · have hblku : u.block a.core a.blk = some x := by
      rw [← hblk, ← s1.block_release a (fld f.ctl 0 4), hr]
    obtain ⟨t, ht, hval, -, hregs, hcount⟩ := At.counted_finished (useAdd_noDest f) s
      (u.spoolAdd_onlySpool (a.g.val f.a 0 1) (a.g.val f.b 0 1)) hblku
    refine ⟨t, hex.trans (congrArg Host.Outcome.next ht), ?_, fun n hn => ?_, hregs, hcount⟩
    · rw [hval, State.spoolVal_spoolAdd, if_pos rfl]
    · rw [hval, State.spoolVal_spoolAdd, if_neg hn]

end

/-! ## What an acquire makes visible (R221) -/

/-- A group whose sub-groups have seen other writes. -/
def Group.seeing (k : Sub → List Nat) (g : Group) : Group := { g with subs := g.subs.map fun x => { x with seen := k x } }

section
variable (s : State) (core blk grp : Nat) (m : BitVec 32)

theorem State.observe_cases : s.observe core blk grp m = s ∨
    ∃ k, s.observe core blk grp m = s.modGroup core blk grp (Group.seeing k) := by
  unfold State.observe
  cases s.reqs.filterMap fun q => if q.2.any Req.isWrite then some q.1 else none with
  | nil => exact .inl rfl
  | cons t ts =>
    refine .inr ⟨fun x => if x.mask &&& m != 0 then (x.seen ++ t :: ts).eraseDups else x.seen,
      congrArg (s.modGroup core blk grp) (funext fun g => ?_)⟩
    refine congrArg (fun l => { g with subs := l }) (List.map_congr_left fun x _ => ?_)
    simp only []
    split <;> rfl

theorem State.observe_onlyCores : OnlyCores s (s.observe core blk grp m) := by
  rcases s.observe_cases core blk grp m with h | ⟨k, h⟩ <;> rw [h]
  · rfl
  · exact State.modGroup_onlyCores ..

theorem State.observe_waiters (ws : List Waiter) :
    State.observe { s with waiters := ws } core blk grp m = { s.observe core blk grp m with waiters := ws } := by
  unfold State.observe State.modGroup
  have hblk : State.block { s with waiters := ws } core blk = s.block core blk := rfl
  simp only [hblk]
  split
  · rfl
  · split <;> rfl

end

section
variable {a : At} {s : State} {x : Block} (h : s.block a.core a.blk = some x) (m : BitVec 32)
include h

theorem At.observe_kept : a.OtherGroupsKept s (s.observe a.core a.blk a.grp m) := by
  rcases s.observe_cases a.core a.blk a.grp m with hs | ⟨k, hs⟩ <;> rw [hs]
  · exact .refl a s
  · exact At.modGroup_kept a s _ h

theorem At.observe_sameRegs : (a.groupIn s).SameRegs (a.groupIn (s.observe a.core a.blk a.grp m)) := by
  rcases s.observe_cases a.core a.blk a.grp m with hs | ⟨k, hs⟩ <;> rw [hs]
  · exact .refl _
  · rw [show s.modGroup a.core a.blk a.grp (Group.seeing k) = a.modGroup s (Group.seeing k) from rfl,
      At.groupIn_modGroup a s _ h]
    exact ⟨rfl, rfl, rfl, rfl, rfl⟩

theorem At.observe_block : ∃ y, (s.observe a.core a.blk a.grp m).block a.core a.blk = some y := by
  rcases s.observe_cases a.core a.blk a.grp m with hs | ⟨k, hs⟩ <;> rw [hs]
  · exact ⟨x, h⟩
  · obtain ⟨y, hy, -⟩ := State.block_modGroup s a.core a.blk a.grp (Group.seeing k) h
    exact ⟨y, hy⟩

end

/-! ## SPL.WAIT -/

section
variable {s s1 : State} {sg : SgRef} {f : FormR} {a : At} (hm : plainR f = true)
  (h : s.issuing sg f.g false (useWait f) = some (a, s1)) (hacq : s1.acquiring a = false)
  (hid : mayCount s1 a (a.g.val f.a 0 1))
include hm h hacq hid

/-- A counter that is poisoned, or has reached the target, gives the outcome at once. -/
theorem next_splWait_now (hnow : bitAt (s1.spoolVal (a.g.val f.a 0 1)) 63 = true ∨
      a.g.val f.b 0 2 % 2 ^ 63 ≤ fld (s1.spoolVal (a.g.val f.a 0 1)) 0 63) : Next (.splWait sg f) s fun t =>
    a.WrotePreds s1 t f.d (a.each fun _ => !bitAt (s1.spoolVal (a.g.val f.a 0 1)) 63) ∧ a.OnlyIssued (useWait f) s1 t := by
  obtain ⟨⟨x, hblk, -⟩, -⟩ := State.issuing_block h
  have hex := exec_of_issuing h (exec_splWait hm sg s)
  simp only [At.access_free hacq, At.counter_of_mayCount hid, waitOutcome_now hnow] at hex
  generalize (!bitAt (s1.spoolVal (a.g.val f.a 0 1)) 63) = r at hex ⊢
  refine ⟨_, hex, ?_⟩
  cases r with
  | false =>
    exact ⟨At.putPreds_finished a s _ hblk f.d _, At.finished_onlyIssued a _ (State.issuing_reqs h).symm (At.putPreds_onlyCores ..)⟩
  | true =>
    obtain ⟨y, hy⟩ := At.observe_block hblk a.m
    exact ⟨(At.putPreds_finished a s _ hy f.d _).from (At.observe_sameRegs hblk a.m) (At.observe_kept hblk a.m),
      At.finished_onlyIssued a _ (State.issuing_reqs h).symm ((s1.observe_onlyCores ..).trans (At.putPreds_onlyCores ..))⟩

/-- Otherwise the sub-group goes on and waits there, and its wait stands last. -/
theorem next_splWait_later (hp : bitAt (s1.spoolVal (a.g.val f.a 0 1)) 63 = false)
    (hlater : fld (s1.spoolVal (a.g.val f.a 0 1)) 0 63 < a.g.val f.b 0 2 % 2 ^ 63) : Next (.splWait sg f) s fun t =>
    a.groupIn t = (a.groupIn s1).replace a.sub.lane
        [{ a.sub with pc := a.sub.pc + 8, wait := .spool (predNo f.d) a.m, since := s1.lcount }]
      ∧ t.waiters = s1.waiters ++ [{ who := .sub a.core a.blk a.grp a.sub.lane, id := a.g.val f.a 0 1,
                                     target := a.g.val f.b 0 2, result := none }]
      ∧ OnlyCounted a (useWait f) s1 t ∧ t.spool = s1.spool ∧ t.spoolChg = s1.spoolChg := by
  obtain ⟨⟨x, hblk, -⟩, -⟩ := State.issuing_block h
  have hex := exec_of_issuing h (exec_splWait hm sg s)
  simp only [At.access_free hacq, At.counter_of_mayCount hid, waitOutcome_later hp hlater] at hex
  obtain ⟨t, ht, hwaiters, hspool, hchg, hgroup, hcount⟩ := At.counted_held (useWait f) (State.issuing_reqs h).symm
    (State.waiters_onlySpool s1 (s1.waiters ++ [⟨.sub a.core a.blk a.grp a.sub.lane, a.g.val f.a 0 1, a.g.val f.b 0 2, none⟩]))
    hblk (.spool (predNo f.d) a.m)
  exact ⟨t, hex.trans (congrArg Host.Outcome.next ht), hgroup, hwaiters, hcount, hspool, hchg⟩

end

/-! ## Waits on counters -/

/-- A change judges each wait on its counter that has no outcome yet (R222). -/
theorem State.mem_waiters_spoolChange {s : State} {n : Nat} {w : Waiter} (hw : w ∈ s.waiters) (hid : w.id = n)
    (hres : w.result = none) (v : DWord) : { w with result := waitOutcome v w.target } ∈ (s.spoolChange n v).waiters :=
  List.mem_map.mpr ⟨w, hw, if_pos ⟨hid, hres⟩⟩

/-- Predicate `n` written in the lanes `ls`. -/
def Group.setPs (g : Group) (ls : List Nat) (n : Nat) (v : Bool) : Group := ls.foldl (fun g i => g.setP i n v) g

theorem Group.preg_setPs (g : Group) {ls : List Nat} (hls : ∀ l ∈ ls, l < 32) {i : Nat} (hi : i < 32) (n k : Nat) (v : Bool) :
    (g.setPs ls n v).preg i k = if i ∈ ls ∧ k = n ∧ n ≠ 0 then v else g.preg i k := by
  induction ls generalizing g with
  | nil => simp [Group.setPs]
  | cons l ls ih =>
    obtain ⟨hl, hls⟩ := List.forall_mem_cons.mp hls
    rw [Group.setPs, List.foldl_cons, ← Group.setPs, ih _ hls, Group.preg_setP g hl hi]
    by_cases hk : k = n ∧ n ≠ 0
    · by_cases hmem : i ∈ ls <;> simp [hk, hmem]
    · simp [hk]

theorem Group.setPs_sameFlow (g : Group) (ls : List Nat) (n : Nat) (v : Bool) : g.SameFlow (g.setPs ls n v) := by
  induction ls generalizing g with
  | nil => exact ⟨rfl, rfl, rfl⟩
  | cons l ls ih =>
    refine Group.SameFlow.trans ?_ (ih (g.setP l n v))
    unfold Group.setP
    split <;> exact ⟨rfl, rfl, rfl⟩

section
variable {s : State} {core blk : Nat} {b : Block} (hblk : s.block core blk = some b) (grp : Nat) (m : BitVec 32)
include hblk

/-- A block after a wait that was reached, and so acquires, or one that was not. -/
theorem State.block_acquired (r : Bool) : ∃ y k, (if r then s.observe core blk grp m else s).block core blk = some y
    ∧ y.group grp = Group.seeing k (b.group grp) := by
  have hsame : b.group grp = Group.seeing Sub.seen (b.group grp) :=
    congrArg (fun l => { b.group grp with subs := l }) (List.map_id _).symm
  cases r with
  | false => exact ⟨b, _, hblk, hsame⟩
  | true =>
    rw [if_pos rfl]
    rcases s.observe_cases core blk grp m with h | ⟨k, h⟩ <;> rw [h]
    · exact ⟨b, _, hblk, hsame⟩
    · obtain ⟨y, hy, -, hgroup⟩ := State.block_modGroup s core blk grp (Group.seeing k) hblk
      exact ⟨y, k, hy, hgroup⟩

end

theorem Group.find_seeing {g : Group} {p : Sub → Bool} (hp : ∀ x l, p { x with seen := l } = p x) {x : Sub}
    (h : g.subs.find? p = some x) (k : Sub → List Nat) : (g.seeing k).subs.find? p = some { x with seen := k x } := by
  rw [Group.seeing, List.find?_map, show (p ∘ fun x => { x with seen := k x }) = p from funext fun x => hp x _, h]
  rfl

section
variable {s : State} {sg : SgRef} {b : Block} {x : Sub} {pd : Nat} {mask : BitVec 32} {w : Waiter} {r : Bool}
  (hblk : s.block sg.core sg.blk = some b) (hsub : (b.group sg.grp).subs.find? (fun x => bitAt x.mask sg.lane) = some x)
  (hwait : x.wait = .spool pd mask) (hw : s.waiters = [w]) (hwho : w.who = .sub sg.core sg.blk sg.grp x.lane)
  (hres : w.result = some r)
include hblk hsub hwait hw hwho hres

theorem exec_splWaitSatisfied {u : State} (hu : u = if r then s.observe sg.core sg.blk sg.grp mask else s) {y : Sub}
    (hy : (u.group sg.core sg.blk sg.grp).subs.find? (fun y => bitAt y.mask sg.lane) = some y) :
    exec (.splWaitSatisfied sg) s = .next (State.modGroup { u with waiters := [] } sg.core sg.blk sg.grp fun g =>
      ((g.setPs (lanesOf mask) pd r).replace y.lane [{ y with wait := .none, since := u.lcount }]).joined) := by
  have hfirst : [w].find? (fun w => w.who == WaitUnit.sub sg.core sg.blk sg.grp x.lane && w.result.isSome) = some w := by
    simp [hwho, hres]
  have hfilter : [w].filter (fun y => y.who != WaitUnit.sub sg.core sg.blk sg.grp x.lane) = [] := by simp [hwho]
  have hobserved : (if some r = some true then State.observe { s with waiters := [] } sg.core sg.blk sg.grp mask
      else { s with waiters := [] }) = { u with waiters := [] } := by
    rw [hu]
    cases r with
    | false => rfl
    | true => exact State.observe_waiters ..
  have hgroup : State.group { u with waiters := [] } sg.core sg.blk sg.grp = u.group sg.core sg.blk sg.grp := rfl
  show execSplWaitSatisfied sg s = _
  simp only [execSplWaitSatisfied, hblk, hsub, hwait, hw, hfirst, hfilter, hobserved, hgroup, hy, hres]
  cases r <;> rfl

theorem next_splWaitSatisfied : Next (.splWaitSatisfied sg) s fun t =>
    t.waiters = []
      ∧ (∀ i < 32, pd ≠ 0 → bitAt mask i = true → (t.group sg.core sg.blk sg.grp).preg i pd = r)
      ∧ (∀ i < 32, ∀ k, k ≠ pd ∨ bitAt mask i = false →
          (t.group sg.core sg.blk sg.grp).preg i k = (b.group sg.grp).preg i k)
      ∧ (let g := (if r then s.observe sg.core sg.blk sg.grp mask else s).group sg.core sg.blk sg.grp
         ∃ y, g.subs.find? (fun y => bitAt y.mask sg.lane) = some y ∧ { y with seen := x.seen } = x
          ∧ (t.group sg.core sg.blk sg.grp).subs
              = ((g.replace x.lane [{ y with wait := .none, since := s.lcount }]).joined).subs)
      ∧ t = { s with cores := t.cores, waiters := t.waiters } := by
  obtain ⟨z, k, hz, hgroup⟩ := State.block_acquired hblk sg.grp mask r
  have honly : OnlyCores s (if r then s.observe sg.core sg.blk sg.grp mask else s) := by
    split
    · exact State.observe_onlyCores ..
    · rfl
  have hex := fun y => exec_splWaitSatisfied hblk hsub hwait hw hwho hres (y := y) rfl
  generalize (if r then s.observe sg.core sg.blk sg.grp mask else s) = u at hz honly hex ⊢
  have hu : u.group sg.core sg.blk sg.grp = Group.seeing k (b.group sg.grp) := by
    rw [State.group, hz]
    exact hgroup
  have hfind : (u.group sg.core sg.blk sg.grp).subs.find? (fun y => bitAt y.mask sg.lane) = some { x with seen := k x } := by
    rw [hu]
    exact Group.find_seeing (fun _ _ => rfl) hsub k
  have hlcount : u.lcount = s.lcount := by rw [honly]
  have ht := State.group_modGroup { u with waiters := [] } sg.core sg.blk sg.grp sg.core sg.blk sg.grp
    (fun g => ((g.setPs (lanesOf mask) pd r).replace x.lane [{ x with seen := k x, wait := .none, since := u.lcount }]).joined) hz
  rw [if_pos ⟨rfl, rfl, rfl⟩, hgroup] at ht
  have hregs := (Group.replace_same ((Group.seeing k (b.group sg.grp)).setPs (lanesOf mask) pd r) x.lane
    [{ x with seen := k x, wait := .none, since := u.lcount }]).trans (Group.joined_same _)
  have hpreg {i : Nat} (hi : i < 32) (j : Nat) : (State.group (State.modGroup { u with waiters := [] } sg.core sg.blk sg.grp
      fun g => ((g.setPs (lanesOf mask) pd r).replace x.lane [{ x with seen := k x, wait := .none, since := u.lcount }]).joined)
        sg.core sg.blk sg.grp).preg i j = if i ∈ lanesOf mask ∧ j = pd ∧ pd ≠ 0 then r else (b.group sg.grp).preg i j := by
    rw [ht, Group.preg, hregs.2.2.1, ← Group.preg, Group.preg_setPs _ (fun l hl => (mem_lanesOf.mp hl).1) hi]
    rfl
  refine ⟨_, hex _ hfind, ?_, fun i hi hpd hbit => ?_, fun i hi j hor => ?_, ⟨_, hfind, rfl, ?_⟩, ?_⟩
  · rw [State.modGroup_onlyCores]
  · exact (hpreg hi pd).trans (if_pos ⟨mem_lanesOf.mpr ⟨hi, hbit⟩, rfl, hpd⟩)
  · refine (hpreg hi j).trans (if_neg fun ⟨hmem, hj, _⟩ => ?_)
    simp [hj, (mem_lanesOf.mp hmem).2] at hor
  · have hflow := ((((Group.seeing k (b.group sg.grp)).setPs_sameFlow (lanesOf mask) pd r).replace x.lane
      [{ x with seen := k x, wait := .none, since := u.lcount }]).joined).1
    rw [hu, ← hlcount, ← hflow]
    exact congrArg Group.subs ht
  · generalize hv : State.modGroup _ _ _ _ _ = v
    have h : OnlyCores { u with waiters := [] } v := hv ▸ State.modGroup_onlyCores ..
    rw [h, honly]

end

end Sys2Proof.Machine

open Sys2Proof Sys2Proof.Machine

/-- Settles O13, row by row. -/
theorem handleInstructions : Obligations.HandleInstructions := by
  unfold Obligations.HandleInstructions
  exact fun s sg f a s1 hm => ⟨next_hset hm, next_hclr hm, computes_hget hm, next_sbWait hm, fun b x k hblk hsub hwait =>
    ⟨next_sbWaitReady hblk hsub hwait, exec_sbWaitReady_pending hblk hsub hwait⟩⟩

/-- Settles O14, row by row: each waits while an acquire is outstanding, and has its effect otherwise. -/
theorem spoolInstructions : Obligations.SpoolInstructions := by
  unfold Obligations.SpoolInstructions
  intro s sg f a s1
  refine ⟨fun hm h => ⟨fun hacq => ?_, next_splRd hm h⟩, fun hm h => ⟨fun hacq => ?_, next_splSet hm h⟩,
    fun hm hc hord h => ⟨fun hacq => ?_, fun hacq hid => ?_⟩,
    fun hm h => ⟨fun hacq => ?_, fun hacq hid => ⟨next_splWait_now hm h hacq hid, next_splWait_later hm h hacq hid⟩⟩⟩
  · rw [exec_of_issuing h (exec_splRd hm sg s), At.access_waits hacq]
    rfl
  · rw [exec_of_issuing h (exec_splSet hm sg s), At.access_waits hacq]
    rfl
  · rw [exec_of_issuing h (exec_splAdd hm hc hord sg s), At.access_waits hacq]
    rfl
  · obtain ⟨hwait, hadd⟩ := next_splAdd hm hc hord h hacq hid rfl
    exact ⟨hwait, hadd, State.release_nothing⟩
  · rw [exec_of_issuing h (exec_splWait hm sg s), At.access_waits hacq]
    rfl

/-- Settles O15: a change judges the waits on its counter, and the sub-group whose wait has an outcome takes it along. -/
theorem spoolChangesAndWaits : Obligations.SpoolChangesAndWaits := by
  unfold Obligations.SpoolChangesAndWaits
  refine ⟨fun s n v w hw hid hres => State.mem_waiters_spoolChange hw hid hres v, fun s n k hp => ?_,
    fun s sg b x pd mask w r hblk hsub hwait hw hwho hres => next_splWaitSatisfied hblk hsub hwait hw hwho hres⟩
  exact ⟨if_pos hp, if_pos hp⟩

end

section
/-! # STR.ISSUE (O30)

As for ARR.ISSUE: what the instruction does by its handle and descriptor, then what an accepted or refused copy leaves. -/
namespace Sys2Proof.Machine
open Sys2Proof.Claims

/-! ## Joining the engine's queue -/

/-- A copy takes the next place in the core order and stands last in the engine's queue (R155, R209, R215). -/
def State.holding (s : State) (core : Nat) (o : CopyOp) : State :=
  s.modCore core fun c => { c with nextSeq := c.nextSeq + 1, copies := c.copies ++ [o] }

theorem At.enqueueCopy_eq (a : At) (s : State) (h addr : Nat) (o : CopyOp) :
    a.enqueueCopy s h addr o = .done (a.modGroup (s.holding a.core o) fun g => g.setH h (mkHandle 2 0 2 addr)) := rfl

/-- `o` is the last copy that the engine holds, under a PENDING handle, and has the next place in the core order. -/
def At.Held (a : At) (s t : State) (h addr : Nat) (o : CopyOp) : Prop :=
  (t.core a.core).copies = (s.core a.core).copies ++ [o]
    ∧ (t.core a.core).nextSeq = (s.core a.core).nextSeq + 1
    ∧ (t.core a.core).arrays = (s.core a.core).arrays ∧ (∀ c, c ≠ a.core → t.core c = s.core c)
    ∧ HandleOnly a s t h (BitVec.ofNat 64 (0x8000000200000000 + addr))

/-- A copy that is held stands there once its instruction has issued. -/
theorem At.held_finished {a : At} {s : State} {x : Block} (hblk : s.block a.core a.blk = some x) {addr : Nat} (haddr : addr < 2 ^ 19)
    (old : State) (us : List Use) (h : Nat) (o : CopyOp) : a.Held s (a.issued (a.advance (a.supersede old
      (a.modGroup (s.holding a.core o) fun g => g.setH h (mkHandle 2 0 2 addr)) us))) h addr o := by
  have hcore : (s.holding a.core o).core a.core =
      { s.core a.core with nextSeq := (s.core a.core).nextSeq + 1, copies := (s.core a.core).copies ++ [o] } :=
    (State.core_modCore ..).trans (if_pos rfl)
  have hblocks : (s.holding a.core o).block a.core a.blk = s.block a.core a.blk := by rw [State.block, hcore, State.block]
  have hgroup : a.groupIn (s.holding a.core o) = a.groupIn s := by rw [At.groupIn, State.group, hblocks, At.groupIn, State.group]
  have hfar {c : Nat} (hc : c ≠ a.core) :=
    (At.core_finished_other a old (a.modGroup (s.holding a.core o) fun g => g.setH h (mkHandle 2 0 2 addr)) us hc).trans
      ((State.core_modGroup_other _ hc _ _ _).trans ((State.core_modCore ..).trans (if_neg hc)))
  obtain ⟨hH, -, hT, hU, hP, -, hkept⟩ := At.setH_finished a old us (hblocks.trans hblk) h (mkHandle 2 0 2 addr)
  rw [hgroup] at hT hU hP
  have hturn := hkept.cores a.core
  rw [hcore] at hturn
  exact ⟨by rw [hturn], by rw [hturn], by rw [hturn], fun c hc => hfar hc, hH.trans (mkHandle_eq haddr ..), hT, hU, hP⟩

/-! ## The descriptor's checks (R155 steps 6 and 7, R211) -/

section
variable {a : At} {s : State} {h addr : Nat} {ws d : List Word} (hd : ws.take 16 = d) (hok : complementsOk 16 ws = true)
  (hkind : fld (wordAt d 0) 24 8 = 0xC1) (hmode : cMode d < 3)
  (hlds : ∀ x ∈ [cSLd d, cDLd d], x + 64 ≤ a.b.ls ∧ complementsOk 8 (s.words (a.b.base + x) 16) = true)
  {lw dw : List Word} (hlw : s.words (a.b.base + cSLd d) 8 = lw) (hdw : s.words (a.b.base + cDLd d) 8 = dw)
  {status : Option Nat} (hstatus : copyStatus d (.ofWords lw) (.ofWords dw) = status)
include hd hok hkind hmode hlds hlw hdw hstatus

/-- A COPY, GATHER or SCATTER whose three descriptors are intact is judged by its status, and then by its sides. -/
theorem At.holdCopy_intact :
    a.holdCopy s h addr ws = status.elim (a.captureCopy s h addr d lw dw 0) (a.refuseCopy s h addr d) := by
  have hload : cLoad d = false := beq_false_of_ne (by omega)
  have hsave : cSave d = false := beq_false_of_ne (by omega)
  have hknown : ¬ 4 < cMode d := by omega
  have hinside : [cSLd d, cDLd d].find? (fun x => decide (a.b.ls < x + 64)) = none :=
    List.find?_eq_none.mpr fun x hx => by simpa using (hlds x hx).1
  have hintact : [cSLd d, cDLd d].find? (fun x => !complementsOk 8 (s.words (a.b.base + x) 16)) = none :=
    List.find?_eq_none.mpr fun x hx => by simp [(hlds x hx).2]
  have hlayouts : ((if cLoad d || decide (4 < cMode d) then [] else [cSLd d])
      ++ (if cSave d || decide (4 < cMode d) then [] else [cDLd d])) = [cSLd d, cDLd d] := by
    simp [hload, hsave, hknown]
  unfold At.holdCopy
  simp only [hd, hlayouts, hinside, hok, hintact, hkind, hlw, hdw, hstatus, ne_eq, not_true_eq_false, Bool.true_eq_false, if_false]
  simp only [hload, hknown, or_false, Bool.false_eq_true, if_false]
  cases status <;> rfl

end

section
variable {a : At} {s : State} {h addr : Nat} {d lw dw : List Word} {sn dn : Nat} {sb db : Option Nat}
  (hsn : copySpan d (.ofWords lw) false 0 = sn) (hdn : copySpan d (.ofWords dw) true 0 = dn)
  (hsb : s.sideBase a.core a.b (cSSpace d) (cSAddr d) = sb) (hdb : s.sideBase a.core a.b (cDSpace d) (cDAddr d) = db)
include hsn hdn hsb hdb

theorem At.captureCopy_overlap (hover : copyOverlap d (.ofWords lw) sb db sn dn = true) :
    a.captureCopy s h addr d lw dw 0 = a.refuseCopy s h addr d 0x52 := by
  unfold At.captureCopy
  simp only [hsn, hdn, hsb, hdb, hover, if_true]

/-- Between sides whose lines are not captured, a copy without a fault is held. -/
theorem At.captureCopy_held (hover : copyOverlap d (.ofWords lw) sb db sn dn = false) (hs : cSSpace d ≠ 2) (hds : cDSpace d ≠ 2)
    (hfault : s.copyFault a d (.ofWords lw) (.ofWords dw) sn dn 0 = (s, none)) :
    a.captureCopy s h addr d lw dw 0 = a.enqueueCopy s h addr (a.newCopy s h d lw dw (sb.getD 0) (db.getD 0) sn dn) := by
  unfold At.captureCopy
  simp only [hsn, hdn, hsb, hdb, hover, hfault, if_neg hs, if_neg hds, Bool.false_eq_true, if_false]

end

/-! ## STR.ISSUE -/

/-- What STR.ISSUE does once no acquire of its threads is outstanding (R155, R157, R209). -/
def At.strIssue (a : At) (f : FormR) (s : State) : Did :=
  let v := a.g.handle f.a
  let addr := hAddr v
  if pending v then .wait
  else if hState v = 0 ∨ addr % 128 ≠ 0 then .done (a.refuseHandle s (hNo f.a) 0x11 2 addr)
  else if a.b.ls < addr + 128 then .fault s fBounds addr
  else if (s.core a.core).conflict (a.b.base + addr) 128 false then .wait
  else if 8 ≤ (s.core a.core).accepted.length then .wait
  else
    let r := s.readMem (a.b.base + addr) 128
    match r.2 with
    | none => .fault r.1 fPoison addr
    | some bs => a.holdCopy r.1 (hNo f.a) addr (wordsLE 32 bs)

theorem exec_strIssue {s s1 : State} {sg : SgRef} {f : FormR} {a : At} (hplain : plainR f = true)
    (h : s.issuing sg f.g false (useStr f) = some (a, s1)) (hacq : s1.acquiring a = false) :
    exec (.strIssue sg f) s = .next (a.answered s (useStr f) (a.strIssue f s1)) := by
  have hex : exec (.strIssue sg f) s = .next (s.issue sg f.g false false true (useStr f) fun a s => a.access s (a.strIssue f)) := by
    show execStrIssue sg f s = _
    rw [execStrIssue, hplain]
    rfl
  rw [exec_of_issuing h hex, At.access_free hacq]

section
variable {a : At} {f : FormR} {s : State}

theorem At.strIssue_pending (h : hState (a.g.handle f.a) = 2) : a.strIssue f s = .wait := by
  rw [At.strIssue, if_pos (pending_of h)]

theorem At.strIssue_noAddress (h2 : hState (a.g.handle f.a) ≠ 2)
    (h : hState (a.g.handle f.a) = 0 ∨ hAddr (a.g.handle f.a) % 128 ≠ 0) :
    a.strIssue f s = .done (a.refuseHandle s (hNo f.a) 0x11 2 (hAddr (a.g.handle f.a))) := by
  rw [At.strIssue, pending_of_ne h2, if_neg Bool.false_ne_true, if_pos h]

variable (hv : hState (a.g.handle f.a) = 1 ∨ hState (a.g.handle f.a) = 3) (hal : hAddr (a.g.handle f.a) % 128 = 0)
  (hin : hAddr (a.g.handle f.a) + 128 ≤ a.b.ls)
  (hfree : (s.core a.core).conflict (a.b.base + hAddr (a.g.handle f.a)) 128 false = false)
include hv hal hin hfree

theorem At.strIssue_full (h : 8 ≤ (s.core a.core).accepted.length) : a.strIssue f s = .wait := by
  rw [At.strIssue, pending_of_ne (by omega), if_neg Bool.false_ne_true, if_neg (by omega), if_neg (by omega), hfree,
    if_neg Bool.false_ne_true, if_pos h]

/-- With room for a copy, its descriptor is read and its checks decide. -/
theorem At.strIssue_read (h : (s.core a.core).accepted.length < 8) (hsound : soundMem s)
    (hpoison : s.anyPoison (a.b.base + hAddr (a.g.handle f.a)) 128 = false) :
    a.strIssue f s = a.holdCopy s (hNo f.a) (hAddr (a.g.handle f.a)) (s.words (a.b.base + hAddr (a.g.handle f.a)) 32) := by
  rw [At.strIssue, pending_of_ne (by omega), if_neg Bool.false_ne_true, if_neg (by omega), if_neg (by omega), hfree,
    if_neg Bool.false_ne_true, if_neg (by omega), State.readMem_of_sound hsound hpoison]
  rfl

end

/-! ## The clauses -/

section
variable {s s1 : State} {sg : SgRef} {f : FormR} {a : At} (hplain : plainR f = true)
  (h : s.issuing sg f.g false (useStr f) = some (a, s1)) (hacq : s1.acquiring a = false)
include hplain h hacq

/-- A handle without an address is DONE with BADDESC. -/
theorem next_strIssue_noAddress (h2 : hState (a.g.handle f.a) ≠ 2)
    (h0 : hState (a.g.handle f.a) = 0 ∨ hAddr (a.g.handle f.a) % 128 ≠ 0) :
    Next (.strIssue sg f) s fun t =>
      a.WroteHandle s1 t (hNo f.a) (BitVec.ofNat 64 (0xC000110200000000 + hAddr (a.g.handle f.a))) ∧ a.OnlyIssued (useStr f) s1 t := by
  obtain ⟨⟨x, hblk, -⟩, -⟩ := State.issuing_block h
  have hex := exec_strIssue hplain h hacq
  rw [At.strIssue_noAddress h2 h0] at hex
  have hwrote := At.setH_finished a s (useStr f) hblk (hNo f.a) (mkHandle 3 0x11 2 (hAddr (a.g.handle f.a)))
  have hvalue : mkHandle 3 0x11 2 (hAddr (a.g.handle f.a)) = BitVec.ofNat 64 (0xC000110200000000 + hAddr (a.g.handle f.a)) :=
    mkHandle_eq (hAddr_lt _) ..
  exact ⟨_, hex, hvalue ▸ hwrote, At.finished_onlyIssued a (useStr f) (State.issuing_reqs h).symm
    (State.modGroup_onlyCores s1 a.core a.blk a.grp fun g => g.setH (hNo f.a) (mkHandle 3 0x11 2 (hAddr (a.g.handle f.a))))⟩

/-- A copy that is put into the queue stands there, and no register but its handle changes. -/
theorem next_strIssue_held {o : CopyOp}
    (hdid : a.strIssue f s1 = a.enqueueCopy s1 (hNo f.a) (hAddr (a.g.handle f.a)) o) :
    Next (.strIssue sg f) s fun t => a.Held s1 t (hNo f.a) (hAddr (a.g.handle f.a)) o ∧ a.OnlyIssued (useStr f) s1 t := by
  obtain ⟨⟨x, hblk, -⟩, -⟩ := State.issuing_block h
  have hex := exec_strIssue hplain h hacq
  rw [hdid, At.enqueueCopy_eq] at hex
  have hheld : OnlyCores s1 (s1.holding a.core o) := rfl
  exact ⟨_, hex, At.held_finished hblk (hAddr_lt _) s (useStr f) (hNo f.a) o,
    At.finished_onlyIssued a (useStr f) (State.issuing_reqs h).symm (hheld.trans (State.modGroup_onlyCores ..))⟩

end

end Sys2Proof.Machine

open Sys2Proof Sys2Proof.Machine Sys2Proof.Claims

/-- Settles O30: each answer of STR.ISSUE in turn, then the ways into the engine's queue. -/
theorem streamIssue : Obligations.StreamIssue := by
  unfold Obligations.StreamIssue
  intro s sg f a s1 hplain h hacq
  extract_lets hn v addr at' ws d lw dw sb db sn dn held
  have hex := exec_strIssue hplain h hacq
  have hheld {o : CopyOp} (hdid : a.strIssue f s1 = a.enqueueCopy s1 hn addr o) : Next (.strIssue sg f) s fun t => held t o := by
    obtain ⟨t, ht, ⟨hcopies, hseq, harrays, hcores, hhandle⟩, honly⟩ := next_strIssue_held hplain h hacq hdid
    exact ⟨t, ht, hcopies, hseq, harrays, hcores, hhandle, honly⟩
  refine ⟨fun h2 => ?_, fun h2 h0 => next_strIssue_noAddress hplain h hacq h2 h0, fun hv hal hin hfree hfull => ?_,
    fun hv hal hin hfree hroom ⟨hsound, _⟩ hpoison hok hkind hmode hlds => ?_⟩
  · rw [hex, At.strIssue_pending h2]
    rfl
  · rw [hex, At.strIssue_full hv hal hin hfree hfull]
    rfl
  · have hdid := (At.strIssue_read hv hal hin hfree hroom hsound hpoison).trans
      (At.holdCopy_intact (h := hn) (addr := addr) rfl hok hkind hmode hlds rfl rfl rfl)
    refine ⟨fun st hst => ?_, fun hst => ⟨fun hover => ?_, fun hover hs hd hfault => ?_⟩⟩
    · rw [hst] at hdid
      exact hheld hdid
    · rw [hst] at hdid
      exact hheld (hdid.trans (At.captureCopy_overlap rfl rfl rfl rfl hover))
    · rw [hst] at hdid
      exact hheld (hdid.trans (At.captureCopy_held rfl rfl rfl rfl hover hs hd hfault))

end

section
/-! # LD (O18)

What placing accesses keeps, what a load at a place of this module reads, and what the destination holds afterwards. -/
namespace Sys2Proof.Machine
open Sys2Proof.Claims

/-! ## Placing the accesses of the lanes -/

/-- A place is found by translation alone (R166), and that leaves the cores as they were. -/
theorem At.place_frame (a : At) (s : State) (space : Nat) (x : Int) (n : Nat) (need : Need) :
    s.FetchFrame (a.place s space x n need).1 := by
  have htranslate := s.translate_frame a.core a.b.ctx (x % 2 ^ 64).toNat need
  unfold At.place
  simp only []
  split
  · exact .refl s
  · split
    · split <;> exact htranslate
    · split
      · exact .refl s
      · split <;> exact .refl s

/-- One more lane's access is placed. -/
def At.placeStep (a : At) (space n : Nat) (need : Need) (p : State × Except (Nat × Nat) (List (Nat × Place))) (q : Nat × Int) :
    State × Except (Nat × Nat) (List (Nat × Place)) :=
  match p.2 with
  | .error e => (p.1, .error e)
  | .ok l =>
    let r := a.place p.1 space q.2 n need
    match r.2 with
    | .error e => (r.1, .error e)
    | .ok w => (r.1, .ok (l ++ [(q.1, w)]))

theorem At.places_eq (a : At) (s : State) (space n : Nat) (need : Need) (qs : List (Nat × Int)) :
    a.places s space n need qs = qs.foldl (a.placeStep space n need) (s, .ok []) := rfl

/-- A fold that keeps an error ends with it. -/
theorem foldl_error {α σ ε β : Type} {f : σ × Except ε β → α → σ × Except ε β} (hf : ∀ s e x, f (s, .error e) x = (s, .error e))
    (s : σ) (e : ε) (l : List α) : l.foldl f (s, .error e) = (s, .error e) := by
  induction l with
  | nil => rfl
  | cons x xs ih => rw [List.foldl_cons, hf, ih]

theorem At.foldl_placeStep {a : At} {space n : Nat} {need : Need} {qs : List (Nat × Int)} {s t : State} {l ps : List (Nat × Place)}
    (h : qs.foldl (a.placeStep space n need) (s, .ok l) = (t, .ok ps)) :
    s.FetchFrame t ∧ ps.map Prod.fst = l.map Prod.fst ++ qs.map Prod.fst := by
  induction qs generalizing s l with
  | nil =>
    obtain ⟨rfl, hl⟩ := Prod.mk.inj h
    cases hl
    exact ⟨.refl s, (List.append_nil _).symm⟩
  | cons q qs ih =>
    have hframe := a.place_frame s space q.2 n need
    rw [List.foldl_cons, At.placeStep] at h
    cases hplace : a.place s space q.2 n need with
    | mk u r =>
      rw [hplace] at hframe
      cases r with
      | error e =>
        simp only [hplace] at h
        rw [foldl_error (fun _ _ _ => rfl)] at h
        cases (Prod.mk.inj h).2
      | ok w =>
        simp only [hplace] at h
        obtain ⟨hrest, hkeys⟩ := ih h
        exact ⟨hframe.trans hrest, by simp [hkeys]⟩

/-- Placing keeps the cores, and gives each lane its place. -/
theorem At.places_ok {a : At} {space n : Nat} {need : Need} {qs : List (Nat × Int)} {s t : State} {ps : List (Nat × Place)}
    (h : a.places s space n need qs = (t, .ok ps)) : s.FetchFrame t ∧ ps.map Prod.fst = qs.map Prod.fst :=
  At.foldl_placeStep h

theorem addrs_fst (a : At) (f : FormM) (ls : List Nat) : (addrs a f ls).map Prod.fst = ls := by
  rw [addrs, List.map_map]
  exact List.map_id _

theorem At.loadLanes_sublist (a : At) (d : BitVec 9) : (a.loadLanes d).Sublist a.lanes := by
  unfold At.loadLanes
  split
  · exact List.take_sublist ..
  · exact List.Sublist.refl _

/-! ## What a load at a place of this module reads -/

theorem length_bytes (s : State) (a n : Nat) : (s.bytes a n).length = n := by
  induction n generalizing a with
  | zero => rfl
  | succ n ih => rw [State.bytes, List.length_cons, ih]

theorem State.length_slotBytes (s : State) (a : Nat) (bs : List Byte) : (s.slotBytes a bs).length = bs.length := by
  unfold State.slotBytes
  simp only []
  split
  · rfl
  · simp

theorem State.isStore_iff {s : State} {a : Nat} :
    s.isStore a = true ↔ s.populated a = true ∧ isSpool a = false ∧ isRegs a = false := by
  simp [State.isStore, and_assoc]

theorem State.writeBack_of_none {s : State} {core k : Nat} (h : (s.core core).line k = none) : s.writeBack core k = s := by
  unfold State.writeBack
  rw [h]

/-- Memory of this module that is sound and not poisoned is read as it is shown. -/
theorem State.threadRead_of_store {s : State} (hsound : soundMem s) {x n : Nat} (hx : s.isStore x = true)
    (hp : s.anyPoison x n = false) (core ctx : Nat) : s.threadRead core ctx x n = (s, some (shown s x n)) := by
  obtain ⟨hpop, hspool, hregs⟩ := State.isStore_iff.mp hx
  simp only [State.threadRead, hpop, hspool, hregs, State.readMem_of_sound hsound hp, shown, Bool.not_true, Bool.false_eq_true,
    if_false]
  split <;> rfl

theorem length_shown (s : State) (x n : Nat) : (shown s x n).length = n := by
  unfold shown
  split
  · rw [State.length_slotBytes, length_bytes]
  · exact length_bytes s x n

section
variable {s : State} {core n : Nat} {cached : Bool} {p : Place} {bs : List Byte} (h : sees s core cached p n = some bs)
include h

/-- An access that sees bytes is of this module's memory: a line of the cache part, or memory that no line holds. -/
theorem sees_cases : ∃ x va c, p = .here x va c ∧ s.isStore x = true ∧
    ((∃ l, (s.core core).line (x / 64 * 64) = some l ∧ (cached && c && (s.core core).split != 0) = true ∧ bs = l.slice (x % 64) n)
      ∨ ((s.core core).line (x / 64 * 64) = none ∧ (cached && c && (s.core core).split != 0) = false
        ∧ s.anyPoison x n = false ∧ bs = shown s x n)) := by
  cases p with
  | away => cases h
  | here x va c =>
    rw [sees] at h
    split at h
    · cases h
    · next hx =>
      refine ⟨x, va, c, rfl, Bool.eq_true_of_not_eq_false hx, ?_⟩
      split at h
      · next l hl huse => exact .inl ⟨l, hl, huse, (Option.some.inj h).symm⟩
      · next hl huse =>
        split at h
        · cases h
        · next hp => exact .inr ⟨hl, huse, Bool.eq_false_iff.mpr hp, (Option.some.inj h).symm⟩
      · cases h

theorem length_of_sees : bs.length ≤ n := by
  obtain ⟨x, va, c, -, -, ⟨l, -, -, rfl⟩ | ⟨-, -, -, rfl⟩⟩ := sees_cases h
  · exact List.length_take_le ..
  · exact (length_shown s x n).le

/-- What a load sees it reads, and the state stays as it is. -/
theorem At.load_of_sees {a : At} (hcore : a.core = core) (hsound : soundMem s) (d : BitVec 9) {wid : Nat} (hn : widBytes wid = n)
    (acq : Bool) (lane : Nat) : a.load s d wid cached acq lane p = (s, .bytes bs) := by
  obtain ⟨x, va, c, rfl, hx, hcase⟩ := sees_cases h
  have hread : s.readHere core a.b.ctx x n (cached && c) = (s, some bs) := by
    rcases hcase with ⟨l, hl, huse, rfl⟩ | ⟨hl, huse, hp, rfl⟩
    · have hcond : (cached && c && s.isStore x && (s.core core).split != 0) = true := by
        rw [hx, Bool.and_true]
        exact huse
      simp only [State.readHere, hcond, hl, if_true]
    · have hcond : (cached && c && s.isStore x && (s.core core).split != 0) = false := by
        rw [hx, Bool.and_true]
        exact huse
      rw [State.readHere, hcond, if_neg Bool.false_ne_true, State.writeBack_of_none hl, State.threadRead_of_store hsound hx hp]
  rw [At.load, hn, hcore]
  simp only [hread]

end

/-! ## The values of the loads -/

/-- One more lane's load is performed. -/
def At.loadStep (a : At) (d : BitVec 9) (wid : Nat) (cached acq : Bool) (q : State × Except (Nat × Nat) (List (Nat × Nat)))
    (p : Nat × Place) : State × Except (Nat × Nat) (List (Nat × Nat)) :=
  match q.2 with
  | .error e => (q.1, .error e)
  | .ok l =>
    let r := a.load q.1 d wid cached acq p.1 p.2
    match r.2 with
    | .bytes bs => (r.1, .ok (l ++ [(p.1, extendWid wid (natLE bs))]))
    | .asked => (r.1, .ok l)
    | .stop c => (r.1, .error (c, p.2.addr))

section
variable {a : At} {d : BitVec 9} {wid : Nat} {cached acq : Bool} {ps : List (Nat × Place)}

theorem At.loads_eq (s : State) : a.loads s d wid cached acq ps = ps.foldl (a.loadStep d wid cached acq) (s, .ok []) := rfl

/-- The loads give values to some of the lanes that have a place, in their order. -/
theorem At.foldl_loadStep {s t : State} {l vals : List (Nat × Nat)}
    (h : ps.foldl (a.loadStep d wid cached acq) (s, .ok l) = (t, .ok vals)) :
    ∃ new, vals = l ++ new ∧ (new.map Prod.fst).Sublist (ps.map Prod.fst) := by
  induction ps generalizing s l with
  | nil =>
    cases (Prod.mk.inj h).2
    exact ⟨[], (List.append_nil _).symm, List.Sublist.refl _⟩
  | cons p ps ih =>
    rw [List.foldl_cons, At.loadStep] at h
    cases hload : a.load s d wid cached acq p.1 p.2 with
    | mk u r =>
      cases r with
      | stop c =>
        simp only [hload] at h
        rw [foldl_error (fun _ _ _ => rfl)] at h
        cases (Prod.mk.inj h).2
      | asked =>
        simp only [hload] at h
        obtain ⟨new, hvals, hsub⟩ := ih h
        exact ⟨new, hvals, hsub.cons _⟩
      | bytes bs =>
        simp only [hload] at h
        obtain ⟨new, hvals, hsub⟩ := ih h
        exact ⟨(p.1, extendWid wid (natLE bs)) :: new, by rw [hvals, List.append_assoc]; rfl, hsub.cons_cons p.1⟩

theorem natLE_lt (bs : List Byte) : natLE bs < 2 ^ (8 * bs.length) := by
  induction bs with
  | nil => decide
  | cons b bs ih =>
    have hb := b.isLt
    rw [natLE, List.length_cons, Nat.mul_add, Nat.pow_add]
    omega

/-- A loaded value is widened by its sign alone, its bytes being those of its width (R144, R145). -/
theorem extendWid_natLE {bs : List Byte} (h : bs.length ≤ widBytes wid) : extendWid wid (natLE bs) = widened wid bs := by
  have hlt : natLE bs < 2 ^ (8 * widBytes wid) := (natLE_lt bs).trans_le (Nat.pow_le_pow_right (by decide) (by omega))
  unfold extendWid widened
  split
  · exact Nat.mod_eq_of_lt hlt
  · rfl
  · exact Nat.mod_eq_of_lt hlt
  · rfl
  · next h1 _ h3 => rw [if_neg (fun h => h1 h), if_neg (fun h => h3 h)]

theorem At.foldl_loadStep_of_sees {s : State} (hsound : soundMem s) {v : Nat → List Byte}
    (h : ∀ p ∈ ps, sees s a.core cached p.2 (widBytes wid) = some (v p.1)) (l : List (Nat × Nat)) :
    ps.foldl (a.loadStep d wid cached acq) (s, .ok l) = (s, .ok (l ++ ps.map fun p => (p.1, widened wid (v p.1)))) := by
  induction ps generalizing l with
  | nil => rw [List.foldl_nil, List.map_nil, List.append_nil]
  | cons p ps ih =>
    obtain ⟨hp, hps⟩ := List.forall_mem_cons.mp h
    rw [List.foldl_cons, At.loadStep]
    simp only [At.load_of_sees hp rfl hsound d rfl acq p.1, extendWid_natLE (length_of_sees hp)]
    rw [ih hps, List.append_assoc]
    rfl

end

/-! ## The destination -/

theorem At.OtherGroupsKept.symm {a : At} {s t : State} (h : a.OtherGroupsKept s t) : a.OtherGroupsKept t s := by
  obtain ⟨hgroups, hcores, hturns, hblocks⟩ := h
  exact ⟨fun c b g hne => (hgroups c b g hne).symm, fun c => by rw [hcores c], fun c hc => (hturns c hc).symm,
    fun c b => (hblocks c b).symm⟩

/-- Writing an operand changes a group of a state that differs in the draw number at most. -/
theorem At.put_cases (a : At) (s : State) (d : BitVec 9) (n : Nat) (vals : List (Nat × Nat)) :
    ∃ s0 F, a.put s d n vals = a.modGroup s0 F ∧ s0 = { s with freeCtr := s0.freeCtr } := by
  unfold At.put State.putVals
  split
  · exact ⟨_, _, rfl, rfl⟩
  · exact ⟨s, _, rfl, rfl⟩

section
variable {a : At} {s : State} {x : Block} (hblk : s.block a.core a.blk = some x) (d : BitVec 9) (n : Nat) {vals : List (Nat × Nat)}
include hblk

theorem At.put_kept : (∃ y, (a.put s d n vals).block a.core a.blk = some y) ∧ a.OtherGroupsKept s (a.put s d n vals)
    ∧ a.put s d n vals = { s with cores := (a.put s d n vals).cores, freeCtr := (a.put s d n vals).freeCtr } := by
  obtain ⟨s0, F, hput, hs0⟩ := a.put_cases s d n vals
  have hcores : s0.cores = s.cores := by rw [hs0]
  have hblk0 := (State.block_of_cores hcores a.core a.blk).trans hblk
  obtain ⟨y, hy, -⟩ := State.block_modGroup s0 a.core a.blk a.grp F hblk0
  have honly : OnlyCores s0 (a.modGroup s0 F) := State.modGroup_onlyCores ..
  rw [hput]
  refine ⟨⟨y, hy⟩, (At.OtherGroupsKept.of_cores hcores).trans (At.modGroup_kept a s0 F hblk0), ?_⟩
  generalize a.modGroup s0 F = t at honly
  rw [honly, hs0]

variable (hlt : ∀ p ∈ vals, p.1 < 32) (hnd : (vals.map Prod.fst).Nodup)
include hlt hnd

theorem At.put_wroteRegs : a.WroteRegs s (a.put s d n vals) d n vals := by
  obtain ⟨⟨y, hy⟩, hkept, -⟩ := At.put_kept hblk d n (vals := vals)
  exact (At.put_wrote a s d n vals hblk hlt hnd 0).1.of_sameRegs (At.goto_same a _ 0 hy).symm hkept

/-- The destination of a load holds its values once the instruction has issued, whether it acquires or not (R221). -/
theorem At.acquired_finished (us : List Use) {old old' : State} (ho : old'.reqs = old.reqs) (o : Nat) :
    ∃ t, a.issued (a.advance (a.supersede old' (a.acquired (a.put s d n vals) o) us)) = t ∧ a.WroteRegs s t d n vals
      ∧ ∃ u : State, u = { s with freeCtr := u.freeCtr } ∧ a.OnlyIssuedAfter us old u t := by
  have hwrote := At.put_wroteRegs hblk d n hlt hnd
  obtain ⟨⟨y, hy⟩, -, heq⟩ := At.put_kept hblk d n (vals := vals)
  generalize a.put s d n vals = u at hwrote hy heq
  have hacquired : (∃ z, (a.acquired u o).block a.core a.blk = some z) ∧ a.OtherGroupsKept u (a.acquired u o)
      ∧ (a.groupIn u).SameRegs (a.groupIn (a.acquired u o)) ∧ OnlyCores u (a.acquired u o) := by
    unfold At.acquired
    split
    · exact ⟨At.observe_block hy _, At.observe_kept hy _, At.observe_sameRegs hy _, u.observe_onlyCores ..⟩
    · exact ⟨⟨y, hy⟩, .refl a u, .refl _, rfl⟩
  obtain ⟨⟨z, hz⟩, hkept, hsame, honly⟩ := hacquired
  generalize a.acquired u o = v at hz hkept hsame honly ⊢
  refine ⟨_, rfl, (hwrote.of_sameRegs hsame (hwrote.others.trans hkept)).of_sameRegs (At.finished_sameRegs a old' us hz)
    ((hwrote.others.trans hkept).trans (At.finished_kept a old' us hz)), { s with freeCtr := u.freeCtr }, rfl, ?_⟩
  obtain ⟨hfinal, hturn⟩ := a.finished_onlyIssuedAfter us ho v
  refine ⟨hfinal.trans ?_, hturn⟩
  have hreqs : v.reqs = s.reqs := honly.reqs.trans (by rw [heq])
  rw [At.supersede_reqs (s' := { s with freeCtr := u.freeCtr }) (s := v) hreqs.symm]
  generalize a.issued _ = t
  rw [honly, heq]
  rfl

end

theorem At.OnlyIssuedAfter.draws {a : At} {us : List Use} {s u t : State} (hu : u = { s with freeCtr := u.freeCtr })
    (h : a.OnlyIssuedAfter us s u t) : a.OnlyIssuedDraws us s t := by
  obtain ⟨heq, hturn⟩ := h
  have hreqs : u.reqs = s.reqs := by rw [hu]
  rw [At.supersede_reqs hreqs] at heq
  refine ⟨?_, hturn⟩
  rw [heq, hu]
  rfl

/-! ## LD -/

section
variable {s s1 s2 : State} {sg : SgRef} {f : FormM} {a : At} {ps : List (Nat × Place)}

/-- What LD does once its accesses have places. -/
def At.ldAt (a : At) (f : FormM) (s : State) (ps : List (Nat × Place)) : Did :=
  if a.blocked s ps (widBytes (modWid f.mod)) false then .wait
  else
    let q := a.loads s f.d (modWid f.mod) (!modStrm f.mod && !(ordAcquire f.ord.toNat && decide (2 ≤ ordScope f.ord.toNat)))
      (ordAcquire f.ord.toNat) ps
    match q.2 with
    | .error e => .fault q.1 e.1 e.2
    | .ok vals => .done (a.acquired (a.put q.1 f.d (widRegs (modWid f.mod)) vals) f.ord.toNat)

/-- LD after its access, placing its lanes' accesses. -/
def At.ld (a : At) (f : FormM) (s : State) : Did :=
  let r := a.places s (modSpace f.mod) (widBytes (modWid f.mod)) .read (addrs a f (a.loadLanes f.d))
  match r.2 with
  | .error e => .fault r.1 e.1 e.2
  | .ok ps => a.ldAt f r.1 ps

variable (hwid : modWid f.mod ≠ 7) (hstrm : modStrm f.mod = true → modSpace f.mod = 2) (hrel : ordRelease f.ord.toNat = false)
  (h : s.issuing sg f.g false (useLd f) = some (a, s1))
include hwid hstrm hrel h

theorem exec_ld : exec (.ld sg f) s = .next (a.answered s (useLd f) (a.access s1 (a.ld f))) := by
  have hok : (modWid f.mod != 7 && (!modStrm f.mod || modSpace f.mod == 2) && loadOrd f.ord.toNat) = true := by
    simp only [loadOrd, hrel, Bool.not_false, Bool.and_true, Bool.and_eq_true, bne_iff_ne, Bool.or_eq_true, Bool.not_eq_true',
      beq_iff_eq]
    refine ⟨hwid, ?_⟩
    cases hm : modStrm f.mod with
    | false => exact .inl rfl
    | true => exact .inr (hstrm hm)
  refine exec_of_issuing (rep := true) (body := fun a s => a.access s (a.ld f)) h ?_
  show execLd sg f s = _
  rw [execLd, hok]
  rfl

variable (hacq : s1.acquiring a = false)
  (hps : a.places s1 (modSpace f.mod) (widBytes (modWid f.mod)) .read (addrs a f (a.loadLanes f.d)) = (s2, .ok ps))
include hacq hps

theorem exec_ld_placed : exec (.ld sg f) s = .next (a.answered s (useLd f) (a.ldAt f s2 ps)) := by
  rw [exec_ld hwid hstrm hrel h, At.access_free hacq, At.ld, hps]

theorem exec_ld_blocked (hb : a.blocked s2 ps (widBytes (modWid f.mod)) false = true) : exec (.ld sg f) s = .next (a.served s) := by
  rw [exec_ld_placed hwid hstrm hrel h hacq hps, At.ldAt, if_pos hb]
  rfl

variable (hfree : a.blocked s2 ps (widBytes (modWid f.mod)) false = false)
include hfree

/-- LD whose loads all answer writes what they answer. -/
theorem next_ld {s3 : State} {vals : List (Nat × Nat)}
    (hloads : a.loads s2 f.d (modWid f.mod) (!modStrm f.mod && !(ordAcquire f.ord.toNat && decide (2 ≤ ordScope f.ord.toNat)))
      (ordAcquire f.ord.toNat) ps = (s3, .ok vals)) (hblk3 : s3.block a.core a.blk = s2.block a.core a.blk)
    {old : State} (hold : old.reqs = s.reqs) :
    Next (.ld sg f) s fun t => a.WroteRegs s3 t f.d (widRegs (modWid f.mod)) vals
      ∧ ∃ u : State, u = { s3 with freeCtr := u.freeCtr } ∧ a.OnlyIssuedAfter (useLd f) old u t := by
  obtain ⟨⟨x, hblk, -⟩, -⟩ := State.issuing_block h
  obtain ⟨hframe, hkeys⟩ := At.places_ok hps
  have hblk3 : s3.block a.core a.blk = some x := hblk3.trans ((State.block_of_cores hframe.cores ..).trans hblk)
  obtain ⟨new, hvals, hsub⟩ := At.foldl_loadStep hloads
  rw [hkeys, addrs_fst] at hsub
  have hlanes : (vals.map Prod.fst).Sublist a.lanes := hvals ▸ hsub.trans (a.loadLanes_sublist f.d)
  obtain ⟨t, ht, hwrote⟩ := At.acquired_finished hblk3 f.d (widRegs (modWid f.mod))
    (fun p hp => lanesOf_lt _ _ (hlanes.subset (List.mem_map_of_mem hp))) (hlanes.nodup (lanesOf_nodup _)) (useLd f) hold.symm
    f.ord.toNat
  refine ⟨t, ?_, hwrote⟩
  rw [exec_ld_placed hwid hstrm hrel h hacq hps, At.ldAt, hfree, if_neg Bool.false_ne_true, ← ht]
  simp only [hloads]
  rfl

end

end Sys2Proof.Machine

open Sys2Proof Sys2Proof.Machine Sys2Proof.Claims

/-- Settles O18: LD's loads give the values, and at memory of this module they change nothing. -/
theorem loadResults : Obligations.LoadResults := by
  unfold Obligations.LoadResults
  intro s sg f a s1 s2 ps wid o cached hwid hstrm hrel h
  refine ⟨fun hacq => ?_, fun hacq hps => ⟨fun hb => exec_ld_blocked hwid hstrm hrel h hacq hps hb,
    fun hfree => ⟨fun s3 vals hloads hblk => ?_, fun v hsound hsees => ?_⟩⟩⟩
  · rw [exec_ld hwid hstrm hrel h, At.access_waits hacq]
    rfl
  · exact next_ld hwid hstrm hrel h hacq hps hfree hloads hblk (State.issuing_reqs h)
  · have hreqs : s2.reqs = s.reqs := (At.places_ok hps).1.reqs.trans (State.issuing_reqs h)
    obtain ⟨t, ht, hwrote, u, hu, honly⟩ := next_ld hwid hstrm hrel h hacq hps hfree
      (At.foldl_loadStep_of_sees hsound hsees []) rfl hreqs
    exact ⟨t, ht, hwrote, honly.draws hu⟩

end

section
/-! # A store beside a stale line (O19)

The statement does not ask that a core's lines be in canonical form, one pair to a key. Here an empty pair stands in front of a modified
line of the same key, whose place in the cache part is the slot's first 64 bytes: no line holds either lane's place. The store of lane 0
to those first bytes shows in the line (R164) and so puts it in force again; the store of lane 1, to the block that the line is of, has
it written back first (R146), with a modified byte that no lane stores. -/
namespace Sys2Proof.Machine
open Sys2Proof.Claims

/-- Two pairs of the key of the slot's second block: no line, and a line of 0xFF at the slot's first place, byte 8 modified. -/
def staleCache : Sparse (Option Line) :=
  [(0x20000000040, none),
    (0x20000000040, some { bytes := List.replicate 64 0xFF, dirty := 0x100, ctx := 0, remote := none, slot := 0, org := .none })]

/-- Two threads whose registers are 0, but for t2 of the second, 64. -/
def staleBlock : Block :=
  { overlaidBlock with threads := 2, groups := [(0, { Group.start 3 0x1000 with t := [(65, 64)] })] }

/-- The reset state with that block and those lines on core 0, and a cache part of 64 KiB. -/
def stale : State :=
  { overlaid with
    cores := [(0, { Core.idle with blocks := [(0, some staleBlock)], split := 1, cache := staleCache })] }

/-- Store of t4 to local store at t2, a word, without order. -/
def staleForm : FormM := { mod := 0x20, g := 0, d := 4, a := 2, off := 0, ord := 0 }

/-- The premises of the last clause that can be run, for what issues. -/
def stalePremises (a : At) (s1 s2 : State) (ps : List (Nat × Place)) : Bool :=
  decide (s1.acquiring a = false ∧ a.blocked s2 ps 4 true = false
    ∧ ps.map (fun p => plainPlace s2 a.core p.2) = [some 0x20000000000, some 0x20000000040]
    ∧ (ps.all fun p => uncached s2 a.core p.2) = true ∧ s2.byte 0x20000000048 = 0
    ∧ (s2.defects = [] ∧ s2.crcOff = [] ∧ s2.sramBad = []) ∧ s2.cores.all fun c => c.2.captures == [none, none])

/-- The instruction issues, and its two lanes have their places. -/
theorem stale_issues : ∃ a s1 s2 ps, stale.issuing overlaidSg 0 false (useSt staleForm) = some (a, s1)
    ∧ a.places s1 0 4 .write (addrs a staleForm a.lanes) = (s2, .ok ps) ∧ stalePremises a s1 s2 ps = true := by
  have hrun : ((stale.issuing overlaidSg 0 false (useSt staleForm)).any fun p =>
      match p.1.places p.2 0 4 .write (addrs p.1 staleForm p.1.lanes) with
      | (s2, .ok ps) => stalePremises p.1 p.2 s2 ps
      | _ => false) = true := by
    decide +kernel
  obtain ⟨⟨a, s1⟩, hissue, hplaces⟩ := (Option.any_eq_true ..).mp hrun
  split at hplaces
  · next s2 ps hps => exact ⟨a, s1, s2, ps, hissue, hps, hplaces⟩
  · cases hplaces

/-- The line's modified byte reaches memory. -/
theorem stale_writes {t : State} (h : exec (.st overlaidSg staleForm) stale = .next t) : t.byte 0x20000000048 = 0xFF := by
  have hrun : (match exec (.st overlaidSg staleForm) stale with | .next t => t.byte 0x20000000048 | _ => 0) = 0xFF := by
    decide +kernel
  rwa [h] at hrun

end Sys2Proof.Machine

open Sys2Proof Sys2Proof.Machine Sys2Proof.Claims

/-- Refutes O19: with an empty pair in front of a modified line of the same key, ST of two lanes writes back that line's byte, which
neither lane stores. -/
theorem not_storeResults : ¬ Obligations.StoreResults := by
  unfold Obligations.StoreResults
  intro h
  obtain ⟨a, s1, s2, ps, hissue, hplaces, hprem⟩ := stale_issues
  obtain ⟨hacq, hblocked, hplain, huncached, hbyte, hsound, hcapt⟩ := of_decide_eq_true hprem
  have hplainAt {p : Nat × Place} (hp : p ∈ ps) :
      plainPlace s2 a.core p.2 = some 0x20000000000 ∨ plainPlace s2 a.core p.2 = some 0x20000000040 := by
    have hmem := List.mem_map_of_mem (f := fun p => plainPlace s2 a.core p.2) hp
    rw [hplain] at hmem
    simpa using hmem
  obtain ⟨-, hfree⟩ := h stale overlaidSg staleForm a s1 s2 s2 ps (by decide) (by decide) (by decide) hissue
  obtain ⟨-, hdone⟩ := (hfree hacq hplaces).2 hblocked
  obtain ⟨t, ht, -, hkept, -⟩ := (hdone (State.release_of_not_release (by decide))).2 ⟨hsound, State.captures_of_all hcapt⟩
    fun p hp => ⟨by rcases hplainAt hp with hx | hx <;> rw [hx] <;> rfl, List.all_eq_true.mp huncached p hp⟩
  have hsame := hkept 0x20000000048 fun p hp x hx => by
    rcases hplainAt hp with hy | hy <;> rw [hy] at hx <;> cases hx <;> decide
  exact absurd ((stale_writes ht).symm.trans (hsame.trans hbyte)) (by decide)

end

section
/-! # ST.N and ACC.N (O20)

Lane by lane, each instruction writes memory and raises the lane's counter. Of one lane to sound DRAM that no line holds, the write is of
its bytes alone (R146, R218, R222, R229). -/
namespace Sys2Proof.Machine
open Sys2Proof.Claims

/-! ## The end of an issue after an effect on memory -/

/-- What finishing an instruction without a destination leaves of an effect that changes no register. -/
theorem At.effect_finished {a : At} {us : List Use} (hdest : ∀ u ∈ us, u.dst = false) (old : State) {s u : State} {x : Block}
    (hblk : s.block a.core a.blk = some x) (hblocks : ∀ c b, u.block c b = s.block c b) :
    ∃ t, a.issued (a.advance (a.supersede old u us)) = t ∧ a.RegsHeld s t ∧ (∀ z, t.byte z = u.byte z)
      ∧ (∀ n, t.spoolVal n = u.spoolVal n) ∧ (∀ c k, (t.core c).line k = (u.core c).line k)
      ∧ t = { u with cores := t.cores, progress := (u.progressed (.thread a.core)).progress } := by
  have hgroups (c b g : Nat) : u.group c b g = s.group c b g := by rw [State.group, hblocks, State.group]
  have hgroup : a.groupIn u = a.groupIn s := hgroups ..
  obtain ⟨ht, hu, hp, hh, hl, hothers⟩ := At.finished_regsKept a old us ((hblocks ..).trans hblk)
  rw [hgroup] at ht hu hp hh hl
  obtain ⟨heq, -⟩ := a.finished_onlyIssuedAfter us (rfl : old.reqs = old.reqs) u
  rw [At.supersede_of_noDest _ _ _ hdest] at ht hu hp hh hl hothers heq ⊢
  generalize a.issued (a.advance u) = t at ht hu hp hh hl hothers heq ⊢
  refine ⟨t, rfl, ⟨ht, hu, hp, hh, hl, fun c b g hne => (hothers.groups c b g hne).trans (hgroups c b g)⟩, fun z => ?_, fun n => ?_,
    fun c k => ?_, heq⟩
  · rw [State.byte, heq, State.byte]
  · rw [State.spoolVal, heq, State.spoolVal]
  · rw [hothers.cores c]
    rfl

/-! ## The lanes' counted writes -/

/-- One more lane's counted write, by the counter it names in `s2`. -/
def At.countStep (a : At) (s2 : State) (fc : BitVec 9) (act : State → Nat → Place → Nat → State × Bool) (q : State × Option Nat)
    (p : Nat × Place) : State × Option Nat :=
  if q.2.isSome then q
  else
    let t := act q.1 p.1 p.2 ((a.countId s2 fc p.1 p.2).getD 0)
    (t.1, if t.2 then none else some p.2.addr)

section
variable {a : At} {f : FormR} {act : State → Place → Nat → Nat → State × Bool} {s1 s2 s3 s4 : State} {ps : List (Nat × Place)}

/-- A lane that may count names its counter by its operand. -/
theorem At.countId_getD {p : Nat × Place} (h : (a.countId s2 f.c p.1 p.2).isSome = true) :
    (a.countId s2 f.c p.1 p.2).getD 0 = a.g.val f.c p.1 1 := by
  obtain ⟨i, _ | _⟩ := p <;> simp only [At.countId] at h ⊢ <;> split at h
  · next hin => rw [if_pos hin, Option.getD_some]
  · cases h
  · next hin => rw [if_pos hin, Option.getD_some]
  · cases h

theorem At.foldl_countStep (hids : ∀ p ∈ ps, (a.countId s2 f.c p.1 p.2).isSome) (h : countedAll a f act s3 ps = some s4) :
    ps.foldl (a.countStep s2 f.c fun s i p id => act s p i id) (s3, none) = (s4, none) := by
  induction ps generalizing s3 with
  | nil => rw [List.foldl_nil, Option.some.inj h]
  | cons p ps ih =>
    obtain ⟨hp, hps⟩ := List.forall_mem_cons.mp hids
    have hid := At.countId_getD (f := f) hp
    rw [countedAll] at h
    split at h
    · next hok =>
      rw [List.foldl_cons, At.countStep]
      simp only [hid, hok, if_true, Option.isSome_none, Bool.false_eq_true, if_false]
      exact ih hps h
    · cases h

variable (hacq : s1.acquiring a = false) {n : Nat}
  (hps : a.places s1 2 n .count (a.each fun i => a.address 2 f.a 0 i) = (s2, .ok ps)) (hfree : a.blocked s2 ps n true = false)
  (hids : ∀ p ∈ ps, (a.countId s2 f.c p.1 p.2).isSome) {o : Nat} (hr : s2.release a o = (s3, true))
include hacq hps hfree hids hr

/-- With every lane placed and allowed, nothing in the way and the release done, the writes are performed. -/
theorem At.counted_done (h : countedAll a f act s3 ps = some s4) :
    a.counted s1 f.a f.c n o (fun s i p id => act s p i id) = .done s4 := by
  have hfound : ps.find? (fun p => (a.countId s2 f.c p.1 p.2).isNone) = none :=
    List.find?_eq_none.mpr fun p hp => by rw [← Option.not_isSome, hids p hp]; decide
  have hfold := At.foldl_countStep hids h
  unfold At.countStep at hfold
  rw [At.counted, At.access_free hacq, hps]
  simp only [hfound, hfree, hr, hfold, Bool.false_eq_true, if_false, Bool.not_true]

end

/-! ## One lane to sound DRAM -/

theorem isRom_of_store {x z n : Nat} (hdram : isDram x = true) (hn : n ≤ 16) (hz : z < x + n) : isRom z = false :=
  isRom_of_sram (by have := of_decide_eq_true hdram; omega)

/-- A write that covers no whole block of sound DRAM puts its bytes and does nothing else. -/
theorem State.writeMem_of_sound {s : State} (h : soundMem s) {a : Nat} (hdram : isDram a = true) {bs : List Byte}
    (hlen : bs.length ≤ 16) : s.writeMem a bs = s.putMem a bs := by
  obtain ⟨hd, hc, -⟩ := h
  have hpart (b : Nat) : ¬ (a ≤ b ∧ b + 64 ≤ a + bs.length) := by omega
  unfold State.writeMem
  simp only [hdram, if_true, hpart, if_false]
  rw [forEach_of_fixed (State.crcCheck_of_intact hd hc)]

theorem State.threadWrite_of_dram {s : State} (h : soundMem s) {x : Nat} (hx : s.isStore x = true) (hdram : isDram x = true)
    {bs : List Byte} (hlen : bs.length ≤ 16) (core ctx : Nat) : s.threadWrite core ctx x bs = s.putMem x bs := by
  obtain ⟨hpop, hspool, hregs⟩ := State.isStore_iff.mp hx
  have hsram : isSram x = false := by
    have := of_decide_eq_true hdram
    exact Bool.and_eq_false_iff.mpr (.inl (decide_eq_false (by omega)))
  simp only [State.threadWrite, hpop, hspool, hregs, isRom_of_isDram hdram, State.writeMem_of_sound h hdram hlen, hsram,
    Bool.not_true, Bool.false_eq_true, if_false]

theorem State.evict_of_none {s : State} {core k : Nat} (h : (s.core core).line k = none) : s.evict core k = s.setLine core k none := by
  rw [State.evict, State.writeBack_of_none h, State.dropLine]

/-- A word is added to sound DRAM that is not poisoned, and its 4 bytes are counted (R228, R229); the adder counts too. -/
theorem State.accumulate_word {s : State} (h : soundMem s) {x : Nat} (hp : s.anyPoison x 4 = false) (v : Word) (id : Nat) :
    ∃ m, (s.accumulate x [v] id).1 = State.spoolAdd { s.putWord x (fadd (s.word x) v) with setup := m } id 4 := by
  obtain ⟨hd, hc, -⟩ := h
  have hclean : s.poisoned (x / 64 * 64) = false := State.poisoned_of_anyPoison hp (le_refl x) (by omega)
  have hadd : ∃ m, s.addWord x v = ({ s.putWord x (fadd (s.word x) v) with setup := m }, true) := by
    rw [State.addWord, State.crcCheck_of_intact hd hc]
    simp only [hclean, Bool.false_eq_true, if_false]
    split <;> exact ⟨_, rfl⟩
  obtain ⟨m, hm⟩ := hadd
  refine ⟨m, ?_⟩
  simp only [State.accumulate, List.length_singleton, List.range_one, List.zip_cons_cons, List.zip_nil_left, List.foldl_cons,
    List.foldl_nil, Nat.mul_zero, Nat.add_zero, hm, if_true, Bool.and_self]
  rfl

/-- A place where the lane's write is of plain DRAM of this module. -/
theorem plainPlace_cases {s : State} {core x : Nat} {p : Place} (h : plainPlace s core p = some x) :
    ∃ va c, p = .here x va c ∧ s.isStore x = true ∧ (s.core core).line (x / 64 * 64) = none := by
  cases p with
  | away => cases h
  | here y va c =>
    rw [plainPlace] at h
    split at h
    · next hy =>
      obtain ⟨hstore, -, -, hline⟩ := hy
      cases h
      exact ⟨va, c, rfl, hstore, hline⟩
    · cases h

theorem countedAll_one {a : At} {f : FormR} {act : State → Place → Nat → Nat → State × Bool} {s t : State} {p : Nat × Place}
    (h : act s p.2 p.1 (a.g.val f.c p.1 1) = (t, true)) : countedAll a f act s [p] = some t := by
  rw [countedAll, h]
  rfl

section
variable {a : At} {s : State} {x id : Nat} {p : Place} (hplain : plainPlace s a.core p = some x) (hdram : isDram x = true)
  (hsound : soundMem s)
include hplain hdram hsound

/-- ST.N at its place: the line that is not there is dropped, the bytes are put, and they are counted. -/
theorem At.storeCounted_of_dram {bs : List Byte} (hlen : bs.length ≤ 16) :
    a.storeCounted s p bs id = (State.spoolAdd ((s.setLine a.core (x / 64 * 64) none).putMem x bs) id bs.length, true) := by
  obtain ⟨va, c, rfl, hstore, hline⟩ := plainPlace_cases hplain
  have hsound' : soundMem (s.setLine a.core (x / 64 * 64) none) := hsound
  have hstore' : (s.setLine a.core (x / 64 * 64) none).isStore x = true := hstore
  rw [At.storeCounted, State.evict_of_none hline, State.threadWrite_of_dram hsound' hstore' hdram hlen]

/-- ACC.N at its place likewise. -/
theorem At.accumulate_of_dram (hp : s.anyPoison x 4 = false) (v : Word) : ∃ m, a.accumulate s p v id =
    (State.spoolAdd { (s.setLine a.core (x / 64 * 64) none).putWord x (fadd (s.word x) v) with setup := m } id 4, true) := by
  obtain ⟨va, c, rfl, -, hline⟩ := plainPlace_cases hplain
  have hsound' : soundMem (s.setLine a.core (x / 64 * 64) none) := hsound
  obtain ⟨m, hm⟩ := State.accumulate_word hsound' (x := x) hp v id
  refine ⟨m, ?_⟩
  rw [At.accumulate, State.evict_of_none hline, if_pos hdram, hm]
  rfl

end

/-! ## The clauses -/

section
variable (f : FormR)

theorem useStN_noDest : ∀ u ∈ useStN f, u.dst = false := by simp [useStN, Use.src, Use.srcIn, Use.unused]

theorem useAccN_noDest : ∀ u ∈ useAccN f, u.dst = false := by simp [useAccN, Use.src, Use.srcIn, Use.unused]

end

section
variable {s s1 s2 s3 s4 : State} {sg : SgRef} {f : FormR} {a : At} {ps : List (Nat × Place)} (hspace : modSpace f.mod = 2)
  (hstrm : modStrm f.mod = false) (hc : fld f.ctl 4 6 = 0) (hord : fld f.ctl 2 1 = 0) (hacq : s1.acquiring a = false)
include hspace hstrm hc hord hacq

theorem exec_stN (hwid : modWid f.mod = 4 ∨ modWid f.mod = 5 ∨ modWid f.mod = 6)
    (hps : a.places s1 2 (widBytes (modWid f.mod)) .count (a.each fun i => a.address 2 f.a 0 i) = (s2, .ok ps))
    (hfree : a.blocked s2 ps (widBytes (modWid f.mod)) true = false)
    (hids : ∀ p ∈ ps, (a.countId s2 f.c p.1 p.2).isSome) (hr : s2.release a (fld f.ctl 0 4) = (s3, true))
    (h : s.issuing sg f.g false (useStN f) = some (a, s1))
    (hall : countedAll a f (fun s p i id => a.storeCounted s p (a.storeBytes f.b (modWid f.mod) i) id) s3 ps = some s4) :
    exec (.stN sg f) s = .next (a.issued (a.advance (a.supersede s s4 (useStN f)))) := by
  have hok : (decide (4 ≤ modWid f.mod) && modWid f.mod != 7 && modSpace f.mod == 2 && !modStrm f.mod && fld f.ctl 4 6 == 0
      && storeOrd (ctlOrd f)) = true := by
    rcases hwid with hw | hw | hw <;> simp [hw, hspace, hstrm, hc, storeOrd, ctlOrd, ordAcquire_ctl hord]
  have hex : exec (.stN sg f) s = .next (s.issue sg f.g false false true (useStN f) fun a s =>
      a.counted s f.a f.c (widBytes (modWid f.mod)) (ctlOrd f)
        fun s i p id => a.storeCounted s p (a.storeBytes f.b (modWid f.mod) i) id) := by
    show execStN sg f s = _
    rw [execStN, hok]
    rfl
  rw [exec_of_issuing h hex, ctlOrd, At.counted_done hacq hps hfree hids hr hall]
  rfl

theorem exec_accN (hwid : modWid f.mod = 4)
    (hps : a.places s1 2 4 .count (a.each fun i => a.address 2 f.a 0 i) = (s2, .ok ps)) (hfree : a.blocked s2 ps 4 true = false)
    (hids : ∀ p ∈ ps, (a.countId s2 f.c p.1 p.2).isSome) (hr : s2.release a (fld f.ctl 0 4) = (s3, true))
    (h : s.issuing sg f.g false (useAccN f) = some (a, s1))
    (hall : countedAll a f (fun s p i id => a.accumulate s p (BitVec.ofNat 32 (a.g.val f.b i 1)) id) s3 ps = some s4) :
    exec (.accN sg f) s = .next (a.issued (a.advance (a.supersede s s4 (useAccN f)))) := by
  have hok : (modWid f.mod == 4 && modSpace f.mod == 2 && !modStrm f.mod && fld f.ctl 4 6 == 0 && storeOrd (ctlOrd f)) = true := by
    simp [hwid, hspace, hstrm, hc, storeOrd, ctlOrd, ordAcquire_ctl hord]
  have hex : exec (.accN sg f) s = .next (s.issue sg f.g false false true (useAccN f) fun a s =>
      a.counted s f.a f.c 4 (ctlOrd f) fun s i p id => a.accumulate s p (BitVec.ofNat 32 (a.g.val f.b i 1)) id) := by
    show execAccN sg f s = _
    rw [execAccN, hok]
    rfl
  rw [exec_of_issuing h hex, ctlOrd, At.counted_done hacq hps hfree hids hr hall]
  rfl

end

/-- `t` differs from `s` in that the bytes `bs` stand at `x`, in one counter raised by their number, and in what issuing changes. -/
structure At.WroteCounted (a : At) (s t : State) (x id : Nat) (bs : List Byte) : Prop where
  bytes : t.bytes x bs.length = bs
  others : ∀ z, z < x ∨ x + bs.length ≤ z → t.byte z = s.byte z
  counter : t.spoolVal id = if bitAt (s.spoolVal id) 63 then s.spoolVal id
      else BitVec.ofNat 64 (min (fld (s.spoolVal id) 0 63 + bs.length) (2 ^ 63 - 1))
  counters : ∀ m, m ≠ id → t.spoolVal m = s.spoolVal m
  regs : a.RegsHeld s t

/-- What finishing an instruction leaves of bytes put and counted at plain DRAM. -/
theorem At.wroteCounted_finished {a : At} {us : List Use} (hdest : ∀ u ∈ us, u.dst = false) (old : State) {s u : State} {x : Block}
    (hblk : s.block a.core a.blk = some x) {y : Nat} (hdram : isDram y = true) (k : Nat) {bs : List Byte} (hlen : bs.length ≤ 16)
    (m : Sparse Word) (id : Nat)
    (hu : u = State.spoolAdd { (s.setLine a.core k none).putMem y bs with setup := m } id bs.length) :
    ∃ t, a.issued (a.advance (a.supersede old u us)) = t ∧ a.WroteCounted s t y id bs
      ∧ t = { s with cores := t.cores, mem := t.mem, lost := t.lost, setup := m, spool := t.spool, spoolChg := t.spoolChg
                     waiters := t.waiters, reqs := (a.supersede s s us).reqs
                     progress := (s.progressed (.thread a.core)).progress } := by
  obtain ⟨w, hw⟩ : ∃ w, w = { (s.setLine a.core k none).putMem y bs with setup := m } := ⟨_, rfl⟩
  rw [← hw] at hu
  have hspool : w.OnlySpool u := hu ▸ w.spoolAdd_onlySpool id bs.length
  have hblocks (c b : Nat) : u.block c b = s.block c b :=
    calc u.block c b = w.block c b := State.block_of_cores (by rw [hspool]) ..
      _ = s.block c b := by rw [hw]; exact State.block_setLine ..
  have hbyte (z : Nat) : u.byte z = ((s.setLine a.core k none).putMem y bs).byte z := by
    rw [State.byte, hspool, hw]
    rfl
  have hval (j : Nat) : u.spoolVal j = if j = id then
      if bitAt (s.spoolVal id) 63 then s.spoolVal id
        else BitVec.ofNat 64 (min (fld (s.spoolVal id) 0 63 + bs.length) (2 ^ 63 - 1))
      else s.spoolVal j := by
    rw [hu, State.spoolVal_spoolAdd, hw]
    rfl
  obtain ⟨t, ht, hregs, htbyte, htval, -, hframe⟩ := At.effect_finished hdest old hblk hblocks
  refine ⟨t, ht, ⟨?_, fun z hz => ?_, ?_, fun j hj => ?_, hregs⟩, ?_⟩
  · refine State.bytes_of_byte fun i hi => ?_
    rw [htbyte, hbyte, State.byte_putMem _ _ _ (isRom_of_store hdram hlen (by omega)), if_pos (by omega), Nat.add_sub_cancel_left]
  · rw [htbyte, hbyte, State.byte_putMem_outside _ hz]
    rfl
  · rw [htval, hval, if_pos rfl]
  · rw [htval, hval, if_neg hj]
  · rw [At.supersede_of_noDest _ _ _ hdest]
    rw [hframe, hspool, hw]
    rfl

end Sys2Proof.Machine

open Sys2Proof Sys2Proof.Machine Sys2Proof.Claims

/-- Settles O20: the lanes' writes in turn, then one lane's write to plain DRAM. -/
theorem countedWrites : Obligations.CountedWrites := by
  unfold Obligations.CountedWrites
  intro s sg f a s1 s2 s3 ps wid hwid hspace hstrm hc hord hacq hps hfree hids hr
  subst hwid
  refine ⟨fun hw h s4 hall => ?_, fun hw h s4 hall => ?_, fun i x hlane hplace hdram ⟨hsound, _⟩ => ?_⟩
  · exact ⟨_, exec_stN hspace hstrm hc hord hacq hw hps hfree hids hr h hall,
      a.finished_onlyIssuedAfter _ (State.issuing_reqs h).symm s4⟩
  · rw [hw] at hps hfree
    exact ⟨_, exec_accN hspace hstrm hc hord hacq hw hps hfree hids hr h hall,
      a.finished_onlyIssuedAfter _ (State.issuing_reqs h).symm s4⟩
  · obtain ⟨p, rfl⟩ := List.length_eq_one_iff.mp (by simpa using congrArg List.length hlane)
    obtain ⟨rfl⟩ : p.1 = i := by simpa using hlane
    have hplain : plainPlace s3 a.core p.2 = some x := by simpa using hplace
    extract_lets id counted
    have hblk3 {us : List Use} (h : s.issuing sg f.g false us = some (a, s1)) : ∃ y, s3.block a.core a.blk = some y := by
      obtain ⟨⟨y, hblk, -⟩, -⟩ := State.issuing_block h
      have hrel := s2.block_release a (fld f.ctl 0 4) a.core a.blk
      rw [hr, State.block_of_cores (At.places_ok hps).1.cores] at hrel
      exact ⟨y, hrel.trans hblk⟩
    refine ⟨fun hw h => ?_, fun hw hp h => ?_⟩
    · obtain ⟨y, hblk⟩ := hblk3 h
      have hlen : (a.storeBytes f.b (modWid f.mod) p.1).length = widBytes (modWid f.mod) := bytesLE_length ..
      have hle : (a.storeBytes f.b (modWid f.mod) p.1).length ≤ 16 := by rcases hw with hw | hw | hw <;> rw [hlen, hw] <;> decide
      have hex := exec_stN hspace hstrm hc hord hacq hw hps hfree hids hr h
        (countedAll_one (f := f) (At.storeCounted_of_dram hplain hdram hsound (id := id) hle))
      obtain ⟨t, ht, ⟨hbytes, hothers, hcounter, hcounters, hregs⟩, hframe⟩ :=
        At.wroteCounted_finished (useStN_noDest f) s hblk hdram (x / 64 * 64) hle s3.setup id rfl
      rw [hlen] at hbytes hothers hcounter
      exact ⟨t, hex.trans (congrArg Host.Outcome.next ht), hbytes, hothers, ⟨hcounter, hcounters, hregs⟩, hframe⟩
    · obtain ⟨y, hblk⟩ := hblk3 h
      rw [hw] at hps hfree
      obtain ⟨m, hm⟩ := At.accumulate_of_dram hplain hdram hsound (id := id) hp (BitVec.ofNat 32 (a.g.val f.b p.1 1))
      have hex := exec_accN hspace hstrm hc hord hacq hw hps hfree hids hr h (countedAll_one (f := f) hm)
      generalize hsum : fadd (s3.word x) (BitVec.ofNat 32 (a.g.val f.b p.1 1)) = sum at hex ⊢
      have hlen : (bytesLE 4 sum.toNat).length = 4 := bytesLE_length ..
      obtain ⟨t, ht, ⟨hbytes, hothers, hcounter, hcounters, hregs⟩, hframe⟩ :=
        At.wroteCounted_finished (useAccN_noDest f) s hblk hdram (x / 64 * 64) (bs := bytesLE 4 sum.toNat) (by rw [hlen]; decide) m id
          (by rw [hlen])
      rw [hlen] at hbytes hothers hcounter
      have hword : t.word x = sum := by
        rw [State.word, hbytes, natLE_bytesLE]
        exact BitVec.eq_of_toNat_eq (by simpa using sum.isLt)
      have hsetup : t.setup = m := by rw [hframe]
      rw [← hsetup] at hframe
      exact ⟨t, hex.trans (congrArg Host.Outcome.next ht), hword, hothers, ⟨hcounter, hcounters, hregs⟩, hframe⟩

end

section
/-! # CINV and CWB (O21)

Lane by lane and line by line, each instruction does to the lines of the ranges what it does to one (R144, R146, R180). -/
namespace Sys2Proof.Machine
open Sys2Proof.Claims

/-! ## The lanes' ranges -/

/-- What one more lane's range, its first address and length, does. -/
def At.lineStep (a : At) (act : State → Nat → State) (q : State × Option (Nat × Nat)) (r : Nat × Nat × Nat) :
    State × Option (Nat × Nat) :=
  if q.2.isSome then q else a.cacheOp q.1 act r.2.1 r.2.2

section
variable {a : At} {f : FormR} {act : State → Nat → State} {s t : State}

theorem At.foldl_lineStep {ls : List Nat} (h : linesAll a f act s ls = some t) :
    (ls.map fun i => (i, a.g.val f.a i 2, a.g.val f.b i 1)).foldl (a.lineStep act) (s, none) = (t, none) := by
  induction ls generalizing s with
  | nil => rw [List.map_nil, List.foldl_nil, Option.some.inj h]
  | cons i ls ih =>
    rw [linesAll] at h
    split at h
    · next hnone =>
      have hpair : a.cacheOp s act (a.g.val f.a i 2) (a.g.val f.b i 1) =
          ((a.cacheOp s act (a.g.val f.a i 2) (a.g.val f.b i 1)).1, none) := Prod.ext rfl (Option.isNone_iff_eq_none.mp hnone)
      rw [List.map_cons, List.foldl_cons, At.lineStep, if_neg (by simp), hpair]
      exact ih h
    · cases h

/-- With no acquire outstanding and nothing in the way, the lines of every range are acted on. -/
theorem At.cacheOps_done (hacq : s.acquiring a = false)
    (hfree : ∀ i ∈ a.lanes, 0 < a.g.val f.b i 1 →
      (s.core a.core).conflict (vaKey a.b.ctx (a.g.val f.a i 2)) (a.g.val f.b i 1) true = false)
    (h : linesAll a f act s a.lanes = some t) : a.cacheOps s f act = .done t := by
  have hclear : ((a.each fun i => (a.g.val f.a i 2, a.g.val f.b i 1)).any fun r =>
      r.2.2 != 0 && (s.core a.core).conflict (vaKey a.b.ctx r.2.1) r.2.2 true) = false :=
    List.any_eq_false.mpr fun r hr => by
      obtain ⟨i, hi, rfl⟩ := List.mem_map.mp hr
      by_cases h0 : a.g.val f.b i 1 = 0
      · simp [h0]
      · simp [hfree i hi (Nat.pos_of_ne_zero h0)]
  have hfold : (a.each fun i => (a.g.val f.a i 2, a.g.val f.b i 1)).foldl (a.lineStep act) (s, none) = (t, none) :=
    At.foldl_lineStep h
  unfold At.lineStep at hfold
  rw [At.cacheOps, At.access_free hacq]
  simp only [hclear, hfold, Bool.false_eq_true, if_false]

/-- Ranges of length 0 name no line. -/
theorem linesAll_empty {ls : List Nat} (h : ∀ i ∈ ls, a.g.val f.b i 1 = 0) : linesAll a f act s ls = some s := by
  induction ls with
  | nil => rfl
  | cons i ls ih =>
    obtain ⟨hi, hls⟩ := List.forall_mem_cons.mp h
    have hop : a.cacheOp s act (a.g.val f.a i 2) 0 = (s, none) := rfl
    rw [linesAll, hi, hop]
    exact ih hls

theorem blocksOf_one {va n : Nat} (hn : 0 < n) (h : va % 64 + n ≤ 64) : blocksOf va n = [va / 64 * 64] := by
  have hlast : (va + n - 1) / 64 = va / 64 := by omega
  rw [blocksOf, if_neg hn.ne', hlast, Nat.sub_self]
  rfl

/-- A range within one block of this module's memory names its line. -/
theorem linesAll_one {i va x : Nat} {c : Bool} (hva : a.g.val f.a i 2 = va) (hin : va % 64 + a.g.val f.b i 1 ≤ 64)
    (hpos : 0 < a.g.val f.b i 1) (ht : s.translate a.core a.b.ctx (va / 64 * 64) .read = (t, .ok (.here x, c))) :
    linesAll a f act s [i] = some (act t (x / 64 * 64)) := by
  have hlt : va / 64 * 64 % 2 ^ 64 = va / 64 * 64 :=
    Nat.mod_eq_of_lt (lt_of_le_of_lt (Nat.div_mul_le_self va 64) (hva ▸ Group.val_lt a.g f.a i 2))
  have hop : a.cacheOp s act va (a.g.val f.b i 1) = (act t (x / 64 * 64), none) := by
    rw [At.cacheOp, blocksOf_one hpos hin, List.foldl_cons, List.foldl_nil]
    simp only [hlt, ht, Option.isSome_none, Bool.false_eq_true, if_false]
    rfl
  rw [linesAll, hva, hop]
  rfl

end

/-! ## Writing back one line of this module's memory -/

theorem State.line_writeBack_other (s : State) (core : Nat) {j k : Nat} (h : j ≠ k) :
    ((s.writeBack core k).core core).line j = (s.core core).line j := by
  rcases s.writeBack_cases core k with ⟨hs, -⟩ | ⟨l, hs⟩
  · rw [hs]
  · rw [State.core_congr hs.cores, State.line_setLine, if_neg h]

theorem mem_range_zip {α : Type} {bs : List α} {p : Nat × α} : p ∈ (List.range bs.length).zip bs ↔ bs[p.1]? = some p.2 := by
  rw [List.mem_iff_getElem?]
  simp only [List.getElem?_zip_eq_some]
  constructor
  · rintro ⟨i, hi, hp⟩
    obtain ⟨hlt, heq⟩ := List.getElem?_eq_some_iff.mp hi
    rw [List.getElem_range] at heq
    rwa [← heq]
  · intro hp
    obtain ⟨hlt, -⟩ := List.getElem?_eq_some_iff.mp hp
    exact ⟨p.1, List.getElem?_range hlt, hp⟩

theorem Line.mem_modified {l : Line} (hlen : l.bytes.length = 64) {p : Nat × Byte} :
    p ∈ l.modified ↔ l.bytes[p.1]? = some p.2 ∧ bitAt l.dirty p.1 = true := by
  rw [Line.modified, List.mem_filter, show List.range 64 = List.range l.bytes.length by rw [hlen], mem_range_zip]

theorem BitWrite.onto_whole {w : BitWrite} {z : Nat} (hz : w.addr = z) (hmask : w.mask = 0xFF) (b : Byte) : w.onto z b = w.val := by
  have hfull (c : Byte) : c &&& 0xFF = c := BitVec.and_allOnes
  rw [BitWrite.onto, if_pos hz, hmask, hfull]
  simp

/-- A byte that is written whole, with one value by whichever writes name it, holds that value. -/
theorem after_of_whole {s : State} {ws : List BitWrite} {z : Nat} {v : Byte}
    (h : ∀ w ∈ ws, w.addr = z → w.mask = 0xFF ∧ w.val = v) (hex : ∃ w ∈ ws, w.addr = z) : after s ws z = v := by
  rw [after_eq_foldl]
  have hor : s.byte z = v ∨ ∃ w ∈ ws, w.addr = z := .inr hex
  generalize s.byte z = b at hor
  clear hex
  induction ws generalizing b with
  | nil => simpa using hor
  | cons w ws ih =>
    obtain ⟨hw, hws⟩ := List.forall_mem_cons.mp h
    rw [List.foldl_cons]
    refine ih hws _ ?_
    by_cases hz : w.addr = z
    · exact .inl ((BitWrite.onto_whole hz (hw hz).1 b).trans (hw hz).2)
    · rw [BitWrite.onto, if_neg hz]
      rcases hor with hb | ⟨u, hu, huz⟩
      · exact .inl hb
      · rcases List.mem_cons.mp hu with rfl | hu
        · exact absurd huz hz
        · exact .inr ⟨u, hu, huz⟩

/-- The writes that bring a line's modified bytes to the block at `k`. -/
def Line.writes (l : Line) (k : Nat) : List BitWrite := l.modified.map fun p => { addr := k + p.1, mask := 0xFF, val := p.2 }

section
variable {l : Line} (hlen : l.bytes.length = 64) (s : State) (k : Nat)
include hlen

theorem Line.after_writes {j : Nat} (hj : j < 64) (hbit : bitAt l.dirty j = true) :
    after s (l.writes k) (k + j) = l.bytes.getD j 0 := by
  have hget : l.bytes[j]? = some (l.bytes.getD j 0) := by
    rw [List.getD_eq_getElem?_getD, List.getElem?_eq_getElem (hlen ▸ hj), Option.getD_some]
  have hmem : (j, l.bytes.getD j 0) ∈ l.modified := (Line.mem_modified hlen).mpr ⟨hget, hbit⟩
  refine after_of_whole (fun w hw haddr => ?_) ⟨_, List.mem_map_of_mem hmem, rfl⟩
  obtain ⟨p, hp, rfl⟩ := List.mem_map.mp hw
  have hpj : p.1 = j := by simpa using haddr
  refine ⟨rfl, Option.some.inj (((Line.mem_modified hlen).mp hp).1.symm.trans ?_)⟩
  rw [hpj, hget]

theorem Line.after_writes_other {z : Nat} (hz : ∀ j < 64, bitAt l.dirty j = true → z ≠ k + j) : after s (l.writes k) z = s.byte z :=
  after_of_forall_ne fun w hw => by
    obtain ⟨p, hp, rfl⟩ := List.mem_map.mp hw
    obtain ⟨hget, hbit⟩ := (Line.mem_modified hlen).mp hp
    obtain ⟨hlt, -⟩ := List.getElem?_eq_some_iff.mp hget
    exact (hz p.1 (hlen ▸ hlt) hbit).symm

end

/-- A whole block is written as it is, and nothing else of memory. -/
theorem State.byte_writeMem_block (s : State) {k : Nat} (hk : k % 64 = 0) {bs : List Byte} (hlen : bs.length = 64) (z : Nat) :
    (s.writeMem k bs).byte z = (s.putMem k bs).byte z := by
  have hblock : blocksOf k 64 = [k] := by
    rw [blocksOf_one (by decide) (by omega), Nat.div_mul_cancel (Nat.dvd_of_mod_eq_zero hk)]
  unfold State.writeMem
  simp only [hlen, hblock, forEach, List.foldl_cons, List.foldl_nil, le_refl, and_self, if_true]
  split <;> rfl

section
variable {s : State} {core k : Nat} {l : Line} (hsound : soundMem s) (hline : (s.core core).line k = some l)
  (hremote : l.remote = none) (hlen : l.bytes.length = 64) (hk : k % 64 = 0)
include hline

include hremote

/-- Writing back a line of this module's memory: whole when every byte is modified, else its modified bytes (R171, R180). -/
theorem State.writeBack_local : s.writeBack core k =
    if l.dirty = 0 then s
    else if l.dirty = BitVec.allOnes 64 then (s.setLine core k (some { l with dirty := 0 })).writeMem k l.bytes
    else (s.setLine core k (some { l with dirty := 0 })).writeBitsAll (l.writes k) := by
  obtain ⟨bytes, dirty, ctx, remote, slot, org⟩ := l
  cases hremote
  rw [State.writeBack, hline]
  rfl

/-- A line that is written back is unmodified. -/
theorem State.line_writeBack_same : ((s.writeBack core k).core core).line k = some { l with dirty := 0 } := by
  rw [State.writeBack_local hline hremote]
  by_cases hd : l.dirty = 0
  · rw [if_pos hd, hline, ← hd]
  · have hset : ((s.setLine core k (some { l with dirty := 0 })).core core).line k = some { l with dirty := 0 } := by
      rw [State.line_setLine, if_pos rfl]
    rw [if_neg hd]
    split
    · rw [State.core_congr (State.writeMem_coresKept ..).cores, hset]
    · rw [State.core_congr (State.writeBitsAll_coresKept ..).cores, hset]

include hsound hlen hk

/-- What memory holds once a line of it has been written back: its modified bytes, and else what it held. -/
theorem State.byte_writeBack {z : Nat} (hz : isRom z = false) : (s.writeBack core k).byte z = after s (l.writes k) z := by
  rw [State.writeBack_local hline hremote]
  split
  · next hd =>
    have hnone (j : Nat) : bitAt l.dirty j = false := by rw [hd, bitAt_eq_testBit]; exact Nat.zero_testBit j
    exact (Line.after_writes_other hlen s k fun j _ hbit => by rw [hnone] at hbit; cases hbit).symm
  · split
    · next hd =>
      rw [State.byte_writeMem_block _ hk hlen, State.byte_putMem _ _ _ hz]
      have hbit {j : Nat} (hj : j < 64) : bitAt l.dirty j = true := by
        rw [hd, bitAt_eq_testBit, BitVec.toNat_allOnes, Nat.testBit_two_pow_sub_one]
        exact decide_eq_true hj
      split
      · next hin =>
        obtain ⟨j, rfl⟩ := Nat.exists_eq_add_of_le hin.1
        rw [Nat.add_sub_cancel_left]
        exact (Line.after_writes hlen s k (by omega) (hbit (by omega))).symm
      · next hout => exact (Line.after_writes_other hlen s k fun j hj _ => by omega).symm
    · rw [State.writeBitsAll_of_sound (show soundMem (s.setLine core k (some { l with dirty := 0 })) from hsound)]
      exact State.byte_forEach_writeBits _ _ hz

end

/-! ## The clauses -/

theorem useLines_noDest (f : FormR) : ∀ u ∈ useLines f, u.dst = false := by simp [useLines, Use.src, Use.unused]

section
variable {s s1 s2 : State} {sg : SgRef} {f : FormR} {a : At} (hspace : modSpace f.mod = 2) (hwid : modWid f.mod ≠ 7)
  (hstrm : modStrm f.mod = false) (hctl : f.ctl = 0) (h : s.issuing sg f.g false (useLines f) = some (a, s1))
  (hacq : s1.acquiring a = false) (hfree : ∀ i ∈ a.lanes, 0 < a.g.val f.b i 1 →
    (s1.core a.core).conflict (vaKey a.b.ctx (a.g.val f.a i 2)) (a.g.val f.b i 1) true = false)

theorem cacheOk_of (hspace : modSpace f.mod = 2) (hwid : modWid f.mod ≠ 7) (hstrm : modStrm f.mod = false) (hctl : f.ctl = 0) :
    cacheOk f = true := by
  simp [cacheOk, hspace, hwid, hstrm, hctl]

include hspace hwid hstrm hctl h hacq hfree

theorem exec_cinv (hall : linesAll a f (fun s k => s.evict a.core k) s1 a.lanes = some s2) :
    exec (.cinv sg f) s = .next (a.issued (a.advance (a.supersede s s2 (useLines f)))) := by
  have hex : exec (.cinv sg f) s = .next (s.issue sg f.g false false true (useLines f) fun a s =>
      a.cacheOps s f fun s k => s.evict a.core k) := by
    show execCinv sg f s = _
    rw [execCinv, cacheOk_of hspace hwid hstrm hctl]
    rfl
  rw [exec_of_issuing h hex, At.cacheOps_done hacq hfree hall]
  rfl

theorem exec_cwb (hall : linesAll a f (fun s k => s.writeBack a.core k) s1 a.lanes = some s2) :
    exec (.cwb sg f) s = .next (a.issued (a.advance (a.supersede s s2 (useLines f)))) := by
  have hex : exec (.cwb sg f) s = .next (s.issue sg f.g false false true (useLines f) fun a s =>
      a.cacheOps s f fun s k => s.writeBack a.core k) := by
    show execCwb sg f s = _
    rw [execCwb, cacheOk_of hspace hwid hstrm hctl]
    rfl
  rw [exec_of_issuing h hex, At.cacheOps_done hacq hfree hall]
  rfl

end

/-- What CWB of one line leaves. -/
theorem At.writeBack_finished {a : At} {us : List Use} (hdest : ∀ u ∈ us, u.dst = false) (old : State) {s : State} {x : Block}
    (hblk : s.block a.core a.blk = some x) (hsound : soundMem s) {k : Nat} (hk : k % 64 = 0)
    (hlocal : ∀ l, (s.core a.core).line k = some l → l.remote = none ∧ l.bytes.length = 64) :
    ∃ t, a.issued (a.advance (a.supersede old (s.writeBack a.core k) us)) = t ∧ a.RegsHeld s t
      ∧ (∀ l, (s.core a.core).line k = some l →
        (t.core a.core).line k = some { l with dirty := 0 }
          ∧ (∀ j < 64, k < 0xF0000000000 → bitAt l.dirty j = true → t.byte (k + j) = l.bytes.getD j 0)
          ∧ ∀ z, (∀ j < 64, bitAt l.dirty j = true → z ≠ k + j) → t.byte z = s.byte z)
      ∧ (∀ j, j ≠ k → (t.core a.core).line j = (s.core a.core).line j) := by
  obtain ⟨t, ht, hregs, hbyte, -, hlines, -⟩ := At.effect_finished hdest old hblk (s.writeBack_block a.core k)
  refine ⟨t, ht, hregs, fun l hl => ?_, fun j hj => (hlines ..).trans (s.line_writeBack_other a.core hj)⟩
  obtain ⟨hremote, hlen⟩ := hlocal l hl
  refine ⟨(hlines ..).trans (State.line_writeBack_same hl hremote), fun j hj hlow hbit => ?_, fun z hz => ?_⟩
  · have hrom : isRom (k + j) = false := Bool.and_eq_false_iff.mpr (.inl (decide_eq_false (by omega)))
    rw [hbyte, State.byte_writeBack hsound hl hremote hlen hk hrom, Line.after_writes hlen s k hj hbit]
  · cases hrom : isRom z with
    | true => exact State.byte_rom s t hrom
    | false => rw [hbyte, State.byte_writeBack hsound hl hremote hlen hk hrom, Line.after_writes_other hlen s k hz]

/-- What CINV of one line leaves. -/
theorem At.evict_finished {a : At} {us : List Use} (hdest : ∀ u ∈ us, u.dst = false) (old : State) {s : State} {x : Block}
    (hblk : s.block a.core a.blk = some x) (k : Nat) :
    ∃ t, a.issued (a.advance (a.supersede old (s.evict a.core k) us)) = t ∧ a.RegsHeld s t ∧ (t.core a.core).line k = none
      ∧ ∀ j, j ≠ k → (t.core a.core).line j = (s.core a.core).line j := by
  obtain ⟨t, ht, hregs, -, -, hlines, -⟩ := At.effect_finished (u := s.evict a.core k) hdest old hblk
    fun c b => (State.block_setLine ..).trans (s.writeBack_block ..)
  have hline (j : Nat) : ((s.evict a.core k).core a.core).line j = if j = k then none else ((s.writeBack a.core k).core a.core).line j :=
    State.line_setLine ..
  refine ⟨t, ht, hregs, (hlines ..).trans ((hline k).trans (if_pos rfl)), fun j hj => ?_⟩
  rw [hlines, hline, if_neg hj, s.line_writeBack_other a.core hj]

end Sys2Proof.Machine

open Sys2Proof Sys2Proof.Machine Sys2Proof.Claims

/-- Settles O21: all lines in turn, none, and one. -/
theorem cacheInstructions : Obligations.CacheInstructions := by
  unfold Obligations.CacheInstructions
  intro s sg f a s1 hspace hwid hstrm hctl h hacq hfree
  obtain ⟨⟨y, hblk, -⟩, -⟩ := State.issuing_block h
  have hcinv {t : State} := exec_cinv (s2 := t) hspace hwid hstrm hctl h hacq hfree
  have hcwb {t : State} := exec_cwb (s2 := t) hspace hwid hstrm hctl h hacq hfree
  have hissued (t : State) := a.finished_onlyIssuedAfter (useLines f) (State.issuing_reqs h).symm t
  refine ⟨fun s2 hall => ⟨_, hcinv hall, hissued s2⟩, fun s2 hall => ⟨_, hcwb hall, hissued s2⟩, fun hzero => ?_,
    fun i va x s2 c hlanes hva hin hpos htr ⟨hsound, _⟩ hlocal => ?_⟩
  · have hregs := At.finished_regsKept a s (useLines f) hblk
    exact ⟨⟨_, hcinv (linesAll_empty hzero), hregs, hissued s1⟩, _, hcwb (linesAll_empty hzero), hregs, hissued s1⟩
  · have hframe := s1.translate_frame a.core a.b.ctx (va / 64 * 64) .read
    rw [htr] at hframe
    have hblk2 := (State.block_of_cores hframe.cores a.core a.blk).trans hblk
    obtain ⟨t, ht, hwritten⟩ := At.writeBack_finished (useLines_noDest f) s hblk2 hsound (by omega) hlocal
    obtain ⟨u, hu, hdropped⟩ := At.evict_finished (useLines_noDest f) s hblk2 (x / 64 * 64)
    have hone {act : State → Nat → State} : linesAll a f act s1 a.lanes = some (act s2 (x / 64 * 64)) :=
      hlanes ▸ linesAll_one hva hin hpos htr
    exact ⟨⟨t, (hcwb hone).trans (congrArg Host.Outcome.next ht), hwritten⟩, u, (hcinv hone).trans (congrArg Host.Outcome.next hu),
      hdropped⟩

end

section
/-! # Every step keeps the canonical form (O45)

The nine maps of `Canonical` are changed by `Sparse.set`, `Sparse.modify` and `Sparse.forget` alone, each of which keeps a map
canonical. One lemma per operation of the model, in the order of the model's files, says that it keeps `Canonical`: its proof
is the chain of operations that the definition performs, by the cases of its guards. -/
namespace Sys2Proof.Claims
open Sys2Proof.Machine

/-- What an instruction's body did leaves every map canonical, whatever it answers. -/
inductive CanonicalDid : Did → Prop
  | wait : CanonicalDid .wait
  | retry {s} (h : Canonical s) : CanonicalDid (.retry s)
  | fault {cls addr} {s} (h : Canonical s) : CanonicalDid (.fault s cls addr)
  | done {s} (h : Canonical s) : CanonicalDid (.done s)
  | flow {s} (h : Canonical s) : CanonicalDid (.flow s)

/-- So does reading the header of a saved region. -/
inductive CanonicalHead : Head → Prop
  | wait : CanonicalHead .wait
  | ask {s} (h : Canonical s) : CanonicalHead (.ask s)
  | len {s n} (h : Canonical s) : CanonicalHead (.len s n)

/-- The outcome is a next state with canonical maps. -/
inductive CanonicalNext : Host.Outcome State Fault Refusal → Prop
  | next {t} (h : Canonical t) : CanonicalNext (.next t)

variable {s t : State}

/-! ## Guards, pairs and folds -/

/-- An update of any other part of the state leaves the nine maps as they are. -/
theorem Canonical.same
    {pending freeCtr powered lcount lcLatch late progress lost sramBad eccFixed scaleBad fcacheBad wcacheBad
      scrub retrained waiters rwcPend invQueue wcache fcache err launches nextLaunch reqs hreads hostOut fabOut
      cut cutAll tables rings vectors links svc power start spdm resets mgmt standby} (h : Canonical s) :
    Canonical { s with
      pending, freeCtr, powered, lcount, lcLatch, late, progress, lost, sramBad, eccFixed, scaleBad, fcacheBad,
      wcacheBad, scrub, retrained, waiters, rwcPend, invQueue, wcache, fcache, err, launches, nextLaunch, reqs,
      hreads, hostOut, fabOut, cut, cutAll, tables, rings, vectors, links, svc, power, start, spdm, resets,
      mgmt, standby } :=
  h

theorem Canonical.ite {c : Prop} {_ : Decidable c} (hs : Canonical s) (ht : Canonical t) :
    Canonical (if c then s else t) := by
  split
  · exact hs
  · exact ht

/-- A step that is taken under a guard. -/
theorem Canonical.when {c : Prop} {_ : Decidable c} (h : Canonical s) (ht : Canonical s → Canonical t) :
    Canonical (if c then t else s) :=
  .ite (ht h) h

/-- A step that is taken unless a guard holds. -/
theorem Canonical.unless {c : Prop} {_ : Decidable c} (h : Canonical s) (ht : Canonical s → Canonical t) :
    Canonical (if c then s else t) :=
  .ite h (ht h)

theorem Canonical.iteFst {β} {c : Prop} {_ : Decidable c} {p q : State × β} (hp : Canonical p.1) (hq : Canonical q.1) :
    Canonical (if c then p else q).1 := by
  split
  · exact hp
  · exact hq

theorem Canonical.pair {β} {x : β} (h : Canonical s) : Canonical (s, x).1 := h

/-- The state that a match takes out of an answer is the answer's. -/
theorem Canonical.of_pair {β} {p : State × β} {x : β} (h : Canonical p.1) (e : p = (s, x)) : Canonical s := by
  subst e
  exact h

theorem Canonical.getD {o : Option State} (ho : ∀ {t}, o = some t → Canonical t) (h : Canonical s) :
    Canonical (o.getD s) := by
  cases o with
  | none => exact h
  | some t => exact ho rfl

theorem Canonical.foldl {α} {f : State → α → State} {xs : List α} (hf : ∀ {s x}, Canonical s → Canonical (f s x))
    (h : Canonical s) : Canonical (xs.foldl f s) := by
  induction xs generalizing s with
  | nil => exact h
  | cons x xs ih => exact ih (hf h)

theorem Canonical.forEach {α} {f : State → α → State} {xs : List α} (hf : ∀ {s x}, Canonical s → Canonical (f s x))
    (h : Canonical s) : Canonical (Machine.forEach f s xs) :=
  .foldl hf h

theorem Canonical.foldlFst {α β} {f : State × β → α → State × β} {p : State × β} {xs : List α}
    (hf : ∀ {p x}, Canonical p.1 → Canonical (f p x).1) (h : Canonical p.1) : Canonical (xs.foldl f p).1 := by
  induction xs generalizing p with
  | nil => exact h
  | cons x xs ih => exact ih (hf h)

theorem CanonicalDid.ite {c : Prop} {_ : Decidable c} {x y : Did} (hx : CanonicalDid x) (hy : CanonicalDid y) :
    CanonicalDid (if c then x else y) := by
  split
  · exact hx
  · exact hy

theorem CanonicalNext.ite {c : Prop} {_ : Decidable c} {x y : Host.Outcome State Fault Refusal} (hx : CanonicalNext x)
    (hy : CanonicalNext y) : CanonicalNext (if c then x else y) := by
  split
  · exact hx
  · exact hy

/-! ## State -/

/-- The state of reset holds nothing in any of the maps. -/
theorem Canonical.reset : Canonical State.reset := ⟨rfl, rfl, rfl, rfl, rfl, rfl, rfl, rfl, rfl⟩

/-! ## Regs -/

theorem Canonical.setReg {off v} (h : Canonical s) : Canonical (s.setReg off v) := by
  obtain ⟨mem, poison, defects, crcOff, setup, keeper, spool, spoolChg, cores⟩ := h
  exact ⟨mem, poison, defects, crcOff, Sparse.wf_set _ _ setup, keeper, spool, spoolChg, cores⟩

theorem Canonical.setKreg {off v} (h : Canonical s) : Canonical (s.setKreg off v) := by
  obtain ⟨mem, poison, defects, crcOff, setup, keeper, spool, spoolChg, cores⟩ := h
  exact ⟨mem, poison, defects, crcOff, setup, Sparse.wf_set _ _ keeper, spool, spoolChg, cores⟩

theorem Canonical.setRegFld {off lo len v} (h : Canonical s) : Canonical (s.setRegFld off lo len v) := h.setReg

theorem Canonical.count {off n} (h : Canonical s) : Canonical (s.count off n) := h.setReg

theorem Canonical.clearRegs {off n} (h : Canonical s) : Canonical (s.clearRegs off n) := by
  induction n with
  | zero => exact h
  | succ n ih => exact ih.setReg

theorem Canonical.setSvc {bit v} (h : Canonical s) : Canonical (s.setSvc bit v) := h.setRegFld

theorem Canonical.setRing {r f} (h : Canonical s) : Canonical (s.setRing r f) := .same h

theorem Canonical.setCore {n c} (h : Canonical s) : Canonical (s.setCore n c) := by
  obtain ⟨mem, poison, defects, crcOff, setup, keeper, spool, spoolChg, cores⟩ := h
  exact ⟨mem, poison, defects, crcOff, setup, keeper, spool, spoolChg, Sparse.wf_set _ _ cores⟩

theorem Canonical.modCore {n f} (h : Canonical s) : Canonical (s.modCore n f) := h.setCore

theorem Canonical.setLink {k f} (h : Canonical s) : Canonical (s.setLink k f) := .same h

theorem Canonical.setPart {p f} (h : Canonical s) : Canonical (s.setPart p f) := .same h

theorem Canonical.draw (h : Canonical s) : Canonical (s.draw).2 := .same h

theorem Canonical.modStart {f} (h : Canonical s) : Canonical (s.modStart f) := .same h

theorem Canonical.setProgress {n st level detail unit} (h : Canonical s) :
    Canonical (s.setProgress n st level detail unit) :=
  h.setKreg.setReg.modStart

/-! ## Flits -/

theorem Canonical.pump {lk} (h : Canonical s) : Canonical (s.pump lk) := h.setLink

theorem Canonical.toHost {m ring} (h : Canonical s) : Canonical (s.toHost m ring) := by
  unfold State.toHost
  split
  · exact .same h
  · exact .ite h (.pump (.setLink (.same h)))

theorem Canonical.hostWrite {a bs ring} (h : Canonical s) : Canonical (s.hostWrite a bs ring) :=
  .foldl (·.toHost) (.iteFst h h.draw)

/-! ## Ops -/

theorem Canonical.putMem {a bs} (h : Canonical s) : Canonical (s.putMem a bs) := by
  obtain ⟨mem, rest⟩ := h
  exact ⟨memWf_putMem s a bs mem, rest⟩

theorem Canonical.zeroMem {a n} (h : Canonical s) : Canonical (s.zeroMem a n) := by
  obtain ⟨mem, rest⟩ := h
  exact ⟨memWf_zeroMem s a n mem, rest⟩

theorem Canonical.loseMem {a n} (h : Canonical s) : Canonical (s.loseMem a n) := .same h.zeroMem

theorem Canonical.putWord {a w} (h : Canonical s) : Canonical (s.putWord a w) := h.putMem

theorem Canonical.setPoison {b v} (h : Canonical s) : Canonical (s.setPoison b v) := by
  obtain ⟨mem, poison, rest⟩ := h
  exact ⟨mem, Sparse.wf_set _ _ poison, rest⟩

theorem Canonical.freshen {a n} (h : Canonical s) : Canonical (s.freshen a n) := by
  obtain ⟨mem, poison, defects, crcOff, rest⟩ := h
  have whole {α} [DecidableEq α] {d : Nat → α} {m : Sparse α} :=
    Sparse.wf_forget (d := d) (m := m) fun b => decide (a ≤ b) && decide (b + 64 ≤ a + n)
  exact ⟨mem, whole poison, whole defects, whole crcOff, rest⟩

theorem Canonical.putBlocks {a bs} (h : Canonical s) : Canonical (s.putBlocks a bs) := h.freshen.putMem

theorem Canonical.zeroBlocks {a n} (h : Canonical s) : Canonical (s.zeroBlocks a n) := h.freshen.zeroMem

theorem Canonical.tick (h : Canonical s) : Canonical s.tick := .ite (.same h) h

theorem Canonical.progressed {u} (h : Canonical s) : Canonical (s.progressed u) := .same h

/-! ## Errors -/

theorem Canonical.setLatch {src l} (h : Canonical s) : Canonical (s.setLatch src l) := .same h

theorem Canonical.srcPut {src reports lost} (h : Canonical s) : Canonical (s.srcPut src reports lost) :=
  .ite h.putWord h.putWord.putWord.putWord

theorem Canonical.countBy {add src reports lost} (h : Canonical s)
    (hadd : ∀ {s x1 x2 x3}, Canonical s → Canonical (add s x1 x2 x3)) :
    Canonical (State.countBy add s src reports lost) :=
  .ite (hadd (.ite h h.setKreg)) (.setLatch (.ite h h.setKreg))

theorem Canonical.latchBy {add src r} (h : Canonical s)
    (hadd : ∀ {s x1 x2 x3}, Canonical s → Canonical (add s x1 x2 x3)) :
    Canonical (State.latchBy add s src r) := by
  unfold State.latchBy
  simp only []
  split <;> exact h.setLatch.countBy hadd

theorem Canonical.mcCount {a i} (h : Canonical s) : Canonical (s.mcCount a i) := by
  unfold State.mcCount
  split
  · exact h.count
  · exact h

/-- A block with neither kind of defect, as a check or a whole write leaves it. -/
theorem Canonical.clearBlock {b} (h : Canonical s) :
    Canonical { s with
      defects := Sparse.set (fun _ => 0) s.defects b 0, crcOff := Sparse.set (fun _ => 0) s.crcOff b 0 } := by
  obtain ⟨mem, poison, defects, crcOff, rest⟩ := h
  exact ⟨mem, poison, Sparse.wf_set b 0 defects, Sparse.wf_set b 0 crcOff, rest⟩

theorem Canonical.crcCheckBy {add b} (h : Canonical s) (hadd : ∀ {s x1 x2 x3}, Canonical s → Canonical (add s x1 x2 x3)) :
    Canonical (State.crcCheckBy add s b) := by
  unfold State.crcCheckBy
  simp only []
  refine .ite h (.ite h.clearBlock.mcCount ?_)
  split
  · exact h.clearBlock.setPoison.mcCount.latchBy hadd
  · exact h.clearBlock.setPoison.mcCount

theorem Canonical.srcAdd {src reports lost} (h : Canonical s) : Canonical (s.srcAdd src reports lost) :=
  .srcPut (h.crcCheckBy (·.srcPut))

theorem Canonical.latchReport {src r} (h : Canonical s) : Canonical (s.latchReport src r) := h.latchBy (·.srcAdd)

theorem Canonical.report {src cls cause ctx unit detail} (h : Canonical s) :
    Canonical (s.report src cls cause ctx unit detail) :=
  h.latchReport

theorem Canonical.crcCheck {b} (h : Canonical s) : Canonical (s.crcCheck b) := h.crcCheckBy (·.srcAdd)

theorem Canonical.putKeeper {off ws} (h : Canonical s) : Canonical (s.putKeeper off ws) := .foldl (·.setKreg) h

theorem Canonical.modBit {i v} (h : Canonical s) : Canonical (s.modBit i v) := .same h

theorem Canonical.ringWrite {src r} (h : Canonical s) : Canonical (s.ringWrite src r) :=
  .ite h.putBlocks.crcCheck.putWord.setKreg (.when h.putBlocks.crcCheck.putWord.setKreg (·.toHost))

theorem Canonical.noteFatal {src seq r} (h : Canonical s) : Canonical (s.noteFatal src seq r) :=
  .ite h.putKeeper.modBit h

theorem Canonical.writeRecord {src r} (h : Canonical s) : Canonical (s.writeRecord src r) :=
  .ite h.noteFatal.ringWrite (.same h.noteFatal.putKeeper)

theorem Canonical.reportFatalAt {src cause unit detail} (h : Canonical s) :
    Canonical (s.reportFatalAt src cause unit detail) :=
  h.noteFatal.latchReport

theorem Canonical.reportFatal {src cause detail} (h : Canonical s) : Canonical (s.reportFatal src cause detail) :=
  h.reportFatalAt

theorem Canonical.reportReset {src n ctx unit reason mask seq lost} (h : Canonical s) :
    Canonical (s.reportReset src n ctx unit reason mask seq lost) :=
  h.latchReport

theorem Canonical.drainOne (h : Canonical s) : Canonical s.drainOne := .ite h (.ite (.same h.ringWrite.putKeeper) h)

theorem Canonical.drainMany {n} (h : Canonical s) : Canonical (State.drainMany n s) := by
  induction n generalizing s with
  | zero => exact h
  | succ n ih => exact ih h.drainOne

theorem Canonical.mergeCounts (h : Canonical s) : Canonical s.mergeCounts :=
  .foldl (fun h => .ite h h.srcAdd.setLatch) h

theorem Canonical.rearmRing (h : Canonical s) : Canonical s.rearmRing := h.setKreg.setKreg.setKreg.zeroBlocks

theorem CanonicalNext.errorRecordWrite {src} (h : Canonical s) : CanonicalNext (execErrorRecordWrite src s) := by
  refine .ite (.next h.drainOne) (.ite (.next h) ?_)
  split
  · exact .next h
  · exact .ite (.next h) (.next (.same h.setLatch.writeRecord))

theorem Canonical.integrity {src cause ctx unit addr v c} (h : Canonical s) :
    Canonical (s.integrity src cause ctx unit addr v c) :=
  h.report

theorem Canonical.holeRecord {src ctx addr} (h : Canonical s) : Canonical (s.holeRecord src ctx addr) := h.report

theorem Canonical.refusal {src cause ctx detail} (h : Canonical s) : Canonical (s.refusal src cause ctx detail) :=
  h.report

theorem Canonical.rwcFailed {src off v c} (h : Canonical s) : Canonical (s.rwcFailed src off v c) :=
  .ite h.integrity.count.modBit h.integrity

theorem Canonical.setPend {b p} (h : Canonical s) : Canonical (s.setPend b p) := .same h

theorem Canonical.dropPend {src b} (h : Canonical s) : Canonical (s.dropPend src b) := by
  unfold State.dropPend
  split
  · exact h
  · exact h.setPend.rwcFailed

theorem Canonical.svcReg {off v} (h : Canonical s) : Canonical (s.svcReg off v) := h.dropPend.setReg

theorem Canonical.svcFld {off lo len v} (h : Canonical s) : Canonical (s.svcFld off lo len v) := h.dropPend.setRegFld

theorem Canonical.svcRwc {off v} (h : Canonical s) : Canonical (s.svcRwc off v) := h.dropPend.setReg.setReg

/-! ## Memory -/

theorem Canonical.askChip {r} (h : Canonical s) : Canonical (s.askChip r) := by
  unfold State.askChip
  split
  · exact h
  · exact .same h

theorem Canonical.askContext {c} (h : Canonical s) : Canonical (s.askContext c) := .ite h.askChip (.ite h (.same h))

theorem Canonical.threadFault {core ctx cls grp mask pc addr} (h : Canonical s) :
    Canonical (s.threadFault core ctx cls grp mask pc addr) :=
  h.report.askContext

theorem Canonical.engineFault {src ctx cls unit d0 d2 addr} (h : Canonical s) :
    Canonical (s.engineFault src ctx cls unit d0 d2 addr) :=
  h.report.askContext

theorem Canonical.crcRange {a n} (h : Canonical s) : Canonical (s.crcRange a n) := .forEach (·.crcCheck) h

theorem Canonical.eccRange {a n} (h : Canonical s) : Canonical (s.eccRange a n).1 :=
  .foldlFst (fun h => .iteFst (.same h) h) h

theorem Canonical.gsramDbe (h : Canonical s) : Canonical s.gsramDbe := h.reportFatal.askChip

theorem Canonical.sramDbe {a} (h : Canonical s) : Canonical (s.sramDbe a) := h.report

theorem Canonical.readMem {a n} (h : Canonical s) : Canonical (s.readMem a n).1 := by
  unfold State.readMem
  simp only []
  refine .iteFst ?_ (.iteFst (.iteFst h.eccRange.gsramDbe h.eccRange.sramDbe) h.eccRange)
  split
  · exact h.crcRange.mcCount
  · exact h.crcRange

theorem Canonical.writeMem {a bs} (h : Canonical s) : Canonical (s.writeMem a bs) :=
  .putMem (.ite (.forEach (fun h => .ite h.setPoison.clearBlock h.crcCheck) h) (.same h))

theorem Canonical.writeBits {w} (h : Canonical s) : Canonical (s.writeBits w) := h.putMem

theorem Canonical.writeBitsAll {ws} (h : Canonical s) : Canonical (s.writeBitsAll ws) :=
  .forEach (·.writeBits) (.same (.forEach (fun h => .ite h.crcCheck h) h))

theorem Canonical.entryOk {a n} (h : Canonical s) : Canonical (s.entryOk a n).1 := by
  unfold State.entryOk
  simp only []
  split
  · exact h.crcRange.mcCount
  · exact h.crcRange

theorem Canonical.readEntry {a n} (h : Canonical s) : Canonical (s.readEntry a n).1 := h.entryOk

/-! ## Spool -/

theorem Canonical.spoolChange {n v} (h : Canonical s) : Canonical (s.spoolChange n v) := by
  obtain ⟨mem, poison, defects, crcOff, setup, keeper, spool, spoolChg, cores⟩ := h
  exact ⟨mem, poison, defects, crcOff, setup, keeper, Sparse.wf_set n v spool, Sparse.wf_modify n (v :: ·) spoolChg, cores⟩

theorem Canonical.spoolAdd {n k} (h : Canonical s) : Canonical (s.spoolAdd n k) := .ite h h.spoolChange

theorem Canonical.spoolSet {n v} (h : Canonical s) : Canonical (s.spoolSet n v) := h.spoolChange

theorem Canonical.spoolPoison {n} (h : Canonical s) : Canonical (s.spoolPoison n) := .ite h h.spoolChange

theorem Canonical.spoolClear {n} (h : Canonical s) : Canonical (s.spoolClear n) := by
  obtain ⟨mem, poison, defects, crcOff, setup, keeper, spool, spoolChg, cores⟩ := h
  exact ⟨mem, poison, defects, crcOff, setup, keeper, Sparse.wf_set n 0 spool, spoolChg, cores⟩

theorem Canonical.spoolWrite {src ctx addr bs} (h : Canonical s) : Canonical (s.spoolWrite src ctx addr bs) :=
  .ite h.spoolSet h.refusal

/-! ## Translate -/

theorem Canonical.loadWindows {ctx} (h : Canonical s) : Canonical (s.loadWindows ctx).1 :=
  .foldlFst (fun h => .iteFst h.entryOk h.entryOk) h

theorem Canonical.cacheEcc {bad key unit put} (h : Canonical s)
    (hput : ∀ {s x1}, Canonical s → Canonical (put s x1)) :
    Canonical (s.cacheEcc bad key unit put).1 :=
  .iteFst h (.iteFst (.same (hput h)) (hput h))

theorem Canonical.windows {unit ctx} (h : Canonical s) : Canonical (s.windows unit ctx).1 := by
  unfold State.windows
  simp only []
  split
  · exact h.cacheEcc fun h => .same h
  · exact .same (.loadWindows (h.cacheEcc fun h => .same h))

theorem Canonical.trLocal {unit ctx va need} (h : Canonical s) : Canonical (s.trLocal unit ctx va need).1 := by
  unfold State.trLocal
  extract_lets r1
  have hr1 : Canonical r1.1 := h.windows
  split
  · exact .iteFst hr1 hr1
  · exact .iteFst hr1 (.iteFst hr1 (.iteFst hr1 hr1))

theorem Canonical.readFamap {i} (h : Canonical s) : Canonical (s.readFamap i).1 := .iteFst h h.readEntry

theorem Canonical.famapBad {unit ctx i e} (h : Canonical s) : Canonical (s.famapBad unit ctx i e) := h.integrity

theorem Canonical.famapPut {unit i e} (h : Canonical s) : Canonical (s.famapPut unit i e) :=
  .same (.ite h (.same h.draw))

theorem Canonical.famapRead {unit ctx i} (h : Canonical s) : Canonical (s.famapRead unit ctx i).1 := by
  unfold State.famapRead
  split
  · exact h.readFamap.of_pair ‹_›
  · exact .iteFst (h.readFamap.of_pair ‹_›).famapPut (h.readFamap.of_pair ‹_›).famapBad

theorem Canonical.famapEntry {unit ctx i} (h : Canonical s) : Canonical (s.famapEntry unit ctx i).1 := by
  have hb := h.cacheEcc (bad := s.fcacheBad) (key := famapKey unit i) (unit := eccMap (dieOf unit))
    (put := fun s m => { s with fcacheBad := m }) (.same ·)
  unfold State.famapEntry
  simp only []
  split
  · exact .iteFst hb (.famapRead hb.famapBad)
  · split
    · exact hb.readFamap.of_pair ‹_›
    · exact .iteFst (hb.readFamap.of_pair ‹_›).famapPut (hb.readFamap.of_pair ‹_›).famapBad.famapRead

theorem Canonical.trGlobal {unit ctx va need} (h : Canonical s) : Canonical (s.trGlobal unit ctx va need).1 := by
  unfold State.trGlobal
  simp only []
  refine .iteFst h (.iteFst h ?_)
  split
  · exact h.famapEntry
  · refine .iteFst h.famapEntry (.iteFst h.famapEntry (.iteFst ?_ h.famapEntry))
    split <;> exact h.famapEntry

theorem Canonical.translate {unit ctx va need} (h : Canonical s) : Canonical (s.translate unit ctx va need).1 :=
  .iteFst h.trGlobal h.trLocal

theorem Canonical.translateRange {unit ctx va n need} (h : Canonical s) :
    Canonical (s.translateRange unit ctx va n need).1 := by
  refine .foldlFst (fun h => ?_) h
  split
  · exact h
  · simp only []
    split <;> exact h.translate

/-! ## Route -/

theorem Canonical.sendOn {port p} (h : Canonical s) : Canonical (s.sendOn port p) := .pump (.setLink (.same h))

theorem Canonical.issueReq {ptype dst ctx owner addr len ext data org acq t} (h : Canonical s)
    (e : s.issueReq ptype dst ctx owner addr len ext data org acq = some t) : Canonical t := by
  unfold State.issueReq at e
  split at e
  · cases e
  · obtain rfl := Option.some.inj e
    exact .sendOn (.same h)

theorem Canonical.post {ptype dst len ext data} (h : Canonical s) : Canonical (s.post ptype dst len ext data) :=
  .ite h (by split; exacts [h.sendOn, h.report])

theorem Canonical.notifyRemote {dst id n psn} (h : Canonical s) : Canonical (s.notifyRemote dst id n psn) :=
  .forEach (·.post) h

theorem Canonical.endReq {tag} (h : Canonical s) : Canonical (s.endReq tag) := .same h

theorem Canonical.overtake {core va n} (h : Canonical s) : Canonical (s.overtake core va n) := .ite (.same h) h

/-! ## Cache -/

theorem Canonical.issueRun {dev lpn ctx owner addr spool run org t} (h : Canonical s)
    (e : s.issueRun dev lpn ctx owner addr spool run org = some t) : Canonical t :=
  h.issueReq e

theorem Canonical.issueWrites {dev lpn ctx owner addr ws org} (h : Canonical s) :
    Canonical (s.issueWrites dev lpn ctx owner addr ws org).1 :=
  .foldlFst (fun h => by split; exacts [h.issueRun ‹_›, h]) h

theorem Canonical.setLine {core k l} (h : Canonical s) : Canonical (s.setLine core k l) := h.modCore

theorem Canonical.writeBack {core k} (h : Canonical s) : Canonical (s.writeBack core k) := by
  unfold State.writeBack
  split
  · exact h
  · refine .ite h ?_
    extract_lets s1
    have hs1 : Canonical s1 := h.setLine
    split
    · exact .ite hs1.writeMem hs1.writeBitsAll
    · exact .ite hs1 (.unless hs1.issueWrites (·.threadFault))

theorem Canonical.dropLine {core k} (h : Canonical s) : Canonical (s.dropLine core k) := h.setLine

theorem Canonical.evict {core k} (h : Canonical s) : Canonical (s.evict core k) := h.writeBack.dropLine

theorem Canonical.writeBackAll {core} (h : Canonical s) : Canonical (s.writeBackAll core) := .forEach (·.writeBack) h

theorem Canonical.evictAll {core} (h : Canonical s) : Canonical (s.evictAll core) := .forEach (·.evict) h

theorem Canonical.placeLine {core k l} (h : Canonical s) : Canonical (s.placeLine core k l) := h.draw.setLine

theorem Canonical.allocate {core k l} (h : Canonical s) : Canonical (s.allocate core k l) := by
  unfold State.allocate
  simp only []
  refine .ite h (.ite h.placeLine ?_)
  split
  · exact h.draw.evict.placeLine
  · exact h.draw

theorem Canonical.linesOf {core ctx va n need} (h : Canonical s) : Canonical (s.linesOf core ctx va n need).1 := by
  refine .foldlFst (fun h => ?_) h
  simp only []
  split <;> exact h.translate

theorem Canonical.slotWrite {a bs} (h : Canonical s) : Canonical (s.slotWrite a bs) := by
  refine .ite h (.forEach (fun h => ?_) h)
  split
  · exact h.setLine
  · exact h

/-! ## Operands -/

theorem Canonical.setBlock {core blk b} (h : Canonical s) : Canonical (s.setBlock core blk b) := h.modCore

theorem Canonical.modGroup {core blk grp f} (h : Canonical s) : Canonical (s.modGroup core blk grp f) := by
  unfold State.modGroup
  split
  · exact h.setBlock
  · exact h

/-! ## Flags -/

theorem Canonical.countCvt {core sat infs nans} (h : Canonical s) : Canonical (s.countCvt core sat infs nans) :=
  h.count.count.count

theorem Canonical.numNan {core ctx tile} (h : Canonical s) : Canonical (s.numNan core ctx tile) := h.report

theorem Canonical.setLstat {core blk grp v} (h : Canonical s) : Canonical (s.setLstat core blk grp v) := h.modGroup

/-! ## Issue -/

theorem Canonical.atModGroup {a : At} {f} (h : Canonical s) : Canonical (a.modGroup s f) := h.modGroup

theorem Canonical.putVals {core blk grp f n vals} (h : Canonical s) : Canonical (s.putVals core blk grp f n vals) :=
  .ite h.draw.modGroup h.modGroup

theorem Canonical.atPut {a : At} {f n vals} (h : Canonical s) : Canonical (a.put s f n vals) := h.putVals

theorem Canonical.atPutPreds {a : At} {f vals} (h : Canonical s) : Canonical (a.putPreds s f vals) := h.atModGroup

theorem Canonical.atGoto {a : At} {pc} (h : Canonical s) : Canonical (a.goto s pc) := h.atModGroup

theorem Canonical.atAdvance {a : At} (h : Canonical s) : Canonical (a.advance s) := h.atGoto

theorem Canonical.atHoldAt {a : At} {w} (h : Canonical s) : Canonical (a.holdAt s w) := h.atModGroup

theorem Canonical.atSplitTo {a : At} {join parts} (h : Canonical s) : Canonical (a.splitTo s join parts) :=
  h.atModGroup

theorem Canonical.atServed {a : At} (h : Canonical s) : Canonical (a.served s) := h.modCore

theorem Canonical.atIssued {a : At} (h : Canonical s) : Canonical (a.issued s) := h.atServed.progressed

theorem Canonical.observe {core blk grp m} (h : Canonical s) : Canonical (s.observe core blk grp m) := by
  unfold State.observe
  split
  · exact h
  · exact h.modGroup

theorem Canonical.atSupersede {a : At} {old us} (h : Canonical s) : Canonical (a.supersede old s us) :=
  .ite (.same h) h

theorem Canonical.atFault {a : At} {cls addr} (h : Canonical s) : Canonical (a.fault s cls addr) := h.threadFault

theorem Canonical.regEcc {a : At} {us} (h : Canonical s) : Canonical (s.regEcc a us).1 := by
  unfold State.regEcc
  simp only []
  split
  · exact h
  · exact .same h.atModGroup

theorem Canonical.atRegPoison {a : At} (h : Canonical s) : Canonical (a.regPoison s) := h.report.atFault

/-- A sub-group that issues answers a fault, the group gone on, or what the body of its instruction did. -/
theorem Canonical.issueAt {a uni ok us body t} (h : Canonical s)
    (hbody : ∀ {a s}, Canonical s → CanonicalDid (body a s)) (e : s.issueAt a uni ok us body = some t) :
    Canonical t := by
  have hr := h.translate (unit := a.core) (ctx := a.b.ctx) (va := a.sub.pc.toNat) (need := .fetch)
  have hd := hbody (a := a) (hr.regEcc (a := a) (us := us))
  unfold State.issueAt at e
  simp only [] at e
  generalize (s.translate a.core a.b.ctx a.sub.pc.toNat .fetch).1 = r at hr hd e
  split at e
  · cases e; exact hr.atFault
  split at e
  · cases e; exact hr.atFault
  split at e
  · cases e
  split at e
  · cases e; exact hr.atAdvance
  split at e
  · cases e; exact hr.regEcc.atRegPoison
  generalize body a (r.regEcc a us).1 = d at hd e
  cases hd with
  | wait => cases e
  | retry hs => cases e; exact hs
  | fault hs => cases e; exact hs.atFault
  | done hs => cases e; exact hs.atSupersede.atAdvance
  | flow hs => cases e; exact hs.atSupersede

theorem Canonical.issue {sg gf rep uni ok us body} (h : Canonical s)
    (hbody : ∀ {x0 s}, Canonical s → CanonicalDid (body x0 s)) :
    Canonical (s.issue sg gf rep uni ok us body) := by
  unfold State.issue
  split
  · exact h
  · split
    · split
      · exact .atIssued (h.issueAt hbody ‹_›)
      · exact h.atServed
    · split
      · exact h
      · refine .ite h ?_
        split
        · exact h
        · split
          · exact .atIssued (h.issueAt hbody ‹_›)
          · split
            · exact h
            · exact .atIssued (.count (.issueAt (h.issueAt hbody ‹_›) hbody ‹_›))

/-! ## Integer -/

theorem Canonical.aluR {sg f ok us n op} (h : Canonical s) : Canonical (s.aluR sg f ok us n op) :=
  h.issue fun h => .done h.atPut

/-! ## Convert -/

theorem Canonical.atRefuse {a : At} (h : Canonical s) : Canonical (a.refuse s) := h.setLstat

theorem CanonicalNext.narrow {sg f} (h : Canonical s) : CanonicalNext (execNarrow sg f s) :=
  .next (h.issue fun h => .ite (.done h.atRefuse) (.done (.atPut (.unless h.countCvt (·.numNan)))))

theorem CanonicalNext.narrowb {sg f} (h : Canonical s) : CanonicalNext (execNarrowb sg f s) :=
  .next (h.issue fun h => .ite (.done h.atRefuse.refusal) (.ite (.done h.atRefuse) (.done (.atPut (.atPut (.unless
    h.countCvt (·.numNan)))))))

/-! ## Control -/

theorem Canonical.atBranch {a : At} {f target} (h : Canonical s) : Canonical (a.branch s f target) :=
  .ite h.atGoto h.atSplitTo

theorem Canonical.wakeBlock {core blk w} (h : Canonical s) : Canonical (s.wakeBlock core blk w) := by
  unfold State.wakeBlock
  split
  · exact h
  · exact .forEach (·.modGroup) h

/-! ## Order -/

theorem Canonical.release {a : At} {o} (h : Canonical s) : Canonical (s.release a o).1 :=
  .iteFst h (.iteFst h (.iteFst h (.iteFst h.writeBackAll h.writeBackAll)))

theorem CanonicalDid.atAccess {a : At} {body} (h : Canonical s)
    (hbody : ∀ {s}, Canonical s → CanonicalDid (body s)) :
    CanonicalDid (a.access s body) :=
  .ite .wait (hbody h)

/-! ## SpoolIns -/

theorem CanonicalNext.splRd {sg f} (h : Canonical s) : CanonicalNext (execSplRd sg f s) := by
  refine .next (h.issue fun h => .atAccess h fun h => ?_)
  split
  · exact .fault h
  · exact .done h.atPut

theorem CanonicalNext.splWait {sg f} (h : Canonical s) : CanonicalNext (execSplWait sg f s) := by
  refine .next (h.issue fun h => .atAccess h fun h => ?_)
  split
  · exact .fault h
  · simp only []
    split
    · exact .done (.atPutPreds (.ite h.observe h))
    · exact .flow (.atHoldAt (.same h))

theorem CanonicalNext.splWaitSatisfied {sg} (h : Canonical s) : CanonicalNext (execSplWaitSatisfied sg s) := by
  unfold execSplWaitSatisfied
  simp only []
  split
  · exact .next h
  · split
    · exact .next h
    · split
      · split
        · exact .next h
        · exact .next (.modGroup (.ite (.observe (.same h)) (.same h)))
      · exact .next h

theorem CanonicalNext.splAdd {sg f} (h : Canonical s) : CanonicalNext (execSplAdd sg f s) := by
  refine .next (h.issue fun h => .atAccess h fun h => ?_)
  split
  · exact .fault h
  · exact .ite (.done h.release.spoolAdd) (.retry h.release)

theorem CanonicalNext.splSet {sg f} (h : Canonical s) : CanonicalNext (execSplSet sg f s) := by
  refine .next (h.issue fun h => .atAccess h fun h => ?_)
  split
  · exact .fault h
  · exact .done h.spoolSet

/-! ## Handles -/

theorem CanonicalNext.sbWaitReady {sg} (h : Canonical s) : CanonicalNext (execSbWaitReady sg s) := by
  unfold execSbWaitReady
  split
  · exact .next h
  · split
    · exact .next h
    · split
      · exact .ite (.next h) (.next h.modGroup)
      · exact .next h

theorem Canonical.finishHandle {core owner status kind} (h : Canonical s) :
    Canonical (s.finishHandle core owner status kind) :=
  h.modGroup

/-! ## Array -/

theorem Canonical.drogueAdd {o i n} (h : Canonical s) : Canonical (s.drogueAdd o i n) := .ite h h.writeMem

theorem Canonical.clearSlot {core slot} (h : Canonical s) : Canonical (s.clearSlot core slot) := h.modCore

theorem Canonical.dropSample {core slot} (h : Canonical s) : Canonical (s.dropSample core slot) := by
  unfold State.dropSample
  split
  · exact h
  · exact h.clearSlot.drogueAdd

theorem Canonical.touch {core base len} (h : Canonical s) : Canonical (s.touch core base len) := by
  refine .forEach (fun h => ?_) h
  split
  · exact h
  · exact .ite h.dropSample h

theorem Canonical.abandon {core arr} (h : Canonical s) : Canonical (s.abandon core arr) := by
  refine .forEach (fun h => ?_) h
  split
  · exact h
  · exact .ite (.ite h.drogueAdd.dropSample h.drogueAdd.modCore) h

theorem Canonical.modArray {core i f} (h : Canonical s) : Canonical (s.modArray core i f) := h.modCore

theorem Canonical.badDescriptor {core ctx addr n ws} (h : Canonical s) :
    Canonical (s.badDescriptor core ctx addr n ws) := by
  unfold State.badDescriptor
  split
  · exact h.integrity
  · exact h

theorem Canonical.atRefuseHandle {a : At} {h status kind addr} (hs : Canonical s) :
    Canonical (a.refuseHandle s h status kind addr) :=
  hs.atModGroup

theorem Canonical.atShadow {a : At} {f d} (h : Canonical s) : Canonical (a.shadow s f d).1 := by
  refine .iteFst h (.iteFst h (.iteFst ?_ (.iteFst h h)))
  dsimp only
  split
  · exact h.badDescriptor
  · exact h.integrity

theorem CanonicalDid.atRefuseOp {a : At} {h addr d status} (hs : Canonical s) :
    CanonicalDid (a.refuseOp s h addr d status) :=
  .done (.atModGroup (.forEach (·.modArray) hs.modCore))

theorem CanonicalDid.atQueueOp {a : At} {f h addr ws} (hs : Canonical s) : CanonicalDid (a.queueOp s f h addr ws) := by
  unfold At.queueOp
  simp only []
  split
  · exact .fault hs
  · refine .ite (.atRefuseOp hs.badDescriptor) (.ite (.atRefuseOp hs.integrity.modCore) ?_)
    split
    · exact .atRefuseOp hs.modCore.badDescriptor
    · refine .ite (.atRefuseOp hs.modCore) (.ite (.atRefuseOp hs.modCore) (.ite (.atRefuseOp hs.modCore) (.ite
        (.atRefuseOp hs.modCore.refusal) (.ite (.atRefuseOp hs.modCore) ?_))))
      split
      · exact .fault hs.modCore
      · exact .ite (.fault hs.modCore) (.done (.atModGroup (.forEach (·.modArray) hs.modCore.atShadow.modCore)))

theorem CanonicalNext.arrIssue {sg f} (h : Canonical s) : CanonicalNext (execArrIssue sg f s) := by
  refine .next (h.issue fun h => .atAccess h fun h => .ite .wait (.ite (.done h.atRefuseHandle) (.ite (.fault h)
    (.ite .wait ?_))))
  simp only []
  split
  · exact .fault h.readMem
  · exact .ite .wait (.atQueueOp h.readMem)

theorem Canonical.arrCycles {core arrs cyc} (h : Canonical s) : Canonical (s.arrCycles core arrs cyc) :=
  .forEach (fun h => .when h.count.count.count.count (·.count)) h

theorem Canonical.modOp {core arr seq f} (h : Canonical s) : Canonical (s.modOp core arr seq f) := h.modArray

theorem CanonicalNext.arrayOpStart {core arr held} (h : Canonical s) :
    CanonicalNext (execArrayOpStart core arr held s) := by
  unfold execArrayOpStart
  simp only []
  split
  · exact .next h
  · refine .ite (.next h) ?_
    split
    · exact .next (.finishHandle (.forEach (·.modArray) h))
    · exact .next (.when (.when (.forEach (·.abandon.progressed.modArray) h) (·.arrCycles)) (·.count))

theorem CanonicalNext.arrayReconfigure {core arr} (h : Canonical s) :
    CanonicalNext (execArrayReconfigure core arr s) := by
  unfold execArrayReconfigure
  simp only []
  split
  · exact .next h
  · exact .ite (.next h) (.next h.modArray.arrCycles)

theorem Canonical.opCounts {core arr t o c} (h : Canonical s) : Canonical (s.opCounts core arr t o c) :=
  .modOp (.when h.countCvt (·.numNan))

theorem Canonical.opWrite {core arr o ws} (h : Canonical s) : Canonical (s.opWrite core arr o ws) :=
  .modOp (.when h.writeBitsAll fun h => .forEach (·.touch) h)

theorem Canonical.captureTile {core arr o t sx vals} (h : Canonical s) :
    Canonical (s.captureTile core arr o t sx vals) := by
  unfold State.captureTile
  simp only []
  refine .ite h ?_
  split
  · exact h.readEntry
  · refine .ite ?_ h.readEntry
    split
    · exact h.readEntry.drogueAdd
    · exact h.readEntry.modCore

theorem Canonical.opFault {core arr o a} (h : Canonical s) : Canonical (s.opFault core arr o a) := h.modOp.engineFault

theorem Canonical.opPoison {core arr o a} (h : Canonical s) : Canonical (s.opPoison core arr o a) := h.sramDbe.opFault

theorem Canonical.eccRanges {rs} (h : Canonical s) : Canonical (s.eccRanges rs).1 := .foldlFst (·.eccRange) h

theorem Canonical.scaleEvent {core o a} (h : Canonical s) : Canonical (s.scaleEvent core o a) := h.draw.integrity

theorem Canonical.checkScales {core o} (h : Canonical s) : Canonical (s.checkScales core o).1 :=
  .iteFst h (.foldlFst (fun h => .iteFst (.scaleEvent (.same h)) (.scaleEvent (.scaleEvent (.same h)))) h)

theorem Canonical.convertDense {core arr o t} (h : Canonical s) : Canonical (s.convertDense core arr o t) := by
  unfold State.convertDense
  simp only []
  split
  · exact h.modOp
  · exact .captureTile (.opCounts (.ite h.modOp h.modOp.opWrite))

theorem Canonical.convertPass {core arr o es} (h : Canonical s) : Canonical (s.convertPass core arr o es) :=
  .forEach (·.opWrite.opCounts) h.modOp.count.count

theorem CanonicalNext.tileConvertDone {core arr cyc} (h : Canonical s) :
    CanonicalNext (execTileConvertDone core arr cyc s) := by
  unfold execTileConvertDone
  simp only []
  split
  · exact .next h
  · refine .ite (.next h) ?_
    split
    · exact .next h.eccRanges.opPoison
    · split
      · exact .next h.eccRanges.checkScales.opFault
      · refine .ite ?_ ?_
        · split
          · exact .next h.eccRanges
          · exact .next h.eccRanges.checkScales.progressed.arrCycles.modOp.convertPass
        · split
          · exact .next h.eccRanges
          · exact .next h.eccRanges.checkScales.progressed.arrCycles.modOp.convertDense

theorem CanonicalNext.tileRefeed {core arr} (h : Canonical s) : CanonicalNext (execTileRefeed core arr s) := by
  unfold execTileRefeed
  split
  · exact .next h
  · split
    · exact .next h
    · exact .ite (.next h) (.next (.forEach (·.count) h.progressed.modOp))

theorem CanonicalNext.replayStageCopy {core arr} (h : Canonical s) :
    CanonicalNext (execReplayStageCopy core arr s) := by
  unfold execReplayStageCopy
  simp only []
  split
  · exact .next h
  · split
    · exact .next h
    · exact .ite (.next h) (.next h.progressed.modOp.opWrite)

theorem CanonicalNext.sparseBadlist {core} (h : Canonical s) : CanonicalNext (execSparseBadlist core s) := by
  unfold execSparseBadlist
  split
  · exact .next h
  · exact .ite (.next h.modOp) (.next h)

theorem CanonicalNext.arrayOpComplete {core arr cyc} (h : Canonical s) :
    CanonicalNext (execArrayOpComplete core arr cyc s) := by
  unfold execArrayOpComplete
  simp only []
  split
  · exact .next h
  · refine .ite (.next h) ?_
    exact .next (.forEach (·.modArray) (.when (.finishHandle (.unless h.progressed.arrCycles.writeMem.touch
      (·.report))) (·.spoolAdd)))

/-! ## Stream -/

theorem Canonical.vaFault {core ctx base need rs} (h : Canonical s) :
    Canonical (s.vaFault core ctx base need rs).1 := by
  refine .foldlFst (fun h => ?_) h
  split
  · exact h
  · simp only []
    split <;> exact h.translateRange

theorem Canonical.copyFault {a : At} {d ls ld sn dn hdr} (h : Canonical s) :
    Canonical (s.copyFault a d ls ld sn dn hdr).1 := by
  unfold State.copyFault
  simp only []
  split
  · exact h
  · refine .iteFst h (.iteFst h ?_)
    split
    · exact .iteFst h.vaFault h
    · split
      · exact .iteFst (.vaFault (.iteFst h.vaFault h)) (.iteFst h.vaFault h)
      · exact .iteFst (.iteFst (.vaFault (.iteFst h.vaFault h)) (.iteFst h.vaFault h)) (.iteFst (.vaFault (.iteFst
          h.vaFault h)) (.iteFst h.vaFault h))

theorem Canonical.captureLines {core ctx va n drop} (h : Canonical s) : Canonical (s.captureLines core ctx va n drop) :=
  .forEach (fun h => .ite h.evict h.writeBack) h.linesOf

theorem CanonicalDid.atEnqueueCopy {a : At} {h addr op} (hs : Canonical s) : CanonicalDid (a.enqueueCopy s h addr op) :=
  .done hs.modCore.atModGroup

theorem CanonicalDid.atRefuseCopy {a : At} {h addr d status} (hs : Canonical s) :
    CanonicalDid (a.refuseCopy s h addr d status) :=
  .atEnqueueCopy hs

theorem CanonicalDid.atCaptureCopy {a : At} {h addr d lsw ldw hdr} (hs : Canonical s) :
    CanonicalDid (a.captureCopy s h addr d lsw ldw hdr) := by
  unfold At.captureCopy
  simp only []
  refine .ite (.atRefuseCopy hs) ?_
  split
  · exact .fault hs.copyFault
  · exact .atEnqueueCopy (.when (.when hs.copyFault (·.captureLines)) (·.captureLines))

/-- Reading the header of a region translates its address and checks the blocks that hold it. -/
theorem CanonicalHead.atLoadHead {a : At} {va} (h : Canonical s) : CanonicalHead (a.loadHead s va) := by
  have hr := h.captureLines (core := a.core) (ctx := a.b.ctx) (va := va) (n := 64) (drop := false)
  have ht := hr.translate (unit := a.core) (ctx := a.b.ctx) (va := va) (need := .read)
  unfold At.loadHead
  simp only []
  split
  · exact .wait
  split
  · exact .len ht
  · exact .len (.ite ht.crcRange ht)
  split
  · exact .ask ht
  split
  · exact .len ht.modCore
  · exact .wait
  split
  · exact .len ht
  split
  · exact .len ht
  · exact .ask (ht.issueReq ‹_›).modCore

theorem CanonicalDid.atHoldCopy {a : At} {h addr ws} (hs : Canonical s) : CanonicalDid (a.holdCopy s h addr ws) := by
  unfold At.holdCopy
  simp only []
  split
  · exact .fault hs
  refine .ite (.atRefuseCopy hs.badDescriptor) ?_
  split
  · exact .atRefuseCopy hs.badDescriptor
  refine .ite (.atRefuseCopy hs) ?_
  split
  · exact .atRefuseCopy hs
  refine .ite ?_ (.atCaptureCopy hs)
  have hl := CanonicalHead.atLoadHead (a := a) (va := cSAddr (ws.take 16)) hs
  generalize a.loadHead s (cSAddr (ws.take 16)) = r at hl
  cases hl with
  | wait => exact .wait
  | ask hs => exact .retry hs
  | len hs => exact .atCaptureCopy hs

theorem CanonicalNext.strIssue {sg f} (h : Canonical s) : CanonicalNext (execStrIssue sg f s) := by
  refine .next (h.issue fun h => .atAccess h fun h => .ite .wait (.ite (.done h.atRefuseHandle) (.ite (.fault h)
    (.ite .wait (.ite .wait ?_)))))
  simp only []
  split
  · exact .fault h.readMem
  · exact .atHoldCopy h.readMem

/-! ## Copy -/

theorem Canonical.engineRead {core ctx a} (h : Canonical s) : Canonical (s.engineRead core ctx a).1 :=
  .iteFst h.holeRecord (.iteFst h (.iteFst h.readMem h.readMem))

theorem Canonical.vaBlock {core c b} (h : Canonical s) : Canonical (s.vaBlock core c b).1 := by
  unfold State.vaBlock
  split
  · exact h
  · extract_lets r1
    have hr1 : Canonical r1.1 := h.translate
    split
    · exact hr1
    · exact hr1
    · simp only []
      split <;> exact hr1.engineRead

theorem Canonical.gather {core c bs} (h : Canonical s) : Canonical (s.gather core c bs).1 := by
  refine .foldlFst (fun h => .iteFst h ?_) h
  simp only []
  split <;> exact h.vaBlock

theorem Canonical.modCopy {core id f} (h : Canonical s) : Canonical (s.modCopy core id f) := h.modCore

theorem Canonical.dropCopy {core id} (h : Canonical s) : Canonical (s.dropCopy core id) := h.modCore

theorem Canonical.copyFaults {core c cls addr} (h : Canonical s) : Canonical (s.copyFaults core c cls addr) :=
  h.engineFault.dropCopy

theorem Canonical.copyLost {core c} (h : Canonical s) : Canonical (s.copyLost core c) := h.modCopy

theorem Canonical.engineWrite {core ctx a bs} (h : Canonical s) : Canonical (s.engineWrite core ctx a bs) :=
  .ite h.holeRecord (.ite (.forEach (fun h => .ite h h.spoolWrite) h) (.ite (.forEach (·.writeBitsAll.slotWrite) h)
    (.ite h.writeMem h.writeBitsAll)))

theorem Canonical.vaWrite {core c m b} (h : Canonical s) : Canonical (s.vaWrite core c m b).1 := by
  unfold State.vaWrite
  extract_lets _ r1
  have hr1 : Canonical r1.1 := h.translate
  split
  · exact hr1
  · exact hr1.engineWrite.modCopy
  · exact .iteFst hr1 (.iteFst hr1.overtake.issueWrites.modCopy hr1.overtake.issueWrites)

theorem Canonical.putCopy {core c m} (h : Canonical s) : Canonical (s.putCopy core c m).1 :=
  .iteFst (.foldlFst (fun h => .iteFst h h.vaWrite) h) (.modCopy (.when h.writeBitsAll fun h => .forEach (·.touch) h))

theorem Canonical.moveCopy {core c rd} (h : Canonical s) : Canonical (s.moveCopy core c rd) := by
  unfold State.moveCopy
  extract_lets _ s1 p2
  have hs1 : Canonical s1 := h.progressed.modCopy
  have hp2 : Canonical p2.1 := hs1.putCopy
  split
  · exact hp2
  · exact hp2.copyLost
  · exact hp2.copyFaults

theorem Canonical.askBlocks {core c asks} (h : Canonical s) : Canonical (s.askBlocks core c asks) := by
  refine .forEach (fun h => .ite h ?_) h
  split
  · exact .modCopy (h.issueReq ‹_›)
  · exact h.copyFaults

theorem Canonical.runCopy {core c} (h : Canonical s) : Canonical (s.runCopy core c) := by
  unfold State.runCopy
  extract_lets _ _ e f r g
  have hf : Canonical f.1 := h.eccRanges
  have hg : Canonical g.1 := .iteFst hf.gather.gather hf.gather
  refine .ite ?_ ?_
  · split
    · exact h.eccRanges.sramDbe.copyFaults
    · exact h.eccRanges.moveCopy
  · split
    · exact hf.sramDbe.copyFaults
    · split
      · exact hg.copyLost
      · exact hg.copyFaults
      · exact .ite hg.moveCopy hg.askBlocks

theorem CanonicalNext.copyStart {core id} (h : Canonical s) : CanonicalNext (execCopyStart core id s) := by
  unfold execCopyStart
  split
  · exact .next h
  · exact .next (.ite (.ite h.finishHandle.dropCopy h) (.ite h.progressed.runCopy h))

theorem CanonicalNext.scatterBadlist {core id} (h : Canonical s) : CanonicalNext (execScatterBadlist core id s) := by
  unfold execScatterBadlist
  split
  · exact .next h
  · exact .next (.ite h.modCopy h)

theorem Canonical.countOn {dev sid k psn} (h : Canonical s) : Canonical (s.countOn dev sid k psn) :=
  .ite (.when (.ite h h.spoolAdd) (·.spoolPoison)) (.ite h h.notifyRemote)

theorem CanonicalNext.copySpoolStep {core id bytes} (h : Canonical s) :
    CanonicalNext (execCopySpoolStep core id bytes s) := by
  unfold execCopySpoolStep
  split
  · exact .next h
  · exact .ite (.next h) (.next (.forEach (·.countOn.modCopy) h))

theorem Canonical.countCopy {core c} (h : Canonical s) : Canonical (s.countCopy core c) :=
  .ite h (.ite (.forEach (·.countOn) h) (.ite h.countOn (.forEach (·.countOn) h)))

theorem CanonicalNext.copyComplete {core id} (h : Canonical s) : CanonicalNext (execCopyComplete core id s) := by
  unfold execCopyComplete
  split
  · exact .next h
  · exact .ite (.next h) (.next h.progressed.writeMem.touch.countCopy.finishHandle.dropCopy)

/-! ## Launch -/

theorem Canonical.placeBlock {launch l n rank core} (h : Canonical s) : Canonical (s.placeBlock launch l n rank core) :=
  .modCore (.same h.zeroBlocks.touch)

theorem Canonical.placeTrain {launch cores t} (h : Canonical s) (e : s.placeTrain launch cores = some t) : Canonical t := by
  unfold State.placeTrain at e
  split at e
  · cases e
  · split at e
    · cases e
    · obtain rfl := Option.some.inj e
      exact .same (.forEach (·.placeBlock) h)

theorem Canonical.placeTrains {launch ts t} (h : Canonical s) (e : State.placeTrains launch ts s = some t) : Canonical t := by
  induction ts generalizing s with
  | nil => exact Option.some.inj e ▸ h
  | cons cores ts ih =>
    unfold State.placeTrains at e
    split at e
    · cases e
    · exact ih (h.placeTrain ‹_›) e

theorem CanonicalNext.blockPlace {launch cores} (h : Canonical s) : CanonicalNext (execBlockPlace launch cores s) := by
  unfold execBlockPlace
  split
  · exact .next h
  · exact .ite (.next h) (.next (.getD h.placeTrains h))

theorem CanonicalNext.splitChange {core split} (h : Canonical s) : CanonicalNext (execSplitChange core split s) :=
  .ite (.next h) (.ite (.next h.modCore) (.next h.evictAll.modCore))

theorem CanonicalNext.allocationRelease {core blk} (h : Canonical s) :
    CanonicalNext (execAllocationRelease core blk s) := by
  unfold execAllocationRelease
  split
  · exact .next h
  · exact .ite (.next h) (.next (.same h.setBlock.setPart))

/-! ## Power -/

theorem Canonical.setTerm {p lo v} (h : Canonical s) : Canonical (s.setTerm p lo v) := h.setRegFld

theorem Canonical.fitGuard {p} (h : Canonical s) : Canonical (s.fitGuard p) := .ite h h.setPart

theorem Canonical.ramps {t} (h : Canonical t) : Canonical (s.ramps t) := .forEach (fun h => .ite h h.setPart) h

theorem Canonical.fitGuards (h : Canonical s) : Canonical s.fitGuards :=
  .ramps (.forEach (fun h => .forEach (·.fitGuard) h) (.forEach (·.setPart) h))

theorem Canonical.choosePoint {p} (h : Canonical s) : Canonical (s.choosePoint p) :=
  .ite h (.ite h.setPart (.ite (.ite h h.setPart) h.setPart))

theorem Canonical.choosePoints (h : Canonical s) : Canonical s.choosePoints :=
  .ite h (.ramps (.fitGuards (.forEach (·.choosePoint) h)))

theorem Canonical.applyPreferred (h : Canonical s) : Canonical s.applyPreferred :=
  .forEach (fun h => .ite h.setTerm (.ite h.setTerm h)) h

theorem Canonical.refusedFields {w ps} (h : Canonical s) : Canonical (s.refusedFields w ps) :=
  .forEach (fun h => .ite h h.refusal.count) h

theorem Canonical.refusedCodes (h : Canonical s) : Canonical s.refusedCodes := h.refusedFields

theorem Canonical.selectPhase {n} (h : Canonical s) : Canonical (s.selectPhase n) :=
  h.setRegFld.refusedCodes.applyPreferred.choosePoints

theorem Canonical.writePhase {n v} (h : Canonical s) : Canonical (s.writePhase n v) :=
  .ite h.setReg.refusedCodes.applyPreferred.choosePoints h.setReg

theorem Canonical.effUpdate (h : Canonical s) : Canonical s.effUpdate := h.setRegFld

theorem Canonical.forceSw {w} (h : Canonical s) : Canonical (s.forceSw w) := .effUpdate (.setReg (.same h))

theorem Canonical.applyPending (h : Canonical s) : Canonical s.applyPending := .ite h.forceSw h

theorem Canonical.collChanged (h : Canonical s) : Canonical s.collChanged := .unless h.setRegFld (·.applyPending)

theorem Canonical.commitSwCap {w} (h : Canonical s) : Canonical (s.commitSwCap w) :=
  .ite (.count (.when h.setRegFld.setRegFld.setRegFld fun h => .same h)) h.setRegFld.forceSw

theorem Canonical.commitTrayCap {w} (h : Canonical s) : Canonical (s.commitTrayCap w) := h.setReg.effUpdate

theorem Canonical.refuseCap {w} (h : Canonical s) : Canonical (s.refuseCap w) := h.refusal.count.modBit

theorem Canonical.lowerCap {p} (h : Canonical s) : Canonical (s.lowerCap p) := h.setTerm

theorem Canonical.capDown {watts} (h : Canonical s) : Canonical (s.capDown watts) := by
  unfold State.capDown
  simp only []
  split
  · exact .lowerCap (.same h)
  · exact .same (.same h)

theorem Canonical.capUp {m p} (h : Canonical s) : Canonical (s.capUp m p) := by
  unfold State.capUp
  simp only []
  refine .ite h (.ite (.ite (.same h) h) ?_)
  split
  · exact h
  · exact .ite (.same h.setTerm) h

theorem CanonicalNext.powerEvaluation {m} (h : Canonical s) : CanonicalNext (execPowerEvaluation m s) :=
  .ite (.next h) (.next (.choosePoints (.ite (.capDown (.applyPreferred (.same h))) (.capUp (.applyPreferred (.same
    h))))))

theorem Canonical.showRun {p} (h : Canonical s) : Canonical (s.showRun p) := h.setTerm

theorem CanonicalNext.dividerChange {p} (h : Canonical s) : CanonicalNext (execDividerChange p s) := by
  unfold execDividerChange
  simp only []
  split
  · exact .next h
  · exact .ite (.next h) (.next h.setPart.showRun.count.fitGuards.ramps)

theorem Canonical.preStep {p level n} (h : Canonical s) : Canonical (s.preStep p level n) := by
  induction n generalizing s with
  | zero => exact h
  | succ n ih => exact .ite h (ih h.capDown)

theorem Canonical.hintPart {level lead hold p} (h : Canonical s) : Canonical (s.hintPart level lead hold p) :=
  h.preStep.setPart

theorem Canonical.hint {mask level lead hold} (h : Canonical s) : Canonical (s.hint mask level lead hold) :=
  .choosePoints (.fitGuards (.count (.forEach (·.hintPart) h)))

theorem Canonical.lowerMismatch (h : Canonical s) : Canonical s.lowerMismatch := .forEach (·.setTerm) h

theorem CanonicalNext.telemetryWindow {e m} (h : Canonical s) : CanonicalNext (execTelemetryWindow e m s) :=
  .ite (.next h) (.ite (.next (.choosePoints (.count (.report (.same (.lowerMismatch (.same (.forEach (fun h =>
    .setPart (.ite h.count h)) h.setReg)))))))) (.ite (.next (.choosePoints (.forEach (·.setTerm) (.same (.same
    (.forEach (fun h => .setPart (.ite h.count h)) h.setReg)))))) (.next (.same (.forEach (fun h => .setPart (.ite
    h.count h)) h.setReg)))))

theorem CanonicalNext.droopHoldExpiry {p} (h : Canonical s) : CanonicalNext (execDroopHoldExpiry p s) :=
  .ite (.next h) (.ite (.next h.setPart.count.report.setPart) (.next h.setPart.count))

theorem Canonical.samplePart {p t} (h : Canonical s) : Canonical (s.samplePart p t) := by
  unfold State.samplePart
  simp only []
  split
  · exact .ite h.setTerm h.setTerm.report.setPart
  · exact h.setRegFld.setTerm.setPart

theorem Canonical.sampleNb {temps p} (h : Canonical s) : Canonical (s.sampleNb temps p) := by
  unfold State.sampleNb
  split
  · exact h
  · exact h.setTerm.setPart

theorem Canonical.noteThrottle {p} (h : Canonical s) : Canonical (s.noteThrottle p) := .ite h.setPart h

theorem Canonical.endTripWait (h : Canonical s) : Canonical s.endTripWait :=
  .when h.modStart (·.setProgress.modStart)

theorem CanonicalNext.sensorSample {sensors others} (h : Canonical s) :
    CanonicalNext (execSensorSample sensors others s) :=
  .ite (.next h) (.ite (.next (.same (.askChip (.modBit (.reportFatal (.when (.ite (.endTripWait (.same h)) (.same
    h)) fun h => .choosePoints (.forEach (·.noteThrottle) (.forEach (·.sampleNb) (.forEach (·.samplePart) h)))))))))
    (.next (.when (.ite (.endTripWait (.same h)) (.same h)) fun h => .choosePoints (.forEach (·.noteThrottle)
    (.forEach (·.sampleNb) (.forEach (·.samplePart) h))))))

/-! ## Rings -/

theorem Canonical.setVector {v x} (h : Canonical s) : Canonical (s.setVector v x) := .same h

theorem Canonical.sendIntr {v hold} (h : Canonical s) : Canonical (s.sendIntr v hold) := h.toHost.setVector

theorem Canonical.ringIntr {r} (h : Canonical s) : Canonical (s.ringIntr r) := .ite h (.ite h.setVector h.sendIntr)

theorem Canonical.setRingState {r v} (h : Canonical s) : Canonical (s.setRingState r v) := h.setRegFld

theorem Canonical.showInflight {r} (h : Canonical s) : Canonical (s.showInflight r) := h.setRegFld

theorem Canonical.haltRing {r i status} (h : Canonical s) : Canonical (s.haltRing r i status) :=
  .ite h (.ite (.ite h.setRegFld.setReg h) h.setRegFld.setReg.setRingState.ringIntr)

theorem Canonical.writeEntry {r i d status detail} (h : Canonical s) : Canonical (s.writeEntry r i d status detail) :=
  .ite (.ite h.writeMem h) h.toHost

theorem Canonical.retireOne {r} (h : Canonical s) : Canonical (s.retireOne r) := by
  unfold State.retireOne
  simp only []
  split
  · exact h
  · split
    · exact h
    · exact .ite h (.when h.writeEntry.setRing.setReg (·.ringIntr))

theorem Canonical.retireMany {r n} (h : Canonical s) : Canonical (s.retireMany r n) := by
  induction n generalizing s with
  | zero => exact h
  | succ n ih => exact ih h.retireOne

theorem Canonical.retire {r} (h : Canonical s) : Canonical (s.retire r) := h.retireMany

theorem Canonical.quiet {r} (h : Canonical s) : Canonical (s.quiet r) :=
  .ite h (.ite h.setRing.setRingState.collChanged (.ite h.haltRing h))

theorem Canonical.completeDesc {r i status detail} (h : Canonical s) :
    Canonical (s.completeDesc r i status detail) := by
  unfold State.completeDesc
  split
  · exact h
  · exact .quiet (.showInflight (.retire (.unless (.ite h.setRing.setRingState h.setRing) (·.haltRing))))

theorem Canonical.noteComp {r i w} (h : Canonical s) : Canonical (s.noteComp r i w) := h.integrity

theorem Canonical.refuseDesc {r w status} (h : Canonical s) : Canonical (s.refuseDesc r w status) :=
  h.setRing.haltRing.retire

theorem Canonical.checkHead {r} (h : Canonical s) : Canonical (s.checkHead r) := by
  refine .ite h ?_
  split
  · exact h
  · exact .ite h (.refuseDesc (.ite h.noteComp h))

theorem Canonical.startDesc {r w} (h : Canonical s) : Canonical (s.startDesc r w) := h.setRing.setReg.showInflight

theorem Canonical.goOn {r} (h : Canonical s) : Canonical (s.goOn r) := h.checkHead

theorem Canonical.hostRead {a len what} (h : Canonical s) : Canonical (s.hostRead a len what) := .toHost (.same h)

theorem Canonical.readSlot {a} (h : Canonical s) : Canonical (s.readSlot a).1 :=
  .iteFst h (by simp only []; split <;> exact h.readEntry)

theorem Canonical.arrived {r i d} (h : Canonical s) : Canonical (s.arrived r i d) := h.setRing

theorem Canonical.readDescs {r i n} (h : Canonical s) : Canonical (s.readDescs r i n) :=
  .ite (.forEach (·.readSlot.arrived) h) h.hostRead

theorem CanonicalNext.descriptorFetch {ring n} (h : Canonical s) : CanonicalNext (execDescriptorFetch ring n s) := by
  refine .ite (.next h) ?_
  split
  · exact .next h
  · exact .ite (.next h) (.next h.readDescs.goOn)

theorem CanonicalNext.descriptorRefetch {ring} (h : Canonical s) : CanonicalNext (execDescriptorRefetch ring s) := by
  unfold execDescriptorRefetch
  simp only []
  split
  · exact .next h
  · exact .ite (.next h) (.next h.setRing.readDescs.goOn)

theorem Canonical.supplyTail {r v} (h : Canonical s) : Canonical (s.supplyTail r v).1 :=
  .iteFst h (.iteFst h (.iteFst h.haltRing h.setReg))

theorem Canonical.ringStart {r} (h : Canonical s) : Canonical (s.ringStart r) :=
  .ite h (.ite h.refusal h.setRing.setReg.setReg.setReg.setRingState.showInflight)

theorem Canonical.ringStop {r} (h : Canonical s) : Canonical (s.ringStop r) := .ite h h.setRing.quiet

theorem Canonical.ringResume {r} (h : Canonical s) : Canonical (s.ringResume r) :=
  .ite h (.setRingState (.when (.setRing (.same h)) (·.setReg)))

theorem Canonical.ctrlWrite {r} (h : Canonical s) : Canonical (s.ctrlWrite r) := .ite h.dropPend h

theorem Canonical.ringKill {r} (h : Canonical s) : Canonical (s.ringKill r) :=
  .collChanged (.showInflight (.setRingState (.same h.setRing)))

/-! ## LinkEngine -/

theorem Canonical.setJob {r i j} (h : Canonical s) : Canonical (s.setJob r i j) := h.setRing

theorem Canonical.modJob {r i f} (h : Canonical s) : Canonical (s.modJob r i f) := h.setRing

theorem Canonical.endJob {r i status} (h : Canonical s) : Canonical (s.endJob r i status) := h.modJob

theorem Canonical.linkFault {r i cls addr} (h : Canonical s) : Canonical (s.linkFault r i cls addr) :=
  h.engineFault.setJob

theorem Canonical.linkKeys {r va n need} (h : Canonical s) : Canonical (s.linkKeys r va n need).1 := h.linesOf

theorem Canonical.linkCapture {r w} (h : Canonical s) : Canonical (s.linkCapture r w) := by
  unfold State.linkCapture
  extract_lets a1 b2
  have ha1 : Canonical a1.1 := .iteFst h h.linkKeys
  have hb2 : Canonical b2.1 := .iteFst ha1 ha1.linkKeys
  exact .forEach (fun h => .forEach (·.evict) (.forEach (·.writeBack) h)) hb2

theorem Canonical.linkPutVa {r i va bs} (h : Canonical s) : Canonical (s.linkPutVa r i va bs) := by
  refine .foldl (fun h => ?_) h
  split
  · exact h
  · refine .ite h ?_
    extract_lets _ t1
    have ht1 : Canonical t1.1 := h.translate
    split
    · exact ht1.linkFault
    · exact ht1.engineWrite.modJob
    · exact .ite ht1.endJob (.ite ht1.issueWrites.modJob ht1.issueWrites.linkFault)

theorem Canonical.linkPut {r i w} (h : Canonical s) : Canonical (s.linkPut r i w) := by
  unfold State.linkPut
  split
  · exact h
  · extract_lets s1
    have hs1 : Canonical s1 := h.modJob.progressed
    exact .ite (.ite hs1.endJob hs1.hostWrite.modJob) hs1.linkPutVa

theorem Canonical.linkGet {r i w off} (h : Canonical s) : Canonical (s.linkGet r i w off) := by
  refine .ite h.modJob (.ite (.ite h.endJob h.hostRead.modJob) ?_)
  extract_lets _ _ t1
  have ht1 : Canonical t1.1 := h.translate
  split
  · exact ht1.linkFault
  · simp only []
    split
    · exact ht1.engineRead.linkFault
    · exact ht1.engineRead.modJob
  · refine .ite ht1.endJob ?_
    split
    · exact .modJob (ht1.issueReq ‹_›)
    · exact ht1.linkFault

theorem Canonical.linkRun {r i w n} (h : Canonical s) : Canonical (s.linkRun r i w n) := by
  induction n generalizing s with
  | zero => exact h
  | succ n ih =>
    unfold State.linkRun
    split
    · exact h
    · exact .ite h (.ite (ih h.linkGet) (.ite h.modJob (ih h.linkPut)))

theorem Canonical.linkGo {r i w} (h : Canonical s) : Canonical (s.linkGo r i w) := h.linkRun

theorem Canonical.startLink {r ty} (h : Canonical s) : Canonical (s.startLink r ty) := by
  unfold State.startLink
  split
  · exact h
  · exact .goOn (.linkGo (.linkCapture (.setJob (.startDesc (.ite h h.progressed)))))

theorem Canonical.linkData {r i bs} (h : Canonical s) : Canonical (s.linkData r i bs) := by
  unfold State.linkData
  split
  · exact h
  · exact .ite h h.modJob.linkGo

theorem CanonicalNext.linkCopyComplete {ring seq} (h : Canonical s) :
    CanonicalNext (execLinkCopyComplete ring seq s) := by
  unfold execLinkCopyComplete
  split
  · exact .next h
  · exact .ite (.next h) (.next (.goOn (.completeDesc (.ite (.forEach (·.countOn) h) h))))

theorem Canonical.ringsLinkLost (h : Canonical s) : Canonical s.ringsLinkLost := by
  unfold State.ringsLinkLost
  extract_lets s1 s2
  have hs1 : Canonical s1 := by
    refine .forEach (fun h => ?_) h
    split
    · exact h.endJob
    · exact h
  have hs2 : Canonical s2 := .same hs1
  exact .forEach (fun h => .ite h (.ite h.setRing.quiet h)) hs2

/-! ## Descs -/

theorem CanonicalNext.launch {ring} (h : Canonical s) : CanonicalNext (execLaunch ring s) := by
  unfold execLaunch
  split
  · exact .next h
  · exact .ite (.next h) (.ite (.next h.refuseDesc) (.next (.goOn (.same h.startDesc))))

theorem CanonicalNext.launchComplete {launch} (h : Canonical s) : CanonicalNext (execLaunchComplete launch s) := by
  unfold execLaunchComplete
  split
  · exact .next h
  · exact .ite (.next h) (.next (.goOn (.completeDesc (.same h))))

theorem CanonicalNext.hint {ring} (h : Canonical s) : CanonicalNext (execHint ring s) := by
  unfold execHint
  split
  · exact .next h
  · exact .next h.startDesc.hint.completeDesc.goOn

theorem CanonicalNext.phase {ring} (h : Canonical s) : CanonicalNext (execPhase ring s) := by
  unfold execPhase
  split
  · exact .next h
  · extract_lets _ _ s1 s2 s3
    have hs1 : Canonical s1 := h.startDesc.selectPhase
    have hs2 : Canonical s2 := .ite hs1.applyPending hs1
    have hs3 : Canonical s3 := .ite hs2.setRing (.ite hs2.setRing hs2)
    exact .next hs3.collChanged.completeDesc.goOn

theorem CanonicalNext.spoolWait {ring} (h : Canonical s) : CanonicalNext (execSpoolWait ring s) := by
  unfold execSpoolWait
  split
  · exact .next h
  · exact .next (.setRingState (.same h.startDesc.setRing))

theorem CanonicalNext.spoolWaitSatisfied {ring} (h : Canonical s) : CanonicalNext (execSpoolWaitSatisfied ring s) := by
  unfold execSpoolWaitSatisfied
  split
  · split
    · exact .next h
    · exact .next (.goOn (.completeDesc (.same h)))
  · exact .next h

theorem Canonical.writeBackCores (h : Canonical s) : Canonical s.writeBackCores := .forEach (·.writeBackAll) h

theorem CanonicalNext.spoolSignal {ring} (h : Canonical s) : CanonicalNext (execSpoolSignal ring s) := by
  unfold execSpoolSignal
  split
  · exact .next h
  · extract_lets _ _ s1 s2
    have hs1 : Canonical s1 := h.startDesc.writeBackCores
    have hs2 : Canonical s2 := .ite hs1.spoolSet hs1.spoolAdd
    exact .next hs2.completeDesc.goOn

theorem Canonical.fenceEnd {ring} (h : Canonical s) : Canonical (s.fenceEnd ring) := by
  unfold State.fenceEnd
  split
  · exact .ite h h.completeDesc.goOn
  · exact h

theorem CanonicalNext.ringFence {ring} (h : Canonical s) : CanonicalNext (execRingFence ring s) := by
  unfold execRingFence
  split
  · exact .next h.fenceEnd
  · exact .next h.startDesc.writeBackCores.fenceEnd

/-! ## Fabric -/

theorem Canonical.dropPacket {port cause p} (h : Canonical s) : Canonical (s.dropPacket port cause p) :=
  h.count.report

theorem Canonical.respond {p status data} (h : Canonical s) : Canonical (s.respond p status data) := by
  unfold State.respond
  simp only []
  split
  · exact h.sendOn
  · exact h.report

theorem Canonical.forward {port p} (h : Canonical s) : Canonical (s.forward port p) := by
  unfold State.forward
  split
  · exact .ite h.respond h.dropPacket
  · exact .ite h.dropPacket h.sendOn

theorem Canonical.screen {port p t} (h : Canonical s) (e : s.screen port p = some t) : Canonical t := by
  unfold State.screen at e
  simp only [] at e
  split at e
  · cases e; exact h.dropPacket
  split at e
  · cases e; exact h.dropPacket
  split at e
  · cases e; exact h.dropPacket
  split at e
  · cases e
  split at e
  · cases e; exact .dropPacket (.integrity (.forEach (fun h => .ite h.spoolPoison h) h))
  split at e
  · cases e; exact .ite h.dropPacket h.dropPacket.respond
  · cases e

theorem Canonical.receive {port p act} (h : Canonical s) (hact : ∀ {s}, Canonical s → Canonical (act s)) :
    Canonical (s.receive port p act) := by
  refine .ite h (.ite h.dropPacket (.ite h.forward ?_))
  split
  · exact h.screen ‹_›
  · exact hact h

theorem Canonical.performWrite {p a} (h : Canonical s) : Canonical (s.performWrite p a) :=
  .when (.ite h.writeMem h.writeBitsAll) (·.spoolAdd)

theorem Canonical.tell {sc dev ws} (h : Canonical s) : Canonical (s.tell sc dev ws) := .ite h (.getD h.issueReq h)

theorem CanonicalNext.read {port p} (h : Canonical s) : CanonicalNext (execRead port p s) := by
  refine .ite (.next h) (.next (h.receive fun h => ?_))
  split
  · exact h.respond
  · simp only []
    split <;> exact h.readMem.respond

theorem Canonical.addWord {a v} (h : Canonical s) : Canonical (s.addWord a v).1 := by
  unfold State.addWord
  simp only []
  refine .iteFst h.crcCheck ?_
  split
  · exact h.crcCheck.putWord.count
  · exact h.crcCheck.putWord

theorem Canonical.accumulate {a vs sid} (h : Canonical s) : Canonical (s.accumulate a vs sid).1 :=
  .unless (.unless (.foldlFst (·.addWord) h) (·.spoolAdd)) (·.spoolPoison)

theorem CanonicalNext.accumulate {port p} (h : Canonical s) : CanonicalNext (execAccumulate port p s) := by
  refine .ite (.next h) (.next (h.receive fun h => ?_))
  simp only []
  split
  · exact h.respond
  · exact h.accumulate.respond

theorem Canonical.atomicAt {a op ty b c} (h : Canonical s) : Canonical (s.atomicAt a op ty b c).1 := by
  unfold State.atomicAt
  simp only []
  split
  · exact h.readMem
  · exact h.readMem.writeMem

theorem CanonicalNext.atomic {port p} (h : Canonical s) : CanonicalNext (execAtomic port p s) := by
  refine .ite (.next h) (.next (h.receive fun h => ?_))
  simp only []
  split
  · exact h.respond
  · split <;> exact h.atomicAt.respond

theorem CanonicalNext.spoolNotify {port p} (h : Canonical s) : CanonicalNext (execSpoolNotify port p s) :=
  .ite (.next h) (.next (h.receive fun h => .when (.ite h h.spoolAdd) (·.spoolPoison)))

theorem Canonical.acqDone {r core blk grp} (h : Canonical s) : Canonical (s.acqDone r core blk grp) :=
  .ite h h.observe

theorem Canonical.ckBad {ck} (h : Canonical s) : Canonical (s.ckBad ck) := .same h

theorem Canonical.ckGot {ck pos bs} (h : Canonical s) : Canonical (s.ckGot ck pos bs) := .same h

theorem Canonical.finishReq {r st bs} (h : Canonical s) : Canonical (s.finishReq r st bs) := by
  unfold State.finishReq
  simp only []
  split
  · exact .ite h.threadFault (.ite h.threadFault (.ite h.acqDone h.modGroup.acqDone))
  · exact .ite h.progressed.threadFault (.ite h.progressed.threadFault (.ite h.progressed.acqDone
      h.progressed.putVals.acqDone))
  · exact .ite h.threadFault h
  · exact .ite h.threadFault h
  · exact h.modCore
  · split
    · exact h
    · refine .ite h.copyFaults (.ite h.copyFaults ?_)
      split
      · exact h.progressed.modCopy
      · exact .when h.progressed.modCopy (·.runCopy)
  · split
    · exact h
    · exact .ite h.copyFaults h.modCopy
  · exact .ite h.linkFault (.ite h.linkFault h.linkData)
  · exact .ite h.linkFault h
  · exact .ite h h.ckBad
  · exact h.ckGot
  · exact h
  · exact h

theorem Canonical.fillLine {r bs} (h : Canonical s) : Canonical (s.fillLine r bs) := by
  unfold State.fillLine
  split
  · split
    · exact .ite h.allocate h
    · exact h
  · exact h

theorem CanonicalNext.fabricResponse {port p} (h : Canonical s) : CanonicalNext (execFabricResponse port p s) := by
  refine .ite (.next h) (.next (h.receive fun h => ?_))
  split
  · exact h
  · exact .finishReq (.ite h.endReq.fillLine h.endReq)

theorem CanonicalNext.fabricRequestTimeout {tag} (h : Canonical s) :
    CanonicalNext (execFabricRequestTimeout tag s) := by
  unfold execFabricRequestTimeout
  split
  · exact .next h
  · exact .ite (.next h) (.next h.report.endReq.finishReq)

theorem Canonical.poisonRanges (h : Canonical s) : Canonical s.poisonRanges :=
  .forEach (fun h => .ite (.forEach (·.spoolPoison) h) h) h

theorem Canonical.stopCopies (h : Canonical s) : Canonical s.stopCopies := by
  unfold State.stopCopies
  extract_lets s1
  have hs1 : Canonical s1 := .forEach (fun h => .forEach (fun h => .ite h.copyLost h) h) h
  exact .forEach (fun h => .forEach (fun h => .ite h.endJob h) h) hs1

theorem Canonical.endLostReqs (h : Canonical s) : Canonical s.endLostReqs := by
  refine .forEach (fun h => ?_) h
  split
  · refine .ite h ?_
    split
    · exact .acqDone (.ite h.endReq h.endReq.modGroup)
    · exact .acqDone (.ite h.endReq h.endReq.modGroup)
    · exact h.endReq.finishReq
    · exact h.endReq.finishReq
    · exact h.endReq.finishReq
    · exact h.endReq
  · exact h

theorem Canonical.applyCut {lost reason port src} (h : Canonical s) : Canonical (s.applyCut lost reason port src) :=
  .report (.endLostReqs (.stopCopies (.poisonRanges (.ite h (.ite (.same h) (.same h))))))

theorem Canonical.flood {except p} (h : Canonical s) : Canonical (s.flood except p) :=
  .forEach (fun h => .ite h h.sendOn) h

theorem Canonical.startCut {lost reason port except} (h : Canonical s) :
    Canonical (s.startCut lost reason port except) :=
  h.applyCut.flood

theorem CanonicalNext.lineCut {port p} (h : Canonical s) : CanonicalNext (execLineCut port p s) :=
  .ite (.next h) (.ite (.next h.dropPacket) (.ite (.next h.dropPacket) (.ite (.next h.dropPacket) (.ite (.next h)
    (.next (.unless h.applyCut (·.flood)))))))

theorem Canonical.clearCuts (h : Canonical s) : Canonical s.clearCuts := .same h

/-! ## Reduction -/

theorem Canonical.node {i} (h : Canonical s) : Canonical (s.node i).1 := by
  unfold State.node
  simp only []
  split
  · exact h
  · refine .iteFst h ?_
    split
    · exact h.readEntry
    · exact .iteFst (.same h.readEntry) h.readEntry.integrity

theorem Canonical.emptySegs {i e} (h : Canonical s) : Canonical (s.emptySegs i e) :=
  .writeMem (.foldl (fun h => .same h) h)

theorem Canonical.loadNode {i} (h : Canonical s) : Canonical (s.loadNode i) := by
  unfold State.loadNode
  simp only []
  refine .ite (.same h) ?_
  split
  · exact .when (.readEntry (.same h)) fun h => .same h
  · exact .readEntry (.same h)

theorem Canonical.updateEntry {a n old new} (h : Canonical s) : Canonical (s.updateEntry a n old new) :=
  .forEach (fun h => .ite h h.writeMem.writeMem) h

theorem Canonical.updateNode {i old new} (h : Canonical s) : Canonical (s.updateNode i old new) := .same h.updateEntry

theorem Canonical.putNode {i e} (h : Canonical s) : Canonical (s.putNode i e) := .same h.writeMem

theorem Canonical.raCount {a i} (h : Canonical s) : Canonical (s.raCount a i) := by
  unfold State.raCount
  split
  · exact h.count
  · exact h

theorem Canonical.stepRecord {src cause node want got seg} (h : Canonical s) :
    Canonical (s.stepRecord src cause node want got seg) :=
  h.report

theorem Canonical.dropSeg {die g} (h : Canonical s) : Canonical (s.dropSeg die g) := h.count.stepRecord

theorem Canonical.sendSeg {dev g bf16 a} (h : Canonical s) : Canonical (s.sendSeg dev g bf16 a) := by
  unfold State.sendSeg
  extract_lets _ s1
  have hs1 : Canonical s1 := by
    refine .ite ?_ h
    split
    · exact h.count
    · exact h
  exact .ite (.same hs1) hs1.post

theorem Canonical.downSeg {die e g} (h : Canonical s) : Canonical (s.downSeg die e g) := by
  unfold State.downSeg
  simp only []
  split
  · split
    · refine .sendSeg ?_
      split
      · exact h.sendSeg
      · exact h
    · split
      · exact h.sendSeg
      · exact h
  · exact .ite h.dropSeg (.ite h.spoolPoison h.writeMem.spoolAdd)
  · exact h.dropSeg

theorem Canonical.setSegState {e seg v} (h : Canonical s) : Canonical (s.setSegState e seg v) := h.writeBitsAll

theorem Canonical.dropPairLine {key} (h : Canonical s) : Canonical (s.dropPairLine key) := .same h

theorem Canonical.spill {mc} (h : Canonical s) : Canonical (s.spill mc) := by
  unfold State.spill
  split
  · exact h
  · exact h.writeMem.count.dropPairLine

theorem Canonical.stage {e g} (h : Canonical s) : Canonical (s.stage e g) :=
  .same (.unless (.when h.dropPairLine (·.spill)) (·.progressed))

theorem Canonical.unstage {e g} (h : Canonical s) : Canonical (s.unstage e g).1 := by
  unfold State.unstage
  simp only []
  split
  · exact h.dropPairLine
  · exact h.readMem

theorem Canonical.forwardSeg {die e g sum} (h : Canonical s) : Canonical (s.forwardSeg die e g sum) := by
  refine .ite h.sendSeg (.ite h.downSeg ?_)
  split
  · exact h.spoolPoison
  · exact h.writeMem.spoolAdd

theorem Canonical.allDone {e} (h : Canonical s) : Canonical (s.allDone e).1 := h.crcRange

theorem Canonical.segDone {die e g sum} (h : Canonical s) : Canonical (s.segDone die e g sum) :=
  .when h.setSegState.raCount.forwardSeg.progressed.allDone (·.writeMem.updateNode)

theorem Canonical.pairArrive {die e g} (h : Canonical s) : Canonical (s.pairArrive die e g) := by
  unfold State.pairArrive
  simp only []
  refine .ite (.when h.crcCheck (·.spoolPoison)) ?_
  split
  · exact .ite h.crcCheck.setSegState h.crcCheck.stage.setSegState
  · split <;> exact h.crcCheck.unstage.segDone
  · exact h.crcCheck.segDone
  · exact h.crcCheck.raCount.stepRecord

theorem Canonical.upSeg {die e g} (h : Canonical s) : Canonical (s.upSeg die e g) :=
  .ite h.pairArrive (.ite h.raCount h.stepRecord.pairArrive)

theorem Canonical.segment {die g} (h : Canonical s) : Canonical (s.segment die g) := by
  unfold State.segment
  simp only []
  split
  · exact h.node.dropSeg
  · exact .unless h.node.dropSeg fun h' => .ite h.node.downSeg (.ite h.node.upSeg h')

theorem Canonical.badHead {port p} (h : Canonical s) : Canonical (s.badHead port p) := h.count.integrity

theorem CanonicalNext.pairAccumulate {src} (h : Canonical s) : CanonicalNext (execPairAccumulate src s) := by
  unfold execPairAccumulate
  split
  · split
    · exact .next h
    · exact .next (.segment (.same h))
  · exact .ite (.next h) (.next (h.receive fun h => .ite h.segment h.badHead))

theorem Canonical.noteFire {i change} (h : Canonical s) : Canonical (s.noteFire i change) := .same h

theorem Canonical.readSeg {e k} (h : Canonical s) : Canonical (s.readSeg e k).1 := h.readMem

theorem Canonical.fireSeg {e poisoned k} (h : Canonical s) : Canonical (s.fireSeg e poisoned k) := by
  unfold State.fireSeg
  extract_lets r1 _
  have hr1 : Canonical r1.1 := .iteFst h h.readSeg
  refine .ite hr1.sendSeg (.ite ?_ hr1.sendSeg)
  split
  · exact hr1.spoolPoison
  · exact hr1.writeMem.spoolAdd

theorem Canonical.fireNode {idx kind} (h : Canonical s) : Canonical (s.fireNode idx kind) := by
  unfold State.fireNode
  extract_lets r1
  have hr1 : Canonical r1.1 := h.node
  split
  · exact hr1
  · refine .ite hr1 ?_
    split
    · exact hr1
    · exact .updateNode (.forEach (·.fireSeg) hr1.noteFire)

/-! ## Factor -/

theorem CanonicalNext.factorFire {idx} (h : Canonical s) : CanonicalNext (execFactorFire idx s) := by
  unfold execFactorFire
  extract_lets r1
  have hr1 : Canonical r1.1 := h.node
  split
  · exact .next hr1
  · refine .ite (.next hr1) ?_
    split
    · exact .next hr1
    · exact .next (.same (.when hr1.noteFire.updateNode (·.progressed)))

theorem Canonical.setFactor {p js} (h : Canonical s) : Canonical (s.setFactor p js) := .same h

theorem CanonicalNext.gram {p} (h : Canonical s) : CanonicalNext (execGram p s) := by
  unfold execGram
  simp only []
  split
  · exact .next h
  · refine .ite (.next h.setFactor) ?_
    split <;> exact .next h.readMem.setFactor

theorem CanonicalNext.ortho {p} (h : Canonical s) : CanonicalNext (execOrtho p s) := by
  unfold execOrtho
  simp only []
  split
  · exact .next h
  · refine .ite (.next h.setFactor) ?_
    split <;> exact .next h.readMem.readMem.setFactor

theorem CanonicalNext.factorComplete {p} (h : Canonical s) : CanonicalNext (execFactorComplete p s) := by
  unfold execFactorComplete
  split
  · exact .next h
  · refine .ite (.next h) ?_
    extract_lets _ s1 _
    have hs1 : Canonical s1 := h.progressed.setFactor.count
    exact .ite (.next hs1.writeMem.spoolPoison) (.next hs1.writeMem.writeMem.spoolAdd)

/-! ## Link -/

theorem Canonical.setLinkStatus {k st width lanes} (h : Canonical s) : Canonical (s.setLinkStatus k st width lanes) :=
  h.setReg

theorem Canonical.enterLink {k st lanes} (h : Canonical s) : Canonical (s.enterLink k st lanes) :=
  h.setLink.setLinkStatus

theorem Canonical.linkToDown {k lanes} (h : Canonical s) : Canonical (s.linkToDown k lanes) := h.enterLink

theorem Canonical.linkToDetect {k} (h : Canonical s) : Canonical (s.linkToDetect k) := h.enterLink

theorem Canonical.failMooredRead (h : Canonical s) : Canonical s.failMooredRead := .ite h.setRegFld h

theorem Canonical.retireDevice (h : Canonical s) : Canonical s.retireDevice := .forEach (fun h => .ite h.retire h) h

theorem Canonical.loseLink {k} (h : Canonical s) : Canonical (s.loseLink k) := by
  unfold State.loseLink
  extract_lets _ s1
  have hs1 : Canonical s1 := h.enterLink.count
  exact .ite hs1.failMooredRead.ringsLinkLost.retireDevice (.ite hs1.startCut hs1)

theorem Canonical.resend {k} (h : Canonical s) : Canonical (s.resend k) := .ite h h.count.setLink

theorem CanonicalNext.laneBad {lk lane} (h : Canonical s) : CanonicalNext (execLaneBad lk lane s) :=
  .ite (.next h) (.ite (.ite (.next h.loseLink) (.next h.setLinkStatus.count.resend)) (.next h.setLinkStatus.setLink))

theorem Canonical.sendOnLink {k} (h : Canonical s) : Canonical (s.sendOnLink k) := .ite h.pump.retireDevice h.pump

theorem CanonicalNext.flitReceive {lk flit} (h : Canonical s) : CanonicalNext (execFlitReceive lk flit s) :=
  .ite (.next h) (.ite (.next h.setLink.count.pump) (.ite (.next h.setLink.count) (.next (.sendOnLink (.ite
    h.setLink.resend h.setLink)))))

theorem CanonicalNext.widthAgreed {lk lanes port serial} (h : Canonical s) :
    CanonicalNext (execWidthAgreed lk lanes port serial s) :=
  .ite (.next h) (.ite (.next h.setLink.linkToDown) (.next h.setLink.enterLink.setLinkStatus))

theorem Canonical.retrainPort {k} (h : Canonical s) : Canonical (s.retrainPort k) :=
  .ite h (.linkToDetect (.ite h.loseLink h))

theorem Canonical.writePortCtrl {k v} (h : Canonical s) : Canonical (s.writePortCtrl k v) :=
  .when (.ite h.setReg.linkToDetect (.ite h.setReg.enterLink h.setReg)) (·.retrainPort)

/-! ## Start -/

theorem Canonical.showLevels (h : Canonical s) : Canonical s.showLevels := h.setReg

theorem Canonical.runAt {c} (h : Canonical s) : Canonical (s.runAt c) := .forEach (·.setPart.showRun) h

theorem Canonical.beginStep {n} (h : Canonical s) : Canonical (s.beginStep n) := by
  unfold State.beginStep
  extract_lets s1 s2
  have hs1 : Canonical s1 := h.setProgress
  have hs2 : Canonical s2 := hs1.modStart
  exact .ite hs2.setSvc.runAt (.ite (.forEach (fun h => .ite h.linkToDetect h) hs2) hs2)

theorem Canonical.markAbsent {off} (h : Canonical s) : Canonical (s.markAbsent off) := .forEach (·.setReg) h

theorem Canonical.beginStart {kind full keep} (h : Canonical s) : Canonical (s.beginStart kind full keep) := by
  unfold State.beginStart
  exact h.modStart.modStart.setReg.setReg.showLevels.markAbsent.beginStep

theorem Canonical.selfRefresh (h : Canonical s) : Canonical s.selfRefresh := h.modStart

theorem Canonical.zeroRegion {k} (h : Canonical s) : Canonical (s.zeroRegion k) := h.zeroBlocks

theorem Canonical.showLayout {k} (h : Canonical s) : Canonical (s.showLayout k) := h.setReg

theorem Canonical.putRegion {k} (h : Canonical s) : Canonical (s.putRegion k) := by
  unfold State.putRegion
  extract_lets s1 s2 _ s3
  have hs1 : Canonical s1 := .ite h h.zeroRegion
  have hs2 : Canonical s2 := hs1.showLayout
  have hs3 : Canonical s3 := .ite hs2.setReg.setReg hs2.setReg
  exact hs3.modStart

theorem Canonical.moor (h : Canonical s) : Canonical s.moor :=
  .when (.same (.forEach (·.enterLink) h.selfRefresh.modStart)) (·.linkToDetect)

theorem Canonical.failStep {n detail unit site} (h : Canonical s) : Canonical (s.failStep n detail unit site) := by
  unfold State.failStep
  extract_lets s1
  have hs1 : Canonical s1 := h.setProgress.modStart
  exact .ite hs1.selfRefresh.modStart.askChip (.ite (.same hs1.moor) hs1.moor)

theorem Canonical.loadBody {bs} (h : Canonical s) : Canonical (s.loadBody bs) := h.writeMem

theorem Canonical.measureS1 (h : Canonical s) : Canonical s.measureS1 := h.modStart

theorem Canonical.measureImage (h : Canonical s) : Canonical s.measureImage := h.modStart

theorem Canonical.measureS8 (h : Canonical s) : Canonical s.measureS8 := h.modStart

theorem Canonical.setRwc {off v} (h : Canonical s) : Canonical (s.setRwc off v) := h.setReg.setReg

theorem Canonical.writeArrayMap {m} (h : Canonical s) : Canonical (s.writeArrayMap m) :=
  .forEach (·.setRwc) (.forEach (fun h => .ite h.setRwc h) h)

theorem Canonical.writeLaunchMap (h : Canonical s) : Canonical s.writeLaunchMap :=
  h.modStart.zeroBlocks.putMem.putMem

theorem Canonical.writeTables {p} (h : Canonical s) : Canonical (s.writeTables p) :=
  h.setReg.setReg.setReg.setReg.setReg.setReg.setReg.setReg.setReg

theorem Canonical.moveRing {base} (h : Canonical s) : Canonical (s.moveRing base) :=
  h.setKreg.setKreg.rearmRing.setKreg.report

theorem Canonical.restoreFatal (h : Canonical s) : Canonical s.restoreFatal := .ite h h.ringWrite

theorem Canonical.checkRing {p} (h : Canonical s) : Canonical (s.checkRing p) :=
  .mergeCounts (.drainMany (.unless (.same (.ite h h.moveRing)) (·.restoreFatal)))

theorem Canonical.finishStart {p} (h : Canonical s) : Canonical (s.finishStart p) := by
  unfold State.finishStart
  extract_lets s1 s2 s3 s4 s5
  have hs1 : Canonical s1 := h.modStart
  have hs2 : Canonical s2 := hs1.writeTables.writeLaunchMap.effUpdate
  have hs3 : Canonical s3 := hs2.checkRing
  have hs4 : Canonical s4 := hs3.modStart
  have hs5 : Canonical s5 := hs4.measureS8.setSvc.setSvc
  exact hs5.applyPreferred.choosePoints

theorem Canonical.passS1 (h : Canonical s) : Canonical s.passS1 := h.modStart.measureS1.markAbsent.beginStep

theorem Canonical.passS6 (h : Canonical s) : Canonical s.passS6 :=
  .ite h.modStart.setProgress.moor h.modStart.beginStep

theorem Canonical.passS7 (h : Canonical s) : Canonical s.passS7 :=
  .beginStep (.measureImage (.ite h.loadBody.modStart h.modStart))

theorem Canonical.passStep {n map p} (h : Canonical s) : Canonical (s.passStep n map p) := by
  unfold State.passStep
  extract_lets s1
  have hs1 : Canonical s1 := h.setProgress
  exact .ite (.beginStep (.runAt (.same hs1))) (.ite hs1.passS1 (.ite hs1.writeArrayMap.beginStep (.ite
    hs1.putRegion.putRegion.modStart.beginStep (.ite hs1.putRegion.putRegion.modStart.beginStep (.ite hs1.passS6
    (.ite hs1.passS7 (.ite hs1.finishStart hs1.beginStep)))))))

theorem CanonicalNext.selfTestStepEnd {r} (h : Canonical s) : CanonicalNext (execSelfTestStepEnd r s) := by
  refine .ite (.next h) (.ite (.next h.failStep) ?_)
  split
  · exact .ite (.next h) (.next h.failStep)
  · refine .ite (.next h) ?_
    split
    · exact .next h.failStep
    · exact .next h.passStep

theorem Canonical.loseSram (h : Canonical s) : Canonical s.loseSram := h.loseMem.loseMem.loseMem

theorem Canonical.spoilImage (h : Canonical s) : Canonical s.spoilImage := .ite (.same h) h

/-- Without power the module holds what it holds at reset. -/
theorem Canonical.powerOff : Canonical s.powerOff := Canonical.reset.same

/-! ## Moor -/

theorem Canonical.moorResult {code detail} (h : Canonical s) : Canonical (s.moorResult code detail) := h.setReg

theorem Canonical.moorRestart (h : Canonical s) : Canonical s.moorRestart := h.moorResult.askChip

theorem Canonical.writeFlash {a bs} (h : Canonical s) : Canonical (s.writeFlash a bs) := h.modStart

theorem Canonical.resumeAtS8 {bs} (h : Canonical s) : Canonical (s.resumeAtS8 bs) := by
  unfold State.resumeAtS8
  extract_lets s1 s2 s3
  have hs1 : Canonical s1 := h.loadBody
  have hs2 : Canonical s2 := hs1.modStart
  have hs3 : Canonical s3 := .forEach (fun h => .ite h.linkToDetect h) hs2
  exact hs3.measureImage.setProgress.beginStep

theorem Canonical.moorFinish (h : Canonical s) : Canonical s.moorFinish := by
  refine .ite ?_ ?_
  · split
    · exact h.moorResult
    · exact h.writeFlash.modStart.moorRestart
  · split
    · exact h.moorResult
    · exact .ite h.writeFlash.modStart.moorRestart h.moorResult.resumeAtS8

theorem Canonical.moorGo (h : Canonical s) : Canonical s.moorGo := .ite h.moorFinish (.ite h.moorResult h.hostRead)

theorem Canonical.moorData {bs} (h : Canonical s) : Canonical (s.moorData bs) := h.modStart.moorGo

theorem Canonical.moorRead {cmd} (h : Canonical s) : Canonical (s.moorRead cmd) := h.moorResult.modStart.moorGo

theorem Canonical.moorCommand {cmd} (h : Canonical s) : Canonical (s.moorCommand cmd) :=
  .ite h.setRegFld (.ite h.moorRestart (.ite h.moorRead (.ite h.moorRead (.ite h.moorRead (.ite
    h.modStart.showLevels.moorRestart (.ite h.moorResult.modStart (.ite h.moorResult.modStart h.moorResult)))))))

theorem Canonical.commitMoor {cmd} (h : Canonical s) : Canonical (s.commitMoor cmd) := h.setRwc.moorCommand

theorem Canonical.hostMoor {cmd} (h : Canonical s) : Canonical (s.hostMoor cmd) := h.dropPend.commitMoor

/-! ## Update -/

theorem Canonical.groupWords {i} (h : Canonical s) : Canonical (s.groupWords i).1 := by
  unfold State.groupWords
  simp only []
  refine .iteFst h ?_
  split
  · exact h.readEntry
  · exact .iteFst h.readEntry h.readEntry.integrity

theorem Canonical.groupRec {i} (h : Canonical s) : Canonical (s.groupRec i).1 := h.groupWords

theorem Canonical.putGroup {i g} (h : Canonical s) : Canonical (s.putGroup i g) := h.writeMem

theorem Canonical.updEntry {i} (h : Canonical s) : Canonical (s.updEntry i).1 := by
  unfold State.updEntry
  simp only []
  split
  · exact h
  · refine .iteFst h ?_
    split
    · exact h.readEntry
    · exact .iteFst (.same h.readEntry) h.readEntry.integrity

theorem Canonical.loadUpd {i} (h : Canonical s) : Canonical (s.loadUpd i) := by
  unfold State.loadUpd
  simp only []
  refine .ite (.same h) ?_
  split
  · exact .when (.readEntry (.same h)) fun h => .same h
  · exact .readEntry (.same h)

theorem Canonical.updateUpd {i old new} (h : Canonical s) : Canonical (s.updateUpd i old new) := .same h.updateEntry

theorem Canonical.putUpd {i e} (h : Canonical s) : Canonical (s.putUpd i e) := .same h.writeMem

theorem Canonical.uuCount {a i n} (h : Canonical s) : Canonical (s.uuCount a i n) := by
  unfold State.uuCount
  split
  · exact .ite h h.count
  · exact h

theorem Canonical.writeMoments {e gr lo ps mixed} (h : Canonical s) : Canonical (s.writeMoments e gr lo ps mixed).1 :=
  .iteFst (.forEach (·.writeMem) h) h.writeMem.writeMem

theorem Canonical.updateBlock {e gr lr ux lo j} (h : Canonical s) : Canonical (s.updateBlock e gr lr ux lo j).1 :=
  .iteFst (.uuCount (.uuCount (.forEach (·.crcRange) h))) (.iteFst (.uuCount (.uuCount (.uuCount (.forEach
    (·.crcRange) h)))) (.uuCount (.forEach (fun h => .unless h.writeMem (·.writeMem)) (.writeMoments (.uuCount
    (.uuCount (.uuCount (.forEach (·.crcRange) h))))))))

theorem Canonical.noteUpdFire {i change} (h : Canonical s) : Canonical (s.noteUpdFire i change) := .same h

theorem Canonical.setShard {i j} (h : Canonical s) : Canonical (s.setShard i j) := .same h

theorem Canonical.runShard {idx e poisoned} (h : Canonical s) : Canonical (s.runShard idx e poisoned) := by
  unfold State.runShard
  simp only []
  split
  · exact h.groupWords.draw.setShard
  · exact .ite h.groupWords.setShard (.ite h.groupWords.progressed.setShard (.ite
      h.groupWords.progressed.report.setShard (.setShard (.foldlFst (·.updateBlock) h.groupWords.progressed))))

theorem CanonicalNext.shardFire {idx} (h : Canonical s) : CanonicalNext (execShardFire idx s) := by
  unfold execShardFire
  extract_lets r1
  have hr1 : Canonical r1.1 := h.updEntry
  split
  · exact .next hr1
  · refine .ite (.next hr1) ?_
    split
    · exact .next hr1
    · exact .ite (.next hr1.noteUpdFire.integrity) (.next hr1.noteUpdFire.runShard.updateUpd)

theorem Canonical.countFiring {i} (h : Canonical s) : Canonical (s.countFiring i) := by
  unfold State.countFiring
  simp only []
  split
  · exact h.groupRec
  · exact .ite h.groupRec.putGroup h.groupRec.putGroup

theorem CanonicalNext.shardUpdateComplete {idx} (h : Canonical s) : CanonicalNext (execShardUpdateComplete idx s) := by
  unfold execShardUpdateComplete
  split
  · exact .next h
  · extract_lets d1 _ s2 s3 s4
    have hd1 : Canonical d1.2 := h.draw
    have hs2 : Canonical s2 := hd1.progressed.setShard.writeMem
    have hs3 : Canonical s3 := .ite hs2 hs2.countFiring
    have hs4 : Canonical s4 := .ite hs3.uuCount (.ite hs3.uuCount hs3)
    exact .next (.ite hs4.spoolAdd hs4.spoolPoison)

theorem Canonical.changeGroup {i op p img} (h : Canonical s) : Canonical (s.changeGroup i op p img).1 := by
  refine .iteFst h ?_
  extract_lets r1
  have hr1 : Canonical r1.1 := h.groupWords
  refine .iteFst (.iteFst hr1 hr1.putGroup) (.iteFst hr1.integrity ?_)
  split
  · exact hr1
  · split
    · exact hr1.putGroup
    · exact hr1

theorem Canonical.readVa {ctx va n} (h : Canonical s) : Canonical (s.readVa ctx va n).1 := by
  refine .foldlFst (fun h => ?_) h
  split
  · exact h
  · simp only []
    split
    · exact h.translate.readMem
    · exact h.translate

theorem Canonical.writeVa {ctx va bs} (h : Canonical s) : Canonical (s.writeVa ctx va bs).1 := by
  refine .foldlFst (fun h => ?_) h
  simp only []
  split
  · exact h.translate.writeMem
  · exact h.translate

theorem Canonical.changeOwner {dev i op p img answer} (h : Canonical s) :
    Canonical (s.changeOwner dev i op p img answer).1 :=
  .iteFst h.changeGroup h.tell

theorem Canonical.updateGroup {ring op remote} (h : Canonical s) : Canonical (s.updateGroup ring op remote) := by
  unfold State.updateGroup
  split
  · exact h
  · refine .ite h ?_
    extract_lets _ _ s1 _ _ r2
    have hs1 : Canonical s1 := h.startDesc
    have hr2 : Canonical r2.1 := hs1.readVa
    split
    · exact hr2.completeDesc.goOn
    · exact .goOn (.completeDesc (.writeVa (.foldlFst (·.changeOwner) hr2)))

/-! ## Setup -/

theorem Canonical.setInv {k l} (h : Canonical s) : Canonical (s.setInv k l) := .setRegFld (.same h)

theorem Canonical.writeInv {k v} (h : Canonical s) : Canonical (s.writeInv k v) := h.setInv

theorem Canonical.invalidate {k v} (h : Canonical s) : Canonical (s.invalidate k v) := by
  unfold State.invalidate
  split
  · exact .same h
  · exact .same h
  · exact .ite (.forEach (·.loadNode) (.same h)) (.same h.loadNode)
  · exact .ite (.forEach (·.loadUpd) (.same h)) (.same h.loadUpd)

theorem Canonical.reidle {t} (h : Canonical t) : Canonical (s.reidle t) := .forEach (fun h => .ite h.setPart h) h

theorem CanonicalNext.invalidationComplete {kind} (h : Canonical s) :
    CanonicalNext (execInvalidationComplete kind s) := by
  unfold execInvalidationComplete
  split
  · exact .next h
  · exact .next (.when h.invalidate.setInv (·.reidle))

theorem Canonical.clearBits {v regs} (h : Canonical s) : Canonical (s.clearBits v regs) :=
  .forEach (fun h => .ite h.setReg h) h

theorem Canonical.clearCvt {core v} (h : Canonical s) : Canonical (s.clearCvt core v) := h.clearBits

theorem Canonical.clearArr {core v} (h : Canonical s) : Canonical (s.clearArr core v) :=
  .forEach (fun h => .ite h.clearRegs h) h

theorem Canonical.clearCore {core v} (h : Canonical s) : Canonical (s.clearCore core v) := h.clearBits

theorem Canonical.clearFu {p v} (h : Canonical s) : Canonical (s.clearFu p v) := h.clearBits

theorem Canonical.clearMc {mc v} (h : Canonical s) : Canonical (s.clearMc mc v) := h.clearBits

theorem Canonical.clearRa {mc v} (h : Canonical s) : Canonical (s.clearRa mc v) := h.clearBits

theorem Canonical.clearUu {mc v} (h : Canonical s) : Canonical (s.clearUu mc v) := h.clearBits

theorem Canonical.clearFab {k v} (h : Canonical s) : Canonical (s.clearFab k v) := h.clearBits

theorem Canonical.clearSn {v} (h : Canonical s) : Canonical (s.clearSn v) := h.clearBits

theorem Canonical.clearPwr {v} (h : Canonical s) : Canonical (s.clearPwr v) :=
  .when (.ite (.forEach (·.clearRegs) h) h) (·.clearRegs)

theorem Canonical.askPart {p} (h : Canonical s) : Canonical (s.askPart p) := .ite h (.same h)

theorem Canonical.lockedWrite {src off v} (h : Canonical s) : Canonical (s.lockedWrite src off v) := h.integrity

theorem Canonical.writeErrBase {src v} (h : Canonical s) : Canonical (s.writeErrBase src v) :=
  .ite h.lockedWrite h.setKreg.rearmRing

theorem Canonical.writeErrRd {v} (h : Canonical s) : Canonical (s.writeErrRd v) := .ite h h.setKreg

theorem Canonical.writeErrFatal {v} (h : Canonical s) : Canonical (s.writeErrFatal v) := .ite h.setKreg h

theorem Canonical.keeperWrite {src off v} (h : Canonical s) : Canonical (s.keeperWrite src off v) :=
  .ite h.setKreg (.ite (.ite h.askChip h) (.ite h.writeErrBase (.ite h.writeErrRd (.ite h.writeErrFatal (.ite
    h.setKreg (.ite h.setKreg (.ite (.ite h.lockedWrite h.setKreg) h)))))))

theorem Canonical.setupRead {rq src off} (h : Canonical s) : Canonical (s.setupRead rq src off).1 :=
  .iteFst h (.iteFst h (.iteFst h.holeRecord (.iteFst (.same h) (.iteFst h h))))

theorem Canonical.writeRingReg {src r x v} (h : Canonical s) : Canonical (s.writeRingReg src r x v) :=
  .ite h.refusal (.ite h.setReg h.setReg)

theorem Canonical.writeRingCtrl {r v} (h : Canonical s) : Canonical (s.writeRingCtrl r v) :=
  .when (.when (.ite h.ringStart h) (·.ringStop)) (·.ringResume)

theorem Canonical.act {src off v} (h : Canonical s) : Canonical (s.act src off v) :=
  .ite (.ite h.clearCvt (.ite h.clearArr h.clearCore)) (.ite (.ite (.ite h.askPart h) h.clearFu) (.ite (.ite
    h.clearMc (.ite h.clearRa h.clearUu)) (.ite (.ite h.writePortCtrl h.clearFab) (.ite (.ite h.writeInv (.ite
    h.writeInv (.ite h.writeInv h.writeInv))) (.ite (.ite h.clearSn (.ite h.keeperWrite (.ite h.writeRingReg (.ite
    h.writeRingCtrl (.ite h.supplyTail h))))) (.ite h.clearPwr h.writePhase))))))

theorem Canonical.commitRwc {off mask v} (h : Canonical s) : Canonical (s.commitRwc off mask v) :=
  .ite (.ite h.commitSwCap h.refuseCap) (.ite h.commitMoor (.ite (.ite h.setRwc h.setRwc.clearCuts) (.ite
    h.setRwc.modCore h.setRwc)))

theorem Canonical.writeComplement {src off v} (h : Canonical s) : Canonical (s.writeComplement src off v) := by
  unfold State.writeComplement
  simp only []
  split
  · exact h.rwcFailed
  · refine .ite ?_ h.setPend.rwcFailed
    split
    · split
      · exact h.setPend.commitRwc
      · exact h.setPend
    · exact h.setPend

theorem Canonical.noteCluster {src off v} (h : Canonical s) : Canonical (s.noteCluster src off v) := .ite (.same h) h

theorem Canonical.setupWrite {src off v} (h : Canonical s) : Canonical (s.setupWrite src off v) := by
  unfold State.setupWrite
  split
  · exact h.holeRecord
  · refine .ite h.holeRecord ?_
    split
    · exact h.writeComplement
    · extract_lets s1
      have hs1 : Canonical s1 := h.dropPend
      split
      · exact .ite hs1 hs1.setReg.noteCluster
      · exact .ite hs1.lockedWrite hs1.setReg
      · exact hs1.setPend
      · exact hs1
      · exact hs1.act

theorem Canonical.windowWrite {src off v} (h : Canonical s) : Canonical (s.windowWrite src off v) :=
  .ite (.forEach (·.setupWrite) h) (.ite (.forEach (·.setupWrite) h) h.setupWrite)

/-! ## MemIns -/

theorem Canonical.atPlace {a : At} {space x n need} (h : Canonical s) : Canonical (a.place s space x n need).1 := by
  unfold At.place
  simp only []
  refine .iteFst h ?_
  refine .iteFst ?_ ?_
  · split <;> exact h.translate
  · refine .iteFst h ?_
    split <;> exact h

theorem Canonical.atPlaces {a : At} {space n need addrs} (h : Canonical s) :
    Canonical (a.places s space n need addrs).1 := by
  refine .foldlFst (fun h => ?_) h
  split
  · exact h
  · simp only []
    split <;> exact h.atPlace

theorem Canonical.regsRead {core a} (h : Canonical s) : Canonical (s.regsRead core a).1 :=
  .iteFst (.pair h.setupRead) (.iteFst h h.holeRecord)

theorem Canonical.threadRead {core ctx a n} (h : Canonical s) : Canonical (s.threadRead core ctx a n).1 :=
  .iteFst (.iteFst h.holeRecord (.foldlFst (·.regsRead) h)) (.iteFst h.holeRecord (.iteFst h h.readMem))

theorem Canonical.regsWrite {core a w} (h : Canonical s) : Canonical (s.regsWrite core a w) :=
  .ite h.windowWrite (.ite h.keeperWrite h.holeRecord)

theorem Canonical.threadWrite {core ctx a bs} (h : Canonical s) : Canonical (s.threadWrite core ctx a bs) :=
  .ite (.ite h.holeRecord (.forEach (·.regsWrite) h)) (.ite h.holeRecord (.ite (.ite h.spoolWrite
    h.spoolWrite.spoolWrite) (.ite h (.when h.writeMem (·.slotWrite.touch)))))

theorem Canonical.fillHere {core ctx k} (h : Canonical s) : Canonical (s.fillHere core ctx k).1 := by
  unfold State.fillHere
  simp only []
  split
  · exact h.readMem
  · exact h.readMem.allocate

theorem Canonical.readHere {core ctx a n cached} (h : Canonical s) : Canonical (s.readHere core ctx a n cached).1 := by
  refine .iteFst ?_ h.writeBack.threadRead
  split
  · exact h
  · refine .iteFst ?_ h.fillHere
    split <;> exact h.fillHere

theorem Canonical.writeHere {core ctx a bs cached org} (h : Canonical s) :
    Canonical (s.writeHere core ctx a bs cached org) := by
  unfold State.writeHere
  simp only []
  refine .ite ?_ h.evict.threadWrite
  split
  · exact .setLine (.ite h (.unless (.ite h.crcCheck h) (·.fillHere)))
  · exact .threadWrite (.ite h (.unless (.ite h.crcCheck h) (·.fillHere)))

theorem Canonical.atAcquired {a : At} {o} (h : Canonical s) : Canonical (a.acquired s o) := .ite h.observe h

theorem Canonical.atLoad {a : At} {d wid cached acq lane p} (h : Canonical s) :
    Canonical (a.load s d wid cached acq lane p).1 := by
  unfold At.load
  simp only []
  split
  · split <;> exact h.readHere
  · refine .iteFst h ?_
    split
    · exact h
    · split
      · exact h.writeBack.issueReq ‹_›
      · exact h.writeBack

theorem Canonical.atLoads {a : At} {d wid cached acq ps} (h : Canonical s) :
    Canonical (a.loads s d wid cached acq ps).1 := by
  refine .foldlFst (fun h => ?_) h
  split
  · exact h
  · simp only []
    split <;> exact h.atLoad

theorem CanonicalNext.ld {sg f} (h : Canonical s) : CanonicalNext (execLd sg f s) := by
  refine .next (h.issue fun h => .atAccess h fun h => ?_)
  extract_lets r1
  have hr1 : Canonical r1.1 := h.atPlaces
  split
  · exact .fault hr1
  · refine .ite .wait ?_
    simp only []
    split
    · exact .fault hr1.atLoads
    · exact .done hr1.atLoads.atPut.atAcquired

theorem Canonical.atStore {a : At} {cached p bs} (h : Canonical s) : Canonical (a.store s cached p bs).1 := by
  unfold At.store
  simp only []
  split
  · exact h.writeHere
  · refine .iteFst h ?_
    split
    · exact h.setLine
    · exact h.evict.overtake.issueWrites

theorem Canonical.atStores {a : At} {cached data ps} (h : Canonical s) : Canonical (a.stores s cached data ps).1 :=
  .foldlFst (fun h => .iteFst h h.atStore) h

theorem CanonicalNext.st {sg f} (h : Canonical s) : CanonicalNext (execSt sg f s) := by
  refine .next (h.issue fun h => .atAccess h fun h => ?_)
  simp only []
  split
  · exact .fault h.atPlaces
  · refine .ite .wait (.ite (.retry h.atPlaces.release) ?_)
    split
    · exact .fault h.atPlaces.release.atStores
    · exact .done h.atPlaces.release.atStores

theorem Canonical.atStoreCounted {a : At} {p bs id} (h : Canonical s) : Canonical (a.storeCounted s p bs id).1 := by
  unfold At.storeCounted
  simp only []
  split
  · exact h.evict.threadWrite.spoolAdd
  · refine .iteFst h ?_
    split
    · exact h.evict.overtake.issueRun ‹_›
    · exact h.evict.overtake

theorem Canonical.atAccumulate {a : At} {p v id} (h : Canonical s) : Canonical (a.accumulate s p v id).1 := by
  unfold At.accumulate
  simp only []
  split
  · refine .iteFst h.evict.accumulate ?_
    split
    · exact h.evict.threadRead.threadWrite.spoolAdd
    · exact h.evict.threadRead.spoolPoison
  · refine .iteFst h ?_
    split
    · exact h.evict.overtake.issueReq ‹_›
    · exact h.evict.overtake

theorem CanonicalDid.atCounted {a : At} {fa fc n o act} (h : Canonical s)
    (hact : ∀ {s x1 x2 x3}, Canonical s → Canonical (act s x1 x2 x3).1) :
    CanonicalDid (a.counted s fa fc n o act) := by
  refine .atAccess h fun h => ?_
  simp only []
  split
  · exact .fault h.atPlaces
  · split
    · exact .fault h.atPlaces
    · refine .ite .wait (.ite (.retry h.atPlaces.release) ?_)
      split
      · exact .fault (.foldlFst (fun h => .iteFst h (hact h)) h.atPlaces.release)
      · exact .done (.foldlFst (fun h => .iteFst h (hact h)) h.atPlaces.release)

theorem Canonical.atCacheOp {a : At} {act va n} (h : Canonical s)
    (hact : ∀ {s x1}, Canonical s → Canonical (act s x1)) :
    Canonical (a.cacheOp s act va n).1 := by
  refine .foldlFst (fun h => .iteFst h ?_) h
  simp only []
  split
  · exact h.translate
  · exact hact h.translate

theorem CanonicalDid.atCacheOps {a : At} {f act} (h : Canonical s)
    (hact : ∀ {s x1}, Canonical s → Canonical (act s x1)) :
    CanonicalDid (a.cacheOps s f act) := by
  refine .atAccess h fun h => .ite .wait ?_
  simp only []
  split
  · exact .fault (.foldlFst (fun h => .iteFst h (h.atCacheOp hact)) h)
  · exact .done (.foldlFst (fun h => .iteFst h (h.atCacheOp hact)) h)

/-! ## Atomic -/

theorem Canonical.atAtomicHere {a : At} {x op ty b c} (h : Canonical s) : Canonical (a.atomicHere s x op ty b c).1 := by
  unfold At.atomicHere
  simp only []
  split
  · exact h.evict.threadRead
  · exact h.evict.threadRead.threadWrite

theorem Canonical.atAtomicOp {a : At} {d op ty acq p b c lanes} (h : Canonical s) :
    Canonical (a.atomicOp s d op ty acq p b c lanes).1 := by
  unfold At.atomicOp
  simp only []
  split
  · split <;> exact h.atAtomicHere
  · refine .iteFst h ?_
    split
    · exact .progressed (h.evict.overtake.issueReq ‹_›)
    · exact h.evict.overtake

theorem CanonicalNext.aop {sg f} (h : Canonical s) : CanonicalNext (execAop sg f s) := by
  refine .next (h.issue fun h => .atAccess h fun h => ?_)
  simp only []
  split
  · exact .fault h.atPlaces
  · refine .ite .wait (.ite (.retry h.atPlaces.release) ?_)
    split
    · refine .fault (.foldlFst (fun h => ?_) h.atPlaces.release)
      split
      · exact h
      · split <;> exact h.atAtomicOp
    · refine .done (.atAcquired (.atPut (.foldlFst (fun h => ?_) h.atPlaces.release)))
      split
      · exact h
      · split <;> exact h.atAtomicOp

/-! ## Sleep -/

theorem Canonical.loseCores {p} (h : Canonical s) : Canonical (s.loseCores p) :=
  .forEach (·.loseMem.loseMem.modCore) h

/-! ## Resets -/

theorem Canonical.dropSamples {core c} (h : Canonical s) : Canonical (s.dropSamples core c) := by
  refine .forEach (fun h => ?_) h
  split
  · exact .ite h.clearSlot h
  · exact h

theorem Canonical.orphan {c} (h : Canonical s) : Canonical (s.orphan c) := .same h

theorem Canonical.idleEntries {c} (h : Canonical s) : Canonical (s.idleEntries c) :=
  .forEach (fun h => .ite h h.putUpd) (.forEach (fun h => .ite h (.putNode (.ite h.emptySegs h))) h)

theorem Canonical.dropTableWork {c} (h : Canonical s) : Canonical (s.dropTableWork c) := .same h

theorem Canonical.clearSpool {lo n} (h : Canonical s) : Canonical (s.clearSpool lo n) := .forEach (·.spoolClear) h

theorem Canonical.clearDrogue {c} (h : Canonical s) : Canonical (s.clearDrogue c) :=
  .setReg (.ite (.forEach (·.writeBitsAll) h) h)

theorem Canonical.releaseCtx {c} (h : Canonical s) : Canonical (s.releaseCtx c) := by
  unfold State.releaseCtx
  extract_lets s1 s2 s3 _ s4 s5
  have hs1 : Canonical s1 := .forEach (fun h => .unless (.ite h.zeroBlocks h) (·.modCore)) h
  have hs2 : Canonical s2 := .same hs1
  have hs3 : Canonical s3 := hs2.zeroBlocks.invalidate
  have hs4 : Canonical s4 := hs3.clearSpool
  have hs5 : Canonical s5 := hs4.setRegFld
  exact hs5.clearDrogue

theorem Canonical.resetReason {ladder} (h : Canonical s) : Canonical (s.resetReason ladder).1 := .iteFst h h.draw

theorem Canonical.retireRange {c} (h : Canonical s) : Canonical (s.retireRange c) := .ite h (.same h)

theorem Canonical.contextReset {c} (h : Canonical s) : Canonical (s.contextReset c) :=
  .when (.reidle (.same (.forEach (·.setRing) (.reportReset (.resetReason (.same (.releaseCtx (.retireRange
    (.idleEntries (.orphan (.forEach (·.evictAll) (.dropTableWork (.forEach (·.modCore) (.forEach (·.dropSamples)
    (.same (.forEach (·.ringKill) h)))))))))))))))) (·.askChip)

theorem Canonical.resetCtxs {cs} (h : Canonical s) : Canonical (s.resetCtxs cs) :=
  .forEach (fun h => .ite h.askChip h.contextReset) h

theorem Canonical.emptyEngine {u} (h : Canonical s) : Canonical (s.emptyEngine u) := by
  unfold State.emptyEngine
  split
  · exact h.modArray
  · exact h.modCore
  · exact h
  · exact h
  · exact .forEach (·.dropPairLine) h
  · exact .same h
  · exact h.setFactor
  · exact .forEach (·.setRing) h

/-- The registers of a partition return to their reset values. -/
theorem Canonical.forgetSetup {p pend late} (h : Canonical s) :
    Canonical { s with setup := Sparse.forget p s.setup, rwcPend := pend, late := late } := by
  obtain ⟨mem, poison, defects, crcOff, setup, rest⟩ := h
  exact ⟨mem, poison, defects, crcOff, Sparse.wf_forget _ setup, rest⟩

theorem Canonical.powerPart {p} (h : Canonical s) : Canonical (s.powerPart p) :=
  .choosePoints (.showRun (.setPart (.forEach (·.setReg) (.forgetSetup (.clearSpool (.forEach (·.modCore) h.loseCores))))))

theorem CanonicalNext.partitionReset {p} (h : Canonical s) : CanonicalNext (execPartitionReset p s) :=
  .ite (.next h) (.next (.same (.reportReset (.resetReason (.unless h.resetCtxs.powerPart (·.writeLaunchMap))))))

theorem Canonical.takeLevel {u n} (h : Canonical s) : Canonical (s.takeLevel u n) := by
  unfold State.takeLevel
  simp only []
  refine .ite h ?_
  split
  · exact .forEach (·.askContext) (.same h)
  · exact .same (.same h)
  · split
    · exact .askPart (.same h)
    · exact .same h
  · exact .askChip (.reportFatal (.same h))

theorem Canonical.hangRecord {u waited} (h : Canonical s) : Canonical (s.hangRecord u waited) := h.report

theorem CanonicalNext.escalationTimeout {u} (h : Canonical s) : CanonicalNext (execEscalationTimeout u s) := by
  unfold execEscalationTimeout
  split
  · exact .next h
  · exact .ite (.next h) (.next h.hangRecord.takeLevel)

theorem CanonicalNext.waitMonitorExpiry {w waited} (h : Canonical s) :
    CanonicalNext (execWaitMonitorExpiry w waited s) :=
  .ite (.next h) (.next (by split <;> exact h.report))

theorem Canonical.loseReports (h : Canonical s) : Canonical s.loseReports :=
  .forEach (fun h => .ite h (.setLatch (.ite h.setKreg.srcAdd h.setKreg))) h

theorem Canonical.restDrams {r} (h : Canonical s) : Canonical (s.restDrams r) :=
  .ite (.ite h h.selfRefresh) h.modStart

theorem Canonical.afterReset (h : Canonical s) : Canonical s.afterReset := by
  obtain ⟨mem, poison, defects, crcOff, _, keeper, _⟩ := h
  exact .loseSram (.setReg (.setRwc ⟨mem, poison, defects, crcOff, rfl, keeper, rfl, rfl, rfl⟩))

theorem Canonical.ringThrough (h : Canonical s) : Canonical (s.ringThrough).1 := .iteFst h.modStart h.setKreg.setKreg

theorem Canonical.startAgain {r keep} (h : Canonical s) : Canonical (s.startAgain r keep) := h.beginStart

theorem Canonical.chipReset {r} (h : Canonical s) : Canonical (s.chipReset r) :=
  .reportReset (.same (.ringThrough (.startAgain (.same (.setKreg (.afterReset (.restDrams (.loseReports (.when
    h.spoilImage (·.startCut))))))))))

/-! ## Spdm -/

theorem Canonical.setConn {tr c} (h : Canonical s) : Canonical (s.setConn tr c) := .same h

theorem Canonical.freshBytes {n} (h : Canonical s) : Canonical (s.freshBytes n).1 := h.draw

theorem Canonical.spdmSend {tr bs} (h : Canonical s) : Canonical (s.spdmSend tr bs) := h.toHost

theorem Canonical.spdmError {tr code} (h : Canonical s) : Canonical (s.spdmError tr code) := h.spdmSend

theorem Canonical.spdmRequest {tr req code n ready act} (h : Canonical s)
    (hact : ∀ {s}, Canonical s → Canonical (act s)) :
    Canonical (s.spdmRequest tr req code n ready act) :=
  .ite h (.ite h.spdmError (.ite h.spdmError (.ite h.spdmError (hact h))))

theorem CanonicalNext.challenge {tr req} (h : Canonical s) : CanonicalNext (execChallenge tr req s) :=
  .next (h.spdmRequest fun h => .ite h.spdmError h.freshBytes.freshBytes.spdmSend)

theorem Canonical.sendMeasurements {tr signed total blocks} (h : Canonical s) :
    Canonical (s.sendMeasurements tr signed total blocks) :=
  .spdmSend (.iteFst (h.freshBytes (n := 32)).freshBytes (h.freshBytes (n := 32)))

theorem CanonicalNext.getMeasurements {tr req} (h : Canonical s) : CanonicalNext (execGetMeasurements tr req s) := by
  refine .next (h.spdmRequest fun h => .ite h.sendMeasurements (.ite h.sendMeasurements (.ite h.spdmError ?_)))
  split
  · exact h.sendMeasurements
  · exact h.spdmError

/-! ## Mgmt -/

theorem Canonical.mgmtSend {path code bs} (h : Canonical s) : Canonical (s.mgmtSend path code bs) := h.toHost

theorem Canonical.mgmtCommand {path code act} (h : Canonical s) (hact : ∀ {s}, Canonical s → Canonical (act s)) :
    Canonical (s.mgmtCommand path code act) := by
  refine .ite h ?_
  split
  · exact .ite h (hact h)
  · exact .ite h (.ite (hact h) h.mgmtSend)

theorem Canonical.mgmtResult {path code result} (h : Canonical s) : Canonical (s.mgmtResult path code result) := by
  unfold State.mgmtResult
  simp only []
  split
  · exact .same h
  · exact .mgmtSend (.same h)

theorem Canonical.mgmtWrite {path code pecOk act} (h : Canonical s)
    (hact : ∀ {s}, Canonical s → Canonical (act s)) :
    Canonical (s.mgmtWrite path code pecOk act) :=
  .ite h (h.mgmtCommand hact)

theorem CanonicalNext.trayCap {path data pecOk} (h : Canonical s) : CanonicalNext (execTrayCap path data pecOk s) :=
  .ite (.next h) (.next (h.mgmtWrite fun h => .ite h.integrity.count.modBit.mgmtResult (.ite h.refuseCap.mgmtResult
    h.commitTrayCap.mgmtResult)))

theorem Canonical.quiesce (h : Canonical s) : Canonical s.quiesce := h.selfRefresh.afterReset.modStart

theorem CanonicalNext.standby {path data pecOk} (h : Canonical s) : CanonicalNext (execStandby path data pecOk s) :=
  .ite (.next h) (.next (h.mgmtWrite fun h => .ite h.mgmtResult (.ite h.mgmtResult (.ite h.mgmtResult (.unless
    h.mgmtResult fun h => .same h.quiesce)))))

/-! ## Services -/

theorem Canonical.svcWrite {ring w off bs} (h : Canonical s) : Canonical (s.svcWrite ring w off bs) :=
  .ite h.hostWrite h.writeVa

theorem Canonical.checkIn {sc} (h : Canonical s) : Canonical (s.checkIn sc) := .same h

theorem Canonical.answer {ring i w a} (h : Canonical s) : Canonical (s.answer ring i w a) := by
  refine .goOn (.completeDesc (.checkIn (.svcWrite (.svcWrite ?_))))
  split
  · exact h
  · exact h.draw

theorem Canonical.admitRequest_error {rq svc op need t} (h : Canonical s)
    (e : s.admitRequest rq svc op need = .error t) : Canonical t := by
  unfold State.admitRequest at e
  simp only [] at e
  split at e
  · cases e; exact h
  split at e
  · cases e; exact h.startDesc.completeDesc.goOn
  split at e
  · cases e; exact h.startDesc.answer
  · cases e

theorem Canonical.admitRequest_ok {rq svc op need a} (h : Canonical s)
    (e : s.admitRequest rq svc op need = .ok a) : Canonical a.state := by
  unfold State.admitRequest at e
  simp only [] at e
  split at e
  · cases e
  split at e
  · cases e
  split at e
  · cases e
  · cases e; exact h.startDesc

theorem Canonical.enqueue {q} (h : Canonical s) : Canonical (s.enqueue q) := .same h

theorem Canonical.unqueue {q} (h : Canonical s) : Canonical (s.unqueue q) := .same h

theorem Canonical.begin_ {q} (h : Canonical s) : Canonical (s.begin_ q) := .same h

theorem Canonical.resumeRequest {rq q need body} (h : Canonical s)
    (hbody : ∀ {s x1 x2}, Canonical s → Canonical (body s x1 x2).1) :
    Canonical (s.resumeRequest rq q need body) := by
  unfold State.resumeRequest
  simp only []
  split
  · exact h.unqueue
  · refine .ite h.unqueue.answer ?_
    split
    · exact .answer (.unqueue (hbody h))
    · exact .begin_ (hbody h)

theorem Canonical.serveWhen {rq svc op need body} (h : Canonical s)
    (hbody : ∀ {s q arg}, Canonical s → Canonical (body s q arg).1) :
    Canonical (s.serveWhen rq svc op need body) := by
  unfold State.serveWhen
  split
  · refine .ite (h.resumeRequest hbody) ?_
    split
    · exact h.admitRequest_error ‹_›
    · exact (h.admitRequest_ok ‹_›).enqueue.goOn
  · split
    · exact h.admitRequest_error ‹_›
    · have hb := h.admitRequest_ok ‹_›
      simp only []
      split
      · exact (hbody hb).answer
      · exact (hbody hb).enqueue.goOn

theorem Canonical.serve {rq svc op need body} (h : Canonical s)
    (hbody : ∀ {s x1 x2}, Canonical s → Canonical (body s x1 x2).1) :
    Canonical (s.serve rq svc op need body) :=
  h.serveWhen hbody

theorem Canonical.dropServices {c} (h : Canonical s) : Canonical (s.dropServices c) := .same h

theorem Canonical.goneRequests {c} (h : Canonical s) : Canonical (s.goneRequests c) := by
  refine .forEach (fun h => ?_) h
  split
  · exact h.unqueue.answer
  · exact h.unqueue

theorem CanonicalNext.destroy {rq ctx} (h : Canonical s) : CanonicalNext (execDestroy rq ctx s) :=
  .next (h.serveWhen fun h => .iteFst h (.iteFst h h.goneRequests.contextReset.dropServices.svcFld.svcRwc.reidle))

theorem CanonicalNext.unbindRing {rq ring} (h : Canonical s) : CanonicalNext (execUnbindRing rq ring s) :=
  .next (h.serveWhen fun h => .iteFst h (.iteFst h.ringStop h.setRing.svcFld))

/-! ## Placement -/

theorem Canonical.gondWrite {off v} (h : Canonical s) : Canonical (s.gondWrite off v) := h.setupWrite

theorem Canonical.gondRwc {off v} (h : Canonical s) : Canonical (s.gondRwc off v) := h.gondWrite.gondWrite

theorem Canonical.placePort {k p} (h : Canonical s) : Canonical (s.placePort k p) :=
  h.gondRwc.gondRwc.gondRwc.svcFld.svcFld

theorem Canonical.placeJob {a} (h : Canonical s) : Canonical (s.placeJob a) :=
  .setSvc (.same (.forEach (·.svcFld) (.invalidate (.forEach (·.writeMem) (.gondWrite (.gondWrite (.gondWrite
    (.gondWrite (.gondWrite (.forEach (·.placePort) h.gondRwc))))))))))

theorem Canonical.releaseJob (h : Canonical s) : Canonical s.releaseJob :=
  .setSvc (.forEach (·.svcFld) (.forEach (·.svcFld) h))

theorem Canonical.setTree {k t} (h : Canonical s) : Canonical (s.setTree k t) := .same h

theorem Canonical.dropTree {k} (h : Canonical s) : Canonical (s.dropTree k) := .same h.setTree

theorem Canonical.tellNodes {k a ids} (h : Canonical s) : Canonical (s.tellNodes k a ids) :=
  .forEach (fun h => .forEach (·.tell) h) h

theorem Canonical.finishSet {k t} (h : Canonical s) : Canonical (s.finishSet k t).1 := by
  unfold State.finishSet
  split
  · exact h
  · exact .iteFst h.dropTree h.setTree

theorem Canonical.sweepTrees (h : Canonical s) : Canonical s.sweepTrees := .ite h (by split; exacts [h.dropTree, h])

theorem CanonicalNext.build {rq a} (h : Canonical s) : CanonicalNext (execBuild rq a s) := by
  refine .next (.sweepTrees (h.serveWhen fun h => ?_))
  split
  · exact h.finishSet
  · exact .iteFst h (.iteFst h (.iteFst h h.setTree.tellNodes.finishSet))

theorem Canonical.armSet {t} (h : Canonical s) : Canonical (s.armSet t) :=
  .forEach (fun h => .invalidate (.putNode (.ite h.emptySegs h))) h

theorem Canonical.disarmSet {t} (h : Canonical s) : Canonical (s.disarmSet t) := .forEach (·.putNode.invalidate) h

theorem Canonical.onSet {ctx set f} (h : Canonical s) (hf : ∀ {s x1}, Canonical s → Canonical (f s x1)) :
    Canonical (s.onSet ctx set f).1 := by
  unfold State.onSet
  split
  · exact h
  · exact .iteFst (hf h) h

/-! ## Checkpoint -/

theorem Canonical.setCkpt {k c} (h : Canonical s) : Canonical (s.setCkpt k c) := .same h

theorem Canonical.onCkpt {ctx ck f} (h : Canonical s) (hf : ∀ {s x1}, Canonical s → Canonical (f s x1).1) :
    Canonical (s.onCkpt ctx ck f).1 := by
  unfold State.onCkpt
  split
  · exact h
  · exact .iteFst (hf h) h

theorem Canonical.freeResult (h : Canonical s) : Canonical (s.freeResult).1 := h.draw

theorem Canonical.putSlot {k c pos bs} (h : Canonical s) : Canonical (s.putSlot k c pos bs).1 :=
  .foldlFst (fun h => .iteFst h.writeMem h.issueWrites) h

theorem Canonical.groupSteps {gs} (h : Canonical s) : Canonical (s.groupSteps gs).1 := .foldlFst (·.readEntry) h

theorem Canonical.ckRead {c} (h : Canonical s) : Canonical (s.ckRead c).1 :=
  .foldlFst (·.readMem) (.foldlFst (·.readVa) h)

theorem Canonical.ckBegin {k c change trigBad} (h : Canonical s) : Canonical (s.ckBegin k c change trigBad) :=
  .ite h.groupSteps.spoolPoison.setCkpt h.groupSteps.putSlot.ckRead.putSlot.setCkpt

theorem Canonical.ckHeader {k c x} (h : Canonical s) : Canonical (s.ckHeader k c x) := by
  refine .ite h.groupSteps.spoolPoison.setCkpt (.setCkpt ?_)
  split
  · exact h.groupSteps.putSlot.report
  · exact h.groupSteps.putSlot

theorem Canonical.ckEnd {k c x torn} (h : Canonical s) : Canonical (s.ckEnd k c x torn) :=
  .setCkpt (.ite h.spoolPoison h.spoolAdd)

theorem CanonicalNext.checkpointFire {ck} (h : Canonical s) : CanonicalNext (execCheckpointFire ck s) := by
  unfold execCheckpointFire
  split
  · exact .next h
  · split
    · split
      · exact .next h.ckBegin
      · exact .next h
    · refine .ite (.next h) ?_
      split
      · exact .next h.ckHeader
      · exact .next h.ckEnd

theorem Canonical.setStage {n} (h : Canonical s) : Canonical (s.setStage n) := .same h

theorem Canonical.restartRecovery (h : Canonical s) : Canonical s.restartRecovery := .same h

theorem CanonicalNext.recoveryStart (h : Canonical s) : CanonicalNext (execRecoveryStart s) :=
  .ite (.next h) (.ite (.next (.forEach (·.ringStop) h.setSvc.restartRecovery)) (.ite (.next (.setStage (.forEach
    (·.tell) h))) (.ite (.next h.setStage) (.next h))))

theorem Canonical.restoreVa {all ctx va bs} (h : Canonical s) : Canonical (s.restoreVa all ctx va bs) := by
  refine .forEach (fun h => ?_) h
  simp only []
  split
  · exact .when h.translate (·.writeMem)
  · exact h.translate

theorem Canonical.restoreCkpt {t c bs} (h : Canonical s) : Canonical (s.restoreCkpt t c bs) :=
  .foldlFst (fun h => .ite h.writeMem h) (.foldlFst (·.restoreVa) h.groupSteps)

theorem Canonical.askSlot {k c pos n} (h : Canonical s) : Canonical (s.askSlot k c pos n) := by
  refine .forEach (fun h => .ite h.readMem.ckGot ?_) h
  split
  · exact h.issueReq ‹_›
  · exact h.ckGot

theorem Canonical.rearm {d t} (h : Canonical s) : Canonical (s.rearm d t) := by
  refine .forEach (·.putUpd.invalidate) (.forEach (·.putNode.invalidate) (.forEach (fun h => ?_) (.same (.forEach
    (·.spoolSet) h))))
  split
  · exact h.armSet
  · exact h

theorem Canonical.endWaits {a} (h : Canonical s) : Canonical (s.endWaits a) :=
  .same (.forEach (fun h => by split; exacts [h.answer, h]) h)

theorem Canonical.newEpoch {e} (h : Canonical s) : Canonical (s.newEpoch e) := h.gondRwc

theorem Canonical.beginRestore {d} (h : Canonical s) : Canonical (s.beginRestore d) :=
  .forEach (fun h => .forEach (·.askSlot) h) (.same (.ite (.newEpoch (.forEach (·.tell) h)) h))

theorem Canonical.chooseStep {x t} (h : Canonical s) : Canonical (s.chooseStep x t) :=
  .forEach (fun h => .ite h.askSlot h) (.same h)

theorem Canonical.recover {x t} (h : Canonical s) : Canonical (s.recover x t) :=
  .endWaits (.setSvc (.same (.rearm (.forEach (·.restoreCkpt) h))))

theorem Canonical.goRestore {x} (h : Canonical s) : Canonical (s.goRestore x) := by
  refine .ite h.restartRecovery ?_
  split
  · split
    · exact h.restartRecovery
    · exact h.chooseStep
  · exact .ite h.recover h.restartRecovery

theorem CanonicalNext.recoveryRankTaken {d} (h : Canonical s) : CanonicalNext (execRecoveryRankTaken d s) := by
  refine .ite (.next h) ?_
  split
  · exact .ite (.next h) (.next h.beginRestore)
  · exact .ite (.next h) (.next h.goRestore)

theorem CanonicalNext.recoveryWait {rq spare} (h : Canonical s) : CanonicalNext (execRecoveryWait rq spare s) := by
  unfold execRecoveryWait
  split
  · exact .next (h.admitRequest_error ‹_›)
  · exact .next (.goOn (.same (h.admitRequest_ok ‹_›)))

/-! ## Counters -/

theorem Canonical.writeBit {off bit} (h : Canonical s) : Canonical (s.writeBit off bit) := h.setupWrite

/-! ## Drogue -/

theorem Canonical.setSlot {core i c} (h : Canonical s) : Canonical (s.setSlot core i c) := h.modCore

theorem CanonicalNext.drogueRecompute {core slot arr} (h : Canonical s) :
    CanonicalNext (execDrogueRecompute core slot arr s) := by
  unfold execDrogueRecompute
  split
  · exact .next h
  · exact .ite (.next h) (.ite (.next h.dropSample) (.next h.setSlot))

theorem CanonicalNext.drogueCompare {core slot} (h : Canonical s) : CanonicalNext (execDrogueCompare core slot s) := by
  unfold execDrogueCompare
  simp only []
  split
  · exact .next h
  · refine .ite (.next h) ?_
    split
    · exact .next h.setSlot.readEntry
    · refine .ite (.next ?_) (.ite (.next (.drogueAdd ?_)) (.next (.writeMem (.report (.drogueAdd ?_))))) <;>
        exact .forEach (·.drogueAdd) h.setSlot.readEntry.drogueAdd

/-! ## HostLink -/

theorem Canonical.descAnswer {r i n st data} (h : Canonical s) : Canonical (s.descAnswer r i n st data) :=
  .goOn (.forEach (·.arrived) h)

theorem Canonical.pollAnswer {r data} (h : Canonical s) : Canonical (s.pollAnswer r data) :=
  .when h.supplyTail (·.count)

theorem CanonicalNext.hreadResponse {tag status data} (h : Canonical s) :
    CanonicalNext (execHreadResponse tag status data s) := by
  unfold execHreadResponse
  split
  · exact .next h
  · extract_lets s1
    have hs1 : Canonical s1 := .same h
    split
    · exact .next hs1.descAnswer
    · exact .ite (.next hs1.pollAnswer) (.next hs1)
    · exact .ite (.next hs1.linkData) (.next hs1.endJob)
    · exact .ite (.next hs1.moorData) (.next hs1.setRegFld)

theorem CanonicalNext.mread {tag off} (h : Canonical s) : CanonicalNext (execMread tag off s) :=
  .ite (.next h) (.ite (.next h.holeRecord.toHost) (.next h.setupRead.toHost))

/-! ## Relay -/

theorem CanonicalNext.numericsDisable {rq group} (h : Canonical s) :
    CanonicalNext (execNumericsDisable rq group s) := by
  refine .next (h.serve fun h => ?_)
  split
  · exact h
  · exact .iteFst h (.same h)

theorem CanonicalNext.tags {rq} (h : Canonical s) : CanonicalNext (execTags rq s) := by
  refine .next (h.serve fun h => .iteFst h (.iteFst h ?_))
  split
  · exact h
  · exact h.svcReg

theorem Canonical.numRecord {a} (h : Canonical s) : Canonical (s.numRecord a).1 := h.readMem

theorem Canonical.numRecords {as} (h : Canonical s) : Canonical (s.numRecords as).1 := by
  induction as with
  | nil => exact h
  | cons a as ih => exact ih.numRecord

theorem Canonical.deliverPair {group p} (h : Canonical s) : Canonical (s.deliverPair group p) :=
  .forEach (·.tell) h.changeGroup

theorem Canonical.moveExponent {group step k} (h : Canonical s) : Canonical (s.moveExponent group step k) := by
  refine .ite h ?_
  extract_lets r1
  have hr1 : Canonical r1.1 := h.groupWords
  split
  · exact hr1
  · simp only []
    split
    · exact hr1.deliverPair
    · exact hr1.report

theorem CanonicalNext.numericsServiceStep {group remote} (h : Canonical s) :
    CanonicalNext (execNumericsServiceStep group remote s) := by
  unfold execNumericsServiceStep
  split
  · exact .next h
  · extract_lets q1
    have hq1 : Canonical q1.1 := h.numRecords
    split
    · exact .next hq1
    · exact .next hq1
    · exact .ite (.next hq1) (.next (.moveExponent (.same hq1)))

theorem CanonicalNext.setCap {rq} (h : Canonical s) : CanonicalNext (execSetCap rq s) :=
  .next (h.serve fun h => .iteFst h.dropPend.rwcFailed (.iteFst h.dropPend.refuseCap h.dropPend.commitSwCap))

theorem CanonicalNext.setPhases {rq} (h : Canonical s) : CanonicalNext (execSetPhases rq s) := by
  refine .next (h.serve fun h => .iteFst h (.iteFst h ?_))
  split
  · exact h.refusedFields
  · exact .forEach (·.dropPend.writePhase) h

theorem Canonical.setStream {k x} (h : Canonical s) : Canonical (s.setStream k x) := .same h

theorem CanonicalNext.closeStream {rq stream} (h : Canonical s) : CanonicalNext (execCloseStream rq stream s) := by
  refine .next (h.serve fun h => ?_)
  split
  · exact h
  · exact .iteFst h.setStream h

theorem CanonicalNext.inputBatchArrival {stream} (h : Canonical s) :
    CanonicalNext (execInputBatchArrival stream s) := by
  unfold execInputBatchArrival
  split
  · exact .next h
  · exact .ite (.next h) (.ite (.next h.readMem) (.ite (.next h.readMem.readMem.setStream.spoolAdd) (.next
      h.readMem.readMem.setStream.spoolPoison.report)))

theorem Canonical.headerCame {id a n} (h : Canonical s) : Canonical (s.headerCame id a n) := .same h

theorem CanonicalNext.inputSlotFreed {stream} (h : Canonical s) : CanonicalNext (execInputSlotFreed stream s) := by
  unfold execInputSlotFreed
  simp only []
  split
  · exact .next h
  · refine .ite (.next h) ?_
    split
    · exact .next h.setStream
    · exact .ite (.next h.setStream) (.next h.setStream.issueWrites)

/-! ## Mail -/

theorem Canonical.heardChange {src m} (h : Canonical s) : Canonical (s.heardChange src m) := h.changeGroup.tell

theorem Canonical.hear {src m} (h : Canonical s) : Canonical (s.hear src m) :=
  .ite h.heardChange (.ite h.newEpoch (.same h))

theorem CanonicalNext.write {port p} (h : Canonical s) : CanonicalNext (execWrite port p s) := by
  refine .ite (.next h) (.next (h.receive fun h => ?_))
  split
  · exact h.respond
  · exact .ite h.performWrite.respond.hear (.when h.performWrite.respond (·.headerCame))

/-! ## Scrub -/

theorem CanonicalNext.scrubRead {mc} (h : Canonical s) : CanonicalNext (execScrubRead mc s) := by
  unfold execScrubRead
  simp only []
  split
  · exact .next h
  · refine .ite (.next h) ?_
    split
    · exact .next (.same h.crcCheck)
    · exact .next (.count (.same h.crcCheck))

/-! ## The dispatch and a step -/

theorem exec_canonical (c : Instr) (h : Canonical s) : CanonicalNext (exec c s) := by
  cases c with
  | add | sub | mullo | mulhi | muladd | minmax | logic | shift | field | bitop | pick | mov | addF | mulF |
      fmaF | minF | maxF | adderrF | mulerrF | tointF | toflt | pow2F | log2F | recipF | rsqrtF =>
    exact .next h.aluR
  | cmp | cmpF | pred | sbTest => exact .next (h.issue fun h => .done h.atPutPreds)
  | setk | addk | lxch | rdl | pack | hget => exact .next (h.issue fun h => .done h.atPut)
  | widen => exact .next (h.issue fun h => .ite (.done h.atRefuse) (.done h.countCvt.atPut))
  | narrow => exact .narrow h
  | narrowb => exact .narrowb h
  | ld => exact .ld h
  | st => exact .st h
  | stN => exact .next (h.issue fun h => .atCounted h (·.atStoreCounted))
  | accN => exact .next (h.issue fun h => .atCounted h (·.atAccumulate))
  | cinv => exact .next (h.issue fun h => .atCacheOps h (·.evict))
  | cwb => exact .next (h.issue fun h => .atCacheOps h (·.writeBack))
  | aop => exact .aop h
  | jmp => exact .next (h.issue fun h => .flow h.atBranch)
  | jmpr => exact .next (h.issue fun h => .ite (.flow h.atGoto) (.flow h.atSplitTo))
  | call => exact .next (h.issue fun h => .flow h.atPut.atBranch)
  | endThread | rally => exact .next (h.issue fun h => .flow h.atModGroup)
  | cede | nop => exact .next (h.issue fun h => .done h)
  | tally => exact .next (h.issue fun h => .ite (.done h.atPut) (.done h.atPutPreds))
  | barrierComplete => exact .ite (.next (.forEach (·.wakeBlock) h)) (.next h)
  | arrIssue => exact .arrIssue h
  | hset | hclr => exact .next (h.issue fun h => .ite .wait (.done h.atModGroup))
  | sbWait => exact .next (h.issue fun h => .ite (.flow h.atHoldAt) (.done h))
  | sbWaitReady => exact .sbWaitReady h
  | strIssue => exact .strIssue h
  | splRd => exact .splRd h
  | splWait => exact .splWait h
  | splWaitSatisfied => exact .splWaitSatisfied h
  | splAdd => exact .splAdd h
  | splSet => exact .splSet h
  | srd => exact .next (h.issue fun h => .done (.atPut (.ite h.setLstat h)))
  | fence => exact .next (h.issue fun h => .ite (.done h.release) (.retry h.release))
  | arrayOpStart => exact .arrayOpStart h
  | arrayReconfigure => exact .arrayReconfigure h
  | tileConvertDone => exact .tileConvertDone h
  | tileRefeed => exact .tileRefeed h
  | replayStageCopy => exact .replayStageCopy h
  | sparseBadlist => exact .sparseBadlist h
  | arrayOpComplete => exact .arrayOpComplete h
  | drogueRecompute => exact .drogueRecompute h
  | drogueCompare => exact .drogueCompare h
  | copyStart => exact .copyStart h
  | copySpoolStep => exact .copySpoolStep h
  | scatterBadlist => exact .scatterBadlist h
  | copyComplete => exact .copyComplete h
  | allocationRelease => exact .allocationRelease h
  | blockPlace => exact .blockPlace h
  | splitChange => exact .splitChange h
  | coreIdle => exact .ite (.next h.modCore) (.next h)
  | partitionSleep => exact .ite (.next h.loseCores.setPart) (.next h)
  | partitionWake => exact .ite (.next h.setPart) (.next h)
  | scrubRead => exact .scrubRead h
  | lpddr6Retrain | senseRestored => exact .ite (.next h) (.next (.same h))
  | spoolFileWrite => exact .ite (.next h) (.ite (.next h.holeRecord) (.next h.spoolWrite))
  | setupRegisterWrite | broadcastWrite | groupApertureWrite => exact .ite (.next h.windowWrite) (.next h)
  | rwcValueWrite | rwcComplementWrite => exact .ite (.next h.setupWrite) (.next h)
  | lcountLoRead => exact .next h.setupRead
  | wtInv | famapInv | ntInv | utInv => exact .next h.writeInv
  | invalidationComplete => exact .invalidationComplete h
  | partCtrlReset => exact .ite (.next h.askPart) (.next h)
  | resetCtrlChip => exact .next h.askChip
  | errBaseWrite => exact .next h.writeErrBase
  | errRdWrite => exact .next h.writeErrRd
  | errFatalClear => exact .next h.writeErrFatal
  | cvtCountClearSat | cvtCountClearInf | cvtCountClearNan | arrCountClearF | arrCountClearD | arrCountClearW |
      coreCountClearRepack | fuCountClearDone | mcCountClearRetry | mcCountClearPois | mcCountClearPread |
      mcCountClearScrub | raCountClearAcc | raCountClearPairs | raCountClearSpill | raCountClearSat |
      raCountClearStale | raCountClearExtra | raCountClearDropped | uuCountClearParams | uuCountClearFrozen |
      uuCountClearPblocks | uuCountClearMclamp | uuCountClearShards | uuCountClearSkew | uuCountClearBusy |
      fabCountClearCrcErr | fabCountClearResend | fabCountClearNarrow | fabCountClearLoss | fabCountClearDrop =>
    exact .ite (.next h.writeBit) (.next h)
  | snCountClearCrcErr | snCountClearResend | snCountClearNarrow | snCountClearLoss | snCountClearDb |
      snCountClearDbPoll | pwrCountClearPartition | pwrCountClearModule =>
    exact .next h.writeBit
  | portRetrain => exact .ite (.next h.dropPend.retrainPort) (.next h)
  | ringStart => exact .next h.ctrlWrite.ringStart
  | ringStop => exact .next h.ctrlWrite.ringStop
  | ringResume => exact .next h.ctrlWrite.ringResume
  | ringTailWrite => exact .ite (.next h) (.ite (.next h.dropPend) (.next h.dropPend.supplyTail))
  | doorbell => exact .ite (.next h.count) (.next h.count.supplyTail)
  | doorbellPoll => exact .ite (.next h) (.next h.setRing.hostRead)
  | hreadResponse => exact .hreadResponse h
  | mread => exact .mread h
  | mwrite => exact .ite (.next h.setupWrite) (.next h.refusal)
  | descriptorFetch => exact .descriptorFetch h
  | descriptorRefetch => exact .descriptorRefetch h
  | launch => exact .launch h
  | launchComplete => exact .launchComplete h
  | intrHoldExpiry => exact .ite (.next h) (.ite (.next h.sendIntr) (.next h.setVector))
  | copy | fill => exact .next h.startLink
  | linkCopyComplete => exact .linkCopyComplete h
  | hint => exact .hint h
  | ballastGuardEnd => exact .ite (.next h) (.next h.setPart.fitGuards.ramps)
  | phase => exact .phase h
  | spoolWait => exact .spoolWait h
  | spoolWaitSatisfied => exact .spoolWaitSatisfied h
  | spoolSignal => exact .spoolSignal h
  | ringFence => exact .ringFence h
  | updateGroupRate | updateGroupSet | updateGroupArm => exact .next h.updateGroup
  | sornalLinkLoss | linkLoss => exact .ite (.next h.loseLink) (.next h)
  | flitReceive => exact .flitReceive h
  | resendTimeout => exact .ite (.next h.resend) (.next h)
  | laneBad => exact .laneBad h
  | portSignalDetect => exact .ite (.next h.enterLink) (.next h)
  | detectTimeout => exact .ite (.next h.linkToDown) (.next h)
  | equaliseDone => exact .ite (.next h.enterLink.setLink) (.next h)
  | widthAgreed => exact .widthAgreed h
  | initReady => exact .ite (.next h.enterLink.setLinkStatus.setLink) (.next h)
  | lostRetry | downRetry => exact .ite (.next h.linkToDetect) (.next h)
  | write => exact .write h
  | read => exact .read h
  | accumulate => exact .accumulate h
  | pairAccumulate => exact .pairAccumulate h
  | atomic => exact .atomic h
  | spoolNotify => exact .spoolNotify h
  | fabricResponse => exact .fabricResponse h
  | lineCut => exact .lineCut h
  | fabricRequestTimeout => exact .fabricRequestTimeout h
  | leafFire | castFire => exact .next h.fireNode
  | factorFire => exact .factorFire h
  | gram => exact .gram h
  | ortho => exact .ortho h
  | factorComplete => exact .factorComplete h
  | shardFire => exact .shardFire h
  | shardUpdateComplete => exact .shardUpdateComplete h
  | checkpointFire => exact .checkpointFire h
  | recoveryStart => exact .recoveryStart h
  | recoveryRankTaken => exact .recoveryRankTaken h
  | numericsServiceStep => exact .numericsServiceStep h
  | inputBatchArrival => exact .inputBatchArrival h
  | inputSlotFreed => exact .inputSlotFreed h
  | create => exact .next (h.serve fun h => .iteFst h (.iteFst h h.svcReg))
  | destroy => exact .destroy h
  | bindRing => exact .next (h.serve fun h => .iteFst h (.iteFst h h.setRing.svcFld))
  | unbindRing => exact .unbindRing h
  | setWindow => exact .next (h.serve fun h => .iteFst h h.writeMem.invalidate)
  | grantSpool => exact .next (h.serve fun h => .iteFst h (.iteFst h h.svcRwc.reidle))
  | place => exact .next (h.serve fun h => .iteFst h.placeJob h)
  | jobRelease => exact .next (h.serve (·.releaseJob))
  | build => exact .build h
  | collectiveArm => exact .next (h.serve fun h => h.onSet (·.armSet))
  | disarm => exact .next (h.serve fun h => h.onSet (·.disarmSet))
  | configure => exact .next (h.serve fun h => .iteFst h (.iteFst h h.setCkpt))
  | checkpointStop => exact .next (h.serve fun h => h.onCkpt (·.setCkpt))
  | query => exact .next (h.serve fun h => h.onCkpt (·.freeResult))
  | recoveryStatus => exact .next (h.serve (·.freeResult))
  | recoveryWait => exact .recoveryWait h
  | abandon => exact .next (h.serve fun h => .endWaits (.setStage (.setSvc (.same h))))
  | numericsEnable => exact .next (h.serve fun h => .iteFst h (.iteFst h (.same h)))
  | numericsDisable => exact .numericsDisable h
  | drogue => exact .next (h.serve fun h => .iteFst h (.iteFst h h.writeMem))
  | tags => exact .tags h
  | setCap => exact .setCap h
  | capDeferralExpiry => exact .next (.ite h.applyPending h)
  | setMode => exact .next (h.serve (·.svcFld))
  | setPhases => exact .setPhases h
  | readPower => exact .next (h.serve id)
  | openStream => exact .next (h.serve fun h => .iteFst h (.iteFst h h.setStream))
  | closeStream => exact .closeStream h
  | enter => exact .next (h.serveWhen fun h => .iteFst h h.setSvc)
  | exit => exact .next (h.serve (·.setSvc))
  | selftest => exact .next (h.serve fun h => .iteFst h (.askChip (.same (.ite h.modStart h))))
  | powerEvaluation => exact .powerEvaluation h
  | dividerChange => exact .dividerChange h
  | railSettled => exact .ite (.next h) (.next h.setPart)
  | telemetryWindow => exact .telemetryWindow h
  | droopWarning => exact .ite (.next h) (.ite (.next h.setPart) (.ite (.next h.setPart) (.next h)))
  | droopHoldExpiry => exact .droopHoldExpiry h
  | droopReset => exact .ite (.next h) (.next (.ite h.report (.same h.report)))
  | sensorSample => exact .sensorSample h
  | engineHang => exact .ite (.next h) (.next h.hangRecord.takeLevel)
  | escalationTimeout => exact .escalationTimeout h
  | waitMonitorExpiry => exact .waitMonitorExpiry h
  | contextReset => exact .ite (.next h.contextReset) (.next h)
  | engineReset => exact .ite (.next h) (.next (.same h.resetCtxs.emptyEngine.reportReset))
  | partitionReset => exact .partitionReset h
  | chipReset => exact .ite (.next (.same h.chipReset)) (.next h)
  | powerCycleRequest => exact .ite (.next h) (.next (.when h.setKreg.reportFatal.moor (·.enterLink)))
  | watchdogExpiry => exact .ite (.next h) (.next h.reportFatalAt.askChip)
  | errorRecordWrite => exact .errorRecordWrite h
  | coldStart => exact .ite (.next h) (.next (.beginStart (.loseSram (.same h))))
  | stepTimeLimit => exact .ite (.next h) (.next h.failStep)
  | restart | loadImage | persistImage | loadRecord | clearFallbacks | hold | release => exact .next h.hostMoor
  | getVersion | getCapabilities | negotiateAlgorithms => exact .next (h.spdmRequest (·.setConn.spdmSend))
  | getDigests => exact .next (h.spdmRequest (·.spdmSend))
  | getCertificate => exact .next (h.spdmRequest fun h => .ite h.spdmError h.spdmSend)
  | challenge => exact .challenge h
  | getMeasurements => exact .getMeasurements h
  | unsupportedRequest => exact .ite (.next h) (.next h.spdmError)
  | progress | modStatus | lastResult | capRead | powerRead | senseMap | serial =>
    exact .next (h.mgmtCommand (·.mgmtSend))
  | trayCap => exact .trayCap h
  | standby => exact .standby h
  | alertClear => exact .ite (.next h) (.next (h.mgmtWrite fun h => .mgmtResult (.same h)))
  | mgmtBusStuck | mgmtBusRestored => exact .ite (.next h.modBit) (.next h)
  | smbclkTimeout => exact .next h
  | resetPin => exact .ite (.next h) (.next (.askChip (.same h)))
  | inputTurnOff => exact .ite (.next .powerOff) (.next h)
  | senseOpen => exact .ite (.next h) (.next (.modBit (.same h)))
  | refclkLoss => exact .ite (.next h) (.next (.modBit (.same (.setReg (.same h.quiesce)))))
  | resetPinRelease => exact .ite (.next (.modStart (.same (.same h)))) (.next (.same h))
  | selfTestStepEnd => exact .selfTestStepEnd h
  | undefinedInstruction => exact .ite (.next h) (.next (h.issue fun h => .done h))
  | vendorDefinedMessageSupport => exact .ite (.next h.toHost) (.next h)

theorem step_canonical (h : Canonical s) : CanonicalNext (step s) := by
  unfold step
  split
  · exact .next h.tick
  · exact exec_canonical _ h

end Sys2Proof.Claims

open Sys2Proof Sys2Proof.Machine Sys2Proof.Claims

/-- Settles O45, by the cases of the command at the front of the queue. -/
theorem canonicalKept : Obligations.CanonicalKept := by
  unfold Obligations.CanonicalKept
  intro s t h e
  obtain ⟨ht⟩ := e ▸ step_canonical h
  exact ht

end

section
/-! # Invalidations (O37)

An invalidation waits in the queue of its kind, whose BUSY bit says that the queue is not empty (R419). When it completes, a
window or a map entry is forgotten; a node or update entry is read from its table, which raises a counter of a controller at
most where the entry is poisoned (R446), and takes effect as it stands there (R231, R253). -/
namespace Sys2Proof.Machine
open Sys2Proof.Claims

/-! ## The queue and its BUSY bit -/

/-- Putting `c` at bit position `p` of a number whose digits from there on are `q`. -/
theorem replace_bit (p q r c : Nat) : p * q + r - q % 2 * p + c * p = p * (2 * (q / 2) + c) + r := by
  have hq : p * q = p * (2 * (q / 2)) + q % 2 * p := by
    conv_lhs => rw [← Nat.div_add_mod q 2]
    ring
  rw [Nat.mul_add, Nat.mul_comm c p]
  omega

theorem bitAt_setFld_same (w : Word) {i : Nat} (hi : i < 32) (b : Bool) : bitAt (setFld w i 1 (b2n b)) i = b := by
  have hb : b2n b < 2 := by cases b <;> decide
  have hr : w.toNat % 2 ^ i < 2 ^ i := Nat.mod_lt _ (by positivity)
  have hnew : w.toNat - w.toNat / 2 ^ i % 2 * 2 ^ i + b2n b * 2 ^ i =
      2 ^ i * (2 * (w.toNat / 2 ^ i / 2) + b2n b) + w.toNat % 2 ^ i := by
    rw [← replace_bit, Nat.div_add_mod]
  have hlt : 2 ^ i * (2 * (w.toNat / 2 ^ i / 2) + b2n b) + w.toNat % 2 ^ i < 2 ^ 32 := by
    have hw : w.toNat / 2 ^ i < 2 ^ (32 - i) := by
      rw [Nat.div_lt_iff_lt_mul (by positivity), ← pow_add, Nat.sub_add_cancel (by omega)]
      exact w.isLt
    have heven : 2 ^ (32 - i) = 2 * 2 ^ (31 - i) := by rw [← pow_succ', show 31 - i + 1 = 32 - i by omega]
    have hq : 2 * (w.toNat / 2 ^ i / 2) + b2n b + 1 ≤ 2 ^ (32 - i) := by omega
    calc _ < 2 ^ i * (2 * (w.toNat / 2 ^ i / 2) + b2n b + 1) := by rw [Nat.mul_add_one]; omega
      _ ≤ 2 ^ i * 2 ^ (32 - i) := Nat.mul_le_mul_left _ hq
      _ = 2 ^ 32 := by rw [← pow_add, Nat.add_sub_cancel' (by omega)]
  unfold bitAt fld setFld fld bitsOf
  simp only [Nat.shiftRight_eq_div_pow, pow_one, BitVec.toNat_ofNat]
  rw [Nat.mod_eq_of_lt hb, hnew, Nat.mod_eq_of_lt hlt, Nat.mul_add_div (by positivity), Nat.div_eq_of_lt hr, Nat.add_zero,
    Nat.mul_add_mod, Nat.mod_eq_of_lt hb]
  cases b <;> rfl

theorem invBit_lt (k : InvKind) : invBit k < 4 := by cases k <;> decide

theorem invBit_injective {j k : InvKind} (h : invBit j = invBit k) : j = k := by
  revert h
  cases j <;> cases k <;> decide

theorem State.invWaiting_setInv (s : State) (k j : InvKind) (l : List Word) :
    (s.setInv k l).invWaiting j = if j = k then l else s.invWaiting j := by
  refine (Sparse.get_set _ _ _ _ _).trans ?_
  by_cases h : j = k
  · rw [if_pos h, if_pos (congrArg invBit h)]
  · rw [if_neg h, if_neg (fun hb => h (invBit_injective hb))]
    rfl

theorem State.reg_setInv_other (s : State) (k : InvKind) (l : List Word) {o : Nat} (ho : o ≠ 0x1320030) :
    (s.setInv k l).reg o = s.reg o :=
  (State.reg_setRegFld _ _ _ _ _ _).trans (if_neg ho)

theorem State.busy_setInv (s : State) (k : InvKind) (l : List Word) :
    bitAt ((s.setInv k l).reg 0x1320030) (invBit k) = !l.isEmpty := by
  have hlt := invBit_lt k
  have hreg : (s.setInv k l).reg 0x1320030 = setFld (s.reg 0x1320030) (invBit k) 1 (b2n !l.isEmpty) :=
    (State.reg_setRegFld _ _ _ _ _ _).trans (if_pos rfl)
  rw [hreg]
  exact bitAt_setFld_same _ (by omega) _

theorem State.setInv_eq (s : State) (k : InvKind) (l : List Word) :
    s.setInv k l = { s with invQueue := (s.setInv k l).invQueue, setup := (s.setInv k l).setup } := rfl

/-- A write of an INV register, whichever kind it is of. -/
theorem next_writeInv {s : State} {v : Word} {c : Instr} {k : InvKind} (hc : exec c s = .next (s.writeInv k v)) :
    Next c s fun t =>
      t.invWaiting k = s.invWaiting k ++ [v] ∧ bitAt (t.reg 0x1320030) (invBit k) = true
        ∧ (∀ j, j ≠ k → t.invWaiting j = s.invWaiting j) ∧ regsKept s t [0x1320030]
        ∧ t = { s with invQueue := t.invQueue, setup := t.setup } := by
  refine ⟨_, hc, ?_, ?_, fun j hj => ?_, fun o ho => ?_, State.setInv_eq _ _ _⟩
  · rw [State.writeInv, State.invWaiting_setInv, if_pos rfl]
  · rw [State.writeInv, State.busy_setInv]
    simp
  · rw [State.writeInv, State.invWaiting_setInv, if_neg hj]
  · exact State.reg_setInv_other _ _ _ (by simpa using ho)

theorem exec_invalidationComplete {s : State} {k : InvKind} {v : Word} {rest : List Word} (h : s.invWaiting k = v :: rest)
    (hk : k ≠ .nt) : exec (.invalidationComplete k) s = .next ((s.invalidate k v).setInv k rest) := by
  show execInvalidationComplete k s = _
  rw [execInvalidationComplete, h]
  simp only [if_neg hk]

theorem exec_invalidationComplete_nt {s : State} {v : Word} {rest : List Word} (h : s.invWaiting .nt = v :: rest) :
    exec (.invalidationComplete .nt) s = .next (s.reidle ((s.invalidate .nt v).setInv .nt rest)) := by
  show execInvalidationComplete .nt s = _
  rw [execInvalidationComplete, h]
  simp only [if_true]

theorem forEach_keeps {α σ : Type} {P : σ → Prop} {f : σ → α → σ} (hf : ∀ u x, P u → P (f u x)) {s : σ} (hs : P s)
    (xs : List α) : P (forEach f s xs) := by
  induction xs generalizing s with
  | nil => exact hs
  | cons x xs ih => exact ih (hf s x hs)

/-- What idle partitions count from is all that `reidle` sets. -/
theorem State.reidle_eq (s t : State) : s.reidle t = { t with power := (s.reidle t).power } := by
  refine forEach_keeps (P := fun u : State => u = { t with power := u.power }) (fun u p hu => ?_) rfl _
  split
  · rw [hu]
    rfl
  · exact hu

/-! ## Reading an entry of a table -/

/-- Only caches of table entries and registers below the ports differ. -/
def State.TableRead (s t : State) : Prop :=
  t = { s with setup := t.setup, tables := t.tables } ∧ ∀ o, 0x1300000 ≤ o → t.reg o = s.reg o

theorem State.TableRead.refl (s : State) : s.TableRead s := ⟨rfl, fun _ _ => rfl⟩

theorem State.TableRead.trans {s t u : State} (h : s.TableRead t) (h' : t.TableRead u) : s.TableRead u :=
  ⟨by rw [h'.1, h.1], fun o ho => (h'.2 o ho).trans (h.2 o ho)⟩

theorem State.TableRead.withTables {s t : State} (h : s.TableRead t) (x : Tables) : s.TableRead { t with tables := x } :=
  ⟨by rw [h.1], h.2⟩

theorem State.TableRead.sound {s t : State} (h : s.TableRead t) (hs : soundMem s) : soundMem t := by
  rw [h.1]
  exact hs

theorem State.mcCount_tableRead (s : State) (a i : Nat) (hi : i < 4) : s.TableRead (s.mcCount a i) := by
  unfold State.mcCount
  split
  · next mc hmc =>
    have hlt := State.mcOf_lt hmc
    refine ⟨rfl, fun o ho => (State.reg_count _ _ _ _).trans (if_neg ?_)⟩
    unfold offMc
    split <;> omega
  · exact .refl s

/-- An entry that the module reads is there, or its poison makes it invalid (R446). -/
theorem State.readEntry_of_sound {s : State} (h : soundMem s) (a n : Nat) :
    s.TableRead (s.readEntry a n).1 ∧
      (s.readEntry a n).2 = if s.anyPoison a (4 * n) then none else some (s.words a n) := by
  cases hp : s.anyPoison a (4 * n) with
  | false =>
    rw [State.readEntry_of_intact h.1 h.2.1 hp]
    exact ⟨.refl s, rfl⟩
  | true =>
    obtain ⟨b, hb⟩ := Option.isSome_iff_exists.mp (List.find?_isSome.mpr (List.any_eq_true.mp hp))
    simp only [State.readEntry, State.entryOk, State.crcRange_of_sound h, hb]
    exact ⟨State.mcCount_tableRead _ _ _ (by omega), rfl⟩

/-! ## An entry taking effect -/

/-- The common form of `loadNode` and `loadUpd`: what is cached of entry `i` goes, then what the table holds takes its place. -/
def State.loadEntry (s : State) (put : Tables → List Word → Tables) (size i a w : Nat) : State :=
  let s : State := { s with tables := put s.tables [] }
  if size ≤ i ∨ s.dramRange a (8 * w) = false then s
  else
    let r := s.readEntry a (2 * w)
    match r.2 with
    | some ws => if complementsOk w ws then { r.1 with tables := put r.1.tables (ws.take w) } else r.1
    | none => r.1

/-- Put the words of entry `i` in the cache of nodes, or of updates. -/
def Tables.putNode (i : Nat) (x : Tables) (e : List Word) : Tables :=
  { x with nodeCache := Sparse.set (fun _ => []) x.nodeCache i e }

def Tables.putUpdate (i : Nat) (x : Tables) (e : List Word) : Tables :=
  { x with updCache := Sparse.set (fun _ => []) x.updCache i e }

theorem State.loadNode_eq (s : State) (i : Nat) :
    s.loadNode i = s.loadEntry (Tables.putNode i) s.ntSize i (s.nodeAddr i) 16 := rfl

theorem State.loadUpd_eq (s : State) (i : Nat) :
    s.loadUpd i = s.loadEntry (Tables.putUpdate i) s.utSize i (s.updAddr i) 32 := rfl

theorem State.words_withTables (s : State) (x : Tables) (a n : Nat) :
    ({ s with tables := x } : State).words a n = s.words a n :=
  congrArg (wordsLE n) (State.bytes_congr (s := s) (t := { s with tables := x }) (fun _ => rfl) a (4 * n))

/-- Where memory is sound, the entry in force afterwards is the one that its table holds. -/
theorem State.loadEntry_spec {s : State} (h : soundMem s) (put : Tables → List Word → Tables) (size i a w : Nat) :
    s.TableRead (s.loadEntry put size i a w) ∧
      ∃ x, (x = s.tables ∨ x = put s.tables []) ∧
        (s.loadEntry put size i a w).tables = put x (entryNow s (decide (i < size)) a w) := by
  have hread := State.readEntry_of_sound (s := { s with tables := put s.tables [] }) h a (2 * w)
  have hframe : s.TableRead { s with tables := put s.tables [] } := (State.TableRead.refl s).withTables _
  unfold State.loadEntry
  simp only []
  split
  · next hout =>
    refine ⟨hframe, _, .inl rfl, ?_⟩
    have : (decide (i < size) && s.dramRange a (8 * w)) = false := by
      rcases hout with hout | hout
      · simp [hout]
      · rw [show s.dramRange a (8 * w) = false from hout, Bool.and_false]
    rw [entryNow, this]
    rfl
  · next hin =>
    rw [not_or, Bool.not_eq_false, not_le] at hin
    obtain ⟨hi, hd⟩ := hin
    have hd : s.dramRange a (8 * w) = true := hd
    rw [show 4 * (2 * w) = 8 * w by ring, State.words_withTables] at hread
    obtain ⟨hread, hwords⟩ := hread
    have htab := (State.readEntry_frame { s with tables := put s.tables [] } a (2 * w)).tables
    generalize ({ s with tables := put s.tables [] } : State).readEntry a (2 * w) = r at hread hwords htab ⊢
    obtain ⟨u, o⟩ := r
    have hentry : entryNow s (decide (i < size)) a w =
        if s.anyPoison a (8 * w) = false ∧ complementsOk w (s.words a (2 * w)) = true then (s.words a (2 * w)).take w
        else [] := by
      simp only [entryNow, hi, hd, decide_true, Bool.true_and, Bool.and_eq_true, Bool.not_eq_true']
    rw [hentry]
    have hu : u.tables = put s.tables [] := htab
    have hu' : s.TableRead u := hframe.trans hread
    have hwords : o = if s.anyPoison a (8 * w) = true then none else some (s.words a (2 * w)) := hwords
    subst hwords
    cases hp : s.anyPoison a (8 * w) with
    | true => exact ⟨hu', _, .inl rfl, hu⟩
    | false =>
      cases hc : complementsOk w (s.words a (2 * w)) with
      | false => exact ⟨by simpa [hc] using hu', _, .inl rfl, by simpa [hc] using hu⟩
      | true => exact ⟨by simpa [hc] using hu'.withTables _, _, .inr rfl, by simp [hc, hu]⟩

theorem State.loadEntry_cached {s : State} (h : soundMem s) {put : Tables → List Word → Tables}
    {cached : Tables → Nat → List Word} {i : Nat}
    (hput : ∀ x e j, cached (put x e) j = if j = i then e else cached x j) (size a w j : Nat) :
    cached (s.loadEntry put size i a w).tables j =
      if j = i then entryNow s (decide (i < size)) a w else cached s.tables j := by
  obtain ⟨-, x, hx, htab⟩ := State.loadEntry_spec h put size i a w
  rw [htab, hput]
  by_cases hj : j = i
  · rw [if_pos hj, if_pos hj]
  · rw [if_neg hj, if_neg hj]
    rcases hx with rfl | rfl
    · rfl
    · rw [hput, if_neg hj]

/-! ## What a table's entry takes effect as -/

/-- The controller of an address depends on the lists of channels in service (R167, R418). -/
theorem State.mcOf_of_regs {s t : State} (h : ∀ o, 0x1300000 ≤ o → t.reg o = s.reg o) (z : Nat) : t.mcOf z = s.mcOf z := by
  have hreg (o : Nat) : t.reg (offMem + o) = s.reg (offMem + o) := h _ (by unfold offMem; omega)
  have hlp (die : Nat) : t.lpList die = s.lpList die := by
    unfold State.lpList
    simp only [Nat.add_assoc, hreg]
  have hbmc (die : Nat) : t.bmcList die = s.bmcList die := by
    unfold State.bmcList
    rw [hreg]
  unfold State.mcOf
  simp only [hlp, hbmc]

theorem State.TableRead.dramRange {s t : State} (h : s.TableRead t) (a n : Nat) : t.dramRange a n = s.dramRange a n := by
  unfold State.dramRange State.inDram
  simp only [State.mcOf_of_regs h.2]

theorem State.TableRead.entryNow {s t : State} (h : s.TableRead t) (inTable : Bool) (a w : Nat) :
    entryNow t inTable a w = Claims.entryNow s inTable a w := by
  have hd := h.dramRange a (8 * w)
  have hp : t.anyPoison a (8 * w) = s.anyPoison a (8 * w) := by rw [h.1]; rfl
  have hw : t.words a (2 * w) = s.words a (2 * w) :=
    congrArg (wordsLE (2 * w)) (State.bytes_congr (fun z => by rw [h.1]; rfl) a _)
  unfold Claims.entryNow
  rw [hd, hp, hw]

theorem wordAt_wordsLE {j n : Nat} (hj : j < n) (bs : List Byte) :
    wordAt (wordsLE n bs) j = BitVec.ofNat 32 (natLE ((bs.drop (4 * j)).take 4)) := by
  induction n generalizing j bs with
  | zero => omega
  | succ n ih =>
    cases j with
    | zero => rfl
    | succ j =>
      have h := ih (j := j) (by omega) (bs.drop 4)
      rw [List.drop_drop] at h
      rw [show 4 * (j + 1) = 4 + 4 * j by ring]
      exact h

theorem State.bytes_eq_replicate {s : State} {a n : Nat} (h : ∀ z, a ≤ z → z < a + n → s.byte z = 0) :
    s.bytes a n = List.replicate n 0 := by
  induction n generalizing a with
  | zero => rfl
  | succ n ih =>
    rw [State.bytes, List.replicate_succ, h a le_rfl (by omega), ih fun z hz hz' => h z (by omega) (by omega)]

theorem natLE_replicate_zero (n : Nat) : natLE (List.replicate n 0) = 0 := by
  induction n with
  | zero => rfl
  | succ n ih => rw [List.replicate_succ, natLE, ih]; rfl

/-- An entry whose bytes are all zero has no valid complements. -/
theorem complementsOk_of_zero {s : State} {a w : Nat} (hw : 0 < w) (h : ∀ z, a ≤ z → z < a + 8 * w → s.byte z = 0) :
    complementsOk w (s.words a (2 * w)) = false := by
  have hzero {j : Nat} (hj : j < 2 * w) : wordAt (s.words a (2 * w)) j = 0 := by
    rw [State.words, wordAt_wordsLE hj, State.bytes_eq_replicate fun z hz hz' => h z hz (by omega), List.drop_replicate,
      List.take_replicate, natLE_replicate_zero]
    rfl
  refine List.all_eq_false.mpr ⟨0, List.mem_range.mpr hw, ?_⟩
  rw [hzero (by omega), hzero (by omega)]
  decide

/-- A table's address in DRAM in service lies below the boot ROM. -/
theorem State.isRom_of_dramRange {s : State} {a n z : Nat} (h : s.dramRange a n = true) (hz : a ≤ z) (hz' : z < a + n) :
    isRom z = false := by
  unfold State.dramRange at h
  rw [Bool.or_eq_true, List.all_eq_true] at h
  have hall := h.resolve_left (by simp; omega) (z / 256 - a / 256) (List.mem_range.mpr (by omega))
  rw [show (a / 256 + (z / 256 - a / 256)) * 256 = z / 256 * 256 by omega] at hall
  obtain ⟨mc, hmc⟩ := Option.isSome_iff_exists.mp hall
  unfold State.mcOf at hmc
  refine isRom_of_sram ?_
  split at hmc
  · next hlp =>
    have := of_decide_eq_true hlp
    omega
  · split at hmc
    · next hb =>
      have hb := (Bool.and_eq_true_iff.mp hb).2
      have := of_decide_eq_true hb
      omega
    · cases hmc

theorem State.mem_usedEntries_lt {s : State} {base k n i : Nat} (h : i ∈ s.usedEntries base k n) : i < n := by
  unfold State.usedEntries at h
  rw [List.mem_eraseDups, List.mem_map] at h
  obtain ⟨p, hp, rfl⟩ := h
  have hp := (List.mem_filter.mp hp).2
  rw [Bool.and_eq_true, decide_eq_true_eq, decide_eq_true_eq] at hp
  exact Nat.div_lt_of_lt_mul (by omega)

/-- What is not listed as used holds no byte but zero. -/
theorem State.byte_of_not_mem_usedEntries {s : State} {base k n i z : Nat} (hlost : s.lost = []) (hi : i < n)
    (h : i ∉ s.usedEntries base k n) (hz : base + k * i ≤ z) (hz' : z < base + k * i + k) (hrom : isRom z = false) :
    s.byte z = 0 := by
  have hkey : z ∉ s.mem.map Prod.fst := by
    intro hmem
    obtain ⟨p, hp, rfl⟩ := List.mem_map.mp hmem
    refine h ?_
    unfold State.usedEntries
    rw [List.mem_eraseDups, List.mem_map]
    refine ⟨p, List.mem_filter.mpr ⟨hp, ?_⟩, ?_⟩
    · have : k * i + k ≤ k * n := by rw [← Nat.mul_add_one]; exact Nat.mul_le_mul_left _ hi
      rw [Bool.and_eq_true, decide_eq_true_eq, decide_eq_true_eq]
      omega
    · exact Nat.div_eq_of_lt_le (by rw [Nat.mul_comm]; omega) (by rw [Nat.mul_comm, Nat.mul_add_one]; omega)
  rw [State.byte_eq, hrom, if_neg Bool.false_ne_true, hlost, Sparse.get_of_not_mem_keys _ hkey]
  rfl

/-- An entry of which nothing was ever written takes no effect. -/
theorem entryNow_of_unused {s : State} {base w n i : Nat} (hw : 0 < w) (hlost : s.lost = [])
    (h : i ∉ s.usedEntries base (8 * w) n) : entryNow s (decide (i < n)) (base + 8 * w * i) w = [] := by
  unfold entryNow
  refine if_neg ?_
  simp only [Bool.and_eq_true, decide_eq_true_eq, not_and, Bool.not_eq_true]
  intro hin
  obtain ⟨⟨hi, hd⟩, -⟩ := hin
  exact complementsOk_of_zero hw fun z hz hz' =>
    State.byte_of_not_mem_usedEntries hlost hi h hz hz' (State.isRom_of_dramRange hd hz hz')

/-! ## Every entry in use -/

/-- `load` takes an entry as it stands in its table, which is `now`, into the cache that `cache` reads. -/
structure TableLoad (load : State → Nat → State) (cache now : State → Nat → List Word) : Prop where
  read : ∀ s i, soundMem s → s.TableRead (load s i)
  cached : ∀ s i j, soundMem s → cache (load s i) j = if j = i then now s i else cache s j
  now_of_read : ∀ s t i, s.TableRead t → now t i = now s i

section
variable {load : State → Nat → State} {cache now : State → Nat → List Word}

theorem TableLoad.forEach (h : TableLoad load cache now) {s : State} (hs : soundMem s) (is : List Nat) :
    s.TableRead (Machine.forEach load s is) ∧
      ∀ j, cache (Machine.forEach load s is) j = if j ∈ is then now s j else cache s j := by
  induction is generalizing s with
  | nil => exact ⟨.refl s, fun j => by simp [Machine.forEach]⟩
  | cons i is ih =>
    have hone := h.read s i hs
    obtain ⟨hread, hcache⟩ := ih (hone.sound hs)
    refine ⟨hone.trans hread, fun j => (hcache j).trans ?_⟩
    rw [h.now_of_read _ _ _ hone, h.cached _ _ _ hs]
    by_cases hj : j = i
    · simp [hj]
    · simp [hj]

theorem TableLoad.one (h : TableLoad load cache now) {s : State} (hs : soundMem s) (i j : Nat) :
    cache (load s i) j = if j = i then now s j else cache s j := by
  rw [h.cached s i j hs]
  by_cases hj : j = i
  · rw [if_pos hj, if_pos hj, hj]
  · rw [if_neg hj, if_neg hj]

/-- From an empty cache, every entry in use takes effect as it stands, where no other has an effect. -/
theorem TableLoad.all (h : TableLoad load cache now) {s t : State} (hs : soundMem s) (hread : s.TableRead t)
    (hempty : ∀ j, cache t j = []) (used : List Nat) :
    s.TableRead (Machine.forEach load t used) ∧
      ((∀ j, j ∉ used → now s j = []) → ∀ j, cache (Machine.forEach load t used) j = now s j) := by
  obtain ⟨hread', hcache⟩ := h.forEach (hread.sound hs) used
  refine ⟨hread.trans hread', fun hunused j => (hcache j).trans ?_⟩
  split
  · exact h.now_of_read _ _ _ hread
  · next hj => rw [hempty, hunused j hj]

/-- An invalidation of one entry, or of all of them (bit 31), of a table whose entries in use are `used`. -/
theorem TableLoad.invalidated (h : TableLoad load cache now) {s t : State} (hs : soundMem s) {v : Word} {i : Nat}
    {used : List Nat} (hunused : s.lost = [] → ∀ j, j ∉ used → now s j = [])
    (hone : bitAt v 31 = false → t = { load s i with tables := t.tables } ∧ ∀ j, cache t j = cache (load s i) j)
    (hall : bitAt v 31 = true →
      ∃ x, (∀ j, cache { s with tables := x } j = []) ∧ t = Machine.forEach load { s with tables := x } used) :
    s.TableRead t
      ∧ (bitAt v 31 = false → ∀ j, cache t j = if j = i then now s j else cache s j)
      ∧ (bitAt v 31 = true → s.lost = [] → ∀ j, cache t j = now s j) := by
  cases hv : bitAt v 31 with
  | false =>
    obtain ⟨hstate, hcache⟩ := hone hv
    refine ⟨?_, fun _ j => (hcache j).trans (h.one hs i j), nofun⟩
    rw [hstate]
    exact (h.read s i hs).withTables _
  | true =>
    obtain ⟨x, hempty, rfl⟩ := hall hv
    obtain ⟨hread, hcache⟩ := h.all hs ((State.TableRead.refl s).withTables x) hempty used
    exact ⟨hread, nofun, fun _ hlost => hcache (hunused hlost)⟩

end

/-- A node entry, and an update entry, as its table holds it. -/
def State.nodeInTable (s : State) (i : Nat) : List Word := entryNow s (decide (i < s.ntSize)) (s.nodeAddr i) 16

def State.updInTable (s : State) (i : Nat) : List Word := entryNow s (decide (i < s.utSize)) (s.updAddr i) 32

def State.nodeCached (s : State) (i : Nat) : List Word := Sparse.get (fun _ => []) s.tables.nodeCache i

def State.updCached (s : State) (i : Nat) : List Word := Sparse.get (fun _ => []) s.tables.updCache i

theorem State.TableRead.tbl {s t : State} (h : s.TableRead t) (x : Nat) : t.reg (offTbl + x) = s.reg (offTbl + x) :=
  h.2 _ (by unfold offTbl; omega)

theorem tableLoad_node : TableLoad State.loadNode State.nodeCached State.nodeInTable where
  read s i hs := by
    rw [State.loadNode_eq]
    exact (State.loadEntry_spec hs _ _ _ _ _).1
  cached s i j hs := by
    rw [State.loadNode_eq]
    exact State.loadEntry_cached (cached := fun x j => Sparse.get (fun _ => []) x.nodeCache j) hs
      (fun x e j => Sparse.get_set _ _ _ _ _) _ _ _ _
  now_of_read s t i h := by
    unfold State.nodeInTable State.nodeAddr State.ntBase State.ntSize State.tblBase
    rw [h.tbl, h.tbl, h.entryNow]

theorem tableLoad_upd : TableLoad State.loadUpd State.updCached State.updInTable where
  read s i hs := by
    rw [State.loadUpd_eq]
    exact (State.loadEntry_spec hs _ _ _ _ _).1
  cached s i j hs := by
    rw [State.loadUpd_eq]
    exact State.loadEntry_cached (cached := fun x j => Sparse.get (fun _ => []) x.updCache j) hs
      (fun x e j => Sparse.get_set _ _ _ _ _) _ _ _ _
  now_of_read s t i h := by
    unfold State.updInTable State.updAddr State.utBase State.utSize State.tblBase
    rw [h.tbl, h.tbl, h.entryNow]

/-! ## Completion -/

theorem State.invalidate_nt {s : State} (h : soundMem s) (v : Word) :
    s.TableRead (s.invalidate .nt v)
      ∧ (bitAt v 31 = false → ∀ i, (s.invalidate .nt v).nodeCached i =
          if i = fld v 0 20 then s.nodeInTable i else s.nodeCached i)
      ∧ (bitAt v 31 = true → s.lost = [] → ∀ i, (s.invalidate .nt v).nodeCached i = s.nodeInTable i) := by
  refine tableLoad_node.invalidated (used := s.usedEntries s.ntBase 128 s.ntSize) h
    (fun hlost i hi => entryNow_of_unused (by omega) hlost hi) (fun hv => ?_) (fun hv => ?_)
  · have hstate : s.invalidate .nt v = { s.loadNode (fld v 0 20) with tables := (s.invalidate .nt v).tables } := by
      simp only [State.invalidate, hv, Bool.false_eq_true, if_false]
    refine ⟨hstate, fun i => ?_⟩
    simp only [State.invalidate, hv, Bool.false_eq_true, if_false]
    rfl
  · simp only [State.invalidate, hv, if_true]
    exact ⟨_, fun i => rfl, rfl⟩

theorem State.invalidate_ut {s : State} (h : soundMem s) (v : Word) :
    s.TableRead (s.invalidate .ut v)
      ∧ (bitAt v 31 = false → ∀ i, (s.invalidate .ut v).updCached i =
          if i = fld v 0 16 then s.updInTable i else s.updCached i)
      ∧ (bitAt v 31 = true → s.lost = [] → ∀ i, (s.invalidate .ut v).updCached i = s.updInTable i) := by
  refine tableLoad_upd.invalidated (used := s.usedEntries s.utBase 256 s.utSize) h
    (fun hlost i hi => entryNow_of_unused (by omega) hlost hi) (fun hv => ?_) (fun hv => ?_)
  · have hstate : s.invalidate .ut v = { s.loadUpd (fld v 0 16) with tables := (s.invalidate .ut v).tables } := by
      simp only [State.invalidate, hv, Bool.false_eq_true, if_false]
    refine ⟨hstate, fun i => ?_⟩
    simp only [State.invalidate, hv, Bool.false_eq_true, if_false]
    rfl
  · simp only [State.invalidate, hv, if_true]
    exact ⟨_, fun i => rfl, rfl⟩

end Sys2Proof.Machine

open Sys2Proof Sys2Proof.Machine Sys2Proof.Claims

/-- Settles O37: a write joins its queue; a completion forgets the window or the map entries named, and takes the node or update
entries named, or all of a table in use, as they stand there. -/
theorem invalidations : Obligations.Invalidations := by
  unfold Obligations.Invalidations
  intro s v
  refine ⟨?_, fun k hk => ?_, fun rest h => ?_, fun rest h => ?_, fun rest h hs => ?_, fun rest h hs => ?_⟩
  · intro x hx
    simp only [List.mem_cons, List.not_mem_nil, or_false] at hx
    rcases hx with rfl | rfl | rfl | rfl
    · exact next_writeInv (k := .wt) rfl
    · exact next_writeInv (k := .famap) rfl
    · exact next_writeInv (k := .nt) rfl
    · exact next_writeInv (k := .ut) rfl
  · show execInvalidationComplete k s = _
    rw [execInvalidationComplete, hk]
  · refine ⟨_, exec_invalidationComplete h nofun, ?_, fun hr => ?_, fun unit ctx hc => ?_, rfl⟩
    · rw [State.invWaiting_setInv, if_pos rfl]
    · exact (State.busy_setInv _ .wt _).trans (by rw [hr]; rfl)
    · show Sparse.get _ (Sparse.forget (fun x => x % 64 == fld v 0 6) s.wcache) _ = _
      simp only [Sparse.get_forget, show (unit * 64 + ctx) % 64 = ctx by omega, beq_iff_eq]
  · refine ⟨_, exec_invalidationComplete h nofun, ?_, fun die i hi => ?_, rfl⟩
    · rw [State.invWaiting_setInv, if_pos rfl]
    · show Sparse.get _ (Sparse.forget (fun x => bitAt v 31 || x % 2 ^ 25 == fld v 0 25) s.fcache) _ = _
      simp only [Sparse.get_forget, show (2 ^ 25 * die + i) % 2 ^ 25 = i by omega, Bool.or_eq_true, beq_iff_eq]
  · obtain ⟨hread, hone, hall⟩ := State.invalidate_nt hs v
    refine ⟨_, exec_invalidationComplete_nt h, ?_, ?_, ?_, ?_⟩
    · rw [State.reidle_eq]
      exact (State.invWaiting_setInv _ _ _ _).trans (if_pos rfl)
    · rw [State.reidle_eq]
      exact hone
    · rw [State.reidle_eq]
      exact hall
    · rw [State.reidle_eq, State.setInv_eq, hread.1]
  · obtain ⟨hread, hone, hall⟩ := State.invalidate_ut hs v
    refine ⟨_, exec_invalidationComplete h nofun, ?_, hone, hall, ?_⟩
    · rw [State.invWaiting_setInv, if_pos rfl]
    · rw [State.setInv_eq, hread.1]

end

section
/-! # Writes of the keeper's error registers, reset requests and spool-file writes (O38)

The ring's window and its pointers (R390), the resets that a register asks for (R404, R415), and the fixed-size writes of the
spool file (R164). Set-up events are reported from SOURCE 0x650 (log 27). -/
namespace Sys2Proof.Machine
open Sys2Proof.Claims

/-! ## The keeper's registers over a report -/

theorem State.countReports_kreg {s : State} (h : soundMem s) (x n l : Nat) {o : Nat} (ho : o ≠ 0x20) :
    (s.countReports x n l).kreg o = s.kreg o := by
  have hs (u : State) (hu : u = if l = 0 then s else s.setKreg 0x20 (satAdd32 (s.kreg 0x20) l)) :
      soundMem u ∧ u.kreg o = s.kreg o := by
    subst hu
    split
    · exact ⟨h, rfl⟩
    · exact ⟨h, (State.kreg_setKreg _ _ _ _).trans (if_neg ho)⟩
  have hput (u : State) : (u.srcPut x n l).keeper = u.keeper := by
    unfold State.srcPut
    simp only []
    split <;> simp
  obtain ⟨hu, he⟩ := hs _ rfl
  unfold State.countReports State.countBy
  simp only []
  generalize (if l = 0 then s else s.setKreg 0x20 (satAdd32 (s.kreg 0x20) l)) = u at hu he ⊢
  split
  · rw [State.srcAdd, State.crcCheckBy_of_sound _ hu, State.kreg_congr (hput u), he]
  · rw [State.kreg_congr (State.setLatch_keeper ..), he]

/-- Without a block in error, a report changes no register of the keeper but ERR_LOST. -/
theorem State.report_kreg {s : State} (h : soundMem s) (src cls cause : Nat) (ctx : Option Nat) (unit : Nat) (d : List Word)
    {o : Nat} (ho : o ≠ 0x20) : (s.report src cls cause ctx unit d).kreg o = s.kreg o := by
  have hl (l : Latch) : soundMem (s.setLatch src l) := h
  unfold State.report State.latchReport State.latchBy
  simp only []
  split <;> exact State.countReports_kreg (hl _) _ _ _ ho

/-! ## ERR_BASE -/

section
variable {s : State} {v : Word}

theorem State.writeErrBase_locked (h : bitAt (s.kreg 0x30) 0 = true) (src : Nat) :
    s.writeErrBase src v = s.integrity src 8 none 0xFFFF 0x10 v 0 := by
  rw [State.writeErrBase, if_pos h, State.lockedWrite]

/-- The registers of a ring armed afresh. -/
def State.armed (s : State) (v : Word) : State :=
  (((s.setKreg 0x10 (v &&& 0xFFFFFFF)).setKreg 0x14 0).setKreg 0x18 0).setKreg 0x1C 0

theorem State.errBase_armed : (s.armed v).errBase = 2 ^ 16 * (v.toNat % 2 ^ 28) := by
  have h10 : (s.armed v).kreg 0x10 = v &&& 0xFFFFFFF := by
    simp [State.armed, State.kreg_setKreg]
  have hmask : (v &&& 0xFFFFFFF).toNat = v.toNat % 2 ^ 28 := by
    rw [BitVec.toNat_and]
    exact Nat.and_two_pow_sub_one_eq_mod _ 28
  rw [State.errBase, h10, fld, bitsOf, hmask, Nat.shiftRight_zero, Nat.mod_mod]

theorem State.writeErrBase_unlocked (h : bitAt (s.kreg 0x30) 0 = false) (src : Nat) :
    s.writeErrBase src v = (s.armed v).zeroBlocks (0x40000 + 2 ^ 16 * (v.toNat % 2 ^ 28)) 0x10000 := by
  rw [State.writeErrBase, if_neg (by rw [h]; exact Bool.false_ne_true), ← State.errBase_armed (s := s)]
  rfl

theorem State.kreg_armed (o : Nat) : (s.armed v).kreg o =
    if o = 0x10 then v &&& 0xFFFFFFF else if o ∈ [0x14, 0x18, 0x1C] then 0 else s.kreg o := by
  simp only [State.armed, State.kreg_setKreg, List.mem_cons, List.not_mem_nil, or_false]
  split_ifs <;> simp_all

theorem State.kreg_zeroBlocks (s : State) (a n o : Nat) : (s.zeroBlocks a n).kreg o = s.kreg o := rfl

theorem State.armed_eq (s : State) (v : Word) : ∃ k, s.armed v = { s with keeper := k } := by
  unfold State.armed State.setKreg
  exact ⟨_, rfl⟩

/-- A byte outside a range zeroed, of the boot ROM or not. -/
theorem State.byte_zeroBlocks_outside (s : State) {a n z : Nat} (hz : z < a ∨ a + n ≤ z) :
    (s.zeroBlocks a n).byte z = s.byte z := by
  cases hrom : isRom z with
  | true => exact State.byte_rom _ _ hrom
  | false => rw [State.byte_zeroBlocks _ _ _ hrom, if_neg (by omega)]

theorem State.poisoned_zeroBlocks_eq (s : State) (a n z : Nat) :
    (s.zeroBlocks a n).poisoned z = if a ≤ z ∧ z + 64 ≤ a + n then false else s.poisoned z := by
  simp only [State.poisoned, State.zeroBlocks, State.freshen, State.zeroMem, Sparse.get_forget, Bool.and_eq_true,
    decide_eq_true_eq]

theorem State.zeroBlocks_eq (h : soundMem s) (a n : Nat) :
    s.zeroBlocks a n = { s with
      mem := (s.zeroBlocks a n).mem, lost := (s.zeroBlocks a n).lost, poison := (s.zeroBlocks a n).poison } :=
  State.zeroBlocks_onlyPlaced h a n

/-- The ring armed afresh, its source table zeroed from `0x40000 + b`. -/
theorem State.rearmed_spec (h : soundMem s) {b : Nat} (hb : b % 64 = 0) : let t := (s.armed v).zeroBlocks (0x40000 + b) 0x10000
    t.kreg 0x10 = v &&& 0xFFFFFFF ∧ t.kreg 0x14 = 0 ∧ t.kreg 0x18 = 0 ∧ t.kreg 0x1C = 0
      ∧ (∀ o, o ∉ [0x10, 0x14, 0x18, 0x1C] → t.kreg o = s.kreg o)
      ∧ ((∀ z, 0x40000 + b ≤ z → z < 0x50000 + b → isRom z = false → t.byte z = 0)
        ∧ (∀ z, z < 0x40000 + b ∨ 0x50000 + b ≤ z → t.byte z = s.byte z)
        ∧ (∀ z, z < 0x40000 + b ∨ 0x50000 + b ≤ z → z % 64 = 0 → t.poisoned z = s.poisoned z)
        ∧ ∀ z, 0x40000 + b ≤ z → z < 0x50000 + b → z % 64 = 0 → t.poisoned z = false)
      ∧ t = { s with keeper := t.keeper, mem := t.mem, lost := t.lost, poison := t.poison } := by
  obtain ⟨k, hk⟩ := State.armed_eq s v
  have hkreg (o : Nat) : (({ s with keeper := k } : State).zeroBlocks (0x40000 + b) 0x10000).kreg o =
      if o = 0x10 then v &&& 0xFFFFFFF else if o ∈ [0x14, 0x18, 0x1C] then 0 else s.kreg o := by
    rw [State.kreg_zeroBlocks, ← hk, State.kreg_armed]
  rw [hk]
  refine ⟨(hkreg _).trans rfl, (hkreg _).trans rfl, (hkreg _).trans rfl, (hkreg _).trans rfl, fun o ho => ?_,
    ⟨fun z hz hz' hrom => ?_, fun z hz => ?_, fun z hz _ => ?_, fun z hz hz' hal => ?_⟩, ?_⟩
  · rw [List.mem_cons, not_or] at ho
    rw [hkreg, if_neg ho.1, if_neg ho.2]
  · rw [State.byte_zeroBlocks _ _ _ hrom, if_pos (by omega)]
  · rw [State.byte_zeroBlocks_outside _ (by omega)]
    exact State.byte_congr rfl rfl z
  · rw [State.poisoned_zeroBlocks_eq, if_neg (by omega)]
    rfl
  · rw [State.poisoned_zeroBlocks_eq, if_pos (by omega)]
  · exact State.zeroBlocks_eq (s := { s with keeper := k }) h _ _

end

/-! ## Requests for resets -/

section
variable {s : State} {p : Nat}

theorem State.askPart_absent (h : s.partAbsent p = true) : s.askPart p = s := by
  rw [State.askPart, h, Bool.true_or, if_pos rfl]

/-- A partition that is present is among those to be reset. -/
theorem State.mem_parts_askPart (h : s.partAbsent p = false) : p ∈ (s.askPart p).resets.parts := by
  rw [State.askPart, h, Bool.false_or]
  split
  · next hc => simpa using hc
  · exact List.mem_append_right _ (List.mem_singleton_self p)

theorem State.askPart_eq (s : State) (p : Nat) :
    s.askPart p = { s with resets := { s.resets with parts := (s.askPart p).resets.parts } } := by
  rw [State.askPart]
  split <;> rfl

theorem exec_partCtrlReset (s : State) (p : Nat) :
    exec (.partCtrlReset p) s = if p < 8 then .next (s.askPart p) else .next s := rfl

theorem exec_resetCtrlChip (s : State) : exec .resetCtrlChip s = .next (s.askChip .resetCtrl) := rfl

end

/-! ## Writes of the spool file -/

section
variable {s : State} {n : Nat} {bs : List Byte} (hn : n < 16384) (hpart : s.partAbsent (n / 2048) = false)
  (hpos : 0 < bs.length) (hlen : bs.length ≤ 8)
include hn hpart hpos hlen

/-- A write within a counter of a present partition is a write of the spool file. -/
theorem exec_spoolFileWrite : exec (.spoolFileWrite (0x30000000000 + 8 * n) bs) s =
    .next (s.spoolWrite 0x650 (some 0) (0x30000000000 + 8 * n) bs) := by
  have hspool (z : Nat) (hz : z < 8) : isSpool (0x30000000000 + 8 * n + z) = true := by
    simp only [isSpool, Bool.and_eq_true, decide_eq_true_eq]
    omega
  have hfirst : isSpool (0x30000000000 + 8 * n) = true := hspool 0 (by omega)
  have hlast : isSpool (0x30000000000 + 8 * n + bs.length - 1) = true := by
    rw [Nat.add_sub_assoc hpos]
    exact hspool _ (by omega)
  have hnot : isDram (0x30000000000 + 8 * n) = false ∧ isSram (0x30000000000 + 8 * n) = false
      ∧ isWb (0x30000000000 + 8 * n) = false := by
    simp only [isDram, isSram, isWb, Bool.and_eq_false_iff, decide_eq_false_iff_not]
    omega
  have hpop : s.populated (0x30000000000 + 8 * n) = true := by
    obtain ⟨hdram, hsram, hwb⟩ := hnot
    have hid : (0x30000000000 + 8 * n - spoolBase) / 8 / 2048 = n / 2048 := by
      unfold spoolBase
      omega
    simp only [State.populated, hdram, hsram, hwb, Bool.false_eq_true, if_false, hfirst, if_true, hid, hpart, Bool.not_false]
  have hin : (!isSpool (0x30000000000 + 8 * n) || bs.length = 0 || !(bs.length ≤ 8)
      || !isSpool (0x30000000000 + 8 * n + bs.length - 1)) = false := by
    simp [hfirst, hlast, hlen, Nat.ne_of_gt hpos]
  show execSpoolFileWrite _ _ _ = _
  rw [execSpoolFileWrite, hin, hpop]
  rfl

end

end Sys2Proof.Machine

open Sys2Proof Sys2Proof.Machine Sys2Proof.Claims

/-- Settles O38: each write by what its register or counter does with it. -/
theorem keeperAndSpoolWrites : Obligations.KeeperAndSpoolWrites := by
  unfold Obligations.KeeperAndSpoolWrites
  intro s v p n bs
  refine ⟨fun h hs => ?_, fun h hs => ?_, fun h => ?_, fun h => ?_, ?_, fun hp h => ?_, fun h => ?_, fun h => ?_, fun h => ?_,
    fun hn h hlen => ?_, fun hn h hpos hlen => ?_⟩
  · refine ⟨_, congrArg Host.Outcome.next (State.writeErrBase_unlocked h 0x650), ?_⟩
    exact State.rearmed_spec hs (by omega)
  · refine ⟨_, congrArg Host.Outcome.next (State.writeErrBase_locked h 0x650), ?_⟩
    exact ⟨State.report_kreg hs _ _ _ _ _ _ (by decide), State.report_kreg hs _ _ _ _ _ _ (by decide),
      State.report_kreg hs _ _ _ _ _ _ (by decide), State.report_setup hs _ _ _ _ _ _⟩
  · have hex : exec (.errRdWrite v) s = .next (s.setKreg 0x18 v) := congrArg Host.Outcome.next (if_neg (Nat.not_lt.mpr h))
    exact ⟨_, hex, State.kreg_setKreg_same _ _ _, fun o ho => (State.kreg_setKreg _ _ _ _).trans (if_neg ho), rfl⟩
  · exact congrArg Host.Outcome.next (if_pos h)
  · have hex : exec .errFatalClear s = .next (s.setKreg 0x1C 0) := rfl
    exact ⟨_, hex, State.kreg_setKreg_same _ _ _, fun o ho => (State.kreg_setKreg _ _ _ _).trans (if_neg ho), rfl⟩
  · exact ⟨_, (exec_partCtrlReset s p).trans (if_pos hp), State.mem_parts_askPart h, State.askPart_eq s p⟩
  · rw [exec_partCtrlReset, State.askPart_absent h, ite_self]
  · refine ⟨_, exec_resetCtrlChip s, ?_⟩
    rw [State.askChip, h]
  · obtain ⟨r, hr⟩ := Option.ne_none_iff_exists'.mp h
    rw [exec_resetCtrlChip, State.askChip, hr]
  · have hid : (0x30000000000 + 8 * n - spoolBase) / 8 = n := by
      unfold spoolBase
      omega
    have hwrite : s.spoolWrite 0x650 (some 0) (0x30000000000 + 8 * n) bs = s.spoolSet n (natLE bs) := by
      rw [State.spoolWrite, if_pos ⟨hlen, by omega⟩, hid]
    refine ⟨_, (exec_spoolFileWrite hn h (by omega) (by omega)).trans (congrArg Host.Outcome.next hwrite),
      State.toNat_spoolVal_spoolSet s n _, fun m hm => ?_, ?_, rfl⟩
    · exact (State.spoolVal_spoolChange _ _ _ _).trans (if_neg hm)
    · exact (State.changes_spoolChange _ _ _ _).trans (if_pos rfl)
  · have hwrite : s.spoolWrite 0x650 (some 0) (0x30000000000 + 8 * n) bs =
        s.refusal 0x650 6 (some 0) (addrWords (0x30000000000 + 8 * n)) := by
      rw [State.spoolWrite, if_neg (by omega)]
    have hframe := State.report_frame s 0x650 7 6 (some 0) (sourceUnit 0x650) (addrWords (0x30000000000 + 8 * n))
    exact ⟨_, (exec_spoolFileWrite hn h hpos (by omega)).trans (congrArg Host.Outcome.next hwrite), hframe.spool, hframe.cores,
      State.report_latched (by decide) _ _ _ _ _ _⟩

end

section
/-! # Sleep, scrubbing and retraining (O42)

A sleeping partition loses the local SRAM and the wide buffers of its cores (R407, R408). A scrub read is the check of one block
(R172), of which there are three: nothing is wrong, a re-read matches, or none does. The scrub's ascending order, its pointer and
its pause in self-refresh are log 80. -/
namespace Sys2Proof.Machine
open Sys2Proof.Claims

/-! ## Ranges of memory lost -/

/-- What holds wherever `x` has been served, and stays whatever else is, holds once a list with `x` has been. -/
theorem forEach_reaches {α σ : Type} {P : σ → Prop} {f : σ → α → σ} (hkeep : ∀ u y, P u → P (f u y)) {x : α}
    (hx : ∀ u, P (f u x)) {xs : List α} (h : x ∈ xs) (s : σ) : P (forEach f s xs) := by
  induction xs generalizing s with
  | nil => cases h
  | cons y ys ih =>
    rcases List.mem_cons.mp h with rfl | hin
    · exact forEach_keeps hkeep (hx s) ys
    · exact ih hin _

theorem State.byte_loseMem_outside (s : State) {a n z : Nat} (hz : z < a ∨ a + n ≤ z) : (s.loseMem a n).byte z = s.byte z := by
  have hout : ¬ (a ≤ z ∧ z < a + n) := by omega
  rw [State.byte_eq, State.byte_eq]
  simp only [State.loseMem, State.zeroMem, lostAt_append, lostAt_flatMap_cutLost, lostAt_singleton, if_neg hout,
    Option.or_none, Sparse.get_forget, Bool.and_eq_true, decide_eq_true_eq]

theorem State.mem_lost_loseMem (s : State) (a n : Nat) : (a, n, s.freeCtr) ∈ (s.loseMem a n).lost :=
  List.mem_append_right _ (List.mem_singleton_self _)

/-- A range lost stays lost while others are. -/
theorem State.lost_loseMem_other {s : State} {b m k : Nat} (h : (b, m, k) ∈ s.lost) {a n : Nat}
    (hr : b + m ≤ a ∨ a + n ≤ b) : (b, m, k) ∈ (s.loseMem a n).lost := by
  have hcut : cutLost a n (b, m, k) = [(b, m, k)] := if_neg fun hc => by
    obtain ⟨-, hlo, hhi⟩ := hc
    simp only [] at hlo hhi
    omega
  exact List.mem_append_left _ (List.mem_flatMap.mpr ⟨_, h, hcut ▸ List.mem_singleton_self _⟩)

/-! ## A core's memory lost -/

/-- What one core loses when its partition sleeps. -/
def State.loseCore (s : State) (c : Nat) : State :=
  ((s.loseMem (sramBase c) 0x60000).loseMem (wbBase c) 0x10000).modCore c fun x =>
    { x with cache := [], captures := [none, none] }

theorem State.loseCores_eq (s : State) (p : Nat) :
    s.loseCores p = forEach State.loseCore s ((List.range 192).map fun i => 192 * p + i) := rfl

/-- The core's local SRAM is lost, and its cache part empty. -/
def State.CoreLost (c : Nat) (s : State) : Prop :=
  (∃ k, (sramBase c, 0x60000, k) ∈ s.lost) ∧ (s.core c).cache = []

theorem State.coreLost_loseCore {c : Nat} (hc : c < 1536) (s : State) : (s.loseCore c).CoreLost c := by
  refine ⟨⟨s.freeCtr, ?_⟩, ?_⟩
  · refine State.lost_loseMem_other (s.mem_lost_loseMem (sramBase c) 0x60000) (.inl ?_)
    unfold sramBase wbBase
    omega
  · rw [State.loseCore, State.core_modCore, if_pos rfl]

theorem State.CoreLost.loseCore {c : Nat} {s : State} (h : s.CoreLost c) (hc : c < 1536) (d : Nat) : (s.loseCore d).CoreLost c := by
  by_cases hd : d = c
  · rw [hd]
    exact State.coreLost_loseCore hc s
  · obtain ⟨⟨k, hk⟩, hcache⟩ := h
    refine ⟨⟨k, ?_⟩, ?_⟩
    · refine State.lost_loseMem_other (State.lost_loseMem_other hk ?_) (.inl ?_)
      · unfold sramBase
        omega
      · unfold sramBase wbBase
        omega
    · rw [State.loseCore, State.core_modCore, if_neg (Ne.symm hd)]
      exact hcache

/-- Neither DRAM nor anything but the cores and their memory changes. -/
def State.DramKept (s t : State) : Prop :=
  (∀ z, isDram z = true → t.byte z = s.byte z)
    ∧ t = { s with freeCtr := t.freeCtr, mem := t.mem, lost := t.lost, cores := t.cores }

theorem State.DramKept.loseCore {s t : State} (h : s.DramKept t) (c : Nat) : s.DramKept (t.loseCore c) := by
  obtain ⟨hbyte, heq⟩ := h
  refine ⟨fun z hz => ?_, ?_⟩
  · have hlt := of_decide_eq_true hz
    have hcore : (t.loseCore c).byte z = ((t.loseMem (sramBase c) 0x60000).loseMem (wbBase c) 0x10000).byte z :=
      State.byte_congr rfl rfl z
    rw [hcore, State.byte_loseMem_outside, State.byte_loseMem_outside, hbyte z hz]
    · unfold sramBase
      omega
    · unfold wbBase
      omega
  · unfold State.loseCore
    rw [heq]
    rfl

theorem State.loseCores_dramKept (s : State) (p : Nat) : s.DramKept (s.loseCores p) :=
  forEach_keeps (fun _ c h => h.loseCore c) ⟨fun _ _ => rfl, rfl⟩ _

theorem State.loseCores_coreLost (s : State) {p c : Nat} (hp : p < 8) (hc : c / 192 = p) : (s.loseCores p).CoreLost c := by
  have hlt : c < 1536 := by omega
  refine forEach_reaches (fun _ d h => h.loseCore hlt d) (State.coreLost_loseCore hlt) ?_ s
  exact List.mem_map.mpr ⟨c % 192, List.mem_range.mpr (Nat.mod_lt _ (by omega)), by omega⟩

/-! ## PARTITION_SLEEP and PARTITION_WAKE -/

section
variable {s : State} {p : Nat}

theorem exec_partitionSleep (s : State) (p : Nat) : exec (.partitionSleep p) s =
    if p < 8 ∧ s.partAbsent p = false ∧ (s.part p).asleep = false ∧ bitAt (s.reg 0x1600030) 31 = true ∧ s.partIdle p = true
        ∧ fld (s.reg 0x1600030) 0 31 ≤ (s.lcount - (s.part p).idleSince).toNat then
      .next ((s.loseCores p).setPart p fun x => { x with asleep := true })
    else .next s := rfl

theorem next_partitionSleep (hp : p < 8) (hpresent : s.partAbsent p = false) (hawake : (s.part p).asleep = false)
    (hen : bitAt (s.reg 0x1600030) 31 = true) (hidle : s.partIdle p = true)
    (hlong : fld (s.reg 0x1600030) 0 31 ≤ (s.lcount - (s.part p).idleSince).toNat) :
    Next (.partitionSleep p) s fun t =>
      (t.part p).asleep = true ∧ (∀ q, q ≠ p → t.part q = s.part q)
        ∧ (∀ c, c / 192 = p → (∃ k, (0x20000000000 + 0x80000 * c, 0x60000, k) ∈ t.lost) ∧ (t.core c).cache = [])
        ∧ (∀ z, isDram z = true → t.byte z = s.byte z) ∧ t.setup = s.setup ∧ t.spool = s.spool := by
  have hex := (exec_partitionSleep s p).trans (if_pos ⟨hp, hpresent, hawake, hen, hidle, hlong⟩)
  obtain ⟨hdram, heq⟩ := s.loseCores_dramKept p
  have hlost (c : Nat) (hc : c / 192 = p) := s.loseCores_coreLost hp hc
  generalize s.loseCores p = u at hex hdram heq hlost
  have hpart (q : Nat) : u.part q = s.part q := by
    rw [heq]
    rfl
  refine ⟨_, hex, ?_, fun q hq => ?_, fun c hc => ?_, fun z hz => ?_, ?_, ?_⟩
  · rw [State.part_setPart, if_pos rfl]
  · rw [State.part_setPart, if_neg hq, hpart]
  · rw [State.setPart_lost, State.core_congr (State.setPart_cores ..)]
    exact hlost c hc
  · exact (State.byte_congr (State.setPart_mem ..) (State.setPart_lost ..) z).trans (hdram z hz)
  · rw [State.setPart_setup, heq]
  · rw [State.setPart_spool, heq]

theorem exec_partitionSleep_off (h : bitAt (s.reg 0x1600030) 31 = false) : exec (.partitionSleep p) s = .next s :=
  (exec_partitionSleep s p).trans <| if_neg fun hc => by
    obtain ⟨-, -, -, hen, -⟩ := hc
    exact absurd (hen.symm.trans h) (by decide)

theorem exec_partitionSleep_early (h : (s.lcount - (s.part p).idleSince).toNat < fld (s.reg 0x1600030) 0 31) :
    exec (.partitionSleep p) s = .next s :=
  (exec_partitionSleep s p).trans <| if_neg fun hc => by
    obtain ⟨-, -, -, -, -, hlong⟩ := hc
    exact absurd hlong (Nat.not_le.mpr h)

theorem next_partitionWake (hp : p < 8) (hasleep : (s.part p).asleep = true) :
    Next (.partitionWake p) s fun t =>
      (t.part p).asleep = false ∧ (∀ q, q ≠ p → t.part q = s.part q) ∧ t = { s with power := t.power } := by
  refine ⟨_, if_pos ⟨hp, hasleep⟩, ?_, fun q hq => ?_, rfl⟩
  · rw [State.part_setPart, if_pos rfl]
  · rw [State.part_setPart, if_neg hq]

end

/-! ## The blocks of a controller -/

/-- A controller serves whole blocks (R167). -/
theorem State.mcOf_block (s : State) (a : Nat) : s.mcOf (a / 64 * 64) = s.mcOf a := by
  have hlp : isLp (a / 64 * 64) = isLp a := by
    simp only [isLp, decide_eq_decide]
    omega
  have hbonded : isBonded (a / 64 * 64) = isBonded a := by
    have hlo : 0x10000000000 ≤ a / 64 * 64 ↔ 0x10000000000 ≤ a := by omega
    have hhi : a / 64 * 64 < 0x10800000000 ↔ a < 0x10800000000 := by omega
    simp only [isBonded, hlo, hhi]
  unfold State.mcOf
  rw [hlp, hbonded]
  split
  · have hdie : a / 64 * 64 / 2 ^ 39 = a / 2 ^ 39 := by omega
    have hgran : a / 64 * 64 % 2 ^ 39 / 256 = a % 2 ^ 39 / 256 := by omega
    have hhole (l : Nat) : 2 ^ 33 * l ≤ a / 64 * 64 % 2 ^ 39 ↔ 2 ^ 33 * l ≤ a % 2 ^ 39 := by omega
    simp only [hdie, hgran, hhole]
  · split
    · next hb =>
      have hbase : 0x10000000000 ≤ a := by simpa [isBonded] using (Bool.and_eq_true_iff.mp hb).1
      have hdie : (a / 64 * 64 - 0x10000000000) / 2 ^ 34 = (a - 0x10000000000) / 2 ^ 34 := by omega
      have hgran : (a / 64 * 64 - 0x10000000000) % 2 ^ 34 / 256 = (a - 0x10000000000) % 2 ^ 34 / 256 := by omega
      have hhole (l : Nat) : 2 ^ 31 * l ≤ (a / 64 * 64 - 0x10000000000) % 2 ^ 34 ↔
          2 ^ 31 * l ≤ (a - 0x10000000000) % 2 ^ 34 := by omega
      simp only [hdie, hgran, hhole]
    · rfl

theorem State.mcOf_nextBlock {s : State} {mc a b : Nat} (h : s.nextBlock mc a = some b) : s.mcOf b = some mc := by
  unfold State.nextBlock at h
  split at h
  · next hmc =>
    obtain rfl := Option.some.inj h
    rwa [State.mcOf_block]
  · exact beq_iff_eq.mp (List.find?_some (p := fun g => s.mcOf g == some mc) h)

theorem State.nextBlock_of_regs {s t : State} (h : ∀ o, 0x1300000 ≤ o → t.reg o = s.reg o) (mc a : Nat) :
    t.nextBlock mc a = s.nextBlock mc a := by
  unfold State.nextBlock
  simp only [State.mcOf_of_regs h]

/-! ## Reports while no block is in error -/

/-- No block of DRAM is in error. -/
def State.Intact (s : State) : Prop :=
  ∀ z, Sparse.get (fun _ => 0) s.defects z = 0 ∧ Sparse.get (fun _ => 0) s.crcOff z = 0

/-- No other block of DRAM is in error. -/
def State.IntactBut (s : State) (b : Nat) : Prop :=
  ∀ z, z ≠ b → Sparse.get (fun _ => 0) s.defects z = 0 ∧ Sparse.get (fun _ => 0) s.crcOff z = 0

theorem State.Intact.crcCheckBy {s : State} (h : s.Intact) (add : State → Nat → Nat → Nat → State) (b : Nat) :
    State.crcCheckBy add s b = s := if_pos (h b)

/-- A report is counted: registers of the keeper, memory and counts of the recorder differ, no report that a source holds. -/
def State.OnlyRecorder (s t : State) : Prop :=
  t = { s with keeper := t.keeper, mem := t.mem, lost := t.lost, err := t.err } ∧ ∀ src, State.SameReports src s t

theorem State.OnlyRecorder.trans {s t u : State} (h : s.OnlyRecorder t) (h' : t.OnlyRecorder u) : s.OnlyRecorder u :=
  ⟨by rw [h'.1, h.1], fun src => (h.2 src).trans (h'.2 src)⟩

theorem State.putWord_onlyRecorder (s : State) (a : Nat) (w : Word) : s.OnlyRecorder (s.putWord a w) :=
  ⟨rfl, fun _ => .of_err rfl⟩

theorem State.srcPut_onlyRecorder (s : State) (x n l : Nat) : s.OnlyRecorder (s.srcPut x n l) := by
  unfold State.srcPut
  simp only []
  split
  · exact State.putWord_onlyRecorder _ _ _
  · exact ((State.putWord_onlyRecorder _ _ _).trans (State.putWord_onlyRecorder _ _ _)).trans (State.putWord_onlyRecorder _ _ _)

theorem State.countReports_onlyRecorder {s : State} (h : s.Intact) (x n l : Nat) : s.OnlyRecorder (s.countReports x n l) := by
  have hs (u : State) (hu : u = if l = 0 then s else s.setKreg 0x20 (satAdd32 (s.kreg 0x20) l)) :
      u.Intact ∧ s.OnlyRecorder u := by
    subst hu
    split
    · exact ⟨h, rfl, fun _ => .of_err rfl⟩
    · exact ⟨h, rfl, fun _ => .of_err rfl⟩
  obtain ⟨hu, he⟩ := hs _ rfl
  unfold State.countReports State.countBy
  simp only []
  generalize (if l = 0 then s else s.setKreg 0x20 (satAdd32 (s.kreg 0x20) l)) = u at hu he ⊢
  split
  · rw [State.srcAdd, hu.crcCheckBy]
    exact he.trans (u.srcPut_onlyRecorder x n l)
  · refine he.trans ⟨rfl, fun src => ?_⟩
    by_cases hx : src = x
    · subst hx
      simp [State.SameReports, State.latch_setLatch]
    · exact .setLatch_other hx _ _

/-- A report as it was raised stands latched at a source, whatever it has displaced. -/
def State.HoldsReport (t : State) (src : Nat) (r : Report) : Prop :=
  ∃ r', ((t.latch src).first = some r' ∨ (t.latch src).latest = some r') ∧ r'.cls = r.cls ∧ r'.cause = r.cause
    ∧ r'.detail = r.detail

theorem State.HoldsReport.onlyRecorder {s t : State} {src : Nat} {r : Report} (h : s.HoldsReport src r)
    (hc : s.OnlyRecorder t) : t.HoldsReport src r := by
  obtain ⟨r', hr, hsame⟩ := h
  obtain ⟨hfirst, hlatest⟩ := hc.2 src
  exact ⟨r', by rwa [hfirst, hlatest], hsame⟩

theorem State.setLatch_counted {s : State} (h : s.Intact) (src n k : Nat) {l : Latch} {r r' : Report}
    (hl : l.first = some r' ∨ l.latest = some r') (hr : r'.cls = r.cls ∧ r'.cause = r.cause ∧ r'.detail = r.detail) :
    ((s.setLatch src l).countReports src n k).HoldsReport src r ∧
      (s.setLatch src l).countReports src n k =
        { s with keeper := ((s.setLatch src l).countReports src n k).keeper
                 mem := ((s.setLatch src l).countReports src n k).mem
                 lost := ((s.setLatch src l).countReports src n k).lost
                 err := ((s.setLatch src l).countReports src n k).err } := by
  have hcounted : (s.setLatch src l).OnlyRecorder ((s.setLatch src l).countReports src n k) :=
    State.countReports_onlyRecorder (s := s.setLatch src l) h src n k
  have hlatched : (s.setLatch src l).HoldsReport src r := ⟨r', by rwa [State.latch_setLatch, if_pos rfl], hr⟩
  exact ⟨hlatched.onlyRecorder hcounted, hcounted.1⟩

/-- While no block is in error a source's report is latched, and nothing but the recorder, its registers and its table differs. -/
theorem State.latchReport_spec {s : State} (h : s.Intact) (src : Nat) (r : Report) :
    (s.latchReport src r).HoldsReport src r ∧ s.latchReport src r =
      { s with keeper := (s.latchReport src r).keeper, mem := (s.latchReport src r).mem, lost := (s.latchReport src r).lost
               err := (s.latchReport src r).err } := by
  unfold State.latchReport State.latchBy
  simp only []
  split
  · exact State.setLatch_counted h src 1 0 (.inl rfl) ⟨rfl, rfl, rfl⟩
  · exact State.setLatch_counted h src 1 0 (.inr rfl) ⟨rfl, rfl, rfl⟩
  · exact State.setLatch_counted h src 1 1 (.inr rfl) ⟨rfl, rfl, rfl⟩

/-! ## The check of a block -/

theorem offMc_lt {mc : Nat} (h : mc < 48) : offMc mc + 0x10 ≤ 0x1300000 := by
  unfold offMc
  split <;> omega

section
variable {s : State} {b mc : Nat}

/-- The errors of a block forgotten, as a check of it leaves them. -/
def State.checked (s : State) (b : Nat) : State :=
  { s with defects := Sparse.set (fun _ => 0) s.defects b 0, crcOff := Sparse.set (fun _ => 0) s.crcOff b 0 }

theorem State.checked_intact (h : s.IntactBut b) : (s.checked b).Intact := by
  intro z
  simp only [State.checked, Sparse.get_set]
  by_cases hz : z = b
  · simp [hz]
  · rw [if_neg hz, if_neg hz]
    exact h z hz

/-- Nothing is wrong with the block. -/
theorem State.crcCheck_clean (hd : Sparse.get (fun _ => 0) s.defects b = 0) (ho : Sparse.get (fun _ => 0) s.crcOff b = 0) :
    s.crcCheck b = s := if_pos ⟨hd, ho⟩

/-- A re-read matches. -/
theorem State.crcCheck_retried (hmc : s.mcOf b = some mc) (hpos : 0 < Sparse.get (fun _ => 0) s.defects b)
    (hle : Sparse.get (fun _ => 0) s.defects b ≤ 3) (ho : Sparse.get (fun _ => 0) s.crcOff b = 0) :
    s.crcCheck b = (s.checked b).count (offMc mc) 1 := by
  have hmc' : (s.checked b).mcOf b = some mc := hmc
  unfold State.crcCheck State.crcCheckBy
  simp only []
  rw [if_neg (by omega), if_pos ⟨hle, ho⟩]
  show (s.checked b).mcCount b 0 = _
  rw [State.mcCount, hmc']
  rfl

/-- The block poisoned, and the controller's counter of such blocks raised. -/
def State.givenUp (s : State) (b mc : Nat) : State := ((s.checked b).setPoison b true).count (offMc mc + 4) 1

theorem State.mcOf_givenUp (h : mc < 48) (z : Nat) : (s.givenUp b mc).mcOf z = s.mcOf z :=
  State.mcOf_of_regs (s := s) (t := s.givenUp b mc) (fun o ho => by
    have := offMc_lt h
    exact (State.reg_count _ _ _ _).trans (if_neg (by omega))) z

/-- No re-read matches. -/
theorem State.crcCheck_givenUp (hmc : s.mcOf b = some mc)
    (h : 3 < Sparse.get (fun _ => 0) s.defects b ∨ Sparse.get (fun _ => 0) s.crcOff b ≠ 0) :
    s.crcCheck b = (s.givenUp b mc).latchReport (mcSource mc) ((s.givenUp b mc).made 4 1 none mc (addrWords b)) := by
  have hworse : ¬ (Sparse.get (fun _ => 0) s.defects b ≤ 3 ∧ Sparse.get (fun _ => 0) s.crcOff b = 0) := fun ⟨hd, ho⟩ =>
    h.elim (fun h => absurd hd (Nat.not_le.mpr h)) fun h => h ho
  have hbad : ¬ (Sparse.get (fun _ => 0) s.defects b = 0 ∧ Sparse.get (fun _ => 0) s.crcOff b = 0) := fun ⟨hd, ho⟩ =>
    hworse ⟨hd.trans_le (Nat.zero_le _), ho⟩
  have hmc' : ((s.checked b).setPoison b true).mcOf b = some mc := hmc
  have hcount : ((s.checked b).setPoison b true).mcCount b 1 = s.givenUp b mc := by
    rw [State.mcCount, hmc']
    rfl
  unfold State.crcCheck State.crcCheckBy
  simp only []
  rw [if_neg hbad, if_neg hworse]
  unfold State.checked at hcount
  rw [hcount, State.mcOf_givenUp (State.mcOf_lt hmc), hmc]
  rfl

theorem State.givenUp_intact (h : s.IntactBut b) : (s.givenUp b mc).Intact :=
  State.checked_intact h

theorem State.reg_givenUp (s : State) (b mc o : Nat) :
    (s.givenUp b mc).reg o = if o = offMc mc + 4 then satAdd32 (s.reg (offMc mc + 4)) 1 else s.reg o :=
  State.reg_count _ _ _ _

/-- What a check leaves of a block that no re-read matches: poison, its counter and a report, and no other register changed. -/
theorem State.givenUp_spec (hmc : s.mcOf b = some mc) (hother : s.IntactBut b)
    (h : 3 < Sparse.get (fun _ => 0) s.defects b ∨ Sparse.get (fun _ => 0) s.crcOff b ≠ 0) :
    (s.crcCheck b).poisoned b = true
      ∧ (∀ o, (s.crcCheck b).reg o = if o = offMc mc + 4 then satAdd32 (s.reg (offMc mc + 4)) 1 else s.reg o)
      ∧ (s.crcCheck b).HoldsReport (mcSource mc) ((s.givenUp b mc).made 4 1 none mc (addrWords b)) := by
  rw [State.crcCheck_givenUp hmc h]
  obtain ⟨hholds, heq⟩ := State.latchReport_spec (State.givenUp_intact (mc := mc) hother) (mcSource mc)
    ((s.givenUp b mc).made 4 1 none mc (addrWords b))
  refine ⟨?_, fun o => ?_, hholds⟩
  · have hpoison : (s.givenUp b mc).poisoned b = true :=
      Sparse.get_set_same (fun _ => false) s.poison b true
    rw [heq]
    exact hpoison
  · rw [← State.reg_givenUp, heq]
    rfl

/-- Whatever it finds, a check of a block raises at most the first two counters of its controller. -/
theorem State.reg_crcCheck (hmc : s.mcOf b = some mc) (hother : s.IntactBut b) {o : Nat}
    (h0 : o ≠ offMc mc) (h4 : o ≠ offMc mc + 4) : (s.crcCheck b).reg o = s.reg o := by
  by_cases hbad : 3 < Sparse.get (fun _ => 0) s.defects b ∨ Sparse.get (fun _ => 0) s.crcOff b ≠ 0
  · obtain ⟨-, hreg, -⟩ := State.givenUp_spec hmc hother hbad
    rw [hreg, if_neg h4]
  · rw [not_or, not_lt, not_not] at hbad
    obtain ⟨hle, ho⟩ := hbad
    rcases Nat.eq_zero_or_pos (Sparse.get (fun _ => 0) s.defects b) with hd | hd
    · rw [State.crcCheck_clean hd ho]
    · rw [State.crcCheck_retried hmc hd hle ho]
      exact (State.reg_count _ _ _ _).trans (if_neg h0)

/-! ## SCRUB_READ -/

/-- The pointer at the next block; past the last one a pass is complete. -/
def State.scrubbed (s : State) (mc : Nat) : Option Nat → State
  | some n => { s with scrub := Sparse.set (fun _ => 0) s.scrub mc n }
  | none => ({ s with scrub := Sparse.set (fun _ => 0) s.scrub mc 0 } : State).count (offMc mc + 0xC) 1

theorem State.scrubbed_eq (s : State) (mc : Nat) (next : Option Nat) :
    s.scrubbed mc next = { s with scrub := (s.scrubbed mc next).scrub, setup := (s.scrubbed mc next).setup } := by
  cases next <;> rfl

theorem State.scrub_scrubbed (s : State) (mc : Nat) (next : Option Nat) :
    Sparse.get (fun _ => 0) (s.scrubbed mc next).scrub mc = next.getD 0 := by
  cases next with
  | none => exact Sparse.get_set_same (fun _ => 0) s.scrub mc 0
  | some n => exact Sparse.get_set_same (fun _ => 0) s.scrub mc n

theorem State.reg_scrubbed_some (s : State) (mc n o : Nat) : (s.scrubbed mc (some n)).reg o = s.reg o := rfl

theorem State.reg_scrubbed_none (s : State) (mc o : Nat) :
    (s.scrubbed mc none).reg o = if o = offMc mc + 0xC then satAdd32 (s.reg (offMc mc + 0xC)) 1 else s.reg o :=
  State.reg_count _ _ _ _

theorem State.reg_scrubbed_other (s : State) {mc : Nat} (next : Option Nat) {o : Nat} (ho : o ≠ offMc mc + 0xC) :
    (s.scrubbed mc next).reg o = s.reg o := by
  cases next with
  | none => rw [State.reg_scrubbed_none, if_neg ho]
  | some n => rfl

theorem exec_scrubRead (hnext : s.nextBlock mc (max (Sparse.get (fun _ => 0) s.scrub mc) (mcBase mc)) = some b) (hmc : mc < 48)
    (hen : bitAt (s.reg (offMc mc + 0x10)) 16 = true) (hawake : s.inSelfRefresh mc = false) (hpow : s.powered = true)
    (hother : s.IntactBut b) :
    exec (.scrubRead mc) s = .next ((s.crcCheck b).scrubbed mc (s.nextBlock mc (b + 64))) := by
  have hlt := offMc_lt hmc
  have hblocks : (s.crcCheck b).nextBlock mc (b + 64) = s.nextBlock mc (b + 64) :=
    State.nextBlock_of_regs (fun o ho => State.reg_crcCheck (State.mcOf_nextBlock hnext) hother (by omega) (by omega)) _ _
  show execScrubRead mc s = _
  unfold execScrubRead
  simp only [hnext, hen, hawake, hpow, hblocks, Bool.true_eq_false, Bool.false_eq_true, or_self, if_false]
  cases s.nextBlock mc (b + 64) <;> rfl

theorem exec_scrubRead_paused (h : s.inSelfRefresh mc = true ∨ bitAt (s.reg (offMc mc + 0x10)) 16 = false) :
    exec (.scrubRead mc) s = .next s := by
  show execScrubRead mc s = _
  unfold execScrubRead
  simp only []
  split
  · rfl
  · exact if_pos (by tauto)

end

/-- LPDDR6_RETRAIN of a channel in service, out of standby: by the count of its last retrain, kept one higher. -/
theorem exec_lpddr6Retrain {s : State} {die ch : Nat} (hch : ch ∈ s.lpList die) (hdie : die < 2) (hstandby : s.standby = false) :
    exec (.lpddr6Retrain die ch) s =
      if Sparse.get (fun _ => 0) s.retrained (64 * die + ch) ≠ 0
          ∧ s.lcount.toNat + 1 - Sparse.get (fun _ => 0) s.retrained (64 * die + ch) < 10000000 then .next s
      else .next { s with retrained := Sparse.set (fun _ => 0) s.retrained (64 * die + ch) (s.lcount.toNat + 1) } := by
  show execLpddr6Retrain die ch s = _
  unfold execLpddr6Retrain
  simp only [List.contains_iff_mem.mpr hch, hstandby, decide_eq_false (Nat.not_le.mpr hdie), Bool.not_true, Bool.false_or,
    decide_eq_true_eq]

end Sys2Proof.Machine

open Sys2Proof Sys2Proof.Machine Sys2Proof.Claims

/-- Settles O42: sleep and wake by the partition's state, a scrub read by what the check of its block finds, a retrain by the
channel's last one. -/
theorem sleepAndScrub : Obligations.SleepAndScrub := by
  unfold Obligations.SleepAndScrub
  intro s p mc die ch
  refine ⟨fun hp hpresent hawake hen hidle => ⟨next_partitionSleep hp hpresent hawake hen hidle, exec_partitionSleep_early⟩,
    exec_partitionSleep_off, next_partitionWake, fun b hnext hmc hen hawake hpow hother => ?_, exec_scrubRead_paused,
    fun hch hdie hstandby => ⟨fun hk => ?_, fun hk hsoon => ?_⟩⟩
  · have hserves := State.mcOf_nextBlock hnext
    have hex := exec_scrubRead hnext hmc hen hawake hpow hother
    simp only [mcReg'_eq]
    refine ⟨hserves, fun n hn => ?_, fun hn => ?_, fun hd ho => ?_, fun hpos hle ho => ?_, fun hbad => ?_⟩
    · rw [hn] at hex
      refine ⟨_, hex, State.scrub_scrubbed _ _ _, ?_⟩
      rw [State.reg_scrubbed_some, State.reg_crcCheck hserves hother (by omega) (by omega)]
    · rw [hn] at hex
      refine ⟨_, hex, State.scrub_scrubbed _ _ _, ?_⟩
      rw [raised, State.reg_scrubbed_none, if_pos rfl, State.reg_crcCheck hserves hother (by omega) (by omega), satAdd32_toNat]
    · rw [State.crcCheck_clean hd ho] at hex
      exact ⟨_, hex, fun o ho => State.reg_scrubbed_other _ _ (by simpa using ho), State.scrubbed_eq _ _ _⟩
    · rw [State.crcCheck_retried hserves hpos hle ho] at hex
      refine ⟨_, hex, ?_, ?_, ?_, ?_, fun o hout => ?_⟩
      · rw [State.scrubbed_eq]
        exact Sparse.get_set_same (fun _ => 0) s.defects b 0
      · rw [raised, State.reg_scrubbed_other _ _ (by omega), Nat.add_zero, State.reg_count, if_pos rfl]
        exact satAdd32_toNat _ _
      · rw [State.scrubbed_eq]
        rfl
      · rw [State.scrubbed_eq]
        rfl
      · simp only [List.mem_cons, List.not_mem_nil, or_false, not_or, Nat.add_zero] at hout
        rw [State.reg_scrubbed_other _ _ hout.2, State.reg_count, if_neg hout.1]
        rfl
    · obtain ⟨hpoison, hreg, r, hr, hcls, hcause, hdetail⟩ := State.givenUp_spec hserves hother hbad
      refine ⟨_, hex, ?_, ?_, fun o hout => ?_, r, ?_, hcls, hcause, hdetail⟩
      · rw [State.scrubbed_eq]
        exact hpoison
      · rw [raised, State.reg_scrubbed_other _ _ (by omega), hreg, if_pos rfl]
        exact satAdd32_toNat _ _
      · simp only [List.mem_cons, List.not_mem_nil, or_false, not_or] at hout
        rw [State.reg_scrubbed_other _ _ hout.2, hreg, if_neg hout.1]
      · rw [State.scrubbed_eq]
        exact hr
  · refine ⟨_, (exec_lpddr6Retrain hch hdie hstandby).trans (if_neg fun hsoon => ?_),
      Sparse.get_set_same (fun _ => 0) s.retrained (64 * die + ch) (s.lcount.toNat + 1), rfl⟩
    exact hk.elim hsoon.1 (Nat.not_le.mpr hsoon.2)
  · exact (exec_lpddr6Retrain hch hdie hstandby).trans (if_pos ⟨hk, hsoon⟩)

end

section
/-! # The moves of a copy (O31)

One move for each destination index (R198), its source index clamped to the nearer end of the extent (R199). -/
namespace Sys2Proof.Machine

theorem mem_indices3 {x y : Nat × Nat × Nat} : y ∈ indices3 x ↔ y.1 < x.1 ∧ y.2.1 < x.2.1 ∧ y.2.2 < x.2.2 := by
  obtain ⟨o, i, j⟩ := y
  simp [indices3]

/-! ## Clamping -/

section
variable {n : Nat} (hn : 0 < n) (x : Int)
include hn

theorem clampIdx_eq_max_min : (clampIdx x n : Int) = max 0 (min x (n - 1)) := by
  unfold clampIdx
  split <;> omega

/-- An index is clamped exactly when it lies outside the extent. -/
theorem clampIdx_ne_iff : (clampIdx x n : Int) ≠ x ↔ x < 0 ∨ (n : Int) ≤ x := by
  rw [clampIdx_eq_max_min hn]
  omega

end

theorem mkMove_clamped_iff {ls : Layout} (hrows : 0 < ls.rows) (hcols : 0 < ls.cols) (o dr dc sl : Nat) (r c : Int) :
    (mkMove ls o dr dc sl r c).clamped = true ↔ r < 0 ∨ (ls.rows : Int) ≤ r ∨ c < 0 ∨ (ls.cols : Int) ≤ c := by
  simp only [mkMove, Bool.or_eq_true, decide_eq_true_eq, clampIdx_ne_iff hrows, clampIdx_ne_iff hcols, or_assoc]

/-! ## PERM -/

/-- The table of R198, as cases on PERM. -/
theorem permOf_eq (p : Nat) : permOf p = if p = 1 then (0, 2, 1) else if p = 2 then (1, 0, 2) else if p = 3 then (2, 0, 1)
    else if p = 4 then (1, 2, 0) else if p = 5 then (2, 1, 0) else (0, 1, 2) :=
  match p with
  | 0 | 1 | 2 | 3 | 4 | 5 => rfl
  | _ + 6 => rfl

/-- The move of one destination index is among those of the copy. -/
theorem mkMove_mem_copyMoves {d : List Word} {o i j : Nat} (ho : o < cOuter d) (hi : i < cBoxR d) (hj : j < cBoxC d) (ls : Layout) :
    mkMove ls o (cDR0 d + i) (cDC0 d + j) (if cSStride d = 0 then 0 else dim3 (o, i, j) (permOf (cPerm d)).1)
      (cSR0 d + if cZsR d then 0 else (dim3 (o, i, j) (permOf (cPerm d)).2.1 : Int))
      (cSC0 d + if cZsC d then 0 else (dim3 (o, i, j) (permOf (cPerm d)).2.2 : Int)) ∈ copyMoves d ls :=
  List.mem_map.mpr ⟨(o, i, j), mem_indices3.mpr ⟨ho, hi, hj⟩, rfl⟩

end Sys2Proof.Machine

open Sys2Proof Sys2Proof.Machine

/-- Settles O31: the witness is the move that the copy makes for the destination index. -/
theorem copyMoves : Obligations.CopyMoves := by
  unfold Obligations.CopyMoves
  intro d ls o i j ho hi hj hrows hcols
  extract_lets idx p r c
  have hp : permOf (cPerm d) = p := permOf_eq _
  have hmem := mkMove_mem_copyMoves ho hi hj ls
  rw [hp] at hmem
  exact ⟨_, hmem, rfl, rfl, rfl, rfl, clampIdx_eq_max_min hrows r, clampIdx_eq_max_min hcols c,
    mkMove_clamped_iff hrows hcols o _ _ _ r c⟩

end

section
/-! # Copies between local stores (O32)

COPY_START (R198 to R210), SCATTER_BADLIST (R203), COPY_SPOOL_STEP (R213) and COPY_COMPLETE (R212) of a copy whose two sides lie in
local SRAM, where no block or word is in error and no sample is captured. -/
namespace Sys2Proof.Machine
open Sys2Proof.Claims

/-! ## Changing the copies of a core -/

theorem State.core_modCopy (s : State) (core id : Nat) (f : CopyOp → CopyOp) (k : Nat) : (s.modCopy core id f).core k =
    if k = core then { s.core core with copies := (s.core core).copies.map fun x => if x.id = id then f x else x } else s.core k :=
  State.core_modCore ..

theorem State.copies_modCopy (s : State) (core id : Nat) (f : CopyOp → CopyOp) :
    ((s.modCopy core id f).core core).copies = (s.core core).copies.map fun x => if x.id = id then f x else x := by
  rw [State.core_modCopy, if_pos rfl]

theorem State.core_modCopy_other (s : State) {core k : Nat} (h : k ≠ core) (id : Nat) (f : CopyOp → CopyOp) :
    (s.modCopy core id f).core k = s.core k := by
  rw [State.core_modCopy, if_neg h]

theorem State.modCopy_onlyCores (s : State) (core id : Nat) (f : CopyOp → CopyOp) : OnlyCores s (s.modCopy core id f) := rfl

theorem State.core_dropCopy (s : State) (core id k : Nat) : (s.dropCopy core id).core k =
    if k = core then { s.core core with copies := (s.core core).copies.filter fun x => x.id != id } else s.core k :=
  State.core_modCore ..

theorem State.block_dropCopy (s : State) (core id c b : Nat) : (s.dropCopy core id).block c b = s.block c b := by
  rw [State.block, State.core_dropCopy]
  split
  · next h => rw [h]; rfl
  · rfl

theorem State.dropCopy_onlyCores (s : State) (core id : Nat) : OnlyCores s (s.dropCopy core id) := rfl

/-- A change that keeps the number of a copy, and one after it, are one change. -/
theorem map_copy_map {f g : CopyOp → CopyOp} (hf : ∀ x, (f x).id = x.id) (id : Nat) (l : List CopyOp) :
    ((l.map fun x => if x.id = id then f x else x).map fun x => if x.id = id then g x else x)
      = l.map fun x => if x.id = id then g (f x) else x := by
  rw [List.map_map]
  refine List.map_congr_left fun x _ => ?_
  rw [Function.comp_apply]
  by_cases h : x.id = id
  · rw [if_pos h, if_pos h, if_pos ((hf x).trans h)]
  · rw [if_neg h, if_neg h, if_neg h]

theorem State.copies_modGroup (s : State) (c b g : Nat) (f : Group → Group) (k : Nat) :
    ((s.modGroup c b g f).core k).copies = (s.core k).copies := by
  unfold State.modGroup
  split
  · rw [State.setBlock, State.core_modCore]
    split
    · next h => rw [h]
    · rfl
  · rfl

/-! ## A copy that ends -/

/-- `t` differs from `s` in that a copy is gone from its engine and the handle of its owner is DONE with a status (R153). -/
structure State.CopyEnded (s t : State) (core id : Nat) (owner : Nat × Nat × Nat) (status : Nat) : Prop where
  copies : (t.core core).copies = (s.core core).copies.filter fun x => x.id != id
  handle : (t.group core owner.1 owner.2.1).hreg owner.2.2 =
    mkHandle 3 status 2 (hAddr ((s.group core owner.1 owner.2.1).hreg owner.2.2))
  others : ∀ k, k ≠ core → t.core k = s.core k
  onlyCores : OnlyCores s t

theorem State.copyEnded_of_block {s : State} {core : Nat} {owner : Nat × Nat × Nat} (hblk : (s.block core owner.1).isSome)
    (id status : Nat) : s.CopyEnded ((s.finishHandle core owner status 2).dropCopy core id) core id owner status := by
  obtain ⟨x, hx⟩ := Option.isSome_iff_exists.mp hblk
  refine ⟨?_, ?_, fun k hk => ?_, (State.modGroup_onlyCores ..).trans (State.dropCopy_onlyCores ..)⟩
  · rw [State.core_dropCopy, if_pos rfl, State.finishHandle, State.copies_modGroup]
  · have hold : s.group core owner.1 owner.2.1 = x.group owner.2.1 := by rw [State.group, hx]
    rw [State.group_of_block (State.block_dropCopy ..), State.finishHandle, State.group_modGroup _ _ _ _ _ _ _ _ hx,
      if_pos ⟨rfl, rfl, rfl⟩, Group.hreg_setH, if_pos rfl, hold]
  · rw [State.core_dropCopy, if_neg hk, State.finishHandle, State.core_modGroup_other _ hk]

/-! ## The moves of a copy -/

/-- The bytes of a copy's result, as bit writes. -/
def Moved.writes (r : Moved) : List BitWrite := r.bytes.map fun p => { addr := p.1, mask := p.2.1, val := p.2.2 }

/-- How a copy goes on once it has moved (R203, R209). -/
def CopyOp.movedBy (r : Moved) (c : CopyOp) : CopyOp :=
  { c with phase := if r.bad.isSome then .badList else .moved, status := r.status, index := r.index, clampCnt := r.clamps
           used := r.used, texp := r.texp }

/-- `k` more of the bytes that a copy has written to a device are counted (R213). -/
def CopyOp.countedOn (dev k : Nat) (c : CopyOp) : CopyOp := { c with counted := Sparse.modify (fun _ => 0) c.counted dev (· + k) }

theorem State.QuietCore.modCopy {s : State} {core : Nat} (h : s.QuietCore core) (id : Nat) (f : CopyOp → CopyOp) :
    (s.modCopy core id f).QuietCore core := by
  obtain ⟨hsound, hcap⟩ := h
  exact ⟨hsound, by rw [State.core_modCopy, if_pos rfl]; exact hcap⟩

section
variable {s : State} {core : Nat} (h : s.QuietCore core)
include h

/-- Writing a side of this module is its bit writes, which are counted. -/
theorem State.putCopy_of_quiet {c : CopyOp} (hd : cDSpace c.desc ≠ 2) (r : Moved) : s.putCopy core c r.bytes =
    ((forEach State.writeBits s r.writes).modCopy core c.id fun x => x.wrote s.deviceId r.bytes.length, none) := by
  obtain ⟨hsound, hcap⟩ := h
  obtain ⟨m, l, hu⟩ : ∃ m l, forEach State.writeBits s r.writes = { s with mem := m, lost := l } :=
    ⟨_, _, State.forEach_writeBits_eq s r.writes⟩
  have hnone : (State.core { s with mem := m, lost := l } core).captures.any Option.isSome = false := congrArg (List.any · _) hcap
  unfold State.putCopy
  rw [if_neg hd, State.writeBitsAll_of_sound hsound, ← Moved.writes, hu]
  simp only [hnone, Bool.false_eq_true, if_false]
  rfl

/-- A copy between sides of this module moves at once. -/
theorem State.runCopy_of_quiet {c : CopyOp} (hs : cSSpace c.desc ≠ 2) (hd : cDSpace c.desc ≠ 2) {r : Moved}
    (hr : copyResult s.byte s.byte c = r) : s.runCopy core c =
      (forEach State.writeBits ((s.progressed (.stream core)).modCopy core c.id (CopyOp.movedBy r)) r.writes).modCopy core c.id
        fun x => x.wrote s.deviceId r.bytes.length := by
  have hquiet : ((s.progressed (.stream core)).modCopy core c.id (CopyOp.movedBy r)).QuietCore core :=
    State.QuietCore.modCopy (s := s.progressed (.stream core)) h _ _
  obtain ⟨⟨-, -, hbad⟩, -⟩ := h
  have hput := State.putCopy_of_quiet hquiet hd r
  unfold CopyOp.movedBy at hput
  unfold State.runCopy State.moveCopy CopyOp.movedBy
  simp only [if_pos hs, State.eccRanges_of_sound hbad, hr, hput]
  rfl

end

/-- Progress twice at one count is progress once. -/
theorem State.progressed_progressed (s : State) (u : EngineUnit) : (s.progressed u).progressed u = s.progressed u := by
  unfold State.progressed
  rw [Sparse.set_set]

/-- A copy that may start is held. -/
theorem State.not_refused_of_mayStart {s : State} {core : Nat} {c : CopyOp} (h : s.mayStart core c = true) :
    c.phase ≠ .refused := by
  simp only [State.mayStart, Bool.and_eq_true, beq_iff_eq] at h
  obtain ⟨⟨⟨⟨⟨hheld, -⟩, -⟩, -⟩, -⟩, -⟩ := h
  rw [hheld]
  decide

/-! ## The clauses -/

section
variable {s : State} {core id : Nat} {c : CopyOp} (hc : (s.core core).copy id = some c)
include hc

theorem exec_copyStart : exec (.copyStart core id) s = .next (if c.phase = .refused then
      (if s.copyTurn core c then (s.finishHandle core c.owner c.status 2).dropCopy core id else s)
    else if s.mayStart core c then (s.progressed (.stream core)).runCopy core c else s) := by
  show execCopyStart core id s = _
  rw [execCopyStart, hc]

theorem exec_scatterBadlist : exec (.scatterBadlist core id) s =
    .next (if c.phase = .badList then s.modCopy core id fun x => { x with phase := .moved, status := 0x20 } else s) := by
  show execScatterBadlist core id s = _
  rw [execScatterBadlist, hc]

theorem next_copyStart_refused (hphase : c.phase = .refused) (hturn : s.copyTurn core c = true)
    (hblk : (s.block core c.owner.1).isSome) :
    Next (.copyStart core id) s fun t => s.CopyEnded t core id c.owner c.status := by
  refine ⟨_, ?_, State.copyEnded_of_block hblk id c.status⟩
  rw [exec_copyStart hc, if_pos hphase, if_pos hturn]

theorem next_copyStart_moves (hid : c.id = id) (hq : quietMem s) (hmay : s.mayStart core c = true) (hs : cSSpace c.desc ≠ 2)
    (hd : cDSpace c.desc ≠ 2) {r : Moved} (hr : copyResult s.byte s.byte c = r) :
    Next (.copyStart core id) s fun t =>
      (∀ z, isRom z = false → t.byte z = after s r.writes z)
        ∧ (t.core core).copies = ((s.core core).copies.map fun x =>
            if x.id = id then (x.movedBy r).wrote s.deviceId r.bytes.length else x)
        ∧ (∀ k, k ≠ core → t.core k = s.core k)
        ∧ t = { s with cores := t.cores, mem := t.mem, lost := t.lost, progress := (s.progressed (.stream core)).progress } := by
  subst hid
  have hrun := State.runCopy_of_quiet (s := s.progressed (.stream core)) (core := core) ⟨hq.1, hq.2 core⟩ hs hd (r := r) hr
  rw [State.progressed_progressed] at hrun
  have hbyte (z : Nat) (hz : isRom z = false) := State.byte_forEach_writeBits
    ((s.progressed (.stream core)).modCopy core c.id (CopyOp.movedBy r)) r.writes hz
  obtain ⟨m, l, hu⟩ : ∃ m l, forEach State.writeBits ((s.progressed (.stream core)).modCopy core c.id (CopyOp.movedBy r)) r.writes =
      { (s.progressed (.stream core)).modCopy core c.id (CopyOp.movedBy r) with mem := m, lost := l } :=
    ⟨_, _, State.forEach_writeBits_eq _ _⟩
  rw [hu] at hrun hbyte
  have hex := exec_copyStart hc
  rw [if_neg (State.not_refused_of_mayStart hmay), if_pos hmay, hrun] at hex
  refine ⟨_, hex, hbyte, ?_, fun k hk => ?_, rfl⟩
  · rw [State.copies_modCopy]
    exact (congrArg _ (State.copies_modCopy ..)).trans (map_copy_map (f := CopyOp.movedBy r) (fun _ => rfl) c.id _)
  · rw [State.core_modCopy_other _ hk]
    exact State.core_modCopy_other _ hk _ _

theorem next_scatterBadlist (hphase : c.phase = .badList) :
    Next (.scatterBadlist core id) s fun t =>
      (t.core core).copies = ((s.core core).copies.map fun x =>
          if x.id = id then { x with phase := .moved, status := 0x20 } else x) ∧ OnlyCores s t := by
  refine ⟨_, ?_, State.copies_modCopy .., State.modCopy_onlyCores ..⟩
  rw [exec_scatterBadlist hc, if_pos hphase]

/-- A step of a copy that has written to this module alone. -/
theorem exec_copySpoolStep {n k i : Nat} (hen : cSpoolEn c.desc = true) (hsave : cSave c.desc = false) (hstatus : c.status ≠ 0x53)
    (hphase : c.phase = .moved) (hshare : c.share = [(s.deviceId, k)])
    (hi : min n (k - Sparse.get (fun _ => 0) c.counted s.deviceId) = i) (hpos : 0 < i) :
    exec (.copySpoolStep core id n) s =
      .next ((s.spoolAdd (cSpoolId c.desc) i).modCopy core id (CopyOp.countedOn s.deviceId i)) := by
  have hsteps : (!c.steps || c.status == 0x53 || !c.runs || c.phase == .reading) = false := by
    simp [CopyOp.steps, CopyOp.runs, hen, hsave, hstatus, hphase]
  show execCopySpoolStep core id n s = _
  unfold execCopySpoolStep
  simp only [hc, hsteps, Bool.false_eq_true, if_false]
  simp only [CopyOp.uncounted, hshare, List.map_cons, List.map_nil, forEach, List.foldl_cons, List.foldl_nil, State.countOn, if_true,
    hi, if_neg hpos.ne', Bool.false_eq_true, if_false]
  rfl

theorem next_copySpoolStep {n k : Nat} (hen : cSpoolEn c.desc = true) (hsave : cSave c.desc = false) (hstatus : c.status ≠ 0x53)
    (hphase : c.phase = .moved) (hone : ∀ y ∈ (s.core core).copies, y.id = id → y = c) (hshare : c.share = [(s.deviceId, k)])
    {i : Nat} (hi : min n (k - Sparse.get (fun _ => 0) c.counted s.deviceId) = i) (hpos : 0 < i) :
    Next (.copySpoolStep core id n) s fun t =>
      t.spool = (s.spoolAdd (cSpoolId c.desc) i).spool
        ∧ (∀ x ∈ (t.core core).copies, x.id = id →
            Sparse.get (fun _ => 0) x.counted s.deviceId = Sparse.get (fun _ => 0) c.counted s.deviceId + i)
        ∧ t = { s with cores := t.cores, spool := t.spool, spoolChg := t.spoolChg, waiters := t.waiters } := by
  have hadd := s.spoolAdd_onlySpool (cSpoolId c.desc) i
  refine ⟨_, exec_copySpoolStep hc hen hsave hstatus hphase hshare hi hpos, rfl, fun x hx hxid => ?_, ?_⟩
  · rw [State.copies_modCopy, State.core_congr (by rw [hadd])] at hx
    obtain ⟨y, hy, rfl⟩ := List.mem_map.mp hx
    split at hxid
    · next h => rw [if_pos h, hone y hy h, CopyOp.countedOn, Sparse.get_modify, if_pos rfl]
    · next h => exact absurd hxid h
  · rw [hadd]
    rfl

end

/-! ## The completion record -/

theorem bytesOfWords_length (ws : List Word) : (bytesOfWords ws).length = 4 * ws.length := by
  induction ws with
  | nil => rfl
  | cons w ws ih =>
    rw [bytesOfWords, List.flatMap_cons, List.length_append, bytesLE_length, ← bytesOfWords, ih, List.length_cons]
    omega

theorem copyRecord_length (c : CopyOp) : (bytesOfWords (copyRecord c)).length = 32 := bytesOfWords_length _

/-- Away from DRAM and with no word in error, a write puts its bytes and does nothing else. -/
theorem State.writeMem_of_notDram {s : State} (hbad : s.sramBad = []) {a : Nat} (ha : isDram a = false) (bs : List Byte) :
    s.writeMem a bs = s.putMem a bs := by
  unfold State.writeMem
  simp only [ha, Bool.false_eq_true, if_false, hbad, Sparse.forget, List.filter_nil]
  rw [← hbad]

section
variable {s : State} {core id : Nat} {c : CopyOp} {rest : List CopyOp} {base : Nat} (hcopies : (s.core core).copies = c :: rest)
  (hid : c.id = id) (hphase : c.phase = .moved) (hwaits : c.waits = 0) (hen : cSpoolEn c.desc = false) (hq : quietMem s)
  (hbase : c.base + cCompl c.desc = base) (hlo : isSram base = true)
include hcopies hid hphase hwaits hen hq hbase hlo

theorem exec_copyComplete : exec (.copyComplete core id) s =
    .next ((((s.progressed (.stream core)).putMem base (bytesOfWords (copyRecord c))).finishHandle core c.owner c.status 2).dropCopy
      core id) := by
  obtain ⟨⟨-, -, hbad⟩, hcap⟩ := hq
  have hdram : isDram base = false := by
    simp only [isSram, isDram, Bool.and_eq_true, decide_eq_true_eq, decide_eq_false_iff_not] at hlo ⊢
    omega
  have hwrite := State.writeMem_of_notDram (s := s.progressed (.stream core)) hbad hdram (bytesOfWords (copyRecord c))
  have htouch := State.touch_of_noSample (core := core)
    (s := (s.progressed (.stream core)).putMem base (bytesOfWords (copyRecord c))) (hcap core) base 32
  have hready : ¬ (c.id ≠ id ∨ c.phase ≠ .moved ∨ c.waits ≠ 0) := by simp [hid, hphase, hwaits]
  show execCopyComplete core id s = _
  unfold execCopyComplete
  simp only [hcopies, if_neg hready, hbase, hwrite, htouch, State.countCopy, hen, Bool.not_false, Bool.true_or, if_true]

theorem next_copyComplete (hhi : isSram (base + 31) = true) (hblk : (s.block core c.owner.1).isSome) :
    Next (.copyComplete core id) s fun t =>
      t.bytes base 32 = bytesOfWords (copyRecord c)
        ∧ (∀ z, z < base ∨ base + 32 ≤ z → t.byte z = s.byte z)
        ∧ (t.group core c.owner.1 c.owner.2.1).hreg c.owner.2.2 =
            mkHandle 3 c.status 2 (hAddr ((s.group core c.owner.1 c.owner.2.1).hreg c.owner.2.2))
        ∧ (t.core core).copies = rest.filter (fun x => x.id != id)
        ∧ t = { s with cores := t.cores, mem := t.mem, lost := t.lost, progress := (s.progressed (.stream core)).progress } := by
  have hex := exec_copyComplete hcopies hid hphase hwaits hen hq hbase hlo
  have hlen := copyRecord_length c
  have hrom {i : Nat} (hi : i < 32) : isRom (base + i) = false := by
    refine isRom_of_sram ?_
    simp only [isSram, Bool.and_eq_true, decide_eq_true_eq] at hhi
    omega
  obtain ⟨u, hu⟩ : ∃ u, u = (s.progressed (.stream core)).putMem base (bytesOfWords (copyRecord c)) := ⟨_, rfl⟩
  rw [← hu] at hex
  have hcore (k : Nat) : u.core k = s.core k := by rw [hu]; rfl
  have hblock (k b : Nat) : u.block k b = s.block k b := by rw [hu]; rfl
  obtain ⟨hrest, hhandle, -, honly⟩ := State.copyEnded_of_block (s := u) (owner := c.owner) (by rwa [hblock]) id c.status
  have hbyte (z : Nat) : State.byte (State.dropCopy (u.finishHandle core c.owner c.status 2) core id) z = u.byte z := by
    rw [honly]
    rfl
  refine ⟨_, hex, ?_, fun z hz => ?_, ?_, ?_, ?_⟩
  · rw [← hlen]
    refine State.bytes_of_byte fun i hi => ?_
    rw [hbyte, hu, State.byte_putMem _ _ _ (hrom (hlen ▸ hi)), if_pos (by omega), Nat.add_sub_cancel_left]
  · rw [hbyte, hu, State.byte_putMem_outside _ (by rwa [hlen])]
    rfl
  · rw [hhandle, State.group_of_block (hblock ..)]
  · rw [hrest, hcore, hcopies, List.filter_cons_of_neg (by simp [hid])]
  · rw [honly, hu]
    rfl

end

end Sys2Proof.Machine

open Sys2Proof Sys2Proof.Machine Sys2Proof.Claims

/-- Settles O32: each answer of COPY_START in turn, then the list entry that ends a copy, a step, and the completion. -/
theorem streamCopies : Obligations.StreamCopies := by
  unfold Obligations.StreamCopies
  intro s core id n c hc hid hq
  refine ⟨fun hmay hphase => ?_, fun hphase hturn => ?_, fun hphase hturn hblk => ?_, fun hmay hs hd => ?_,
    next_scatterBadlist hc, fun hphase => ?_, fun hen hsave hstatus hphase hone k hshare hpos => ?_,
    fun rest hcopies hphase hwaits hen hlo hhi hblk => ?_⟩
  · rw [exec_copyStart hc, if_neg hphase, hmay]
    rfl
  · rw [exec_copyStart hc, if_pos hphase, hturn]
    rfl
  · obtain ⟨t, ht, hended⟩ := next_copyStart_refused hc hphase hturn hblk
    exact ⟨t, ht, hended.copies, hended.handle, hended.others, hended.onlyCores⟩
  · exact next_copyStart_moves hc hid hq hmay hs hd rfl
  · rw [exec_scatterBadlist hc, if_neg hphase]
  · exact next_copySpoolStep hc hen hsave hstatus hphase hone hshare rfl hpos
  · exact next_copyComplete hcopies hid hphase hwaits hen hq rfl hlo hhi hblk

end

section
/-! # A stale firing whose entry lies in the source table (O55)

A firing whose STEP is not its group's ends with status 0x71 and a STEP record (R262). The report counts in the source table, which
context 0 places by ERR_BASE (R389, R390); no premise keeps that table apart from the update table, as the claim of a segment of a
newer step (R236) keeps it apart from a node's buffer. Here the source-table entry of the shard's controller is the update-table entry that
fires: REPORTS rises in its first word, so the entry is not the one that the claim gives. -/
namespace Sys2Proof.Machine
open Sys2Proof.Claims

/-- An update-table entry of kind 1 and group 0 at step 1: one parameter at 0x60000 of bonded DRAM, triggered by counter 0 at any
count. -/
def staleShard : List Word :=
  [0x10000000, 1, 0x60000, 0x100, 0x61000, 0x100, 0x62000, 0x100, 0, 0, 0, 0, 0x63000, 0x100, 0, 1, 0x10000] ++ List.replicate 15 0

/-- A valid record of a group of one shard at step 0. -/
def freshGroup : List Word := [0x80000001, 0, 0, 0, 0, 0, 0x3F800000] ++ List.replicate 9 0

/-- One bonded channel in service, and the error ring at its start, so the source table at 0x40000 of it; the update table there too,
the group table behind them at 0x50000. Update entry 98, in force, lies where SOURCE 0x620, the channel's controller, counts; its
trigger has changed once. -/
def sharedTables : State :=
  { State.reset with
    setup := [(offMem + 0x40, 1), (offTbl + 0xC, 0x1000005), (offTbl + 0x10, 1), (offTbl + 0x14, 0x1000004), (offTbl + 0x18, 99),
      (offCtx 0 + 4, 0x80010000)]
    keeper := [(0x10, 0x1000000)]
    mem := putBytes (putBytes [] 0x10000046200 (bytesOfWords (withComplements staleShard))) 0x10000050000
      (bytesOfWords (withComplements freshGroup))
    err := { ErrSt.atReset with ringReady := true }
    spoolChg := [(0, [0])]
    tables := { Tables.empty with updCache := [(98, staleShard)] } }

theorem sharedTables_sound : soundMem sharedTables := ⟨rfl, rfl, rfl⟩

/-- The entry is in force and may fire, and its trigger is met without poison. -/
theorem sharedTables_fires : sharedTables.updEntry 98 = (sharedTables, some staleShard)
    ∧ sharedTables.groupBusy (uGroup staleShard) = false ∧ sharedTables.ctxRuns (uCtx staleShard) = true
    ∧ sharedTables.fires (sharedTables.updFiring 98 (uTrig staleShard)) (uTrig staleShard) (uTarget staleShard) = some (1, false) := by
  decide +kernel

/-- The entry keeps the rules of R253, and the table shows it. -/
theorem sharedTables_shows : sharedTables.shardOk staleShard = true ∧ cleanRange sharedTables (sharedTables.updAddr 98) 256
    ∧ sharedTables.words (sharedTables.updAddr 98) 64 = withComplements staleShard := by
  unfold cleanRange
  decide +kernel

/-- Its group's record reads and is valid. -/
theorem sharedTables_group : sharedTables.groupRec (uGroup staleShard) = (sharedTables, some freshGroup)
    ∧ sharedTables.shardFits staleShard freshGroup = true := by
  decide +kernel

/-- The report of the stale step counts in the entry's first word. -/
theorem sharedTables_counts {t : State} (h : exec (.shardFire 98) sharedTables = .next t) :
    t.words (sharedTables.updAddr 98) 64 ≠ withComplements (fireEntry staleShard) := by
  have hrun : (match exec (.shardFire 98) sharedTables with | .next t => wordAt (t.words (sharedTables.updAddr 98) 64) 0 | _ => 0) =
      0x10000001 := by
    decide +kernel
  rw [h] at hrun
  intro hkept
  have hword : wordAt (t.words (sharedTables.updAddr 98) 64) 0 = 0x10000001 := hrun
  rw [hkept] at hword
  exact absurd hword (by decide)

end Sys2Proof.Machine

open Sys2Proof Sys2Proof.Machine

/-- Refutes O55: where the update table and the source table share an entry, the record of a firing with a stale STEP counts in the
first word of the entry that fires, which the claim has kept. -/
theorem not_factorAndUpdate : ¬ Obligations.FactorAndUpdate := by
  unfold Obligations.FactorAndUpdate
  intro h
  obtain ⟨hentry, hidle, hruns, hfires⟩ := sharedTables_fires
  obtain ⟨hok, hclean, hshown⟩ := sharedTables_shows
  obtain ⟨hgroup, hfits⟩ := sharedTables_group
  obtain ⟨-, hshard, -⟩ := h sharedTables
  obtain ⟨-, -, -, hfiring⟩ := hshard sharedTables 98 staleShard freshGroup
  obtain ⟨-, -, hjudged⟩ := hfiring 1 false hentry rfl rfl hidle hruns hfires hok sharedTables_sound hclean hshown
  obtain ⟨-, hstale, -⟩ := hjudged hgroup hfits
  obtain ⟨t, ht, ⟨hwords, -⟩, -⟩ := hstale rfl (by decide)
  exact sharedTables_counts ht hwords

end

section
/-! # An expected flit on the Sornal link that lets an interrupt go (O52)

An ACK frees the flits of the replay buffer up to the one that it names (R273), and the claim has the rest of the buffer as it was, on
every link, where no packet waits. On the Sornal link a flit may also be what the completion entry of a ring in device memory was
waiting for (R320): the entry is written and, where its descriptor asks for it, its ring's interrupt falls due (R319, R321). The INTR
leaves in a DATA flit of this link, and that flit joins the buffer which the ACK has just emptied. -/
namespace Sys2Proof.Machine

/-- A COPY has completed with status OK and has asked for an interrupt (bit 23). -/
def copyDone : Started := { words := [0x02800000] ++ List.replicate 15 0, refused := false, result := some (0, 0), doneAt := 0 }

/-- The Sornal link is UP at X8 with DATA flit 1 unacknowledged and no packet waiting. Ring 1 lies in device memory, its completion
entries in the one bonded channel in service, with interrupts enabled. It is STOPPED: its descriptor 0 has completed, but the entry is
still to be written. It can come to that where RING_CFG, which a STOPPED ring lets be written, named host memory while the link sent
the host write that the entry waited for. -/
def entryDue : State :=
  { State.reset with
    setup := [(offMem + 0x40, 1), (offHost, 0x5FFC0000), (offRing 1 + 0xC, 0x100), (offRing 1 + 0x10, 0x106),
      (offRing 1 + 0x1C, 1), (offRing 1 + 0x20, 1), (offRing 1 + 0x2C, 0x100)]
    rings := [(1, { Ring.empty with bound := true, started := [(0, some copyDone)] })]
    links := [(16, { Link.off with txSeq := 2, unacked := [(1, 0, [])], lanes := 0xFF })] }

/-- The expected DATA flit, with nothing in it: SEQ 1, ACK 1, no NAK. -/
def ackingFlit : List Byte :=
  flitBytes { ftype := 1, seq := 1, ack := 1, nak := false, q := 0, cqa := 0, ca := 0, cqb := 0, cb := 0
              payload := List.replicate 244 0 }

/-- The flit is whole and passes its CRC. -/
theorem ackingFlit_good : ackingFlit.length = 256 ∧ (crc32c (ackingFlit.take 252)).toNat = natLE (ackingFlit.drop 252) := by
  decide +kernel

/-- Its fields: DATA, no NAK, SEQ and ACK 1. -/
theorem ackingFlit_fields : let w0 : Word := BitVec.ofNat 32 (natLE (ackingFlit.take 4))
    fld w0 28 4 = 1 ∧ bitAt w0 3 = false ∧ fld w0 16 12 = 1 ∧ fld w0 4 12 = 1 := by
  decide +kernel

/-- The link holds the flit that the ACK names and no other, has nothing to send, and expects SEQ 1. -/
theorem entryDue_link : entryDue.linkUp 16 = true ∧ (entryDue.link 16).txWait = [] ∧ (entryDue.link 16).rxAck = 0
    ∧ (entryDue.link 16).unacked = [] ++ [(1, 0, [])] ++ [] := by
  decide +kernel

/-- The entry of ring 1 is written, and the flit that carries its INTR, SEQ 2, is then unacknowledged. -/
theorem entryDue_interrupts {t : State} (h : exec (.flitReceive 16 ackingFlit) entryDue = .next t) :
    t.retired 1 = 1 ∧ t.hostOut = [.intr 0] ∧ (t.link 16).unacked.map Prod.fst = [2] := by
  have hrun : (match exec (.flitReceive 16 ackingFlit) entryDue with
      | .next t => decide (t.retired 1 = 1 ∧ t.hostOut = [.intr 0] ∧ (t.link 16).unacked.map Prod.fst = [2])
      | _ => false) = true := by
    decide +kernel
  rw [h] at hrun
  exact of_decide_eq_true hrun

end Sys2Proof.Machine

open Sys2Proof Sys2Proof.Machine

/-- Refutes O52: on the Sornal link an expected flit can let a ring in device memory write its completion entry and send its interrupt,
whose flit is then in the replay buffer behind what the ACK left of it, which the claim has unchanged. -/
theorem not_links : ¬ Obligations.Links := by
  unfold Obligations.Links
  intro h
  obtain ⟨hlen, hcrc⟩ := ackingFlit_good
  obtain ⟨htype, hnak, hseq, hack⟩ := ackingFlit_fields
  obtain ⟨hup, hwait, hexpects, hheld⟩ := entryDue_link
  obtain ⟨-, hflit, -⟩ := h entryDue 16 le_rfl
  obtain ⟨-, htaken, -⟩ := hflit ackingFlit hup hlen
  obtain ⟨t, ht, -, -, -, -, hfreed, -⟩ := htaken hcrc htype hnak hwait (by rw [hseq, hexpects])
  have hempty : (t.link 16).unacked = [] := hfreed [] 0 [] [] (by rw [hheld, hack]) (by simp)
  obtain ⟨-, -, hsent⟩ := entryDue_interrupts ht
  rw [hempty] at hsent
  cases hsent

end

section
/-! # Reset and the step (O1, O3, O44) -/
namespace Sys2Proof.Machine

/-- Every ring at reset. -/
theorem rings_reset : ∀ r < 128, State.reset.head r = 0 ∧ State.reset.tail r = 0
    ∧ State.reset.retired r = 0 ∧ State.reset.ringSize r = 64 ∧ State.reset.ringState r = 0 := by
  decide +kernel

/-- Every partition's status and every group's phase at reset. -/
theorem status_reset : (∀ p < 8, State.reset.reg (0x1500080 + 4 * p) = 0x11FFFF00)
    ∧ ∀ n < 16, State.reset.reg (0x1500040 + 4 * n) = 0x11111111 := by
  decide +kernel

/-- No context exists at reset. -/
theorem ctxExists_reset : ∀ c < 64, State.reset.ctxExists c = false := by
  decide +kernel

end Sys2Proof.Machine

open Sys2Proof Sys2Proof.Machine

/-- Settles O1: the queue's front is `step`'s own case. -/
theorem stepRunsFrontCommand : Obligations.StepRunsFrontCommand := by
  unfold Obligations.StepRunsFrontCommand
  intro c rest s hqueue
  rw [step, hqueue]

/-- Settles O3: each map of the reset state is read at the registers that the tables name. -/
theorem resetValues : Obligations.ResetValues := by
  unfold Obligations.ResetValues
  obtain ⟨hstatus, hphase⟩ := status_reset
  exact ⟨rings_reset, fun _ _ => rfl, by decide, by decide, by decide, by decide, hstatus, hphase, by decide, rfl, ctxExists_reset, rfl⟩

/-- Settles O44, where every step's keeping of the form (O45) begins. -/
theorem canonicalAtReset : Obligations.CanonicalAtReset := Claims.Canonical.reset

end

section
/-! # A ceiling kept from before the sensors were invalid (O58)

The ceiling that a partition's heat set stands in four bits of its status register; what stood there before a spell without a valid
sensor (log 101) is kept as a plain number. Where that number is wider than four bits it cannot come back. -/
namespace Sys2Proof.Machine

/-- Partition 0's sensors have been invalid, and the ceiling kept from before is 16. -/
def wideCeiling : State :=
  { State.reset with
    setup := [(0x1600000, 1)]
    power := { Power.atReset with parts := [(0, { Partition.atReset with invalid := true, savedTh := 16 })] } }

/-- The state is in service, is due a sample, and partition 0 is present. -/
theorem wideCeiling_samples : wideCeiling.powered = true ∧ wideCeiling.lcount.toNat % 100 = 0
    ∧ wideCeiling.power.lastSample ≠ some wideCeiling.lcount ∧ wideCeiling.up = true ∧ wideCeiling.partAbsent 0 = false := by
  decide +kernel

end Sys2Proof.Machine

open Sys2Proof Sys2Proof.Machine

/-- Refutes O58: at 92 degrees the kept ceiling 16 would have to stand in the status register's four bits. -/
theorem not_powerAndMonitors : ¬ Obligations.PowerAndMonitors := by
  unfold Obligations.PowerAndMonitors
  intro h
  obtain ⟨hpowered, hdue, hlast, hup, hpresent⟩ := wideCeiling_samples
  obtain ⟨-, hsense, -⟩ := h wideCeiling
  obtain ⟨-, hsampled⟩ := hsense [[some 92]] []
  obtain ⟨-, hcool⟩ := hsampled hpowered hdue hlast
  obtain ⟨t, -, -, -, -, -, -, -, -, -, hrunning⟩ := hcool (by decide)
  obtain ⟨-, hparts⟩ := hrunning hup
  obtain ⟨-, hread⟩ := hparts 0 (by decide) hpresent
  obtain ⟨-, -, -, -, hmiddle, -⟩ := hread 92 rfl
  obtain ⟨hstatus, -⟩ := hmiddle (by decide) (by decide)
  have hfour : Claims.status t 0 12 < 2 ^ 4 := bitsOf_lt _ _ _
  have hkept : Claims.status t 0 12 = 16 := hstatus
  omega

end

section
/-! # A request that is answered after its ring's link was lost (O57)

An ENTER that had to wait is answered when it is offered again and no context has work. The claim has the ring RUNNING then, its entry
written with OK. A ring whose link was lost while the request waited, though, is to halt with 0x89 once nothing of it is in flight
(R301), and the answer to its one descriptor is what empties it. -/
namespace Sys2Proof.Machine

/-- An ENTER with an area of 32 bytes at host address 0. -/
def enterWords : List Word := [0, 0, 0, 0x900, 0, 0, 0, 0, 32] ++ List.replicate 7 0

/-- The place of the ENTER, index 0 of ring 0, in the queue of its service. -/
def enterWait : SvcWait := { ring := 0, index := 0, svc := 9, op := 0, begun := true }

/-- The ENTER has been started and not answered. -/
def enterStarted : Started := { words := enterWords, refused := false, result := none, doneAt := 0 }

/-- Ring 0 lies in device memory, its completion entries in the one bonded channel in service; its ENTER waits, and the link was lost in
the meantime. The Sornal link is UP again, at X8 with nothing waiting. -/
def enterAfterLoss : State :=
  { State.reset with
    setup := [(offMem + 0x40, 1), (offHost, 0x5FFC0000), (offRing 0 + 0xC, 0x100), (offRing 0 + 0x10, 0x106),
      (offRing 0 + 0x18, 0x40000001), (offRing 0 + 0x1C, 1), (offRing 0 + 0x20, 1)]
    rings := [(0, { Ring.empty with bound := true, started := [(0, some enterStarted)], linkLost := true })]
    links := [(16, { Link.off with lanes := 0xFF })]
    svc := { State.reset.svc with queue := [enterWait] } }

/-- The request of ring 0, whose argument is empty. -/
def enterRequest : SvcReq := { ring := 0, arg := [] }

theorem enter_allowed : Claims.Allowed enterAfterLoss enterRequest 9 0 0 enterWords where
  names := by decide
  length := by decide
  ringMay := .inl rfl
  diag := .inr (.inl rfl)
  lives := .inl rfl
  whole := .inl (by decide)

/-- The ENTER is the first of its service and the one descriptor in flight of a ring that runs and is not stopping. -/
theorem enter_taken : Claims.Taken enterAfterLoss enterRequest 9 0 0 enterWait enterWords where
  allowed := enter_allowed
  first := rfl
  mine := by decide
  held := ⟨enterStarted, rfl, rfl, rfl, rfl⟩
  ring := by decide
  runs := by decide
  head := by decide
  next := rfl
  dev := by decide
  fits := by decide +kernel
  irq := by decide
  sound := ⟨rfl, rfl, rfl⟩
  link := by decide
  host := rfl
  pend := rfl

/-- No context has work. -/
theorem enterAfterLoss_idle : ∀ c < 64, enterAfterLoss.ctxWork c = false := by
  decide +kernel

/-- The answer has left and the ring has halted. -/
theorem enterAfterLoss_halts {t : State} (h : exec (.enter enterRequest) enterAfterLoss = .next t) :
    t.unsent 0 = false ∧ t.ringState 0 = 3 := by
  have hrun : (match exec (.enter enterRequest) enterAfterLoss with
      | .next t => decide (t.unsent 0 = false ∧ t.ringState 0 = 3)
      | _ => false) = true := by
    decide +kernel
  rw [h] at hrun
  exact of_decide_eq_true hrun

end Sys2Proof.Machine

open Sys2Proof Sys2Proof.Machine

/-- Refutes O57: where the ring's link was lost while an ENTER waited, its answer empties the ring, which halts instead of running. -/
theorem not_services : ¬ Obligations.Services := by
  unfold Obligations.Services
  intro h
  obtain ⟨-, -, ⟨-, -, -, -, -, -, -, -, -, -, -, -, henter, -⟩, -⟩ := h enterAfterLoss enterRequest enterWords
  obtain ⟨t, ht, hserved⟩ := henter enterWait enter_taken fun c _ hc => enterAfterLoss_idle c hc
  obtain ⟨hsent, hhalted⟩ := enterAfterLoss_halts ht
  have hruns : t.ringState 0 = 1 := (hserved.done hsent).running rfl
  omega

end

section
/-! # A started FENCE that is offered again (O50)

The claim's first line has RING_FENCE leave the state as it is wherever no FENCE at HEAD may start; its last line about rings has it
complete a FENCE that has started, once the writes have been acknowledged. A started FENCE holds the descriptors behind it (R316), so
both lines speak of the same state. -/
namespace Sys2Proof.Machine

/-- A FENCE of scope 0. -/
def fenceWords : List Word := 0x08000000 :: List.replicate 15 0

/-- The FENCE has been started and has not completed. -/
def fenceStarted : Started := { words := fenceWords, refused := false, result := none, doneAt := 0 }

/-- Ring 0 lies in device memory, its completion entries in the one bonded channel in service; it runs, and its FENCE at index 0 is the
one descriptor in flight. -/
def fenceInFlight : State :=
  { State.reset with
    setup := [(offMem + 0x40, 1), (offRing 0 + 0xC, 0x100), (offRing 0 + 0x10, 0x106), (offRing 0 + 0x18, 0x40000001),
      (offRing 0 + 0x1C, 1), (offRing 0 + 0x20, 1)]
    rings := [(0, { Ring.empty with bound := true, started := [(0, some fenceStarted)] })] }

/-- No FENCE at HEAD may start. -/
theorem fenceInFlight_notReady : fenceInFlight.readyDesc 0 8 = none := by decide

/-- The ring runs past the FENCE, lies in device memory with its entry in service, and has no write to wait for. -/
theorem fenceInFlight_runs : fenceInFlight.ringState 0 = 1 ∧ fenceInFlight.head 0 = fenceInFlight.retired 0 + 1
    ∧ fenceInFlight.ringDev 0 = true ∧ fenceInFlight.dramRange (fenceInFlight.entryAddr 0 (fenceInFlight.retired 0)) 32 = true
    ∧ fenceInFlight.unsent 0 = false ∧ fenceInFlight.retired 0 = 0 := by
  decide +kernel

end Sys2Proof.Machine

open Sys2Proof Sys2Proof.Machine

/-- Refutes O50: a started FENCE of scope 0 would have to complete and to stay in flight. -/
theorem not_descriptorsRun : ¬ Obligations.DescriptorsRun := by
  unfold Obligations.DescriptorsRun
  intro h
  obtain ⟨hidle, -, -, -, -, -, -, -, -, -, -, -, hfence, -⟩ := h fenceInFlight 0 fenceWords
  obtain ⟨hruns, hhead, hdev, hfits, hsent, hretired⟩ := fenceInFlight_runs
  have hstays := hidle 8 fenceInFlight_notReady (.ringFence 0) (by simp)
  obtain ⟨-, hcompletes⟩ := hfence 0 rfl (by decide) (by decide) rfl rfl rfl rfl hruns hhead rfl hdev hfits (by decide) ⟨rfl, rfl, rfl⟩ hsent
  obtain ⟨t, ht, hdone, -⟩ := hcompletes (.inl (by decide))
  cases hstays.symm.trans ht
  have hmoved := hdone.retired
  rw [hretired] at hmoved
  exact absurd hmoved (by decide)

end

section
/-! # A source past the source table (O59)

A chip reset loses the reports that are still latched and counts each loss in the source table (R389), 16 bytes for each of the 4,096
sources behind the error ring. The claim has every byte of DRAM kept but the table's. A latch of source number 4,096 is counted in the
16 bytes after the table's end. -/
namespace Sys2Proof.Machine

/-- A report that is latched and not written. -/
def latchedReport : Report :=
  { cls := 3, cause := 7, sev := 1, startSeq := 0, lcount := 0, ctx := none, unit := 0, lost := 0, detail := [] }

/-- A chip reset has been asked for, before S8. The error ring and its source table stand in the one bonded channel in service and are in
use; source 0x1000 has a report latched. -/
def latchPastTable : State :=
  { State.reset with
    setup := [(offMem + 0x40, 1)]
    keeper := [(0x10, 0x1000000)]
    err := { ErrSt.atReset with ringReady := true, latches := [(0x1000, { Latch.empty with first := some latchedReport })] }
    resets := { Resets.none with chip := some .trayReset } }

/-- LOST of the entry after the table's last, which lies in DRAM and is 0. -/
theorem latchPastTable_before : isDram 0x10000050004 = true ∧ 0x50000 + latchPastTable.errBase ≤ 0x10000050004
    ∧ latchPastTable.byte 0x10000050004 = 0 := by
  decide +kernel

/-- The reset may be performed, with the services down. -/
theorem latchPastTable_resets : latchPastTable.resets.chip = some .trayReset ∧ latchPastTable.powered = true
    ∧ latchPastTable.resets.cycle = false ∧ latchPastTable.up = false := by
  decide +kernel

/-- The reset counts the lost report there. -/
theorem latchPastTable_after {t : State} (h : exec (.chipReset .trayReset 0) latchPastTable = .next t) : t.byte 0x10000050004 = 1 := by
  have hrun : (match exec (.chipReset .trayReset 0) latchPastTable with | .next t => t.byte 0x10000050004 | _ => 0) = 1 := by
    decide +kernel
  rw [h] at hrun
  exact hrun

end Sys2Proof.Machine

open Sys2Proof Sys2Proof.Machine

/-- Refutes O59: the loss of the report of source 0x1000 is counted behind the source table, where the claim has DRAM as it was. -/
theorem not_resetsAndStarts : ¬ Obligations.ResetsAndStarts := by
  unfold Obligations.ResetsAndStarts
  intro h
  obtain ⟨hdram, hbehind, hzero⟩ := latchPastTable_before
  obtain ⟨hchip, hpowered, hcycle, hdown⟩ := latchPastTable_resets
  obtain ⟨⟨-, -, -, -, -, -, -, hreset, -⟩, -⟩ := h latchPastTable
  obtain ⟨t, ht, -, -, -, -, -, -, -, -, -, -, -, -, -, -, -, -, -, -, -, -, -, -, -, -, -, -, hkept⟩ :=
    hreset .trayReset 0 hchip hpowered hcycle
  have hsame := hkept hdown _ hdram (.inr hbehind)
  rw [latchPastTable_after ht, hzero] at hsame
  exact absurd hsame (by decide)

end

section
/-! # Aperture writes (O36)

An aperture write is one write for each selected cluster, in ascending order (R413, R414). The clusters stay present through it, since
no write reaches a partition's status, so each write is a plain one. -/
namespace Sys2Proof.Machine
open Sys2Proof.Claims

/-! ## CTRL of a list of clusters -/

/-- `t` is `s` with CTRL of these clusters set to `v`, and the gondola's own record of it. -/
structure State.CtrlSet (s t : State) (v : Word) (cs : List Nat) : Prop where
  set : ∀ c ∈ cs, t.reg (0x20000 * c) = v
  kept : regsKept s t (cs.map (0x20000 * ·))
  frame : t = { s with setup := t.setup, svc := { s.svc with clCtrl := t.svc.clCtrl } }

theorem State.clusterPresent_congr {s t : State} (h : ∀ p, t.reg (offPart p) = s.reg (offPart p)) (c : Nat) :
    t.clusterPresent c = s.clusterPresent c := by
  simp only [State.clusterPresent, State.partAbsent, h]

theorem State.clusterPresent_iff {s : State} {c : Nat} :
    s.clusterPresent c = true ↔ c < 96 ∧ s.partAbsent (c / 12) = false := by
  simp [State.clusterPresent]

/-- A partition's status lies behind the clusters' blocks. -/
theorem offPart_notMem {cs : List Nat} (hcs : ∀ c ∈ cs, c < 96) (p : Nat) : offPart p ∉ cs.map (0x20000 * ·) := by
  intro h
  obtain ⟨c, hc, heq⟩ := List.mem_map.mp h
  have hlt := hcs c hc
  simp only [offPart] at heq
  omega

/-- The gondola's write of CTRL of a present cluster. -/
theorem State.setupWrite_ctrl {s : State} {c : Nat} (hpend : s.rwcPend = []) (hc : s.clusterPresent c = true) (v : Word) :
    s.CtrlSet (s.setupWrite 0x650 (offCluster c) v) (v &&& 1) [c] := by
  obtain ⟨hlt, -⟩ := State.clusterPresent_iff.mp hc
  have hoff : offCluster c = 0x20000 * c := rfl
  have hdesc : regDesc (offCluster c) = some (.plain 1 1) := by
    rw [regDesc, if_pos (by omega), show offCluster c % 0x20000 = 0 by omega]
    rfl
  have hhole : s.setupHole (offCluster c) = false := by
    rw [State.setupHole_eq (by omega), if_pos (by omega), show offCluster c / 0x20000 = c by omega, hc]
    rfl
  have hnote : (0x650 ≤ 0x650 ∧ 0x650 < 0x658 ∧ offCluster c < 0xC00000 ∧ offCluster c % 0x20000 = 0) := by omega
  have heq : s.setupWrite 0x650 (offCluster c) v = { s.setReg (offCluster c) (v &&& 1) with
      svc := { s.svc with clCtrl := Sparse.set (fun _ => 1) s.svc.clCtrl (offCluster c / 0x20000) (v &&& 1) } } := by
    simp only [State.setupWrite, hdesc, hhole, RegDesc.plain, State.dropPend_of_none (State.pendOf_of_nil hpend _), State.noteCluster,
      if_pos hnote]
    rfl
  rw [heq]
  refine ⟨fun o ho => ?_, ?_, rfl⟩
  · rw [List.mem_singleton.mp ho]
    exact State.reg_setReg_same ..
  · exact regsKept_setReg s (0x20000 * c) (v &&& 1)

theorem State.CtrlSet.append {s t u : State} {v : Word} {xs ys : List Nat} (h : s.CtrlSet t v xs) (h' : t.CtrlSet u v ys) :
    s.CtrlSet u v (xs ++ ys) := by
  refine ⟨fun c hc => ?_, fun o ho => ?_, h'.frame.trans (by rw [h.frame])⟩
  · by_cases hin : c ∈ ys
    · exact h'.set c hin
    · have hnot : 0x20000 * c ∉ ys.map (0x20000 * ·) := fun hmem => by
        obtain ⟨d, hd, heq⟩ := List.mem_map.mp hmem
        exact hin (by rwa [show c = d by omega])
      exact (h'.kept _ hnot).trans (h.set c ((List.mem_append.mp hc).resolve_right hin))
  · rw [List.map_append, List.mem_append, not_or] at ho
    exact (h'.kept o ho.2).trans (h.kept o ho.1)

/-- The gondola's writes of CTRL of present clusters, one after another. -/
theorem State.forEach_ctrl {v : Word} (cs : List Nat) {s : State} (hpend : s.rwcPend = []) (hcs : ∀ c ∈ cs, s.clusterPresent c = true) :
    s.CtrlSet (forEach (fun s c => s.setupWrite 0x650 (offCluster c) v) s cs) (v &&& 1) cs := by
  induction cs generalizing s with
  | nil => exact ⟨fun c hc => absurd hc List.not_mem_nil, fun _ _ => rfl, rfl⟩
  | cons c cs ih =>
    have hc := hcs c List.mem_cons_self
    have hone := State.setupWrite_ctrl hpend hc v
    have hpres := State.clusterPresent_congr fun p => hone.kept (offPart p)
      (offPart_notMem (fun d hd => List.mem_singleton.mp hd ▸ (State.clusterPresent_iff.mp hc).1) p)
    exact hone.append (ih ((congrArg State.rwcPend hone.frame).trans hpend) fun d hd => (hpres d).trans (hcs d (List.mem_cons_of_mem c hd)))

/-- What the writes say of every cluster, for a list that names clusters below 96. -/
theorem State.CtrlSet.reg_of {s t : State} {v : Word} {cs : List Nat} (h : s.CtrlSet t v cs) (c : Nat) :
    t.reg (0x20000 * c) = if c ∈ cs then v else s.reg (0x20000 * c) := by
  split
  · exact h.set c ‹_›
  · refine h.kept _ fun hmem => ?_
    obtain ⟨d, hd, heq⟩ := List.mem_map.mp hmem
    exact ‹c ∉ cs› (by rwa [show c = d by omega])

theorem State.CtrlSet.reg_other {s t : State} {v : Word} {cs : List Nat} (h : s.CtrlSet t v cs) (hcs : ∀ c ∈ cs, c < 96) {o : Nat}
    (ho : ∀ c < 96, o ≠ 0x20000 * c) : t.reg o = s.reg o := by
  refine h.kept o fun hmem => ?_
  obtain ⟨c, hc, heq⟩ := List.mem_map.mp hmem
  exact ho c (hcs c hc) heq.symm

/-! ## The apertures -/

theorem State.mem_allClusters {s : State} {c : Nat} : c ∈ s.allClusters ↔ s.clusterPresent c = true := by
  rw [State.allClusters, List.mem_filter, List.mem_range, State.clusterPresent_iff]
  exact and_iff_right_of_imp And.left

theorem State.mem_groupClusters {s : State} {c : Nat} :
    c ∈ s.groupClusters ↔ s.clusterPresent c = true ∧ bitAt (s.reg (0x1700000 + 4 * (c / 32))) (c % 32) = true := by
  rw [State.groupClusters, List.mem_filter, List.mem_range, Bool.and_eq_true, State.clusterPresent_iff]
  exact ⟨fun ⟨_, hbit, hpres⟩ => ⟨hpres, hbit⟩, fun ⟨hpres, hbit⟩ => ⟨hpres.1, hbit, hpres⟩⟩

theorem exec_broadcastWrite {s : State} {x : Nat} (h4 : x % 4 = 0) (hx : x < 0x20000) (v : Word) :
    exec (.broadcastWrite x v) s = .next (forEach (fun s c => s.setupWrite 0x650 (offCluster c + x) v) s s.allClusters) := by
  show (if _ then _ else _) = _
  rw [if_pos ⟨h4, hx⟩, State.windowWrite, if_pos (by omega), show 0xC00000 + x - 0xC00000 = x by omega]

theorem exec_groupApertureWrite {s : State} {x : Nat} (h4 : x % 4 = 0) (hx : x < 0x20000) (v : Word) :
    exec (.groupApertureWrite x v) s = .next (forEach (fun s c => s.setupWrite 0x650 (offCluster c + x) v) s s.groupClusters) := by
  show (if _ then _ else _) = _
  rw [if_pos ⟨h4, hx⟩, State.windowWrite, if_neg (by omega), if_pos (by omega), show 0xE00000 + x - 0xE00000 = x by omega]

/-! ## A counter clear for every present core of one position -/

/-- The write of 1 to CVT_COUNT_CLEAR of a present core. -/
theorem State.setupWrite_clearSat {s : State} {n : Nat} (hpend : s.rwcPend = []) (hn : s.corePresent n = true) :
    s.Cleared (s.setupWrite 0x650 (offCore n + 0xC) 1) [coreReg n 0] := by
  have hwrite : s.setupWrite 0x650 (offCore n + 0xC) 1 = s.clearCvt n 1 := State.writeBit_core (b := 0) hpend hn (.inl rfl)
  rw [hwrite]
  exact State.clearBits_bit (b := 0) (by decide) (by decide) s (offCvt n 0)

theorem coreReg_ne_offPart {n : Nat} (hn : n < 1536) (p : Nat) : offPart p ∉ [coreReg n 0] := by
  simp only [List.mem_singleton, offPart, coreReg]
  omega

/-- Clears one after another, each of which leaves what the next one needs. -/
theorem State.Cleared.forEach_of {α : Type} {f : State → α → State} {regs : α → List Nat} {P : State → Prop} (xs : List α)
    (hf : ∀ s, P s → ∀ x ∈ xs, s.Cleared (f s x) (regs x) ∧ P (f s x)) {s : State} (hs : P s) :
    s.Cleared (Machine.forEach f s xs) (xs.flatMap regs) := by
  induction xs generalizing s with
  | nil => exact State.Cleared.refl s
  | cons x xs ih =>
    obtain ⟨hone, hnext⟩ := hf s hs x List.mem_cons_self
    exact hone.append (ih (fun s hs y hy => hf s hs y (List.mem_cons_of_mem x hy)) hnext)

/-- The write of 1 to CVT_COUNT_CLEAR of core `k` of each present cluster. -/
theorem State.forEach_clearSat {k : Nat} (hk : k < 16) (cs : List Nat) {s : State} (hpend : s.rwcPend = [])
    (hcs : ∀ c ∈ cs, s.clusterPresent c = true) :
    s.Cleared (forEach (fun s c => s.setupWrite 0x650 (offCluster c + (0x1000 * (k + 1) + 0xC)) 1) s cs)
      (cs.flatMap fun c => [coreReg (16 * c + k) 0]) := by
  refine State.Cleared.forEach_of (P := fun u => u.rwcPend = [] ∧ ∀ c ∈ cs, u.clusterPresent c = true) cs (fun u hu c hc => ?_)
    ⟨hpend, hcs⟩
  obtain ⟨hupend, hucs⟩ := hu
  obtain ⟨hlt, hpart⟩ := State.clusterPresent_iff.mp (hucs c hc)
  have hn : u.corePresent (16 * c + k) = true := by
    simp only [State.corePresent, Bool.and_eq_true, decide_eq_true_eq, show (16 * c + k) / 192 = c / 12 by omega, hpart]
    exact ⟨by omega, rfl⟩
  have hoff : offCluster c + (0x1000 * (k + 1) + 0xC) = offCore (16 * c + k) + 0xC := by
    simp only [offCore, offCluster]
    omega
  have hone := State.setupWrite_clearSat hupend hn
  rw [hoff]
  have hpres := State.clusterPresent_congr fun p => hone.kept (offPart p) (coreReg_ne_offPart (by omega) p)
  exact ⟨hone, (congrArg State.rwcPend hone.frame).trans hupend, fun d hd => (hpres d).trans (hucs d hd)⟩

end Sys2Proof.Machine

open Sys2Proof Sys2Proof.Machine Sys2Proof.Claims

/-- Settles O36: the broadcast aperture takes the present clusters, the group aperture those that its mask selects. -/
theorem apertureWrites : Obligations.ApertureWrites := by
  unfold Obligations.ApertureWrites
  intro s v hpend
  refine ⟨?_, ?_, fun n hn hv => ?_⟩
  · have hall (c : Nat) (hc : c ∈ s.allClusters) := State.mem_allClusters.mp hc
    have hset := State.forEach_ctrl (v := v) s.allClusters hpend hall
    have hex : exec (.broadcastWrite 0 v) s = .next (forEach (fun s c => s.setupWrite 0x650 (offCluster c) v) s s.allClusters) :=
      exec_broadcastWrite rfl (by decide) v
    refine ⟨_, hex, fun c hc => ?_, fun o ho => ?_, hset.frame⟩
    · simp only [hset.reg_of, State.mem_allClusters, State.clusterPresent_iff]
      cases s.partAbsent (c / 12) <;> simp [hc]
    · exact hset.reg_other (fun c hc => (State.clusterPresent_iff.mp (hall c hc)).1) ho
  · have hall (c : Nat) (hc : c ∈ s.groupClusters) := (State.mem_groupClusters.mp hc).1
    have hset := State.forEach_ctrl (v := v) s.groupClusters hpend hall
    have hex : exec (.groupApertureWrite 0 v) s = .next (forEach (fun s c => s.setupWrite 0x650 (offCluster c) v) s s.groupClusters) :=
      exec_groupApertureWrite rfl (by decide) v
    refine ⟨_, hex, fun c hc => ?_, fun o ho => ?_, hset.frame⟩
    · simp only [hset.reg_of, State.mem_groupClusters, State.clusterPresent_iff, hc, true_and]
    · exact hset.reg_other (fun c hc => (State.clusterPresent_iff.mp (hall c hc)).1) ho
  · subst hv
    have hclear := State.forEach_clearSat (Nat.mod_lt n (by decide : 16 > 0)) s.allClusters hpend fun c hc => State.mem_allClusters.mp hc
    have hlt := State.corePresent_lt hn
    have hpart : s.partAbsent (n / 192) = false := by simpa [State.corePresent, hlt] using hn
    refine ⟨_, exec_broadcastWrite (by omega) (by omega) 1, hclear.zero _ ?_, fun i hi => hclear.kept _ fun hmem => ?_⟩
    · refine List.mem_flatMap.mpr ⟨n / 16, State.mem_allClusters.mpr (State.clusterPresent_iff.mpr ⟨by omega, ?_⟩), ?_⟩
      · rwa [Nat.div_div_eq_div_mul]
      · rw [Nat.div_add_mod]
        exact List.mem_singleton_self _
    · obtain ⟨c, hc, heq⟩ := List.mem_flatMap.mp hmem
      obtain ⟨hc96, hcpart⟩ := State.clusterPresent_iff.mp (State.mem_allClusters.mp hc)
      have hidx : i = 16 * c + n % 16 := by
        have := List.mem_singleton.mp heq
        simp only [coreReg] at this
        omega
      have hpresent : s.corePresent i = true := by
        rw [hidx, State.corePresent, show (16 * c + n % 16) / 192 = c / 12 by omega, hcpart, decide_eq_true (by omega)]
        rfl
      rw [hi] at hpresent
      cases hpresent

end

section
/-! # Writing an error record (O39)

With sound memory the record of the source whose turn it is goes to its slot of the general area and its SEQ to the source table, which
lies behind that area (R389). -/
namespace Sys2Proof.Machine
open Sys2Proof.Claims

/-! ## The record's words (R386) -/

theorem length_recordWords (src : Nat) (seq : Word) (r : Report) : (recordWords src seq r).length = 16 := rfl

/-- The fields of a record's first word. -/
theorem recordHead_fields {cls cause sev lost src : Nat} (hcls : cls < 256) (hcause : cause < 256) (hsev : sev < 4) (hsrc : src < 4096) :
    let w : Word := BitVec.ofNat 32 (cls * 2 ^ 24 + cause * 2 ^ 16 + sev * 2 ^ 14 + (if lost = 0 then 0 else 2 ^ 13) + src % 2 ^ 12)
    fld w 24 8 = cls ∧ fld w 16 8 = cause ∧ fld w 14 2 = sev ∧ fld w 0 12 = src := by
  simp only [fld, bitsOf_eq, BitVec.toNat_ofNat]
  split <;> omega

/-- The context word of a record: the valid bit and the context, if it has one, and the unit (R386). -/
def ctxWord (ctx : Option Nat) (unit : Nat) : Word :=
  BitVec.ofNat 32 (ctx.elim (unit % 2 ^ 16) fun c => 2 ^ 31 + c * 2 ^ 16 + unit % 2 ^ 16)

theorem recordWords_ctx (src : Nat) (seq : Word) (r : Report) : wordAt (recordWords src seq r) 4 = ctxWord r.ctx r.unit := by
  obtain ⟨cls, cause, sev, startSeq, lcount, ctx, unit, detail, lost⟩ := r
  cases ctx <;> rfl

theorem ctxWord_fields (unit : Nat) : ∀ ctx : Option Nat, (∀ c, ctx = some c → c < 64) →
    bitAt (ctxWord ctx unit) 31 = ctx.isSome ∧ (∀ c, ctx = some c → fld (ctxWord ctx unit) 16 6 = c)
      ∧ fld (ctxWord ctx unit) 0 16 = unit % 65536
  | none, _ => by
    simp only [ctxWord, bitAt, fld, bitsOf_eq, BitVec.toNat_ofNat, Option.elim]
    refine ⟨?_, nofun, by omega⟩
    rw [Option.isSome_none, beq_eq_false_iff_ne]
    omega
  | some c, hctx => by
    have hc := hctx c rfl
    simp only [ctxWord, bitAt, fld, bitsOf_eq, BitVec.toNat_ofNat, Option.elim]
    refine ⟨?_, fun d hd => ?_, by omega⟩
    · rw [Option.isSome_some, beq_iff_eq]
      omega
    · cases hd
      omega

theorem recordWords_fields (r : Report) (seq : Word) {src : Nat} (hcls : r.cls < 256) (hcause : r.cause < 256) (hsev : r.sev < 4)
    (hsrc : src < 4096) (hctx : ∀ c, r.ctx = some c → c < 64) :
    let ws := recordWords src seq r
    ws.length = 16 ∧ fld (wordAt ws 0) 24 8 = r.cls ∧ fld (wordAt ws 0) 16 8 = r.cause ∧ fld (wordAt ws 0) 14 2 = r.sev
      ∧ fld (wordAt ws 0) 0 12 = src ∧ wordAt ws 1 = r.startSeq ∧ dwordAt ws 2 = r.lcount.toNat
      ∧ (bitAt (wordAt ws 4) 31 = r.ctx.isSome) ∧ (∀ c, r.ctx = some c → fld (wordAt ws 4) 16 6 = c)
      ∧ fld (wordAt ws 4) 0 16 = r.unit % 65536 ∧ wordAt ws 6 = seq
      ∧ (∀ i < 8, wordAt ws (7 + i) = wordAt r.detail i) ∧ wordAt ws 15 = crc32c (bytesOfWords (ws.take 15)) := by
  obtain ⟨hc, hk, hs, hn⟩ := recordHead_fields (lost := r.lost) hcls hcause hsev hsrc
  obtain ⟨hset, hno, hunit⟩ := ctxWord_fields r.unit r.ctx hctx
  rw [← recordWords_ctx src seq r] at hset hno hunit
  refine ⟨length_recordWords src seq r, hc, hk, hs, hn, rfl, ?_, hset, hno, hunit, rfl, fun i hi => ?_, rfl⟩
  · have hlt := r.lcount.isLt
    show (BitVec.ofNat 32 r.lcount.toNat).toNat + 2 ^ 32 * (BitVec.ofNat 32 (r.lcount.toNat / 2 ^ 32)).toNat = r.lcount.toNat
    simp only [BitVec.toNat_ofNat]
    omega
  · interval_cases i <;> rfl

/-! ## Whole blocks -/

/-- Writing whole blocks of sound memory changes bytes and poison alone. -/
theorem State.putBlocks_of_sound {s : State} (h : soundMem s) (a : Nat) (bs : List Byte) :
    s.putBlocks a bs = { s.putMem a bs with
      poison := Sparse.forget (fun b => decide (a ≤ b) && decide (b + 64 ≤ a + bs.length)) s.poison } := by
  obtain ⟨hdef, hcrc, hbad⟩ := h
  simp only [State.putBlocks, State.freshen, hdef, hcrc, hbad, State.putMem]
  rfl

theorem State.byte_putBlocks (s : State) (a : Nat) (bs : List Byte) {z : Nat} (hz : isRom z = false) :
    (s.putBlocks a bs).byte z = if a ≤ z ∧ z < a + bs.length then bs.getD (z - a) 0 else s.byte z :=
  State.byte_putMem (s.freshen a bs.length) a bs hz

theorem State.crcCheck_of_sound {s : State} (h : soundMem s) (b : Nat) : s.crcCheck b = s :=
  State.crcCheck_of_intact h.1 h.2.1 b

theorem soundMem_putBlocks {s : State} (h : soundMem s) (a : Nat) (bs : List Byte) : soundMem (s.putBlocks a bs) := by
  rw [State.putBlocks_of_sound h]
  exact h

theorem State.srcWord_putBlocks {s : State} (h : soundMem s) (a : Nat) (bs : List Byte) (src i : Nat) :
    (s.putBlocks a bs).srcWord src i = s.srcWord src i := by
  rw [State.putBlocks_of_sound h]
  rfl

/-! ## The ring -/

/-- A record's bytes in its slot, its SEQ in the source table, and the next ERR_WR. -/
def State.entered (s : State) (slot : Nat) (bs : List Byte) (tab : Nat) (seq next : Word) : State :=
  ((s.putBlocks slot bs).putWord tab seq).setKreg 0x14 next

section
variable (s : State) (slot : Nat) (bs : List Byte) (tab : Nat) (seq next : Word)

theorem State.kreg_entered (o : Nat) : (s.entered slot bs tab seq next).kreg o = if o = 0x14 then next else s.kreg o :=
  State.kreg_setKreg ..

theorem State.byte_entered {z : Nat} (hz : isRom z = false) (hout : z < tab ∨ tab + 4 ≤ z) :
    (s.entered slot bs tab seq next).byte z = if slot ≤ z ∧ z < slot + bs.length then bs.getD (z - slot) 0 else s.byte z :=
  (State.byte_putWord_outside (s.putBlocks slot bs) seq hout).trans (State.byte_putBlocks s slot bs hz)

theorem State.bytes_entered (hrom : ∀ i < bs.length, isRom (slot + i) = false) (hout : slot + bs.length ≤ tab) :
    (s.entered slot bs tab seq next).bytes slot bs.length = bs :=
  State.bytes_of_byte fun i hi => by
    rw [State.byte_entered s slot bs tab seq next (hrom i hi) (.inl (by omega)), if_pos (by omega), Nat.add_sub_cancel_left]

theorem State.word_entered (hlo : isRom tab = false) (hhi : isRom (tab + 3) = false) :
    (s.entered slot bs tab seq next).word tab = seq :=
  State.word_putWord (s.putBlocks slot bs) seq hlo hhi

/-- Of whole blocks at a block's address, exactly the blocks written are sound afterwards. -/
theorem State.poisoned_entered {s : State} (hsound : soundMem s) {z : Nat} :
    (s.entered slot bs tab seq next).poisoned z = if slot ≤ z ∧ z + 64 ≤ slot + bs.length then false else s.poisoned z := by
  have hpoison : (s.entered slot bs tab seq next).poison =
      Sparse.forget (fun b => decide (slot ≤ b) && decide (b + 64 ≤ slot + bs.length)) s.poison := by
    rw [State.entered, State.putBlocks_of_sound hsound]
    rfl
  rw [State.poisoned, hpoison, Sparse.get_forget]
  refine if_congr ?_ rfl rfl
  rw [Bool.and_eq_true, decide_eq_true_eq, decide_eq_true_eq]

theorem State.entered_frame {s : State} (hsound : soundMem s) :
    s.entered slot bs tab seq next =
      { s with mem := (s.entered slot bs tab seq next).mem, lost := (s.entered slot bs tab seq next).lost
               poison := (s.entered slot bs tab seq next).poison, keeper := (s.entered slot bs tab seq next).keeper } := by
  rw [State.entered, State.putBlocks_of_sound hsound]
  rfl

end

/-- The state after a record in the general area (R389). -/
def State.recorded (s : State) (src : Nat) (r : Report) : State :=
  s.entered (s.errBase + 64 * (s.errWr.toNat % 4032)) (bytesOfWords (recordWords src s.errWr r)) (s.srcWord src 3) s.errWr (s.errWr + 1)

theorem State.ringWrite_of_sound {s : State} {src : Nat} {r : Report} (hsound : soundMem s) (hsev : r.sev ≠ 3)
    (hmirror : bitAt (s.kreg 0x24) 0 = false) : s.ringWrite src r = s.recorded src r := by
  have hkreg := State.kreg_entered s (s.errBase + 64 * (s.errWr.toNat % 4032)) (bytesOfWords (recordWords src s.errWr r))
    (s.srcWord src 3) s.errWr (s.errWr + 1) 0x24
  rw [if_neg (by decide), State.entered] at hkreg
  rw [State.ringWrite, if_neg fun h => hsev h.1]
  simp only [State.crcCheck_of_sound (soundMem_putBlocks hsound _ _), hmirror, hkreg, Bool.false_and, Bool.false_eq_true, if_false,
    State.srcWord_putBlocks hsound, State.recorded, State.entered]

/-- The state after a record is entered for a source, whose first report it was (R391). -/
def State.served (s : State) (src slot : Nat) (bs : List Byte) (tab : Nat) (seq next : Word) : State :=
  let u := (s.setLatch src { s.latch src with first := none }).entered slot bs tab seq next
  { u with err := { u.err with lastSrc := src } }

section
variable {s : State} (src slot : Nat) (bs : List Byte) (tab : Nat) (seq next : Word)

theorem State.served_frame (hsound : soundMem s) :
    s.served src slot bs tab seq next =
      { s with mem := (s.served src slot bs tab seq next).mem, lost := (s.served src slot bs tab seq next).lost
               poison := (s.served src slot bs tab seq next).poison, keeper := (s.served src slot bs tab seq next).keeper
               err := { s.err with latches := Sparse.set (fun _ => Latch.empty) s.err.latches src { s.latch src with first := none }
                                   lastSrc := src } } := by
  have h := State.entered_frame slot bs tab seq next (s := s.setLatch src { s.latch src with first := none }) hsound
  rw [State.served]
  generalize (s.setLatch src { s.latch src with first := none }).entered slot bs tab seq next = u at h
  rw [h]
  rfl

theorem State.latch_served (hsound : soundMem s) :
    (s.served src slot bs tab seq next).latch src = { s.latch src with first := none } := by
  rw [State.served_frame src slot bs tab seq next hsound]
  exact Sparse.get_set_same ..

/-- What a record entered in a block before its table changes, and that nothing else changes. -/
theorem State.served_spec (hsound : soundMem s) (hlen : bs.length = 64) (haligned : slot % 64 = 0) (hbefore : slot + 64 ≤ tab)
    (hrom : ∀ z ≤ tab + 4, isRom z = false) :
    let t := s.served src slot bs tab seq next
    t.bytes slot 64 = bs ∧ t.kreg 0x14 = next ∧ t.word tab = seq ∧ (t.latch src).first = none
      ∧ (t.latch src).latest = (s.latch src).latest ∧ t.err.lastSrc = src
      ∧ (∀ z, z < slot ∨ slot + 64 ≤ z → z < tab ∨ tab + 4 ≤ z → t.byte z = s.byte z)
      ∧ (∀ o, o ≠ 0x14 → t.kreg o = s.kreg o)
      ∧ t.poisoned slot = false ∧ (∀ z, z % 64 = 0 → z ≠ slot → t.poisoned z = s.poisoned z)
      ∧ t = { s with mem := t.mem, lost := t.lost, poison := t.poison, keeper := t.keeper, err := t.err } := by
  intro t
  let u := s.setLatch src { s.latch src with first := none }
  have hkreg (o : Nat) : t.kreg o = if o = 0x14 then next else s.kreg o := State.kreg_entered u slot bs tab seq next o
  have hpoison (z : Nat) : t.poisoned z = if slot ≤ z ∧ z + 64 ≤ slot + bs.length then false else s.poisoned z :=
    State.poisoned_entered slot bs tab seq next (s := u) hsound
  have hbytes : t.bytes slot bs.length = bs := (State.bytes_congr (s := u.entered slot bs tab seq next) (t := t) (fun _ => rfl) ..).trans <|
    State.bytes_entered u slot bs tab seq next (fun i hi => hrom _ (by omega)) (by omega)
  have hlatch : t.latch src = { s.latch src with first := none } := State.latch_served src slot bs tab seq next hsound
  rw [hlen] at hbytes
  simp only [hlen] at hpoison
  refine ⟨hbytes, (hkreg _).trans (if_pos rfl), State.word_entered u slot bs tab seq next (hrom _ (by omega)) (hrom _ (by omega)),
    congrArg Latch.first hlatch, (congrArg Latch.latest hlatch :), rfl, fun z hslot htab => ?_, fun o ho => (hkreg o).trans (if_neg ho),
    (hpoison slot).trans (if_pos (by omega)), fun z hz hne => (hpoison z).trans (if_neg (by omega)), ?_⟩
  · cases hz : isRom z with
    | true => exact State.byte_rom _ _ hz
    | false => exact (State.byte_entered u slot bs tab seq next hz htab).trans (if_neg (by omega))
  · have h := State.served_frame src slot bs tab seq next hsound
    exact h.trans (congrArg (fun e => { s with mem := t.mem, lost := t.lost, poison := t.poison, keeper := t.keeper, err := e })
      (congrArg State.err h).symm)

end

/-- ERROR_RECORD_WRITE of the source that is served next, with room in the general area. -/
theorem exec_errorRecordWrite {s : State} {src : Nat} {r : Report} (hready : s.err.ringReady = true) (hearly : s.err.earlyUsed = 0)
    (hnext : s.nextSource = some src) (hfirst : (s.latch src).first = some r) (hsev : r.sev ≠ 3)
    (hroom : (s.kreg 0x14 - s.kreg 0x18).toNat < 4032) (hmirror : bitAt (s.kreg 0x24) 0 = false) (hsound : soundMem s) :
    exec (.errorRecordWrite src) s = .next (s.served src (s.errBase + 64 * (s.errWr.toNat % 4032))
      (bytesOfWords (recordWords src s.errWr r)) (s.srcWord src 3) s.errWr (s.errWr + 1)) := by
  have hcan : s.canWrite r.sev = true := by
    have hroom' : s.ringRoom = true := decide_eq_true hroom
    rw [State.canWrite, hroom', Bool.or_true]
  have hwrite : (s.setLatch src { s.latch src with first := none }).writeRecord src r =
      (s.setLatch src { s.latch src with first := none }).recorded src r := by
    rw [State.writeRecord, State.noteFatal, if_neg hsev]
    exact (if_pos hready).trans (State.ringWrite_of_sound hsound hsev hmirror)
  show execErrorRecordWrite src s = _
  simp [execErrorRecordWrite, hready, hearly, hnext, hfirst, hcan, hwrite]
  rfl

theorem length_recordBytes (src : Nat) (seq : Word) (r : Report) : (bytesOfWords (recordWords src seq r)).length = 64 := by
  rw [bytesOfWords_length, length_recordWords]

end Sys2Proof.Machine

open Sys2Proof Sys2Proof.Machine Sys2Proof.Claims

/-- Settles O39: the served source's record, the sources that wait, and the fields of a record. -/
theorem errorRecords : Obligations.ErrorRecords := by
  unfold Obligations.ErrorRecords
  intro s src
  refine ⟨fun r hsrc hready hearly hnext hfirst hsev hroom hmirror => ?_, fun hnext hearly => ?_,
    fun r seq hcls hcause hsev hsrc hctx => recordWords_fields r seq hcls hcause hsev hsrc hctx⟩
  · intro base at' hdram hsound
    have hslot : (s.kreg 0x14).toNat % 4032 < 4032 := Nat.mod_lt _ (by decide)
    have htab : s.srcWord src 3 = 0x4000C + base + 16 * src := by
      show 0x40000 + base + 16 * src + 4 * 3 = _
      omega
    have hspec := State.served_spec (s := s) src at' (bytesOfWords (recordWords src s.errWr r)) (0x4000C + base + 16 * src) s.errWr
      (s.errWr + 1) hsound (length_recordBytes ..) (by omega) (by omega) fun z hz => isRom_of_dram hdram (by omega)
    have hexec := exec_errorRecordWrite hready hearly hnext hfirst hsev hroom hmirror hsound
    rw [htab] at hexec
    refine ⟨_, hexec, ?_⟩
    have hend : 0x4000C + base + 16 * src + 4 = 0x40010 + base + 16 * src := by omega
    rw [hend] at hspec
    exact hspec
  · show execErrorRecordWrite src s = _
    have hnot : (s.err.ringReady && decide (s.err.earlyUsed ≠ 0)) = false := by
      rcases hearly with h | h <;> simp [h]
    simp only [execErrorRecordWrite, hnot, Bool.false_eq_true, if_false, if_pos hnext]

end

section
/-! # The SPDM responder and the management port (O60), first part: messages to the host, and the responder

Whoever is heard is answered: over the Sornal link while it is UP, over the bus while it is not stuck (R383, R437). -/
namespace Sys2Proof.Machine
open Sys2Proof.Claims

/-! ## Messages to the host -/

/-- A message that the link is not needed for, or that it carries, goes out; of the rest of the state only the links change. -/
theorem State.toHost_sent {s : State} {m : HostMsg} (h : sornalPackets m = [] ∨ s.linkUp 16 = true) :
    ∃ links, s.toHost m = { s with hostOut := s.hostOut ++ [m], links := links } := by
  unfold State.toHost
  split
  · exact ⟨s.links, rfl⟩
  · next hne =>
    have hup : s.linkUp 16 = true := h.resolve_left hne
    rw [hup]
    exact ⟨_, rfl⟩

/-- `Says` in the form in which messages are sent: from a state that differs from the first in connections and free values. -/
theorem says_of_sent {s u t : State} {m : HostMsg} {links : Sparse Link} (hu : u = { s with spdm := u.spdm, freeCtr := u.freeCtr })
    (ht : t = { u with hostOut := u.hostOut ++ [m], links := links }) : Says s t m := by
  have hout := congrArg State.hostOut hu
  rw [ht]
  refine ⟨congrArg (· ++ [m]) hout, ?_⟩
  rw [hu]

/-! ## Requests of the responder -/

/-- What a transport must have for the module to hear it (R383, R437). -/
theorem State.hears_iff (s : State) (tr : Transport) :
    s.hears tr = true ↔ s.powered = true ∧ s.standby = false ∧ s.mgmt.stopped = false
      ∧ (tr = .sideband → s.linkUp 16 = true) ∧ (tr = .smbus → s.busStuck = false) := by
  cases tr <;> simp [State.hears, and_assoc]

section
variable {s u : State} {tr : Transport} {req : List Byte}

/-- A message to a transport that is heard goes out, and leaves the connections. -/
theorem State.says_spdmSend (hears : s.hears tr = true) (hu : u = { s with spdm := u.spdm, freeCtr := u.freeCtr }) (bs : List Byte) :
    Says s (u.spdmSend tr bs) (.spdm tr bs) ∧ (u.spdmSend tr bs).spdm = u.spdm := by
  have hup : sornalPackets (.spdm tr bs) = [] ∨ u.linkUp 16 = true := by
    obtain ⟨-, -, -, hside, -⟩ := (State.hears_iff s tr).mp hears
    cases tr with
    | smbus => exact .inl rfl
    | sideband =>
      rw [hu]
      exact .inr (hside rfl)
  obtain ⟨links, hsent⟩ := State.toHost_sent hup
  have hspdm := congrArg State.spdm hsent
  exact ⟨says_of_sent hu hsent, hspdm⟩

/-- The request's answer is this message, and its connections stay. -/
def Tells (s : State) (tr : Transport) (bs : List Byte) (t : State) : Prop := Says s t (.spdm tr bs) ∧ t.spdm = s.spdm

theorem State.tells_spdmSend (hears : s.hears tr = true) (bs : List Byte) : Tells s tr bs (s.spdmSend tr bs) :=
  State.says_spdmSend hears rfl bs

theorem not_unheard (hears : s.hears tr = true) {code : Byte} (hcode : req.getD 1 0 = code) :
    ¬ (s.hears tr = false ∨ req.getD 1 0 ≠ code) := fun h => h.elim (fun h => Bool.noConfusion (hears.symm.trans h)) (· hcode)

/-- What every row of the responder does before its own answer (R383, R385). -/
theorem State.spdmRequest_refuses (s : State) (tr : Transport) (req : List Byte) {c : Instr} {code : Byte} {n : Nat} {ready : Spdm → Bool} {act : State → State}
    (hc : exec c s = .next (s.spdmRequest tr req code n ready act)) :
    (s.hears tr = false ∨ req.getD 1 0 ≠ code → exec c s = .next s)
    ∧ (s.hears tr = true → req.getD 1 0 = code → s.start.s1Passed = false → Next c s (Tells s tr [0x12, 0x7F, 5, 0]))
    ∧ (s.hears tr = true → req.getD 1 0 = code → s.start.s1Passed = true → req.length < n → Next c s (Tells s tr [0x12, 0x7F, 1, 0]))
    ∧ (s.hears tr = true → req.getD 1 0 = code → s.start.s1Passed = true → n ≤ req.length → ready (s.conn tr) = false →
      Next c s (Tells s tr [0x12, 0x7F, 4, 0])) := by
  have htells (hears : s.hears tr = true) (e : Byte) (h : s.spdmRequest tr req code n ready act = s.spdmError tr e) :
      Next c s (Tells s tr [0x12, 0x7F, e, 0]) := ⟨_, hc.trans (congrArg Host.Outcome.next h), State.tells_spdmSend hears _⟩
  refine ⟨fun h => ?_, fun hears hcode hs1 => htells hears 5 ?_, fun hears hcode hs1 hn => htells hears 1 ?_,
    fun hears hcode hs1 hn hready => htells hears 4 ?_⟩
  · rw [hc, State.spdmRequest, if_pos h]
  · rw [State.spdmRequest, if_neg (not_unheard hears hcode), if_pos hs1]
  · rw [State.spdmRequest, if_neg (not_unheard hears hcode), if_neg (by simp [hs1]), if_pos hn]
  · rw [State.spdmRequest, if_neg (not_unheard hears hcode), if_neg (by simp [hs1]), if_neg (Nat.not_lt.mpr hn), if_pos hready]

/-- Past the refusals a row does what it is for. -/
theorem State.spdmRequest_acts (hears : s.hears tr = true) {code : Byte} (hcode : req.getD 1 0 = code) (hs1 : s.start.s1Passed = true)
    {n : Nat} (hn : n ≤ req.length) {ready : Spdm → Bool} (hready : ready (s.conn tr) = true) (act : State → State) :
    s.spdmRequest tr req code n ready act = act s := by
  rw [State.spdmRequest, if_neg (not_unheard hears hcode), if_neg (by simp [hs1]), if_neg (Nat.not_lt.mpr hn), if_neg (by simp [hready])]

theorem trKey_inj {a b : Transport} (h : trKey a = trKey b) : a = b := by
  revert h
  cases a <;> cases b <;> decide

theorem State.conn_setConn (s : State) (tr u : Transport) (x : Spdm) : (s.setConn tr x).conn u = if u = tr then x else s.conn u := by
  rw [State.conn, State.setConn, Sparse.get_set]
  by_cases h : u = tr
  · rw [if_pos h, if_pos (congrArg trKey h)]
  · rw [if_neg h, if_neg fun h' => h (trKey_inj h')]
    rfl

/-- The answers that change the transport's connection. -/
theorem State.joins_spdmSend (hears : s.hears tr = true) (x : Spdm) (bs : List Byte) :
    let t := (s.setConn tr x).spdmSend tr bs
    Says s t (.spdm tr bs) ∧ t.conn tr = x ∧ ∀ u, u ≠ tr → t.conn u = s.conn u := by
  obtain ⟨hsays, hspdm⟩ := State.says_spdmSend (u := s.setConn tr x) hears rfl bs
  have hconn (u : Transport) : ((s.setConn tr x).spdmSend tr bs).conn u = if u = tr then x else s.conn u := by
    rw [State.conn, hspdm]
    exact State.conn_setConn s tr u x
  exact ⟨hsays, (hconn tr).trans (if_pos rfl), fun u hu => (hconn u).trans (if_neg hu)⟩

theorem State.length_freshBytes (s : State) (n : Nat) : (s.freshBytes n).2.length = n := by
  simp [State.freshBytes]

theorem State.freshBytes_frame (s : State) (n : Nat) : (s.freshBytes n).1 = { s with freeCtr := s.freeCtr + 1 } := rfl

/-- A MEASUREMENTS response, signed or not. -/
theorem State.sendMeasurements_says (hears : s.hears tr = true) (signed : Bool) (total : Byte) (blocks : List (List Byte)) :
    let t := s.sendMeasurements tr signed total blocks
    ∃ nonce sig : List Byte, nonce.length = 32 ∧ sig.length = (if signed = true then 96 else 0) ∧ t.spdm = s.spdm
      ∧ Says s t (.spdm tr ([0x12, 0x60, total, 0, BitVec.ofNat 8 blocks.length] ++ bytesLE 3 (blocks.flatMap id).length
          ++ blocks.flatMap id ++ nonce ++ [0, 0] ++ sig)) := by
  cases signed with
  | false =>
    obtain ⟨hsays, hspdm⟩ := State.says_spdmSend (u := (s.freshBytes 32).1) hears rfl
      ([0x12, 0x60, total, 0, BitVec.ofNat 8 blocks.length] ++ bytesLE 3 (blocks.flatMap id).length ++ blocks.flatMap id
        ++ (s.freshBytes 32).2 ++ [0, 0] ++ [])
    exact ⟨_, [], s.length_freshBytes 32, rfl, hspdm, hsays⟩
  | true =>
    obtain ⟨hsays, hspdm⟩ := State.says_spdmSend (u := ((s.freshBytes 32).1.freshBytes 96).1) hears rfl
      ([0x12, 0x60, total, 0, BitVec.ofNat 8 blocks.length] ++ bytesLE 3 (blocks.flatMap id).length ++ blocks.flatMap id
        ++ (s.freshBytes 32).2 ++ [0, 0] ++ ((s.freshBytes 32).1.freshBytes 96).2)
    exact ⟨_, _, s.length_freshBytes 32, State.length_freshBytes _ 96, hspdm, hsays⟩

end

/-! ## The rows -/

section
variable {s : State} {tr : Transport} {req : List Byte} (hears : s.hears tr = true) (hs1 : s.start.s1Passed = true)
include hears hs1

theorem exec_getVersion_joins (hcode : req.getD 1 0 = 0x84) (hn : 4 ≤ req.length) :
    Next (.getVersion tr req) s fun t => Says s t (.spdm tr [0x10, 4, 0, 0, 0, 1, 0, 0x12])
      ∧ t.conn tr = { versioned := true, capable := false, negotiated := false } ∧ ∀ u, u ≠ tr → t.conn u = s.conn u :=
  ⟨_, congrArg Host.Outcome.next (State.spdmRequest_acts hears hcode hs1 hn rfl _), State.joins_spdmSend hears _ _⟩

theorem exec_getCapabilities_joins (hcode : req.getD 1 0 = 0xE1) (hn : 4 ≤ req.length) (hready : (s.conn tr).versioned = true) :
    ∃ sizes : List Byte, sizes.length = 8 ∧ Next (.getCapabilities tr req) s fun t =>
      Says s t (.spdm tr ([0x12, 0x61, 0, 0, 0, 20, 0, 0, 0x16, 0, 0, 0] ++ sizes))
      ∧ t.conn tr = { s.conn tr with capable := true } ∧ ∀ u, u ≠ tr → t.conn u = s.conn u :=
  ⟨(List.range 8).map (Config.spdmByte 1), by simp, _, congrArg Host.Outcome.next (State.spdmRequest_acts hears hcode hs1 hn hready _),
    State.joins_spdmSend hears _ _⟩

theorem exec_negotiateAlgorithms_joins (hcode : req.getD 1 0 = 0xE3) (hn : 4 ≤ req.length) (hready : (s.conn tr).capable = true) :
    Next (.negotiateAlgorithms tr req) s fun t =>
      Says s t (.spdm tr ([0x12, 0x63, 0, 0, 36, 0, 1, 0, 4, 0, 0, 0, 0x80, 0, 0, 0, 2, 0, 0, 0] ++ List.replicate 16 0))
      ∧ t.conn tr = { s.conn tr with negotiated := true } ∧ ∀ u, u ≠ tr → t.conn u = s.conn u :=
  ⟨_, congrArg Host.Outcome.next (State.spdmRequest_acts hears hcode hs1 hn hready _), State.joins_spdmSend hears _ _⟩

variable (hready : (s.conn tr).negotiated = true)
include hready

theorem exec_getDigests_tells (hcode : req.getD 1 0 = 0x81) (hn : 4 ≤ req.length) :
    Next (.getDigests tr req) s (Tells s tr ([0x12, 1, 0, 1] ++ sha s.certChain)) :=
  ⟨_, congrArg Host.Outcome.next (State.spdmRequest_acts hears hcode hs1 hn hready _), State.tells_spdmSend hears _⟩

theorem exec_getCertificate_tells (hcode : req.getD 1 0 = 0x82) (hn : 8 ≤ req.length) :
    let off := reqByte req 4 + 256 * reqByte req 5
    let n := min (min (reqByte req 6 + 256 * reqByte req 7) 1024) (s.certChain.length - off)
    (reqByte req 2 % 16 ≠ 0 ∨ s.certChain.length ≤ off → Next (.getCertificate tr req) s (Tells s tr [0x12, 0x7F, 1, 0]))
    ∧ (reqByte req 2 % 16 = 0 → off < s.certChain.length → Next (.getCertificate tr req) s (Tells s tr
        ([0x12, 2, 0, 0] ++ bytesLE 2 n ++ bytesLE 2 (s.certChain.length - off - n) ++ (s.certChain.drop off).take n))) := by
  have hacts := State.spdmRequest_acts (ready := Spdm.negotiated) hears hcode hs1 hn hready
  refine ⟨fun hbad => ?_, fun hslot hoff => ?_⟩
  · exact ⟨_, congrArg Host.Outcome.next ((hacts _).trans (if_pos hbad)), State.tells_spdmSend hears _⟩
  · refine ⟨_, congrArg Host.Outcome.next ((hacts _).trans (if_neg ?_)), State.tells_spdmSend hears _⟩
    omega

theorem exec_challenge_tells (hcode : req.getD 1 0 = 0x83) (hn : 36 ≤ req.length) :
    (reqByte req 2 ≠ 0 ∨ (reqByte req 3 ≠ 0 ∧ reqByte req 3 ≠ 0xFF) → Next (.challenge tr req) s (Tells s tr [0x12, 0x7F, 1, 0]))
    ∧ (reqByte req 2 = 0 → reqByte req 3 = 0 ∨ reqByte req 3 = 0xFF → Next (.challenge tr req) s fun t => ∃ nonce sig : List Byte,
        nonce.length = 32 ∧ sig.length = 96 ∧ t.spdm = s.spdm ∧ Says s t (.spdm tr ([0x12, 3, 0, 1] ++ sha s.certChain ++ nonce
          ++ (if reqByte req 3 = 0 then [] else sha ((s.measBlocks [1, 2, 3, 4, 5]).flatMap id)) ++ [0, 0] ++ sig))) := by
  have hacts := State.spdmRequest_acts (ready := Spdm.negotiated) hears hcode hs1 hn hready
  refine ⟨fun hbad => ?_, fun hslot htype => ?_⟩
  · refine ⟨_, congrArg Host.Outcome.next ((hacts _).trans (if_pos ?_)), State.tells_spdmSend hears _⟩
    omega
  · obtain ⟨hsays, hspdm⟩ := State.says_spdmSend (u := ((s.freshBytes 32).1.freshBytes 96).1) hears rfl
      ([0x12, 3, 0, 1] ++ sha s.certChain ++ (s.freshBytes 32).2
        ++ (if reqByte req 3 = 0 then [] else sha ((s.measBlocks [1, 2, 3, 4, 5]).flatMap id)) ++ [0, 0]
        ++ ((s.freshBytes 32).1.freshBytes 96).2)
    refine ⟨_, congrArg Host.Outcome.next ((hacts _).trans (if_neg ?_)), _, _, s.length_freshBytes 32, State.length_freshBytes _ 96, hspdm, hsays⟩
    omega

/-- The five answers of GET_MEASUREMENTS by its operation (R384, R385). -/
theorem exec_getMeasurements_lists (hcode : req.getD 1 0 = 0xE0) (hn : (if reqByte req 2 % 2 = 1 then 37 else 4) ≤ req.length) :
    let op := reqByte req 3
    let lists (total : Byte) (blocks : List (List Byte)) : Prop := Next (.getMeasurements tr req) s fun t =>
      ∃ nonce sig : List Byte, nonce.length = 32 ∧ sig.length = (if reqByte req 2 % 2 = 1 then 96 else 0) ∧ t.spdm = s.spdm
        ∧ Says s t (.spdm tr ([0x12, 0x60, total, 0, BitVec.ofNat 8 blocks.length] ++ bytesLE 3 (blocks.flatMap id).length
          ++ blocks.flatMap id ++ nonce ++ [0, 0] ++ sig))
    (op = 0 → lists 5 []) ∧ (op = 0xFF → lists 0 (s.measBlocks [1, 2, 3, 4, 5]))
    ∧ (5 < op → op < 0xFF → Next (.getMeasurements tr req) s (Tells s tr [0x12, 0x7F, 1, 0]))
    ∧ (∀ v, 1 ≤ op → op ≤ 5 → s.measurement op = some v → lists 0 [measBlock op v])
    ∧ (1 ≤ op → op ≤ 5 → s.measurement op = none →
        Next (.getMeasurements tr req) s (Tells s tr [0x12, 0x7F, if s.start.running = true then 3 else 1, 0])) := by
  intro op lists
  have hacts := State.spdmRequest_acts (ready := Spdm.negotiated) hears hcode hs1 hn hready
  have hlists (total : Byte) (blocks : List (List Byte))
      (h : exec (.getMeasurements tr req) s = .next (s.sendMeasurements tr (reqByte req 2 % 2 == 1) total blocks)) : lists total blocks := by
    have hsent := State.sendMeasurements_says hears (reqByte req 2 % 2 == 1) total blocks
    simp only [beq_iff_eq] at hsent
    exact ⟨_, h, hsent⟩
  refine ⟨fun h0 => hlists 5 [] ?_, fun hall => hlists 0 _ ?_, fun hlo hhi => ⟨_, congrArg Host.Outcome.next ((hacts _).trans ?_), State.tells_spdmSend hears _⟩,
    fun v hlo hhi hv => hlists 0 _ ?_, fun hlo hhi hv => ⟨_, congrArg Host.Outcome.next ((hacts _).trans ?_), State.tells_spdmSend hears _⟩⟩
  · exact congrArg Host.Outcome.next ((hacts _).trans (if_pos h0))
  · exact congrArg Host.Outcome.next ((hacts _).trans ((if_neg (by omega)).trans (if_pos hall)))
  · exact (if_neg (by omega)).trans ((if_neg (by omega)).trans (if_pos hlo))
  · refine congrArg Host.Outcome.next ((hacts _).trans ((if_neg (by omega)).trans ((if_neg (by omega)).trans ((if_neg (by omega)).trans ?_))))
    simp only [op] at hv
    simp only [hv]
    rfl
  · refine (if_neg (by omega)).trans ((if_neg (by omega)).trans ((if_neg (by omega)).trans ?_))
    simp only [op] at hv
    simp only [hv]
    rfl

end

/-- UNSUPPORTED_REQUEST (R383, R385). -/
theorem exec_unsupportedRequest_tells {s : State} {tr : Transport} {req : List Byte} (hears : s.hears tr = true)
    (hcode : req.getD 1 0 ∉ spdmCodes) :
    Next (.unsupportedRequest tr req) s (Tells s tr [0x12, 0x7F, if s.start.s1Passed = true then 7 else 5, 0]) := by
  refine ⟨_, ?_, State.tells_spdmSend hears _⟩
  show execUnsupportedRequest tr req s = _
  rw [execUnsupportedRequest, if_neg]
  · rfl
  · rw [hears, List.contains_iff_mem]
    exact fun h => h.elim Bool.noConfusion hcode

/-- VENDOR_DEFINED_MESSAGE_SUPPORT (R437). -/
theorem exec_vendorDefined_says {s : State} (tr : Transport) : s.hears tr = true →
    Next (.vendorDefinedMessageSupport tr) s fun t => Says s t
      (match tr with
        | .sideband => .sideband (bytesLE 4 Config.ianaNumber.toNat)
        | .smbus => .mgmt .smbus (bytesLE 4 Config.ianaNumber.toNat)) := by
  intro hears
  refine ⟨_, if_pos hears, ?_⟩
  cases tr with
  | sideband =>
    obtain ⟨-, -, -, hside, -⟩ := (State.hears_iff s _).mp hears
    obtain ⟨links, hsent⟩ := State.toHost_sent (m := .sideband (bytesLE 4 Config.ianaNumber.toNat)) (.inr (hside rfl))
    exact says_of_sent rfl hsent
  | smbus => exact says_of_sent rfl rfl

/-- The responder as O60 claims it. -/
theorem responds (s : State) : Responds s := by
  intro tr req code at' conn tells chain hears
  have hyes : hears ↔ s.hears tr = true := (State.hears_iff s tr).symm
  have hnot : ¬ hears ↔ s.hears tr = false := by rw [hyes, Bool.not_eq_true]
  rw [hnot, hyes]
  refine ⟨fun x hx => ?_, fun h => if_pos (h.symm.imp id (List.contains_iff_mem.mpr ·)), fun h hcode => exec_unsupportedRequest_tells h hcode,
    fun h hs1 => ⟨exec_getVersion_joins h hs1, exec_getCapabilities_joins h hs1, exec_negotiateAlgorithms_joins h hs1,
      fun hready => ⟨exec_getDigests_tells h hs1 hready, exec_getCertificate_tells h hs1 hready, exec_challenge_tells h hs1 hready,
        exec_getMeasurements_lists h hs1 hready⟩⟩, fun h => if_neg (Bool.not_eq_true _ ▸ h), exec_vendorDefined_says tr⟩
  simp only [List.mem_cons, List.not_mem_nil, or_false] at hx
  rcases hx with rfl | rfl | rfl | rfl | rfl | rfl | rfl
  · have h := State.spdmRequest_refuses (c := .getVersion tr req) s tr req rfl
    exact ⟨h.1, h.2.1, h.2.2.1, nofun⟩
  · exact State.spdmRequest_refuses (c := .getCapabilities tr req) (ready := Spdm.versioned) s tr req rfl
  · exact State.spdmRequest_refuses (c := .negotiateAlgorithms tr req) (ready := Spdm.capable) s tr req rfl
  · exact State.spdmRequest_refuses (c := .getDigests tr req) (ready := Spdm.negotiated) s tr req rfl
  · exact State.spdmRequest_refuses (c := .getCertificate tr req) (ready := Spdm.negotiated) s tr req rfl
  · exact State.spdmRequest_refuses (c := .challenge tr req) (ready := Spdm.negotiated) s tr req rfl
  · exact State.spdmRequest_refuses (c := .getMeasurements tr req) (ready := Spdm.negotiated) s tr req rfl

end Sys2Proof.Machine
end

section
/-! # The SPDM responder and the management port (O60), second part: the management commands and the pins -/
namespace Sys2Proof.Machine
open Sys2Proof.Claims

/-! ## One bit of a word -/

theorem fld_one (w : Word) (i : Nat) : fld w i 1 = if w.getLsbD i then 1 else 0 := bitsOf_one w.toNat i

theorem setFld_one_set (w : Word) {i : Nat} (hi : i < 32) : setFld w i 1 1 = w ||| BitVec.twoPow 32 i := by
  rw [setFld, fld_one]
  cases h : w.getLsbD i with
  | true =>
    have hle : 2 ^ i ≤ w.toNat := Nat.ge_two_pow_of_testBit h
    have hkept : w ||| BitVec.twoPow 32 i = w := by
      ext j hj
      rw [BitVec.getElem_or, BitVec.getElem_twoPow]
      by_cases hij : j = i
      · subst hij
        simpa [hj] using h
      · simp [hij]
    rw [hkept, if_pos rfl, one_mul, Nat.one_mod_two_pow_eq_one.mpr (by decide), one_mul, Nat.sub_add_cancel hle, BitVec.ofNat_toNat,
      BitVec.setWidth_eq]
  | false =>
    have hand : w &&& BitVec.twoPow 32 i = 0#32 := by rw [BitVec.and_twoPow, h, if_neg Bool.false_ne_true]
    rw [← BitVec.add_eq_or_of_and_eq_zero _ _ hand]
    apply BitVec.eq_of_toNat_eq
    simp [BitVec.toNat_twoPow]

theorem setFld_one_clear (w : Word) {i : Nat} (hi : i < 32) : setFld w i 1 0 = w &&& ~~~BitVec.twoPow 32 i := by
  rw [setFld, fld_one]
  cases h : w.getLsbD i with
  | true =>
    have hand : w &&& ~~~BitVec.twoPow 32 i &&& BitVec.twoPow 32 i = 0#32 := by
      ext j hj
      simp
    have hback : (w &&& ~~~BitVec.twoPow 32 i) ||| BitVec.twoPow 32 i = w := by
      ext j hj
      rw [BitVec.getElem_or, BitVec.getElem_and, BitVec.getElem_not, BitVec.getElem_twoPow]
      by_cases hij : j = i
      · subst hij
        simpa [hj] using h.symm
      · simp [hij]
    have hnat := congrArg BitVec.toNat ((BitVec.add_eq_or_of_and_eq_zero _ _ hand).trans hback)
    have hlt : 2 ^ i < 2 ^ 32 := Nat.pow_lt_pow_right (by decide) hi
    have hle : 2 ^ i ≤ w.toNat := Nat.ge_two_pow_of_testBit h
    have hw := w.isLt
    have hrest := (w &&& ~~~BitVec.twoPow 32 i).isLt
    rw [BitVec.toNat_add, BitVec.toNat_twoPow, Nat.mod_eq_of_lt hlt] at hnat
    apply BitVec.eq_of_toNat_eq
    rw [BitVec.toNat_ofNat, if_pos rfl, Nat.zero_mod, zero_mul, one_mul, Nat.add_zero]
    omega
  | false =>
    have hkept : w &&& ~~~BitVec.twoPow 32 i = w := by
      ext j hj
      rw [BitVec.getElem_and, BitVec.getElem_not, BitVec.getElem_twoPow]
      by_cases hij : j = i
      · subst hij
        simpa [hj] using h
      · simp [hij]
    rw [hkept]
    simp

/-- The low field of a word after it has been set. -/
theorem fld_setFld_low (w : Word) {v : Nat} (hv : v < 2 ^ 11) : fld (setFld w 0 11 v) 0 11 = v := by
  have hw := w.isLt
  simp only [fld, setFld, bitsOf_eq, BitVec.toNat_ofNat]
  omega

/-! ## What reports leave of the set-up window -/

/-- The registers above the memory controllers' blocks are the same in both states. -/
def State.SameRegs (s t : State) : Prop := ∀ o, 0x1230000 ≤ o → t.reg o = s.reg o

theorem State.SameRegs.of_setup {s t : State} (h : t.setup = s.setup) : s.SameRegs t := fun o _ => State.reg_congr h o

theorem State.SameRegs.trans {s t u : State} (h : s.SameRegs t) (h' : t.SameRegs u) : s.SameRegs u :=
  fun o ho => (h' o ho).trans (h o ho)

theorem State.countBy_sameRegs {add : State → Nat → Nat → Nat → State} (ha : ∀ (s : State) x n l, s.SameRegs (add s x n l))
    (s : State) (x n l : Nat) : s.SameRegs (State.countBy add s x n l) := by
  have h : s.SameRegs (if l = 0 then s else s.setKreg 0x20 (satAdd32 (s.kreg 0x20) l)) := by
    split <;> exact .of_setup rfl
  unfold State.countBy
  simp only []
  generalize (if l = 0 then s else s.setKreg 0x20 (satAdd32 (s.kreg 0x20) l)) = t at h ⊢
  split
  · exact h.trans (ha _ _ _ _)
  · exact h.trans (.of_setup rfl)

theorem State.latchBy_sameRegs {add : State → Nat → Nat → Nat → State} (ha : ∀ (s : State) x n l, s.SameRegs (add s x n l))
    (s : State) (x : Nat) (r : Report) : s.SameRegs (State.latchBy add s x r) := by
  have hlatch (l : Latch) (n m : Nat) : s.SameRegs (State.countBy add (s.setLatch x l) x n m) :=
    (State.SameRegs.of_setup (t := s.setLatch x l) rfl).trans (State.countBy_sameRegs ha _ _ _ _)
  unfold State.latchBy
  simp only []
  split <;> exact hlatch _ _ _

theorem State.mcCount_sameRegs (s : State) (a i : Nat) (hi : i < 0x400) : s.SameRegs (s.mcCount a i) := by
  intro o ho
  unfold State.mcCount
  split
  · next mc hmc =>
    have hlt := State.mcOf_lt hmc
    rw [State.reg_count, if_neg]
    rw [offMc]
    split <;> omega
  · rfl

theorem State.crcCheckBy_sameRegs {add : State → Nat → Nat → Nat → State} (ha : ∀ (s : State) x n l, s.SameRegs (add s x n l))
    (s : State) (b : Nat) : s.SameRegs (State.crcCheckBy add s b) := by
  rw [State.crcCheckBy]
  simp only []
  split
  · exact .of_setup rfl
  · generalize ht : ({ s with defects := _, crcOff := _ } : State) = t
    have h : s.SameRegs t := .of_setup (by rw [← ht])
    have hpoison : s.SameRegs ((t.setPoison b true).mcCount b 1) :=
      h.trans ((State.SameRegs.of_setup (t := t.setPoison b true) rfl).trans (State.mcCount_sameRegs _ _ _ (by decide)))
    split
    · exact h.trans (State.mcCount_sameRegs _ _ _ (by decide))
    · split
      · exact hpoison.trans (State.latchBy_sameRegs ha _ _ _)
      · exact hpoison

theorem State.srcAdd_sameRegs (s : State) (x n l : Nat) : s.SameRegs (s.srcAdd x n l) :=
  (State.crcCheckBy_sameRegs (fun _ _ _ _ => .of_setup (State.srcPut_setup _ _ _ _)) s _).trans
    (.of_setup (State.srcPut_setup _ _ _ _))

theorem State.report_sameRegs (s : State) (src cls cause : Nat) (ctx : Option Nat) (unit : Nat) (d : List Word) :
    s.SameRegs (s.report src cls cause ctx unit d) :=
  State.latchBy_sameRegs State.srcAdd_sameRegs s src _

/-! ## The two paths (R434, R437) -/

/-- A command on the path is carried out: the path is the one in force. -/
def State.Reached (s : State) (path : MgmtPath) : Prop :=
  s.powered = true ∧ (path = .smbus → s.busStuck = false) ∧ (path = .sideband → s.linkUp 16 = true ∧ s.busStuck = true)

/-- A command comes over the sideband while the bus is in force (log 51). -/
def State.TooEarly (s : State) (path : MgmtPath) : Prop :=
  s.powered = true ∧ path = .sideband ∧ s.linkUp 16 = true ∧ s.busStuck = false

section
variable {s : State} {path : MgmtPath} {code : Byte}

theorem State.mgmtCommand_acts (h : s.Reached path) (act : State → State) : s.mgmtCommand path code act = act s := by
  obtain ⟨hpow, hbus, hside⟩ := h
  cases path with
  | smbus => simp [State.mgmtCommand, hpow, hbus]
  | sideband => simp [State.mgmtCommand, hpow, hside]

theorem State.mgmtCommand_early (h : s.TooEarly path) (act : State → State) :
    s.mgmtCommand path code act = s.mgmtSend .sideband code [3] := by
  obtain ⟨hpow, rfl, hup, hbus⟩ := h
  simp [State.mgmtCommand, hpow, hup, hbus]

theorem State.mgmtCommand_silent (h : ¬ s.Reached path) (h' : ¬ s.TooEarly path) (act : State → State) :
    s.mgmtCommand path code act = s := by
  unfold State.mgmtCommand
  cases hpow : s.powered with
  | false => rfl
  | true =>
    cases path with
    | smbus =>
      have hbus : s.busStuck = true := by simpa [State.Reached, hpow] using h
      simp [hbus]
    | sideband =>
      have hlink : s.linkUp 16 = false := by
        cases hbus : s.busStuck with
        | true => simpa [State.Reached, hpow, hbus] using h
        | false => simpa [State.TooEarly, hpow, hbus] using h'
      simp [hlink]

/-- The messages of a path go out when a command on it is answered. -/
theorem State.mgmtSend_sent (h : path = .sideband → s.linkUp 16 = true) (bs : List Byte) :
    ∃ links, s.mgmtSend path code bs = { s with hostOut := s.hostOut ++ [onPath path code bs], links := links } := by
  cases path with
  | smbus => exact ⟨s.links, rfl⟩
  | sideband => exact State.toHost_sent (.inr (h rfl))

theorem State.mgmtSend_says (h : path = .sideband → s.linkUp 16 = true) (bs : List Byte) :
    Says s (s.mgmtSend path code bs) (onPath path code bs) ∧ (s.mgmtSend path code bs).mgmt = s.mgmt := by
  obtain ⟨links, hsent⟩ := State.mgmtSend_sent (code := code) h bs
  have hmgmt := congrArg State.mgmt hsent
  exact ⟨says_of_sent rfl hsent, hmgmt⟩

/-- A read of the management port: its answer when the path is in force, result 3 too early, else nothing (R434, R437). -/
theorem mgmtRead_answers (f : State → List Byte) {c : Instr}
    (hc : exec c s = .next (s.mgmtCommand path code fun s => s.mgmtSend path code (f s))) :
    (s.Reached path → Next c s fun t => Says s t (onPath path code (f s)) ∧ t.mgmt = s.mgmt)
    ∧ (s.TooEarly path → Next c s fun t => Says s t (onPath .sideband code [3]))
    ∧ (¬ s.Reached path → ¬ s.TooEarly path → exec c s = .next s) := by
  refine ⟨fun h => ⟨_, hc.trans (congrArg Host.Outcome.next (State.mgmtCommand_acts h _)), State.mgmtSend_says (fun hp => (h.2.2 hp).1) (f s)⟩,
    fun h => ⟨_, hc.trans (congrArg Host.Outcome.next (State.mgmtCommand_early h _)), (State.mgmtSend_says (fun _ => h.2.2.1) [3]).1⟩,
    fun h h' => hc.trans (congrArg Host.Outcome.next (State.mgmtCommand_silent h h' _))⟩

/-- LAST_RESULT, which on the sideband is also the answer. -/
theorem State.mgmtResult_replied (h : path = .sideband → s.linkUp 16 = true) (result : Nat) :
    Replied s (s.mgmtResult path code result) path code result := by
  cases path with
  | smbus => exact ⟨rfl, rfl, rfl⟩
  | sideband =>
    obtain ⟨links, hsent⟩ := State.mgmtSend_sent (path := .sideband) (code := code)
      (s := { s with mgmt := { s.mgmt with lastResult := result } }) h [BitVec.ofNat 8 result]
    refine ⟨?_, ?_, ?_⟩
    · exact (congrArg State.mgmt hsent :)
    · exact (congrArg State.hostOut hsent :)
    · exact hsent.trans (by rw [State.mgmtResult, hsent])

/-- A write whose PEC fails has no effect (R433); the sideband has none. -/
def Stands (path : MgmtPath) (pec : Bool) : Prop := path = .smbus → pec = true

theorem State.mgmtWrite_stands {pec : Bool} (h : Stands path pec) (act : State → State) :
    s.mgmtWrite path code pec act = s.mgmtCommand path code act := by
  cases path with
  | smbus => simp [State.mgmtWrite, h rfl]
  | sideband => rfl

theorem State.mgmtWrite_fails {pec : Bool} (h : ¬ Stands path pec) (act : State → State) : s.mgmtWrite path code pec act = s := by
  cases path with
  | smbus =>
    cases pec with
    | true => exact absurd (fun _ => rfl) h
    | false => rfl
  | sideband => exact absurd nofun h

/-- What a write of the management port does outside the path in force. -/
theorem State.mgmtWrite_refuses {pec : Bool} (act : State → State) :
    (¬ Stands path pec ∨ (¬ s.Reached path ∧ ¬ s.TooEarly path) → s.mgmtWrite path code pec act = s)
    ∧ (s.TooEarly path → Stands path pec → Says s (s.mgmtWrite path code pec act) (onPath .sideband code [3])) := by
  refine ⟨fun h => ?_, fun h hpec => ?_⟩
  · by_cases hpec : Stands path pec
    · obtain ⟨hr, he⟩ := h.resolve_left (not_not.mpr hpec)
      rw [State.mgmtWrite_stands hpec, State.mgmtCommand_silent hr he]
    · exact State.mgmtWrite_fails hpec act
  · rw [State.mgmtWrite_stands hpec, State.mgmtCommand_early h]
    exact (State.mgmtSend_says (fun _ => h.2.2.1) [3]).1

theorem State.mgmtWrite_acts {pec : Bool} (h : s.Reached path) (hpec : Stands path pec) (act : State → State) :
    s.mgmtWrite path code pec act = act s := by
  rw [State.mgmtWrite_stands hpec, State.mgmtCommand_acts h]

end

/-! ## TRAY_CAP (R348, R351, R365) -/

section
variable {s u : State} {path : MgmtPath}

/-- A record of a cap that is not committed: the record, PWR_REFUSED, CAP_REFUSED and the result. -/
theorem State.capRefused (s : State) {src : Nat} (hsrc : 0x630 ≤ src) (path : MgmtPath) (cls cause : Nat) (ctx : Option Nat) (unit : Nat) (d : List Word)
    (result : Nat) (hlink : path = .sideband → s.linkUp 16 = true) :
    let t := (((s.report src cls cause ctx unit d).count 0x150018C 1).modBit 10 true).mgmtResult path 0x10 result
    t.mgmt.lastResult = result ∧ bitAt t.mgmt.modStatus 10 = true ∧ Reported t src cls cause ∧ raised s t 0x150018C 1
      ∧ (soundMem s → regsKept s t [0x150018C]) ∧ t.power = s.power := by
  have hframe := State.report_frame s src cls cause ctx unit d
  have hregs := State.report_sameRegs s src cls cause ctx unit d
  have hlatched := State.report_latched hsrc s cls cause ctx unit d
  have hsetup (h : soundMem s) := State.report_setup h src cls cause ctx unit d
  generalize s.report src cls cause ctx unit d = v at hframe hregs hlatched hsetup
  intro t
  have hup : path = .sideband → ((v.count 0x150018C 1).modBit 10 true).linkUp 16 = true := fun hp => by
    rw [← hlink hp]
    exact congrArg (fun w => fld w 28 4 == 5) (((State.reg_count v 0x150018C _ 1).trans (if_neg (by decide))).trans (hregs _ (by decide)))
  obtain ⟨hmgmt, -, ht⟩ := State.mgmtResult_replied (code := 0x10) hup result
  change t.mgmt = _ at hmgmt
  change t = _ at ht
  have hreg (o : Nat) : t.reg o = (v.count 0x150018C 1).reg o := by rw [ht]; rfl
  have herr : t.err = v.err := by rw [ht]; rfl
  refine ⟨congrArg Mgmt.lastResult hmgmt, ?_, hlatched.keep (.of_err herr), ?_, fun h o ho => ?_, ?_⟩
  · rw [hmgmt]
    exact bitAt_setFld_same _ (by decide) true
  · rw [raised, hreg, State.reg_count, if_pos rfl, satAdd32_toNat, hregs _ (by decide)]
  · rw [hreg, State.reg_count, if_neg (by simpa using ho), State.reg_congr (hsetup h)]
  · rw [ht]
    exact hframe.power

/-- The cap that a valid TRAY_CAP commits (R351). -/
theorem State.commitTrayCap_spec (s : State) {w : Nat} (hw : w ≤ 1500) :
    (s.commitTrayCap w).trayCap = w ∧ (s.commitTrayCap w).effCap = min s.power.swForce w
      ∧ regsKept s (s.commitTrayCap w) [0x1500008, 0x150000C]
      ∧ s.commitTrayCap w = { s with setup := (s.commitTrayCap w).setup } := by
  have hcap : (s.setReg (offPwr + 8) (BitVec.ofNat 32 w)).trayCap = w := by
    rw [State.trayCap, State.reg_setReg_same, fld, bitsOf_eq, BitVec.toNat_ofNat]
    omega
  refine ⟨?_, ?_, fun o ho => ?_, rfl⟩
  · refine Eq.trans ?_ hcap
    exact congrArg (fld · 0 11) ((State.reg_setRegFld ..).trans (if_neg (by decide)))
  · refine (congrArg (fld · 0 11) ((State.reg_setRegFld ..).trans (if_pos rfl))).trans ?_
    rw [hcap]
    exact fld_setFld_low _ (by omega)
  · simp only [List.mem_cons, List.not_mem_nil, or_false, not_or] at ho
    exact ((State.reg_setRegFld ..).trans (if_neg ho.2)).trans ((State.reg_setReg ..).trans (if_neg ho.1))

end

end Sys2Proof.Machine
end

section
/-! # The SPDM responder and the management port (O60), third part: standby, loss of clocks and input, and the claim -/
namespace Sys2Proof.Machine
open Sys2Proof.Claims

/-! ## Standby and loss of clocks (R407, R408, R438) -/

theorem State.byte_loseSram (s : State) {z : Nat} (hz : isDram z = true) : s.loseSram.byte z = s.byte z := by
  simp only [isDram, decide_eq_true_eq] at hz
  rw [State.loseSram, State.byte_loseMem_outside, State.byte_loseMem_outside, State.byte_loseMem_outside]
  · simp only [sramBase]
    omega
  · simp only [wbBase]
    omega
  · simp only [gondolaBase]
    omega

/-- A reset leaves the contents of DRAM. -/
theorem State.byte_afterReset (s : State) {z : Nat} (hz : isDram z = true) : s.afterReset.byte z = s.byte z :=
  (State.byte_loseSram _ hz).trans (State.byte_congr rfl rfl z)

theorem State.reg_afterReset (s : State) (o : Nat) :
    s.afterReset.reg o = if o = 0x1500008 then s.reg 0x1500008 else if o = 0x1500004 then ~~~BitVec.ofNat 32 s.swCap
      else if o = 0x1500000 then BitVec.ofNat 32 s.swCap else regReset o := by
  refine (State.reg_setReg ..).trans ?_
  by_cases h : o = 0x1500008
  · rw [if_pos h]
    exact if_pos h
  · rw [if_neg h]
    refine (if_neg h).trans ((State.reg_setRwc ..).trans ?_)
    rfl

theorem State.afterReset_empty (s : State) : s.afterReset.cores = [] ∧ s.afterReset.rings = [] ∧ s.afterReset.spool = []
    ∧ s.afterReset.keeper = s.keeper ∧ s.afterReset.start = s.start ∧ s.afterReset.mgmt = { s.mgmt with pwrgd := false } :=
  ⟨rfl, rfl, rfl, rfl, rfl, rfl⟩

/-- What a module that is put into standby, or loses its clocks, keeps and loses. -/
theorem State.quiesce_spec (s : State) :
    s.quiesce.up = false ∧ s.quiesce.start.running = false ∧ s.quiesce.cores = [] ∧ s.quiesce.rings = [] ∧ s.quiesce.spool = []
      ∧ (∀ z, isDram z = true → s.quiesce.byte z = s.byte z)
      ∧ (∀ o, o ∉ [0x1500000, 0x1500004, 0x1500008] → s.quiesce.reg o = regReset o) ∧ s.quiesce.swCap = s.swCap
      ∧ s.quiesce.keeper = s.keeper ∧ (s.bondedUp = true → s.quiesce.start.selfB = true)
      ∧ (s.lpUp = true → s.quiesce.start.selfL = true) ∧ s.quiesce.mgmt = { s.mgmt with pwrgd := false } := by
  have hreg (o : Nat) (ho : o ∉ [0x1500000, 0x1500004, 0x1500008]) : s.quiesce.reg o = regReset o := by
    simp only [List.mem_cons, List.not_mem_nil, or_false, not_or] at ho
    obtain ⟨h0, h4, h8⟩ := ho
    refine (State.reg_congr rfl o).trans ((State.reg_afterReset s.selfRefresh o).trans ?_)
    rw [if_neg h8, if_neg h4, if_neg h0]
  have hup : s.quiesce.up = false := by
    rw [State.up, State.svcState, hreg _ (by decide)]
    decide
  have hcap : s.quiesce.swCap = s.swCap := by
    have hlt : s.swCap < 2 ^ 11 := bitsOf_lt _ _ _
    have hword : s.quiesce.reg offPwr = BitVec.ofNat 32 s.swCap :=
      (State.reg_congr rfl offPwr).trans (State.reg_afterReset s.selfRefresh offPwr)
    rw [State.swCap, hword, fld, bitsOf_eq, BitVec.toNat_ofNat]
    omega
  obtain ⟨hcores, hrings, hspool, hkeeper, hstart, hmgmt⟩ := s.selfRefresh.afterReset_empty
  have hselfB : s.quiesce.start.selfB = (s.start.selfB || s.bondedUp) := congrArg Start.selfB hstart
  have hselfL : s.quiesce.start.selfL = (s.start.selfL || s.lpUp) := congrArg Start.selfL hstart
  have hbyte (z : Nat) (hz : isDram z = true) : s.quiesce.byte z = s.byte z :=
    (State.byte_congr rfl rfl z).trans ((State.byte_afterReset s.selfRefresh hz).trans (State.byte_congr rfl rfl z))
  exact ⟨hup, rfl, hcores, hrings, hspool, hbyte, hreg, hcap, hkeeper, fun h => by rw [hselfB, h, Bool.or_true],
    fun h => by rw [hselfL, h, Bool.or_true], hmgmt⟩

/-! ## The writes -/

/-- The contexts with work, as STANDBY looks for them. -/
theorem State.anyWork_iff (s : State) :
    ((List.range 63).any fun c => s.ctxWork (c + 1)) = true ↔ ∃ c, 0 < c ∧ c < 64 ∧ s.ctxWork c = true := by
  simp only [List.any_eq_true, List.mem_range]
  constructor
  · rintro ⟨c, hc, hw⟩
    exact ⟨c + 1, by omega, by omega, hw⟩
  · rintro ⟨c, hpos, hc, hw⟩
    exact ⟨c - 1, by omega, by rwa [Nat.sub_add_cancel hpos]⟩

section
variable {s : State} {path : MgmtPath} {data : List Byte} {pec : Bool}

/-- The writes of the wrong length, on a path not in force, or with a PEC that fails. -/
theorem mgmtWrites_refuse (s : State) (path : MgmtPath) (data : List Byte) (pec : Bool) :
    (data.length ≠ 4 → exec (.trayCap path data pec) s = .next s ∧ exec (.alertClear path data pec) s = .next s)
    ∧ (data.length ≠ 2 → exec (.standby path data pec) s = .next s)
    ∧ (¬ Stands path pec ∨ (¬ s.Reached path ∧ ¬ s.TooEarly path) → exec (.trayCap path data pec) s = .next s
        ∧ exec (.standby path data pec) s = .next s ∧ exec (.alertClear path data pec) s = .next s)
    ∧ (data.length = 4 → s.TooEarly path → Stands path pec →
        Next (.trayCap path data pec) s (fun t => Says s t (onPath .sideband 0x10 [3]))
        ∧ Next (.alertClear path data pec) s fun t => Says s t (onPath .sideband 0x31 [3]))
    ∧ (data.length = 2 → s.TooEarly path → Stands path pec →
        Next (.standby path data pec) s fun t => Says s t (onPath .sideband 0x30 [3])) := by
  have hsilent {c : Instr} {n : Nat} {code : Byte} {act : State → State}
      (hc : exec c s = if data.length ≠ n then .next s else .next (s.mgmtWrite path code pec act))
      (h : ¬ Stands path pec ∨ (¬ s.Reached path ∧ ¬ s.TooEarly path)) : exec c s = .next s := by
    rw [hc, (State.mgmtWrite_refuses act).1 h, ite_self]
  have hearly {c : Instr} {n : Nat} {code : Byte} {act : State → State}
      (hc : exec c s = if data.length ≠ n then .next s else .next (s.mgmtWrite path code pec act)) (hn : data.length = n)
      (h : s.TooEarly path) (hpec : Stands path pec) : Next c s fun t => Says s t (onPath .sideband code [3]) :=
    ⟨_, hc.trans (if_neg (not_not.mpr hn)), (State.mgmtWrite_refuses act).2 h hpec⟩
  exact ⟨fun h => ⟨if_pos h, if_pos h⟩, fun h => if_pos h,
    fun h => ⟨hsilent (c := .trayCap path data pec) rfl h, hsilent (c := .standby path data pec) rfl h,
      hsilent (c := .alertClear path data pec) rfl h⟩,
    fun hn h hpec => ⟨hearly (c := .trayCap path data pec) rfl hn h hpec, hearly (c := .alertClear path data pec) rfl hn h hpec⟩,
    fun hn h hpec => hearly (c := .standby path data pec) rfl hn h hpec⟩

variable (hpec : Stands path pec) (hreach : s.Reached path)
include hpec hreach

theorem exec_trayCap_reached (hn : data.length = 4) :
    let w := natLE (data.take 2)
    (natLE (data.drop 2) ≠ 65535 - w → Next (.trayCap path data pec) s fun t => t.mgmt.lastResult = 1
      ∧ bitAt t.mgmt.modStatus 10 = true ∧ Reported t 0x658 3 4 ∧ raised s t 0x150018C 1 ∧ (soundMem s → regsKept s t [0x150018C])
      ∧ t.power = s.power)
    ∧ (natLE (data.drop 2) = 65535 - w → w < 500 ∨ 1500 < w → Next (.trayCap path data pec) s fun t => t.mgmt.lastResult = 2
      ∧ bitAt t.mgmt.modStatus 10 = true ∧ Reported t 0x648 7 5 ∧ raised s t 0x150018C 1 ∧ (soundMem s → regsKept s t [0x150018C])
      ∧ t.power = s.power)
    ∧ (natLE (data.drop 2) = 65535 - w → 500 ≤ w → w ≤ 1500 → Next (.trayCap path data pec) s fun t => ∃ u, Replied u t path 0x10 0
      ∧ u.trayCap = w ∧ u.effCap = min s.power.swForce w ∧ regsKept s u [0x1500008, 0x150000C] ∧ u = { s with setup := u.setup }) := by
  intro w
  have hside (hp : path = .sideband) := (hreach.2.2 hp).1
  have hexec {act : State → State} {u : State} (hc : exec (.trayCap path data pec) s =
      if data.length ≠ 4 then .next s else .next (s.mgmtWrite path 0x10 pec act)) (hu : act s = u) :
      exec (.trayCap path data pec) s = .next u := by
    rw [hc, if_neg (not_not.mpr hn), State.mgmtWrite_acts hreach hpec, hu]
  refine ⟨fun hbad => ⟨_, hexec rfl (if_pos hbad), State.capRefused s (by decide) path 3 4 none 0xFFFF _ 1 hside⟩,
    fun hgood hrange => ⟨_, hexec rfl ((if_neg (not_not.mpr hgood)).trans (if_pos ?_)),
      State.capRefused s (by decide) path 7 5 none _ _ 2 hside⟩,
    fun hgood hlo hhi => ?_⟩
  · simp only [capOk, Bool.and_eq_false_iff, decide_eq_false_iff_not]
    omega
  · obtain ⟨htray, heff, hregs, hframe⟩ := State.commitTrayCap_spec s hhi
    have hok : capOk w = true := by simp [capOk, hlo, hhi]
    refine ⟨_, hexec rfl ((if_neg (not_not.mpr hgood)).trans (if_neg (by rw [hok]; exact Bool.noConfusion))), s.commitTrayCap w,
      State.mgmtResult_replied (fun hp => ?_) 0, htray, heff, hregs, hframe⟩
    rw [← hside hp]
    exact congrArg (fun v => fld v 28 4 == 5) (hregs _ (by decide))

theorem exec_alertClear_reached (hn : data.length = 4) :
    let m : Word := BitVec.ofNat 32 (natLE data) &&& (if s.mgmt.sense = 0 then 0x630 else 0x610)
    Next (.alertClear path data pec) s fun t =>
      Replied { s with mgmt := { s.mgmt with modStatus := s.mgmt.modStatus &&& ~~~ m } } t path 0x31 0 := by
  have hside (hp : path = .sideband) := (hreach.2.2 hp).1
  refine ⟨_, (if_neg (not_not.mpr hn)).trans (congrArg Host.Outcome.next (State.mgmtWrite_acts hreach hpec _)), ?_⟩
  exact State.mgmtResult_replied (s := { s with mgmt := { s.mgmt with modStatus := s.mgmt.modStatus &&& ~~~(_ &&& s.clearable) } }) hside 0

theorem exec_standby_reached (hn : data.length = 2) :
    let a := data.getD 0 0
    (data.getD 1 0 ≠ ~~~ a → Next (.standby path data pec) s fun t => Replied s t path 0x30 1)
    ∧ (data.getD 1 0 = ~~~ a → a ≠ 0x5A → Next (.standby path data pec) s fun t => Replied s t path 0x30 2)
    ∧ (data.getD 1 0 = ~~~ a → a = 0x5A →
      (s.start.moored = true ∨ (∃ c, 0 < c ∧ c < 64 ∧ s.ctxWork c = true) → Next (.standby path data pec) s fun t => Replied s t path 0x30 3)
      ∧ (s.start.moored = false → (∀ c, 0 < c → c < 64 → s.ctxWork c = false) →
        (s.standby = true → Next (.standby path data pec) s fun t => Replied s t path 0x30 0)
        ∧ (s.standby = false → Next (.standby path data pec) s fun t => t.standby = true ∧ t.mgmt.lastResult = 0 ∧ t.up = false
          ∧ t.start.running = false ∧ t.cores = [] ∧ t.rings = [] ∧ t.spool = [] ∧ (∀ z, isDram z = true → t.byte z = s.byte z)
          ∧ (∀ o, o ∉ [0x1500000, 0x1500004, 0x1500008] → t.reg o = regReset o) ∧ t.swCap = s.swCap ∧ t.keeper = s.keeper
          ∧ (s.bondedUp = true → t.start.selfB = true) ∧ (s.lpUp = true → t.start.selfL = true)))) := by
  intro a
  have hside (hp : path = .sideband) := (hreach.2.2 hp).1
  have hexec {act : State → State} {u : State} (hc : exec (.standby path data pec) s =
      if data.length ≠ 2 then .next s else .next (s.mgmtWrite path 0x30 pec act)) (hu : act s = u) :
      exec (.standby path data pec) s = .next u := by
    rw [hc, if_neg (not_not.mpr hn), State.mgmtWrite_acts hreach hpec, hu]
  have hreply (n : Nat) := State.mgmtResult_replied (code := 0x30) hside n
  refine ⟨fun hbad => ⟨_, hexec rfl (if_pos hbad), hreply 1⟩,
    fun hgood ha => ⟨_, hexec rfl ((if_neg (not_not.mpr hgood)).trans (if_pos ha)), hreply 2⟩, fun hgood ha => ?_⟩
  have hpast {u v : State} := (if_neg (not_not.mpr hgood) : (if data.getD 1 0 ≠ ~~~ a then u else v) = v)
  have hpast' {u v : State} := (if_neg (not_not.mpr ha) : (if a ≠ 0x5A then u else v) = v)
  refine ⟨fun hbusy => ⟨_, hexec rfl (hpast.trans (hpast'.trans (if_pos ?_))), hreply 3⟩, fun hmoored hidle => ?_⟩
  · rw [Bool.or_eq_true, State.anyWork_iff]
    exact hbusy
  have hfree : (s.start.moored || (List.range 63).any fun c => s.ctxWork (c + 1)) ≠ true := by
    rw [Ne, Bool.or_eq_true, State.anyWork_iff, hmoored]
    rintro (h | ⟨c, hpos, hc, hw⟩)
    · exact Bool.noConfusion h
    · exact Bool.noConfusion ((hidle c hpos hc).symm.trans hw)
  refine ⟨fun hstand => ⟨_, hexec rfl (hpast.trans (hpast'.trans ((if_neg hfree).trans (if_pos hstand)))), hreply 0⟩, fun hstand =>
    ⟨_, hexec rfl (hpast.trans (hpast'.trans ((if_neg hfree).trans (if_neg (by rw [hstand]; exact Bool.noConfusion))))), rfl, ?_⟩⟩
  obtain ⟨hmgmt, -, hframe⟩ := hreply 0
  generalize s.mgmtResult path 0x30 0 = v at hmgmt hframe
  obtain ⟨hup, hrun, hcores, hrings, hspool, hbyte, hreg, hcap, hkeeper, hB, hL, hmgmt'⟩ := v.quiesce_spec
  have hsetup : v.setup = s.setup := by rw [hframe]
  have hkept : v.keeper = s.keeper := by rw [hframe]
  have hmem : v.mem = s.mem := by rw [hframe]
  have hlost : v.lost = s.lost := by rw [hframe]
  refine ⟨?_, hup, hrun, hcores, hrings, hspool, fun z hz => (hbyte z hz).trans (State.byte_congr hmem hlost z), hreg, ?_, hkeeper.trans hkept,
    fun h => hB ?_, fun h => hL ?_⟩
  · show v.quiesce.mgmt.lastResult = 0
    rw [hmgmt', hmgmt]
  · exact hcap.trans (congrArg (fld · 0 11) (State.reg_congr hsetup offPwr))
  · rwa [State.bondedUp, State.reg_congr hsetup]
  · rw [State.lpUp] at h ⊢
    simpa only [State.reg_congr hsetup] using h

end

end Sys2Proof.Machine
end

section
/-! # The SPDM responder and the management port (O60), fourth part: the pins, and the claim -/
namespace Sys2Proof.Machine
open Sys2Proof.Claims

/-! ## The bus and the pins (R431, R436 to R438) -/

theorem State.modBit_set (s : State) {i : Nat} (hi : i < 32) :
    s.modBit i true = { s with mgmt := { s.mgmt with modStatus := s.mgmt.modStatus ||| BitVec.twoPow 32 i } } := by
  rw [← setFld_one_set _ hi]
  rfl

theorem State.modBit_clear (s : State) {i : Nat} (hi : i < 32) :
    s.modBit i false = { s with mgmt := { s.mgmt with modStatus := s.mgmt.modStatus &&& ~~~BitVec.twoPow 32 i } } := by
  rw [← setFld_one_clear _ hi]
  rfl

/-- A reset that is asked for while none is outstanding (R399). -/
theorem State.askChip_eq (s : State) (r : ResetReason) :
    s.askChip r = { s with resets := { s.resets with chip := some (s.resets.chip.getD r) } } := by
  unfold State.askChip
  split
  · next c hc =>
    have hsame : s.resets = { s.resets with chip := some (s.resets.chip.getD r) } := by
      rw [hc, Option.getD_some, ← hc]
    exact congrArg (fun x => { s with resets := x }) hsame
  · next hc => rw [hc, Option.getD_none]

theorem exec_pins_unpowered {s : State} (h : s.powered = false) :
    ∀ c ∈ [Instr.mgmtBusStuck, .mgmtBusRestored, .resetPin, .senseOpen 0, .senseRestored 0, .refclkLoss, .inputTurnOff],
      exec c s = .next s := by
  have hnot : ¬ s.powered = true := by rw [h]; exact Bool.noConfusion
  intro c hc
  simp only [List.mem_cons, List.not_mem_nil, or_false] at hc
  rcases hc with rfl | rfl | rfl | rfl | rfl | rfl | rfl
  · exact if_neg hnot
  · exact if_neg hnot
  · exact if_pos h
  · exact if_pos (.inl h)
  · exact if_pos (.inl h)
  · exact if_pos (.inl h)
  · exact if_neg hnot

section
variable {s : State} (h : s.powered = true)
include h

theorem exec_mgmtBusStuck : Next .mgmtBusStuck s fun t => t = { s with mgmt := { s.mgmt with modStatus := s.mgmt.modStatus ||| 0x80 } } :=
  ⟨_, if_pos h, State.modBit_set s (by decide)⟩

theorem exec_mgmtBusRestored :
    Next .mgmtBusRestored s fun t => t = { s with mgmt := { s.mgmt with modStatus := s.mgmt.modStatus &&& ~~~0x80#32 } } :=
  ⟨_, if_pos h, State.modBit_clear s (by decide)⟩

theorem exec_resetPin : Next .resetPin s fun t =>
    t.resets = { s.resets with chip := some (s.resets.chip.getD (if s.standby = true then .standbyExit else .trayReset)) }
      ∧ t.mgmt = { s.mgmt with resetLow := true } ∧ t = { s with mgmt := t.mgmt, resets := t.resets } := by
  refine ⟨_, if_neg (by rw [h]; exact Bool.noConfusion), ?_⟩
  rw [State.askChip_eq]
  exact ⟨rfl, rfl, rfl⟩

theorem exec_sense (pair : Nat) :
    (10 ≤ pair → exec (.senseOpen pair) s = .next s ∧ exec (.senseRestored pair) s = .next s)
    ∧ (pair < 10 → (Next (.senseOpen pair) s fun t => t.mgmt = { s.mgmt with
            sense := s.mgmt.sense ||| BitVec.ofNat 16 (2 ^ pair), modStatus := s.mgmt.modStatus ||| 0x20 }
          ∧ t = { s with mgmt := t.mgmt })
      ∧ Next (.senseRestored pair) s fun t =>
          t = { s with mgmt := { s.mgmt with sense := s.mgmt.sense &&& ~~~ BitVec.ofNat 16 (2 ^ pair) } }) := by
  refine ⟨fun hp => ⟨if_pos (.inr hp), if_pos (.inr hp)⟩, fun hp => ?_⟩
  have hnot : ¬ (s.powered = false ∨ 10 ≤ pair) := by
    rw [h, Bool.true_eq_false, false_or]
    exact Nat.not_le.mpr hp
  refine ⟨⟨_, if_neg hnot, ?_⟩, _, if_neg hnot, rfl⟩
  rw [State.modBit_set _ (by decide)]
  exact ⟨rfl, rfl⟩

theorem exec_refclkLoss :
    (s.standby = true ∨ s.mgmt.stopped = true ∨ s.mgmt.pwrgd = false → exec .refclkLoss s = .next s)
    ∧ (s.standby = false → s.mgmt.stopped = false → s.mgmt.pwrgd = true → Next .refclkLoss s fun t =>
        t.resets.cycle = true ∧ t.mgmt.stopped = true ∧ bitAt t.mgmt.modStatus 6 = true ∧ t.up = false ∧ t.start.running = false
          ∧ t.cores = [] ∧ t.rings = [] ∧ t.lcount = s.lcount ∧ t.startSeq = s.startSeq ∧ ∀ z, isDram z = true → t.byte z = s.byte z) := by
  refine ⟨fun hoff => if_pos (.inr hoff), fun hstand hstop hgood => ⟨_, if_neg (by rw [h, hstand, hstop, hgood]; decide), ?_⟩⟩
  obtain ⟨hup, hrun, hcores, hrings, -, hbyte, -⟩ := s.quiesce_spec
  generalize s.quiesce = v at hup hrun hcores hrings hbyte
  refine ⟨rfl, rfl, bitAt_setFld_same _ (by decide) true, ?_, hrun, hcores, hrings, rfl, ?_, fun z hz =>
    (State.byte_congr rfl rfl z).trans (hbyte z hz)⟩
  · exact (congrArg (bitAt · 0) ((State.reg_setReg ..).trans (if_neg (by decide)))).trans hup
  · exact State.reg_setReg_same ..

/-- Without the input only flash keeps its contents (R408, R429). -/
theorem exec_inputTurnOff : Next .inputTurnOff s fun t => t.powered = false ∧ t.mem = [] ∧ t.lost = [] ∧ t.cores = [] ∧ t.setup = []
    ∧ t.keeper = [] ∧ t.spool = [] ∧ (s.moorBusy = false ∨ s.start.moorJob ≠ 3 → t.start.flash = s.start.flash)
    ∧ (s.moorBusy = true → s.start.moorJob = 3 → ∀ k, 0x1000000 ≤ k → Sparse.get (fun _ => (0 : Byte)) t.start.flash k = 0)
    ∧ t.start.journal = s.start.journal ∧ t.start.counter0 = s.start.counter0 ∧ t.start.counter1 = s.start.counter1
    ∧ t.pending = s.pending ∧ t.hostOut = s.hostOut := by
  have hframe : s.spoilImage = { s with start := { s.start with imageWritten := s.spoilImage.start.imageWritten
                                                                flash := s.spoilImage.start.flash } } := by
    unfold State.spoilImage
    split <;> rfl
  have hkept : s.moorBusy = false ∨ s.start.moorJob ≠ 3 → s.spoilImage.start.flash = s.start.flash := fun hno => by
    have hcond : ¬ (s.moorBusy && s.start.moorJob == 3) = true := by
      rw [Bool.and_eq_true, beq_iff_eq]
      rintro ⟨hbusy, hjob⟩
      exact hno.elim (fun h => Bool.noConfusion (h.symm.trans hbusy)) (· hjob)
    rw [State.spoilImage, if_neg hcond]
  have hspoiled (hbusy : s.moorBusy = true) (hjob : s.start.moorJob = 3) (k : Nat) (hk : 0x1000000 ≤ k) :
      Sparse.get (fun _ => (0 : Byte)) s.spoilImage.start.flash k = 0 := by
    have hcond : (s.moorBusy && s.start.moorJob == 3) = true := by rw [hbusy, hjob]; rfl
    rw [State.spoilImage, if_pos hcond]
    have hforgotten : decide (0x1000000 ≤ k) = true := decide_eq_true hk
    simp only [Sparse.get_forget, hforgotten, if_true]
  refine ⟨_, if_pos h, rfl, rfl, rfl, rfl, rfl, rfl, rfl, hkept, hspoiled, ?_, ?_, ?_, ?_, ?_⟩
  · exact (congrArg (·.start.journal) hframe :)
  · exact (congrArg (·.start.counter0) hframe :)
  · exact (congrArg (·.start.counter1) hframe :)
  · exact (congrArg State.pending hframe :)
  · exact (congrArg State.hostOut hframe :)

end

theorem exec_resetPinRelease (s : State) :
    Next .resetPinRelease s fun t => t.mgmt = { s.mgmt with resetLow := false } ∧ t.resets = { s.resets with held := false }
      ∧ t.start = (if s.resets.held = true then { s.start with since := s.lcount } else s.start)
      ∧ t = { s with mgmt := t.mgmt, resets := t.resets, start := t.start } := by
  cases hheld : s.resets.held with
  | true =>
    refine ⟨_, if_pos hheld, rfl, rfl, ?_, rfl⟩
    rfl
  | false =>
    have hsame : s.resets = { s.resets with held := false } := by rw [← hheld]
    exact ⟨_, if_neg (by rw [show State.resets _ = s.resets from rfl, hheld]; exact Bool.noConfusion), rfl, hsame, rfl, rfl⟩

/-! ## The claim -/

/-- The seven reads (R434). -/
theorem mgmtReads (s : State) (path : MgmtPath) (vin iin : BitVec 16) :
    ∀ x ∈ [(Instr.progress path, (1 : Byte), bytesLE 4 (s.kreg 0).toNat), (.modStatus path, 2, bytesLE 4 s.modStatusWord.toNat),
        (.lastResult path, 3, [BitVec.ofNat 8 s.mgmt.lastResult]),
        (.capRead path, 0x11, bytesLE 2 s.trayCap ++ bytesLE 2 s.swCap ++ bytesLE 2 s.effCap),
        (.powerRead path vin iin, 0x20, bytesLE 2 vin.toNat ++ bytesLE 2 iin.toNat ++ bytesLE 2 (fld (s.reg 0x1500018) 16 11)
          ++ [BitVec.ofNat 8 s.mgmt.hottest, 0]),
        (.senseMap path, 0x21, bytesLE 2 s.mgmt.sense.toNat),
        (.serial path, 0x40, if s.start.s1Passed = true then s.recordBytes 8 16 else List.replicate 16 0)],
      (s.Reached path → Next x.1 s fun t => Says s t (onPath path x.2.1 x.2.2) ∧ t.mgmt = s.mgmt)
      ∧ (s.TooEarly path → Next x.1 s fun t => Says s t (onPath .sideband x.2.1 [3]))
      ∧ (¬ s.Reached path → ¬ s.TooEarly path → exec x.1 s = .next s) := by
  intro x hx
  simp only [List.mem_cons, List.not_mem_nil, or_false] at hx
  rcases hx with rfl | rfl | rfl | rfl | rfl | rfl | rfl
  · exact mgmtRead_answers (c := (.progress path)) (code := 1) (fun s => bytesLE 4 (s.kreg 0).toNat) rfl
  · exact mgmtRead_answers (c := (.modStatus path)) (code := 2) (fun s => bytesLE 4 s.modStatusWord.toNat) rfl
  · exact mgmtRead_answers (c := (.lastResult path)) (code := 3) (fun s => [BitVec.ofNat 8 s.mgmt.lastResult]) rfl
  · exact mgmtRead_answers (c := (.capRead path)) (code := 0x11) (fun s => bytesLE 2 s.trayCap ++ bytesLE 2 s.swCap ++ bytesLE 2 s.effCap) rfl
  · exact mgmtRead_answers (c := (.powerRead path vin iin)) (code := 0x20) (fun s => bytesLE 2 vin.toNat ++ bytesLE 2 iin.toNat
      ++ bytesLE 2 (fld (s.reg (offPwr + 0x18)) 16 11) ++ [BitVec.ofNat 8 s.mgmt.hottest, 0]) rfl
  · exact mgmtRead_answers (c := (.senseMap path)) (code := 0x21) (fun s => bytesLE 2 s.mgmt.sense.toNat) rfl
  · exact mgmtRead_answers (c := (.serial path)) (code := 0x40) (fun s => if s.start.s1Passed then s.recordBytes 8 16 else List.replicate 16 0) rfl

theorem managed (s : State) : Managed s := by
  refine ⟨fun path vin iin => ⟨mgmtReads s path vin iin, fun data pec => ?_⟩, exec_pins_unpowered, rfl, fun h =>
    ⟨exec_mgmtBusStuck h, exec_mgmtBusRestored h, exec_resetPin h, exec_sense h, (exec_refclkLoss h).1, (exec_refclkLoss h).2,
      exec_inputTurnOff h⟩, exec_resetPinRelease s⟩
  obtain ⟨hlen4, hlen2, hsilent, hearly4, hearly2⟩ := mgmtWrites_refuse s path data pec
  refine ⟨hlen4, hlen2, hsilent, hearly4, hearly2, fun hpec hreach hn => ?_, fun hpec hreach hn a ha => ?_⟩
  · obtain ⟨hbad, hrange, hgood⟩ := exec_trayCap_reached hpec hreach hn
    exact ⟨hbad, hrange, hgood, exec_alertClear_reached hpec hreach hn⟩
  · subst ha
    exact exec_standby_reached hpec hreach hn

end Sys2Proof.Machine

open Sys2Proof Sys2Proof.Machine Sys2Proof.Claims

/-- Settles O60: the SPDM responder row by row, and the management port by path, command and pin. -/
theorem management : Obligations.Management := fun s => ⟨responds s, managed s⟩

end

section
/-! # Rings (O48): starting, stopping and resuming, TAIL, doorbell polls and held interrupts

A ring's state, its status and the count in flight are fields of one register, its indices three others (R303, R322). -/
namespace Sys2Proof.Machine
open Sys2Proof.Claims

/-! ## The fields of RING_STATUS -/

theorem fld_setFld_state (w : Word) (v : Nat) : fld (setFld w 30 2 v) 30 2 = v % 4 ∧ fld (setFld w 30 2 v) 16 8 = fld w 16 8
    ∧ fld (setFld w 30 2 v) 0 5 = fld w 0 5 := by
  have hw := w.isLt
  simp only [fld, setFld, bitsOf_eq, BitVec.toNat_ofNat]
  omega

theorem fld_setFld_status (w : Word) (v : Nat) : fld (setFld w 16 8 v) 30 2 = fld w 30 2 ∧ fld (setFld w 16 8 v) 16 8 = v % 256
    ∧ fld (setFld w 16 8 v) 0 5 = fld w 0 5 := by
  have hw := w.isLt
  simp only [fld, setFld, bitsOf_eq, BitVec.toNat_ofNat]
  omega

theorem fld_setFld_inflight (w : Word) (v : Nat) : fld (setFld w 0 5 v) 30 2 = fld w 30 2 ∧ fld (setFld w 0 5 v) 16 8 = fld w 16 8
    ∧ fld (setFld w 0 5 v) 0 5 = v % 32 := by
  have hw := w.isLt
  simp only [fld, setFld, bitsOf_eq, BitVec.toNat_ofNat]
  omega

theorem offRing_eq (r : Nat) : offRing r = 0x1401000 + 0x40 * r := rfl

theorem offRing_add (r x : Nat) : x + (0x1401000 + 0x40 * r) = offRing r + x := by
  rw [offRing_eq]
  omega

/-! ## The registers of a ring after writes of them -/

section
variable (s : State) (r : Nat)

theorem State.reg_setRingState (v o : Nat) :
    (s.setRingState r v).reg o = if o = offRing r + 0x18 then setFld (s.reg (offRing r + 0x18)) 30 2 v else s.reg o :=
  State.reg_setRegFld ..

theorem State.reg_showInflight (o : Nat) : (s.showInflight r).reg o =
    if o = offRing r + 0x18 then setFld (s.reg (offRing r + 0x18)) 0 5 (s.ring r).inflight else s.reg o :=
  State.reg_setRegFld ..

theorem State.ringState_setRingState (v : Nat) : (s.setRingState r v).ringState r = v % 4 := by
  rw [State.ringState, State.reg_setRingState, if_pos rfl, (fld_setFld_state _ v).1]

theorem State.ringState_showInflight : (s.showInflight r).ringState r = s.ringState r := by
  rw [State.ringState, State.reg_showInflight, if_pos rfl, (fld_setFld_inflight ..).1]
  rfl

theorem State.ringState_congr {s t : State} (h : t.setup = s.setup) (r : Nat) : t.ringState r = s.ringState r :=
  congrArg (fld · 30 2) (State.reg_congr h _)

end

/-! ## Free tags of host reads -/

/-- There is a free tag among one more than are in use. -/
theorem State.freshHread_free (s : State) : Sparse.get (fun _ => none) s.hreads s.freshHread = none := by
  unfold State.freshHread
  split
  · next k hk =>
    have hfree := List.find?_some hk
    exact Option.isNone_iff_eq_none.mp hfree
  · next hnone =>
    have hsub : List.range (s.hreads.length + 1) ⊆ s.hreads.map Prod.fst := fun k hk =>
      not_not.mp fun h => List.find?_eq_none.mp hnone k hk
        (Option.isNone_iff_eq_none.mpr (Sparse.get_of_not_mem_keys (fun _ => none) h))
    have hle := (List.nodup_range.subperm hsub).length_le
    rw [List.length_range, List.length_map] at hle
    omega

/-- A host read over a link that is UP: a free tag is taken, and the read goes out (R297). -/
theorem State.hostRead_sent {s : State} (h : s.linkUp 16 = true) (a len : Nat) (what : HostRead) :
    ∃ tag links, Sparse.get (fun _ => none) s.hreads tag = none ∧ s.hostRead a len what =
      { s with hreads := Sparse.set (fun _ => none) s.hreads tag (some what), links := links
               hostOut := s.hostOut ++ [.hread tag (BitVec.ofNat 64 a) len] } := by
  obtain ⟨links, hsent⟩ := State.toHost_sent (m := .hread s.freshHread (BitVec.ofNat 64 a) len)
    (s := { s with hreads := Sparse.set (fun _ => none) s.hreads s.freshHread (some what) }) (.inr h)
  exact ⟨_, links, s.freshHread_free, hsent⟩

/-! ## Starting, stopping and resuming (R308, R322) -/

section
variable {s : State} {r : Nat}

theorem State.ctrlWrite_of_nil (h : s.rwcPend = []) : s.ctrlWrite r = s := by
  rw [State.ctrlWrite, State.dropPend_of_none (State.pendOf_of_nil h _), ite_self]

theorem State.ring_setRing_same (s : State) (r : Nat) (f : Ring → Ring) : (s.setRing r f).ring r = f (s.ring r) :=
  (State.ring_setRing s r r f).trans (if_pos rfl)

theorem State.ring_setRing_other (s : State) {r q : Nat} (h : q ≠ r) (f : Ring → Ring) : (s.setRing r f).ring q = s.ring q :=
  (State.ring_setRing s r q f).trans (if_neg h)

theorem State.ring_congr {s t : State} (h : t.rings = s.rings) (r : Nat) : t.ring r = s.ring r := by
  rw [State.ring, State.ring, h]

theorem State.ring_setReg (s : State) (o r : Nat) (v : Word) : (s.setReg o v).ring r = s.ring r := State.ring_congr rfl r

theorem State.ring_setRegFld (s : State) (o lo len v r : Nat) : (s.setRegFld o lo len v).ring r = s.ring r := State.ring_congr rfl r

theorem State.reg_setRing (s : State) (r o : Nat) (f : Ring → Ring) : (s.setRing r f).reg o = s.reg o := State.reg_congr rfl o

/-- A ring that starts, by the base `b` of its registers: its state, nothing in flight, and its indices at 0. -/
def State.ringBegun (s : State) (b : Nat) : State :=
  ((((s.setReg (b + 0x1C) 0).setReg (b + 0x20) 0).setReg (b + 0x24) 0).setRegFld (b + 0x18) 30 2 1).setRegFld (b + 0x18) 0 5 0

theorem State.onlyRegs_setReg (s : State) (o : Nat) (v : Word) : s.OnlyRegs (s.setReg o v) := rfl

theorem State.onlyRegs_setRegFld (s : State) (o lo len v : Nat) : s.OnlyRegs (s.setRegFld o lo len v) := State.onlyRegs_setReg ..

theorem State.ringBegun_frame (s : State) (b : Nat) : s.OnlyRegs (s.ringBegun b) :=
  ((((State.onlyRegs_setReg ..).trans (State.onlyRegs_setReg ..)).trans (State.onlyRegs_setReg ..)).trans
    (State.onlyRegs_setRegFld ..)).trans (State.onlyRegs_setRegFld ..)

theorem State.reg_ringBegun (s : State) (b o : Nat) : (s.ringBegun b).reg o =
    if o = b + 0x18 then setFld (setFld (s.reg (b + 0x18)) 30 2 1) 0 5 0
    else if o = b + 0x24 ∨ o = b + 0x20 ∨ o = b + 0x1C then 0 else s.reg o := by
  simp only [State.ringBegun, State.reg_setRegFld, State.reg_setReg]
  by_cases h : o = b + 0x18
  · simp [h]
  · by_cases h4 : o = b + 0x24
    · simp [h4]
    · by_cases h0 : o = b + 0x20 <;> simp [h, h4, h0]

theorem State.ringBegun_regs (s : State) (b : Nat) :
    fld ((s.ringBegun b).reg (b + 0x18)) 30 2 = 1 ∧ (s.ringBegun b).reg (b + 0x1C) = 0 ∧ (s.ringBegun b).reg (b + 0x20) = 0
      ∧ (s.ringBegun b).reg (b + 0x24) = 0 ∧ fld ((s.ringBegun b).reg (b + 0x18)) 0 5 = 0
      ∧ regsKept s (s.ringBegun b) [b + 0x18, b + 0x1C, b + 0x20, b + 0x24] := by
  have hreg (o : Nat) := State.reg_ringBegun s b o
  generalize s.ringBegun b = t at hreg
  have hctl : t.reg (b + 0x18) = setFld (setFld (s.reg (b + 0x18)) 30 2 1) 0 5 0 := (hreg _).trans (if_pos rfl)
  have hindex (o : Nat) (h : o = b + 0x24 ∨ o = b + 0x20 ∨ o = b + 0x1C) : t.reg o = 0 :=
    (hreg o).trans ((if_neg (by omega)).trans (if_pos h))
  refine ⟨?_, hindex _ (.inr (.inr rfl)), hindex _ (.inr (.inl rfl)), hindex _ (.inl rfl), ?_, fun o ho => ?_⟩
  · rw [hctl, (fld_setFld_inflight _ 0).1, (fld_setFld_state _ 1).1]
  · rw [hctl, (fld_setFld_inflight _ 0).2.2]
  · simp only [List.mem_cons, List.not_mem_nil, or_false, not_or] at ho
    obtain ⟨h18, h1c, h20, h24⟩ := ho
    refine (hreg o).trans ((if_neg h18).trans (if_neg ?_))
    rintro (h | h | h)
    exacts [h24 h, h20 h, h1c h]

theorem ringMayStart (hr : r < 128) (hstate : s.ringState r = 0) (hbound : r = 0 ∨ (s.ring r).bound = true) :
    ¬ (s.ringState r ≠ 0 ∨ (r ≠ 0 ∧ (s.ring r).bound = false) ∨ 128 ≤ r) := by
  rw [hstate]
  rintro (h | ⟨h0, hb⟩ | h)
  · exact h rfl
  · exact hbound.elim h0 fun h => Bool.noConfusion (hb.symm.trans h)
  · omega

theorem State.ringStart_runs (hr : r < 128) (hstate : s.ringState r = 0) (hbound : r = 0 ∨ (s.ring r).bound = true)
    (hsize : fld (s.reg (offRing r + 0x10)) 0 5 ≤ 16) :
    s.ringStart r = (s.setRing r fun x => { Ring.empty with bound := x.bound, lastPoll := s.lcount }).ringBegun (offRing r) := by
  have hmay := ringMayStart hr hstate hbound
  have hin : ({ Ring.empty with bound := (s.ring r).bound, lastPoll := s.lcount } : Ring).inflight = 0 := rfl
  rw [State.ringStart, if_neg hmay, if_neg (Nat.not_lt.mpr hsize)]
  simp only [State.setRingState, State.showInflight, State.ring_setReg, State.ring_setRegFld, State.ring_setRing_same, State.ringBegun]
  rw [hin]


theorem exec_ringStart_runs (hr : r < 128) (hpend : s.rwcPend = []) (hstate : s.ringState r = 0) (hbound : r = 0 ∨ (s.ring r).bound = true)
    (hsize : fld (s.reg (offRing r + 0x10)) 0 5 ≤ 16) :
    Next (.ringStart r) s fun t =>
      t.ringState r = 1 ∧ t.tail r = 0 ∧ t.head r = 0 ∧ t.retired r = 0 ∧ fld (t.reg (offRing r + 0x18)) 0 5 = 0
        ∧ t.ring r = { Ring.empty with bound := (s.ring r).bound, lastPoll := s.lcount } ∧ (∀ q, q ≠ r → t.ring q = s.ring q)
        ∧ regsKept s t [offRing r + 0x18, offRing r + 0x1C, offRing r + 0x20, offRing r + 0x24]
        ∧ t = { s with setup := t.setup, rings := t.rings } := by
  refine ⟨_, congrArg Host.Outcome.next ((congrArg (State.ringStart · r) (State.ctrlWrite_of_nil hpend)).trans
    (State.ringStart_runs hr hstate hbound hsize)), ?_⟩
  have hring := State.ring_setRing_same s r fun x => { Ring.empty with bound := x.bound, lastPoll := s.lcount }
  have hother := fun q (hq : q ≠ r) => State.ring_setRing_other s hq fun x => { Ring.empty with bound := x.bound, lastPoll := s.lcount }
  have hregs := State.reg_setRing s r (f := fun x => { Ring.empty with bound := x.bound, lastPoll := s.lcount })
  have hu : s.setRing r (fun x => { Ring.empty with bound := x.bound, lastPoll := s.lcount }) = { s with
      rings := (s.setRing r fun x => { Ring.empty with bound := x.bound, lastPoll := s.lcount }).rings } := rfl
  generalize s.setRing r (fun x => { Ring.empty with bound := x.bound, lastPoll := s.lcount }) = u at hring hother hregs hu
  obtain ⟨hrun, htail, hhead, hretired, hin, hkept⟩ := u.ringBegun_regs (offRing r)
  have hframe := u.ringBegun_frame (offRing r)
  generalize u.ringBegun (offRing r) = t at *
  have hrings : t.rings = u.rings := by rw [hframe]
  refine ⟨hrun, htail, hhead, hretired, hin, (State.ring_congr hrings r).trans hring, fun q hq => (State.ring_congr hrings q).trans (hother q hq),
    fun o ho => (hkept o ho).trans (hregs o), ?_⟩
  rw [hframe, hu]

theorem exec_ringStart_refuses (hr : r < 128) (hpend : s.rwcPend = []) (hstate : s.ringState r = 0) (hbound : r = 0 ∨ (s.ring r).bound = true)
    (hsize : 16 < fld (s.reg (offRing r + 0x10)) 0 5) (hsound : soundMem s) :
    Next (.ringStart r) s fun t => t.rings = s.rings ∧ t.setup = s.setup ∧ Reported t 0x640 7 4 := by
  have hrefuse : (s.ctrlWrite r).ringStart r = s.refusal 0x640 4 none (addrWords (offRing r + 0x14)) := by
    rw [State.ctrlWrite_of_nil hpend, State.ringStart, if_neg (ringMayStart hr hstate hbound), if_pos hsize]
  exact ⟨_, congrArg Host.Outcome.next hrefuse, (State.report_frame ..).rings, State.report_setup hsound .., State.report_latched (by decide) ..⟩

theorem exec_ringStart_idle (hpend : s.rwcPend = []) (h : s.ringState r ≠ 0 ∨ (r ≠ 0 ∧ (s.ring r).bound = false)) :
    exec (.ringStart r) s = .next s := by
  have hidle : (s.ctrlWrite r).ringStart r = s := by
    rw [State.ctrlWrite_of_nil hpend, State.ringStart, if_pos (h.imp_right .inl)]
  exact congrArg Host.Outcome.next hidle

/-! ## Stopping -/

/-- Registers and the power state alone differ, of the registers at most INCOLL's and the cap in force. -/
def State.CapOnly (s t : State) : Prop :=
  t = { s with setup := t.setup, power := t.power } ∧ regsKept s t [0x1500014, 0x150000C]

/-- What INCOLL's change can bring with it: a pending cap takes effect (R351). -/
theorem State.collChanged_capOnly (s : State) : s.CapOnly s.collChanged := by
  have hcoll (v : State) (hv : v = s.setRegFld (offPwr + 0x14) 8 1 (b2n s.insideColl)) :
      v = { s with setup := v.setup } ∧ ∀ o, o ≠ 0x1500014 → v.reg o = s.reg o := by
    subst hv
    exact ⟨State.onlyRegs_setRegFld .., fun o ho => (State.reg_setRegFld ..).trans (if_neg ho)⟩
  obtain ⟨hv, hreg⟩ := hcoll _ rfl
  unfold State.collChanged
  simp only []
  generalize s.setRegFld (offPwr + 0x14) 8 1 (b2n s.insideColl) = v at hv hreg
  have hkept (o : Nat) (ho : o ∉ [0x1500014, 0x150000C]) : v.reg o = s.reg o := hreg o (by simp at ho; exact ho.1)
  have hsame : s.CapOnly v := by
    refine ⟨?_, hkept⟩
    rw [hv]
  split
  · exact hsame
  · unfold State.applyPending
    split
    · refine ⟨?_, fun o ho => ?_⟩
      · generalize fld (v.reg (offPwr + 0xC)) 16 11 = w
        have hforce : (v.forceSw w) = { v with setup := (v.forceSw w).setup, power := (v.forceSw w).power } := by
          have h := (State.onlyRegs_setReg ({ v with power := { v.power with swForce := w } } : State) (offPwr + 0xC) 0).trans
            (State.onlyRegs_setRegFld _ (offPwr + 0xC) 0 11 (min w (({ v with power := { v.power with swForce := w } } : State).setReg (offPwr + 0xC) 0).trayCap))
          exact h
        rw [hforce, hv]
      · refine Eq.trans ?_ (hkept o ho)
        simp only [List.mem_cons, List.not_mem_nil, or_false, not_or] at ho
        exact ((State.reg_setRegFld ..).trans (if_neg ho.2)).trans ((State.reg_setReg ..).trans (if_neg ho.2))
    · exact hsame

end

end Sys2Proof.Machine
end

section
/-! # Rings (O48), second part: stop, resume, the three cases of TAIL, polls, and the claim -/
namespace Sys2Proof.Machine
open Sys2Proof.Claims

section
variable {s : State} {r : Nat}

/-! ## STOP and RESUME (R308, R322) -/

theorem State.inflight_stopping (x : Ring) : ({ x with stopping := true } : Ring).inflight = x.inflight := rfl

theorem State.ringStop_idle (hstate : s.ringState r ≠ 0) (hin : (s.ring r).inflight = 0) :
    s.ringStop r = (((s.setRing r fun x => { x with stopping := true }).setRing r fun x =>
      { x with stopping := false, coll := false, waiting := none }).setRingState r 0).collChanged := by
  have hring := State.ring_setRing_same s r fun x => { x with stopping := true }
  have hzero : ¬ ((s.setRing r fun x => { x with stopping := true }).ring r).inflight ≠ 0 := by
    rw [hring]
    exact not_not.mpr hin
  have hstop : ((s.setRing r fun x => { x with stopping := true }).ring r).stopping = true := by rw [hring]
  rw [State.ringStop, if_neg hstate, State.quiet, if_neg hzero, if_pos hstop]

theorem exec_ringStop_idle (hpend : s.rwcPend = []) (hstate : s.ringState r ≠ 0) (hin : (s.ring r).inflight = 0) :
    Next (.ringStop r) s fun t => t.ringState r = 0 ∧ (t.ring r).stopping = false ∧ (t.ring r).coll = false ∧ t.tail r = s.tail r
      ∧ t.head r = s.head r ∧ t.retired r = s.retired r ∧ (∀ q, q ≠ r → t.ring q = s.ring q)
      ∧ t = { s with setup := t.setup, rings := t.rings, power := t.power } := by
  refine ⟨_, congrArg Host.Outcome.next ((congrArg (State.ringStop · r) (State.ctrlWrite_of_nil hpend)).trans
    (State.ringStop_idle hstate hin)), ?_⟩
  have hring := State.ring_setRing_same (s.setRing r fun x => { x with stopping := true }) r fun x =>
    { x with stopping := false, coll := false, waiting := none }
  have hother (q : Nat) (hq : q ≠ r) := (State.ring_setRing_other (s.setRing r fun x => { x with stopping := true }) hq fun x =>
    { x with stopping := false, coll := false, waiting := none }).trans (State.ring_setRing_other s hq _)
  have hu : (s.setRing r fun x => { x with stopping := true }).setRing r (fun x => { x with stopping := false, coll := false, waiting := none }) =
    { s with rings := ((s.setRing r fun x => { x with stopping := true }).setRing r fun x =>
      { x with stopping := false, coll := false, waiting := none }).rings } := rfl
  generalize (s.setRing r fun x => { x with stopping := true }).setRing r (fun x => { x with stopping := false, coll := false, waiting := none }) = u
    at hring hother hu
  have hsetup : u.setup = s.setup := by rw [hu]
  have hstate' := State.ringState_setRingState u r 0
  have hregs := State.reg_setRingState u r 0
  have hv : u.OnlyRegs (u.setRingState r 0) := State.onlyRegs_setRegFld ..
  generalize u.setRingState r 0 = v at hstate' hregs hv
  obtain ⟨ht, hkept⟩ := v.collChanged_capOnly
  generalize v.collChanged = t at ht hkept
  have hrings : t.rings = u.rings := by rw [ht, hv]
  have hreg (x : Nat) (hx : x = 0x1C ∨ x = 0x20 ∨ x = 0x24) : t.reg (offRing r + x) = s.reg (offRing r + x) := by
    rw [hkept _ (by simp [offRing_eq]; omega), hregs, if_neg (by omega), State.reg_congr hsetup]
  refine ⟨?_, ?_, ?_, hreg _ (.inl rfl), hreg _ (.inr (.inl rfl)), hreg _ (.inr (.inr rfl)), fun q hq =>
    (State.ring_congr hrings q).trans (hother q hq), ?_⟩
  · rw [State.ringState, hkept _ (by simp [offRing_eq]; omega)]
    exact hstate'
  · rw [State.ring_congr hrings, hring]
  · rw [State.ring_congr hrings, hring]
  · rw [ht, hv, hu]

theorem exec_ringStop_busy (hpend : s.rwcPend = []) (hstate : s.ringState r ≠ 0) (hin : (s.ring r).inflight ≠ 0) :
    Next (.ringStop r) s fun t =>
      t.ring r = { s.ring r with stopping := true } ∧ (∀ q, q ≠ r → t.ring q = s.ring q) ∧ t = { s with rings := t.rings } := by
  have hring := State.ring_setRing_same s r fun x => { x with stopping := true }
  have hbusy : s.ringStop r = s.setRing r fun x => { x with stopping := true } := by
    rw [State.ringStop, if_neg hstate, State.quiet, if_pos]
    rw [hring]
    exact hin
  exact ⟨_, congrArg Host.Outcome.next ((congrArg (State.ringStop · r) (State.ctrlWrite_of_nil hpend)).trans hbusy), hring,
    fun q hq => State.ring_setRing_other s hq _, rfl⟩

theorem exec_ringStop_stopped (hpend : s.rwcPend = []) (hstate : s.ringState r = 0) : exec (.ringStop r) s = .next s :=
  congrArg Host.Outcome.next ((congrArg (State.ringStop · r) (State.ctrlWrite_of_nil hpend)).trans (if_pos hstate))

theorem exec_ringResume_idle (hpend : s.rwcPend = []) (hstate : s.ringState r ≠ 3) : exec (.ringResume r) s = .next s :=
  congrArg Host.Outcome.next ((congrArg (State.ringResume · r) (State.ctrlWrite_of_nil hpend)).trans (if_pos hstate))

/-- RETIRED names again a descriptor that was refused at HEAD (R303; log 30). -/
def State.retiredBack (u : State) (r : Nat) : State :=
  if u.retired r = nextIdx (u.head r) then u.setReg (offRing r + 0x24) (u.head r) else u

theorem State.retiredBack_spec (u : State) (r : Nat) : u.OnlyRegs (u.retiredBack r)
    ∧ (u.retiredBack r).reg (offRing r + 0x24) = (if u.retired r = u.head r + 1 then u.head r else u.retired r)
    ∧ ∀ o, o ≠ offRing r + 0x24 → (u.retiredBack r).reg o = u.reg o := by
  unfold State.retiredBack
  rw [nextIdx]
  split
  · exact ⟨State.onlyRegs_setReg .., State.reg_setReg_same .., fun o ho => (State.reg_setReg ..).trans (if_neg ho)⟩
  · exact ⟨rfl, rfl, fun _ _ => rfl⟩

/-- The last steps of RESUME: RETIRED, and the ring runs or waits. -/
def State.resumed (u : State) (r : Nat) : State :=
  (u.retiredBack r).setRingState r (if ((u.retiredBack r).ring r).waiting.isSome then 2 else 1)

theorem State.resumed_spec (u : State) (r : Nat) :
    (u.resumed r).ringState r = (if (u.ring r).waiting.isSome then 2 else 1)
      ∧ (u.resumed r).retired r = (if u.retired r = u.head r + 1 then u.head r else u.retired r)
      ∧ regsKept u (u.resumed r) [offRing r + 0x18, offRing r + 0x24] ∧ u.OnlyRegs (u.resumed r) := by
  obtain ⟨honly, hretired, hkept⟩ := u.retiredBack_spec r
  rw [State.resumed]
  generalize u.retiredBack r = v at honly hretired hkept
  have hring : v.ring r = u.ring r := by
    refine State.ring_congr ?_ r
    rw [honly]
  rw [hring]
  have hreg := State.reg_setRingState v r (if (u.ring r).waiting.isSome then 2 else 1)
  have hstate := State.ringState_setRingState v r (if (u.ring r).waiting.isSome then 2 else 1)
  have hlast : v.OnlyRegs (v.setRingState r (if (u.ring r).waiting.isSome then 2 else 1)) := State.onlyRegs_setRegFld ..
  generalize v.setRingState r (if (u.ring r).waiting.isSome then 2 else 1) = t at hreg hstate hlast
  refine ⟨?_, ?_, fun o ho => ?_, honly.trans hlast⟩
  · rw [hstate]
    split <;> rfl
  · exact ((hreg _).trans (if_neg (by omega))).trans hretired
  · simp only [List.mem_cons, List.not_mem_nil, or_false, not_or] at ho
    exact ((hreg o).trans (if_neg ho.1)).trans (hkept o ho.2)

/-- What a resumed ring forgets: the descriptors it has fetched, and that its link was lost. -/
def Ring.reread (x : Ring) : Ring := { x with fetched := [], retries := 0, linkLost := false }

theorem State.ringResume_runs (hstate : s.ringState r = 3) :
    s.ringResume r = (({ s with hreads := s.hreads.map (dropDescRead r) } : State).setRing r Ring.reread).resumed r := by
  rw [State.ringResume, if_neg (not_not.mpr hstate)]
  rfl

theorem exec_ringResume_runs (hpend : s.rwcPend = []) (hstate : s.ringState r = 3) :
    Next (.ringResume r) s fun t =>
      t.ringState r = (if (s.ring r).waiting.isSome then 2 else 1)
        ∧ t.ring r = { s.ring r with fetched := [], retries := 0, linkLost := false } ∧ (∀ q, q ≠ r → t.ring q = s.ring q)
        ∧ t.retired r = (if s.retired r = s.head r + 1 then s.head r else s.retired r)
        ∧ regsKept s t [offRing r + 0x18, offRing r + 0x24] ∧ t = { s with setup := t.setup, rings := t.rings, hreads := t.hreads } := by
  refine ⟨_, congrArg Host.Outcome.next ((congrArg (State.ringResume · r) (State.ctrlWrite_of_nil hpend)).trans
    (State.ringResume_runs hstate)), ?_⟩
  have hring := State.ring_setRing_same { s with hreads := s.hreads.map (dropDescRead r) } r Ring.reread
  have hother (q : Nat) (hq : q ≠ r) := State.ring_setRing_other { s with hreads := s.hreads.map (dropDescRead r) } hq Ring.reread
  have hu : State.setRing { s with hreads := s.hreads.map (dropDescRead r) } r Ring.reread = { s with
      hreads := s.hreads.map (dropDescRead r)
      rings := (State.setRing { s with hreads := s.hreads.map (dropDescRead r) } r Ring.reread).rings } := rfl
  generalize State.setRing { s with hreads := s.hreads.map (dropDescRead r) } r Ring.reread = u at hring hother hu
  obtain ⟨hrun, hretired, hkept, honly⟩ := u.resumed_spec r
  generalize u.resumed r = t at hrun hretired hkept honly
  have hsetup : u.setup = s.setup := by rw [hu]
  have hreg (o : Nat) : u.reg o = s.reg o := State.reg_congr hsetup o
  have hrings : t.rings = u.rings := by rw [honly]
  have hwaiting := congrArg Ring.waiting hring
  change (u.ring r).waiting = (s.ring r).waiting at hwaiting
  have hhead : u.head r = s.head r := hreg _
  have hretired' : u.retired r = s.retired r := hreg _
  rw [hwaiting] at hrun
  rw [hhead, hretired'] at hretired
  refine ⟨hrun, (State.ring_congr hrings r).trans hring, fun q hq => (State.ring_congr hrings q).trans (hother q hq), hretired,
    fun o ho => (hkept o ho).trans (hreg o), ?_⟩
  rw [honly, hu]

/-! ## TAIL (R303, R304) -/

/-- A ring that halts at index `i` with a status, by the base `b` of its registers. -/
def State.haltMarked (s : State) (b : Nat) (i : Word) (status : Nat) : State :=
  ((s.setRegFld (b + 0x18) 16 8 status).setReg (b + 0x28) i).setRegFld (b + 0x18) 30 2 3

theorem State.haltMarked_onlyRegs (s : State) (b : Nat) (i : Word) (status : Nat) : s.OnlyRegs (s.haltMarked b i status) :=
  ((State.onlyRegs_setRegFld ..).trans (State.onlyRegs_setReg ..)).trans (State.onlyRegs_setRegFld ..)

theorem State.reg_haltMarked (s : State) (b : Nat) (i : Word) (status o : Nat) : (s.haltMarked b i status).reg o =
    if o = b + 0x18 then setFld (setFld (s.reg (b + 0x18)) 16 8 status) 30 2 3 else if o = b + 0x28 then i else s.reg o := by
  simp only [State.haltMarked, State.reg_setRegFld, State.reg_setReg]
  by_cases h : o = b + 0x18 <;> simp [h]

theorem State.haltMarked_regs (s : State) (b : Nat) (i : Word) {status : Nat} (hstatus : status < 256) :
    fld ((s.haltMarked b i status).reg (b + 0x18)) 30 2 = 3 ∧ fld ((s.haltMarked b i status).reg (b + 0x18)) 16 8 = status
      ∧ fld ((s.haltMarked b i status).reg (b + 0x18)) 0 5 = fld (s.reg (b + 0x18)) 0 5
      ∧ (s.haltMarked b i status).reg (b + 0x28) = i ∧ regsKept s (s.haltMarked b i status) [b + 0x18, b + 0x28] := by
  have hreg (o : Nat) := State.reg_haltMarked s b i status o
  generalize s.haltMarked b i status = t at hreg
  have hctl := (hreg (b + 0x18)).trans (if_pos rfl)
  obtain ⟨hstate, hst, hin⟩ := fld_setFld_state (setFld (s.reg (b + 0x18)) 16 8 status) 3
  obtain ⟨-, hst', hin'⟩ := fld_setFld_status (s.reg (b + 0x18)) status
  refine ⟨by rw [hctl, hstate], by rw [hctl, hst, hst', Nat.mod_eq_of_lt hstatus], by rw [hctl, hin, hin'],
    (hreg _).trans ((if_neg (by omega)).trans (if_pos rfl)), fun o ho => ?_⟩
  simp only [List.mem_cons, List.not_mem_nil, or_false, not_or] at ho
  exact (hreg o).trans ((if_neg ho.1).trans (if_neg ho.2))

/-- A ring that runs or waits halts at once. -/
theorem State.haltRing_halts (h0 : s.ringState r ≠ 0) (h3 : s.ringState r ≠ 3) (i : Word) (status : Nat) :
    s.haltRing r i status = (s.haltMarked (offRing r) i status).ringIntr r := by
  rw [State.haltRing, if_neg h0, if_neg h3]
  rfl

/-- An interrupt that falls due changes the vectors, and may go out. -/
theorem State.ringIntr_frame (s : State) (r : Nat) :
    s.ringIntr r = { s with vectors := (s.ringIntr r).vectors, hostOut := (s.ringIntr r).hostOut, links := (s.ringIntr r).links } := by
  have hsent (m : HostMsg) : s.toHost m = { s with hostOut := (s.toHost m).hostOut, links := (s.toHost m).links } := by
    unfold State.toHost
    split
    · rfl
    · split <;> rfl
  unfold State.ringIntr State.sendIntr
  split
  · rfl
  · split
    · rfl
    · have h := hsent (.intr (s.irqVec r))
      generalize s.toHost (.intr (s.irqVec r)) = t at h
      rw [h]
      rfl

/-- The three cases of a value for TAIL, on a ring that is not stopped. -/
theorem State.supplyTail_cases (hr : r < 128) (h0 : s.ringState r ≠ 0) (v : Word) :
    ((v - s.tail r).toNat = 0 ∨ 2 ^ 31 ≤ (v - s.tail r).toNat → (s.supplyTail r v).1 = s)
    ∧ (0 < (v - s.tail r).toNat → (v - s.tail r).toNat < 2 ^ 31 → (v - s.retired r).toNat ≤ s.ringSize r →
      (s.supplyTail r v).1 = s.setReg (offRing r + 0x1C) v)
    ∧ (0 < (v - s.tail r).toNat → (v - s.tail r).toNat < 2 ^ 31 → s.ringSize r < (v - s.retired r).toNat →
      (s.supplyTail r v).1 = s.haltRing r (s.retired r + BitVec.ofNat 32 (s.ringSize r)) 0x87) := by
  have hlive : ¬ (s.ringState r = 0 ∨ 128 ≤ r) := by omega
  refine ⟨fun hstale => ?_, fun hpos hlt hfits => ?_, fun hpos hlt hover => ?_⟩
  · rw [State.supplyTail, if_neg hlive, if_pos hstale]
  · rw [State.supplyTail, if_neg hlive, if_neg (by omega), if_neg (Nat.not_lt.mpr hfits)]
  · rw [State.supplyTail, if_neg hlive, if_neg (by omega), if_pos hover]

/-- A register that counts doorbells stands apart from every ring's. -/
theorem offRing_ne_count (r x : Nat) : offRing r + x ≠ 0x1400020 := by
  rw [offRing_eq]
  omega

/-- The state in which a value for TAIL is taken: a doorbell has been counted, a register write has not (R298, R303). -/
theorem exec_tailValue (hr : r < 128) (hpend : s.rwcPend = []) {v : Word} {c : Instr} {n : Nat}
    (hc : (c = .ringTailWrite r v ∧ s.ringDev r = true ∧ n = 0) ∨ (c = .doorbell r v ∧ s.ringDev r = false ∧ n = 1)) :
    ∃ u, exec c s = .next (u.supplyTail r v).1 ∧ s.OnlyRegs u ∧ raised s u 0x1400020 n ∧ regsKept s u [0x1400020] := by
  rcases hc with ⟨rfl, hdev, rfl⟩ | ⟨rfl, hdev, rfl⟩
  · refine ⟨s, ?_, rfl, ?_, fun _ _ => rfl⟩
    · show execRingTailWrite r v s = _
      rw [execRingTailWrite, if_neg (by omega), State.dropPend_of_none (State.pendOf_of_nil hpend _)]
      exact if_neg (by rw [hdev]; decide)
    · rw [raised]
      have hlt := (s.reg 0x1400020).isLt
      omega
  · refine ⟨s.count 0x1400020 1, ?_, State.count_onlyRegs .., ?_, fun o ho => ?_⟩
    · have hdev' : (s.count (offLinkCnt 16 4) 1).ringDev r = false := by
        rw [← hdev]
        exact congrArg (bitAt · 8) ((State.reg_count ..).trans (if_neg (offRing_ne_count r 0x10)))
      show execDoorbell r v s = _
      rw [execDoorbell, hdev', decide_eq_false (Nat.not_le.mpr hr)]
      rfl
    · rw [raised, State.reg_count, if_pos rfl, satAdd32_toNat]
    · exact (State.reg_count ..).trans (if_neg (by simpa using ho))


/-- The three cases of a value for TAIL, however it comes (R304). -/
theorem tailValue_taken (hr : r < 128) (hpend : s.rwcPend = []) {v : Word} {c : Instr} {n : Nat}
    (hc : (c = .ringTailWrite r v ∧ s.ringDev r = true ∧ n = 0) ∨ (c = .doorbell r v ∧ s.ringDev r = false ∧ n = 1))
    (h0 : s.ringState r ≠ 0) :
    ((v - s.tail r).toNat = 0 ∨ 2 ^ 31 ≤ (v - s.tail r).toNat → Next c s fun t =>
        raised s t 0x1400020 n ∧ regsKept s t [0x1400020] ∧ t = { s with setup := t.setup })
    ∧ (0 < (v - s.tail r).toNat → (v - s.tail r).toNat < 2 ^ 31 → (v - s.retired r).toNat ≤ s.ringSize r →
      Next c s fun t => t.tail r = v ∧ raised s t 0x1400020 n ∧ regsKept s t [0x1400020, offRing r + 0x1C]
        ∧ t = { s with setup := t.setup })
    ∧ (0 < (v - s.tail r).toNat → (v - s.tail r).toNat < 2 ^ 31 → s.ringSize r < (v - s.retired r).toNat → s.ringState r ≠ 3 →
      Next c s fun t => t.ringState r = 3 ∧ fld (t.reg (offRing r + 0x18)) 16 8 = 0x87
        ∧ t.reg (offRing r + 0x28) = s.retired r + BitVec.ofNat 32 (s.ringSize r)
        ∧ raised s t 0x1400020 n ∧ regsKept s t [0x1400020, offRing r + 0x18, offRing r + 0x28] ∧ t.rings = s.rings) := by
  obtain ⟨u, hexec, honly, hraised, hkept⟩ := exec_tailValue hr hpend hc
  have hreg (x : Nat) : u.reg (offRing r + x) = s.reg (offRing r + x) := hkept _ (by simpa using offRing_ne_count r x)
  have hstate : u.ringState r = s.ringState r := congrArg (fld · 30 2) (hreg _)
  have htail : u.tail r = s.tail r := hreg _
  have hretired : u.retired r = s.retired r := hreg _
  have hsize : u.ringSize r = s.ringSize r := congrArg (fun w => 2 ^ max 6 (fld w 0 5)) (hreg _)
  obtain ⟨hstale, htake, hover⟩ := State.supplyTail_cases hr (hstate.trans_ne h0) v
  rw [htail, hretired, hsize] at *
  refine ⟨fun h => ⟨_, hexec, ?_⟩, fun hpos hlt hfits => ⟨_, hexec, ?_⟩, fun hpos hlt hbig h3 => ⟨_, hexec, ?_⟩⟩
  · rw [hstale h]
    exact ⟨hraised, hkept, honly⟩
  · rw [htake hpos hlt hfits]
    have hframe := honly.trans (State.onlyRegs_setReg u (offRing r + 0x1C) v)
    refine ⟨State.reg_setReg_same .., raised_congr hraised rfl ((State.reg_setReg ..).trans (if_neg (offRing_ne_count r 0x1C).symm)),
      fun o ho => ?_, hframe⟩
    simp only [List.mem_cons, List.not_mem_nil, or_false, not_or] at ho
    exact ((State.reg_setReg ..).trans (if_neg ho.2)).trans (hkept o (by simpa using ho.1))
  · rw [hover hpos hlt hbig, State.haltRing_halts (hstate.trans_ne h0) (hstate.trans_ne h3)]
    obtain ⟨hst, hcode, -, hidx, hkept'⟩ := u.haltMarked_regs (offRing r) (s.retired r + BitVec.ofNat 32 (s.ringSize r))
      (status := 0x87) (by decide)
    have honly' := u.haltMarked_onlyRegs (offRing r) (s.retired r + BitVec.ofNat 32 (s.ringSize r)) 0x87
    generalize u.haltMarked (offRing r) (s.retired r + BitVec.ofNat 32 (s.ringSize r)) 0x87 = w at hst hcode hidx hkept' honly'
    have hsame := w.ringIntr_frame r
    generalize w.ringIntr r = t at hsame
    have hregs (o : Nat) : t.reg o = w.reg o := State.reg_congr (by rw [hsame]) o
    refine ⟨?_, ?_, (hregs _).trans hidx, raised_congr hraised rfl ((hregs _).trans (hkept' _ ?_)), fun o ho => ?_, ?_⟩
    · rw [State.ringState, hregs, hst]
    · rw [hregs, hcode]
    · simp only [List.mem_cons, List.not_mem_nil, or_false, not_or]
      exact ⟨(offRing_ne_count r 0x18).symm, (offRing_ne_count r 0x28).symm⟩
    · simp only [List.mem_cons, List.not_mem_nil, or_false, not_or] at ho
      exact ((hregs o).trans (hkept' o (by simpa using ho.2))).trans (hkept o (by simpa using ho.1))
    · rw [hsame, honly', honly]

theorem exec_ringTailWrite_host (hpend : s.rwcPend = []) (hdev : s.ringDev r = false) (v : Word) :
    exec (.ringTailWrite r v) s = .next s := by
  show execRingTailWrite r v s = _
  rw [execRingTailWrite, State.dropPend_of_none (State.pendOf_of_nil hpend _)]
  split
  · rfl
  · exact if_pos (by rw [hdev]; decide)

/-! ## Polls and held interrupts (R303, R321) -/

/-- The address of a doorbell word (R303). -/
theorem doorbellPage_eq (lo hi : Word) :
    dwordAt [lo, hi] 0 / 4096 * 4096 = 4096 * (lo.toNat / 4096) + 2 ^ 32 * hi.toNat := by
  show (lo.toNat + 2 ^ 32 * hi.toNat) / 4096 * 4096 = _
  omega

theorem exec_doorbellPoll_reads (hr : r < 128) (hn : (s.reg 0x1400004).toNat ≠ 0) (hdev : s.ringDev r = false)
    (hstate : s.ringState r = 1 ∨ s.ringState r = 2) (hup : s.linkUp 16 = true)
    (hlate : (s.reg 0x1400004).toNat ≤ (s.lcount - (s.ring r).lastPoll).toNat) :
    Next (.doorbellPoll r) s fun t =>
      t.ring r = { s.ring r with lastPoll := s.lcount } ∧ (∀ q, q ≠ r → t.ring q = s.ring q)
        ∧ (∃ tag, Sparse.get (fun _ => none) s.hreads tag = none ∧ Sparse.get (fun _ => none) t.hreads tag = some (.doorbell r)
          ∧ (∀ k, k ≠ tag → Sparse.get (fun _ => none) t.hreads k = Sparse.get (fun _ => none) s.hreads k)
          ∧ t.hostOut = s.hostOut ++ [.hread tag (BitVec.ofNat 64
              (4096 * ((s.reg 0x1400008).toNat / 4096) + 2 ^ 32 * (s.reg 0x140000C).toNat + 8 * r)) 8])
        ∧ t = { s with rings := t.rings, hreads := t.hreads, hostOut := t.hostOut, links := t.links } := by
  have hmay : ¬ ((s.reg 0x1400004).toNat = 0 ∨ s.ringDev r = true ∨ ¬ (s.ringState r = 1 ∨ s.ringState r = 2) ∨ s.linkUp 16 = false
      ∨ 128 ≤ r ∨ (s.lcount - (s.ring r).lastPoll).toNat < (s.reg 0x1400004).toNat) := by
    rw [hdev, hup]
    rintro (h | h | h | h | h | h)
    exacts [hn h, Bool.noConfusion h, h hstate, Bool.noConfusion h, by omega, by omega]
  refine ⟨_, if_neg hmay, ?_⟩
  have hring := State.ring_setRing_same s r fun x => { x with lastPoll := s.lcount }
  have hother := fun q (hq : q ≠ r) => State.ring_setRing_other s hq fun x => { x with lastPoll := s.lcount }
  have hu : s.setRing r (fun x => { x with lastPoll := s.lcount }) =
    { s with rings := (s.setRing r fun x => { x with lastPoll := s.lcount }).rings } := rfl
  have hpage : dwordAt [s.reg (offHost + 8), s.reg (offHost + 0xC)] 0 / 4096 * 4096 + 8 * r =
      4096 * ((s.reg 0x1400008).toNat / 4096) + 2 ^ 32 * (s.reg 0x140000C).toNat + 8 * r :=
    congrArg (· + 8 * r) (doorbellPage_eq (s.reg 0x1400008) (s.reg 0x140000C))
  have hup' : (s.setRing r fun x => { x with lastPoll := s.lcount }).linkUp 16 = true := hup
  generalize s.setRing r (fun x => { x with lastPoll := s.lcount }) = u at hring hother hu hup'
  obtain ⟨tag, links, hfree, hsent⟩ := State.hostRead_sent hup' (4096 * ((s.reg 0x1400008).toNat / 4096) + 2 ^ 32 * (s.reg 0x140000C).toNat + 8 * r)
    8 (.doorbell r)
  rw [hpage, hsent]
  have hhreads : u.hreads = s.hreads := by rw [hu]
  have hout : u.hostOut = s.hostOut := by rw [hu]
  rw [hhreads] at hfree
  refine ⟨(State.ring_congr rfl r).trans hring, fun q hq => (State.ring_congr rfl q).trans (hother q hq), ⟨tag, hfree, ?_, fun k hk => ?_, ?_⟩, ?_⟩
  · exact Sparse.get_set_same (fun _ => none) u.hreads tag (some (.doorbell r))
  · have hkept := Sparse.get_set_other (fun _ => none) u.hreads hk (some (.doorbell r))
    exact hkept.trans (by rw [hhreads])
  · rw [hout]
  · rw [hu]

theorem exec_doorbellPoll_idle (h : (s.reg 0x1400004).toNat = 0 ∨ s.ringDev r = true
    ∨ ¬ (s.reg 0x1400004).toNat ≤ (s.lcount - (s.ring r).lastPoll).toNat) : exec (.doorbellPoll r) s = .next s := by
  refine if_pos ?_
  rcases h with h | h | h
  exacts [.inl h, .inr (.inl h), .inr (.inr (.inr (.inr (.inr (Nat.not_le.mp h)))))]

end

theorem State.vector_setVector (s : State) (v q : Nat) (x : Vector) : (s.setVector v x).vector q = if q = v then x else s.vector q :=
  Sparse.get_set ..

/-- INTR_HOLD_EXPIRY (R321). -/
theorem exec_intrHoldExpiry (s : State) (v : Nat) :
    ((s.vector v).holding = false ∨ (s.lcount - (s.vector v).since).toNat < (s.vector v).hold → exec (.intrHoldExpiry v) s = .next s)
    ∧ ((s.vector v).holding = true → (s.vector v).hold ≤ (s.lcount - (s.vector v).since).toNat →
      ((s.vector v).due = false → Next (.intrHoldExpiry v) s fun t => t.vector v = .idle ∧ (∀ q, q ≠ v → t.vector q = s.vector q)
        ∧ t = { s with vectors := t.vectors })
      ∧ ((s.vector v).due = true → s.linkUp 16 = true → Next (.intrHoldExpiry v) s fun t =>
        t.hostOut = s.hostOut ++ [.intr v] ∧ (t.vector v).due = false ∧ (t.vector v).since = s.lcount
          ∧ (t.vector v).hold = (s.vector v).hold ∧ (∀ q, q ≠ v → t.vector q = s.vector q)
          ∧ t = { s with vectors := t.vectors, hostOut := t.hostOut, links := t.links })) := by
  have hheld : s.held v = ((s.vector v).holding && decide ((s.lcount - (s.vector v).since).toNat < (s.vector v).hold)) := rfl
  refine ⟨fun h => ?_, fun hhold hover => ?_⟩
  · show execIntrHoldExpiry v s = _
    refine if_pos ?_
    rw [hheld]
    rcases h with h | h
    · rw [h]
      rfl
    · rw [decide_eq_true h, Bool.and_true, Bool.or_comm]
      exact Bool.or_not_self _
  · have hpast : ¬ (!(s.vector v).holding || s.held v) = true := by
      rw [hheld, hhold, decide_eq_false (Nat.not_lt.mpr hover)]
      decide
    refine ⟨fun hdue => ⟨_, (if_neg hpast).trans (if_neg (by rw [hdue]; exact Bool.noConfusion)), ?_⟩, fun hdue hup =>
      ⟨_, (if_neg hpast).trans (if_pos hdue), ?_⟩⟩
    · exact ⟨(State.vector_setVector ..).trans (if_pos rfl), fun q hq => (State.vector_setVector ..).trans (if_neg hq), rfl⟩
    · obtain ⟨links, hsent⟩ := State.toHost_sent (m := .intr v) (.inr hup)
      rw [State.sendIntr, hsent]
      have hv (q : Nat) := State.vector_setVector { s with hostOut := s.hostOut ++ [.intr v], links := links } v q
        { since := s.lcount, hold := (s.vector v).hold, holding := decide ((s.vector v).hold ≠ 0), due := false }
      have hsame := (hv v).trans (if_pos rfl)
      have hdue' := congrArg Vector.due hsame
      have hsince := congrArg Vector.since hsame
      have hhold' := congrArg Vector.hold hsame
      exact ⟨rfl, hdue', hsince, hhold', fun q hq => (hv q).trans (if_neg hq), rfl⟩

end Sys2Proof.Machine

open Sys2Proof Sys2Proof.Machine Sys2Proof.Claims

/-- Settles O48: ring control, the values for TAIL, polls, and interrupts held back. -/
theorem ringControl : Obligations.RingControl := by
  unfold Obligations.RingControl
  intro s r hr hpend
  simp only [offRing_add]
  refine ⟨fun hstate hbound => ⟨exec_ringStart_runs hr hpend hstate hbound, exec_ringStart_refuses hr hpend hstate hbound⟩,
    exec_ringStart_idle hpend, exec_ringStop_stopped hpend, exec_ringStop_idle hpend, exec_ringStop_busy hpend,
    exec_ringResume_idle hpend, exec_ringResume_runs hpend, fun v c n hc h0 => tailValue_taken hr hpend hc h0,
    fun v hdev => exec_ringTailWrite_host hpend hdev v, ⟨exec_doorbellPoll_reads hr, exec_doorbellPoll_idle⟩, exec_intrHoldExpiry s⟩

end

section
/-! # Descriptors (O49): fetching, checking, and refusing one at HEAD

A device ring's read ends with the step, and what it brings is checked at once (R306). -/
namespace Sys2Proof.Machine
open Sys2Proof.Claims

/-! ## Words and short writes of DRAM -/

theorem wordsLE_bytesOfWords (ws : List Word) : wordsLE ws.length (bytesOfWords ws) = ws := by
  induction ws with
  | nil => rfl
  | cons w ws ih =>
    have hcons : bytesOfWords (w :: ws) = bytesLE 4 w.toNat ++ bytesOfWords ws := rfl
    have hlen : (bytesLE 4 w.toNat).length = 4 := bytesLE_length ..
    rw [List.length_cons, wordsLE, hcons, List.take_left' hlen, List.drop_left' hlen, ih, natLE_bytesLE]
    congr 1
    apply BitVec.eq_of_toNat_eq
    have hw := w.isLt
    rw [BitVec.toNat_ofNat]
    omega

/-- Words that have been put at an address of no ROM are read there. -/
theorem State.words_putMem (s : State) {a : Nat} (ws : List Word) (hrom : ∀ i < 4 * ws.length, isRom (a + i) = false) :
    (s.putMem a (bytesOfWords ws)).words a ws.length = ws := by
  have hlen := bytesOfWords_length ws
  have hbytes : (s.putMem a (bytesOfWords ws)).bytes a (bytesOfWords ws).length = bytesOfWords ws :=
    State.bytes_of_byte fun i hi => by
      rw [State.byte_putMem _ _ _ (hrom i (by omega)), if_pos (by omega), Nat.add_sub_cancel_left]
  rw [State.words, ← hlen, hbytes, wordsLE_bytesOfWords]

theorem State.words_congr {s t : State} (h : ∀ z, t.byte z = s.byte z) (a n : Nat) : t.words a n = s.words a n :=
  congrArg (wordsLE n) (State.bytes_congr h a (4 * n))

/-- A write of less than a block of sound DRAM puts its bytes and does nothing else. -/
theorem State.writeMem_short {s : State} (h : soundMem s) {a : Nat} (hdram : isDram a = true) {bs : List Byte}
    (hlen : bs.length < 64) : s.writeMem a bs = s.putMem a bs := by
  have hpart (b : Nat) : ¬ (a ≤ b ∧ b + 64 ≤ a + bs.length) := by omega
  unfold State.writeMem
  simp only [hdram, if_true, hpart, if_false]
  rw [forEach_of_fixed (State.crcCheck_of_intact h.1 h.2.1)]

theorem State.isDram_of_inDram {s : State} {a : Nat} (h : s.inDram a = true) : isDram a = true := by
  have hpop : isLp a = true ∨ isBonded a = true := by
    by_contra hno
    rw [not_or, Bool.not_eq_true, Bool.not_eq_true] at hno
    rw [State.inDram, State.mcOf, hno.1, hno.2] at h
    exact Bool.noConfusion h
  simp only [isLp, isBonded, Bool.and_eq_true, decide_eq_true_eq] at hpop
  simp only [isDram, decide_eq_true_eq]
  omega

/-- Every address of a range in service is of DRAM. -/
theorem State.isDram_of_dramRange {s : State} {a n z : Nat} (h : s.dramRange a n = true) (hlo : a ≤ z) (hhi : z < a + n) :
    isDram z = true := by
  have hn : (n == 0) = false := beq_eq_false_iff_ne.mpr (by omega)
  rw [State.dramRange, hn, Bool.false_or, List.all_eq_true] at h
  have hgranule := h (z / 256 - a / 256) (List.mem_range.mpr (by omega))
  have hsame : a / 256 + (z / 256 - a / 256) = z / 256 := by omega
  rw [hsame] at hgranule
  have hdram := State.isDram_of_inDram hgranule
  simp only [isDram, decide_eq_true_eq] at hdram ⊢
  omega

/-- The controllers of addresses depend on the memory block's lists alone (R167, R418). -/
theorem State.mcOf_congr {s t : State} (h : ∀ o, 0x1310000 ≤ o → o < 0x1320000 → t.reg o = s.reg o) (a : Nat) : t.mcOf a = s.mcOf a := by
  have hbmc (die : Nat) : t.bmcList die = s.bmcList die := by
    rw [State.bmcList, h _ (by decide) (by decide)]
    rfl
  unfold State.mcOf
  split
  · next hlp =>
    have hdie : a / 2 ^ 39 < 2 := by
      have hlt := of_decide_eq_true hlp
      omega
    have hlist : t.lpList (a / 2 ^ 39) = s.lpList (a / 2 ^ 39) := by
      unfold State.lpList
      simp only [offMem]
      rw [h _ (by omega) (by omega), h _ (by omega) (by omega)]
    simp only [hlist]
  · simp only [hbmc]

theorem State.dramRange_congr {s t : State} (h : ∀ o, 0x1310000 ≤ o → o < 0x1320000 → t.reg o = s.reg o) (a n : Nat) :
    t.dramRange a n = s.dramRange a n := by
  simp only [State.dramRange, State.inDram, State.mcOf_congr h]

/-! ## The descriptor that a device ring reads -/

section
variable {s : State} {r : Nat}

/-- A ring after a descriptor of index `i` has arrived. -/
theorem State.arrived_spec (s : State) (r i : Nat) (d : List Word × Nat) :
    ((s.arrived r i d).ring r).fetchedAt i = d ∧ ((s.arrived r i d).ring r).lastTry = s.lcount
      ∧ ((s.arrived r i d).ring r) = { s.ring r with fetched := ((s.arrived r i d).ring r).fetched, lastTry := s.lcount }
      ∧ (∀ k, k ≠ i → ((s.arrived r i d).ring r).fetchedAt k = (s.ring r).fetchedAt k)
      ∧ (∀ q, q ≠ r → (s.arrived r i d).ring q = s.ring q) ∧ s.arrived r i d = { s with rings := (s.arrived r i d).rings } := by
  have hring := State.ring_setRing_same s r fun x => { x with
    fetched := Sparse.set (fun _ => ([], 0)) x.fetched i d, lastTry := s.lcount }
  have hother := fun q (hq : q ≠ r) => State.ring_setRing_other s hq fun x => { x with
    fetched := Sparse.set (fun _ => ([], 0)) x.fetched i d, lastTry := s.lcount }
  have hframe : s.arrived r i d = { s with rings := (s.arrived r i d).rings } := rfl
  change (s.arrived r i d).ring r = _ at hring
  change ∀ q, q ≠ r → (s.arrived r i d).ring q = _ at hother
  generalize s.arrived r i d = t at hring hother hframe
  refine ⟨?_, ?_, ?_, fun k hk => ?_, hother, hframe⟩
  · rw [hring]
    exact Sparse.get_set_same (fun _ => ([], 0)) (s.ring r).fetched i d
  · rw [hring]
  · rw [hring]
  · rw [hring]
    exact Sparse.get_set_other (fun _ => ([], 0)) (s.ring r).fetched hk d

/-- A device ring reads a slot of sound DRAM as it stands. -/
theorem State.readDescs_one (hdev : s.ringDev r = true) (i : Word) (hrange : s.dramRange (s.slotAddr r i) 64 = true)
    (hpoison : s.anyPoison (s.slotAddr r i) 64 = false) (hsound : soundMem s) :
    s.readDescs r i 1 = s.arrived r i.toNat (s.words (s.slotAddr r i) 16, 0) := by
  have hentry := State.readEntry_of_intact hsound.1 hsound.2.1 (a := s.slotAddr r i) (n := 16) hpoison
  have hslot : s.readSlot (s.slotAddr r i) = (s, (s.words (s.slotAddr r i) 16, 0)) := by
    rw [State.readSlot, hrange, hentry]
    rfl
  have hzero : i + BitVec.ofNat 32 0 = i := BitVec.add_zero i
  rw [State.readDescs, if_pos hdev, List.range_one, forEach, List.foldl_cons, List.foldl_nil]
  simp only [hzero, hslot]

theorem words_length (s : State) (a n : Nat) : (s.words a n).length = n := by
  have h (m : Nat) (bs : List Byte) : (wordsLE m bs).length = m := by
    induction m generalizing bs with
    | zero => rfl
    | succ m ih => rw [wordsLE, List.length_cons, ih]
  exact h _ _

/-- What has been fetched at HEAD is there, with the answer of its checks. -/
theorem State.headStatus_of_fetched {w : List Word} (hne : w ≠ []) (h : (s.ring r).fetchedAt (s.head r).toNat = (w, 0)) :
    s.headStatus r = some (w, s.checkDesc r (s.head r) w) := by
  rw [State.headStatus, h]
  cases w with
  | nil => exact absurd rfl hne
  | cons x xs => rfl

/-- The check of the descriptor at HEAD does nothing where it passes, or is to be read again. -/
theorem State.goOn_keeps {w : List Word} {st : Nat} (hhead : s.headStatus r = some (w, st))
    (h : st = 0 ∨ ((st = 0x80 ∨ st = 0x82) ∧ (s.ring r).retries < 8)) : s.goOn r = s := by
  rw [State.goOn, State.checkHead, hhead]
  split
  · rfl
  · exact if_pos h

theorem State.goOn_refuses {w : List Word} {st : Nat} (hstart : s.canStart r = true) (hhead : s.headStatus r = some (w, st))
    (h : st ∈ [0x83, 0x84, 0x86]) : s.goOn r = s.refuseDesc r w st := by
  simp only [List.mem_cons, List.not_mem_nil, or_false] at h
  rw [State.goOn, State.checkHead, hhead, hstart]
  simp only [Bool.not_true, Bool.false_eq_true, if_false]
  rw [if_neg (by omega), if_neg (by omega)]

/-- Two states with the same registers that differ in rings alone give the same answers about a descriptor. -/
theorem State.checkDesc_congr {t : State} (hsetup : t.setup = s.setup) (i : Word) (w : List Word) :
    t.checkDesc r i w = s.checkDesc r i w := by
  have hspool (c id : Nat) : t.inSpool c id = s.inSpool c id := by
    simp only [State.inSpool, State.reg_congr hsetup]
  have hctx : t.ringCtx r = s.ringCtx r := by simp only [State.ringCtx, State.reg_congr hsetup]
  simp only [State.checkDesc, State.checkFields, hspool, hctx]

/-- A ring that may start its descriptor at HEAD fetches. -/
theorem State.fetches_of_canStart (hr : r < 128) (hdev : s.ringDev r = true) (h : s.canStart r = true) : s.fetches r = true := by
  simp only [State.canStart, Bool.and_eq_true, Bool.not_eq_true', beq_iff_eq] at h
  simp [State.fetches, h, hdev, hr]

/-- The part of a ring that decides whether its descriptor at HEAD may start. -/
theorem State.canStart_congr {t : State} (hsetup : t.setup = s.setup) (hresets : t.resets = s.resets)
    (hring : t.ring r = { s.ring r with fetched := (t.ring r).fetched, lastTry := (t.ring r).lastTry, retries := (t.ring r).retries }) :
    t.canStart r = s.canStart r := by
  have hreg (o : Nat) : t.reg o = s.reg o := State.reg_congr hsetup o
  have hin : (t.ring r).inflight = (s.ring r).inflight := by rw [hring]; rfl
  have hfence : (t.ring r).fenced = (s.ring r).fenced := by rw [hring]; rfl
  have hstop : (t.ring r).stopping = (s.ring r).stopping := by rw [hring]
  have hlost : (t.ring r).linkLost = (s.ring r).linkLost := by rw [hring]
  simp only [State.canStart, State.ringState, State.ctxRuns, State.ringCtx, State.head, State.tail, hreg, hin, hfence, hstop, hlost, hresets]

end

end Sys2Proof.Machine
end

section
/-! # Descriptors (O49), second part: the refusal of one at HEAD, reading again, and the claim -/
namespace Sys2Proof.Machine
open Sys2Proof.Claims

/-! ## The completion entry (R319) -/

/-- The entry of a descriptor that is done now, as O49 writes it out. -/
theorem State.entryWords_eq {s t : State} (hsetup : t.reg (offGond + 0x10) = s.reg (offGond + 0x10)) {r : Nat}
    (hsize : t.reg (offRing r + 0x10) = s.reg (offRing r + 0x10)) (i : Word) {d : Started} (hdone : d.doneAt = s.lcount) (status : Nat)
    {detail : Nat} (hdetail : detail < 2 ^ 32) : t.entryWords r i d status detail = entryOf s r i d.words status detail := by
  have hmin : min detail 0xFFFFFFFF = detail := by omega
  have hlog : t.ringLog r = s.ringLog r := congrArg (fun w => max 6 (fld w 0 5)) hsize
  have hphase : bitsOf i.toNat (t.ringLog r) 1 = i.toNat / s.ringSize r % 2 := by rw [bitsOf_eq, hlog, pow_one, State.ringSize]
  have hseq : t.startSeq = s.startSeq := hsetup
  have hhead : (1 - i.toNat / s.ringSize r % 2) * 2 ^ 31 + status * 2 ^ 16 + fld (wordAt d.words 0) 0 16 =
      2 ^ 31 * (1 - i.toNat / s.ringSize r % 2) + (2 ^ 16 * status + fld (wordAt d.words 0) 0 16) := by ring
  rw [State.entryWords, entryOf, hphase, hdone, hseq, hhead, hmin]

theorem entryOf_length (s : State) (r : Nat) (i : Word) (w : List Word) (status detail : Nat) :
    (entryOf s r i w status detail).length = 8 := rfl

/-! ## Retiring one descriptor (R319, R320) -/

section
variable {s : State} {r : Nat}

/-- RETIRED moves past the one descriptor that has its result: its entry is written and it is forgotten. -/
theorem State.retire_one {d : Started} {st : Nat × Nat} (hstarted : (s.ring r).started = [((s.retired r).toNat, some d)])
    (hres : d.result = some st) (hsent : s.unsent r = false) (hirq : bitAt (wordAt d.words 0) 23 = false) :
    s.retire r = ((s.writeEntry r (s.retired r) d st.1 st.2).setRing r fun x => x.setStarted (s.retired r).toNat none).setReg
      (offRing r + 0x24) (s.retired r + 1) := by
  have hat : (s.ring r).at (s.retired r).toNat = some d := by
    rw [Ring.at, hstarted]
    exact if_pos rfl
  rw [State.retire, hstarted, List.length_singleton, State.retireMany, State.retireMany, State.retireOne]
  simp only [hat, hres, hsent, hirq, Bool.false_eq_true, if_false, nextIdx]

/-- The entry in the DRAM of a device ring. -/
theorem State.writeEntry_of_sound (hsound : soundMem s) (hdev : s.ringDev r = true) {i : Word} (hrange : s.dramRange (s.entryAddr r i) 32 = true)
    (d : Started) (st detail : Nat) :
    s.writeEntry r i d st detail = s.putMem (s.entryAddr r i) (bytesOfWords (s.entryWords r i d st detail)) := by
  have hlen : (bytesOfWords (s.entryWords r i d st detail)).length < 64 := by
    rw [bytesOfWords_length]
    exact (by decide : 4 * 8 < 64)
  have hdram := State.isDram_of_dramRange hrange le_rfl (by omega)
  rw [State.writeEntry, if_pos hdev, if_pos hrange, State.writeMem_short hsound hdram hlen]

/-- A descriptor that is refused now, with its status. -/
def State.refusedDesc (s : State) (w : List Word) (status : Nat) : Started :=
  { words := w, refused := true, result := some (status, 0), doneAt := s.lcount }

/-- A ring's part of the refusal of the descriptor at index `i`. -/
def Ring.refusing (x : Ring) (i : Nat) (d : Started) : Ring :=
  { x.setStarted i (some d) with fetched := Sparse.set (fun _ => ([], 0)) x.fetched i ([], 0) }

theorem Ring.started_refusing {x : Ring} (h : x.started = []) (i : Nat) (d : Started) : (x.refusing i d).started = [(i, some d)] := by
  show Sparse.set (fun _ => none) x.started i (some d) = _
  rw [h]
  rfl

/-- The state after the descriptor at HEAD, `w`, has been refused, but for its entry. -/
def State.refusedAt (s : State) (r : Nat) (w : List Word) (status : Nat) : State :=
  (s.setRing r fun x => x.refusing (s.head r).toNat (s.refusedDesc w status)).haltMarked (offRing r) (s.head r) status

theorem State.refuseDesc_eq (hrun : s.ringState r = 1) (hirq : s.irqEn r = false) (w : List Word) (status : Nat) :
    s.refuseDesc r w status = (s.refusedAt r w status).retire r := by
  let u := s.setRing r fun x => x.refusing (s.head r).toNat (s.refusedDesc w status)
  have hstate : u.ringState r = 1 := hrun
  have hquiet : (u.haltMarked (offRing r) (s.head r) status).irqEn r = false := by
    rw [← hirq]
    exact congrArg (bitAt · 8) ((State.reg_haltMarked ..).trans ((if_neg (by omega)).trans (if_neg (by omega))))
  have hintr : (u.haltMarked (offRing r) (s.head r) status).ringIntr r = u.haltMarked (offRing r) (s.head r) status := by
    rw [State.ringIntr, hquiet]
    rfl
  have hhalt : u.haltRing r (s.head r) status = u.haltMarked (offRing r) (s.head r) status := by
    rw [State.haltRing_halts (by omega) (by omega), hintr]
  exact congrArg (State.retire · r) hhalt

/-- The ring, its registers and the rest of the state once the descriptor at HEAD is marked refused. -/
theorem State.refusedAt_spec (hfree : (s.ring r).started = []) (w : List Word) {status : Nat} (hstatus : status < 256) :
    ((s.refusedAt r w status).ring r).started = [((s.head r).toNat, some (s.refusedDesc w status))]
      ∧ (∀ q, q ≠ r → (s.refusedAt r w status).ring q = s.ring q) ∧ (s.refusedAt r w status).ringState r = 3
      ∧ fld ((s.refusedAt r w status).reg (offRing r + 0x18)) 16 8 = status
      ∧ (s.refusedAt r w status).reg (offRing r + 0x28) = s.head r
      ∧ regsKept s (s.refusedAt r w status) [offRing r + 0x18, offRing r + 0x28]
      ∧ s.refusedAt r w status = { s with setup := (s.refusedAt r w status).setup, rings := (s.refusedAt r w status).rings } := by
  have hring := State.ring_setRing_same s r fun x => x.refusing (s.head r).toNat (s.refusedDesc w status)
  have hother := fun q (hq : q ≠ r) => State.ring_setRing_other s hq fun x => x.refusing (s.head r).toNat (s.refusedDesc w status)
  have hu : s.setRing r (fun x => x.refusing (s.head r).toNat (s.refusedDesc w status)) =
    { s with rings := (s.setRing r fun x => x.refusing (s.head r).toNat (s.refusedDesc w status)).rings } := rfl
  rw [State.refusedAt]
  generalize s.setRing r (fun x => x.refusing (s.head r).toNat (s.refusedDesc w status)) = u at hring hother hu
  obtain ⟨hstate, hcode, -, hidx, hkept⟩ := u.haltMarked_regs (offRing r) (s.head r) hstatus
  have honly := u.haltMarked_onlyRegs (offRing r) (s.head r) status
  generalize u.haltMarked (offRing r) (s.head r) status = t at hstate hcode hidx hkept honly
  have hrings : t.rings = u.rings := by rw [honly]
  have hsetup : u.setup = s.setup := by rw [hu]
  refine ⟨?_, fun q hq => (State.ring_congr hrings q).trans (hother q hq), hstate, hcode, hidx,
    fun o ho => (hkept o ho).trans (State.reg_congr hsetup o), ?_⟩
  · rw [State.ring_congr hrings, hring, Ring.started_refusing hfree]
  · rw [honly, hu]

/-- Words put in memory, a ring's descriptor forgotten and one register set: what is read of it afterwards. -/
theorem State.entryPut_spec (u : State) (r k a o' : Nat) (ws : List Word) (v : Word) (hrom : ∀ i < 4 * ws.length, isRom (a + i) = false) :
    let t := ((u.putMem a (bytesOfWords ws)).setRing r fun x => x.setStarted k none).setReg o' v
    t.reg o' = v ∧ (∀ o, o ≠ o' → t.reg o = u.reg o) ∧ t.words a ws.length = ws ∧ bytesKept u t [(a, 4 * ws.length)]
      ∧ t = { u with rings := t.rings, setup := t.setup, mem := t.mem, lost := t.lost } := by
  intro t
  have hbyte (z : Nat) : t.byte z = (u.putMem a (bytesOfWords ws)).byte z := State.byte_congr rfl rfl z
  have hlen := bytesOfWords_length ws
  refine ⟨State.reg_setReg_same .., fun o ho => ?_, (State.words_congr hbyte a _).trans (u.words_putMem ws hrom), fun z hz => ?_, rfl⟩
  · exact (State.reg_setReg ..).trans ((if_neg ho).trans (State.reg_congr rfl o))
  · have hout := hz _ (List.mem_singleton.mpr rfl)
    exact (hbyte z).trans (u.byte_putMem_outside (by omega))

/-- Retiring the one descriptor of a device ring that has its result (R319, R320). -/
theorem State.retire_spec (hsound : soundMem s) (hdev : s.ringDev r = true) (hsent : s.unsent r = false)
    (hrange : s.dramRange (s.entryAddr r (s.retired r)) 32 = true) {d : Started} {st : Nat × Nat}
    (hstarted : (s.ring r).started = [((s.retired r).toNat, some d)]) (hres : d.result = some st) (hirq : bitAt (wordAt d.words 0) 23 = false) :
    (s.retire r).retired r = s.retired r + 1 ∧ (∀ o, o ≠ offRing r + 0x24 → (s.retire r).reg o = s.reg o)
      ∧ (s.retire r).words (s.entryAddr r (s.retired r)) 8 = s.entryWords r (s.retired r) d st.1 st.2
      ∧ bytesKept s (s.retire r) [(s.entryAddr r (s.retired r), 32)]
      ∧ s.retire r = { s with rings := (s.retire r).rings, setup := (s.retire r).setup, mem := (s.retire r).mem, lost := (s.retire r).lost } := by
  have hlen : (s.entryWords r (s.retired r) d st.1 st.2).length = 8 := rfl
  have hspec := s.entryPut_spec r (s.retired r).toNat (s.entryAddr r (s.retired r)) (offRing r + 0x24)
    (s.entryWords r (s.retired r) d st.1 st.2) (s.retired r + 1) fun i hi =>
      State.isRom_of_dramRange hrange (by omega) (by rw [hlen] at hi; omega)
  rw [State.retire_one hstarted hres hsent hirq, State.writeEntry_of_sound hsound hdev hrange]
  rw [hlen] at hspec
  exact hspec

/-- Where the registers of a ring's control word and halted index alone differ, its entries lie where they lay. -/
theorem State.entryAddr_congr {t : State} (h : ∀ x, x ≠ 0x18 → x ≠ 0x28 → t.reg (offRing r + x) = s.reg (offRing r + x)) (i : Word) :
    t.entryAddr r i = s.entryAddr r i := by
  have hbase : t.cqBase r = s.cqBase r := by
    rw [State.cqBase, State.cqBase, h 8 (by decide) (by decide), h 0xC (by decide) (by decide)]
  have hsize : t.ringSize r = s.ringSize r := by
    rw [State.ringSize, State.ringSize, State.ringLog, State.ringLog, h 0x10 (by decide) (by decide)]
  rw [State.entryAddr, State.entryAddr, hbase, hsize]

theorem frame_of_retired {s u t : State} (h : u = { s with setup := u.setup, rings := u.rings })
    (h' : t = { u with rings := t.rings, setup := t.setup, mem := t.mem, lost := t.lost }) :
    t = { s with rings := t.rings, setup := t.setup, mem := t.mem, lost := t.lost } := by
  rw [h', h]

/-- Retiring a descriptor at HEAD that has just been refused, where nothing else was in flight. -/
theorem State.retire_refused {u : State} {w : List Word} {status : Nat}
    (hstarted : (u.ring r).started = [((s.head r).toNat, some (s.refusedDesc w status))])
    (hstate : u.ringState r = 3) (hcode : fld (u.reg (offRing r + 0x18)) 16 8 = status) (hidx : u.reg (offRing r + 0x28) = s.head r)
    (hkept : regsKept s u [offRing r + 0x18, offRing r + 0x28]) (hframe : u = { s with setup := u.setup, rings := u.rings })
    (hr : r < 128) (hsound : soundMem s) (hdev : s.ringDev r = true) (hlevel : s.head r = s.retired r) (hsent : s.unsent r = false)
    (hrange : s.dramRange (s.entryAddr r (s.head r)) 32 = true) (hw : bitAt (wordAt w 0) 23 = false) :
    (u.retire r).ringState r = 3 ∧ fld ((u.retire r).reg (offRing r + 0x18)) 16 8 = status ∧ (u.retire r).reg (offRing r + 0x28) = s.head r
      ∧ (u.retire r).head r = s.head r ∧ (u.retire r).retired r = s.head r + 1
      ∧ (u.retire r).words (s.entryAddr r (s.head r)) 8 = entryOf s r (s.head r) w status 0
      ∧ bytesKept s (u.retire r) [(s.entryAddr r (s.head r), 32)]
      ∧ u.retire r = { s with rings := (u.retire r).rings, setup := (u.retire r).setup, mem := (u.retire r).mem, lost := (u.retire r).lost } := by
  have hreg (x : Nat) (hx : x ≠ 0x18) (hx' : x ≠ 0x28) : u.reg (offRing r + x) = s.reg (offRing r + x) :=
    hkept _ (by simp only [List.mem_cons, List.not_mem_nil, or_false]; omega)
  have hlow (o : Nat) (ho : o < 0x1401000 ∨ 0x1403000 ≤ o) : u.reg o = s.reg o :=
    hkept _ (by simp only [List.mem_cons, List.not_mem_nil, or_false, offRing_eq]; omega)
  have hretired : u.retired r = s.head r := (hreg 0x24 (by decide) (by decide)).trans hlevel.symm
  have hentry := State.entryAddr_congr hreg (s.head r)
  have hdev' : u.ringDev r = true := by rw [State.ringDev, hreg 0x10 (by decide) (by decide)]; exact hdev
  have hsound' : soundMem u := by rw [hframe]; exact hsound
  have hsent' : u.unsent r = false := by
    have hlink : u.link 16 = s.link 16 := by rw [hframe]; rfl
    rw [State.unsent, hdev] at hsent
    rw [State.unsent, hdev', hlink]
    exact hsent
  have hwords := State.entryWords_eq (hlow (offGond + 0x10) (.inr (by decide))) (hreg 0x10 (by decide) (by decide)) (s.head r)
    (d := s.refusedDesc w status) rfl status (detail := 0) (by decide)
  have hspec := State.retire_spec hsound' hdev' hsent' (d := s.refusedDesc w status) (st := (status, 0))
    (by rw [hretired, hentry, State.dramRange_congr fun o _ ho => hlow o (.inl (by omega))]; exact hrange)
    (by rw [hretired]; exact hstarted) rfl hw
  rw [hretired, hentry, hwords] at hspec
  obtain ⟨hret, hregs, hread, hbytes, hlast⟩ := hspec
  have hsame (x : Nat) (hx : x ≠ 0x24) : (u.retire r).reg (offRing r + x) = u.reg (offRing r + x) :=
    hregs _ (by omega)
  have hmem : u.mem = s.mem := by rw [hframe]
  have hlost : u.lost = s.lost := by rw [hframe]
  refine ⟨?_, ?_, (hsame 0x28 (by decide)).trans hidx, (hsame 0x20 (by decide)).trans (hreg 0x20 (by decide) (by decide)), hret, hread,
    fun z hz => (hbytes z hz).trans (State.byte_congr hmem hlost z), ?_⟩
  · rw [State.ringState, hsame 0x18 (by decide)]
    exact hstate
  · rw [hsame 0x18 (by decide), hcode]
  · exact frame_of_retired hframe hlast

/-- Refusing the descriptor at HEAD of a device ring on which nothing else is in flight (R306, R308, R319, R320). -/
theorem State.refuseDesc_spec (hr : r < 128) (hsound : soundMem s) (hrun : s.ringState r = 1) (hirq : s.irqEn r = false)
    (hdev : s.ringDev r = true) (hfree : (s.ring r).started = []) (hlevel : s.head r = s.retired r) (hsent : s.unsent r = false)
    (hrange : s.dramRange (s.entryAddr r (s.head r)) 32 = true) {w : List Word} (hw : bitAt (wordAt w 0) 23 = false) {status : Nat}
    (hstatus : status < 256) :
    let t := s.refuseDesc r w status
    t.ringState r = 3 ∧ fld (t.reg (offRing r + 0x18)) 16 8 = status ∧ t.reg (offRing r + 0x28) = s.head r ∧ t.head r = s.head r
      ∧ t.retired r = s.head r + 1 ∧ t.words (s.entryAddr r (s.head r)) 8 = entryOf s r (s.head r) w status 0
      ∧ bytesKept s t [(s.entryAddr r (s.head r), 32)]
      ∧ t = { s with rings := t.rings, setup := t.setup, mem := t.mem, lost := t.lost } := by
  obtain ⟨hstarted, -, hstate, hcode, hidx, hkept, hframe⟩ := s.refusedAt_spec hfree w hstatus
  rw [State.refuseDesc_eq hrun hirq]
  exact State.retire_refused hstarted hstate hcode hidx hkept hframe hr hsound hdev hlevel hsent hrange hw

/-! ## DESCRIPTOR_FETCH (R306) -/

theorem exec_descriptorFetch_idle (h : s.fetches r = false) (n : Nat) : exec (.descriptorFetch r n) s = .next s := by
  show execDescriptorFetch r n s = _
  rw [execDescriptorFetch, h]
  rfl

/-- The part of `canStart` that a fetch of the descriptor at HEAD rests on. -/
theorem State.tail_ne_head (h : s.canStart r = true) : 0 < (s.tail r - s.head r).toNat := by
  simp only [State.canStart, Bool.and_eq_true, bne_iff_ne] at h
  have hne : s.head r ≠ s.tail r := h.1.2
  by_contra hzero
  have hsub : s.tail r - s.head r = 0#32 := BitVec.eq_of_toNat_eq (by rw [BitVec.toNat_ofNat]; omega)
  exact hne (BitVec.sub_eq_iff_eq_add.mp hsub |>.trans (BitVec.zero_add _)).symm

/-- One descriptor is read where HEAD stands. -/
theorem exec_descriptorFetch_head (hr : r < 128) (hdev : s.ringDev r = true) (hstart : s.canStart r = true) (hnext : s.nextFetch r = some 0)
    (hrange : s.dramRange (s.slotAddr r (s.head r)) 64 = true) (hpoison : s.anyPoison (s.slotAddr r (s.head r)) 64 = false)
    (hsound : soundMem s) :
    exec (.descriptorFetch r 1) s = .next ((s.arrived r (s.head r).toNat (s.words (s.slotAddr r (s.head r)) 16, 0)).goOn r) := by
  have hpos := State.tail_ne_head hstart
  have hsize : 0 < s.ringSize r := Nat.two_pow_pos _
  have hslot : (s.head r).toNat % s.ringSize r < s.ringSize r := Nat.mod_lt _ hsize
  have hzero : s.head r + BitVec.ofNat 32 0 = s.head r := BitVec.add_zero _
  have hone : min (min 1 4) (min (min 16 (s.tail r - s.head r).toNat - 0) (s.ringSize r - (s.head r).toNat % s.ringSize r)) = 1 := by omega
  show execDescriptorFetch r 1 s = _
  rw [execDescriptorFetch, State.fetches_of_canStart hr hdev hstart, hnext]
  simp only [hzero, hone, Bool.not_true, Bool.false_eq_true, if_false]
  rw [if_neg (by decide), State.readDescs_one hdev _ hrange hpoison hsound]

/-- The state in which a descriptor that has arrived is checked, and the answer. -/
theorem State.arrived_headStatus (i : Word) (hi : i = s.head r) {w : List Word} (hne : w ≠ []) :
    (s.arrived r i.toNat (w, 0)).headStatus r = some (w, s.checkDesc r i w) := by
  obtain ⟨hat, -, -, -, -, hframe⟩ := s.arrived_spec r i.toNat (w, 0)
  have hsetup : (s.arrived r i.toNat (w, 0)).setup = s.setup := rfl
  have hhead : (s.arrived r i.toNat (w, 0)).head r = i := (State.reg_congr hsetup _).trans hi.symm
  have hstatus := State.headStatus_of_fetched (s := s.arrived r i.toNat (w, 0)) hne (by rw [hhead]; exact hat)
  rwa [hhead, State.checkDesc_congr hsetup] at hstatus

theorem words_ne_nil (s : State) (a : Nat) : s.words a 16 ≠ [] := by
  intro h
  have hlen := words_length s a 16
  rw [h] at hlen
  exact absurd hlen (by decide)

/-- A descriptor that passes, or that is to be read again, is kept. -/
theorem exec_descriptorFetch_keeps (hr : r < 128) (hdev : s.ringDev r = true) (hstart : s.canStart r = true) (hnext : s.nextFetch r = some 0)
    (hrange : s.dramRange (s.slotAddr r (s.head r)) 64 = true) (hpoison : s.anyPoison (s.slotAddr r (s.head r)) 64 = false)
    (hsound : soundMem s) {w : List Word} (hw : w = s.words (s.slotAddr r (s.head r)) 16)
    (hst : s.checkDesc r (s.head r) w = 0 ∨ (s.checkDesc r (s.head r) w = 0x80 ∧ (s.ring r).retries < 8)) :
    Next (.descriptorFetch r 1) s fun t =>
      (t.ring r).fetchedAt (s.head r).toNat = (w, 0) ∧ (t.ring r).lastTry = s.lcount ∧ (t.ring r).started = (s.ring r).started
        ∧ (∀ k, k ≠ (s.head r).toNat → (t.ring r).fetchedAt k = (s.ring r).fetchedAt k) ∧ (∀ q, q ≠ r → t.ring q = s.ring q)
        ∧ t = { s with rings := t.rings } := by
  obtain ⟨hat, htry, hring, hother, hrings, hframe⟩ := s.arrived_spec r (s.head r).toNat (w, 0)
  have hstatus := State.arrived_headStatus (s.head r) rfl (hw ▸ words_ne_nil s _ : w ≠ [])
  have hretries := congrArg Ring.retries hring
  have hstarted := congrArg Ring.started hring
  change _ = (s.ring r).retries at hretries
  have hkeep := State.goOn_keeps hstatus (by
    rw [hretries]
    exact hst.imp_right fun h => ⟨.inl h.1, h.2⟩)
  refine ⟨_, (exec_descriptorFetch_head hr hdev hstart hnext hrange hpoison hsound).trans (congrArg Host.Outcome.next ?_), hat, htry,
    hstarted, hother, hrings, hframe⟩
  rw [← hw, hkeep]

theorem entryOf_congr {t : State} (hsetup : t.setup = s.setup) (hcount : t.lcount = s.lcount) (i : Word) (w : List Word) (st detail : Nat) :
    entryOf t r i w st detail = entryOf s r i w st detail := by
  have hsize : t.ringSize r = s.ringSize r := by
    rw [State.ringSize, State.ringSize, State.ringLog, State.ringLog, State.reg_congr hsetup]
  have hseq : t.startSeq = s.startSeq := State.reg_congr hsetup _
  rw [entryOf, entryOf, hsize, hseq, hcount]

theorem soundMem_congr {t : State} (hd : t.defects = s.defects) (hc : t.crcOff = s.crcOff) (hb : t.sramBad = s.sramBad) (h : soundMem s) :
    soundMem t := by
  rw [soundMem, hd, hc, hb]
  exact h

theorem bytesKept_congr {u t : State} {rs : List (Nat × Nat)} (hmem : u.mem = s.mem) (hlost : u.lost = s.lost) (h : bytesKept u t rs) :
    bytesKept s t rs := fun z hz => (h z hz).trans (State.byte_congr hmem hlost z)

theorem frame_of_refused {u t : State} (h : u = { s with rings := u.rings })
    (h' : t = { u with rings := t.rings, setup := t.setup, mem := t.mem, lost := t.lost }) :
    t = { s with rings := t.rings, setup := t.setup, mem := t.mem, lost := t.lost } := by
  rw [h', h]

theorem frame_of_rings {u t : State} (h : u = { s with rings := u.rings }) (h' : t = { u with rings := t.rings }) :
    t = { s with rings := t.rings } := by
  rw [h', h]

/-- The refusal as it stands in a state that differs from `s` in what the ring has fetched. -/
theorem refuses_arrived {u : State} {w : List Word} {st : Nat} (hframe : u = { s with rings := u.rings })
    (hring : u.ring r = { s.ring r with fetched := (u.ring r).fetched, lastTry := s.lcount }) (hstatus : u.headStatus r = some (w, st))
    (hr : r < 128) (hsound : soundMem s) (hrun : s.ringState r = 1) (hirq : s.irqEn r = false)
    (hdev : s.ringDev r = true) (hfree : (s.ring r).started = []) (hlevel : s.head r = s.retired r) (hsent : s.unsent r = false)
    (hentry : s.dramRange (s.entryAddr r (s.head r)) 32 = true) (hbit : bitAt (wordAt w 0) 23 = false) (hsmall : st < 256)
    (hstart : s.canStart r = true) (hst : st ∈ [0x83, 0x84, 0x86]) :
    (u.goOn r).ringState r = 3 ∧ fld ((u.goOn r).reg (offRing r + 0x18)) 16 8 = st ∧ (u.goOn r).reg (offRing r + 0x28) = s.head r
      ∧ (u.goOn r).head r = s.head r ∧ (u.goOn r).retired r = s.head r + 1
      ∧ (u.goOn r).words (s.entryAddr r (s.head r)) 8 = entryOf s r (s.head r) w st 0
      ∧ bytesKept s (u.goOn r) [(s.entryAddr r (s.head r), 32)]
      ∧ u.goOn r = { s with rings := (u.goOn r).rings, setup := (u.goOn r).setup, mem := (u.goOn r).mem, lost := (u.goOn r).lost } := by
  have hsetup : u.setup = s.setup := by rw [hframe]
  have hresets : u.resets = s.resets := by rw [hframe]
  have hstarted := congrArg Ring.started hring
  change _ = (s.ring r).started at hstarted
  have hcan : u.canStart r = true := by
    refine (State.canStart_congr hsetup hresets ?_).trans hstart
    rw [hring]
  have hreg (o : Nat) : u.reg o = s.reg o := State.reg_congr hsetup o
  have hhead : u.head r = s.head r := hreg _
  have haddr : u.entryAddr r (s.head r) = s.entryAddr r (s.head r) := State.entryAddr_congr (fun _ _ _ => hreg _) _
  have hwritten : entryOf u r (s.head r) w st 0 = entryOf s r (s.head r) w st 0 := entryOf_congr hsetup (by rw [hframe]) _ _ _ _
  have hsound' : soundMem u := soundMem_congr (by rw [hframe]) (by rw [hframe]) (by rw [hframe]) hsound
  have hrun' : u.ringState r = 1 := (State.ringState_congr hsetup r).trans hrun
  have hirq' : u.irqEn r = false := by rw [State.irqEn, hreg]; exact hirq
  have hdev' : u.ringDev r = true := by rw [State.ringDev, hreg]; exact hdev
  have hlevel' : u.head r = u.retired r := by rw [State.head, State.retired, hreg, hreg]; exact hlevel
  have hsent' : u.unsent r = false := by
    have hlink : u.links = s.links := by rw [hframe]
    rw [State.unsent, hdev] at hsent
    rw [State.unsent, hdev', State.link, hlink]
    exact hsent
  have hentry' : u.dramRange (u.entryAddr r (u.head r)) 32 = true := by
    rw [hhead, haddr, State.dramRange_congr fun o _ _ => hreg o]
    exact hentry
  have hspec := State.refuseDesc_spec hr hsound' hrun' hirq' hdev' (hstarted.trans hfree) hlevel' hsent' hentry' hbit hsmall
  rw [← State.goOn_refuses hcan hstatus hst, hhead, haddr, hwritten] at hspec
  obtain ⟨h3, hcode, hidx, hhead', hret, hread, hbytes, hlast⟩ := hspec
  exact ⟨h3, hcode, hidx, hhead', hret, hread, bytesKept_congr (by rw [hframe]) (by rw [hframe]) hbytes, frame_of_refused hframe hlast⟩

/-- A descriptor that fails its checks for good is refused. -/
theorem exec_descriptorFetch_refuses (hr : r < 128) (hdev : s.ringDev r = true) (hrun : s.ringState r = 1) (hstart : s.canStart r = true)
    (hnext : s.nextFetch r = some 0) (hrange : s.dramRange (s.slotAddr r (s.head r)) 64 = true)
    (hpoison : s.anyPoison (s.slotAddr r (s.head r)) 64 = false) (hsound : soundMem s) {w : List Word}
    (hw : w = s.words (s.slotAddr r (s.head r)) 16) (hst : s.checkDesc r (s.head r) w ∈ [0x83, 0x84, 0x86])
    (hfree : (s.ring r).started = []) (hlevel : s.head r = s.retired r) (hirq : s.irqEn r = false) (hbit : bitAt (wordAt w 0) 23 = false)
    (hentry : s.dramRange (s.entryAddr r (s.head r)) 32 = true) (hsent : s.unsent r = false) :
    Next (.descriptorFetch r 1) s fun t =>
      t.ringState r = 3 ∧ fld (t.reg (offRing r + 0x18)) 16 8 = s.checkDesc r (s.head r) w ∧ t.reg (offRing r + 0x28) = s.head r
        ∧ t.head r = s.head r ∧ t.retired r = s.head r + 1
        ∧ t.words (s.entryAddr r (s.head r)) 8 = entryOf s r (s.head r) w (s.checkDesc r (s.head r) w) 0
        ∧ bytesKept s t [(s.entryAddr r (s.head r), 32)] ∧ t = { s with rings := t.rings, setup := t.setup, mem := t.mem, lost := t.lost } := by
  obtain ⟨-, -, hring, -, -, hframe⟩ := s.arrived_spec r (s.head r).toNat (w, 0)
  have hstatus := State.arrived_headStatus (s.head r) rfl (hw ▸ words_ne_nil s _ : w ≠ [])
  have hexec := exec_descriptorFetch_head hr hdev hstart hnext hrange hpoison hsound
  rw [← hw] at hexec
  have hsmall : s.checkDesc r (s.head r) w < 256 := by
    simp only [List.mem_cons, List.not_mem_nil, or_false] at hst
    omega
  refine ⟨_, hexec, ?_⟩
  exact refuses_arrived hframe hring hstatus hr hsound hrun hirq hdev hfree hlevel hsent hentry hbit hsmall hstart hst

/-! ## DESCRIPTOR_REFETCH (R306) -/

theorem exec_descriptorRefetch_other {w : List Word} {st : Nat} (hstatus : s.headStatus r = some (w, st)) (hst : st ∉ [0x80, 0x82]) :
    exec (.descriptorRefetch r) s = .next s := by
  simp only [List.mem_cons, List.not_mem_nil, or_false, not_or] at hst
  show execDescriptorRefetch r s = _
  simp only [execDescriptorRefetch, hstatus]
  refine if_pos ?_
  simp [hst.1, hst.2]

theorem exec_descriptorRefetch_early (h : (s.lcount - (s.ring r).lastTry).toNat < 100) : exec (.descriptorRefetch r) s = .next s := by
  show execDescriptorRefetch r s = _
  rw [execDescriptorRefetch]
  cases hstatus : s.headStatus r with
  | none => rfl
  | some p => exact if_pos (by rw [decide_eq_true h, Bool.or_true])

/-- What is forgotten of a ring when its descriptor at index `i` is to be read again. -/
def Ring.again (x : Ring) (i : Nat) : Ring :=
  { x with fetched := Sparse.set (fun _ => ([], 0)) x.fetched i ([], 0), retries := x.retries + 1 }

/-- A descriptor that is read again and passes is kept. -/
theorem refetch_keeps {u : State} {i : Word} {w : List Word} (hframe : u = { s with rings := u.rings })
    (hring : u.ring r = (s.ring r).again i.toNat) (hi : i = s.head r) (hw : w = s.words (s.slotAddr r i) 16) (hdev : s.ringDev r = true)
    (hrange : s.dramRange (s.slotAddr r i) 64 = true) (hpoison : s.anyPoison (s.slotAddr r i) 64 = false) (hsound : soundMem s)
    (hcheck : s.checkDesc r i w = 0) :
    ((((u.readDescs r i 1).goOn r).ring r).fetchedAt i.toNat = (w, 0)) ∧ (((u.readDescs r i 1).goOn r).ring r).retries = (s.ring r).retries + 1
      ∧ (u.readDescs r i 1).goOn r = { s with rings := ((u.readDescs r i 1).goOn r).rings } := by
  have hsetup : u.setup = s.setup := by rw [hframe]
  have hreg (o : Nat) : u.reg o = s.reg o := State.reg_congr hsetup o
  have hslot : u.slotAddr r i = s.slotAddr r i := by
    rw [State.slotAddr, State.slotAddr, State.ringBase, State.ringBase, State.ringSize, State.ringSize, State.ringLog, State.ringLog, hreg,
      hreg, hreg]
  have hwords : u.words (s.slotAddr r i) 16 = w :=
    (State.words_congr (State.byte_congr (by rw [hframe]) (by rw [hframe])) _ 16).trans hw.symm
  have hdev' : u.ringDev r = true := by rw [State.ringDev, hreg]; exact hdev
  have hsound' : soundMem u := soundMem_congr (by rw [hframe]) (by rw [hframe]) (by rw [hframe]) hsound
  have hrange' : u.dramRange (u.slotAddr r i) 64 = true := by
    rw [hslot, State.dramRange_congr fun o _ _ => hreg o]
    exact hrange
  have hpoison' : u.anyPoison (u.slotAddr r i) 64 = false := by
    have hsame : u.poisoned = s.poisoned := by
      funext b
      rw [State.poisoned, State.poisoned, hframe]
    rw [hslot, State.anyPoison, hsame]
    exact hpoison
  have hhead : i = u.head r := hi.trans (hreg _).symm
  have hread := State.readDescs_one hdev' i hrange' hpoison' hsound'
  rw [hslot, hwords] at hread
  have hstatus := State.arrived_headStatus i hhead (hw ▸ words_ne_nil s _ : w ≠ [])
  rw [State.checkDesc_congr hsetup, hcheck] at hstatus
  obtain ⟨hat, -, hring', -, -, hlast⟩ := u.arrived_spec r i.toNat (w, 0)
  have hretries := congrArg Ring.retries hring'
  change _ = (u.ring r).retries at hretries
  rw [hring] at hretries
  rw [hread, State.goOn_keeps hstatus (.inl rfl)]
  exact ⟨hat, hretries, frame_of_rings hframe hlast⟩

theorem exec_descriptorRefetch_reads (hr : r < 128) {w' : List Word} (hstatus : s.headStatus r = some (w', 0x80)) (hstart : s.canStart r = true)
    (hdev : s.ringDev r = true) (hretries : (s.ring r).retries < 8) (hlate : 100 ≤ (s.lcount - (s.ring r).lastTry).toNat)
    (hrange : s.dramRange (s.slotAddr r (s.head r)) 64 = true) (hpoison : s.anyPoison (s.slotAddr r (s.head r)) 64 = false)
    (hsound : soundMem s) (hcheck : s.checkDesc r (s.head r) (s.words (s.slotAddr r (s.head r)) 16) = 0) :
    Next (.descriptorRefetch r) s fun t =>
      (t.ring r).fetchedAt (s.head r).toNat = (s.words (s.slotAddr r (s.head r)) 16, 0) ∧ (t.ring r).retries = (s.ring r).retries + 1
        ∧ t = { s with rings := t.rings } := by
  have hexec : exec (.descriptorRefetch r) s =
      .next (((s.setRing r fun x => x.again (s.head r).toNat).readDescs r (s.head r) 1).goOn r) := by
    show execDescriptorRefetch r s = _
    simp only [execDescriptorRefetch, hstatus]
    refine if_neg ?_
    rw [hstart, State.fetches_of_canStart hr hdev hstart, decide_eq_false (Nat.not_le.mpr hretries), decide_eq_false (Nat.not_lt.mpr hlate)]
    decide
  exact ⟨_, hexec, refetch_keeps rfl (State.ring_setRing_same ..) rfl rfl hdev hrange hpoison hsound hcheck⟩

/-! ## The checks, in order -/

theorem State.checkDesc_order (s : State) (r : Nat) (i : Word) (w : List Word) :
    (wordAt w 15 ≠ crc32c (bytesOfWords (w.take 15)) → s.checkDesc r i w = 0x80)
    ∧ (wordAt w 15 = crc32c (bytesOfWords (w.take 15)) → wordAt w 2 ≠ i → s.checkDesc r i w = 0x82)
    ∧ (wordAt w 15 = crc32c (bytesOfWords (w.take 15)) → wordAt w 2 = i → wordAt w 1 ≠ ~~~ (wordAt w 0) → s.checkDesc r i w = 0x81)
    ∧ (wordAt w 15 = crc32c (bytesOfWords (w.take 15)) → wordAt w 2 = i → wordAt w 1 = ~~~ (wordAt w 0) →
      (fld (wordAt w 0) 24 8 = 0 ∨ 10 < fld (wordAt w 0) 24 8) → s.checkDesc r i w = 0x83) := by
  refine ⟨fun hcrc => ?_, fun hcrc hseq => ?_, fun hcrc hseq hcomp => ?_, fun hcrc hseq hcomp hty => ?_⟩
  · rw [State.checkDesc, if_pos hcrc]
  · rw [State.checkDesc, if_neg (not_not.mpr hcrc), if_pos hseq]
  · rw [State.checkDesc, if_neg (not_not.mpr hcrc), if_neg (not_not.mpr hseq), if_pos hcomp]
  · rw [State.checkDesc, if_neg (not_not.mpr hcrc), if_neg (not_not.mpr hseq), if_neg (not_not.mpr hcomp)]
    exact if_pos (hty.imp_right .inl)

end

end Sys2Proof.Machine

open Sys2Proof Sys2Proof.Machine Sys2Proof.Claims

/-- Settles O49: what a fetch keeps or refuses, what is read again, and the order of the checks. -/
theorem descriptorsRead : Obligations.DescriptorsRead := by
  unfold Obligations.DescriptorsRead
  intro s r hr i slot w
  have hctl : 0x1401018 + 0x40 * r = offRing r + 0x18 := by rw [offRing_eq]; omega
  have hidx : 0x1401028 + 0x40 * r = offRing r + 0x28 := by rw [offRing_eq]; omega
  rw [hctl, hidx]
  exact ⟨exec_descriptorFetch_idle, fun hdev hrun hstart hnext hrange hpoison hsound _ =>
      ⟨exec_descriptorFetch_keeps hr hdev hstart hnext hrange hpoison hsound rfl, fun hst hfree hlevel hirq hbit hentry hsent =>
        exec_descriptorFetch_refuses hr hdev hrun hstart hnext hrange hpoison hsound rfl hst hfree hlevel hirq hbit hentry hsent⟩,
    fun w' st hstatus hst => exec_descriptorRefetch_other hstatus hst, exec_descriptorRefetch_early,
    fun w' hstatus hstart hdev hretries hlate hrange hpoison hsound hcheck =>
      exec_descriptorRefetch_reads hr hstatus hstart hdev hretries hlate hrange hpoison hsound hcheck,
    fun v => s.checkDesc_order r i v⟩

end

section
/-! # The link engine (O51): what the completion of the one descriptor in flight does -/
namespace Sys2Proof.Machine
open Sys2Proof.Claims

/-! ## The entry is written, and the ring is quiet (R319, R320) -/

section
variable {s : State} {r : Nat}

theorem Sparse.set_single {α : Type} [DecidableEq α] (k : Nat) (v : Option α) :
    Sparse.set (fun _ => none) [(k, v)] k none = [] := by
  rw [Sparse.set, if_pos rfl]
  simp [Sparse.forget]

theorem Ring.inflight_of_empty {x : Ring} (h : x.started = []) : x.inflight = 0 := by
  rw [Ring.inflight, h]
  rfl

/-- Words put in memory, a ring's descriptor forgotten and one register set: the rings afterwards. -/
theorem State.entryPut_rings (u : State) (r k a o' : Nat) (bs : List Byte) (v : Word) :
    let t := ((u.putMem a bs).setRing r fun x => x.setStarted k none).setReg o' v
    t.ring r = (u.ring r).setStarted k none ∧ ∀ q, q ≠ r → t.ring q = u.ring q := by
  have hput : (u.putMem a bs).rings = u.rings := rfl
  intro t
  refine ⟨?_, fun q hq => ?_⟩
  · exact (State.ring_setReg ..).trans ((State.ring_setRing_same ..).trans (by rw [State.ring_congr hput]))
  · exact (State.ring_setReg ..).trans ((State.ring_setRing_other _ hq _).trans (State.ring_congr hput q))

/-- The ring whose one descriptor is retired. -/
theorem State.ring_retire_one {d : Started} {st : Nat × Nat} (hstarted : (s.ring r).started = [((s.retired r).toNat, some d)])
    (hres : d.result = some st) (hsent : s.unsent r = false) (hirq : bitAt (wordAt d.words 0) 23 = false) (hsound : soundMem s)
    (hdev : s.ringDev r = true) (hrange : s.dramRange (s.entryAddr r (s.retired r)) 32 = true) :
    (s.retire r).ring r = { s.ring r with started := [] } ∧ ∀ q, q ≠ r → (s.retire r).ring q = s.ring q := by
  have hspec := s.entryPut_rings r (s.retired r).toNat (s.entryAddr r (s.retired r)) (offRing r + 0x24)
    (bytesOfWords (s.entryWords r (s.retired r) d st.1 st.2)) (s.retired r + 1)
  rw [Ring.setStarted, hstarted, Sparse.set_single] at hspec
  rw [State.retire_one hstarted hres hsent hirq, State.writeEntry_of_sound hsound hdev hrange]
  exact hspec

theorem State.quiet_of_running {u : State} (hin : (u.ring r).inflight = 0) (hstop : (u.ring r).stopping = false)
    (hlost : (u.ring r).linkLost = false) : u.quiet r = u := by
  rw [State.quiet, if_neg (not_not.mpr hin)]
  simp [hstop, hlost]

/-- The last descriptor in flight of a ring that runs on is retired. -/
theorem State.settled_spec {d : Started} {st : Nat × Nat} (hstarted : (s.ring r).started = [((s.retired r).toNat, some d)])
    (hres : d.result = some st) (hsent : s.unsent r = false) (hirq : bitAt (wordAt d.words 0) 23 = false) (hsound : soundMem s)
    (hdev : s.ringDev r = true) (hrange : s.dramRange (s.entryAddr r (s.retired r)) 32 = true)
    (hstop : (s.ring r).stopping = false) (hlost : (s.ring r).linkLost = false) :
    let t := ((s.retire r).showInflight r).quiet r
    t.retired r = s.retired r + 1 ∧ (∀ o, o ≠ offRing r + 0x18 → o ≠ offRing r + 0x24 → t.reg o = s.reg o)
      ∧ t.ringState r = s.ringState r ∧ fld (t.reg (offRing r + 0x18)) 16 8 = fld (s.reg (offRing r + 0x18)) 16 8
      ∧ fld (t.reg (offRing r + 0x18)) 0 5 = 0
      ∧ t.words (s.entryAddr r (s.retired r)) 8 = s.entryWords r (s.retired r) d st.1 st.2
      ∧ bytesKept s t [(s.entryAddr r (s.retired r), 32)]
      ∧ t.ring r = { s.ring r with started := [] } ∧ (∀ q, q ≠ r → t.ring q = s.ring q)
      ∧ t = { s with rings := t.rings, setup := t.setup, mem := t.mem, lost := t.lost } := by
  obtain ⟨hret, hregs, hread, hbytes, hframe⟩ := State.retire_spec hsound hdev hsent hrange hstarted hres hirq
  obtain ⟨hring, hother⟩ := State.ring_retire_one hstarted hres hsent hirq hsound hdev hrange
  generalize s.retire r = u at hret hregs hread hbytes hframe hring hother
  have hreg := State.reg_showInflight u r
  have hstate := State.ringState_showInflight u r
  have honly : u.OnlyRegs (u.showInflight r) := State.onlyRegs_setRegFld ..
  have hin : (u.ring r).inflight = 0 := Ring.inflight_of_empty (by rw [hring])
  generalize u.showInflight r = v at hreg hstate honly
  have hrings : v.rings = u.rings := by rw [honly]
  have hctl := (hreg (offRing r + 0x18)).trans (if_pos rfl)
  obtain ⟨-, hcode, hcount⟩ := fld_setFld_inflight (u.reg (offRing r + 0x18)) (u.ring r).inflight
  have hsame := hregs (offRing r + 0x18) (by omega)
  have hringv : v.ring r = { s.ring r with started := [] } := (State.ring_congr hrings r).trans hring
  have hquiet : v.quiet r = v :=
    State.quiet_of_running (Ring.inflight_of_empty (by rw [hringv])) (by rw [hringv]; exact hstop) (by rw [hringv]; exact hlost)
  have hbyte (z : Nat) : v.byte z = u.byte z := honly.byte z
  rw [hquiet]
  refine ⟨(hreg _).trans ((if_neg (by omega)).trans hret), fun o ho ho' => (hreg o).trans ((if_neg ho).trans (hregs o ho')), ?_, ?_, ?_,
    (State.words_congr hbyte _ 8).trans hread, fun z hz => (hbyte z).trans (hbytes z hz), hringv,
    fun q hq => (State.ring_congr hrings q).trans (hother q hq), ?_⟩
  · rw [hstate, State.ringState, hsame, State.ringState]
  · rw [hctl, hcode, hsame]
  · rw [hctl, hcount, hin]
  · rw [honly, hframe]

/-! ## The result is entered (R308, R319) -/

/-- A ring's part of the completion of the descriptor at index `i`. -/
def Ring.completing (x : Ring) (i : Nat) (d : Started) : Ring :=
  { x.setStarted i (some d) with
    jobs := Sparse.set (fun _ => none) x.jobs i none
    waiting := if x.waiting = some i then none else x.waiting }

/-- A ring that runs halts for a status other than OK. -/
def State.haltedFor (s : State) (r : Nat) (i : Word) (status : Nat) : State :=
  if status = 0 then s else s.haltMarked (offRing r) i status

theorem State.ringIntr_of_disabled (h : s.irqEn r = false) : s.ringIntr r = s := by
  rw [State.ringIntr, h]
  rfl

/-- What follows once a result stands in the ring. -/
def State.resultEntered (s : State) (r : Nat) (i : Word) (status : Nat) : State :=
  let s := if s.ringState r = 2 ∧ (s.ring r).waiting = none then s.setRingState r 1 else s
  let s := if status = 0 then s else s.haltRing r i status
  ((s.retire r).showInflight r).quiet r

theorem State.completeDesc_at {i : Word} {d : Started} (hat : (s.ring r).at i.toNat = some d) (status detail : Nat) :
    s.completeDesc r i status detail = (s.setRing r fun x =>
      x.completing i.toNat { d with result := some (status, detail), doneAt := s.lcount }).resultEntered r i status := by
  rw [State.completeDesc]
  simp only [hat]
  rfl

theorem State.resultEntered_running (hrun : s.ringState r = 1) (hirq : s.irqEn r = false) (i : Word) (status : Nat) :
    s.resultEntered r i status = (((s.haltedFor r i status).retire r).showInflight r).quiet r := by
  have hquiet : (s.haltMarked (offRing r) i status).irqEn r = false := by
    rw [← hirq]
    exact congrArg (bitAt · 8) ((State.reg_haltMarked ..).trans ((if_neg (by omega)).trans (if_neg (by omega))))
  have hawake : ¬ (s.ringState r = 2 ∧ (s.ring r).waiting = none) := by omega
  rw [State.resultEntered, State.haltedFor, if_neg hawake, State.haltRing_halts (by omega) (by omega),
    State.ringIntr_of_disabled hquiet]

/-- The state in which the result has been entered. -/
theorem State.haltedFor_spec {u : State} (hrun : u.ringState r = 1) (i : Word) {status : Nat} (hstatus : status < 256) :
    (status = 0 → (u.haltedFor r i status).ringState r = 1)
      ∧ (status ≠ 0 → (u.haltedFor r i status).ringState r = 3 ∧ fld ((u.haltedFor r i status).reg (offRing r + 0x18)) 16 8 = status
        ∧ (u.haltedFor r i status).reg (offRing r + 0x28) = i)
      ∧ regsKept u (u.haltedFor r i status) [offRing r + 0x18, offRing r + 0x28] ∧ u.OnlyRegs (u.haltedFor r i status) := by
  rw [State.haltedFor]
  split
  · next h0 => exact ⟨fun _ => hrun, fun h => absurd h0 h, fun _ _ => rfl, rfl⟩
  · next h0 =>
    obtain ⟨hstate, hcode, -, hidx, hkept⟩ := u.haltMarked_regs (offRing r) i hstatus
    exact ⟨fun h => absurd h h0, fun _ => ⟨hstate, hcode, hidx⟩, hkept, u.haltMarked_onlyRegs ..⟩

theorem Ring.started_completing {x : Ring} {i : Nat} {d : Started} (h : x.started = [(i, some d)]) (d' : Started) :
    (x.completing i d').started = [(i, some d')] := by
  show Sparse.set (fun _ => none) x.started i (some d') = _
  rw [h]
  simp [Sparse.set, Sparse.insert]

theorem frame_of_completed {s u v t : State} (hu : u = { s with rings := u.rings }) (hv : u.OnlyRegs v)
    (ht : t = { v with rings := t.rings, setup := t.setup, mem := t.mem, lost := t.lost }) :
    t = { s with rings := t.rings, setup := t.setup, mem := t.mem, lost := t.lost } := by
  rw [ht, hv, hu]

/-- The last steps of a completion, from a state `u` in which the result stands in the ring. -/
theorem State.completed_spec {u : State} {d : Started} {st detail : Nat} (hring : u.ring r = (s.ring r).completing (s.retired r).toNat d)
    (hother : ∀ q, q ≠ r → u.ring q = s.ring q) (hu : u = { s with rings := u.rings }) (hres : d.result = some (st, detail))
    (hdone : d.doneAt = s.lcount) (hr : r < 128) (hsound : soundMem s) (hrun : s.ringState r = 1) (hirq : s.irqEn r = false)
    (hdev : s.ringDev r = true) (hsent : s.unsent r = false) (hrange : s.dramRange (s.entryAddr r (s.retired r)) 32 = true)
    {d₀ : Started} (hstarted : (s.ring r).started = [((s.retired r).toNat, some d₀)]) (hw : bitAt (wordAt d.words 0) 23 = false)
    (hstop : (s.ring r).stopping = false) (hlost : (s.ring r).linkLost = false) (hhead : s.head r = s.retired r + 1)
    (hst : st < 256) (hdetail : detail < 2 ^ 32) :
    Completed s (u.resultEntered r (s.retired r) st) r d.words st detail
      ∧ (u.resultEntered r (s.retired r) st).ring r = { (s.ring r).completing (s.retired r).toNat d with started := [] }
      ∧ bytesKept s (u.resultEntered r (s.retired r) st) [(s.entryAddr r (s.retired r), 32)]
      ∧ u.resultEntered r (s.retired r) st = { s with
          rings := (u.resultEntered r (s.retired r) st).rings, setup := (u.resultEntered r (s.retired r) st).setup
          mem := (u.resultEntered r (s.retired r) st).mem, lost := (u.resultEntered r (s.retired r) st).lost } := by
  have hsetup : u.setup = s.setup := by rw [hu]
  have hrun' : u.ringState r = 1 := (State.ringState_congr hsetup r).trans hrun
  have hirq' : u.irqEn r = false := (congrArg (bitAt · 8) (State.reg_congr hsetup _)).trans hirq
  obtain ⟨hok, hfail, hkept, honly⟩ := State.haltedFor_spec hrun' (s.retired r) hst
  rw [State.resultEntered_running hrun' hirq']
  generalize u.haltedFor r (s.retired r) st = v at hok hfail hkept honly
  have hkept' (o : Nat) (ho : o ∉ [offRing r + 0x18, offRing r + 0x28]) : v.reg o = s.reg o := (hkept o ho).trans (State.reg_congr hsetup o)
  have hreg (x : Nat) (hx : x ≠ 0x18) (hx' : x ≠ 0x28) : v.reg (offRing r + x) = s.reg (offRing r + x) :=
    hkept' _ (by simp only [List.mem_cons, List.not_mem_nil, or_false]; omega)
  have hlow (o : Nat) (ho : o < 0x1401000 ∨ 0x1403000 ≤ o) : v.reg o = s.reg o :=
    hkept' _ (by simp only [List.mem_cons, List.not_mem_nil, or_false, offRing_eq]; omega)
  have hrings : v.rings = u.rings := by rw [honly]
  have hringv := (State.ring_congr hrings r).trans hring
  have hstarted' := Ring.started_completing hstarted d
  rw [← hringv] at hstarted'
  have hretired : v.retired r = s.retired r := hreg 0x24 (by decide) (by decide)
  have hentry : v.entryAddr r (s.retired r) = s.entryAddr r (s.retired r) := State.entryAddr_congr hreg _
  have hsound' : soundMem v := by rw [honly, hu]; exact hsound
  have hdev' : v.ringDev r = true := (congrArg (bitAt · 8) (hreg 0x10 (by decide) (by decide))).trans hdev
  have hsent' : v.unsent r = false := by
    have hlink : v.link 16 = s.link 16 := by rw [honly, hu]; rfl
    rw [State.unsent, hdev] at hsent
    rw [State.unsent, hdev', hlink]
    exact hsent
  have hrange' : v.dramRange (s.entryAddr r (s.retired r)) 32 = true := by
    rw [State.dramRange_congr fun o _ ho => hlow o (.inl (by omega))]
    exact hrange
  have hwords := State.entryWords_eq (hlow (offGond + 0x10) (.inr (by decide))) (hreg 0x10 (by decide) (by decide)) (s.retired r)
    hdone st hdetail
  have hspec := State.settled_spec (s := v) (r := r) (by rw [hretired]; exact hstarted') hres hsent' hw hsound' hdev'
    (by rw [hretired, hentry]; exact hrange') (by rw [hringv]; exact hstop) (by rw [hringv]; exact hlost)
  rw [hretired, hentry, hwords] at hspec
  obtain ⟨hret, hregs, hstate, hcode, hin, hread, hbytes, hring', hother', hframe⟩ := hspec
  generalize ((v.retire r).showInflight r).quiet r = t at *
  have hctl : 0x1401018 + 0x40 * r = offRing r + 0x18 := by rw [offRing_eq]; omega
  have hidx : 0x1401028 + 0x40 * r = offRing r + 0x28 := by rw [offRing_eq]; omega
  have hmem : v.mem = s.mem := by rw [honly, hu]
  have hlost' : v.lost = s.lost := by rw [honly, hu]
  rw [hringv] at hring'
  refine ⟨?_, hring', fun z hz => (hbytes z hz).trans (State.byte_congr hmem hlost' z), frame_of_completed hu honly hframe⟩
  constructor
  case head => exact ((hregs _ (by omega) (by omega)).trans (hreg 0x20 (by decide) (by decide))).trans hhead
  case retired => exact hret
  case started => rw [hring']
  case inflight => rw [hctl, hin]
  case entry => exact hread
  case running => exact fun h0 => hstate.trans (hok h0)
  case halted =>
    intro h0
    obtain ⟨hhalt, hcode', hidx'⟩ := hfail h0
    rw [hctl, hidx]
    exact ⟨hstate.trans hhalt, hcode.trans hcode', (hregs _ (by omega) (by omega)).trans hidx'⟩
  case others => exact fun q hq => (hother' q hq).trans ((State.ring_congr hrings q).trans (hother q hq))

/-- The next descriptor is not there: nothing happens when it is to be checked. -/
theorem State.goOn_unfetched {u : State} (h : (u.ring r).fetchedAt (u.head r).toNat = ([], 0)) : u.goOn r = u := by
  have hnone : u.headStatus r = none := by
    rw [State.headStatus, h]
    rfl
  rw [State.goOn, State.checkHead, hnone]
  exact ite_self u

/-! ## LINK_COPY_COMPLETE (R310, R213, R319) -/

theorem exec_linkCopyComplete_none {q : Word} (h : s.job? r q.toNat = none) : exec (.linkCopyComplete r q) s = .next s := by
  show execLinkCopyComplete r q s = _
  simp only [execLinkCopyComplete, h]

theorem exec_linkCopyComplete_busy {q : Word} {j : LinkJob} (h : s.job? r q.toNat = some j) (hmoved : j.moved = false) (hst : j.status = 0) :
    exec (.linkCopyComplete r q) s = .next s := by
  show execLinkCopyComplete r q s = _
  simp only [execLinkCopyComplete, h]
  exact if_pos ⟨hmoved, hst⟩

theorem State.spoolVal_congr {t u : State} (h : t.spool = u.spool) (k : Nat) : t.spoolVal k = u.spoolVal k := by
  rw [State.spoolVal, State.spoolVal, h]

/-- A counter that is not poisoned is its count. -/
theorem fld_count_of_clear {v : DWord} (h : bitAt v 63 = false) : fld v 0 63 = v.toNat := by
  have hv := v.isLt
  simp only [bitAt, fld, bitsOf_eq, beq_eq_false_iff_ne] at h ⊢
  omega

/-- The counter's change, where the job asks for it. -/
def State.jobCounted (s : State) (w : List Word) (j : LinkJob) : State :=
  if lSpv w && j.status != 0x53 then forEach (fun s p => s.countOn p.1 (lSpoolId w) p.2 false) s j.share else s

theorem exec_linkCopyComplete_ends {q : Word} {j : LinkJob} {d : Started} (h : s.job? r q.toNat = some j) (hend : j.moved = true ∨ j.status ≠ 0)
    (hat : (s.ring r).at q.toNat = some d) :
    exec (.linkCopyComplete r q) s = .next (((s.jobCounted d.words j).completeDesc r q j.status j.done).goOn r) := by
  have hwords : s.descWords r q.toNat = d.words := by simp only [State.descWords, hat]
  have hgo : ¬ (j.moved = false ∧ j.status = 0) := by
    rintro ⟨hm, h0⟩
    rcases hend with he | he
    · rw [hm] at he
      exact Bool.false_ne_true he
    · exact he h0
  show execLinkCopyComplete r q s = _
  simp only [execLinkCopyComplete, h, hwords]
  exact if_neg hgo

theorem completed_of_onlySpool {u t : State} {w : List Word} {st detail : Nat} (hu : s.OnlySpool u)
    (h : Completed u t r w st detail) : Completed s t r w st detail := by
  have hsetup : u.setup = s.setup := by rw [hu]
  have hcount : u.lcount = s.lcount := by rw [hu]
  have hrings : u.rings = s.rings := by rw [hu]
  have hretired : u.retired r = s.retired r := State.reg_congr hsetup _
  have hentry : u.entryAddr r (s.retired r) = s.entryAddr r (s.retired r) := State.entryAddr_congr (fun _ _ _ => State.reg_congr hsetup _) _
  obtain ⟨hhead, hret, hstarted, hin, hread, hok, hhalt, hother⟩ := h
  rw [hretired] at hhead hret hread hhalt
  rw [hentry, entryOf_congr hsetup hcount] at hread
  exact ⟨hhead, hret, hstarted, hin, hread, hok, hhalt, fun q hq => (hother q hq).trans (State.ring_congr hrings q)⟩

theorem frame_of_spool {u t : State} (hu : s.OnlySpool u)
    (ht : t = { u with rings := t.rings, setup := t.setup, mem := t.mem, lost := t.lost }) :
    t = { s with rings := t.rings, setup := t.setup, mem := t.mem, lost := t.lost, spool := t.spool
                 spoolChg := t.spoolChg, waiters := t.waiters } ∧ t.spool = u.spool := by
  have hspool := congrArg State.spool ht
  refine ⟨?_, hspool⟩
  rw [ht, hu]

/-- What holds of the one COPY or FILL in flight on a device ring that runs, as the claim lists it. -/
structure State.LinkDue (s : State) (r : Nat) (w : List Word) (j : LinkJob) (z : DWord) : Prop where
  ring : r < 128
  status : j.status ∈ [0, 0x53, 0x89, 0x8A]
  done : j.done < 2 ^ 32
  irq : s.irqEn r = false
  started : (s.ring r).started = [((s.retired r).toNat, some { words := w, refused := false, result := none, doneAt := z })]
  stopping : (s.ring r).stopping = false
  linkLost : (s.ring r).linkLost = false
  running : s.ringState r = 1
  head : s.head r = s.retired r + 1
  next : (s.ring r).fetchedAt (s.head r).toNat = ([], 0)
  dev : s.ringDev r = true
  range : s.dramRange (s.entryAddr r (s.retired r)) 32 = true
  quiet : bitAt (wordAt w 0) 23 = false
  sound : soundMem s
  sent : s.unsent r = false

theorem State.LinkDue.at {w : List Word} {j : LinkJob} {z : DWord} (h : s.LinkDue r w j z) :
    (s.ring r).at (s.retired r).toNat = some { words := w, refused := false, result := none, doneAt := z } := by
  rw [Ring.at, h.started]
  exact if_pos rfl

theorem State.LinkDue.of_onlySpool {u : State} {w : List Word} {j : LinkJob} {z : DWord} (hu : s.OnlySpool u) (h : s.LinkDue r w j z) :
    u.LinkDue r w j z := by
  rw [hu]
  obtain ⟨hr, hst, hdone, hirq, hstarted, hstop, hlost, hrun, hhead, hnext, hdev, hrange, hw, hsound, hsent⟩ := h
  exact ⟨hr, hst, hdone, hirq, hstarted, hstop, hlost, hrun, hhead, hnext, hdev, hrange, hw, hsound, hsent⟩

/-- The completion of a job on its ring, and nothing to check after it. -/
theorem State.LinkDue.completes {w : List Word} {j : LinkJob} {z : DWord} (h : s.LinkDue r w j z) :
    let t := (s.completeDesc r (s.retired r) j.status j.done).goOn r
    Completed s t r w j.status j.done ∧ t.job? r (s.retired r).toNat = none ∧ bytesKept s t [(s.entryAddr r (s.retired r), 32)]
      ∧ t = { s with rings := t.rings, setup := t.setup, mem := t.mem, lost := t.lost } := by
  obtain ⟨hr, hst, hdone, hirq, hstarted, hstop, hlost, hrun, hhead, hnext, hdev, hrange, hw, hsound, hsent⟩ := h
  have hsmall : j.status < 256 := by
    simp only [List.mem_cons, List.not_mem_nil, or_false] at hst
    omega
  have hat : (s.ring r).at (s.retired r).toNat = some { words := w, refused := false, result := none, doneAt := z } := by
    rw [Ring.at, hstarted]
    exact if_pos rfl
  have hring := State.ring_setRing_same s r fun x => x.completing (s.retired r).toNat
    { words := w, refused := false, result := some (j.status, j.done), doneAt := s.lcount }
  have hother := fun q (hq : q ≠ r) => State.ring_setRing_other s hq fun x => x.completing (s.retired r).toNat
    { words := w, refused := false, result := some (j.status, j.done), doneAt := s.lcount }
  obtain ⟨hall, hring', hbytes, hframe⟩ := State.completed_spec hring hother rfl rfl rfl hr hsound hrun hirq hdev hsent hrange hstarted hw hstop
    hlost hhead hsmall hdone
  rw [State.completeDesc_at hat]
  generalize (s.setRing r fun x => x.completing (s.retired r).toNat
    { words := w, refused := false, result := some (j.status, j.done), doneAt := s.lcount }).resultEntered r (s.retired r) j.status = t at *
  have hgo : t.goOn r = t := by
    refine State.goOn_unfetched ?_
    rw [hall.head, ← hhead, hring']
    exact hnext
  rw [hgo]
  refine ⟨hall, ?_, hbytes, hframe⟩
  rw [State.job?, hring']
  exact Sparse.get_set_same (fun _ => none) (s.ring r).jobs (s.retired r).toNat none

/-- The completion, once counters alone have changed. -/
theorem State.LinkDue.completes_counted {u : State} {w : List Word} {j : LinkJob} {z : DWord} (h : s.LinkDue r w j z) (hu : s.OnlySpool u) :
    let t := (u.completeDesc r (s.retired r) j.status j.done).goOn r
    (Completed s t r w j.status j.done ∧ t.job? r (s.retired r).toNat = none ∧ bytesKept s t [(s.entryAddr r (s.retired r), 32)]
      ∧ t = { s with rings := t.rings, setup := t.setup, mem := t.mem, lost := t.lost, spool := t.spool
                     spoolChg := t.spoolChg, waiters := t.waiters }) ∧ t.spool = u.spool := by
  have hsetup : u.setup = s.setup := by rw [hu]
  have hretired : u.retired r = s.retired r := State.reg_congr hsetup _
  have hentry : u.entryAddr r (s.retired r) = s.entryAddr r (s.retired r) := State.entryAddr_congr (fun _ _ _ => State.reg_congr hsetup _) _
  have hspec := (h.of_onlySpool hu).completes
  rw [hretired, hentry] at hspec
  obtain ⟨hall, hjob, hbytes, hframe⟩ := hspec
  obtain ⟨hframe', hspool⟩ := frame_of_spool hu hframe
  exact ⟨⟨completed_of_onlySpool hu hall, hjob, bytesKept_congr (by rw [hu]) (by rw [hu]) hbytes, hframe'⟩, hspool⟩

theorem State.jobCounted_of_clear {w : List Word} {j : LinkJob} (h : bitAt (wordAt w 13) 29 = false) : s.jobCounted w j = s := by
  rw [State.jobCounted, lSpv, h]
  rfl

/-- All the bytes lie on this module: they are counted at once (R213). -/
theorem State.jobCounted_here {w : List Word} {j : LinkJob} (h : bitAt (wordAt w 13) 29 = true) (hst : j.status = 0)
    (hshare : j.share = [(s.deviceId, j.done)]) (hdone : j.done ≠ 0) :
    s.jobCounted w j = s.spoolAdd (fld (wordAt w 13) 0 14) j.done := by
  have hone : s.countOn s.deviceId (lSpoolId w) j.done false = s.spoolAdd (fld (wordAt w 13) 0 14) j.done := by
    simp only [State.countOn, if_pos, if_neg hdone, lSpoolId, Bool.false_eq_true, if_false]
  rw [State.jobCounted, lSpv, h, hst, hshare]
  exact hone

theorem exec_linkCopyComplete {w : List Word} {j : LinkJob} {z : DWord} (h : s.LinkDue r w j z)
    (hjob : s.job? r (s.retired r).toNat = some j) (hend : j.moved = true ∨ j.status ≠ 0) {done : State → Prop}
    (hdone : done = fun t => Completed s t r w j.status j.done ∧ t.job? r (s.retired r).toNat = none
      ∧ bytesKept s t [(s.entryAddr r (s.retired r), 32)]
      ∧ t = { s with rings := t.rings, setup := t.setup, mem := t.mem, lost := t.lost, spool := t.spool
                     spoolChg := t.spoolChg, waiters := t.waiters }) :
    (bitAt (wordAt w 13) 29 = false → Next (.linkCopyComplete r (s.retired r)) s fun t => done t ∧ t.spool = s.spool)
    ∧ (dType w = 2 → bitAt (wordAt w 13) 29 = true → j.status = 0 → j.share = [(s.deviceId, j.done)] → j.done ≠ 0 →
      bitAt (s.spoolVal (fld (wordAt w 13) 0 14)) 63 = false → Next (.linkCopyComplete r (s.retired r)) s fun t =>
        done t ∧ (t.spoolVal (fld (wordAt w 13) 0 14)).toNat = min ((s.spoolVal (fld (wordAt w 13) 0 14)).toNat + j.done) (2 ^ 63 - 1)
          ∧ ∀ k, k ≠ fld (wordAt w 13) 0 14 → t.spoolVal k = s.spoolVal k) := by
  subst hdone
  have hexec := exec_linkCopyComplete_ends hjob hend h.at
  refine ⟨fun hbit => ?_, fun _ hbit hst hshare hne hclear => ?_⟩
  · rw [State.jobCounted_of_clear hbit] at hexec
    exact ⟨_, hexec, h.completes_counted rfl⟩
  · rw [State.jobCounted_here hbit hst hshare hne] at hexec
    refine ⟨_, hexec, ?_⟩
    have hu := s.spoolAdd_onlySpool (fld (wordAt w 13) 0 14) j.done
    have hval := State.spoolVal_spoolAdd s (fld (wordAt w 13) 0 14) j.done
    generalize s.spoolAdd (fld (wordAt w 13) 0 14) j.done = u at hu hval
    obtain ⟨hall, hspool⟩ := h.completes_counted hu
    refine ⟨hall, ?_, fun k hk => ?_⟩
    · rw [State.spoolVal_congr hspool, hval, if_pos rfl, hclear, if_neg Bool.false_ne_true, fld_count_of_clear hclear, BitVec.toNat_ofNat]
      omega
    · rw [State.spoolVal_congr hspool, hval, if_neg hk]

end

end Sys2Proof.Machine
end

section
/-! # The link engine (O51): answers to host reads, and the host's reads and writes of set-up registers -/
namespace Sys2Proof.Machine
open Sys2Proof.Claims

section
variable {s : State} {r : Nat}

/-! ## HREAD_RESPONSE (R299, R306, R310) -/

/-- A host read has been answered: its tag is free again. -/
def State.answered (s : State) (tag : Nat) : State := { s with hreads := Sparse.set (fun _ => none) s.hreads tag none }

theorem State.hreads_answered (s : State) (tag : Nat) : Sparse.get (fun _ => none) (s.answered tag).hreads tag = none :=
  Sparse.get_set_same (fun _ => none) s.hreads tag none

theorem exec_hreadResponse_unknown {tag : Nat} (h : Sparse.get (fun _ => none) s.hreads tag = none) (st : HostStatus) (bs : List Byte) :
    exec (.hreadResponse tag st bs) s = .next s := by
  show execHreadResponse tag st bs s = _
  simp only [execHreadResponse, h]

theorem exec_hreadResponse_doorbell {tag : Nat} (h : Sparse.get (fun _ => none) s.hreads tag = some (.doorbell r)) (st : HostStatus)
    (bs : List Byte) :
    exec (.hreadResponse tag st bs) s = .next (if st = .ok then (s.answered tag).pollAnswer r bs else s.answered tag) := by
  show execHreadResponse tag st bs s = _
  simp only [execHreadResponse, h, State.answered]
  split <;> rfl

theorem exec_hreadResponse_descriptor {tag k n : Nat} (h : Sparse.get (fun _ => none) s.hreads tag = some (.descriptor r k n)) (st : HostStatus)
    (bs : List Byte) : exec (.hreadResponse tag st bs) s = .next ((s.answered tag).descAnswer r k n st bs) := by
  show execHreadResponse tag st bs s = _
  simp only [execHreadResponse, h, State.answered]

theorem exec_hreadResponse_copy {tag k off : Nat} (h : Sparse.get (fun _ => none) s.hreads tag = some (.copy r k off)) {st : HostStatus}
    (hst : st ≠ .ok) (bs : List Byte) :
    exec (.hreadResponse tag st bs) s = .next ((s.answered tag).endJob r k (hostReadCode st)) := by
  show execHreadResponse tag st bs s = _
  simp only [execHreadResponse, h, State.answered]
  exact if_neg hst

/-- A tail that is ahead of the last one and within the ring is taken (R304). -/
theorem State.supplyTail_accepts (hr : r < 128) (h0 : s.ringState r ≠ 0) {v : Word} (hpos : 0 < (v - s.tail r).toNat)
    (hlt : (v - s.tail r).toNat < 2 ^ 31) (hfits : (v - s.retired r).toNat ≤ s.ringSize r) :
    s.supplyTail r v = (s.setReg (offRing r + 0x1C) v, true) := by
  rw [State.supplyTail, if_neg (by omega), if_neg (by omega), if_neg (Nat.not_lt.mpr hfits)]

theorem natLE_take_doorbell (v : Word) (hi : Nat) : BitVec.ofNat 32 (natLE ((bytesLE 8 (v.toNat + 2 ^ 32 * hi)).take 4)) = v := by
  have htake : (bytesLE 8 (v.toNat + 2 ^ 32 * hi)).take 4 = bytesLE 4 (v.toNat + 2 ^ 32 * hi) := rfl
  have hv := v.isLt
  rw [htake, natLE_bytesLE]
  apply BitVec.eq_of_toNat_eq
  rw [BitVec.toNat_ofNat]
  omega

theorem State.pollAnswer_taken {u : State} {tag : Nat} (hu : u = s.answered tag) (hr : r < 128) {v : Word} {hi : Nat} (h0 : s.ringState r ≠ 0)
    (hpos : 0 < (v - s.tail r).toNat) (hlt : (v - s.tail r).toNat < 2 ^ 31) (hfits : (v - s.retired r).toNat ≤ s.ringSize r) :
    u.pollAnswer r (bytesLE 8 (v.toNat + 2 ^ 32 * hi)) = (u.setReg (offRing r + 0x1C) v).count 0x1400024 1 := by
  have htake := natLE_take_doorbell v hi
  subst hu
  have hsup := State.supplyTail_accepts (s := s.answered tag) hr h0 hpos hlt hfits
  rw [State.pollAnswer, htake, hsup]
  rfl

theorem next_hreadResponse_tail {tag : Nat} (h : Sparse.get (fun _ => none) s.hreads tag = some (.doorbell r)) (hr : r < 128) {v : Word} {hi : Nat}
    (h0 : s.ringState r ≠ 0) (hpos : 0 < (v - s.tail r).toNat) (hlt : (v - s.tail r).toNat < 2 ^ 31)
    (hfits : (v - s.retired r).toNat ≤ s.ringSize r) :
    Next (.hreadResponse tag .ok (bytesLE 8 (v.toNat + 2 ^ 32 * hi))) s fun t =>
      t.tail r = v ∧ raised s t 0x1400024 1 ∧ regsKept s t [offRing r + 0x1C, 0x1400024]
        ∧ Sparse.get (fun _ => none) t.hreads tag = none ∧ t = { s with setup := t.setup, hreads := t.hreads } := by
  refine ⟨_, (exec_hreadResponse_doorbell h .ok _).trans (congrArg Host.Outcome.next ((if_pos rfl).trans
    (State.pollAnswer_taken rfl hr h0 hpos hlt hfits))), ?_⟩
  have hfree := s.hreads_answered tag
  have hu : s.answered tag = { s with hreads := (s.answered tag).hreads } := rfl
  generalize s.answered tag = u at hfree hu
  have hsetup : u.setup = s.setup := by rw [hu]
  have honly : u.OnlyRegs ((u.setReg (offRing r + 0x1C) v).count 0x1400024 1) := (State.onlyRegs_setReg ..).trans (State.count_onlyRegs ..)
  have hne : offRing r + 0x1C ≠ 0x1400024 := by rw [offRing_eq]; omega
  have hreg (o : Nat) : ((u.setReg (offRing r + 0x1C) v).count 0x1400024 1).reg o =
      if o = 0x1400024 then satAdd32 (s.reg 0x1400024) 1 else if o = offRing r + 0x1C then v else s.reg o := by
    rw [State.reg_count, State.reg_setReg, State.reg_setReg, if_neg hne.symm, State.reg_congr hsetup, State.reg_congr hsetup]
  generalize (u.setReg (offRing r + 0x1C) v).count 0x1400024 1 = t at honly hreg
  refine ⟨(hreg _).trans ((if_neg hne).trans (if_pos rfl)), ?_, fun o ho => ?_, ?_, ?_⟩
  · rw [raised, hreg, if_pos rfl, satAdd32_toNat]
  · simp only [List.mem_cons, List.not_mem_nil, or_false, not_or] at ho
    exact (hreg o).trans ((if_neg ho.2).trans (if_neg ho.1))
  · rw [honly]
    exact hfree
  · rw [honly, hu]

theorem next_hreadResponse_noTail {tag : Nat} (h : Sparse.get (fun _ => none) s.hreads tag = some (.doorbell r)) {st : HostStatus}
    (hst : st ≠ .ok) : Next (.hreadResponse tag st []) s fun t => t = { s with hreads := t.hreads } :=
  ⟨_, (exec_hreadResponse_doorbell h st []).trans (congrArg Host.Outcome.next (if_neg hst)), rfl⟩

/-- A ring that waits does not check its next descriptor. -/
theorem State.goOn_of_waiting (h : s.ringState r ≠ 1) : s.goOn r = s := by
  have hno : s.canStart r = false := by
    rw [State.canStart, beq_eq_false_iff_ne.mpr h]
    simp only [Bool.false_and]
  rw [State.goOn, State.checkHead, hno]
  rfl

/-- One descriptor arrives on a ring that waits. -/
theorem State.descAnswer_one {u : State} (h : u.ringState r ≠ 1) {k : Nat} (hk : k < 2 ^ 32) (st : HostStatus) {bs : List Byte}
    (hlen : bs.length ≤ 64) : u.descAnswer r k 1 st bs = u.arrived r k (wordsLE 16 bs, hostReadCode st) := by
  have hdata : ((bs.drop (64 * 0)).take 64) = bs := List.take_of_length_le hlen
  have hidx : (k + 0) % 2 ^ 32 = k := Nat.mod_eq_of_lt hk
  have hone : u.descAnswer r k 1 st bs = (u.arrived r k (wordsLE 16 bs, hostReadCode st)).goOn r := by
    rw [State.descAnswer, List.range_one, forEach, List.foldl_cons, List.foldl_nil, hdata, hidx]
  have hsame : (u.arrived r k (wordsLE 16 bs, hostReadCode st)).ringState r ≠ 1 := h
  rw [hone, State.goOn_of_waiting hsame]

theorem frame_of_answered {u t : State} (hu : u = { s with hreads := u.hreads }) (ht : t = { u with rings := t.rings }) :
    t = { s with rings := t.rings, hreads := t.hreads } := by
  rw [ht, hu]

theorem next_hreadResponse_descriptor {tag k : Nat} (h : Sparse.get (fun _ => none) s.hreads tag = some (.descriptor r k 1))
    (hwait : s.ringState r = 2) (hk : k < 2 ^ 32) (st : HostStatus) {bs : List Byte} (hlen : bs.length ≤ 64) :
    Next (.hreadResponse tag st bs) s fun t => (t.ring r).fetchedAt k = (wordsLE 16 bs, hostReadCode st)
      ∧ (∀ j, j ≠ k → (t.ring r).fetchedAt j = (s.ring r).fetchedAt j) ∧ t = { s with rings := t.rings, hreads := t.hreads } := by
  have hrun : (s.answered tag).ringState r ≠ 1 := by
    show s.ringState r ≠ 1
    omega
  refine ⟨_, (exec_hreadResponse_descriptor h st bs).trans (congrArg Host.Outcome.next (State.descAnswer_one hrun hk st hlen)), ?_⟩
  have hu : s.answered tag = { s with hreads := (s.answered tag).hreads } := rfl
  generalize s.answered tag = u at hu
  have hrings : u.rings = s.rings := by rw [hu]
  obtain ⟨hat, -, -, hother, -, hframe⟩ := u.arrived_spec r k (wordsLE 16 bs, hostReadCode st)
  refine ⟨hat, fun j hj => (hother j hj).trans ?_, frame_of_answered hu hframe⟩
  rw [State.ring_congr hrings]

/-- A descriptor that could not be read has the status of the answer. -/
theorem next_hreadResponse_noDescriptor {tag k : Nat} (h : Sparse.get (fun _ => none) s.hreads tag = some (.descriptor r k 1))
    (hwait : s.ringState r = 2) (hk : k < 2 ^ 32) (st : HostStatus) :
    Next (.hreadResponse tag st []) s fun t => ((t.ring r).fetchedAt k).2 = hostReadCode st := by
  obtain ⟨t, ht, hat, -⟩ := next_hreadResponse_descriptor h hwait hk st (bs := []) (by decide)
  exact ⟨t, ht, congrArg Prod.snd hat⟩

theorem State.job_endJob (u : State) {k : Nat} {j : LinkJob} (h : u.job? r k = some j) (st : Nat) :
    (u.endJob r k st).job? r k = some { j with status := st, waits := 0, data := [] } := by
  rw [State.endJob, State.modJob, State.job?, State.ring_setRing_same]
  refine (Sparse.get_modify (fun _ => none) (u.ring r).jobs k k _).trans ((if_pos rfl).trans ?_)
  rw [State.job?] at h
  rw [h]
  rfl

theorem next_hreadResponse_copy {tag k off : Nat} (h : Sparse.get (fun _ => none) s.hreads tag = some (.copy r k off)) {j : LinkJob}
    (hj : s.job? r k = some j) {st : HostStatus} (hst : st ≠ .ok) :
    Next (.hreadResponse tag st []) s fun t => t.job? r k = some { j with status := hostReadCode st, waits := 0, data := [] } :=
  ⟨_, exec_hreadResponse_copy h hst [], State.job_endJob _ hj _⟩

/-! ## MREAD (R300, R380) -/

theorem regDesc_ringBlock {off : Nat} (hlo : 0x1401000 ≤ off) (hhi : off < 0x1403000) : regDesc off = some (ringReg (off % 0x40)) := by
  have hfab : offFabJob = 0x1301000 := rfl
  have hmem : offMem = 0x1310000 := rfl
  have htbl : offTbl = 0x1320000 := rfl
  have hctx : offCtx 0 = 0x1330000 ∧ offCtx 64 = 0x1330400 := ⟨rfl, rfl⟩
  have harr : offArrayMap 0 = 0x1340000 ∧ offArrayMap 1536 = 0x1343000 := ⟨rfl, rfl⟩
  have hhost : offHost = 0x1400000 := rfl
  have hmod : (off - offHost) % 0x40 = off % 0x40 := by omega
  rw [regDesc, if_neg (by omega), if_neg (by omega), if_neg (by omega), if_neg (by omega), if_neg (by omega), if_neg (by omega),
    if_neg (by omega), if_neg (by omega), if_neg (by omega), if_neg (by omega), if_pos (by omega)]
  simp only [hmod]
  rw [if_neg (by omega), if_neg (by omega), if_neg (by omega), if_neg (by omega), if_neg (by omega), if_pos (by omega)]

/-- A register of the host-link block whose description is not a complement's is read as it stands. -/
theorem State.setupRead_host {off : Nat} {d : RegDesc} (hlo : 0x1400000 ≤ off) (hhi : off < 0x1403000)
    (hmirror : off < 0x1400880 ∨ 0x140089C ≤ off) (hd : regDesc off = some d) (hk : d.kind ≠ .rwcComplement) (rq : Requester) (src : Nat) :
    s.setupRead rq src off = (s, s.reg off) := by
  have hhole : s.setupHole off = false := State.setupHole_of_desc (by omega) (by omega) hd s
  have herr : offErrMirror = 0x1400880 := rfl
  have hgond : offGond = 0x1600000 := rfl
  have hread : s.readReg off = s.reg off := by
    rw [State.readReg, hd]
    simp only
    exact if_neg (by omega)
  rw [State.setupRead, if_neg (by omega), if_neg (by omega), hhole, if_neg Bool.false_ne_true, if_neg (by omega), if_neg (by omega), hread]

/-- The registers of the claim. -/
theorem State.setupRead_claimed (hr : r < 128) {off : Nat}
    (hoff : off ∈ [0x1400004, 0x1400008, 0x140101C + 0x40 * r, 0x1401020 + 0x40 * r, 0x1401024 + 0x40 * r]) :
    s.setupRead .host 0x640 off = (s, s.reg off) := by
  simp only [List.mem_cons, List.not_mem_nil, or_false] at hoff
  have hring (x : Nat) (hx : x < 0x40) (ho : off = 0x1401000 + x + 0x40 * r) (hkind : (ringReg x).kind ≠ .rwcComplement) :
      s.setupRead .host 0x640 off = (s, s.reg off) := by
    have hmod : off % 0x40 = x := by omega
    have hd := regDesc_ringBlock (off := off) (by omega) (by omega)
    rw [hmod] at hd
    exact State.setupRead_host (by omega) (by omega) (by omega) hd hkind ..
  rcases hoff with rfl | rfl | ho | ho | ho
  · exact State.setupRead_host (by decide) (by decide) (by decide) rfl (by decide) ..
  · exact State.setupRead_host (by decide) (by decide) (by decide) rfl (by decide) ..
  · exact hring 0x1C (by decide) ho (by decide)
  · exact hring 0x20 (by decide) ho (by decide)
  · exact hring 0x24 (by decide) ho (by decide)

theorem exec_mread_claimed (hr : r < 128) (hmoor : s.start.moored = false) (hup : s.linkUp 16 = true) (tag : Nat) {off : Nat}
    (hoff : off ∈ [0x1400004, 0x1400008, 0x140101C + 0x40 * r, 0x1401020 + 0x40 * r, 0x1401024 + 0x40 * r]) :
    Next (.mread tag off) s fun t =>
      t.hostOut = s.hostOut ++ [.mresp tag (s.reg off)] ∧ t = { s with hostOut := t.hostOut, links := t.links } := by
  obtain ⟨links, hsent⟩ := State.toHost_sent (m := .mresp tag (s.reg off)) (s := s) (.inr hup)
  have haligned : ¬ (off % 4 ≠ 0 ∨ 0x4000000 ≤ off) := by
    simp only [List.mem_cons, List.not_mem_nil, or_false] at hoff
    omega
  have hexec : exec (.mread tag off) s = .next (s.toHost (.mresp tag (s.reg off))) := by
    show execMread tag off s = _
    rw [execMread, hmoor, Bool.false_and, if_neg Bool.false_ne_true, if_neg haligned, State.setupRead_claimed hr hoff]
  refine ⟨_, hexec, ?_⟩
  rw [hsent]
  exact ⟨rfl, rfl⟩

theorem exec_mread_hole (hmoor : s.start.moored = false) (hup : s.linkUp 16 = true) (hsound : soundMem s) (tag : Nat) {off : Nat}
    (hoff : off % 4 ≠ 0 ∨ 0x4000000 ≤ off) :
    Next (.mread tag off) s fun t => t.hostOut = s.hostOut ++ [.mresp tag 0] ∧ Reported t 0x640 4 2 ∧ t.setup = s.setup := by
  have hexec : exec (.mread tag off) s = .next ((s.holeRecord 0x640 (some 0) (setupBase + off)).toHost (.mresp tag 0)) := by
    show execMread tag off s = _
    rw [execMread, hmoor, Bool.false_and, if_neg Bool.false_ne_true, if_pos hoff]
  refine ⟨_, hexec, ?_⟩
  have hlatched := State.report_latched (src := 0x640) (by decide) s 4 2 (some 0) (sourceUnit 0x640) (addrWords (setupBase + off))
  have hsetup := State.report_setup hsound 0x640 4 2 (some 0) (sourceUnit 0x640) (addrWords (setupBase + off))
  have hframe := s.report_frame 0x640 4 2 (some 0) (sourceUnit 0x640) (addrWords (setupBase + off))
  rw [State.holeRecord]
  generalize s.report 0x640 4 2 (some 0) (sourceUnit 0x640) (addrWords (setupBase + off)) = u at hlatched hsetup hframe
  have hup' : u.linkUp 16 = true := (congrArg (fun w => fld w 28 4 == 5) (State.reg_congr hsetup _)).trans hup
  obtain ⟨links, hsent⟩ := State.toHost_sent (m := .mresp tag 0) (s := u) (.inr hup')
  rw [hsent]
  exact ⟨congrArg (· ++ [HostMsg.mresp tag 0]) hframe.hostOut, hlatched, hsetup⟩

theorem exec_mread_moored (hmoor : s.start.moored = true) (tag : Nat) {off : Nat} (hoff : off < 0x1400800 ∨ 0x1400880 ≤ off) :
    exec (.mread tag off) s = .next s := by
  have hbase : offMoor = 0x1400800 := rfl
  have hout : inMoor off = false := by
    simp only [inMoor, Bool.and_eq_false_iff, decide_eq_false_iff_not]
    omega
  show execMread tag off s = _
  rw [execMread, hmoor, hout]
  rfl

/-! ## MWRITE (R300, R390) -/

theorem exec_mwrite_poll (hmoor : s.start.moored = false) (hpend : s.rwcPend = []) (v : Word) :
    Next (.mwrite 0x1400004 v) s fun t => t.reg 0x1400004 = v ∧ regsKept s t [0x1400004] ∧ t = { s with setup := t.setup } := by
  have hexec : exec (.mwrite 0x1400004 v) s = .next (s.setupWrite 0x640 0x1400004 v) := by
    show execMwrite 0x1400004 v s = _
    rw [execMwrite, hmoor]
    rfl
  have hwrite : s.setupWrite 0x640 0x1400004 v = s.setReg 0x1400004 v := by
    have hhole : s.setupHole 0x1400004 = false := State.setupHole_of_desc (by decide) (by decide) rfl s
    have hmask : v &&& BitVec.ofNat 32 0xFFFFFFFF = v := by
      exact BitVec.and_allOnes
    have hdesc : regDesc 0x1400004 = some (.plain 0xFFFFFFFF 0x186A0) := rfl
    rw [State.setupWrite, hdesc]
    simp only [hhole, RegDesc.plain, State.dropPend_of_none (State.pendOf_of_nil hpend _), hmask]
    rfl
  rw [hwrite] at hexec
  refine ⟨_, hexec, State.reg_setReg_same .., fun o ho => ?_, rfl⟩
  exact (State.reg_setReg ..).trans (if_neg (by simpa using ho))

theorem exec_mwrite_refused (hsound : soundMem s) (v : Word) {off : Nat} (hoff : off < 0x1400000 ∨ 0x1403000 ≤ off) :
    Next (.mwrite off v) s fun t => t.setup = s.setup ∧ t.cores = s.cores ∧ t.rings = s.rings ∧ Reported t 0x640 7 3 := by
  have hhost : offHost = 0x1400000 := rfl
  have hno : hostMayWrite off = false := by
    simp only [hostMayWrite, Bool.and_eq_false_iff, Bool.or_eq_false_iff, decide_eq_false_iff_not, beq_eq_false_iff_ne]
    omega
  have hexec : exec (.mwrite off v) s = .next (s.refusal 0x640 3 none (addrWords off ++ [v])) := by
    show execMwrite off v s = _
    rw [execMwrite, hno, Bool.false_and]
    rfl
  exact ⟨_, hexec, State.report_setup hsound .., (State.report_frame ..).cores, (State.report_frame ..).rings, State.report_latched (by decide) ..⟩

end

end Sys2Proof.Machine
end

section
/-! # The link engine (O51): one block of this module's memory, as the link engine sees, reads and writes it -/
namespace Sys2Proof.Machine
open Sys2Proof.Claims

section
variable {s : State} {r va a : Nat} {need : Need}

/-! ## The block -/

/-- A block is DRAM in service as a whole (R167). -/
theorem State.inDram_block (ha : a % 64 = 0) {x : Nat} (hx : x < 64) : s.inDram (a + x) = s.inDram a := by
  have hblock := s.mcOf_block (a + x)
  have heq : (a + x) / 64 * 64 = a := by omega
  rw [heq] at hblock
  rw [State.inDram, State.inDram, hblock]

theorem State.populated_of_inDram (h : s.inDram a = true) : s.populated a = true := by
  rw [State.populated, if_pos (State.isDram_of_inDram h), h]

/-- No address of DRAM lies in the other areas (R164). -/
theorem areas_of_isDram (h : isDram a = true) : isSetup a = false ∧ isGondola a = false ∧ isSpool a = false ∧ isSram a = false := by
  have hlt : a < 0x10800000000 := of_decide_eq_true h
  simp only [isSetup, isGondola, isSpool, isSram, Bool.and_eq_false_iff, decide_eq_false_iff_not]
  omega

/-- The windows that the link engine has cached are used as they are (R180). -/
theorem State.windows_of_cached (hbad : s.wcacheBad = []) {unit ctx : Nat} {ws : List (List Word)}
    (h : Sparse.get (fun _ => none) s.wcache (unit * 64 + ctx) = some ws) : s.windows unit ctx = (s, ws) := by
  have hecc : s.cacheEcc s.wcacheBad (unit * 64 + ctx) (eccWindow unit) (fun s m => { s with wcacheBad := m }) = (s, false) := by
    rw [State.cacheEcc, hbad]
    rfl
  rw [State.windows, hecc]
  simp only [Bool.false_eq_true, if_false, h]

theorem State.translate_linkBlock (hbad : s.wcacheBad = []) (h : linkBlock s r va a need) {x : Nat} (hx : x < 64) :
    ∃ c, s.translate linkUnit (s.ringCtx r) (64 * (va / 64) + x) need = (s, .ok (.here (a + x), c)) := by
  obtain ⟨hva, ha, hlt, hdram, -, ws, win, hcached, hfound, hneed, haddr⟩ := h
  have hwin := s.windows_of_cached hbad (unit := linkUnit) (ctx := s.ringCtx r) hcached
  have hbase := List.find?_some (hfound 0 (by decide))
  simp only [Bool.and_eq_true, decide_eq_true_eq] at hbase
  have hto : dwordAt win 4 + (64 * (va / 64) + x - dwordAt win 0) = a + x := by omega
  have hpop : s.populated (a + x) = true := State.populated_of_inDram ((State.inDram_block ha hx).trans hdram)
  refine ⟨bitAt (wordAt win 6) 5, ?_⟩
  rw [State.translate, if_neg (by omega), State.trLocal, hwin]
  simp only [hfound x hx, hto, hneed, hpop]
  rw [if_neg (by simp), if_neg (by simp), if_neg (by omega)]
  rfl

/-- A block that is not poisoned is read as it stands. -/
theorem State.engineRead_block (hsound : soundMem s) (ha : a % 64 = 0) (hdram : s.inDram a = true) (hp : s.poisoned a = false)
    (core ctx : Nat) : s.engineRead core ctx a = (s, some (s.bytes a 64)) := by
  obtain ⟨hsetup, hgondola, hspool, hsram⟩ := areas_of_isDram (State.isDram_of_inDram hdram)
  have hblock : s.anyPoison a 64 = false := by
    rw [State.anyPoison, blocksOf_one (by decide) (by omega), Nat.div_mul_cancel (Nat.dvd_of_mod_eq_zero ha)]
    simp [hp]
  have hpop : s.populated a = true := State.populated_of_inDram hdram
  have hread := State.readMem_of_sound hsound hblock
  rw [State.engineRead, hpop, hsetup, hgondola, hspool, hread, hsram]
  rfl

/-! ## Writing part of it -/

/-- The writes of bytes from offset `o` of a block on. -/
def blockWrites (o : Nat) (bs : List Byte) : List (Nat × Byte × Byte) :=
  (bs.zip (List.range bs.length)).map fun p => (o + p.2, 0xFF, p.1)

theorem blockWrites_eq (o : Nat) (bs : List Byte) :
    blockWrites o bs = (List.range bs.length).map fun k => (o + k, 0xFF, bs.getD k 0) := by
  refine List.ext_getElem (by simp [blockWrites]) fun k hk hk' => ?_
  have hlt : k < bs.length := by simpa using hk'
  simp [blockWrites, hlt]

theorem mem_blockWrites {o : Nat} {bs : List Byte} {x : Nat × Byte × Byte} :
    x ∈ blockWrites o bs ↔ ∃ k < bs.length, (o + k, 0xFF, bs.getD k 0) = x := by
  rw [blockWrites_eq, List.mem_map]
  simp only [List.mem_range]

theorem length_blockWrites (o : Nat) (bs : List Byte) : (blockWrites o bs).length = bs.length := by
  simp [blockWrites]

theorem blockWrites_whole (o : Nat) (bs : List Byte) : ((blockWrites o bs).all fun x => x.2.1 == 0xFF) = true := by
  rw [List.all_eq_true]
  intro x hx
  obtain ⟨k, -, rfl⟩ := mem_blockWrites.mp hx
  rfl

theorem blockWrites_values (o : Nat) (bs : List Byte) : (blockWrites o bs).map (fun x => x.2.2) = bs := by
  rw [blockWrites, List.map_map]
  exact List.map_fst_zip (by rw [List.length_range])

theorem isRom_below {z : Nat} (h : z < 0xF0000800000) : isRom z = false := by
  simp only [isRom, Bool.and_eq_false_iff, decide_eq_false_iff_not]
  omega

/-- A whole block is put, and loses its poison; of a sound memory nothing else changes. -/
theorem State.writeMem_whole (hsound : soundMem s) (ha : a % 64 = 0) (hdram : isDram a = true) {bs : List Byte} (hlen : bs.length = 64) :
    s.writeMem a bs = (s.setPoison a false).putMem a bs := by
  obtain ⟨hd, hc, -⟩ := hsound
  have hblock : blocksOf a 64 = [a] := by
    rw [blocksOf_one (by decide) (by omega), Nat.div_mul_cancel (Nat.dvd_of_mod_eq_zero ha)]
  have hset {α : Type} [DecidableEq α] (d : α) {m : Sparse α} (hm : m = []) : Sparse.set (fun _ => d) m a d = m := by
    rw [hm, Sparse.set, if_pos rfl]
    rfl
  have hclean : ({ s.setPoison a false with defects := Sparse.set (fun _ => 0) s.defects a 0
                                            crcOff := Sparse.set (fun _ => 0) s.crcOff a 0 } : State) = s.setPoison a false := by
    rw [hset 0 hd, hset 0 hc]
    rfl
  unfold State.writeMem
  simp only [hdram, if_true, hlen, hblock, forEach, List.foldl_cons, List.foldl_nil, le_refl, and_self]
  exact congrArg (fun u => u.putMem a bs) hclean

/-- Memory and poison alone differ. -/
def State.OnlyMem (s t : State) : Prop := t = { s with mem := t.mem, lost := t.lost, poison := t.poison }

theorem State.engineWrite_onlyMem_bytes (hsound : soundMem s) (ha : a % 64 = 0) (hdram : s.inDram a = true) {o : Nat} {bs : List Byte}
    (hin : o + bs.length ≤ 64) (core ctx : Nat) :
    let t := s.engineWrite core ctx a (blockWrites o bs)
    s.OnlyMem t ∧ (∀ k < bs.length, t.byte (a + o + k) = bs.getD k 0) ∧ bytesKept s t [(a + o, bs.length)] := by
  have hisdram := State.isDram_of_inDram hdram
  obtain ⟨hsetup, hgondola, hspool, hsram⟩ := areas_of_isDram hisdram
  have hlt : a < 0x10800000000 := of_decide_eq_true hisdram
  have hpop : s.populated a = true := State.populated_of_inDram hdram
  have hrom (z : Nat) (hz : z < a + 64) : isRom z = false := isRom_below (by omega)
  rw [State.engineWrite, hpop, hsetup, hgondola, hspool, hsram, length_blockWrites, blockWrites_whole, blockWrites_values]
  simp only [Bool.not_true, Bool.false_or, Bool.false_and, Bool.false_eq_true, if_false, and_true]
  split
  · next hlen =>
    have ho : o = 0 := by omega
    subst ho
    rw [State.writeMem_whole hsound ha hisdram hlen]
    refine ⟨rfl, fun k hk => ?_, fun z hz => ?_⟩
    · refine ((s.setPoison a false).byte_putMem a bs (hrom _ (by omega))).trans ?_
      rw [if_pos (by omega)]
      congr 1
      omega
    · have hout := hz _ (List.mem_singleton.mpr rfl)
      exact ((s.setPoison a false).byte_putMem_outside (by omega)).trans (State.byte_congr rfl rfl z)
  · rw [State.writeBitsAll_of_sound hsound]
    have hbyte := fun z hz => State.byte_forEach_writeBits s ((blockWrites o bs).map fun x => { addr := a + x.1, mask := x.2.1, val := x.2.2 }) (z := z) hz
    have hframe := s.forEach_writeBits_eq ((blockWrites o bs).map fun x => { addr := a + x.1, mask := x.2.1, val := x.2.2 })
    generalize forEach State.writeBits s ((blockWrites o bs).map fun x => { addr := a + x.1, mask := x.2.1, val := x.2.2 }) = t at hbyte hframe
    refine ⟨?_, fun k hk => ?_, fun z hz => ?_⟩
    · rw [State.OnlyMem, hframe]
    · rw [hbyte _ (hrom _ (by omega))]
      refine after_of_whole (fun w hw haddr => ?_) ⟨{ addr := a + (o + k), mask := 0xFF, val := bs.getD k 0 }, ?_, by show a + (o + k) = _; omega⟩
      · obtain ⟨x, hx, rfl⟩ := List.mem_map.mp hw
        obtain ⟨j, hj, rfl⟩ := mem_blockWrites.mp hx
        have hjk : j = k := by
          change a + (o + j) = a + o + k at haddr
          omega
        exact ⟨rfl, by rw [hjk]⟩
      · exact List.mem_map.mpr ⟨_, mem_blockWrites.mpr ⟨k, hk, rfl⟩, rfl⟩
    · have hout := hz _ (List.mem_singleton.mpr rfl)
      cases hz' : isRom z with
      | true => exact State.byte_rom _ _ hz'
      | false =>
        rw [hbyte z hz']
        refine after_of_forall_ne fun w hw haddr => ?_
        obtain ⟨x, hx, rfl⟩ := List.mem_map.mp hw
        obtain ⟨j, hj, rfl⟩ := mem_blockWrites.mp hx
        change a + (o + j) = z at haddr
        omega

end

end Sys2Proof.Machine
end

section
/-! # The link engine (O51): a job of one block, from its start to its last byte -/
namespace Sys2Proof.Machine
open Sys2Proof.Claims

/-- What every step of a job of ring `r` leaves alone: other rings, what the ring has fetched, the cores, the registers. -/
structure State.JobKept (s t : State) (r : Nat) : Prop where
  others : ∀ q, q ≠ r → t.ring q = s.ring q
  fetched : (t.ring r).fetched = (s.ring r).fetched
  cores : ∀ c, t.core c = s.core c
  frame : t = { s with rings := t.rings, mem := t.mem, lost := t.lost, poison := t.poison, cores := t.cores, progress := t.progress }

/-- Memory and its poison are as they were. -/
def State.MemKept (s t : State) : Prop := t.mem = s.mem ∧ t.lost = s.lost ∧ t.poison = s.poison

section
variable {s t u : State} {r i : Nat}

theorem State.JobKept.trans (h : s.JobKept t r) (h' : t.JobKept u r) : s.JobKept u r := by
  obtain ⟨hother, hfetched, hcores, hframe⟩ := h
  obtain ⟨hother', hfetched', hcores', hframe'⟩ := h'
  refine ⟨fun q hq => (hother' q hq).trans (hother q hq), hfetched'.trans hfetched, fun c => (hcores' c).trans (hcores c), ?_⟩
  rw [hframe', hframe]

theorem State.MemKept.trans (h : s.MemKept t) (h' : t.MemKept u) : s.MemKept u :=
  ⟨h'.1.trans h.1, h'.2.1.trans h.2.1, h'.2.2.trans h.2.2⟩

theorem State.MemKept.byte (h : s.MemKept t) (z : Nat) : t.byte z = s.byte z := State.byte_congr h.1 h.2.1 z

theorem State.JobKept.setup (h : s.JobKept t r) : t.setup = s.setup := by rw [h.frame]

theorem State.JobKept.sound (h : s.JobKept t r) (hsound : soundMem s) : soundMem t :=
  soundMem_congr (by rw [h.frame]) (by rw [h.frame]) (by rw [h.frame]) hsound

/-- The windows, the memory controllers and the poison decide whether a block is mapped. -/
theorem linkBlock_congr (hcache : t.wcache = s.wcache) (hpoison : t.poison = s.poison) (hctx : t.ringCtx r = s.ringCtx r)
    (hmem : ∀ o, 0x1310000 ≤ o → o < 0x1320000 → t.reg o = s.reg o) {va a : Nat} {need : Need} (h : linkBlock s r va a need) :
    linkBlock t r va a need := by
  obtain ⟨hva, ha, hlt, hdram, hclean, hwin⟩ := h
  refine ⟨hva, ha, hlt, ?_, ?_, ?_⟩
  · rw [State.inDram, State.mcOf_congr hmem]
    exact hdram
  · rw [State.poisoned, hpoison]
    exact hclean
  · rw [hcache, hctx]
    exact hwin

theorem State.JobKept.linkBlock (h : s.JobKept t r) (hmem : s.MemKept t) {va a : Nat} {need : Need} (hb : Claims.linkBlock s r va a need) :
    Claims.linkBlock t r va a need :=
  linkBlock_congr (by rw [h.frame]) hmem.2.2 (congrArg (fld · 16 6) (State.reg_congr h.setup _)) (fun o _ _ => State.reg_congr h.setup o) hb

/-! ## Changes of the job -/

theorem State.modJob_spec (s : State) (r i : Nat) (f : LinkJob → LinkJob) :
    s.JobKept (s.modJob r i f) r ∧ s.MemKept (s.modJob r i f) ∧ (s.modJob r i f).job? r i = (s.job? r i).map f := by
  refine ⟨⟨fun q hq => State.ring_setRing_other s hq _, ?_, fun _ => rfl, rfl⟩, ⟨rfl, rfl, rfl⟩, ?_⟩
  · rw [State.modJob, State.ring_setRing_same]
  · rw [State.modJob, State.job?, State.ring_setRing_same]
    exact (Sparse.get_modify (fun _ => none) (s.ring r).jobs i i _).trans (if_pos rfl)

theorem State.progressed_kept (s : State) (e : EngineUnit) (r : Nat) :
    s.JobKept (s.progressed e) r ∧ s.MemKept (s.progressed e) ∧ (s.progressed e).rings = s.rings :=
  ⟨⟨fun _ _ => rfl, rfl, fun _ => rfl, rfl⟩, ⟨rfl, rfl, rfl⟩, rfl⟩

theorem State.job_congr (h : t.rings = s.rings) (r i : Nat) : t.job? r i = s.job? r i := by
  rw [State.job?, State.job?, State.ring_congr h]

/-! ## Lines of the cache parts (R217): none is held -/

theorem State.linkKeys_fst (hbad : s.wcacheBad = []) {va n a : Nat} {need : Need} (hin : va % 64 + n ≤ 64)
    (h : Claims.linkBlock s r va a need) : (s.linkKeys r va n need).1 = s := by
  rw [State.linkKeys, State.linesOf]
  by_cases hn : n = 0
  · rw [hn]
    rfl
  · obtain ⟨c, htr⟩ := State.translate_linkBlock hbad h (x := 0) (by decide)
    have hblock : 64 * (va / 64) + 0 = va / 64 * 64 := by omega
    rw [hblock] at htr
    rw [blocksOf_one (by omega) hin, List.foldl_cons, List.foldl_nil]
    simp only [htr]

theorem Sparse.set_nil_default {α : Type} [DecidableEq α] (d : Nat → α) (k : Nat) : Sparse.set d [] k (d k) = [] := by
  rw [Sparse.set, if_pos rfl]
  rfl

theorem State.setLine_none_of_empty (h : (s.core i).cache = []) (k c : Nat) : (s.setLine i k none).core c = s.core c := by
  rw [State.setLine, State.core_modCore]
  split
  · next hc =>
    subst hc
    rw [h, Sparse.set_nil_default (fun _ => none)]
    rw [← h]
  · rfl

/-- The states in which no core holds a line, and which differ from `s` in how the cores are kept. -/
structure State.Bare (s u : State) : Prop where
  cores : ∀ c, u.core c = s.core c
  empty : ∀ c, (s.core c).cache = []
  frame : u = { s with cores := u.cores }

theorem State.Bare.writeBack (h : s.Bare u) (c k : Nat) : s.Bare (u.writeBack c k) := by
  have hnone : (u.core c).line k = none := by
    rw [h.cores, Core.line, h.empty]
    rfl
  rw [State.writeBack_of_none hnone]
  exact h

theorem State.Bare.evict (h : s.Bare u) (c k : Nat) : s.Bare (u.evict c k) := by
  have hempty : (u.core c).cache = [] := by rw [h.cores, h.empty]
  have hnone : (u.core c).line k = none := by
    rw [Core.line, hempty]
    rfl
  rw [State.evict_of_none hnone]
  refine ⟨fun j => (State.setLine_none_of_empty hempty k j).trans (h.cores j), h.empty, ?_⟩
  have hline : u.setLine c k none = { u with cores := (u.setLine c k none).cores } := rfl
  rw [hline, h.frame]

theorem Sparse.get_forall {α : Type} {P : α → Prop} {d : Nat → α} {m : Sparse α} (hd : ∀ k, P (d k)) (h : ∀ p ∈ m, P p.2) (k : Nat) :
    P (Sparse.get d m k) := by
  induction m with
  | nil => exact hd k
  | cons p m ih =>
    obtain ⟨hp, hm⟩ := List.forall_mem_cons.mp h
    rw [Sparse.get]
    split
    · exact hp
    · exact ih hm

theorem State.core_cache_of_all (h : ∀ p ∈ s.cores, p.2.cache = []) (c : Nat) : (s.core c).cache = [] :=
  Sparse.get_forall (P := fun x : Core => x.cache = []) (fun _ => rfl) h c

theorem State.linkCapture_spec {w : List Word} (hempty : ∀ c, (s.core c).cache = [])
    (ha : lFill w = false → lSHost w = false → (s.linkKeys r (lSrc w) (lLen w) .read).1 = s)
    (hb : (s.linkKeys r (lDst w) (lLen w) .write).1 = s) : s.Bare (s.linkCapture r w) := by
  have hsrc : (if lFill w || lSHost w then (s, []) else s.linkKeys r (lSrc w) (lLen w) .read).1 = s := by
    cases hf : lFill w with
    | true => rfl
    | false =>
      cases hs : lSHost w with
      | true => rfl
      | false => exact ha hf hs
  unfold State.linkCapture
  simp only []
  generalize (if lFill w || lSHost w then (s, []) else s.linkKeys r (lSrc w) (lLen w) .read) = p at hsrc
  obtain ⟨p1, ks⟩ := p
  subst hsrc
  have hdst : (if lDHost w then (p1, []) else p1.linkKeys r (lDst w) (lLen w) .write).1 = p1 := by
    split
    · rfl
    · exact hb
  generalize (if lDHost w then (p1, []) else p1.linkKeys r (lDst w) (lLen w) .write) = q at hdst
  obtain ⟨q1, ls⟩ := q
  subst hdst
  refine forEach_keeps (P := q1.Bare) (fun u c hu => ?_) ⟨fun _ => rfl, hempty, rfl⟩ _
  exact forEach_keeps (P := q1.Bare) (fun v k hv => hv.evict c k) (forEach_keeps (P := q1.Bare) (fun v k hv => hv.writeBack c k) hu _) _

theorem State.Bare.kept (h : s.Bare u) (r : Nat) : s.JobKept u r ∧ s.MemKept u ∧ u.rings = s.rings := by
  have hrings : u.rings = s.rings := by rw [h.frame]
  refine ⟨⟨fun q _ => State.ring_congr hrings q, by rw [State.ring_congr hrings], h.cores, ?_⟩, ⟨?_, ?_, ?_⟩, hrings⟩ <;> rw [h.frame]

/-! ## Running the job (R310, R311) -/

/-- A job without bytes is moved at once. -/
theorem State.linkGo_empty {w : List Word} (hjob : s.job? r i = some .fresh) (hn : lLen w = 0) :
    s.linkGo r i w = s.modJob r i fun j => { j with moved := true } := by
  rw [State.linkGo, State.linkRun]
  simp only [hjob]
  rw [if_neg (by simp [LinkJob.fresh]), if_neg (by rw [hn]; omega)]
  exact if_pos rfl

/-- A job whose bytes come with one read and go with one write. -/
theorem State.linkGo_once {w : List Word} {bs : List Byte} {sh : Sparse Nat} {u v : State} (hn : 0 < lLen w) (hjob : s.job? r i = some .fresh)
    (hu : s.linkGet r i w 0 = u) (hgot : u.job? r i = some { LinkJob.fresh with data := bs }) (hlen : bs.length = lLen w)
    (hv : u.linkPut r i w = v) (hput : v.job? r i = some { LinkJob.fresh with done := lLen w, share := sh }) :
    s.linkGo r i w = v.modJob r i fun j => { j with moved := true } := by
  have hfuel : 2 * lLen w + 2 = (2 * lLen w - 1) + 1 + 1 + 1 := by omega
  have hne : bs.isEmpty = false := by
    cases bs with
    | nil => simp at hlen; omega
    | cons b bs => rfl
  rw [State.linkGo, hfuel, State.linkRun]
  simp only [hjob]
  rw [if_neg (by simp [LinkJob.fresh]), if_pos ⟨hn, .inl rfl⟩]
  have hoff : LinkJob.fresh.done + LinkJob.fresh.data.length = 0 := rfl
  rw [hoff, hu, State.linkRun]
  simp only [hgot]
  rw [if_neg (by simp [LinkJob.fresh]), if_neg (by simp [LinkJob.fresh]; omega), hne, if_neg Bool.false_ne_true, hv, State.linkRun]
  simp only [hput]
  rw [if_neg (by simp [LinkJob.fresh]), if_neg (by simp [LinkJob.fresh])]
  exact if_pos rfl

/-! ## Reading (R310, R311) -/

/-- The bytes of a FILL's pattern. -/
def fillBytes (w : List Word) : List Byte :=
  (List.range (lLen w)).map fun k => (bytesOfWords [wordAt w 3, wordAt w 4]).getD (k % 8) 0

theorem length_fillBytes (w : List Word) : (fillBytes w).length = lLen w := by simp [fillBytes]

theorem State.linkGet_fill {w : List Word} (hfill : lFill w = true) (hn : lLen w ≤ 64) (hjob : s.job? r i = some .fresh) :
    s.JobKept (s.linkGet r i w 0) r ∧ s.MemKept (s.linkGet r i w 0)
      ∧ (s.linkGet r i w 0).job? r i = some { LinkJob.fresh with data := fillBytes w } := by
  have hmin : min 64 (lLen w - 0) = lLen w := by omega
  have hget : s.linkGet r i w 0 = s.modJob r i fun j => { j with data := j.data ++ fillBytes w } := by
    rw [State.linkGet, if_pos hfill]
    simp only [hmin, Nat.zero_add]
    rfl
  obtain ⟨hkept, hmem, hafter⟩ := s.modJob_spec r i fun j => { j with data := j.data ++ fillBytes w }
  rw [hget]
  exact ⟨hkept, hmem, hafter.trans (by rw [hjob]; rfl)⟩

theorem State.drop_bytes (s : State) (a : Nat) {k n : Nat} (h : k ≤ n) : (s.bytes a n).drop k = s.bytes (a + k) (n - k) := by
  induction k generalizing a n with
  | zero => rfl
  | succ k ih =>
    obtain ⟨n, rfl⟩ : ∃ m, n = m + 1 := ⟨n - 1, by omega⟩
    rw [State.bytes, List.drop_succ_cons, ih (a + 1) (by omega), Nat.add_sub_add_right]
    congr 1
    omega

theorem State.take_bytes (s : State) (a : Nat) {k n : Nat} (h : k ≤ n) : (s.bytes a n).take k = s.bytes a k := by
  induction k generalizing a n with
  | zero => rfl
  | succ k ih =>
    obtain ⟨n, rfl⟩ : ∃ m, n = m + 1 := ⟨n - 1, by omega⟩
    rw [State.bytes, State.bytes, List.take_succ_cons, ih (a + 1) (by omega)]

theorem State.linkGet_copy {w : List Word} {b : Nat} (hfill : lFill w = false) (hhost : lSHost w = false) (hin : lSrc w % 64 + lLen w ≤ 64)
    (hbad : s.wcacheBad = []) (hsound : soundMem s) (hb : Claims.linkBlock s r (lSrc w) b .read) (hjob : s.job? r i = some .fresh) :
    s.JobKept (s.linkGet r i w 0) r ∧ s.MemKept (s.linkGet r i w 0)
      ∧ (s.linkGet r i w 0).job? r i = some { LinkJob.fresh with data := s.bytes (b + lSrc w % 64) (lLen w) } := by
  obtain ⟨c, htr⟩ := State.translate_linkBlock hbad hb (x := 0) (by decide)
  obtain ⟨hva, hb64, -, hdram, hclean, -⟩ := hb
  have hmod : lSrc w % 2 ^ 64 = lSrc w := by omega
  have hblock : 64 * (lSrc w / 64) + 0 = lSrc w / 64 * 64 := by omega
  have hmin : min (64 - lSrc w % 64) (lLen w - 0) = lLen w := by omega
  rw [hblock] at htr
  have hread := State.engineRead_block hsound hb64 hdram hclean 0x641 (s.ringCtx r)
  have hbytes : ((s.bytes b 64).drop (lSrc w % 64)).take (lLen w) = s.bytes (b + lSrc w % 64) (lLen w) := by
    rw [State.drop_bytes _ _ (by omega), State.take_bytes _ _ (by omega)]
  have hget : s.linkGet r i w 0 = s.modJob r i fun j => { j with data := j.data ++ s.bytes (b + lSrc w % 64) (lLen w) } := by
    rw [State.linkGet, hfill, hhost, if_neg Bool.false_ne_true, if_neg Bool.false_ne_true]
    simp only [Nat.add_zero, hmod, htr, hmin, hread, hbytes]
  obtain ⟨hkept, hmem, hafter⟩ := s.modJob_spec r i fun j => { j with data := j.data ++ s.bytes (b + lSrc w % 64) (lLen w) }
  rw [hget]
  exact ⟨hkept, hmem, hafter.trans (by rw [hjob]; rfl)⟩

/-! ## Writing (R217, R310) -/

theorem pieces_one {va n : Nat} (hn : 0 < n) (hin : va % 64 + n ≤ 64) : pieces va n = [(va, n)] := by
  have hmax : max va (va / 64 * 64) = va := by omega
  have hmin : min (va + n) (va / 64 * 64 + 64) - va = n := by omega
  rw [pieces, blocksOf_one hn hin, List.map_singleton, hmax, hmin]

/-- The bytes that a job has moved are counted to this module (R213). -/
def LinkJob.moving (j : LinkJob) (dev n : Nat) : LinkJob :=
  { j with done := j.done + n, share := Sparse.modify (fun _ => 0) j.share dev (· + n) }

theorem State.linkPutVa_one {va a : Nat} {bs : List Byte} {j : LinkJob} (hbad : s.wcacheBad = []) (hb : Claims.linkBlock s r va a .write)
    (hn : 0 < bs.length) (hin : va % 64 + bs.length ≤ 64) (hjob : s.job? r i = some j) (hst : j.status = 0) :
    s.linkPutVa r i va bs = (s.engineWrite 0x641 (s.ringCtx r) a (blockWrites (va % 64) bs)).modJob r i
      fun j => j.moving s.deviceId bs.length := by
  obtain ⟨c, htr⟩ := State.translate_linkBlock hbad hb (x := va % 64) (by omega)
  obtain ⟨hva, ha64, -⟩ := hb
  have hmod : va % 2 ^ 64 = va := by omega
  have hwhole : 64 * (va / 64) + va % 64 = va := by omega
  have hblock : (a + va % 64) / 64 * 64 = a := by omega
  have hoff : (a + va % 64) % 64 = va % 64 := by omega
  have hpart : (bs.drop (va - va)).take bs.length = bs := by rw [Nat.sub_self, List.drop_zero, List.take_length]
  rw [hwhole] at htr
  rw [State.linkPutVa, pieces_one hn hin, List.foldl_cons, List.foldl_nil]
  simp only [hjob, hst, ne_eq, not_true_eq_false, if_false, hmod, htr, hblock, hoff, hpart]
  rfl

theorem State.OnlyMem.kept (h : s.OnlyMem u) (r : Nat) : s.JobKept u r ∧ u.rings = s.rings := by
  have hrings : u.rings = s.rings := by rw [h]
  have hcores : u.cores = s.cores := by rw [h]
  refine ⟨⟨fun q _ => State.ring_congr hrings q, by rw [State.ring_congr hrings], fun c => State.core_congr hcores c, ?_⟩, hrings⟩
  rw [h]

theorem LinkJob.moving_fresh (dev : Nat) {n : Nat} (hn : 0 < n) : LinkJob.fresh.moving dev n = { LinkJob.fresh with done := n, share := [(dev, n)] } := by
  have hshare : Sparse.modify (fun _ => 0) ([] : Sparse Nat) dev (· + n) = [(dev, n)] := by
    have hget : Sparse.get (fun _ => 0) ([] : Sparse Nat) dev + n = n := Nat.zero_add n
    rw [Sparse.modify, hget, Sparse.set, if_neg (by omega)]
    rfl
  have hdone : LinkJob.fresh.done + n = n := Nat.zero_add n
  rw [LinkJob.moving, hdone]
  exact congrArg (fun m => { LinkJob.fresh with done := n, share := m }) hshare

/-- A job's bytes are written to one block. -/
theorem State.linkPut_block {w : List Word} {bs : List Byte} {a : Nat} (hbad : s.wcacheBad = []) (hsound : soundMem s)
    (hhost : lDHost w = false) (hin : lDst w % 64 + bs.length ≤ 64) (hn : 0 < bs.length) (hb : Claims.linkBlock s r (lDst w) a .write)
    (hjob : s.job? r i = some { LinkJob.fresh with data := bs }) :
    s.JobKept (s.linkPut r i w) r
      ∧ (s.linkPut r i w).job? r i = some { LinkJob.fresh with done := bs.length, share := [(s.deviceId, bs.length)] }
      ∧ (∀ k < bs.length, (s.linkPut r i w).byte (a + lDst w % 64 + k) = bs.getD k 0)
      ∧ bytesKept s (s.linkPut r i w) [(a + lDst w % 64, bs.length)] := by
  obtain ⟨hkept, hmem, hafter⟩ := s.modJob_spec r i fun j => { j with data := [] }
  rw [hjob] at hafter
  have hput : s.linkPut r i w = ((s.modJob r i fun j => { j with data := [] }).progressed .link).linkPutVa r i (lDst w) bs := by
    rw [State.linkPut]
    simp only [hjob, hhost, Bool.false_eq_true, if_false]
    rfl
  rw [hput]
  generalize s.modJob r i (fun j => { j with data := [] }) = u at hkept hmem hafter
  obtain ⟨hkept', hmem', hrings⟩ := u.progressed_kept .link r
  have hafter' := (State.job_congr hrings r i).trans hafter
  replace hkept' := hkept.trans hkept'
  replace hmem' := hmem.trans hmem'
  generalize u.progressed .link = v at hkept' hmem' hafter'
  have hbad' : v.wcacheBad = [] := by rw [hkept'.frame]; exact hbad
  have hb' := hkept'.linkBlock hmem' hb
  obtain ⟨-, ha64, -, hdram, -⟩ := hb'
  obtain ⟨honly, hbytes, hout⟩ := State.engineWrite_onlyMem_bytes (hkept'.sound hsound) ha64 hdram (o := lDst w % 64) hin 0x641 (v.ringCtx r)
  have hdev : v.deviceId = s.deviceId := congrArg (fld · 0 24) (State.reg_congr hkept'.setup _)
  have hva := State.linkPutVa_one hbad' (hkept'.linkBlock hmem' hb) hn hin hafter' rfl
  rw [hva, hdev]
  generalize v.engineWrite 0x641 (v.ringCtx r) a (blockWrites (lDst w % 64) bs) = x at honly hbytes hout
  obtain ⟨hkeptx, hringsx⟩ := honly.kept r
  have hjobx := (State.job_congr hringsx r i).trans hafter'
  obtain ⟨hkepty, hmemy, hjoby⟩ := x.modJob_spec r i fun j => j.moving s.deviceId bs.length
  rw [hjobx] at hjoby
  generalize x.modJob r i (fun j => j.moving s.deviceId bs.length) = y at hkepty hmemy hjoby
  refine ⟨(hkept'.trans hkeptx).trans hkepty, hjoby.trans ?_, fun k hk => (hmemy.byte _).trans (hbytes k hk),
    fun z hz => (hmemy.byte z).trans ((hout z hz).trans (hmem'.byte z))⟩
  exact congrArg some (LinkJob.moving_fresh s.deviceId hn)

/-- What a job of one block leaves when it has run. -/
structure State.JobDone (s t : State) (r i a n : Nat) (bs : List Byte) : Prop where
  kept : s.JobKept t r
  job : ∃ j, t.job? r i = some j ∧ j.moved = true ∧ j.status = 0 ∧ j.done = n ∧ (0 < n → j.share = [(s.deviceId, n)])
  bytes : ∀ k < n, t.byte (a + k) = bs.getD k 0
  outside : bytesKept s t [(a, n)]

theorem State.linkGo_done {w : List Word} {bs : List Byte} {a : Nat} (hbad : s.wcacheBad = []) (hsound : soundMem s)
    (hhost : lDHost w = false) (hin : lDst w % 64 + lLen w ≤ 64) (hlen : bs.length = lLen w) (hb : Claims.linkBlock s r (lDst w) a .write)
    (hjob : s.job? r i = some .fresh) (hkept : s.JobKept (s.linkGet r i w 0) r) (hmem : s.MemKept (s.linkGet r i w 0))
    (hgot : (s.linkGet r i w 0).job? r i = some { LinkJob.fresh with data := bs }) :
    s.JobDone (s.linkGo r i w) r i (a + lDst w % 64) (lLen w) bs := by
  by_cases hn : lLen w = 0
  · obtain ⟨hkept', hmem', hjob'⟩ := s.modJob_spec r i fun j => { j with moved := true }
    rw [hjob] at hjob'
    rw [State.linkGo_empty hjob hn, hn]
    exact ⟨hkept', ⟨_, hjob', rfl, rfl, rfl, fun h => absurd h (lt_irrefl 0)⟩, fun k hk => absurd hk (Nat.not_lt_zero k), fun z _ => hmem'.byte z⟩
  · rw [← hlen] at hin
    obtain ⟨hkeptp, hjobp, hbytes, hout⟩ := State.linkPut_block (s := s.linkGet r i w 0) (by rw [hkept.frame]; exact hbad) (hkept.sound hsound)
      hhost hin (by omega) (hkept.linkBlock hmem hb) hgot
    rw [hlen] at hjobp hbytes hout
    have hdev : (s.linkGet r i w 0).deviceId = s.deviceId := congrArg (fld · 0 24) (State.reg_congr hkept.setup _)
    rw [hdev] at hjobp
    rw [State.linkGo_once (by omega) hjob rfl hgot hlen rfl hjobp]
    generalize s.linkGet r i w 0 = u at *
    generalize u.linkPut r i w = v at *
    obtain ⟨hkeptv, hmemv, hjobv⟩ := v.modJob_spec r i fun j => { j with moved := true }
    rw [hjobp] at hjobv
    exact ⟨(hkept.trans hkeptp).trans hkeptv, ⟨_, hjobv, rfl, rfl, rfl, fun _ => rfl⟩, fun k hk => (hmemv.byte _).trans (hbytes k hk),
      fun z hz => (hmemv.byte z).trans ((hout z hz).trans (hmem.byte z))⟩

end

end Sys2Proof.Machine
end

section
/-! # The link engine (O51): COPY and FILL as they start, and the claim -/
namespace Sys2Proof.Machine
open Sys2Proof.Claims

section
variable {s : State} {r : Nat} {w : List Word}

/-! ## The descriptor at HEAD starts (R307) -/

theorem State.headStatus_ok (h : s.headStatus r = some (w, 0)) : s.checkDesc r (s.head r) w = 0 := by
  unfold State.headStatus at h
  simp only [] at h
  split at h
  · cases h
  · obtain ⟨rfl, h0⟩ := Prod.mk.inj (Option.some.inj h)
    exact h0
  · next hne _ =>
    exact absurd (Prod.mk.inj (Option.some.inj h)).2 hne

theorem State.readyDesc_spec {ty : Nat} (h : s.readyDesc r ty = some w) : dType w = ty ∧ s.checkDesc r (s.head r) w = 0 := by
  unfold State.readyDesc at h
  split at h
  · cases h
  · split at h
    · next x hx =>
      split at h
      · next hty =>
        cases h
        exact ⟨hty.1, State.headStatus_ok hx⟩
      · cases h
    · cases h

theorem State.checkFields_of_checkDesc {i : Word} (h : s.checkDesc r i w = 0) : s.checkFields r w = 0 := by
  unfold State.checkDesc at h
  split at h
  · cases h
  · split at h
    · cases h
    · split at h
      · cases h
      · split at h
        · cases h
        · split at h
          · cases h
          · exact h

/-- A FILL that passes its checks goes to device memory (R311). -/
theorem State.fill_here (h : s.readyDesc r 3 = some w) : lDHost w = false := by
  obtain ⟨hty, hcheck⟩ := State.readyDesc_spec h
  have hfields := State.checkFields_of_checkDesc hcheck
  unfold State.checkFields at hfields
  simp only [hty] at hfields
  rw [if_neg (by decide), if_pos (by decide)] at hfields
  split at hfields
  · cases hfields
  · next hno =>
    simp only [Bool.or_eq_true, not_or, Bool.not_eq_true] at hno
    exact hno.1.1

/-- The job's descriptor has started, and nothing of it is moved. -/
def State.linkBegun (s : State) (r : Nat) (w : List Word) : State :=
  (s.startDesc r w).setJob r (s.head r).toNat (some .fresh)

structure State.Begun (s t : State) (r : Nat) : Prop where
  head : t.head r = s.head r + 1
  regs : regsKept s t [offRing r + 0x18, offRing r + 0x20]
  others : ∀ q, q ≠ r → t.ring q = s.ring q
  fetched : ∀ k, k ≠ (s.head r).toNat → (t.ring r).fetchedAt k = (s.ring r).fetchedAt k
  job : t.job? r (s.head r).toNat = some .fresh
  cores : ∀ c, t.core c = s.core c
  mem : s.MemKept t
  frame : t = { s with rings := t.rings, setup := t.setup, progress := t.progress }

/-- A ring's part of the start of the descriptor at index `i`. -/
def Ring.starting (x : Ring) (i : Nat) (d : Started) : Ring :=
  { x.setStarted i (some d) with fetched := Sparse.set (fun _ => ([], 0)) x.fetched i ([], 0), retries := 0 }

theorem State.begun_of_frames {u v t : State} {i : Nat} {d : Started} (hi : i = (s.head r).toNat) (hu : u = s.setRing r fun x => x.starting i d)
    (hv : v = (u.setReg (offRing r + 0x20) (s.head r + 1)).showInflight r) (ht : t = v.setJob r i (some .fresh)) : s.Begun t r := by
  have huring : u.ring r = (s.ring r).starting i d := by rw [hu]; exact State.ring_setRing_same ..
  have huother (q : Nat) (hq : q ≠ r) : u.ring q = s.ring q := by rw [hu]; exact State.ring_setRing_other s hq _
  have huframe : u = { s with rings := u.rings } := by rw [hu]; rfl
  have hvreg (o : Nat) (ho : o ≠ offRing r + 0x18) : v.reg o = if o = offRing r + 0x20 then s.head r + 1 else s.reg o := by
    rw [hv, State.reg_showInflight, if_neg ho, State.reg_setReg, State.reg_congr (show u.setup = s.setup by rw [huframe])]
  have hvframe : u.OnlyRegs v := by rw [hv]; exact (State.onlyRegs_setReg ..).trans (State.onlyRegs_setRegFld ..)
  have hvrings : v.rings = u.rings := by rw [hvframe]
  have htring : t.ring r = { v.ring r with jobs := Sparse.set (fun _ => none) (v.ring r).jobs i (some .fresh) } := by
    rw [ht]
    exact State.ring_setRing_same ..
  have htother (q : Nat) (hq : q ≠ r) : t.ring q = v.ring q := by rw [ht]; exact State.ring_setRing_other v hq _
  have htframe : t = { v with rings := t.rings } := by rw [ht]; rfl
  clear hu hv ht
  have hreg (o : Nat) : t.reg o = v.reg o := State.reg_congr (by rw [htframe]) o
  rw [State.ring_congr hvrings, huring] at htring
  constructor
  case head => exact (hreg _).trans ((hvreg _ (by omega)).trans (if_pos rfl))
  case regs =>
    intro o ho
    simp only [List.mem_cons, List.not_mem_nil, or_false, not_or] at ho
    exact (hreg o).trans ((hvreg o ho.1).trans (if_neg ho.2))
  case others => exact fun q hq => (htother q hq).trans ((State.ring_congr hvrings q).trans (huother q hq))
  case fetched =>
    intro k hk
    rw [← hi] at hk
    have hfetched : (t.ring r).fetched = Sparse.set (fun _ => ([], 0)) (s.ring r).fetched i ([], 0) := by rw [htring]; rfl
    rw [Ring.fetchedAt, hfetched]
    exact Sparse.get_set_other (fun _ => ([], 0)) (s.ring r).fetched hk ([], 0)
  case job =>
    have hjobs : (t.ring r).jobs = Sparse.set (fun _ => none) (s.ring r).jobs i (some .fresh) := by rw [htring]; rfl
    rw [State.job?, hjobs, ← hi]
    exact Sparse.get_set_same (fun _ => none) (s.ring r).jobs i (some .fresh)
  case cores =>
    intro c
    refine State.core_congr ?_ c
    rw [htframe, hvframe, huframe]
  case mem => refine ⟨?_, ?_, ?_⟩ <;> rw [htframe, hvframe, huframe]
  case frame => rw [htframe, hvframe, huframe]

theorem State.linkBegun_begun (s : State) (r : Nat) (w : List Word) : s.Begun (s.linkBegun r w) r :=
  State.begun_of_frames (d := { words := w, refused := false, result := none, doneAt := 0 }) rfl rfl rfl rfl

/-- The link engine begins to make progress when it had nothing to do (R397). -/
def State.linkWoken (s : State) : State := if s.rings.any fun p => !p.2.jobs.isEmpty then s else s.progressed .link

theorem State.linkWoken_eq (s : State) : s.linkWoken = { s with progress := s.linkWoken.progress } := by
  rw [State.linkWoken]
  split <;> rfl

/-- The state in which a job's bytes are about to move: its descriptor has started, no core holds lines of its blocks. -/
def State.linkReady (s : State) (r : Nat) (w : List Word) : State := (s.linkWoken.linkBegun r w).linkCapture r w

theorem State.startLink_ready {ty : Nat} (h : s.readyDesc r ty = some w) :
    s.startLink r ty = ((s.linkReady r w).linkGo r (s.head r).toNat w).goOn r := by
  have hhead : s.linkWoken.head r = s.head r := State.reg_congr (by rw [s.linkWoken_eq]) _
  rw [State.startLink]
  simp only [h]
  rw [State.linkReady, State.linkBegun, hhead]
  rfl

theorem State.Begun.of_woken {u t : State} (hu : u = { s with progress := u.progress }) (h : u.Begun t r) : s.Begun t r := by
  have hsetup : u.setup = s.setup := by rw [hu]
  have hrings : u.rings = s.rings := by rw [hu]
  have hcores : u.cores = s.cores := by rw [hu]
  have hhead : u.head r = s.head r := State.reg_congr hsetup _
  obtain ⟨hto, hregs, hother, hfetched, hjob, hcore, hmem, hframe⟩ := h
  rw [hhead] at hto hfetched hjob
  refine ⟨hto, fun o ho => (hregs o ho).trans (State.reg_congr hsetup o), fun q hq => (hother q hq).trans (State.ring_congr hrings q),
    fun k hk => (hfetched k hk).trans (by rw [State.ring_congr hrings]), hjob, fun c => (hcore c).trans (State.core_congr hcores c),
    State.MemKept.trans ⟨by rw [hu], by rw [hu], by rw [hu]⟩ hmem, ?_⟩
  rw [hframe, hu]

/-- A started job's blocks are mapped as before. -/
theorem State.Begun.linkBlock {t : State} (hr : r < 128) (h : s.Begun t r) {va a : Nat} {need : Need} (hb : Claims.linkBlock s r va a need) :
    Claims.linkBlock t r va a need := by
  refine linkBlock_congr (by rw [h.frame]) h.mem.2.2 ?_ (fun o _ ho => h.regs o ?_) hb
  · exact congrArg (fld · 16 6) (h.regs _ (by simp only [List.mem_cons, List.not_mem_nil, or_false]; omega))
  · simp only [List.mem_cons, List.not_mem_nil, or_false, offRing_eq]
    omega

/-- What the claim says of a COPY or FILL that has started, but for its bytes. -/
structure State.LinkStarted (s t : State) (r a n : Nat) : Prop where
  head : t.head r = s.head r + 1
  retired : t.retired r = s.retired r
  job : ∃ j, t.job? r (s.head r).toNat = some j ∧ j.moved = true ∧ j.status = 0 ∧ j.done = n ∧ (0 < n → j.share = [(s.deviceId, n)])
  others : ∀ q, q ≠ r → t.ring q = s.ring q
  cores : ∀ c, t.core c = s.core c
  outside : bytesKept s t [(a, n)]
  regs : regsKept s t [offRing r + 0x18, offRing r + 0x20]
  frame : t = { s with rings := t.rings, setup := t.setup, mem := t.mem, lost := t.lost, poison := t.poison
                       cores := t.cores, progress := t.progress }

/-- The job runs to its end from the state `u` in which it has begun, and the next descriptor is not there. -/
theorem State.Begun.runs {u c t : State} {a n : Nat} {bs : List Byte} (hr : r < 128) (h : s.Begun u r) (hbare : u.Bare c)
    (hdone : c.JobDone t r (s.head r).toNat a n bs) (hnext : (s.ring r).fetchedAt (s.head r + 1).toNat = ([], 0)) :
    t.goOn r = t ∧ s.LinkStarted t r a n ∧ ∀ k < n, t.byte (a + k) = bs.getD k 0 := by
  obtain ⟨hkept, hmem, -⟩ := hbare.kept r
  have hall := hkept.trans hdone.kept
  obtain ⟨hto, hregs, hother, hfetched, -, hcore, hmem', hframe⟩ := h
  have hreg (o : Nat) : t.reg o = u.reg o := State.reg_congr hall.setup o
  have hdev : c.deviceId = s.deviceId := by
    refine (congrArg (fld · 0 24) (State.reg_congr hkept.setup _)).trans (congrArg (fld · 0 24) (hregs (offMem + 0xC) ?_))
    simp only [List.mem_cons, List.not_mem_nil, or_false, offRing_eq, offMem]
    omega
  have hhead : t.head r = s.head r + 1 := (hreg _).trans hto
  have hne : (s.head r + 1).toNat ≠ (s.head r).toNat := by
    have hlt := (s.head r).isLt
    rw [BitVec.toNat_add, show (1 : Word).toNat = 1 from rfl]
    omega
  refine ⟨State.goOn_unfetched ?_, ?_, hdone.bytes⟩
  · rw [hhead, Ring.fetchedAt, hall.fetched]
    exact (hfetched _ hne).trans hnext
  · constructor
    case head => exact hhead
    case retired => exact (hreg _).trans (hregs _ (by simp only [List.mem_cons, List.not_mem_nil, or_false]; omega))
    case job =>
      have hjob := hdone.job
      rw [hdev] at hjob
      exact hjob
    case others => exact fun q hq => (hall.others q hq).trans (hother q hq)
    case cores => exact fun x => (hall.cores x).trans (hcore x)
    case outside => exact fun z hz => (hdone.outside z hz).trans ((hmem.byte z).trans (hmem'.byte z))
    case regs => exact fun o ho => (hreg o).trans (hregs o ho)
    case frame => rw [hall.frame, hframe]

/-! ## COPY and FILL of one block (R310, R311) -/

/-- The states through which a job of one block goes: it has begun in `u`, the caches have been captured in `c`. -/
structure State.OneBlock (s u c : State) (r : Nat) (w : List Word) (a : Nat) : Prop where
  begun : s.Begun u r
  bare : u.Bare c
  ready : s.linkReady r w = c
  job : c.job? r (s.head r).toNat = some .fresh
  bad : c.wcacheBad = []
  sound : soundMem c
  dst : Claims.linkBlock c r (lDst w) a .write

theorem State.oneBlock (hr : r < 128) {a : Nat} (hsound : soundMem s) (hbad : s.wcacheBad = []) (hcaches : ∀ p ∈ s.cores, p.2.cache = [])
    (hin : lDst w % 64 + lLen w ≤ 64) (hb : Claims.linkBlock s r (lDst w) a .write)
    (hsrc : lFill w = false → lSHost w = false → ∃ b, lSrc w % 64 + lLen w ≤ 64 ∧ Claims.linkBlock s r (lSrc w) b .read) :
    ∃ u c, s.OneBlock u c r w a := by
  have hbegun := (s.linkWoken.linkBegun_begun r w).of_woken s.linkWoken_eq
  have hready : s.linkReady r w = (s.linkWoken.linkBegun r w).linkCapture r w := rfl
  generalize s.linkWoken.linkBegun r w = u at hbegun hready
  have hbadu : u.wcacheBad = [] := by rw [hbegun.frame]; exact hbad
  have hbu := hbegun.linkBlock hr hb
  have hsoundu : soundMem u := by rw [hbegun.frame]; exact hsound
  have hbare : u.Bare (u.linkCapture r w) := by
    refine State.linkCapture_spec (fun c => by rw [hbegun.cores]; exact State.core_cache_of_all hcaches c) (fun hf hh => ?_)
      (State.linkKeys_fst hbadu hin hbu)
    obtain ⟨b, hinb, hbb⟩ := hsrc hf hh
    exact State.linkKeys_fst hbadu hinb (hbegun.linkBlock hr hbb)
  generalize u.linkCapture r w = c at hready hbare
  obtain ⟨hkept, hmem, hrings⟩ := hbare.kept r
  exact ⟨u, c, hbegun, hbare, hready, (State.job_congr hrings r _).trans hbegun.job, by rw [hkept.frame]; exact hbadu, hkept.sound hsoundu,
    hkept.linkBlock hmem hbu⟩

/-- What is read gets to the one block of the destination. -/
theorem State.OneBlock.startLink {u c : State} {a ty : Nat} {bs : List Byte} (h : s.OneBlock u c r w a) (hr : r < 128)
    (hready : s.readyDesc r ty = some w) (hnext : (s.ring r).fetchedAt (s.head r + 1).toNat = ([], 0)) (hhost : lDHost w = false)
    (hin : lDst w % 64 + lLen w ≤ 64) (hlen : bs.length = lLen w)
    (hget : c.JobKept (c.linkGet r (s.head r).toNat w 0) r ∧ c.MemKept (c.linkGet r (s.head r).toNat w 0)
      ∧ (c.linkGet r (s.head r).toNat w 0).job? r (s.head r).toNat = some { LinkJob.fresh with data := bs }) :
    s.LinkStarted (s.startLink r ty) r (a + lDst w % 64) (lLen w)
      ∧ ∀ k < lLen w, (s.startLink r ty).byte (a + lDst w % 64 + k) = bs.getD k 0 := by
  obtain ⟨hbegun, hbare, hto, hjob, hbad, hsound, hdst⟩ := h
  obtain ⟨hkept, hmem, hgot⟩ := hget
  have hdone := State.linkGo_done hbad hsound hhost hin hlen hdst hjob hkept hmem hgot
  rw [State.startLink_ready hready, hto]
  generalize c.linkGo r (s.head r).toNat w = t at hdone
  obtain ⟨hgo, hstarted, hbytes⟩ := hbegun.runs hr hbare hdone hnext
  rw [hgo]
  exact ⟨hstarted, hbytes⟩

theorem next_copy (hr : r < 128) {a b : Nat} (hnext : (s.ring r).fetchedAt (s.head r + 1).toNat = ([], 0)) (hsound : soundMem s)
    (hbad : s.wcacheBad = []) (hcaches : ∀ p ∈ s.cores, p.2.cache = []) (hin : lDst w % 64 + lLen w ≤ 64)
    (hb : Claims.linkBlock s r (lDst w) a .write) (hready : s.readyDesc r 2 = some w) (h31 : bitAt (wordAt w 13) 31 = false)
    (h30 : bitAt (wordAt w 13) 30 = false) (hinb : lSrc w % 64 + lLen w ≤ 64) (hbb : Claims.linkBlock s r (lSrc w) b .read) :
    Next (.copy r) s fun t => s.LinkStarted t r (a + lDst w % 64) (lLen w)
      ∧ t.bytes (a + lDst w % 64) (lLen w) = s.bytes (b + lSrc w % 64) (lLen w) := by
  have hfill : lFill w = false := by
    rw [lFill, (State.readyDesc_spec hready).1]
    rfl
  have hshost : lSHost w = false := by rw [lSHost, h31, Bool.and_false]
  obtain ⟨u, c, hone⟩ := State.oneBlock hr hsound hbad hcaches hin hb fun _ _ => ⟨b, hinb, hbb⟩
  obtain ⟨hkept, hmem, -⟩ := hone.bare.kept r
  have hget := State.linkGet_copy hfill hshost hinb hone.bad hone.sound (hkept.linkBlock hmem (hone.begun.linkBlock hr hbb)) hone.job
  have hsame := State.bytes_congr (fun z => (hmem.byte z).trans (hone.begun.mem.byte z)) (b + lSrc w % 64) (lLen w)
  rw [hsame] at hget
  have hlen : (s.bytes (b + lSrc w % 64) (lLen w)).length = lLen w := length_bytes ..
  obtain ⟨hstarted, hbytes⟩ := hone.startLink hr hready hnext h30 hin hlen hget
  refine ⟨_, rfl, hstarted, ?_⟩
  have hall := State.bytes_of_byte (bs := s.bytes (b + lSrc w % 64) (lLen w)) fun k hk => hbytes k (by rw [hlen] at hk; exact hk)
  rw [hlen] at hall
  exact hall

theorem next_fill (hr : r < 128) {a : Nat} (hnext : (s.ring r).fetchedAt (s.head r + 1).toNat = ([], 0)) (hsound : soundMem s)
    (hbad : s.wcacheBad = []) (hcaches : ∀ p ∈ s.cores, p.2.cache = []) (hin : lDst w % 64 + lLen w ≤ 64)
    (hb : Claims.linkBlock s r (lDst w) a .write) (hready : s.readyDesc r 3 = some w) :
    Next (.fill r) s fun t => s.LinkStarted t r (a + lDst w % 64) (lLen w)
      ∧ ∀ k < lLen w, t.byte (a + lDst w % 64 + k) = (bytesOfWords [wordAt w 3, wordAt w 4]).getD (k % 8) 0 := by
  have hfill : lFill w = true := by
    rw [lFill, (State.readyDesc_spec hready).1]
    rfl
  obtain ⟨u, c, hone⟩ := State.oneBlock hr hsound hbad hcaches hin hb fun hf => absurd (hfill.symm.trans hf) (by decide)
  obtain ⟨hstarted, hbytes⟩ := hone.startLink hr hready hnext (State.fill_here hready) hin (length_fillBytes w)
    (State.linkGet_fill hfill (by omega) hone.job)
  refine ⟨_, rfl, hstarted, fun k hk => (hbytes k hk).trans ?_⟩
  simp [fillBytes, hk]

theorem exec_link_idle {ty : Nat} (h : ty = 2 ∨ ty = 3) (hnone : s.readyDesc r ty = none) :
    exec (if ty = 2 then .copy r else .fill r) s = .next s := by
  have hidle : s.startLink r ty = s := by
    rw [State.startLink]
    simp only [hnone]
  rcases h with rfl | rfl <;> exact congrArg Host.Outcome.next hidle

end

end Sys2Proof.Machine

open Sys2Proof Sys2Proof.Machine Sys2Proof.Claims

/-- Settles O51: the start and the completion of a job of the link engine, answers to host reads, and the host's reads and writes. -/
theorem linkEngineAndHost : Obligations.LinkEngineAndHost := by
  unfold Obligations.LinkEngineAndHost
  intro s r w hr i n dst started
  have hctl : 0x1401018 + 0x40 * r = offRing r + 0x18 := by rw [offRing_eq]; omega
  have hhead : 0x1401020 + 0x40 * r = offRing r + 0x20 := by rw [offRing_eq]; omega
  have htail : 0x140101C + 0x40 * r = offRing r + 0x1C := by rw [offRing_eq]; omega
  have hstarted {t : State} {a : Nat} (h : s.LinkStarted t r a n) : started t a := by
    obtain ⟨hto, hret, hjob, hother, hcores, hout, hregs, hframe⟩ := h
    exact ⟨hto, hret, hjob, hother, hcores, hout, by rw [hctl, hhead]; exact hregs, hframe⟩
  refine ⟨fun ty hty => exec_link_idle hty, fun hnext hsound hbad hcaches hin a hb => ⟨fun b hready h31 h30 hinb hbb => ?_, fun hready => ?_⟩,
    fun q => exec_linkCopyComplete_none, fun q j => exec_linkCopyComplete_busy, ?_, fun tag st bs h => exec_hreadResponse_unknown h st bs,
    fun tag v hi h h0 hhi hpos hlt hfits => ⟨?_, fun st hst => next_hreadResponse_noTail h (by rintro rfl; simp at hst)⟩, ?_, ?_, ?_,
    fun tag off hmoor => exec_mread_moored hmoor tag, fun v off hmoor hpend => ⟨exec_mwrite_poll hmoor hpend v, fun hoff hsound => exec_mwrite_refused hsound v hoff⟩⟩
  · obtain ⟨t, ht, hall, hbytes⟩ := next_copy hr hnext hsound hbad hcaches hin hb hready h31 h30 hinb hbb
    exact ⟨t, ht, hstarted hall, hbytes⟩
  · obtain ⟨t, ht, hall, hbytes⟩ := next_fill hr hnext hsound hbad hcaches hin hb hready
    exact ⟨t, ht, hstarted hall, hbytes⟩
  · intro j z hjob hend hst hdone hirq hst' _ hstop hlost hrun hto hnext hdev hrange hbit hsound hsent
    exact exec_linkCopyComplete ⟨hr, hst, hdone, hirq, hst', hstop, hlost, hrun, hto, hnext, hdev, hrange, hbit, hsound, hsent⟩ hjob hend rfl
  · rw [htail]
    exact next_hreadResponse_tail h hr h0 hpos hlt hfits
  · intro tag k ws h hwait hk hlen
    have hbytes : (bytesOfWords ws).length = 64 := by rw [bytesOfWords_length, hlen]
    have hwords := wordsLE_bytesOfWords ws
    rw [hlen] at hwords
    have hok := next_hreadResponse_descriptor h hwait hk .ok (le_of_eq hbytes)
    rw [hwords] at hok
    exact ⟨hok, next_hreadResponse_noDescriptor h hwait hk .refused, next_hreadResponse_noDescriptor h hwait hk .unsupported,
      next_hreadResponse_noDescriptor h hwait hk .poison⟩
  · exact fun tag k off j h hj => ⟨next_hreadResponse_copy h hj (by decide), next_hreadResponse_copy h hj (by decide)⟩
  · exact fun tag off hmoor hup => ⟨exec_mread_claimed hr hmoor hup tag, fun hoff hsound => exec_mread_hole hmoor hup hsound tag hoff⟩

end

section
/-! # Background services (O56): writes of sound memory, service messages, and the numerics service -/
namespace Sys2Proof.Machine
open Sys2Proof.Claims

/-! ## Writes of sound memory -/

section
variable {s : State}

/-- Of sound DRAM a write puts its bytes, and blocks written whole may lose their poison. -/
theorem State.writeMem_sound (h : soundMem s) {a : Nat} (hdram : isDram a = true) (bs : List Byte) :
    ∃ m, s.writeMem a bs = ({ s with poison := m } : State).putMem a bs
      ∧ ∀ b, s.poisoned b = false → ({ s with poison := m } : State).poisoned b = false := by
  have hset {α : Type} [DecidableEq α] (d : α) (k : Nat) {m : Sparse α} (hm : m = []) : Sparse.set (fun _ => d) m k d = m := by
    rw [hm, Sparse.set, if_pos rfl]
    rfl
  have hstep (u : State) (b : Nat) (hu : u = { s with poison := u.poison }) :
      (if a ≤ b ∧ b + 64 ≤ a + bs.length then
        { u.setPoison b false with defects := Sparse.set (fun _ => 0) u.defects b 0, crcOff := Sparse.set (fun _ => 0) u.crcOff b 0 }
      else u.crcCheck b) = { s with poison := (if a ≤ b ∧ b + 64 ≤ a + bs.length then
        { u.setPoison b false with defects := Sparse.set (fun _ => 0) u.defects b 0, crcOff := Sparse.set (fun _ => 0) u.crcOff b 0 }
      else u.crcCheck b).poison } := by
    have hd : u.defects = [] := by rw [hu]; exact h.1
    have hc : u.crcOff = [] := by rw [hu]; exact h.2.1
    split
    · rw [hset 0 b hd, hset 0 b hc]
      have hp : u.setPoison b false = { u with poison := (u.setPoison b false).poison } := rfl
      rw [hp, hu]
    · rw [State.crcCheck_of_intact hd hc]
      exact hu
  have hclear (u : State) (b c : Nat) (hu : u = { s with poison := u.poison }) (hc : u.poisoned c = false) :
      (if a ≤ b ∧ b + 64 ≤ a + bs.length then
        { u.setPoison b false with defects := Sparse.set (fun _ => 0) u.defects b 0, crcOff := Sparse.set (fun _ => 0) u.crcOff b 0 }
      else u.crcCheck b).poisoned c = false := by
    split
    · refine (Sparse.get_set (fun _ => false) u.poison b c false).trans ?_
      split
      · rfl
      · exact hc
    · rw [State.crcCheck_of_intact (by rw [hu]; exact h.1) (by rw [hu]; exact h.2.1)]
      exact hc
  have hall := forEach_keeps (P := fun u : State => u = { s with poison := u.poison } ∧ ∀ b, s.poisoned b = false → u.poisoned b = false)
    (s := s) (fun u b hu => ⟨hstep u b hu.1, fun c hc => hclear u b c hu.1 (hu.2 c hc)⟩) ⟨rfl, fun _ hc => hc⟩ (blocksOf a bs.length)
  unfold State.writeMem
  simp only [hdram, if_true]
  generalize forEach _ s (blocksOf a bs.length) = u at hall
  obtain ⟨hframe, hclean⟩ := hall
  exact ⟨u.poison, by rw [← hframe], hclean⟩

/-- What a write leaves: the bytes where they were put, the others as they were, and nothing else but poison. -/
theorem State.writeMem_spec (h : soundMem s) {a : Nat} {bs : List Byte} (hin : a + bs.length ≤ 0x10800000000) (hne : 0 < bs.length) :
    s.OnlyMem (s.writeMem a bs) ∧ (∀ k < bs.length, (s.writeMem a bs).byte (a + k) = bs.getD k 0)
      ∧ bytesKept s (s.writeMem a bs) [(a, bs.length)] := by
  obtain ⟨m, hm, -⟩ := State.writeMem_sound h (a := a) (decide_eq_true (by omega)) bs
  have hput (u : State) (hu : u = { s with poison := u.poison }) : s.OnlyMem (u.putMem a bs) ∧ (∀ k < bs.length, (u.putMem a bs).byte (a + k) = bs.getD k 0)
      ∧ bytesKept s (u.putMem a bs) [(a, bs.length)] := by
    refine ⟨?_, fun k hk => ?_, fun z hz => ?_⟩
    · have hp : u.putMem a bs = { u with mem := (u.putMem a bs).mem, lost := (u.putMem a bs).lost } := rfl
      rw [State.OnlyMem, hp, hu]
    · rw [State.byte_putMem _ _ _ (isRom_below (by omega)), if_pos (by omega), Nat.add_sub_cancel_left]
    · have hout := hz _ (List.mem_singleton.mpr rfl)
      exact (u.byte_putMem_outside (by omega)).trans (State.byte_congr (by rw [hu]) (by rw [hu]) z)
  rw [hm]
  exact hput _ rfl

/-- A write poisons no block. -/
theorem State.writeMem_clean (h : soundMem s) {a : Nat} {bs : List Byte} (hin : a + bs.length ≤ 0x10800000000) (hne : 0 < bs.length) {b : Nat}
    (hb : s.poisoned b = false) : (s.writeMem a bs).poisoned b = false := by
  obtain ⟨m, hm, hclean⟩ := State.writeMem_sound h (a := a) (decide_eq_true (by omega)) bs
  rw [hm]
  exact hclean b hb

theorem State.words_of_byte {a : Nat} {ws : List Word} (h : ∀ k < 4 * ws.length, s.byte (a + k) = (bytesOfWords ws).getD k 0) :
    s.words a ws.length = ws := by
  have hlen := bytesOfWords_length ws
  have hbytes := State.bytes_of_byte (s := s) (a := a) (bs := bytesOfWords ws) fun i hi => h i (by omega)
  rw [hlen] at hbytes
  rw [State.words, hbytes, wordsLE_bytesOfWords]

/-- Words written to sound memory. -/
theorem State.writeWords_spec (h : soundMem s) {a : Nat} {ws : List Word} (hin : a + 4 * ws.length ≤ 0x10800000000) (hne : ws ≠ []) :
    s.OnlyMem (s.writeMem a (bytesOfWords ws)) ∧ (s.writeMem a (bytesOfWords ws)).words a ws.length = ws
      ∧ bytesKept s (s.writeMem a (bytesOfWords ws)) [(a, 4 * ws.length)] := by
  have hlen := bytesOfWords_length ws
  have hpos : 0 < ws.length := List.length_pos_iff.mpr hne
  obtain ⟨honly, hbytes, hout⟩ := State.writeMem_spec h (a := a) (bs := bytesOfWords ws) (by omega) (by omega)
  rw [hlen] at hout hbytes
  exact ⟨honly, State.words_of_byte hbytes, hout⟩

end

/-! ## Service messages (R335) -/

/-- Requests, packets and links alone differ, and no packet is taken back. -/
structure State.Sent (s t : State) : Prop where
  frame : t = { s with reqs := t.reqs, fabOut := t.fabOut, links := t.links }
  kept : ∀ x ∈ s.fabOut, x ∈ t.fabOut

section
variable {s t u : State}

theorem State.Sent.refl (s : State) : s.Sent s := ⟨rfl, fun _ h => h⟩

theorem State.Sent.trans (h : s.Sent t) (h' : t.Sent u) : s.Sent u := by
  refine ⟨?_, fun x hx => h'.kept x (h.kept x hx)⟩
  rw [h'.frame, h.frame]

theorem State.routePort_congr (h : t.setup = s.setup) (src dst : Nat) : t.routePort src dst = s.routePort src dst := by
  have hreg : t.reg = s.reg := funext (State.reg_congr h)
  have hports : t.jobPorts = s.jobPorts := by
    simp only [State.jobPorts, State.linkUp, State.linkState, State.jobPort, hreg]
  rw [State.routePort, State.routePort, hports, hreg]

theorem State.deviceId_congr (h : t.setup = s.setup) : t.deviceId = s.deviceId := congrArg (fld · 0 24) (State.reg_congr h _)

/-- A request to a module that a port leads to is one packet on that port. -/
theorem State.issueReq_spec {dst port : Nat} (h : s.routePort s.deviceId dst = some port) (ptype ctx : Nat) (owner : Owner) (addr len : Nat)
    (ext : List Word) (data : List Byte) (org : Origin) :
    ∃ t q, s.issueReq ptype dst ctx owner addr len ext data org = some t
      ∧ t = { s with reqs := t.reqs, fabOut := s.fabOut ++ [(port, q)], links := t.links }
      ∧ q.ptype = BitVec.ofNat 4 ptype ∧ q.rsp = false ∧ q.dst = BitVec.ofNat 24 dst ∧ q.len = BitVec.ofNat 7 len ∧ q.ext = ext
      ∧ q.data = data := by
  rw [State.issueReq]
  simp only [h]
  exact ⟨_, _, rfl, rfl, rfl, rfl, rfl, rfl, rfl, rfl⟩

theorem State.tell_spec (s : State) (sc d : Nat) (ws : List Word) :
    s.Sent (s.tell sc d ws) ∧ (d ≠ s.deviceId → s.isCut d = false → d < 2 ^ 24 → Told s (s.tell sc d ws) d ws) := by
  rw [State.tell]
  split
  · next h =>
    refine ⟨.refl s, fun hne hcut => ?_⟩
    rcases h with h | h
    · exact absurd h hne
    · rw [hcut] at h
      exact absurd h Bool.false_ne_true
  · cases hroute : s.routePort s.deviceId d with
    | none =>
      have hnone : s.issueReq 1 d 0 (.gondola sc) (mailboxBase + 0x2000 * sc) ws.length
          ([BitVec.ofNat 32 (0x2000 * sc), 0x20000000] ++ extSpool false false false 0) (bytesOfWords ws) = none := by
        rw [State.issueReq]
        simp only [hroute]
      rw [hnone]
      exact ⟨.refl s, fun _ _ _ port hport => absurd (hroute.symm.trans hport) (by simp)⟩
    | some k =>
      obtain ⟨t, q, ht, hframe, htype, hrsp, hdst, -, hext, hdata⟩ := State.issueReq_spec hroute 1 0 (.gondola sc) (mailboxBase + 0x2000 * sc)
        ws.length ([BitVec.ofNat 32 (0x2000 * sc), 0x20000000] ++ extSpool false false false 0) (bytesOfWords ws) .none
      have hout : t.fabOut = s.fabOut ++ [(k, q)] := by rw [hframe]
      rw [ht, Option.getD_some]
      refine ⟨⟨?_, fun x hx => by rw [hout]; exact List.mem_append_left _ hx⟩, fun _ _ hd port hport => ?_⟩
      · rw [hframe]
      · obtain rfl : k = port := Option.some.inj (hroute.symm.trans hport)
        refine ⟨q, by rw [hout]; exact List.mem_append_right _ (List.mem_singleton.mpr rfl), htype, hrsp, ?_, ?_, hdata⟩
        · rw [hdst, BitVec.toNat_ofNat]
          exact Nat.mod_eq_of_lt hd
        · have hword : pExt q 1 = 0x20000000 := by
            rw [pExt, hext]
            rfl
          rw [pMail, hword]
          decide

theorem told_of_sent {d : Nat} {ws : List Word} (hs : s.setup = t.setup) (h : Told t u d ws) : Told s u d ws := fun port hport =>
  h port (by rw [← State.routePort_congr hs.symm, ← State.deviceId_congr hs.symm] at hport; exact hport)

theorem told_mono {d : Nat} {ws : List Word} (h : Told s t d ws) (hs : t.Sent u) : Told s u d ws := fun port hport => by
  obtain ⟨q, hq, hrest⟩ := h port hport
  exact ⟨q, hs.kept _ hq, hrest⟩

/-- Every module of a list is told, but for this one and those that are cut. -/
theorem State.tellAll_spec (sc : Nat) (ws : List Word) (ds : List Nat) (s : State) :
    s.Sent (forEach (fun s d => s.tell sc d ws) s ds)
      ∧ ∀ d ∈ ds, d ≠ s.deviceId → s.isCut d = false → d < 2 ^ 24 → Told s (forEach (fun s d => s.tell sc d ws) s ds) d ws := by
  induction ds generalizing s with
  | nil => exact ⟨.refl s, fun d hd => absurd hd List.not_mem_nil⟩
  | cons x xs ih =>
    obtain ⟨hsent, htold⟩ := s.tell_spec sc x ws
    obtain ⟨hrest, hall⟩ := ih (s.tell sc x ws)
    have hto : forEach (fun s d => s.tell sc d ws) s (x :: xs) = forEach (fun s d => s.tell sc d ws) (s.tell sc x ws) xs := rfl
    rw [hto]
    have hsetup : (s.tell sc x ws).setup = s.setup := by rw [hsent.frame]
    refine ⟨hsent.trans hrest, fun d hd hne hcut hlt => ?_⟩
    rcases List.mem_cons.mp hd with rfl | hd
    · exact told_mono (htold hne hcut hlt) hrest
    · refine told_of_sent hsetup.symm (hall d hd ?_ ?_ hlt)
      · rw [State.deviceId_congr hsetup]
        exact hne
      · have hsame : (s.tell sc x ws).isCut d = s.isCut d := by rw [State.isCut, State.isCut, hsent.frame]
        rw [hsame]
        exact hcut

end

end Sys2Proof.Machine
end

section
/-! # Background services (O56): the numerics service (R84) -/
namespace Sys2Proof.Machine
open Sys2Proof.Claims

/-! ## The combined record -/

theorem foldl_max_dmax (l : List NumRecord) {m k : Int} (hm : m ≤ k) (hle : ∀ x ∈ l, x.dmax.toInt ≤ k)
    (hex : m = k ∨ ∃ x ∈ l, x.dmax.toInt = k) : l.foldl (fun m r => max m r.dmax.toInt) m = k := by
  induction l generalizing m with
  | nil =>
    rcases hex with h | ⟨x, hx, -⟩
    · exact h
    · exact absurd hx List.not_mem_nil
  | cons x l ih =>
    obtain ⟨hx, hl⟩ := List.forall_mem_cons.mp hle
    rw [List.foldl_cons]
    refine ih (max_le hm hx) hl ?_
    rcases hex with h | ⟨y, hy, hk⟩
    · exact .inl (by rw [h]; exact max_eq_left hx)
    · rcases List.mem_cons.mp hy with rfl | hy
      · exact .inl (by rw [hk]; exact max_eq_right hm)
      · exact .inr ⟨y, hy, hk⟩

theorem maxDmax_eq {l : List NumRecord} {k : Int} (hle : ∀ x ∈ l, x.dmax.toInt ≤ k) (hex : ∃ x ∈ l, x.dmax.toInt = k) : maxDmax l = k := by
  obtain ⟨x, hx, hk⟩ := hex
  have hlow : -128 ≤ x.dmax.toInt := BitVec.le_toInt x.dmax
  exact foldl_max_dmax l (by omega) hle (.inr ⟨x, hx, hk⟩)

/-- The record that the service keeps of a group. -/
def State.numNoted (s : State) (i : Nat) (g : NumGroup) (done : Word × Int × Nat × Nat) : State :=
  { s with svc := { s.svc with groups := Sparse.set (fun _ => none) s.svc.groups i (some { g with last := some done }) } }

section
variable {s : State} {i : Nat} {rem : List NumRecord}

theorem exec_numerics_unknown (h : Sparse.get (fun _ => none) s.svc.groups i = none) : exec (.numericsServiceStep i rem) s = .next s := by
  show execNumericsServiceStep i rem s = _
  simp only [execNumericsServiceStep, h]

theorem exec_numerics_unread {g : NumGroup} {s1 : State} (h : Sparse.get (fun _ => none) s.svc.groups i = some g)
    (hrec : s.numRecords g.recs = (s1, none)) : exec (.numericsServiceStep i rem) s = .next s1 := by
  show execNumericsServiceStep i rem s = _
  simp only [execNumericsServiceStep, h, hrec, Option.map_none]

theorem exec_numerics_read {g : NumGroup} {l : List NumRecord} {r : NumRecord} {rs : List NumRecord}
    (h : Sparse.get (fun _ => none) s.svc.groups i = some g) (hrec : s.numRecords g.recs = (s, some l)) (hall : l ++ rem = r :: rs) :
    exec (.numericsServiceStep i rem) s =
      if (rs.all fun x => x.step == r.step) = false ∨ g.last.map Prod.fst = some r.step then .next s
      else .next ((s.numNoted i g (r.step, maxDmax (r :: rs), ((r :: rs).map fun x => x.zcnt.toNat).sum,
        ((r :: rs).map fun x => x.momFloor.toNat).sum)).moveExponent i r.step (maxDmax (r :: rs))) := by
  show execNumericsServiceStep i rem s = _
  simp only [execNumericsServiceStep, h, hrec, Option.map_some, hall]
  rfl

theorem exec_numerics_waits {g : NumGroup} {l : List NumRecord} {r : NumRecord} {rs : List NumRecord}
    (h : Sparse.get (fun _ => none) s.svc.groups i = some g) (hrec : s.numRecords g.recs = (s, some l)) (hall : l ++ rem = r :: rs)
    (hno : (∃ x ∈ rs, x.step ≠ r.step) ∨ g.last.map Prod.fst = some r.step) : exec (.numericsServiceStep i rem) s = .next s := by
  rw [exec_numerics_read h hrec hall]
  refine if_pos (hno.imp_left fun ⟨x, hx, hne⟩ => ?_)
  exact List.all_eq_false.mpr ⟨x, hx, by simpa using hne⟩

theorem exec_numerics_combines {g : NumGroup} {l : List NumRecord} {r : NumRecord} {rs : List NumRecord}
    (h : Sparse.get (fun _ => none) s.svc.groups i = some g) (hrec : s.numRecords g.recs = (s, some l)) (hall : l ++ rem = r :: rs)
    (hsteps : ∀ x ∈ rs, x.step = r.step) (hlast : g.last.map Prod.fst ≠ some r.step) {k : Int} (hle : ∀ x ∈ r :: rs, x.dmax.toInt ≤ k)
    (hex : ∃ x ∈ r :: rs, x.dmax.toInt = k) :
    exec (.numericsServiceStep i rem) s = .next ((s.numNoted i g (r.step, k, ((r :: rs).map fun x => x.zcnt.toNat).sum,
        ((r :: rs).map fun x => x.momFloor.toNat).sum)).moveExponent i r.step k) := by
  have hsame : (rs.all fun x => x.step == r.step) = true := List.all_eq_true.mpr fun x hx => beq_iff_eq.mpr (hsteps x hx)
  rw [exec_numerics_read h hrec hall, if_neg, maxDmax_eq hle hex]
  rintro (hno | hno)
  · rw [hsame] at hno
    exact Bool.noConfusion hno
  · exact hlast hno

/-! ## The group's record -/

theorem wordAt_withComplements {g : List Word} (hlen : g.length = 16) {j : Nat} (hj : j < 16) :
    wordAt (withComplements g) j = wordAt g j ∧ wordAt (withComplements g) (16 + j) = ~~~ (wordAt g j) := by
  have hget : j < g.length := by omega
  have hget' : 16 + j - g.length = j := by omega
  constructor
  · rw [wordAt, wordAt, withComplements, List.getD_append _ _ _ _ hget]
  · rw [wordAt, wordAt, withComplements, List.getD_append_right _ _ _ _ (by omega), hget', List.getD_eq_getElem?_getD, List.getElem?_map,
      List.getElem?_eq_getElem hget, List.getD_eq_getElem?_getD, List.getElem?_eq_getElem hget]
    rfl

theorem complementsOk_withComplements {g : List Word} (hlen : g.length = 16) : complementsOk 16 (withComplements g) = true := by
  rw [complementsOk, List.all_eq_true]
  intro j hj
  obtain ⟨hlo, hhi⟩ := wordAt_withComplements hlen (List.mem_range.mp hj)
  rw [hlo, hhi]
  exact beq_self_eq_true _

theorem length_withComplements (g : List Word) : (withComplements g).length = 2 * g.length := by
  rw [withComplements, List.length_append, List.length_map]
  omega

theorem State.groupWords_of_sound {g : List Word} (hsound : soundMem s) (hi : i < s.gtSize) (hclean : cleanRange s (s.groupAddr i) 128)
    (hlen : g.length = 16) (hg : s.words (s.groupAddr i) 32 = withComplements g) : s.groupWords i = (s, some g) := by
  obtain ⟨-, hrange, hpoison⟩ := hclean
  have hread := State.readEntry_of_intact hsound.1 hsound.2.1 (a := s.groupAddr i) (n := 32) hpoison
  have htake : (withComplements g).take 16 = g := by rw [withComplements, ← hlen, List.take_left]
  rw [State.groupWords, if_neg (by rw [hrange]; simp; omega), hread]
  simp only [hg, complementsOk_withComplements hlen, if_true, htake]

/-! ## The move of a rate pair (R84) -/

theorem toInt_ofNat_eq_signedOf (v : Nat) : (BitVec.ofNat 8 v).toInt = signedOf 8 v := by
  rw [BitVec.toInt_eq_toNat_cond, signedOf, BitVec.toNat_ofNat]
  split <;> split <;> omega

theorem signedOf_emod {u : Int} (hlo : -126 ≤ u) (hhi : u ≤ 126) : signedOf 8 (u % 256).toNat = u ∧ (u % 256).toNat < 256 := by
  have hmod : ((u % 256).toNat : Int) = u % 256 := Int.toNat_of_nonneg (by omega)
  refine ⟨?_, by omega⟩
  rw [signedOf]
  split <;> omega

theorem fld_setFld_exponent (w : Word) (v : Nat) : fld (setFld w 23 8 v) 23 8 = v % 256 ∧ bitAt (setFld w 23 8 v) 31 = bitAt w 31 := by
  have hw := w.isLt
  simp only [bitAt, fld, setFld, bitsOf_eq, BitVec.toNat_ofNat]
  refine ⟨by omega, ?_⟩
  congr 1
  omega

theorem rateOk_moved {lr : Word} {e u : Int} (hsign : bitAt lr 31 = false) (he : 1 ≤ e) (he' : e ≤ 254) (hu : -126 ≤ u) (hu' : u ≤ 126) :
    rateOk (setFld lr 23 8 e.toNat) (u % 256).toNat = true := by
  obtain ⟨hexp, hbit⟩ := fld_setFld_exponent lr e.toNat
  obtain ⟨hux, -⟩ := signedOf_emod hu hu'
  rw [rateOk, hbit, hsign, hexp, hux]
  simp only [Bool.and_eq_true, decide_eq_true_eq, Bool.not_false, true_and]
  omega

theorem RatePair.ok_of (lr : Word) (ux : Nat) (fs : Word) : (RatePair.of lr ux fs).ok = true := by
  simp [RatePair.ok, RatePair.of]

/-- The record after a move: the next pair, and from which step it counts. -/
def rateMoved (g : List Word) (lr : Word) (ux : Nat) (fs : Word) : List Word :=
  setWord (setWord (setWord g 12 (BitVec.ofNat 32 (0x100 + ux))) 11 lr) 13 fs

theorem rateGroup_ok {g : List Word} {lr : Word} {ux : Nat} {fs : Word} (hpv : gPv g = false) (hux : ux < 256)
    (hahead : (gStep g).toNat < fs.toNat ∨ (fs = gStep g ∧ gDone g = 0)) (hok : rateOk lr ux = true) :
    rateGroup g lr ux fs = .ok (rateMoved g lr ux fs) := by
  have hnot : ¬ (fs.toNat < (gStep g).toNat ∨ (fs = gStep g ∧ 0 < gDone g)) := by
    rintro (h | ⟨h, h'⟩)
    · rcases hahead with ha | ⟨ha, -⟩
      · omega
      · rw [ha] at h
        omega
    · rcases hahead with ha | ⟨-, ha⟩
      · rw [h] at ha
        omega
      · omega
  have hmod : 2 ^ 8 + ux % 256 = 0x100 + ux := by omega
  rw [rateGroup, hpv, if_neg Bool.false_ne_true, if_neg hnot, hok, hmod]
  rfl

theorem State.changeGroup_rate {g : List Word} {lr : Word} {ux : Nat} {fs : Word} (hi : i < s.gtSize) (hg : s.groupWords i = (s, some g))
    (hux : ux < 256) (hrate : rateGroup g lr ux fs = .ok (rateMoved g lr ux fs)) :
    (s.changeGroup i 0 (RatePair.of lr ux fs) []).1 = s.putGroup i (rateMoved g lr ux fs) := by
  have hfld : fld (RatePair.of lr ux fs).ux 0 8 = ux := by
    simp only [RatePair.of, fld, bitsOf_eq, BitVec.toNat_ofNat]
    omega
  have hlr : (RatePair.of lr ux fs).lr = lr := rfl
  have hfs : (RatePair.of lr ux fs).from_ = fs := rfl
  rw [State.changeGroup, if_neg (by omega), if_neg (by decide), if_neg (by rw [RatePair.ok_of]; simp), hg]
  simp only [hfld, hlr, hfs, hrate, if_true]

theorem frame_of_delivered {u v t : State} (hu : s.OnlyMem u) (ht : u.Sent v) (hv : t = v) : t.svc = s.svc ∧ t.mem = u.mem ∧ t.lost = u.lost := by
  have hsvc : u.svc = s.svc := by rw [hu]
  rw [hv, ht.frame]
  exact ⟨hsvc, rfl, rfl⟩

/-- The pair is written to this module's record and told to the others of the job (R83). -/
theorem State.deliverPair_spec {g : List Word} {lr : Word} {ux : Nat} {fs : Word} (hsound : soundMem s) (hi : i < s.gtSize)
    (hclean : cleanRange s (s.groupAddr i) 128) (hlen : g.length = 16) (hg : s.groupWords i = (s, some g)) (hux : ux < 256)
    (hrate : rateGroup g lr ux fs = .ok (rateMoved g lr ux fs)) :
    (s.deliverPair i (RatePair.of lr ux fs)).svc = s.svc ∧ bytesKept s (s.deliverPair i (RatePair.of lr ux fs)) [(s.groupAddr i, 128)]
      ∧ (s.deliverPair i (RatePair.of lr ux fs)).words (s.groupAddr i) 32 = withComplements (rateMoved g lr ux fs)
      ∧ ∀ d ∈ s.svc.ranks, d.toNat ≠ s.deviceId → s.isCut d.toNat = false →
        Told s (s.deliverPair i (RatePair.of lr ux fs)) d.toNat (groupMessage i 0 0 (RatePair.of lr ux fs) []) := by
  have hlen' : (withComplements (rateMoved g lr ux fs)).length = 32 := by
    rw [length_withComplements, rateMoved, setWord, setWord, setWord, List.length_set, List.length_set, List.length_set, hlen]
  have hput := State.writeWords_spec hsound (a := s.groupAddr i) (ws := withComplements (rateMoved g lr ux fs))
    (by rw [hlen']; exact hclean.1) (by intro h; rw [h] at hlen'; exact absurd hlen' (by decide))
  rw [hlen'] at hput
  rw [State.deliverPair, State.changeGroup_rate hi hg hux hrate, State.putGroup]
  generalize s.writeMem (s.groupAddr i) (bytesOfWords (withComplements (rateMoved g lr ux fs))) = u at hput
  obtain ⟨honly, hwords, hout⟩ := hput
  have hranks : u.svc.ranks = s.svc.ranks := by rw [honly]
  have hmap : forEach (fun (s : State) (d : BitVec 24) => s.tell 4 d.toNat (groupMessage i 0 0 (RatePair.of lr ux fs) [])) u u.svc.ranks =
      forEach (fun (s : State) (d : Nat) => s.tell 4 d (groupMessage i 0 0 (RatePair.of lr ux fs) [])) u (s.svc.ranks.map BitVec.toNat) := by
    rw [forEach, forEach, List.foldl_map, hranks]
  obtain ⟨hsent, htold⟩ := u.tellAll_spec 4 (groupMessage i 0 0 (RatePair.of lr ux fs) []) (s.svc.ranks.map BitVec.toNat)
  simp only [hmap]
  generalize forEach (fun (s : State) (d : Nat) => s.tell 4 d (groupMessage i 0 0 (RatePair.of lr ux fs) [])) u (s.svc.ranks.map BitVec.toNat) = t
    at hsent htold
  have hsetup : u.setup = s.setup := by rw [honly]
  obtain ⟨hsvc, hmem, hlost⟩ := frame_of_delivered honly hsent rfl
  have hbyte (z : Nat) : t.byte z = u.byte z := State.byte_congr hmem hlost z
  refine ⟨hsvc, fun z hz => (hbyte z).trans (hout z hz), (State.words_congr hbyte _ _).trans hwords, fun d hd hne hcut => ?_⟩
  have hcut' : u.isCut d.toNat = false := by
    rw [State.isCut, honly]
    exact hcut
  exact told_of_sent hsetup.symm (htold _ (List.mem_map_of_mem hd) (by rw [State.deviceId_congr hsetup]; exact hne) hcut' d.isLt)

/-! ## What a combined DMAX does (R84) -/

theorem State.moveExponent_still {k : Int} (h : (-8 ≤ k ∧ k ≤ 8) ∨ k = -128) (step : Word) : s.moveExponent i step k = s := if_pos h

theorem State.moveExponent_words {k : Int} (h : 8 < k ∨ (-128 < k ∧ k < -8)) {g : List Word} (hg : s.groupWords i = (s, some g)) (step : Word) :
    s.moveExponent i step k = match moveLr (wordAt g 6) k, moveUexp (BitVec.ofNat 8 (fld (wordAt g 7) 0 8)) k with
      | some lr, some ux => s.deliverPair i (RatePair.of lr ux (step + 2))
      | _, _ => s.report 0x654 2 3 none 0xFFFF [BitVec.ofNat 32 i, step, BitVec.ofInt 32 k,
          BitVec.ofInt 32 (BitVec.ofNat 8 (fld (wordAt g 7) 0 8)).toInt] := by
  rw [State.moveExponent, if_neg (by omega), hg] <;> rfl

theorem State.moveExponent_limit {k : Int} (h : 8 < k ∨ (-128 < k ∧ k < -8)) {g : List Word} (hg : s.groupWords i = (s, some g)) (step : Word)
    (hout : fld (wordAt g 6) 23 8 - k < 1 ∨ 254 < fld (wordAt g 6) 23 8 - k ∨ signedOf 8 (fld (wordAt g 7) 0 8) + k < -126
      ∨ 126 < signedOf 8 (fld (wordAt g 7) 0 8) + k) :
    ∃ d, s.moveExponent i step k = s.report 0x654 2 3 none 0xFFFF d := by
  rw [State.moveExponent_words h hg]
  by_cases he : 1 ≤ fld (wordAt g 6) 23 8 - k ∧ fld (wordAt g 6) 23 8 - k ≤ 254
  · have hu : moveUexp (BitVec.ofNat 8 (fld (wordAt g 7) 0 8)) k = none := by
      rw [moveUexp, toInt_ofNat_eq_signedOf]
      exact if_neg (by omega)
    rw [hu]
    cases moveLr (wordAt g 6) k <;> exact ⟨_, rfl⟩
  · have hlr : moveLr (wordAt g 6) k = none := if_neg he
    rw [hlr]
    exact ⟨_, rfl⟩

theorem State.moveExponent_moves {k : Int} (h : 8 < k ∨ (-128 < k ∧ k < -8)) {g : List Word} (hg : s.groupWords i = (s, some g)) (step : Word)
    {e u : Int} (hedef : e = fld (wordAt g 6) 23 8 - k) (hudef : u = signedOf 8 (fld (wordAt g 7) 0 8) + k) (he : 1 ≤ e) (he' : e ≤ 254)
    (hu : -126 ≤ u) (hu' : u ≤ 126) :
    s.moveExponent i step k = s.deliverPair i (RatePair.of (setFld (wordAt g 6) 23 8 e.toNat) (u % 256).toNat (step + 2)) := by
  have hlr : moveLr (wordAt g 6) k = some (setFld (wordAt g 6) 23 8 e.toNat) := by
    rw [moveLr, ← hedef]
    exact if_pos ⟨he, he'⟩
  have hux : moveUexp (BitVec.ofNat 8 (fld (wordAt g 7) 0 8)) k = some (u % 256).toNat := by
    rw [moveUexp, toInt_ofNat_eq_signedOf, ← hudef]
    exact if_pos ⟨hu, hu'⟩
  rw [State.moveExponent_words h hg, hlr, hux]

/-! ## The claim's three cases -/

section
variable {g : NumGroup} {l : List NumRecord} {r : NumRecord} {rs : List NumRecord} {k : Int} {done : Word × Int × Nat × Nat}

theorem next_numerics_still (hexec : exec (.numericsServiceStep i rem) s = .next ((s.numNoted i g done).moveExponent i r.step k))
    (hk : (-8 ≤ k ∧ k ≤ 8) ∨ k = -128) : Next (.numericsServiceStep i rem) s fun t =>
      t.svc = (s.numNoted i g done).svc ∧ t = { s with svc := t.svc } :=
  ⟨_, hexec.trans (congrArg Host.Outcome.next (State.moveExponent_still hk r.step)), rfl, rfl⟩

theorem next_numerics_limit (hexec : exec (.numericsServiceStep i rem) s = .next ((s.numNoted i g done).moveExponent i r.step k))
    (hk : 8 < k ∨ (-128 < k ∧ k < -8)) {gr : List Word} (hsound : soundMem s)
    (hg' : (s.numNoted i g done).groupWords i = (s.numNoted i g done, some gr))
    (hout : fld (wordAt gr 6) 23 8 - k < 1 ∨ 254 < fld (wordAt gr 6) 23 8 - k ∨ signedOf 8 (fld (wordAt gr 7) 0 8) + k < -126
      ∨ 126 < signedOf 8 (fld (wordAt gr 7) 0 8) + k) : Next (.numericsServiceStep i rem) s fun t =>
      t.svc = (s.numNoted i g done).svc ∧ Reported t 0x654 2 3 ∧ t.spool = s.spool ∧ t.setup = s.setup := by
  obtain ⟨d, hd⟩ := State.moveExponent_limit hk hg' r.step hout
  have hframe := (s.numNoted i g done).report_frame 0x654 2 3 none 0xFFFF d
  exact ⟨_, hexec.trans (congrArg Host.Outcome.next hd), hframe.svc, State.report_latched (by decide) .., hframe.spool,
    State.report_setup (s := s.numNoted i g done) hsound ..⟩

theorem next_numerics_moves (hexec : exec (.numericsServiceStep i rem) s = .next ((s.numNoted i g done).moveExponent i r.step k))
    (hk : 8 < k ∨ (-128 < k ∧ k < -8)) {gr : List Word} (hsound : soundMem s) (hi : i < s.gtSize)
    (hclean : cleanRange s (s.groupAddr i) 128) (hlen : gr.length = 16)
    (hg' : (s.numNoted i g done).groupWords i = (s.numNoted i g done, some gr)) {e u : Int} (hedef : e = fld (wordAt gr 6) 23 8 - k)
    (hudef : u = signedOf 8 (fld (wordAt gr 7) 0 8) + k) (he : 1 ≤ e) (he' : e ≤ 254) (hu : -126 ≤ u) (hu' : u ≤ 126)
    (hsign : bitAt (wordAt gr 6) 31 = false) (hpv : gPv gr = false)
    (hahead : (gStep gr).toNat < (r.step + 2).toNat ∨ (r.step + 2 = gStep gr ∧ gDone gr = 0)) :
    let lr := setFld (wordAt gr 6) 23 8 e.toNat
    Next (.numericsServiceStep i rem) s fun t =>
      t.svc = (s.numNoted i g done).svc ∧ bytesKept s t [(s.groupAddr i, 128)]
        ∧ t.words (s.groupAddr i) 32 = withComplements (rateMoved gr lr (u % 256).toNat (r.step + 2))
        ∧ ∀ d ∈ s.svc.ranks, d.toNat ≠ s.deviceId → s.isCut d.toNat = false →
          Told s t d.toNat (groupMessage i 0 0 (RatePair.of lr (u % 256).toNat (r.step + 2)) []) := by
  have hux := (signedOf_emod hu hu').2
  have hrate := rateGroup_ok hpv hux hahead (rateOk_moved hsign he he' hu hu')
  have hspec := State.deliverPair_spec (s := s.numNoted i g done) hsound hi hclean hlen hg' hux hrate
  exact ⟨_, hexec.trans (congrArg Host.Outcome.next (State.moveExponent_moves hk hg' r.step hedef hudef he he' hu hu')), hspec⟩

end

end

end Sys2Proof.Machine
end

section
/-! # Background services (O56): the input relay (R338) -/
namespace Sys2Proof.Machine
open Sys2Proof.Claims

section
variable {s : State}

/-! ## Reading parts of a clean range -/

theorem State.anyPoison_part {a n b m : Nat} (h : s.anyPoison a n = false) (hlo : a ≤ b) (hhi : b + m ≤ a + n) : s.anyPoison b m = false := by
  rw [State.anyPoison, List.any_eq_false]
  intro c hc
  by_cases hm : m = 0
  · rw [hm] at hc
    exact absurd hc List.not_mem_nil
  · rw [blocksOf, if_neg hm] at hc
    obtain ⟨j, hj, rfl⟩ := List.mem_map.mp hc
    have hlt := List.mem_range.mp hj
    have hclean (z : Nat) (hz : a ≤ z) (hz' : z < a + n) := State.poisoned_of_anyPoison h hz hz'
    have hz := hclean (max b ((b / 64 + j) * 64)) (by omega) (by omega)
    have hblock : max b ((b / 64 + j) * 64) / 64 * 64 = (b / 64 + j) * 64 := by omega
    rw [hblock] at hz
    rw [hz]
    exact Bool.false_ne_true

theorem State.readMem_part {a n b m : Nat} (hsound : soundMem s) (h : cleanRange s a n) (hlo : a ≤ b) (hhi : b + m ≤ a + n) :
    s.readMem b m = (s, some (s.bytes b m)) :=
  State.readMem_of_sound hsound (State.anyPoison_part h.2.2 hlo hhi)

theorem State.wordAt_words (s : State) (a : Nat) {j n : Nat} (hj : j < n) : wordAt (s.words a n) j = s.word (a + 4 * j) := by
  rw [State.words, wordAt_wordsLE hj, State.drop_bytes _ _ (by omega), State.take_bytes _ _ (by omega), State.word]

/-! ## A batch is judged -/

variable {k : Nat} {x : Stream}

/-- The stream once its next batch has been judged. -/
def Stream.judged (x : Stream) (staged : Nat) : Stream :=
  { x with seqNo := x.seqNo + 1, staged := staged, headers := x.headers.filter (· != x.seqNo % x.arg.slots) }

/-- The address of the next batch's slot, and of its header. -/
def Stream.slotAt (x : Stream) : Nat := x.arg.base + x.seqNo % x.arg.slots * x.arg.slotSize
def Stream.headAt (x : Stream) : Nat := x.slotAt + x.arg.slotSize - 64

/-- The batch fits its slot, by the length in its header. -/
def Stream.fits (x : Stream) (s : State) : Bool := decide ((s.word (x.headAt + 4)).toNat ≤ x.arg.slotSize - 64)

/-- The batch is what its header says. -/
def Stream.good (x : Stream) (s : State) : Bool :=
  x.fits s && !bitAt (s.spoolVal x.arg.staging) 63 && s.word x.headAt == BitVec.ofNat 32 x.seqNo
    && s.word (x.headAt + 8) == crc32c (s.bytes x.slotAt (if x.fits s then (s.word (x.headAt + 4)).toNat else 0))

/-- What the staging counter must have reached. -/
def Stream.needed (x : Stream) (s : State) : Nat := x.staged + 64 + (if x.fits s then (s.word (x.headAt + 4)).toNat else 0)

theorem exec_inputBatchArrival_none (h : s.stream k = none) : exec (.inputBatchArrival k) s = .next s := by
  show execInputBatchArrival k s = _
  simp only [execInputBatchArrival, h]

theorem exec_inputSlotFreed_none (h : s.stream k = none) : exec (.inputSlotFreed k) s = .next s := by
  show execInputSlotFreed k s = _
  simp only [execInputSlotFreed, h]

theorem exec_inputBatchArrival_unseen (h : s.stream k = some x) (hv : bitAt (s.spoolVal x.arg.staging) 63 = false)
    (hno : x.seqNo % x.arg.slots ∉ x.headers) : exec (.inputBatchArrival k) s = .next s := by
  show execInputBatchArrival k s = _
  simp only [execInputBatchArrival, h]
  exact if_pos ⟨hv, by simpa using hno⟩

/-- The step once its header has come, or the staging counter is poisoned. -/
theorem exec_inputBatchArrival_seen (h : s.stream k = some x) (hsize : 64 ≤ x.arg.slotSize) (hsound : soundMem s)
    (hclean : cleanRange s x.slotAt x.arg.slotSize)
    (hseen : bitAt (s.spoolVal x.arg.staging) 63 = true ∨ x.seqNo % x.arg.slots ∈ x.headers) :
    exec (.inputBatchArrival k) s = .next (
      if bitAt (s.spoolVal x.arg.staging) 63 = false ∧ fld (s.spoolVal x.arg.staging) 0 63 < x.needed s then s
      else if x.good s then (s.setStream k (some (x.judged (if x.fits s then x.needed s else fld (s.spoolVal x.arg.staging) 0 63)))).spoolAdd
        x.arg.consumer (s.word (x.headAt + 4)).toNat
      else ((s.setStream k (some (x.judged (if x.fits s then x.needed s else fld (s.spoolVal x.arg.staging) 0 63)))).spoolPoison
        x.arg.consumer).report (0x656 + k % 2) 9 5 none 0xFFFF [BitVec.ofNat 32 k, BitVec.ofNat 32 x.seqNo, s.word x.headAt]) := by
  have hhead := State.readMem_part hsound hclean (b := x.headAt) (m := 64) (by rw [Stream.headAt]; omega) (by rw [Stream.headAt]; omega)
  have hbody := State.readMem_part hsound hclean (b := x.slotAt) (m := if x.fits s then (s.word (x.headAt + 4)).toNat else 0) (le_refl _) (by
    split
    · next hf =>
      have hle := of_decide_eq_true hf
      omega
    · omega)
  have hw (j : Nat) (hj : j < 16) : wordAt (wordsLE 16 (s.bytes x.headAt 64)) j = s.word (x.headAt + 4 * j) := s.wordAt_words x.headAt hj
  have hseen' : ¬ (spoolPoisoned (s.spoolVal x.arg.staging) = false ∧ x.headers.contains (x.seqNo % x.arg.slots) = false) := by
    rintro ⟨hv, hno⟩
    rcases hseen with hs | hs
    · exact Bool.noConfusion (hv.symm.trans hs)
    · simp only [List.contains_eq_mem, hs, decide_true] at hno
      exact Bool.noConfusion hno
  show execInputBatchArrival k s = _
  simp only [execInputBatchArrival, h]
  have hhead' : s.readMem (x.arg.base + x.seqNo % x.arg.slots * x.arg.slotSize + x.arg.slotSize - 64) 64 = (s, some (s.bytes x.headAt 64)) := hhead
  have hw0 := hw 0 (by decide)
  have hw1 := hw 1 (by decide)
  have hw2 := hw 2 (by decide)
  rw [Nat.mul_zero, Nat.add_zero] at hw0
  have hfits : decide ((s.word (x.headAt + 4)).toNat ≤ x.arg.slotSize - 64) = x.fits s := rfl
  have hbody' : s.readMem (x.arg.base + x.seqNo % x.arg.slots * x.arg.slotSize) (if x.fits s then (s.word (x.headAt + 4)).toNat else 0) =
      (s, some (s.bytes x.slotAt (if x.fits s then (s.word (x.headAt + 4)).toNat else 0))) := hbody
  have hstaged : (if x.fits s = true then x.staged + 64 + (s.word (x.headAt + 4)).toNat else spoolCount (s.spoolVal x.arg.staging)) =
      if x.fits s = true then x.needed s else fld (s.spoolVal x.arg.staging) 0 63 := by
    split
    · next hf => rw [Stream.needed, if_pos hf]
    · rfl
  have hgood : (x.fits s && !spoolPoisoned (s.spoolVal x.arg.staging) && s.word x.headAt == BitVec.ofNat 32 x.seqNo
      && s.word (x.headAt + 8) == crc32c (s.bytes x.slotAt (if x.fits s = true then (s.word (x.headAt + 4)).toNat else 0))) = x.good s := rfl
  rw [if_neg hseen', hhead']
  simp only [Option.getD_some, Option.isSome_some, Bool.true_and, hw0, hw1, hw2, Nat.mul_one, Nat.reduceMul, hfits, hbody', hgood, hstaged]
  by_cases hwait : bitAt (s.spoolVal x.arg.staging) 63 = false ∧ fld (s.spoolVal x.arg.staging) 0 63 < x.needed s
  · rw [if_pos hwait]
    exact if_pos hwait
  · rw [if_neg hwait]
    refine (if_neg hwait).trans ?_
    split <;> rfl

/-! ## Counters that rise or are poisoned -/

theorem counted_spoolAdd (u : State) (n m : Nat) : counted u (u.spoolAdd n m) n m := by
  have hval := u.spoolVal_spoolAdd n m
  refine ⟨fun j hj => ?_, fun hp => ?_, fun hp => ?_⟩
  · rw [hval, if_neg hj]
  · rw [hval, if_pos rfl, if_pos hp]
  · rw [hval, if_pos rfl, hp, if_neg Bool.false_ne_true, fld_count_of_clear hp, BitVec.toNat_ofNat]
    omega

theorem State.spoolPoison_onlySpool (u : State) (n : Nat) : u.OnlySpool (u.spoolPoison n) := by
  rw [State.spoolPoison]
  split <;> rfl

theorem State.spoolPoison_poisoned (u : State) (n : Nat) : bitAt ((u.spoolPoison n).spoolVal n) 63 = true := by
  rw [State.spoolPoison]
  split
  · next h => exact h
  · rw [State.spoolVal_spoolChange, if_pos rfl, bitAt_eq_testBit, BitVec.toNat_or, Nat.testBit_or]
    exact Bool.or_true _

/-! ## Outcomes of a batch that is judged -/

theorem State.stream_setStream (u : State) (v : Option Stream) (j : Nat) :
    (u.setStream k v).stream j = if j = k then v else u.stream j := Sparse.get_set (fun _ => none) _ k j v

theorem State.stream_congr {t u : State} (h : t.svc = u.svc) (j : Nat) : t.stream j = u.stream j := by
  rw [State.stream, State.stream, h]

/-- The stream is at its next batch, and the others are as they were. -/
theorem State.stream_judged {t : State} {v : Option Stream} (h : t.svc = (s.setStream k v).svc) :
    t.stream k = v ∧ ∀ j, j ≠ k → t.stream j = s.stream j := by
  refine ⟨?_, fun j hj => ?_⟩
  · rw [State.stream_congr h, State.stream_setStream, if_pos rfl]
  · rw [State.stream_congr h, State.stream_setStream, if_neg hj]

theorem next_batch_accepted {staged len : Nat}
    (hexec : exec (.inputBatchArrival k) s = .next ((s.setStream k (some (x.judged staged))).spoolAdd x.arg.consumer len)) :
    Next (.inputBatchArrival k) s fun t => (t.stream k = some (x.judged staged) ∧ ∀ j, j ≠ k → t.stream j = s.stream j)
      ∧ (0 < len → counted s t x.arg.consumer len) ∧ t = { s with svc := t.svc, spool := t.spool, spoolChg := t.spoolChg, waiters := t.waiters } := by
  have honly := (s.setStream k (some (x.judged staged))).spoolAdd_onlySpool x.arg.consumer len
  refine ⟨_, hexec, State.stream_judged (by rw [honly]), fun _ => counted_spoolAdd (s.setStream k (some (x.judged staged))) _ _, ?_⟩
  rw [honly]
  rfl

theorem next_batch_refused {staged : Nat} {d : List Word}
    (hexec : exec (.inputBatchArrival k) s = .next (((s.setStream k (some (x.judged staged))).spoolPoison x.arg.consumer).report (0x656 + k % 2) 9 5
      none 0xFFFF d)) :
    Next (.inputBatchArrival k) s fun t => (t.stream k = some (x.judged staged) ∧ ∀ j, j ≠ k → t.stream j = s.stream j)
      ∧ bitAt (t.spoolVal x.arg.consumer) 63 = true ∧ Reported t (0x656 + k % 2) 9 5 := by
  have honly := (s.setStream k (some (x.judged staged))).spoolPoison_onlySpool x.arg.consumer
  have hpois := (s.setStream k (some (x.judged staged))).spoolPoison_poisoned x.arg.consumer
  refine ⟨_, hexec, State.stream_judged ?_, ?_, State.report_latched (by omega) ..⟩
  · rw [(State.report_frame _ _ _ _ _ _ _).svc, honly]
  · rw [State.spoolVal_congr (State.report_frame _ _ _ _ _ _ _).spool]
    exact hpois

/-- INPUT_BATCH_ARRIVAL on a stream whose slot stands in sound memory (R338). -/
theorem inputBatchArrival_spec (h : s.stream k = some x) (hsize : 64 ≤ x.arg.slotSize) (hsound : soundMem s)
    (hclean : cleanRange s x.slotAt x.arg.slotSize) :
    let v := s.spoolVal x.arg.staging
    let here := x.seqNo % x.arg.slots
    let len := (s.word (x.headAt + 4)).toNat
    let judged (t : State) (staged : Nat) : Prop := t.stream k = some (x.judged staged) ∧ ∀ j, j ≠ k → t.stream j = s.stream j
    let refused (t : State) : Prop := bitAt (t.spoolVal x.arg.consumer) 63 = true ∧ Reported t (0x656 + k % 2) 9 5
    (bitAt v 63 = false → here ∉ x.headers → exec (.inputBatchArrival k) s = .next s)
    ∧ (bitAt v 63 = false → here ∈ x.headers → len ≤ x.arg.slotSize - 64 → fld v 0 63 < x.staged + 64 + len →
        exec (.inputBatchArrival k) s = .next s)
    ∧ (bitAt v 63 = false → here ∈ x.headers → x.arg.slotSize - 64 < len → fld v 0 63 < x.staged + 64 →
        exec (.inputBatchArrival k) s = .next s)
    ∧ (bitAt v 63 = false → here ∈ x.headers → len ≤ x.arg.slotSize - 64 → x.staged + 64 + len ≤ fld v 0 63 →
      (s.word x.headAt = BitVec.ofNat 32 x.seqNo → s.word (x.headAt + 8) = crc32c (s.bytes x.slotAt len) → Next (.inputBatchArrival k) s fun t =>
        judged t (x.staged + 64 + len) ∧ (0 < len → counted s t x.arg.consumer len)
          ∧ t = { s with svc := t.svc, spool := t.spool, spoolChg := t.spoolChg, waiters := t.waiters })
      ∧ (s.word x.headAt ≠ BitVec.ofNat 32 x.seqNo ∨ s.word (x.headAt + 8) ≠ crc32c (s.bytes x.slotAt len) → Next (.inputBatchArrival k) s fun t =>
        judged t (x.staged + 64 + len) ∧ refused t))
    ∧ (bitAt v 63 = false → here ∈ x.headers → x.arg.slotSize - 64 < len → x.staged + 64 ≤ fld v 0 63 →
        Next (.inputBatchArrival k) s fun t => judged t (fld v 0 63) ∧ refused t)
    ∧ (bitAt v 63 = true → Next (.inputBatchArrival k) s fun t => refused t) := by
  intro v here len judged refused
  have hseen := exec_inputBatchArrival_seen h hsize hsound hclean
  have hfit (hl : len ≤ x.arg.slotSize - 64) : x.fits s = true := decide_eq_true hl
  have hunfit (hl : x.arg.slotSize - 64 < len) : x.fits s = false := decide_eq_false (by omega)
  have hneed (hl : len ≤ x.arg.slotSize - 64) : x.needed s = x.staged + 64 + len := by rw [Stream.needed, if_pos (hfit hl)]
  have hneed' (hl : x.arg.slotSize - 64 < len) : x.needed s = x.staged + 64 := by
    rw [Stream.needed, hunfit hl, if_neg Bool.false_ne_true, Nat.add_zero]
  refine ⟨fun hv hno => exec_inputBatchArrival_unseen h hv hno, fun hv hin hl hlow => ?_, fun hv hin hl hlow => ?_, fun hv hin hl hall => ?_,
    fun hv hin hl hall => ?_, fun hv => ?_⟩
  · rw [hseen (.inr hin), if_pos ⟨hv, (hneed hl).symm ▸ hlow⟩]
  · rw [hseen (.inr hin), if_pos ⟨hv, (hneed' hl).symm ▸ hlow⟩]
  · have hcome : ¬ (bitAt v 63 = false ∧ fld v 0 63 < x.needed s) := fun hw => Nat.not_le.mpr hw.2 ((hneed hl).le.trans hall)
    have hstep := hseen (.inr hin)
    rw [if_neg hcome, if_pos (hfit hl), hneed hl] at hstep
    have hgood : x.good s = (s.word x.headAt == BitVec.ofNat 32 x.seqNo && s.word (x.headAt + 8) == crc32c (s.bytes x.slotAt len)) := by
      rw [Stream.good, hfit hl, show bitAt (s.spoolVal x.arg.staging) 63 = false from hv, if_pos rfl]
      rfl
    refine ⟨fun hseq hcrc => ?_, fun hbad => ?_⟩
    · rw [hgood, if_pos (by rw [hseq, hcrc]; simp)] at hstep
      exact next_batch_accepted hstep
    · rw [hgood, if_neg (by
        rw [Bool.and_eq_true, beq_iff_eq, beq_iff_eq]
        exact fun hok => hbad.elim (· hok.1) (· hok.2))] at hstep
      exact next_batch_refused hstep
  · have hcome : ¬ (bitAt v 63 = false ∧ fld v 0 63 < x.needed s) := by
      rintro ⟨-, hlow⟩
      rw [hneed' hl] at hlow
      omega
    have hstep := hseen (.inr hin)
    have hgood : x.good s = false := by simp only [Stream.good, hunfit hl, Bool.false_and]
    rw [if_neg hcome, hunfit hl, hgood, if_neg Bool.false_ne_true, if_neg Bool.false_ne_true] at hstep
    exact next_batch_refused hstep
  · have hstep := hseen (.inl hv)
    have hgood : x.good s = false := by
      simp only [Stream.good, show bitAt (s.spoolVal x.arg.staging) 63 = true from hv, Bool.not_true, Bool.and_false, Bool.false_and]
    rw [if_neg (fun hw => Bool.noConfusion (hv.symm.trans hw.1)), hgood, if_neg Bool.false_ne_true] at hstep
    obtain ⟨t, ht, -, href⟩ := next_batch_refused hstep
    exact ⟨t, ht, href⟩

/-! ## Credits (R338) -/

/-- Eight bytes at an offset that is a multiple of 8, as writes of whole bytes. -/
def creditWrites (off : Nat) (bs : List Byte) : List OffWrite :=
  (bs.zip (List.range 8)).map fun p => { off := off + p.2, mask := 0xFF, val := p.1 }

/-- Such writes are one run, and its packet carries the bytes as they are. -/
theorem runsOf_creditWrites {off : Nat} (h : off % 8 = 0) {bs : List Byte} (hlen : bs.length = 8) :
    runsOf (creditWrites off bs) [] = [creditWrites off bs] ∧ (runPacket (creditWrites off bs)).2.1 = bs := by
  match bs, hlen with
  | [b0, b1, b2, b3, b4, b5, b6, b7], _ =>
    have h256 (i : Nat) (hi : 0 < i) (hi' : i < 8) : (off + i) % 256 ≠ 0 := by omega
    have hwrites : creditWrites off [b0, b1, b2, b3, b4, b5, b6, b7] = [⟨off + 0, 0xFF, b0⟩, ⟨off + 1, 0xFF, b1⟩, ⟨off + 2, 0xFF, b2⟩,
      ⟨off + 3, 0xFF, b3⟩, ⟨off + 4, 0xFF, b4⟩, ⟨off + 5, 0xFF, b5⟩, ⟨off + 6, 0xFF, b6⟩, ⟨off + 7, 0xFF, b7⟩] := rfl
    have hlead : off % 4 = 0 := by omega
    rw [hwrites]
    refine ⟨?_, ?_⟩
    · simp [runsOf, Nat.add_assoc, h256]
    · simp [runPacket, hlead]

/-- The credits that a slot's data node has had. -/
def Stream.credits (x : Stream) : Nat :=
  ((List.range (x.freed + 1)).filter fun k => k % x.arg.slots % x.arg.nodes.length == x.freed % x.arg.slots % x.arg.nodes.length).length

theorem Stream.credits_of_one (hone : x.arg.nodes.length = 1) : x.credits = x.freed + 1 := by
  rw [Stream.credits, hone, List.filter_eq_self.mpr fun j _ => by simp only [Nat.mod_one, beq_self_eq_true], List.length_range]

theorem exec_inputSlotFreed_early (h : s.stream k = some x)
    (hv : bitAt (s.spoolVal x.arg.release) 63 = true ∨ fld (s.spoolVal x.arg.release) 0 63 ≤ x.released + x.freed) :
    exec (.inputSlotFreed k) s = .next s := by
  show execInputSlotFreed k s = _
  simp only [execInputSlotFreed, h]
  exact if_pos hv

theorem exec_inputSlotFreed_credit (h : s.stream k = some x) (hv : bitAt (s.spoolVal x.arg.release) 63 = false)
    (hmore : x.released + x.freed < fld (s.spoolVal x.arg.release) 0 63) {dev : BitVec 24} {lpn : BitVec 14} {off : BitVec 25}
    (hnode : x.arg.nodes[x.freed % x.arg.slots % x.arg.nodes.length]? = some (dev, lpn, off)) (hcut : s.isCut dev.toNat = false) :
    exec (.inputSlotFreed k) s = .next ((s.setStream k (some { x with freed := x.freed + 1 })).issueWrites dev.toNat lpn.toNat x.ctx
      (.gondola (6 + k % 2)) off.toNat (creditWrites off.toNat (bytesLE 8 x.credits))).1 := by
  have hgo : ¬ (spoolPoisoned (s.spoolVal x.arg.release) = true ∨ spoolCount (s.spoolVal x.arg.release) ≤ x.released + x.freed) := by
    rintro (hp | hle)
    · exact Bool.noConfusion (hv.symm.trans hp)
    · exact absurd hmore (Nat.not_lt.mpr hle)
  have hcut' : (s.setStream k (some { x with freed := x.freed + 1 })).isCut dev.toNat = false := hcut
  show execInputSlotFreed k s = _
  simp only [execInputSlotFreed, h]
  refine (if_neg hgo).trans ?_
  simp only [hnode, hcut', Bool.false_eq_true, if_false]
  rfl

/-- A credit is one WRITE of two words. -/
theorem State.issueWrites_credit {dst port off : Nat} (h : s.routePort s.deviceId dst = some port) (hoff : off % 8 = 0) (lpn ctx : Nat) (owner : Owner)
    (addr n : Nat) : ∃ q, (s.issueWrites dst lpn ctx owner addr (creditWrites off (bytesLE 8 n))).1 =
        { s with reqs := (s.issueWrites dst lpn ctx owner addr (creditWrites off (bytesLE 8 n))).1.reqs, fabOut := s.fabOut ++ [(port, q)]
                 links := (s.issueWrites dst lpn ctx owner addr (creditWrites off (bytesLE 8 n))).1.links }
      ∧ q.rsp = false ∧ q.ptype = 1 ∧ q.dst = BitVec.ofNat 24 dst ∧ q.len = 2 ∧ q.data = bytesLE 8 n := by
  obtain ⟨hruns, hdata⟩ := runsOf_creditWrites hoff (bytesLE_length 8 n)
  rw [State.issueWrites, hruns]
  simp only [List.foldl_cons, List.foldl_nil, State.issueRun, hdata]
  obtain ⟨t, q, ht, hframe, htype, hrsp, hdst, hlen, -, hq⟩ := State.issueReq_spec h 1 ctx owner addr ((bytesLE 8 n).length / 4) _ (bytesLE 8 n) .none
  rw [ht]
  rw [bytesLE_length] at hlen
  exact ⟨q, hframe, hrsp, htype, hdst, hlen, hq⟩

/-- INPUT_SLOT_FREED with a slot freed: a credit goes out. -/
theorem inputSlotFreed_credit (h : s.stream k = some x) (hv : bitAt (s.spoolVal x.arg.release) 63 = false)
    (hmore : x.released + x.freed < fld (s.spoolVal x.arg.release) 0 63) {dev : BitVec 24} {lpn : BitVec 14} {off : BitVec 25} {port : Nat}
    (hnode : x.arg.nodes[x.freed % x.arg.slots % x.arg.nodes.length]? = some (dev, lpn, off))
    (hroute : s.routePort s.deviceId dev.toNat = some port) (hoff : off.toNat % 8 = 0) (hcut : s.isCut dev.toNat = false) :
    Next (.inputSlotFreed k) s fun t =>
      t.stream k = some { x with freed := x.freed + 1 } ∧ (∀ j, j ≠ k → t.stream j = s.stream j)
        ∧ (∃ q, t.fabOut = s.fabOut ++ [(port, q)] ∧ q.rsp = false ∧ q.ptype = 1 ∧ q.dst = dev ∧ q.len = 2
          ∧ (x.freed < x.arg.slots → x.arg.nodes.length = 1 → q.data = bytesLE 8 (x.freed + 1)))
        ∧ t = { s with svc := t.svc, reqs := t.reqs, fabOut := t.fabOut, links := t.links } := by
  have hexec := exec_inputSlotFreed_credit h hv hmore hnode hcut
  obtain ⟨q, hframe, hrsp, htype, hdst, hlen, hdata⟩ := State.issueWrites_credit (s := s.setStream k (some { x with freed := x.freed + 1 }))
    (dst := dev.toNat) hroute hoff lpn.toNat x.ctx (.gondola (6 + k % 2)) off.toNat x.credits
  obtain ⟨hk, hj⟩ := State.stream_judged (s := s) (k := k) (v := some { x with freed := x.freed + 1 })
    (t := ((s.setStream k (some { x with freed := x.freed + 1 })).issueWrites dev.toNat lpn.toNat x.ctx
      (.gondola (6 + k % 2)) off.toNat (creditWrites off.toNat (bytesLE 8 x.credits))).1) (by rw [hframe])
  refine ⟨_, hexec, hk, hj, ⟨q, ?_, hrsp, htype, ?_, hlen, fun _ hone => ?_⟩, ?_⟩
  · rw [hframe]
    rfl
  · rw [hdst]
    exact BitVec.ofNat_toNat ..
  · rw [hdata, Stream.credits_of_one hone]
  · rw [hframe]
    rfl

end

end Sys2Proof.Machine
end

section
/-! # Background services (O56): checkpoints (R333, R334) -/
namespace Sys2Proof.Machine
open Sys2Proof.Claims

/-! ## Writing piece by piece -/

/-- What a write of bytes at an address leaves, wherever the blocks' boundaries lie. -/
structure State.Wrote (s t : State) (a : Nat) (bs : List Byte) : Prop where
  only : s.OnlyMem t
  bytes : ∀ j < bs.length, t.byte (a + j) = bs.getD j 0
  kept : bytesKept s t [(a, bs.length)]
  clean : ∀ b, s.poisoned b = false → t.poisoned b = false

theorem pieces_within {va n : Nat} {p : Nat × Nat} (h : p ∈ pieces va n) : va ≤ p.1 ∧ p.1 + p.2 ≤ va + n ∧ 0 < p.2 := by
  rw [pieces, List.mem_map] at h
  obtain ⟨b, hb, rfl⟩ := h
  rw [blocksOf] at hb
  split at hb
  · exact absurd hb List.not_mem_nil
  · next hn =>
    obtain ⟨i, hi, rfl⟩ := List.mem_map.mp hb
    have hlt := List.mem_range.mp hi
    refine ⟨le_max_left .., ?_, ?_⟩
    · dsimp only
      omega
    · dsimp only
      omega

theorem pieces_cover {va n z : Nat} (hlo : va ≤ z) (hhi : z < va + n) : ∃ p ∈ pieces va n, p.1 ≤ z ∧ z < p.1 + p.2 := by
  have hn : n ≠ 0 := by omega
  refine ⟨_, List.mem_map.mpr ⟨z / 64 * 64, ?_, rfl⟩, ?_, ?_⟩
  · rw [blocksOf, if_neg hn]
    refine List.mem_map.mpr ⟨z / 64 - va / 64, List.mem_range.mpr (by omega), by omega⟩
  · exact max_le hlo (by omega)
  · show z < max va (z / 64 * 64) + (min (va + n) (z / 64 * 64 + 64) - max va (z / 64 * 64))
    omega

section
variable {s : State}

theorem soundMem_of_onlyMem {t : State} (h : soundMem s) (ht : s.OnlyMem t) : soundMem t := by
  rw [State.OnlyMem] at ht
  rw [ht]
  exact h

/-- Bytes that begin at `o`, written piece by piece from `e` on. -/
def State.putPieces (s : State) (e o : Nat) (bs : List Byte) (ps : List (Nat × Nat)) : State :=
  forEach (fun u p => u.writeMem (e + p.1) ((bs.drop (p.1 - o)).take p.2)) s ps

theorem getD_piece {bs : List Byte} {p : Nat × Nat} {o j : Nat} (hj : j < p.2) :
    ((bs.drop (p.1 - o)).take p.2).getD j 0 = bs.getD (p.1 - o + j) 0 := by
  rw [List.getD_eq_getElem?_getD, List.getElem?_take_of_lt hj, List.getElem?_drop, List.getD_eq_getElem?_getD]

theorem State.putPieces_spec {e o : Nat} {bs : List Byte} (hin : e + o + bs.length ≤ 0x10800000000) (ps : List (Nat × Nat)) (s : State)
    (h : soundMem s) (hps : ∀ p ∈ ps, o ≤ p.1 ∧ p.1 + p.2 ≤ o + bs.length ∧ 0 < p.2) :
    s.OnlyMem (s.putPieces e o bs ps) ∧ (∀ b, s.poisoned b = false → (s.putPieces e o bs ps).poisoned b = false)
      ∧ (∀ z, (∀ p ∈ ps, z < e + p.1 ∨ e + p.1 + p.2 ≤ z) → (s.putPieces e o bs ps).byte z = s.byte z)
      ∧ ∀ z, (∃ p ∈ ps, e + p.1 ≤ z ∧ z < e + p.1 + p.2) → (s.putPieces e o bs ps).byte z = bs.getD (z - e - o) 0 := by
  induction ps generalizing s with
  | nil => exact ⟨rfl, fun _ hb => hb, fun _ _ => rfl, fun z ⟨p, hp, _⟩ => absurd hp List.not_mem_nil⟩
  | cons p ps ih =>
    obtain ⟨⟨hlo, hhi, hpos⟩, hps⟩ := List.forall_mem_cons.mp hps
    have hlen : ((bs.drop (p.1 - o)).take p.2).length = p.2 := by
      rw [List.length_take, List.length_drop]
      omega
    have hto : s.putPieces e o bs (p :: ps) = (s.writeMem (e + p.1) ((bs.drop (p.1 - o)).take p.2)).putPieces e o bs ps := rfl
    obtain ⟨honly, hbytes, hkept⟩ := State.writeMem_spec h (a := e + p.1) (bs := (bs.drop (p.1 - o)).take p.2) (by omega) (by omega)
    have hclean (b : Nat) (hb : s.poisoned b = false) := State.writeMem_clean h (a := e + p.1) (bs := (bs.drop (p.1 - o)).take p.2)
      (by omega) (by omega) hb
    rw [hlen] at hbytes hkept
    rw [hto]
    generalize s.writeMem (e + p.1) ((bs.drop (p.1 - o)).take p.2) = u at honly hbytes hkept hclean
    obtain ⟨honly', hclean', hkept', hbytes'⟩ := ih u (soundMem_of_onlyMem h honly) hps
    refine ⟨?_, fun b hb => hclean' b (hclean b hb), fun z hz => ?_, fun z hz => ?_⟩
    · rw [State.OnlyMem] at honly honly' ⊢
      rw [honly', honly]
    · obtain ⟨hout, hrest⟩ := List.forall_mem_cons.mp hz
      exact (hkept' z hrest).trans (hkept z (List.forall_mem_singleton.mpr hout))
    · by_cases hrest : ∃ q ∈ ps, e + q.1 ≤ z ∧ z < e + q.1 + q.2
      · exact hbytes' z hrest
      · obtain ⟨q, hq, hzlo, hzhi⟩ := hz
        have hq' : q = p := (List.mem_cons.mp hq).resolve_right fun hmem => hrest ⟨q, hmem, hzlo, hzhi⟩
        subst hq'
        have hout (r : Nat × Nat) (hr : r ∈ ps) : z < e + r.1 ∨ e + r.1 + r.2 ≤ z := by
          by_contra hno
          exact hrest ⟨r, hr, by omega, by omega⟩
        have hz : z = e + q.1 + (z - (e + q.1)) := by omega
        have hidx : q.1 - o + (z - (e + q.1)) = z - e - o := by omega
        rw [hkept' z hout, hz, hbytes _ (by omega), getD_piece (by omega), ← hz, hidx]

/-- A list of bytes written piece by piece stands in memory. -/
theorem State.putPieces_wrote (h : soundMem s) {e o : Nat} {bs : List Byte} (hin : e + o + bs.length ≤ 0x10800000000) :
    s.Wrote (s.putPieces e o bs (pieces o bs.length)) (e + o) bs := by
  obtain ⟨honly, hclean, hkept, hbytes⟩ := State.putPieces_spec hin (pieces o bs.length) s h fun p hp => pieces_within hp
  refine ⟨honly, fun j hj => ?_, fun z hz => hkept z fun p hp => ?_, hclean⟩
  · obtain ⟨p, hp, hlo, hhi⟩ := pieces_cover (va := o) (n := bs.length) (z := o + j) (by omega) (by omega)
    rw [hbytes (e + o + j) ⟨p, hp, by omega, by omega⟩]
    congr 1
    omega
  · have hout := hz _ (List.mem_singleton.mpr rfl)
    obtain ⟨hlo, hhi, -⟩ := pieces_within hp
    omega

/-! ## The slots of a checkpoint that is kept here -/

/-- Where a position of the two-slot region stands in this module's memory. -/
def State.slotBase (s : State) (c : Checkpoint) : Nat :=
  s.exportBase + (if s.gran then 2 ^ 25 else 2 ^ 21) * c.arg.slotLpn.toNat + c.arg.slotOff

/-- A fold that never loses its flag is the loop of its states. -/
theorem foldl_flagged {α : Type} {P : State → Prop} {f : State × Bool → α → State × Bool} {g : State → α → State} (xs : List α)
    (hf : ∀ u, P u → ∀ x ∈ xs, f (u, true) x = (g u x, true) ∧ P (g u x)) {s : State} (hs : P s) :
    xs.foldl f (s, true) = (forEach g s xs, true) := by
  induction xs generalizing s with
  | nil => rfl
  | cons x xs ih =>
    obtain ⟨heq, hP⟩ := hf s hs x (List.mem_cons_self ..)
    rw [List.foldl_cons, heq]
    exact ih (fun u hu y hy => hf u hu y (List.mem_cons_of_mem _ hy)) hP

/-- A write of a slot of this module's own. -/
theorem State.putSlot_here (h : soundMem s) {c : Checkpoint} (hbuddy : s.buddy c.arg = s.deviceId) {pos : Nat} {bs : List Byte}
    (hin : s.slotBase c + pos + bs.length ≤ 0x10800000000) (k : Nat) :
    ∃ t, s.putSlot k c pos bs = (t, true) ∧ s.Wrote t (s.slotBase c + pos) bs := by
  have hbase : s.slotBase c = s.exportBase + c.arg.slotLpn.toNat * (if s.gran then 2 ^ 25 else 2 ^ 21) + c.arg.slotOff := by
    rw [State.slotBase, Nat.mul_comm]
  generalize hg : (if s.gran then 2 ^ 25 else 2 ^ 21 : Nat) = g at hbase
  have hwrote := State.putPieces_wrote h (e := s.exportBase + c.arg.slotLpn.toNat * g) (o := c.arg.slotOff + pos) (bs := bs) (by omega)
  have haddr : s.exportBase + c.arg.slotLpn.toNat * g + (c.arg.slotOff + pos) = s.slotBase c + pos := by omega
  rw [haddr] at hwrote
  refine ⟨_, ?_, hwrote⟩
  rw [State.putSlot]
  simp only [hg]
  refine foldl_flagged (P := fun u => soundMem u ∧ u.setup = s.setup) _ (fun u hu p hp => ?_) ⟨h, rfl⟩
  obtain ⟨hsound, hsetup⟩ := hu
  obtain ⟨hlo, hhi, hpos⟩ := pieces_within hp
  have hdev : s.buddy c.arg = u.deviceId := hbuddy.trans (State.deviceId_congr hsetup).symm
  have hexport : u.exportBase = s.exportBase := by rw [State.exportBase, State.exportBase, State.reg_congr hsetup]
  have hlen : ((bs.drop (p.1 - (c.arg.slotOff + pos))).take p.2).length = p.2 := by
    rw [List.length_take, List.length_drop]
    omega
  obtain ⟨honly, -, -⟩ := State.writeMem_spec hsound (a := s.exportBase + c.arg.slotLpn.toNat * g + p.1)
    (bs := (bs.drop (p.1 - (c.arg.slotOff + pos))).take p.2) (by omega) (by omega)
  refine ⟨?_, soundMem_of_onlyMem hsound honly, ?_⟩
  · simp only [if_pos hdev, hexport]
  · rw [honly]
    exact hsetup

/-! ## The groups' steps and records -/

theorem State.groupSteps_of_clean (h : soundMem s) {gs : List Nat} (hclean : ∀ g ∈ gs, cleanRange s (s.groupAddr g) 128) :
    s.groupSteps gs = (s, gs.map fun g => some (s.word (s.groupAddr g + 4))) := by
  have hread (g : Nat) (hg : cleanRange s (s.groupAddr g) 128) :
      s.readEntry (s.groupAddr g) 2 = (s, some (s.words (s.groupAddr g) 2)) :=
    State.readEntry_of_intact h.1 h.2.1 (State.anyPoison_part hg.2.2 (le_refl _) (by omega))
  have hfold (gs : List Nat) (hgs : ∀ g ∈ gs, cleanRange s (s.groupAddr g) 128) (acc : List (Option Word)) :
      gs.foldl (fun (q : State × List (Option Word)) g =>
        let r := q.1.readEntry (q.1.groupAddr g) 2
        (r.1, q.2 ++ [r.2.map fun w => wordAt w 1])) (s, acc) = (s, acc ++ gs.map fun g => some (s.word (s.groupAddr g + 4))) := by
    induction gs generalizing acc with
    | nil => rw [List.foldl_nil, List.map_nil, List.append_nil]
    | cons g gs ih =>
      obtain ⟨hg, hrest⟩ := List.forall_mem_cons.mp hgs
      rw [List.foldl_cons]
      simp only [hread g hg, Option.map_some, s.wordAt_words _ (show 1 < 2 by decide), Nat.mul_one]
      rw [ih hrest, List.map_cons, List.append_assoc, List.singleton_append]
  exact hfold gs hclean []

/-- The records of the groups, one after the other. -/
def State.groupBytes (s : State) (gs : List Nat) : List Byte := gs.flatMap fun g => s.bytes (s.groupAddr g) 128

theorem State.length_groupBytes (gs : List Nat) : (s.groupBytes gs).length = 128 * gs.length := by
  induction gs with
  | nil => rfl
  | cons g gs ih =>
    rw [State.groupBytes] at ih ⊢
    rw [List.flatMap_cons, List.length_append, ih, Machine.length_bytes, List.length_cons]
    omega

/-- What a checkpoint without ranges saves. -/
theorem State.ckRead_of_clean (h : soundMem s) {c : Checkpoint} (hranges : c.arg.ranges = [])
    (hclean : ∀ g ∈ c.arg.groups, s.anyPoison (s.groupAddr g) 128 = false) : s.ckRead c = (s, some (s.groupBytes c.arg.groups)) := by
  have hfold (gs : List Nat) (hgs : ∀ g ∈ gs, s.anyPoison (s.groupAddr g) 128 = false) (acc : List Byte) :
      gs.foldl (fun (q : State × Option (List Byte)) g =>
        ((q.1.readMem (q.1.groupAddr g) 128).1, q.2.bind fun a => (q.1.readMem (q.1.groupAddr g) 128).2.map (a ++ ·))) (s, some acc)
        = (s, some (acc ++ s.groupBytes gs)) := by
    induction gs generalizing acc with
    | nil => rw [List.foldl_nil, State.groupBytes, List.flatMap_nil, List.append_nil]
    | cons g gs ih =>
      obtain ⟨hg, hrest⟩ := List.forall_mem_cons.mp hgs
      rw [List.foldl_cons]
      simp only [State.readMem_of_sound h hg, Option.map_some, Option.bind_some]
      rw [ih hrest, State.groupBytes, State.groupBytes, List.flatMap_cons, List.append_assoc]
  rw [State.ckRead, hranges]
  exact hfold c.arg.groups hclean []

/-! ## The steps of CHECKPOINT_FIRE -/

variable {ck : Nat} {c : Checkpoint}

theorem exec_checkpointFire_none (h : s.ckpt ck = none) : exec (.checkpointFire ck) s = .next s := by
  show execCheckpointFire ck s = _
  simp only [execCheckpointFire, h]

theorem exec_checkpointFire_rests (h : s.ckpt ck = some c) (hcopy : c.copying = none) (hfire : s.fires c.firing c.arg.trigId c.target = none) :
    exec (.checkpointFire ck) s = .next s := by
  show execCheckpointFire ck s = _
  simp only [execCheckpointFire, h, hcopy, hfire]

theorem exec_checkpointFire_fires (h : s.ckpt ck = some c) (hcopy : c.copying = none) {ch : Nat} {bad : Bool}
    (hfire : s.fires c.firing c.arg.trigId c.target = some (ch, bad)) :
    exec (.checkpointFire ck) s = .next (s.ckBegin ck c ch bad) := by
  show execCheckpointFire ck s = _
  simp only [execCheckpointFire, h, hcopy, hfire]

theorem exec_checkpointFire_waits (h : s.ckpt ck = some c) {x : CkCopy} (hcopy : c.copying = some x) (hwait : s.ckWaits ck = true) :
    exec (.checkpointFire ck) s = .next s := by
  show execCheckpointFire ck s = _
  simp only [execCheckpointFire, h, hcopy, hwait, if_true]

theorem exec_checkpointFire_landed (h : s.ckpt ck = some c) {x : CkCopy} (hcopy : c.copying = some x) (hwait : s.ckWaits ck = false) :
    exec (.checkpointFire ck) s = match x.torn with
      | none => .next (s.ckHeader ck c x)
      | some torn => .next (s.ckEnd ck c x torn) := by
  show execCheckpointFire ck s = _
  simp only [execCheckpointFire, h, hcopy, hwait, Bool.false_eq_true, if_false] <;> rfl

theorem State.ckpt_setCkpt (u : State) (v : Option Checkpoint) (j : Nat) :
    (u.setCkpt ck v).ckpt j = if j = ck then v else u.ckpt j := Sparse.get_set (fun _ => none) _ ck j v

theorem State.bytes_setCkpt (u : State) (v : Option Checkpoint) (a n : Nat) : (u.setCkpt ck v).bytes a n = u.bytes a n :=
  State.bytes_congr (s := u) (t := u.setCkpt ck v) (fun _ => State.byte_congr rfl rfl _) a n

theorem State.ckpt_congr {t u : State} (h : t.svc = u.svc) (j : Nat) : t.ckpt j = u.ckpt j := by
  rw [State.ckpt, State.ckpt, h]

/-- The checkpoint has gone on, and the others are as they were. -/
theorem State.ckpt_gone {u t : State} {v : Option Checkpoint} (hu : u.svc = s.svc) (h : t.svc = (u.setCkpt ck v).svc) :
    t.ckpt ck = v ∧ ∀ j, j ≠ ck → t.ckpt j = s.ckpt j := by
  refine ⟨?_, fun j hj => ?_⟩
  · rw [State.ckpt_congr h, State.ckpt_setCkpt, if_pos rfl]
  · rw [State.ckpt_congr h, State.ckpt_setCkpt, if_neg hj, State.ckpt_congr hu]

theorem frame_setCkpt {u : State} (hu : s.OnlySpool u) (ck : Nat) (v : Option Checkpoint) : u.setCkpt ck v = { s with
    svc := (u.setCkpt ck v).svc, spool := (u.setCkpt ck v).spool, spoolChg := (u.setCkpt ck v).spoolChg
    waiters := (u.setCkpt ck v).waiters } := by
  rw [hu]
  rfl

/-- What the checkpoint becomes when CP_DONE is poisoned. -/
theorem State.spoolPoison_setCkpt (s : State) (ck n : Nat) (v : Option Checkpoint) :
    let t := (s.spoolPoison n).setCkpt ck v
    (t.ckpt ck = v ∧ (∀ k, k ≠ ck → t.ckpt k = s.ckpt k)
      ∧ t = { s with svc := t.svc, spool := t.spool, spoolChg := t.spoolChg, waiters := t.waiters }) ∧ bitAt (t.spoolVal n) 63 = true := by
  have honly := s.spoolPoison_onlySpool n
  have hpois := s.spoolPoison_poisoned n
  intro t
  obtain ⟨hk, hj⟩ := State.ckpt_gone (s := s) (t := t) (u := s.spoolPoison n) (ck := ck) (v := v) (by rw [honly]) rfl
  refine ⟨⟨hk, hj, frame_setCkpt honly ck v⟩, hpois⟩

/-- What the checkpoint becomes when CP_DONE rises. -/
theorem State.spoolAdd_setCkpt (s : State) (ck n m : Nat) (v : Option Checkpoint) :
    let t := (s.spoolAdd n m).setCkpt ck v
    (t.ckpt ck = v ∧ (∀ k, k ≠ ck → t.ckpt k = s.ckpt k)
      ∧ t = { s with svc := t.svc, spool := t.spool, spoolChg := t.spoolChg, waiters := t.waiters }) ∧ counted s t n m := by
  have honly := s.spoolAdd_onlySpool n m
  intro t
  obtain ⟨hk, hj⟩ := State.ckpt_gone (s := s) (t := t) (u := s.spoolAdd n m) (ck := ck) (v := v) (by rw [honly]) rfl
  refine ⟨⟨hk, hj, frame_setCkpt honly ck v⟩, counted_spoolAdd s n m⟩

theorem State.anyPoison_mono {u : State} (hclean : ∀ b, s.poisoned b = false → u.poisoned b = false) {a n : Nat}
    (h : s.anyPoison a n = false) : u.anyPoison a n = false := by
  rw [State.anyPoison, List.any_eq_false] at h ⊢
  intro b hb
  rw [hclean b (Bool.eq_false_iff.mpr (h b hb))]
  exact Bool.false_ne_true

/-- Bytes apart from what has changed. -/
theorem State.bytes_kept {u : State} {rs : List (Nat × Nat)} (h : bytesKept s u rs) {a n : Nat} (hapart : ∀ p ∈ rs, apart (a, n) p) :
    u.bytes a n = s.bytes a n := by
  have hbyte (z : Nat) (hlo : a ≤ z) (hhi : z < a + n) : u.byte z = s.byte z := h z fun p hp => by
    have hp' := hapart p hp
    rw [apart] at hp'
    simp only [] at hp'
    omega
  clear hapart
  induction n generalizing a with
  | zero => rfl
  | succ n ih =>
    rw [State.bytes, State.bytes, hbyte a (le_refl _) (by omega), ih fun z hlo hhi => hbyte z (by omega) (by omega)]

/-! ## The firing -/

/-- The trigger has moved on. -/
def Checkpoint.fired (c : Checkpoint) (ch : Nat) : Checkpoint :=
  { c with firing := { change := ch, again := true }, target := c.target + c.arg.trigInc }

/-- The steps of the named groups. -/
def State.stepsOf (s : State) (gs : List Nat) : List Word := gs.map fun g => s.word (s.groupAddr g + 4)

theorem State.groupSteps_getD (h : soundMem s) {gs : List Nat} (hclean : ∀ g ∈ gs, cleanRange s (s.groupAddr g) 128) :
    (s.groupSteps gs).1 = s ∧ (s.groupSteps gs).2.map (fun w => w.getD 0) = s.stepsOf gs ∧ (s.groupSteps gs).2.any Option.isNone = false
      ∧ (gs ≠ [] → ((s.groupSteps gs).2.headD none).isNone = false) := by
  rw [State.groupSteps_of_clean h hclean]
  refine ⟨rfl, ?_, ?_, fun hne => ?_⟩
  · rw [List.map_map]
    rfl
  · rw [List.any_map]
    exact List.any_eq_false.mpr fun _ _ => Bool.false_ne_true
  · cases gs with
    | nil => exact absurd rfl hne
    | cons g gs => rfl

/-- A poisoned trigger copies nothing. -/
theorem State.ckBegin_bad (h : soundMem s) (hclean : ∀ g ∈ c.arg.groups, cleanRange s (s.groupAddr g) 128) (ch : Nat) :
    s.ckBegin ck c ch true = (s.spoolPoison c.arg.cpDone).setCkpt ck (some (c.fired ch)) := by
  obtain ⟨hstate, -, -, -⟩ := State.groupSteps_getD h hclean
  rw [State.ckBegin]
  simp only [Bool.true_or, if_true, hstate]
  rfl

theorem State.slotBase_congr {t : State} (h : t.setup = s.setup) : t.slotBase c = s.slotBase c := by
  have hgran : t.gran = s.gran := congrArg (bitAt · 0) (State.reg_congr h _)
  rw [State.slotBase, State.slotBase, State.exportBase, State.exportBase, State.reg_congr h, hgran]

theorem State.buddy_congr {t : State} (hsetup : t.setup = s.setup) (hsvc : t.svc = s.svc) (h : s.buddy c.arg = s.deviceId) :
    t.buddy c.arg = t.deviceId := by
  rw [State.deviceId_congr hsetup, ← h, State.buddy, State.buddy, hsvc]

/-- The copy of a firing: its header invalid, its contents in the slot. -/
theorem State.ckBegin_copies (h : soundMem s) (hbuddy : s.buddy c.arg = s.deviceId) (hne : c.arg.groups ≠ [])
    (hclean : ∀ g ∈ c.arg.groups, cleanRange s (s.groupAddr g) 128) (hranges : c.arg.ranges = []) {a : Nat}
    (ha : a = s.slotBase c + slotPos c ((s.stepsOf c.arg.groups).headD 0)) (hslot : a + 64 + 128 * c.arg.groups.length ≤ 0x10800000000)
    (hapart : ∀ g ∈ c.arg.groups, apart (s.groupAddr g, 128) (a, 64 + 128 * c.arg.groups.length)) (ch : Nat) :
    ∃ u, s.ckBegin ck c ch false = u.setCkpt ck (some { c.fired ch with copying := some {
        step := (s.stepsOf c.arg.groups).headD 0, len := 128 * c.arg.groups.length, crc := crc32c (s.groupBytes c.arg.groups)
        steps := s.stepsOf c.arg.groups, bad := false, torn := none } })
      ∧ s.OnlyMem u ∧ u.bytes a (64 + 128 * c.arg.groups.length) = List.replicate 64 0 ++ s.groupBytes c.arg.groups
      ∧ bytesKept s u [(a, 64 + 128 * c.arg.groups.length)] := by
  obtain ⟨hstate, hsteps, -, hhead⟩ := State.groupSteps_getD h hclean
  have hlen := s.length_groupBytes c.arg.groups
  obtain ⟨v, hput, hv⟩ := State.putSlot_here h (c := c.fired ch) hbuddy (pos := slotPos c ((s.stepsOf c.arg.groups).headD 0))
    (bs := List.replicate 64 0) (by rw [List.length_replicate]; have := ha ▸ hslot; exact (Nat.le_add_right _ _).trans this) ck
  have hzero : s.Wrote v a (List.replicate 64 0) := by
    rw [ha]
    exact hv
  obtain ⟨honly, hbytes, hkept, hcleared⟩ := hzero
  rw [List.length_replicate] at hbytes hkept
  have hvsetup : v.setup = s.setup := by rw [honly]
  have hvsvc : v.svc = s.svc := by rw [honly]
  have haddr (g : Nat) : v.groupAddr g = s.groupAddr g := by
    simp only [State.groupAddr, State.gtBase, State.tblBase, State.reg_congr hvsetup]
  have hvsound := soundMem_of_onlyMem h honly
  have hfar (g : Nat) (hg : g ∈ c.arg.groups) : apart (s.groupAddr g, 128) (a, 64 + 128 * c.arg.groups.length) := hapart g hg
  have hread := State.ckRead_of_clean hvsound (c := c.fired ch) hranges fun g hg => by
    rw [haddr]
    exact State.anyPoison_mono hcleared (hclean g hg).2.2
  have hsame : v.groupBytes c.arg.groups = s.groupBytes c.arg.groups := by
    refine List.flatMap_congr fun g hg => ?_
    rw [haddr]
    refine State.bytes_kept hkept fun p hp => ?_
    obtain rfl := List.mem_singleton.mp hp
    rcases hfar g hg with hbefore | hafter
    · exact .inl hbefore
    · exact .inr ((Nat.add_le_add_left (Nat.le_add_right 64 _) a).trans hafter)
  rw [show (c.fired ch).arg.groups = c.arg.groups from rfl, hsame] at hread
  have hvbase : v.slotBase (c.fired ch) = s.slotBase c := State.slotBase_congr hvsetup
  have hnext : v.slotBase (c.fired ch) + (slotPos c ((s.stepsOf c.arg.groups).headD 0) + 64) = a + 64 := by
    rw [hvbase, ha, Nat.add_assoc]
  obtain ⟨u, hput', hu⟩ := State.putSlot_here hvsound (c := c.fired ch) (State.buddy_congr hvsetup hvsvc hbuddy)
    (pos := slotPos c ((s.stepsOf c.arg.groups).headD 0) + 64) (bs := s.groupBytes c.arg.groups) (by rw [hnext, hlen]; exact hslot) ck
  rw [hnext] at hu
  obtain ⟨honly', hbytes', hkept', -⟩ := hu
  rw [hlen] at hbytes' hkept'
  refine ⟨u, ?_, ?_, ?_, fun z hz => ?_⟩
  · rw [State.ckBegin]
    simp only [hhead hne, Bool.or_false, Bool.false_eq_true, if_false, hsteps, hstate]
    rw [show slotPos { c with firing := { change := ch, again := true }, target := c.target + c.arg.trigInc } = slotPos c from rfl]
    rw [show ({ c with firing := { change := ch, again := true }, target := c.target + c.arg.trigInc } : Checkpoint) = c.fired ch from rfl]
    simp only [hput, hread, Option.getD_some, hput', hlen]
    rfl
  · rw [State.OnlyMem] at honly honly' ⊢
    rw [honly', honly]
  · have htotal : (List.replicate 64 0 ++ s.groupBytes c.arg.groups).length = 64 + 128 * c.arg.groups.length := by
      rw [List.length_append, List.length_replicate, hlen]
    rw [← htotal]
    refine State.bytes_of_byte fun i hi => ?_
    rw [htotal] at hi
    by_cases hlow : i < 64
    · rw [List.getD_append _ _ _ _ (by rw [List.length_replicate]; exact hlow), ← hbytes i hlow]
      exact hkept' _ fun p hp => by
        obtain rfl := List.mem_singleton.mp hp
        exact .inl (by show a + i < a + 64; omega)
    · rw [List.getD_append_right _ _ _ _ (by rw [List.length_replicate]; omega), List.length_replicate, ← hbytes' (i - 64) (by omega)]
      congr 1
      omega
  · obtain hout := hz _ (List.mem_singleton.mpr rfl)
    refine (hkept' z fun p hp => ?_).trans (hkept z fun p hp => ?_)
    all_goals
      obtain rfl := List.mem_singleton.mp hp
      simp only [] at hout ⊢
      omega

/-! ## Reports write only the source table (R389) -/

theorem State.byte_srcPut {src z : Nat} (hsrc : src < 4096) (hz : z < 0x40000 + s.errBase ∨ 0x50000 + s.errBase ≤ z) (n l : Nat) :
    (s.srcPut src n l).byte z = s.byte z := by
  have hput (u : State) (i : Nat) (w : Word) (hi : i < 3) (hu : u.errBase = s.errBase) : (u.putWord (u.srcWord src i) w).byte z = u.byte z := by
    refine State.byte_putWord_outside u w ?_
    rw [State.srcWord, hu]
    omega
  have hbase (u : State) (a : Nat) (w : Word) : (u.putWord a w).errBase = u.errBase := rfl
  unfold State.srcPut
  simp only []
  have hfirst := hput s 0 (satAdd32 (s.word (s.srcWord src 0)) n) (by decide) rfl
  have hbase₁ := hbase s (s.srcWord src 0) (satAdd32 (s.word (s.srcWord src 0)) n)
  generalize s.putWord (s.srcWord src 0) (satAdd32 (s.word (s.srcWord src 0)) n) = u at hfirst hbase₁ ⊢
  split
  · exact hfirst
  · have hsecond := hput u 1 (satAdd32 (u.word (u.srcWord src 1)) l) (by decide) hbase₁
    have hbase₂ := (hbase u (u.srcWord src 1) (satAdd32 (u.word (u.srcWord src 1)) l)).trans hbase₁
    generalize u.putWord (u.srcWord src 1) (satAdd32 (u.word (u.srcWord src 1)) l) = v at hsecond hbase₂ ⊢
    rw [hput v 2 _ (by decide) hbase₂, hsecond, hfirst]

theorem State.byte_report (h : soundMem s) {src z : Nat} (hsrc : src < 4096) (hz : z < 0x40000 + s.errBase ∨ 0x50000 + s.errBase ≤ z)
    (cls cause : Nat) (ctx : Option Nat) (unit : Nat) (d : List Word) : (s.report src cls cause ctx unit d).byte z = s.byte z := by
  have hadd (u : State) (hu : soundMem u ∧ u.errBase = s.errBase ∧ u.byte z = s.byte z) (n l : Nat) : (u.srcAdd src n l).byte z = s.byte z := by
    obtain ⟨hsound, hbase, hbyte⟩ := hu
    rw [State.srcAdd, State.crcCheckBy_of_sound _ hsound, State.byte_srcPut hsrc (by rw [hbase]; exact hz), hbyte]
  have hcount (u : State) (hu : soundMem u ∧ u.errBase = s.errBase ∧ u.byte z = s.byte z) (n l : Nat) :
      (State.countBy State.srcAdd u src n l).byte z = s.byte z := by
    have hlost : ∀ v, v = (if l = 0 then u else u.setKreg 0x20 (satAdd32 (u.kreg 0x20) l)) →
        soundMem v ∧ v.errBase = s.errBase ∧ v.byte z = s.byte z := by
      rintro v rfl
      split
      · exact hu
      · obtain ⟨hsound, hbase, hbyte⟩ := hu
        refine ⟨hsound, Eq.trans ?_ hbase, hbyte⟩
        rw [State.errBase, State.kreg_setKreg, if_neg (by decide), ← State.errBase]
    unfold State.countBy
    simp only []
    have hv := hlost _ rfl
    generalize (if l = 0 then u else u.setKreg 0x20 (satAdd32 (u.kreg 0x20) l)) = v at hv ⊢
    split
    · exact hadd v hv n l
    · exact hv.2.2
  rw [State.report, State.latchReport, State.latchBy]
  split
  all_goals exact hcount (s.setLatch src _) ⟨h, rfl, rfl⟩ _ _

/-! ## The header -/

theorem find_moved (gs : List Nat) (l l' : List Word) (hl : gs.length = l.length) (hl' : gs.length = l'.length) :
    ((gs.zip (l.zip l')).find? fun p => p.2.1 != p.2.2).isSome = decide (l ≠ l') := by
  induction gs generalizing l l' with
  | nil =>
    obtain rfl := List.length_eq_zero_iff.mp hl.symm
    obtain rfl := List.length_eq_zero_iff.mp hl'.symm
    rfl
  | cons g gs ih =>
    match l, l', hl, hl' with
    | w :: ws, w' :: ws', hl, hl' =>
      rw [List.zip_cons_cons, List.zip_cons_cons, List.find?_cons]
      by_cases hw : w = w'
      · subst hw
        simp only [bne_self_eq_false]
        rw [ih ws ws' (by simpa using hl) (by simpa using hl')]
        simp only [ne_eq, List.cons.injEq, true_and]
      · have hne : (w != w') = true := bne_iff_ne.mpr hw
        simp only [hne, Option.isSome_some, ne_eq, List.cons.injEq, hw, false_and, not_false_eq_true, decide_true]

/-- The header's words (log 64). -/
def headerWords (x : CkCopy) (torn : Bool) : List Word :=
  [x.step, BitVec.ofNat 32 x.len, BitVec.ofNat 32 (x.len / 2 ^ 32), x.crc, if torn then 2 else 1] ++ List.replicate 11 0

theorem State.length_stepsOf (gs : List Nat) : (s.stepsOf gs).length = gs.length := List.length_map ..

/-- The header goes out, TORN where a group has advanced, which is then recorded. -/
theorem State.ckHeader_writes (h : soundMem s) (hbuddy : s.buddy c.arg = s.deviceId) (hcut : s.isCut s.deviceId = false)
    (hclean : ∀ g ∈ c.arg.groups, cleanRange s (s.groupAddr g) 128) {x : CkCopy} (hbad : x.bad = false)
    (hlen : x.steps.length = c.arg.groups.length) (hslot : s.slotBase c + slotPos c x.step + 64 ≤ 0x10800000000) :
    ∃ u d, s.Wrote u (s.slotBase c + slotPos c x.step) (bytesOfWords (headerWords x (decide (x.steps ≠ s.stepsOf c.arg.groups))))
      ∧ s.ckHeader ck c x = (if x.steps ≠ s.stepsOf c.arg.groups then u.report 0x653 9 4 none 0xFFFF d else u).setCkpt ck
          (some { c with copying := some { x with torn := some (decide (x.steps ≠ s.stepsOf c.arg.groups)) } }) := by
  obtain ⟨hstate, hsteps, hany, -⟩ := State.groupSteps_getD h hclean
  have hmoved := find_moved c.arg.groups x.steps (s.stepsOf c.arg.groups) hlen.symm (State.length_stepsOf _).symm
  have hbytes : (bytesOfWords (headerWords x (decide (x.steps ≠ s.stepsOf c.arg.groups)))).length = 64 := bytesOfWords_length _
  obtain ⟨u, hput, hu⟩ := State.putSlot_here h hbuddy (pos := slotPos c x.step)
    (bs := bytesOfWords (headerWords x (decide (x.steps ≠ s.stepsOf c.arg.groups)))) (by rw [hbytes]; exact hslot) ck
  have hcut' : s.isCut (s.buddy c.arg) = false := by rw [hbuddy, hcut]
  have hhead (torn : Bool) : slotHeader x torn = bytesOfWords (headerWords x torn) := rfl
  rw [State.ckHeader]
  simp only [hstate, hsteps, hany, hbad, hcut', Bool.or_false, Bool.false_eq_true, if_false, hhead]
  generalize hfind : (c.arg.groups.zip (x.steps.zip (s.stepsOf c.arg.groups))).find? (fun p => p.2.1 != p.2.2) = moved at hmoved
  rw [hmoved, hput]
  match moved with
  | none =>
    have hsame : ¬ x.steps ≠ s.stepsOf c.arg.groups := of_decide_eq_false hmoved.symm
    refine ⟨u, [], hu, ?_⟩
    rw [if_neg hsame]
    rfl
  | some (i, a, b) =>
    have hdiff : x.steps ≠ s.stepsOf c.arg.groups := of_decide_eq_true hmoved.symm
    refine ⟨u, [BitVec.ofNat 32 i, a, b], hu, ?_⟩
    rw [if_pos hdiff]
    rfl

theorem State.Wrote.words {u : State} {a : Nat} {x : CkCopy} {torn : Bool} (h : s.Wrote u a (bytesOfWords (headerWords x torn))) :
    u.words a 16 = headerWords x torn :=
  State.words_of_byte (ws := headerWords x torn) fun j hj => h.bytes j (by rw [bytesOfWords_length]; exact hj)

section
variable {x : CkCopy} (h : soundMem s) (hbuddy : s.buddy c.arg = s.deviceId) (hcut : s.isCut s.deviceId = false)
  (hclean : ∀ g ∈ c.arg.groups, cleanRange s (s.groupAddr g) 128) (hck : s.ckpt ck = some c) (hcopy : c.copying = some x)
  (hwait : s.ckWaits ck = false)

include h hbuddy hcut hclean hck hcopy hwait

/-- The contents have landed, and no group has advanced. -/
theorem next_header_whole (htorn : x.torn = none) (hbad : x.bad = false) (hslot : s.slotBase c + slotPos c x.step + 64 ≤ 0x10800000000)
    (hsteps : x.steps = s.stepsOf c.arg.groups) : Next (.checkpointFire ck) s fun t =>
      (t.words (s.slotBase c + slotPos c x.step) 16 = headerWords x false
        ∧ t.ckpt ck = some { c with copying := some { x with torn := some false } } ∧ t.spool = s.spool)
      ∧ bytesKept s t [(s.slotBase c + slotPos c x.step, 64)] := by
  have hexec := exec_checkpointFire_landed hck hcopy hwait
  rw [htorn] at hexec
  have hlen : x.steps.length = c.arg.groups.length := by rw [hsteps, State.length_stepsOf]
  obtain ⟨u, d, hu, hto⟩ := State.ckHeader_writes h hbuddy hcut hclean hbad hlen hslot (ck := ck)
  have hsame : ¬ x.steps ≠ s.stepsOf c.arg.groups := not_not.mpr hsteps
  rw [decide_eq_false hsame] at hu hto
  rw [if_neg hsame] at hto
  have hsvc : u.svc = s.svc := by rw [hu.only]
  have hspool : u.spool = s.spool := by rw [hu.only]
  have hkept := hu.kept
  rw [show (bytesOfWords (headerWords x false)).length = 64 from bytesOfWords_length _] at hkept
  exact ⟨_, hexec.trans (congrArg Host.Outcome.next hto), ⟨hu.words, (State.ckpt_gone hsvc rfl).1, hspool⟩, hkept⟩

/-- The contents have landed, and a group has advanced. -/
theorem next_header_torn (htorn : x.torn = none) (hbad : x.bad = false) (hslot : s.slotBase c + slotPos c x.step + 64 ≤ 0x10800000000)
    (hlen : x.steps.length = c.arg.groups.length) (hsteps : x.steps ≠ s.stepsOf c.arg.groups) : Next (.checkpointFire ck) s fun t =>
      ((apart (s.slotBase c + slotPos c x.step, 64) (0x40000 + s.errBase, 0x10000) →
          t.words (s.slotBase c + slotPos c x.step) 16 = headerWords x true)
        ∧ t.ckpt ck = some { c with copying := some { x with torn := some true } } ∧ t.spool = s.spool)
      ∧ Reported t 0x653 9 4 := by
  have hexec := exec_checkpointFire_landed hck hcopy hwait
  rw [htorn] at hexec
  obtain ⟨u, d, hu, hto⟩ := State.ckHeader_writes h hbuddy hcut hclean hbad hlen hslot (ck := ck)
  rw [decide_eq_true hsteps] at hu hto
  rw [if_pos hsteps] at hto
  have hframe := u.report_frame 0x653 9 4 none 0xFFFF d
  have hsvc : (u.report 0x653 9 4 none 0xFFFF d).svc = s.svc := hframe.svc.trans (by rw [hu.only])
  have hspool : (u.report 0x653 9 4 none 0xFFFF d).spool = s.spool := hframe.spool.trans (by rw [hu.only])
  have hbase : u.errBase = s.errBase := by rw [hu.only]; rfl
  refine ⟨_, hexec.trans (congrArg Host.Outcome.next hto), ⟨fun hap => ?_, (State.ckpt_gone hsvc rfl).1, hspool⟩,
    State.report_latched (by decide) ..⟩
  rw [← hu.words]
  refine congrArg (wordsLE 16) (State.bytes_kept (rs := [(0x40000 + s.errBase, 0x10000)]) (fun z hz => ?_) fun p hp => ?_)
  · have hout := hz _ (List.mem_singleton.mpr rfl)
    exact State.byte_report (soundMem_of_onlyMem h hu.only) (by decide) (by rw [hbase]; simp only [] at hout; omega) ..
  · obtain rfl := List.mem_singleton.mp hp
    exact hap

/-- The end of a copy. -/
theorem next_copy_ends :
    let finished (t : State) : Prop := t.ckpt ck = some { c with copying := none } ∧ (∀ k, k ≠ ck → t.ckpt k = s.ckpt k)
      ∧ t = { s with svc := t.svc, spool := t.spool, spoolChg := t.spoolChg, waiters := t.waiters }
    (x.bad = true → Next (.checkpointFire ck) s fun t => finished t ∧ bitAt (t.spoolVal c.arg.cpDone) 63 = true)
    ∧ (x.torn = some true → Next (.checkpointFire ck) s fun t => finished t ∧ bitAt (t.spoolVal c.arg.cpDone) 63 = true)
    ∧ (x.torn = some false → x.bad = false → Next (.checkpointFire ck) s fun t => finished t ∧ counted s t c.arg.cpDone 64) := by
  intro finished
  have hexec := exec_checkpointFire_landed hck hcopy hwait
  obtain ⟨hstate, -, -, -⟩ := State.groupSteps_getD h hclean
  have hend (torn : Bool) (hbad : torn = true ∨ x.bad = true) :
      s.ckEnd ck c x torn = (s.spoolPoison c.arg.cpDone).setCkpt ck (some { c with copying := none }) := by
    rw [State.ckEnd, if_pos]
    rcases hbad with hb | hb
    · simp only [hb, Bool.true_or]
    · simp only [hb, Bool.or_true, Bool.true_or]
  have hcut' : s.isCut (s.buddy c.arg) = false := by rw [hbuddy, hcut]
  refine ⟨fun hbad => ?_, fun htorn => ?_, fun htorn hbad => ?_⟩
  · have hto : exec (.checkpointFire ck) s = .next ((s.spoolPoison c.arg.cpDone).setCkpt ck (some { c with copying := none })) := by
      rw [hexec]
      cases htorn : x.torn with
      | none =>
        simp only [State.ckHeader, hbad, Bool.true_or, if_true, hstate]
      | some torn => exact congrArg Host.Outcome.next (hend torn (.inr hbad))
    exact ⟨_, hto, State.spoolPoison_setCkpt s ck _ _⟩
  · rw [htorn] at hexec
    exact ⟨_, hexec.trans (congrArg Host.Outcome.next (hend true (.inl rfl))), State.spoolPoison_setCkpt s ck _ _⟩
  · rw [htorn] at hexec
    have hto : s.ckEnd ck c x false = (s.spoolAdd c.arg.cpDone 64).setCkpt ck (some { c with copying := none }) := by
      simp only [State.ckEnd, hbad, hcut', Bool.or_false, Bool.false_eq_true, if_false]
    exact ⟨_, hexec.trans (congrArg Host.Outcome.next hto), State.spoolAdd_setCkpt s ck _ _ _⟩

end

end

/-- CHECKPOINT_FIRE (R333, R334). -/
theorem checkpointing (s : State) : Checkpointing s := by
  refine ⟨fun ck hnone => exec_checkpointFire_none hnone, fun ck c hck hbuddy hcut hsound hne hclean => ?_⟩
  intro slot n save steps
  have hslot (step : Word) : slot step = s.slotBase c + slotPos c step := rfl
  refine ⟨fun hcopy hfire => exec_checkpointFire_rests hck hcopy hfire, fun ch bad hcopy hfire => ⟨fun hgood hranges hslotclean hapart => ?_,
    fun hbad => ?_⟩, fun x hcopy hwait htorn hgood hlen => ?_, fun x hcopy hwait => exec_checkpointFire_waits hck hcopy hwait,
    fun x hcopy hwait => next_copy_ends hsound hbuddy hcut hclean hck hcopy hwait⟩
  · subst hgood
    obtain ⟨u, hto, honly, hbytes, hkept⟩ := State.ckBegin_copies (ck := ck) hsound hbuddy hne hclean hranges (hslot _)
      (by have := hslotclean.1; rw [← Nat.add_assoc] at this; exact this) hapart ch
    have hsvc : u.svc = s.svc := by rw [honly]
    obtain ⟨hk, hj⟩ := State.ckpt_gone (s := s) (ck := ck) (u := u) hsvc rfl
    refine ⟨_, (exec_checkpointFire_fires hck hcopy hfire).trans (congrArg Host.Outcome.next hto), ?_, hkept, hk, hj, ?_⟩
    · rw [State.bytes_setCkpt]
      exact hbytes
    · rw [honly]
      rfl
  · subst hbad
    obtain ⟨⟨hk, hj, hframe⟩, hpois⟩ := State.spoolPoison_setCkpt s ck c.arg.cpDone (some (c.fired ch))
    exact ⟨_, (exec_checkpointFire_fires hck hcopy hfire).trans (congrArg Host.Outcome.next (State.ckBegin_bad hsound hclean ch)), hk, hj, hpois,
      hframe⟩
  · intro a hslotclean ended
    have hin := hslotclean.1
    refine ⟨fun hsteps => ?_, fun hsteps => ?_⟩
    · obtain ⟨t, hexec, ⟨hwords, hc, hspool⟩, hkept⟩ := next_header_whole hsound hbuddy hcut hclean hck hcopy hwait htorn hgood hin hsteps
      exact ⟨t, hexec, ⟨fun _ => hwords, hc, hspool⟩, hkept⟩
    · exact next_header_torn hsound hbuddy hcut hclean hck hcopy hwait htorn hgood hin hlen hsteps

end Sys2Proof.Machine
end

section
/-! # Background services (O56): recovery begins (R336, stages 1 to 3) -/
namespace Sys2Proof.Machine
open Sys2Proof.Claims

/-! ## Stopping rings -/

/-- Each of these rings is STOPPED, or goes on to it where descriptors are in flight; the other rings are as they were. -/
structure State.RingsStopped (s t : State) (rs : List Nat) : Prop where
  frame : t = { s with setup := t.setup, rings := t.rings, power := t.power }
  inflight : ∀ q, (t.ring q).inflight = (s.ring q).inflight
  idle : ∀ r ∈ rs, (s.ring r).inflight = 0 → t.ringState r = 0
  busy : ∀ r ∈ rs, (s.ring r).inflight ≠ 0 → t.ringState r = s.ringState r ∧ (s.ringState r ≠ 0 → (t.ring r).stopping = true)
  others : ∀ r, r ∉ rs → t.ring r = s.ring r ∧ (r < 128 → t.ringState r = s.ringState r)
  gondola : ∀ o, offGond ≤ o → t.reg o = s.reg o

section
variable {s t u : State} {r : Nat} {rs : List Nat}

theorem State.RingsStopped.refl (s : State) : s.RingsStopped s [] :=
  ⟨rfl, fun _ => rfl, fun _ h => absurd h List.not_mem_nil, fun _ h => absurd h List.not_mem_nil, fun _ _ => ⟨rfl, fun _ => rfl⟩, fun _ _ => rfl⟩

theorem State.RingsStopped.cons (hr : r < 128) (hrs : ∀ q ∈ rs, q < 128) (h : s.RingsStopped u [r]) (h' : u.RingsStopped t rs) :
    s.RingsStopped t (r :: rs) := by
  have hstate (q : Nat) (hq : q < 128) (hin : (s.ring q).inflight ≠ 0) : u.ringState q = s.ringState q := by
    by_cases hqr : q = r
    · subst hqr
      exact (h.busy q (List.mem_singleton.mpr rfl) hin).1
    · exact (h.others q fun hm => hqr (List.mem_singleton.mp hm)).2 hq
  refine ⟨?_, fun q => (h'.inflight q).trans (h.inflight q), fun q hq hin => ?_, fun q hq hin => ?_, fun q hq => ?_,
    fun o ho => (h'.gondola o ho).trans (h.gondola o ho)⟩
  · rw [h'.frame, h.frame]
  · by_cases hmem : q ∈ rs
    · exact h'.idle q hmem ((h.inflight q).trans hin)
    · obtain rfl := (List.mem_cons.mp hq).resolve_right hmem
      exact ((h'.others q hmem).2 hr).trans (h.idle q (List.mem_singleton.mpr rfl) hin)
  · by_cases hmem : q ∈ rs
    · obtain ⟨hsame, hstop⟩ := h'.busy q hmem fun h0 => hin ((h.inflight q).symm.trans h0)
      have hq' := hstate q (hrs q hmem) hin
      exact ⟨hsame.trans hq', fun hne => hstop (by rw [hq']; exact hne)⟩
    · obtain rfl := (List.mem_cons.mp hq).resolve_right hmem
      obtain ⟨hring, hst⟩ := h'.others q hmem
      obtain ⟨hsame, hstop⟩ := h.busy q (List.mem_singleton.mpr rfl) hin
      exact ⟨(hst hr).trans hsame, fun hne => by rw [hring]; exact hstop hne⟩
  · obtain ⟨hne, hnot⟩ := not_or.mp (mt List.mem_cons.mpr hq)
    obtain ⟨hring, hst⟩ := h'.others q hnot
    obtain ⟨hring', hst'⟩ := h.others q fun hm => hne (List.mem_singleton.mp hm)
    exact ⟨hring.trans hring', fun hlt => (hst hlt).trans (hst' hlt)⟩

theorem State.ringStop_stopped (h : s.ringState r = 0) : s.RingsStopped (s.ringStop r) [r] := by
  have hsame : s.ringStop r = s := if_pos h
  rw [hsame]
  refine ⟨rfl, fun _ => rfl, fun q hq _ => ?_, fun q hq _ => ⟨rfl, fun hne => ?_⟩, fun _ _ => ⟨rfl, fun _ => rfl⟩, fun _ _ => rfl⟩
  · obtain rfl := List.mem_singleton.mp hq
    exact h
  · obtain rfl := List.mem_singleton.mp hq
    exact absurd h hne

theorem State.ringStop_busy (hstate : s.ringState r ≠ 0) (hin : (s.ring r).inflight ≠ 0) : s.RingsStopped (s.ringStop r) [r] := by
  have hring := State.ring_setRing_same s r fun x => { x with stopping := true }
  have hbusy : s.ringStop r = s.setRing r fun x => { x with stopping := true } := by
    rw [State.ringStop, if_neg hstate, State.quiet, if_pos]
    rw [hring]
    exact hin
  rw [hbusy]
  have hother (q : Nat) (hq : q ≠ r) := State.ring_setRing_other s hq fun x => { x with stopping := true }
  refine ⟨rfl, fun q => ?_, fun q hq h0 => ?_, fun q hq _ => ⟨rfl, fun _ => ?_⟩, fun q hq => ⟨hother q ?_, fun _ => rfl⟩, fun _ _ => rfl⟩
  · by_cases hq : q = r
    · rw [hq, hring]
      rfl
    · rw [hother q hq]
  · obtain rfl := List.mem_singleton.mp hq
    exact absurd h0 hin
  · obtain rfl := List.mem_singleton.mp hq
    rw [hring]
  · exact fun h => hq (List.mem_singleton.mpr h)

theorem State.inflight_setRing {f : Ring → Ring} (hf : ∀ x, (f x).inflight = x.inflight) : ((s.setRing r f).ring r).inflight = (s.ring r).inflight := by
  rw [State.ring_setRing_same]
  exact hf _

theorem State.ringStop_quiet (hr : r < 128) (hstate : s.ringState r ≠ 0) (hin : (s.ring r).inflight = 0) : s.RingsStopped (s.ringStop r) [r] := by
  rw [State.ringStop_idle hstate hin]
  have hcount := (State.inflight_setRing (s := s.setRing r fun x => { x with stopping := true }) (r := r)
    (f := fun x => { x with stopping := false, coll := false, waiting := none }) fun _ => rfl).trans (State.inflight_setRing fun _ => rfl)
  have hother (q : Nat) (hq : q ≠ r) := (State.ring_setRing_other (s.setRing r fun x => { x with stopping := true }) hq fun x =>
    { x with stopping := false, coll := false, waiting := none }).trans (State.ring_setRing_other s hq _)
  have hu : (s.setRing r fun x => { x with stopping := true }).setRing r (fun x => { x with stopping := false, coll := false, waiting := none }) =
    { s with rings := ((s.setRing r fun x => { x with stopping := true }).setRing r fun x =>
      { x with stopping := false, coll := false, waiting := none }).rings } := rfl
  generalize (s.setRing r fun x => { x with stopping := true }).setRing r (fun x => { x with stopping := false, coll := false, waiting := none }) = u
    at hcount hother hu
  have hsetup : u.setup = s.setup := by rw [hu]
  have hstate' := State.ringState_setRingState u r 0
  have hregs := State.reg_setRingState u r 0
  have hv : u.OnlyRegs (u.setRingState r 0) := State.onlyRegs_setRegFld ..
  generalize u.setRingState r 0 = v at hstate' hregs hv
  obtain ⟨ht, hkept⟩ := v.collChanged_capOnly
  generalize v.collChanged = t at ht hkept
  have hrings : t.rings = u.rings := by rw [ht, hv]
  have hlow (q : Nat) (hq : q < 128) : t.ringState q = v.ringState q := by
    rw [State.ringState, hkept _ (by simp [offRing_eq]; omega), State.ringState]
  have hv' (o : Nat) (ho : o ≠ offRing r + 0x18) : v.reg o = s.reg o := by
    rw [hregs, if_neg ho, State.reg_congr hsetup]
  refine ⟨?_, fun q => ?_, fun q hq _ => ?_, fun q hq hne => ?_, fun q hq => ?_, fun o ho => ?_⟩
  · rw [ht, hv, hu]
  · rw [State.ring_congr hrings]
    by_cases hq : q = r
    · rw [hq]
      exact hcount
    · rw [hother q hq]
  · obtain rfl := List.mem_singleton.mp hq
    exact (hlow q hr).trans hstate'
  · obtain rfl := List.mem_singleton.mp hq
    exact absurd hin hne
  · have hne : q ≠ r := fun h => hq (List.mem_singleton.mpr h)
    refine ⟨(State.ring_congr hrings q).trans (hother q hne), fun hlt => (hlow q hlt).trans ?_⟩
    rw [State.ringState, hv' _ (by rw [offRing_eq, offRing_eq]; omega), State.ringState]
  · have hbig : 0x1600000 ≤ o := ho
    rw [hkept o (by simp; omega), hv' o (by rw [offRing_eq]; omega)]

theorem State.ringStop_spec (hr : r < 128) : s.RingsStopped (s.ringStop r) [r] := by
  by_cases hstate : s.ringState r = 0
  · exact State.ringStop_stopped hstate
  · by_cases hin : (s.ring r).inflight = 0
    · exact State.ringStop_quiet hr hstate hin
    · exact State.ringStop_busy hstate hin

theorem State.ringsStopped_forEach (rs : List Nat) (hrs : ∀ r ∈ rs, r < 128) (s : State) : s.RingsStopped (forEach State.ringStop s rs) rs := by
  induction rs generalizing s with
  | nil => exact .refl s
  | cons r rs ih =>
    obtain ⟨hr, hrest⟩ := List.forall_mem_cons.mp hrs
    exact .cons hr hrest (State.ringStop_spec hr) (ih hrest (s.ringStop r))

/-! ## The job's rings -/

theorem State.mem_jobRings : r ∈ s.jobRings ↔ 0 < r ∧ r < 128 ∧ (s.ring r).bound = true ∧ s.ctxGlobal (s.ringCtx r) = true := by
  have hctx : s.ringCtx r < 64 := by
    rw [State.ringCtx, fld, bitsOf_eq]
    exact Nat.mod_lt _ (by decide)
  simp only [State.jobRings, State.affected, State.ringsOf, List.mem_flatMap, List.mem_filter, List.mem_range, Bool.and_eq_true, bne_iff_ne, ne_eq,
    beq_iff_eq]
  constructor
  · rintro ⟨c, ⟨-, hg⟩, hlt, ⟨h0, hb⟩, rfl⟩
    exact ⟨Nat.pos_of_ne_zero h0, hlt, hb, hg⟩
  · rintro ⟨h0, hlt, hb, hg⟩
    exact ⟨_, ⟨hctx, hg⟩, hlt, ⟨Nat.pos_iff_ne_zero.mp h0, hb⟩, rfl⟩

theorem State.mem_survivors {d : Nat} (h : d ∈ s.survivors) : d ≠ s.deviceId ∧ s.isCut d = false ∧ d < 2 ^ 24 := by
  rw [State.survivors, List.mem_filter, Bool.and_eq_true, bne_iff_ne, Bool.not_eq_true'] at h
  obtain ⟨hmem, hne, hcut⟩ := h
  obtain ⟨x, -, rfl⟩ := List.mem_map.mp hmem
  exact ⟨hne, hcut, x.isLt⟩

theorem State.Sent.cut (h : s.Sent t) : t.cut = s.cut := by rw [h.frame]

theorem forEach_congr {α σ : Type} {P : σ → Prop} {f g : σ → α → σ} (hf : ∀ u x, P u → f u x = g u x ∧ P (g u x)) (xs : List α) {s : σ}
    (hs : P s) : forEach f s xs = forEach g s xs := by
  induction xs generalizing s with
  | nil => rfl
  | cons x xs ih =>
    obtain ⟨heq, hP⟩ := hf s x hs
    have hstep : forEach f (f s x) xs = forEach g (g s x) xs := by
      rw [heq]
      exact ih hP
    exact hstep

/-- Sending leaves the cut table as it is, so every survivor is told the same. -/
theorem State.tellCut {c : List Nat} (ds : List Nat) (h : s.cut = c) :
    forEach (fun s d => s.tell 2 d (cutMessage s.cut)) s ds = forEach (fun s d => s.tell 2 d (cutMessage c)) s ds :=
  forEach_congr (P := fun u => u.cut = c) (fun u d hu => ⟨congrArg (fun l => u.tell 2 d (cutMessage l)) hu, (u.tell_spec 2 d _).1.cut.trans hu⟩) ds h

/-! ## The stages of RECOVERY_START -/

theorem exec_recoveryStart_idle (h : s.up = false ∨ (s.recovering = false ∧ s.cut = [] ∧ s.cutAll = false)) : exec .recoveryStart s = .next s :=
  if_pos h

section
variable (hup : s.up = true) (hcut : s.recovering = true ∨ s.cut ≠ [] ∨ s.cutAll = true)

include hup hcut

theorem recoveryMayStart : ¬ (s.up = false ∨ (s.recovering = false ∧ s.cut = [] ∧ s.cutAll = false)) := by
  rw [hup]
  rintro (h | ⟨hrec, hnil, hall⟩)
  · exact Bool.noConfusion h
  · rcases hcut with h | h | h
    · exact Bool.noConfusion (hrec.symm.trans h)
    · exact h hnil
    · exact Bool.noConfusion (hall.symm.trans h)

theorem exec_recoveryStart_begins (h : s.svc.stage = 0 ∨ s.svc.lostSet ≠ s.cut) :
    exec .recoveryStart s = .next (forEach State.ringStop (s.setSvc 2 true).restartRecovery s.jobRings) :=
  (if_neg (recoveryMayStart hup hcut)).trans (if_pos h)

theorem exec_recoveryStart_goesOn (hstage : s.svc.stage ≠ 0) (hlost : s.svc.lostSet = s.cut) : exec .recoveryStart s =
    if s.svc.stage = 1 ∧ s.jobStopped = true then
      .next ((forEach (fun s d => s.tell 2 d (cutMessage s.cut)) s s.survivors).setStage 2)
    else if s.svc.stage = 2 ∧ s.agreed = true then .next (s.setStage 3)
    else .next s := by
  have hno : ¬ (s.svc.stage = 0 ∨ s.svc.lostSet ≠ s.cut) := by
    rintro (h | h)
    · exact hstage h
    · exact h hlost
  exact (if_neg (recoveryMayStart hup hcut)).trans (if_neg hno)

/-- Stage 1: every ring of the job's contexts is stopped. -/
theorem recoveryStart_stage1 (h : s.svc.stage = 0 ∨ s.svc.lostSet ≠ s.cut) : ∃ t, exec .recoveryStart s = .next t ∧
    t.recovering = true ∧ t.svc = { s.svc with stage := 1, restore := none, lostSet := s.cut }
      ∧ (∀ r ∈ s.jobRings, (s.ring r).inflight = 0 → t.ringState r = 0)
      ∧ (∀ r ∈ s.jobRings, (s.ring r).inflight ≠ 0 → t.ringState r = s.ringState r ∧ (s.ringState r ≠ 0 → (t.ring r).stopping = true))
      ∧ (∀ r, r ∉ s.jobRings → t.ring r = s.ring r ∧ (r < 128 → t.ringState r = s.ringState r))
      ∧ t = { s with setup := t.setup, rings := t.rings, svc := t.svc, power := t.power } := by
  refine ⟨_, exec_recoveryStart_begins hup hcut h, ?_⟩
  have hstopped := State.ringsStopped_forEach s.jobRings (fun r hr => (State.mem_jobRings.mp hr).2.1) (s.setSvc 2 true).restartRecovery
  have hframe : (s.setSvc 2 true).restartRecovery = { s with
      setup := (s.setSvc 2 true).setup, svc := { s.svc with stage := 1, restore := none, lostSet := s.cut } } := rfl
  have hregs (o : Nat) : (s.setSvc 2 true).restartRecovery.reg o = if o = offGond then setFld (s.reg offGond) 2 1 (b2n true) else s.reg o :=
    State.reg_setRegFld s offGond o 2 1 (b2n true)
  generalize (s.setSvc 2 true).restartRecovery = b at hstopped hframe hregs
  generalize forEach State.ringStop b s.jobRings = t at hstopped
  have hring (q : Nat) : b.ring q = s.ring q := State.ring_congr (by rw [hframe]) q
  have hstate (q : Nat) (hq : q < 128) : b.ringState q = s.ringState q := by
    have hne : offRing q + 0x18 ≠ offGond := by
      rw [offRing_eq, offGond]
      omega
    rw [State.ringState, hregs, if_neg hne, State.ringState]
  have hlt (r : Nat) (hr : r ∈ s.jobRings) : r < 128 := (State.mem_jobRings.mp hr).2.1
  obtain ⟨ht, -, hidle, hbusy, hothers, hgond⟩ := hstopped
  refine ⟨?_, ?_, fun r hr hin => hidle r hr (by rw [hring]; exact hin), fun r hr hin => ?_, fun r hr => ?_, ?_⟩
  · rw [State.recovering, State.svcState, hgond _ (le_refl _), hregs, if_pos rfl]
    exact bitAt_setFld_same _ (by decide) true
  · rw [ht, hframe]
  · obtain ⟨hsame, hstop⟩ := hbusy r hr (by rw [hring]; exact hin)
    rw [hstate r (hlt r hr)] at hsame hstop
    exact ⟨hsame, hstop⟩
  · obtain ⟨hr', hst⟩ := hothers r hr
    exact ⟨hr'.trans (hring r), fun h => (hst h).trans (hstate r h)⟩
  · rw [ht, hframe]

/-- Stage 2: the survivors are told. -/
theorem recoveryStart_stage2 (hstage : s.svc.stage = 1) (hlost : s.svc.lostSet = s.cut) (hstop : s.jobStopped = true) :
    ∃ t, exec .recoveryStart s = .next t ∧ t.svc = { s.svc with stage := 2 } ∧ (∀ d ∈ s.survivors, Told s t d (cutMessage s.cut))
      ∧ t = { s with svc := t.svc, reqs := t.reqs, fabOut := t.fabOut, links := t.links } := by
  have hexec := exec_recoveryStart_goesOn hup hcut (by rw [hstage]; decide) hlost
  rw [if_pos ⟨hstage, hstop⟩] at hexec
  obtain ⟨hsent, htold⟩ := s.tellAll_spec 2 (cutMessage s.cut) s.survivors
  rw [State.tellCut s.survivors rfl] at hexec
  refine ⟨_, hexec, ?_, fun d hd => ?_, ?_⟩
  · rw [hsent.frame]
    rfl
  · obtain ⟨hne, hcut', hlt⟩ := State.mem_survivors hd
    exact htold d hd hne hcut' hlt
  · rw [hsent.frame]
    rfl

/-- RECOVERY_START (R336). -/
theorem recoveryStart_waits (hlost : s.svc.lostSet = s.cut) :
    (s.svc.stage = 1 → s.jobStopped = false → exec .recoveryStart s = .next s)
    ∧ (s.svc.stage = 2 → s.agreed = false → exec .recoveryStart s = .next s)
    ∧ (s.svc.stage = 2 → s.agreed = true → exec .recoveryStart s = .next { s with svc := { s.svc with stage := 3 } }) := by
  refine ⟨fun hstage hno => ?_, fun hstage hno => ?_, fun hstage hyes => ?_⟩
  · rw [exec_recoveryStart_goesOn hup hcut (by rw [hstage]; decide) hlost, hstage, hno]
    rfl
  · rw [exec_recoveryStart_goesOn hup hcut (by rw [hstage]; decide) hlost, hstage, hno]
    rfl
  · rw [exec_recoveryStart_goesOn hup hcut (by rw [hstage]; decide) hlost, if_neg (by rw [hstage]; simp), if_pos ⟨hstage, hyes⟩]
    rfl

end

theorem recoveryBegins (s : State) : RecoveryBegins s := by
  refine ⟨exec_recoveryStart_idle, fun hup hcut => ⟨fun h => ?_, fun hlost => ?_⟩⟩
  · obtain ⟨t, hexec, hrec, hsvc, hidle, hbusy, hothers, hframe⟩ := recoveryStart_stage1 hup hcut h
    exact ⟨t, hexec, hrec, hsvc, fun r hr => hidle r (State.mem_jobRings.mpr hr), fun r hr => hbusy r (State.mem_jobRings.mpr hr),
      fun r hr => hothers r (mt State.mem_jobRings.mp hr), fun _ => hframe⟩
  · obtain ⟨hwait, hwait', hagreed⟩ := recoveryStart_waits hup hcut hlost
    exact ⟨hwait, fun hstage hstop => recoveryStart_stage2 hup hcut hstage hlost hstop, hwait', hagreed⟩

end

end Sys2Proof.Machine
end

section
/-! # Background services (O56): what recovery keeps while it reads, writes and asks (R336, R409) -/
namespace Sys2Proof.Machine
open Sys2Proof.Claims

/-! ## Reads and writes of memory, whatever its condition -/

/-- `t` differs from `s` at most in memory and its integrity, the controllers' registers and below, the recorder with what a fatal
record raises, and the entries of tables in force: what reads and writes of memory can change. -/
structure State.Handled (s t : State) : Prop where
  frame : t = { s with
    mem := t.mem, lost := t.lost, poison := t.poison, defects := t.defects, crcOff := t.crcOff, sramBad := t.sramBad, eccFixed := t.eccFixed
    setup := t.setup, keeper := t.keeper, err := t.err, wcache := t.wcache, fcache := t.fcache, wcacheBad := t.wcacheBad
    fcacheBad := t.fcacheBad, freeCtr := t.freeCtr, mgmt := t.mgmt, resets := t.resets, tables := t.tables }
  regs : s.SameRegs t

section
variable {s t u : State}

theorem State.Handled.refl (s : State) : s.Handled s := ⟨rfl, fun _ _ => rfl⟩

theorem State.Handled.trans (h : s.Handled t) (h' : t.Handled u) : s.Handled u := by
  refine ⟨?_, h.regs.trans h'.regs⟩
  rw [h'.frame, h.frame]

theorem State.FetchFrame.handled (h : s.FetchFrame t) (hregs : s.SameRegs t) : s.Handled t := by
  refine ⟨?_, hregs⟩
  rw [State.FetchFrame] at h
  rw [h]

theorem State.Handled.forEach {α : Type} {f : State → α → State} (hf : ∀ (u : State) x, u.Handled (f u x)) (s : State) (xs : List α) :
    s.Handled (Machine.forEach f s xs) :=
  forEach_keeps (P := fun u => s.Handled u) (fun u x hu => hu.trans (hf u x)) (.refl s) xs

theorem State.Handled.svc (h : s.Handled t) : t.svc = s.svc := by rw [h.frame]
theorem State.Handled.spool (h : s.Handled t) : t.spool = s.spool := by rw [h.frame]
theorem State.Handled.fabOut (h : s.Handled t) : t.fabOut = s.fabOut := by rw [h.frame]
theorem State.Handled.cut (h : s.Handled t) : t.cut = s.cut := by rw [h.frame]
theorem State.Handled.cutAll (h : s.Handled t) : t.cutAll = s.cutAll := by rw [h.frame]

theorem State.crcCheck_handled (s : State) (b : Nat) : s.Handled (s.crcCheck b) :=
  (State.crcCheck_frame s b).handled (State.crcCheckBy_sameRegs State.srcAdd_sameRegs s b)

theorem State.crcRange_handled (s : State) (a n : Nat) : s.Handled (s.crcRange a n) := .forEach State.crcCheck_handled s _

theorem State.mcCount_handled (s : State) (a : Nat) {i : Nat} (hi : i < 0x400) : s.Handled (s.mcCount a i) :=
  (State.mcCount_frame s a i).handled (State.mcCount_sameRegs s a i hi)

theorem State.report_handled (s : State) (src cls cause : Nat) (ctx : Option Nat) (unit : Nat) (d : List Word) :
    s.Handled (s.report src cls cause ctx unit d) :=
  (State.report_frame s src cls cause ctx unit d).handled (State.report_sameRegs s src cls cause ctx unit d)

theorem State.latchReport_handled (s : State) (src : Nat) (r : Report) : s.Handled (s.latchReport src r) :=
  (State.latchReport_frame s src r).handled (State.latchBy_sameRegs State.srcAdd_sameRegs s src r)

theorem State.putKeeper_handled (s : State) (off : Nat) (ws : List Word) : s.Handled (s.putKeeper off ws) :=
  State.Handled.forEach (f := fun (s : State) (p : Word × Nat) => s.setKreg (off + 4 * p.2) p.1) (fun _ _ => ⟨rfl, fun _ _ => rfl⟩) s _

theorem State.modBit_handled (s : State) (i : Nat) (v : Bool) : s.Handled (s.modBit i v) := ⟨rfl, fun _ _ => rfl⟩

theorem State.noteFatal_handled (s : State) (src : Nat) (seq : Word) (r : Report) : s.Handled (s.noteFatal src seq r) := by
  rw [State.noteFatal]
  split
  · exact (State.putKeeper_handled s _ _).trans (State.modBit_handled _ _ _)
  · exact .refl s

theorem State.askChip_handled (s : State) (r : ResetReason) : s.Handled (s.askChip r) := by
  rw [State.askChip_eq]
  exact ⟨rfl, fun _ _ => rfl⟩

theorem State.gsramDbe_handled (s : State) : s.Handled s.gsramDbe :=
  ((State.noteFatal_handled s _ _ _).trans (State.latchReport_handled _ _ _)).trans (State.askChip_handled _ _)

theorem State.withSram_handled (s : State) (x : Sparse Nat) : s.Handled { s with sramBad := x } := ⟨rfl, fun _ _ => rfl⟩

theorem State.eccRange_handled (s : State) (a n : Nat) : s.Handled (s.eccRange a n).1 := by
  rw [State.eccRange]
  generalize s.sramBad.filter _ = l
  have hfold (q : State × Bool) (hq : s.Handled q.1) : s.Handled (l.foldl (fun (p : State × Bool) (w : Nat × Nat) =>
      if w.2 = 1 then
        ({ p.1 with sramBad := Sparse.set (fun _ => 0) p.1.sramBad w.1 0
                    eccFixed := Sparse.modify (fun _ => 0) p.1.eccFixed (w.1 / 8192) (· + 1) }, p.2)
      else (p.1, true)) q).1 := by
    induction l generalizing q with
    | nil => exact hq
    | cons w l ih =>
      rw [List.foldl_cons]
      refine ih _ ?_
      split
      · exact hq.trans ⟨rfl, fun _ _ => rfl⟩
      · exact hq
  exact hfold (s, false) (.refl s)

theorem State.readMem_handled (s : State) (a n : Nat) : s.Handled (s.readMem a n).1 := by
  rw [State.readMem]
  split
  · have hcrc := State.crcRange_handled s a n
    simp only []
    split
    · exact hcrc.trans (State.mcCount_handled _ _ (by decide))
    · exact hcrc
  · have hecc := State.eccRange_handled s a n
    simp only []
    split
    · split
      · exact hecc.trans (State.gsramDbe_handled _)
      · exact hecc.trans (State.report_handled ..)
    · exact hecc

theorem State.writeMem_handled (s : State) (a : Nat) (bs : List Byte) : s.Handled (s.writeMem a bs) := by
  have hput (u : State) : u.Handled (u.putMem a bs) := ⟨rfl, fun _ _ => rfl⟩
  rw [State.writeMem]
  simp only []
  split
  · refine (State.Handled.forEach (fun u b => ?_) s (blocksOf a bs.length)).trans (hput _)
    split
    · exact ⟨rfl, fun _ _ => rfl⟩
    · exact State.crcCheck_handled u b
  · exact (s.withSram_handled _).trans (hput _)

theorem State.readEntry_handled (s : State) (a n : Nat) : s.Handled (s.readEntry a n).1 := by
  have hcrc := State.crcRange_handled s a (4 * n)
  simp only [State.readEntry, State.entryOk]
  split
  · exact hcrc.trans (State.mcCount_handled _ _ (by decide))
  · exact hcrc

theorem State.withTables_handled (s : State) (x : Tables) : s.Handled { s with tables := x } := ⟨rfl, fun _ _ => rfl⟩

theorem State.loadNode_handled (s : State) (i : Nat) : s.Handled (s.loadNode i) := by
  rw [State.loadNode]
  simp only []
  have hdrop := s.withTables_handled { s.tables with nodeCache := Sparse.set (fun _ => []) s.tables.nodeCache i [] }
  generalize ({ s with tables := _ } : State) = u at hdrop
  have hread := u.readEntry_handled (u.nodeAddr i) 32
  split
  · exact hdrop
  · split
    · split
      · exact (hdrop.trans hread).trans (State.withTables_handled _ _)
      · exact hdrop.trans hread
    · exact hdrop.trans hread

theorem State.putNode_handled (s : State) (i : Nat) (e : List Word) : s.Handled (s.putNode i e) :=
  (s.writeMem_handled _ _).trans (State.withTables_handled _ _)

theorem State.invalidate_nt_handled (s : State) (v : Word) : s.Handled (s.invalidate .nt v) := by
  rw [State.invalidate]
  split
  · simp only []
    exact (s.withTables_handled _).trans (.forEach (fun u i => u.loadNode_handled i) _ _)
  · simp only []
    exact (s.loadNode_handled _).trans (State.withTables_handled _ _)

/-! ## Asking for slots -/

/-- What asking for a slot keeps: the cut table, the registers above the controllers', every packet, and of the services all but what
has been read of the slots. -/
structure State.Asked (s t : State) : Prop where
  cut : t.cut = s.cut
  cutAll : t.cutAll = s.cutAll
  regs : s.SameRegs t
  kept : ∀ x ∈ s.fabOut, x ∈ t.fabOut
  svc : t.svc = { s.svc with restore := t.svc.restore }
  restore : t.svc.restore.map (fun x => (x.data, x.step)) = s.svc.restore.map fun x => (x.data, x.step)

theorem State.Asked.refl (s : State) : s.Asked s := ⟨rfl, rfl, fun _ _ => rfl, fun _ h => h, rfl, rfl⟩

theorem State.Asked.trans (h : s.Asked t) (h' : t.Asked u) : s.Asked u :=
  ⟨h'.cut.trans h.cut, h'.cutAll.trans h.cutAll, h.regs.trans h'.regs, fun x hx => h'.kept x (h.kept x hx),
    by rw [h'.svc, h.svc], h'.restore.trans h.restore⟩

theorem State.Asked.forEach {α : Type} {f : State → α → State} (hf : ∀ (u : State) x, u.Asked (f u x)) (s : State) (xs : List α) :
    s.Asked (Machine.forEach f s xs) :=
  forEach_keeps (P := fun u => s.Asked u) (fun u x hu => hu.trans (hf u x)) (.refl s) xs

theorem State.Handled.asked (h : s.Handled t) : s.Asked t := by
  have hsvc := h.svc
  refine ⟨h.cut, h.cutAll, h.regs, fun x hx => ?_, ?_, ?_⟩
  · rw [h.fabOut]
    exact hx
  · rw [hsvc]
  · rw [hsvc]

theorem State.Sent.asked (h : s.Sent t) : s.Asked t := by
  have hsvc : t.svc = s.svc := by rw [h.frame]
  refine ⟨by rw [h.frame], by rw [h.frame], .of_setup (by rw [h.frame]), h.kept, ?_, ?_⟩
  · rw [hsvc]
  · rw [hsvc]

theorem State.ckGot_asked (s : State) (k pos : Nat) (bs : Option (List Byte)) : s.Asked (s.ckGot k pos bs) := by
  refine ⟨rfl, rfl, fun _ _ => rfl, fun _ h => h, rfl, ?_⟩
  show (s.svc.restore.map _).map _ = _
  rw [Option.map_map]
  rfl

theorem State.issueReq_sent {ptype dst ctx : Nat} {owner : Owner} {addr len : Nat} {ext : List Word} {data : List Byte} {org : Origin}
    (h : s.issueReq ptype dst ctx owner addr len ext data org = some t) : s.Sent t := by
  cases hroute : s.routePort s.deviceId dst with
  | none =>
    rw [State.issueReq] at h
    simp only [hroute] at h
    exact absurd h (by simp)
  | some k =>
    obtain ⟨u, q, hu, hframe, -⟩ := State.issueReq_spec hroute ptype ctx owner addr len ext data org
    obtain rfl : u = t := Option.some.inj (hu.symm.trans h)
    refine ⟨?_, fun x hx => ?_⟩
    · rw [hframe]
    · rw [hframe]
      exact List.mem_append_left _ hx

theorem State.askSlot_asked (s : State) (k : Nat) (c : Checkpoint) (pos n : Nat) : s.Asked (s.askSlot k c pos n) := by
  rw [State.askSlot]
  refine .forEach (fun u p => ?_) s _
  simp only []
  split
  · exact (State.readMem_handled u _ _).asked.trans (State.ckGot_asked _ _ _ _)
  · split
    · next t ht => exact (State.issueReq_sent ht).asked
    · exact State.ckGot_asked _ _ _ _

end

end Sys2Proof.Machine
end

section
/-! # Background services (O56): stages 4 and 5 of recovery (R336, R409) -/
namespace Sys2Proof.Machine
open Sys2Proof.Claims

section
variable {s : State} {d : RecoveryData}

/-! ## A new epoch (R292) -/

/-- FAB_JOB keeps the bits that a job and an epoch take. -/
theorem and_jobMask (k : Nat) : BitVec.ofNat 32 (2 ^ 8 * k) &&& BitVec.ofNat 32 0xFFFFFF00 = BitVec.ofNat 32 (2 ^ 8 * k) := by
  have hmask : ∀ i < 32, 8 ≤ i → (BitVec.ofNat 32 0xFFFFFF00).getLsbD i = true := by decide
  refine BitVec.eq_of_getLsbD_eq fun i hi => ?_
  rw [BitVec.getLsbD_and]
  by_cases hlow : 8 ≤ i
  · rw [hmask i hi hlow, Bool.and_true]
  · have hzero : (BitVec.ofNat 32 (2 ^ 8 * k)).getLsbD i = false := by
      rw [BitVec.getLsbD_ofNat, Nat.testBit_two_pow_mul]
      simp only [hlow, decide_false, Bool.false_and, Bool.and_false]
    rw [hzero, Bool.false_and]

theorem jobWord_fields {job epoch : Nat} (hjob : job < 2 ^ 16) (hepoch : epoch < 2 ^ 8) :
    BitVec.ofNat 32 (job * 2 ^ 16 + epoch * 2 ^ 8) &&& BitVec.ofNat 32 0xFFFFFF00 = BitVec.ofNat 32 (job * 2 ^ 16 + epoch * 2 ^ 8)
      ∧ fld (BitVec.ofNat 32 (job * 2 ^ 16 + epoch * 2 ^ 8)) 16 16 = job ∧ fld (BitVec.ofNat 32 (job * 2 ^ 16 + epoch * 2 ^ 8)) 8 8 = epoch := by
  have hshape : job * 2 ^ 16 + epoch * 2 ^ 8 = 2 ^ 8 * (job * 2 ^ 8 + epoch) := by ring
  refine ⟨?_, ?_, ?_⟩
  · rw [hshape]
    exact and_jobMask _
  · simp only [fld, bitsOf_eq, BitVec.toNat_ofNat]
    omega
  · simp only [fld, bitsOf_eq, BitVec.toNat_ofNat]
    omega

/-- The leader's own FAB_JOB: the epoch is the new one, and every cut is lifted. -/
theorem State.newEpoch_spec (hpend : s.rwcPend = []) {e : BitVec 8} (hne : e.toNat ≠ s.epoch) :
    s.newEpoch e = { s with setup := (s.newEpoch e).setup, rwcPend := (s.newEpoch e).rwcPend, cut := [], cutAll := false }
      ∧ (s.newEpoch e).job = s.job ∧ (s.newEpoch e).epoch = e.toNat
      ∧ ∀ o, o ≠ offFabJob → o ≠ offFabJob + 4 → (s.newEpoch e).reg o = s.reg o := by
  have hjob : s.job < 2 ^ 16 := by
    rw [State.job, fld, bitsOf_eq]
    exact Nat.mod_lt _ (by decide)
  obtain ⟨hmask, hj, he⟩ := jobWord_fields hjob e.isLt
  have hd : regDesc offFabJob = some (.rwcV 0xFFFFFF00) := rfl
  have hd' : regDesc (offFabJob + 4) = some .rwcC := rfl
  have hb : regBlock (offFabJob + 4) = regBlock offFabJob := rfl
  have hvalue : s.gondWrite offFabJob (BitVec.ofNat 32 (s.job * 2 ^ 16 + e.toNat * 2 ^ 8)) =
      s.setPend (regBlock offFabJob) (some (offFabJob, BitVec.ofNat 32 (s.job * 2 ^ 16 + e.toNat * 2 ^ 8))) := by
    rw [State.gondWrite, State.setupWrite_value hd (State.setupHole_of_desc (by decide) (by decide) hd s) rfl,
      State.dropPend_of_none (State.pendOf_of_nil hpend _)]
  have hcommit : s.newEpoch e = ((s.setPend (regBlock offFabJob) (some (offFabJob, BitVec.ofNat 32 (s.job * 2 ^ 16 + e.toNat * 2 ^ 8)))).setPend
      (regBlock offFabJob) none).commitRwc offFabJob 0xFFFFFF00 (BitVec.ofNat 32 (s.job * 2 ^ 16 + e.toNat * 2 ^ 8)) := by
    rw [State.newEpoch, State.gondRwc, hvalue, State.gondWrite,
      State.setupWrite_complement hd' (State.setupHole_of_desc (by decide) (by decide) hd' _) rfl,
      State.writeComplement_commits (State.pendOf_setPend_same _ _ _) hb hd]
  generalize hu : (s.setPend (regBlock offFabJob) (some (offFabJob, BitVec.ofNat 32 (s.job * 2 ^ 16 + e.toNat * 2 ^ 8)))).setPend
      (regBlock offFabJob) none = u at hcommit
  have hframe : u = { s with rwcPend := u.rwcPend } := by rw [← hu]; rfl
  have hreg (o : Nat) : u.reg o = s.reg o := State.reg_congr (by rw [hframe]) o
  have hepoch : (u.setRwc offFabJob (BitVec.ofNat 32 (s.job * 2 ^ 16 + e.toNat * 2 ^ 8))).epoch = e.toNat := by
    rw [State.epoch, State.reg_setRwc, if_neg (by decide), if_pos rfl, he]
  have hjob' : (u.setRwc offFabJob (BitVec.ofNat 32 (s.job * 2 ^ 16 + e.toNat * 2 ^ 8))).job = s.job := by
    rw [State.job, State.reg_setRwc, if_neg (by decide), if_pos rfl, hj]
  have hold : u.epoch = s.epoch := by rw [State.epoch, hreg, State.epoch]
  have hdone : s.newEpoch e = (u.setRwc offFabJob (BitVec.ofNat 32 (s.job * 2 ^ 16 + e.toNat * 2 ^ 8))).clearCuts := by
    rw [hcommit, State.commitRwc]
    simp only [hmask]
    rw [if_neg (by decide), if_neg (by decide), if_pos trivial, if_neg (by rw [hepoch, hold]; exact hne)]
  have hregs (o : Nat) := State.reg_setRwc u offFabJob o (BitVec.ofNat 32 (s.job * 2 ^ 16 + e.toNat * 2 ^ 8))
  have hv : u.setRwc offFabJob (BitVec.ofNat 32 (s.job * 2 ^ 16 + e.toNat * 2 ^ 8)) = { u with
    setup := (u.setRwc offFabJob (BitVec.ofNat 32 (s.job * 2 ^ 16 + e.toNat * 2 ^ 8))).setup } := rfl
  rw [hdone]
  generalize u.setRwc offFabJob (BitVec.ofNat 32 (s.job * 2 ^ 16 + e.toNat * 2 ^ 8)) = v at hepoch hjob' hregs hv
  refine ⟨?_, hjob', hepoch, fun o ho ho' => ?_⟩
  · rw [State.clearCuts, hv, hframe]
  · refine (hregs o).trans ?_
    rw [if_neg ho', if_neg ho, hreg]

/-! ## RECOVERY_RANK_TAKEN, by what it finds -/

theorem exec_rankTaken_idle (h : s.recovering = false ∨ s.jobStopped = false) : exec (.recoveryRankTaken d) s = .next s := if_pos h

section
variable (hrec : s.recovering = true) (hstop : s.jobStopped = true)

include hrec hstop

theorem rankMayBeTaken : ¬ (s.recovering = false ∨ s.jobStopped = false) := by
  rw [hrec, hstop]
  rintro (h | h) <;> exact Bool.noConfusion h

theorem exec_rankTaken_first (h : s.svc.restore = none) : exec (.recoveryRankTaken d) s =
    if s.svc.stage ≠ 3 ∨ s.ranksTaken d.takers = false ∨ d.slots.length ≠ s.svc.ranks.length
        ∨ (s.leads == decide (d.epoch.toNat = s.epoch)) = true then .next s
    else .next (s.beginRestore d) := by
  show execRecoveryRankTaken d s = _
  rw [execRecoveryRankTaken, if_neg (rankMayBeTaken hrec hstop)]
  simp only [h]

theorem exec_rankTaken_again {x : Restore} (h : s.svc.restore = some x) :
    exec (.recoveryRankTaken d) s = if s.slotWaits then .next s else .next (s.goRestore x) := by
  show execRecoveryRankTaken d s = _
  rw [execRecoveryRankTaken, if_neg (rankMayBeTaken hrec hstop)]
  simp only [h]

theorem exec_rankTaken_waits (h : s.svc.restore = none)
    (hno : ¬ (s.svc.stage = 3 ∧ s.ranksTaken d.takers = true ∧ d.slots.length = s.svc.ranks.length)
      ∨ (s.leads = true ∧ d.epoch.toNat = s.epoch) ∨ (s.leads = false ∧ d.epoch.toNat ≠ s.epoch)) :
    exec (.recoveryRankTaken d) s = .next s := by
  rw [exec_rankTaken_first hrec hstop h]
  refine if_pos ?_
  rcases hno with hready | ⟨hlead, heq⟩ | ⟨hlead, hne⟩
  · by_contra hall
    simp only [not_or, ne_eq, not_not, Bool.not_eq_false] at hall
    exact hready ⟨hall.1, hall.2.1, hall.2.2.1⟩
  · simp only [hlead, heq, decide_true, beq_self_eq_true, or_true]
  · simp only [hlead, hne, decide_false, beq_self_eq_true, or_true]

theorem exec_rankTaken_begins (h : s.svc.restore = none)
    (hready : s.svc.stage = 3 ∧ s.ranksTaken d.takers = true ∧ d.slots.length = s.svc.ranks.length)
    (hlead : s.leads = true ∧ d.epoch.toNat ≠ s.epoch ∨ s.leads = false ∧ d.epoch.toNat = s.epoch) :
    exec (.recoveryRankTaken d) s = .next (s.beginRestore d) := by
  obtain ⟨hstage, htaken, hslots⟩ := hready
  rw [exec_rankTaken_first hrec hstop h]
  refine if_neg ?_
  rcases hlead with ⟨hlead, he⟩ | ⟨hlead, he⟩
  · simp [hstage, htaken, hslots, hlead, he]
  · simp [hstage, htaken, hslots, hlead, he]

end

/-! ## Stage 5 begins -/

/-- Stage 5, with nothing read yet. -/
def State.stage5 (s : State) (d : RecoveryData) : State :=
  { s with svc := { s.svc with stage := 5, lostSet := [], restore := some { data := d, step := none, failed := false, got := [] } } }

/-- Both headers of every checkpoint are asked for. -/
def State.askHeaders (s : State) : State :=
  forEach (fun s (p : Nat × Checkpoint) => forEach (fun s i => s.askSlot p.1 p.2 (i * p.2.arg.slotSize) 64) s [0, 1]) s s.ckptList

theorem State.askHeaders_asked (s : State) : s.Asked s.askHeaders := by
  rw [State.askHeaders]
  exact .forEach (fun u (p : Nat × Checkpoint) => .forEach (fun v i => v.askSlot_asked p.1 p.2 (i * p.2.arg.slotSize) 64) u [0, 1]) s _

theorem State.ckptList_nil (h : s.svc.ckpts = []) : s.ckptList = [] := by
  rw [State.ckptList, h]
  rfl

theorem State.askHeaders_nil (h : s.svc.ckpts = []) : s.askHeaders = s := by
  rw [State.askHeaders, State.ckptList_nil h]
  rfl

theorem State.beginRestore_follows (h : s.leads = false) (d : RecoveryData) : s.beginRestore d = (s.stage5 d).askHeaders := by
  rw [State.beginRestore, h]
  rfl

theorem State.beginRestore_leads (h : s.leads = true) (d : RecoveryData) : s.beginRestore d =
    (((forEach (fun s i => s.tell 2 i (epochMessage d.epoch)) s s.survivors).newEpoch d.epoch).stage5 d).askHeaders := by
  rw [State.beginRestore, h]
  rfl

/-- What the leader leaves: the new epoch, no cut, and every survivor told. -/
theorem State.beginRestore_spec (h : s.leads = true) (hne : d.epoch.toNat ≠ s.epoch) (hpend : s.rwcPend = []) (hrec : s.recovering = true) :
    let t := s.beginRestore d
    t.job = s.job ∧ t.epoch = d.epoch.toNat ∧ t.cut = [] ∧ t.cutAll = false ∧ t.recovering = true ∧ t.svc.stage = 5
      ∧ (∀ i ∈ s.survivors, Told s t i (epochMessage d.epoch))
      ∧ (s.svc.ckpts = [] → t.svc.restore = some { data := d, step := none, failed := false, got := [] }) := by
  rw [State.beginRestore_leads h]
  obtain ⟨hsent, htold⟩ := s.tellAll_spec 2 (epochMessage d.epoch) s.survivors
  generalize forEach (fun s i => s.tell 2 i (epochMessage d.epoch)) s s.survivors = u at hsent htold
  have hreg (o : Nat) : u.reg o = s.reg o := State.reg_congr (by rw [hsent.frame]) o
  have hepoch : u.epoch = s.epoch := by rw [State.epoch, hreg, State.epoch]
  obtain ⟨hframe, hjob, hnew, hregs⟩ := State.newEpoch_spec (s := u) (by rw [hsent.frame]; exact hpend) (e := d.epoch) (by rw [hepoch]; exact hne)
  generalize u.newEpoch d.epoch = v at hframe hjob hnew hregs
  have hasked := (v.stage5 d).askHeaders_asked
  have hnil := State.askHeaders_nil (s := v.stage5 d)
  generalize (v.stage5 d).askHeaders = t at hasked hnil
  have hvsvc : v.svc = s.svc := by rw [hframe, hsent.frame]
  have hout : v.fabOut = u.fabOut := by rw [hframe]
  have htreg (o : Nat) (ho : 0x1230000 ≤ o) : t.reg o = v.reg o := hasked.regs o ho
  refine ⟨?_, ?_, hasked.cut.trans ?_, hasked.cutAll.trans ?_, ?_, ?_, fun i hi port hport => ?_, fun hck => ?_⟩
  · rw [State.job, htreg _ (by decide), ← State.job, hjob, State.job, hreg, State.job]
  · rw [State.epoch, htreg _ (by decide), ← State.epoch, hnew]
  · show v.cut = []
    rw [hframe]
  · show v.cutAll = false
    rw [hframe]
  · rw [State.recovering, State.svcState, htreg _ (by decide), hregs _ (by decide) (by decide), hreg]
    exact hrec
  · rw [hasked.svc]
    rfl
  · obtain ⟨hne', hcut', hlt⟩ := State.mem_survivors hi
    obtain ⟨q, hq, hrest⟩ := htold i hi hne' hcut' hlt port hport
    exact ⟨q, hasked.kept _ (by show (port, q) ∈ v.fabOut; rw [hout]; exact hq), hrest⟩
  · rw [hnil (by show v.svc.ckpts = []; rw [hvsvc]; exact hck)]
    rfl

/-! ## The step that is restored (R409) -/

/-- The larger of what is held and one more step. -/
def laterStep (b : Option Word) (t : Word) : Option Word :=
  match b with
  | some x => if x.toNat < t.toNat then some t else b
  | none => some t

theorem foldl_laterStep {l : List Word} {t : Word} {b : Option Word} (hb : ∀ x, b = some x → x.toNat ≤ t.toNat) (hle : ∀ x ∈ l, x.toNat ≤ t.toNat)
    (hmem : b = some t ∨ t ∈ l) : l.foldl laterStep b = some t := by
  induction l generalizing b with
  | nil => exact hmem.resolve_right List.not_mem_nil
  | cons y l ih =>
    obtain ⟨hy, hl⟩ := List.forall_mem_cons.mp hle
    rw [List.foldl_cons]
    refine ih (fun x hx => ?_) hl ?_
    · cases b with
      | none =>
        obtain rfl : y = x := Option.some.inj hx
        exact hy
      | some z =>
        rw [laterStep] at hx
        split at hx
        · obtain rfl : y = x := Option.some.inj hx
          exact hy
        · obtain rfl : z = x := Option.some.inj hx
          exact hb z rfl
    · rcases hmem with rfl | hmem
      · refine .inl (if_neg (Nat.not_lt.mpr hy))
      · rcases List.mem_cons.mp hmem with rfl | hmem
        · cases b with
          | none => exact .inl rfl
          | some z =>
            by_cases hz : z.toNat < t.toNat
            · exact .inl (if_pos hz)
            · have heq : z = t := BitVec.eq_of_toNat_eq (Nat.le_antisymm (hb z rfl) (Nat.not_lt.mp hz))
              exact .inl ((if_neg hz).trans (congrArg some heq))
        · exact .inr hmem

theorem restoredStep_eq {slots : List (List Word)} {t : Word} (hne : slots ≠ []) (hall : ∀ l ∈ slots, t ∈ l)
    (hmax : ∀ t1, (∀ l ∈ slots, t1 ∈ l) → t1.toNat ≤ t.toNat) : restoredStep slots = some t := by
  have hhead : slots.headD [] ∈ slots := by
    cases slots with
    | nil => exact absurd rfl hne
    | cons l ls => exact List.mem_cons_self ..
  have hcommon (x : Word) : x ∈ (slots.headD []).filter (fun t => slots.all fun l => l.contains t) ↔ x ∈ slots.headD [] ∧ ∀ l ∈ slots, x ∈ l := by
    simp only [List.mem_filter, List.all_eq_true, List.contains_eq_mem, decide_eq_true_eq]
  exact foldl_laterStep (fun x hx => absurd hx (by simp)) (fun x hx => hmax x ((hcommon x).mp hx).2)
    (.inr ((hcommon t).mpr ⟨hall _ hhead, hall⟩))

theorem restoredStep_none {slots : List (List Word)} (h : ∀ t, ∃ l ∈ slots, t ∉ l) : restoredStep slots = none := by
  have hnil : (slots.headD []).filter (fun t => slots.all fun l => l.contains t) = [] := by
    refine List.filter_eq_nil_iff.mpr fun t _ hall => ?_
    obtain ⟨l, hl, hno⟩ := h t
    rw [List.all_eq_true] at hall
    exact hno (by simpa using hall l hl)
  rw [restoredStep, hnil]
  rfl

variable {x : Restore}

/-- Stage 5 fails, and the procedure starts again. -/
theorem State.goRestore_fails (h : x.failed = true ∨ (x.step = none ∧ ∀ t, ∃ l ∈ s.offered x, t ∉ l)) :
    s.goRestore x = { s with svc := { s.svc with stage := 1, restore := none, lostSet := s.cut } } := by
  rw [State.goRestore]
  by_cases hfail : x.failed = true
  · exact if_pos hfail
  · rw [if_neg hfail]
    obtain ⟨hstep, hno⟩ := h.resolve_left hfail
    simp only [hstep, restoredStep_none hno]
    rfl

/-- The step is chosen. -/
theorem State.goRestore_chooses {t : Word} (hfail : x.failed = false) (hstep : x.step = none) (hchoice : restoredStep (s.offered x) = some t) :
    ∃ y, (s.goRestore x).svc.restore = some y ∧ y.step = some t ∧ y.data = x.data := by
  have hto : s.goRestore x = s.chooseStep x t := by
    rw [State.goRestore, hfail, if_neg Bool.false_ne_true]
    simp only [hstep, hchoice]
  have hasked : ({ s with svc := { s.svc with restore := some { x with step := some t } } } : State).Asked (s.chooseStep x t) := by
    rw [State.chooseStep]
    refine .forEach (fun u p => ?_) _ _
    split
    · exact u.askSlot_asked _ _ _ _
    · exact .refl u
  rw [hto]
  have hkeep := hasked.restore
  generalize s.chooseStep x t = u at hkeep
  cases hy : u.svc.restore with
  | none =>
    rw [hy] at hkeep
    exact absurd hkeep (by simp)
  | some y =>
    rw [hy] at hkeep
    obtain ⟨hdata, hstep'⟩ := Prod.mk.inj (Option.some.inj hkeep)
    exact ⟨y, rfl, hstep', hdata⟩

end

end Sys2Proof.Machine
end

section
/-! # Background services (O56): stages 6 and 7 of recovery (R336), and the claim -/
namespace Sys2Proof.Machine
open Sys2Proof.Claims

/-! ## Words of an entry -/

theorem wordAt_setWord {ws : List Word} {i : Nat} (hi : i < ws.length) (v : Word) (j : Nat) :
    wordAt (setWord ws i v) j = if j = i then v else wordAt ws j := by
  rw [wordAt, setWord, List.getD_eq_getElem?_getD, List.getElem?_set]
  by_cases hj : i = j
  · rw [if_pos hj, if_pos hj.symm, if_pos hi, Option.getD_some]
  · rw [if_neg hj, if_neg fun h => hj h.symm, wordAt, List.getD_eq_getElem?_getD]

theorem length_setWord (ws : List Word) (i : Nat) (v : Word) : (setWord ws i v).length = ws.length := List.length_set

theorem fld_setFld_step (w : Word) (v : Nat) : fld (setFld w 0 16 v) 0 16 = v % 2 ^ 16 := by
  have hw := w.isLt
  simp only [fld, setFld, bitsOf_eq, BitVec.toNat_ofNat]
  omega

/-- An entry at the restored step, with its new target. -/
def reNode (t : Word) (tg : DWord) (e : List Word) : List Word :=
  setWord (setWord (setWord e 0 (setFld (wordAt e 0) 0 16 (fld t 0 16))) 12 (BitVec.ofNat 32 tg.toNat)) 13 (BitVec.ofNat 32 (tg.toNat / 2 ^ 32))

theorem reNode_fields {e : List Word} (h : e.length = 16) (t : Word) (tg : DWord) :
    (reNode t tg e).length = 16 ∧ nStep (reNode t tg e) = t.toNat % 2 ^ 16 ∧ nTarget (reNode t tg e) = tg.toNat := by
  have htg := tg.isLt
  have hword (j : Nat) : wordAt (reNode t tg e) j = if j = 13 then BitVec.ofNat 32 (tg.toNat / 2 ^ 32) else if j = 12 then BitVec.ofNat 32 tg.toNat
      else if j = 0 then setFld (wordAt e 0) 0 16 (fld t 0 16) else wordAt e j := by
    rw [reNode, wordAt_setWord (by rw [length_setWord, length_setWord, h]; decide), wordAt_setWord (by rw [length_setWord, h]; decide),
      wordAt_setWord (by rw [h]; decide)]
  refine ⟨by rw [reNode, length_setWord, length_setWord, length_setWord, h], ?_, ?_⟩
  · rw [nStep, hword, if_neg (by decide), if_neg (by decide), if_pos rfl, fld_setFld_step, fld, bitsOf_eq]
    omega
  · rw [nTarget, dwordAt, hword, hword, if_neg (by decide), if_pos rfl, if_pos rfl, BitVec.toNat_ofNat, BitVec.toNat_ofNat]
    omega

section
variable {s u : State}

/-! ## Counters re-armed -/

theorem State.OnlySpool.trans {t : State} (h : s.OnlySpool u) (h' : u.OnlySpool t) : s.OnlySpool t := by
  rw [State.OnlySpool] at h h' ⊢
  rw [h', h]

/-- The counters, set. -/
def State.spoolsSet (s : State) (l : List (Nat × DWord)) : State := forEach (fun s (p : Nat × DWord) => s.spoolSet p.1 p.2.toNat) s l

theorem State.spoolsSet_onlySpool (s : State) (l : List (Nat × DWord)) : s.OnlySpool (s.spoolsSet l) :=
  forEach_keeps (P := fun u => s.OnlySpool u) (fun u _ hu => hu.trans (u.spoolChange_onlySpool _ _)) (s := s) rfl l

theorem State.spoolsSet_one (s : State) (k : Nat) (v : DWord) :
    ((s.spoolsSet [(k, v)]).spoolVal k).toNat = v.toNat % 2 ^ 63 ∧ ∀ j, j ≠ k → (s.spoolsSet [(k, v)]).spoolVal j = s.spoolVal j :=
  ⟨State.toNat_spoolVal_spoolSet s k v.toNat, fun j hj => (State.spoolVal_spoolChange s k j _).trans (if_neg hj)⟩

/-! ## Nodes re-armed -/

/-- A node-table entry at the restored step, and in force. -/
def State.nodeRearmed (s : State) (t : Word) (p : Nat × DWord) : State :=
  (s.putNode p.1 (reNode t p.2 (s.nodeNow p.1))).invalidate .nt (BitVec.ofNat 32 p.1)

theorem State.nodeRearmed_handled (s : State) (t : Word) (p : Nat × DWord) : s.Handled (s.nodeRearmed t p) :=
  (State.putNode_handled s _ _).trans (State.invalidate_nt_handled _ _)

theorem State.nodeNow_of_onlySpool (hu : s.OnlySpool u) (hsound : soundMem s) {i : Nat} (hclean : cleanRange s (s.nodeAddr i) 128)
    (hlen : (s.nodeNow i).length = 16) : (u.nodeNow i).length = 16 := by
  have htab : u.tables = s.tables := by rw [hu]
  rw [State.nodeNow] at hlen ⊢
  rw [htab]
  have haddr : u.nodeAddr i = s.nodeAddr i := by rw [hu]; rfl
  have hsound' : soundMem u := by rw [hu]; exact hsound
  have hpoison : u.anyPoison (u.nodeAddr i) (4 * 16) = false := by
    have h := State.anyPoison_part hclean.2.2 (le_refl _) (show s.nodeAddr i + 4 * 16 ≤ s.nodeAddr i + 128 by omega)
    rw [haddr, hu]
    exact h
  split at hlen
  · rw [State.entryWords0, State.readEntry_of_intact hsound'.1 hsound'.2.1 hpoison]
    exact words_length ..
  · exact hlen

/-- The entry stands in its table, at the restored step and with its target. -/
theorem State.nodeRearmed_spec (h : soundMem s) {i : Nat} (hin : s.nodeAddr i + 128 ≤ 0x10800000000) (hlen : (s.nodeNow i).length = 16)
    (t : Word) (tg : DWord) :
    nStep ((s.nodeRearmed t (i, tg)).words (s.nodeAddr i) 16) = t.toNat % 2 ^ 16
      ∧ nTarget ((s.nodeRearmed t (i, tg)).words (s.nodeAddr i) 16) = tg.toNat ∧ bytesKept s (s.nodeRearmed t (i, tg)) [(s.nodeAddr i, 128)] := by
  obtain ⟨helen, hstep, htarget⟩ := reNode_fields hlen t tg
  have hlen32 : (withComplements (reNode t tg (s.nodeNow i))).length = 32 := by rw [length_withComplements, helen]
  obtain ⟨honly, hwords, hkept⟩ := State.writeWords_spec h (a := s.nodeAddr i) (ws := withComplements (reNode t tg (s.nodeNow i)))
    (by rw [hlen32]; exact hin) (by intro hnil; rw [hnil] at hlen32; exact absurd hlen32 (by decide))
  rw [hlen32] at hwords hkept
  have hsound := soundMem_of_onlyMem h honly
  have hput : s.putNode i (reNode t tg (s.nodeNow i)) = { s.writeMem (s.nodeAddr i) (bytesOfWords (withComplements (reNode t tg (s.nodeNow i)))) with
    tables := (s.putNode i (reNode t tg (s.nodeNow i))).tables } := rfl
  have hto : s.nodeRearmed t (i, tg) = (s.putNode i (reNode t tg (s.nodeNow i))).invalidate .nt (BitVec.ofNat 32 i) := rfl
  rw [hto]
  generalize s.writeMem (s.nodeAddr i) (bytesOfWords (withComplements (reNode t tg (s.nodeNow i)))) = u at honly hwords hkept hsound hput
  generalize s.putNode i (reNode t tg (s.nodeNow i)) = v at hput
  obtain ⟨⟨hframe, -⟩, -⟩ := State.invalidate_nt (s := v) (by rw [hput]; exact hsound) (BitVec.ofNat 32 i)
  generalize v.invalidate .nt (BitVec.ofNat 32 i) = w at hframe
  have hbyte (z : Nat) : w.byte z = u.byte z := State.byte_congr (by rw [hframe, hput]) (by rw [hframe, hput]) z
  have hwords' : w.words (s.nodeAddr i) 32 = withComplements (reNode t tg (s.nodeNow i)) := (State.words_congr hbyte _ _).trans hwords
  have hword (j : Nat) (hj : j < 16) : wordAt (w.words (s.nodeAddr i) 16) j = wordAt (reNode t tg (s.nodeNow i)) j := by
    rw [w.wordAt_words _ hj, ← w.wordAt_words _ (show j < 32 by omega), hwords', (wordAt_withComplements helen hj).1]
  refine ⟨?_, ?_, fun z hz => (hbyte z).trans (hkept z hz)⟩
  · rw [nStep, hword 0 (by decide), ← nStep, hstep]
  · rw [nTarget, dwordAt, hword 12 (by decide), hword 13 (by decide)]
    exact htarget

/-! ## Stages 6 and 7 -/

variable {x : Restore} {t0 : Word}

/-- Stages 6 and 7 where no checkpoint, tree or WAIT is held. -/
def State.recovered (s : State) (x : Restore) (t0 : Word) : State :=
  let u := forEach (fun u p => u.nodeRearmed t0 p) (s.spoolsSet x.data.spool) x.data.nodes
  ({ u with svc := { s.svc with ranks := s.svc.ranks.map (takerOf x.data.takers), stage := 0, restore := none, lostSet := [] } } : State).setSvc 2 false

theorem State.rearm_plain (htrees : s.svc.trees = []) (hupd : x.data.updates = []) :
    s.rearm x.data t0 = forEach (fun u p => u.nodeRearmed t0 p) (s.spoolsSet x.data.spool) x.data.nodes := by
  have honly := s.spoolsSet_onlySpool x.data.spool
  have hplain : s.rearm x.data t0 = forEach (fun u p => u.nodeRearmed t0 p) (forEach (fun (s : State) (p : Nat × Option TreeSet) => match p.2 with
      | some x => s.armSet x
      | none => s) ({ s.spoolsSet x.data.spool with svc := { (s.spoolsSet x.data.spool).svc with
        trees := (s.spoolsSet x.data.spool).svc.trees.map fun p => (p.1, p.2.map fun y => { y with entries := y.entries.map fun e =>
          (e.1, reTree x.data.takers t0 e.2) }) } } : State)
      ((s.spoolsSet x.data.spool).svc.trees.map fun p => (p.1, p.2.map fun y => { y with entries := y.entries.map fun e =>
          (e.1, reTree x.data.takers t0 e.2) }))) x.data.nodes := by
    rw [State.rearm, hupd]
    rfl
  rw [hplain]
  generalize s.spoolsSet x.data.spool = u at honly
  have hnone : u.svc.trees = [] := by rw [honly]; exact htrees
  have hsame : ({ u with svc := { u.svc with trees := [] } } : State) = u := by rw [← hnone]
  rw [hnone, List.map_nil, hsame]
  rfl

theorem State.endWaits_nil (h : s.svc.waits = []) (a : Answer) : s.endWaits a = s := by
  have hsame : ({ s with svc := { s.svc with waits := [] } } : State) = s := by rw [← h]
  rw [State.endWaits, h]
  exact hsame

theorem State.nodesRearmed_handled (s : State) (t : Word) (ps : List (Nat × DWord)) :
    s.Handled (forEach (fun u p => u.nodeRearmed t p) s ps) := .forEach (fun u p => u.nodeRearmed_handled t p) s ps

theorem State.recover_plain (hck : s.svc.ckpts = []) (hwaits : s.svc.waits = []) (htrees : s.svc.trees = []) (hupd : x.data.updates = []) :
    s.recover x t0 = s.recovered x t0 := by
  have hto : s.recover x t0 = (({ s.rearm x.data t0 with svc := { (s.rearm x.data t0).svc with
      ranks := (s.rearm x.data t0).svc.ranks.map (takerOf x.data.takers), stage := 0, restore := none, lostSet := [] } } : State).setSvc 2
        false).endWaits { status := 0, detail := some t0.toNat, result := [] } := by
    rw [State.recover, State.ckptList_nil hck]
    rfl
  have hkeep := State.nodesRearmed_handled (s.spoolsSet x.data.spool) t0 x.data.nodes
  have honly := s.spoolsSet_onlySpool x.data.spool
  rw [hto, State.rearm_plain htrees hupd, State.recovered]
  simp only []
  generalize s.spoolsSet x.data.spool = v at hkeep honly
  generalize forEach (fun u p => u.nodeRearmed t0 p) v x.data.nodes = u at hkeep
  have hsvc : u.svc = s.svc := hkeep.svc.trans (by rw [honly])
  rw [hsvc]
  refine State.endWaits_nil ?_ _
  exact hwaits

/-- What recovery leaves when it ends. -/
theorem State.recovered_spec (s : State) (x : Restore) (t0 : Word) :
    let t := s.recovered x t0
    t.recovering = false ∧ t.svc.stage = 0 ∧ t.svc.restore = none ∧ t.svc.ranks = s.svc.ranks.map (takerOf x.data.takers)
      ∧ (∀ k v, x.data.spool = [(k, v)] → (t.spoolVal k).toNat = v.toNat % 2 ^ 63 ∧ ∀ j, j ≠ k → t.spoolVal j = s.spoolVal j)
      ∧ (∀ i tg, x.data.nodes = [(i, tg)] → soundMem s → cleanRange s (s.nodeAddr i) 128 → (s.nodeNow i).length = 16 →
        nStep (t.words (s.nodeAddr i) 16) = t0.toNat % 2 ^ 16 ∧ nTarget (t.words (s.nodeAddr i) 16) = tg.toNat
          ∧ bytesKept s t [(s.nodeAddr i, 128)]) := by
  intro t
  have hframe : t = { forEach (fun u p => u.nodeRearmed t0 p) (s.spoolsSet x.data.spool) x.data.nodes with
      svc := { s.svc with ranks := s.svc.ranks.map (takerOf x.data.takers), stage := 0, restore := none, lostSet := [] }, setup := t.setup } := rfl
  have hrec : t.recovering = false := by
    refine (congrArg (bitAt · 2) (State.reg_setRegFld _ offGond offGond 2 1 (b2n false))).trans ?_
    rw [if_pos rfl]
    exact bitAt_setFld_same _ (by decide) false
  generalize t = t at hframe hrec
  have honly := s.spoolsSet_onlySpool x.data.spool
  refine ⟨hrec, by rw [hframe], by rw [hframe], by rw [hframe], fun k v hspool => ?_, fun i tg hnodes hsound hclean hlen => ?_⟩
  · have hkeep := (State.nodesRearmed_handled (s.spoolsSet x.data.spool) t0 x.data.nodes).spool
    have hval := s.spoolsSet_one k v
    rw [← hspool] at hval
    have hspool' : t.spool = (s.spoolsSet x.data.spool).spool := by
      rw [hframe]
      exact hkeep
    obtain ⟨hk, hj⟩ := hval
    exact ⟨by rw [State.spoolVal_congr hspool']; exact hk, fun j hne => (State.spoolVal_congr hspool' j).trans (hj j hne)⟩
  · rw [hnodes] at hframe
    generalize s.spoolsSet x.data.spool = u at honly hframe
    have haddr : u.nodeAddr i = s.nodeAddr i := by rw [honly]; rfl
    obtain ⟨hstep, htarget, hkept⟩ := State.nodeRearmed_spec (s := u) (i := i) (by rw [honly]; exact hsound) (by rw [haddr]; exact hclean.1)
      (State.nodeNow_of_onlySpool honly hsound hclean hlen) t0 tg
    rw [haddr] at hstep htarget hkept
    have hone : forEach (fun u p => u.nodeRearmed t0 p) u [(i, tg)] = u.nodeRearmed t0 (i, tg) := rfl
    rw [hone] at hframe
    generalize u.nodeRearmed t0 (i, tg) = w at hframe hstep htarget hkept
    have hbyte (z : Nat) : t.byte z = w.byte z := State.byte_congr (by rw [hframe]) (by rw [hframe]) z
    have hbyte' (z : Nat) : u.byte z = s.byte z := State.byte_congr (by rw [honly]) (by rw [honly]) z
    rw [State.words_congr hbyte]
    exact ⟨hstep, htarget, fun z hz => (hbyte z).trans ((hkept z hz).trans (hbyte' z))⟩

theorem State.goRestore_ends (hfail : x.failed = false) (hstep : x.step = some t0) (hck : s.svc.ckpts = []) (hwaits : s.svc.waits = [])
    (htrees : s.svc.trees = []) (hupd : x.data.updates = []) : s.goRestore x = s.recovered x t0 := by
  rw [State.goRestore, hfail, if_neg Bool.false_ne_true]
  simp only [hstep, State.ckptList_nil hck, List.all_nil, if_true]
  exact State.recover_plain hck hwaits htrees hupd

end

/-- RECOVERY_START and RECOVERY_RANK_TAKEN (R336, R409). -/
theorem recovering (s : State) : Recovering s := by
  refine ⟨recoveryBegins s, fun d => ⟨exec_rankTaken_idle, fun hrec hstop hnone => ?_, fun x hrec hstop hsome => ?_⟩⟩
  · refine ⟨exec_rankTaken_waits hrec hstop hnone, fun hready hlead hne hpend => ?_, fun hready hlead heq hck => ?_⟩
    · exact ⟨_, exec_rankTaken_begins hrec hstop hnone hready (.inl ⟨hlead, hne⟩), State.beginRestore_spec hlead hne hpend hrec⟩
    · have hto : s.beginRestore d = s.stage5 d := by
        rw [State.beginRestore_follows hlead]
        exact State.askHeaders_nil hck
      exact ⟨_, (exec_rankTaken_begins hrec hstop hnone hready (.inr ⟨hlead, heq⟩)).trans (congrArg Host.Outcome.next hto), rfl⟩
  · have hexec := exec_rankTaken_again (d := d) hrec hstop hsome
    refine ⟨fun hwait => by rw [hexec, hwait, if_pos rfl], fun hwait => ?_⟩
    rw [hwait, if_neg Bool.false_ne_true] at hexec
    refine ⟨fun hfail => ⟨_, hexec, State.goRestore_fails hfail⟩, fun t0 hfail hstep hne hall hmax => ?_,
      fun t0 hfail hstep hck hwaits htrees hupd _ => ?_⟩
    · exact ⟨_, hexec, State.goRestore_chooses hfail hstep (restoredStep_eq hne hall hmax)⟩
    · exact ⟨_, hexec.trans (congrArg Host.Outcome.next (State.goRestore_ends hfail hstep hck hwaits htrees hupd)), State.recovered_spec s x t0⟩

end Sys2Proof.Machine
end

section
/-! # Background services (O56): the claim -/
namespace Sys2Proof.Machine
open Sys2Proof.Claims

section
variable {s : State}

/-- Noting the combined record leaves the group's own record as it was. -/
theorem State.groupWords_noted {i : Nat} {g : NumGroup} {done : Word × Int × Nat × Nat} {gr : List Word} (hsound : soundMem s)
    (hclean : cleanRange s (s.groupAddr i) 128) (hi : i < s.gtSize) (hlen : gr.length = 16) (hg : s.words (s.groupAddr i) 32 = withComplements gr) :
    (s.numNoted i g done).groupWords i = (s.numNoted i g done, some gr) :=
  State.groupWords_of_sound (s := s.numNoted i g done) hsound hi hclean hlen
    ((State.words_congr (s := s) (t := s.numNoted i g done) (fun _ => State.byte_congr rfl rfl _) _ _).trans hg)

/-- NUMERICS_SERVICE_STEP with records that stand at one step (R84). -/
theorem numericsServiceStep_combines {i : Nat} {rem : List NumRecord} {g : NumGroup} {l : List NumRecord} {r : NumRecord} {rs : List NumRecord}
    (h : Sparse.get (fun _ => none) s.svc.groups i = some g) (hrec : s.numRecords g.recs = (s, some l)) (hall : l ++ rem = r :: rs)
    (hsteps : ∀ x ∈ rs, x.step = r.step) (hlast : g.last.map Prod.fst ≠ some r.step) {k : Int} (hle : ∀ x ∈ r :: rs, x.dmax.toInt ≤ k)
    (hex : ∃ x ∈ r :: rs, x.dmax.toInt = k) :
    let done := (r.step, k, ((r :: rs).map fun x => x.zcnt.toNat).sum, ((r :: rs).map fun x => x.momFloor.toNat).sum)
    let noted (t : State) : Prop := t.svc = (s.numNoted i g done).svc
    ((-8 ≤ k ∧ k ≤ 8) ∨ k = -128 → Next (.numericsServiceStep i rem) s fun t => noted t ∧ t = { s with svc := t.svc })
    ∧ (∀ gr, 8 < k ∨ (-128 < k ∧ k < -8) → soundMem s → cleanRange s (s.groupAddr i) 128 → i < s.gtSize → gr.length = 16 →
      s.words (s.groupAddr i) 32 = withComplements gr →
      let e : Int := fld (wordAt gr 6) 23 8 - k
      let u : Int := signedOf 8 (fld (wordAt gr 7) 0 8) + k
      (e < 1 ∨ 254 < e ∨ u < -126 ∨ 126 < u → Next (.numericsServiceStep i rem) s fun t =>
        noted t ∧ Reported t 0x654 2 3 ∧ t.spool = s.spool ∧ t.setup = s.setup)
      ∧ (1 ≤ e → e ≤ 254 → -126 ≤ u → u ≤ 126 → bitAt (wordAt gr 6) 31 = false → gPv gr = false →
        ((gStep gr).toNat < (r.step + 2).toNat ∨ (r.step + 2 = gStep gr ∧ gDone gr = 0)) →
        let lr := setFld (wordAt gr 6) 23 8 e.toNat
        Next (.numericsServiceStep i rem) s fun t =>
          noted t ∧ bytesKept s t [(s.groupAddr i, 128)]
            ∧ t.words (s.groupAddr i) 32 = withComplements (rateMoved gr lr (u % 256).toNat (r.step + 2))
            ∧ ∀ d ∈ s.svc.ranks, d.toNat ≠ s.deviceId → s.isCut d.toNat = false →
              Told s t d.toNat (groupMessage i 0 0 (RatePair.of lr (u % 256).toNat (r.step + 2)) []))) := by
  intro done noted
  have hexec := exec_numerics_combines h hrec hall hsteps hlast hle hex
  refine ⟨fun hk => next_numerics_still hexec hk, fun gr hk hsound hclean hi hlen hg => ?_⟩
  have hg' := State.groupWords_noted (g := g) (done := done) hsound hclean hi hlen hg
  exact ⟨fun hout => next_numerics_limit hexec hk hsound hg' hout, fun he he' hu hu' hsign hpv hahead =>
    next_numerics_moves hexec hk hsound hi hclean hlen hg' rfl rfl he he' hu hu' hsign hpv hahead⟩

end

end Sys2Proof.Machine
end

section
open Sys2Proof Sys2Proof.Machine Sys2Proof.Claims

/-- Settles O56, service by service: a checkpoint's copy as writes of sound memory, recovery by its stages, the numerics service by what
the combined DMAX is, and the relay by what the staging and release counters have reached. -/
theorem backgroundServices : Obligations.BackgroundServices := by
  unfold Obligations.BackgroundServices
  intro s
  refine ⟨checkpointing s, recovering s, fun i rem h => exec_numerics_unknown h, fun i rem g s1 h hrec => exec_numerics_unread h hrec,
    fun i rem g l r rs h hrec hall => ⟨exec_numerics_waits h hrec hall, fun hsteps hlast k hle hex =>
      numericsServiceStep_combines h hrec hall hsteps hlast hle hex⟩,
    fun k h => ⟨exec_inputBatchArrival_none h, exec_inputSlotFreed_none h⟩, fun k x h hsize => ?_, fun k x h => ?_⟩
  · exact fun hsound hclean => inputBatchArrival_spec h hsize hsound hclean
  · exact ⟨exec_inputSlotFreed_early h, fun hv hmore dev lpn off port hnode hroute hoff hcut =>
      inputSlotFreed_credit h hv hmore hnode hroute hoff hcut⟩

end
